-- ==== Sys2Proof/Word.lean ====
section
/-! DEFINITION. The words of the module: bytes and 32-bit words (R1, R2 of spec/00_scope.md). -/

namespace Sys2Proof

/-- One byte of memory, of a record or of a message. -/
abbrev Byte := BitVec 8

/-- One 32-bit word: a control or status register (R8). -/
abbrev Word := BitVec 32

end Sys2Proof
end

