-- ==== Sys2Proof/Syntax.lean ====
section
/-! DEFINITION. The commands of the module: one constructor for every row of spec/opcode_table.json, with its operands.

The rows give no bits, so a command has no encoding.  Operands say which unit acts and carry what comes from
outside the block: message bytes, records, measured values and the outcomes of physical or cryptographic checks.
Unit indices follow R11 of spec/00_scope.md. -/

namespace Sys2Proof

/-- Sagger index (R11). -/
abbrev SaggerIx := Fin 12
/-- Wheel index (R11). -/
abbrev WheelIx := Fin 144
/-- Lane of a wheel (R11). -/
abbrev LaneIx := Fin 128
/-- Tile-register buffer of a wheel (R65). -/
abbrev BufIx := Fin 2
/-- Compute die: 0 west, 1 east (R11). -/
abbrev DieIx := Fin 2
/-- Shelf, and the LDU of that shelf (R11). -/
abbrev ShelfIx := Fin 12
/-- HBM3 stack (R11). -/
abbrev StackIx := Fin 16
/-- Port: 0 to 5 are the lattice ports L0 to L5, 6 is the lute port (R353). -/
abbrev PortIx := Fin 7
/-- Shomu link (R381). -/
abbrev LinkIx := Fin 2
/-- Shomu channel (R388). -/
abbrev ChanIx := Fin 64
/-- Management session: at most four are open (R418). -/
abbrev SessIx := Fin 4

/-- A tally: its sagger (0 to 11, or 15 for the house tallies) and its index (R333, R341). -/
structure TallyId where
  sagger : BitVec 4
  index  : BitVec 12
  deriving DecidableEq, Repr

/-- A management command as it arrives: the session, and the header and payload of R419. -/
structure MgmtArgs where
  /-- session that sends the command -/
  sess    : SessIx
  /-- SAGGER field of the header: 0 to 11, or 0xF for the device -/
  sagger  : BitVec 4
  /-- TAG field of the header -/
  tag     : BitVec 32
  /-- payload bytes -/
  payload : List Byte
  deriving DecidableEq, Repr

/-- What an error-correcting memory finds while it reads (R280, R301). -/
inductive Ecc where
  /-- no error -/
  | good
  /-- a correctable error -/
  | corrected
  /-- an uncorrectable error -/
  | uncorrectable
  deriving DecidableEq, Repr

/-- What an uncorrectable HBM error hit, the rows of R301. -/
inductive HbmData where
  /-- a weight region: the chunk is poisoned -/
  | weight
  /-- a KV page of one sequence, named by channel and REQ_ID of its request -/
  | kvPage (chan : BitVec 6) (reqId : BitVec 32)
  /-- a shared prefix page, named by its tree node -/
  | sharedPage (node : BitVec 32)
  /-- any other structure of a sagger -/
  | structure
  deriving DecidableEq, Repr

/-- A link frame that is no training record and no flit (R351, R367). -/
inductive LinkFrame where
  /-- an idle frame -/
  | idle
  /-- a heartbeat frame of 32 bytes -/
  | heartbeat (bytes : BitVec 256)
  /-- a time request, with the receipt time of the answerer's SerDes -/
  | timeRequest (sent : Int)
  deriving DecidableEq, Repr

/-- What a migration carries of one sequence slot besides its pages (R424): the slot at its source, the sequence record, the
page-table entries layer by layer, and the side words layer by layer. -/
structure MigrantSlot where
  slot    : BitVec 16
  record  : BitVec 512
  entries : List (BitVec 64)
  sides   : List (BitVec 32)
  deriving DecidableEq, Repr

/-- What a migration carries besides its pages (R424); the spec gives it no packet. -/
structure Migrant where
  /-- destination channel -/
  chan    : ChanIx
  tag     : BitVec 32
  /-- payload of the request's SUBMIT -/
  submit  : List Byte
  /-- output tokens fired, last first, and the penalty window -/
  out     : List (BitVec 32)
  window  : List (BitVec 32)
  /-- prompt and prefix positions of the DONE, submit time and time of the first fire -/
  prompt  : Nat
  prefix_ : Nat
  tSub    : Nat
  fire0   : Nat
  /-- the sequence's slot, then its draft slot -/
  slots   : List MigrantSlot
  deriving DecidableEq, Repr

/-- What the world and the calibration streams give one start sequence (R443 to R446, R500). -/
structure StartEnv where
  /-- REFCLK offset against the check oscillator in units of 0.01 ppm -/
  refclkPpm    : Int
  /-- the identity key was derived (R417) -/
  keyOk        : Bool
  /-- the bridge calibrated (R445) -/
  bridgeOk     : Bool
  /-- every stored value of a warm start passed its verification (R444) -/
  warmVerified : Bool
  /-- delay code chosen for each delay class, die 0 then die 1 (R445); 64 = no code reaches 5 % margin -/
  codes        : List Nat
  /-- pseudo-channels that failed training, numbered 32 × stack + pseudo-channel -/
  pchFailed    : List Nat
  /-- cone start readings t_L, normalised (R453, R454) -/
  coneStart    : List Nat
  /-- entropy of the security block and the certificate's public key, 1,952 B (R417) -/
  publicKey    : List Byte
  deriving DecidableEq, Repr

/-- The outcome of one BIST run, as the tested blocks give it (R450, R451). -/
structure BistEnv where
  /-- units found failed: byte offset and bit in the unusable map of R435 -/
  failed  : List (Nat × Nat)
  /-- the conditions of R450 held at the start and at every check -/
  conditions : Bool
  deriving DecidableEq, Repr

/-- One measurement of the cones (R453, R454). -/
structure ConeEnv where
  /-- for each die, the normalised t_L of its 48 cones -/
  tL     : List (List Nat)
  /-- for each die, the margin of its 48 cones in units of 0.01 % at their present codes -/
  margin : List (List Int)
  /-- for each die, the worst margin of its 32 delay classes between V_FLOOR and VCEIL, in units of 0.01 % -/
  classes : List (List Int)
  /-- for each die, the number of 10 mV steps of V_FLOOR that restores 8 % over the remaining range, if any does -/
  steps  : List (Option Nat)
  /-- heat-work added since the last measurement, in hours, per die -/
  heat   : List Nat
  deriving DecidableEq, Repr

/-- The commands: one constructor for each row of the table, in the table's order. -/
inductive Instr where
  -- power and throttling (R18 to R20)
  | replicaCountWindow (n0 n1 : Nat)
  | beatFactorUpdate
  | voltageSelect (power : Nat) (tj0 tj1 : Int) (hi0 hi1 : Nat)
  | throttleTick (power : Nat) (tj0 tj1 : Int)
  -- wheels (R65 to R133)
  | entryTake (g : SaggerIx)
  | fencePass (g : SaggerIx)
  | tileFillDone (w : WheelIx) (b : BufIx)
  | laneTakeJob (w : WheelIx) (lane : LaneIx)
  | jobEnd (w : WheelIx) (lane : LaneIx)
  | entryJoin (w : WheelIx) (b : BufIx)
  | entryDrain (w : WheelIx)
  | wheelHang (w : WheelIx)
  | slotCancelWheel (w : WheelIx) (slot : BitVec 16)
  | suspend (w : WheelIx) (saveAddr : BitVec 32)
  | suspendDone (w : WheelIx)
  | resume (w : WheelIx)
  | restoreContext (w : WheelIx)
  | listWrite (g : SaggerIx) (entry : BitVec 256)
  -- LDUs and SSUs (R134 to R172)
  -- recs: operation records that the setter has issued since the last item (R152, R159, R160)
  | lduTakeItem (l : ShelfIx) (recs : List (BitVec 256))
  | pageDescriptor (l : ShelfIx) (ecc : Ecc) (off : BitVec 17)
  | queryTileClose (l : ShelfIx)
  | tableRebuild (l : ShelfIx)
  | norm (l : ShelfIx)
  | prod (l : ShelfIx)
  | glu (l : ShelfIx)
  | outer (l : ShelfIx)
  | lduCancelSlot (l : ShelfIx) (slot : BitVec 16)
  | ssuStream (d : DieIx)
  | ssuKeyComplete (d : DieIx)
  | ssuApply (d : DieIx) (g : SaggerIx)
  -- attention and the KV cache (R173 to R208)
  | kvStoreWrite (g : SaggerIx) (slot : BitVec 16) (row : BitVec 16) (layer : BitVec 8) (kAddr vAddr : BitVec 32)
  | walkOpenTile (g : SaggerIx) (qAddr outAddr : BitVec 32)
  | slotCopy (g : SaggerIx)
  | compactCopy (g : SaggerIx)
  -- expert routing (R209 to R231)
  | routeRow (g : SaggerIx) (row : BitVec 32) (score : BitVec 32) (blocks shOut : List (BitVec 32))
  | layerClose (g : SaggerIx)
  | closeGluEmit (g : SaggerIx)
  | arenaResume (g : SaggerIx)
  | mixRun (g : SaggerIx) (outs : List (List (BitVec 32)))
  | luteToken
  | luteClose
  | luteDone (writes : List (BitVec 32 × List Byte))
  | luteEmpty
  -- the serving loop (R232 to R274, R498)
  | submit (ch : ChanIx)
  | cancel (ch : ChanIx)
  | budgetMessage (ch : ChanIx)
  | stepPlan (g : SaggerIx)
  | draftPass (g : SaggerIx) (slot : BitVec 16) (blocks : List (List (BitVec 32)))
  | sampleRow (g : SaggerIx) (slot : BitVec 16) (node : BitVec 6) (blocks : List (BitVec 32))
  | verifyTree (g : SaggerIx) (slot : BitVec 16)
  | firePoint (g : SaggerIx)
  | swapOutPage (g : SaggerIx) (slot : BitVec 16)
  | swapIn (g : SaggerIx) (slot : BitVec 16)
  -- memory tiers (R275 to R315)
  | slabRead (w : WheelIx) (offset : BitVec 22) (len : Nat) (ecc : Ecc)
  | slabWrite (w : WheelIx) (offset : BitVec 22) (data : List Byte)
  | slabClear (g : SaggerIx)
  | fill (g : SaggerIx) (rec : BitVec 128)
  | copy (g : SaggerIx) (rec : BitVec 128)
  | hload (g : SaggerIx) (rec : BitVec 128)
  | gather (g : SaggerIx) (rec : BitVec 128)
  | load (g : SaggerIx) (rec : BitVec 256)
  | loadLand (d : DieIx) (num : BitVec 16) (ecc : Ecc) (off : BitVec 22)
  | loadDemand (w : WheelIx) (b : BufIx)
  | narrowAccess (g : SaggerIx) (write : Bool) (addr : BitVec 41) (size : Nat) (data : List Byte) (ecc : Ecc) (hit : HbmData)
  | addS32 (g : SaggerIx) (rec : BitVec 128)
  | addS64 (g : SaggerIx) (rec : BitVec 128)
  | addF32 (g : SaggerIx) (rec : BitVec 128)
  | addS32Floor (g : SaggerIx) (rec : BitVec 128)
  | hbmPromote (st : StackIx) (id : Nat)
  | refreshTick (st : StackIx) (temp : Int)
  | frameScrub (st : StackIx) (ok : Bool)
  | storeRead (ns : BitVec 4) (page : Nat) (fails : Nat) (stripeFails : Bool)
  | disturbRelocate (ns : BitVec 4) (block : Nat)
  | chunkPoison (addr : BitVec 41)
  | chunkReload (addr : BitVec 41)
  | reloadSourceTimeout (addr : BitVec 41)
  -- glaze (R316 to R332)
  | streamHeaderCheck (sid : Nat)
  | blockExpand (d : DieIx)
  | refetchTimeout (sid : Nat) (block : BitVec 17)
  | blockCompress (d : DieIx)
  -- tallies (R333 to R346)
  | tallyConfig (t : TallyId) (cfg : BitVec 64)
  | signal (t : TallyId) (n : BitVec 16) (blocking : Bool) (agent : BitVec 13) (by_ : BitVec 4)
  | signalUnblock (t : TallyId)
  | release (t : TallyId) (n : BitVec 16) (agent : BitVec 13) (by_ : BitVec 4)
  | wait (t : TallyId) (target : BitVec 48) (consume : Bool) (agent : BitVec 13) (by_ : BitVec 4)
  | read (t : TallyId) (d : DieIx)
  | tallyShadowWrite (t : TallyId)
  | deadlockDetect (k : BitVec 4)
  -- lattice, kiln and lute (R347 to R380)
  | portEnable (p : PortIx)
  | trainingRecord (p : PortIx) (rec : BitVec 256) (locked : BitVec 12)
  | portTrainTimeout (p : PortIx) (locked : BitVec 12)
  | portTrainRetry (p : PortIx)
  | fastRetrain (p : PortIx) (locked : BitVec 12)
  | fastRetrainTimeout (p : PortIx)
  | groupErrorExclude (p : PortIx) (group : BitVec 4)
  | latticeFlit (p : PortIx) (seq : BitVec 16) (crcOk : Bool) (vc : Fin 9) (payload : List Byte) (ack : Option (BitVec 16))
      (grants : List (Fin 9 × Nat))
  | latticeNak (p : PortIx) (seq : BitVec 16)
  | latticeHeartbeatSend (p : PortIx)
  | linkFrameSend (p : PortIx)
  | latticeLossDetect (p : PortIx)
  | packetRoute (p : PortIx) (vc : Fin 9)
  | loss
  | restore
  | apexLossWindow (coord : BitVec 11)
  | timeSync (t1 t2 t3 t4 : Int)
  | tsyncEdge
  | timebaseSecond
  | sliceJoin
  | sliceAck
  | sliceFormTimeout (slice : BitVec 16)
  | sliceMark
  | sliceStop
  | sliceLeave
  | streamHdr (mig : Option Migrant)
  | streamBlk
  | blkReq
  | streamReq
  | chunkReq
  | streamEnd
  | unreachable
  | pairForm
  | luteWrite
  | luteRead
  | luteReadRsp
  | luteAtomic
  | luteAtomicRsp
  | luteTally
  | luteMirror
  | pairStop
  -- the Shomu link (R381 to R408)
  | shomuLinkTrain (k : LinkIx) (locked : BitVec 16)
  | shomuTrainingRecord (k : LinkIx) (rec : BitVec 256)
  | shomuTrainTimeout (k : LinkIx)
  | shomuTrainRetry (k : LinkIx)
  | shomuFastRetrain (k : LinkIx) (faulty : BitVec 16)
  | shomuFlit (k : LinkIx) (bytes : List Byte)
  | shomuNak (k : LinkIx) (seq : BitVec 12)
  | credit (k : LinkIx) (grants : List (BitVec 64))
  | frameReceive (k : LinkIx)
  | statusReq (ch : ChanIx)
  | attestReq (ch : ChanIx)
  | keyOffer (ch : ChanIx)
  | keySlotRetireTimeout (ch : ChanIx)
  | swapWr (ch : ChanIx)
  | swapRd (ch : ChanIx)
  | swapAck (ch : ChanIx)
  | swapData (ch : ChanIx)
  | swapErr (ch : ChanIx)
  | swapTimeout (k : LinkIx) (tag : BitVec 32)
  | shomuHeartbeatSend (k : LinkIx)
  | heartbeat (k : LinkIx)
  | shomuLossDetect (k : LinkIx)
  | lossRequestEnd (g : SaggerIx)
  -- management (R409 to R429, R499, R475)
  | mgmtHandshake (addr : BitVec 128) (keyDigest : BitVec 256) (tlsOk : Bool)
  | addressRefusalExpire (addr : BitVec 128)
  | mgmtSessionClose (sess : SessIx)
  | getCert (m : MgmtArgs)
  | attest (m : MgmtArgs)
  | attestSnapshot
  | csrRead (m : MgmtArgs)
  | csrWrite (m : MgmtArgs)
  | stepRead (m : MgmtArgs)
  | faultRead (m : MgmtArgs)
  | budget (m : MgmtArgs)
  | saggerReset (m : MgmtArgs)
  | saggerClear (m : MgmtArgs)
  | clearComplete (g : SaggerIx)
  | imageWrite (m : MgmtArgs)
  | imageCommit (m : MgmtArgs)
  | imageErase (m : MgmtArgs)
  | imageLoad (m : MgmtArgs)
  | imageRemove (m : MgmtArgs)
  | fwBegin (m : MgmtArgs)
  | fwData (m : MgmtArgs)
  | fwCommit (m : MgmtArgs)
  | fwAbort (m : MgmtArgs)
  | sliceForm (m : MgmtArgs)
  | sliceDissolve (m : MgmtArgs)
  | migrate (m : MgmtArgs)
  | shutdown (m : MgmtArgs) (env : BistEnv)
  -- boot, health, faults, signals and power (R430 to R500)
  | bistConditionCheck (refclkPpm : Int) (railsOk : Bool)
  | resetRelease (env : StartEnv)
  | coneMeasure (env : ConeEnv)
  | bisqueEntry (reason : BitVec 8)
  | faultLogEnter
  | saggerResetSequence (g : SaggerIx) (refFails : List Nat)
  | setterProbe (g : SaggerIx) (answers : Bool)
  | setterProbeTimeout (g : SaggerIx)
  | trip (junction stack : Int) (refclkPpm : Option Int)
  | resetAssert
  | inputLockout
  | inputReturn (env : StartEnv)
  | moduleInsert
  | linkFrameReceive (p : PortIx) (frame : LinkFrame)
  | managementLinkChange (up : Bool) (addr : Bool)
  | refclkPpmUpdate (ppm : Int)
  deriving DecidableEq, Repr

end Sys2Proof
end

