-- ==== Sys2Proof/Decode.lean ====
section
/-! DEFINITION. Decoding a command from a word.

spec/opcode_table.json gives no row any bits, and no chapter gives the commands of the module an encoding: a command
is an event, a message or a record, each with the layout its own chapter gives.  So no word spells a command. -/

namespace Sys2Proof

/-- The command that a word of `nbits` bits spells by the table's bits: none, since no row of the table has bits. -/
def decodeTableWord (_nbits _w : Nat) : Option Instr := none

end Sys2Proof
end

