-- ==== Sys2Proof/Machine/ImageInfo.lean ====
section
/-! DEFINITION. What a model image tells the module: the parameters that the chapters of the spec name.

The spec gives no byte layout of an image, so an image's bytes stay bytes in the store, and these tables are what
`Config.imageInfo` reads from them. -/

namespace Sys2Proof.Machine

/-- The parameters of one mixture-of-experts layer (R209), with the layer-table entries of its projections. -/
structure MoeInfo where
  /-- E, routed experts -/
  experts   : Nat := 1
  /-- K_TOP, choices per token -/
  kTop      : Nat := 1
  /-- OVF, overflow depth -/
  ovf       : Nat := 0
  /-- CAP_F in units of 1/16 -/
  capF      : Nat := 16
  /-- CAP_MIN -/
  capMin    : Nat := 1
  /-- FLUSH_N, tokens per chunk -/
  flushN    : Nat := 16
  /-- ACT of the GLU records -/
  act       : Nat := 0
  /-- SHARED, a shared expert exists -/
  shared    : Bool := false
  /-- PREFETCH_N -/
  prefetchN : Nat := 0
  /-- PRED: per expert, up to four predicted experts of the next MoE layer -/
  pred      : List (List Nat) := []
  /-- XT_GU -/
  xtGu      : Nat := 0
  /-- XT_ACT -/
  xtAct     : Nat := 1
  /-- XT_DN -/
  xtDn      : Nat := 2
  /-- XT_MIX -/
  xtMix     : Nat := 3
  /-- layer-table entries of the gate, up and down projections of the experts -/
  gateLayer : Nat := 0
  upLayer   : Nat := 0
  downLayer : Nat := 0
  /-- per expert: first TILE_OFF (with the die in bit 21) of its gate, up and down tiles in the ware board -/
  expertTiles : List (Nat × Nat × Nat) := []
  /-- per expert: first weight-region unit (of 1 KiB) and units of its gate and up tiles -/
  expertSrc   : List (Nat × Nat) := []
  deriving DecidableEq, Repr, Inhabited

/-- One entry of the layer table: one weight matrix and its settings (R28, R35, R45, R75, R102, R106, R119). -/
structure LayerInfo where
  /-- weight format: 0 TP5, 1 T28, 2 TBM -/
  wfmt      : Nat := 1
  /-- MODE of its entries: D mode -/
  dMode     : Bool := false
  /-- SPLIT_T of its entries -/
  splitT    : Nat := 0
  /-- XSPLIT of its entries -/
  xsplit    : Bool := false
  /-- initial tile shift -/
  shift     : Nat := 0
  /-- PBASE of R102, signed -/
  pbase     : Int := 0
  /-- declared input activation format: 1 A4, 2 A8, 3 A16 -/
  inFmt     : Nat := 2
  /-- declared output activation format -/
  outFmt    : Nat := 2
  /-- outlier ratio exponent K: 0, or 2 to 7 -/
  outlierK  : Nat := 0
  /-- fall-back enabled -/
  fallback  : Bool := false
  /-- output block slot size that the image gives -/
  slot      : Nat := 1120
  /-- NB, input blocks -/
  nb        : Nat := 1
  /-- output width -/
  outputs   : Nat := 16
  /-- column scales, BF16 bit patterns -/
  scales    : List Nat := []
  /-- byte offset of its first tile in the weight region -/
  tileBase  : Nat := 0
  /-- TBM: the tile lengths in order -/
  tbmLens   : List Nat := []
  /-- residual target layer -/
  residual  : Option Nat := none
  /-- residual shift -/
  residShift : Nat := 0
  /-- the matrix is named for GATHER -/
  gathered  : Bool := false
  /-- its gathered input passes through a NORM -/
  viaNorm   : Bool := true
  /-- KSPAN in units of 2^-8 -/
  kspan     : Nat := 0
  /-- epsilon of NORM, log2 with 12 fractional bits; none = zero -/
  epsilon   : Option Int := none
  /-- operand matrices of the layer: first 4 KiB page in the weight region, columns, DIM_BLK, MSPAN -/
  operands  : List (Nat × Nat × Nat × Nat) := []
  /-- mixture-of-experts parameters, when the layer is a MoE layer -/
  moe       : Option MoeInfo := none
  deriving DecidableEq, Repr, Inhabited

/-- One adapter of the adapter table (chapter 05, "Adapters"). -/
structure AdapterInfo where
  /-- adapter index -/
  index     : Nat := 0
  /-- trainable -/
  trainable : Bool := false
  /-- rank r -/
  rank      : Nat := 1
  /-- offset and size of its gradient region in the adapter gradient area, in 4 KiB -/
  gradOff   : Nat := 0
  gradSize  : Nat := 0
  deriving DecidableEq, Repr, Inhabited

/-- What one model image carries (R12, R51, R166, R173, R176, R246, R310, R334). -/
structure ImageInfo where
  /-- format version: major and minor (R12) -/
  major     : Nat := 1
  minor     : Nat := 0
  /-- a reserved field of the image is non-zero (R3) -/
  reserved  : Bool := false
  /-- bytes of the whole image, of its header and of its weight region -/
  length    : Nat := 0
  headerLen : Nat := 0
  weightOff : Nat := 0
  weightLen : Nat := 0
  /-- SHAKE256 digest of every 64 KiB chunk of the weight region -/
  digests   : List (BitVec 256) := []
  /-- signer public key and signature, as byte ranges of the image -/
  keyOff    : Nat := 0
  sigOff    : Nat := 0
  /-- vocabulary size -/
  vocab     : Nat := 16
  /-- end token -/
  endToken  : Option Nat := none
  /-- KV heads, head dimension, query heads per KV head, K4/V4 -/
  hKv       : Nat := 8
  headDim   : Nat := 128
  qPerKv    : Nat := 1
  kv4       : Bool := false
  /-- exponent fields of the KV blocks: ((layer × H_kv + head) × 2 + isV) × blocks + block (R51) -/
  kvExps    : List Nat := []
  /-- R176 -/
  maxPos    : Nat := 1
  sinks     : Nat := 0
  window    : Nat := 0
  compactAt : Nat := 0
  compactTo : Nat := 0
  sInit     : Nat := 0
  scoreEvery : Nat := 1
  /-- R166 -/
  ssuN      : Nat := 64
  ssuAlpha  : Nat := 64
  /-- R246, in ns -/
  cFix      : Nat := 0
  cRow      : Nat := 0
  cPage     : Nat := 0
  /-- attention layers whose KV the model keeps -/
  attnLayers : Nat := 1
  /-- layer table -/
  layers    : List LayerInfo := []
  /-- adapter table -/
  adapters  : List AdapterInfo := []
  /-- tally table: index and configuration of R334 -/
  tallies   : List (Nat × Nat) := []
  /-- the tally that orders the adapter path -/
  adapterTally : Nat := 0
  deriving DecidableEq, Repr, Inhabited

end Sys2Proof.Machine
end

