-- ==== Sys2Proof/Machine/Reg.lean ====
section
/-! DEFINITION. The control and status registers: their names and the register map of R473 and R474
(spec/17_register_map.md).  A name written "pair" there is one register here, read as two words under R9. -/

namespace Sys2Proof.Machine

/-- The 22 CSR blocks of R473. -/
inductive Block where
  | top | shf | whl | slb | wbd | hbm | mst | glz | tly | lat | lut | shl | mgt | sec | con | bst | smp | xrt | ldu | ssu | atn | sgr
  deriving DecidableEq, Repr

/-- Every register of R474. -/
inductive Reg where
  /-- TOP_FLT_DATA0 to TOP_FLT_DATA15 -/
  | topFltData (i : Fin 16)
  -- TOP_
  | topPart
  | topStepping
  | topProto
  | topSignals
  | topScratch
  | topFltStatus
  | topFltNext
  | topFltFirst4
  | topFltSel
  | topFltLost
  | topFltClr
  -- SHF_
  | shfSel
  | shfStatus
  -- WHL_
  | whlSel
  | whlStatus
  | whlCntClr
  | whlEntries
  | whlSplits
  | whlCancelJobs
  | whlCtx
  | whlCtxSave
  | whlCtxCount
  | whlBeats
  | whlLaneBeats
  | whlIdleLaneBeats
  | whlBankBeats
  | whlStallTile
  | whlStallSlab
  | whlStallFence
  | whlStallList
  -- SLB_
  | slbSel
  | slbStatus
  | slbCe
  | slbUe
  | slbInvalidRd
  | slbClears
  | slbCntClr
  | slbOpBytes
  -- WBD_
  | wbdSel
  | wbdStatus
  | wbdDemand
  | wbdSquash
  | wbdPoisonUnits
  | wbdCntClr
  | wbdLoadBytes
  | wbdHoldWaitNs
  -- HBM_
  | hbmSel
  | hbmStatus
  | hbmPcFail
  | hbmCe
  | hbmUe
  | hbmScrubbed
  | hbmRetired
  | hbmPoisonOpen
  | hbmCntClr
  | hbmRdBytes
  | hbmWrBytes
  | hbmNarrow
  | hbmAtomic
  -- MST_
  | mstStatus
  | mstChFail
  | mstNsLock
  | mstRetry
  | mstRecon
  | mstUncorr
  | mstDisturb
  | mstReloadPeer
  | mstReloadStore
  | mstReloadFail
  | mstCntClr
  | mstReadBytes
  -- GLZ_
  | glzSel
  | glzStatus
  | glzStored
  | glzToken
  | glzZero
  | glzDamaged
  | glzRefetch
  | glzFailed
  | glzDup
  | glzCntClr
  | glzInBytes
  | glzOutBytes
  | glzCmpBytes
  | glzQfullNs
  -- TLY_
  | tlySel
  | tlySnap
  | tlyCfgLo
  | tlyCfgHi
  | tlyProd
  | tlyCons
  | tlyState
  | tlyLast
  | tlyWsel
  | tlyWaiter
  | tlyWtgt
  | tlyDlSel
  | tlyDlData
  | tlyDlStatus
  | tlyDlCount
  -- LAT_
  | latSel
  | latCtl
  | latStatus
  | latNbrAt
  | latReplay
  | latCrc
  | latDetour
  | latDrop
  | latLoss
  | latRetrain
  | latCntClr
  | latNbrId
  | latTxBytes
  | latRxBytes
  | latFwdBytes
  | latCoord
  | latTb
  | latTbState
  | latTbSet
  | latTbApply
  | latSlices
  -- LUT_
  | lutStatus
  | lutGroups
  | lutSaggers
  | lutRemoteRd
  | lutRemoteWr
  | lutReplay
  | lutStops
  | lutCntClr
  | lutPartnerId
  | lutTxBytes
  | lutRxBytes
  -- SHL_
  | shlSel
  | shlCtl
  | shlStatus
  | shlLanes
  | shlWindow
  | shlReplay
  | shlCrc
  | shlRetrain
  | shlLoss
  | shlCntClr
  | shlTxBytes
  | shlRxBytes
  | shlChSel
  | shlChStatus
  | shlChRotate
  | shlChRetireTo
  | shlChReissue
  | shlChStale
  | shlChAuthfail
  -- MGT_
  | mgtStatus
  | mgtCred
  | mgtCmds
  | mgtDenied
  | mgtAuthFail
  | mgtCntClr
  -- SEC_
  | secId
  | secIdStatus
  | secBoot
  | secFwSvn
  | secStage
  | secSgrState0
  | secSgrState1
  | secAttest
  -- CON_
  | conBeatFactor
  | conSel
  | conStatus
  | conMargin
  | conAge
  | conHeat
  | conCode
  | conMeas
  | conReplans
  | conThrottle
  | conLast
  | conThrottleNs
  -- BST_
  | bstState
  | bstStartMs
  | bstBoots
  | bstLast
  | bstPlanSeq
  | bstSgrDown
  | bstMapSel
  | bstMapData
  -- SMP_
  | smpSel
  | smpStatus
  | smpGreedy
  | smpTrunc
  | smpCntClr
  | smpRows
  | smpBeats
  -- XRT_
  | xrtSel
  | xrtExpTokens
  | xrtExpFull
  | xrtExpRerouteIn
  | xrtExpDrop
  | xrtExpSkip
  | xrtPredIssued
  | xrtPredHit
  | xrtPredSquash
  | xrtEmptyTx
  | xrtEmptyRx
  | xrtCntClr
  | xrtRouted
  | xrtArenaStallNs
  -- LDU_
  | lduSel
  | lduStatus
  | lduRebuilds
  | lduRebuildSkips
  | lduL16Sat
  | lduL16Ufl
  | lduCancelRows
  | lduCntClr
  | lduCycles
  | lduTailCycles
  | lduRebuildNs
  | lduRowstallNs
  -- SSU_
  | ssuSel
  | ssuStatus
  | ssuApplied
  | ssuDiscard
  | ssuDrop
  | ssuCntClr
  | ssuEst
  -- ATN_
  | atnSel
  | atnFramesFree
  | atnFramesShared
  | atnPrefixHit
  | atnPrefixMiss
  | atnPrefixCollide
  | atnPublish
  | atnPublishSkip
  | atnEvict
  | atnCompact
  | atnCompactDefer
  | atnTreeCopies
  | atnCntClr
  | atnDesc
  | atnMasked
  | atnWalkStallNs
  | atnEvictedSlots
  | atnMoveBytes
  -- SGR_
  | sgrFmtSat
  | sgrFmtFallback
  | sgrFmtOutlier
  | sgrFmtViol
  | sgrFmtClr
  | sgrAccCtl
  | sgrAccRefire
  | sgrAccRaise
  | sgrAccClamp
  | sgrAccFlight
  | sgrAccClr
  | sgrResets
  | sgrResetLast
  | sgrStepPeriod
  | sgrStepNum
  | sgrStepLag
  | sgrStepDur
  | sgrStepRho
  | sgrStepLate
  | sgrStepTrim
  | sgrStepFlagged
  | sgrReqAdmit
  | sgrReqDone
  | sgrReqReject
  | sgrReqCancel
  | sgrPreempt
  | sgrEvicted
  | sgrBudgetOver
  | sgrQueued
  | sgrLoopClr
  | sgrTok
  | sgrTokLate
  | sgrSpecNodes
  | sgrSpecAccept
  | sgrSwapOut
  | sgrSwapIn
  | sgrTenSel
  | sgrTenPages
  | sgrTenPagesLim
  | sgrTenSeqs
  | sgrTenSeqsLim
  | sgrTenRate
  deriving DecidableEq, Repr

/-- How a register fills the words of its block from an offset on (R474). -/
inductive RegSlot where
  /-- one word -/
  | word (r : Reg)
  /-- two words, _LO first -/
  | pair (r : Reg)
  deriving DecidableEq, Repr

/-- The block at index `n` of the 64 KiB windows of R473 (address bits [31:16]), with the sagger of an SGR_ instance. -/
def blockAt (n : Nat) : Option (Block × Nat) :=
  match n with
  | 0 => some (.top, 0)
  | 1 => some (.shf, 0)
  | 2 => some (.whl, 0)
  | 3 => some (.slb, 0)
  | 4 => some (.wbd, 0)
  | 5 => some (.hbm, 0)
  | 6 => some (.mst, 0)
  | 7 => some (.glz, 0)
  | 8 => some (.tly, 0)
  | 9 => some (.lat, 0)
  | 10 => some (.lut, 0)
  | 11 => some (.shl, 0)
  | 12 => some (.mgt, 0)
  | 13 => some (.sec, 0)
  | 14 => some (.con, 0)
  | 15 => some (.bst, 0)
  | 16 => some (.smp, 0)
  | 17 => some (.xrt, 0)
  | 18 => some (.ldu, 0)
  | 19 => some (.ssu, 0)
  | 20 => some (.atn, 0)
  | n => if 32 ≤ n ∧ n < 44 then some (.sgr, n - 32) else none

/-- The rows of R474: for each block, the offset of a row and its registers in order. -/
def blockRows : Block → List (Nat × List RegSlot)
  | .top =>
    [(0x0000, [.word .topPart, .word .topStepping, .word .topProto, .word .topSignals, .word .topScratch]),
     (0x0100, [.word .topFltStatus, .word .topFltNext, .word .topFltFirst4, .word .topFltSel, .word .topFltLost, .word .topFltClr]),
     (0x0140, (List.finRange 16).map fun i => .word (.topFltData i))]
  | .shf =>
    [(0x0000, [.word .shfSel, .word .shfStatus])]
  | .whl =>
    [(0x0000, [.word .whlSel, .word .whlStatus, .word .whlCntClr, .word .whlEntries, .word .whlSplits, .word .whlCancelJobs, .word .whlCtx, .word .whlCtxSave, .word .whlCtxCount]),
     (0x0040, [.pair .whlBeats, .pair .whlLaneBeats, .pair .whlIdleLaneBeats, .pair .whlBankBeats, .pair .whlStallTile, .pair .whlStallSlab, .pair .whlStallFence, .pair .whlStallList])]
  | .slb =>
    [(0x0000, [.word .slbSel, .word .slbStatus, .word .slbCe, .word .slbUe, .word .slbInvalidRd, .word .slbClears, .word .slbCntClr]),
     (0x0040, [.pair .slbOpBytes])]
  | .wbd =>
    [(0x0000, [.word .wbdSel, .word .wbdStatus, .word .wbdDemand, .word .wbdSquash, .word .wbdPoisonUnits, .word .wbdCntClr]),
     (0x0040, [.pair .wbdLoadBytes, .pair .wbdHoldWaitNs])]
  | .hbm =>
    [(0x0000, [.word .hbmSel, .word .hbmStatus, .word .hbmPcFail, .word .hbmCe, .word .hbmUe, .word .hbmScrubbed, .word .hbmRetired, .word .hbmPoisonOpen, .word .hbmCntClr]),
     (0x0040, [.pair .hbmRdBytes, .pair .hbmWrBytes, .pair .hbmNarrow, .pair .hbmAtomic])]
  | .mst =>
    [(0x0000, [.word .mstStatus, .word .mstChFail, .word .mstNsLock, .word .mstRetry, .word .mstRecon, .word .mstUncorr, .word .mstDisturb, .word .mstReloadPeer, .word .mstReloadStore, .word .mstReloadFail, .word .mstCntClr]),
     (0x0040, [.pair .mstReadBytes])]
  | .glz =>
    [(0x0000, [.word .glzSel, .word .glzStatus, .word .glzStored, .word .glzToken, .word .glzZero, .word .glzDamaged, .word .glzRefetch, .word .glzFailed, .word .glzDup, .word .glzCntClr]),
     (0x0040, [.pair .glzInBytes, .pair .glzOutBytes, .pair .glzCmpBytes, .pair .glzQfullNs])]
  | .tly =>
    [(0x0000, [.word .tlySel, .word .tlySnap, .word .tlyCfgLo, .word .tlyCfgHi, .pair .tlyProd, .pair .tlyCons, .word .tlyState, .word .tlyLast, .word .tlyWsel, .word .tlyWaiter, .pair .tlyWtgt]),
     (0x0100, [.word .tlyDlSel, .word .tlyDlData, .word .tlyDlStatus, .word .tlyDlCount])]
  | .lat =>
    [(0x0000, [.word .latSel, .word .latCtl, .word .latStatus, .word .latNbrAt, .word .latReplay, .word .latCrc, .word .latDetour, .word .latDrop, .word .latLoss, .word .latRetrain, .word .latCntClr]),
     (0x0040, [.pair .latNbrId, .pair .latTxBytes, .pair .latRxBytes, .pair .latFwdBytes]),
     (0x0100, [.word .latCoord, .pair .latTb, .word .latTbState, .pair .latTbSet, .word .latTbApply, .word .latSlices])]
  | .lut =>
    [(0x0000, [.word .lutStatus, .word .lutGroups, .word .lutSaggers, .word .lutRemoteRd, .word .lutRemoteWr, .word .lutReplay, .word .lutStops, .word .lutCntClr]),
     (0x0040, [.pair .lutPartnerId, .pair .lutTxBytes, .pair .lutRxBytes])]
  | .shl =>
    [(0x0000, [.word .shlSel, .word .shlCtl, .word .shlStatus, .word .shlLanes, .word .shlWindow, .word .shlReplay, .word .shlCrc, .word .shlRetrain, .word .shlLoss, .word .shlCntClr]),
     (0x0040, [.pair .shlTxBytes, .pair .shlRxBytes]),
     (0x0100, [.word .shlChSel, .word .shlChStatus, .word .shlChRotate, .word .shlChRetireTo, .word .shlChReissue, .word .shlChStale, .word .shlChAuthfail])]
  | .mgt =>
    [(0x0000, [.word .mgtStatus, .word .mgtCred, .word .mgtCmds, .word .mgtDenied, .word .mgtAuthFail, .word .mgtCntClr])]
  | .sec =>
    [(0x0000, [.pair .secId, .word .secIdStatus, .word .secBoot, .word .secFwSvn, .word .secStage, .word .secSgrState0, .word .secSgrState1, .word .secAttest])]
  | .con =>
    [(0x0000, [.word .conBeatFactor, .word .conSel, .word .conStatus, .word .conMargin, .word .conAge, .word .conHeat, .word .conCode, .word .conMeas, .word .conReplans, .word .conThrottle]),
     (0x0040, [.pair .conLast, .pair .conThrottleNs])]
  | .bst =>
    [(0x0000, [.word .bstState, .word .bstStartMs, .word .bstBoots, .word .bstLast, .word .bstPlanSeq, .word .bstSgrDown, .word .bstMapSel, .word .bstMapData])]
  | .smp =>
    [(0x0000, [.word .smpSel, .word .smpStatus, .word .smpGreedy, .word .smpTrunc, .word .smpCntClr]),
     (0x0040, [.pair .smpRows, .pair .smpBeats])]
  | .xrt =>
    [(0x0000, [.word .xrtSel, .word .xrtExpTokens, .word .xrtExpFull, .word .xrtExpRerouteIn, .word .xrtExpDrop, .word .xrtExpSkip, .word .xrtPredIssued, .word .xrtPredHit, .word .xrtPredSquash, .word .xrtEmptyTx, .word .xrtEmptyRx, .word .xrtCntClr]),
     (0x0040, [.pair .xrtRouted, .pair .xrtArenaStallNs])]
  | .ldu =>
    [(0x0000, [.word .lduSel, .word .lduStatus, .word .lduRebuilds, .word .lduRebuildSkips, .word .lduL16Sat, .word .lduL16Ufl, .word .lduCancelRows, .word .lduCntClr]),
     (0x0040, [.pair .lduCycles, .pair .lduTailCycles, .pair .lduRebuildNs, .pair .lduRowstallNs])]
  | .ssu =>
    [(0x0000, [.word .ssuSel, .word .ssuStatus, .word .ssuApplied, .word .ssuDiscard, .word .ssuDrop, .word .ssuCntClr]),
     (0x0040, [.pair .ssuEst])]
  | .atn =>
    [(0x0000, [.word .atnSel, .word .atnFramesFree, .word .atnFramesShared, .word .atnPrefixHit, .word .atnPrefixMiss, .word .atnPrefixCollide, .word .atnPublish, .word .atnPublishSkip, .word .atnEvict, .word .atnCompact, .word .atnCompactDefer, .word .atnTreeCopies, .word .atnCntClr]),
     (0x0040, [.pair .atnDesc, .pair .atnMasked, .pair .atnWalkStallNs, .pair .atnEvictedSlots, .pair .atnMoveBytes])]
  | .sgr =>
    [(0x0000, [.word .sgrFmtSat, .word .sgrFmtFallback, .word .sgrFmtOutlier, .word .sgrFmtViol, .word .sgrFmtClr]),
     (0x0020, [.word .sgrAccCtl, .word .sgrAccRefire, .word .sgrAccRaise, .word .sgrAccClamp, .word .sgrAccFlight, .word .sgrAccClr]),
     (0x0040, [.word .sgrResets, .word .sgrResetLast]),
     (0x0100, [.word .sgrStepPeriod, .pair .sgrStepNum, .word .sgrStepLag, .word .sgrStepDur, .word .sgrStepRho, .word .sgrStepLate, .word .sgrStepTrim, .word .sgrStepFlagged, .word .sgrReqAdmit, .word .sgrReqDone, .word .sgrReqReject, .word .sgrReqCancel, .word .sgrPreempt, .word .sgrEvicted, .word .sgrBudgetOver, .word .sgrQueued, .word .sgrLoopClr]),
     (0x0180, [.pair .sgrTok, .pair .sgrTokLate, .pair .sgrSpecNodes, .pair .sgrSpecAccept, .pair .sgrSwapOut, .pair .sgrSwapIn]),
     (0x0200, [.word .sgrTenSel, .word .sgrTenPages, .word .sgrTenPagesLim, .word .sgrTenSeqs, .word .sgrTenSeqsLim, .word .sgrTenRate])]

/-- One addressed word of a register. -/
inductive RegWord where
  /-- the whole of a one-word register -/
  | whole (r : Reg)
  /-- the lower word of a pair: bits [31:0] -/
  | lo (r : Reg)
  /-- the upper word of a pair: bits [63:32] -/
  | hi (r : Reg)
  deriving DecidableEq, Repr

/-- The register word at byte offset `off` of a row that begins at `at_`. -/
def rowWord (off : Nat) : Nat → List RegSlot → Option RegWord
  | _, [] => none
  | at_, .word r :: rest => if off = at_ then some (.whole r) else rowWord off (at_ + 4) rest
  | at_, .pair r :: rest =>
    if off = at_ then some (.lo r) else if off = at_ + 4 then some (.hi r) else rowWord off (at_ + 8) rest

/-- The register word at byte offset `off` of a block; none in a gap of R474. -/
def blockWord (b : Block) (off : Nat) : Option RegWord :=
  (blockRows b).findSome? fun row => rowWord off row.1 row.2

/-- Registers that occupy two words. -/
def allPairs (b : Block) : List Reg :=
  (blockRows b).flatMap fun row => row.2.filterMap fun
    | .pair r => some r
    | .word _ => none

end Sys2Proof.Machine
end

