-- ==== Sys2Proof/Machine/State.lean ====
section
/-! DEFINITION. The state of the module: plain data that holds every register, queue, buffer, table, memory, mode and
pin the spec names, the queue of waiting commands, and the state at power-on.

Indices of units are numbers under R11.  A `Tab` lists only the units that differ from their reset value. -/

namespace Sys2Proof.Machine

/-- A table from unit numbers to values, kept sorted by number; an unlisted unit has its reset value. -/
abbrev Tab (α : Type) := List (Nat × α)

/-- Sparse bytes by address, sorted, without repeats and without zero bytes: an unlisted byte reads 0 (R446). -/
abbrev Mem := List Host.Cell

/-- The exact number m × 2^e. -/
structure Dyad where
  m : Int := 0
  e : Int := 0
  deriving DecidableEq, Repr, Inhabited

/-! ## Faults and refusals of the model -/

/-- Reasons for which a command stops the whole machine: the spec gives none, every fault of the module is a fault
record (R461) and the module goes on. -/
inductive Fault where
  deriving DecidableEq, Repr

/-- Reasons for which the model gives a command no meaning. -/
inductive Refusal where
  /-- raised by an arm of exec whose command has no meaning yet; safe -/
  | notModelled (mnemonic : String)
  /-- raised by a meaning whose operands are not those of any command (a flit of the wrong size); safe -/
  | illFormed (mnemonic : String)
  deriving DecidableEq, Repr

/-! ## Fault records (chapter 16) -/

/-- The request that a record names (REQV = 1, R462). -/
structure ReqName where
  reqId : BitVec 32
  slot  : BitVec 16 := 0
  chan  : BitVec 6
  deriving DecidableEq, Repr

/-- A fault record (R462). -/
structure FaultRec where
  code       : BitVec 16 := 0
  sagger     : BitVec 4 := 15
  level      : Nat := 0
  seq        : BitVec 32 := 0
  time       : Nat := 0
  unit       : Nat := 0
  subunit    : Nat := 0
  req        : Option ReqName := none
  step       : Nat := 0
  addr       : Nat := 0
  info       : List Byte := []
  suppressed : Nat := 0
  deriving DecidableEq, Repr

/-- The last written record of a rate limit and what it has withheld since (R462). -/
structure RateLimit where
  code    : BitVec 16
  unit    : Nat
  /-- bank or other subunit that the limit is kept for -/
  sub     : Nat := 0
  since   : Nat
  withheld : Nat := 0
  deriving DecidableEq, Repr

/-- Fault collection by house setter 12 (R463, R471). -/
structure FaultLog where
  /-- detected records that have not entered the log, oldest first -/
  detected : List FaultRec := []
  /-- the ring of 4,096 records, oldest first -/
  ring     : List FaultRec := []
  /-- SEQ of the next record -/
  next     : BitVec 32 := 0
  /-- TOP_FLT_FIRST4 -/
  first4   : BitVec 32 := 0
  /-- TOP_FLT_STATUS.DEV and OVERFLOW -/
  dev      : Bool := false
  overflow : Bool := false
  /-- rate limits in force -/
  limits   : List RateLimit := []
  deriving DecidableEq, Repr

/-! ## The setting plan (R436 to R441), as the firmware holds it after its check -/

/-- DEVICE record (R438). -/
structure PlanDevice where
  powerCap : Nat := 1500
  vceil    : Nat := 900
  bifur    : Bool := false
  learn    : Bool := false
  role     : Nat := 0
  latOff   : BitVec 6 := 0
  luted    : BitVec 12 := 0
  partner  : BitVec 64 := 0
  ip6      : BitVec 128 := 0
  ip6Prefix : Nat := 0
  ip4Prefix : Nat := 0
  ip4      : BitVec 32 := 0
  deriving DecidableEq, Repr

/-- KILN section (R441): kiln map of chapter 12. -/
structure PlanKiln where
  kilnId : BitVec 32 := 0
  x : Nat := 1
  y : Nat := 1
  z : Nat := 1
  own    : BitVec 11 := 0
  apex   : BitVec 11 := 0
  backup : BitVec 11 := 0
  ids    : List (BitVec 64) := []
  deriving DecidableEq, Repr

/-- STRATA record (R441); KIND 1 OWNED, 2 SHARED_W. -/
structure PlanStratum where
  stratum : Nat
  kind    : Nat
  owner   : Nat
  readers : BitVec 12
  deriving DecidableEq, Repr

/-- SAGGER record (R439). -/
structure PlanSagger where
  sagger     : Nat
  shelves    : BitVec 12 := 0
  hostBudget : Bool := false
  scopeBind  : Bool := false
  pT         : Nat := 100000
  pendingMax : Nat := 1
  tenantsMax : Nat := 1
  chunkMax   : Nat := 64
  penwinMax  : Nat := 0
  minShelves : Nat := 1
  minLdus    : Nat := 1
  minStrata  : Nat := 1
  wbd0Base   : Nat := 0
  wbd0Size   : Nat := 0
  wbd1Base   : Nat := 0
  wbd1Size   : Nat := 0
  swapOff    : Nat := 0
  swapSize   : Nat := 0
  namespaces : BitVec 16 := 0
  deriving DecidableEq, Repr

/-- PLACE record (R440). -/
structure PlanPlace where
  type   : Nat
  sagger : Nat
  base   : Nat
  count  : Nat
  deriving DecidableEq, Repr

/-- CHANNEL record (R441). -/
structure PlanChannel where
  chan   : Nat
  sagger : Nat
  policy : Nat
  buf    : Nat
  deriving DecidableEq, Repr

/-- A budget: the payload of R240. -/
structure Budget where
  tenant : Nat := 0
  pages  : Nat := 0
  seqs   : Nat := 0
  rate   : Nat := 0
  burst  : Nat := 0
  deriving DecidableEq, Repr

/-- The running setting plan. -/
structure Plan where
  seq        : Nat := 0
  ownerPub   : List Byte := []
  device     : PlanDevice := {}
  kiln       : PlanKiln := {}
  strata     : List PlanStratum := []
  saggers    : List PlanSagger := []
  places     : List PlanPlace := []
  channels   : List PlanChannel := []
  hostKeys   : List (Nat × BitVec 256) := []
  tenants    : List (Nat × Budget) := []
  creds      : List (BitVec 3 × BitVec 256) := []
  namespaces : List (Nat × BitVec 12 × Nat) := []
  signers    : List (Nat × BitVec 256) := []
  tallies    : List (Nat × Nat × BitVec 64) := []
  /-- digest of the plan's bytes, KIND 0x04 of R425 -/
  digest     : BitVec 256 := 0
  /-- the plan's bytes -/
  bytes      : List Byte := []
  deriving DecidableEq, Repr

/-! ## Wheels (chapters 03 and 04) -/

/-- Buffer state of R80. -/
inductive BufState where
  | free | fill | ready | run | drain
  deriving DecidableEq, Repr

/-- The fields of a TILE entry (R87). -/
structure Entry where
  dMode    : Bool := false
  map      : Nat := 0
  wfmt     : Nat := 1
  preload  : Bool := false
  xsplit   : Bool := false
  splitT   : Nat := 0
  layer    : Nat := 0
  tileOff  : Nat := 0
  tileDie  : Nat := 0
  tileLen  : Nat := 2048
  tokN     : Nat := 1
  tokList  : BitVec 32 := 0
  partAddr : BitVec 32 := 0
  outGroup : Nat := 0
  inBlock  : Nat := 0
  preAddr  : BitVec 32 := 0
  tally    : Nat := 0
  shift    : Nat := 0
  deriving DecidableEq, Repr

/-- One element of an activation block: mantissa and the exponent field it is stored under (R37, R42). -/
structure Elem where
  m : Int := 0
  e : Nat := 0
  deriving DecidableEq, Repr

/-- State of a lane job (R69). -/
inductive JobState where
  | untaken | running (lane : Nat) | ended | dropped
  deriving DecidableEq, Repr

/-- A lane job (R68, R76, R77): token position, quarter, split index, and its range of terms (D mode) or inputs (W mode). -/
structure Job where
  tok     : Nat
  quarter : Nat
  split   : Nat := 0
  splits  : Nat := 1
  lo      : Nat
  hi      : Nat
  st      : JobState := .untaken
  deriving DecidableEq, Repr

/-- A merge slot of split jobs: key and exact sums (R107). -/
structure Merge where
  tok     : Nat
  quarter : Nat
  left    : Nat
  vals    : List Dyad
  deriving DecidableEq, Repr

/-- One tile-register buffer with the state of its entry (R65, R80, R107). -/
structure Buf where
  st      : BufState := .free
  sagger  : Nat := 0
  raw     : BitVec 256 := 0
  entry   : Entry := {}
  /-- units held, with the ARM recorded at the take (R287) -/
  holds   : List (Nat × Nat) := []
  /-- decoded tile: 16 rows of 1,024 weights -/
  tile    : List (List Int) := []
  poisoned : Bool := false
  /-- tokens of the token list: slab address and slot (R89) -/
  toks    : List (BitVec 32 × BitVec 16) := []
  /-- decoded token-blocks -/
  blocks  : List (List Elem) := []
  /-- preload values and their shift (R100) -/
  pre     : List (List Int) := []
  preShift : Nat := 0
  jobs    : List Job := []
  /-- staged P32 values: token, output column, value -/
  staged  : List (Nat × Nat × Int) := []
  merges  : List Merge := []
  /-- current tile shift s, re-fires and clamps -/
  s       : Nat := 0
  refires : Nat := 0
  clamps  : Nat := 0
  deriving DecidableEq, Repr

/-- A lane: its job, and its long registers and preload cells (R98, R100). -/
structure Lane where
  /-- buffer and job index -/
  job   : Option (Nat × Nat) := none
  /-- four long registers A, their base b, and the four preload cells with their shift -/
  lreg  : List Int := []
  base  : Int := 0
  pcell : List Int := []
  pshift : Nat := 0
  deriving DecidableEq, Repr

/-- A saved wheel context (R128, R132). -/
structure WheelCtx where
  addr  : BitVec 32
  buf0  : Buf
  buf1  : Buf
  older : Nat
  lanes : Tab Lane
  deriving DecidableEq, Repr

/-- A wheel (R65, R80, R97, R127, R132). -/
structure Wheel where
  buf0  : Buf := {}
  buf1  : Buf := {}
  /-- buffer that holds the older entry -/
  older : Nat := 0
  lanes : Tab Lane := []
  /-- WHL_STATUS.HANG -/
  hang  : Bool := false
  /-- slots received under R84 in the current step -/
  cancelled : List (BitVec 16) := []
  /-- saved context of a suspended wheel, WHL_CTX and WHL_CTX_SAVE -/
  ctx   : Option WheelCtx := none
  /-- SAVE_ADDR of a suspension in progress (SAVING) -/
  saving : Option (BitVec 32) := none
  /-- RESUME received, waiting for both buffers to be FREE (RESTORING) -/
  restoring : Bool := false
  /-- failed its reference tile: unusable for the rest of the start (R465) -/
  failed : Bool := false
  deriving DecidableEq, Repr

/-! ## Ware boards (chapter 09) -/

/-- A tracking unit (R286): ARM, LAND and the poison mark; ARM = LAND = 0 after memory initialisation (R446). -/
structure WareUnit where
  arm    : BitVec 16 := 0
  land   : BitVec 16 := 0
  poison : Bool := false
  /-- HBM address that the unit was loaded from -/
  src    : Option Nat := none
  deriving DecidableEq, Repr

/-- A pending load record (R291, R293). -/
structure Load where
  num    : BitVec 16
  sagger : Nat
  prio   : Nat
  pred   : Bool
  expert : Nat
  epoch  : Nat
  src    : Nat
  dst    : Nat
  len    : Nat
  tally  : Nat
  demand : Bool := false
  /-- since when it waits in its HBM class, and how often it has been promoted (R296) -/
  since  : Nat := 0
  promoted : Nat := 0
  deriving DecidableEq, Repr

/-- A die's ware board: queue, next load number and tracking units.  NEXT_NUM resets to 0 (R315), so the first load is load 0,
while R446 leaves ARM = LAND = 0 in every unit: the two rules are followed as they stand (DEDUCED, log entry 24). -/
structure Ware where
  queue : List Load := []
  next  : BitVec 16 := 0
  units : Tab WareUnit := []
  /-- requests of the routers that wait for room in the queue -/
  wait  : List Load := []
  deriving DecidableEq, Repr

/-! ## LDUs and SSUs (chapter 05) -/

/-- A partial sum in the stack of R144: its level, and its log2 with 12 fractional bits (none = zero). -/
structure LogPart where
  level : Nat
  val   : Option Int
  deriving DecidableEq, Repr

/-- One row of an open query tile: denominator stack and, per element, the stacks of P and N (R141, R144, R149). -/
structure RowState where
  den  : List LogPart := []
  pos  : List (List LogPart) := []
  neg  : List (List LogPart) := []
  deriving DecidableEq, Repr

/-- An open query tile of an LDU (R149, R150). -/
structure OpenTile where
  sagger : Nat
  qtile  : Nat
  slot   : BitVec 16
  layer  : Nat
  kvHead : Nat
  taken  : Nat := 0
  ndesc  : Nat
  rows   : List RowState
  masked : Bool := false
  /-- log2 weights t of scored positions: logical slot and one value per row (R164) -/
  scores : List (Nat × List (Option Int)) := []
  deriving DecidableEq, Repr

/-- An item of an LDU (R135). -/
inductive LduItem where
  /-- a page descriptor of a sagger -/
  | desc (sagger : Nat) (d : BitVec 128)
  /-- an operation record of a sagger -/
  | op (sagger : Nat) (r : BitVec 256)
  deriving DecidableEq, Repr

/-- An LDU (R134 to R163). -/
structure Ldu where
  /-- attention queue -/
  attnQ    : List (Nat × BitVec 128) := []
  /-- the item taken and not yet executed -/
  cur      : Option LduItem := none
  /-- the last item taken was an operation record -/
  lastOp   : Bool := false
  tiles    : List OpenTile := []
  /-- the query group that the active table serves: sagger, slot, layer and row (R146) -/
  group    : List Nat := []
  /-- STEP of the two adaptive banks; the fixed bank holds 32 (R147) -/
  bank0    : Nat := 0
  bank1    : Nat := 0
  active   : Nat := 0
  /-- STEP of a rebuild that has not completed -/
  rebuild  : Option Nat := none
  /-- slots received under R161 in the current step -/
  cancelled : List (BitVec 16) := []
  deriving DecidableEq, Repr

/-- A key of an SSU's assembly buffer (R168). -/
structure SsuKey where
  sagger : Nat
  slot   : BitVec 16
  layer  : Nat
  lslot  : Nat
  row    : Nat
  sum    : Nat := 0
  heads  : Nat := 0
  deriving DecidableEq, Repr

/-- A stream that an SSU has still to run: one position of a scored tile (R165). -/
structure SsuJob where
  sagger : Nat
  slot   : BitVec 16
  layer  : Nat
  lslot  : Nat
  row    : Nat
  /-- the rows' probabilities, quantised to 16 bits -/
  probs  : List Nat
  deriving DecidableEq, Repr

/-- An SSU (R164 to R172). -/
structure Ssu where
  jobs   : List SsuJob := []
  keys   : List SsuKey := []
  /-- complete keys not yet written to a score stage -/
  done   : List SsuKey := []
  seeded : Bool := false
  /-- N of the loaded network; 0 before a load -/
  n      : Nat := 0
  deriving DecidableEq, Repr

/-! ## Tallies (chapter 11) -/

/-- A registered wait (R336, R342). -/
structure Waiter where
  agent   : BitVec 13
  target  : BitVec 48
  consume : Bool
  deriving DecidableEq, Repr

/-- A blocking signal held at the bound (R337). -/
structure HeldSignal where
  agent : BitVec 13
  n     : Nat
  deriving DecidableEq, Repr

/-- A tally: configuration, counters, waiters and mirrors (R333 to R345). -/
structure Tally where
  /-- configuration record of R334; MODE 0 is OFF -/
  cfg     : BitVec 64 := 0
  prod    : BitVec 48 := 0
  cons    : BitVec 48 := 0
  waiters : List Waiter := []
  blocked : List HeldSignal := []
  exceeded : Bool := false
  last    : BitVec 13 := 0
  /-- mirror of the other die (R333) -/
  mirrorProd : BitVec 48 := 0
  mirrorCons : BitVec 48 := 0
  /-- PROD has advanced since the shadow word was written (R343) -/
  shadowDue : Bool := false
  deriving DecidableEq, Repr

/-! ## Model images and routing (chapters 07, 09 and 14) -/

/-- An image loaded into a sagger (R423). -/
structure LoadedImage where
  index   : Nat
  ns      : Nat
  off     : Nat
  strata  : List Nat
  measure : BitVec 256
  info    : ImageInfo
  damaged : Bool := false
  deriving DecidableEq, Repr

/-- State of a predicted expert (R223). -/
inductive PredState where
  | idle | predicted | confirmed | squashed
  deriving DecidableEq, Repr

/-- A chunk of an expert (R215). -/
structure Chunk where
  expert : Nat
  /-- rows of the step, their token slots and their input blocks -/
  rows   : List (Nat × BitVec 16 × List (BitVec 32)) := []
  /-- arena areas: slab address and bytes, in the order of `chunkSizes` -/
  areas  : List (BitVec 32 × Nat)
  /-- gate and up entries have been written -/
  flushed : Bool := false
  deriving DecidableEq, Repr

/-- The routers of a sagger within a step (R213 to R230). -/
structure Router where
  /-- MoE layers of the image that the step has closed -/
  nextMoe  : Nat := 0
  /-- layer-table entry of the open MoE layer -/
  layer    : Option Nat := none
  /-- rows routed in the open layer -/
  routed   : List Nat := []
  /-- output blocks of the shared expert by row -/
  shared   : List (Nat × List (BitVec 32)) := []
  counts   : Tab Nat := []
  chunks   : List Chunk := []
  epoch    : BitVec 16 := 0
  closed   : Bool := false
  /-- targets of the tallies, counted since they were last zero -/
  guTarget : Nat := 0
  actTarget : Nat := 0
  dnTarget : Nat := 0
  /-- GLU records and down entries of the layer have been written -/
  gluDone  : Bool := false
  /-- time at which routing stopped for arena space (R219) -/
  stalled  : Option Nat := none
  /-- arena space in use: slab address and bytes -/
  arenaUsed : List (BitVec 32 × Nat) := []
  /-- predicted experts of the next MoE layer -/
  pred     : Tab PredState := []
  /-- luted lead: rows routed to each follower expert, and experts that have answered (R227) -/
  remote   : Tab Nat := []
  answered : List Nat := []
  /-- luted follower: expert, index of the token in the layer and the lead's output address -/
  fromLead : List (Nat × Nat × BitVec 32) := []
  deriving DecidableEq, Repr

/-! ## The serving loop (chapters 06 and 08) -/

/-- The fields of a submit (R232). -/
structure Submit where
  reqId     : BitVec 32 := 0
  tenant    : Nat := 0
  scope     : Nat := 0
  model     : Nat := 0
  draft     : Nat := 0xFFFF
  cls       : Nat := 0
  dropLate  : Bool := false
  score     : Bool := false
  logprob   : Bool := false
  spec      : Nat := 0
  maxNew    : Nat := 1
  ttft      : Nat := 0
  tpot      : Nat := 0
  temp      : BitVec 16 := 0
  topP      : Nat := 0
  topK      : Nat := 0
  penWin    : Nat := 0
  presPen   : BitVec 16 := 0
  freqPen   : BitVec 16 := 0
  seed      : BitVec 64 := 0
  specNodes : Nat := 0
  specDepth : Nat := 0
  branch    : Nat := 0
  adapter   : Nat := 0xFFFF
  stops     : List Nat := []
  bias      : List (Nat × BitVec 16) := []
  prompt    : List Nat := []
  deriving DecidableEq, Repr

/-- Request state of R239. -/
inductive ReqState where
  | queued | prefill | decode | compact | swapped | ended
  deriving DecidableEq, Repr

/-- A node of a speculation tree (R194, R259). -/
structure TreeNode where
  token  : Nat
  parent : Nat
  depth  : Nat
  deriving DecidableEq, Repr

/-- A request: its submit, its sequence and its sampling state (R239, R254). -/
structure Req where
  chan      : Nat
  tag       : BitVec 32 := 0
  sub       : Submit
  st        : ReqState := .queued
  /-- state held before SWAPPED -/
  before    : ReqState := .queued
  tSub      : Nat := 0
  arrival   : Nat := 0
  /-- sequence slot and draft slot -/
  slot      : Nat := 0
  draftSlot : Option Nat := none
  promptDone : Nat := 0
  prefix_   : Nat := 0
  /-- prefix nodes attached or published by the sequence, by depth, and those of its draft slot -/
  chain     : List Nat := []
  draftChain : List Nat := []
  /-- output tokens fired, last first -/
  out       : List Nat := []
  /-- penalty window, newest last -/
  window    : List Nat := []
  key       : BitVec 256 := 0
  draws     : Nat := 0
  fire0     : Nat := 0
  firstStep : Nat := 0
  lastStep  : Nat := 0
  /-- rows of the current step: number, and the tree when they form one -/
  rows      : Nat := 0
  tree      : List TreeNode := []
  /-- samples of the current step by row, with their LOGP, and the verified path -/
  samples   : List (Nat × Nat × BitVec 16) := []
  path      : Option (List Nat) := none
  /-- copies of R195 still to run: source and destination logical slots -/
  copies    : List (Nat × Nat) := []
  /-- a deepest path node still to be run by the draft model (R261) -/
  draftRow  : Option Nat := none
  /-- MASK set: cancelled in the current step -/
  masked    : Bool := false
  /-- the request ends without a DONE (R405) -/
  silent    : Bool := false
  /-- fault code that fails the request at its fire point -/
  failed    : Option (BitVec 16) := none
  /-- chosen as a victim, and held out for want of frames -/
  victim    : Bool := false
  held      : Bool := false
  /-- held out of planning by a migration (R371) -/
  moving    : Bool := false
  /-- its pages have all landed after a swap-in, and it has not run since -/
  landed    : Bool := false
  /-- swap: time of the swap-out, window units by (layer, page; layers of the draft slot from 256 up), and the units whose
  pages have still to land, with their new frames -/
  swapAt    : Nat := 0
  units     : List (Nat × Nat × Nat) := []
  landing   : List (Nat × Nat) := []
  /-- compaction: first replaced page, survivors to copy as (layer, source slot, destination slot), new frames -/
  compFrom  : Nat := 0
  compCopies : List (Nat × Nat × Nat) := []
  compFrames : List (Nat × Nat × Nat) := []
  /-- side words of the new pages: (layer, slot, word) -/
  compSides : List (Nat × Nat × Nat) := []
  deriving DecidableEq, Repr

/-- A tenant: budget in force, a budget that waits for the fire point, bucket (in 1/10^9 tokens) (R240, R241). -/
structure Tenant where
  budget  : Budget := {}
  next    : Option Budget := none
  /-- the entry exists only from the next fire point on -/
  fresh   : Bool := false
  bucket  : Nat := 0
  refill  : Nat := 0
  /-- steps since a budget cut that the remaining use does not meet (R243) -/
  cutAge  : Option Nat := none
  deriving DecidableEq, Repr

/-- Phase of a step (R245, R270). -/
inductive StepPhase where
  | none | running | committed
  deriving DecidableEq, Repr

/-- One sequence in the commit record of step 3 of R270. -/
structure CommitSeq where
  chan   : Nat
  reqId  : BitVec 32
  slot   : Nat
  /-- tokens fixed, with LOGP -/
  tokens : List (Nat × BitVec 16)
  fired  : Nat
  nextPos : Nat
  deriving DecidableEq, Repr

/-- The commit record (R270). -/
structure Commit where
  step     : Nat
  fireTime : Nat
  seqs     : List CommitSeq
  deriving DecidableEq, Repr

/-- A slab-independent view of one ragged entry of the running step (R185). -/
structure Ragged where
  slot   : Nat
  chan   : Nat
  reqId  : BitVec 32
  tree   : Bool
  scored : Bool
  fired  : Nat
  pos0   : Nat
  new    : Nat
  draft  : Bool := false
  deriving DecidableEq, Repr

/-- State of a page frame that is not FREE and clean (R184). -/
inductive FrameState where
  /-- EXCLUSIVE, charged to a tenant -/
  | exclusive (tenant : Nat)
  /-- SHARED, charged to the tenant that published it, named by a node -/
  | shared (tenant : Nat) (node : Nat)
  /-- holds page tables and side blocks of a sequence, or waits for them (log entry 20) -/
  | table
  /-- freed, in its stack's scrub queue (R304) -/
  | scrubbing
  /-- retired under R305 -/
  | retired
  deriving DecidableEq, Repr

/-- A ring of chapter 03, 05 or 06: entries written and taken (R85, R152). -/
structure Ring where
  prod : Nat := 0
  cons : Nat := 0
  deriving DecidableEq, Repr

/-- State of a sagger (R411). -/
inductive SaggerState where
  | down | building | serving | resetting | clearing
  deriving DecidableEq, Repr

/-- Why a sagger resets: the fault code, and its requester if a session asked for it. -/
structure ResetCause where
  code : BitVec 16 := 0
  deriving DecidableEq, Repr

/-- Cursor of the page walk: layer, ragged entry, row and KV head (R192). -/
structure WalkCursor where
  layer : Nat := 0
  entry : Nat := 0
  row   : Nat := 0
  head  : Nat := 0
  deriving DecidableEq, Repr

/-- A sagger (R409, R411 and chapters 03 to 08). -/
structure Sagger where
  st        : SaggerState := .down
  cause     : ResetCause := {}
  -- work list, operation ring, attention (R85, R93, R152, R158, R207)
  list      : Ring := {}
  listHalt  : Bool := false
  /-- list-writer entries that wait because the ring is full -/
  listWait  : List (BitVec 256) := []
  ops       : Ring := {}
  opHalt    : Bool := false
  attnHalt  : Bool := false
  /-- wheels that wait for an entry, longest first (R86) -/
  waiting   : List Nat := []
  /-- in-flight entries with tag A4, A8, A16 (R122) -/
  flight4   : Nat := 0
  flight8   : Nat := 0
  flight16  : Nat := 0
  -- attention
  walk      : WalkCursor := {}
  /-- next query-tile entry index, and open entries -/
  qNext     : Nat := 0
  qOpen     : List Nat := []
  frames    : Tab FrameState := []
  /-- prefix nodes that are not FREE -/
  nodes     : List Nat := []
  /-- retired nodes that wait for their REFS (R205) -/
  retired   : List Nat := []
  -- score stage (R169, R170)
  stageProd : Nat := 0
  /-- stage records handed over at the last fire point and not yet applied, in rising order of ROW (R170) -/
  stageOrder : List Nat := []
  /-- end of the records handed over at the last fire point -/
  stageEnd  : Nat := 0
  stageFired : List (Nat × Nat) := []
  router    : Router := {}
  -- serving loop
  queue     : List Req := []
  live      : List Req := []
  tenants   : List Tenant := []
  arrivals  : Nat := 0
  /-- slots in use -/
  slots     : List Nat := []
  stepNum   : Nat := 0
  phase     : StepPhase := .none
  stepStart : Nat := 0
  predicted : Nat := 0
  planned   : Nat := 0
  ragged    : List Ragged := []
  rowsN     : Nat := 0
  trimmed   : Bool := false
  victims   : Bool := false
  cancels   : Bool := false
  /-- format and accumulation counters at the start of the step: fall-backs, re-fires, clamps + saturations -/
  marks     : Nat × Nat × Nat := (0, 0, 0)
  commit    : Option Commit := none
  /-- slab clear of the last fire point has passed (R279) -/
  cleared   : Bool := true
  clearTally : Nat := 0
  lag       : Nat := 0
  /-- model image index that the running step runs (R284) -/
  stepModel : Nat := 0
  /-- RHO × 4,096 -/
  rho       : Nat := 4096
  lastDur   : Nat := 0
  fired     : Nat := 0
  -- images (R423)
  images    : List LoadedImage := []
  -- reset window and setter probe (R466)
  resetTimes : List Nat := []
  probeLost : Option Nat := none
  probeExpiries : Nat := 0
  /-- stays DOWN for the rest of the start -/
  stayDown  : Bool := false
  -- deadlock detector (R344)
  progress  : Nat := 0
  dlArmed   : Bool := true
  /-- swap units of the host window in use -/
  winUnits  : List Nat := []
  /-- REQ_IDs reserved on a channel by an incoming migration (R424) -/
  reserved  : List (Nat × BitVec 32) := []
  deriving DecidableEq, Repr

/-! ## HBM stacks and the model store (chapter 09) -/

/-- An HBM3 stack and its controller (R294 to R305). -/
structure Stack where
  /-- refresh rate: 0 1×, 1 2×, 2 4× -/
  refresh : Nat := 0
  temp    : Int := 0
  /-- milliseconds below the falling threshold -/
  coolMs  : Nat := 0
  /-- admitted fraction of the stack in sixteenths; none = no limit -/
  limit   : Option Nat := none
  /-- usable pseudo-channels failed in this start's training or marked (HBM_PC_FAIL) -/
  pcFail  : BitVec 32 := 0
  /-- frames waiting for scrub, with their sagger -/
  scrubQ  : List (Nat × Nat) := []
  /-- uncorrectable errors of the last second: pseudo-channel and time (R302) -/
  ueTimes : List (Nat × Nat) := []
  adRaised : BitVec 32 := 0
  deriving DecidableEq, Repr

/-- A committed image of the store (R422). -/
structure Committed where
  ns      : Nat
  off     : Nat
  measure : BitVec 256
  info    : ImageInfo
  deriving DecidableEq, Repr

/-- A weight chunk in a poison table and its reload (R310, R311). -/
structure Poison where
  /-- chunk address in units of 64 KiB -/
  chunk  : Nat
  /-- reload sources not yet tried: ports, then 7 for the own store -/
  sources : List Nat := []
  /-- since when the first of them is asked -/
  since  : Nat := 0
  failed : Bool := false
  deriving DecidableEq, Repr

/-- The model store (R307 to R309, R315). -/
structure Store where
  /-- committed images -/
  images   : List Committed := []
  /-- read counts by (namespace, block) -/
  reads    : List ((Nat × Nat) × Nat) := []
  queued   : List (Nat × Nat) := []
  /-- logical pages lost to uncorrectable reads -/
  lost     : List (Nat × Nat) := []
  writing  : Bool := false
  deriving DecidableEq, Repr

/-! ## Glaze streams (chapter 10) -/

/-- An index entry of a glaze stream (R319). -/
structure GlazeEntry where
  offset : Nat
  mode   : Nat
  short  : Bool
  payLen : Nat
  blkLen : Nat
  crc    : BitVec 32
  deriving DecidableEq, Repr

/-- State of a received stream. -/
inductive StreamState where
  | header | open | failed | ended
  deriving DecidableEq, Repr

/-- Where a stream comes from or goes to. -/
inductive StreamPeer where
  /-- a lattice module, by coordinate -/
  | lattice (coord : BitVec 11)
  /-- the host window of a channel -/
  | host (chan : Nat)
  deriving DecidableEq, Repr

/-- A glaze stream that this module receives (R316 to R327). -/
structure Stream where
  sid    : Nat
  peer   : StreamPeer
  /-- XID of its packets, and whether its source pushed it -/
  xid    : Nat := 0
  pushed : Bool := false
  kind   : Nat
  sagger : Nat
  slice  : Nat := 0
  /-- expected context words and destination region -/
  ctxA   : Nat
  ctxB   : Nat
  dst    : Nat
  dstLen : Nat
  header : List Byte := []
  index  : List Byte := []
  /-- index entries received -/
  entries : Nat := 0
  table  : List GlazeEntry := []
  st     : StreamState := .header
  retried : Bool := false
  /-- blocks written or added -/
  done   : List Nat := []
  /-- refetches per block, and blocks with a refetch outstanding, with its time -/
  refetch : Tab Nat := []
  waiting : List (Nat × Nat) := []
  /-- expanded blocks of a reload, held until the chunk's digest has been checked (R311) -/
  held   : Tab (List Byte) := []
  deriving DecidableEq, Repr

/-- A stream that this module sends. -/
structure OutStream where
  sid   : Nat
  peer  : StreamPeer
  /-- XID of its packets -/
  xid   : Nat := 0
  kind  : Nat
  sagger : Nat
  slice : Nat := 0
  ctxA  : Nat
  ctxB  : Nat
  src   : Nat
  len   : Nat
  /-- bytes of the source that are glazed as zero: ranges (R323) -/
  zeros : List (Nat × Nat) := []
  /-- blocks compressed so far: index entry and payload, padded -/
  blocks : List (GlazeEntry × List Byte) := []
  rsp   : Bool := false
  /-- messages or packets sent so far: header, index and blocks in turn -/
  sent  : Nat := 0
  deriving DecidableEq, Repr

/-- A die's glaze engine (R329, R330). -/
structure Glaze where
  /-- expander queue: stream, block, payload -/
  expQ : List (Nat × Nat × List Byte) := []
  /-- compressor work: stream and block -/
  cmpQ : List (Nat × Nat) := []
  deriving DecidableEq, Repr

/-! ## Lattice and lute (chapter 12) -/

/-- A packet: its 32-byte header as a number, and its payload (R358). -/
structure Packet where
  hdr     : BitVec 256
  payload : List Byte
  deriving DecidableEq, Repr

/-- Port state of R357. -/
inductive PortState where
  | down | train | check | up | held | retrain
  deriving DecidableEq, Repr

/-- A lattice port or the lute port (R347 to R357, R379, R380). -/
structure Port where
  st       : PortState := .down
  reason   : Nat := 0
  groups   : BitVec 12 := 0
  /-- groups excluded at run time -/
  excluded : BitVec 12 := 0
  started  : Nat := 0
  /-- a retry is due after 10 ms -/
  retry    : Bool := false
  /-- stays DOWN until the next start -/
  barred   : Bool := false
  vmaj     : Nat := 0
  vmin     : Nat := 0
  serves   : Nat := 0
  remap    : Bool := false
  nbrId    : BitVec 64 := 0
  nbrAt    : BitVec 11 := 0
  nbrPort  : Nat := 0
  nbrReady : Bool := false
  nbrBisque : Bool := false
  /-- own record's ACK, and the peer's -/
  ack      : Bool := false
  peerAck  : Bool := false
  /-- image advertisements heard from the neighbour (low 64 bits of measurements) -/
  ads      : List (BitVec 64) := []
  adNext   : Nat := 0
  hbSeq    : BitVec 32 := 0
  lastTx   : Nat := 0
  lastHbTx : Nat := 0
  lastRx   : Nat := 0
  lastHb   : Nat := 0
  /-- last heartbeat frame sent -/
  hbOut    : BitVec 256 := 0
  losses   : List Nat := []
  reported : Bool := false
  txSeq    : BitVec 16 := 0
  rxSeq    : BitVec 16 := 0
  /-- unacknowledged flits: sequence number, channel and payload -/
  replay   : List (BitVec 16 × Nat × List Byte) := []
  replays  : Nat := 0
  /-- last good flit acknowledged, and the flit asked for again -/
  ackOut   : Option (BitVec 16) := none
  nakOut   : Option (BitVec 16) := none
  /-- received bytes per virtual channel -/
  rx       : Tab (List Byte) := []
  /-- credit returned to the sender per virtual channel, in units of 16 B -/
  freed    : Tab Nat := []
  /-- credit per virtual channel, in units of 16 B -/
  credit   : Tab Nat := []
  /-- packets waiting for the port, with their virtual channel -/
  out      : List (Nat × Packet) := []
  deriving DecidableEq, Repr

/-- Timebase state of R368. -/
inductive TbState where
  | free | locking | locked | holdover
  deriving DecidableEq, Repr

/-- The kiln timebase (R367 to R369). -/
structure Timebase where
  /-- REFCLK timer: nanoseconds since the start -/
  ref     : Nat := 0
  /-- timebase in ns, and its fraction in units of 10^-6 ns -/
  ns      : Nat := 0
  frac    : Nat := 0
  st      : TbState := .free
  /-- parent port; 7 = master; LAT_TB_STATE.PARENT resets to 0 (R379) -/
  parent  : Nat := 0
  /-- last offset in units of 0.25 ns -/
  offset  : Int := 0
  /-- steering in ppm, -200 to 200 -/
  steer   : Int := 0
  /-- remaining backward correction in ns, run off at half rate -/
  back    : Nat := 0
  lockSince : Option Nat := none
  /-- the second in which LAT_TB_APPLY armed LAT_TB_SET for the next whole second -/
  armed   : Option Nat := none
  /-- last accepted TSYNC edge, and the last edge at all, on the REFCLK timer -/
  tsync   : Option Nat := none
  tsyncAny : Option Nat := none
  deriving DecidableEq, Repr

/-- A slice as a member or the kiln apex holds it (R370 to R372). -/
structure Slice where
  id      : Nat
  record  : BitVec 256
  /-- this module is a member -/
  member  : Bool := false
  /-- kiln apex: members that have accepted -/
  accepts : List (BitVec 11) := []
  active  : Bool := false
  started : Nat := 0
  /-- slice apex and members: progress words reported by coordinate -/
  marks   : List (BitVec 11 × Nat) := []
  round   : Nat := 0
  /-- children whose stream of the round has ended with status 0 -/
  ended   : List (BitVec 11) := []
  /-- management session and tag that wait for the answer -/
  asker   : Option (Nat × BitVec 32) := none
  deriving DecidableEq, Repr

/-- A LOSS report that an apex holds (R366). -/
structure LossReport where
  at_    : BitVec 11
  port   : Nat
  beyond : BitVec 11
  time   : Nat
  reason : Nat
  deriving DecidableEq, Repr

/-- An outgoing migration (R371, R424). -/
structure Migration where
  sagger : Nat
  chan   : Nat
  reqId  : BitVec 32
  dest   : BitVec 11
  slice  : Nat
  /-- its streams have been queued, and those not yet applied at the destination -/
  started : Bool := false
  left   : List Nat := []
  /-- management session and tag that wait for the answer -/
  asker  : Nat × BitVec 32
  deriving DecidableEq, Repr

/-- A BROADCAST load that this module takes part in (R371, R423). -/
structure Loading where
  slice  : Nat
  sagger : Nat
  image  : LoadedImage
  /-- chunks written and checked -/
  have_  : List Nat := []
  /-- chunks sent on to the children so far, and chunks that each child's subtree holds, counted from 0 -/
  sent   : Nat := 0
  marked : Nat := 0
  asker  : Nat × BitVec 32
  deriving DecidableEq, Repr

/-- An incoming migration: the request as it will run here, its slots by source slot, and pages still to land (own slot,
layer and page) (R371, R424). -/
structure Incoming where
  slice  : Nat
  sagger : Nat
  src    : BitVec 11
  req    : Req
  slots  : List (Nat × Nat)
  left   : List (Nat × Nat × Nat)
  deriving DecidableEq, Repr

/-- The lattice as this module keeps it. -/
structure Lattice where
  /-- packets consumed and waiting for their handler -/
  consumed : List Packet := []
  nextXid  : Nat := 0
  /-- kiln apex, including after a takeover -/
  apex     : Bool := false
  backup   : Bool := false
  reports  : List LossReport := []
  lostLinks : List (BitVec 11 × BitVec 11) := []
  lostModules : List (BitVec 11) := []
  slices   : List Slice := []
  /-- streams received and sent -/
  streams  : List Stream := []
  outs     : List OutStream := []
  migrations : List Migration := []
  incoming : List Incoming := []
  loadings : List Loading := []
  deriving DecidableEq, Repr

/-- A lute message: its 16-byte header as a number, and its payload (R226, R376).  A DONE also carries the slab writes
that its sender issued before it, which the spec gives no message of their own (R225). -/
structure LuteMsg where
  hdr     : BitVec 128
  payload : List Byte
  writes  : List (BitVec 32 × List Byte) := []
  deriving DecidableEq, Repr

/-- What a READ or ATOMIC across the lute is for. -/
inductive LuteUse where
  /-- an HLOAD: destination in the slabs, the operation's tally, and whether its other pieces have landed -/
  | slab (dst : BitVec 32) (tally : Nat) (job : BitVec 16)
  /-- the data of a ware-board load: die, load number, first unit of the piece -/
  | load (die : Nat) (num : BitVec 16) (unit : Nat)
  /-- a narrow read -/
  | narrow
  /-- an atomic, and whether it returns the old value -/
  | atomic (ret : Bool)
  deriving DecidableEq, Repr

/-- An outstanding READ or ATOMIC request (R376). -/
structure LuteAsk where
  tag    : BitVec 16
  sagger : Nat
  bytes  : Nat
  use    : LuteUse
  deriving DecidableEq, Repr

/-- The luted pair (R373 to R377). -/
structure Lute where
  paired : Bool := false
  /-- messages waiting to be sent, in issue order -/
  tx     : List LuteMsg := []
  /-- outstanding READ and ATOMIC requests -/
  asked  : List LuteAsk := []
  nextTag : BitVec 16 := 0
  /-- data received for pending loads: die, load number, unit and bytes -/
  got    : List (Nat × BitVec 16 × Nat × List Byte) := []
  /-- PROD and CONS last sent to the partner, by tally number -/
  mirrors : Tab (BitVec 48 × BitVec 48) := []
  /-- a pair stop is due -/
  stop   : Bool := false
  deriving DecidableEq, Repr

/-! ## The Shomu link (chapter 13) -/

/-- Link state of R408. -/
inductive LinkState where
  | down | train | up | held | retrain
  deriving DecidableEq, Repr

/-- A message being assembled from frames: the slot of its first frame (2 = unsealed) and its bytes so far; a message that
failed a check is skipped up to its last frame (R392). -/
structure Part where
  kslot : Nat
  bytes : List Byte
  skip  : Bool := false
  deriving DecidableEq, Repr

/-- A Shomu link (R381 to R387, R403, R404, R408). -/
structure Link where
  st      : LinkState := .down
  width   : Nat := 0
  reason  : Nat := 0
  vmaj    : Nat := 0
  vmin    : Nat := 0
  window  : Nat := 0
  started : Nat := 0
  retry   : Bool := false
  barred  : Bool := false
  /-- lanes that failed lock or exceeded the error rate -/
  faulty  : BitVec 16 := 0xFFFF
  ack     : Bool := false
  peerAck : Bool := false
  /-- training step 2 has ended -/
  locked  : Bool := false
  rxSeq   : BitVec 12 := 0
  txSeq   : BitVec 12 := 0
  replay  : List (BitVec 12 × List Byte) := []
  replays : Nat := 0
  /-- received frame bytes, oldest first -/
  rx      : List Byte := []
  ctrlCredit : Nat := 0
  bulkCredit : Nat := 0
  hbSeq   : BitVec 32 := 0
  lastFlit : Nat := 0
  lastHb  : Nat := 0
  lastHbTx : Nat := 0
  /-- the flit asked for again -/
  nakOut  : Option (BitVec 12) := none
  /-- link message being assembled, and received heartbeats, oldest first -/
  part    : Option Part := none
  msgs    : List (List Byte) := []
  /-- heartbeats to send -/
  tx      : List (List Byte) := []
  /-- credit that the module has yet to grant, by the low byte of its grant (CLASS and CHAN of R386), and the grants of the
  last CREDIT flit -/
  freed   : Tab Nat := []
  creditOut : List (BitVec 64) := []
  /-- channel served last (R387) -/
  turn    : Nat := 0
  deriving DecidableEq, Repr

/-- A message of a channel: TYPE, TAG, payload and the key slot it travels under (R390, R397): 0 or 1, 2 = unsealed, 3 = the
slot that is active when it leaves. -/
structure Msg where
  type    : Nat
  tag     : BitVec 32
  payload : List Byte
  kslot   : Nat := 0
  deriving DecidableEq, Repr

/-- A key slot (R394). -/
structure KeySlot where
  live   : Bool := false
  rxKey  : BitVec 256 := 0
  txKey  : BitVec 256 := 0
  rxCtr  : BitVec 64 := 0
  txCtr  : BitVec 64 := 0
  /-- the frame counter limit has been recorded -/
  stalled : Bool := false
  deriving DecidableEq, Repr

/-- Channel state of R408. -/
inductive ChanState where
  | unassigned | closed | keying | open | rotating | openPlain
  deriving DecidableEq, Repr

/-- A Shomu channel (R388 to R398, R408). -/
structure Chan where
  st      : ChanState := .unassigned
  slot0   : KeySlot := {}
  slot1   : KeySlot := {}
  active  : Nat := 0
  /-- the slot being retired, and since when -/
  retiring : Option (Nat × Nat) := none
  /-- received messages, oldest first -/
  rx      : List Msg := []
  /-- messages being assembled, by class -/
  parts   : Tab Part := []
  tx      : List Msg := []
  msgCredit : Nat := 0
  deriving DecidableEq, Repr

/-- A swap message without a response (R400). -/
structure SwapReq where
  tag    : BitVec 32
  link   : Nat
  chan   : Nat
  reqId  : BitVec 32
  kslot  : Nat
  write  : Bool
  off    : Nat
  bytes  : Nat
  data   : List Byte
  /-- the page it belongs to: layer (of the draft slot from 256 up) and logical page; block index, 32 for the directory
  slot -/
  layer  : Nat
  page   : Nat
  block  : Nat
  tries  : Nat := 0
  since  : Nat := 0
  sent   : Bool := false
  deriving DecidableEq, Repr

/-! ## Management and security (chapter 14) -/

/-- A management response (R419). -/
structure Resp where
  cmd     : Nat
  tag     : BitVec 32
  status  : Nat
  payload : List Byte
  deriving DecidableEq, Repr

/-- A management session (R418, R477). -/
structure Session where
  open_   : Bool := false
  addr    : BitVec 128 := 0
  roles   : BitVec 3 := 0
  /-- select registers that differ from their reset value, by register and SGR_ instance -/
  sels    : List ((Reg × Nat) × Nat) := []
  /-- upper halves latched by _LO reads -/
  hi      : List ((Reg × Nat) × Nat) := []
  /-- tally latched by TLY_SNAP -/
  tally   : Option Tally := none
  /-- record latched by TOP_FLT_SEL -/
  fault   : Option FaultRec := none
  resp    : List Resp := []
  deriving DecidableEq, Repr

/-- A requested report whose snapshot has not been taken (R426). -/
structure AttestWait where
  nonce : List Byte
  /-- saggers asked for -/
  mask  : BitVec 12
  since : Nat
  /-- session, or channel when asked over the Shomu link with the key slot of the request -/
  sess  : Option Nat
  chan  : Nat := 0
  kslot : Nat := 0
  tag   : BitVec 32
  deriving DecidableEq, Repr

/-- The management port (R418 to R428). -/
structure Mgmt where
  link     : Bool := false
  addr     : Bool := false
  sessions : Tab Session := []
  /-- failed handshakes of the last 60 s: address and time -/
  failures : List (BitVec 128 × Nat) := []
  /-- refused addresses and the time of the eighth failure -/
  refused  : List (BitVec 128 × Nat) := []
  attests  : List AttestWait := []
  deriving DecidableEq, Repr

/-! ## Boot flash, health area and cones (chapter 15) -/

/-- Boot slot state of R427. -/
inductive SlotState where
  | idle | writing | staged | trial | active
  deriving DecidableEq, Repr

/-- The shutdown record (R434, R444, R449). -/
structure ShutdownRec where
  clean   : Bool := false
  /-- 0 none, 1 passed, 2 failed, 3 skipped -/
  bist    : Nat := 0
  failed  : Nat := 0
  slot    : Nat := 0
  planSeq : Nat := 0
  /-- the calibration snapshot was written at this shutdown -/
  calib   : Bool := false
  deriving DecidableEq, Repr

/-- One cone record of the cone ring (R434). -/
structure ConeRec where
  index : List Nat
  heat  : List Nat
  deriving DecidableEq, Repr

/-- The health area of the boot flash: it survives the loss of power (R26, R434). -/
structure Health where
  boots    : Nat := 0
  slot     : Nat := 0
  slotA    : SlotState := .active
  slotB    : SlotState := .idle
  maxSeq   : Nat := 0
  shutdown : ShutdownRec := {}
  /-- unusable map of R435: bytes 0 to 511 -/
  map      : Mem := []
  /-- pending marks: byte and bit -/
  pending  : List (Nat × Nat) := []
  /-- pseudo-channels that failed training at the last start -/
  pchLast  : List Nat := []
  /-- calibration snapshot: delay codes, V_FLOOR of each die, cone references -/
  codes    : List Nat := []
  vfloor   : List Nat := []
  coneRef  : List Nat := []
  /-- fallback management: credentials and address -/
  creds    : List (BitVec 3 × BitVec 256) := []
  ip6      : BitVec 128 := 0
  ip4      : BitVec 32 := 0
  cones    : List ConeRec := []
  bistLog  : List (Nat × Nat) := []
  deriving DecidableEq, Repr

/-- Fuses (R427, R433). -/
structure Fuses where
  ownerSet : Bool := false
  owner    : BitVec 256 := 0
  svnMin   : Nat := 0
  deriving DecidableEq, Repr

/-- The cones and codes of one die (R453 to R455, R458). -/
structure ConeDie where
  tL      : List Nat := []
  margin  : List Int := []
  codes   : List Nat := []
  vfloor  : Nat := 650
  index   : Nat := 0
  heat    : Nat := 0
  proj    : Nat := 0xFFFF
  replan  : Bool := false
  deriving DecidableEq, Repr

/-- Boot, start-up and signals (R443 to R459, R480, R494). -/
structure Boot where
  /-- BST_STATE.PHASE -/
  phase    : Nat := 0
  ready    : Bool := false
  bisque   : Bool := false
  reason   : Nat := 0
  warm     : Bool := false
  startMs  : Nat := 0
  /-- READY has risen since the start -/
  readyWas : Bool := false
  slot     : Nat := 0
  svn      : Nat := 0
  trial    : Bool := false
  rollback : Bool := false
  keyOk    : Bool := false
  certOk   : Bool := false
  pubKey   : List Byte := []
  fwDigest : BitVec 256 := 0
  stageDigest : Option (BitVec 256) := none
  /-- bytes written to the inactive slot since FW_BEGIN -/
  stageBytes : Nat := 0
  /-- orderly shutdown: under way, when it began, who waits for the answer, what its BIST will find, and finished -/
  shutting : Bool := false
  shutAt   : Nat := 0
  shutBy   : Option (Nat × BitVec 32) := none
  bistEnv  : BistEnv := { failed := [], conditions := false }
  idle     : Bool := false
  /-- BIST is running -/
  bistOn   : Bool := false
  /-- the last shutdown record, as this start found it -/
  last     : ShutdownRec := {}
  /-- BST_SGR_DOWN -/
  sgrDown  : BitVec 12 := 0
  /-- boot failure of R432: nothing runs -/
  dead     : Bool := false
  deriving DecidableEq, Repr

/-- Power, trips and pins (R18 to R20, R485 to R500). -/
structure Power where
  /-- input within limits, module inserted -/
  input    : Bool := false
  inserted : Bool := false
  /-- package rails on -/
  rails    : Bool := false
  /-- RST_N high -/
  rstN     : Bool := false
  tripped  : Bool := false
  /-- core rails in mV -/
  rail0    : Nat := 0
  rail1    : Nat := 0
  /-- admitted fraction F in sixteenths in the throttle state -/
  throttle : Option Nat := none
  /-- replica counts of the running millisecond: beats of die 0 and die 1 per 100 µs window -/
  replica  : List (Nat × Nat) := []
  /-- REFCLK_PPM in units of 0.01 ppm, measured -/
  ppm      : Int := 0
  refOk    : Bool := false
  deriving DecidableEq, Repr

/-! ## The module -/

/-- The memories of the module: each a sparse byte memory. -/
structure Memories where
  /-- HBM3: module HBM address of R294 -/
  hbm    : Mem := []
  /-- slabs: wheel × 2,621,440 + offset (R88, R275) -/
  slab   : Mem := []
  /-- slab lines with V = 1: wheel × 40,960 + line (R278) -/
  valid  : List Nat := []
  /-- ware boards: die × 64 MiB + offset -/
  ware   : Mem := []
  /-- model store: namespace × 2^45 + offset -/
  store  : Mem := []
  /-- boot flash (R430) -/
  flash  : Mem := []
  /-- write-protected strata (R303) -/
  wp     : List Nat := []
  /-- data of the last slab read and narrow read -/
  slabOut : List Byte := []
  narrowOut : List Byte := []
  /-- status of the last atomic: success, and the old value when RET = 1 -/
  atomicOk : Bool := true
  atomicOut : Option Nat := none
  deriving DecidableEq, Repr

/-- The module. -/
structure State where
  /-- commands that wait, first in first out -/
  pending  : List Instr := []
  /-- stored values of registers that hold one, by register and unit; unlisted = reset value -/
  regs     : List ((Reg × Nat) × Nat) := []
  /-- MODEL'S OWN: counter that every free value of the model is drawn from (no register of the module) -/
  freeCtr  : Nat := 0
  mem      : Memories := {}
  power    : Power := {}
  boot     : Boot := {}
  health   : Health := {}
  fuses    : Fuses := {}
  plan     : Option Plan := none
  tb       : Timebase := {}
  flog     : FaultLog := {}
  saggers  : Tab Sagger := []
  wheels   : Tab Wheel := []
  wares    : Tab Ware := []
  ldus     : Tab Ldu := []
  ssus     : Tab Ssu := []
  /-- tallies by sagger × 4,096 + index; sagger 15 is the house -/
  tallies  : Tab Tally := []
  /-- PROD and CONS that the last READ returned (R336) -/
  tallyOut : BitVec 48 × BitVec 48 := (0, 0)
  /-- progress time and arming of the house deadlock detector -/
  houseProgress : Nat := 0
  houseArmed : Bool := true
  /-- held deadlock snapshots by sagger (15 = house), as 4-byte words (R345) -/
  snaps    : Tab (List (BitVec 32)) := []
  hbmStacks : Tab Stack := []
  store    : Store := {}
  /-- poison tables of die 0 and die 1 (R310) -/
  poison   : Tab (List Poison) := []
  glazes   : Tab Glaze := []
  ports    : Tab Port := []
  lat      : Lattice := {}
  lute     : Lute := {}
  links    : Tab Link := []
  chans    : Tab Chan := []
  swaps    : List SwapReq := []
  nextTag  : BitVec 32 := 0
  mgmt     : Mgmt := {}
  cones    : Tab ConeDie := []
  lastMeas : Nat := 0
  deriving DecidableEq, Repr

/-- The module at power-on: unplugged memories empty, no input, RST_N low, every unit at its reset value.

The spec's reset values of registers are in `Reg.reset`; what it leaves open here is named in notes/assumptions. -/
def State.reset : State := {}

end Sys2Proof.Machine
end

