-- ==== Sys2Proof/Machine/Mem.lean ====
section
/-! DEFINITION. Sparse byte memories in one canonical form, and the little-endian numbers and bit fields in them (R1, R2).

Addresses rise strictly and no listed byte is zero; an unlisted byte reads zero.  HBM3 reads zero after the cold
clear of R446; for the other memories that reading is a choice of the model (log entry 4). -/

namespace Sys2Proof.Machine

/-- The canonical form: addresses strictly rising, no zero byte listed. -/
def Memory.wf : Mem → Bool
  | [] => true
  | [c] => c.2 != 0
  | c :: d :: r => (c.2 != 0) && decide (c.1 < d.1) && Memory.wf (d :: r)

/-- The byte at address `a`. -/
def mget : Mem → Nat → Byte
  | [], _ => 0
  | c :: r, a => if c.1 = a then c.2 else mget r a

/-- The memory with the non-zero byte `b` entered at address `a`. -/
def mins : Mem → Nat → Byte → Mem
  | [], a, b => [(a, b)]
  | c :: r, a, b =>
    if a < c.1 then (a, b) :: c :: r else if c.1 = a then (a, b) :: r else c :: mins r a b

/-- The memory with the byte `b` at address `a`. -/
def mput (m : Mem) (a : Nat) (b : Byte) : Mem :=
  if b = 0 then m.filter fun c => c.1 != a else mins m a b

/-- The memory with `bs` written from address `a` up. -/
def mwrite : Mem → Nat → List Byte → Mem
  | m, _, [] => m
  | m, a, b :: bs => mwrite (mput m a b) (a + 1) bs

/-- The memory with `n` bytes cleared to zero from address `a` up. -/
def mclear (m : Mem) (a n : Nat) : Mem := m.filter fun c => c.1 < a || a + n ≤ c.1

/-- `n` bytes from address `a` up. -/
def mread (m : Mem) (a : Nat) : Nat → List Byte
  | 0 => []
  | n + 1 => mget m a :: mread m (a + 1) n

/-- The little-endian number that bytes spell (R1). -/
def leNat : List Byte → Nat
  | [] => 0
  | b :: bs => b.toNat + 256 * leNat bs

/-- `len` bytes of the little-endian form of `n` (R1). -/
def leBytes (n : Nat) : Nat → List Byte
  | 0 => []
  | len + 1 => BitVec.ofNat 8 n :: leBytes (n / 256) len

/-- Bits [lo + w - 1 : lo] of a number (R2). -/
def nbits (x lo w : Nat) : Nat := x / 2 ^ lo % 2 ^ w

/-- A number with bits [lo + w - 1 : lo] replaced by `v`. -/
def nsetBits (x lo w v : Nat) : Nat :=
  x / 2 ^ (lo + w) * 2 ^ (lo + w) + v % 2 ^ w * 2 ^ lo + x % 2 ^ lo

/-- The `w`-bit two's-complement number with pattern `x`. -/
def nsigned (w x : Nat) : Int :=
  if x % 2 ^ w < 2 ^ (w - 1) then (x % 2 ^ w : Nat) else ((x % 2 ^ w : Nat) : Int) - (2 ^ w : Nat)

/-- The `w`-bit two's-complement pattern of `x`. -/
def npattern (w : Nat) (x : Int) : Nat := (x % ((2 ^ w : Nat) : Int)).toNat

/-- The `n`-byte little-endian number at address `a`. -/
def mnum (m : Mem) (a n : Nat) : Nat := leNat (mread m a n)

/-- The memory with the `n`-byte little-endian number `v` at address `a`. -/
def mputNum (m : Mem) (a n v : Nat) : Mem := mwrite m a (leBytes v n)

/-- The field of `w` bits from bit `lo` of the record at address `a`; bit 0 is the lowest bit of its first byte. -/
def mfield (m : Mem) (a lo w : Nat) : Nat := nbits (mnum m (a + lo / 8) ((lo % 8 + w + 7) / 8)) (lo % 8) w

/-- The memory with that field set to `v`. -/
def msetField (m : Mem) (a lo w v : Nat) : Mem :=
  let n := (lo % 8 + w + 7) / 8
  let b := a + lo / 8
  mputNum m b n (nsetBits (mnum m b n) (lo % 8) w v)

/-- The field of `w` bits from bit `lo` of a record that is held as bytes. -/
def bfield (bs : List Byte) (lo w : Nat) : Nat :=
  nbits (leNat ((bs.drop (lo / 8)).take ((lo % 8 + w + 7) / 8))) (lo % 8) w

/-- A list of `n` zero bytes. -/
def zeros (n : Nat) : List Byte := List.replicate n 0

/-- Bytes cut or padded with zeros to length `n`. -/
def padTo (n : Nat) (bs : List Byte) : List Byte := (bs ++ zeros (n - bs.length)).take n

/-- Bytes of a channel without leading fill: rows of 16 zero bytes between packets. -/
def skipFill : Nat → List Byte → List Byte
  | 0, bs => bs
  | n + 1, bs => if bs.length ≥ 16 ∧ (bs.take 16).all (· == 0) then skipFill n (bs.drop 16) else bs

end Sys2Proof.Machine
end

