-- ==== Sys2Proof/Machine/Formats.lean ====
section
/-! DEFINITION. Number formats (spec/02_number_formats.md): exact numbers, weight tiles, activation blocks, the
requantiser, signed digits, BF16, binary32 and L16. -/

namespace Sys2Proof.Machine

/-! ## Exact numbers m × 2^e -/

/-- Sum. -/
def Dyad.add (a b : Dyad) : Dyad :=
  if a.m = 0 then b else if b.m = 0 then a
  else if a.e ≤ b.e then { m := a.m + b.m * 2 ^ (b.e - a.e).toNat, e := a.e }
  else { m := a.m * 2 ^ (a.e - b.e).toNat + b.m, e := b.e }
/-- Product. -/
def Dyad.mul (a b : Dyad) : Dyad := { m := a.m * b.m, e := a.e + b.e }
/-- Magnitude. -/
def Dyad.abs (a : Dyad) : Dyad := { m := a.m.natAbs, e := a.e }
/-- `a < b`. -/
def Dyad.lt (a b : Dyad) : Bool :=
  if a.e ≤ b.e then decide (a.m < b.m * 2 ^ (b.e - a.e).toNat) else decide (a.m * 2 ^ (a.e - b.e).toNat < b.m)
/-- `a` scaled by 2^k. -/
def Dyad.scale (a : Dyad) (k : Int) : Dyad := { m := a.m, e := a.e + k }

/-- Round m / 2^k to the nearest integer, ties to even. -/
def rneShift (m : Int) (k : Nat) : Int :=
  let q := m / (2 ^ k : Nat)
  let r := m % (2 ^ k : Nat)
  let half : Int := (2 ^ k : Nat)
  if 2 * r > half ∨ (2 * r = half ∧ q % 2 = 1) then q + 1 else q

/-- Round a / 2^e to the nearest integer, ties to even. -/
def Dyad.round (a : Dyad) (e : Int) : Int :=
  if e ≤ a.e then a.m * 2 ^ (a.e - e).toNat else rneShift a.m (e - a.e).toNat

/-- Round p / q to the nearest integer, ties to even. -/
def rneDiv (p : Int) (q : Nat) : Int :=
  let f := p / q
  let r := p % q
  if 2 * r > (q : Int) ∨ (2 * r = (q : Int) ∧ f % 2 = 1) then f + 1 else f

/-! ## BF16 and binary32 -/

/-- Value of a BF16 pattern; a subnormal reads as zero, NaN and infinity have none (R36). -/
def bf16 (x : Nat) : Option Dyad :=
  let e := nbits x 7 8
  let f := nbits x 0 7
  if e = 255 then none
  else if e = 0 then some {}
  else some { m := (if bitOf' x 15 then -1 else 1) * (128 + f : Nat), e := (e : Int) - 134 }
where
  /-- Sign bit. -/
  bitOf' (x n : Nat) : Bool := x / 2 ^ n % 2 == 1

/-- Value of a finite binary32 pattern. -/
def f32Val (x : Nat) : Option Dyad :=
  let e := nbits x 23 8
  let f := nbits x 0 23
  let s : Int := if nbits x 31 1 = 1 then -1 else 1
  if e = 255 then none
  else if e = 0 then some { m := s * f, e := -149 }
  else some { m := s * (f + 2 ^ 23 : Nat), e := (e : Int) - 150 }

/-- The binary32 pattern nearest to an exact number, ties to even, with subnormals and overflow to infinity. -/
def f32Round (a : Dyad) (negZero : Bool) : Nat :=
  if a.m = 0 then (if negZero then 2 ^ 31 else 0)
  else
    let sgn := if a.m < 0 then 2 ^ 31 else 0
    let mag := a.m.natAbs
    let e0 : Int := max ((Nat.log2 mag : Int) + a.e - 23) (-149)
    let r := (Dyad.round { m := mag, e := a.e } e0).toNat
    let (r, e1) := if r = 2 ^ 24 then (2 ^ 23, e0 + 1) else (r, e0)
    if r < 2 ^ 23 then sgn + r
    else if e1 + 150 ≥ 255 then sgn + 255 * 2 ^ 23
    else sgn + (e1 + 150).toNat * 2 ^ 23 + (r - 2 ^ 23)

/-! ## Weight tiles (R27 to R34) -/

/-- A trit from its digit: 0, +1 for 1, −1 for 2 (R29). -/
def trit (d : Nat) : Int := match d % 3 with | 0 => 0 | 1 => 1 | _ => -1

/-- A weight from its sign bit. -/
def signed1 (neg : Bool) : Int := if neg then -1 else 1

/-- The detail byte of a TP5 row's structure violation, if it has one (R29, R54). -/
def tp5Bad (bs : List Byte) : Option Nat :=
  if bs.any (fun b => 243 ≤ b.toNat) then some 0x01
  else if 81 ≤ (bs.getD 204 0).toNat then some 0x02 else none

/-- The 1,024 weights of a TP5 row (R29). -/
def tp5Row (bs : List Byte) : List Int :=
  (bs.flatMap fun b => [trit b.toNat, trit (b.toNat / 3), trit (b.toNat / 9), trit (b.toNat / 27), trit (b.toNat / 81)]).take 1024

/-- The eight weights of a T28 group (R30, R31). -/
def t28Group (b : Byte) : List Int :=
  let pa := nbits b.toNat 0 3
  let sa := b.getLsbD 3
  let pb := nbits b.toNat 4 3
  let sb := b.getLsbD 7
  (List.range 8).map fun i =>
    if pa < pb then (if i = pa then signed1 sa else if i = pb then signed1 sb else 0)
    else if sa = sb ∧ i = pa then signed1 sa else 0

/-- The detail byte of a T28 row's violation; `load` adds the canonical-zero check of model load (R31, R32). -/
def t28Bad (load : Bool) (bs : List Byte) : Option Nat :=
  if bs.any (fun b => nbits b.toNat 0 3 > nbits b.toNat 4 3) then some 0x03
  else if load && bs.any (fun b => nbits b.toNat 0 3 == nbits b.toNat 4 3 && b.getLsbD 3 != b.getLsbD 7 && b != 0x80) then
    some 0x04
  else none

/-- Population count of a byte. -/
def popByte (b : Byte) : Nat := (List.range 8).foldl (fun n i => n + (if b.getLsbD i then 1 else 0)) 0
/-- Population count of bytes. -/
def popCount (bs : List Byte) : Nat := bs.foldl (fun n b => n + popByte b) 0

/-- BITMAP[r] of a TBM tile. -/
def tbmRow (bs : List Byte) (r : Nat) : List Byte := (bs.drop (64 + 128 * r)).take 128
/-- NNZ of a TBM tile. -/
def tbmNnz (bs : List Byte) : Nat := bfield bs 32 16
/-- The length that NNZ gives a TBM tile (R34). -/
def tbmLen (bs : List Byte) : Nat := (2112 + (tbmNnz bs + 7) / 8 + 31) / 32 * 32

/-- The detail byte of a TBM tile's violation (R34, R54); `region` is what the image gives the tile. -/
def tbmBad (bs : List Byte) (region : Nat) : Option Nat :=
  let cap := bfield bs 8 4
  let rows := List.range 16
  let used := (tbmNnz bs + 7) / 8
  if bfield bs 0 8 ≠ 3 ∨ cap = 0 ∨ cap > 8 then some 0x05
  else if bfield bs 16 16 ≠ tbmLen bs ∨ tbmLen bs > region then some 0x06
  else if rows.any (fun r => bfield bs (128 + 16 * r) 16 != popCount (tbmRow bs r) || bfield bs (128 + 16 * r) 16 > 128 * cap) ∨
      (rows.foldl (fun n r => n + bfield bs (128 + 16 * r) 16) 0) ≠ tbmNnz bs then some 0x07
  else if rows.any (fun r => (tbmRow bs r).any fun b => popByte b > cap) then some 0x08
  else if nbits (leNat ((bs.drop 2112).take used)) (tbmNnz bs) (8 * used - tbmNnz bs) ≠ 0 ∨
      ((bs.drop (2112 + used)).take (tbmLen bs - 2112 - used)).any (· != 0) then some 0x09
  else if bfield bs 12 4 ≠ 0 ∨ ((bs.drop 6).take 10).any (· != 0) ∨ ((bs.drop 48).take 16).any (· != 0) then some 0x17
  else none

/-- The weights that a bitmap and the signs from position `k` on give, with the next sign position. -/
def tbmBits (signs : List Byte) : List Bool → Nat → List Int × Nat
  | [], k => ([], k)
  | b :: r, k =>
    if b then
      let (ws, n) := tbmBits signs r (k + 1)
      (signed1 ((signs.getD (k / 8) 0).getLsbD (k % 8)) :: ws, n)
    else
      let (ws, n) := tbmBits signs r k
      (0 :: ws, n)

/-- The rows of a TBM tile (R33). -/
def tbmRows (bs : List Byte) : List (List Int) :=
  ((List.range 16).foldl (fun (acc : List (List Int) × Nat) r =>
    let bits := (tbmRow bs r).flatMap fun b => (List.range 8).map b.getLsbD
    let (ws, k) := tbmBits (bs.drop 2112) bits acc.2
    (acc.1 ++ [ws], k)) ([], 0)).1

/-- Bytes of a tile of a weight format: 0 TP5, 1 T28 (R28). -/
def tileBytes (wfmt : Nat) : Nat := if wfmt = 0 then 3280 else 2048
/-- Bytes of an output row of TP5 or T28. -/
def rowBytes (wfmt : Nat) : Nat := if wfmt = 0 then 205 else 128

/-- Row `r` of a TP5 or T28 tile. -/
def tileRow (wfmt : Nat) (bs : List Byte) (r : Nat) : List Byte := (bs.drop (r * rowBytes wfmt)).take (rowBytes wfmt)

/-- The violation of a tile at an operand port, or at model load (R54). -/
def tileBad (wfmt : Nat) (load : Bool) (bs : List Byte) (region : Nat) : Option Nat :=
  match wfmt with
  | 0 => (List.range 16).findSome? fun r => tp5Bad (tileRow 0 bs r)
  | 1 => (List.range 16).findSome? fun r => t28Bad load (tileRow 1 bs r)
  | _ => tbmBad bs region

/-- The 16 × 1,024 weights of a tile. -/
def tileRows (wfmt : Nat) (bs : List Byte) : List (List Int) :=
  match wfmt with
  | 0 => (List.range 16).map fun r => tp5Row (tileRow 0 bs r)
  | 1 => (List.range 16).map fun r => (tileRow 1 bs r).flatMap t28Group
  | _ => tbmRows bs

/-! ## Activation blocks (R37 to R44) -/

/-- Elements in a sub-block: 16 for A4, 32 for A8 and A16 (R40). -/
def subSize (fmt : Nat) : Nat := if fmt = 1 then 16 else 32
/-- Sub-blocks of a block. -/
def subCount (fmt : Nat) : Nat := 1024 / subSize fmt
/-- Largest legal magnitude (R41). -/
def maxMant (fmt : Nat) : Nat := match fmt with | 1 => 7 | 2 => 127 | _ => 32767
/-- Width of a mantissa in bits. -/
def mantBits (fmt : Nat) : Nat := match fmt with | 1 => 4 | 2 => 8 | _ => 16
/-- Bytes of a block (R40). -/
def blockBytes (fmt : Nat) : Nat := match fmt with | 1 => 640 | 2 => 1120 | _ => 2144
/-- Offset of the side list. -/
def sideOff (fmt : Nat) : Nat := if fmt = 1 then 96 else 64
/-- Offset of the mantissas. -/
def mantOff (fmt : Nat) : Nat := if fmt = 1 then 128 else 96

/-- Mantissa `i` of a block, as stored. -/
def blockMant (fmt : Nat) (bs : List Byte) (i : Nat) : Int :=
  nsigned (mantBits fmt) (bfield bs (8 * mantOff fmt + i * mantBits fmt) (mantBits fmt))
/-- Exponent field of sub-block `k`. -/
def blockExp (bs : List Byte) (k : Nat) : Nat := (bs.getD (32 + k) 0).toNat
/-- Side-list entry `j`: INDEX, reserved bits and MANT. -/
def sideEntry (fmt : Nat) (bs : List Byte) (j : Nat) : Nat × Nat × Int :=
  let o := 8 * (sideOff fmt + 4 * j)
  (bfield bs o 10, bfield bs (o + 10) 6, nsigned 16 (bfield bs (o + 16) 16))
/-- The entries in use. -/
def sideList (fmt : Nat) (bs : List Byte) : List (Nat × Nat × Int) := (List.range (bfield bs 4 4)).map (sideEntry fmt bs)

/-- Indices rise strictly. -/
def rising : List Nat → Bool
  | [] => true
  | [_] => true
  | a :: b :: r => decide (a < b) && rising (b :: r)

/-- The exponents that the spread limit of R44 covers. -/
def spreadExps (fmt : Nat) (bs : List Byte) : List Nat :=
  ((List.range (subCount fmt)).map (blockExp bs)).filter (· != 0) ++ (if bfield bs 4 4 > 0 then [bfield bs 8 8] else [])

/-- The violation of an activation block (R37 to R44, R54), in the order of the detail bytes. -/
def blockBad (bs : List Byte) : Option Nat :=
  let fmt := bfield bs 0 4
  let n := bfield bs 4 4
  let se := bfield bs 8 8
  let subs := List.range (subCount fmt)
  let side := sideList fmt bs
  let marker (i : Nat) : Bool := fmt != 3 && decide (blockMant fmt bs i < -(maxMant fmt : Int))
  if fmt = 0 ∨ fmt > 3 then some 0x10
  else if subs.any (fun k => blockExp bs k == 255 ||
      (blockExp bs k == 0 && (List.range (subSize fmt)).any fun i => blockMant fmt bs (k * subSize fmt + i) != 0)) then some 0x11
  else if (spreadExps fmt bs).any (fun a => (spreadExps fmt bs).any fun b => a > b + 48) then some 0x12
  else if n > 8 ∨ (fmt = 3 ∧ n ≠ 0) ∨ (n = 0 ∧ se ≠ 0) ∨ (n ≠ 0 ∧ (se = 0 ∨ se = 255)) then some 0x13
  else if !rising (side.map (·.1)) || side.any (fun t => t.2.2 == 0 || t.2.2 == -32768) ||
      ((bs.drop (sideOff fmt + 4 * n)).take (32 - 4 * n)).any (· != 0) then some 0x14
  else if (List.range 1024).any (fun i => marker i != (side.any fun t => t.1 == i)) then some 0x15
  else if fmt = 3 ∧ (List.range 1024).any (fun i => blockMant 3 bs i == -32768) then some 0x16
  else if bfield bs 16 16 ≠ 0 ∨ ((bs.drop 4).take 28).any (· != 0) ∨ side.any (fun t => t.2.1 != 0) then some 0x17
  else none

/-- The elements of a block: mantissa and the exponent field it is stored under; a marker takes its entry's (R42). -/
def blockElems (bs : List Byte) : List Elem :=
  let fmt := bfield bs 0 4
  let side := sideList fmt bs
  (List.range 1024).map fun i =>
    match side.find? (fun t => t.1 == i) with
    | some t => { m := t.2.2, e := bfield bs 8 8 }
    | none => { m := blockMant fmt bs i, e := blockExp bs (i / subSize fmt) }

/-- Value of an element: m × 2^(E − 127) (R37). -/
def Elem.val (x : Elem) : Dyad := if x.m = 0 then {} else { m := x.m, e := (x.e : Int) - 127 }

/-! ## Signed digits (R48, R49) -/

/-- The digits of a magnitude: positions and signs, lowest first; 17 positions suffice for |m| ≤ 32,767. -/
def nafDigits (sgn : Int) : Nat → Nat → Nat → List (Nat × Int)
  | 0, _, _ => []
  | fuel + 1, p, a =>
    if a = 0 then []
    else if a % 2 = 0 then nafDigits sgn fuel (p + 1) (a / 2)
    else
      let d : Int := 2 - (a % 4 : Nat)
      (p, sgn * d) :: nafDigits sgn fuel (p + 1) (((a : Int) - d).toNat / 2)

/-- recode(m) of R48. -/
def recode (m : Int) : List (Nat × Int) := nafDigits (if m < 0 then -1 else 1) 17 0 m.natAbs

/-- The terms of an element: absolute position q and sign (R49). -/
def Elem.terms (x : Elem) : List (Int × Int) := (recode x.m).map fun d => ((x.e : Int) - 127 + d.1, d.2)

/-- Number of terms of a list of elements. -/
def termCount (xs : List Elem) : Nat := xs.foldl (fun n x => n + x.terms.length) 0

/-- The absolute positions of a block's live planes (R49). -/
def livePlanes (xs : List Elem) : List Int := (xs.flatMap fun x => x.terms.map (·.1)).eraseDups

/-! ## The requantiser (R46) -/

/-- What the requantiser emits: the block, its saturations, whether it fell back to A16, and its side-list entries. -/
structure Requant where
  bytes    : List Byte
  sats     : Nat := 0
  fellBack : Bool := false
  side     : Nat := 0
  deriving DecidableEq, Repr

/-- Round a value under exponent field `e`, clamped to magnitude `top`. -/
def quant (e top : Nat) (v : Dyad) : Int :=
  max (-(top : Int)) (min (top : Int) (v.round ((e : Int) - 127)))
/-- The value rounds to a magnitude within range. -/
def quantFits (e top : Nat) (v : Dyad) : Bool := (v.round ((e : Int) - 127)).natAbs ≤ top

/-- The smallest exponent field from `e` up, among `fuel`, for which all values round within range; 254 if none (R46). -/
def fitExp (top : Nat) (vs : List Dyad) : Nat → Nat → Nat
  | 0, _ => 254
  | fuel + 1, e => if vs.all (quantFits e top) then e else fitExp top vs fuel (e + 1)

/-- Step 4 of R46: the exponent field of a sub-block's ordinary elements; 0 when all are zero. -/
def subExp (top : Nat) (vs : List Dyad) : Nat := if vs.all (·.m == 0) then 0 else fitExp top vs 254 1

/-- Index of the value of largest magnitude, the lower index on a tie. -/
def argMax (vs : List Dyad) : Nat :=
  ((List.range vs.length).foldl (fun (b : Nat) i =>
    if (vs.getD b {}).abs.lt (vs.getD i {}).abs then i else b) 0)

/-- Step 1 of R46: the candidate of a sub-block, with outlier ratio exponent `k`. -/
def subCandidate (k : Nat) (vs : List Dyad) : Option Nat :=
  let i := argMax vs
  let rest := vs.set i {}
  let v2 := (rest.getD (argMax rest) {}).abs
  if k ≠ 0 ∧ v2.m ≠ 0 ∧ (v2.scale k).lt (vs.getD i {}).abs then some i else none

/-- Slice `k` of a list cut into pieces of `n`. -/
def piece {α : Type} (xs : List α) (n k : Nat) : List α := (xs.drop (n * k)).take n

/-- Keep the `n` candidates of greatest magnitude, the lower index on a tie (R46 step 3). -/
def keepGreatest (vs : List Dyad) : Nat → List Nat → List Nat
  | 0, _ => []
  | n + 1, cs =>
    match cs with
    | [] => []
    | c :: r =>
      let b := r.foldl (fun b i => if (vs.getD b {}).abs.lt (vs.getD i {}).abs then i else b) c
      b :: keepGreatest vs n (cs.filter (· != b))

/-- The values of sub-block `k` with its candidates set to zero. -/
def ordinary (fmt : Nat) (vs : List Dyad) (cs : List Nat) (k : Nat) : List Dyad :=
  (List.range (subSize fmt)).map fun i =>
    if cs.contains (k * subSize fmt + i) then {} else vs.getD (k * subSize fmt + i) {}

/-- Step 7 of R46 for one sub-block: raise its exponent to `low`; a sub-block that becomes all zero takes 0. -/
def raiseExp (low top e : Nat) (vs : List Dyad) : Nat :=
  if e = 0 ∨ low ≤ e then e else if vs.all (fun v => quant low top v == 0) then 0 else low

/-- Bytes of the mantissas of a block, from their patterns. -/
def packMants (fmt : Nat) (ms : List Int) : List Byte :=
  match fmt with
  | 1 => (List.range 512).map fun k =>
      BitVec.ofNat 8 (npattern 4 (ms.getD (2 * k) 0) + 16 * npattern 4 (ms.getD (2 * k + 1) 0))
  | 2 => ms.map fun m => BitVec.ofNat 8 (npattern 8 m)
  | _ => ms.flatMap fun m => leBytes (npattern 16 m) 2

/-- The block with format, sub-block exponents, SIDE_E, candidates in ascending order and ordinary values (R39 to R43). -/
def packBlock (fmt : Nat) (exps : List Nat) (sideE : Nat) (cs : List Nat) (vs : List Dyad) : List Byte :=
  let ms := (List.range 1024).map fun i =>
    if cs.contains i then -((maxMant fmt : Int) + 1) else quant (exps.getD (i / subSize fmt) 0) (maxMant fmt) (vs.getD i {})
  let ms := (List.range 1024).map fun i => if exps.getD (i / subSize fmt) 0 = 0 ∧ ¬ cs.contains i then 0 else ms.getD i 0
  let side := cs.flatMap fun c => leBytes (c + 2 ^ 16 * npattern 16 (quant sideE 32767 (vs.getD c {}))) 4
  leBytes (fmt + 16 * cs.length + 256 * (if cs.isEmpty then 0 else sideE)) 32 ++
    exps.map (BitVec.ofNat 8) ++ padTo 32 side ++ packMants fmt ms

/-- Values that step 6 of R46 clamps. -/
def clampCount (e top : Nat) (vs : List Dyad) : Nat := (vs.filter fun v => !quantFits e top v).length

/-- Steps 4 to 8 of R46 for a format and its candidates. -/
def emitBlock (fmt : Nat) (cs : List Nat) (vs : List Dyad) : Requant :=
  let top := maxMant fmt
  let subs := List.range (subCount fmt)
  let exps := subs.map fun k => subExp top (ordinary fmt vs cs k)
  let cand := cs.map fun c => vs.getD c {}
  let sideE := if cs.isEmpty then 0 else fitExp 32767 cand 254 1
  let big := (exps ++ (if cs.isEmpty then [] else [sideE])).foldl max 0
  let low := big - 48
  let sideE := if cs.isEmpty then 0 else max sideE low
  let back := cs.filter fun c => quant sideE 32767 (vs.getD c {}) == 0
  let cs := cs.filter fun c => !back.contains c
  let exps := subs.map fun k =>
    let e := if back.any (fun c => c / subSize fmt == k) then subExp top (ordinary fmt vs cs k) else exps.getD k 0
    raiseExp low top e (ordinary fmt vs cs k)
  let sats := subs.foldl (fun n k => n + (if exps.getD k 0 = 0 then 0 else clampCount (exps.getD k 0) top (ordinary fmt vs cs k))) 0
  { bytes := packBlock fmt exps sideE cs vs
    sats := sats + clampCount sideE 32767 (cs.map fun c => vs.getD c {})
    side := cs.length }

/-- The requantiser of R46: output format, outlier ratio exponent, fall-back enable, exact values of one block. -/
def requantise (fmt k : Nat) (fallback : Bool) (vs : List Dyad) : Requant :=
  let vs := (List.range 1024).map fun i => vs.getD i {}
  let cs := if fmt = 3 then [] else (List.range (subCount fmt)).filterMap fun j =>
    (subCandidate k (piece vs (subSize fmt) j)).map (j * subSize fmt + ·)
  if cs.length ≤ 8 then emitBlock fmt cs vs
  else if fallback then { emitBlock 3 [] vs with fellBack := true }
  else
    let keep := keepGreatest vs 8 cs
    emitBlock fmt (cs.filter keep.contains) vs

/-! ## L16 (R52, R53) and log-domain numbers -/

/-- The first `k` binary digits of log2 x for x / 2^96 in [1, 2), by squaring. -/
def log2Digits : Nat → Nat → Nat
  | 0, _ => 0
  | k + 1, x =>
    let y := x * x / 2 ^ 96
    if y ≥ 2 ^ 97 then 2 ^ k + log2Digits k (y / 2) else log2Digits k y

/-- log2 of a positive natural number with `f` fractional bits, rounded to nearest. -/
def log2Fix (f m : Nat) : Int :=
  let n := Nat.log2 m
  let x := if n ≤ 96 then m * 2 ^ (96 - n) else m / 2 ^ (n - 96)
  ((n * 2 ^ (f + 1) + log2Digits (f + 1) x + 1) / 2 : Nat)

/-- log2 of a magnitude with `f` fractional bits, rounded to nearest; none for zero. -/
def Dyad.log2 (f : Nat) (a : Dyad) : Option Int :=
  if a.m = 0 then none else some (log2Fix f a.m.natAbs + a.e * 2 ^ f)

/-- What a conversion into L16 gives: the pattern, a saturation, an underflow (R53). -/
structure L16Conv where
  pat : Nat
  sat : Bool := false
  ufl : Bool := false
  deriving DecidableEq, Repr

/-- The pattern of a log2 magnitude with 8 fractional bits relative to the base, with saturation and underflow (R53). -/
def l16Pack (neg : Bool) (log : Int) : L16Conv :=
  let s := if neg then 2 ^ 15 else 0
  if log > 8191 then { pat := s + 8191, sat := true }
  else if log < -8192 then { pat := s + 2 ^ 14, ufl := true }
  else { pat := s + npattern 14 log }

/-- Conversion of an exact value into L16 under base `g`. -/
def l16Of (g : Int) (v : Dyad) : L16Conv :=
  match v.log2 8 with
  | none => { pat := 2 ^ 14 }
  | some l => l16Pack (v.m < 0) (l - g * 256)

/-- ZERO bit. -/
def l16Zero (x : Nat) : Bool := nbits x 14 1 == 1
/-- SIGN bit. -/
def l16Neg (x : Nat) : Bool := nbits x 15 1 == 1
/-- LOG as a number of 1/256. -/
def l16Log (x : Nat) : Int := nsigned 14 (nbits x 0 14)

/-- Integer square root by `fuel` binary digits. -/
def isqrtGo (n : Nat) : Nat → Nat → Nat
  | 0, r => r
  | fuel + 1, r =>
    let c := r + 2 ^ fuel
    isqrtGo n fuel (if c * c ≤ n then c else r)
/-- Integer square root. -/
def isqrt (n : Nat) : Nat := isqrtGo n (Nat.log2 n / 2 + 1) 0

/-- 2^(2^-k) with 80 fractional bits, rounded down. -/
def rootOfTwo : Nat → Nat
  | 0 => 2 ^ 81
  | k + 1 => isqrt (rootOfTwo k * 2 ^ 80)

/-- 2^(j / 2^f) with 80 fractional bits, for j below 2^f: the product over the binary digits of j. -/
def exp2Frac (f j : Nat) : Nat :=
  (List.range f).foldl (fun p k => if j / 2 ^ k % 2 = 1 then p * rootOfTwo (f - k) / 2 ^ 80 else p) (2 ^ 80)

/-- 2^(x / 2^f) as an exact number with about 70 significant bits. -/
def exp2Fix (f : Nat) (x : Int) : Dyad :=
  { m := exp2Frac f (x % (2 ^ f : Nat)).toNat, e := x / (2 ^ f : Nat) - 80 }

/-- The sum of two binary32 patterns, rounded to nearest even (R299); a NaN result's sign and payload are the free
value `free`. -/
def f32Add (free a b : Nat) : Nat :=
  let nan := 2 ^ 31 * (free % 2) + 255 * 2 ^ 23 + 1 + free / 2 % (2 ^ 23 - 1)
  match f32Val a, f32Val b with
  | some x, some y => f32Round (x.add y) (nbits a 31 1 == 1 && nbits b 31 1 == 1)
  | none, some _ => if nbits a 0 23 = 0 then a else nan
  | some _, none => if nbits b 0 23 = 0 then b else nan
  | none, none => if nbits a 0 23 = 0 ∧ a = b then a else nan

end Sys2Proof.Machine
end

