-- ==== Sys2Proof/Config.lean ====
section
/-! DEFINITION. What the spec leaves open or takes from a published standard whose algorithm it does not give.

Every constant here is opaque: it has no value that a proof could use.  notes/assumptions says, for each, what is
open. -/

namespace Sys2Proof.Config

/-- Draw `n` of the die's entropy source (R165, R255, R256): a free value. -/
opaque entropy : Nat → Nat

/-- The 32-bit draw of a request's generator with the given key, at the given position (R255, R256).
The spec names no generator algorithm. -/
opaque generator : BitVec 256 → Nat → BitVec 32

/-- A free value for position `n`: what a command leaves undefined. -/
opaque freeNat : Nat → Nat

/-- The erase block of the model store that holds a logical page of a namespace: the translation layer's (R309). -/
opaque storeBlock : (ns page : Nat) → Nat

/-- What an image's bytes say (the spec gives no image layout). -/
opaque imageInfo : List Byte → Machine.ImageInfo

/-- ML-DSA-65 verification of a signature over a message under a public key (published standard). -/
opaque mldsaVerify : (key message signature : List Byte) → Bool

/-- The ML-DSA-65 signature of the device identity key over a digest (R395, R425). -/
opaque mldsaSign : (publicKey digest : List Byte) → List Byte

/-- ML-KEM-1024 encapsulation: shared secret and ciphertext, from the key and fresh entropy (R395). -/
opaque mlkemEncaps : (key : List Byte) → Nat → List Byte × List Byte

/-- The public key that the device certificate in the identity area is issued over (R417; X.509 is a published
standard). -/
opaque certKey : (identityArea : List Byte) → List Byte

/-- The device certificate chain that the identity area of the boot flash holds (R417, R421; X.509 is a published
standard). -/
opaque certChain : (identityArea : List Byte) → List Byte

/-- AES-256-GCM over a frame: plaintext, or none when the tag fails (R394). -/
opaque gcmOpen : (key : BitVec 256) → (nonce : BitVec 96) → (aad cipher tag : List Byte) → Option (List Byte)

/-- AES-256-GCM sealing of a frame: ciphertext and 16-byte tag (R394). -/
opaque gcmSeal : (key : BitVec 256) → (nonce : BitVec 96) → (aad plain : List Byte) → List Byte × List Byte

/-- The owner, signer and firmware keys are bytes; this is the firmware key whose digest the boot ROM holds (R431). -/
opaque firmwareKey : List Byte

/-- Digest of the boot ROM (KIND 0x01 of R425). -/
opaque bootRomDigest : BitVec 256

/-- The serial form of a sagger's boot-only state that its configuration digest covers (R425): "in setting-plan
encoding", without a byte order of its parts. -/
opaque saggerConfigBytes : (plan : List Byte) → (sagger : Nat) → List Byte

end Sys2Proof.Config
end

