-- ==== Sys2Proof/Machine/Tab.lean ====
section
/-! DEFINITION. Tables of units: reading and writing one unit.  A unit without an entry has the value `d`. -/

namespace Sys2Proof.Machine

/-- The value of unit `k`. -/
def tget {α : Type} (d : α) : Tab α → Nat → α
  | [], _ => d
  | (a, x) :: r, k => if a = k then x else tget d r k

/-- The table with the value `v` for unit `k`; entries stay in rising order. -/
def tset {α : Type} : Tab α → Nat → α → Tab α
  | [], k, v => [(k, v)]
  | (a, x) :: r, k, v =>
    if k < a then (k, v) :: (a, x) :: r else if a = k then (k, v) :: r else (a, x) :: tset r k v

/-- The table with `f` applied to the value of unit `k`. -/
def tmod {α : Type} (d : α) (t : Tab α) (k : Nat) (f : α → α) : Tab α := tset t k (f (tget d t k))

/-- The table without an entry for unit `k`. -/
def tdel {α : Type} (t : Tab α) (k : Nat) : Tab α := t.filter fun c => c.1 != k

end Sys2Proof.Machine
end

