-- ==== Sys2Proof/Machine/Access.lean ====
section
/-! DEFINITION. Reading and changing one unit of the state: saggers, wheels, LDUs, ports, links and the rest, and the
stored registers.  Each updater changes one field of `State`. -/

namespace Sys2Proof.Machine

/-! ## Units -/

/-- Sagger `g`. -/
def State.sagger (s : State) (g : Nat) : Sagger := tget {} s.saggers g
/-- Change sagger `g`. -/
def State.onSagger (s : State) (g : Nat) (f : Sagger → Sagger) : State := { s with saggers := tmod {} s.saggers g f }
/-- Wheel `w`. -/
def State.wheel (s : State) (w : Nat) : Wheel := tget {} s.wheels w
/-- Change wheel `w`. -/
def State.onWheel (s : State) (w : Nat) (f : Wheel → Wheel) : State := { s with wheels := tmod {} s.wheels w f }
/-- Ware board of die `d`. -/
def State.ware (s : State) (d : Nat) : Ware := tget {} s.wares d
/-- Change the ware board of die `d`. -/
def State.onWare (s : State) (d : Nat) (f : Ware → Ware) : State := { s with wares := tmod {} s.wares d f }
/-- LDU `l`. -/
def State.ldu (s : State) (l : Nat) : Ldu := tget {} s.ldus l
/-- Change LDU `l`. -/
def State.onLdu (s : State) (l : Nat) (f : Ldu → Ldu) : State := { s with ldus := tmod {} s.ldus l f }
/-- SSU of die `d`. -/
def State.ssu (s : State) (d : Nat) : Ssu := tget {} s.ssus d
/-- Change the SSU of die `d`. -/
def State.onSsu (s : State) (d : Nat) (f : Ssu → Ssu) : State := { s with ssus := tmod {} s.ssus d f }
/-- Tally `k` = sagger × 4,096 + index. -/
def State.tally (s : State) (k : Nat) : Tally := tget {} s.tallies k
/-- Change tally `k`. -/
def State.onTally (s : State) (k : Nat) (f : Tally → Tally) : State := { s with tallies := tmod {} s.tallies k f }
/-- HBM stack `k`. -/
def State.stack (s : State) (k : Nat) : Stack := tget {} s.hbmStacks k
/-- Change HBM stack `k`. -/
def State.onStack (s : State) (k : Nat) (f : Stack → Stack) : State := { s with hbmStacks := tmod {} s.hbmStacks k f }
/-- Glaze engine of die `d`. -/
def State.glaze (s : State) (d : Nat) : Glaze := tget {} s.glazes d
/-- Change the glaze engine of die `d`. -/
def State.onGlaze (s : State) (d : Nat) (f : Glaze → Glaze) : State := { s with glazes := tmod {} s.glazes d f }
/-- Port `p`: 0 to 5 lattice, 6 lute. -/
def State.port (s : State) (p : Nat) : Port := tget {} s.ports p
/-- Change port `p`. -/
def State.onPort (s : State) (p : Nat) (f : Port → Port) : State := { s with ports := tmod {} s.ports p f }
/-- Shomu link `k`. -/
def State.link (s : State) (k : Nat) : Link := tget {} s.links k
/-- Change Shomu link `k`. -/
def State.onLink (s : State) (k : Nat) (f : Link → Link) : State := { s with links := tmod {} s.links k f }
/-- Channel `c`. -/
def State.chan (s : State) (c : Nat) : Chan := tget {} s.chans c
/-- Change channel `c`. -/
def State.onChan (s : State) (c : Nat) (f : Chan → Chan) : State := { s with chans := tmod {} s.chans c f }
/-- Management session `k`. -/
def State.session (s : State) (k : Nat) : Session := tget {} s.mgmt.sessions k
/-- Change management session `k`. -/
def State.onSession (s : State) (k : Nat) (f : Session → Session) : State :=
  { s with mgmt := { s.mgmt with sessions := tmod {} s.mgmt.sessions k f } }
/-- Cones of die `d`. -/
def State.cone (s : State) (d : Nat) : ConeDie := tget {} s.cones d
/-- Change the cones of die `d`. -/
def State.onCone (s : State) (d : Nat) (f : ConeDie → ConeDie) : State := { s with cones := tmod {} s.cones d f }

/-- Change the power state. -/
def State.onPower (s : State) (f : Power → Power) : State := { s with power := f s.power }
/-- Change the boot state. -/
def State.onBoot (s : State) (f : Boot → Boot) : State := { s with boot := f s.boot }
/-- Change the health area. -/
def State.onHealth (s : State) (f : Health → Health) : State := { s with health := f s.health }
/-- Change the fault log. -/
def State.onFlog (s : State) (f : FaultLog → FaultLog) : State := { s with flog := f s.flog }
/-- Change the timebase. -/
def State.onTb (s : State) (f : Timebase → Timebase) : State := { s with tb := f s.tb }
/-- Change the lattice. -/
def State.onLat (s : State) (f : Lattice → Lattice) : State := { s with lat := f s.lat }
/-- Change the luted pair. -/
def State.onLute (s : State) (f : Lute → Lute) : State := { s with lute := f s.lute }
/-- Change the management port. -/
def State.onMgmt (s : State) (f : Mgmt → Mgmt) : State := { s with mgmt := f s.mgmt }
/-- Change the model store. -/
def State.onStore (s : State) (f : Store → Store) : State := { s with store := f s.store }
/-- Change the memories. -/
def State.onMem (s : State) (f : Memories → Memories) : State := { s with mem := f s.mem }
/-- Change the HBM bytes. -/
def State.onHbm (s : State) (f : Mem → Mem) : State := { s with mem := { s.mem with hbm := f s.mem.hbm } }
/-- Change the ware-board bytes. -/
def State.onWareMem (s : State) (f : Mem → Mem) : State := { s with mem := { s.mem with ware := f s.mem.ware } }
/-- Change the store bytes. -/
def State.onStoreMem (s : State) (f : Mem → Mem) : State := { s with mem := { s.mem with store := f s.mem.store } }

/-- The poison table of die `d`. -/
def State.poisons (s : State) (d : Nat) : List Poison := tget [] s.poison d
/-- Change the poison table of die `d`. -/
def State.onPoison (s : State) (d : Nat) (f : List Poison → List Poison) : State :=
  { s with poison := tmod [] s.poison d f }

/-- The next free value's number, and the state after the draw. -/
def State.draw (s : State) : Nat × State := (s.freeCtr, { s with freeCtr := s.freeCtr + 1 })

/-! ## Stored registers -/

/-- Registers that hold 64 bits: the counter pairs (R9, R474). -/
def Reg.isPair : Reg → Bool
  | .whlBeats | .whlLaneBeats | .whlIdleLaneBeats | .whlBankBeats | .whlStallTile | .whlStallSlab | .whlStallFence
  | .whlStallList | .slbOpBytes | .wbdLoadBytes | .wbdHoldWaitNs | .hbmRdBytes | .hbmWrBytes | .hbmNarrow | .hbmAtomic
  | .mstReadBytes | .glzInBytes | .glzOutBytes | .glzCmpBytes | .glzQfullNs | .tlyProd | .tlyCons | .tlyWtgt
  | .latNbrId | .latTxBytes | .latRxBytes | .latFwdBytes | .latTb | .latTbSet | .lutPartnerId | .lutTxBytes | .lutRxBytes
  | .shlTxBytes | .shlRxBytes | .secId | .conLast | .conThrottleNs | .smpRows | .smpBeats | .xrtRouted
  | .xrtArenaStallNs | .lduCycles | .lduTailCycles | .lduRebuildNs | .lduRowstallNs | .ssuEst | .atnDesc | .atnMasked
  | .atnWalkStallNs | .atnEvictedSlots | .atnMoveBytes | .sgrStepNum | .sgrTok | .sgrTokLate | .sgrSpecNodes
  | .sgrSpecAccept | .sgrSwapOut | .sgrSwapIn => true
  | _ => false

/-- The largest value of a counter: counters stop there (R97, R131, R471). -/
def Reg.top (r : Reg) : Nat := if r.isPair then 2 ^ 64 - 1 else 2 ^ 32 - 1

/-- Reset values of the stored registers that do not reset to zero: CON_BEAT_FACTOR (R18), SGR_ACC_CTL.ORDER (R131),
LAT_CTL.ENABLE (R379) and SHL_CTL.ENABLE (R408). -/
def Reg.reset : Reg → Nat
  | .conBeatFactor => 0x1000
  | .sgrAccCtl => 1
  | .latCtl => 1
  | .shlCtl => 1
  | _ => 0

/-- The stored value of register `r` of unit `u` in a register list. -/
def regGet : List ((Reg × Nat) × Nat) → Reg → Nat → Nat
  | [], r, _ => r.reset
  | ((r', u'), v) :: l, r, u => if r' = r ∧ u' = u then v else regGet l r u

/-- The register list with value `v` for register `r` of unit `u`. -/
def regPut : List ((Reg × Nat) × Nat) → Reg → Nat → Nat → List ((Reg × Nat) × Nat)
  | [], r, u, v => [((r, u), v)]
  | ((r', u'), v') :: l, r, u, v => if r' = r ∧ u' = u then ((r, u), v) :: l else ((r', u'), v') :: regPut l r u v

/-- The stored value of register `r` of unit `u`. -/
def State.reg (s : State) (r : Reg) (u : Nat) : Nat := regGet s.regs r u
/-- Store `v` in register `r` of unit `u`. -/
def State.setReg (s : State) (r : Reg) (u v : Nat) : State := { s with regs := regPut s.regs r u v }
/-- Count `n` more in register `r` of unit `u`; the counter stops at its largest value. -/
def State.bump (s : State) (r : Reg) (u n : Nat) : State := s.setReg r u (min (s.reg r u + n) r.top)

end Sys2Proof.Machine
end

