-- ==== Sys2Proof/Machine/Ops.lean ====
section
/-! DEFINITION. Operations that every chapter shares: how units map to one another and to saggers, which units are
usable, what a sagger may read and write, and raising a fault record. -/

namespace Sys2Proof.Machine

/-! ## Outcomes -/

/-- The outcome of a command that runs only when `ready` holds: its effect, or no change of the state when the event
cannot occur in it (log entry 1). -/
def State.when (s : State) (ready : Bool) (effect : State) : Host.Outcome State Fault Refusal :=
  if ready then .next effect else .next s

/-! ## Units (R11) -/

/-- Shelf of a wheel. -/
def shelfOfWheel (w : Nat) : Nat := w / 12
/-- Die of a shelf. -/
def dieOfShelf (k : Nat) : Nat := k / 6
/-- Die of a wheel. -/
def dieOfWheel (w : Nat) : Nat := dieOfShelf (shelfOfWheel w)
/-- Die of a sagger's setter. -/
def dieOfSagger (g : Nat) : Nat := g / 6
/-- Stack of a stratum. -/
def stackOfStratum (t : Nat) : Nat := t / 8
/-- Die of an HBM stack. -/
def dieOfStack (k : Nat) : Nat := k / 8
/-- Bytes of a stratum: 9 GiB. -/
def stratumBytes : Nat := 9 * 2 ^ 30
/-- Stratum of an HBM address (R294). -/
def stratumOfAddr (a : Nat) : Nat := a / stratumBytes
/-- Stack of an HBM address. -/
def stackOfAddr (a : Nat) : Nat := stackOfStratum (stratumOfAddr a)
/-- Die whose stacks hold an HBM address. -/
def dieOfAddr (a : Nat) : Nat := dieOfStack (stackOfAddr a)
/-- Bytes of module HBM: 1,152 GiB. -/
def hbmBytes : Nat := 128 * stratumBytes
/-- Bytes of a page frame: 128 KiB. -/
def frameBytes : Nat := 131072
/-- Bytes of a slab: 2.5 MiB (R275). -/
def slabBytes : Nat := 2621440
/-- Bit `n` of a number. -/
def bitOf (x n : Nat) : Bool := x / 2 ^ n % 2 == 1
/-- 1 for true and 0 for false. -/
def Bool.num (b : Bool) : Nat := if b then 1 else 0

/-! ## The plan -/

/-- The DEVICE record in force. -/
def State.device (s : State) : PlanDevice := (s.plan.map (·.device)).getD {}
/-- The kiln map in force. -/
def State.kiln (s : State) : PlanKiln := (s.plan.map (·.kiln)).getD {}
/-- The SAGGER record of sagger `g`, if the plan names it. -/
def State.planSagger? (s : State) (g : Nat) : Option PlanSagger :=
  s.plan.bind fun p => p.saggers.find? (·.sagger == g)
/-- The SAGGER record of sagger `g`; a sagger that the plan does not name owns nothing. -/
def State.planSagger (s : State) (g : Nat) : PlanSagger := (s.planSagger? g).getD { sagger := g }
/-- The plan names sagger `g`. -/
def State.named (s : State) (g : Nat) : Bool := (s.planSagger? g).isSome
/-- Sagger that owns shelf `k`. -/
def State.ownerOfShelf (s : State) (k : Nat) : Option Nat :=
  s.plan.bind fun p => (p.saggers.find? fun r => r.shelves.getLsbD k).map (·.sagger)
/-- Sagger that owns wheel `w`. -/
def State.ownerOfWheel (s : State) (w : Nat) : Option Nat := s.ownerOfShelf (shelfOfWheel w)
/-- Sagger `g` owns wheel `w`. -/
def State.ownsWheel (s : State) (g w : Nat) : Bool := w < 144 && (s.planSagger g).shelves.getLsbD (shelfOfWheel w)
/-- The STRATA record of a stratum. -/
def State.stratum (s : State) (t : Nat) : Option PlanStratum := s.plan.bind fun p => p.strata.find? (·.stratum == t)
/-- Sagger `g` owns stratum `t`. -/
def State.ownsStratum (s : State) (g t : Nat) : Bool :=
  match s.stratum t with
  | some r => r.kind == 1 && r.owner == g
  | none => false
/-- Stratum `t` is a SHARED_W stratum that sagger `g` may read. -/
def State.readsStratum (s : State) (g t : Nat) : Bool :=
  match s.stratum t with
  | some r => r.kind == 2 && r.readers.getLsbD g
  | none => false
/-- Base and count of the placement of a type (R440). -/
def State.place (s : State) (g type : Nat) : Option (Nat × Nat) :=
  s.plan.bind fun p => (p.places.find? fun r => r.sagger == g && r.type == type).map fun r => (r.base, r.count)
/-- Byte address of an HBM placement; HBM bases are in units of 4 KiB. -/
def State.placeAddr (s : State) (g type : Nat) : Nat := (((s.place g type).getD (0, 0)).1) * 4096
/-- COUNT of a placement. -/
def State.placeCount (s : State) (g type : Nat) : Nat := ((s.place g type).getD (0, 0)).2
/-- The CHANNEL record of a channel. -/
def State.planChan (s : State) (c : Nat) : Option PlanChannel := s.plan.bind fun p => p.channels.find? (·.chan == c)
/-- Sagger of a channel. -/
def State.saggerOfChan (s : State) (c : Nat) : Option Nat := (s.planChan c).map (·.sagger)
/-- Channels of a sagger. -/
def State.chansOf (s : State) (g : Nat) : List Nat :=
  ((s.plan.map (·.channels)).getD []).filterMap fun r => if r.sagger = g then some r.chan else none
/-- Saggers that the plan names, in order of index. -/
def State.planSaggers (s : State) : List Nat := (List.range 12).filter s.named
/-- Sagger `g` is luted (R373). -/
def State.luted (s : State) (g : Nat) : Bool := s.device.role != 0 && s.device.luted.getLsbD g
/-- This module is the lead of a luted pair. -/
def State.lead (s : State) : Bool := s.device.role == 1
/-- MODULE_ID (R417): the low 64 bits of the digest of the public key, as the start derived it. -/
def State.moduleId (s : State) : Nat := s.reg .secId 0

/-! ## Usable units (R435, R447, R295) -/

/-- Bit `b` of the unusable map, counted from byte `byte`. -/
def State.marked (s : State) (byte b : Nat) : Bool := bitOf (mget s.health.map (byte + b / 8)).toNat (b % 8)
/-- Slab bank `b` of wheel `w` is usable. -/
def State.bankUsable (s : State) (w b : Nat) : Bool := !s.marked 32 (16 * w + b)
/-- Wheel `w` is usable: not marked, all 16 banks usable, and not failed in a reset of this start (R447, R465). -/
def State.wheelUsable (s : State) (w : Nat) : Bool :=
  w < 144 && !s.marked 0 w && (List.range 16).all (s.bankUsable w) && !(s.wheel w).failed
/-- Usable wheels of shelf `k`. -/
def State.shelfWheels (s : State) (k : Nat) : List Nat := ((List.range 12).map (12 * k + ·)).filter s.wheelUsable
/-- Shelf `k` is usable (R447). -/
def State.shelfUsable (s : State) (k : Nat) : Bool :=
  k < 12 && 6 ≤ (s.shelfWheels k).length && !s.marked 384 (16 + dieOfShelf k) && !s.marked 384 (14 + dieOfShelf k)
/-- LDU of shelf `k` is usable (R447). -/
def State.lduUsable (s : State) (k : Nat) : Bool := s.shelfUsable k && !s.marked 384 k
/-- SSU of die `d` is usable. -/
def State.ssuUsable (s : State) (d : Nat) : Bool := !s.marked 384 (12 + d)
/-- Pseudo-channel `p` of stack `k` is usable: neither marked nor failed in this start's training. -/
def State.pchUsable (s : State) (k p : Nat) : Bool := !s.marked 320 (32 * k + p) && !(s.stack k).pcFail.getLsbD p
/-- MODE of HBM_STATUS (R295): 0 full, 1 half on 0–15, 2 half on 16–31, 3 unusable. -/
def State.stackMode (s : State) (k : Nat) : Nat :=
  let lo := (List.range 16).all (s.pchUsable k)
  let hi := (List.range 16).all fun p => s.pchUsable k (16 + p)
  match lo, hi with
  | true, true => 0
  | true, false => 1
  | false, true => 2
  | false, false => 3
/-- Stratum `t` is usable: its stack is usable and half mode does not cut it. -/
def State.stratumUsable (s : State) (t : Nat) : Bool :=
  match s.stackMode (stackOfStratum t) with
  | 0 => t < 128
  | 3 => false
  | _ => t % 8 < 4
/-- Usable wheels of sagger `g`, rising. -/
def State.wheelsOf (s : State) (g : Nat) : List Nat :=
  (List.range 144).filter fun w => s.ownsWheel g w && s.wheelUsable w
/-- Usable LDUs of sagger `g`, rising. -/
def State.ldusOf (s : State) (g : Nat) : List Nat :=
  (List.range 12).filter fun k => (s.planSagger g).shelves.getLsbD k && s.lduUsable k
/-- Sagger `g` has shelves on die `d`. -/
def State.onDie (s : State) (g d : Nat) : Bool :=
  (List.range 6).any fun k => (s.planSagger g).shelves.getLsbD (6 * d + k)
/-- Sagger `g` spans both dies. -/
def State.spans (s : State) (g : Nat) : Bool := s.onDie g 0 && s.onDie g 1
/-- The sagger's lowest-numbered usable wheel, which holds the ragged tables (R440). -/
def State.firstWheel (s : State) (g : Nat) : Nat := ((s.wheelsOf g).head?).getD 0
/-- Model-store channels that are unusable. -/
def State.storeBad (s : State) : List Nat := (List.range 32).filter fun c => s.marked 444 c

/-! ## What a sagger may touch in HBM (R294, R303, R410) -/

/-- The strata that the range of `n` bytes at `a` touches; the range lies within HBM. -/
def strataOf (a n : Nat) : List Nat :=
  if n = 0 then [] else (List.range (stratumOfAddr (a + n - 1) - stratumOfAddr a + 1)).map (stratumOfAddr a + ·)
/-- The range lies within HBM, in usable strata that `p` allows. -/
def State.rangeIn (s : State) (a n : Nat) (p : Nat → Bool) : Bool :=
  a + n ≤ hbmBytes && (strataOf a n).all fun t => s.stratumUsable t && p t
/-- Sagger `g` owns the range: its OWNED strata only. -/
def State.owns (s : State) (g a n : Nat) : Bool := s.rangeIn a n (s.ownsStratum g)
/-- Sagger `g` may read the range: OWNED or SHARED_W strata. -/
def State.mayRead (s : State) (g a n : Nat) : Bool :=
  s.rangeIn a n fun t => s.ownsStratum g t || s.readsStratum g t
/-- Stratum `t` is write-protected (R303). -/
def State.protected (s : State) (t : Nat) : Bool := s.mem.wp.contains t
/-- The range touches a write-protected stratum. -/
def State.rangeProtected (s : State) (a n : Nat) : Bool := (strataOf a n).any s.protected

/-! ## Slabs (R88, R275, R278) -/

/-- Wheel of a slab address (R88): wheel in [29:22], offset in [21:0]. -/
def slabWheel (a : Nat) : Nat := nbits a 22 8
/-- Offset of a slab address. -/
def slabOff (a : Nat) : Nat := nbits a 0 22
/-- Place of a slab address in the slab memory. -/
def slabIx (a : Nat) : Nat := slabWheel a * slabBytes + slabOff a
/-- The region of `n` bytes at a slab address lies within the slab of a usable wheel that the sagger owns, its reserved
bits are zero, and its offset is a multiple of `align`. -/
def State.slabRegion (s : State) (g a n align : Nat) : Bool :=
  nbits a 30 2 == 0 && slabOff a % align == 0 && slabOff a + n ≤ slabBytes &&
    s.ownsWheel g (slabWheel a) && s.wheelUsable (slabWheel a)

/-- The slab lines that a range of the slab memory touches. -/
def linesOf (i n : Nat) : List Nat :=
  if n = 0 then [] else (List.range ((i + n - 1) / 64 - i / 64 + 1)).map (i / 64 + ·)

/-- A sorted list of numbers with `x` in it. -/
def addSorted : List Nat → Nat → List Nat
  | [], x => [x]
  | a :: r, x => if x < a then x :: a :: r else if x = a then a :: r else a :: addSorted r x

/-- Read `n` bytes at a place of the slab memory; the lines with V = 0 read zero (R278). -/
def Memories.slabRead (m : Memories) (i n : Nat) : List Byte := mread m.slab i n
/-- Write bytes at a place of the slab memory: a line that was not valid becomes valid, its other bytes zero (R278). -/
def Memories.slabWrite (m : Memories) (i : Nat) (bs : List Byte) : Memories :=
  { m with slab := mwrite m.slab i bs, valid := (linesOf i bs.length).foldl addSorted m.valid }
/-- Make every line of wheel `w` invalid; its bytes then read zero (R278, R279). -/
def Memories.slabClear (m : Memories) (w : Nat) : Memories :=
  { m with
    slab := mclear m.slab (w * slabBytes) slabBytes
    valid := m.valid.filter fun l => l / 40960 != w }

/-- Bytes at a slab address. -/
def State.slab (s : State) (a n : Nat) : List Byte := s.mem.slabRead (slabIx a) n
/-- The `n`-byte number at a slab address. -/
def State.slabNum (s : State) (a n : Nat) : Nat := leNat (s.slab a n)
/-- Write bytes at a slab address. -/
def State.putSlab (s : State) (a : Nat) (bs : List Byte) : State := { s with mem := s.mem.slabWrite (slabIx a) bs }
/-- Write an `n`-byte number at a slab address. -/
def State.putSlabNum (s : State) (a n v : Nat) : State := s.putSlab a (leBytes v n)
/-- Slab lines of a range that are invalid, which a read counts (R278). -/
def State.invalidLines (s : State) (i n : Nat) : Nat := ((linesOf i n).filter fun l => !s.mem.valid.contains l).length

/-! ## Undefined contents -/

/-- Bytes that are undefined: free values from position `k` on. -/
def freeBytes (k n : Nat) : List Byte := (List.range n).map fun i => BitVec.ofNat 8 (Config.freeNat (k + i))

/-! ## HBM -/

/-- Bytes of HBM. -/
def State.hbm (s : State) (a n : Nat) : List Byte := mread s.mem.hbm a n
/-- The `n`-byte number in HBM. -/
def State.hbmNum (s : State) (a n : Nat) : Nat := mnum s.mem.hbm a n
/-- A field of a record in HBM. -/
def State.hbmField (s : State) (a lo w : Nat) : Nat := mfield s.mem.hbm a lo w
/-- Write bytes in HBM. -/
def State.putHbm (s : State) (a : Nat) (bs : List Byte) : State := s.onHbm fun m => mwrite m a bs
/-- Write a number in HBM. -/
def State.putHbmNum (s : State) (a n v : Nat) : State := s.onHbm fun m => mputNum m a n v
/-- Set a field of a record in HBM. -/
def State.putHbmField (s : State) (a lo w v : Nat) : State := s.onHbm fun m => msetField m a lo w v
/-- Zero `n` bytes of HBM. -/
def State.zeroHbm (s : State) (a n : Nat) : State := s.onHbm fun m => mclear m a n

/-! ## Time -/

/-- Kiln timebase in ns. -/
def State.now (s : State) : Nat := s.tb.ns
/-- REFCLK timer in ns. -/
def State.refNow (s : State) : Nat := s.tb.ref
/-- Progress of a unit of sagger `g`, which re-arms its deadlock detector (R344, R345). -/
def State.touch (s : State) (g : Nat) : State :=
  s.onSagger g fun x => { x with progress := s.refNow, dlArmed := true }

/-! ## Fault records (R461 to R464) -/

/-- The code of a class, block and detail (R461). -/
def faultCode (cls block detail : Nat) : BitVec 16 := BitVec.ofNat 16 (cls * 4096 + block * 256 + detail)
/-- Class of a code. -/
def codeClass (c : BitVec 16) : Nat := c.toNat / 4096
/-- Detail byte of a code. -/
def codeDetail (c : BitVec 16) : Nat := c.toNat % 256

/-- Containment level of a code raised for sagger `g` (R464); LEVEL 7 is chosen by who raises it. -/
def State.levelOf (s : State) (code : BitVec 16) (g : Nat) : Nat :=
  match codeClass code with
  | 1 => 0
  | 2 => 1
  | 3 => if codeDetail code = 0xD9 then 3 else if g < 12 && s.luted g then 3 else 2
  | n => n

/-- A SERVING sagger that a LEVEL 2 fault hits starts to reset (R411, R464); a further fault changes nothing (R467). -/
def State.startReset (s : State) (g : Nat) (code : BitVec 16) : State :=
  if g < 12 ∧ (s.sagger g).st = .serving then
    s.onSagger g fun x => { x with st := .resetting, cause := { code := code } }
  else s

/-- What a record's level reaches at once: a sagger reset or a pair stop (R464). -/
def State.contain (s : State) (r : FaultRec) : State :=
  match r.level with
  | 2 => s.startReset r.sagger.toNat r.code
  | 3 => s.onLute fun l => { l with stop := true }
  | _ => s

/-- The record as it is detected: its level, time and step number are filled in. -/
def State.stamp (s : State) (r : FaultRec) : FaultRec :=
  { r with
    level := if r.level = 7 then 7 else s.levelOf r.code r.sagger.toNat
    time := s.now
    step := if r.sagger = 15 then 0 else (s.sagger r.sagger.toNat).stepNum % 2 ^ 32 }

/-- Raise a fault record: it waits to enter the log (R463), and its containment starts (R464). -/
def State.raise (s : State) (r : FaultRec) : State :=
  let r := s.stamp r
  (s.onFlog fun f => { f with detected := f.detected ++ [r] }).contain r

/-- Sagger field of a record for sagger `g`. -/
def sgField (g : Nat) : BitVec 4 := if g < 12 then BitVec.ofNat 4 g else 15

/-- Raise a record with code, sagger, unit and subunit. -/
def State.fault (s : State) (cls block detail g unit sub : Nat) : State :=
  s.raise { code := faultCode cls block detail, sagger := sgField g, unit := unit, subunit := sub }

/-- Raise a class 0x2 record that names a request (R462). -/
def State.faultReq (s : State) (block detail g unit : Nat) (q : ReqName) : State :=
  s.raise { code := faultCode 2 block detail, sagger := sgField g, unit := unit, req := some q }

/-- Raise a record for a record rejected under R5, whose first 20 bytes it carries. -/
def State.faultRec (s : State) (cls block detail g unit sub addr : Nat) (bytes : List Byte) : State :=
  s.raise { code := faultCode cls block detail, sagger := sgField g, unit := unit, subunit := sub, addr := addr,
            info := bytes.take 20 }

/-- The limit that is kept for a code, unit and subunit. -/
def FaultLog.limit (f : FaultLog) (code : BitVec 16) (unit sub : Nat) : Option RateLimit :=
  f.limits.find? fun l => l.code == code && l.unit == unit && l.sub == sub

/-- Raise a record at most once per `gap` ns of REFCLK for its code, its unit and `sub`; withheld records are counted in
SUPPRESSED of the next one with that code and unit (R462). -/
def State.raiseLimited (s : State) (gap sub : Nat) (r : FaultRec) : State :=
  let same (l : RateLimit) : Bool := l.code == r.code && l.unit == r.unit
  let mine (l : RateLimit) : Bool := same l && l.sub == sub
  let open_ : Bool := match s.flog.limit r.code r.unit sub with
    | some l => s.refNow < l.since + gap
    | none => false
  if open_ then
    s.onFlog fun f => { f with limits := f.limits.map fun l => if mine l then { l with withheld := l.withheld + 1 } else l }
  else
    let held := (s.flog.limits.filter same).foldl (fun n l => n + l.withheld) 0
    let rest := (s.flog.limits.filter fun l => !mine l).map fun l => if same l then { l with withheld := 0 } else l
    (s.onFlog fun f => { f with
      limits := rest ++ [{ code := r.code, unit := r.unit, sub := sub, since := s.refNow }] }).raise
      { r with suppressed := min held 65535 }

/-! ## The running step's image, and requests by slot -/

/-- An image loaded into a sagger under an index. -/
def State.image? (s : State) (g ix : Nat) : Option LoadedImage := (s.sagger g).images.find? (·.index == ix)
/-- The image that the running step of a sagger runs (R284). -/
def State.stepImage (s : State) (g : Nat) : ImageInfo := ((s.image? g (s.sagger g).stepModel).map (·.info)).getD {}
/-- A layer-table entry of the step's image. -/
def State.layer (s : State) (g l : Nat) : LayerInfo := (s.stepImage g).layers.getD l {}

/-- The live request that holds a sequence slot, as its own slot or its draft slot. -/
def State.reqOfSlot (s : State) (g slot : Nat) : Option Req :=
  (s.sagger g).live.find? fun q => q.slot == slot || q.draftSlot == some slot

/-- The name of a request for a fault record (R462). -/
def Req.name (q : Req) : ReqName :=
  { reqId := q.sub.reqId, slot := BitVec.ofNat 16 q.slot, chan := BitVec.ofNat 6 q.chan }

/-- Change the live request that holds a slot. -/
def State.onSlot (s : State) (g slot : Nat) (f : Req → Req) : State :=
  s.onSagger g fun x => { x with live := x.live.map fun q =>
    if q.slot = slot ∨ q.draftSlot = some slot then f q else q }

/-- Fail the request that holds a slot at its step's fire point, with a class 0x2 record (R57, R313, R464). -/
def State.failSlot (s : State) (block detail g unit slot : Nat) : State :=
  match s.reqOfSlot g slot with
  | none => s
  | some q =>
    (s.faultReq block detail g unit q.name).onSlot g slot fun q =>
      { q with failed := some (q.failed.getD (faultCode 2 block detail)) }

/-- The sagger's list halts (R93). -/
def State.haltList (s : State) (g : Nat) : State := s.onSagger g fun x => { x with listHalt := true }

end Sys2Proof.Machine
end

