-- ==== Sys2Proof/Machine/Packet.lean ====
section
/-! DEFINITION. Lattice packets: headers, checks and routing (spec/12_lattice_kiln_and_lute.md, R358 to R361). -/

namespace Sys2Proof.Machine

/-! ## Coordinates (R353) -/

/-- A coordinate: X in [3:0], Y in [7:4], Z in [10:8]. -/
abbrev Coord := BitVec 11
/-- Component of a coordinate: 0 X, 1 Y, 2 Z. -/
def Coord.at (c : Coord) (dim : Nat) : Nat := nbits c.toNat (4 * dim) (if dim = 2 then 3 else 4)
/-- The coordinate with components x, y, z. -/
def coordOf (x y z : Nat) : Coord := BitVec.ofNat 11 (x + 16 * y + 256 * z)
/-- A coordinate with one component changed. -/
def Coord.with (c : Coord) (dim v : Nat) : Coord :=
  coordOf (if dim = 0 then v else Coord.at c 0) (if dim = 1 then v else Coord.at c 1) (if dim = 2 then v else Coord.at c 2)
/-- Size of a kiln dimension. -/
def PlanKiln.size (k : PlanKiln) (dim : Nat) : Nat := match dim with | 0 => k.x | 1 => k.y | _ => k.z
/-- The coordinate lies inside the kiln. -/
def PlanKiln.has (k : PlanKiln) (c : Coord) : Bool := Coord.at c 0 < k.x && Coord.at c 1 < k.y && Coord.at c 2 < k.z
/-- Place of a coordinate in the kiln map. -/
def PlanKiln.index (k : PlanKiln) (c : Coord) : Nat := Coord.at c 0 + k.x * (Coord.at c 1 + k.y * Coord.at c 2)
/-- MODULE_ID that the map expects at a coordinate. -/
def PlanKiln.idAt (k : PlanKiln) (c : Coord) : Nat := ((k.ids.getD (k.index c) 0)).toNat
/-- Every coordinate of the kiln. -/
def PlanKiln.coords (k : PlanKiln) : List Coord :=
  (List.range k.z).flatMap fun z => (List.range k.y).flatMap fun y => (List.range k.x).map fun x => coordOf x y z
/-- The neighbour of a coordinate in direction `d`: +X, −X, +Y, −Y, +Z, −Z. -/
def PlanKiln.step (k : PlanKiln) (c : Coord) (d : Nat) : Coord :=
  let n := k.size (d / 2)
  Coord.with c (d / 2) ((Coord.at c (d / 2) + (if d % 2 = 0 then 1 else n - 1)) % n)
/-- This module's coordinate. -/
def State.own (s : State) : Coord := s.kiln.own

/-! ## Headers (R358, R359) -/

/-- A field of a packet header: byte offset, bit, width. -/
def Packet.field (p : Packet) (off lo w : Nat) : Nat := nbits p.hdr.toNat (8 * off + lo) w
/-- TYPE. -/
def Packet.type (p : Packet) : Nat := p.field 0 0 8
/-- CLASS: 0 CTRL, 1 REQ, 2 RSP. -/
def Packet.cls (p : Packet) : Nat := p.field 0 8 2
/-- VC. -/
def Packet.vc (p : Packet) : Nat := p.field 0 10 2
/-- DCOUNT. -/
def Packet.detours (p : Packet) : Nat := p.field 0 12 2
/-- LEN. -/
def Packet.len (p : Packet) : Nat := p.field 0 16 13
/-- Destination coordinate. -/
def Packet.dest (p : Packet) : Coord := BitVec.ofNat 11 (p.field 4 0 11)
/-- Source coordinate. -/
def Packet.src (p : Packet) : Coord := BitVec.ofNat 11 (p.field 4 16 11)
/-- XID. -/
def Packet.xid (p : Packet) : Nat := p.field 8 0 32
/-- SLICE. -/
def Packet.slice (p : Packet) : Nat := p.field 12 0 16
/-- HOPS. -/
def Packet.hops (p : Packet) : Nat := p.field 12 16 8
/-- DSAG. -/
def Packet.dsag (p : Packet) : Nat := p.field 12 24 4
/-- The 32-bit ARG word at a byte offset. -/
def Packet.arg (p : Packet) (off : Nat) : Nat := p.field off 0 32
/-- Bytes of the packet on a link. -/
def Packet.bytes (p : Packet) : Nat := 32 + p.payload.length
/-- Set a header field. -/
def Packet.set (p : Packet) (off lo w v : Nat) : Packet :=
  { p with hdr := BitVec.ofNat 256 (nsetBits p.hdr.toNat (8 * off + lo) w v) }
/-- Virtual channel of R350: three for each class. -/
def Packet.chan (p : Packet) : Nat := 3 * p.cls + p.vc

/-- A packet of this module: the payload is padded to a multiple of 16 B. -/
def State.packet (s : State) (type cls : Nat) (dst : Coord) (xid slice dsag : Nat) (a16 a20 a24 : Nat) (payload : List Byte) : Packet :=
  let n := (payload.length + 15) / 16 * 16
  { hdr := BitVec.ofNat 256 (type + 2 ^ 8 * cls + 2 ^ 16 * n + 2 ^ 32 * dst.toNat + 2 ^ 48 * s.own.toNat + 2 ^ 64 * (xid % 2 ^ 32) +
      2 ^ 96 * (slice % 2 ^ 16) + 2 ^ 120 * (dsag % 16) + 2 ^ 128 * (a16 % 2 ^ 32) + 2 ^ 160 * (a20 % 2 ^ 32) + 2 ^ 192 * (a24 % 2 ^ 32))
    payload := padTo n payload }

/-- Classes that R359 gives a TYPE; none for an illegal TYPE. -/
def typeClasses (type : Nat) : List Nat :=
  if 1 ≤ type ∧ type ≤ 7 then [0]
  else match type with
    | 0x10 => [1, 2]
    | 0x11 => [1, 2]
    | 0x12 => [1]
    | 0x13 => [1]
    | 0x14 => [1]
    | 0x15 => [1, 2]
    | 0x20 => [2]
    | _ => []

/-- A header fails R360. -/
def State.packetBad (s : State) (p : Packet) : Bool :=
  !(typeClasses p.type).contains p.cls || p.vc == 3 || p.len > 4096 || p.len % 16 != 0 || !s.kiln.has p.dest ||
    !s.kiln.has p.src || p.field 0 14 2 != 0 || p.field 0 29 3 != 0 || p.field 4 11 5 != 0 || p.field 4 27 5 != 0 ||
    p.field 12 28 4 != 0 || p.hops ≥ 64

/-! ## Ports and directions -/

/-- A lattice port is UP. -/
def State.portUp (s : State) (p : Nat) : Bool := (s.port p).st == .up
/-- The port that is UP and serves a direction. -/
def State.portServing (s : State) (d : Nat) : Option Nat :=
  (List.range 6).find? fun p => s.portUp p && (s.port p).serves == d
/-- Direction of the next hop toward a coordinate in dimension order; ties take + (R361). -/
def PlanKiln.hop (k : PlanKiln) (mine dst : Coord) : Option Nat :=
  ((List.range 3).find? fun dim => Coord.at dst dim != Coord.at mine dim).map fun dim =>
    let n := k.size dim
    let fwd := (Coord.at dst dim + n - Coord.at mine dim) % n
    2 * dim + (if fwd ≤ n - fwd then 0 else 1)
/-- Directions of a detour around dimension `dim` in order. -/
def detourDirs (dim : Nat) : List Nat :=
  let a := (dim + 1) % 3
  let b := (dim + 2) % 3
  [2 * a, 2 * a + 1, 2 * b, 2 * b + 1]
/-- The detour port of R361: UP, of version 1.1 or later, in a dimension larger than 1. -/
def State.detourPort (s : State) (dim : Nat) : Option Nat :=
  (detourDirs dim).findSome? fun d => (s.portServing d).bind fun q =>
    if ((s.port q).vmaj > 1 || (s.port q).vmin ≥ 1) && s.kiln.size (d / 2) > 1 then some q else none
/-- The hop in direction `d` crosses the wrap link of its dimension. -/
def PlanKiln.wraps (k : PlanKiln) (mine : Coord) (d : Nat) : Bool :=
  if d % 2 = 0 then Coord.at mine (d / 2) + 1 == k.size (d / 2) else Coord.at mine (d / 2) == 0

/-! ## Routing (R361) -/

/-- Queue a packet on an output port; bytes that this module forwards for others are counted. -/
def State.queueOn (s : State) (port : Nat) (p : Packet) (forwarded : Bool) : State :=
  let p := p.set 12 16 8 (p.hops + 1)
  (s.onPort port fun x => { x with out := x.out ++ [(p.chan, p)] }).bump .latFwdBytes port (if forwarded then p.bytes else 0)

/-- What the router does with a packet that is not for this module: the port it takes and the packet as it leaves, or
none when it is dropped. -/
def State.nextHop (s : State) (input : Option Nat) (p : Packet) : Option (Nat × Packet × Bool) :=
  (s.kiln.hop s.own p.dest).bind fun d =>
    let fresh := match input with
      | none => true
      | some q => (s.port q).serves / 2 != d / 2
    let p := if p.vc != 2 && fresh then p.set 0 10 2 0 else p
    match s.portServing d with
    | some q => some (q, if s.kiln.wraps s.own d && p.vc != 2 then p.set 0 10 2 1 else p, false)
    | none =>
      if p.detours < 2 then (s.detourPort (d / 2)).map fun q => (q, (p.set 0 12 2 (p.detours + 1)).set 0 10 2 2, true) else none

/-- The packet reaches this module: it waits for its handler; a sagger that is down or resetting cannot take it (R363). -/
def State.takesPackets (s : State) (dsag : Nat) : Bool :=
  dsag == 15 || (dsag < 12 && ((s.sagger dsag).st == .serving || (s.sagger dsag).st == .building))
/-- The UNREACHABLE that answers a REQ packet (R359, R361). -/
def State.unreachableFor (s : State) (p : Packet) : Packet :=
  s.packet 0x20 2 p.src p.xid p.slice 15 p.type s.own.toNat 0 []

/-- Send a packet of this module, or forward one that arrived on `input`; a dropped REQ is answered with UNREACHABLE,
whose own drop is not answered. -/
def State.forward (s : State) (input : Option Nat) (p : Packet) : State :=
  if p.dest = s.own then s.onLat fun l => { l with consumed := l.consumed ++ [p] }
  else match s.nextHop input p with
    | some (q, p', detour) => (s.queueOn q p' input.isSome).bump .latDetour q (Bool.num detour)
    | none => s.bump .latDrop (input.getD 0) 1
/-- As `forward`, with the answer to a REQ that is dropped. -/
def State.routePacket (s : State) (input : Option Nat) (p : Packet) : State :=
  let s' := s.forward input p
  if p.dest ≠ s.own ∧ (s.nextHop input p).isNone ∧ p.cls = 1 then s'.forward none (s.unreachableFor p) else s'
/-- Send a packet of this module. -/
def State.sendPacket (s : State) (p : Packet) : State := s.routePacket none p

/-- The first packet of a TYPE that waits for its handler, and the state without it. -/
def State.takePacket (s : State) (type : Nat) : Option (Packet × State) :=
  (s.lat.consumed.find? fun p => p.type == type).map fun p => (p, s.onLat fun l => { l with consumed := l.consumed.erase p })

end Sys2Proof.Machine
end

