-- ==== Sys2Proof/Machine/Poison.lean ====
section
/-! DEFINITION. Weight chunks in HBM, the poison tables and the choice of reload sources (spec/09_memory_tiers.md, R306,
R310 to R312). -/

namespace Sys2Proof.Machine

/-! ## Where a weight region lies (R306) -/

/-- Address of byte `off` of an image's weight region: 64 KiB chunks go round-robin over its strata. -/
def LoadedImage.byteAddr (i : LoadedImage) (off : Nat) : Nat :=
  let n := i.strata.length
  if n = 0 then 0 else i.strata.getD (off / 65536 % n) 0 * stratumBytes + off / 65536 / n * 65536 + off % 65536
/-- Address of a unit of 1 KiB. -/
def LoadedImage.unitAddr (i : LoadedImage) (u : Nat) : Nat := i.byteAddr (1024 * u)
/-- Chunk index of an HBM address that lies in the image's weight region. -/
def LoadedImage.chunkAt (i : LoadedImage) (a : Nat) : Option Nat :=
  (i.strata.findIdx? (· == stratumOfAddr a)).bind fun j =>
    let c := a % stratumBytes / 65536 * i.strata.length + j
    if c * 65536 < i.info.weightLen then some c else none
/-- Saggers and images whose weight region holds an address. -/
def State.imagesAt (s : State) (a : Nat) : List (Nat × LoadedImage) :=
  (List.range 12).flatMap fun g => ((s.sagger g).images.filter fun i => (i.chunkAt a).isSome).map fun i => (g, i)

/-- A chunk of 64 KiB is in a poison table. -/
def State.chunkIsPoisoned (s : State) (a : Nat) : Bool := [0, 1].any fun d => (s.poisons d).any fun p => p.chunk == a / 65536

/-! ## Damage (R312) -/

/-- The images that hold a chunk are damaged: a record 0xA8 for every sagger that serves one. -/
def State.damageChunk (s : State) (a : Nat) : State :=
  (s.imagesAt a).foldl (fun s x =>
    (s.onSagger x.1 fun y => { y with images := y.images.map fun i => if i.index = x.2.index then { i with damaged := true } else i }).raise
      { code := faultCode 3 0 0xA8, sagger := sgField x.1, level := 7, unit := 13, addr := a / 65536 * 65536 }) s

/-! ## Reload sources (R311) -/

/-- Neighbours that advertise the image, in port order, on links that carry CHUNK_REQ (R351, R356); then the own store,
which is source 7. -/
def State.reloadSources (s : State) (i : LoadedImage) : List Nat :=
  ((List.range 6).filter fun p =>
    let x := s.port p
    x.st == .up && (x.vmaj > 1 || x.vmin ≥ 2) && x.ads.contains (i.measure.setWidth 64)) ++ [7]

/-- Ask the first source of a poisoned chunk: a neighbour gets a CHUNK_REQ, and the stream that answers it is expected. -/
def State.askChunk (s : State) (a : Nat) (sources : List Nat) : State :=
  match sources, (s.imagesAt a).head? with
  | p :: _, some (g, i) =>
    if p ≥ 6 then s
    else
      let c := (i.chunkAt a).getD 0
      let at_ := (s.port p).nbrAt
      let sid := s.lat.nextXid
      let st : Stream := { sid := sid, peer := .lattice at_, kind := 4, sagger := g, ctxA := c, ctxB := i.index,
                           dst := a / 65536 * 65536, dstLen := 65536, xid := sid }
      (s.onLat fun l => { l with nextXid := sid + 1, streams := l.streams ++ [st] }).sendPacket
        (s.packet 0x14 1 at_ sid 0 15 c (i.measure.toNat % 2 ^ 32) (i.measure.toNat / 2 ^ 32 % 2 ^ 32) [])
  | _, _ => s

/-- The poison entry of a chunk. -/
def State.poisonOf (s : State) (a : Nat) : Option Poison := (s.poisons (dieOfAddr a)).find? fun p => p.chunk == a / 65536
/-- Change the poison entry of a chunk. -/
def State.onChunk (s : State) (a : Nat) (f : Poison → Poison) : State :=
  s.onPoison (dieOfAddr a) fun l => l.map fun p => if p.chunk = a / 65536 then f p else p
/-- Drop the streams that a reload of a chunk expects. -/
def State.dropReload (s : State) (a : Nat) : State :=
  s.onLat fun l => { l with streams := l.streams.filter fun t => !(t.kind == 4 && t.dst == a / 65536 * 65536) }

/-- The reload moves to its next source, or fails from every source (R311, R312). -/
def State.nextSource (s : State) (a : Nat) : State :=
  match s.poisonOf a with
  | none => s
  | some p =>
    let rest := p.sources.drop 1
    let s1 := (s.dropReload a).onChunk a fun x => { x with sources := rest, since := s.refNow, failed := rest.isEmpty }
    if rest.isEmpty then (s1.damageChunk a).bump .mstReloadFail 0 1 else s1.askChunk a rest

/-- A weight chunk is poisoned (R310): entered in its die's table, with one record 0xA6, and its reload starts; a full table
damages the image (R312).  A chunk already entered, or one of no image, changes nothing. -/
def State.poisonChunk (s : State) (a : Nat) : State :=
  match (s.imagesAt a).head? with
  | none => s
  | some (_, i) =>
    let d := dieOfAddr a
    if s.chunkIsPoisoned a then s
    else if (s.poisons d).length ≥ 4096 then s.damageChunk a
    else
      let src := s.reloadSources i
      ((s.onPoison d fun l => l ++ [{ chunk := a / 65536, sources := src, since := s.refNow }]).raise
        { code := faultCode 1 0 0xA6, sagger := 15, unit := 13, addr := a / 65536 * 65536 }).askChunk a src

end Sys2Proof.Machine
end

