-- ==== Sys2Proof/Machine/Remote.lean ====
section
/-! DEFINITION. The remote window of a luted sagger and the memory messages that reach it (spec/12_lattice_kiln_and_lute.md,
R375, R376). -/

namespace Sys2Proof.Machine

/-- First byte of the window, and bytes of one slot. -/
def windowBase : Nat := 1152 * 2 ^ 30
/-- The range lies in the window of a luted sagger on the lead. -/
def State.inWindow (s : State) (g a n : Nat) : Bool :=
  s.luted g && s.lead && windowBase ≤ a && a + n ≤ 2043 * 2 ^ 30 && 0 < n
/-- A lute memory message (R376). -/
def luteMemMsg (type g tag addr : Nat) (payload : List Byte) : LuteMsg :=
  { hdr := BitVec.ofNat 128 (type + 2 ^ 8 * g + 2 ^ 16 * tag + 2 ^ 32 * (addr % 2 ^ 32) + 2 ^ 64 * (addr / 2 ^ 32 % 512) +
      2 ^ 96 * payload.length), payload := payload }
/-- Queue a lute message. -/
def State.sendLute (s : State) (m : LuteMsg) : State := s.onLute fun l => { l with tx := l.tx ++ [m] }
/-- Send a READ for `n` bytes at window address `a`. -/
def State.askRemote (s : State) (g a n : Nat) (use : LuteUse) : State :=
  let tag := s.lute.nextTag
  ((s.onLute fun l => { l with nextTag := tag + 1, asked := l.asked ++ [{ tag := tag, sagger := g, bytes := n, use := use }] }).sendLute
    (luteMemMsg 2 g tag.toNat a (leBytes n 4))).bump .lutRemoteRd 0 1
/-- Send a WRITE. -/
def State.writeRemote (s : State) (g a : Nat) (data : List Byte) : State :=
  (s.sendLute (luteMemMsg 1 g 0 a data)).bump .lutRemoteWr 0 1
/-- Send an ATOMIC. -/
def State.atomicRemote (s : State) (g a r : Nat) : State :=
  let tag := s.lute.nextTag
  ((s.onLute fun l => { l with nextTag := tag + 1, asked := l.asked ++ [{ tag := tag, sagger := g, bytes := (if nbits r 0 4 = 2 then 8 else 4), use := .atomic (bitOf r 4) }] }).sendLute
    (luteMemMsg 4 g tag.toNat a (leBytes r 16))).bump .lutRemoteWr 0 1
/-- Pieces of at most 4,096 B: offset and bytes. -/
def pieces4k (n : Nat) : List (Nat × Nat) := (List.range ((n + 4095) / 4096)).map fun k => (4096 * k, min 4096 (n - 4096 * k))

end Sys2Proof.Machine
end

