-- ==== Sys2Proof/Machine/Tally.lean ====
section
/-! DEFINITION. Tallies (spec/11_tallies.md): signals, releases, waits, mirrors, shadows and the wait-for snapshot. -/

namespace Sys2Proof.Machine

/-- Number of a tally in the state: sagger × 4,096 + index. -/
def tallyKey (g i : Nat) : Nat := g * 4096 + i
/-- Number of the tally that a command names. -/
def idKey (t : TallyId) : Nat := tallyKey t.sagger.toNat t.index.toNat
/-- Sagger of a tally number; 15 = house. -/
def tallySagger (k : Nat) : Nat := k / 4096
/-- Index of a tally number. -/
def tallyIndex (k : Nat) : Nat := k % 4096

/-- MODE of R334: 0 OFF, 1 RING, 2 EVENT. -/
def Tally.mode (t : Tally) : Nat := nbits t.cfg.toNat 0 2
/-- Home die. -/
def Tally.home (t : Tally) : Nat := nbits t.cfg.toNat 2 1
/-- LEAD: the home lies on the lead of the pair (R334). -/
def Tally.lead (t : Tally) : Bool := bitOf t.cfg.toNat 3
/-- SHADOW bit. -/
def Tally.shadow (t : Tally) : Bool := bitOf t.cfg.toNat 4
/-- DEPTH: the bound on PROD − CONS. -/
def Tally.depth (t : Tally) : Nat := nbits t.cfg.toNat 32 24
/-- A configuration that TALLY_CONFIG accepts (R334, R346). -/
def cfgLegal (cfg : BitVec 64) : Bool :=
  nbits cfg.toNat 0 2 != 3 && nbits cfg.toNat 5 27 == 0 && nbits cfg.toNat 32 24 != 0 && nbits cfg.toNat 56 8 == 0

/-- `v` has reached `t`, modulo 2^48 (R335). -/
def reached (v t : BitVec 48) : Bool := (v - t).toNat < 2 ^ 47
/-- PROD − CONS. -/
def Tally.open_ (t : Tally) : Nat := (t.prod - t.cons).toNat

/-- CONS after the consuming wait for target `t` is met (R336). -/
def consumeTo (c t : BitVec 48) : BitVec 48 := if reached c t then c else t

/-- Wake every waiter whose target PROD has reached; consuming waits of an EVENT tally advance CONS (R336). -/
def Tally.wake (t : Tally) : Tally :=
  { t with
    waiters := t.waiters.filter fun w => !reached t.prod w.target
    cons := (t.waiters.filter fun w => reached t.prod w.target && w.consume && t.mode == 2).foldl
      (fun c w => consumeTo c w.target) t.cons }

/-- PROD advances by `n` (R336, R341, R343). -/
def Tally.signal (t : Tally) (n : Nat) (agent : BitVec 13) : Tally :=
  Tally.wake { t with prod := t.prod + BitVec.ofNat 48 n, last := agent, shadowDue := t.shadow || t.shadowDue }

/-- A tally fault: class 0x4 for house tallies, 0x3 otherwise (R346). -/
def State.tallyFault (s : State) (k detail by_ : Nat) : State :=
  s.fault (if tallySagger k < 12 then 3 else 4) 0xC detail by_ (s.tally k).home (tallyIndex k)

/-- Progress of the sagger, or the house, that a tally belongs to (R344). -/
def State.tallyTouch (s : State) (k : Nat) : State :=
  if tallySagger k < 12 then s.touch (tallySagger k) else { s with houseProgress := s.refNow, houseArmed := true }

/-- Apply a signal at its home; a signal that breaks DEPTH marks the tally OVER and raises 0xC0 (R337). -/
def State.applySignal (s : State) (k n : Nat) (agent : BitVec 13) : State :=
  let s := (s.onTally k (·.signal n agent)).tallyTouch k
  if (s.tally k).open_ > (s.tally k).depth then
    (s.onTally k fun t => { t with exceeded := true }).tallyFault k 0xC0 (tallySagger k)
  else s

/-! ## Homes across the lute (R333, R374, R376) -/

/-- The tally's home lies on this module: a luted sagger's LEAD bit names the module (R334). -/
def State.homeHere (s : State) (k : Nat) : Bool := !s.luted (tallySagger k) || (s.tally k).lead == s.lead
/-- Operation codes in the payload of a TALLY message; the spec gives it no layout (DESIGN CHOICE, log entry 32). -/
def tallyOpBytes (op flag : Nat) (agent : BitVec 13) (n target : Nat) : List Byte :=
  leBytes op 1 ++ leBytes flag 1 ++ leBytes agent.toNat 2 ++ leBytes n 4 ++ leBytes target 8
/-- Send an operation on a tally to its home on the partner; its agent is then one of the partner (R342). -/
def State.sendTally (s : State) (k op flag : Nat) (agent : BitVec 13) (n target : Nat) : State :=
  s.sendLute (luteMemMsg 6 (tallySagger k) 0 (tallyIndex k) (tallyOpBytes op flag (agent ||| 0x1000#13) n target))

/-- A legal signal is applied at its home (R336, R337). -/
def State.deliverSignal (s : State) (k n : Nat) (agent : BitVec 13) : State :=
  if s.homeHere k then s.applySignal k n agent else (s.sendTally k 1 0 agent n 0).tallyTouch k

/-- A non-blocking signal of an agent of sagger `by_` (R336, R337, R339). -/
def State.signalTally (s : State) (k n : Nat) (agent : BitVec 13) (by_ : Nat) : State :=
  if (s.tally k).mode = 0 ∨ by_ ≠ tallySagger k then s.tallyFault k 0xC2 by_ else s.deliverSignal k n agent

/-- A consuming wait of `agent` whose target PROD has reached takes effect at the home (R336). -/
def State.consumeTally (s : State) (k : Nat) (target : BitVec 48) (agent : BitVec 13) : State :=
  if s.homeHere k then s.onTally k fun t => { t with cons := consumeTo t.cons target } else s.sendTally k 3 1 agent 0 target.toNat

/-- A unit of sagger `g` advances tally `i` by 1 when its work completes. -/
def State.advance (s : State) (g i : Nat) (agent : BitVec 13) : State := s.signalTally (tallyKey g i) 1 agent g

/-- Agent identifier of R342 for this module. -/
def agentId (cls die ix : Nat) : BitVec 13 := BitVec.ofNat 13 (ix % 128 + 128 * (cls % 16) + 2048 * (die % 2))

/-- PROD and CONS as an agent on die `d` sees them: the home's, or the mirror's on the other die of a sagger that spans
both dies (R333). -/
def State.tallyView (s : State) (k d : Nat) : BitVec 48 × BitVec 48 :=
  let t := s.tally k
  if d = t.home ∨ ¬ s.spans (tallySagger k) then (t.prod, t.cons) else (t.mirrorProd, t.mirrorCons)

/-- A blocking signal fits under the bound, judged on the signaller's local view (R337). -/
def State.signalFits (s : State) (k n : Nat) (agent : BitVec 13) : Bool :=
  let v := s.tallyView k (nbits agent.toNat 11 1)
  (v.1 - v.2).toNat + n ≤ (s.tally k).depth

/-- A wait for `target` is one that R339 refuses for its mode or its distance. -/
def Tally.waitBad (t : Tally) (target : BitVec 48) (consume : Bool) : Bool :=
  t.mode == 0 || (consume && t.mode != 2) || decide ((target - t.cons).toNat > t.depth)

/-- Register a wait that is not refused: the agent wakes at once when PROD has reached the target (R336, R340). -/
def Tally.wait (t : Tally) (w : Waiter) : Tally := Tally.wake { t with waiters := t.waiters ++ [w] }

/-- The agent waits at some tally; an agent waits on at most one (R341). -/
def State.agentWaits (s : State) (agent : BitVec 13) : Bool :=
  s.tallies.any fun c => c.2.waiters.any fun w => w.agent == agent

/-- Zero the counters of every tally of a sagger and abandon its waits (R335, R340). -/
def State.zeroTallies (s : State) (g : Nat) : State :=
  { s with tallies := s.tallies.map fun c =>
      if tallySagger c.1 = g then
        (c.1, { c.2 with prod := 0, cons := 0, waiters := [], blocked := [], exceeded := false, mirrorProd := 0, mirrorCons := 0 })
      else c }

/-- Send the counters of a tally to the partner when they have changed since they were last sent (R333, R338). -/
def State.sendMirror (s : State) (k : Nat) : State :=
  let t := s.tally k
  if s.luted (tallySagger k) && s.lute.paired && s.homeHere k && tget (0, 0) s.lute.mirrors k != (t.prod, t.cons) then
    (s.sendLute (luteMemMsg 7 (tallySagger k) 0 (tallyIndex k) (leBytes t.prod.toNat 8 ++ leBytes t.cons.toNat 8))).onLute fun l =>
      { l with mirrors := tset l.mirrors k (t.prod, t.cons) }
  else s
/-- Every mirror is brought up to date (R333, R338). -/
def State.syncMirrors (s : State) : State :=
  s.tallies.foldl (fun s c => s.sendMirror c.1)
    { s with tallies := s.tallies.map fun c => (c.1, { c.2 with mirrorProd := c.2.prod, mirrorCons := c.2.cons }) }

/-! ## The commands -/

/-- Write a tally's configuration, unless it has waiters or held signals or the record is illegal (R334, R346). -/
def State.configTally (s : State) (k : Nat) (cfg : BitVec 64) : State :=
  let x := s.tally k
  if !x.waiters.isEmpty || !x.blocked.isEmpty || !cfgLegal cfg then s.tallyFault k 0xC3 (tallySagger k)
  else s.onTally k fun x => { x with cfg := cfg }
/-- TALLY_CONFIG (R334). -/
def execTallyConfig (t : TallyId) (cfg : BitVec 64) (s : State) : Host.Outcome State Fault Refusal :=
  .next (s.configTally (idKey t) cfg)

/-- SIGNAL (R336, R337, R339). -/
def execSignal (t : TallyId) (n : BitVec 16) (blocking : Bool) (agent : BitVec 13) (by_ : BitVec 4) (s : State) :
    Host.Outcome State Fault Refusal :=
  if n = 0 then .refused (.illFormed "SIGNAL")
  else if blocking && (s.tally (idKey t)).mode != 0 && by_ == t.sagger && !s.signalFits (idKey t) n.toNat agent then
    .next (s.onTally (idKey t) fun x => { x with blocked := x.blocked ++ [{ agent := agent, n := n.toNat }] })
  else .next (s.signalTally (idKey t) n.toNat agent by_.toNat)

/-- SIGNAL_UNBLOCK (R337): the first held signal that fits is applied. -/
def execSignalUnblock (t : TallyId) (s : State) : Host.Outcome State Fault Refusal :=
  match (s.tally (idKey t)).blocked.find? fun h => s.signalFits (idKey t) h.n h.agent with
  | none => .next s
  | some h =>
    .next ((s.onTally (idKey t) fun x => { x with blocked := x.blocked.erase h }).deliverSignal (idKey t) h.n h.agent)

/-- RELEASE (R336, R339). -/
def execRelease (t : TallyId) (n : BitVec 16) (agent : BitVec 13) (by_ : BitVec 4) (s : State) :
    Host.Outcome State Fault Refusal :=
  let x := s.tally (idKey t)
  if n = 0 then .refused (.illFormed "RELEASE")
  else if x.mode != 1 || by_ != t.sagger then .next (s.tallyFault (idKey t) 0xC2 by_.toNat)
  else if !s.homeHere (idKey t) then .next (s.sendTally (idKey t) 2 0 agent n.toNat 0)
  else if n.toNat > x.open_ then .next (s.tallyFault (idKey t) 0xC1 by_.toNat)
  else .next ((s.onTally (idKey t) fun x => { x with cons := x.cons + BitVec.ofNat 48 n.toNat }).tallyTouch (idKey t))

/-- WAIT (R336, R339, R340). -/
def execWait (t : TallyId) (target : BitVec 48) (consume : Bool) (agent : BitVec 13) (by_ : BitVec 4) (s : State) :
    Host.Outcome State Fault Refusal :=
  if s.agentWaits agent then .next s
  else if (s.tally (idKey t)).waitBad target consume || by_ != t.sagger then .next (s.tallyFault (idKey t) 0xC2 by_.toNat)
  else if s.homeHere (idKey t) then .next (s.onTally (idKey t) (·.wait { agent := agent, target := target, consume := consume }))
  else
    .next ((s.sendTally (idKey t) 3 (Bool.num consume) agent 0 target.toNat).onTally (idKey t) fun x => { x with
      waiters := if reached x.prod target then x.waiters else x.waiters ++ [{ agent := agent, target := target, consume := consume }] })

/-- READ (R336): PROD and CONS as the die's home or mirror holds them. -/
def execRead (t : TallyId) (d : DieIx) (s : State) : Host.Outcome State Fault Refusal :=
  .next { s with tallyOut := s.tallyView (idKey t) d.val }

/-- TALLY_SHADOW_WRITE (R343): PROD, zero-extended to 8 bytes, at the shadow base plus 8 × index. -/
def execTallyShadowWrite (t : TallyId) (s : State) : Host.Outcome State Fault Refusal :=
  let x := s.tally (idKey t)
  let g := t.sagger.toNat
  let a := s.placeAddr g 0x0A + 8 * t.index.toNat
  s.when (x.shadow && x.shadowDue && (s.place g 0x0A).isSome)
    ((((s.onTally (idKey t) fun x => { x with shadowDue := false }).putHbmNum a 8 x.prod.toNat).bump .hbmNarrow (stackOfAddr a) 1).bump
      .hbmWrBytes (stackOfAddr a) 8)

/-! ## The wait-for snapshot (R345) -/

/-- One line of a snapshot: agent, tally index, held producer or wait, target, and the tally. -/
structure SnapEntry where
  agent  : BitVec 13
  index  : Nat
  block  : Bool
  target : Nat
  tally  : Tally
  deriving DecidableEq, Repr

/-- The awaited producer is the Shomu or a lattice receive engine, judged by the tally's last signaller (R344; DEDUCED,
log entry 11). -/
def Tally.linkFed (t : Tally) : Bool := nbits t.last.toNat 7 4 == 12 && nbits t.last.toNat 0 7 != 6

/-- Waits and held producers at the tallies of sagger `g` (15 = house).  A held producer has no target in the spec: that
field is a free value. -/
def State.snapEntries (s : State) (g : Nat) : List SnapEntry :=
  (s.tallies.filter fun c => tallySagger c.1 == g && !c.2.linkFed).flatMap fun c =>
    (c.2.waiters.map fun w =>
      { agent := w.agent, index := tallyIndex c.1, block := false, target := w.target.toNat, tally := c.2 }) ++
    (c.2.blocked.map fun h =>
      { agent := h.agent, index := tallyIndex c.1, block := true, target := Config.freeNat (s.freeCtr + tallyIndex c.1), tally := c.2 })

/-- Insert in agent order. -/
def insertAgent (e : SnapEntry) : List SnapEntry → List SnapEntry
  | [] => [e]
  | a :: r => if e.agent.toNat < a.agent.toNat then e :: a :: r else a :: insertAgent e r

/-- The eight words of a snapshot entry. -/
def SnapEntry.words (e : SnapEntry) : List (BitVec 32) :=
  [BitVec.ofNat 32 (e.agent.toNat + 2 ^ 13 * (e.index % 4096) + 2 ^ 25 * Bool.num e.block),
   BitVec.ofNat 32 e.target, BitVec.ofNat 32 (e.target / 2 ^ 32 % 2 ^ 16),
   BitVec.ofNat 32 e.tally.prod.toNat, BitVec.ofNat 32 (e.tally.prod.toNat / 2 ^ 32),
   BitVec.ofNat 32 e.tally.cons.toNat,
   BitVec.ofNat 32 (e.tally.cons.toNat / 2 ^ 32 + 2 ^ 16 * e.tally.last.toNat), 0]

/-- The words of a snapshot: a header of 32 bytes and up to 64 entries in agent order. -/
def snapWords (time g : Nat) (es : List SnapEntry) : List (BitVec 32) :=
  let n := min es.length 64
  [BitVec.ofNat 32 time, BitVec.ofNat 32 (time / 2 ^ 32),
   BitVec.ofNat 32 (n + 128 * Bool.num (es.length > 64) + 512 * g), 0, 0, 0, 0, 0] ++
    ((es.foldr insertAgent []).take 64).flatMap SnapEntry.words

/-- Write the snapshot of sagger `g` into its buffer; a buffer that is still held keeps its contents and sets OVR. -/
def State.writeSnap (s : State) (g : Nat) (es : List SnapEntry) : State :=
  let old := tget [] s.snaps g
  let new := if old.isEmpty then snapWords s.now g es
    else old.set 2 (BitVec.ofNat 32 (nsetBits ((old.getD 2 0).toNat) 8 1 1))
  { s with snaps := tset s.snaps g new, freeCtr := s.freeCtr + 4096 }

end Sys2Proof.Machine
end

