-- ==== Sys2Proof/Machine/Wheel.lean ====
section
/-! DEFINITION. Wheels up to their lane jobs: the work list, intake, fill, jobs and cancellation
(spec/03_wheels_and_lanes.md). -/

namespace Sys2Proof.Machine

/-! ## Buffers of a wheel -/

/-- Buffer `b`. -/
def Wheel.buf (x : Wheel) (b : Nat) : Buf := if b = 0 then x.buf0 else x.buf1
/-- Change buffer `b`. -/
def Wheel.onBuf (x : Wheel) (b : Nat) (f : Buf → Buf) : Wheel :=
  if b = 0 then { x with buf0 := f x.buf0 } else { x with buf1 := f x.buf1 }
/-- Change buffer `b` of wheel `w`. -/
def State.onBuf (s : State) (w b : Nat) (f : Buf → Buf) : State := s.onWheel w (·.onBuf b f)
/-- Lane `l`. -/
def Wheel.lane (x : Wheel) (l : Nat) : Lane := tget {} x.lanes l
/-- The wheel may take an entry: a buffer is free, and no suspension or restore is in progress (R65, R127, R129). -/
def Wheel.open_ (x : Wheel) : Bool :=
  (x.buf0.st == .free || x.buf1.st == .free) && x.saving.isNone && !x.restoring
/-- The free buffer that a wheel uses next. -/
def Wheel.freeBuf (x : Wheel) : Nat := if x.buf0.st = .free then 0 else 1
/-- The sagger whose entry a wheel works on. -/
def State.wheelOwner (s : State) (w : Nat) : Nat := (s.ownerOfWheel w).getD 15

/-- The wheel joins the end of its sagger's queue of waiting wheels when it may take an entry (R86). -/
def State.awaitEntry (s : State) (w : Nat) : State :=
  match s.ownerOfWheel w with
  | none => s
  | some g =>
    if (s.wheel w).open_ && s.wheelUsable w && !(s.sagger g).waiting.contains w then
      s.onSagger g fun x => { x with waiting := x.waiting ++ [w] }
    else s

/-! ## The work list (R85, R90, R91) -/

/-- Number of entries in the ring. -/
def State.listSize (s : State) (g : Nat) : Nat := s.placeCount g 1
/-- Entries visible and not yet taken. -/
def Ring.used (r : Ring) : Nat := r.prod - r.cons
/-- Address of ring entry `n`. -/
def State.listAddr (s : State) (g n : Nat) : Nat := s.placeAddr g 1 + 32 * (n % s.listSize g)
/-- The 32 bytes of the head entry, as a number. -/
def State.listHead (s : State) (g : Nat) : Nat := s.hbmNum (s.listAddr g (s.sagger g).list.cons) 32
/-- Write an entry into the ring and make it visible. -/
def State.pushEntry (s : State) (g : Nat) (e : BitVec 256) : State :=
  ((s.putHbmNum (s.listAddr g (s.sagger g).list.prod) 32 e.toNat).bump .hbmWrBytes
    (stackOfAddr (s.listAddr g (s.sagger g).list.prod)) 32).onSagger g fun x =>
      { x with list := { x.list with prod := x.list.prod + 1 } }

/-- The list writer writes an entry, or holds it while the ring is full (R85). -/
def State.listWrite (s : State) (g : Nat) (e : BitVec 256) : State :=
  if (s.sagger g).listWait.isEmpty && (s.sagger g).list.used < s.listSize g then s.pushEntry g e
  else s.onSagger g fun x => { x with listWait := x.listWait ++ [e] }

/-- The head entry is counted as taken; an entry that waited for room is written (R85). -/
def State.popEntry (s : State) (g : Nat) : State :=
  let s := (s.bump .hbmRdBytes (stackOfAddr (s.listAddr g (s.sagger g).list.cons)) 32).onSagger g fun x =>
    { x with list := { x.list with cons := x.list.cons + 1 } }
  match (s.sagger g).listWait with
  | [] => s
  | e :: r => (s.onSagger g fun x => { x with listWait := r }).pushEntry g e

/-- KIND of an entry (R87). -/
def entryKind (raw : Nat) : Nat := nbits raw 0 8
/-- TARGET of a FENCE entry. -/
def fenceTarget (raw : Nat) : BitVec 48 := BitVec.ofNat 48 (nbits raw 32 32 + 2 ^ 32 * nbits raw 64 16)
/-- TALLY of an entry. -/
def entryTally (raw : Nat) : Nat := nbits raw 224 12
/-- A FENCE entry with a non-zero reserved bit. -/
def fenceBad (raw : Nat) : Bool :=
  raw != 2 + 2 ^ 32 * nbits raw 32 48 + 2 ^ 224 * entryTally raw

/-- The fields of a TILE entry (R87). -/
def entryOf (raw : Nat) : Entry :=
  { dMode := nbits raw 8 1 == 1, map := nbits raw 9 2, wfmt := nbits raw 11 2, preload := nbits raw 13 1 == 1,
    xsplit := nbits raw 14 1 == 1, splitT := nbits raw 16 8, layer := nbits raw 24 8, tileOff := nbits raw 32 21,
    tileDie := nbits raw 53 1, tileLen := nbits raw 64 16, tokN := nbits raw 80 8,
    tokList := BitVec.ofNat 32 (nbits raw 96 32), partAddr := BitVec.ofNat 32 (nbits raw 128 32),
    outGroup := nbits raw 160 16, inBlock := nbits raw 176 16, preAddr := BitVec.ofNat 32 (nbits raw 192 32),
    tally := nbits raw 224 12, shift := nbits raw 236 5 }

/-- Reserved bits of a TILE entry are non-zero. -/
def entryReserved (raw : Nat) : Bool :=
  nbits raw 15 1 != 0 || nbits raw 54 10 != 0 || nbits raw 88 8 != 0 || nbits raw 241 15 != 0

/-- Bytes of a partial or preload region (R89, R104). -/
def regionBytes (tokN : Nat) : Nat := 32 + 64 * tokN

/-- The token list: block address, slot and the reserved bits of each entry (R89). -/
def State.tokens (s : State) (addr tokN : Nat) : List (BitVec 32 × BitVec 16 × Nat) :=
  (List.range tokN).map fun i =>
    let v := s.slabNum (addr + 8 * i) 8
    (BitVec.ofNat 32 v, BitVec.ofNat 16 (v / 2 ^ 32), v / 2 ^ 48)

/-- The tile lies in the ware board and in the sagger's window on its die (R285). -/
def State.tileInWindow (s : State) (g : Nat) (e : Entry) : Bool :=
  let p := s.planSagger g
  let (base, size) := if e.tileDie = 0 then (p.wbd0Base, p.wbd0Size) else (p.wbd1Base, p.wbd1Size)
  base * 2 ^ 20 ≤ e.tileOff * 32 && e.tileOff * 32 + e.tileLen ≤ (base + size) * 2 ^ 20 && e.tileOff * 32 + e.tileLen ≤ 2 ^ 26

/-- TILE_LEN is one its format allows (R93). -/
def tileLenOk (wfmt len : Nat) : Bool :=
  match wfmt with
  | 0 => len == 3280
  | 1 => len == 2048
  | _ => 2112 ≤ len && len ≤ 4160 && len % 32 == 0

/-- A slab address without its reserved bits (R88). -/
def slabBare (a : Nat) : Nat := a % 2 ^ 30
/-- The reserved bits of a slab address are non-zero (R88). -/
def slabReserved (a : Nat) : Bool := a / 2 ^ 30 != 0

/-- The detail byte of the first check of R93 that an entry and its token list fail, in the order of the table.  A NOP
comes here only with a field other than KIND set, which is a reserved field (R91). -/
def State.intakeBad (s : State) (g raw : Nat) : Option Nat :=
  let e := entryOf raw
  let toks := s.tokens e.tokList.toNat e.tokN
  if entryKind raw = 3 then some 0x45
  else if entryKind raw ≠ 1 then some 0x40
  else if e.map = 3 ∨ e.wfmt = 3 ∨ (e.xsplit = true ∧ (e.dMode = true ∨ e.wfmt ≠ 2)) ∨ e.splitT > 32 ∨
      (e.splitT ≠ 0 ∧ e.dMode = false) then some 0x41
  else if !tileLenOk e.wfmt e.tileLen || !s.tileInWindow g e then some 0x42
  else if e.tokN = 0 ∨ e.tokN > 128 then some 0x43
  else if !s.slabRegion g (slabBare e.tokList.toNat) (8 * e.tokN) 1 || !s.slabRegion g (slabBare e.partAddr.toNat) (regionBytes e.tokN) 1 ||
      (e.preload && !s.slabRegion g (slabBare e.preAddr.toNat) (regionBytes e.tokN) 1) ||
      toks.any (fun t => !s.slabRegion g (slabBare t.1.toNat) (blockBytes (s.layer g e.layer).inFmt) 1) then some 0x44
  else if entryReserved raw || slabReserved e.tokList.toNat || slabReserved e.partAddr.toNat || slabReserved e.preAddr.toNat ||
      toks.any (fun t => t.2.2 != 0 || slabReserved t.1.toNat) || (!e.preload && e.preAddr != 0) then some 0x45
  else if !(s.luted g && !s.lead) && toks.any (fun t => !(s.sagger g).slots.contains t.2.1.toNat) then some 0x47
  else none

/-- Reject an entry: its buffer stays free, the list halts, and a class 0x3 record is raised (R80, R93). -/
def State.rejectEntry (s : State) (g w b detail raw : Nat) : State :=
  (s.haltList g).faultRec 3 1 detail g w b (s.listAddr g ((s.sagger g).list.cons - 1)) (leBytes raw 32)

/-! ## In-flight counts (R121, R122) -/

/-- Entries in flight with a tag. -/
def Sagger.flight (x : Sagger) : Nat → Nat
  | 1 => x.flight4
  | 2 => x.flight8
  | _ => x.flight16
/-- Change the in-flight count of a tag. -/
def Sagger.onFlight (x : Sagger) (tag : Nat) (f : Nat → Nat) : Sagger :=
  match tag with
  | 1 => { x with flight4 := f x.flight4 }
  | 2 => { x with flight8 := f x.flight8 }
  | _ => { x with flight16 := f x.flight16 }
/-- An entry of another tag is in flight (R123). -/
def Sagger.mixes (x : Sagger) (tag : Nat) : Bool := [1, 2, 3].any fun t => t != tag && x.flight t != 0

/-! ## Holds on ware-board units (R287) -/

/-- The tracking units that an entry's tile touches, and the ARM of each at the take. -/
def State.takeHolds (s : State) (e : Entry) : List (Nat × Nat) :=
  let first := e.tileOff * 32 / 1024
  (List.range ((e.tileOff * 32 + e.tileLen + 1023) / 1024 - first)).map fun i =>
    (first + i, (tget {} (s.ware e.tileDie).units (first + i)).arm.toNat)

/-- Every unit that a buffer holds has landed the load recorded at the take. -/
def State.holdsLanded (s : State) (x : Buf) : Bool :=
  x.holds.all fun h => (tget {} (s.ware x.entry.tileDie).units h.1).land.toNat == h.2

/-- A unit that the buffer's tile touches carries a poison mark. -/
def State.holdsPoisoned (s : State) (x : Buf) : Bool :=
  x.holds.any fun h => (tget {} (s.ware x.entry.tileDie).units h.1).poison

/-! ## Taking an entry (R86) -/

/-- The waiting wheel that takes the head entry: on the die of TILE_DIE first, longest waiting first (R86). -/
def State.takerOf (s : State) (g raw : Nat) : Option Nat :=
  let ws := (s.sagger g).waiting.filter fun w => (s.wheel w).open_ && s.wheelUsable w
  match ws.find? fun w => dieOfWheel w == nbits raw 53 1 with
  | some w => some w
  | none => ws.head?

/-- Wheel `w` takes the head entry into buffer `b`: the entry's fields are checked, its tile is requested and held, and
it is in flight (R80, R86, R122, R123). -/
def State.takeEntry (s : State) (g w b raw : Nat) : State :=
  let e := entryOf raw
  let tag := (s.layer g e.layer).inFmt
  let bad := match s.intakeBad g raw with
    | some d => some d
    | none => if (s.sagger g).mixes tag then some 0x50 else none
  let s := (s.popEntry g).onSagger g fun x => { x with waiting := x.waiting.filter (· != w) }
  match bad with
  | some d => (s.rejectEntry g w b d raw).awaitEntry w
  | none =>
    let holds := s.takeHolds e
    let toks := (s.tokens e.tokList.toNat e.tokN).map fun t => (t.1, t.2.1)
    let s := s.onWheel w fun x =>
      { x.onBuf b fun _ =>
          { st := .fill, sagger := g, raw := BitVec.ofNat 256 raw, entry := e, holds := holds, toks := toks, s := e.shift } with
        older := if (x.buf (1 - b)).st = .free then b else x.older }
    ((s.onSagger g (·.onFlight tag (· + 1))).awaitEntry w).touch g

/-- A NOP entry with a field other than KIND is rejected (R5, R91). -/
def nopBad (raw : Nat) : Bool := raw != 3

/-- ENTRY_TAKE (R86, R91, R93). -/
def execEntryTake (g : SaggerIx) (s : State) : Host.Outcome State Fault Refusal :=
  let x := s.sagger g.val
  let raw := s.listHead g.val
  if x.st != .serving || x.listHalt || x.list.used = 0 || entryKind raw = 2 then .next s
  else if entryKind raw = 3 ∧ ¬ nopBad raw then .next ((s.popEntry g.val).touch g.val)
  else match s.takerOf g.val raw with
    | none => .next s
    | some w => .next (s.takeEntry g.val w (s.wheel w).freeBuf raw)

/-- FENCE_PASS (R90): the fence waits, consuming, until its tally has reached TARGET; a wait that R339 refuses is a
tally fault. -/
def execFencePass (g : SaggerIx) (s : State) : Host.Outcome State Fault Refusal :=
  let x := s.sagger g.val
  let raw := s.listHead g.val
  let k := tallyKey g.val (entryTally raw)
  let t := s.tally k
  if x.st != .serving || x.listHalt || x.list.used = 0 || entryKind raw != 2 then .next s
  else if fenceBad raw then .next (((s.popEntry g.val).haltList g.val).faultRec 3 1 0x45 g.val 0 0 (s.listAddr g.val x.list.cons) (leBytes raw 32))
  else if t.waitBad (fenceTarget raw) true then .next (s.tallyFault k 0xC2 g.val)
  else if reached t.prod (fenceTarget raw) then
    .next (((s.consumeTally k (fenceTarget raw) (agentId 2 (dieOfSagger g.val) g.val)).popEntry g.val).touch g.val)
  else .next s

/-- LIST_WRITE (R85). -/
def execListWrite (g : SaggerIx) (entry : BitVec 256) (s : State) : Host.Outcome State Fault Refusal :=
  s.when ((s.sagger g.val).st == .serving && s.listSize g.val != 0) (s.listWrite g.val entry)

/-! ## Fill: tile, token-blocks and jobs (R66, R68, R76, R77, R80) -/

/-- Bytes of the entry's tile in its ware board. -/
def State.tileData (s : State) (e : Entry) : List Byte := mread s.mem.ware (e.tileDie * 2 ^ 26 + e.tileOff * 32) e.tileLen

/-- Address of region `k` of the entry's reduction set (R105). -/
def setRegion (e : Entry) (k : Nat) : Int :=
  (slabOff e.partAddr.toNat : Int) + ((k : Int) - e.inBlock) * regionBytes e.tokN
/-- Place in the slab memory of region `k` of the entry's set. -/
def setRegionIx (e : Entry) (k : Nat) : Nat := slabWheel e.partAddr.toNat * slabBytes + (setRegion e k).toNat

/-- Bytes of the output area that OUT_ADDR names: the block slots, and the residual regions where the layer writes them
(R118, R119). -/
def outBytes (l : LayerInfo) (tokN : Nat) : Nat :=
  tokN * l.slot + (if l.residual.isSome then 64 * regionBytes tokN else 0)

/-- The violation of the entry's reduction set (R133, 0x52). -/
def State.setBad (s : State) (g : Nat) (e : Entry) : Bool :=
  let l := s.layer g e.layer
  let r0 := setRegionIx e 0
  let nb := mfield s.mem.slab r0 128 7
  let out := mfield s.mem.slab r0 96 32
  setRegion e 0 < 0 || nb = 0 || nb > 64 || nb != l.nb || e.inBlock ≥ nb ||
    !s.slabRegion g out (outBytes l e.tokN) 1

/-- The violation of the entry's preload region (R123, R133): 0x50, 0x51 or 0x54. -/
def State.preBad (s : State) (g : Nat) (e : Entry) : Option Nat :=
  let m := s.mem.slab
  let a := slabIx e.preAddr.toNat
  let tag := mfield m a 0 2
  if !e.preload then none
  else if mfield m a 7 1 ≠ 1 ∨ mfield m a 8 8 ≠ e.layer ∨ mfield m a 16 8 ≠ e.tokN ∨ mfield m a 32 16 ≠ e.outGroup ∨
      tag = 0 ∨ mfield m a 71 1 ≠ 0 ∨ mfield m a 80 16 ≠ 0 ∨ mnum m (a + 12) 20 ≠ 0 then some 0x51
  else if tag ≠ (s.layer g e.layer).inFmt then some 0x50
  else if (List.range (16 * e.tokN)).any fun i => mnum m (a + 32 + 4 * i) 4 == 2 ^ 31 then some 0x54
  else none

/-- P32 value at a place of the slab memory. -/
def p32At (m : Mem) (a : Nat) : Int := nsigned 32 (mnum m a 4)

/-- The preload values: 16 for each token. -/
def State.preValues (s : State) (e : Entry) : List (List Int) :=
  if e.preload then
    (List.range e.tokN).map fun t => (List.range 16).map fun j => p32At s.mem.slab (slabIx e.preAddr.toNat + 32 + 64 * t + 4 * j)
  else []

/-- Number of lane groups of a MAP (R68). -/
def mapGroups (m : Nat) : Nat := match m with | 0 => 1 | 1 => 2 | _ => 4
/-- Group of a lane under a MAP. -/
def laneGroup (m lane : Nat) : Nat := lane / (128 / mapGroups m)

/-- Ranges of `size` that cover `n`, the last taking the rest. -/
def ranges (n size : Nat) : List (Nat × Nat) :=
  if size = 0 then [(0, n)] else (List.range ((n + size - 1) / size)).map fun i => (i * size, min n ((i + 1) * size))

/-- Non-zero weights of a tile row. -/
def rowNnz (r : List Int) : Nat := (r.filter (· != 0)).length

/-- The quarter whose jobs are cut under R77, if there is one. -/
def heavyQuarter (e : Entry) (tile : List (List Int)) : Option Nat :=
  if e.dMode || e.wfmt != 2 || !e.xsplit then none
  else
    let total := tile.foldl (fun n r => n + rowNnz r) 0
    ((List.range 16).find? fun r => 2 * rowNnz (tile.getD r []) > total).map (· / 4)

/-- The jobs of one token and quarter (R68, R76, R77). -/
def tokenJobs (e : Entry) (heavy : Option Nat) (terms tok quarter : Nat) : List Job :=
  let rs :=
    if e.dMode then (if e.splitT ≠ 0 ∧ terms > 256 * e.splitT then ranges terms (256 * e.splitT) else [(0, terms)])
    else if heavy = some quarter then ranges 1024 256 else [(0, 1024)]
  (List.range rs.length).map fun i =>
    let r := rs.getD i (0, 0)
    { tok := tok, quarter := quarter, split := i, splits := rs.length, lo := r.1, hi := r.2 }

/-- The jobs of an entry in the order of R69: quarter, token, split index. -/
def entryJobs (e : Entry) (tile : List (List Int)) (blocks : List (List Elem)) (live : Nat → Bool) : List Job :=
  let heavy := heavyQuarter e tile
  (List.range 4).flatMap fun k =>
    ((List.range e.tokN).filter live).flatMap fun t => tokenJobs e heavy (termCount (blocks.getD t [])) t k

/-- Jobs added by R76 and R77. -/
def addedJobs (js : List Job) : Nat := (js.filter fun j => j.split != 0).length

/-- The violation of a token-block at the operand port: R37 to R44, and a format that neither the layer's declared
input format nor fall-back gives (R45, R57). -/
def inputBad (l : LayerInfo) (bs : List Byte) : Option Nat :=
  let fmt := bfield bs 0 4
  match blockBad bs with
  | some d => some d
  | none => if fmt = l.inFmt ∨ fmt = 3 then none else some 0x10

/-- Bytes of a block at a slab address: as long as its own format. -/
def State.blockAtSlab (s : State) (a : Nat) : List Byte :=
  s.slab a (blockBytes (nbits (s.slabNum a 1) 0 4))

/-- The tile is poisoned: the buffer goes to DRAIN without writing, and every live request of its tokens fails
(R56, R80, R83, R313). -/
def State.poisonBuf (s : State) (g w b : Nat) : State :=
  let x := (s.wheel w).buf b
  let slots := (x.toks.map (·.2.toNat)).eraseDups.filter fun t => !(s.wheel w).cancelled.contains (BitVec.ofNat 16 t)
  let s := slots.foldl (fun s t => s.failSlot 1 0xA7 g w t) s
  (s.onBuf w b fun x => { x with st := .drain, poisoned := true, jobs := [], staged := [], merges := [] }).onWheel w fun x =>
    { x with lanes := x.lanes.map fun l => if l.2.job.any (·.1 == b) then (l.1, {}) else l }

/-- The token positions of a slot in a buffer. -/
def Buf.tokensOf (x : Buf) (slot : BitVec 16) : List Nat :=
  (List.range x.toks.length).filter fun i => (x.toks.getD i (0, 0)).2 == slot

/-- A job that has not ended. -/
def Job.live (j : Job) : Bool := match j.st with | .untaken => true | .running _ => true | _ => false

/-- Jobs of a slot that a cancellation stops or drops. -/
def Buf.cancelCount (x : Buf) (slot : BitVec 16) : Nat :=
  (x.jobs.filter fun j => j.live && (x.tokensOf slot).contains j.tok).length

/-- The buffer without the jobs, staged values and merge slots of a slot. -/
def Buf.cancel (x : Buf) (slot : BitVec 16) : Buf :=
  let ts := x.tokensOf slot
  { x with
    jobs := x.jobs.map fun j => if ts.contains j.tok then { j with st := .dropped } else j
    staged := x.staged.filter fun v => !ts.contains v.1
    merges := x.merges.filter fun m => !ts.contains m.tok }

/-- The lanes whose job a cancellation stops. -/
def Wheel.stopLanes (x : Wheel) (slot : BitVec 16) : Tab Lane :=
  x.lanes.map fun l =>
    match l.2.job with
    | some (b, i) =>
      let j := (x.buf b).jobs.getD i { tok := 0, quarter := 0, lo := 0, hi := 0 }
      if ((x.buf b).tokensOf slot).contains j.tok then (l.1, {}) else l
    | none => l

/-- The wheel after it has received a cancelled slot. -/
def Wheel.cancelSlot (x : Wheel) (slot : BitVec 16) : Wheel :=
  { x with
    cancelled := if x.cancelled.contains slot then x.cancelled else x.cancelled ++ [slot]
    lanes := x.stopLanes slot
    buf0 := x.buf0.cancel slot
    buf1 := x.buf1.cancel slot }

/-- Token-blocks with a violation fail their requests and leave the entry, as a cancellation does (R57). -/
def State.dropBadTokens (s : State) (g w : Nat) (l : LayerInfo) (toks : List (BitVec 32 × BitVec 16)) : State :=
  toks.foldl (fun s t =>
    if (s.wheel w).cancelled.contains t.2 then s
    else match inputBad l (s.blockAtSlab t.1.toNat) with
      | none => s
      | some d => ((s.failSlot 1 d g w t.2.toNat).bump .sgrFmtViol g 1).onWheel w (·.cancelSlot t.2)) s

/-- The buffer's tile is decoded and its jobs are built: FILL to READY (R80). -/
def State.fillBuf (s : State) (g w b : Nat) (bytes : List Byte) : State :=
  let x := (s.wheel w).buf b
  let e := x.entry
  let s := s.dropBadTokens g w (s.layer g e.layer) x.toks
  let tile := tileRows e.wfmt bytes
  let blocks := x.toks.map fun t => blockElems (s.blockAtSlab t.1.toNat)
  let live (i : Nat) : Bool := !(s.wheel w).cancelled.contains (x.toks.getD i (0, 0)).2
  let jobs := entryJobs e tile blocks live
  (s.onBuf w b fun x => { x with
    st := .ready, tile := tile, blocks := blocks, jobs := jobs, pre := s.preValues e,
    preShift := if e.preload then mfield s.mem.slab (slabIx e.preAddr.toNat) 2 5 else 0 }).bump .whlSplits w (addedJobs jobs)

/-- The buffer of a rejected entry is free again, and the entry leaves flight. -/
def State.dropBuf (s : State) (g w b : Nat) : State :=
  let tag := (s.layer g ((s.wheel w).buf b).entry.layer).inFmt
  ((s.onWheel w fun x => { x.onBuf b fun _ => {} with older := 1 - b }).onSagger g (·.onFlight tag (· - 1))).awaitEntry w

/-- Checks at fill, before any lane starts (R93, R133). -/
def State.fillBad (s : State) (g : Nat) (e : Entry) (bytes : List Byte) : Option Nat :=
  if e.wfmt = 2 ∧ bfield bytes 16 16 ≠ e.tileLen then some 0x46
  else if s.setBad g e then some 0x52
  else s.preBad g e

/-- The weight chunks that a tile was loaded from are poisoned (R310). -/
def State.poisonTile (s : State) (e : Entry) : State :=
  (List.range ((e.tileOff * 32 + e.tileLen - 1) / 1024 - e.tileOff / 32 + 1)).foldl (fun s k =>
    match (tget {} (s.ware e.tileDie).units (e.tileOff / 32 + k)).src with
    | some a => s.poisonChunk a
    | none => s) s

/-- TILE_FILL_DONE (R66, R80). -/
def execTileFillDone (w : WheelIx) (b : BufIx) (s : State) : Host.Outcome State Fault Refusal :=
  let x := (s.wheel w.val).buf b.val
  let g := x.sagger
  let bytes := s.tileData x.entry
  if x.st != .fill || !s.holdsLanded x then .next s
  else if s.holdsPoisoned x then .next (s.poisonBuf g w.val b.val)
  else match s.fillBad g x.entry bytes with
    | some d => .next ((s.rejectEntry g w.val b.val d x.raw.toNat).dropBuf g w.val b.val)
    | none =>
      match tileBad x.entry.wfmt false bytes x.entry.tileLen with
      | some d => .next ((((s.fault 1 1 d g w.val b.val).bump .sgrFmtViol g 1).poisonTile x.entry).poisonBuf g w.val b.val)
      | none => .next (s.fillBuf g w.val b.val bytes)

/-! ## Lanes (R69, R79, R98) -/

/-- Index of the first untaken job of a lane's group in a buffer. -/
def Buf.nextJob (x : Buf) (lane : Nat) : Option Nat :=
  (List.range x.jobs.length).find? fun i =>
    let j := x.jobs.getD i { tok := 0, quarter := 0, lo := 0, hi := 0 }
    j.st == .untaken && j.quarter % mapGroups x.entry.map == laneGroup x.entry.map lane

/-- A lane may take jobs of this buffer. -/
def Buf.runs (x : Buf) : Bool := x.st == .ready || x.st == .run

/-- The buffer and job that a free lane takes: the older entry first, the newer only when the older has no untaken job
of the lane's group (R69, R79). -/
def Wheel.laneJob (x : Wheel) (lane : Nat) : Option (Nat × Nat) :=
  let o := x.older
  let n := 1 - o
  match (if (x.buf o).runs then (x.buf o).nextJob lane else none) with
  | some i => some (o, i)
  | none => if (x.buf n).runs then ((x.buf n).nextJob lane).map fun i => (n, i) else none

/-- The base of a token-block: its smallest exponent field less 127 (R98). -/
def blockBase (xs : List Elem) : Int :=
  match (xs.filter (·.e != 0)).map (·.e) with
  | [] => 0
  | a :: r => (r.foldl min a : Int) - 127

/-- The terms of a block in the order of R72: element index and position, with the input of each. -/
def blockTerms (xs : List Elem) : List (Nat × Int × Int) :=
  (List.range xs.length).flatMap fun i => (Elem.terms (xs.getD i {})).map fun t => (i, t.1, t.2)

/-- The exact sum that a job adds into one long register (R70, R73, R99). -/
def jobSum (dMode : Bool) (row : List Int) (xs : List Elem) (base : Int) (lo hi : Nat) : Int :=
  if dMode then
    (((blockTerms xs).drop lo).take (hi - lo)).foldl (fun a t => a + t.2.2 * row.getD t.1 0 * 2 ^ (t.2.1 - base).toNat) 0
  else
    ((List.range (hi - lo)).map (lo + ·)).foldl (fun a i =>
      let x := xs.getD i {}
      a + row.getD i 0 * x.m * 2 ^ ((x.e : Int) - 127 - base).toNat) 0

/-- The merge slot of a token and quarter. -/
def Buf.mergeOf (x : Buf) (tok quarter : Nat) : Option Merge := x.merges.find? fun m => m.tok == tok && m.quarter == quarter

/-- The lane may start the job: a further split group needs a free merge slot of the 64 (R107). -/
def Buf.mayStart (x : Buf) (j : Job) : Bool :=
  j.splits ≤ 1 || (x.mergeOf j.tok j.quarter).isSome || x.merges.length < 64

/-- The lane of a job: its long registers, base and preload cells (R98, R100). -/
def Buf.laneOf (x : Buf) (b i : Nat) (j : Job) : Lane :=
  let xs := x.blocks.getD j.tok []
  let base := blockBase xs
  { job := some (b, i), base := base,
    lreg := (List.range 4).map fun o => jobSum x.entry.dMode (x.tile.getD (4 * j.quarter + o) []) xs base j.lo j.hi
    pcell := (List.range 4).map fun o =>
      if x.entry.preload && j.split == 0 then (x.pre.getD j.tok []).getD (4 * j.quarter + o) 0 else 0
    pshift := x.preShift }

/-- The buffer once a lane has taken job `i`: RUN, the job running, a merge slot for a split group. -/
def Buf.startJob (x : Buf) (i lane : Nat) (j : Job) : Buf :=
  { x with
    st := .run
    jobs := x.jobs.set i { j with st := .running lane }
    merges := if 1 < j.splits ∧ (x.mergeOf j.tok j.quarter).isNone then
        x.merges ++ [{ tok := j.tok, quarter := j.quarter, left := j.splits, vals := [{}, {}, {}, {}] }]
      else x.merges }

/-- LANE_TAKE_JOB (R69, R79). -/
def execLaneTakeJob (w : WheelIx) (lane : LaneIx) (s : State) : Host.Outcome State Fault Refusal :=
  let x := s.wheel w.val
  match x.laneJob lane.val with
  | none => .next s
  | some (b, i) =>
    let y := x.buf b
    let j := y.jobs.getD i { tok := 0, quarter := 0, lo := 0, hi := 0 }
    s.when ((x.lane lane.val).job.isNone && x.saving.isNone && y.mayStart j)
      ((s.onWheel w.val fun x => { x.onBuf b (·.startJob i lane.val j) with
        lanes := tset x.lanes lane.val (y.laneOf b i j) }).touch y.sagger)

/-! ## Beats (R71, R73, R74) -/

/-- Beats of one D-mode group of terms: 2 when a bank receives more than 8 distinct inputs (R67, R74). -/
def groupBeats (terms : List (Nat × Int × Int)) : Nat :=
  let ins := (terms.map (·.1)).eraseDups
  if (List.range 64).any fun k => (ins.filter fun i => i % 64 == k).length > 8 then 2 else 1

/-- Beats of a job, and the beats that bank conflicts add (R71, R73, R74). -/
def jobBeats (x : Buf) (j : Job) : Nat × Nat :=
  let xs := x.blocks.getD j.tok []
  if x.entry.dMode then
    let ts := ((blockTerms xs).drop j.lo).take (j.hi - j.lo)
    let gs := (List.range ((ts.length + 255) / 256)).map fun i => groupBeats ((ts.drop (256 * i)).take 256)
    (gs.foldl (· + ·) 0, gs.foldl (fun n b => n + (b - 1)) 0)
  else
    let n := if x.entry.wfmt = 1 then 1024
      else (List.range 4).foldl (fun n o => n + rowNnz (((x.tile.getD (4 * j.quarter + o) []).drop j.lo).take (j.hi - j.lo))) 0
    (((livePlanes xs).length * n + 1023) / 1024, 0)

/-! ## Cancellation and hang (R80, R84) -/

/-- SLOT_CANCEL_WHEEL (R84). -/
def execSlotCancelWheel (w : WheelIx) (slot : BitVec 16) (s : State) : Host.Outcome State Fault Refusal :=
  let x := s.wheel w.val
  .next ((s.onWheel w.val (·.cancelSlot slot)).bump .whlCancelJobs w.val (x.buf0.cancelCount slot + x.buf1.cancelCount slot))

/-- WHEEL_HANG (R80). -/
def execWheelHang (w : WheelIx) (s : State) : Host.Outcome State Fault Refusal :=
  let x := s.wheel w.val
  let b := if (x.buf x.older).st = .run then x.older else 1 - x.older
  s.when ((x.buf0.st == .run || x.buf1.st == .run) && !x.hang)
    ((s.onWheel w.val fun x => { x with hang := true }).fault 3 1 0x48 (x.buf b).sagger w.val b)

end Sys2Proof.Machine
end

