-- ==== Sys2Proof/Machine/Accum.lean ====
section
/-! DEFINITION. Accumulation (spec/04_accumulation.md): conversion and re-fire, the drain with its combines,
requantisation and residual output, and wheel suspension. -/

namespace Sys2Proof.Machine

/-! ## Conversion (R102, R107 to R109) -/

/-- The largest magnitude of a P32 value. -/
def p32Max : Nat := 2 ^ 31 - 1
/-- A clamped P32 value (R109). -/
def p32Clamp (p : Int) : Int := max (-(p32Max : Int)) (min (p32Max : Int) p)
/-- Value of a P32 under PBASE and a shift. -/
def p32Val (pbase : Int) (shift : Nat) (p : Int) : Dyad := { m := p, e := pbase + shift }

/-- The four exact results of a lane: long registers with their preloads (R98, R100). -/
def Lane.results (x : Lane) (pbase : Int) : List Dyad :=
  (List.range 4).map fun o =>
    Dyad.add { m := x.lreg.getD o 0, e := x.base } (p32Val pbase x.pshift (x.pcell.getD o 0))

/-- Merge-slot values with a range's results added (R78, R107). -/
def addVals (a b : List Dyad) : List Dyad := (List.range 4).map fun o => (a.getD o {}).add (b.getD o {})

/-- The results rounded to multiples of 2^(PBASE + s). -/
def convert (pbase : Int) (s : Nat) (vs : List Dyad) : List Int := vs.map fun v => v.round (pbase + s)

/-- A buffer after a re-fire: s one higher, staged values and merge slots discarded, jobs rebuilt (R108). -/
def Buf.refire (x : Buf) : Buf :=
  { x with
    st := .ready, s := x.s + 1, refires := x.refires + 1, staged := [], merges := [], clamps := 0
    jobs := x.jobs.map fun j => if j.st = .dropped then j else { j with st := .untaken } }

/-- Lanes without the jobs of buffer `b`. -/
def freeLanes (ls : Tab Lane) (b : Nat) : Tab Lane := ls.map fun l => if l.2.job.any (·.1 == b) then (l.1, {}) else l

/-- The buffer with the converted values of a token and quarter staged; values beyond range are clamped and counted. -/
def Buf.stage (x : Buf) (tok quarter : Nat) (ps : List Int) : Buf :=
  { x with
    staged := x.staged ++ (List.range 4).map fun o => (tok, 4 * quarter + o, p32Clamp (ps.getD o 0))
    clamps := x.clamps + (ps.filter fun p => p.natAbs > p32Max).length }

/-- Convert a finished token and quarter: stage it, clamp it at s = 31, or re-fire the entry (R107 to R110). -/
def State.convertJob (s : State) (w b tok quarter : Nat) (vs : List Dyad) : State :=
  let x := (s.wheel w).buf b
  let g := x.sagger
  let ps := convert (s.layer g x.entry.layer).pbase x.s vs
  let high := (ps.filter fun p => p.natAbs > p32Max).length
  if high ≠ 0 ∧ x.s < 31 then
    (s.onWheel w fun y => { y.onBuf b Buf.refire with lanes := freeLanes y.lanes b }).bump .sgrAccRefire g 1
  else
    let s := s.onBuf w b (·.stage tok quarter ps)
    if high = 0 then s
    else
      let s := s.bump .sgrAccClamp g high
      if x.clamps = 0 then s.fault 1 1 0x55 g w b else s

/-- A lane's job ends: the lane is free and its results are converted, or merged until the last range (R107). -/
def State.endJob (s : State) (w lane b i : Nat) : State :=
  let x := (s.wheel w).buf b
  let j := x.jobs.getD i { tok := 0, quarter := 0, lo := 0, hi := 0 }
  let g := x.sagger
  let vs := ((s.wheel w).lane lane).results (s.layer g x.entry.layer).pbase
  let (beats, extra) := jobBeats x j
  let s := (((s.bump .whlLaneBeats w beats).bump .whlBankBeats w extra).touch g).onWheel w fun y =>
    { y.onBuf b fun x => { x with jobs := x.jobs.set i { j with st := .ended } } with lanes := tset y.lanes lane {} }
  if j.splits ≤ 1 then s.convertJob w b j.tok j.quarter vs
  else match x.mergeOf j.tok j.quarter with
    | none => s
    | some m =>
      let vals := addVals m.vals vs
      let rest := x.merges.filter fun n => !(n.tok == j.tok && n.quarter == j.quarter)
      if m.left ≤ 1 then (s.onBuf w b fun x => { x with merges := rest }).convertJob w b j.tok j.quarter vals
      else s.onBuf w b fun x => { x with merges := rest ++ [{ m with left := m.left - 1, vals := vals }] }

/-- JOB_END (R107 to R110). -/
def execJobEnd (w : WheelIx) (lane : LaneIx) (s : State) : Host.Outcome State Fault Refusal :=
  let x := s.wheel w.val
  match (x.lane lane.val).job with
  | none => .next s
  | some (b, i) => s.when (x.saving.isNone && (x.buf b).st == .run) (s.endJob w.val lane.val b i)

/-- Every job of the buffer has ended or was dropped. -/
def Buf.joined (x : Buf) : Bool := x.jobs.all fun j => !j.live

/-- Beats of the entry's longest job and of all its jobs, the bounds of its running time. -/
def Buf.beatBounds (x : Buf) : Nat × Nat :=
  x.jobs.foldl (fun a j => if j.st = .dropped then a else (max a.1 (jobBeats x j).1, a.2 + (jobBeats x j).1)) (0, 0)

/-- ENTRY_JOIN (R80): the last job has ended, so the buffer moves to DRAIN.  The entry's running time depends on which
lanes ran side by side, which the model does not time: WHL_BEATS advances by a free value between its bounds, and
WHL_IDLE_LANE_BEATS by a free value (log entry 13). -/
def execEntryJoin (w : WheelIx) (b : BufIx) (s : State) : Host.Outcome State Fault Refusal :=
  let x := (s.wheel w.val).buf b.val
  let (lo, hi) := x.beatBounds
  let beats := lo + Config.freeNat s.freeCtr % (hi - lo + 1)
  s.when (x.runs && x.joined && (s.wheel w.val).saving.isNone)
    { (((s.onBuf w.val b.val fun x => { x with st := .drain }).bump .whlBeats w.val beats).bump .whlIdleLaneBeats w.val
        (Config.freeNat (s.freeCtr + 1))).touch x.sagger with freeCtr := s.freeCtr + 2 }

/-! ## Partial regions (R104) -/

/-- The header fields of a region. -/
structure RegionHead where
  tag      : Nat
  shift    : Nat
  preload  : Bool := false
  layer    : Nat
  tokN     : Nat
  raises   : Nat := 0
  outGroup : Nat
  inBlock  : Nat
  cover    : Nat
  clamps   : Nat := 0
  deriving DecidableEq, Repr

/-- Bytes 0 to 11 of a region. -/
def RegionHead.bytes (h : RegionHead) : List Byte :=
  leBytes (h.tag + 4 * h.shift + 128 * Bool.num h.preload + 2 ^ 8 * h.layer + 2 ^ 16 * h.tokN + 2 ^ 24 * min h.raises 255) 4 ++
  leBytes (h.outGroup + 2 ^ 16 * h.inBlock) 4 ++
  leBytes (h.cover + 2 ^ 8 * min h.clamps 255) 4

/-- The header of a region in the slab memory. -/
def headAt (m : Mem) (a : Nat) : RegionHead :=
  { tag := mfield m a 0 2, shift := mfield m a 2 5, preload := mfield m a 7 1 == 1, layer := mfield m a 8 8,
    tokN := mfield m a 16 8, raises := mfield m a 24 8, outGroup := mfield m a 32 16, inBlock := mfield m a 48 16,
    cover := mfield m a 64 7, clamps := mfield m a 72 8 }

/-- The rows of a region: 16 values for each token. -/
def rowsAt (m : Mem) (a tokN : Nat) : List (List Int) :=
  (List.range tokN).map fun t => (List.range 16).map fun j => p32At m (a + 32 + 64 * t + 4 * j)

/-- The bytes of a row. -/
def rowOut (r : List Int) : List Byte := r.flatMap fun p => leBytes (npattern 32 p) 4

/-! ## The drain (R111 to R119, R123) -/

/-- A drain in progress: the slab memory it works on, the entry it drains and the counts it makes. -/
structure Drain where
  mem    : Memories
  /-- place of region 0 of the set, bytes of a region, input blocks of the set -/
  r0     : Nat
  size   : Nat
  nb     : Nat
  head   : RegionHead
  /-- token positions whose slot is cancelled -/
  dead   : List Nat
  pbase  : Int
  raises : Nat := 0
  clamps : Nat := 0
  sats   : Nat := 0
  falls  : Nat := 0
  sides  : Nat := 0
  deriving DecidableEq, Repr

/-- Place of region `k`. -/
def Drain.region (d : Drain) (k : Nat) : Nat := d.r0 + k * d.size
/-- A field of the set cell of the set at `a`. -/
def Drain.cell (d : Drain) (a lo w : Nat) : Nat := mfield d.mem.slab a lo w
/-- Set a field of the set cell of the set at `a`. -/
def Drain.setCell (d : Drain) (a lo w v : Nat) : Drain :=
  let n := (lo % 8 + w + 7) / 8
  let p := a + lo / 8
  { d with mem := d.mem.slabWrite p (leBytes (nsetBits (mnum d.mem.slab p n) (lo % 8) w v) n) }
/-- Write a region's header bytes 0 to 11 and the rows that are not cancelled. -/
def Drain.putRegion (d : Drain) (a : Nat) (h : RegionHead) (rows : List (List Int)) (deadToo : Bool) : Drain :=
  let live := (List.range h.tokN).filter fun t => deadToo || !d.dead.contains t
  { d with mem := live.foldl (fun m t => m.slabWrite (a + 32 + 64 * t) (rowOut (rows.getD t []))) (d.mem.slabWrite a h.bytes) }

/-- The detail byte of a combine or requantisation operand that fails its check (R115, R118, R123, R133). -/
def Drain.operandBad (d : Drain) (a : Nat) (cover : Option Nat) : Option Nat :=
  let h := headAt d.mem.slab a
  if h.tag ≠ d.head.tag then some 0x50
  else if h.preload ∨ h.layer ≠ d.head.layer ∨ h.tokN ≠ d.head.tokN ∨ cover.any (· != h.cover) then some 0x53
  else if ((List.range h.tokN).filter fun t => !d.dead.contains t).any fun t =>
      (List.range 16).any fun j => mnum d.mem.slab (a + 32 + 64 * t + 4 * j) 4 == 2 ^ 31 then some 0x54
  else none

/-- The exact sum of row `t`, column `j` over the operands; a cancelled row is zero (R114, R115). -/
def Drain.exact (d : Drain) (ops : List Nat) (t j : Nat) : Dyad :=
  if d.dead.contains t then {}
  else ops.foldl (fun a r =>
    a.add (p32Val d.pbase (mfield d.mem.slab r 2 5) (p32At d.mem.slab (r + 32 + 64 * t + 4 * j)))) {}

/-- The shift at which every row fits, from `s` up, 31 at most (R114). -/
def fitShift (pbase : Int) (vs : List Dyad) : Nat → Nat → Nat
  | 0, s => s
  | fuel + 1, s => if s ≥ 31 ∨ vs.all (fun v => (v.round (pbase + s)).natAbs ≤ p32Max) then s else fitShift pbase vs fuel (s + 1)

/-- Combine the operand regions into the region at `dst` (R114). -/
def Drain.combine (d : Drain) (dst : Nat) (ops : List Nat) : Except Nat Drain :=
  match ops.findSome? fun a => d.operandBad a none with
  | some e => .error e
  | none =>
    let heads := ops.map (headAt d.mem.slab)
    let n := d.head.tokN
    let exact := (List.range n).map fun t => (List.range 16).map fun j => d.exact ops t j
    let s0 := heads.foldl (fun a h => max a h.shift) 0
    let s := fitShift d.pbase exact.flatten 31 s0
    let rounded := exact.map fun r => r.map fun v => v.round (d.pbase + s)
    let clamps := (rounded.flatten.filter fun p => p.natAbs > p32Max).length
    let h : RegionHead := { headAt d.mem.slab dst with
      shift := s
      cover := heads.foldl (fun a h => a + h.cover) 0
      raises := heads.foldl (fun a h => a + h.raises) (s - s0)
      clamps := heads.foldl (fun a h => a + h.clamps) clamps }
    let d' := d.putRegion dst h (rounded.map fun r => r.map p32Clamp) true
    .ok { d' with raises := d.raises + (s - s0), clamps := d.clamps + clamps }

/-- Output groups of the layer in the output block of a group: 64, or fewer at the layer's end (R118). -/
def blockGroups (outputs outGroup : Nat) : Nat := min 64 ((outputs + 15) / 16 - outGroup / 64 * 64)

/-- Place of region 0 of the set of group `i` of the same output block (R105). -/
def Drain.setOf (d : Drain) (i : Nat) : Nat := d.r0 + i * d.nb * d.size - d.head.outGroup % 64 * d.nb * d.size

/-- Exact scaled values of token `t` of the output block: 1,024 columns (R118). -/
def Drain.outValues (d : Drain) (l : LayerInfo) (groups t : Nat) : List Dyad :=
  (List.range 1024).map fun c =>
    let i := c / 16
    let col := d.head.outGroup / 64 * 1024 + c
    if i < groups ∧ col < l.outputs then
      let r := d.setOf i + d.cell (d.setOf i) 143 6 * d.size
      ((bf16 (l.scales.getD col 0)).getD {}).mul
        (p32Val d.pbase (mfield d.mem.slab r 2 5) (p32At d.mem.slab (r + 32 + 64 * t + 4 * (c % 16))))
    else {}

/-- The quotient a / b rounded to a multiple of 2^e, ties to even. -/
def divRound (a b : Dyad) (e : Int) : Int :=
  let k := a.e - b.e - e
  let sgn : Int := if b.m < 0 then -1 else 1
  if k ≥ 0 then rneDiv (sgn * a.m * 2 ^ k.toNat) b.m.natAbs else rneDiv (sgn * a.m) (b.m.natAbs * 2 ^ (-k).toNat)

/-- Write the residual preload regions of the output block (R119). -/
def Drain.residual (d : Drain) (l target : LayerInfo) (tix out : Nat) (vals : List (List Dyad)) : Drain :=
  (List.range 64).foldl (fun d g =>
    let rows := (List.range d.head.tokN).map fun t => (List.range 16).map fun j =>
      let col := d.head.outGroup / 64 * 1024 + 16 * g + j
      divRound ((vals.getD t []).getD (16 * g + j) {}) ((bf16 (target.scales.getD col 0x3F80)).getD { m := 1 })
        (target.pbase + l.residShift)
    let clamps := (((List.range d.head.tokN).filter fun t => !d.dead.contains t).flatMap fun t =>
      (rows.getD t []).filter fun p => p.natAbs > p32Max).length
    let h : RegionHead := { tag := target.inFmt, shift := l.residShift, preload := true, layer := tix, tokN := d.head.tokN,
                            outGroup := d.head.outGroup / 64 * 64 + g, inBlock := 0, cover := 0, clamps := clamps }
    let a := out + d.head.tokN * l.slot + g * d.size
    let d1 : Drain := { d with mem := d.mem.slabWrite (a + 12) (zeros 20), clamps := d.clamps + clamps }
    d1.putRegion a h (rows.map fun r => r.map p32Clamp) false) d

/-- Requantise the values of an output block for every token that is not cancelled, and write the residual regions
(R118, R119). -/
def Drain.output (d : Drain) (l : LayerInfo) (target : Option (Nat × LayerInfo)) (out : Nat) (vals : List (List Dyad)) : Drain :=
  let d := ((List.range d.head.tokN).filter fun t => !d.dead.contains t).foldl (fun d t =>
    let q := requantise l.outFmt l.outlierK l.fallback (vals.getD t [])
    { d with mem := d.mem.slabWrite (out + t * l.slot) q.bytes
             sats := d.sats + q.sats, falls := d.falls + Bool.num q.fellBack, sides := d.sides + q.side }) d
  match target with
  | none => d
  | some (ix, t) => d.residual l t ix out vals

/-- Check the roots of an output block and write it (R118). -/
def Drain.requant (d : Drain) (l : LayerInfo) (target : Option (Nat × LayerInfo)) : Except Nat Drain :=
  let groups := blockGroups l.outputs d.head.outGroup
  let roots := (List.range groups).map fun i => d.setOf i + d.cell (d.setOf i) 143 6 * d.size
  match roots.findSome? fun a => d.operandBad a (some d.nb) with
  | some e => .error e
  | none =>
    .ok (d.output l target (slabIx (d.cell (d.setOf 0) 96 32)) ((List.range d.head.tokN).map fun t => d.outValues l groups t))

/-- The set's root is found in region `k`: ROOT and ROOTV, ROOTS of the block's first set, and requantisation when it is
the last root of the block (R118). -/
def Drain.rootDone (d : Drain) (k : Nat) (l : LayerInfo) (target : Option (Nat × LayerInfo)) : Except Nat Drain :=
  let first := d.setOf 0
  let groups := blockGroups l.outputs d.head.outGroup
  let n := d.cell first 136 7 + 1
  let d := ((d.setCell d.r0 143 6 k).setCell d.r0 149 1 1).setCell first 136 7 n
  if n > groups then .error 0x53
  else if n = groups then d.requant l target else .ok d

/-- Place in the set cell of LVL[l], in bits (R112). -/
def lvlBit (l : Nat) : Nat := 160 + 16 * l

/-- arrive(r) of R112: region `r` arrives at level `l`. -/
def Drain.arrive (d : Drain) (lay : LayerInfo) (target : Option (Nat × LayerInfo)) : Nat → Nat → Nat → Except Nat Drain
  | 0, _, _ => .error 0x53
  | fuel + 1, l, r =>
    let n := (d.nb + 2 ^ l - 1) / 2 ^ l
    let arrived := d.cell d.r0 (lvlBit l + 7) 7 + 1
    if n = 1 then d.rootDone r lay target
    else if arrived > n then .error 0x53
    else
      let d := d.setCell d.r0 (lvlBit l + 7) 7 arrived
      if d.cell d.r0 (lvlBit l + 6) 1 = 0 then
        if arrived = n then d.arrive lay target fuel (l + 1) r
        else .ok ((d.setCell d.r0 (lvlBit l) 6 r).setCell d.r0 (lvlBit l + 6) 1 1)
      else
        let q := d.cell d.r0 (lvlBit l) 6
        let d := d.setCell d.r0 (lvlBit l + 6) 1 0
        match d.combine (d.region r) [d.region r, d.region q] with
        | .error e => .error e
        | .ok d => d.arrive lay target fuel (l + 1) r

/-- Regions of group `g` of size `G` (R113). -/
def groupSize (nb G g : Nat) : Nat := min G (nb - g * G)
/-- Place in the set cell of COUNT[g], in bits. -/
def countBit (g : Nat) : Nat := 176 + 5 * g

/-- Fold complete groups into region 0 in order; region 0 is the root once all are folded (R113). -/
def Drain.fold (d : Drain) (G : Nat) (lay : LayerInfo) (target : Option (Nat × LayerInfo)) : Nat → Except Nat Drain
  | 0 => .ok d
  | fuel + 1 =>
    let groups := (d.nb + G - 1) / G
    let folded := d.cell d.r0 160 5
    let full (g : Nat) : Bool := d.cell d.r0 (countBit g) 5 == groupSize d.nb G g
    if !full 0 then .ok d
    else if folded + 1 ≥ groups then d.rootDone 0 lay target
    else if full (folded + 1) then
      match d.combine (d.region 0) [d.region 0, d.region ((folded + 1) * G)] with
      | .error e => .error e
      | .ok d => (d.setCell d.r0 160 5 (folded + 1)).fold G lay target fuel
    else .ok d

/-- A region of block `k` arrives in grouped order (R113). -/
def Drain.arriveGrouped (d : Drain) (G k : Nat) (lay : LayerInfo) (target : Option (Nat × LayerInfo)) : Except Nat Drain :=
  let g := k / G
  let n := d.cell d.r0 (countBit g) 5 + 1
  let size := groupSize d.nb G g
  if n > size then .error 0x53
  else
    let d := d.setCell d.r0 (countBit g) 5 n
    if n < size then .ok d
    else
      match d.combine (d.region (g * G)) ((List.range size).map fun i => d.region (g * G + i)) with
      | .error e => .error e
      | .ok d => d.fold G lay target 17

/-- G of SGR_ACC_CTL.GROUP: 4, 8 or 16 (R131). -/
def accGroup (ctl : Nat) : Nat := 4 * 2 ^ nbits ctl 1 2

/-- The drain of a buffer before it starts: the set's place and the entry's own header (R104, R107). -/
def State.drainOf (s : State) (w b : Nat) : Drain :=
  let y := s.wheel w
  let x := y.buf b
  let e := x.entry
  let l := s.layer x.sagger e.layer
  { mem := s.mem, r0 := setRegionIx e 0, size := regionBytes e.tokN, nb := l.nb, pbase := l.pbase
    head := { tag := l.inFmt, shift := x.s, layer := e.layer, tokN := e.tokN, raises := x.refires,
              outGroup := e.outGroup, inBlock := e.inBlock, cover := 1, clamps := x.clamps }
    dead := (List.range e.tokN).filter fun i => y.cancelled.contains (x.toks.getD i (0, 0)).2 }

/-- The staged rows of a buffer. -/
def Buf.stagedRows (x : Buf) : List (List Int) :=
  (List.range x.entry.tokN).map fun t => (List.range 16).map fun j =>
    ((x.staged.find? fun v => v.1 == t && v.2.1 == j).map (·.2.2)).getD 0

/-- Write the entry's own partial region; bytes 12 to 31 are the set cell in region 0 and zero elsewhere (R104). -/
def Drain.writeOwn (d : Drain) (rows : List (List Int)) : Drain :=
  let a := d.region d.head.inBlock
  let d := if d.head.inBlock = 0 then d else { d with mem := d.mem.slabWrite (a + 12) (zeros 20) }
  d.putRegion a d.head rows false

/-- The set-cell update, combines, requantisation and residual writes that fall to the drain unit (R111). -/
def Drain.finish (d : Drain) (ctl : Nat) (lay : LayerInfo) (target : Option (Nat × LayerInfo)) : Except Nat Drain :=
  if nbits ctl 0 1 = 1 then d.arriveGrouped (accGroup ctl) d.head.inBlock lay target
  else d.arrive lay target 8 0 d.head.inBlock

/-- The buffer is free, its holds released, its entry out of flight, and its tally advanced (R80, R81, R287). -/
def State.leaveDrain (s : State) (w b : Nat) : State :=
  let x := (s.wheel w).buf b
  let tag := (s.layer x.sagger x.entry.layer).inFmt
  let s := (s.onWheel w fun y => { y.onBuf b fun _ => {} with older := 1 - b }).onSagger x.sagger (·.onFlight tag (· - 1))
  (((s.bump .whlEntries w 1).advance x.sagger x.entry.tally (agentId 1 (dieOfWheel w) (w % 72))).awaitEntry w).touch x.sagger

/-- Count what a drain counted (R61, R109, R114, R131); an entry that has not clamped before raises 0x55. -/
def State.drainCounts (s : State) (g w b : Nat) (d : Drain) : State :=
  let s := ((((s.bump .sgrAccRaise g d.raises).bump .sgrAccClamp g d.clamps).bump .sgrFmtSat g d.sats).bump .sgrFmtFallback g
    d.falls).bump .sgrFmtOutlier g d.sides
  if d.clamps ≠ 0 ∧ ((s.wheel w).buf b).clamps = 0 then s.fault 1 1 0x55 g w b else s

/-- ENTRY_DRAIN (R80, R83, R111 to R119): the older entry's buffer, in DRAIN. -/
def State.drainEntry (s : State) (w b : Nat) : State :=
  let x := (s.wheel w).buf b
  let g := x.sagger
  let l := s.layer g x.entry.layer
  if x.poisoned then s.leaveDrain w b
  else
    let d := (s.drainOf w b).writeOwn x.stagedRows
    match d.finish (s.reg .sgrAccCtl g) l (l.residual.map fun t => (t, s.layer g t)) with
    | .error e => (({ s with mem := d.mem } : State).haltList g).fault 3 1 e g w b
    | .ok d => (({ s with mem := d.mem } : State).drainCounts g w b d).leaveDrain w b

/-- ENTRY_DRAIN. -/
def execEntryDrain (w : WheelIx) (s : State) : Host.Outcome State Fault Refusal :=
  let x := s.wheel w.val
  s.when ((x.buf x.older).st == .drain && !(s.sagger (x.buf x.older).sagger).listHalt) (s.drainEntry w.val x.older)

/-! ## Suspension (R126 to R130) -/

/-- SUSPEND (R126, R127). -/
def execSuspend (w : WheelIx) (saveAddr : BitVec 32) (s : State) : Host.Outcome State Fault Refusal :=
  let a := saveAddr.toNat
  let g := s.wheelOwner w.val
  let x := s.wheel w.val
  if nbits a 30 2 ≠ 0 ∨ slabWheel a ≠ w.val ∨ slabOff a % 64 ≠ 0 ∨ slabOff a + 40960 > slabBytes then
    .next (s.fault 3 1 0x56 g w.val 0)
  else if x.ctx.isSome || x.saving.isSome then .next s
  else .next ((s.onWheel w.val fun x => { x with saving := some saveAddr }).onSagger g fun y =>
    { y with waiting := y.waiting.filter (· != w.val) })

/-- Neither buffer still has to complete a fill or a drain (R127 steps 2 and 3). -/
def Wheel.settled (x : Wheel) : Bool :=
  [x.buf0, x.buf1].all fun b => b.st != .fill && b.st != .drain

/-- ENTRY[k] of the save area: the entry held, or free values where the buffer holds none (R128). -/
def Buf.savedEntry (x : Buf) (k : Nat) : List Byte := if x.st = .free then freeBytes k 32 else leBytes x.raw.toNat 32
/-- LREG, PCELL and CURSOR of a lane and buffer `b`; CURSOR, and all of a lane without a job of the buffer, are free
values (R128). -/
def Lane.saved (x : Lane) (b k : Nat) : List Byte :=
  if x.job.any (·.1 == b) then
    ((List.range 4).flatMap fun o => leBytes (npattern 96 (x.lreg.getD o 0)) 12) ++
      ((List.range 4).flatMap fun o => leBytes (npattern 32 (x.pcell.getD o 0)) 4) ++ freeBytes k 16
  else freeBytes k 80
/-- STAGE[k]: the staged values, token-major; the others are free values (R128). -/
def Buf.savedStage (x : Buf) (k : Nat) : List Byte :=
  (List.range 2048).flatMap fun i =>
    match x.staged.find? fun v => v.1 == i / 16 && v.2.1 == i % 16 with
    | some v => leBytes (npattern 32 v.2.2) 4
    | none => freeBytes (k + 4 * i) 4
/-- The 40,960 bytes of the save area; BUFSTATE and MERGE have no layout of their bits and are free values (R128). -/
def WheelCtx.bytes (c : WheelCtx) (k : Nat) : List Byte :=
  c.buf0.savedEntry k ++ c.buf1.savedEntry (k + 32) ++ freeBytes (k + 64) 64 ++
    ((List.range 256).flatMap fun i => (tget {} c.lanes (i / 2)).saved (i % 2) (k + 128 + 80 * i)) ++
    c.buf0.savedStage (k + 20608) ++ c.buf1.savedStage (k + 28800) ++ freeBytes (k + 36992) 2048 ++ zeros 1920

/-- The context of a wheel that suspends. -/
def Wheel.context (x : Wheel) (addr : BitVec 32) : WheelCtx :=
  { addr := addr, buf0 := x.buf0, buf1 := x.buf1, older := x.older, lanes := x.lanes }

/-- The context is written to the save area, both buffers are free, and the wheel takes entries again (R127, R128). -/
def State.saveContext (s : State) (w : Nat) (a : BitVec 32) : State :=
  let c := (s.wheel w).context a
  let s1 := s.putSlab a.toNat (c.bytes s.freeCtr)
  let s2 := { s1 with freeCtr := s1.freeCtr + 40960 }
  ((s2.onWheel w fun x => { x with ctx := some c, saving := none, buf0 := {}, buf1 := {}, lanes := [] }).bump .whlCtxCount
    w 1).awaitEntry w

/-- SUSPEND_DONE (R127): neither buffer fills or drains any more, and the context is saved. -/
def execSuspendDone (w : WheelIx) (s : State) : Host.Outcome State Fault Refusal :=
  match (s.wheel w.val).saving with
  | none => .next s
  | some a => s.when (s.wheel w.val).settled (s.saveContext w.val a)

/-- RESUME (R126, R129). -/
def execResume (w : WheelIx) (s : State) : Host.Outcome State Fault Refusal :=
  let g := s.wheelOwner w.val
  if (s.wheel w.val).ctx.isNone then .next (s.fault 3 1 0x57 g w.val 0)
  else .next ((s.onWheel w.val fun x => { x with restoring := true }).onSagger g fun y =>
    { y with waiting := y.waiting.filter (· != w.val) })

/-- The wheel with its saved context back, and the slots cancelled meanwhile dropped from it (R129). -/
def Wheel.restored (x : Wheel) (c : WheelCtx) : Wheel :=
  x.cancelled.foldl Wheel.cancelSlot
    { x with buf0 := c.buf0, buf1 := c.buf1, older := c.older, lanes := c.lanes, ctx := none, restoring := false }

/-- A buffer that holds an entry. -/
def Buf.held (x : Buf) : Bool := x.st != .free

/-- RESTORE_CONTEXT (R129): with both buffers free and the saved tiles landed, the context returns; a saved entry whose
tile has been poisoned goes to DRAIN. -/
def execRestoreContext (w : WheelIx) (s : State) : Host.Outcome State Fault Refusal :=
  let x := s.wheel w.val
  match x.ctx with
  | none => .next s
  | some c =>
    let dropped := x.cancelled.foldl (fun n t => n + c.buf0.cancelCount t + c.buf1.cancelCount t) 0
    let s1 := ((s.onWheel w.val (·.restored c)).bump .whlCancelJobs w.val dropped).awaitEntry w.val
    let s2 := if c.buf0.held && !c.buf0.poisoned && s.holdsPoisoned c.buf0 then s1.poisonBuf c.buf0.sagger w.val 0 else s1
    let s3 := if c.buf1.held && !c.buf1.poisoned && s.holdsPoisoned c.buf1 then s2.poisonBuf c.buf1.sagger w.val 1 else s2
    s.when (x.restoring && !x.buf0.held && !x.buf1.held &&
        (!c.buf0.held || s.holdsLanded c.buf0) && (!c.buf1.held || s.holdsLanded c.buf1)) s3

end Sys2Proof.Machine
end

