-- ==== Sys2Proof/Machine/Crypto.lean ====
section
/-! DEFINITION. SHAKE256 (FIPS 202) and CRC-32C (R319), which the spec names and whose algorithms are published. -/

namespace Sys2Proof.Machine

/-! ## Keccak-f[1600] -/

/-- A lane of the Keccak state. -/
abbrev KLane := BitVec 64

/-- Lane (x, y) of a state of 25 lanes at x + 5y. -/
def klane (a : List KLane) (x y : Nat) : KLane := a.getD (x % 5 + 5 * (y % 5)) 0

/-- Round constants. -/
def keccakRC : List KLane :=
  [0x0000000000000001, 0x0000000000008082, 0x800000000000808A, 0x8000000080008000, 0x000000000000808B, 0x0000000080000001,
   0x8000000080008081, 0x8000000000008009, 0x000000000000008A, 0x0000000000000088, 0x0000000080008009, 0x000000008000000A] ++
  [0x000000008000808B, 0x800000000000008B, 0x8000000000008089, 0x8000000000008003, 0x8000000000008002, 0x8000000000000080,
   0x000000000000800A, 0x800000008000000A, 0x8000000080008081, 0x8000000000008080, 0x0000000080000001, 0x8000000080008008]

/-- Rotation offsets by x + 5y. -/
def keccakRot : List Nat :=
  [0, 1, 62, 28, 27, 36, 44, 6, 55, 20, 3, 10, 43, 25, 39, 41, 45, 15, 21, 8, 18, 2, 61, 56, 14]

/-- One round. -/
def keccakRound (a : List KLane) (rc : KLane) : List KLane :=
  let c := (List.range 5).map fun x => klane a x 0 ^^^ klane a x 1 ^^^ klane a x 2 ^^^ klane a x 3 ^^^ klane a x 4
  let d := (List.range 5).map fun x => c.getD ((x + 4) % 5) 0 ^^^ (c.getD ((x + 1) % 5) 0).rotateLeft 1
  -- lane (x, y) moves to (y, 2x + 3y): the lane at (X, Y) comes from x = X + 3Y, y = X
  let b := (List.range 25).map fun i =>
    let x := (i % 5 + 3 * (i / 5)) % 5
    let y := i % 5
    (klane a x y ^^^ d.getD x 0).rotateLeft (keccakRot.getD (x + 5 * y) 0)
  let e := (List.range 25).map fun i => klane b (i % 5) (i / 5) ^^^ (~~~ klane b (i % 5 + 1) (i / 5) &&& klane b (i % 5 + 2) (i / 5))
  e.set 0 (e.getD 0 0 ^^^ rc)

/-- The permutation. -/
def keccakF (a : List KLane) : List KLane := keccakRC.foldl keccakRound a

/-- Absorb one block of 136 bytes. -/
def absorb (a : List KLane) (block : List Byte) : List KLane :=
  keccakF ((List.range 25).map fun i =>
    a.getD i 0 ^^^ (if i < 17 then BitVec.ofNat 64 (leNat ((block.drop (8 * i)).take 8)) else 0))

/-- Absorb `fuel` blocks. -/
def absorbAll : Nat → List KLane → List Byte → List KLane
  | 0, a, _ => a
  | fuel + 1, a, m => absorbAll fuel (absorb a (m.take 136)) (m.drop 136)

/-- The 136 bytes that a state gives out. -/
def squeeze (a : List KLane) : List Byte := (a.take 17).flatMap fun l => leBytes l.toNat 8

/-- `fuel` blocks of output. -/
def squeezeAll : Nat → List KLane → List Byte
  | 0, _ => []
  | fuel + 1, a => squeeze a ++ squeezeAll fuel (keccakF a)

/-- The first `n` bytes of SHAKE256 over a message. -/
def shake256 (m : List Byte) (n : Nat) : List Byte :=
  let len := m.length
  let blocks := len / 136 + 1
  let pad := zeros (136 * blocks - len)
  let pad := pad.set 0 0x1F
  let pad := pad.set (136 * blocks - len - 1) ((pad.getD (136 * blocks - len - 1) 0) ||| 0x80)
  (squeezeAll ((n + 135) / 136) (absorbAll blocks (List.replicate 25 0) (m ++ pad))).take n

/-- Bits [255:0] of SHAKE256; bit 0 is the lowest bit of the first byte (R1). -/
def digest256 (m : List Byte) : BitVec 256 := BitVec.ofNat 256 (leNat (shake256 m 32))

/-! ## CRC-32C (R319) -/

/-- `fuel` bit steps of the reflected polynomial 0x82F63B78. -/
def crcBits : Nat → Nat → Nat
  | 0, c => c
  | fuel + 1, c => crcBits fuel (if c % 2 = 1 then (c / 2) ^^^ 0x82F63B78 else c / 2)

/-- CRC-32C of bytes: reflected, initial value and final exclusive OR all ones. -/
def crc32c (bs : List Byte) : BitVec 32 :=
  BitVec.ofNat 32 ((bs.foldl (fun c b => crcBits 8 (c ^^^ b.toNat)) 0xFFFFFFFF) ^^^ 0xFFFFFFFF)

end Sys2Proof.Machine
end

