-- ==== Sys2Proof/Machine/Kv.lean ====
section
/-! DEFINITION. Where the KV cache lies: pages, sequence records, page-table entries and side words
(spec/06_attention_and_kv_cache.md, R173 to R182). -/

namespace Sys2Proof.Machine

/-! ## Geometry of a model's KV cache (R173, R174) -/

/-- Bytes of one K or V vector: VB. -/
def ImageInfo.vb (i : ImageInfo) : Nat := if i.kv4 then i.headDim / 2 else i.headDim
/-- KVB: bytes for each position and layer. -/
def ImageInfo.kvb (i : ImageInfo) : Nat := 2 * i.hKv * i.vb
/-- PPP: positions of a page. -/
def ImageInfo.ppp (i : ImageInfo) : Nat := if i.kvb = 0 then 1 else frameBytes / i.kvb
/-- Byte of a page at which the K or V vector of head `h` at slot `s` begins (R174). -/
def ImageInfo.vecOff (i : ImageInfo) (isV : Bool) (h s : Nat) : Nat :=
  (((if isV then i.hKv else 0) + h) * i.ppp + s) * i.vb
/-- Exponent field of block `b` of a K or V vector (R51). -/
def ImageInfo.kvExp (i : ImageInfo) (layer h : Nat) (isV : Bool) (b : Nat) : Nat :=
  i.kvExps.getD (((layer * i.hKv + h) * 2 + Bool.num isV) * (i.headDim / 32) + b) 127
/-- Bits of one KV element. -/
def ImageInfo.kvBits (i : ImageInfo) : Nat := if i.kv4 then 4 else 8
/-- Largest legal magnitude of a KV element (R50). -/
def ImageInfo.kvTop (i : ImageInfo) : Nat := if i.kv4 then 7 else 127

/-- The elements of a stored vector (R50). -/
def ImageInfo.vecInts (i : ImageInfo) (bs : List Byte) : List Int :=
  (List.range i.headDim).map fun d => nsigned i.kvBits (bfield bs (d * i.kvBits) i.kvBits)
/-- The vector holds the pattern that R50 calls a structure violation. -/
def ImageInfo.vecBad (i : ImageInfo) (bs : List Byte) : Bool := (i.vecInts bs).any fun x => x < -(i.kvTop : Int)
/-- The exact values of a stored vector (R51). -/
def ImageInfo.vecVals (i : ImageInfo) (layer h : Nat) (isV : Bool) (bs : List Byte) : List Dyad :=
  let xs := i.vecInts bs
  (List.range i.headDim).map fun d =>
    let m := xs.getD d 0
    if m = 0 then {} else { m := m, e := (i.kvExp layer h isV (d / 32) : Int) - 127 }

/-- The stored bytes of a vector's values, and its saturations (R51). -/
def ImageInfo.vecBytes (i : ImageInfo) (layer h : Nat) (isV : Bool) (vs : List Dyad) : List Byte × Nat :=
  let ms := (List.range i.headDim).map fun d => quant (i.kvExp layer h isV (d / 32)) i.kvTop (vs.getD d {})
  let sats := ((List.range i.headDim).filter fun d => !quantFits (i.kvExp layer h isV (d / 32)) i.kvTop (vs.getD d {})).length
  (packMants (if i.kv4 then 1 else 2) ms |>.take i.vb, sats)

/-! ## Slots and their models -/

/-- The image whose KV geometry a sequence slot has: the model of the request, or its draft model for a draft slot. -/
def State.imageOfSlot (s : State) (g slot : Nat) : ImageInfo :=
  match s.reqOfSlot g slot with
  | none => s.stepImage g
  | some q => ((s.image? g (if q.slot = slot then q.sub.model else q.sub.draft)).map (·.info)).getD {}
/-- Layer-table entry of a slot's image. -/
def State.slotLayer (s : State) (g slot layer : Nat) : LayerInfo := (s.imageOfSlot g slot).layers.getD layer {}

/-! ## Sequence records and page tables (R177, R178) -/

/-- Address of the sequence record of a slot. -/
def State.seqAddr (s : State) (g slot : Nat) : Nat := s.placeAddr g 4 + 64 * slot
/-- A field of a sequence record: byte offset, bit, width. -/
def State.seqField (s : State) (g slot off lo w : Nat) : Nat := s.hbmField (s.seqAddr g slot) (8 * off + lo) w
/-- Set a field of a sequence record. -/
def State.putSeq (s : State) (g slot off lo w v : Nat) : State := s.putHbmField (s.seqAddr g slot) (8 * off + lo) w v
/-- FIRED_SLOTS. -/
def State.firedSlots (s : State) (g slot : Nat) : Nat := s.seqField g slot 8 0 23
/-- NEXT_POS. -/
def State.nextPos (s : State) (g slot : Nat) : Nat := s.seqField g slot 12 0 23
/-- PT_PAGES. -/
def State.ptPages (s : State) (g slot : Nat) : Nat := s.seqField g slot 20 0 20
/-- Address of the page-table entry of a layer and logical page. -/
def State.pteAddr (s : State) (g slot layer page : Nat) : Nat :=
  s.seqField g slot 16 0 32 * 4096 + (layer * s.ptPages g slot + page) * 8
/-- The side block of a layer, in bytes of HBM. -/
def State.sideAddr (s : State) (g slot layer page : Nat) : Nat :=
  s.seqField g slot 24 0 32 * 4096 + (layer * s.ptPages g slot + page) * 4 * (s.imageOfSlot g slot).ppp
/-- Address of the side word of a logical slot (R175). -/
def State.sideWordAddr (s : State) (g slot layer n : Nat) : Nat :=
  let p := (s.imageOfSlot g slot).ppp
  s.sideAddr g slot layer (n / p) + 4 * (n % p)

/-- A page-table entry (R178). -/
structure Pte where
  frame   : Nat := 0
  valid   : Bool := false
  shared  : Bool := false
  pmap    : Bool := false
  swapped : Bool := false
  basePos : Nat := 0
  fill    : Nat := 0
  /-- the reserved bits -/
  resv    : Nat := 0
  deriving DecidableEq, Repr

/-- The entry that 8 bytes spell. -/
def pteOf (x : Nat) : Pte :=
  { frame := nbits x 0 24, valid := bitOf x 24, shared := bitOf x 25, pmap := bitOf x 26, swapped := bitOf x 27,
    basePos := nbits x 32 23, fill := nbits x 55 9, resv := nbits x 28 4 }
/-- The 8 bytes of an entry. -/
def Pte.bits (e : Pte) : Nat :=
  e.frame % 2 ^ 24 + 2 ^ 24 * Bool.num e.valid + 2 ^ 25 * Bool.num e.shared + 2 ^ 26 * Bool.num e.pmap +
    2 ^ 27 * Bool.num e.swapped + 2 ^ 28 * (e.resv % 16) + 2 ^ 32 * (e.basePos % 2 ^ 23) + 2 ^ 55 * (e.fill % 512)
/-- The entry of a layer and logical page. -/
def State.pte (s : State) (g slot layer page : Nat) : Pte := pteOf (s.hbmNum (s.pteAddr g slot layer page) 8)
/-- Write an entry. -/
def State.putPte (s : State) (g slot layer page : Nat) (e : Pte) : State :=
  s.putHbmNum (s.pteAddr g slot layer page) 8 e.bits

/-- Bytes of the frame that holds a logical slot's vector. -/
def State.vecAddr (s : State) (g slot layer n h : Nat) (isV : Bool) : Nat :=
  let i := s.imageOfSlot g slot
  (s.pte g slot layer (n / i.ppp)).frame * frameBytes + i.vecOff isV h (n % i.ppp)

/-! ## The ragged table (R185) -/

/-- The ragged entry of a slot in the running step. -/
def State.raggedOf (s : State) (g slot : Nat) : Option Ragged := (s.sagger g).ragged.find? (·.slot == slot)

/-- The request of a ragged entry is cancelled: MASK is set (R187). -/
def State.maskedSlot (s : State) (g slot : Nat) : Bool := (s.reqOfSlot g slot).any (·.masked)

/-- Ancestors of a tree node, with itself, as a bit mask (R194). -/
def ancMask (tree : List TreeNode) : Nat → Nat → Nat
  | 0, k => 2 ^ k
  | fuel + 1, k => if k = 0 then 1 else 2 ^ k + ancMask tree fuel ((tree.getD k { token := 0, parent := 0, depth := 0 }).parent)

/-- Position of row `r` of a ragged entry (R187, R194). -/
def Ragged.rowPos (e : Ragged) (tree : List TreeNode) (r : Nat) : Nat :=
  if e.tree then e.pos0 + (tree.getD r { token := 0, parent := 0, depth := 0 }).depth else e.pos0 + r

/-- The tree that the rows of a draft slot form: a path node that the last step left comes first, as the parent of
node 0 (R259, R261). -/
def Req.draftTree (q : Req) : List TreeNode :=
  match q.draftRow with
  | none => q.tree
  | some t => { token := t, parent := 0, depth := 0 } ::
      (List.range q.tree.length).map fun k =>
        let n := q.tree.getD k { token := 0, parent := 0, depth := 0 }
        { n with parent := if k = 0 then 0 else n.parent + 1, depth := n.depth + 1 }

/-- The tree of the rows of a slot. -/
def State.treeOf (s : State) (g slot : Nat) : List TreeNode :=
  match s.reqOfSlot g slot with
  | none => []
  | some q => if q.draftSlot = some slot then q.draftTree else q.tree

end Sys2Proof.Machine
end

