-- ==== Sys2Proof/Machine/Frames.lean ====
section
/-! DEFINITION. Page frames and the prefix tree: allocation, charges, scrub queues, lookup, attach, publish, release,
eviction and retirement (spec/06_attention_and_kv_cache.md, R184, R199 to R205; R241, R304, R440). -/

namespace Sys2Proof.Machine

/-! ## Frames (R184, R440) -/

/-- Bytes of an HBM placement of a type; 0 for slab placements (R440). -/
def placeBytes (type count penwin : Nat) : Nat :=
  match type with
  | 0x01 => 32 * count
  | 0x02 => 32 * count
  | 0x03 => 32 * count
  | 0x04 => 64 * count
  | 0x05 => 64 * count
  | 0x06 => count * (512 + 4 * penwin)
  | 0x07 => 64 * count
  | 0x08 => 4 * count
  | 0x09 => 1024 * count
  | 0x0A => 8 * count
  | 0x0F => 16 * count
  | 0x10 => 1024 * count
  | _ => 0

/-- The HBM ranges that the placements of a sagger touch. -/
def State.placedRanges (s : State) (g : Nat) : List (Nat × Nat) :=
  ((s.plan.map (·.places)).getD []).filterMap fun r =>
    let n := placeBytes r.type r.count (s.planSagger g).penwinMax
    if r.sagger = g ∧ n ≠ 0 then some (r.base * 4096, n) else none

/-- A loaded image holds the stratum, or one whose chunks are being written (R371, R423, R440). -/
def State.imageHolds (s : State) (t : Nat) : Bool :=
  ((List.range 12).any fun g => (s.sagger g).images.any fun i => i.strata.contains t) ||
    s.lat.loadings.any fun l => l.image.strata.contains t

/-- The 128 KiB at frame number `f` are a page frame of sagger `g`. -/
def State.isFrame (s : State) (g f : Nat) : Bool :=
  let a := f * frameBytes
  s.owns g a frameBytes && !s.imageHolds (stratumOfAddr a) &&
    (s.placedRanges g).all fun r => r.1 + r.2 ≤ a || a + frameBytes ≤ r.1

/-- A frame is FREE and scrubbed. -/
def State.frameFree (s : State) (g f : Nat) : Bool := s.isFrame g f && !(s.sagger g).frames.any (·.1 == f)

/-- The first number from `f` up, among `fuel`, that meets `p`. -/
def firstFrom (p : Nat → Bool) : Nat → Nat → Option Nat
  | 0, _ => none
  | fuel + 1, f => if p f then some f else firstFrom p fuel (f + 1)

/-- Frames of a stratum: 73,728. -/
def stratumFrames : Nat := 73728
/-- The owned strata of a sagger, rising. -/
def State.ownStrata (s : State) (g : Nat) : List Nat := (List.range 128).filter fun t => s.ownsStratum g t && s.stratumUsable t

/-- The lowest free frame of a sagger (DESIGN CHOICE, log entry 21). -/
def State.freeFrame (s : State) (g : Nat) : Option Nat :=
  (s.ownStrata g).findSome? fun t => firstFrom (s.frameFree g) stratumFrames (t * stratumFrames)
/-- The lowest run of `n` free frames within one stratum. -/
def State.freeRun (s : State) (g n : Nat) : Option Nat :=
  (s.ownStrata g).findSome? fun t =>
    firstFrom (fun f => f + n ≤ (t + 1) * stratumFrames && (List.range n).all fun i => s.frameFree g (f + i)) stratumFrames
      (t * stratumFrames)
/-- Free frames of a sagger: ATN_FRAMES_FREE. -/
def State.framesFree (s : State) (g : Nat) : Nat :=
  (s.ownStrata g).foldl (fun n t => n + ((List.range stratumFrames).filter fun f => s.frameFree g (t * stratumFrames + f)).length) 0
/-- Frames in the SHARED state. -/
def State.framesShared (s : State) (g : Nat) : Nat :=
  ((s.sagger g).frames.filter fun f => match f.2 with | .shared .. => true | _ => false).length

/-- Give a frame a state. -/
def State.setFrame (s : State) (g f : Nat) (st : FrameState) : State :=
  s.onSagger g fun x => { x with frames := tset x.frames f st }
/-- A frame is freed: it enters its stack's scrub queue (R184, R304). -/
def State.dropFrame (s : State) (g f : Nat) : State :=
  match (s.sagger g).frames.find? (·.1 == f) with
  | none => s
  | some (_, .scrubbing) => s
  | some (_, .retired) => s
  | some _ => (s.setFrame g f .scrubbing).onStack (stackOfAddr (f * frameBytes)) fun x => { x with scrubQ := x.scrubQ ++ [(f, g)] }

/-- Tenant charged with a frame (R241). -/
def FrameState.charge : FrameState → Option Nat
  | .exclusive t => some t
  | .shared t _ => some t
  | _ => none
/-- Frames charged to a tenant. -/
def State.pagesOf (s : State) (g tenant : Nat) : Nat :=
  ((s.sagger g).frames.filter fun f => f.2.charge == some tenant).length
/-- The tenant table entry of a tag that is in force. -/
def State.tenant? (s : State) (g tenant : Nat) : Option Tenant :=
  (s.sagger g).tenants.find? fun t => t.budget.tenant == tenant && !t.fresh
/-- PAGES in force of a tenant. -/
def State.pageLimit (s : State) (g tenant : Nat) : Nat := ((s.tenant? g tenant).map (·.budget.pages)).getD 0

/-- Why a frame is not allocated. -/
inductive FrameShort where
  /-- the tenant's budget (R242) -/
  | budget
  /-- no scrubbed frame is free (R265) -/
  | frames
  deriving DecidableEq, Repr

/-- Allocate an EXCLUSIVE frame for a tenant. -/
def State.takeFrame (s : State) (g tenant : Nat) : Except FrameShort (Nat × State) :=
  if s.pagesOf g tenant ≥ s.pageLimit g tenant then .error .budget
  else match s.freeFrame g with
    | none => .error .frames
    | some f => .ok (f, s.setFrame g f (.exclusive tenant))

/-! ## Tables of a sequence (log entry 20) -/

/-- PT_PAGES for a sequence of at most `n` positions: room for a tree and for the skips of R182, a multiple of 16. -/
def ptPagesFor (i : ImageInfo) (n : Nat) : Nat := ((min i.maxPos n + 64) / i.ppp + 2 + 15) / 16 * 16
/-- Bytes of the page tables, rounded up to 4 KiB. -/
def ptBytes (i : ImageInfo) (pages : Nat) : Nat := (i.attnLayers * pages * 8 + 4095) / 4096 * 4096
/-- Bytes of the side blocks. -/
def sideBytes (i : ImageInfo) (pages : Nat) : Nat := i.attnLayers * pages * 4 * i.ppp
/-- Frames of both. -/
def tableFrames (i : ImageInfo) (pages : Nat) : Nat := (ptBytes i pages + sideBytes i pages + frameBytes - 1) / frameBytes

/-- The frames that hold a sequence's tables. -/
def State.tableRange (s : State) (g slot : Nat) : List Nat :=
  let f := s.seqField g slot 16 0 32 * 4096 / frameBytes
  (List.range (tableFrames (s.imageOfSlot g slot) (s.ptPages g slot))).map (f + ·)

/-! ## Prefix nodes (R199, R200) -/

/-- Address of a node. -/
def State.nodeAddr (s : State) (g n : Nat) : Nat := s.placeAddr g 7 + 64 * n
/-- A field of a node: byte offset, bit, width. -/
def State.nodeField (s : State) (g n off lo w : Nat) : Nat := s.hbmField (s.nodeAddr g n) (8 * off + lo) w
/-- Set a field of a node. -/
def State.putNode (s : State) (g n off lo w v : Nat) : State := s.putHbmField (s.nodeAddr g n) (8 * off + lo) w v
/-- Block digest of a node. -/
def State.nodeDigest (s : State) (g n : Nat) : Nat := s.nodeField g n 0 0 64
/-- PARENT. -/
def State.nodeParent (s : State) (g n : Nat) : Nat := s.nodeField g n 12 0 32
/-- FIRST_CHILD. -/
def State.nodeChild (s : State) (g n : Nat) : Nat := s.nodeField g n 16 0 32
/-- NEXT_SIBLING. -/
def State.nodeNext (s : State) (g n : Nat) : Nat := s.nodeField g n 20 0 32
/-- HASH_NEXT. -/
def State.nodeHash (s : State) (g n : Nat) : Nat := s.nodeField g n 24 0 32
/-- STATE: 0 FREE, 1 BUILDING, 2 READY, 3 EVICTING. -/
def State.nodeState (s : State) (g n : Nat) : Nat := s.nodeField g n 28 0 2
/-- DEPTH. -/
def State.nodeDepth (s : State) (g n : Nat) : Nat := s.nodeField g n 28 2 17
/-- REFS. -/
def State.nodeRefs (s : State) (g n : Nat) : Nat := s.nodeField g n 32 0 32
/-- Byte address of the block list. -/
def State.nodeList (s : State) (g n : Nat) : Nat := s.nodeField g n 36 0 32 * 1024
/-- LAST_USE. -/
def State.nodeUse (s : State) (g n : Nat) : Nat := s.nodeField g n 40 0 32
/-- Image of a node. -/
def State.nodeImage (s : State) (g n : Nat) : ImageInfo := ((s.image? g (s.nodeField g n 8 16 16)).map (·.info)).getD {}

/-- Pages of a block in each layer: max(1, 64 / PPP). -/
def ImageInfo.blockPages (i : ImageInfo) : Nat := max 1 (64 / i.ppp)
/-- Bytes of a block list, a multiple of 1 KiB (R200). -/
def ImageInfo.listBytes (i : ImageInfo) : Nat := (256 + i.attnLayers * i.blockPages * 8 + 1023) / 1024 * 1024
/-- Address of entry `k` of a layer in a node's block list. -/
def State.listEntry (s : State) (g n layer k : Nat) : Nat :=
  s.nodeList g n + 256 + (layer * (s.nodeImage g n).blockPages + k) * 8
/-- A frame that the node names (R184). -/
def FrameState.ofNode (n : Nat) : FrameState → Bool
  | .shared _ m => m == n
  | _ => false
/-- The SHARED frames that a node names. -/
def State.nodeFrames (s : State) (g n : Nat) : List Nat :=
  ((s.sagger g).frames.filter fun f => f.2.ofNode n).map (·.1)

/-- The digest of a block (R200). -/
def blockDigest (scope model parent : Nat) (tokens : List Nat) : Nat :=
  leNat (shake256 (leBytes scope 2 ++ leBytes model 2 ++ leBytes parent 8 ++ tokens.flatMap fun t => leBytes t 4) 8)

/-- Address of the hash head of a digest. -/
def State.headAddr (s : State) (g digest : Nat) : Nat := s.placeAddr g 8 + 4 * (digest % s.placeCount g 8)
/-- Nodes of a hash chain. -/
def State.hashChain (s : State) (g : Nat) : Nat → Nat → List Nat
  | 0, _ => []
  | fuel + 1, n => if n = 0 then [] else n :: s.hashChain g fuel (s.nodeHash g n)
/-- Nodes of the chain of a digest. -/
def State.chainOf (s : State) (g digest : Nat) : List Nat :=
  s.hashChain g (s.placeCount g 7) (s.hbmNum (s.headAddr g digest) 4)
/-- Children of a node. -/
def State.childList (s : State) (g : Nat) : Nat → Nat → List Nat
  | 0, _ => []
  | fuel + 1, n => if n = 0 then [] else n :: s.childList g fuel (s.nodeNext g n)
/-- Children of a node. -/
def State.children (s : State) (g n : Nat) : List Nat := s.childList g (s.placeCount g 7) (s.nodeChild g n)

/-- A node that fails a check of R205. -/
def State.nodeBad (s : State) (g n : Nat) : Bool :=
  let p := s.nodeParent g n
  s.nodeField g n 28 19 13 != 0 || (s.hbm (s.nodeAddr g n + 44) 20).any (· != 0) || s.nodeState g n == 0 ||
    s.nodeDepth g n != (if p = 0 then 0 else s.nodeDepth g p + 1) || !s.owns g (s.nodeList g n) (s.nodeImage g n).listBytes

/-! ## Unlinking, freeing, retiring, evicting (R203, R205) -/

/-- Take node `n` out of a linked list: `next` and `put` read and set a link, `head` is the first node. -/
def unlinkFrom (next : State → Nat → Nat) (put : State → Nat → Nat → State) (n : Nat) : List Nat → State → State
  | a :: b :: r, s => if b = n then put s a (next s n) else unlinkFrom next put n (b :: r) s
  | _, s => s

/-- Take a node out of its hash chain and its parent's children. -/
def State.unlinkNode (s : State) (g n : Nat) : State :=
  let d := s.nodeDigest g n
  let chain := s.chainOf g d
  let s1 := if chain.head? = some n then s.putHbmNum (s.headAddr g d) 4 (s.nodeHash g n)
    else unlinkFrom (fun s n => s.nodeHash g n) (fun s a v => s.putNode g a 24 0 32 v) n chain s
  let p := s.nodeParent g n
  let kids := s.children g p
  if p = 0 then s1
  else if kids.head? = some n then s1.putNode g p 16 0 32 (s.nodeNext g n)
  else unlinkFrom (fun s n => s.nodeNext g n) (fun s a v => s.putNode g a 20 0 32 v) n kids s1

/-- The node returns to FREE and its frames are freed. -/
def State.freeNode (s : State) (g n : Nat) : State :=
  let fs := s.nodeFrames g n
  let s1 := fs.foldl (fun s f => s.dropFrame g f) s
  (s1.putHbm (s.nodeAddr g n) (zeros 64)).onSagger g fun x =>
    { x with nodes := x.nodes.filter (· != n), retired := x.retired.filter (· != n) }

/-- A node and its descendants, breadth first, within `fuel` levels. -/
def State.subtree (s : State) (g : Nat) : Nat → List Nat → List Nat
  | 0, _ => []
  | fuel + 1, l => if l.isEmpty then [] else l ++ s.subtree g fuel (l.flatMap (s.children g))

/-- Retire a node and its descendants: unlinked and EVICTING, freed at once where REFS is 0; one record 0x78 (R205). -/
def State.retireNode (s : State) (g n : Nat) : State :=
  let all := s.subtree g (s.placeCount g 7) [n]
  let s1 := all.foldr (fun m s =>
    let s := (s.unlinkNode g m).putNode g m 28 0 2 3
    if s.nodeRefs g m = 0 then s.freeNode g m else s.onSagger g fun x => { x with retired := addSorted x.retired m }) s
  s1.fault 1 6 0x78 g g 0

/-- READY leaf nodes with REFS 0 that are not kept. -/
def State.evictable (s : State) (g : Nat) (keep : List Nat) : List Nat :=
  (s.sagger g).nodes.filter fun n => s.nodeState g n == 2 && s.nodeRefs g n == 0 && s.nodeChild g n == 0 && !keep.contains n
/-- The node that is evicted first: lowest LAST_USE, then lowest index (R203). -/
def State.evictFirst (s : State) (g : Nat) (keep : List Nat) : Option Nat :=
  (s.evictable g keep).foldl (fun b n => match b with
    | none => some n
    | some m => if s.nodeUse g n < s.nodeUse g m then some n else b) none
/-- Evict a node. -/
def State.evictNode (s : State) (g n : Nat) : State := ((s.unlinkNode g n).freeNode g n).bump .atnEvict g 1
/-- Evict nodes until `n` frames have been freed or none is left; answers the frames freed. -/
def State.evictFor (s : State) (g : Nat) (keep : List Nat) : Nat → Nat → Nat × State
  | 0, _ => (0, s)
  | fuel + 1, n =>
    if n = 0 then (0, s)
    else match s.evictFirst g keep with
      | none => (0, s)
      | some m =>
        let k := (s.nodeFrames g m).length
        let (r, s') := (s.evictNode g m).evictFor g keep fuel (n - k)
        (k + r, s')

/-! ## Lookup and attach (R201) -/

/-- Block `j` of a token list. -/
def blockTokens (tokens : List Nat) (j : Nat) : List Nat := piece tokens 64 j
/-- The tokens of a node's block list. -/
def State.nodeTokens (s : State) (g n : Nat) : List Nat := (List.range 64).map fun k => s.hbmNum (s.nodeList g n + 4 * k) 4

/-- What the lookup of one block finds: the node, the digest matches with other tokens, and a damaged node. -/
structure Found where
  node     : Option Nat := none
  collides : Nat := 0
  bad      : Option Nat := none
  deriving DecidableEq, Repr

/-- Search the chain of one block. -/
def State.findBlock (s : State) (g scope model parent digest : Nat) (tokens : List Nat) : Found :=
  (s.chainOf g digest).foldl (fun f n =>
    if f.node.isSome || f.bad.isSome then f
    else if s.nodeBad g n then { f with bad := some n }
    else if s.nodeState g n = 2 ∧ s.nodeDigest g n = digest ∧ s.nodeField g n 8 0 16 = scope ∧ s.nodeField g n 8 16 16 = model ∧
        s.nodeParent g n = parent then
      if s.nodeTokens g n = tokens then { f with node := some n } else { f with collides := f.collides + 1 }
    else f) {}

/-- Lookup of the blocks from `j` on: the matched nodes; collisions are counted and damaged nodes retired. -/
def State.lookup (s : State) (g scope model : Nat) (tokens : List Nat) : Nat → Nat → Nat → List Nat × State
  | 0, _, _ => ([], s)
  | fuel + 1, j, parent =>
    let toks := blockTokens tokens j
    let d := blockDigest scope model (if parent = 0 then 0 else s.nodeDigest g parent) toks
    let f := s.findBlock g scope model parent d toks
    let s1 := s.bump .atnPrefixCollide g f.collides
    match f.bad, f.node with
    | some n, _ => ([], s1.retireNode g n)
    | none, none => ([], s1)
    | none, some n =>
      let (r, s2) := s1.lookup g scope model tokens fuel (j + 1) n
      (n :: r, s2)

/-- Blocks that a prompt may match: one token at least is always computed. -/
def eligibleBlocks (promptLen : Nat) : Nat := (promptLen - 1) / 64

/-- Attach node `n` as block `j` of a slot. -/
def State.attachNode (s : State) (g slot j n : Nat) : State :=
  let i := s.imageOfSlot g slot
  let s1 := (s.putNode g n 32 0 32 (s.nodeRefs g n + 1)).putNode g n 40 0 32 ((s.sagger g).stepNum % 2 ^ 32)
  let s2 := (List.range i.attnLayers).foldl (fun s l => (List.range i.blockPages).foldl (fun s k =>
    let e := pteOf (s.hbmNum (s.listEntry g n l k) 8)
    let page := j * i.blockPages + k
    let s := s.putPte g slot l page { e with shared := true, basePos := 64 * j + k * i.ppp, fill := min 64 i.ppp }
    (List.range (min 64 i.ppp)).foldl (fun s t =>
      s.putHbmNum (s.sideWordAddr g slot l (page * i.ppp + t)) 4 (64 * j + k * i.ppp + t + 2 ^ 24 * i.sInit)) s) s) s1
  ((((s2.putSeq g slot 28 0 32 n).putSeq g slot 32 0 17 (j + 1)).putSeq g slot 8 0 23 ((j + 1) * i.blockPages * i.ppp)).putSeq
    g slot 12 0 23 (64 * (j + 1))).bump .atnPrefixHit g 1

/-- Attach the matched nodes to a new sequence. -/
def State.attachAll (s : State) (g slot : Nat) (ns : List Nat) : State :=
  (List.range ns.length).foldl (fun s j => s.attachNode g slot j (ns.getD j 0)) s

/-! ## Release (R202) -/

/-- The attached nodes of a slot from the deepest up, `n` of them. -/
def State.ancestors (s : State) (g : Nat) : Nat → Nat → List Nat
  | 0, _ => []
  | n + 1, a => if a = 0 then [] else a :: s.ancestors g n (s.nodeParent g a)

/-- Subtract 1 from REFS of a node; below zero it stays and 0x7A is raised; a retired node that reaches 0 is freed. -/
def State.unref (s : State) (g n : Nat) : State :=
  if s.nodeRefs g n = 0 then s.fault 3 6 0x7A g g 0
  else
    let s := s.putNode g n 32 0 32 (s.nodeRefs g n - 1)
    if s.nodeRefs g n = 0 ∧ (s.sagger g).retired.contains n then s.freeNode g n else s

/-- Release the `k` deepest attached blocks of a slot. -/
def State.releaseBlocks (s : State) (g slot k : Nat) : State :=
  let n := s.seqField g slot 32 0 17
  let k := min k n
  let ns := s.ancestors g k (s.seqField g slot 28 0 32)
  let top := (ns.getLast?.map (s.nodeParent g)).getD 0
  let s1 := ns.foldl (fun s m => s.unref g m) s
  (s1.putSeq g slot 28 0 32 (if n - k = 0 then 0 else top)).putSeq g slot 32 0 17 (n - k)

/-! ## Publish (R201) -/

/-- The lowest free node index. -/
def State.freeNodeIx (s : State) (g : Nat) : Option Nat :=
  firstFrom (fun n => n < s.placeCount g 7 && !(s.sagger g).nodes.contains n) (s.placeCount g 7) 1

/-- Block lists in use: offset in KiB from the area's base, and KiB. -/
def State.listsInUse (s : State) (g : Nat) : List (Nat × Nat) :=
  (s.sagger g).nodes.map fun n => (s.nodeField g n 36 0 32 - s.placeAddr g 9 / 1024, (s.nodeImage g n).listBytes / 1024)
/-- The lowest offset at which a block list of `k` KiB fits. -/
def State.freeList (s : State) (g k : Nat) : Option Nat :=
  let used := s.listsInUse g
  (((0 :: used.map fun u => u.1 + u.2).filter fun a =>
    a + k ≤ s.placeCount g 9 && used.all fun u => u.1 + u.2 ≤ a || a + k ≤ u.1)).foldl
    (fun b a => match b with | none => some a | some c => some (min a c)) none

/-- A free node index and a free block list of `k` KiB, by its byte address. -/
def State.nodeSpot (s : State) (g k : Nat) : Option (Nat × Nat) :=
  match s.freeNodeIx g, s.freeList g k with
  | some n, some a => some (n, s.placeAddr g 9 + 1024 * a)
  | _, _ => none
/-- Place for a new node; unused nodes are evicted until there is room or none is left (R203). -/
def State.nodeRoom (s : State) (g k : Nat) (keep : List Nat) : Nat → Option (Nat × Nat) × State
  | 0 => (s.nodeSpot g k, s)
  | fuel + 1 =>
    match s.nodeSpot g k with
    | some x => (some x, s)
    | none => match s.evictFirst g keep with
      | none => (none, s)
      | some m => (s.evictNode g m).nodeRoom g k keep fuel

/-- Logical slot that holds position `p` of a sequence with `att` attached blocks and no compaction. -/
def posSlot (i : ImageInfo) (att p : Nat) : Nat :=
  if p < 64 * att then p / 64 * i.blockPages * i.ppp + p % 64 else att * i.blockPages * i.ppp + (p - 64 * att)

/-- Write and link a node in READY. -/
def State.buildNode (s : State) (g n list scope model parent digest depth refs : Nat) (tokens : List Nat)
    (entries : List Pte) : State :=
  let bytes := leBytes digest 8 ++ leBytes scope 2 ++ leBytes model 2 ++ leBytes parent 4 ++ leBytes 0 4 ++
    leBytes (if parent = 0 then 0 else s.nodeChild g parent) 4 ++ leBytes (s.hbmNum (s.headAddr g digest) 4) 4 ++
    leBytes (2 + 4 * depth) 4 ++ leBytes refs 4 ++ leBytes (list / 1024) 4 ++ leBytes ((s.sagger g).stepNum % 2 ^ 32) 4 ++ zeros 20
  let s1 := ((s.putHbm (s.nodeAddr g n) bytes).putHbm list (tokens.flatMap fun t => leBytes t 4)).putHbm (list + 256)
    (entries.flatMap fun e => leBytes e.bits 8)
  let s2 := if parent = 0 then s1 else s1.putNode g parent 16 0 32 n
  (s2.putHbmNum (s.headAddr g digest) 4 n).onSagger g fun x => { x with nodes := addSorted x.nodes n }

/-- The pages of block `j` of a slot, layer by layer. -/
def State.ownBlockPages (s : State) (g slot j : Nat) : List (Nat × Nat) :=
  let i := s.imageOfSlot g slot
  (List.range i.attnLayers).flatMap fun l => (List.range i.blockPages).map fun k => (l, j * i.blockPages + k)

/-- Publish a block by sharing the sequence's own pages (PPP ≤ 64): REFS 1, and the sequence is attached to it. -/
def State.publishOwn (s : State) (g slot tenant n list scope model parent digest j : Nat) (tokens : List Nat) : State :=
  let pages := s.ownBlockPages g slot j
  let entries := pages.map fun p => { s.pte g slot p.1 p.2 with shared := true }
  let s1 := s.buildNode g n list scope model parent digest j 1 tokens entries
  let s2 := pages.foldl (fun s p =>
    let e := s.pte g slot p.1 p.2
    (s.putPte g slot p.1 p.2 { e with shared := true }).setFrame g e.frame (.shared tenant n)) s1
  (s2.putSeq g slot 28 0 32 n).putSeq g slot 32 0 17 (j + 1)

/-- Allocate `k` EXCLUSIVE frames, or none. -/
def State.takeFrames (s : State) (g tenant : Nat) : Nat → Except FrameShort (List Nat × State)
  | 0 => .ok ([], s)
  | k + 1 =>
    match s.takeFrame g tenant with
    | .error e => .error e
    | .ok (f, s1) =>
      match s1.takeFrames g tenant k with
      | .error e => .error e
      | .ok (fs, s2) => .ok (f :: fs, s2)

/-- Copy the K and V of one logical slot of a layer to slot `t` of a frame. -/
def State.copySlotTo (s : State) (g slot layer n frame t : Nat) : State :=
  let i := s.imageOfSlot g slot
  (List.range i.hKv).foldl (fun m h => [false, true].foldl (fun m v =>
    m.putHbm (frame * frameBytes + i.vecOff v h t) (s.hbm (s.vecAddr g slot layer n h v) i.vb)) m) s

/-- Publish a block by a copy (PPP > 64): FILL 64, REFS 0; the sequence keeps its pages (R184, R201). -/
def State.publishCopy (s : State) (g slot tenant n list scope model parent digest j : Nat) (tokens : List Nat)
    (frames : List Nat) : State :=
  let i := s.imageOfSlot g slot
  let att := s.seqField g slot 32 0 17
  let s1 := (List.range i.attnLayers).foldl (fun s l => (List.range 64).foldl (fun s t =>
    s.copySlotTo g slot l (posSlot i att (64 * j + t)) (frames.getD l 0) t) s) s
  let entries := (List.range i.attnLayers).map fun l =>
    { frame := frames.getD l 0, valid := true, shared := true, basePos := 64 * j, fill := 64 : Pte }
  let s2 := frames.foldl (fun s f => s.setFrame g f (.shared tenant n)) s1
  s2.buildNode g n list scope model parent digest j 0 tokens entries

/-- Every page of the slot has PMAP = 0. -/
def State.noPmap (s : State) (g slot : Nat) : Bool :=
  let i := s.imageOfSlot g slot
  (List.range i.attnLayers).all fun l => (List.range ((s.firedSlots g slot + i.ppp - 1) / i.ppp)).all fun p => !(s.pte g slot l p).pmap

/-- Try to publish block `j` of a slot whose chain of nodes so far is `chain`; answers the node, none to stop. -/
def State.publishBlock (s : State) (g slot tenant scope model : Nat) (tokens chain : List Nat) (j : Nat) : Option Nat × State :=
  let i := s.imageOfSlot g slot
  let parent := (chain.getLast?).getD 0
  let toks := blockTokens tokens j
  let d := blockDigest scope model (if parent = 0 then 0 else s.nodeDigest g parent) toks
  if (s.findBlock g scope model parent d toks).node.isSome || (parent != 0 && s.nodeState g parent != 2) then (none, s)
  else match s.nodeRoom g (i.listBytes / 1024) chain (s.placeCount g 7) with
    | (none, s) => (none, s.bump .atnPublishSkip g 1)
    | (some (n, list), s) =>
      if i.ppp ≤ 64 then (some n, (s.publishOwn g slot tenant n list scope model parent d j toks).bump .atnPublish g 1)
      else match s.takeFrames g tenant i.attnLayers with
        | .error .budget => (none, s.bump .atnPublishSkip g 1)
        | .error .frames => (none, (s.evictFor g chain (s.placeCount g 7) i.attnLayers).2.bump .atnPublishSkip g 1)
        | .ok (fs, s) => (some n, (s.publishCopy g slot tenant n list scope model parent d j toks fs).bump .atnPublish g 1)

/-- Publish the blocks from the chain's end on that a slot's positions complete (R201). -/
def State.publishFrom (s : State) (g slot tenant scope model : Nat) (tokens : List Nat) : Nat → List Nat → List Nat × State
  | 0, chain => (chain, s)
  | fuel + 1, chain =>
    if 64 * (chain.length + 1) > s.nextPos g slot then (chain, s)
    else match s.publishBlock g slot tenant scope model tokens chain chain.length with
      | (none, s) => (chain, s)
      | (some n, s) => s.publishFrom g slot tenant scope model tokens fuel (chain ++ [n])

/-- Every token of the request's sequence, in position order. -/
def Req.tokens (q : Req) : List Nat := q.sub.prompt ++ q.out.reverse

/-- The publishes of a fire point for one slot. -/
def State.publishSlot (s : State) (g slot model : Nat) (q : Req) (chain : List Nat) : List Nat × State :=
  if q.sub.scope = 0 || !s.noPmap g slot then (chain, s)
  else s.publishFrom g slot q.sub.tenant q.sub.scope model q.tokens (s.nextPos g slot / 64 + 1) chain

end Sys2Proof.Machine
end

