-- ==== Sys2Proof/Machine/HbmErrors.lean ====
section
/-! DEFINITION. HBM errors and their containment (R301, R302 of spec/09_memory_tiers.md). -/

namespace Sys2Proof.Machine

/-- Rate limit of records 0xAA and 0xB2: 1 ms. -/
def msNs : Nat := 1000000

/-- Pseudo-channel of an HBM address (R295). -/
def State.pchOf (s : State) (a : Nat) : Nat :=
  let p := a % (8 * stratumBytes) / 256
  match s.stackMode (stackOfAddr a) with
  | 1 => p % 16
  | 2 => 16 + p % 16
  | _ => p % 32

/-- A corrected HBM error. -/
def State.hbmCorrected (s : State) (a : Nat) : State :=
  (s.bump .hbmCe (stackOfAddr a) 1).raiseLimited msNs 0
    { code := faultCode 1 9 0xAA, unit := stackOfAddr a, subunit := s.pchOf a }

/-- An uncorrectable error is counted; more than 16 in one second mark the pseudo-channel (R302). -/
def State.hbmCount (s : State) (a : Nat) : State :=
  let k := stackOfAddr a
  let p := s.pchOf a
  let times := ((s.stack k).ueTimes.filter fun t => t.1 != p || s.refNow ≤ t.2 + 10 ^ 9) ++ [(p, s.refNow)]
  let s1 := (s.bump .hbmUe k 1).onStack k fun x => { x with ueTimes := times }
  if (times.filter (·.1 == p)).length > 16 ∧ ¬ (s.stack k).adRaised.getLsbD p then
    ((s1.onStack k fun x => { x with adRaised := x.adRaised ||| (1 <<< p) }).onHealth fun h =>
      { h with pending := h.pending ++ [(320 + (32 * k + p) / 8, (32 * k + p) % 8)] }).fault 4 9 0xAD 15 k p
  else s1

/-- Fail the requests of a sagger that `p` selects with 0xA4. -/
def State.failReqs (s : State) (g a : Nat) (p : Req → Bool) : State :=
  ((s.sagger g).live.filter p).foldl (fun s q => s.failSlot 9 0xA4 g (stackOfAddr a) q.slot) s

/-- Containment of an uncorrectable error (R301). -/
def State.hbmLost (s : State) (g a : Nat) (hit : HbmData) : State :=
  let s1 := s.hbmCount a
  match hit with
  | .weight => s1.poisonChunk a
  | .kvPage c id => s1.failReqs g a fun q => q.chan == c.toNat && q.sub.reqId == id
  | .sharedPage n => (s1.failReqs g a fun q => q.chain.contains n.toNat || q.draftChain.contains n.toNat).retireNode g n.toNat
  | .structure => s1.fault 3 9 0xA5 g (stackOfAddr a) (s.pchOf a)

/-- What an uncorrectable error in frame `f` hit, for a read of sequence slot `slot`: a shared prefix page by its node,
else the page of the slot's request (R301). -/
def State.pageHit (s : State) (g slot f : Nat) : Option HbmData :=
  match (s.sagger g).frames.find? (·.1 == f) with
  | some (_, .shared _ n) => some (.sharedPage (BitVec.ofNat 32 n))
  | _ => (s.reqOfSlot g slot).map fun q => .kvPage (BitVec.ofNat 6 q.chan) q.sub.reqId
/-- An uncorrectable error in a page that an LDU reads for a slot. -/
def State.pageLost (s : State) (g slot f a : Nat) : State :=
  match s.pageHit g slot f with
  | some hit => s.hbmLost g a hit
  | none => s.hbmCount a
/-- What a read of a weight region at `a` leaves behind (R301). -/
def State.weightRead (s : State) (g a : Nat) : Ecc → State
  | .good => s
  | .corrected => s.hbmCorrected a
  | .uncorrectable => s.hbmLost g a .weight

end Sys2Proof.Machine
end

