-- ==== Sys2Proof/Machine/LogMath.lean ====
section
/-! DEFINITION. Arithmetic of an LDU: L16 groups, log-domain terms and sums, and the correction table
(spec/05_log_and_stochastic_units.md, R137 to R147).

A log2 has 12 fractional bits (R141).  None is the zero term. -/

namespace Sys2Proof.Machine

/-! ## The correction f (R142, R145) -/

/-- f(k/256) = log2(1 + 2^(-k/256)) with 16 fractional bits, rounded: a table entry (R145). -/
def corrEntry (k : Nat) : Int :=
  let x := exp2Fix 8 (-(k : Int))
  (Dyad.log2 16 (Dyad.add { m := 1, e := 0 } x)).getD 0

/-- f(d/4096) with 16 fractional bits: the tail path (R142). -/
def corrTail (d : Nat) : Int := (Dyad.log2 16 (Dyad.add { m := 1, e := 0 } (exp2Fix 12 (-(d : Int))))).getD 0

/-- max + f(Δ) rounded to 12 fractional bits, under a table of the given STEP (R141, R142). -/
def logSum (step : Nat) (a b : Int) : Int :=
  let d := (a - b).natAbs
  let h := step * 16
  let top := max a b
  if d < 63 * h then
    rneDiv (top * 16 * h + corrEntry (d / h * step) * ((h - d % h : Nat) : Int) + corrEntry ((d / h + 1) * step) * (d % h)) (16 * h)
  else if d < 12 * 4096 then rneDiv (top * 16 + corrTail d) 16
  else top

/-- Log-add; a zero term leaves the other unchanged (R141). -/
def logAdd (step : Nat) : Option Int → Option Int → Option Int
  | none, b => b
  | a, none => a
  | some a, some b => some (logSum step a b)

/-- One level of a balanced tree. -/
def treePairs (step : Nat) : List (Option Int) → List (Option Int)
  | a :: b :: r => logAdd step a b :: treePairs step r
  | l => l

/-- The balanced sum of the terms of one cycle (R144). -/
def treeSum (step : Nat) : Nat → List (Option Int) → Option Int
  | 0, l => l.foldl (logAdd step) none
  | fuel + 1, l => if l.length ≤ 1 then (l.head?).getD none else treeSum step fuel (treePairs step l)

/-! ## The stack of partial sums (R144) -/

/-- Insert a partial in order of level. -/
def insertPart (p : LogPart) : List LogPart → List LogPart
  | [] => [p]
  | a :: r => if p.level ≤ a.level then p :: a :: r else a :: insertPart p r

/-- A partial of 2^level cycles waits at its level until one of equal size arrives, and the two are added. -/
def stackPush (step : Nat) : Nat → List LogPart → Nat → Option Int → List LogPart
  | 0, st, lvl, v => insertPart { level := lvl, val := v } st
  | fuel + 1, st, lvl, v =>
    match st.find? (·.level == lvl) with
    | none => insertPart { level := lvl, val := v } st
    | some p => stackPush step fuel (st.filter (·.level != lvl)) (lvl + 1) (logAdd step p.val v)

/-- Add the sum of one cycle's terms to a stack of 20 levels. -/
def stackAdd (step : Nat) (st : List LogPart) (terms : List (Option Int)) : List LogPart :=
  stackPush step 20 st 0 (treeSum step 7 terms)

/-- The waiting levels are added from the lowest level up when the row closes. -/
def stackClose (step : Nat) (st : List LogPart) : Option Int := st.foldl (fun a p => logAdd step a p.val) none

/-! ## Signed terms -/

/-- A term: sign and log2 with 12 fractional bits; none is zero. -/
abbrev LogTerm := Option (Bool × Int)

/-- Product of two terms (R140). -/
def LogTerm.mul : LogTerm → LogTerm → LogTerm
  | some (s, a), some (t, b) => some (s != t, a + b)
  | _, _ => none

/-- The logs of the terms of one sign; the others are zero terms. -/
def signedLogs (neg : Bool) (ts : List LogTerm) : List (Option Int) :=
  ts.map fun t => t.bind fun x => if x.1 = neg then some x.2 else none

/-- A log as an exact number (R143). -/
def logVal (l : Option Int) : Dyad := match l with | none => {} | some x => exp2Fix 12 x

/-- Difference of two exact numbers. -/
def Dyad.sub (a b : Dyad) : Dyad := a.add { m := -b.m, e := b.e }

/-- The terms cut into cycles of 128. -/
def cycles (ts : List LogTerm) : List (List LogTerm) := (List.range ((ts.length + 127) / 128)).map (piece ts 128)

/-- The accumulators P and N of a sum of terms, 128 a cycle (R141, R144). -/
def sumPN (step : Nat) (ts : List LogTerm) : Option Int × Option Int :=
  let side (neg : Bool) := stackClose step ((cycles ts).foldl (fun st c => stackAdd step st (signedLogs neg c)) [])
  (side false, side true)

/-- A dot product as an exact number: P less N (R143). -/
def logDot (step : Nat) (xs ys : List LogTerm) : Dyad :=
  let pn := sumPN step ((List.range xs.length).map fun i => (xs.getD i none).mul (ys.getD i none))
  (logVal pn.1).sub (logVal pn.2)

/-! ## L16 groups (R137 to R139) -/

/-- A group of L16 values with its base, its saturations and its underflows. -/
structure L16Group where
  g    : Int := 0
  pats : List Nat := []
  sats : Nat := 0
  ufls : Nat := 0
  deriving DecidableEq, Repr

/-- ceil(log2 |a|) of a number that is not zero. -/
def Dyad.ceilLog2 (a : Dyad) : Int :=
  let n := a.m.natAbs
  (if 2 ^ Nat.log2 n = n then (Nat.log2 n : Int) else Nat.log2 n + 1) + a.e

/-- The base of a group of exact values (R138). -/
def groupBase (vs : List Dyad) : Int :=
  let big := vs.foldl (fun b v => if b.lt v.abs then v.abs else b) {}
  if big.m = 0 then 0 else big.ceilLog2 - 31

/-- A group from conversions under its base. -/
def groupFrom (g : Int) (cs : List L16Conv) : L16Group :=
  { g := g, pats := cs.map (·.pat), sats := (cs.filter (·.sat)).length, ufls := (cs.filter (·.ufl)).length }

/-- A group of exact values in L16 (R138). -/
def toL16 (vs : List Dyad) : L16Group := groupFrom (groupBase vs) (vs.map (l16Of (groupBase vs)))

/-- The term of an L16 value under base `g`. -/
def l16Term (g : Int) (pat : Nat) : LogTerm :=
  if l16Zero pat then none else some (l16Neg pat, (g * 256 + l16Log pat) * 16)

/-- The terms of a group. -/
def L16Group.terms (x : L16Group) : List LogTerm := x.pats.map (l16Term x.g)

/-- The span of a group in units of 1/256 (R139). -/
def L16Group.span (x : L16Group) : Nat :=
  match (x.pats.filter fun p => !l16Zero p).map l16Log with
  | [] => 0
  | a :: r => (r.foldl max a - r.foldl min a).toNat

/-- STEP of R146 for a span in units of 1/256. -/
def tableStep (span : Nat) : Nat := min 32 (max 4 ((span + 62) / 63))

/-! ## Results -/

/-- A result: sign and log2 with 24 fractional bits; none is zero. -/
abbrev LogRes := Option (Bool × Int)

/-- A term as a result. -/
def resOfTerm (t : LogTerm) : LogRes := t.map fun x => (x.1, x.2 * 4096)
/-- An exact number as a result. -/
def resOfVal (v : Dyad) : LogRes := (v.log2 24).map fun l => (decide (v.m < 0), l)

/-- A row of results rounded once to L16 in its own group (R137, R138). -/
def resultRow (rs : List LogRes) : L16Group :=
  match (rs.filterMap id).map (·.2) with
  | [] => groupFrom 0 (rs.map fun _ => { pat := 2 ^ 14 })
  | a :: l =>
    let top := l.foldl max a
    let g := -((-top) / 2 ^ 24) - 31
    groupFrom g (rs.map fun r => match r with
      | none => { pat := 2 ^ 14 }
      | some (neg, x) => l16Pack neg (rneDiv (x - g * 2 ^ 24) (2 ^ 16)))

/-- The linear value of an L16 value (R151). -/
def l16Val (g : Int) (pat : Nat) : Dyad :=
  if l16Zero pat then {}
  else
    let v := exp2Fix 8 (g * 256 + l16Log pat)
    if l16Neg pat then { m := -v.m, e := v.e } else v

/-- The linear values of a group. -/
def L16Group.vals (x : L16Group) : List Dyad := x.pats.map (l16Val x.g)

end Sys2Proof.Machine
end

