-- ==== Sys2Proof/Machine/Ldu.lean ====
section
/-! DEFINITION. The log-domain units: items, correction tables, attention and operation records
(spec/05_log_and_stochastic_units.md, R134 to R164; descriptors of R188 to R190 and R207). -/

namespace Sys2Proof.Machine

/-! ## Blocks in slabs -/

/-- The violation of a block at a slab address at an operand port. -/
def State.blockViol (s : State) (a : Nat) : Option Nat := blockBad (s.blockAtSlab a)
/-- Exact values of the block at a slab address. -/
def State.blockValues (s : State) (a : Nat) : List Dyad := (blockElems (s.blockAtSlab a)).map Elem.val

/-- Addresses of `n` blocks from `a` up at a stride. -/
def blockAddrs (a stride n : Nat) : List Nat := (List.range n).map fun b => a + b * stride

/-- Write a row of exact values as requantised blocks at `a`, with the layer's outlier and fall-back settings (R46, R61,
R151). -/
def State.writeBlocks (s : State) (g a stride fmt : Nat) (l : LayerInfo) (vs : List Dyad) : State :=
  (List.range ((vs.length + 1023) / 1024)).foldl (fun s b =>
    let q := requantise fmt l.outlierK l.fallback (piece vs 1024 b)
    (((s.putSlab (a + b * stride) q.bytes).bump .sgrFmtSat g q.sats).bump .sgrFmtFallback g (Bool.num q.fellBack)).bump
      .sgrFmtOutlier g q.side) s

/-! ## Requests whose rows a record may read -/

/-- Slots with rows in the running step. -/
def State.rowSlots (s : State) (g : Nat) : List Nat := ((s.sagger g).live.filter fun q => 0 < q.rows).map (·.slot)

/-- A record read a damaged operand: the requests whose rows it carries fail (R57, R162, R313).  A record does not name
its rows' slots, so every request with rows in the step is taken (log entry 14). -/
def State.failRows (s : State) (detail g l : Nat) : State := (s.rowSlots g).foldl (fun s t => s.failSlot 2 detail g l t) s

/-! ## Operation records (R152) -/

/-- The fields of an operation record. -/
structure OpRec where
  kind   : Nat
  layer  : Nat
  rows   : Nat
  outFmt : Nat
  act    : Nat
  cols   : Nat
  dim    : Nat
  inAddr : Nat
  slot   : Nat
  mat    : Nat
  out    : Nat
  tally  : Nat
  mspan  : Nat
  deriving DecidableEq, Repr

/-- The record that 32 bytes spell. -/
def opOf (r : Nat) : OpRec :=
  { kind := nbits r 0 8, layer := nbits r 8 8, rows := nbits r 16 5, outFmt := nbits r 21 2, act := nbits r 23 2,
    cols := nbits r 32 16, dim := nbits r 48 7, inAddr := nbits r 64 32, slot := nbits r 96 16, mat := nbits r 128 32,
    out := nbits r 160 32, tally := nbits r 192 12, mspan := nbits r 224 14 }

/-- A reserved field of the record is not zero. -/
def opReserved (r : Nat) : Bool :=
  nbits r 25 7 != 0 || nbits r 55 9 != 0 || nbits r 112 16 != 0 || nbits r 204 20 != 0 || nbits r 238 18 != 0

/-- Blocks of a second operand of COLS elements. -/
def OpRec.yBlocks (o : OpRec) : Nat := (o.cols + 1023) / 1024
/-- Bytes of one operand-matrix column (R153). -/
def OpRec.colBytes (o : OpRec) : Nat := 64 + 2048 * o.dim
/-- Byte address of MAT_PAGE. -/
def OpRec.matAddr (o : OpRec) : Nat := o.mat * 4096
/-- Output columns of one row of results. -/
def OpRec.outCols (o : OpRec) : Nat := if o.kind = 0x11 then o.cols else 1024 * o.dim
/-- Bytes of an output row of blocks: the slot size is the layer's (R156); NORM and PROD take the same place (log entry
15). -/
def OpRec.outBytes (o : OpRec) (l : LayerInfo) : Nat :=
  if o.kind = 0x13 then o.rows * o.yBlocks * o.slot
  else if o.outFmt = 0 then o.rows * (4 + 2 * o.cols)
  else o.rows * ((o.outCols + 1023) / 1024) * l.slot

/-- The check of R158 that a record fails first. -/
def State.opBad (s : State) (g r : Nat) : Option Nat :=
  let o := opOf r
  let colsUsed := o.kind = 0x11 ∨ o.kind = 0x13
  if o.kind < 0x10 ∨ o.kind > 0x13 ∨ o.rows = 0 ∨ o.rows > 16 ∨ (colsUsed ∧ o.cols = 0) ∨ (¬ colsUsed ∧ o.cols ≠ 0) ∨
      o.dim = 0 ∨ o.dim > 64 ∨ ((o.kind = 0x10 ∨ o.kind = 0x12) ∧ o.outFmt = 0) ∨ (o.kind = 0x13 ∧ o.outFmt ≠ 0) ∨
      (o.kind ≠ 0x12 ∧ o.act ≠ 0) ∨ ¬ [640, 1120, 2144].contains o.slot then some 0x60
  else if !s.slabRegion g (slabBare o.inAddr) (o.rows * o.dim * o.slot) 1 ||
      !s.slabRegion g (slabBare o.out) (o.outBytes (s.layer g o.layer)) 1 ||
      (o.kind == 0x12 && !s.slabRegion g (slabBare o.mat) (o.rows * o.dim * o.slot) 1) then some 0x61
  else if (o.kind = 0x11 ∧ ¬ s.mayRead g o.matAddr (o.cols * o.colBytes)) ∨ (o.kind = 0x10 ∧ ¬ s.mayRead g o.matAddr o.colBytes) ∨
      (o.kind = 0x13 ∧ (¬ s.owns g o.matAddr (4096 * o.dim * o.cols) ∨ s.rangeProtected o.matAddr (4096 * o.dim * o.cols))) then
    some 0x62
  else if opReserved r || (o.kind != 0x11 && o.mspan != 0) || slabReserved o.inAddr || slabReserved o.out ||
      (o.kind == 0x12 && slabReserved o.mat) then some 0x63
  else none

/-- Addresses of the input blocks of row `r`. -/
def OpRec.rowAddrs (o : OpRec) (base r : Nat) : List Nat := blockAddrs (base + r * o.dim * o.slot) o.slot o.dim
/-- Every input block of a record: the first operand's and, where there is one, the second's. -/
def OpRec.inputs (o : OpRec) : List Nat :=
  (List.range o.rows).flatMap (o.rowAddrs o.inAddr) ++
  (match o.kind with
   | 0x12 => (List.range o.rows).flatMap (o.rowAddrs o.mat)
   | 0x13 => (List.range o.rows).flatMap fun r => blockAddrs (o.out + r * o.yBlocks * o.slot) o.slot o.yBlocks
   | _ => [])

/-- The values of row `r` of the first operand. -/
def State.opRow (s : State) (o : OpRec) (base r : Nat) : List Dyad := (o.rowAddrs base r).flatMap s.blockValues
/-- The largest span of a record's input rows, and MSPAN (R146; one table serves the record, log entry 16). -/
def State.opSpan (s : State) (o : OpRec) : Nat :=
  ((List.range o.rows).map fun r => (toL16 (s.opRow o o.inAddr r)).span).foldl max 0 + o.mspan

/-! ## Query tiles (R188, R189) -/

/-- Place in the slab memory of query-tile entry `ix`. -/
def State.qtileAddr (s : State) (g ix : Nat) : Nat := ((s.place g 0x0D).getD (0, 0)).1 + 32 * ix
/-- The 32 bytes of a query-tile entry as a number. -/
def State.qtile (s : State) (g ix : Nat) : Nat := s.slabNum (s.qtileAddr g ix) 32

/-- SLOT of an entry. -/
def qtSlot (q : Nat) : Nat := nbits q 0 16
/-- LAYER. -/
def qtLayer (q : Nat) : Nat := nbits q 16 8
/-- KVHEAD. -/
def qtHead (q : Nat) : Nat := nbits q 24 6
/-- TREE. -/
def qtTree (q : Nat) : Bool := bitOf q 30
/-- QPOS. -/
def qtPos (q : Nat) : Nat := nbits q 32 23
/-- ANC. -/
def qtAnc (q : Nat) : Nat := nbits q 64 64
/-- Q_ADDR. -/
def qtQAddr (q : Nat) : Nat := nbits q 128 32
/-- OUT_ADDR. -/
def qtOut (q : Nat) : Nat := nbits q 160 32
/-- NDESC. -/
def qtNdesc (q : Nat) : Nat := nbits q 192 20
/-- LSIDE. -/
def qtLside (q : Nat) : Nat := nbits q 224 32

/-- QTILE of a descriptor. -/
def descTile (d : Nat) : Nat := nbits d 96 14

/-- Elements of one row of a query tile's results. -/
def ImageInfo.tileElems (i : ImageInfo) : Nat := i.qPerKv * i.headDim
/-- Blocks of the query rows of one token: all heads in index order from Q_ADDR (log entry 17). -/
def ImageInfo.qBlocks (i : ImageInfo) : Nat := (i.hKv * i.tileElems + 1023) / 1024
/-- Blocks of the results of one tile: its rows in head order from OUT_ADDR (log entry 17). -/
def ImageInfo.outBlocks (i : ImageInfo) : Nat := (i.tileElems + 1023) / 1024

/-- The query rows of a token: every query element of the layer, across the heads. -/
def State.queryVals (s : State) (g q : Nat) : List Dyad :=
  let i := s.imageOfSlot g (qtSlot q)
  ((blockAddrs (qtQAddr q) (s.slotLayer g (qtSlot q) (qtLayer q)).slot i.qBlocks).flatMap s.blockValues).take (i.hKv * i.tileElems)

/-- STEP for a tile's query group: its span and the layer's KSPAN (R146). -/
def State.queryStep (s : State) (g q : Nat) : Nat :=
  tableStep ((toL16 (s.queryVals g q)).span + (s.slotLayer g (qtSlot q) (qtLayer q)).kspan)

/-- The query group that a tile belongs to: one token in one layer (R137). -/
def tileGroup (g q : Nat) : List Nat := [g, qtSlot q, qtLayer q, qtPos q, qtAnc q]

/-! ## Taking an item (R135, R147, R150) -/

/-- Row states in use. -/
def Ldu.rowsOpen (x : Ldu) : Nat := x.tiles.foldl (fun n t => n + t.rows.length) 0

/-- The next group starts with table STEP `n`: it takes the bank that the present group does not use, rebuilt unless it
already holds that STEP (R147). -/
def Ldu.startGroup (x : Ldu) (group : List Nat) (n : Nat) : Ldu :=
  if (if x.active = 0 then x.bank1 else x.bank0) = n then { x with active := 1 - x.active, group := group }
  else { x with rebuild := some n, group := group }

/-- A group starts on LDU `l`; a rebuild that is skipped is counted. -/
def State.startGroup (s : State) (l : Nat) (group : List Nat) (n : Nat) : State :=
  let x := (s.ldu l).startGroup group n
  (s.onLdu l fun _ => x).bump .lduRebuildSkips l (Bool.num x.rebuild.isNone)

/-- The sagger of an LDU's operation ring. -/
def State.lduOwner (s : State) (l : Nat) : Nat := (s.ownerOfShelf l).getD 15
/-- A visible operation record waits. -/
def State.opWaits (s : State) (g : Nat) : Bool :=
  (s.sagger g).st == .serving && !(s.sagger g).opHalt && 0 < (s.sagger g).ops.used
/-- Address of the head operation record. -/
def State.opAddr (s : State) (g : Nat) : Nat := s.placeAddr g 2 + 32 * ((s.sagger g).ops.cons % s.placeCount g 2)

/-- Write a record into the operation ring. -/
def State.pushOp (s : State) (g : Nat) (r : BitVec 256) : State :=
  let a := s.placeAddr g 2 + 32 * ((s.sagger g).ops.prod % s.placeCount g 2)
  ((s.putHbmNum a 32 r.toNat).bump .hbmWrBytes (stackOfAddr a) 32).onSagger g fun x =>
    { x with ops := { x.ops with prod := x.ops.prod + 1 } }
/-- The setter's records that have come since the last item was taken: which records a setter issues for its own layers,
its adapters and their gradients (R159, R160) is its code's, so they are an operand; they must fit in the ring (R152). -/
def State.setterOps (s : State) (g : Nat) (recs : List (BitVec 256)) : State :=
  if (s.sagger g).st = .serving ∧ (s.sagger g).ops.used + recs.length ≤ s.placeCount g 2 then
    recs.foldl (fun s r => s.pushOp g r) s
  else s

/-- The head operation record leaves the ring. -/
def State.popOp (s : State) (g : Nat) : State :=
  ((s.bump .hbmRdBytes (stackOfAddr (s.opAddr g)) 32).onSagger g fun x => { x with ops := { x.ops with cons := x.ops.cons + 1 } }).touch g

/-- Take the head operation record of sagger `g`; a record that fails R158 is rejected whole and halts the queue. -/
def State.takeOp (s : State) (l g : Nat) : State :=
  let a := s.opAddr g
  let r := s.hbmNum a 32
  let s := s.popOp g
  match s.opBad g r with
  | some d => (s.onSagger g fun x => { x with opHalt := true }).faultRec 3 2 d g l 0 a (leBytes r 32)
  | none =>
    let s := s.onLdu l fun x => { x with cur := some (.op g (BitVec.ofNat 256 r)), lastOp := true }
    s.startGroup l [] (tableStep (s.opSpan (opOf r)))

/-- The row states that a query tile of an entry takes. -/
def State.tileRows (s : State) (g q : Nat) : Nat := (s.imageOfSlot g (qtSlot q)).qPerKv

/-- The empty state of a row of head dimension `n`. -/
def emptyRow (n : Nat) : RowState := { den := [], pos := List.replicate n [], neg := List.replicate n [] }

/-- The tile that an entry opens. -/
def State.newTile (s : State) (g ix : Nat) : OpenTile :=
  let q := s.qtile g ix
  let i := s.imageOfSlot g (qtSlot q)
  { sagger := g, qtile := ix, slot := BitVec.ofNat 16 (qtSlot q), layer := qtLayer q, kvHead := qtHead q, ndesc := qtNdesc q,
    rows := List.replicate i.qPerKv (emptyRow i.headDim) }

/-- A tile of the LDU by sagger and entry index. -/
def Ldu.tileAt (x : Ldu) (g ix : Nat) : Option OpenTile := x.tiles.find? fun t => t.sagger == g && t.qtile == ix
/-- Change a tile. -/
def Ldu.onTile (x : Ldu) (g ix : Nat) (f : OpenTile → OpenTile) : Ldu :=
  { x with tiles := x.tiles.map fun t => if t.sagger = g ∧ t.qtile = ix then f t else t }

/-- Take the head page descriptor; a tile's first descriptor allocates its row states, and a new query group chooses its
table (R146, R150). -/
def State.takeDesc (s : State) (l g : Nat) (d : BitVec 128) : State :=
  let ix := descTile d.toNat
  let q := s.qtile g ix
  let isNew := ((s.ldu l).tileAt g ix).isNone
  let group := tileGroup g q
  let s1 := (s.onLdu l fun x => { x with
    attnQ := x.attnQ.drop 1, cur := some (.desc g d), lastOp := false,
    tiles := if isNew then x.tiles ++ [s.newTile g ix] else x.tiles }).touch g
  if (s.ldu l).group = group then s1 else s1.startGroup l group (s.queryStep g q)

/-- The head descriptor would open more than 512 row states (R150). -/
def State.rowsFull (s : State) (l g : Nat) (d : BitVec 128) : Bool :=
  ((s.ldu l).tileAt g (descTile d.toNat)).isNone &&
    (s.ldu l).rowsOpen + s.tileRows g (s.qtile g (descTile d.toNat)) > 512

/-- The LDU takes its next item (R135, R150). -/
def State.takeItem (s : State) (l : Nat) : State :=
  let x := s.ldu l
  let g := s.lduOwner l
  let op := s.opWaits g
  if x.cur.isSome || x.rebuild.isSome || !s.lduUsable l then s
  else match x.attnQ with
    | (h, d) :: _ =>
      if (s.sagger h).attnHalt || (op && !x.lastOp) then (if op then s.takeOp l g else s)
      else if s.rowsFull l h d then s else s.takeDesc l h d
    | [] => if op then s.takeOp l g else s
/-- LDU_TAKE_ITEM (R135, R150, R152): `recs` are the records that the sagger's setter has put in the operation ring since the
last one; with none, the command is the take alone. -/
def execLduTakeItem (l : ShelfIx) (recs : List (BitVec 256)) (s : State) : Host.Outcome State Fault Refusal :=
  .next ((s.setterOps (s.lduOwner l.val) recs).takeItem l.val)

/-- TABLE_REBUILD (R147). -/
def execTableRebuild (l : ShelfIx) (s : State) : Host.Outcome State Fault Refusal :=
  match (s.ldu l.val).rebuild with
  | none => .next s
  | some n =>
    .next ((s.onLdu l.val fun x =>
      if x.active = 0 then { x with bank1 := n, active := 1, rebuild := none }
      else { x with bank0 := n, active := 0, rebuild := none }).bump .lduRebuilds l.val 1)

/-- STEP of the active table. -/
def Ldu.step (x : Ldu) : Nat := if x.active = 0 then x.bank0 else x.bank1

/-- The tile engine ran `n` cycles; how many of them took the tail path depends on the arrangement of terms in cycles,
which the spec does not give: a free value (log entry 18). -/
def State.lduRan (s : State) (l n : Nat) : State :=
  let (k, s) := s.draw
  (s.bump .lduCycles l n).bump .lduTailCycles l (Config.freeNat k % (n + 1))

/-- Conversions counted by an LDU (R53). -/
def State.countL16 (s : State) (l : Nat) (x : L16Group) : State := (s.bump .lduL16Sat l x.sats).bump .lduL16Ufl l x.ufls

/-! ## Page descriptors (R149, R190, R207) -/

/-- The check of R207 that a descriptor or its entry fails first. -/
def State.descBad (s : State) (g d : Nat) : Option Nat :=
  let ix := descTile d
  let q := s.qtile g ix
  let i := s.imageOfSlot g (qtSlot q)
  let fill := nbits d 55 9
  let l := s.slotLayer g (qtSlot q) (qtLayer q)
  if !s.owns g (nbits d 0 24 * frameBytes) frameBytes || fill = 0 || fill > i.ppp || !(s.sagger g).qOpen.contains ix ||
      (bitOf d 27 && !qtTree q) || (bitOf d 27 && nbits d 118 6 + fill > 64 + nbits d 110 8) ||
      nbits d 29 3 != 0 || nbits d 84 12 != 0 || nbits d 124 4 != 0 then some 0x72
  else if qtHead q ≥ i.hKv ∨ qtPos q > i.maxPos ∨ qtNdesc q = 0 ∨ qtNdesc q > s.ptPages g (qtSlot q) ∨
      ¬ s.owns g (qtLside q * 1024 + nbits d 64 20 * 4 * i.ppp) (4 * i.ppp) ∨
      ¬ s.slabRegion g (qtQAddr q) (i.qBlocks * l.slot) 1 ∨ ¬ s.slabRegion g (qtOut q) (i.outBlocks * l.slot) 1 ∨
      bitOf q 31 = true ∨ nbits q 55 9 ≠ 0 ∨ nbits q 212 12 ≠ 0 then some 0x73
  else none

/-- Slot `n` of the descriptor's page is visible to the tile's row (R190). -/
def State.slotVisible (s : State) (i : ImageInfo) (q d n : Nat) : Bool :=
  let pos := if bitOf d 25 then nbits (s.hbmNum (qtLside q * 1024 + nbits d 64 20 * 4 * i.ppp + 4 * n) 4) 0 23 else nbits d 32 23 + n
  if qtTree q then
    !(bitOf d 27) || n < nbits d 110 8 || bitOf (qtAnc q) (nbits d 118 6 + n - nbits d 110 8)
  else !(bitOf d 26) || pos ≤ qtPos q

/-- c_s = log2 e / √D as a log offset with 12 fractional bits: log2(log2 e) = 2,166 / 4,096. -/
def scoreOffset (headDim : Nat) : Int := 2166 - log2Fix 12 headDim / 2

/-- t: the log2 weight of a score, with 12 fractional bits (R149 step 2). -/
def scoreWeight (step headDim : Nat) (q k : List LogTerm) : Int :=
  let pn := sumPN step ((List.range headDim).map fun d => (q.getD d none).mul (k.getD d none))
  let off := scoreOffset headDim
  ((logVal (pn.1.map (· + off))).sub (logVal (pn.2.map (· + off)))).round (-12)

/-- The K or V vectors of one head below FILL of a page. -/
def State.pageVecs (s : State) (i : ImageInfo) (frame head fill : Nat) (isV : Bool) : List (List Byte) :=
  (List.range fill).map fun n => s.hbm (frame * frameBytes + i.vecOff isV head n) i.vb

/-- A row state after the steps of R149 over 64 positions: weights `ts` of the positions and their V terms `vs`. -/
def RowState.take (r : RowState) (headDim : Nat) (ts : List (Option Int)) (vs : List (List LogTerm)) : RowState :=
  let side (neg : Bool) (st : List (List LogPart)) : List (List LogPart) :=
    (List.range headDim).map fun d => stackAdd 32 (st.getD d [])
      ((List.range ts.length).map fun n =>
        match ts.getD n none, (vs.getD n []).getD d none with
        | some t, some v => if v.1 = neg then some (t + v.2) else none
        | _, _ => none)
  { den := stackAdd 32 r.den ts, pos := side false r.pos, neg := side true r.neg }

/-- Slots of a page in steps of 64. -/
def steps64 (fill : Nat) : List (Nat × Nat) := ranges fill 64

/-- The terms of the vectors of one head of a page: one group (R137). -/
def groupTerms (vecs : List (List Dyad)) : List (List LogTerm) × L16Group :=
  let x := toL16 (vecs.flatten)
  let n := (vecs.head?.map (·.length)).getD 0
  ((List.range vecs.length).map fun k => piece x.terms n k, x)

/-- The descriptor's page is added to the tile's rows, and its scores are kept when SCORE is set (R149, R164). -/
def State.pageTile (s : State) (l g d : Nat) (t : OpenTile) : State :=
  let q := s.qtile g t.qtile
  let i := s.imageOfSlot g (qtSlot q)
  let fill := nbits d 55 9
  let frame := nbits d 0 24
  let h := qtHead q
  let ks := groupTerms ((s.pageVecs i frame h fill false).map (i.vecVals t.layer h false))
  let vs := groupTerms ((s.pageVecs i frame h fill true).map (i.vecVals t.layer h true))
  let qg := toL16 (s.queryVals g q)
  let row (j : Nat) : List LogTerm := (qg.terms.drop ((h * i.qPerKv + j) * i.headDim)).take i.headDim
  let weight (j n : Nat) : Option Int :=
    if s.slotVisible i q d n then some (scoreWeight (s.ldu l).step i.headDim (row j) (ks.1.getD n [])) else none
  let ws := (List.range i.qPerKv).map fun j => (List.range fill).map (weight j)
  let upd (r : RowState) (j : Nat) : RowState := (steps64 fill).foldl (fun r c =>
    r.take i.headDim (((ws.getD j []).drop c.1).take (c.2 - c.1)) ((vs.1.drop c.1).take (c.2 - c.1))) r
  let rows := (List.range t.rows.length).map fun j => upd (t.rows.getD j {}) j
  let scores := if bitOf d 24 then (List.range fill).map fun n =>
      (nbits d 64 20 * i.ppp + n, (List.range i.qPerKv).map fun j => (ws.getD j []).getD n none) else []
  let s := s.onLdu l fun x => { x.onTile g t.qtile fun t => { t with
    rows := rows, taken := t.taken + 1, scores := t.scores ++ scores } with cur := none }
  ((((s.bump .hbmRdBytes (stackOfAddr (frame * frameBytes)) (2 * fill * i.vb)).countL16 l ks.2).countL16 l vs.2).lduRan l (2 * (i.headDim / 128) * ((fill + 63) / 64))).touch g

/-- The element pattern that R50 calls a structure violation is in the descriptor's vectors. -/
def State.pageBad (s : State) (g d : Nat) : Bool :=
  let q := s.qtile g (descTile d)
  let i := s.imageOfSlot g (qtSlot q)
  [false, true].any fun v => (s.pageVecs i (nbits d 0 24) (qtHead q) (nbits d 55 9) v).any i.vecBad

/-- The violation of the tile's query blocks (R57). -/
def State.queryBad (s : State) (g q : Nat) : Option Nat :=
  let i := s.imageOfSlot g (qtSlot q)
  (blockAddrs (qtQAddr q) (s.slotLayer g (qtSlot q) (qtLayer q)).slot i.qBlocks).findSome? s.blockViol

/-- The descriptor's page or query failed a check: its request fails and the tile gives no output (R57, R162). -/
def State.maskTile (s : State) (l g d detail : Nat) : State :=
  let ix := descTile d
  ((s.failSlot 2 detail g l (qtSlot (s.qtile g ix))).bump .sgrFmtViol g 1).onLdu l fun x =>
    { x.onTile g ix fun t => { t with masked := true, taken := t.taken + 1 } with cur := none }

/-- The page of a descriptor has been read without loss. -/
def State.pageRead (s : State) (l g d : Nat) (t : OpenTile) : State :=
  match (if s.pageBad g d then some 0x20 else s.queryBad g (s.qtile g t.qtile)) with
  | some e => s.maskTile l g d e
  | none => s.pageTile l g d t
/-- The tile of a descriptor gives no output; the descriptor is taken. -/
def State.skipTile (s : State) (l g d : Nat) : State :=
  s.onLdu l fun x => { x.onTile g (descTile d) fun t => { t with masked := true, taken := t.taken + 1 } with cur := none }
/-- The page descriptor `d` of sagger `g`, given its violation if it has one, its open tile, and what the read of the page
found at byte `off` of the frame (R301). -/
def State.descAt (s : State) (l g d : Nat) (ecc : Ecc) (off : Nat) (bad : Option Nat) (tile : Option OpenTile) : State :=
  match bad, tile with
  | some e, _ =>
    ((s.onLdu l fun x => { x with cur := none, tiles := x.tiles.filter fun t => !(t.sagger == g && t.qtile == descTile d) }).onSagger g
      fun y => { y with attnHalt := true }).faultRec 3 2 e g l 0 0 (leBytes d 16)
  | none, none => s.onLdu l fun x => { x with cur := none }
  | none, some t =>
    let f := nbits d 0 24
    if t.masked then s.onLdu l fun x => { x.onTile g t.qtile fun t => { t with taken := t.taken + 1 } with cur := none }
    else match ecc with
      | .good => s.pageRead l g d t
      | .corrected => (s.hbmCorrected (f * frameBytes + off)).pageRead l g d t
      | .uncorrectable => (s.pageLost g (qtSlot (s.qtile g t.qtile)) f (f * frameBytes + off)).skipTile l g d
/-- The page descriptor `d` of sagger `g` that an LDU has taken. -/
def State.runDesc (s : State) (l g d : Nat) (ecc : Ecc) (off : Nat) : State :=
  s.descAt l g d ecc off (s.descBad g d) ((s.ldu l).tileAt g (descTile d))

/-- PAGE_DESCRIPTOR (R149, R162, R207, R301). -/
def execPageDescriptor (l : ShelfIx) (ecc : Ecc) (off : BitVec 17) (s : State) : Host.Outcome State Fault Refusal :=
  let x := s.ldu l.val
  match x.cur, x.rebuild with
  | some (.desc g d), none => .next (s.runDesc l.val g d.toNat ecc off.toNat)
  | _, _ => .next s

/-! ## Closing a tile (R149, R151, R164) -/

/-- The results of a row: P and N less the denominator (R143, R149). -/
def RowState.results (r : RowState) (headDim : Nat) : List LogRes :=
  let den := stackClose 32 r.den
  (List.range headDim).map fun d =>
    let v := (logVal (stackClose 32 (r.pos.getD d []))).sub (logVal (stackClose 32 (r.neg.getD d [])))
    match den with
    | none => none
    | some t => (resOfVal v).map fun x => (x.1, x.2 - t * 4096)

/-- A probability 2^p quantised to 16 bits (R165). -/
def prob16 (p : Int) : Nat := min 65535 ((exp2Fix 12 p).round (-16)).toNat

/-- The row index of a tile among the sequence's new rows: the highest node of ANC, or the distance from POS0. -/
def State.tileRow (s : State) (g q : Nat) : Nat :=
  if qtTree q then Nat.log2 (qtAnc q) else qtPos q - ((s.raggedOf g (qtSlot q)).map (·.pos0)).getD 0

/-- The SSU streams of a closed tile: one for each scored position (R164, R165). -/
def State.tileJobs (s : State) (g : Nat) (t : OpenTile) : List SsuJob :=
  let q := s.qtile g t.qtile
  let dens := t.rows.map fun r => stackClose 32 r.den
  t.scores.map fun p =>
    { sagger := g, slot := t.slot, layer := t.layer, lslot := p.1, row := s.tileRow g q
      probs := (List.range dens.length).map fun j =>
        match p.2.getD j none, dens.getD j none with
        | some w, some den => prob16 (w - den)
        | _, _ => 0 }

/-- A key that a stream adds to. -/
def SsuKey.is (k : SsuKey) (j : SsuJob) : Bool :=
  k.sagger == j.sagger && k.slot == j.slot && k.layer == j.layer && k.lslot == j.lslot && k.row == j.row

/-- Stage records that are not yet applied or not yet handed over. -/
def Sagger.stageFirst (x : Sagger) : Nat := x.stageOrder.foldl min x.stageEnd
/-- The score stage is full (R169). -/
def State.stageFull (s : State) (g : Nat) : Bool := (s.sagger g).stageProd - (s.sagger g).stageFirst ≥ s.placeCount g 0x0F

/-- The SSU of a die takes a tile's streams; a tile that finds the assembly buffer or the score stage full is dropped with
the keys it leaves incomplete (R168). -/
def State.scoreTile (s : State) (d g : Nat) (js : List SsuJob) : State :=
  let x := s.ssu d
  let news := js.filter fun j => !x.keys.any (·.is j)
  if js.isEmpty then s
  else if !s.ssuUsable d || s.stageFull g || x.keys.length + x.done.length + news.length > 262144 then
    (s.onSsu d fun x => { x with
      keys := x.keys.filter fun k => !js.any k.is
      jobs := x.jobs.filter fun j => !js.any fun i => i.sagger == j.sagger && i.slot == j.slot && i.layer == j.layer && i.lslot == j.lslot && i.row == j.row }).bump
      .ssuDrop d 1
  else s.onSsu d fun x => { x with
    jobs := x.jobs ++ js
    keys := x.keys ++ news.map fun j => { sagger := j.sagger, slot := j.slot, layer := j.layer, lslot := j.lslot, row := j.row } }

/-- Close a tile: its output is written, its row states and its entry are freed, and its scores go to the SSU of the die. -/
def State.closeTile (s : State) (l : Nat) (t : OpenTile) : State :=
  let g := t.sagger
  let q := s.qtile g t.qtile
  let i := s.imageOfSlot g (qtSlot q)
  let lay := s.slotLayer g (qtSlot q) t.layer
  let rows := t.rows.map fun r => resultRow (r.results i.headDim)
  let s1 := (s.onLdu l fun x => { x with tiles := x.tiles.filter fun u => !(u.sagger == g && u.qtile == t.qtile) }).onSagger g
    fun y => { y with qOpen := y.qOpen.filter (· != t.qtile) }
  if t.masked then s1.touch g
  else
    let s2 := rows.foldl (fun s r => s.countL16 l r) s1
    let s3 := s2.writeBlocks g (qtOut q) lay.slot lay.outFmt lay (rows.flatMap L16Group.vals)
    (s3.scoreTile (dieOfShelf l) g (s.tileJobs g t)).touch g

/-- QUERY_TILE_CLOSE (R151, R191): the LDU has taken NDESC descriptors of a tile. -/
def execQueryTileClose (l : ShelfIx) (s : State) : Host.Outcome State Fault Refusal :=
  match (s.ldu l.val).tiles.find? fun t => t.ndesc ≤ t.taken with
  | none => .next s
  | some t => .next (s.closeTile l.val t)

/-! ## Operation records (R153 to R157, R162) -/

/-- The record of a kind that LDU `l` has taken, when its table is ready. -/
def State.curOp (s : State) (l kind : Nat) : Option (Nat × OpRec) :=
  match (s.ldu l).cur, (s.ldu l).rebuild with
  | some (.op g r), none => if (opOf r.toNat).kind = kind then some (g, opOf r.toNat) else none
  | _, _ => none

/-- The record is done: its TALLY advances by 1. -/
def State.opDone (s : State) (l g : Nat) (o : OpRec) : State :=
  ((s.onLdu l fun x => { x with cur := none }).advance g o.tally (agentId 3 (dieOfShelf l) (l % 6))).touch g

/-- An operand matrix lies in a poisoned chunk of 64 KiB (R162, R310). -/
def State.chunkPoisoned (s : State) (a n : Nat) : Bool :=
  n != 0 && [0, 1].any fun d => (s.poisons d).any fun p => a / 65536 ≤ p.chunk && p.chunk ≤ (a + n - 1) / 65536

/-- A column header with a non-zero reserved field (R153). -/
def State.colBad (s : State) (o : OpRec) (c : Nat) : Bool := (s.hbm (o.matAddr + c * o.colBytes + 2) 62).any (· != 0)
/-- The terms of column `c` of an operand matrix. -/
def State.column (s : State) (o : OpRec) (c : Nat) : List LogTerm :=
  let a := o.matAddr + c * o.colBytes
  let g := nsigned 16 (s.hbmNum a 2)
  (List.range (1024 * o.dim)).map fun i => l16Term g (s.hbmNum (a + 64 + 2 * i) 2)

/-- Run the effect of a record unless an input block or its operand matrix is damaged: then the requests of its rows fail
and only its TALLY advances (R57, R162). -/
def State.runOp (s : State) (l g : Nat) (o : OpRec) (cols cyc : Nat) (effect : State → State) : State :=
  let s1 := s.lduRan l cyc
  match o.inputs.findSome? s.blockViol with
  | some d => (((s1.failRows d g l).bump .sgrFmtViol g 1)).opDone l g o
  | none =>
    if cols ≠ 0 ∧ s.chunkPoisoned o.matAddr (cols * o.colBytes) then (s1.failRows 0xA7 g l).opDone l g o
    else if (List.range cols).any (s.colBad o) then
      let bad := (List.range cols).filter (s.colBad o)
      (((bad.foldl (fun s c => s.poisonChunk (o.matAddr + c * o.colBytes)) (s1.fault 1 2 0x64 g l 0)).failRows 0xA7 g l).bump .sgrFmtViol g 1).opDone l g o
    else (effect s1).opDone l g o

/-- Write a row of results: L16, or blocks of OUT_FMT at the layer's slot size (R154, R156). -/
def State.writeRow (s : State) (l g : Nat) (o : OpRec) (r : Nat) (rs : List LogRes) : State :=
  let x := resultRow rs
  let s := s.countL16 l x
  let lay := s.layer g o.layer
  if o.outFmt = 0 then
    s.putSlab (o.out + r * (4 + 2 * o.cols)) (leBytes (npattern 16 x.g) 2 ++ zeros 2 ++ x.pats.flatMap fun p => leBytes p 2)
  else s.writeBlocks g (o.out + r * ((o.outCols + 1023) / 1024) * lay.slot) lay.slot o.outFmt lay x.vals

/-- The results of a NORM row: x_i g_i (ε + Σx²/n)^(-1/2) (R155). -/
def normRow (step n : Nat) (eps : Option Int) (xs gain : List LogTerm) : List LogRes :=
  let sq := (sumPN step (xs.map fun x => x.mul x)).1
  let mean := logAdd step (sq.map (· - log2Fix 12 n)) eps
  let inv : Option Int := mean.map fun m => rneDiv (-m) 2
  (List.range n).map fun i => resOfTerm (((xs.getD i none).mul (gain.getD i none)).mul (inv.map fun x => (false, x)))

/-- The effect of a NORM record. -/
def State.normOp (s : State) (l g : Nat) (o : OpRec) : State :=
  let n := 1024 * o.dim
  let gain := s.column o 0
  (List.range o.rows).foldl (fun s r =>
    let x := toL16 (s.opRow o o.inAddr r)
    (s.countL16 l x).writeRow l g o r (normRow (s.ldu l).step n (s.layer g o.layer).epsilon x.terms gain))
    (s.bump .hbmRdBytes (stackOfAddr o.matAddr) o.colBytes)

/-- NORM (R155). -/
def execNorm (l : ShelfIx) (s : State) : Host.Outcome State Fault Refusal :=
  match s.curOp l.val 0x10 with
  | none => .next s
  | some (g, o) => .next (s.runOp l.val g o 1 (16 * o.dim) (·.normOp l.val g o))

/-- The effect of a PROD record: out[r][c] = Σ x[r][i] V_c[i] (R154). -/
def State.prodOp (s : State) (l g : Nat) (o : OpRec) : State :=
  (List.range o.rows).foldl (fun s r =>
    let x := toL16 (s.opRow o o.inAddr r)
    (s.countL16 l x).writeRow l g o r ((List.range o.cols).map fun c => resOfVal (logDot (s.ldu l).step x.terms (s.column o c))))
    (s.bump .hbmRdBytes (stackOfAddr o.matAddr) (o.cols * o.colBytes))

/-- A scoring record of a MoE layer whose COLS is not E raises 0x81 (R230). -/
def State.scoreCheck (s : State) (l g : Nat) (o : OpRec) : State :=
  match (s.layer g o.layer).moe with
  | some m => if o.outFmt = 0 ∧ o.cols ≠ m.experts then (s.haltList g).fault 3 4 0x81 g (dieOfShelf l) 0 else s
  | none => s

/-- PROD (R154). -/
def execProd (l : ShelfIx) (s : State) : Host.Outcome State Fault Refusal :=
  match s.curOp l.val 0x11 with
  | none => .next s
  | some (g, o) => .next ((s.scoreCheck l.val g o).runOp l.val g o o.cols ((o.cols + 63) / 64 * 8 * o.dim) (·.prodOp l.val g o))

/-- One element of a GLU record (R156). -/
def gluElem (step act : Nat) (g u : LogTerm) : LogRes :=
  match act with
  | 0 => resOfTerm (g.mul u)
  | 1 => resOfTerm (LogTerm.mul (g.bind fun x => if x.1 then none else some (false, 2 * x.2)) u)
  | 2 => resOfTerm (LogTerm.mul (g.bind fun x => if x.1 then none else some x) u)
  | _ =>
    let ts : List LogTerm := [g, u]
    let side (neg : Bool) := treeSum step 7 (signedLogs neg ts)
    match side false, side true with
    | some p, none => some (false, p * 4096)
    | none, some n => some (true, n * 4096)
    | p, n => resOfVal ((logVal p).sub (logVal n))

/-- The effect of a GLU record. -/
def State.gluOp (s : State) (l g : Nat) (o : OpRec) : State :=
  (List.range o.rows).foldl (fun s r =>
    let x := toL16 (s.opRow o o.inAddr r)
    let u := toL16 (s.opRow o o.mat r)
    ((s.countL16 l x).countL16 l u).writeRow l g o r
      ((List.range (1024 * o.dim)).map fun i => gluElem (s.ldu l).step o.act (x.terms.getD i none) (u.terms.getD i none))) s

/-- GLU (R156). -/
def execGlu (l : ShelfIx) (s : State) : Host.Outcome State Fault Refusal :=
  match s.curOp l.val 0x12 with
  | none => .next s
  | some (g, o) => .next (s.runOp l.val g o 0 (4 * o.dim) (·.gluOp l.val g o))

/-- Add a binary32 value into a word of HBM (R299). -/
def State.addF32At (s : State) (a v : Nat) : State :=
  let (k, s) := s.draw
  let u := stackOfAddr a
  ((((s.putHbmNum a 4 (f32Add (Config.freeNat k) (s.hbmNum a 4) v)).bump .hbmNarrow u 1).bump .hbmAtomic u 1).bump .hbmRdBytes u 4).bump
    .hbmWrBytes u 4

/-- The effect of an OUTER record: Σ_r x[r][i] y[r][c] is added to the word of (i, c) (R157). -/
def State.outerOp (s : State) (l : Nat) (o : OpRec) : State :=
  let step := (s.ldu l).step
  let xs := (List.range o.rows).map fun r => toL16 (s.opRow o o.inAddr r)
  let ys := (List.range o.rows).map fun r =>
    toL16 (((blockAddrs (o.out + r * o.yBlocks * o.slot) o.slot o.yBlocks).flatMap s.blockValues).take o.cols)
  let s1 := (xs ++ ys).foldl (fun s x => s.countL16 l x) s
  let xt := xs.map L16Group.terms
  let yt := ys.map L16Group.terms
  (List.range (1024 * o.dim)).foldl (fun s i => (List.range o.cols).foldl (fun s c =>
    let col (ts : List (List LogTerm)) (k : Nat) : List LogTerm := ts.map fun t => t.getD k none
    s.addF32At (o.matAddr + (i * o.cols + c) * 4) (f32Round (logDot step (col xt i) (col yt c)) false)) s) s1

/-- OUTER (R157). -/
def execOuter (l : ShelfIx) (s : State) : Host.Outcome State Fault Refusal :=
  match s.curOp l.val 0x13 with
  | none => .next s
  | some (g, o) => .next (s.runOp l.val g o 0 ((o.cols + 63) / 64 * 8 * o.dim) (·.outerOp l.val o))

/-! ## Cancellation (R161) -/

/-- The LDU without the row states and descriptors of a slot of sagger `g`. -/
def State.lduCancel (s : State) (l : Nat) (slot : BitVec 16) : State :=
  let x := s.ldu l
  let mine (h : Nat) (ix : Nat) : Bool := qtSlot (s.qtile h ix) == slot.toNat
  let gone := x.tiles.filter fun t => t.slot == slot
  let queued := (x.attnQ.filter fun d => mine d.1 (descTile d.2.toNat)).map fun d => (d.1, descTile d.2.toNat)
  let cur := match x.cur with
    | some (.desc h d) => if mine h (descTile d.toNat) then none else x.cur
    | c => c
  let s1 := (s.onLdu l fun x => { x with
    tiles := x.tiles.filter fun t => !(t.slot == slot), attnQ := x.attnQ.filter fun d => !mine d.1 (descTile d.2.toNat), cur := cur
    cancelled := if x.cancelled.contains slot then x.cancelled else x.cancelled ++ [slot] }).bump .lduCancelRows l
      (gone.foldl (fun n t => n + t.rows.length) 0)
  ((gone.map fun t => (t.sagger, t.qtile)) ++ queued).foldl (fun s t =>
    s.onSagger t.1 fun y => { y with qOpen := y.qOpen.filter (· != t.2) }) s1

/-- LDU_CANCEL_SLOT (R161). -/
def execLduCancelSlot (l : ShelfIx) (slot : BitVec 16) (s : State) : Host.Outcome State Fault Refusal :=
  .next (s.lduCancel l.val slot)

end Sys2Proof.Machine
end

