-- ==== Sys2Proof/Machine/Attention.lean ====
section
/-! DEFINITION. The KV store engine, the page walk and the move engine (spec/06_attention_and_kv_cache.md, R180 to R198). -/

namespace Sys2Proof.Machine

/-! ## KV store (R180 to R182) -/

/-- The output blocks of a projection that hold a token's K or V. -/
def State.kvBlocks (s : State) (g slot layer a : Nat) : List Nat :=
  let i := s.imageOfSlot g slot
  blockAddrs a (s.slotLayer g slot layer).slot ((i.hKv * i.headDim + 1023) / 1024)
/-- The K or V values of a token: the output blocks of a projection at a slab address. -/
def State.kvValues (s : State) (g slot layer a : Nat) : List Dyad :=
  let i := s.imageOfSlot g slot
  ((s.kvBlocks g slot layer a).flatMap s.blockValues).take (i.hKv * i.headDim)

/-- Write one head's K or V vector at an address, counting saturations. -/
def State.putVec (s : State) (g a : Nat) (i : ImageInfo) (layer h : Nat) (isV : Bool) (vs : List Dyad) : State :=
  let b := i.vecBytes layer h isV (piece vs i.headDim h)
  ((s.putHbm a b.1).bump .sgrFmtSat g b.2).bump .hbmWrBytes (stackOfAddr a) b.1.length

/-- Write the K and V of a row to logical slot `n` of a layer, with FILL, POS and S (R180). -/
def State.storeKv (s : State) (g slot layer n pos ka va : Nat) : State :=
  let i := s.imageOfSlot g slot
  let e := s.pte g slot layer (n / i.ppp)
  let ks := s.kvValues g slot layer ka
  let vs := s.kvValues g slot layer va
  let s1 := (List.range i.hKv).foldl (fun m h =>
    (m.putVec g (s.vecAddr g slot layer n h false) i layer h false ks).putVec g (s.vecAddr g slot layer n h true) i layer h true vs) s
  (s1.putHbmNum (s.pteAddr g slot layer (n / i.ppp)) 8 { e with fill := max e.fill (n % i.ppp + 1) }.bits).putHbmNum
    (s.sideWordAddr g slot layer n) 4 (pos + 2 ^ 24 * i.sInit)

/-- KV_STORE_WRITE (R180, R182, R187): a write into a shared page is suppressed and raises 0x74 (R207); a damaged
operand block fails the request (R57). -/
def execKvStoreWrite (g : SaggerIx) (slot : BitVec 16) (row : BitVec 16) (layer : BitVec 8) (kAddr vAddr : BitVec 32) (s : State) :
    Host.Outcome State Fault Refusal :=
  match s.raggedOf g.val slot.toNat with
  | none => .next s
  | some e =>
    let i := s.imageOfSlot g.val slot.toNat
    let n := e.fired + row.toNat
    let pte := s.pte g.val slot.toNat layer.toNat (n / i.ppp)
    if row.toNat ≥ e.new || layer.toNat ≥ i.attnLayers || (s.sagger g.val).phase != .running || s.maskedSlot g.val slot.toNat ||
        !pte.valid then .next s
    else if pte.shared then .next (s.fault 3 6 0x74 g.val g.val 0)
    else match (s.kvBlocks g.val slot.toNat layer.toNat kAddr.toNat ++ s.kvBlocks g.val slot.toNat layer.toNat vAddr.toNat).findSome? s.blockViol with
    | some d => .next ((s.failSlot 6 d g.val g.val slot.toNat).bump .sgrFmtViol g.val 1)
    | none => .next ((s.storeKv g.val slot.toNat layer.toNat n (e.rowPos (s.treeOf g.val slot.toNat) row.toNat) kAddr.toNat vAddr.toNat).touch g.val)

/-! ## The page walk (R188 to R192) -/

/-- The check of R179 on the entry of a logical page that is about to be walked; `last` is the last written slot and
`prev` one above the last position of the previous entry. -/
def State.pteBad (s : State) (g slot layer page last prev : Nat) : Bool :=
  let i := s.imageOfSlot g slot
  let e := s.pte g slot layer page
  e.resv != 0 || (page * i.ppp ≤ last && !e.valid) || e.fill > i.ppp || (e.valid && e.fill == 0) || e.swapped ||
    (e.valid && (!s.owns g (e.frame * frameBytes) frameBytes || e.basePos < prev))

/-- One above the last position of a page as the walk takes it (R191): that of a last page with PMAP is NEXT_POS + NEW. -/
def State.pageEnd (s : State) (g slot layer page pages : Nat) (e : Ragged) : Nat :=
  let p := s.pte g slot layer page
  if p.pmap then (if page + 1 < pages then (s.pte g slot layer (page + 1)).basePos else e.pos0 + e.new + 1) else p.basePos + p.fill

/-- Logical pages of a layer up to the last written one. -/
def walkPages (i : ImageInfo) (e : Ragged) : Nat := (e.fired + e.new + i.ppp - 1) / i.ppp

/-- The entries of the pages of a layer pass R179. -/
def State.pagesOk (s : State) (g slot layer : Nat) (e : Ragged) : Bool :=
  let i := s.imageOfSlot g slot
  (List.range (walkPages i e)).all fun p =>
    !s.pteBad g slot layer p (e.fired + e.new - 1) (if p = 0 then 0 else s.pageEnd g slot layer (p - 1) (walkPages i e) e)

/-- Pages that the walk emits for a row at position `qpos`: fully masked pages and all later ones are left out (R191). -/
def State.rowPages (s : State) (g slot layer : Nat) (e : Ragged) (qpos : Nat) : List Nat :=
  let i := s.imageOfSlot g slot
  (List.range (walkPages i e)).takeWhile fun p => e.tree || (s.pte g slot layer p).basePos ≤ qpos

/-- The descriptor of a page of a row (R189, R191). -/
def State.descOf (s : State) (g slot layer page ix qpos : Nat) (e : Ragged) : BitVec 128 :=
  let i := s.imageOfSlot g slot
  let p := s.pte g slot layer page
  let edge := !e.tree && qpos + 1 < s.pageEnd g slot layer page (walkPages i e) e
  let tnode := e.tree && e.fired < page * i.ppp + p.fill
  let tfirst := e.fired - page * i.ppp
  let node0 := page * i.ppp - e.fired
  BitVec.ofNat 128 (p.frame + 2 ^ 24 * Bool.num e.scored + 2 ^ 25 * Bool.num p.pmap + 2 ^ 26 * Bool.num edge +
    2 ^ 27 * Bool.num tnode + 2 ^ 28 * Bool.num p.shared + 2 ^ 32 * p.basePos + 2 ^ 55 * p.fill + 2 ^ 64 * page +
    2 ^ 96 * ix + (if tnode then 2 ^ 110 * tfirst + 2 ^ 118 * node0 else 0))

/-- The query-tile entry of a row and head (R188). -/
def State.qtileOf (s : State) (g : Nat) (e : Ragged) (c : WalkCursor) (qAddr outAddr ndesc : Nat) : Nat :=
  let tree := s.treeOf g e.slot
  e.slot + 2 ^ 16 * c.layer + 2 ^ 24 * c.head + 2 ^ 30 * Bool.num e.tree + 2 ^ 32 * e.rowPos tree c.row +
    (if e.tree then 2 ^ 64 * ancMask tree 64 c.row else 0) + 2 ^ 128 * qAddr + 2 ^ 160 * outAddr + 2 ^ 192 * ndesc +
    2 ^ 224 * (s.sideAddr g e.slot c.layer 0 / 1024)

/-- The cursor moves on: KV head, row, ragged entry, layer (R192). -/
def State.walkNext (s : State) (g : Nat) (c : WalkCursor) (e : Ragged) : WalkCursor :=
  let i := s.imageOfSlot g e.slot
  if c.head + 1 < i.hKv then { c with head := c.head + 1 }
  else if c.row + 1 < e.new then { c with head := 0, row := c.row + 1 }
  else if c.entry + 1 < (s.sagger g).ragged.length then { c with head := 0, row := 0, entry := c.entry + 1 }
  else { layer := c.layer + 1, entry := 0, row := 0, head := 0 }

/-- The cursor past a ragged entry in this layer. -/
def State.walkSkip (s : State) (g : Nat) (c : WalkCursor) : WalkCursor :=
  if c.entry + 1 < (s.sagger g).ragged.length then { c with head := 0, row := 0, entry := c.entry + 1 }
  else { layer := c.layer + 1, entry := 0, row := 0, head := 0 }

/-- Rows of the tiles that are assigned to an LDU and not closed (R192). -/
def State.lduAssigned (s : State) (l : Nat) : List (Nat × Nat) :=
  let x := s.ldu l
  ((x.tiles.map fun t => (t.sagger, t.qtile)) ++ (x.attnQ.map fun d => (d.1, descTile d.2.toNat)) ++
    (match x.cur with | some (.desc h d) => [(h, descTile d.toNat)] | _ => [])).eraseDups
/-- Open rows of an LDU as the walk counts them. -/
def State.lduRows (s : State) (l : Nat) : Nat :=
  (s.lduAssigned l).foldl (fun n t => n + s.tileRows t.1 (s.qtile t.1 t.2)) 0

/-- The usable LDU with the fewest queued descriptors, ties to the lower shelf (R192). -/
def State.leastLdu (s : State) (g : Nat) : Option Nat :=
  (s.ldusOf g).foldl (fun b l => match b with
    | none => some l
    | some m => if (s.ldu l).attnQ.length < (s.ldu m).attnQ.length then some l else b) none

/-- Query-tile entries of a sagger. -/
def State.qtileCount (s : State) (g : Nat) : Nat := s.placeCount g 0x0D

/-- Emit one tile's descriptors to LDU `l`: its entry is written and every page's descriptor is queued (R191, R192); the
first KV head of a row reads the page-table entries (R193). -/
def State.emitTile (s : State) (g l : Nat) (e : Ragged) (c : WalkCursor) (qAddr outAddr : Nat) (pages : List Nat) : State :=
  let i := s.imageOfSlot g e.slot
  let ix := (s.sagger g).qNext % s.qtileCount g
  let qpos := e.rowPos (s.treeOf g e.slot) c.row
  let ds := pages.map fun p => (g, s.descOf g e.slot c.layer p ix qpos e)
  let a := stackOfAddr (s.pteAddr g e.slot c.layer 0)
  let n := if c.head = 0 then pages.length else 0
  let s0 := (s.bump .hbmNarrow a n).bump .hbmRdBytes a (8 * n)
  let s1 := (s0.putSlabNum (s.qtileAddr g ix) 32 (s.qtileOf g e c qAddr outAddr pages.length)).onLdu l fun x =>
    { x with attnQ := x.attnQ ++ ds }
  ((s1.onSagger g fun x => { x with qNext := x.qNext + 1, qOpen := x.qOpen ++ [ix], walk := s.walkNext g c e }).bump .atnDesc g
    ds.length).bump .atnMasked g (walkPages i e - pages.length)

/-- A tile of `n` pages and `rows` rows may open on LDU `l` (R192, R193). -/
def State.walkRoom (s : State) (g l rows n : Nat) : Bool :=
  let x := s.sagger g
  s.lduRows l + rows ≤ 512 && !x.qOpen.contains (x.qNext % s.qtileCount g) && s.qtileCount g != 0 &&
    ((s.ldu l).attnQ.isEmpty || (s.ldu l).attnQ.length + n ≤ 1024)

/-- WALK_OPEN_TILE (R187, R191 to R193): the next tile in the order layer, ragged entry, row and KV head. -/
def execWalkOpenTile (g : SaggerIx) (qAddr outAddr : BitVec 32) (s : State) : Host.Outcome State Fault Refusal :=
  let x := s.sagger g.val
  let c := x.walk
  match x.ragged[c.entry]?, s.leastLdu g.val with
  | some e, some l =>
    let i := s.imageOfSlot g.val e.slot
    let pages := s.rowPages g.val e.slot c.layer e (e.rowPos (s.treeOf g.val e.slot) c.row)
    if x.phase != .running || x.st != .serving then .next s
    else if s.maskedSlot g.val e.slot || c.layer ≥ i.attnLayers then
      if c.layer < (x.ragged.foldl (fun n r => max n (s.imageOfSlot g.val r.slot).attnLayers) 0) then
        .next (s.onSagger g.val fun x => { x with walk := s.walkSkip g.val c })
      else .next s
    else if pages.isEmpty then .next (s.onSagger g.val fun x => { x with walk := s.walkNext g.val c e })
    else if !s.pagesOk g.val e.slot c.layer e then
      .next ((s.failSlot 6 0x70 g.val g.val e.slot).onSagger g.val fun x => { x with walk := s.walkSkip g.val c })
    else s.when (s.walkRoom g.val l i.qPerKv pages.length) ((s.emitTile g.val l e c qAddr.toNat outAddr.toNat pages).touch g.val)
  | _, _ => .next s

/-! ## The move engine (R195, R196, R198) -/

/-- Copy logical slot `a` to logical slot `b` of one layer with its side word into `m`; `s` is the state before the copy. -/
def State.copySlot (m s : State) (g slot layer a b : Nat) : State :=
  let i := s.imageOfSlot g slot
  let m1 := (List.range i.hKv).foldl (fun m h => [false, true].foldl (fun m v =>
    m.putHbm (s.vecAddr g slot layer b h v) (s.hbm (s.vecAddr g slot layer a h v) i.vb)) m) m
  m1.putHbmNum (s.sideWordAddr g slot layer b) 4 (s.hbmNum (s.sideWordAddr g slot layer a) 4)

/-- Copy a slot in every layer, counting the bytes read (R195). -/
def State.copyLayers (s : State) (g slot a b : Nat) : State :=
  let i := s.imageOfSlot g slot
  (((List.range i.attnLayers).foldl (fun m l => ((m.copySlot s g slot l a b).bump .hbmRdBytes (stackOfAddr (s.vecAddr g slot l a 0 false))
    (i.kvb + 4)).bump .hbmWrBytes (stackOfAddr (s.vecAddr g slot l b 0 false)) (i.kvb + 4)) s).bump .atnMoveBytes g (i.attnLayers * (i.kvb + 4))).bump
    .atnTreeCopies g 1

/-- The request whose copies of R195 run next. -/
def State.copier (s : State) (g : Nat) : Option Req := (s.sagger g).live.find? fun q => !q.copies.isEmpty && !q.masked

/-- The draft slot copies alongside where the node has draft KV (R261): nodes above the deepest level. -/
def Req.draftHas (q : Req) (n : Nat) : Bool :=
  q.tree.length ≤ 1 || (q.tree.getD n { token := 0, parent := 0, depth := 0 }).depth < (q.tree.map (·.depth)).foldl max 0

/-- Draft rows before node 0 in the draft slot: a path node of the last step without draft KV (R261). -/
def Req.draftExtra (q : Req) : Nat := Bool.num q.draftRow.isSome

/-- SLOT_COPY (R195, R261): the next accepted node moves to its path position in every layer. -/
def execSlotCopy (g : SaggerIx) (s : State) : Host.Outcome State Fault Refusal :=
  match s.copier g.val with
  | none => .next s
  | some q =>
    match q.copies with
    | [] => .next s
    | (a, b) :: r =>
      let fired := ((s.raggedOf g.val q.slot).map (·.fired)).getD 0
      let s1 := s.copyLayers g.val q.slot (fired + a) (fired + b)
      let s2 := match q.draftSlot with
        | some d => if q.draftHas a then
            s1.copyLayers g.val d (s.firedSlots g.val d + q.draftExtra + a) (s.firedSlots g.val d + q.draftExtra + b) else s1
        | none => s1
      .next ((s2.onSlot g.val q.slot fun q => { q with copies := r }).touch g.val)

/-- The sequence whose compaction copies run next. -/
def State.compactor (s : State) (g : Nat) : Option Req := (s.sagger g).live.find? fun q => !q.compCopies.isEmpty && !q.masked

/-- The new frame of a layer and logical page of a compaction. -/
def Req.compFrame (q : Req) (layer page : Nat) : Nat :=
  ((q.compFrames.find? fun f => f.1 == layer && f.2.1 == page).map (·.2.2)).getD 0

/-- COMPACT_COPY (R196, R198): one surviving slot is copied into its new page; its side word is kept with it until the
commit.  Copies of R195 go first. -/
def execCompactCopy (g : SaggerIx) (s : State) : Host.Outcome State Fault Refusal :=
  match s.copier g.val, s.compactor g.val with
  | none, some q =>
    match q.compCopies with
    | [] => .next s
    | (l, a, b) :: r =>
      let i := s.imageOfSlot g.val q.slot
      let word := s.hbmNum (s.sideWordAddr g.val q.slot l a) 4
      let s1 := (s.copySlotTo g.val q.slot l a (q.compFrame l (b / i.ppp)) (b % i.ppp)).bump .atnMoveBytes g.val (i.kvb + 4)
        |>.bump .hbmRdBytes (stackOfAddr (s.vecAddr g.val q.slot l a 0 false)) (i.kvb + 4)
        |>.bump .hbmWrBytes (stackOfAddr (q.compFrame l (b / i.ppp) * frameBytes)) i.kvb
      .next ((s1.onSlot g.val q.slot fun q => { q with compCopies := r, compSides := q.compSides ++ [(l, b, word)] }).touch g.val)
  | _, _ => .next s

end Sys2Proof.Machine
end

