-- ==== Sys2Proof/Machine/Message.lean ====
section
/-! DEFINITION. Messages of a Shomu channel as the sagger setters take and send them (spec/13_shomu_host_link.md,
R388 to R391, and the DONE of R237). -/

namespace Sys2Proof.Machine

/-- Link of a channel (R381). -/
def State.linkOfChan (s : State) (c : Nat) : Nat := if s.device.bifur ∧ 32 ≤ c then 1 else 0
/-- Channels of a link. -/
def State.chansOfLink (s : State) (k : Nat) : List Nat := (List.range 64).filter fun c => s.linkOfChan c == k

/-- Messages that are taken in one order: requests (R391: SUBMIT, CANCEL, BUDGET) in the order of arrival; a message of
another type waits only for those of its own type. -/
def sameLane (a b : Nat) : Bool := a == b || (1 ≤ a && a ≤ 3 && 1 ≤ b && b ≤ 3)
/-- The oldest received message of a channel in the lane of `type`, when its TYPE is `type`. -/
def State.headMsg (s : State) (c type : Nat) : Option Msg :=
  ((s.chan c).rx.find? fun m => sameLane m.type type).filter fun m => m.type == type
/-- Take the oldest received message of a type's lane from a channel. -/
def State.popMsg (s : State) (c type : Nat) : State := s.onChan c fun x => { x with rx := x.rx.eraseP fun m => sameLane m.type type }

/-- Queue a message for the host under a key slot. -/
def State.sendUnder (s : State) (c kslot type : Nat) (tag : BitVec 32) (payload : List Byte) : State :=
  s.onChan c fun x => { x with tx := x.tx ++ [{ type := type, tag := tag, payload := payload, kslot := kslot }] }
/-- Queue a message for the host under the slot that is active when it leaves. -/
def State.sendMsg (s : State) (c type : Nat) (tag : BitVec 32) (payload : List Byte) : State := s.sendUnder c 3 type tag payload

/-- What a DONE says of its request (R237). -/
structure DoneInfo where
  reqId   : BitVec 32
  reason  : Nat
  fault   : BitVec 16 := 0
  tokens  : Nat := 0
  prompt  : Nat := 0
  prefix_ : Nat := 0
  step    : Nat := 0
  deriving DecidableEq, Repr

/-- The 32 bytes of a DONE that ends at `time`. -/
def DoneInfo.bytes (d : DoneInfo) (time : Nat) : List Byte :=
  leBytes d.reqId.toNat 4 ++ leBytes (d.reason + 2 ^ 16 * d.fault.toNat) 4 ++ leBytes (d.tokens % 2 ^ 24) 4 ++
    leBytes (d.prompt % 2 ^ 23) 4 ++ leBytes (d.prefix_ % 2 ^ 23) 4 ++ leBytes (d.step % 2 ^ 32) 4 ++ leBytes (time % 2 ^ 64) 8

/-- Count a DONE under its reason (R273). -/
def State.countDone (s : State) (g reason : Nat) : State :=
  let s := s.bump .sgrReqDone g 1
  match reason with
  | 3 => s.bump .sgrReqCancel g 1
  | 5 => s.bump .sgrReqReject g 1
  | 6 => s.bump .sgrReqReject g 1
  | 7 => s.bump .sgrReqReject g 1
  | 9 => s.bump .sgrEvicted g 1
  | _ => s

/-- Send a DONE on channel `c` of sagger `g`. -/
def State.sendDone (s : State) (g c : Nat) (tag : BitVec 32) (d : DoneInfo) : State :=
  (s.sendMsg c 0x12 tag (d.bytes s.now)).countDone g d.reason

/-- The DONE of a request that ends with a reason and fault code. -/
def Req.done (q : Req) (reason : Nat) (fault : BitVec 16) : DoneInfo :=
  { reqId := q.sub.reqId, reason := reason, fault := fault, tokens := q.out.length, prompt := q.promptDone,
    prefix_ := q.prefix_, step := q.lastStep }

/-- The request ends with a DONE, unless its channel was lost and it ends without one (R405). -/
def State.doneReq (s : State) (g : Nat) (q : Req) (tag : BitVec 32) (reason : Nat) (fault : BitVec 16) : State :=
  if q.silent then s else s.sendDone g q.chan tag (q.done reason fault)

/-- Answer a management command: the response waits at its session, if that is still open (R419, R420). -/
def State.mgmtAnswer (s : State) (sess cmd : Nat) (tag : BitVec 32) (status : Nat) (payload : List Byte) : State :=
  let s := s.bump .mgtDenied 0 (if status = 1 then 1 else 0)
  if (s.session sess).open_ then
    s.onSession sess fun x => { x with resp := x.resp ++ [{ cmd := 32768 + cmd, tag := tag, status := status, payload := payload }] }
  else s

end Sys2Proof.Machine
end

