-- ==== Sys2Proof/Machine/Serve.lean ====
section
/-! DEFINITION. Requests: submits, cancels and budgets, and how a request ends (spec/08_serving_loop.md, R232 to R253). -/

namespace Sys2Proof.Machine

/-! ## Submits (R232 to R235, R498) -/

/-- The fields of a submit payload (R232). -/
def submitOf (p : List Byte) : Submit :=
  let f (off lo w : Nat) : Nat := bfield p (8 * off + lo) w
  let stopN := f 44 7 3
  let biasN := f 44 0 7
  let word (a : Nat) : Nat := leNat ((p.drop a).take 4)
  { reqId := BitVec.ofNat 32 (f 0 0 32), tenant := f 4 0 16, scope := f 4 16 16, model := f 8 0 16, draft := f 8 16 16,
    cls := f 12 0 2, dropLate := f 12 2 1 == 1, score := f 12 3 1 == 1, logprob := f 12 4 1 == 1, spec := f 12 5 2,
    maxNew := f 20 0 24, ttft := f 24 0 32, tpot := f 28 0 32, temp := BitVec.ofNat 16 (f 32 0 16), topP := f 32 16 16,
    topK := f 36 0 11, penWin := f 36 16 16, presPen := BitVec.ofNat 16 (f 40 0 16), freqPen := BitVec.ofNat 16 (f 40 16 16),
    seed := BitVec.ofNat 64 (f 48 0 32 + 2 ^ 32 * f 52 0 32), specNodes := f 56 0 7, specDepth := f 56 7 5, branch := f 56 12 3,
    adapter := f 60 0 16
    stops := (List.range stopN).map fun k => word (64 + 4 * k)
    bias := (List.range biasN).map fun k => (word (64 + 4 * stopN + 8 * k), BitVec.ofNat 16 (word (68 + 4 * stopN + 8 * k)))
    prompt := (List.range (f 16 0 23)).map fun k => word (64 + 4 * stopN + 8 * biasN + 4 * k) }

/-- Payload length, reserved fields, PROMPT_N, MAX_NEW, SPEC, BIAS_N and STOP_N (R498, check 3). -/
def submitShapeBad (p : List Byte) : Bool :=
  let f (off lo w : Nat) : Nat := bfield p (8 * off + lo) w
  let stopN := f 44 7 3
  let biasN := f 44 0 7
  p.length != 64 + 4 * stopN + 8 * biasN + 4 * f 16 0 23 ||
    f 12 7 25 != 0 || f 16 23 9 != 0 || f 20 24 8 != 0 || f 36 11 5 != 0 || f 44 10 22 != 0 || f 56 15 17 != 0 || f 60 16 16 != 0 ||
    ((List.range biasN).any fun k => leNat ((p.drop (70 + 4 * stopN + 8 * k)).take 2) != 0) ||
    f 16 0 23 == 0 || f 20 0 24 == 0 || f 12 5 2 > 1 || biasN > 64 || stopN > 4

/-- A BF16 pattern that is finite with magnitude at most 2^8 (R233). -/
def penaltyOk (x : BitVec 16) : Bool := x.toNat % 2 ^ 15 ≤ 0x4380
/-- TEMP is +0, or from 2^-8 to 2^8 (R233). -/
def tempOk (x : BitVec 16) : Bool := x == 0 || (0x3B80 ≤ x.toNat && x.toNat ≤ 0x4380)

/-- TENANT, MODEL, DRAFT or ADAPTER is not in the sagger's tables (check 4). -/
def State.submitTablesBad (s : State) (g : Nat) (q : Submit) : Bool :=
  match s.image? g q.model with
  | none => true
  | some m =>
    (s.tenant? g q.tenant).isNone ||
      (q.draft != 0xFFFF && (match s.image? g q.draft with
        | none => true
        | some d => d.info.vocab != m.info.vocab)) ||
      (q.adapter != 0xFFFF && !m.info.adapters.any fun a => a.index == q.adapter)

/-- Speculation fields beyond R232 or R233 (check 9). -/
def submitSpecBad (q : Submit) : Bool :=
  if q.spec = 0 then q.specNodes != 0 || q.specDepth != 0 || q.branch != 0 || q.draft != 0xFFFF
  else q.draft == 0xFFFF || q.specNodes == 0 || q.specNodes > 64 || q.specDepth < 2 || q.specDepth > 16 || q.branch == 0 || q.branch > 4

/-- The detail of the first of the checks 3 to 9 of R498 that a submit fails. -/
def State.submitBad (s : State) (g : Nat) (p : List Byte) : Option Nat :=
  let q := submitOf p
  let i := ((s.image? g q.model).map (·.info)).getD {}
  if submitShapeBad p then some 0x90
  else if s.submitTablesBad g q then some 0x91
  else if (s.planSagger g).scopeBind && q.scope != 0 && q.scope != q.tenant then some 0xF0
  else if q.prompt.length > i.maxPos - 1 then some 0x90
  else if (q.prompt ++ q.stops ++ q.bias.map (·.1)).any fun t => i.vocab ≤ t then some 0x30
  else if !tempOk q.temp || q.topK > 1024 || q.penWin > (s.planSagger g).penwinMax || !penaltyOk q.presPen || !penaltyOk q.freqPen ||
      (q.bias.any fun b => !penaltyOk b.2) || (q.bias.map (·.1)).eraseDups.length != q.bias.length then some 0x92
  else if submitSpecBad q then some 0x93
  else none

/-- A request of a channel by REQ_ID, queued or live. -/
def Sagger.findReq (x : Sagger) (c : Nat) (id : BitVec 32) : Option Req :=
  (x.queue ++ x.live.filter fun q => q.st != .ended).find? fun q => q.chan == c && q.sub.reqId == id

/-- A DONE that answers a submit without a place in the queue. -/
def State.refuseSubmit (s : State) (g c : Nat) (m : Msg) (reason : Nat) (fault : BitVec 16) : State :=
  s.sendDone g c m.tag { reqId := BitVec.ofNat 32 (leNat (m.payload.take 4)), reason := reason, fault := fault }

/-- Reject a submit with its record (R234). -/
def State.rejectSubmit (s : State) (g c : Nat) (m : Msg) (detail : Nat) (info : Bool) : State :=
  let id := BitVec.ofNat 32 (leNat (m.payload.take 4))
  (s.raise { code := faultCode 2 6 detail, sagger := sgField g, unit := g, req := some { reqId := id, chan := BitVec.ofNat 6 c },
             info := if info then m.payload.take 20 else [] }).refuseSubmit g c m 5 (faultCode 2 6 detail)

/-- Queue an accepted submit (R235). -/
def State.acceptSubmit (s : State) (g c : Nat) (m : Msg) : State :=
  s.onSagger g fun x => { x with
    arrivals := x.arrivals + 1
    queue := x.queue ++ [{ chan := c, tag := m.tag, sub := submitOf m.payload, tSub := s.now, arrival := x.arrivals }] }

/-- The sagger answers messages as one that does not serve: it is not SERVING, READY has not yet risen in this start, or the
module shuts down (R449, R470). -/
def State.turnsAway (s : State) (g : Nat) : Bool := (s.sagger g).st != .serving || !s.boot.readyWas || s.boot.shutting
/-- The outcome of a SUBMIT in the order of R498. -/
def State.takeSubmit (s : State) (g c : Nat) (m : Msg) : State :=
  let x := s.sagger g
  if s.turnsAway g then s.rejectSubmit g c m 0xF7 false
  else if (x.findReq c (BitVec.ofNat 32 (leNat (m.payload.take 4)))).isSome ∨
      x.reserved.contains (c, BitVec.ofNat 32 (leNat (m.payload.take 4))) then s.refuseSubmit g c m 6 0
  else match s.submitBad g m.payload with
    | some d => s.rejectSubmit g c m d true
    | none => if x.queue.length ≥ (s.planSagger g).pendingMax then s.refuseSubmit g c m 7 0 else s.acceptSubmit g c m

/-- Take the head message of a channel when it has the type; a resetting sagger leaves it in the buffer (R467). -/
def State.takeMsg (s : State) (c type : Nat) (effect : State → Nat → Msg → State) : Host.Outcome State Fault Refusal :=
  match s.headMsg c type, s.saggerOfChan c with
  | some m, some g => if (s.sagger g).st = .resetting then .next s else .next (effect (s.popMsg c type) g m)
  | _, _ => .next s

/-- SUBMIT (R498). -/
def execSubmit (ch : ChanIx) (s : State) : Host.Outcome State Fault Refusal :=
  s.takeMsg ch.val 1 fun s g m => s.takeSubmit g ch.val m

/-! ## Ending a request -/

/-- The slots that a request holds. -/
def Req.slots (q : Req) : List Nat := q.slot :: q.draftSlot.toList

/-- Frames that the entries of a slot name, with layer and page: mapped, not shared, not in the host window. -/
def State.exclusivePages (s : State) (g slot : Nat) : List (Nat × Nat × Nat) :=
  let i := s.imageOfSlot g slot
  (List.range i.attnLayers).flatMap fun l => (List.range (s.ptPages g slot)).filterMap fun p =>
    let e := s.pte g slot l p
    if e.valid && !e.shared && !e.swapped then some (l, p, e.frame) else none

/-- Free what a slot holds: exclusive frames, references, tables and its record (R183, R202). -/
def State.freeSlot (s : State) (g slot : Nat) : State :=
  let pages := s.exclusivePages g slot
  let tables := s.tableRange g slot
  let s1 := (pages.foldl (fun s p => s.dropFrame g p.2.2) s).releaseBlocks g slot (2 ^ 17)
  let s2 := tables.foldl (fun s f => s.dropFrame g f) s1
  (s2.putHbm (s.seqAddr g slot) (zeros 64)).onSagger g fun x => { x with slots := x.slots.filter (· != slot) }

/-- Free everything that a live request holds, and take it from the live requests. -/
def State.endReq (s : State) (g : Nat) (q : Req) : State :=
  let s1 := q.slots.foldl (fun s t => s.freeSlot g t) s
  let s2 := q.compFrames.foldl (fun s f => s.dropFrame g f.2.2) s1
  let s3 := q.landing.foldl (fun s f => s.dropFrame g f.2) s2
  s3.onSagger g fun x => { x with
    live := x.live.filter fun r => !(r.chan == q.chan && r.sub.reqId == q.sub.reqId)
    winUnits := x.winUnits.filter fun u => !q.units.any fun v => v.2.2 == u }

/-- Change one live request. -/
def State.onReq (s : State) (g : Nat) (q : Req) (f : Req → Req) : State :=
  s.onSagger g fun x => { x with live := x.live.map fun r => if r.chan = q.chan ∧ r.sub.reqId = q.sub.reqId then f r else r }

/-! ## Cancels (R251 to R253) -/

/-- Place of the ragged table in the slab memory (R185). -/
def State.raggedAddr (s : State) (g : Nat) (draft : Bool) : Nat :=
  s.firstWheel g * 2 ^ 22 + ((s.place g (if draft then 0x0C else 0x0B)).getD (0, 0)).1

/-- Set MASK in the ragged table's entry of a slot (R187). -/
def State.setMask (s : State) (g slot : Nat) : State :=
  let rs := (s.sagger g).ragged
  match rs.find? (·.slot == slot) with
  | none => s
  | some e =>
    let ix := (rs.filter fun r => r.draft == e.draft).findIdx fun r => r.slot == slot
    let a := s.raggedAddr g e.draft + 32 + 16 * ix
    s.putSlabNum a 4 (nsetBits (s.slabNum a 4) 16 1 1)

/-- The request has rows in the step under way. -/
def State.inStep (s : State) (g : Nat) (q : Req) : Bool :=
  (s.sagger g).phase == .running && (s.sagger g).ragged.any fun e => q.slots.contains e.slot

/-- Stop the transfers of a request and release its host-window units at once (R251). -/
def State.stopSwap (s : State) (g : Nat) (q : Req) : State :=
  let mine (kind sagger ctxA : Nat) : Bool := kind == 1 && sagger == g && q.slots.contains (ctxA % 65536)
  let s0 := { s with swaps := s.swaps.filter fun r => !(r.chan == q.chan && r.reqId == q.sub.reqId) }
  let s1 := s0.onLat fun l => { l with
    outs := l.outs.filter fun o => !mine o.kind o.sagger o.ctxA
    streams := l.streams.filter fun o => !mine o.kind o.sagger o.ctxA }
  (s1.onSagger g fun x => { x with winUnits := x.winUnits.filter fun u => !q.units.any fun v => v.2.2 == u }).onReq g q fun r =>
    { r with units := [] }

/-- Fail requests that no fire point is to end, and free the ended ones (R239; log entry 22). -/
def State.reap (s : State) (g : Nat) : State :=
  (s.sagger g).live.foldl (fun s q =>
    if q.st = .ended then s.endReq g q
    else match q.failed with
      | some c => (s.doneReq g q q.tag 8 c).endReq g q
      | none => s) s

/-- A live request is stopped: masked when its step is under way, its transfers ended, and it waits for the fire point;
with no fire point to come it is freed at once (log entry 22). -/
def State.stopReq (s : State) (g : Nat) (q : Req) (silent : Bool) : State :=
  let masked := s.inStep g q
  let s1 := if masked then q.slots.foldl (fun s t => s.setMask g t) s else s
  let s2 := (s1.stopSwap g q).onReq g q fun r =>
    { r with st := .ended, before := r.st, masked := masked, silent := silent || r.silent, copies := [], compCopies := [] }
  if (s.sagger g).phase = .none ∧ ((s2.sagger g).live.all fun r => r.st == .ended) ∧ (s.sagger g).queue.isEmpty then s2.reap g
  else s2

/-- The effect of a cancel for a REQ_ID. -/
def State.takeCancel (s : State) (g c : Nat) (m : Msg) : State :=
  let id := BitVec.ofNat 32 (leNat (m.payload.take 4))
  let x := s.sagger g
  let unknown := s.sendDone g c m.tag { reqId := id, reason := 0x0A }
  if m.payload.length ≠ 4 then
    s.raise { code := faultCode 2 6 0x94, sagger := sgField g, unit := g, info := m.payload.take 20 }
  else if x.st != .serving || !s.boot.readyWas then unknown
  else match x.queue.find? fun q => q.chan == c && q.sub.reqId == id with
    | some q =>
      (s.onSagger g fun x => { x with queue := x.queue.filter fun r => !(r.chan == c && r.sub.reqId == id) }).sendDone g c m.tag
        (q.done 3 0)
    | none => match x.live.find? fun q => q.chan == c && q.sub.reqId == id && q.st != .ended && q.failed.isNone with
      | none => unknown
      | some q =>
        (((s.stopReq g q false).onSagger g fun x => { x with cancels := x.cancels || s.inStep g q }).sendDone g c m.tag (q.done 3 0))

/-- CANCEL (R251). -/
def execCancel (ch : ChanIx) (s : State) : Host.Outcome State Fault Refusal :=
  s.takeMsg ch.val 2 fun s g m => s.takeCancel g ch.val m

/-! ## Budgets (R240 to R243) -/

/-- The budget that a payload spells. -/
def budgetOf (p : List Byte) : Budget :=
  { tenant := bfield p 0 16, pages := bfield p 32 24, seqs := bfield p 64 17, rate := bfield p 96 16, burst := bfield p 112 16 }
/-- A wrong length, a non-zero reserved field, or SEQS above 65,536. -/
def budgetBad (p : List Byte) : Bool :=
  p.length != 16 || bfield p 16 16 != 0 || bfield p 56 8 != 0 || bfield p 81 15 != 0 || bfield p 64 17 > 65536
/-- A new tenant, and the table is full. -/
def State.tenantsFull (s : State) (g tenant : Nat) : Bool :=
  !(s.sagger g).tenants.any (fun t => t.budget.tenant == tenant) && (s.sagger g).tenants.length ≥ (s.planSagger g).tenantsMax
/-- A budget waits for the sagger's next fire point. -/
def State.setBudget (s : State) (g : Nat) (b : Budget) : State :=
  s.onSagger g fun x => { x with
    tenants := if x.tenants.any (fun t => t.budget.tenant == b.tenant) then
        x.tenants.map fun t => if t.budget.tenant = b.tenant then { t with next := some b } else t
      else x.tenants ++ [{ budget := { tenant := b.tenant }, next := some b, fresh := true }] }

/-- The effect of a BUDGET message on a host channel. -/
def State.takeBudget (s : State) (g : Nat) (m : Msg) : State :=
  let bad (d : Nat) : State :=
    s.raise { code := faultCode 2 6 d, sagger := sgField g, unit := g, info := m.payload.take 20 }
  if (s.sagger g).st != .serving || !s.boot.readyWas then bad 0xF7
  else if !(s.planSagger g).hostBudget then bad 0x95
  else if budgetBad m.payload then bad 0x94
  else if s.tenantsFull g (budgetOf m.payload).tenant then bad 0x95
  else s.setBudget g (budgetOf m.payload)

/-- BUDGET_MESSAGE (R240). -/
def execBudgetMessage (ch : ChanIx) (s : State) : Host.Outcome State Fault Refusal :=
  s.takeMsg ch.val 3 fun s g m => s.takeBudget g m

/-- Bucket depth in units of 10^-9 tokens (R241). -/
def Budget.depth (b : Budget) : Nat := b.burst * 1024 * 10 ^ 9
/-- The bucket after its refill at RATE × 1,024 tokens a second. -/
def Tenant.refilled (t : Tenant) (now : Nat) : Tenant :=
  { t with bucket := min t.budget.depth (t.bucket + (now - t.refill) * t.budget.rate * 1024), refill := now }
/-- A waiting budget takes effect: a new tenant's bucket is full, another keeps its tokens up to the new depth. -/
def Tenant.apply (t : Tenant) (now : Nat) : Tenant :=
  match t.next with
  | none => t
  | some b =>
    if t.fresh then { budget := b, bucket := b.depth, refill := now }
    else { t.refilled now with budget := b, next := none, bucket := min b.depth (t.refilled now).bucket }

end Sys2Proof.Machine
end

