-- ==== Sys2Proof/Machine/Ssu.lean ====
section
/-! DEFINITION. The stochastic score units: streams, keys, estimate records and their application
(spec/05_log_and_stochastic_units.md, R164 to R170). -/

namespace Sys2Proof.Machine

/-- The 1 bits of a stream of `n` bits: each selects a row and compares that row's probability with a 16-bit random
number; the random numbers are draws `k` to `k + n - 1` of the entropy source (R165). -/
def streamCount (probs : List Nat) (k n : Nat) : Nat :=
  ((List.range n).filter fun i =>
    let e := Config.entropy (k + i)
    decide (e / probs.length % 65536 < probs.getD (e % probs.length) 0)).length

/-- The H_kv of a key's model. -/
def State.keyHeads (s : State) (k : SsuKey) : Nat := (s.imageOfSlot k.sagger k.slot.toNat).hKv

/-- A count is added to its key; a key with counts of all heads is complete (R168). -/
def State.countKey (s : State) (d : Nat) (j : SsuJob) (c : Nat) : State :=
  match (s.ssu d).keys.find? (·.is j) with
  | none => s
  | some k =>
    let k' := { k with sum := k.sum + c, heads := k.heads + 1 }
    if k'.heads ≥ s.keyHeads k then
      s.onSsu d fun x => { x with keys := x.keys.filter fun i => !i.is j, done := x.done ++ [k'] }
    else s.onSsu d fun x => { x with keys := x.keys.map fun i => if i.is j then k' else i }

/-- SSU_STREAM (R165). -/
def execSsuStream (d : DieIx) (s : State) : Host.Outcome State Fault Refusal :=
  match (s.ssu d.val).jobs with
  | [] => .next s
  | j :: r =>
    let n := (s.imageOfSlot j.sagger j.slot.toNat).ssuN
    let s1 := ({ s with freeCtr := s.freeCtr + n } : State).onSsu d.val fun x => { x with jobs := r }
    .next (((s1.countKey d.val j (streamCount j.probs s.freeCtr n)).bump .ssuEst d.val 1).touch j.sagger)

/-- Address of stage record `n` of a sagger (R169). -/
def State.stageAddr (s : State) (g n : Nat) : Nat := s.placeAddr g 0x0F + 16 * (n % s.placeCount g 0x0F)

/-- The 16 bytes of an estimate record (R169). -/
def SsuKey.bytes (k : SsuKey) : List Byte :=
  leBytes (k.slot.toNat + 2 ^ 16 * (k.layer % 256)) 4 ++ leBytes (k.lslot % 2 ^ 23) 4 ++ leBytes (k.row % 2 ^ 16) 4 ++
    leBytes (k.sum % 2 ^ 19) 4

/-- SSU_KEY_COMPLETE (R168). -/
def execSsuKeyComplete (d : DieIx) (s : State) : Host.Outcome State Fault Refusal :=
  match (s.ssu d.val).done with
  | [] => .next s
  | k :: r =>
    let a := s.stageAddr k.sagger (s.sagger k.sagger).stageProd
    s.when (!s.stageFull k.sagger)
      ((((s.onSsu d.val fun x => { x with done := r }).putHbm a k.bytes).bump .hbmWrBytes (stackOfAddr a) 16).onSagger k.sagger
        fun x => { x with stageProd := x.stageProd + 1 })

/-- S after an estimate: e = round(255 COUNT / (N H_kv)), then round(((256 − α) S + α e) / 256), ties to even (R170). -/
def newScore (old count n heads alpha : Nat) : Nat :=
  let e := rneDiv (255 * count) (n * heads)
  (rneDiv (((256 : Int) - alpha) * old + alpha * e) 256).toNat

/-- Apply stage record `n`: a fired row's estimate updates its score byte, any other record is discarded (R170). -/
def State.applyScore (s : State) (d g n : Nat) : State :=
  let a := s.stageAddr g n
  let slot := s.hbmField a 0 16
  let i := s.imageOfSlot g slot
  let w := s.sideWordAddr g slot (s.hbmField a 16 8) (s.hbmField a 32 23)
  let s1 := s.onSagger g fun x => { x with stageOrder := x.stageOrder.filter (· != n) }
  if (s.sagger g).stageFired.contains (slot, s.hbmField a 64 16) ∧ (s.reqOfSlot g slot).isSome then
    (s1.putHbmNum (w + 3) 1 (newScore (s.hbmNum (w + 3) 1) (s.hbmField a 96 19) i.ssuN i.hKv i.ssuAlpha)).bump .ssuApplied d 1
  else s1.bump .ssuDiscard d 1

/-- SSU_APPLY (R170): the records of a step in rising order of ROW. -/
def execSsuApply (d : DieIx) (g : SaggerIx) (s : State) : Host.Outcome State Fault Refusal :=
  match (s.sagger g.val).stageOrder with
  | [] => .next s
  | n :: _ => .next ((s.applyScore d.val g.val n).touch g.val)

end Sys2Proof.Machine
end

