-- ==== Sys2Proof/Machine/Plan.lean ====
section
/-! DEFINITION. Planning a step: candidates, times, trees, frames, admission and the ragged table
(spec/08_serving_loop.md, R244 to R247, R259, R262, R265; R185, R196). -/

namespace Sys2Proof.Machine

/-! ## Order of candidates (R245) -/

/-- Lexicographic order of keys. -/
def keyLt : List Nat → List Nat → Bool
  | [], _ => false
  | _, [] => false
  | a :: r, b :: t => a < b || (a == b && keyLt r t)
/-- Insert a request by its key, after those of equal key. -/
def insertKey (key : Req → List Nat) (q : Req) : List Req → List Req
  | [] => [q]
  | a :: r => if keyLt (key q) (key a) then q :: a :: r else a :: insertKey key q r
/-- Requests in rising order of a key. -/
def sortReqs (key : Req → List Nat) (l : List Req) : List Req := l.foldl (fun acc q => insertKey key q acc) []

/-- First-token deadline; a request without one ranks after those with one. -/
def Req.deadline0 (q : Req) : Nat := if q.sub.ttft = 0 then 2 ^ 64 else q.tSub + q.sub.ttft * 1000
/-- Key of orders 5 and 6. -/
def Req.prefillKey (q : Req) : List Nat := [q.sub.cls, q.deadline0, q.arrival]
/-- Key of orders 2 to 4. -/
def Req.decodeKey (q : Req) : List Nat := [q.lastStep, q.arrival]

/-- The request may be planned. -/
def Req.plannable (q : Req) : Bool := (q.st == .decode || q.st == .prefill) && q.failed.isNone && !q.masked && !q.moving

/-- Candidates of orders 2, 3 and 4. -/
def State.decoders (s : State) (g : Nat) : List Req :=
  let l := (s.sagger g).live.filter Req.plannable
  sortReqs Req.decodeKey (l.filter fun q => q.st == .decode && !q.held && !q.landed) ++
    sortReqs Req.decodeKey (l.filter (·.held)) ++ sortReqs Req.decodeKey (l.filter fun q => q.landed && !q.held)
/-- Candidates of order 5. -/
def State.prefillers (s : State) (g : Nat) : List Req :=
  sortReqs Req.prefillKey ((s.sagger g).live.filter fun q => q.plannable && q.st == .prefill && !q.held && !q.landed)
/-- Candidates of order 6; a request whose image has been removed since its submit waits. -/
def State.queued (s : State) (g : Nat) : List Req := sortReqs Req.prefillKey ((s.sagger g).queue.filter fun q =>
  (s.image? g q.sub.model).isSome && (q.sub.spec != 1 || (s.image? g q.sub.draft).isSome))

/-! ## A planned row range -/

/-- What the plan gives a request: target rows, a tree or not, and draft rows. -/
structure Cand where
  chan  : Nat
  reqId : BitVec 32
  slot  : Nat
  rows  : Nat
  tree  : Bool := false
  drafts : Nat := 0
  deriving DecidableEq, Repr

/-- FIRED_SLOTS at which the next row is written: raised past a shared page (R182). -/
def State.startSlot (s : State) (g slot : Nat) : Nat :=
  let i := s.imageOfSlot g slot
  let f := s.firedSlots g slot
  if (s.pte g slot 0 (f / i.ppp)).valid && (s.pte g slot 0 (f / i.ppp)).shared then (f / i.ppp + 1) * i.ppp else f

/-- Nodes of a tree with at most `limit` nodes: `levels` further levels below a level of `w` nodes (R259). -/
def treeCount (limit branch : Nat) : Nat → Nat → Nat → Nat
  | 0, _, c => min limit c
  | l + 1, w, c => if limit ≤ c then limit else treeCount limit branch l (w * branch) (c + w * branch)
/-- Nodes of the tree of a request whose next position is `pos`. -/
def specNodes (q : Req) (i : ImageInfo) (pos : Nat) : Nat :=
  if q.sub.spec = 1 ∧ q.draftSlot.isSome then
    treeCount q.sub.specNodes q.sub.branch (min (q.sub.specDepth - 1) (i.maxPos - 1 - pos)) 1 1
  else 1
/-- Nodes above the deepest level of a tree of `n` nodes. -/
def innerNodes (branch n : Nat) : Nat → Nat → Nat → Nat
  | 0, _, c => c
  | l + 1, w, c => if n ≤ c + w * branch then c else innerNodes branch n l (w * branch) (c + w * branch)
/-- Draft rows of a decode step with `n` tree nodes: the inner nodes, or node 0 alone, and a node that the last step left
(R259, R261, R262). -/
def draftRows (q : Req) (n : Nat) : Nat :=
  if q.draftSlot.isNone then 0 else (if n ≤ 1 then 1 else innerNodes q.sub.branch n 16 1 1) + q.draftExtra

/-- The plan of a request with `n` rows; more than one row in DECODE is a tree. -/
def State.candOf (s : State) (g : Nat) (q : Req) (n : Nat) : Cand :=
  match q.st with
  | .decode => { chan := q.chan, reqId := q.sub.reqId, slot := q.slot, rows := n, tree := n > 1, drafts := draftRows q n }
  | _ =>
    let drafts := match q.draftSlot with | none => 0 | some d => s.nextPos g q.slot + n - s.nextPos g d
    { chan := q.chan, reqId := q.sub.reqId, slot := q.slot, rows := n, drafts := drafts }

/-- The request of a candidate. -/
def State.reqOf (s : State) (g : Nat) (c : Cand) : Option Req :=
  (s.sagger g).live.find? fun q => q.chan == c.chan && q.sub.reqId == c.reqId

/-! ## Predicted time (R246) -/

/-- Pages that the rows of a sequence read, over all layers: every page for a tree row, else those up to the row's. -/
def pagesRead (i : ImageInfo) (start rows : Nat) (tree : Bool) : Nat :=
  i.attnLayers * (if tree then rows * ((start + rows - 1) / i.ppp + 1)
    else (List.range rows).foldl (fun n r => n + (start + r) / i.ppp + 1) 0)
/-- Pages that a candidate reads, its draft rows included. -/
def State.candPages (s : State) (g : Nat) (c : Cand) : Nat :=
  let d := match (s.reqOf g c).bind (·.draftSlot) with
    | some d => pagesRead (s.imageOfSlot g d) (s.startSlot g d) c.drafts (c.tree && c.drafts > 1)
    | none => 0
  pagesRead (s.imageOfSlot g c.slot) (s.startSlot g c.slot) c.rows c.tree + d
/-- Predicted time in ns of a step with these candidates. -/
def State.predict (s : State) (g : Nat) (i : ImageInfo) (cs : List Cand) : Nat :=
  let rows := cs.foldl (fun n c => n + c.rows + c.drafts) 0
  let pages := cs.foldl (fun n c => n + s.candPages g c) 0
  (s.sagger g).rho * (i.cFix + i.cRow * rows + i.cPage * pages) / 4096

/-- P_T in ns, as the build loaded it (R273). -/
def State.period (s : State) (g : Nat) : Nat := s.reg .sgrStepPeriod g
/-- Q_n of R247. -/
def State.planTime (s : State) (g : Nat) : Nat := s.period g - min (s.sagger g).lag (s.period g / 4)

/-- Target rows of a list of candidates. -/
def rowSum (cs : List Cand) : Nat := cs.foldl (fun n c => n + c.rows) 0
/-- RA_ROWS and the entries of the ragged tables leave room for one more candidate. -/
def State.rowsFit (s : State) (g : Nat) (cs : List Cand) (c : Cand) : Bool :=
  rowSum cs + c.rows ≤ s.placeCount g 5 && cs.length + 1 ≤ min 65536 (s.placeCount g 0x0B) &&
    (cs.filter fun x => x.drafts != 0).length + 1 ≤ s.placeCount g 0x0C

/-! ## Trimming trees (R262) -/

/-- Reduce the last planned speculating request, one node at a time, until the step fits: `fuel` nodes at most. -/
def State.trimTrees (s : State) (g : Nat) (i : ImageInfo) (q : Nat) : Nat → List Cand → List Cand
  | 0, cs => cs
  | fuel + 1, cs =>
    if s.predict g i cs ≤ q then cs
    else match cs.reverse.find? (·.tree) with
      | none => cs
      | some c =>
        let c' := match s.reqOf g c with | some r => s.candOf g r (c.rows - 1) | none => c
        s.trimTrees g i q fuel (cs.map fun x => if x.slot = c.slot then c' else x)

/-! ## Checks before scheduling (R179) -/

/-- A sequence record that fails 0x71. -/
def State.seqBad (s : State) (g slot : Nat) : Bool :=
  let i := s.imageOfSlot g slot
  let n := s.ptPages g slot
  let a := s.seqAddr g slot
  !s.owns g (s.seqField g slot 16 0 32 * 4096) (i.attnLayers * n * 8) ||
    !s.owns g (s.seqField g slot 24 0 32 * 4096) (i.attnLayers * n * 4 * i.ppp) || n % 16 != 0 ||
    s.firedSlots g slot > n * i.ppp || s.nextPos g slot > i.maxPos ||
    s.hbmField a 4 12 != 0 || s.hbmField a 48 16 != 0 || s.hbmField a 87 9 != 0 || s.hbmField a 119 9 != 0 ||
    s.hbmField a 180 12 != 0 || s.hbmField a 273 15 != 0 || (s.hbm (a + 40) 24).any (· != 0)

/-! ## Frames of the rows (R184, R242, R265) -/

/-- Layers and logical pages that `rows` slots from `start` up lie in and that no entry maps. -/
def State.needPages (s : State) (g slot start rows : Nat) : List (Nat × Nat) :=
  let i := s.imageOfSlot g slot
  if rows = 0 then []
  else (List.range i.attnLayers).flatMap fun l =>
    ((List.range ((start + rows - 1) / i.ppp - start / i.ppp + 1)).map (start / i.ppp + ·)).filterMap fun p =>
      if (s.pte g slot l p).valid then none else some (l, p)

/-- Map one page: an EXCLUSIVE frame charged to the tenant; its first position follows from the slots (R182). -/
def State.mapPage (s : State) (g slot tenant start pos layer page : Nat) : Except FrameShort State :=
  match s.takeFrame g tenant with
  | .error e => .error e
  | .ok (f, s1) => .ok (s1.putPte g slot layer page
      { frame := f, valid := true, basePos := pos + (page * (s.imageOfSlot g slot).ppp - start) })

/-- Map pages one after another. -/
def State.mapPages (s : State) (g slot tenant start pos : Nat) : List (Nat × Nat) → Except FrameShort State
  | [] => .ok s
  | (l, p) :: r =>
    match s.mapPage g slot tenant start pos l p with
    | .error e => .error e
    | .ok s1 => s1.mapPages g slot tenant start pos r

/-- Map the pages of a slot's rows, with FIRED_SLOTS raised past a shared page. -/
def State.mapRows (s : State) (g slot tenant rows : Nat) : Except FrameShort State :=
  let st := s.startSlot g slot
  match s.mapPages g slot tenant st (s.nextPos g slot) (s.needPages g slot st rows) with
  | .error e => .error e
  | .ok s1 => .ok (s1.putSeq g slot 8 0 23 st)

/-- Map the pages of a candidate, its draft slot included. -/
def State.mapCand (s : State) (g : Nat) (q : Req) (c : Cand) : Except FrameShort State :=
  match s.mapRows g q.slot q.sub.tenant c.rows with
  | .error e => .error e
  | .ok s1 => match q.draftSlot with
    | none => .ok s1
    | some d => s1.mapRows g d q.sub.tenant c.drafts

/-- Frames that a candidate needs. -/
def State.candNeed (s : State) (g : Nat) (q : Req) (c : Cand) : Nat :=
  (s.needPages g q.slot (s.startSlot g q.slot) c.rows).length +
    (match q.draftSlot with
     | some d => (s.needPages g d (s.startSlot g d) c.drafts).length
     | none => 0)

/-- A plan in progress: the state, the candidates taken, and those held out for want of frames with what they lack. -/
structure PlanRun where
  s     : State
  taken : List Cand := []
  held  : List (Cand × FrameShort × Nat) := []
  /-- Q_n or RA_ROWS has cut a chunk: nothing more is added (R245) -/
  full  : Bool := false

/-- Give a candidate its frames; without them it is held out (R265, R266).  Prefix nodes are evicted first. -/
def PlanRun.give (p : PlanRun) (g : Nat) (c : Cand) : PlanRun :=
  match p.s.reqOf g c with
  | none => p
  | some q =>
    let need := p.s.candNeed g q c
    match p.s.mapCand g q c with
    | .ok s => { p with s := s.onReq g q fun r => { r with held := false }, taken := p.taken ++ [c] }
    | .error .budget => { p with s := p.s.onReq g q fun r => { r with held := true }, held := p.held ++ [(c, .budget, need)] }
    | .error .frames =>
      let s1 := (p.s.evictFor g (q.chain ++ q.draftChain) (p.s.placeCount g 7) need).2
      { p with s := s1.onReq g q fun r => { r with held := true }, held := p.held ++ [(c, .frames, need)] }

/-- The largest number up to `k` that meets `p`, 0 if none. -/
def largest (p : Nat → Bool) : Nat → Nat
  | 0 => 0
  | k + 1 => if p (k + 1) then k + 1 else largest p k

/-- Prompt positions that a request has still to compute. -/
def State.promptLeft (s : State) (g : Nat) (q : Req) : Nat := q.sub.prompt.length - s.nextPos g q.slot

/-- The chunk of a prefill: the largest that fits Q_n and RA_ROWS; one row when nothing of orders 1 to 4 runs and not even
that fits (R245). -/
def PlanRun.chunk (p : PlanRun) (g : Nat) (i : ImageInfo) (q : Req) (alone : Bool) : Nat :=
  let top := min (p.s.planSagger g).chunkMax (p.s.promptLeft g q)
  let fits (n : Nat) : Bool :=
    p.s.rowsFit g p.taken (p.s.candOf g q n) && p.s.predict g i (p.taken ++ [p.s.candOf g q n]) ≤ p.s.planTime g
  let n := largest fits top
  if n = 0 && alone && p.taken.isEmpty then min 1 top else n

/-- Prefill candidates in order until one does not fit (R245). -/
def PlanRun.prefills (p : PlanRun) (g : Nat) (i : ImageInfo) (alone : Bool) : List Req → PlanRun
  | [] => p
  | q :: r =>
    if !p.held.isEmpty || p.full then p
    else
      let n := p.chunk g i q alone
      if n = 0 then { p with full := true }
      else { p.give g (p.s.candOf g q n) with full := n < min (p.s.planSagger g).chunkMax (p.s.promptLeft g q) }.prefills g i alone r

/-! ## Admission (R239, R241, R242, R256, R259) -/

/-- The lowest free sequence slots. -/
def State.freeSlots (s : State) (g n : Nat) : List Nat :=
  ((List.range (s.placeCount g 4)).filter fun k => !(s.sagger g).slots.contains k).take n

/-- Slots charged to a tenant. -/
def State.slotsOf (s : State) (g tenant : Nat) : Nat :=
  ((s.sagger g).live.filter fun q => q.sub.tenant == tenant).foldl (fun n q => n + q.slots.length) 0

/-- The tenant's slots and bucket allow the request. -/
def State.budgetAdmits (s : State) (g : Nat) (q : Req) : Bool :=
  match s.tenant? g q.sub.tenant with
  | none => false
  | some t =>
    s.slotsOf g q.sub.tenant + (if q.sub.spec = 1 then 2 else 1) ≤ t.budget.seqs && t.budget.rate != 0 &&
      (t.budget.rate == 0xFFFF || q.sub.prompt.length * 10 ^ 9 ≤ (t.refilled s.now).bucket) &&
      s.pagesOf g q.sub.tenant ≤ t.budget.pages

/-- Draw the prompt's tokens from the tenant's bucket. -/
def State.drawTokens (s : State) (g : Nat) (q : Req) : State :=
  s.onSagger g fun x => { x with tenants := x.tenants.map fun t =>
    if t.budget.tenant = q.sub.tenant then
      let t := t.refilled s.now
      if t.budget.rate = 0xFFFF then t else { t with bucket := t.bucket - q.sub.prompt.length * 10 ^ 9 }
    else t }

/-- Write a new sequence record and its empty tables (R177, R415). -/
def State.newSlot (s : State) (g slot : Nat) (q : Req) (i : ImageInfo) (frame : Nat) : State :=
  let n := ptPagesFor i (q.sub.prompt.length + q.sub.maxNew)
  let fs := (List.range (tableFrames i n)).map (frame + ·)
  let pt := frame * frameBytes / 4096
  let score := q.sub.score && (s.place g 0x0F).isSome && [0, 1].all fun d => !s.onDie g d || s.ssuUsable d
  let bytes := leBytes (1 + 2 * Bool.num score + 2 ^ 16 * q.sub.scope) 4 ++ leBytes q.sub.tenant 4 ++ zeros 8 ++ leBytes pt 4 ++
    leBytes n 4 ++ leBytes (pt + ptBytes i n / 4096) 4 ++ zeros 36
  ((fs.foldl (fun s f => s.setFrame g f .table) s).putHbm (s.seqAddr g slot) bytes).zeroHbm (frame * frameBytes)
    (tableFrames i n * frameBytes)

/-- The request's generator key (R256). -/
def State.reqKey (s : State) (q : Submit) : BitVec 256 × State :=
  let ent := (List.range 32).map fun k => BitVec.ofNat 8 (Config.entropy (s.freeCtr + k))
  (digest256 (leBytes (q.seed.toNat / 2 ^ 32) 4 ++ leBytes (q.seed.toNat % 2 ^ 32) 4 ++ leBytes q.reqId.toNat 4 ++ ent),
    { s with freeCtr := s.freeCtr + 32 })

/-- Look up and attach the prefix of a new slot (R201). -/
def State.prefixOf (s : State) (g slot model : Nat) (q : Submit) : List Nat × State :=
  if q.scope = 0 then ([], s)
  else
    let n := eligibleBlocks q.prompt.length
    let (ns, s1) := s.lookup g q.scope model q.prompt n 0 0
    (ns, (s1.attachAll g slot ns).bump .atnPrefixMiss g (if ns.length < n then 1 else 0))

/-- Frames for the tables of the request's slots. -/
def State.tableRoom (s : State) (g : Nat) (q : Req) (models : List Nat) : Option (List Nat × State) :=
  models.foldl (fun acc m => acc.bind fun (fs, s) =>
    let i := ((s.image? g m).map (·.info)).getD {}
    let n := tableFrames i (ptPagesFor i (q.sub.prompt.length + q.sub.maxNew))
    (s.freeRun g n).map fun f => (fs ++ [f], (List.range n).foldl (fun s k => s.setFrame g (f + k) .table) s)) (some ([], s))

/-- Place a queued request in its slots: records, prefix, generator and penalty window. -/
def State.seat (s : State) (g : Nat) (q : Req) (slots frames : List Nat) : State :=
  let draft := if q.sub.spec = 1 then slots[1]? else none
  let (key, s1) := s.reqKey q.sub
  let q1 := { q with
    st := .prefill, slot := slots.getD 0 0, draftSlot := draft, key := key, firstStep := (s.sagger g).stepNum + 1
    window := q.sub.prompt.drop (q.sub.prompt.length - q.sub.penWin) }
  let s2 := s1.onSagger g fun x => { x with
    queue := x.queue.filter fun r => !(r.chan == q.chan && r.sub.reqId == q.sub.reqId)
    live := x.live ++ [q1], slots := slots.foldl addSorted x.slots }
  let s3 := s2.newSlot g q1.slot q1 (s2.imageOfSlot g q1.slot) (frames.getD 0 0)
  let (chain, s4) := s3.prefixOf g q1.slot q.sub.model q.sub
  let s5 := s4.onReq g q1 fun r => { r with chain := chain, prefix_ := s4.nextPos g q1.slot, promptDone := 0 }
  let s6 := match draft with
    | none => s5
    | some d =>
      let s := s5.newSlot g d { q1 with sub := { q1.sub with score := false } } (s5.imageOfSlot g d) (frames.getD 1 0)
      let (dc, s) := s.prefixOf g d q.sub.draft q.sub
      s.onReq g q1 fun r => { r with draftChain := dc }
  (s6.drawTokens g q).bump .sgrReqAdmit g 1

/-- Try to admit one queued request with its first chunk; it waits otherwise (R242). -/
def PlanRun.admitOne (p : PlanRun) (g : Nat) (i : ImageInfo) (alone : Bool) (q : Req) : PlanRun :=
  let s := p.s
  let models := if q.sub.spec = 1 then [q.sub.model, q.sub.draft] else [q.sub.model]
  let slots := s.freeSlots g models.length
  if !s.budgetAdmits g q || slots.length < models.length then p
  else match s.tableRoom g q models with
    | none => { p with s := (s.evictFor g [] (s.placeCount g 7) (models.length)).2 }
    | some (fs, _) =>
      let p1 := { p with s := s.seat g q slots fs }
      match (p1.s.sagger g).live.find? fun r => r.chan == q.chan && r.sub.reqId == q.sub.reqId with
      | none => p
      | some r =>
        let n := p1.chunk g i r alone
        if n = 0 then { p with full := true }
        else match p1.s.mapCand g r (p1.s.candOf g r n) with
          | .ok _ => { p1.give g (p1.s.candOf g r n) with full := n < min (p1.s.planSagger g).chunkMax (p1.s.promptLeft g r) }
          | .error .budget => p
          | .error .frames => { p with s := (s.evictFor g [] (s.placeCount g 7) (p1.s.candNeed g r (p1.s.candOf g r n))).2 }

/-! ## Compaction steps (R196, R197) -/

/-- Written logical slots of a layer, with side word. -/
def State.writtenSlots (s : State) (g slot layer : Nat) : List (Nat × Nat) :=
  let i := s.imageOfSlot g slot
  (List.range ((s.firedSlots g slot + i.ppp - 1) / i.ppp)).flatMap fun p =>
    let e := s.pte g slot layer p
    (List.range (if e.valid then e.fill else 0)).map fun t =>
      (p * i.ppp + t, s.hbmNum (s.sideWordAddr g slot layer (p * i.ppp + t)) 4)

/-- Insert a slot in order of score, then position. -/
def insertScore (x : Nat × Nat) : List (Nat × Nat) → List (Nat × Nat)
  | [] => [x]
  | a :: r => if keyLt [nbits x.2 24 8, nbits x.2 0 23] [nbits a.2 24 8, nbits a.2 0 23] then x :: a :: r else a :: insertScore x r

/-- The slots of a layer that a compaction evicts: the lowest scores of the candidates (R196 steps 1 and 2). -/
def State.evictSlots (s : State) (g slot layer : Nat) : List Nat :=
  let i := s.imageOfSlot g slot
  let ws := s.writtenSlots g slot layer
  let cands := (ws.take (ws.length - i.window)).filter fun w => i.sinks ≤ nbits w.2 0 23
  ((cands.foldr insertScore []).take (s.firedSlots g slot - i.compactTo)).map (·.1)

/-- The copies of a compaction: first replaced page F, and per layer the surviving slots from F on with their new slots
(R196 steps 3 and 4). -/
def State.compactPlan (s : State) (g slot : Nat) : Nat × List (Nat × Nat × Nat) :=
  let i := s.imageOfSlot g slot
  let ev := (List.range i.attnLayers).map fun l => s.evictSlots g slot l
  let f := (ev.flatMap fun l => l.map (· / i.ppp)).foldl min (s.ptPages g slot)
  (f, (List.range i.attnLayers).flatMap fun l =>
    let keep := ((s.writtenSlots g slot l).map (·.1)).filter fun n => f * i.ppp ≤ n && !(ev.getD l []).contains n
    (List.range keep.length).map fun k => (l, keep.getD k 0, f * i.ppp + k))

/-- Start the compaction step of a sequence: its new frames are allocated and its copies listed; without frames the
compaction is deferred (R197). -/
def State.startCompact (s : State) (g : Nat) (q : Req) : State :=
  let i := s.imageOfSlot g q.slot
  let (f, copies) := s.compactPlan g q.slot
  let pages := (copies.map fun c => (c.1, c.2.2 / i.ppp)).eraseDups
  match s.takeFrames g q.sub.tenant pages.length with
  | .error _ => (s.onReq g q fun r => { r with st := .decode }).bump .atnCompactDefer g 1 |>.putSeq g q.slot 0 3 1 0
  | .ok (fs, s1) => s1.onReq g q fun r => { r with
      compFrom := f, compCopies := copies
      compFrames := (List.range pages.length).map fun k => ((pages.getD k (0, 0)).1, (pages.getD k (0, 0)).2, fs.getD k 0) }

/-- Every record of a compacting sequence has been applied (R170). -/
def State.scoresDone (s : State) (g : Nat) : Bool :=
  (s.sagger g).live.all fun q => q.st != .compact || (s.sagger g).stageOrder.all fun n => s.hbmField (s.stageAddr g n) 0 16 != q.slot

/-! ## The plan -/

/-- The image that the step runs: the model of its first candidate (log entry 23). -/
def State.planModel (s : State) (g : Nat) : Nat :=
  (((s.decoders g ++ s.prefillers g ++ s.queued g).head?).map (·.sub.model)).getD (s.sagger g).stepModel

/-- Candidates of orders 2 to 4 of the step's model with their rows, as far as RA_ROWS goes. -/
def State.planDecoders (s : State) (g model : Nat) : List Cand :=
  ((s.decoders g).filter fun q => q.sub.model == model).foldl (fun cs q =>
    let n := if q.st = .decode then specNodes q (s.imageOfSlot g q.slot) (s.nextPos g q.slot)
      else min (s.planSagger g).chunkMax (s.promptLeft g q)
    let c := s.candOf g q n
    if s.rowsFit g cs c then cs ++ [c] else cs) []

/-- Fail the sequences whose record breaks R179. -/
def State.failBadSeqs (s : State) (g : Nat) : State :=
  ((s.sagger g).live.filter fun q => q.plannable && q.slots.any (s.seqBad g)).foldl (fun s q => s.failSlot 6 0x71 g g q.slot) s

/-- The plan of the next step (R245): compaction, decode, held and landed sequences, then prefill and admission. -/
def State.planRun (s : State) (g : Nat) : PlanRun :=
  let s0 := (s.failBadSeqs g).onSagger g fun x => { x with stepModel := s.planModel g }
  let s1 := ((s0.sagger g).live.filter fun q => q.st == .compact && q.failed.isNone).foldl (fun s q => s.startCompact g q) s0
  let i := s1.stepImage g
  let m := (s1.sagger g).stepModel
  let base := s1.planDecoders g m
  let base := if s1.planTime g < s1.period g then s1.trimTrees g i (s1.planTime g) (64 * base.length) base else base
  let p := base.foldl (fun p c => p.give g c) ({ s := s1 } : PlanRun)
  let alone := base.isEmpty
  let p := p.prefills g i alone ((p.s.prefillers g).filter fun q => q.sub.model == m)
  ((p.s.queued g).filter fun q => q.sub.model == m).foldl (fun p q => if p.held.isEmpty && !p.full then p.admitOne g i alone q else p) p

/-- The ragged entries of a candidate: the sequence's, and its draft slot's. -/
def State.raggedFor (s : State) (g : Nat) (c : Cand) : List Ragged :=
  match s.reqOf g c with
  | none => []
  | some q =>
    let i := s.imageOfSlot g c.slot
    let step := (s.sagger g).stepNum + 1
    let score := s.seqField g c.slot 0 1 1 == 1 && (step - q.firstStep) % (max 1 i.scoreEvery) == 0
    let e : Ragged := { slot := c.slot, chan := c.chan, reqId := c.reqId, tree := c.tree, scored := score,
                        fired := s.firedSlots g c.slot, pos0 := s.nextPos g c.slot, new := c.rows }
    match q.draftSlot with
    | some d => if c.drafts = 0 then [e] else
        [e, { slot := d, chan := c.chan, reqId := c.reqId, tree := c.tree && c.drafts > 1, scored := false, fired := s.firedSlots g d,
              pos0 := s.nextPos g d, new := c.drafts, draft := true }]
    | none => [e]

/-- The bytes of a ragged table (R185). -/
def raggedBytes (step : Nat) (es : List Ragged) : List Byte :=
  leBytes (step % 2 ^ 32) 4 ++ leBytes es.length 4 ++ leBytes (es.foldl (fun n e => n + e.new) 0) 4 ++ zeros 20 ++
    es.flatMap fun e => leBytes (e.slot + 2 ^ 17 * Bool.num e.tree + 2 ^ 18 * Bool.num e.scored) 4 ++ leBytes e.fired 4 ++
      leBytes e.pos0 4 ++ leBytes e.new 4

/-- The tree that a decode row starts with: node 0 is the token of the last fire point. -/
def Req.root (q : Req) : List TreeNode := [{ token := (q.out.head?).getD 0, parent := 0, depth := 0 }]

/-- The step begins: its ragged tables are written and its counters and marks set (R22, R185, R244). -/
def State.beginStep (s : State) (g : Nat) (p : PlanRun) : State :=
  let es := p.taken.flatMap (p.s.raggedFor g)
  let tgt := es.filter fun e => !e.draft
  let step := (p.s.sagger g).stepNum + 1
  let s1 := (p.s.putSlab (p.s.raggedAddr g false) (raggedBytes step tgt)).putSlab (p.s.raggedAddr g true)
    (raggedBytes step (es.filter (·.draft)))
  let q := s.planTime g
  let rowsOf (r : Req) : Nat := ((p.taken.find? fun c => c.chan == r.chan && c.reqId == r.sub.reqId).map (·.rows)).getD 0
  s1.onSagger g fun x => { x with
    stepNum := step, phase := .running, stepStart := s.now, predicted := p.s.predict g (p.s.stepImage g) p.taken, planned := q
    ragged := tgt ++ es.filter (·.draft), rowsN := rowSum p.taken, trimmed := q < s.period g, cancels := false
    marks := (s.reg .sgrFmtFallback g, s.reg .sgrAccRefire g, s.reg .sgrAccClamp g + s.reg .sgrFmtSat g)
    walk := {}, stageFired := [], router := { epoch := x.router.epoch }
    live := x.live.map fun r =>
      { r with rows := rowsOf r, tree := if r.st = .decode then r.root else [], samples := [], path := none,
               lastStep := if rowsOf r = 0 then r.lastStep else step } }

/-- STEP_PLAN (R244, R245): after a fire point and the slab clear; a plan without a row or a compaction starts no step, and
what only a fire point would free is freed at once (log entry 22). -/
def execStepPlan (g : SaggerIx) (s : State) : Host.Outcome State Fault Refusal :=
  let x := s.sagger g.val
  let p := s.planRun g.val
  if x.st != .serving || x.phase != .none || !x.cleared || x.commit.isSome || !s.scoresDone g.val then .next s
  else if p.taken.isEmpty && !(p.s.sagger g.val).live.any (fun q => !q.compFrames.isEmpty) then
    .next (p.s.reap g.val)
  else .next ((s.beginStep g.val p).touch g.val)

end Sys2Proof.Machine
end

