-- ==== Sys2Proof/Machine/Sample.lean ====
section
/-! DEFINITION. Drafting, sampling and verification (spec/08_serving_loop.md, R254 to R261). -/

namespace Sys2Proof.Machine

/-! ## Logits (R254, R255 steps 1 and 2) -/

/-- The value of a finite BF16 pattern. -/
def bf16Val (x : BitVec 16) : Dyad := (bf16 x.toNat).getD {}
/-- The V logits of a row, from its output blocks in order; padding elements are not read. -/
def State.logits (s : State) (vocab : Nat) (blocks : List (BitVec 32)) : List Dyad :=
  (blocks.flatMap fun a => s.blockValues a.toNat).take vocab
/-- The violation of a logit block. -/
def State.logitsBad (s : State) (blocks : List (BitVec 32)) : Option Nat := blocks.findSome? fun a => s.blockViol a.toNat
/-- The penalty of token `t` with a penalty window. -/
def Submit.penalty (q : Submit) (window : List Nat) (t : Nat) : Dyad :=
  let c := window.count t
  if c = 0 then {} else (bf16Val q.presPen).add ((bf16Val q.freqPen).mul { m := c })
/-- The bias of token `t`. -/
def Submit.biasOf (q : Submit) (t : Nat) : Dyad := ((q.bias.find? fun b => b.1 == t).map fun b => bf16Val b.2).getD {}
/-- Logits after penalties and bias, each with its token. -/
def Submit.adjust (q : Submit) (window : List Nat) (zs : List Dyad) : List (Nat × Dyad) :=
  (List.range zs.length).map fun t =>
    (t, ((zs.getD t {}).add ((q.penalty window t).mul { m := -1 })).add (q.biasOf t))

/-! ## Candidates (R255 steps 3 to 5) -/

/-- The first candidate ranks before the second: larger value, ties to the lower identifier. -/
def ranks (a b : Nat × Dyad) : Bool := b.2.lt a.2 || (!a.2.lt b.2 && a.1 < b.1)
/-- Insert a candidate in rank order. -/
def insertRank (a : Nat × Dyad) : List (Nat × Dyad) → List (Nat × Dyad)
  | [] => [a]
  | b :: r => if ranks a b then a :: b :: r else b :: insertRank a r
/-- Candidates in rank order. -/
def rankAll (l : List (Nat × Dyad)) : List (Nat × Dyad) := l.foldr insertRank []
/-- The candidate that ranks first. -/
def rankFirst : List (Nat × Dyad) → Option (Nat × Dyad)
  | [] => none
  | a :: r => match rankFirst r with
    | none => some a
    | some b => if ranks a b then some a else some b

/-- log2 e with 64 fractional bits. -/
def log2e : Nat := 26613026195688644983
/-- a − b in units of the temperature, in log2, with `f` fractional bits, rounded down. -/
def logGap (f : Nat) (a b temp : Dyad) : Int :=
  let d := a.add (b.mul { m := -1 })
  let e := d.e - temp.e + f - 64
  if e ≥ 0 then d.m * log2e * 2 ^ e.toNat / temp.m else d.m * log2e / (temp.m * 2 ^ (-e).toNat)
/-- The candidates of step 4 in rank order: x ≥ max(x) − 24 ln 2. -/
def candidatesOf (zs : List (Nat × Dyad)) (temp : Dyad) : List (Nat × Dyad) :=
  match rankFirst zs with
  | none => []
  | some m => rankAll (zs.filter fun z => logGap 64 m.2 z.2 temp ≤ 24 * 2 ^ 64)

/-! ## Probabilities and the draw (R255 steps 6 and 7) -/

/-- Weights 2^((x − max) log2 e) of candidates in rank order, with 64 fractional bits. -/
def weights (cs : List (Nat × Dyad)) (temp : Dyad) : List Nat :=
  match cs with
  | [] => []
  | m :: _ => cs.map fun z => ((exp2Fix 24 (-(logGap 24 m.2 z.2 temp))).round (-64)).toNat
/-- The number of leading weights whose sum reaches `need` / 65,536 of the total. -/
def nucleus (need total : Nat) : Nat → List Nat → Nat
  | _, [] => 0
  | acc, w :: r => if (acc + w) * 65536 ≥ need * total then 1 else 1 + nucleus need total (acc + w) r
/-- The place of the first weight whose cumulative probability, in 32-bit fixed point, exceeds `u`. -/
def drawPlace (u total : Nat) : Nat → List Nat → Nat
  | _, [] => 0
  | acc, w :: r => if (acc + w) * 2 ^ 32 / total > u then 0 else 1 + drawPlace u total (acc + w) r

/-- What sampling one row gives: the token, its LOGP, the candidates sorted, and whether step 4 found more than 4,096. -/
structure Sampled where
  token  : Nat := 0
  logp   : BitVec 16 := 0
  sorted : Nat := 0
  trunc  : Bool := false
  deriving DecidableEq, Repr

/-- log2 of w / total with 8 fractional bits (R236, R255). -/
def logpOf (w total : Nat) : BitVec 16 :=
  BitVec.ofInt 16 (((Dyad.log2 8 { m := ((w * 2 ^ 80 / total : Nat) : Int), e := -80 })).getD (-32768))

/-- Sample one row (R255): greedy at TEMP = 0, else by the draw `u`. -/
def Submit.sample (q : Submit) (window : List Nat) (zs : List Dyad) (u : Nat) : Sampled :=
  let adj := q.adjust window zs
  if q.temp = 0 then { token := ((rankFirst adj).map (·.1)).getD 0 }
  else
    let temp := bf16Val q.temp
    let all := candidatesOf adj temp
    let kept := (all.take 4096).take (if q.topK = 0 then 4096 else q.topK)
    let ws := weights kept temp
    let n := if q.topP = 0 then ws.length else nucleus q.topP (ws.foldl (· + ·) 0) 0 ws
    let ws := ws.take n
    let total := ws.foldl (· + ·) 0
    let k := drawPlace u total 0 ws
    { token := ((kept[k]?).map (·.1)).getD 0, logp := if q.logprob then logpOf (ws.getD k 0) total else 0
      sorted := kept.length, trunc := all.length > 4096 }

/-- Beats of one row (R257). -/
def sampleBeats (greedy : Bool) (vocab sorted : Nat) : Nat :=
  (if greedy then 1 else 2) * ((vocab + 63) / 64) + 64 + (sorted + 15) / 16

/-! ## End conditions (R258) -/

/-- The reason that token `t` with output index `k` ends its request, when NEXT_POS becomes `pos`. -/
def Req.endReason (q : Req) (i : ImageInfo) (t k pos : Nat) : Option Nat :=
  if q.sub.stops.contains t || i.endToken == some t then some 0
  else if k + 1 = q.sub.maxNew then some 1
  else if pos = i.maxPos then some 2
  else none

/-! ## The verify walk (R260) -/

/-- The sample of a row. -/
def Req.sampleOf (q : Req) (n : Nat) : Option (Nat × BitVec 16) := (q.samples.find? fun x => x.1 == n).map (·.2)
/-- The child of a node whose token is `t`. -/
def Req.childOf (q : Req) (n t : Nat) : Option Nat :=
  ((List.range q.tree.length).filter fun k => k != 0).find? fun k =>
    let c := q.tree.getD k { token := 0, parent := 0, depth := 0 }
    c.parent == n && c.token == t

/-- State of the walk: the accepted path, the tokens with LOGP, and the node still to be sampled. -/
structure Walk where
  path : List Nat := [0]
  out  : List (Nat × BitVec 16) := []
  next : Option Nat := some 0
  deriving DecidableEq, Repr

/-- The walk over the samples taken so far; NEXT_POS before the step is `pos0`. -/
def Req.walk (q : Req) (i : ImageInfo) (pos0 : Nat) : Nat → Walk → Walk
  | 0, w => { w with next := none }
  | fuel + 1, w =>
    match w.next with
    | none => w
    | some n => match q.sampleOf n with
      | none => w
      | some (t, lp) =>
        let out := w.out ++ [(t, lp)]
        if (q.endReason i t (q.out.length + w.out.length) (pos0 + w.path.length)).isSome then { w with out := out, next := none }
        else match q.childOf n t with
          | none => { w with out := out, next := none }
          | some c => q.walk i pos0 fuel { path := w.path ++ [c], out := out, next := some c }
/-- The walk of a request in the running step. -/
def State.walkOf (s : State) (g : Nat) (q : Req) : Walk :=
  q.walk (s.imageOfSlot g q.slot) (s.nextPos g q.slot) 65 {}

/-- The penalty window with further newest tokens; it stays PEN_WIN long (R255). -/
def Req.windowWith (q : Req) (ts : List Nat) : List Nat :=
  let w := q.window ++ ts
  w.drop (w.length - q.sub.penWin)

/-! ## The commands -/

/-- The row's step gives the request a token: a decode row, or the last prompt row. -/
def State.givesToken (s : State) (g : Nat) (q : Req) : Bool :=
  q.rows != 0 && (q.st == .decode || (q.st == .prefill && s.nextPos g q.slot + q.rows == q.sub.prompt.length))

/-- The request of a target slot that has rows in the running step and neither failed nor was cancelled. -/
def State.running (s : State) (g slot : Nat) : Option Req :=
  ((s.sagger g).live.find? fun q => q.slot == slot).filter fun q =>
    (s.sagger g).phase == .running && q.failed.isNone && !q.masked && q.st != .ended && (s.raggedOf g slot).isSome

/-- The unit that samples a row: the die of the wheel that holds block 0 of its logits (R254). -/
def samplingDie (blocks : List (BitVec 32)) : Nat := dieOfWheel (slabWheel ((blocks.head?).getD 0).toNat)

/-- Nodes of the deepest level of a tree. -/
def lastLevel (t : List TreeNode) : List Nat :=
  let d := (t.map (·.depth)).foldl max 0
  (List.range t.length).filter fun k => (t.getD k { token := 0, parent := 0, depth := 0 }).depth == d

/-- The children of one node: the BRANCH tokens with the largest draft logits (R259). -/
def State.childrenOf (s : State) (q : Req) (vocab node depth : Nat) (blocks : List (BitVec 32)) : List TreeNode :=
  ((rankAll (q.sub.adjust q.window (s.logits vocab blocks))).take q.sub.branch).map fun z =>
    { token := z.1, parent := node, depth := depth }

/-- The tree with the next level under its deepest nodes, at most `n` nodes. -/
def State.growTree (s : State) (q : Req) (vocab n : Nat) (blocks : List (List (BitVec 32))) : List TreeNode :=
  let lvl := lastLevel q.tree
  let d := (q.tree.map (·.depth)).foldl max 0 + 1
  (q.tree ++ (List.range lvl.length).flatMap fun k => s.childrenOf q vocab (lvl.getD k 0) d (blocks.getD k [])).take n

/-- A tree that breaks R194. -/
def treeBad (t : List TreeNode) (pos0 maxPos : Nat) : Bool :=
  t.length > 64 || (List.range t.length).any fun k =>
    let n := t.getD k { token := 0, parent := 0, depth := 0 }
    (if k = 0 then n.depth != 0
     else n.parent ≥ k || n.depth != (t.getD n.parent { token := 0, parent := 0, depth := 0 }).depth + 1) ||
      n.depth > 15 || pos0 + n.depth ≥ maxPos

/-- DRAFT_PASS (R259, R262): one level is added to the tree of the request in target slot `slot`; `blocks` holds the draft
logit blocks of each node of the deepest level. -/
def execDraftPass (g : SaggerIx) (slot : BitVec 16) (blocks : List (List (BitVec 32))) (s : State) :
    Host.Outcome State Fault Refusal :=
  match s.running g.val slot.toNat with
  | none => .next s
  | some q =>
    let i := s.imageOfSlot g.val slot.toNat
    let t := s.growTree q i.vocab q.rows blocks
    if q.st != .decode || q.draftSlot.isNone || q.tree.length ≥ q.rows || blocks.length != (lastLevel q.tree).length then .next s
    else match blocks.findSome? s.logitsBad with
      | some d => .next ((s.failSlot 5 d g.val (samplingDie (blocks.headD [])) slot.toNat).bump .sgrFmtViol g.val 1)
      | none =>
        if treeBad t (s.nextPos g.val slot.toNat) i.maxPos then .next (s.failSlot 6 0x76 g.val g.val slot.toNat)
        else .next ((s.onSlot g.val slot.toNat fun r => { r with tree := t }).touch g.val)

/-- Count one sampled row (R257, R274). -/
def State.countSample (s : State) (d vocab : Nat) (greedy : Bool) (r : Sampled) : State :=
  (((s.bump .smpRows d 1).bump .smpBeats d (sampleBeats greedy vocab r.sorted)).bump .smpGreedy d (Bool.num greedy)).bump
    .smpTrunc d (Bool.num r.trunc)

/-- SAMPLE_ROW (R254, R255, R260): the row of tree node `node`, or node 0 for a row without a tree, from its logit
blocks.  A tree's rows are sampled as the verify walk reaches them. -/
def execSampleRow (g : SaggerIx) (slot : BitVec 16) (node : BitVec 6) (blocks : List (BitVec 32)) (s : State) :
    Host.Outcome State Fault Refusal :=
  match s.running g.val slot.toNat with
  | none => .next s
  | some q =>
    let i := s.imageOfSlot g.val slot.toNat
    let w := s.walkOf g.val q
    let greedy := q.sub.temp == 0
    let r := q.sub.sample (q.windowWith (w.out.map (·.1))) (s.logits i.vocab blocks)
      (Config.generator q.key q.draws).toNat
    if !s.givesToken g.val q || w.next != some node.toNat || (q.st == .decode && q.tree.length != q.rows) ||
        blocks.length != (i.vocab + 1023) / 1024 then .next s
    else match s.logitsBad blocks with
      | some d => .next ((s.failSlot 5 d g.val (samplingDie blocks) slot.toNat).bump .sgrFmtViol g.val 1)
      | none => .next (((s.onSlot g.val slot.toNat fun q =>
          { q with samples := q.samples ++ [(node.toNat, r.token, r.logp)], draws := q.draws + (if greedy then 0 else 1) }).countSample
            (samplingDie blocks) i.vocab greedy r).touch g.val)

/-- Copies of R195 for a path: a_i to i where they differ. -/
def pathCopies (path : List Nat) : List (Nat × Nat) :=
  ((List.range path.length).map fun i => (path.getD i 0, i)).filter fun c => c.1 != c.2

/-- VERIFY_TREE (R260, R261): the walk has ended; the path is fixed and its copies are due. -/
def execVerifyTree (g : SaggerIx) (slot : BitVec 16) (s : State) : Host.Outcome State Fault Refusal :=
  match s.running g.val slot.toNat with
  | none => .next s
  | some q =>
    let w := s.walkOf g.val q
    s.when (q.st == .decode && 1 < q.rows && q.path.isNone && w.next.isNone && !w.out.isEmpty)
      ((((s.onSlot g.val slot.toNat fun q => { q with path := some w.path, copies := pathCopies w.path }).bump .sgrSpecNodes g.val
        q.tree.length).bump .sgrSpecAccept g.val (w.path.length - 1)).touch g.val)

end Sys2Proof.Machine
end

