-- ==== Sys2Proof/Machine/GlazeCodec.lean ====
section
/-! DEFINITION. The glaze codec: stream headers, index tables, block payloads, expansion and compression
(spec/10_glaze_compression.md, R317 to R323). -/

namespace Sys2Proof.Machine

/-- Expanded bytes of a full block. -/
def blkBytes : Nat := 4096
/-- Length rounded up to a multiple of 16. -/
def up16 (n : Nat) : Nat := (n + 15) / 16 * 16

/-! ## Header and index (R317 to R320) -/

/-- A stream header's fields (R317). -/
structure GlazeHdr where
  kind    : Nat := 0
  vmaj    : Nat := 1
  vmin    : Nat := 0
  nblk    : Nat := 0
  bodyLen : Nat := 0
  expLen  : Nat := 0
  ctxA    : Nat := 0
  ctxB    : Nat := 0
  /-- a reserved field is non-zero -/
  resv    : Bool := false
  deriving DecidableEq, Repr

/-- The header that 32 bytes spell. -/
def glazeHdrOf (bs : List Byte) : GlazeHdr :=
  { kind := bfield bs 0 8, vmaj := bfield bs 8 4, vmin := bfield bs 12 4, nblk := bfield bs 32 17, bodyLen := bfield bs 64 32,
    expLen := bfield bs 96 32, ctxA := bfield bs 128 32, ctxB := bfield bs 160 32,
    resv := bfield bs 16 16 != 0 || bfield bs 49 15 != 0 || (bs.drop 24).any (· != 0) }
/-- The 32 bytes of a header of version 1.0. -/
def GlazeHdr.bytes (h : GlazeHdr) : List Byte :=
  leBytes (h.kind + 2 ^ 8 * h.vmaj + 2 ^ 12 * h.vmin) 4 ++ leBytes h.nblk 4 ++ leBytes h.bodyLen 4 ++ leBytes h.expLen 4 ++
    leBytes h.ctxA 4 ++ leBytes h.ctxB 4 ++ zeros 8

/-- The index entry that 16 bytes spell (R319). -/
def glazeEntryOf (bs : List Byte) : GlazeEntry :=
  { offset := bfield bs 0 24, mode := bfield bs 24 2, short := bfield bs 26 1 == 1, payLen := bfield bs 32 13,
    blkLen := bfield bs 48 13, crc := BitVec.ofNat 32 (bfield bs 64 32) }
/-- A reserved field of an entry is non-zero. -/
def entryResv (bs : List Byte) : Bool := bfield bs 27 5 != 0 || bfield bs 45 3 != 0 || bfield bs 61 3 != 0 || bfield bs 96 32 != 0
/-- The 16 bytes of an entry. -/
def GlazeEntry.bytes (e : GlazeEntry) : List Byte :=
  leBytes (e.offset + 2 ^ 24 * e.mode + 2 ^ 26 * (if e.short then 1 else 0)) 4 ++ leBytes (e.payLen + 2 ^ 16 * e.blkLen) 4 ++
    leBytes e.crc.toNat 4 ++ zeros 4
/-- The index table that bytes spell. -/
def glazeTable (n : Nat) (bs : List Byte) : List GlazeEntry :=
  (List.range n).map fun k => glazeEntryOf ((bs.drop (16 * k)).take 16)

/-- Bytes of a payload with its padding. -/
def GlazeEntry.padded (e : GlazeEntry) : Nat := up16 e.payLen
/-- One entry is legal, whether it is the last or not (R320). -/
def GlazeEntry.legal (e : GlazeEntry) (last : Bool) : Bool :=
  (match e.mode with
   | 0 => e.payLen == e.blkLen
   | 1 => 1 ≤ e.payLen && e.payLen ≤ 4096
   | 2 => e.payLen == 0
   | _ => false) &&
  ((e.blkLen == 4096 && !e.short) || (last && 1 ≤ e.blkLen && e.blkLen ≤ 4095 && e.short))
/-- The offsets follow one another from `at_`. -/
def offsetsOk : Nat → List GlazeEntry → Bool
  | _, [] => true
  | a, e :: r => e.offset == a && offsetsOk (a + e.padded / 16) r
/-- Bytes of the block area. -/
def bodyBytes (es : List GlazeEntry) : Nat := es.foldl (fun n e => n + e.padded) 0
/-- Expanded bytes. -/
def expBytes (es : List GlazeEntry) : Nat := es.foldl (fun n e => n + e.blkLen) 0

/-- A header and index pass R320 for the transfer that is expected. -/
def streamOk (kind ctxA ctxB room : Nat) (hdr index : List Byte) : Bool :=
  let h := glazeHdrOf hdr
  let es := glazeTable h.nblk index
  hdr.length == 32 && index.length == 16 * h.nblk && h.kind == kind && h.vmaj == 1 && h.vmin == 0 && h.ctxA == ctxA &&
    h.ctxB == ctxB && !h.resv && 1 ≤ h.nblk && h.nblk ≤ 65536 &&
    ((List.range h.nblk).all fun k => !entryResv ((index.drop (16 * k)).take 16)) && offsetsOk 0 es &&
    h.bodyLen == bodyBytes es && ((List.range h.nblk).all fun k => (es[k]?).any fun e => e.legal (k + 1 == h.nblk)) &&
    h.expLen == expBytes es && h.expLen ≤ room

/-! ## Expansion (R321, R322) -/

/-- Copy `n` bytes, one at a time, from `dist` before the end; the output is kept last byte first. -/
def repeatBytes (dist : Nat) : Nat → List Byte → List Byte
  | 0, out => out
  | n + 1, out => repeatBytes dist n (out.getD (dist - 1) 0 :: out)

/-- Expand tokens: `out` holds the output last byte first and `len` its length.  None for a damaged block. -/
def expandTokens (blkLen : Nat) : Nat → List Byte → Nat → List Byte → Option (List Byte)
  | _, [], len, out => if len = blkLen then some out.reverse else none
  | 0, _ :: _, _, _ => none
  | fuel + 1, c :: bs, len, out =>
    let n := c.toNat % 64
    let go (used grow : Nat) (out' : List Byte) : Option (List Byte) :=
      if bs.length < used ∨ len + grow > blkLen then none else expandTokens blkLen fuel (bs.drop used) (len + grow) out'
    match c.toNat / 64 with
    | 0 => go (n + 1) (n + 1) ((bs.take (n + 1)).reverse ++ out)
    | 1 => go 0 (4 * (n + 1)) (zeros (4 * (n + 1)) ++ out)
    | 2 =>
      let d := bfield bs 0 12 + 1
      if bfield bs 12 4 ≠ 0 ∨ d > len then none else go 2 (n + 4) (repeatBytes d (n + 4) out)
    | _ => go 4 (4 * (n + 1)) ((List.replicate (n + 1) (bs.take 4).reverse).flatten ++ out)

/-- Expand one block against its index entry; none when it is damaged. -/
def expandBlock (e : GlazeEntry) (payload : List Byte) : Option (List Byte) :=
  let body := payload.take e.payLen
  let out := if body.length ≠ e.payLen ∨ (payload.drop e.payLen).any (· != 0) then none
    else match e.mode with
      | 0 => some body
      | 1 => expandTokens e.blkLen e.payLen body 0 []
      | _ => some (zeros e.blkLen)
  out.filter fun bs => crc32c bs == e.crc && bs.length == e.blkLen

/-! ## Compression (R323)

The spec leaves the tokens of a TOKEN block to the compressor: this one emits literals and zero runs. -/

/-- Leading zero bytes, at most `fuel`. -/
def zeroLead : Nat → List Byte → Nat
  | 0, _ => 0
  | fuel + 1, b :: r => if b = 0 then 1 + zeroLead fuel r else 0
  | _, [] => 0
/-- Bytes before the next run of at least four zero bytes, at most `fuel`. -/
def literalLead : Nat → List Byte → Nat
  | 0, _ => 0
  | _, [] => 0
  | fuel + 1, b :: r => if zeroLead 4 (b :: r) = 4 then 0 else 1 + literalLead fuel r
/-- The token form of a block. -/
def tokenForm : Nat → List Byte → List Byte
  | 0, _ => []
  | _, [] => []
  | fuel + 1, b :: r =>
    let z := zeroLead 256 (b :: r) / 4
    if z ≠ 0 then BitVec.ofNat 8 (64 + (z - 1)) :: tokenForm fuel ((b :: r).drop (4 * z))
    else
      let n := literalLead 64 (b :: r)
      BitVec.ofNat 8 (n - 1) :: ((b :: r).take n ++ tokenForm fuel ((b :: r).drop n))

/-- The index entry and the padded payload of one block whose payload starts at `offset`. -/
def compressBlock (offset : Nat) (bs : List Byte) : GlazeEntry × List Byte :=
  let tok := tokenForm bs.length bs
  let (mode, pay) := if bs.all (· == 0) then (2, []) else if tok.length ≤ 3840 then (1, tok) else (0, bs)
  ({ offset := offset, mode := mode, short := bs.length < 4096, payLen := pay.length, blkLen := bs.length, crc := crc32c bs },
    padTo (up16 pay.length) pay)

/-- Header of a stream that has been compressed. -/
def OutStream.header (o : OutStream) : List Byte :=
  let es := o.blocks.map (·.1)
  ({ kind := o.kind, nblk := es.length, bodyLen := bodyBytes es, expLen := expBytes es, ctxA := o.ctxA, ctxB := o.ctxB } :
    GlazeHdr).bytes
/-- Index table of a stream. -/
def OutStream.index (o : OutStream) : List Byte := o.blocks.flatMap fun b => b.1.bytes
/-- Blocks of a stream. -/
def OutStream.count (o : OutStream) : Nat := (o.len + 4095) / 4096
/-- Every block has been compressed. -/
def OutStream.ready (o : OutStream) : Bool := o.blocks.length == o.count

end Sys2Proof.Machine
end

