-- ==== Sys2Proof/Machine/Swap.lean ====
section
/-! DEFINITION. Pages in the host window: units, swap-out and swap-in (spec/08_serving_loop.md, R263, R267 to R269; R324,
R399). -/

namespace Sys2Proof.Machine

/-! ## The window (R263, R324, R399) -/

/-- A channel is open. -/
def State.chanOpen (s : State) (c : Nat) : Bool :=
  match (s.chan c).st with
  | .open | .rotating | .openPlain => true
  | _ => false
/-- Link of a sagger's swap traffic: that of its lowest-numbered open channel (R388). -/
def State.swapLink (s : State) (g : Nat) : Option Nat :=
  (((List.range 64).find? fun c => s.saggerOfChan c == some g && s.chanOpen c)).map s.linkOfChan
/-- Units of a sagger's swap range: 0 when the range does not fit the window of its link. -/
def State.swapUnits (s : State) (g : Nat) : Nat :=
  let p := s.planSagger g
  match s.swapLink g with
  | none => 0
  | some k => if (p.swapOff + p.swapSize) * 2 ^ 20 ≤ (s.link k).window * 2 ^ 30 then p.swapSize * 2 ^ 20 / 132096 else 0
/-- Window offset of a unit. -/
def State.unitOff (s : State) (g u : Nat) : Nat := (s.planSagger g).swapOff * 2 ^ 20 + u * 131072
/-- Window offset of a unit's directory slot. -/
def State.dirOff (s : State) (g u : Nat) : Nat :=
  (s.planSagger g).swapOff * 2 ^ 20 + (s.planSagger g).swapSize * 2 ^ 20 / 132096 * 131072 + u * 1024
/-- The lowest free units, `n` of them when there are so many. -/
def State.freeUnits (s : State) (g n : Nat) : List Nat :=
  ((List.range (s.swapUnits g)).filter fun u => !(s.sagger g).winUnits.contains u).take n

/-- Slot and layer of a unit's layer key: layers of the draft slot count from 256. -/
def Req.unitSlot (q : Req) (key : Nat) : Nat := if key ≥ 256 then q.draftSlot.getD 0 else q.slot
/-- Exclusive pages of a request with layer key, page and frame, in layer order, then page order. -/
def State.swapPages (s : State) (g : Nat) (q : Req) : List (Nat × Nat × Nat) :=
  s.exclusivePages g q.slot ++
    (q.draftSlot.toList.flatMap fun d => (s.exclusivePages g d).map fun p => (p.1 + 256, p.2))

/-- The byte ranges of a page at and beyond its FILL (R323). -/
def ImageInfo.emptyRanges (i : ImageInfo) (fill : Nat) : List (Nat × Nat) :=
  (List.range (2 * i.hKv)).map fun r => ((r * i.ppp + fill) * i.vb, (i.ppp - fill) * i.vb)

/-- A stream number that no stream of this module uses. -/
def State.newSid (s : State) : Nat × State := (s.lat.nextXid, s.onLat fun l => { l with nextXid := l.nextXid + 1 })

/-- Queue an outgoing stream: its blocks go to the compressor of the die that holds the source (R316). -/
def State.startOut (s : State) (o : OutStream) : State :=
  (s.onLat fun l => { l with outs := l.outs ++ [o] }).onGlaze (dieOfAddr o.src) fun e =>
    { e with cmpQ := e.cmpQ ++ (List.range o.count).map fun k => (o.sid, k) }

/-- Context words of a page (R318). -/
def pageCtxA (slot layer : Nat) : Nat := slot % 65536 + 65536 * (layer % 256)

/-- Queue the stream of one page of a victim. -/
def State.pageOut (s : State) (g : Nat) (q : Req) (key page frame : Nat) : State :=
  let slot := q.unitSlot key
  let (sid, s1) := s.newSid
  s1.startOut { sid := sid, peer := .host q.chan, kind := 1, sagger := g, ctxA := pageCtxA slot (key % 256), ctxB := page,
                src := frame * frameBytes, len := frameBytes
                zeros := (s.imageOfSlot g slot).emptyRanges (s.pte g slot (key % 256) page).fill }

/-! ## Swap-out (R267, R269) -/

/-- A victim leaves planning: one unit for each exclusive page, and its pages go to the window; answers false when units
are short, which ends the request (R269). -/
def State.swapOut (s : State) (g : Nat) (q : Req) : Bool × State :=
  let pages := s.swapPages g q
  let us := s.freeUnits g pages.length
  if us.length < pages.length then (false, s)
  else
    let units := (List.range pages.length).map fun k =>
      let p := pages.getD k (0, 0, 0)
      (p.1, p.2.1, us.getD k 0)
    let s1 := (s.onSagger g fun x => { x with winUnits := us.foldl addSorted x.winUnits }).onReq g q fun r =>
      { r with st := .swapped, before := r.st, swapAt := s.now, units := units, victim := true, held := false }
    let s2 := pages.foldl (fun s p => s.pageOut g q p.1 p.2.1 p.2.2) s1
    (true, if pages.isEmpty then q.slots.foldl (fun s t => s.putSeq g t 0 2 1 1) s2 else s2)

/-- The stream that carries a page of a request. -/
def State.outOf (s : State) (g : Nat) (q : Req) (key page : Nat) : Option OutStream :=
  s.lat.outs.find? fun o => o.kind == 1 && o.sagger == g && o.ctxA == pageCtxA (q.unitSlot key) (key % 256) && o.ctxB == page
/-- Messages of a page's stream: the blocks that hold payload, each at its offset in the unit, then the directory slot. -/
def OutStream.hostParts (o : OutStream) : List (Nat × Nat × List Byte) :=
  ((List.range o.blocks.length).filterMap fun k =>
    (o.blocks[k]?).bind fun b => if b.2.isEmpty then none else some (k, b.1.offset * 16, b.2)) ++
    [(32, 0, padTo 1024 (o.header ++ o.index))]
/-- Every message of the page has been sent and answered. -/
def State.pageIsOut (s : State) (g : Nat) (q : Req) (key page : Nat) : Bool :=
  match s.outOf g q key page with
  | none => false
  | some o => o.ready && o.sent == o.hostParts.length &&
      !s.swaps.any fun r => r.write && r.chan == q.chan && r.reqId == q.sub.reqId && r.layer == key && r.page == page

/-- The live request of a slot that is swapped. -/
def State.swapped (s : State) (g slot : Nat) : Option Req :=
  (s.sagger g).live.find? fun q => q.slot == slot && q.st == .swapped && q.failed.isNone

/-- A page has left: its entry names the unit and its frame is freed; after the last page the records take SWAPPED. -/
def State.finishPageOut (s : State) (g : Nat) (q : Req) (key page unit : Nat) : State :=
  let slot := q.unitSlot key
  let e := s.pte g slot (key % 256) page
  let s1 := ((s.dropFrame g e.frame).putPte g slot (key % 256) page { e with swapped := true, frame := unit }).onLat fun l =>
    { l with outs := l.outs.filter fun o => !(o.kind == 1 && o.sagger == g && o.ctxA == pageCtxA slot (key % 256) && o.ctxB == page) }
  if (s1.swapPages g q).isEmpty then q.slots.foldl (fun s t => s.putSeq g t 0 2 1 1) s1 else s1

/-- SWAP_OUT_PAGE (R267): the first page of the slot's request whose last write has completed. -/
def execSwapOutPage (g : SaggerIx) (slot : BitVec 16) (s : State) : Host.Outcome State Fault Refusal :=
  match s.swapped g.val slot.toNat with
  | none => .next s
  | some q => match q.units.find? fun u => s.pageIsOut g.val q u.1 u.2.1 with
    | none => .next s
    | some u => .next ((s.finishPageOut g.val q u.1 u.2.1 u.2.2).touch g.val)

/-! ## Swap-in (R268) -/

/-- Swap-in candidates: wholly swapped out and not under way, by CLASS, then by earliest swap-out. -/
def State.swapInOrder (s : State) (g : Nat) : List Req :=
  (s.sagger g).live.filter fun q =>
    q.st == .swapped && q.failed.isNone && q.landing.isEmpty && s.seqField g q.slot 0 2 1 == 1
/-- One candidate goes before another. -/
def swapsBefore (a b : Req) : Bool := a.sub.cls < b.sub.cls || (a.sub.cls == b.sub.cls && a.swapAt < b.swapAt)

/-- Queue the read of a unit's directory slot, and the stream that it opens. -/
def State.pageIn (s : State) (g : Nat) (q : Req) (key page unit frame : Nat) : State :=
  let (sid, s1) := s.newSid
  let a := frame * frameBytes
  let st : Stream := { sid := sid, peer := .host q.chan, kind := 1, sagger := g, ctxA := pageCtxA (q.unitSlot key) (key % 256),
                       ctxB := page, dst := a, dstLen := frameBytes }
  { s1.onLat fun l => { l with streams := l.streams ++ [st] } with
    swaps := s1.swaps ++ [{ tag := 0, link := s.linkOfChan q.chan, chan := q.chan, reqId := q.sub.reqId, kslot := 0, write := false,
                            off := s.dirOff g unit, bytes := 1024, data := [], layer := key, page := page, block := 32 }] }

/-- A page has landed: its entry is restored and its unit released; after the last page the sequence joins the next plan. -/
def State.landPage (s : State) (g : Nat) (q : Req) (key page : Nat) : State :=
  match q.units.find? fun u => u.1 == key && u.2.1 == page with
  | none => s
  | some u =>
    let slot := q.unitSlot key
    let f := ((q.landing.find? fun l => l.1 == u.2.2).map (·.2)).getD 0
    let e := s.pte g slot (key % 256) page
    let s1 := (s.putPte g slot (key % 256) page { e with swapped := false, frame := f }).onSagger g fun x =>
      { x with winUnits := x.winUnits.filter (· != u.2.2) }
    let left := q.landing.filter fun l => l.1 != u.2.2
    let s2 := s1.onReq g q fun r => { r with units := r.units.filter (· != u), landing := left }
    if left.isEmpty then
      (q.slots.foldl (fun s t => s.putSeq g t 0 2 1 0) s2).onReq g q fun r =>
        { r with st := r.before, landed := true, victim := false }
    else s2

/-- SWAP_IN (R268): the first candidate whose tenant's budget and the free frames allow it gets its frames, and the reads
of its pages are queued; a candidate without a swapped page joins at once. -/
def execSwapIn (g : SaggerIx) (slot : BitVec 16) (s : State) : Host.Outcome State Fault Refusal :=
  match (s.swapInOrder g.val).find? fun q => q.slot == slot.toNat with
  | none => .next s
  | some q =>
    let fits (r : Req) : Bool := match s.takeFrames g.val r.sub.tenant r.units.length with
      | .ok _ => true
      | .error _ => false
    match s.takeFrames g.val q.sub.tenant q.units.length with
    | .error _ => .next s
    | .ok (fs, s1) =>
      if (s.swapInOrder g.val).any fun r => swapsBefore r q && fits r then .next s
      else if q.units.isEmpty then
        .next (((q.slots.foldl (fun s t => s.putSeq g.val t 0 2 1 0) s1).onReq g.val q fun r =>
          { r with st := r.before, landed := true, victim := false }).touch g.val)
      else
        let s2 := s1.onReq g.val q fun r =>
          { r with landing := (List.range r.units.length).map fun k => ((r.units.getD k (0, 0, 0)).2.2, fs.getD k 0) }
        .next (((List.range q.units.length).foldl (fun s k =>
          let u := q.units.getD k (0, 0, 0)
          s.pageIn g.val q u.1 u.2.1 u.2.2 (fs.getD k 0)) s2).touch g.val)

/-! ## Failure (R269) -/

/-- A swap transfer of a request failed: its transfers stop, its units are released, and it gets a DONE with FAILED; its
frames are freed at the next fire point. -/
def State.failSwapAs (s : State) (block detail unit g : Nat) (q : Req) : State :=
  let s1 := (s.stopSwap g q).faultReq block detail g unit q.name
  (s1.onReq g q fun r => { r with st := .ended, before := r.st }).doneReq g q q.tag 8 (faultCode 2 block detail)
/-- The failure of R269. -/
def State.failSwap (s : State) (g : Nat) (q : Req) : State := s.failSwapAs 6 0x96 g g q

/-! ## Migration at its source (R371, R424) -/

/-- The live request of a migration, while it can still move. -/
def State.mover (s : State) (m : Migration) : Option Req :=
  (s.sagger m.sagger).live.find? fun q =>
    q.chan == m.chan && q.sub.reqId == m.reqId && q.moving && q.st == .decode && q.failed.isNone
/-- A migration ends without a commit: its streams are dropped, its request may be planned again, and the answer is
`status`. -/
def State.dropMove (s : State) (m : Migration) (status : Nat) : State :=
  let s1 := s.onLat fun l => { l with
    migrations := l.migrations.filter (· != m)
    outs := l.outs.filter fun o => !m.left.contains o.sid }
  (s1.onSagger m.sagger fun x => { x with live := x.live.map fun q =>
    if q.chan = m.chan ∧ q.sub.reqId = m.reqId then { q with moving := false } else q }).mgmtAnswer m.asker.1 0x52 m.asker.2 status []
/-- Queue the stream of one page of a migration, and note it. -/
def State.moveOut (s : State) (m : Migration) (q : Req) (key page frame : Nat) : State :=
  let slot := q.unitSlot key
  let (sid, s1) := s.newSid
  let s2 := s1.startOut { sid := sid, peer := .lattice m.dest, xid := sid, kind := 2, sagger := m.sagger, slice := m.slice,
                          ctxA := pageCtxA slot (key % 256), ctxB := page, src := frame * frameBytes, len := frameBytes
                          zeros := (s.imageOfSlot m.sagger slot).emptyRanges (s.pte m.sagger slot (key % 256) page).fill }
  s2.onLat fun l => { l with migrations := l.migrations.map fun x =>
    if x.chan = m.chan ∧ x.reqId = m.reqId ∧ x.sagger = m.sagger then { x with started := true, left := x.left ++ [sid] } else x }
/-- Start the migrations of a sagger whose requests are in no step; one whose request has ended or left DECODE, or has no page
to send (the commit of R371 ends the last page), is BUSY. -/
def State.startMoves (s : State) (g : Nat) : State :=
  (s.lat.migrations.filter fun m => m.sagger == g && !m.started).foldl (fun s m =>
    match s.mover m with
    | none => s.dropMove m 4
    | some q =>
      if s.inStep g q then s
      else if (s.swapPages g q).isEmpty then s.dropMove m 4
      else (s.swapPages g q).foldl (fun s p => s.moveOut m q p.1 p.2.1 p.2.2) s) s

end Sys2Proof.Machine
end

