-- ==== Sys2Proof/Machine/Fire.lean ====
section
/-! DEFINITION. The fire point of a step (spec/08_serving_loop.md, R243, R246 to R250, R264 to R266, R270; R170, R183,
R196, R201). -/

namespace Sys2Proof.Machine

/-! ## Step 1: what the fire point waits for -/

/-- A wheel holds nothing of the step: both buffers are FREE and no context is saved or restored. -/
def Wheel.quiet (w : Wheel) : Bool :=
  w.buf0.st == .free && w.buf1.st == .free && w.ctx.isNone && w.saving.isNone && !w.restoring
/-- An LDU holds nothing of sagger `g`. -/
def Ldu.quiet (l : Ldu) (g : Nat) : Bool :=
  (l.attnQ.all fun d => d.1 != g) && (l.tiles.all fun t => t.sagger != g) &&
    (match l.cur with
     | some (.desc h _) => h != g
     | some (.op h _) => h != g
     | none => true)
/-- The SSUs have run every stream of sagger `g` and written every complete key that the score stage takes. -/
def State.ssuQuiet (s : State) (g : Nat) : Bool :=
  (List.range 2).all fun d =>
    ((s.ssu d).jobs.all fun j => j.sagger != g) && (s.stageFull g || (s.ssu d).done.all fun k => k.sagger != g)
/-- The rows of a request have their samples, and a tree its path. -/
def State.sampled (s : State) (g : Nat) (q : Req) : Bool :=
  q.failed.isSome || q.masked || q.st == .ended || !s.givesToken g q ||
    ((s.walkOf g q).next.isNone && (q.rows ≤ 1 || q.path.isSome))

/-- Everything that step 1 waits for has ended (R270). -/
def State.fireReady (s : State) (g : Nat) : Bool :=
  let x := s.sagger g
  x.st == .serving && x.phase == .running && x.commit.isNone && x.list.prod == x.list.cons && x.listWait.isEmpty && x.ops.prod == x.ops.cons &&
    x.qOpen.isEmpty && x.router.layer.isNone && x.stageOrder.isEmpty && s.ssuQuiet g &&
    ((List.range 144).all fun w => !s.ownsWheel g w || (s.wheel w).quiet) &&
    ((List.range 12).all fun l => (s.ldu l).quiet g) &&
    (x.live.all fun q => (q.copies.isEmpty && q.compCopies.isEmpty) || q.masked) &&
    (x.live.all fun q => q.landing.isEmpty || q.st == .ended) && x.live.all (s.sampled g)

/-! ## Steps 2 and 3: the commit record -/

/-- What the fire point fixes for one ragged entry of a target slot: none when the request failed or was cancelled. -/
def State.fixSeq (s : State) (g : Nat) (e : Ragged) : Option CommitSeq :=
  ((s.sagger g).live.find? fun q => q.slot == e.slot).bind fun q =>
    if e.draft || q.failed.isSome || q.masked || q.st == .ended then none
    else
      let w := s.walkOf g q
      let toks := if s.givesToken g q then w.out else []
      let k := if e.tree then w.path.length else e.new
      some { chan := q.chan, reqId := q.sub.reqId, slot := e.slot, tokens := toks, fired := e.fired + k, nextPos := e.pos0 + k }

/-- The commit record of step 3. -/
def State.commitOf (s : State) (g : Nat) : Commit :=
  { step := (s.sagger g).stepNum, fireTime := s.now, seqs := (s.sagger g).ragged.filterMap (s.fixSeq g) }

/-! ## Step 4: apply -/

/-- The live request of a commit entry. -/
def State.reqOfSeq (s : State) (g : Nat) (c : CommitSeq) : Option Req :=
  (s.sagger g).live.find? fun q => q.chan == c.chan && q.sub.reqId == c.reqId

/-- Slots from `fired` up become FREE in one layer's page: FILL falls, and a page left with none is freed (R183, R184). -/
def State.trimPage (s : State) (g slot layer page fired : Nat) : State :=
  let i := s.imageOfSlot g slot
  let e := s.pte g slot layer page
  if !e.valid || e.shared || e.swapped || fired ≥ page * i.ppp + i.ppp then s
  else if fired ≤ page * i.ppp then (s.dropFrame g e.frame).putPte g slot layer page {}
  else s.putPte g slot layer page { e with fill := min e.fill (fired - page * i.ppp) }
/-- Slots from `fired` up become FREE. -/
def State.trimSlots (s : State) (g slot fired : Nat) : State :=
  let i := s.imageOfSlot g slot
  (List.range i.attnLayers).foldl (fun s l =>
    (List.range (s.ptPages g slot)).foldl (fun s p => s.trimPage g slot l p fired) s) s
/-- Fire a slot's rows: slot states, FIRED_SLOTS, NEXT_POS and LAST_STEP. -/
def State.fireSlot (s : State) (g slot fired pos step : Nat) : State :=
  (((s.trimSlots g slot fired).putSeq g slot 8 0 23 fired).putSeq g slot 12 0 23 pos).putSeq g slot 36 0 32 (step % 2 ^ 32)

/-- Draft rows that fire: all of a prefill's; in decode the row left by the last step and the path nodes that have draft
KV (R259, R261). -/
def Req.draftFires (q : Req) (e : Ragged) (path : List Nat) : Nat :=
  if q.st = .decode then q.draftExtra + (path.filter q.draftHas).length else e.new
/-- The token of a deepest path node without draft KV. -/
def Req.draftLeft (q : Req) (path : List Nat) : Option Nat :=
  (path.getLast?).bind fun n =>
    if q.st = .decode ∧ !q.draftHas n then some ((q.tree.getD n { token := 0, parent := 0, depth := 0 }).token) else none

/-- The request after its rows fired (R239, R254). -/
def Req.after (q : Req) (c : CommitSeq) (fireTime : Nat) (left : Option Nat) : Req :=
  let ts := c.tokens.map (·.1)
  { q with
    st := if ts.isEmpty then q.st else .decode
    out := ts.reverse ++ q.out, window := q.windowWith ts
    fire0 := if q.out.isEmpty ∧ !ts.isEmpty then fireTime else q.fire0
    promptDone := min c.nextPos q.sub.prompt.length - q.prefix_
    draftRow := left, landed := false, held := false }

/-- Apply one entry of the commit record: the sequence, its draft slot and the request. -/
def State.applySeq (s : State) (g : Nat) (k : Commit) (c : CommitSeq) : State :=
  match s.reqOfSeq g c with
  | none => s
  | some q =>
    let path := q.path.getD [0]
    let s1 := s.fireSlot g c.slot c.fired c.nextPos k.step
    let s2 := match q.draftSlot with
      | none => s1
      | some d => match s.raggedOf g d with
        | none => s1
        | some e => s1.fireSlot g d (e.fired + q.draftFires e path) (e.pos0 + q.draftFires e path) k.step
    s2.onReq g q fun r => r.after c k.fireTime (if q.draftSlot.isSome then q.draftLeft path else none)

/-- Publishes of one request, its draft slot's under the draft image's index (R201). -/
def State.publishReq (s : State) (g : Nat) (c : CommitSeq) : State :=
  match s.reqOfSeq g c with
  | none => s
  | some q =>
    let (chain, s1) := s.publishSlot g q.slot q.sub.model q q.chain
    let (dchain, s2) := match q.draftSlot with
      | some d => s1.publishSlot g d q.sub.draft q q.draftChain
      | none => (q.draftChain, s1)
    s2.onReq g q fun r => { r with chain := chain, draftChain := dchain }

/-- Page-table entry of a new page of a compaction: its first position and whether its positions are consecutive (R196). -/
def Req.compEntry (q : Req) (i : ImageInfo) (layer page frame : Nat) : Pte :=
  let ps := (q.compSides.filter fun w => w.1 == layer && w.2.1 / i.ppp == page).map fun w => nbits w.2.2 0 23
  let p0 := ps.headD 0
  { frame := frame, valid := true, pmap := (List.range ps.length).any (fun k => ps.getD k 0 != p0 + k), basePos := p0,
    fill := ps.length }

/-- Commit a compaction (R196 step 5): the entries from F on are replaced and what they named is freed. -/
def State.commitCompact (s : State) (g : Nat) (q : Req) : State :=
  let i := s.imageOfSlot g q.slot
  let f := q.compFrom
  let att := s.seqField g q.slot 32 0 17
  let old := (s.exclusivePages g q.slot).filter fun p => f ≤ p.2.1
  let kept := f * i.ppp / 64
  let s1 := old.foldl (fun s p => s.dropFrame g p.2.2) s
  let s2 := (List.range i.attnLayers).foldl (fun s l =>
    (List.range (s.ptPages g q.slot)).foldl (fun s p => if f ≤ p then s.putPte g q.slot l p {} else s) s) s1
  let s3 := q.compFrames.foldl (fun s n => s.putPte g q.slot n.1 n.2.1 (q.compEntry i n.1 n.2.1 n.2.2)) s2
  let s4 := q.compSides.foldl (fun s w => s.putHbmNum (s.sideWordAddr g q.slot w.1 w.2.1) 4 w.2.2) s3
  let fired := s.firedSlots g q.slot
  let s5 := ((s4.releaseBlocks g q.slot (att - kept)).putSeq g q.slot 8 0 23 i.compactTo).putSeq g q.slot 0 3 1 0
  ((s5.bump .atnCompact g 1).bump .atnEvictedSlots g ((fired - i.compactTo) * i.attnLayers)).onReq g q fun r =>
    { r with st := .decode, compFrom := 0, compFrames := [], compSides := [], chain := r.chain.take kept }

/-- A compaction that was stopped: its new frames are freed and the old tables stand (R197). -/
def State.dropCompact (s : State) (g : Nat) (q : Req) : State :=
  (q.compFrames.foldl (fun s n => s.dropFrame g n.2.2) s).onReq g q fun r => { r with compFrames := [], compSides := [], compCopies := [] }

/-- Compactions of the step. -/
def State.applyCompacts (s : State) (g : Nat) : State :=
  ((s.sagger g).live.filter fun q => !q.compFrames.isEmpty).foldl (fun s q =>
    if q.st = .compact ∧ q.failed.isNone ∧ !q.masked then s.commitCompact g q else s.dropCompact g q) s

/-- The sequence of a request is due for compaction (R196). -/
def State.compactDue (s : State) (g : Nat) (q : Req) : Bool :=
  let i := s.imageOfSlot g q.slot
  q.st == .decode && q.failed.isNone && s.seqField g q.slot 0 1 1 == 1 && i.compactAt != 0 && i.compactAt ≤ s.firedSlots g q.slot

/-- Insert a stage record in rising order of ROW, after those of equal ROW. -/
def State.insertRow (s : State) (g n : Nat) : List Nat → List Nat
  | [] => [n]
  | a :: r => if s.hbmField (s.stageAddr g n) 64 16 < s.hbmField (s.stageAddr g a) 64 16 then n :: a :: r else a :: s.insertRow g n r

/-- Rows of a slot that fired in this step: the path's nodes, or all (R170). -/
def State.firedRows (s : State) (g : Nat) (c : CommitSeq) : List (Nat × Nat) :=
  match s.raggedOf g c.slot, s.reqOfSeq g c with
  | some e, some q => (if e.tree then q.path.getD [0] else List.range e.new).map fun r => (c.slot, r)
  | _, _ => []

/-- Hand the step's stage records to the SSUs; keys that a drop left incomplete are discarded (R168, R170). -/
def State.handOff (s : State) (g : Nat) (k : Commit) : State :=
  let x := s.sagger g
  let recs := (List.range (x.stageProd - x.stageEnd)).map (x.stageEnd + ·)
  let s1 := s.onSagger g fun y => { y with
    stageOrder := recs.foldl (fun l n => s.insertRow g n l) [], stageEnd := y.stageProd
    stageFired := k.seqs.flatMap (s.firedRows g) }
  [0, 1].foldl (fun s d => s.onSsu d fun u => { u with
    keys := u.keys.filter fun e => e.sagger != g
    done := u.done.filter fun e => e.sagger != g }) s1

/-- Budgets that wait take effect; a cut below the pages in use is remembered (R240, R243). -/
def State.applyBudgets (s : State) (g : Nat) : State :=
  s.onSagger g fun x => { x with tenants := x.tenants.map fun t =>
    match t.next with
    | none => t
    | some b =>
      let t' := t.apply s.now
      { t' with next := none, fresh := false, cutAge := if b.pages < s.pagesOf g b.tenant then some 0 else t.cutAge } }

/-! ## Step 5: ends, deadlines and victims -/

/-- Deadline of output index `k` (R249). -/
def Req.deadline (q : Req) (k : Nat) : Option Nat :=
  let b := if q.sub.ttft = 0 then q.fire0 else q.tSub + q.sub.ttft * 1000
  if k = 0 then (if q.sub.ttft = 0 then none else some b)
  else if q.sub.tpot = 0 then none else some (b + k * q.sub.tpot * 1000)
/-- LATE_N of a message with `n` tokens from index `k` (R249). -/
def Req.lateN (q : Req) (k n fireTime : Nat) : Nat :=
  ((List.range n).filter fun j => (q.deadline (k + j)).any fun d => d < fireTime).length

/-- What step 5 finds for one entry of the commit record. -/
structure Verdict where
  seq    : CommitSeq
  req    : Req
  index  : Nat
  late   : Nat
  reason : Option Nat
  deriving DecidableEq, Repr

/-- Judge one entry: an end condition of its last token, else DROP_LATE (R250, R258). -/
def State.judge (s : State) (g : Nat) (k : Commit) (c : CommitSeq) : Option Verdict :=
  (s.reqOfSeq g c).map fun q =>
    let ix := q.out.length - c.tokens.length
    let late := q.lateN ix c.tokens.length k.fireTime
    let stop := (c.tokens.getLast?).bind fun t => q.endReason (s.imageOfSlot g c.slot) t.1 (q.out.length - 1) c.nextPos
    { seq := c, req := q, index := ix, late := late
      reason := match stop with
        | some r => some r
        | none => if q.sub.dropLate ∧ late > 0 then some 4 else none }

/-- The first-token deadline of a queued request with DROP_LATE has passed (R239). -/
def Req.queueLate (q : Req) (fireTime : Nat) : Bool := q.sub.dropLate && q.sub.ttft != 0 && q.tSub + q.sub.ttft * 1000 < fireTime

/-- Rank of a victim: CLASS falling, T_sub rising, channel, REQ_ID (R264). -/
def Req.victimKey (q : Req) : List Nat := [3 - q.sub.cls, q.tSub, q.chan, q.sub.reqId.toNat]
/-- Requests that may be victims, in order. -/
def State.victimsOf (s : State) (g : Nat) : List Req :=
  sortReqs Req.victimKey ((s.sagger g).live.filter fun q => (q.st == .decode || q.st == .prefill) && q.failed.isNone && !q.moving)
/-- Exclusive frames of a request. -/
def State.ownFrames (s : State) (g : Nat) (q : Req) : Nat := (s.swapPages g q).length
/-- Take victims in order until their frames cover `need`. -/
def State.coverNeed (s : State) (g : Nat) : Nat → List Req → List Req
  | _, [] => []
  | need, q :: r => if need = 0 then [] else q :: s.coverNeed g (need - s.ownFrames g q) r

/-- Victims of the budget cuts that take effect at this fire point (R243). -/
def State.cutVictims (s : State) (g : Nat) : List Req :=
  (s.sagger g).tenants.flatMap fun t =>
    if t.cutAge = some 0 then
      s.coverNeed g (s.pagesOf g t.budget.tenant - t.budget.pages)
        ((s.victimsOf g).filter fun q => q.sub.tenant == t.budget.tenant)
    else []
/-- Age the cuts: one whose use still exceeds the budget at the fire point of the second step after it counts
in SGR_BUDGET_OVER (R243). -/
def State.ageCuts (s : State) (g : Nat) : State :=
  (s.sagger g).tenants.foldl (fun s t =>
    let age (n : Option Nat) (s : State) : State :=
      s.onSagger g fun x => { x with tenants := x.tenants.map fun u => if u.budget.tenant = t.budget.tenant then { u with cutAge := n } else u }
    match t.cutAge with
    | some 0 => age (some 1) s
    | some 1 => age (some 2) s
    | some _ => age none (s.bump .sgrBudgetOver g (if t.budget.pages < s.pagesOf g t.budget.tenant then 1 else 0))
    | none => s) s

/-- Frames that are free or wait in a scrub queue. -/
def State.framesSoon (s : State) (g : Nat) : Nat :=
  s.framesFree g + ((s.sagger g).frames.filter fun f => f.2 == .scrubbing).length

/-- Frames of sequences and their tables. -/
def State.framesTaken (s : State) (g : Nat) : Nat :=
  ((s.sagger g).frames.filter fun f => match f.2 with | .exclusive .. => true | .table => true | _ => false).length

/-- The next step's plan is short of frames: prefix nodes are evicted, the unserved sequences are held out, and victims
are found for them (R265, R266). -/
def State.shortVictims (s : State) (g : Nat) : List Req × State :=
  let p := s.planRun g
  if p.held.isEmpty then ([], s)
  else
    let heldReqs := p.held.filterMap fun h => p.s.reqOf g h.1
    let s0 := heldReqs.foldl (fun s q => s.onReq g q fun r => { r with held := true }) s
    let byFrames := p.held.filter fun h => h.2.1 == .frames
    let need := byFrames.foldl (fun n h => n + h.2.2) 0
    let avail := p.s.framesSoon g
    let s1 := if need = 0 then s0
      else (s0.evictFor g (heldReqs.flatMap fun q => q.chain ++ q.draftChain) (s.placeCount g 7) (need + (p.s.framesTaken g - s.framesTaken g) - s.framesSoon g)).2
    let last := (heldReqs.map Req.victimKey).foldl (fun m k => if keyLt m k then k else m) []
    let order := (s1.victimsOf g).filter fun q => !keyLt last q.victimKey
    let v1 := s1.coverNeed g (need - avail) order
    let v2 := (p.held.filter fun h => h.2.1 == .budget).flatMap fun h =>
      match p.s.reqOf g h.1 with
      | none => []
      | some q => s1.coverNeed g (s1.pagesOf g q.sub.tenant + h.2.2 - s1.pageLimit g q.sub.tenant)
          (order.filter fun r => r.sub.tenant == q.sub.tenant)
    ((v1 ++ v2).eraseDups, s1)

/-- Swap a victim out, or end it with EVICTED when no unit is left; its frames are freed at the next fire point (R269). -/
def State.preempt (s : State) (g : Nat) (q : Req) : Bool × State :=
  let (ok, s1) := (s.bump .sgrPreempt g 1).swapOut g q
  (ok, if ok then s1 else s1.onReq g q fun r => { r with st := .ended, before := r.st })

/-! ## Step 6: the step record (R246 to R248) -/

/-- RHO × 4,096 after a step of duration `d` that was predicted to take `p` (R246). -/
def newRho (rho d p : Nat) : Nat := max 2048 (min 16384 ((7 * rho + d * 4096 / max 1 p) / 8))
/-- L after a step (R247). -/
def newLag (lag d period : Nat) : Nat := lag + d - period

/-- L, RHO and the step counters after the step; SGR_STEP_NUM is its number. -/
def State.learnStep (s : State) (g tokens late : Nat) : State :=
  let x := s.sagger g
  let d := s.now - x.stepStart
  let s1 := ((((s.bump .sgrStepLate g (Bool.num (d > s.period g))).bump .sgrStepTrim g (Bool.num x.trimmed)).bump .sgrStepFlagged g
    (Bool.num (s.reg .sgrFmtFallback g != x.marks.1))).bump .sgrTok g tokens).bump .sgrTokLate g late
  s1.onSagger g fun x => { x with lag := newLag x.lag d (s.period g), rho := newRho x.rho d x.predicted, lastDur := d, fired := x.stepNum }

/-- The bytes of the step record (R248), after `learnStep`. -/
def State.stepRecord (s : State) (g tokens : Nat) (es : List Ragged) (preempt : Bool) : List Byte :=
  let x := s.sagger g
  let m := x.marks
  let flags := Bool.num (x.lastDur > s.period g) + 2 * Bool.num x.trimmed + 4 * Bool.num (s.reg .sgrFmtFallback g != m.1) +
    8 * Bool.num (s.reg .sgrAccRefire g != m.2.1) + 16 * Bool.num (s.reg .sgrAccClamp g + s.reg .sgrFmtSat g != m.2.2) +
    32 * Bool.num preempt + 64 * Bool.num x.cancels
  leBytes (x.stepNum % 2 ^ 32) 4 ++ leBytes (min x.lastDur (2 ^ 32 - 1)) 4 ++ leBytes x.stepStart 8 ++
    leBytes (es.foldl (fun n e => n + e.new) 0) 4 ++ leBytes tokens 4 ++
    leBytes (min (x.lag / 1000) 1048575 + 2 ^ 20 * flags) 4 ++ leBytes es.length 4

/-- Write the step record at entry n mod size of the step ring. -/
def State.recordStep (s : State) (g tokens : Nat) (es : List Ragged) (preempt : Bool) : State :=
  let a := s.placeAddr g 0x03 + 32 * ((s.sagger g).stepNum % max 1 (s.placeCount g 0x03))
  (s.putHbm a (s.stepRecord g tokens es preempt)).bump .hbmWrBytes (stackOfAddr a) 32

/-! ## Step 7: messages (R236, R238) -/

/-- The payload of a TOKEN or LATE message. -/
def Verdict.bytes (v : Verdict) (k : Commit) (last : Bool) : List Byte :=
  leBytes v.req.sub.reqId.toNat 4 ++ leBytes (v.index % 2 ^ 24 + 2 ^ 24 * v.seq.tokens.length) 4 ++
    leBytes (v.late + 32 * Bool.num last) 4 ++ leBytes (k.step % 2 ^ 32) 4 ++ leBytes k.fireTime 8 ++
    v.seq.tokens.flatMap fun t => leBytes t.1 4 ++ leBytes t.2.toNat 4

/-- Messages of one judged request: its tokens, then its DONE. -/
def State.sendVerdict (s : State) (g : Nat) (k : Commit) (evicted : List Req) (v : Verdict) : State :=
  let out := evicted.any fun q => q.chan == v.req.chan && q.sub.reqId == v.req.sub.reqId
  let s1 := if v.seq.tokens.isEmpty then s
    else s.sendMsg v.req.chan (if v.late > 0 then 0x11 else 0x10) 0 (v.bytes k (v.reason.isSome || out))
  let q := { v.req with lastStep := k.step }
  match v.reason with
  | some r => s1.doneReq g q q.tag r 0
  | none => if out then s1.doneReq g q q.tag 9 0 else s1

/-! ## The whole fire point -/

/-- Step 4. -/
def State.fireApply (s : State) (g : Nat) (k : Commit) : State :=
  let s1 := s.handOff g k
  let s2 := k.seqs.foldl (fun s c => s.applySeq g k c) s1
  let s3 := k.seqs.foldl (fun s c => s.publishReq g c) s2
  (s3.applyCompacts g).applyBudgets g

/-- Take the ended and the failed requests out; answers those that get a DONE with FAILED. -/
def State.fireEnds (s : State) (g : Nat) (vs : List Verdict) : List Req × State :=
  let failed := (s.sagger g).live.filter fun q => q.failed.isSome && q.st != .ended
  let gone := (s.sagger g).live.filter fun q => q.st == .ended || q.failed.isSome ||
    vs.any fun v => v.reason.isSome && v.req.chan == q.chan && v.req.sub.reqId == q.sub.reqId
  (failed, gone.foldl (fun s q => s.endReq g q) s)

/-- Pre-empt one victim more; one that finds no room for its pages ends with EVICTED. -/
def preemptInto (g : Nat) (acc : List Req × State) (q : Req) : List Req × State :=
  let r := acc.2.preempt g q
  (if r.1 then acc.1 else acc.1 ++ [q], r.2)
/-- Choose the victims of step 5 and pre-empt them: the number chosen, those that end with EVICTED, and the state. -/
def State.fireVictims (s : State) (g : Nat) : Nat × List Req × State :=
  let cut := s.cutVictims g
  let a := cut.foldl (preemptInto g) ([], s)
  let short := a.2.shortVictims g
  let e := short.1.foldl (preemptInto g) ([], short.2)
  (cut.length + short.1.length, a.1 ++ e.1, e.2)

/-- Step 8: the step is over; its per-step state is cleared and sequences due for compaction are held out (R196). -/
def State.fireClose (s : State) (g : Nat) : State :=
  let s1 := s.onSagger g fun x => { x with
    commit := none, phase := .none, cleared := false, ragged := [], rowsN := 0, walk := {}
    live := x.live.map fun q => { q with rows := 0, tree := [], samples := [], path := none, copies := [] } }
  let due := (s1.sagger g).live.filter (s1.compactDue g)
  let s2 := due.foldl (fun s q => (s.putSeq g q.slot 0 3 1 1).onReq g q fun r => { r with st := .compact }) s1
  let s3 := (List.range 144).foldl (fun s w => if s.ownsWheel g w ∧ !(s.wheel w).cancelled.isEmpty then
    s.onWheel w fun y => { y with cancelled := [] } else s) s2
  (List.range 12).foldl (fun s l => if (s.planSagger g).shelves.getLsbD l ∧ !(s.ldu l).cancelled.isEmpty then
    s.onLdu l fun y => { y with cancelled := [] } else s) s3

/-- Steps 4 to 8 from a commit record (R270, R271). -/
def State.finishFire (s : State) (g : Nat) (k : Commit) : State :=
  let s1 := s.fireApply g k
  let vs := k.seqs.filterMap (s1.judge g k)
  let (failed, s2) := s1.fireEnds g vs
  let lateQ := (s2.sagger g).queue.filter fun q => q.queueLate k.fireTime
  let s3 := s2.onSagger g fun x => { x with queue := x.queue.filter fun q => !q.queueLate k.fireTime }
  let toks := vs.foldl (fun m v => m + v.seq.tokens.length) 0
  let late := vs.foldl (fun m v => m + v.late) 0
  let es := (s.sagger g).ragged.filter fun e => !e.draft
  let (n, evicted, s4) := ((s3.learnStep g toks late).fireClose g).fireVictims g
  let s6 := (s4.ageCuts g).recordStep g toks es (n != 0)
  let s7 := vs.foldl (fun s v => s.sendVerdict g k evicted v) s6
  let s8 := failed.foldl (fun s q => s.doneReq g q q.tag 8 (q.failed.getD 0)) s7
  let s9 := (evicted.filter fun q => !vs.any fun v => v.req.chan == q.chan && v.req.sub.reqId == q.sub.reqId).foldl
    (fun s q => s.doneReq g q q.tag 9 0) s8
  (lateQ.foldl (fun s q => s.sendDone g q.chan q.tag (q.done 4 0)) s9).startMoves g

/-- FIRE_POINT (R270). -/
def execFirePoint (g : SaggerIx) (s : State) : Host.Outcome State Fault Refusal :=
  s.when (s.fireReady g.val) ((s.finishFire g.val (s.commitOf g.val)).touch g.val)

end Sys2Proof.Machine
end

