-- ==== Sys2Proof/Machine/WareBoard.lean ====
section
/-! DEFINITION. The ware boards: load records, their acceptance and landing, holds and squashing
(spec/09_memory_tiers.md, R285 to R293). -/

namespace Sys2Proof.Machine

/-! ## Load records (R291, R292) -/

/-- The load that a record spells, with the die of its ware board. -/
def loadOf (r : Nat) (g : Nat) : Nat × Load :=
  (nbits r 112 1,
    { num := 0, sagger := g, prio := nbits r 8 2, pred := nbits r 10 1 == 1, expert := nbits r 11 10, epoch := nbits r 32 16,
      src := nbits r 64 32, dst := nbits r 96 16, len := nbits r 128 13, tally := nbits r 160 12 })

/-- Window of a sagger in a die's ware board, in tracking units of 1 KiB: base and size. -/
def State.wareWindow (s : State) (g d : Nat) : Nat × Nat :=
  let p := s.planSagger g
  if d = 0 then (p.wbd0Base * 1024, p.wbd0Size * 1024) else (p.wbd1Base * 1024, p.wbd1Size * 1024)

/-- The range lies in write-protected strata that hold the weights of an image loaded for the sagger. -/
def State.weightRange (s : State) (g a n : Nat) : Bool :=
  s.mayRead g a n && (strataOf a n).all fun t => s.protected t && (s.sagger g).images.any fun i => i.strata.contains t

/-- A load record fails a check of R292. -/
def State.loadBad (s : State) (g r : Nat) : Bool :=
  let (d, l) := loadOf r g
  let w := s.wareWindow g d
  nbits r 0 8 != 0x31 || (l.prio != 1 && l.prio != 3) || (!l.pred && (l.expert != 0 || l.epoch != 0)) ||
    nbits r 21 11 != 0 || nbits r 48 16 != 0 || nbits r 113 15 != 0 || nbits r 141 19 != 0 || nbits r 172 20 != 0 ||
    nbits r 192 64 != 0 || l.len == 0 || l.len > 4096 || !(s.weightRange g (l.src * 1024) (l.len * 1024) || s.inWindow g (l.src * 1024) (l.len * 1024)) ||
    l.dst < w.1 || w.1 + w.2 < l.dst + l.len

/-! ## Tracking units (R286 to R290) -/

/-- Change one tracking unit. -/
def State.onUnit (s : State) (d u : Nat) (f : WareUnit → WareUnit) : State :=
  s.onWare d fun w => { w with units := tmod {} w.units u f }
/-- The units of a load. -/
def Load.units (l : Load) : List Nat := (List.range l.len).map (l.dst + ·)
/-- Number `a` is below number `b`, modulo 2^16. -/
def numBelow (a b : BitVec 16) : Bool := a != b && (b - a).toNat < 2 ^ 15

/-- Accept a load: it takes the next number, and its units are armed with it (R290). -/
def State.acceptLoad (s : State) (d : Nat) (l : Load) : State :=
  let n := (s.ware d).next
  let s1 := s.onWare d fun w => { w with queue := w.queue ++ [{ l with num := n, since := s.refNow }], next := n + 1 }
  l.units.foldl (fun s u => s.onUnit d u fun x => { x with arm := n }) s1

/-- Requests of the routers that waited are accepted while the queue has room (R291). -/
def State.admitWaiting (s : State) (d : Nat) : State :=
  let x := s.ware d
  let ls := x.wait.take (4096 - x.queue.length)
  ls.foldl (fun s l => s.acceptLoad d l) (s.onWare d fun w => { w with wait := w.wait.drop ls.length })
/-- A router asks for a load; it waits while the queue is full (R222, R291). -/
def State.requestLoad (s : State) (d : Nat) (l : Load) : State :=
  (s.onWare d fun w => { w with wait := w.wait ++ [l] }).admitWaiting d

/-- The data of a load from the remote window is read across the lute in pieces of four units (R375). -/
def State.askLoad (s : State) (d : Nat) (l : Load) : State :=
  if s.inWindow l.sagger (l.src * 1024) (l.len * 1024) then
    (pieces4k (l.len * 1024)).foldl (fun t p =>
      t.askRemote l.sagger (l.src * 1024 + p.1) p.2 (.load d (s.ware d).next (p.1 / 1024))) s
  else s
/-- Data that a load writes: from HBM, or as the lute has returned it; none while a piece is missing. -/
def State.loadData (s : State) (d : Nat) (l : Load) : Option (List Byte) :=
  if s.inWindow l.sagger (l.src * 1024) (l.len * 1024) then
    (pieces4k (l.len * 1024)).foldl (fun acc p => acc.bind fun bs =>
      (s.lute.got.find? fun x => x.1 == d && x.2.1 == l.num && x.2.2.1 == p.1 / 1024).map fun x => bs ++ x.2.2.2) (some [])
  else some (s.hbm (l.src * 1024) (l.len * 1024))

/-- LOAD (R291, R292): a full queue stalls the issuer; a failing record arms nothing and halts the sagger's list. -/
def execLoad (g : SaggerIx) (rec : BitVec 256) (s : State) : Host.Outcome State Fault Refusal :=
  let r := rec.toNat
  let (d, l) := loadOf r g.val
  if s.loadBad g.val r then .next ((s.haltList g.val).faultRec 3 8 0xA1 g.val d 0 0 (leBytes r 32))
  else s.when ((s.ware d).queue.length < 4096) (((s.askLoad d l).acceptLoad d l).touch g.val)

/-- The holds of every buffer, live or saved, on units of die `d`: unit and recorded ARM. -/
def State.holdsOn (s : State) (d : Nat) : List (Nat × Nat) :=
  s.wheels.flatMap fun w =>
    ([w.2.buf0, w.2.buf1] ++ (match w.2.ctx with | some c => [c.buf0, c.buf1] | none => [])).flatMap fun b =>
      if b.st != .free && b.entry.tileDie == d then b.holds else []

/-- A hold with an older recorded ARM keeps the load from writing a unit (R288). -/
def State.loadHeld (s : State) (d : Nat) (l : Load) : Bool :=
  (s.holdsOn d).any fun h => l.dst ≤ h.1 && h.1 < l.dst + l.len && numBelow (BitVec.ofNat 16 h.2) l.num
/-- Such a hold, or an earlier load to one of its units, keeps the load from writing (R288). -/
def State.loadBlocked (s : State) (d : Nat) (l : Load) : Bool :=
  s.loadHeld d l ||
    ((s.ware d).queue.takeWhile fun m => m.num != l.num).any fun m => m.dst < l.dst + l.len && l.dst < m.dst + m.len

/-- Units of a load whose source chunk is poisoned (R308, R310). -/
def State.poisonedUnits (s : State) (l : Load) : List Nat := (List.range l.len).filter fun k => s.chunkIsPoisoned ((l.src + k) * 1024)

/-- The load's data is written and its units take its number (R290). -/
def State.landLoad (s : State) (d : Nat) (l : Load) (data : List Byte) : State :=
  let bad := s.poisonedUnits l
  let s1 := (s.onWareMem fun m => mwrite m (d * 2 ^ 26 + l.dst * 1024) data).onLute fun x =>
    { x with got := x.got.filter fun y => !(y.1 == d && y.2.1 == l.num) }
  let s2 := (List.range l.len).foldl (fun s k => s.onUnit d (l.dst + k) fun x =>
    { x with land := l.num, poison := bad.contains k, src := some ((l.src + k) * 1024) }) s1
  let s3 := (s2.onWare d fun w => { w with queue := w.queue.filter fun m => m.num != l.num }).admitWaiting d
  let s4 := (((s3.bump .wbdLoadBytes d (l.len * 1024)).bump .wbdPoisonUnits d bad.length).bump .hbmRdBytes (stackOfAddr (l.src * 1024))
    (l.len * 1024)).touch l.sagger
  if l.tally < 4096 then s4.advance l.sagger l.tally (agentId 8 d 0) else s4

/-- The state after the read of a load: `ecc` says what the read found at byte `off` of its source.  Remote memory is
read by the partner. -/
def State.loadRead (s : State) (l : Load) (ecc : Ecc) (off : Nat) : State :=
  if s.inWindow l.sagger (l.src * 1024) (l.len * 1024) then s
  else s.weightRead l.sagger (l.src * 1024 + off % (l.len * 1024)) ecc
/-- LOAD_LAND (R288, R290, R301): load `num` of die `d` has been read, and no hold or earlier load keeps it from its
units. -/
def execLoadLand (d : DieIx) (num : BitVec 16) (ecc : Ecc) (off : BitVec 22) (s : State) : Host.Outcome State Fault Refusal :=
  match (s.ware d.val).queue.find? fun l => l.num == num with
  | none => .next s
  | some l => match s.loadData d.val l with
    | none => .next s
    | some data => s.when (!s.loadBlocked d.val l) ((s.loadRead l ecc off.toNat).landLoad d.val l data)

/-- A load whose units a buffer in FILL waits on. -/
def State.awaited (s : State) (x : Buf) (l : Load) : Bool :=
  x.holds.any fun h => l.dst ≤ h.1 && h.1 < l.dst + l.len && h.2 == l.num.toNat &&
    (tget {} (s.ware x.entry.tileDie).units h.1).land.toNat != h.2

/-- LOAD_DEMAND (R293): every pending load that the buffer's fill waits on moves to Demand. -/
def execLoadDemand (w : WheelIx) (b : BufIx) (s : State) : Host.Outcome State Fault Refusal :=
  let x := (s.wheel w.val).buf b.val
  let d := x.entry.tileDie
  let n := ((s.ware d).queue.filter fun l => !l.demand && s.awaited x l).length
  s.when (x.st == .fill && n != 0)
    ((s.onWare d fun y => { y with queue := y.queue.map fun l => { l with demand := l.demand || s.awaited x l } }).bump .wbdDemand d n)

/-! ## Predicted loads (R223, R293) -/

/-- Drop one pending load: its units take its number and their contents are undefined (R290). -/
def State.dropLoad (s : State) (d : Nat) (l : Load) : State :=
  let n := l.len * 1024
  let s1 := s.onWareMem fun m => mwrite m (d * 2 ^ 26 + l.dst * 1024) (freeBytes s.freeCtr n)
  let s2 := { s1 with freeCtr := s1.freeCtr + n }
  let s3 := l.units.foldl (fun s u => s.onUnit d u fun x => { x with land := l.num }) s2
  (s3.onWare d fun w => { w with queue := w.queue.filter fun m => m.num != l.num }).bump .wbdSquash d 1

/-- Squash the pending predicted loads of a sagger that `p` selects. -/
def State.squashLoads (s : State) (g : Nat) (p : Load → Bool) : State :=
  let hit (l : Load) : Bool := l.sagger == g && l.pred && p l
  [0, 1].foldl (fun s d =>
    (((s.ware d).queue.filter hit).foldl (fun s l => s.dropLoad d l)
      (s.onWare d fun w => { w with wait := w.wait.filter fun l => !hit l })).admitWaiting d) s

/-- Raise the pending predicted loads of an expert to Next layer. -/
def State.confirmLoads (s : State) (g epoch expert : Nat) : State :=
  let raise (l : Load) : Load :=
    if l.sagger == g && l.pred && l.epoch == epoch && l.expert == expert then { l with pred := false } else l
  [0, 1].foldl (fun s d => s.onWare d fun w => { w with queue := w.queue.map raise, wait := w.wait.map raise }) s

/-- A sagger reset: pending loads are dropped, and ARM and LAND of the window's units are made equal (R290). -/
def State.resetWare (s : State) (g : Nat) : State :=
  [0, 1].foldl (fun s d =>
    let w := s.wareWindow g d
    s.onWare d fun x => { x with
      queue := x.queue.filter fun l => l.sagger != g
      wait := x.wait.filter fun l => l.sagger != g
      units := x.units.map fun u => if w.1 ≤ u.1 && u.1 < w.1 + w.2 then (u.1, { u.2 with land := u.2.arm }) else u }) s

end Sys2Proof.Machine
end

