-- ==== Sys2Proof/Machine/Memory.lean ====
section
/-! DEFINITION. The memory tiers: slabs and slab operations, narrow accesses and atomics, refresh, scrub, the model store,
poisoned chunks (spec/09_memory_tiers.md, R275 to R284, R294 to R312). -/

namespace Sys2Proof.Machine

/-! ## Slabs (R278 to R280) -/

/-- A corrected error of a slab bank. -/
def State.slabCorrected (s : State) (w bank : Nat) : State :=
  ((s.bump .slbCe w 1).setReg .slbStatus w (nsetBits (s.reg .slbStatus w) 16 1 1)).raiseLimited msNs bank
    { code := faultCode 1 7 0xAA, sagger := sgField ((s.ownerOfWheel w).getD 15), unit := w, subunit := bank }
/-- An uncorrectable error of a slab bank. -/
def State.slabLost (s : State) (w bank : Nat) : State :=
  ((s.bump .slbUe w 1).setReg .slbStatus w (nsetBits (s.reg .slbStatus w) 17 1 1)).fault 3 7 0xA9 ((s.ownerOfWheel w).getD 15) w bank

/-- SLAB_READ (R278, R280): an uncorrectable error stops the read before it answers. -/
def execSlabRead (w : WheelIx) (offset : BitVec 22) (len : Nat) (ecc : Ecc) (s : State) : Host.Outcome State Fault Refusal :=
  let o := offset.toNat
  let i := w.val * slabBytes + o
  if len = 0 ∨ slabBytes < o + len then .refused (.illFormed "SLAB_READ")
  else
    let s1 := s.bump .slbInvalidRd w.val (s.invalidLines i len)
    let out := s1.onMem fun m => { m with slabOut := m.slabRead i len }
    match ecc with
    | .good => .next out
    | .corrected => .next (out.slabCorrected w.val (o / 163840))
    | .uncorrectable => .next (s1.slabLost w.val (o / 163840))

/-- SLAB_WRITE (R278). -/
def execSlabWrite (w : WheelIx) (offset : BitVec 22) (data : List Byte) (s : State) : Host.Outcome State Fault Refusal :=
  if data.isEmpty || slabBytes < offset.toNat + data.length then .refused (.illFormed "SLAB_WRITE")
  else .next (s.onMem (·.slabWrite (w.val * slabBytes + offset.toNat) data))

/-- Clear the validity of every line of a sagger's slabs (R279). -/
def State.clearSlabs (s : State) (g : Nat) : State :=
  (List.range 144).foldl (fun s w => if s.ownsWheel g w then (s.onMem (·.slabClear w)).bump .slbClears w 1 else s) s

/-- SLAB_CLEAR (R279): once after step 8 of a fire point. -/
def execSlabClear (g : SaggerIx) (s : State) : Host.Outcome State Fault Refusal :=
  let x := s.sagger g.val
  s.when (x.st == .serving && x.phase == .none && x.commit.isNone && !x.cleared)
    (((s.clearSlabs g.val).onSagger g.val fun x => { x with cleared := true, clearTally := x.clearTally + 1 }).touch g.val)

/-! ## Slab operation records (R281 to R284) -/

/-- OP. -/
def sopOp (r : Nat) : Nat := nbits r 0 4
/-- DST. -/
def sopDst (r : Nat) : Nat := nbits r 32 32
/-- SRC, PATTERN or HSRC. -/
def sopSrc (r : Nat) : Nat := nbits r 64 32
/-- LEN. -/
def sopLen (r : Nat) : Nat := nbits r 96 22
/-- LAYER. -/
def sopLayer (r : Nat) : Nat := nbits r 118 8
/-- TALLY. -/
def sopTally (r : Nat) : Nat := nbits r 16 12
/-- WFMT. -/
def sopWfmt (r : Nat) : Nat := nbits r 4 2

/-- A record fails the checks that FILL, COPY and HLOAD share: reserved fields, LEN and the destination region. -/
def State.sopBad (s : State) (g r align : Nat) : Bool :=
  nbits r 6 10 != 0 || nbits r 28 4 != 0 || nbits r 126 2 != 0 || sopWfmt r != 0 || sopLayer r != 0 ||
    sopLen r < 4 || sopLen r > slabBytes || sopLen r % 4 != 0 || !s.slabRegion g (sopDst r) (sopLen r) align

/-- A record that R282 rejects (0xA0). -/
def State.sopReject (s : State) (g r : Nat) : State := s.faultRec 3 7 0xA0 g (slabWheel (sopDst r)) 0 (sopDst r) (leBytes r 16)
/-- A record's last write is acknowledged: its tally advances. -/
def State.sopDone (s : State) (g r : Nat) : State :=
  (s.advance g (sopTally r) (agentId 7 (dieOfWheel (slabWheel (sopDst r))) 0)).touch g
/-- Run a record that passes `ok`; the OP must be the command's own, and an illegal OP fails R282. -/
def State.runSop (s : State) (name : String) (op g r : Nat) (ok : Bool) (effect : State) : Host.Outcome State Fault Refusal :=
  if sopOp r ≠ op ∧ 1 ≤ sopOp r ∧ sopOp r ≤ 4 then .refused (.illFormed name)
  else if (s.sagger g).st ≠ .serving then .next s
  else if sopOp r ≠ op ∨ ¬ ok then .next (s.sopReject g r)
  else .next effect

/-- FILL (R282). -/
def execFill (g : SaggerIx) (rec : BitVec 128) (s : State) : Host.Outcome State Fault Refusal :=
  let r := rec.toNat
  s.runSop "FILL" 1 g.val r (!s.sopBad g.val r 4)
    (((s.putSlab (sopDst r) (List.replicate (sopLen r / 4) (leBytes (sopSrc r) 4)).flatten).bump .slbOpBytes (slabWheel (sopDst r))
      (sopLen r)).sopDone g.val r)

/-- COPY (R282): the whole source is read before any write. -/
def execCopy (g : SaggerIx) (rec : BitVec 128) (s : State) : Host.Outcome State Fault Refusal :=
  let r := rec.toNat
  let s1 := s.bump .slbInvalidRd (slabWheel (sopSrc r)) (s.invalidLines (slabIx (sopSrc r)) (sopLen r))
  s.runSop "COPY" 2 g.val r (!s.sopBad g.val r 4 && s.slabRegion g.val (sopSrc r) (sopLen r) 4)
    (((s1.putSlab (sopDst r) (s.slab (sopSrc r) (sopLen r))).bump .slbOpBytes (slabWheel (sopDst r)) (sopLen r)).sopDone g.val r)

/-- HLOAD (R284): a source in the remote window is read across the lute, and its tally advances with the last piece. -/
def execHload (g : SaggerIx) (rec : BitVec 128) (s : State) : Host.Outcome State Fault Refusal :=
  let r := rec.toNat
  let a := sopSrc r * 512
  let far := s.inWindow g.val a (sopLen r)
  let job := s.lute.nextTag
  s.runSop "HLOAD" 3 g.val r (!s.sopBad g.val r 1 && (far || s.mayRead g.val a (sopLen r)))
    (if far then (pieces4k (sopLen r)).foldl (fun s p =>
        s.askRemote g.val (a + p.1) p.2 (.slab (BitVec.ofNat 32 (sopDst r + p.1)) (sopTally r) job)) s
     else ((s.putSlab (sopDst r) (s.hbm a (sopLen r))).bump .hbmRdBytes (stackOfAddr a) (sopLen r)).sopDone g.val r)

/-- The A4 block of a row of ternary weights (R284). -/
def gatherBlock (ws : List Int) : List Byte :=
  let exps := (List.range 64).map fun k => if (piece ws 16 k).any (· != 0) then 127 else 0
  packBlock 1 exps 0 [] (ws.map fun w => { m := w, e := 0 })
/-- The bytes of tile row `t mod 16` of block `b` of a gathered matrix. -/
def State.gatherRow (s : State) (i : LoadedImage) (l : LayerInfo) (t b : Nat) : List Byte :=
  let off := l.tileBase + (t / 16 * l.nb + b) * tileBytes l.wfmt + t % 16 * rowBytes l.wfmt
  (List.range (rowBytes l.wfmt)).map fun k => mget s.mem.hbm (i.byteAddr (off + k))
/-- The weights of a tile row. -/
def rowWeights (wfmt : Nat) (bs : List Byte) : List Int := if wfmt = 0 then tp5Row bs else (bs.flatMap t28Group).take 1024

/-- A GATHER record fails a check of R282 or R284. -/
def State.gatherBad (s : State) (g r : Nat) : Bool :=
  let l := s.layer g (sopLayer r)
  nbits r 6 10 != 0 || nbits r 28 4 != 0 || nbits r 126 2 != 0 || sopLen r == 0 || sopLen r > 256 ||
    (s.image? g (s.sagger g).stepModel).isNone || sopLayer r ≥ (s.stepImage g).layers.length || l.wfmt > 1 || sopWfmt r != l.wfmt ||
    !s.slabRegion g (sopSrc r) (4 * sopLen r) 1 || !s.slabRegion g (sopDst r) (640 * l.nb * sopLen r) 1
/-- The identifiers of a GATHER. -/
def State.gatherIds (s : State) (r : Nat) : List Nat := (List.range (sopLen r)).map fun k => s.slabNum (sopSrc r + 4 * k) 4

/-- The blocks of a GATHER. -/
def State.gatherOp (s : State) (g r : Nat) : State :=
  match s.image? g (s.sagger g).stepModel with
  | none => s
  | some i =>
    let l := s.layer g (sopLayer r)
    let ids := s.gatherIds r
    (List.range ids.length).foldl (fun s k => (List.range l.nb).foldl (fun s b =>
      (s.putSlab (sopDst r + (k * l.nb + b) * 640) (gatherBlock (rowWeights l.wfmt (s.gatherRow i l (ids.getD k 0) b)))).bump
        .hbmRdBytes (stackOfAddr (i.byteAddr (l.tileBase + (ids.getD k 0 / 16 * l.nb + b) * tileBytes l.wfmt))) (rowBytes l.wfmt)) s) s

/-- GATHER (R284): an identifier at or above the row count raises 0x30. -/
def execGather (g : SaggerIx) (rec : BitVec 128) (s : State) : Host.Outcome State Fault Refusal :=
  let r := rec.toNat
  s.runSop "GATHER" 4 g.val r (!s.gatherBad g.val r)
    (if (s.gatherIds r).any fun t => t ≥ (s.layer g.val (sopLayer r)).outputs then s.fault 3 7 0x30 g.val (slabWheel (sopDst r)) 0
     else (s.gatherOp g.val r).sopDone g.val r)

/-! ## Narrow accesses and atomics (R297 to R299, R303) -/

/-- An access to HBM is refused with 0xA2. -/
def State.narrowReject (s : State) (g a : Nat) : State :=
  s.raise { code := faultCode 3 9 0xA2, sagger := sgField g, unit := min 15 (stackOfAddr a), addr := a }
/-- A write to a protected stratum is suppressed with 0xA3. -/
def State.writeReject (s : State) (g a : Nat) : State :=
  s.raise { code := faultCode 3 9 0xA3, sagger := sgField g, unit := min 15 (stackOfAddr a), subunit := s.pchOf a, addr := a }

/-- NARROW_ACCESS (R297, R301, R303). -/
def execNarrowAccess (g : SaggerIx) (write : Bool) (addr : BitVec 41) (size : Nat) (data : List Byte) (ecc : Ecc) (hit : HbmData)
    (s : State) : Host.Outcome State Fault Refusal :=
  let a := addr.toNat
  let k := stackOfAddr a
  if write ∧ data.length ≠ size then .refused (.illFormed "NARROW_ACCESS")
  else if ¬ [8, 16, 32, 64].contains size ∨ a % size ≠ 0 then .next (s.narrowReject g.val a)
  else if s.inWindow g.val a size then
    .next (if write then s.writeRemote g.val a data else s.askRemote g.val a size .narrow)
  else if !s.owns g.val a size then .next (s.narrowReject g.val a)
  else if write then
    if s.rangeProtected a size then .next (s.writeReject g.val a)
    else .next (((s.putHbm a data).bump .hbmNarrow k 1).bump .hbmWrBytes k size)
  else
    let s1 := (s.bump .hbmNarrow k 1).bump .hbmRdBytes k size
    let out := s1.onMem fun m => { m with narrowOut := mread m.hbm a size }
    match ecc with
    | .good => .next out
    | .corrected => .next (out.hbmCorrected a)
    | .uncorrectable => .next (s1.hbmLost g.val a hit)

/-- Fields of an atomic record (R298): OP, address, operand. -/
def atOp (r : Nat) : Nat := nbits r 0 4
/-- RET. -/
def atRet (r : Nat) : Bool := bitOf r 4
/-- Address. -/
def atAddr (r : Nat) : Nat := nbits r 32 32 + 2 ^ 32 * nbits r 5 9
/-- Bytes of the word. -/
def atBytes (r : Nat) : Nat := if atOp r = 2 then 8 else 4
/-- A record that R297 and R298 refuse, whatever its address. -/
def atBad (r : Nat) : Bool :=
  atOp r == 0 || atOp r > 4 || nbits r 14 18 != 0 || atAddr r % atBytes r != 0 || (atOp r != 2 && nbits r 96 32 != 0)

/-- The word after an atomic: none when ADD_S32_FLOOR leaves it (R299). -/
def atomicWord (op old operand free : Nat) : Option Nat :=
  match op with
  | 1 => some ((old + operand) % 2 ^ 32)
  | 2 => some ((old + operand) % 2 ^ 64)
  | 3 => some (f32Add free old (operand % 2 ^ 32))
  | _ =>
    let v := nsigned 32 old + nsigned 32 operand
    if v < 0 then none else some (npattern 32 v)

/-- Perform an atomic on a word of this module's HBM. -/
def State.doAtomic (s : State) (r : Nat) : State :=
  let a := atAddr r
  let n := atBytes r
  let k := stackOfAddr a
  let old := s.hbmNum a n
  let (f, s1) := s.draw
  let new := atomicWord (atOp r) old (nbits r 64 64) (Config.freeNat f)
  let s2 := ((s1.bump .hbmNarrow k 1).bump .hbmAtomic k 1).bump .hbmRdBytes k n
  let s3 := match new with
    | none => s2
    | some v => (s2.putHbmNum a n v).bump .hbmWrBytes k n
  s3.onMem fun m => { m with atomicOk := new.isSome, atomicOut := if atRet r then some old else none }

/-- An atomic record of a sagger: checks, then the operation. -/
def State.runAtomic (s : State) (name : String) (op g r : Nat) : Host.Outcome State Fault Refusal :=
  if atOp r ≠ op ∧ 1 ≤ atOp r ∧ atOp r ≤ 4 then .refused (.illFormed name)
  else if atBad r then .next (s.narrowReject g (atAddr r))
  else if s.inWindow g (atAddr r) (atBytes r) then .next (s.atomicRemote g (atAddr r) r)
  else if !s.owns g (atAddr r) (atBytes r) then .next (s.narrowReject g (atAddr r))
  else if s.rangeProtected (atAddr r) (atBytes r) then .next (s.writeReject g (atAddr r))
  else .next (s.doAtomic r)

/-- ADD_S32 (R299). -/
def execAddS32 (g : SaggerIx) (rec : BitVec 128) (s : State) : Host.Outcome State Fault Refusal :=
  s.runAtomic "ADD_S32" 1 g.val rec.toNat
/-- ADD_S64 (R299). -/
def execAddS64 (g : SaggerIx) (rec : BitVec 128) (s : State) : Host.Outcome State Fault Refusal :=
  s.runAtomic "ADD_S64" 2 g.val rec.toNat
/-- ADD_F32 (R299). -/
def execAddF32 (g : SaggerIx) (rec : BitVec 128) (s : State) : Host.Outcome State Fault Refusal :=
  s.runAtomic "ADD_F32" 3 g.val rec.toNat
/-- ADD_S32_FLOOR (R299). -/
def execAddS32Floor (g : SaggerIx) (rec : BitVec 128) (s : State) : Host.Outcome State Fault Refusal :=
  s.runAtomic "ADD_S32_FLOOR" 4 g.val rec.toNat

/-! ## Controllers (R296, R300, R304, R305) -/

/-- HBM class of a pending load: 1 on demand, 2 otherwise, less its promotions (R293, R296). -/
def Load.hbmClass (l : Load) : Nat := (if l.demand then 1 else 2) - l.promoted

/-- HBM_PROMOTE (R296): the read of pending load `id` from this stack has waited 10 µs in its class. -/
def execHbmPromote (st : StackIx) (id : Nat) (s : State) : Host.Outcome State Fault Refusal :=
  let due (l : Load) : Bool :=
    l.num.toNat == id && stackOfAddr (l.src * 1024) == st.val && l.hbmClass != 0 && l.since + 10000 ≤ s.refNow
  .next ([0, 1].foldl (fun t d => t.onWare d fun w => { w with
    queue := w.queue.map fun l => if due l then { l with promoted := l.promoted + 1, since := s.refNow } else l }) s)

/-- Refresh rate of a temperature: 0 1×, 1 2×, 2 4× (R300). -/
def rateOf (temp : Int) : Nat := if temp < 85 then 0 else if temp < 95 then 1 else 2
/-- Temperature at which a rate is entered. -/
def rateThreshold (rate : Nat) : Int := if rate = 1 then 85 else 95

/-- The refresh rate after one more millisecond at a temperature (R300). -/
def Stack.refreshed (x : Stack) (temp : Int) : Stack :=
  if rateOf temp > x.refresh then { x with refresh := rateOf temp, coolMs := 0, temp := temp }
  else if x.refresh ≠ 0 ∧ temp ≤ rateThreshold x.refresh - 3 then
    if x.coolMs + 1 ≥ 1000 then { x with refresh := x.refresh - 1, coolMs := 0, temp := temp }
    else { x with coolMs := x.coolMs + 1, temp := temp }
  else { x with coolMs := 0, temp := temp }
/-- The admitted fraction after one more millisecond: 15/16 on entry (R20, R300). -/
def Stack.limited (x : Stack) (temp : Int) : Stack :=
  match x.limit with
  | none => if temp ≥ 105 then { x with limit := some 15 } else x
  | some f =>
    if temp ≥ 105 then { x with limit := some (max 2 (f - 1)) }
    else if temp < 102 then { x with limit := if f + 1 ≥ 16 then none else some (f + 1) }
    else x

/-- REFRESH_TICK (R300). -/
def execRefreshTick (st : StackIx) (temp : Int) (s : State) : Host.Outcome State Fault Refusal :=
  let s1 := s.onStack st.val fun x => (x.refreshed temp).limited temp
  .next (if (s.stack st.val).limit.isNone ∧ temp ≥ 105 then s1.fault 1 9 0xAF 15 st.val 0 else s1)

/-- FRAME_SCRUB (R304, R305): the oldest frame in the stack's scrub queue is zeroed and read back. -/
def execFrameScrub (st : StackIx) (ok : Bool) (s : State) : Host.Outcome State Fault Refusal :=
  match (s.stack st.val).scrubQ with
  | [] => .next s
  | (f, g) :: rest =>
    let s1 := (((s.zeroHbm (f * frameBytes) frameBytes).bump .hbmWrBytes st.val frameBytes).bump .hbmRdBytes st.val frameBytes).onStack st.val fun x => { x with scrubQ := rest }
    if ok then .next ((s1.onSagger g fun x => { x with frames := tdel x.frames f }).bump .hbmScrubbed st.val 1)
    else .next (((s1.setFrame g f .retired).bump .hbmRetired st.val 1).fault 1 9 0xAC g st.val 0)

/-! ## The model store (R307 to R309) -/

/-- A sagger is built: it is not DOWN. -/
def State.built (s : State) (g : Nat) : Bool := (s.sagger g).st != .down
/-- A namespace is locked while any sagger of its set is built (R307). -/
def State.nsLocked (s : State) (ns : Nat) : Bool :=
  (((s.plan.map (·.namespaces)).getD []).find? fun n => n.1 == ns).any fun n =>
    (List.range 12).any fun g => n.2.1.getLsbD g && s.built g
/-- Channel of a logical page: the stripe's parity lies on channel (stripe mod 32), and its data pages on the others in
order. -/
def pageChannel (page : Nat) : Nat := if page % 31 < page / 31 % 32 then page % 31 else page % 31 + 1

/-- STORE_READ (R308, R309): `fails` attempts of the page fail to decode, and `stripeFails` says that a second page of its
stripe fails as well. -/
def execStoreRead (ns : BitVec 4) (page fails : Nat) (stripeFails : Bool) (s : State) : Host.Outcome State Fault Refusal :=
  let n := ns.toNat
  let b := Config.storeBlock n page
  let c := pageChannel page
  let bad := s.storeBad
  let reads := (((s.store.reads.find? fun r => r.1 == (n, b)).map (·.2)).getD 0) + 1
  let due := reads ≥ 50000 ∧ ¬ s.store.queued.contains (n, b)
  let s1 := (s.onStore fun x => { x with
    reads := (x.reads.filter fun r => r.1 != (n, b)) ++ [((n, b), reads)]
    queued := if due then x.queued ++ [(n, b)] else x.queued }).bump .mstDisturb 0 (if due then 1 else 0)
  let s2 := (s1.bump .mstReadBytes 0 16384).bump .mstRetry 0 (if bad.contains c then 0 else min fails 8)
  let good := s2.onStore fun x => { x with lost := x.lost.filter (· != (n, page)) }
  if ¬ bad.contains c ∧ fails ≤ 8 then .next good
  else if stripeFails ∨ bad.any (· != c) then
    .next ((s2.onStore fun x => { x with lost := (x.lost.filter (· != (n, page))) ++ [(n, page)] }).bump .mstUncorr 0 1)
  else .next ((good.bump .mstRecon 0 1).fault 1 0xA 0xAB 15 c n)

/-- DISTURB_RELOCATE (R309): a queued block is relocated while its namespace is unlocked. -/
def execDisturbRelocate (ns : BitVec 4) (block : Nat) (s : State) : Host.Outcome State Fault Refusal :=
  let k := (ns.toNat, block)
  s.when (s.store.queued.contains k && !s.nsLocked ns.toNat)
    (s.onStore fun x => { x with queued := x.queued.filter (· != k), reads := x.reads.filter fun r => r.1 != k })

/-! ## Poisoned chunks (R310, R311) -/

/-- CHUNK_POISON (R310). -/
def execChunkPoison (addr : BitVec 41) (s : State) : Host.Outcome State Fault Refusal := .next (s.poisonChunk addr.toNat)

/-- Bytes of a chunk in the own store; none when a page that it needs is lost (R308). -/
def State.storeChunk (s : State) (i : LoadedImage) (c : Nat) : Option (List Byte) :=
  let o := i.off + i.info.weightOff + c * 65536
  if i.ns ≥ 16 ∨ ((List.range (65536 / 16384 + 1)).any fun k => s.store.lost.contains (i.ns, (o + 16384 * k) / 16384)) then none
  else some (mread s.mem.store (i.ns * 2 ^ 45 + o) (min 65536 (i.info.weightLen - c * 65536)))
/-- The chunk that the first source has returned: a neighbour's once all its blocks are held. -/
def State.returned (s : State) (p : Poison) (i : LoadedImage) (c a : Nat) : Option (List Byte) :=
  match p.sources with
  | [] => none
  | 7 :: _ => some ((s.storeChunk i c).getD [])
  | _ => (s.lat.streams.find? fun t => t.kind == 4 && t.dst == a / 65536 * 65536 && !t.table.isEmpty && t.held.length == t.table.length).map
      fun t => (t.held.map (·.2)).flatten

/-- CHUNK_RELOAD (R311): the source's chunk is checked against its digest, written through the reload path and leaves the
table; a wrong chunk moves the reload to its next source. -/
def execChunkReload (addr : BitVec 41) (s : State) : Host.Outcome State Fault Refusal :=
  let a := addr.toNat
  match s.poisonOf a, (s.imagesAt a).head? with
  | some p, some (_, i) =>
    let c := (i.chunkAt a).getD 0
    match s.returned p i c a with
    | none => .next s
    | some data =>
      let own := p.sources.head? == some 7
      let s1 := if own then s.bump .mstReadBytes 0 65536 else s
      if data.isEmpty || digest256 data != i.info.digests.getD c 0 then .next (s1.nextSource a)
      else
        let s2 := (((s1.putHbm (a / 65536 * 65536) data).bump .hbmWrBytes (stackOfAddr a) data.length).bump .glzOutBytes (dieOfAddr a)
          (if own then 0 else data.length)).dropReload a
        .next ((s2.onPoison (dieOfAddr a) fun l => l.filter fun x => x.chunk != a / 65536).bump
          (if own then .mstReloadStore else .mstReloadPeer) 0 1)
  | _, _ => .next s

/-- Time that a source may take: 60 µs for a neighbour, 1.2 ms for the store. -/
def sourceBound (src : Nat) : Nat := if src = 7 then 1200000 else 60000
/-- RELOAD_SOURCE_TIMEOUT (R311). -/
def execReloadSourceTimeout (addr : BitVec 41) (s : State) : Host.Outcome State Fault Refusal :=
  match s.poisonOf addr.toNat with
  | some p => s.when ((p.sources.head?).any fun k => p.since + sourceBound k ≤ s.refNow) (s.nextSource addr.toNat)
  | none => .next s

end Sys2Proof.Machine
end

