-- ==== Sys2Proof/Machine/ImageLoad.lean ====
section
/-! DEFINITION. Loading a model image: the checks of R55, the placement of its chunks and its installation
(R54, R55, R303, R306, R308, R423). -/

namespace Sys2Proof.Machine

/-! ## Checks at model load (R54, R55) -/

/-- Tiles of a layer: offset in the weight region and length. -/
def LayerInfo.tiles (l : LayerInfo) : List (Nat × Nat) :=
  if l.wfmt = 2 then
    (List.range l.tbmLens.length).map fun k => (l.tileBase + (l.tbmLens.take k).foldl (· + ·) 0, l.tbmLens.getD k 0)
  else (List.range (l.nb * ((l.outputs + 15) / 16))).map fun k => (l.tileBase + k * tileBytes l.wfmt, tileBytes l.wfmt)

/-- Span of a stored L16 column with `n` values (R139, R153). -/
def columnSpan (n : Nat) (bs : List Byte) : Nat :=
  let vs := ((List.range n).map fun i => leNat ((bs.drop (64 + 2 * i)).take 2)).filter fun v => !l16Zero v
  match vs.map l16Log with
  | [] => 0
  | a :: r => (r.foldl max a - r.foldl min a).toNat

/-- A column of an operand matrix exceeds its MSPAN; `rd` reads the weight region. -/
def LayerInfo.spanBad (l : LayerInfo) (rd : Nat → Nat → List Byte) : Bool :=
  l.operands.any fun (page, cols, dim, mspan) => (List.range cols).any fun c =>
    let n := 64 + 2048 * dim
    columnSpan (1024 * dim) (rd (page * 4096 + c * n) n) > mspan

/-- A parameter of R209 beyond its limit; `next` is E of the next MoE layer, 0 in the last. -/
def MoeInfo.bad (m : MoeInfo) (next : Nat) : Bool :=
  m.experts == 0 || m.experts > 1024 || m.kTop == 0 || m.kTop > 7 || m.kTop > m.experts || m.ovf > 8 ||
    m.kTop + m.ovf > m.experts || m.capF == 0 || m.capF > 255 || m.capMin == 0 || m.capMin > 65535 ||
    !([16, 32, 64, 128] : List Nat).contains m.flushN || m.act > 2 || m.prefetchN > next ||
    (m.pred.any fun p => p.length > 4 || p.any fun e => next ≤ e) ||
    [m.xtGu, m.xtAct, m.xtDn, m.xtMix].any (· > 4095) || [m.xtGu, m.xtAct, m.xtDn, m.xtMix].eraseDups.length != 4
/-- The MoE layers break R209. -/
def moeBad : List MoeInfo → Bool
  | [] => false
  | m :: r => m.bad ((r.head?.map (·.experts)).getD 0) || moeBad r

/-- A KV parameter breaks R173 or R176. -/
def ImageInfo.kvBad (i : ImageInfo) : Bool :=
  !([16, 32, 64, 128, 256] : List Nat).contains i.ppp || i.kvb * i.ppp != frameBytes || i.maxPos == 0 || i.maxPos > 8388607 || i.sinks > 255 ||
    i.window > 65535 || i.sInit > 255 || i.scoreEvery == 0 || i.scoreEvery > 255 ||
    !(if i.compactAt = 0 then i.compactTo == 0
      else i.sinks + i.window < i.compactTo && i.compactTo < i.compactAt && i.compactAt ≤ i.maxPos)

/-- The slot of a layer is not the one of R45. -/
def LayerInfo.slotBad (l : LayerInfo) : Bool := l.outFmt != 0 && l.slot != (if l.fallback then 2144 else blockBytes l.outFmt)

/-- The residual target of a layer has a zero column scale (chapter 04). -/
def ImageInfo.residualBad (i : ImageInfo) (l : LayerInfo) : Bool :=
  match l.residual with
  | none => false
  | some t => (i.layers.getD t {}).scales.any fun x => ((bf16 x).getD {}).m == 0

/-- The detail of the first violation found at model load: the version first, then tiles, scales and the parameters.
Where the spec states a rejection and no detail (R3, R45, R106, R153, a zero residual scale) the detail is `free`. -/
def ImageInfo.loadFault (i : ImageInfo) (rd : Nat → Nat → List Byte) (free : Nat) : Option Nat :=
  if i.major ≠ 1 ∨ i.minor > 0 then some 0x0C
  else match i.layers.findSome? fun l => l.tiles.findSome? fun t => tileBad l.wfmt true (rd t.1 t.2) t.2 with
    | some d => some d
    | none =>
      if i.layers.any fun l => l.scales.any fun x => (bf16 x).isNone then some 0x0A
      else if i.layers.any fun l => l.gathered && (l.wfmt == 2 || !l.viaNorm) then some 0x0B
      else if !([64, 128, 256, 512, 1024, 2048, 4096] : List Nat).contains i.ssuN || i.ssuAlpha == 0 || i.ssuAlpha > 256 then some 0x65
      else if i.qPerKv > 16 || i.headDim % 128 != 0 || i.headDim == 0 then some 0x66
      else if i.kvBad then some 0x7B
      else if moeBad (i.layers.filterMap (·.moe)) then some 0x80
      else if i.reserved || (i.layers.any fun l => l.nb > 64 || l.slotBad || i.residualBad l || l.spanBad rd) then some free
      else none

/-! ## Placement and installation (R303, R306, R308, R423) -/

/-- Chunks of an image. -/
def ImageInfo.chunks (i : ImageInfo) : Nat := (i.weightLen + 65535) / 65536
/-- Bytes of chunk `c`. -/
def ImageInfo.chunkLen (i : ImageInfo) (c : Nat) : Nat := min 65536 (i.weightLen - c * 65536)
/-- Bytes of the weight region in the own store. -/
def State.storeWeights (s : State) (i : LoadedImage) (off n : Nat) : List Byte :=
  mread s.mem.store (i.ns * 2 ^ 45 + i.off + i.info.weightOff + off) n
/-- Write a chunk at its place. -/
def State.writeChunk (s : State) (i : LoadedImage) (c : Nat) (data : List Byte) : State :=
  let a := i.byteAddr (c * 65536)
  (s.putHbm a data).bump .hbmWrBytes (stackOfAddr a) data.length
/-- The image is installed for a sagger: its strata are write-protected (R303), and its tally table is configured (R334). -/
def State.installImage (s : State) (g : Nat) (i : LoadedImage) : State :=
  let s1 := (s.onSagger g fun x => { x with images := (x.images.filter fun j => j.index != i.index) ++ [i] }).onMem fun m =>
    { m with wp := i.strata.foldl addSorted m.wp }
  i.info.tallies.foldl (fun s t => s.configTally (tallyKey g t.1) (BitVec.ofNat 64 t.2)) s1
/-- The record of a load that R55 rejects. -/
def State.loadRejected (s : State) (g detail : Nat) : State :=
  s.raise { code := faultCode 3 0 detail, sagger := sgField g, level := 7, unit := 13 }

/-- The whole weight region is written from the own store; a chunk with a page that could not be read is poisoned (R308). -/
def State.loadFromStore (s : State) (g : Nat) (i : LoadedImage) : State :=
  let n := i.info.chunks
  let s1 := (List.range n).foldl (fun s c => s.writeChunk i c (s.storeWeights i (c * 65536) (i.info.chunkLen c))) s
  let s2 := (s1.bump .mstReadBytes 0 i.info.weightLen).installImage g i
  ((List.range n).filter fun c => (s.storeChunk i c).isNone).foldl (fun s c => s.poisonChunk (i.byteAddr (c * 65536))) s2

/-- Another sagger holds the same image in the same strata (R423). -/
def State.sameLoaded (s : State) (i : LoadedImage) : Bool :=
  (List.range 12).any fun g => (s.sagger g).images.any fun j => j.measure == i.measure && j.strata == i.strata

/-- Load an image from the own store: R55 first, then the write, or an attachment to a copy that is already there; answers
whether it was installed. -/
def State.loadImage (s : State) (g : Nat) (i : LoadedImage) : Bool × State :=
  let (f, s1) := s.draw
  match i.info.loadFault (s.storeWeights i) (Config.freeNat f % 256) with
  | some d => (false, s1.loadRejected g d)
  | none => (true, if s1.sameLoaded i then s1.installImage g i else s1.loadFromStore g i)

end Sys2Proof.Machine
end

