-- ==== Sys2Proof/Machine/Slices.lean ====
section
/-! DEFINITION. Slices: the record, the members and the tree toward the slice apex (spec/12_lattice_kiln_and_lute.md,
R370, R371). -/

namespace Sys2Proof.Machine

/-- A field of a slice record: byte offset, bit, width. -/
def Slice.field (x : Slice) (off lo w : Nat) : Nat := nbits x.record.toNat (8 * off + lo) w
/-- JOB: 1 BROADCAST, 2 REDUCE, 3 MIGRATE. -/
def Slice.job (x : Slice) : Nat := x.field 0 16 4
/-- SAGGER. -/
def Slice.sgr (x : Slice) : Nat := x.field 0 20 4
/-- APEX. -/
def Slice.apex (x : Slice) : Coord := BitVec.ofNat 11 (x.field 4 0 11)
/-- ORIGIN. -/
def Slice.origin (x : Slice) : Coord := BitVec.ofNat 11 (x.field 4 16 11)
/-- EX, EY, EZ. -/
def Slice.ext (x : Slice) (dim : Nat) : Nat := x.field 8 (8 * dim) (if dim = 2 then 4 else 5)
/-- Bits [63:0] of the image's measurement. -/
def Slice.digest (x : Slice) : Nat := x.field 12 0 64

/-- Distance of a coordinate from the box origin in one dimension. -/
def Slice.rel (k : PlanKiln) (x : Slice) (c : Coord) (dim : Nat) : Nat :=
  (Coord.at c dim + k.size dim - Coord.at x.origin dim) % k.size dim
/-- The coordinate is a member. -/
def Slice.has (k : PlanKiln) (x : Slice) (c : Coord) : Bool := k.has c && (List.range 3).all fun d => x.rel k c d < x.ext d
/-- The members. -/
def Slice.members (k : PlanKiln) (x : Slice) : List Coord := k.coords.filter (x.has k)

/-- Direction from a member toward the slice apex; a wrap link is used where the slice spans the dimension, and inside a
box that itself lies across it. -/
def Slice.dir (k : PlanKiln) (x : Slice) (c : Coord) : Option Nat :=
  ((List.range 3).find? fun dim => Coord.at c dim != Coord.at x.apex dim).map fun dim =>
    let n := k.size dim
    let fwd := (Coord.at x.apex dim + n - Coord.at c dim) % n
    2 * dim + (if x.ext dim = n then (if fwd ≤ n - fwd then 0 else 1) else if x.rel k c dim < x.rel k x.apex dim then 0 else 1)
/-- Tree parent of a member; the apex has none. -/
def Slice.parent (k : PlanKiln) (x : Slice) (c : Coord) : Option Coord := (x.dir k c).map (k.step c)
/-- Tree children of a member. -/
def Slice.children (k : PlanKiln) (x : Slice) (c : Coord) : List Coord := (x.members k).filter fun m => x.parent k m == some c

/-- A slice that this module knows. -/
def State.slice? (s : State) (id : Nat) : Option Slice := s.lat.slices.find? (·.id == id)
/-- Change a slice. -/
def State.onSlice (s : State) (id : Nat) (f : Slice → Slice) : State :=
  s.onLat fun l => { l with slices := l.slices.map fun x => if x.id = id then f x else x }
/-- Send a SLICE_MARK. -/
def State.sendMark (s : State) (x : Slice) (dst : Coord) (word : Nat) : State :=
  s.sendPacket (s.packet 6 0 dst 0 x.id 15 word 0 0 [])

end Sys2Proof.Machine
end

