-- ==== Sys2Proof/Machine/Streams.lean ====
section
/-! DEFINITION. Glaze streams: the header check, expansion, refetch, failure and compression, and what each kind of stream
does when it ends (spec/10_glaze_compression.md, R316 to R332; R371, R424). -/

namespace Sys2Proof.Machine

/-! ## Streams -/

/-- A received stream. -/
def State.stream? (s : State) (sid : Nat) : Option Stream := s.lat.streams.find? (·.sid == sid)
/-- Change a received stream. -/
def State.onStream (s : State) (sid : Nat) (f : Stream → Stream) : State :=
  s.onLat fun l => { l with streams := l.streams.map fun t => if t.sid = sid then f t else t }
/-- Drop a received stream. -/
def State.dropStream (s : State) (sid : Nat) : State := s.onLat fun l => { l with streams := l.streams.filter (·.sid != sid) }
/-- The BROADCAST load that a stream serves. -/
def State.loadingOf (s : State) (t : Stream) : Option Loading :=
  s.lat.loadings.find? fun l => l.sagger == t.sagger && l.image.index == t.ctxB && l.slice == t.slice && l.slice != 0
/-- Address of block `k` of a stream. -/
def State.streamAddr (s : State) (t : Stream) (k : Nat) : Nat :=
  match t.kind, s.loadingOf t with
  | 3, some l => l.image.byteAddr (t.ctxA * 65536 + 4096 * k)
  | _, _ => t.dst + 4096 * k
/-- Die of the glaze engine that expands block `k` (R316). -/
def State.streamDie (s : State) (t : Stream) (k : Nat) : Nat := dieOfAddr (s.streamAddr t k)
/-- The request whose page a stream of KIND 0x01 carries, and the page's layer key. -/
def State.pageOwner (s : State) (t : Stream) : Option (Req × Nat) :=
  let slot := t.ctxA % 65536
  (s.reqOfSlot t.sagger slot).map fun q => (q, t.ctxA / 65536 + (if q.draftSlot = some slot then 256 else 0))

/-- Send STREAM_END for a lattice stream. -/
def State.endStream (s : State) (t : Stream) (status : Nat) : State :=
  match t.peer with
  | .host _ => s
  | .lattice c => s.sendPacket (s.packet 0x15 (if t.pushed then 2 else 1) c t.xid t.slice (if t.kind = 4 then 15 else t.sagger) status 0 0 [])

/-- Queue a read of the host window for a stream: block 32 is the directory slot (R324). -/
def State.readWindow (s : State) (t : Stream) (block : Nat) : State :=
  match t.peer, s.pageOwner t with
  | .host c, some (q, key) =>
    match q.units.find? fun u => u.1 == key && u.2.1 == t.ctxB with
    | none => s
    | some u =>
      let e := t.table.getD block { offset := 0, mode := 0, short := false, payLen := 0, blkLen := 0, crc := 0 }
      { s with swaps := s.swaps ++ [{
          tag := 0, link := s.linkOfChan c, chan := c, reqId := q.sub.reqId, kslot := 0, write := false
          off := if block = 32 then s.dirOff t.sagger u.2.2 else s.unitOff t.sagger u.2.2 + 16 * e.offset
          bytes := if block = 32 then 1024 else e.padded
          data := [], layer := key, page := t.ctxB, block := block }] }
  | _, _ => s

/-- Ask for the whole stream once more (R327). -/
def State.askAgain (s : State) (t : Stream) : State :=
  let s1 := s.onStream t.sid fun x => { x with
    header := [], index := [], entries := 0, retried := true, pushed := false, xid := if x.pushed then x.sid else x.xid }
  match t.peer with
  | .host _ => s1.readWindow t 32
  | .lattice c =>
    if t.kind = 4 then match (s.imagesAt t.dst).head? with
      | none => s1
      | some (_, i) => s1.sendPacket (s.packet 0x14 1 c t.xid 0 15 t.ctxA (i.measure.toNat % 2 ^ 32) (i.measure.toNat / 2 ^ 32 % 2 ^ 32) [])
    else s1.sendPacket (s.packet 0x13 1 c (if t.pushed then t.sid else t.xid) t.slice t.sagger t.kind t.ctxA t.ctxB [])

/-! ## Incoming migrations (R371, R424) -/

/-- Change an incoming migration. -/
def State.onIncoming (s : State) (x : Incoming) (f : Incoming → Incoming) : State :=
  s.onLat fun l => { l with incoming := l.incoming.map fun y =>
    if y.sagger = x.sagger ∧ y.req.chan = x.req.chan ∧ y.req.sub.reqId = x.req.sub.reqId then f y else y }
/-- The incoming migration that a stream belongs to. -/
def State.incomingOf (s : State) (t : Stream) : Option Incoming :=
  s.lat.incoming.find? fun x => x.sagger == t.sagger && x.slice == t.slice && .lattice x.src == t.peer &&
    x.slots.any fun p => p.1 == t.ctxA % 65536
/-- Abandon an incoming migration: what it has built is freed and the REQ_ID is no longer reserved. -/
def State.dropIncoming (s : State) (x : Incoming) : State :=
  let q := x.req
  let s1 := s.onLat fun l => { l with
    incoming := l.incoming.filter (· != x)
    streams := l.streams.filter fun t => !(t.kind == 2 && t.sagger == x.sagger && t.slice == x.slice && t.peer == .lattice x.src) }
  let s2 := s1.onSagger x.sagger fun y => { y with reserved := y.reserved.filter (· != (q.chan, q.sub.reqId)), live := y.live ++ [q] }
  s2.endReq x.sagger q

/-- The request of a migration as the destination will run it, less its slots. -/
def migrantReq (m : Migrant) (model : Nat) (key : BitVec 256) (x : Sagger) : Req :=
  let sub := { submitOf m.submit with model := model }
  { chan := m.chan.val, tag := m.tag, sub := sub, st := .decode, tSub := m.tSub, arrival := x.arrivals, promptDone := m.prompt
    prefix_ := m.prefix_, out := m.out.map BitVec.toNat, window := m.window.map BitVec.toNat, key := key, fire0 := m.fire0
    firstStep := x.stepNum + 1, lastStep := x.stepNum }

/-- Place one migrated slot: its record with the tables' new places, its entries with new frames, its side words, and the
attached prefix nodes, which must be found here (R201); none when room or a node is missing.  Answers the own slot, the
nodes and the pages to come. -/
def State.placeSlot (s : State) (g slot model : Nat) (q : Submit) (tokens : List Nat) (m : MigrantSlot) :
    Option (List Nat × List (Nat × Nat × Nat) × State) :=
  let i := ((s.image? g model).map (·.info)).getD {}
  let r := m.record.toNat
  let n := nbits r 160 20
  let depth := nbits r 256 17
  let (nodes, s0) := if depth = 0 then ([], s) else s.lookup g q.scope model tokens depth 0 0
  match s0.freeRun g (tableFrames i n) with
  | none => none
  | some f =>
    if n = 0 ∨ nodes.length < depth ∨ m.entries.length ≠ i.attnLayers * n ∨ m.sides.length ≠ i.attnLayers * n * i.ppp then none
    else
      let pt := f * frameBytes / 4096
      let s1 := ((List.range (tableFrames i n)).foldl (fun s k => s.setFrame g (f + k) .table) s0).zeroHbm (f * frameBytes)
        (tableFrames i n * frameBytes)
      let rec' := nsetBits (nsetBits r 128 32 pt) 192 32 (pt + ptBytes i n / 4096)
      let s2 := s1.putHbm (s1.seqAddr g slot) (leBytes (nsetBits (nsetBits rec' 224 32 0) 256 17 0) 64)
      let s3 := ((List.range nodes.length).foldl (fun s j => s.attachNode g slot j (nodes.getD j 0)) s2)
      let s4 := (s3.putSeq g slot 8 0 23 (nbits r 64 23)).putSeq g slot 12 0 23 (nbits r 96 23)
      let s5 := (List.range m.sides.length).foldl (fun s k => s.putHbmNum (s.sideAddr g slot 0 0 + 4 * k) 4 (m.sides.getD k 0).toNat) s4
      (List.range m.entries.length).foldl (fun acc k => acc.bind fun (ns, ps, s) =>
        let e := pteOf (m.entries.getD k 0).toNat
        if !e.valid then some (ns, ps, s.putPte g slot (k / n) (k % n) e)
        else if e.shared then some (ns, ps, s)
        else match s.takeFrame g q.tenant with
          | .error _ => none
          | .ok (fr, s') => some (ns, ps ++ [(slot, k / n, k % n)], s'.putPte g slot (k / n) (k % n) { e with frame := fr, swapped := false }))
        (some (nodes, [], s5))

/-- Start an incoming migration: the checks of R424, then new frames; none when a check fails or room is short. -/
def State.startIncoming (s : State) (x : Slice) (src : Coord) (g : Nat) (m : Migrant) : Option State :=
  let model := (((s.sagger g).images.find? fun i => i.measure.toNat % 2 ^ 64 == x.digest).map (·.index)).getD 65536
  let (key, s0) := s.reqKey (submitOf m.submit)
  let q := migrantReq m model key (s.sagger g)
  let slots := s.freeSlots g m.slots.length
  if submitShapeBad m.submit || s.submitTablesBad g q.sub || s.saggerOfChan m.chan.val != some g || (s.sagger g).st != .serving ||
      ((s.sagger g).findReq m.chan.val q.sub.reqId).isSome || (s.sagger g).reserved.contains (q.chan, q.sub.reqId) ||
      m.slots.length != (if q.sub.spec = 1 then 2 else 1) || slots.length != m.slots.length then none
  else
    let q := { q with slot := slots.getD 0 0, draftSlot := if q.sub.spec = 1 then slots[1]? else none }
    -- the request counts as live while its slots are placed, so that their images are known
    let s1 := s0.onSagger g fun y => { y with
      live := y.live ++ [q], slots := slots.foldl addSorted y.slots, reserved := y.reserved ++ [(q.chan, q.sub.reqId)], arrivals := y.arrivals + 1 }
    let tokens := q.sub.prompt ++ q.out.reverse
    let placed := (List.range slots.length).foldl (fun acc k => acc.bind fun (chains, ps, s) =>
      match m.slots[k]? with
      | none => none
      | some ms => (s.placeSlot g (slots.getD k 0) (if k = 0 then model else q.sub.draft) q.sub tokens ms).map fun (ns, p, s) =>
        (chains ++ [ns], ps ++ p, s)) (some (([] : List (List Nat)), ([] : List (Nat × Nat × Nat)), s1))
    placed.map fun (chains, ps, s2) =>
      let q := { q with chain := chains.getD 0 [], draftChain := chains.getD 1 [] }
      (s2.onSagger g fun y => { y with live := y.live.filter fun r => !(r.chan == q.chan && r.sub.reqId == q.sub.reqId) }).onLat fun l =>
        { l with incoming := l.incoming ++ [{
            slice := x.id, sagger := g, src := src, req := q, left := ps
            slots := (List.range slots.length).map fun k => (((m.slots.map (·.slot.toNat)).getD k 0), slots.getD k 0) }] }

/-- The last page has landed: the REQ_ID is checked again, and the sequence lives here (R371, R424). -/
def State.commitIncoming (s : State) (x : Incoming) (t : Stream) : State :=
  let q := x.req
  if (s.sagger x.sagger).st != .serving || ((s.sagger x.sagger).findReq q.chan q.sub.reqId).isSome ||
      (s.tenant? x.sagger q.sub.tenant).isNone then (s.endStream t 0x91).dropIncoming x
  else
    (((s.onLat fun l => { l with incoming := l.incoming.filter (· != x) }).onSagger x.sagger fun y => { y with
      live := y.live ++ [q], reserved := y.reserved.filter (· != (q.chan, q.sub.reqId)) }).endStream t 0)

/-- A migrated page has landed. -/
def State.landMoved (s : State) (t : Stream) : State :=
  match s.incomingOf t with
  | none => s
  | some x =>
    let slot := ((x.slots.find? fun p => p.1 == t.ctxA % 65536).map (·.2)).getD 0
    let left := x.left.filter (· != (slot, t.ctxA / 65536 % 256, t.ctxB))
    let s1 := s.onIncoming x fun y => { y with left := left }
    if left.isEmpty then s1.commitIncoming { x with left := left } t else s1.endStream t 0

/-! ## BROADCAST and REDUCE (R371) -/

/-- Queue a stream to another member. -/
def State.pushTo (s : State) (x : Slice) (dst : Coord) (kind g ctxA ctxB src len : Nat) : State :=
  let (sid, s1) := s.newSid
  s1.startOut { sid := sid, peer := .lattice dst, xid := sid, kind := kind, sagger := g, slice := x.id, ctxA := ctxA, ctxB := ctxB
                src := src, len := len }

/-- Chunks held from the first one up, without a gap. -/
def Loading.prefixLen (l : Loading) : Nat := ((List.range l.image.info.chunks).takeWhile l.have_.contains).length
/-- Change a load. -/
def State.onLoading (s : State) (l : Loading) (f : Loading → Loading) : State :=
  s.onLat fun y => { y with loadings := y.loadings.map fun z =>
    if z.slice = l.slice ∧ z.sagger = l.sagger ∧ z.image.index = l.image.index then f z else z }
/-- Count of chunks that a member's whole subtree has reported. -/
def Slice.markOf (x : Slice) (c : Coord) : Nat := ((x.marks.find? fun m => m.1 == c).map fun m => m.2 + 1).getD 0

/-- A load goes on: chunks newly held in order go to the children that lack them, one stream for each; the subtree's
progress goes to the parent. -/
def State.advanceLoad (s : State) (l : Loading) : State :=
  match s.slice? l.slice with
  | none => s
  | some x =>
    let k := s.kiln
    let n := l.prefixLen
    let kids := x.children k s.own
    let s1 := ((List.range (n - l.sent)).map (l.sent + ·)).foldl (fun s c => kids.foldl (fun s m =>
      if c < x.markOf m then s
      else s.pushTo x m 3 l.sagger c l.image.index (l.image.byteAddr (c * 65536)) (l.image.info.chunkLen c)) s) s
    let done := (kids.map x.markOf).foldl min n
    let s2 := s1.onLoading l fun y => { y with sent := n, marked := done }
    match x.parent k s.own with
    | some p => if l.marked < done then s2.sendMark x p (done - 1) else s2
    | none => s2

/-- Every chunk of a load is held: the checks of R55, then the image is installed and the command answered. -/
def State.finishLoading (s : State) (l : Loading) : State :=
  let (f, s1) := s.draw
  let rd (off n : Nat) : List Byte := (List.range n).map fun k => mget s.mem.hbm (l.image.byteAddr (off + k))
  match l.image.info.loadFault rd (Config.freeNat f % 256) with
  | some d =>
    ((s1.loadRejected l.sagger d).onLat fun y => { y with loadings := y.loadings.filter (· != l) }).mgmtAnswer l.asker.1 0x33 l.asker.2 6 []
  | none => (s1.installImage l.sagger l.image).mgmtAnswer l.asker.1 0x33 l.asker.2 0 []

/-- A load fails on this module (R327). -/
def State.failLoading (s : State) (l : Loading) (detail die : Nat) : State :=
  ((s.raise { code := faultCode 3 0xB detail, sagger := sgField l.sagger, level := 7, unit := die }).onLat fun y =>
    { y with loadings := y.loadings.filter (· != l)
             streams := y.streams.filter fun t => !(t.kind == 3 && t.slice == l.slice && t.sagger == l.sagger) }).mgmtAnswer
    l.asker.1 0x33 l.asker.2 6 []

/-- A stream of weight chunks has been written: each chunk's digest is checked (R371). -/
def State.landChunks (s : State) (t : Stream) (expLen : Nat) : State :=
  match s.loadingOf t with
  | none => s
  | some l =>
    let cs := (List.range ((expLen + 65535) / 65536)).map (t.ctxA + ·)
    let good (c : Nat) : Bool := digest256 (s.hbm (l.image.byteAddr (c * 65536)) (l.image.info.chunkLen c)) == l.image.info.digests.getD c 0
    if !cs.all good then (s.endStream t 0xB3).failLoading l 0xB3 (s.streamDie t 0)
    else
      let l1 := { l with have_ := cs.foldl addSorted l.have_ }
      let s1 := (s.onLoading l fun _ => l1).endStream t 0
      (if l1.prefixLen = l.image.info.chunks ∧ l.prefixLen < l.image.info.chunks then s1.finishLoading l1 else s1).advanceLoad l1

/-- A contribution has been added: the region goes up once every child's stream has ended; from the apex, or when it came
from the parent, the sum goes down. -/
def State.landGradient (s : State) (t : Stream) (expLen : Nat) : State :=
  let s1 := s.endStream t 0
  match s.slice? t.slice, t.peer with
  | some x, .lattice c =>
    let k := s.kiln
    let kids := x.children k s.own
    let down (s : State) : State := kids.foldl (fun s m => s.pushTo x m 5 t.sagger t.ctxA t.ctxB t.dst expLen) s
    if x.parent k s.own = some c then
      ((down s1).sendMark x x.apex t.ctxB).onSlice x.id fun y => { y with round := t.ctxB + 1, ended := [] }
    else
      let ended := x.ended ++ [c]
      let s2 := s1.onSlice x.id fun y => { y with ended := ended }
      if kids.all ended.contains then
        match x.parent k s.own with
        | some p => s2.pushTo x p 5 t.sagger t.ctxA t.ctxB t.dst expLen
        | none => (down s2).onSlice x.id fun y => { y with ended := [] }
      else s2
  | _, _ => s1

/-! ## The end of a stream -/

/-- A stream fails (R327). -/
def State.failStream (s : State) (t : Stream) (detail : Nat) : State :=
  let d := s.streamDie t 0
  let s1 := (s.bump .glzFailed d 1).dropStream t.sid
  match t.kind with
  | 1 => match s.pageOwner t with
    | none => s1
    | some (q, _) => if detail = 0xB3 then s1.failSwap t.sagger q else s1.failSwapAs 0xB detail d t.sagger q
  | 2 => match s.incomingOf t with
    | none => s1.endStream t detail
    | some x => (s1.endStream t detail).dropIncoming x
  | 3 => match s.loadingOf t with
    | none => s1.endStream t detail
    | some l => (s1.endStream t detail).failLoading l detail d
  | 4 => s1.nextSource t.dst
  | _ => (s1.endStream t detail).fault 3 0xB detail t.sagger d 0

/-- Every block of a stream has been written or added. -/
def State.finishStream (s : State) (t : Stream) : State :=
  let expLen := (glazeHdrOf t.header).expLen
  let s1 := s.dropStream t.sid
  match t.kind with
  | 1 => match s.pageOwner t with
    | none => s1
    | some (q, key) => s1.landPage t.sagger q key t.ctxB
  | 2 => s1.landMoved t
  | 3 => s1.landChunks t expLen
  | 4 => s
  | _ => s1.landGradient t expLen

/-! ## STREAM_HEADER_CHECK (R320, R327, R331) -/

/-- Header and index have arrived. -/
def Stream.headerIn (t : Stream) : Bool :=
  t.st == .header && t.header.length == 32 &&
    (t.entries ≥ (glazeHdrOf t.header).nblk || (glazeHdrOf t.header).nblk > 65536)
/-- The index table that has arrived. -/
def Stream.indexBytes (t : Stream) : List Byte := t.index.take (16 * (glazeHdrOf t.header).nblk)
/-- The destination may be written: frames and chunks by their own rules, a gradient region only in owned strata. -/
def State.streamRoom (s : State) (t : Stream) : Bool :=
  t.kind != 5 || (s.owns t.sagger t.dst (glazeHdrOf t.header).expLen && !s.rangeProtected t.dst (glazeHdrOf t.header).expLen &&
    (glazeTable (glazeHdrOf t.header).nblk t.indexBytes).all fun e => e.blkLen % 4 == 0)
/-- Blocks of a stream from the window that hold no payload go to the expander at once. -/
def State.queueZeros (s : State) (t : Stream) (es : List GlazeEntry) : State :=
  (List.range es.length).foldl (fun s k =>
    if (es[k]?).any fun e => e.payLen == 0 then s.onGlaze (s.streamDie t k) fun e => { e with expQ := e.expQ ++ [(t.sid, k, [])] }
    else s.readWindow { t with table := es } k) s

/-- STREAM_HEADER_CHECK (R320): a stream that fails is asked for once more, and fails with 0xB0 the second time. -/
def execStreamHeaderCheck (sid : Nat) (s : State) : Host.Outcome State Fault Refusal :=
  match s.stream? sid with
  | none => .next s
  | some t =>
    let d := s.streamDie t 0
    let es := glazeTable (glazeHdrOf t.header).nblk t.indexBytes
    let host := match t.peer with
      | .host _ => true
      | .lattice _ => false
    let room := !host || (s.glaze d).expQ.length + (es.filter fun e => e.payLen == 0).length ≤ 64
    if !t.headerIn then .next s
    else if streamOk t.kind t.ctxA t.ctxB t.dstLen t.header t.indexBytes && s.streamRoom t then
      if !room then .next s
      else
        let s1 := (s.bump .glzInBytes d t.indexBytes.length).onStream sid fun x => { x with st := .open, table := es }
        .next (if host then s1.queueZeros t es else s1)
    else if t.retried then .next (s.failStream t 0xB0)
    else .next ((s.fault 1 0xB 0xB1 t.sagger d 0).askAgain t)

/-! ## BLOCK_EXPAND (R322, R325 to R327) -/

/-- Ask for a block again; after three refetches its stream fails. -/
def State.refetchBlock (s : State) (t : Stream) (k : Nat) : State :=
  let n := tget 0 t.refetch k
  if n ≥ 3 then s.failStream t 0xB3
  else
    let s1 := (s.onStream t.sid fun x => { x with
      refetch := tset x.refetch k (n + 1), waiting := (x.waiting.filter fun w => w.1 != k) ++ [(k, s.refNow)] }).bump .glzRefetch
      (s.streamDie t k) 1
    match t.peer with
    | .host _ => s1.readWindow t k
    | .lattice c => s1.sendPacket (s.packet 0x12 1 c t.xid t.slice (if t.kind = 4 then 15 else t.sagger) k 0 0 [])

/-- Add one binary32 value at an address. -/
def State.addF32 (s : State) (a v : Nat) : State :=
  (s.doAtomic (3 + 2 ^ 5 * (a / 2 ^ 32) + 2 ^ 32 * (a % 2 ^ 32) + 2 ^ 64 * v)).onMem fun m =>
    { m with atomicOk := s.mem.atomicOk, atomicOut := s.mem.atomicOut }
/-- Add the values of a block from an address up. -/
def State.addValues (s : State) (a : Nat) (bs : List Byte) : State :=
  (List.range (bs.length / 4)).foldl (fun s k => s.addF32 (a + 4 * k) (leNat ((bs.drop (4 * k)).take 4))) s

/-- A block has passed its checks. -/
def State.blockPassed (s : State) (d : Nat) (t : Stream) (k : Nat) (bs : List Byte) : State :=
  let a := s.streamAddr t k
  let t1 := { t with
    done := addSorted t.done k, waiting := t.waiting.filter fun w => w.1 != k
    held := if t.kind = 4 then tset t.held k bs else t.held }
  let s1 := match t.kind with
    | 4 => s
    | 5 => (s.addValues a bs).bump .glzOutBytes d bs.length
    | _ => ((s.putHbm a bs).bump .hbmWrBytes (stackOfAddr a) bs.length).bump .glzOutBytes d bs.length
  let s2 := s1.onStream t.sid fun _ => t1
  if t1.done.length = t.table.length then s2.finishStream t1 else s2

/-- BLOCK_EXPAND (R322): the oldest block of a die's expander queue. -/
def execBlockExpand (d : DieIx) (s : State) : Host.Outcome State Fault Refusal :=
  match (s.glaze d.val).expQ with
  | [] => .next s
  | (sid, k, pay) :: rest =>
    let s0 := s.onGlaze d.val fun e => { e with expQ := rest }
    match s.stream? sid with
    | none => .next s0
    | some t => match t.table[k]? with
      | none => .next s0
      | some e =>
        if t.done.contains k then .next (s0.bump .glzDup d.val 1)
        else
          let s1 := s0.bump .glzInBytes d.val pay.length
          match expandBlock e pay with
          | some bs => .next (s1.blockPassed d.val t k bs)
          | none => .next (((s1.bump .glzDamaged d.val 1).raiseLimited msNs 0
              { code := faultCode 1 0xB 0xB2, unit := d.val, subunit := k }).refetchBlock t k)

/-- Time that a refetch may take (R326). -/
def StreamPeer.bound : StreamPeer → Nat
  | .lattice _ => 100000
  | .host _ => 200000
/-- REFETCH_TIMEOUT (R326, R327). -/
def execRefetchTimeout (sid : Nat) (block : BitVec 17) (s : State) : Host.Outcome State Fault Refusal :=
  match s.stream? sid with
  | none => .next s
  | some t =>
    s.when (t.waiting.any fun w => w.1 == block.toNat && w.2 + t.peer.bound ≤ s.refNow) (s.refetchBlock t block.toNat)

/-! ## BLOCK_COMPRESS (R323) -/

/-- Bytes of block `k` of an outgoing stream, with the bytes that are glazed as zero. -/
def State.outBytes (s : State) (o : OutStream) (k : Nat) : List Byte :=
  let n := min 4096 (o.len - 4096 * k)
  (List.range n).map fun j =>
    let p := 4096 * k + j
    if o.zeros.any fun z => z.1 ≤ p && p < z.1 + z.2 then 0 else mget s.mem.hbm (o.src + p)

/-- Packets of a stream's header and index: first entry, number of entries and payload (R359). -/
def OutStream.headerParts (o : OutStream) : List (Nat × Nat × List Byte) :=
  let n := o.blocks.length
  (0, min n 254, o.header ++ (o.index.take (16 * 254))) ::
    (List.range ((n - 254 + 255) / 256)).map fun j =>
      let a := 254 + 256 * j
      (a, min 256 (n - a), (o.index.drop (16 * a)).take 4096)
/-- Class of a stream's packets: REQ when pushed, RSP when requested. -/
def OutStream.cls (o : OutStream) : Nat := if o.rsp then 2 else 1
/-- Destination sagger of a stream's packets. -/
def OutStream.dsag (o : OutStream) : Nat := if o.kind = 4 then 15 else o.sagger
/-- Send one block of a stream. -/
def State.sendBlock (s : State) (o : OutStream) (k : Nat) (pay : List Byte) : State :=
  match o.peer with
  | .host _ => s
  | .lattice c => s.sendPacket (s.packet 0x11 o.cls c o.xid o.slice o.dsag k 0 0 pay)
/-- Send a stream that has been compressed: header, index, blocks. -/
def State.sendStream (s : State) (o : OutStream) : State :=
  match o.peer with
  | .host _ => s
  | .lattice c =>
    let s1 := o.headerParts.foldl (fun s p => s.sendPacket (s.packet 0x10 o.cls c o.xid o.slice o.dsag p.1 p.2.1 0 p.2.2)) s
    (List.range o.blocks.length).foldl (fun s k => s.sendBlock o k ((o.blocks.map (·.2)).getD k [])) s1

/-- Count an emitted block. -/
def State.countBlock (s : State) (d : Nat) (mode : Nat) : State :=
  match mode with
  | 0 => s.bump .glzStored d 1
  | 1 => s.bump .glzToken d 1
  | _ => s.bump .glzZero d 1

/-- BLOCK_COMPRESS (R323): the next block of a die's compressor.  A block that its receiver asked for again is sent alone;
the last block of a stream makes it ready. -/
def execBlockCompress (d : DieIx) (s : State) : Host.Outcome State Fault Refusal :=
  match (s.glaze d.val).cmpQ with
  | [] => .next s
  | (sid, k) :: rest =>
    let s0 := s.onGlaze d.val fun e => { e with cmpQ := rest }
    match s.lat.outs.find? (·.sid == sid) with
    | none => .next s0
    | some o =>
      let bs := s.outBytes o k
      let b := compressBlock (bodyBytes (o.blocks.map (·.1)) / 16) bs
      let s1 := ((s0.bump .hbmRdBytes (stackOfAddr (o.src + 4096 * k)) bs.length).bump .glzCmpBytes d.val bs.length).countBlock d.val b.1.mode
      if k < o.blocks.length then .next (s1.sendBlock o k b.2)
      else
        let o1 := { o with blocks := o.blocks ++ [b] }
        let s2 := s1.onLat fun l => { l with outs := l.outs.map fun x => if x.sid = sid then o1 else x }
        .next (if o1.ready then s2.sendStream o1 else s2)

end Sys2Proof.Machine
end

