-- ==== Sys2Proof/Machine/StreamPackets.lean ====
section
/-! DEFINITION. Packets that carry glaze streams and their requests (spec/12_lattice_kiln_and_lute.md, R359; R311, R326,
R371). -/

namespace Sys2Proof.Machine

/-- Take the first waiting packet of a TYPE that `ok` allows. -/
def State.takeWhere (s : State) (type : Nat) (ok : Packet → Bool) : Option (Packet × State) :=
  (s.lat.consumed.find? fun p => p.type == type && ok p).map fun p =>
    (p, s.onLat fun l => { l with consumed := l.consumed.erase p })
/-- Run a handler on the first waiting packet of a TYPE that `ok` allows; nothing happens without one. -/
def State.handle (s : State) (type : Nat) (ok : Packet → Bool) (f : Packet → State → State) :
    Host.Outcome State Fault Refusal :=
  match s.takeWhere type ok with
  | none => .next s
  | some (p, s1) => .next (f p s1)

/-- The received stream of a packet: pushed under a REQ, requested under an RSP. -/
def State.streamOf (s : State) (p : Packet) : Option Stream :=
  s.lat.streams.find? fun t => t.peer == .lattice p.src && t.xid == p.xid && t.pushed == (p.cls == 1)

/-! ## STREAM_HDR (R359, R371, R424) -/

/-- An incoming page that a header names. -/
def Incoming.wants (x : Incoming) (h : GlazeHdr) : Bool :=
  x.slots.any fun p => p.1 == h.ctxA % 65536 && x.left.contains (p.2, h.ctxA / 65536, h.ctxB)

/-- The stream that a pushed header opens in a slice: KIND 0x03 from the parent of a load, 0x05 from a child or the parent,
0x02 from the source of an incoming migration; context words that do not fit are left to R320. -/
def State.expected (s : State) (x : Slice) (p : Packet) (h : GlazeHdr) : Option Stream :=
  let base : Stream := { sid := s.lat.nextXid, peer := .lattice p.src, xid := p.xid, pushed := true, kind := 3, sagger := x.sgr,
                         slice := x.id, ctxA := h.ctxA, ctxB := h.ctxB, dst := 0, dstLen := 0 }
  match x.job with
  | 1 =>
    if x.parent s.kiln s.own ≠ some p.src then none
    else (s.lat.loadings.find? fun l => l.slice == x.id).map fun l =>
      { base with ctxB := l.image.index, dstLen := min (4096 * 65536) (l.image.info.weightLen - 65536 * h.ctxA) }
  | 2 =>
    if x.parent s.kiln s.own = some p.src ∨ (x.children s.kiln s.own).contains p.src then
      some { base with kind := 5, ctxB := x.round, dst := h.ctxA * 4096, dstLen := 2 ^ 28 }
    else none
  | _ => (s.lat.incoming.find? fun y => y.slice == x.id && y.src == p.src && y.wants h).map fun y =>
      let slot := ((y.slots.find? fun q => q.1 == h.ctxA % 65536).map (·.2)).getD 0
      { base with kind := 2, sagger := y.sagger, dst := (s.pte y.sagger slot (h.ctxA / 65536) h.ctxB).frame * frameBytes
                  dstLen := frameBytes }

/-- The first header of a migration brings what the transfer carries besides its pages. -/
def State.beginMigration (s : State) (x : Slice) (p : Packet) (m : Migrant) : State :=
  if x.job ≠ 3 ∨ s.lat.incoming.any (fun y => y.slice == x.id && y.src == p.src) then s
  else match s.startIncoming x p.src x.sgr m with
    | some s1 => s1
    | none => s.sendPacket (s.packet 0x15 2 p.src p.xid x.id x.sgr 0x91 0 0 [])

/-- Enter one header packet's entries into its stream. -/
def Stream.enter (t : Stream) (p : Packet) : Stream :=
  let first := p.arg 16
  let body := if first = 0 then p.payload.drop 32 else p.payload
  let room := max t.index.length (16 * first + body.length)
  let ix := padTo room t.index
  { t with
    header := if first = 0 then p.payload.take 32 else t.header
    index := ix.take (16 * first) ++ body ++ ix.drop (16 * first + body.length)
    entries := t.entries + p.arg 20 }

/-- The packet's slice has a load to come, which it waits for. -/
def State.hdrWaits (s : State) (p : Packet) : Bool :=
  p.cls == 1 && (match s.slice? p.slice with
    | some x => x.member && x.job == 1 && !s.lat.loadings.any fun l => l.slice == x.id
    | none => false)

/-- A header packet reaches its stream, or opens one. -/
def State.takeHeader (s : State) (mig : Option Migrant) (p : Packet) : State :=
  match s.streamOf p with
  | some t => if t.st = .header then s.onStream t.sid fun y => y.enter p else s
  | none =>
    if p.cls ≠ 1 ∨ p.arg 16 ≠ 0 then s
    else match s.slice? p.slice with
      | none => s
      | some x =>
        if !x.member then s
        else
          let s1 := match mig with
            | some m => s.beginMigration x p m
            | none => s
          match s1.expected x p (glazeHdrOf (p.payload.take 32)) with
          | none => s1
          | some t => s1.onLat fun l => { l with nextXid := l.nextXid + 1, streams := l.streams ++ [t.enter p] }

/-- STREAM_HDR (R359): header and index entries reach their receiver. -/
def execStreamHdr (mig : Option Migrant) (s : State) : Host.Outcome State Fault Refusal :=
  s.handle 0x10 (fun p => !s.hdrWaits p) fun p s => s.takeHeader mig p

/-! ## STREAM_BLK (R330, R359) -/

/-- A block can be taken: its stream is checked and its expander has room; one of no stream is discarded. -/
def State.blkReady (s : State) (p : Packet) : Bool :=
  match s.streamOf p with
  | none => !(s.lat.consumed.any fun h => h.type == 0x10 && h.src == p.src && h.xid == p.xid)
  | some t => t.st != .header && (s.glaze (s.streamDie t (p.arg 16))).expQ.length < 64
/-- A block enters the expander queue of its die. -/
def State.takeBlock (s : State) (p : Packet) : State :=
  match s.streamOf p with
  | none => s
  | some t =>
    let k := p.arg 16
    if t.table.length ≤ k then s
    else (s.onStream t.sid fun y => { y with waiting := y.waiting.filter fun w => w.1 != k }).onGlaze (s.streamDie t k) fun e =>
      { e with expQ := e.expQ ++ [(t.sid, k, p.payload)] }
/-- STREAM_BLK (R359). -/
def execStreamBlk (s : State) : Host.Outcome State Fault Refusal := s.handle 0x11 s.blkReady fun p s => s.takeBlock p

/-! ## Requests to a source (R311, R326, R359) -/

/-- The outgoing stream of a packet. -/
def State.outFor (s : State) (p : Packet) : Option OutStream := s.lat.outs.find? fun o => o.peer == .lattice p.src && o.xid == p.xid
/-- Change an outgoing stream. -/
def State.onOut (s : State) (sid : Nat) (f : OutStream → OutStream) : State :=
  s.onLat fun l => { l with outs := l.outs.map fun o => if o.sid = sid then f o else o }
/-- Drop an outgoing stream. -/
def State.dropOut (s : State) (sid : Nat) : State := s.onLat fun l => { l with outs := l.outs.filter (·.sid != sid) }

/-- BLK_REQ (R326): the named block is compressed again. -/
def execBlkReq (s : State) : Host.Outcome State Fault Refusal :=
  s.handle 0x12 (fun _ => true) fun p s =>
    match s.outFor p with
    | none => s
    | some o => if o.count ≤ p.arg 16 then s else s.onGlaze (dieOfAddr o.src) fun e => { e with cmpQ := e.cmpQ ++ [(o.sid, p.arg 16)] }

/-- A REDUCE parent asks for a contribution that has not been sent: the region that CTX_A names.  The spec gives no length
of a contribution; a free value stands for it. -/
def State.sendContribution (s : State) (p : Packet) : State :=
  match s.slice? p.slice with
  | none => s
  | some x =>
    if !x.member || x.job != 2 || p.arg 16 != 5 || x.parent s.kiln s.own != some p.src || p.arg 24 != x.round then s
    else
      let (f, s1) := s.draw
      let len := 4 * (Config.freeNat f % 2 ^ 26 + 1)
      let (sid, s2) := s1.newSid
      if !s.owns x.sgr (p.arg 20 * 4096) len then s
      else s2.startOut { sid := sid, peer := .lattice p.src, xid := p.xid, kind := 5, sagger := x.sgr, slice := x.id, ctxA := p.arg 20
                         ctxB := p.arg 24, src := p.arg 20 * 4096, len := len, rsp := true }

/-- STREAM_REQ (R359): the stream that KIND and the context words name is sent, under the request's XID. -/
def execStreamReq (s : State) : Host.Outcome State Fault Refusal :=
  s.handle 0x13 (fun _ => true) fun p s =>
    match s.lat.outs.find? fun o =>
        o.peer == .lattice p.src && o.kind == p.arg 16 && o.ctxA == p.arg 20 && o.ctxB == p.arg 24 && o.slice == p.slice with
    | none => s.sendContribution p
    | some o =>
      let o1 := { o with rsp := true, xid := p.xid }
      let s1 := s.onOut o.sid fun _ => o1
      if o1.ready then s1.sendStream o1 else s1

/-- The image that a CHUNK_REQ names, with its sagger. -/
def State.imageByDigest (s : State) (digest : Nat) : Option (Nat × LoadedImage) :=
  (List.range 12).findSome? fun g => ((s.sagger g).images.find? fun i => i.measure.toNat % 2 ^ 64 == digest).map fun i => (g, i)
/-- CHUNK_REQ (R311): a chunk that is held and not poisoned is returned glazed. -/
def execChunkReq (s : State) : Host.Outcome State Fault Refusal :=
  s.handle 0x14 (fun _ => true) fun p s =>
    match s.imageByDigest (p.arg 20 + 2 ^ 32 * p.arg 24) with
    | none => s
    | some (g, i) =>
      let a := i.byteAddr (p.arg 16 * 65536)
      if i.info.chunks ≤ p.arg 16 || s.chunkIsPoisoned a then s
      else
        let (sid, s1) := s.newSid
        s1.startOut { sid := sid, peer := .lattice p.src, xid := p.xid, kind := 4, sagger := g, ctxA := p.arg 16, ctxB := i.index, src := a
                      len := i.info.chunkLen (p.arg 16), rsp := true }

/-! ## STREAM_END and UNREACHABLE (R361, R371, R424) -/

/-- The migration that sends a stream. -/
def State.moveOf (s : State) (sid : Nat) : Option Migration := s.lat.migrations.find? fun m => m.left.contains sid
/-- The commit has arrived: the request leaves without a DONE, its pages are freed at the next fire point, and MIGRATE is
answered with the next output index. -/
def State.commitMove (s : State) (m : Migration) : State :=
  let s0 := s.onLat fun l => { l with migrations := l.migrations.filter fun x => !(x.chan == m.chan && x.reqId == m.reqId && x.sagger == m.sagger) }
  match s.mover m with
  | none => s0.mgmtAnswer m.asker.1 0x52 m.asker.2 4 []
  | some q => (s0.mgmtAnswer m.asker.1 0x52 m.asker.2 0 (leBytes q.out.length 4)).stopReq m.sagger q true
/-- A page of a migration has been applied. -/
def State.movedPage (s : State) (m : Migration) (sid : Nat) : State :=
  let m1 := { m with left := m.left.filter (· != sid) }
  let s1 := (s.dropOut sid).onLat fun l => { l with migrations := l.migrations.map fun x => if x = m then m1 else x }
  if m1.left.isEmpty then s1.commitMove m1 else s1
/-- A page of a migration could not be applied: with 0x91 a check of R424 failed and the request stays; otherwise the
request fails (R327). -/
def State.moveFailed (s : State) (m : Migration) (status : Nat) : State :=
  if status = 0x91 then s.dropMove m 2
  else match s.mover m with
    | none => s.dropMove m 8
    | some q => (s.dropMove m 8).failSlot 0xB status m.sagger 0 q.slot

/-- STREAM_END (R371): the outcome of a stream at its receiver. -/
def execStreamEnd (s : State) : Host.Outcome State Fault Refusal :=
  s.handle 0x15 (fun _ => true) fun p s =>
    match s.outFor p with
    | none => s
    | some o =>
      match s.moveOf o.sid with
      | some m => if p.arg 16 = 0 then s.movedPage m o.sid else s.moveFailed m (p.arg 16)
      | none =>
        let up := (s.slice? o.slice).any fun x => x.parent s.kiln s.own == some p.src
        let s1 := s.dropOut o.sid
        if o.kind = 5 ∧ p.arg 16 = 0 ∧ up then s1.zeroHbm o.src o.len else s1

/-- UNREACHABLE (R361): the transfer that the dropped packet belonged to ends. -/
def execUnreachable (s : State) : Host.Outcome State Fault Refusal :=
  s.handle 0x20 (fun _ => true) fun p s =>
    match s.lat.streams.find? fun t => t.xid == p.xid && !t.pushed, s.lat.outs.find? fun o => o.xid == p.xid && !o.rsp with
    | some t, _ => if p.arg 16 = 0x15 then s else s.failStream t 0xD2
    | none, some o => match s.moveOf o.sid with
      | some m => s.dropMove m 8
      | none => s.dropOut o.sid
    | none, none => s

end Sys2Proof.Machine
end

