-- ==== Sys2Proof/Machine/Kiln.lean ====
section
/-! DEFINITION. The kiln apex and the life of slices: liveness, forming, marks, stops and leaves
(spec/12_lattice_kiln_and_lute.md, R365, R366, R370 to R372). -/

namespace Sys2Proof.Machine

/-! ## Leaving and stopping slices (R372) -/

/-- A load that its slice leaves: a finished one is forgotten; the chunks of an unfinished one stay, under slice 0. -/
def State.parkLoadings (s : State) (id : Nat) : State :=
  (s.lat.loadings.filter (·.slice == id)).foldl (fun s l =>
    if l.prefixLen = l.image.info.chunks then s.onLat fun y => { y with loadings := y.loadings.filter (· != l) }
    else (s.onLoading l fun y => { y with slice := 0, sent := 0, marked := 0 }).mgmtAnswer l.asker.1 0x33 l.asker.2 8 []) s

/-- This module abandons a slice: its streams, migrations and loads end without a stream fault. -/
def State.dropSlice (s : State) (id : Nat) : State :=
  let s1 := (s.lat.incoming.filter (·.slice == id)).foldl (fun s x => s.dropIncoming x) s
  let s2 := (s1.lat.migrations.filter (·.slice == id)).foldl (fun s m => s.dropMove m 8) s1
  let s3 := s2.parkLoadings id
  s3.onLat fun l => { l with
    streams := l.streams.filter fun t => t.slice != id || id == 0
    outs := l.outs.filter fun o => o.slice != id || id == 0
    slices := l.slices.filter (·.id != id) }

/-- The apexes, each once. -/
def State.apexes (s : State) : List Coord := [s.kiln.apex, s.kiln.backup].eraseDups
/-- Leave the slices that `p` selects, telling both apexes (R372). -/
def State.leaveSlices (s : State) (p : Slice → Bool) (code : BitVec 16) : State :=
  (s.lat.slices.filter fun x => x.member && p x).foldl (fun s x =>
    (s.apexes.foldl (fun s c => s.sendPacket (s.packet 7 0 c 0 x.id 15 x.id code.toNat 0 [])) s).dropSlice x.id) s

/-- The kiln apex stops a slice: SLICE_STOP to every member but those lost and `except` (R366, R372). -/
def State.stopSlice (s : State) (x : Slice) (except : Option Coord) (fault : Coord) (code : BitVec 16) : State :=
  let told := (x.members s.kiln).filter fun c => !s.lat.lostModules.contains c && except != some c
  let s1 := told.foldl (fun s c => s.sendPacket (s.packet 5 0 c 0 x.id 15 fault.toNat code.toNat 0 [])) s
  if x.member then s1.onSlice x.id fun y => { y with active := false }
  else s1.onLat fun l => { l with slices := l.slices.filter (·.id != x.id) }

/-- A record of the lattice control, found by house setter 13. -/
def State.kilnFault (s : State) (detail : Nat) (g : Nat) (addr : Nat) : State :=
  s.raise { code := faultCode 6 0 detail, sagger := sgField g, unit := 13, addr := addr }

/-! ## Liveness (R365, R366) -/

/-- The report that a LOSS or RESTORE packet carries. -/
def lossOf (p : Packet) (now : Nat) : LossReport :=
  { at_ := p.src, port := p.arg 16, beyond := BitVec.ofNat 11 (p.arg 20), time := now, reason := p.arg 24 }
/-- This module keeps the liveness map. -/
def State.keepsMap (s : State) : Bool := s.lat.apex || s.lat.backup
/-- LOSS (R366). -/
def execLoss (s : State) : Host.Outcome State Fault Refusal :=
  s.handle 1 (fun _ => true) fun p s =>
    if s.keepsMap then s.onLat fun l => { l with reports := l.reports ++ [lossOf p s.refNow] } else s
/-- A link of the liveness map comes back. -/
def dropLink (a b : Coord) (l : List (BitVec 11 × BitVec 11)) : List (BitVec 11 × BitVec 11) := l.erase (a, b)
/-- RESTORE (R365). -/
def execRestore (s : State) : Host.Outcome State Fault Refusal :=
  s.handle 2 (fun _ => true) fun p s =>
    let r := lossOf p s.refNow
    if s.keepsMap then s.onLat fun l => { l with
      reports := l.reports.filter fun x => !(x.at_ == r.at_ && x.port == r.port)
      lostLinks := dropLink r.at_ r.beyond l.lostLinks
      lostModules := l.lostModules.filter fun c => c != r.beyond && c != r.at_ } else s

/-- Links between two neighbours: two where a dimension has size 2. -/
def PlanKiln.links (k : PlanKiln) (a b : Coord) : Nat :=
  ((List.range 6).filter fun d => k.size (d / 2) > 1 && k.step a d == b).length
/-- Neighbours of a coordinate. -/
def PlanKiln.neighbours (k : PlanKiln) (c : Coord) : List Coord :=
  (((List.range 6).filter fun d => k.size (d / 2) > 1).map (k.step c)).eraseDups
/-- Reports name every port that was UP toward a module (R366). -/
def State.moduleLost (s : State) (c : Coord) (rs : List LossReport) : Bool :=
  (s.kiln.neighbours c).all fun n => s.lat.lostModules.contains n ||
    s.kiln.links n c ≤ (rs.filter fun r => r.at_ == n).length + (s.lat.lostLinks.filter fun x => x == (n, c)).length

/-- The slices that a lost module or lost links stop. -/
def State.stopLost (s : State) (modules : List Coord) (links : List (Coord × Coord)) : State :=
  s.lat.slices.foldl (fun s x =>
    match modules.find? (x.has s.kiln), links.find? fun l => x.has s.kiln l.1 && x.has s.kiln l.2 with
    | some c, _ => s.stopSlice x none c (faultCode 6 0 0xD5)
    | none, some l => s.stopSlice x none l.2 (faultCode 5 0xD 0xD2)
    | none, none => s) s

/-- The backup apex takes over every duty of a lost kiln apex, from the reports that it holds. -/
def State.takeOver (s : State) : State :=
  let s1 := (s.onLat fun l => { l with apex := true }).onTb fun t => { t with parent := 7 }
  s1.stopLost s1.lat.lostModules s1.lat.lostLinks

/-- When the first waiting report about a coordinate arrived. -/
def State.firstReport (s : State) (c : Coord) : Option Nat := (s.lat.reports.find? (·.beyond == c)).map (·.time)
/-- The first report about a coordinate is 50 µs old. -/
def State.windowOver (s : State) (c : Coord) : Bool := (s.firstReport c).any fun t => t + 50000 ≤ s.refNow
/-- A report about the coordinate arrived within the 50 µs. -/
def State.inReportWindow (s : State) (c : Coord) (r : LossReport) : Bool :=
  r.beyond == c && (s.firstReport c).any fun t => r.time ≤ t + 50000

/-- APEX_LOSS_WINDOW (R366): the reports about a coordinate are judged. -/
def execApexLossWindow (coord : BitVec 11) (s : State) : Host.Outcome State Fault Refusal :=
  if !s.keepsMap || !s.windowOver coord then .next s
  else
    let rs := s.lat.reports.filter (s.inReportWindow coord)
    let s1 := s.onLat fun l => { l with reports := l.reports.filter fun r => !s.inReportWindow coord r }
    if s.moduleLost coord rs then
      let s2 := s1.onLat fun l => { l with lostModules := (l.lostModules.filter (· != coord)) ++ [coord] }
      if s.lat.apex then .next ((s2.kilnFault 0xD5 15 coord.toNat).stopLost [coord] [])
      else if coord = s.kiln.apex then .next (s2.kilnFault 0xD5 15 coord.toNat).takeOver
      else .next s2
    else
      let ls := rs.map fun r => (r.at_, coord)
      let s2 := s1.onLat fun l => { l with lostLinks := l.lostLinks ++ ls }
      .next (if s.lat.apex then s2.stopLost [] ls else s2)

/-! ## Forming (R370) -/

/-- A slice record has an illegal field. -/
def State.sliceBad (s : State) (x : Slice) : Bool :=
  x.id == 0 || x.job == 0 || x.job > 3 || x.sgr > 11 || x.field 0 24 8 != 0 || x.field 4 11 5 != 0 || x.field 4 27 5 != 0 ||
    x.field 8 5 3 != 0 || x.field 8 13 3 != 0 || x.field 8 20 12 != 0 || x.field 24 0 64 != 0 ||
    ((List.range 3).any fun d => x.ext d == 0 || x.ext d > s.kiln.size d) || !s.kiln.has x.origin || !x.has s.kiln x.apex
/-- The slice that a record describes. -/
def sliceOf (r : BitVec 256) : Slice := { id := r.toNat % 65536, record := r, round := nbits r.toNat 160 32 }

/-- Slices that this module belongs to. -/
def State.memberships (s : State) : Nat := (s.lat.slices.filter (·.member)).length
/-- The refusal reason of R370, 0 to accept. -/
def State.joinReason (s : State) (x : Slice) : Nat :=
  if s.sliceBad x || !x.has s.kiln s.own || (s.slice? x.id).any (·.member) then 4
  else if (s.sagger x.sgr).st != .serving then 1
  else if s.memberships ≥ 8 then 2
  else if x.job != 1 && !(s.sagger x.sgr).images.any (fun i => i.measure.toNat % 2 ^ 64 == x.digest) then 3
  else 0

/-- SLICE_JOIN (R370). -/
def execSliceJoin (s : State) : Host.Outcome State Fault Refusal :=
  s.handle 3 (fun _ => true) fun p s =>
    let x := sliceOf (BitVec.ofNat 256 (leNat (p.payload.take 32)))
    let r := if p.len = 32 then s.joinReason x else 4
    let s1 := if r ≠ 0 then s
      else if (s.slice? x.id).isSome then s.onSlice x.id fun y => { y with member := true }
      else s.onLat fun l => { l with slices := l.slices ++ [{ x with member := true, active := true, started := s.refNow }] }
    s1.sendPacket (s1.packet 4 0 p.src p.xid x.id 15 r 0 0 [])

/-- The kiln apex is still forming the slice. -/
def Slice.forming (x : Slice) : Bool := x.asker.isSome && !x.active
/-- A slice that did not form is dissolved: its members leave it, 0xDB is raised and SLICE_FORM is answered. -/
def State.formFailed (s : State) (x : Slice) (status : Nat) : State :=
  let s1 := (s.stopSlice x none s.own (faultCode 6 0 0xDB)).kilnFault 0xDB x.sgr 0
  match x.asker with
  | some (k, tag) => (s1.onSlice x.id fun y => { y with asker := none }).mgmtAnswer k 0x50 tag status []
  | none => s1
/-- Status of SLICE_FORM for a refusal reason. -/
def refusalStatus (reason : Nat) : Nat := match reason with | 3 => 5 | 4 => 2 | _ => 4

/-- SLICE_ACK (R370): the slice becomes active with the last acceptance; a refusal dissolves it. -/
def execSliceAck (s : State) : Host.Outcome State Fault Refusal :=
  s.handle 4 (fun _ => true) fun p s =>
    match s.slice? p.slice with
    | none => s
    | some x =>
      if !s.lat.apex || !x.forming then s
      else if p.arg 16 ≠ 0 then s.formFailed x (refusalStatus (p.arg 16))
      else
        let acc := (x.accepts.filter (· != p.src)) ++ [p.src]
        let s1 := s.onSlice x.id fun y => { y with accepts := acc }
        if (x.members s.kiln).all acc.contains then
          match x.asker with
          | some (k, tag) => (s1.onSlice x.id fun y => { y with active := true, asker := none }).mgmtAnswer k 0x50 tag 0 []
          | none => s1
        else s1

/-- SLICE_FORM_TIMEOUT (R370). -/
def execSliceFormTimeout (slice : BitVec 16) (s : State) : Host.Outcome State Fault Refusal :=
  match s.slice? slice.toNat with
  | none => .next s
  | some x => s.when (s.lat.apex && x.forming && x.started + 10000000 ≤ s.refNow) (s.formFailed x 8)

/-! ## Marks, stops and leaves (R371, R372) -/

/-- Every other member has reported a round. -/
def Slice.roundOver (x : Slice) (k : PlanKiln) (own : Coord) : Bool :=
  (x.members k).all fun c => c == own || x.marks.any fun m => m.1 == c && m.2 == x.round

/-- SLICE_MARK (R371): a REDUCE round ends at the slice apex with the last mark; a BROADCAST goes on. -/
def execSliceMark (s : State) : Host.Outcome State Fault Refusal :=
  s.handle 6 (fun _ => true) fun p s =>
    match s.slice? p.slice with
    | none => s
    | some x0 =>
      let x := { x0 with marks := (x0.marks.filter fun m => m.1 != p.src) ++ [(p.src, p.arg 16)] }
      let s1 := s.onSlice x.id fun _ => x
      if x.job = 2 ∧ x.apex = s.own then
        if x.roundOver s.kiln s.own then s1.onSlice x.id fun y => { y with round := x.round + 1, ended := [], marks := [] } else s1
      else if x.job = 1 then
        match s.lat.loadings.find? fun l => l.slice == x.id with
        | some l => s1.advanceLoad l
        | none => s1
      else s1

/-- SLICE_STOP (R372). -/
def execSliceStop (s : State) : Host.Outcome State Fault Refusal :=
  s.handle 5 (fun _ => true) fun p s =>
    match s.slice? p.slice with
    | none => s
    | some x => if x.member then (s.dropSlice x.id).kilnFault 0xD6 x.sgr 0 else s

/-- SLICE_LEAVE (R372): the kiln apex stops the slice at the surviving members. -/
def execSliceLeave (s : State) : Host.Outcome State Fault Refusal :=
  s.handle 7 (fun _ => true) fun p s =>
    match s.slice? (p.arg 16) with
    | none => s
    | some x => if s.lat.apex then s.stopSlice x (some p.src) p.src (BitVec.ofNat 16 (p.arg 20)) else s

end Sys2Proof.Machine
end

