-- ==== Sys2Proof/Machine/Power.lean ====
section
/-! DEFINITION. Speed, voltage and throttling (R18 to R20 of spec/01_module_at_work.md). -/

namespace Sys2Proof.Machine

/-- The firmware runs: rails on, RST_N high, start sequence past step 1, no boot failure (R443, R432). -/
def State.firmwareUp (s : State) : Bool := s.power.rails && s.power.rstN && 2 ≤ s.boot.phase && !s.boot.dead

/-- The beat factor × 4,096 from the window counts of one millisecond: the mean beat of the slower die divided by
1.00 ns.  A count is the number of lane beats in 100 µs (DEDUCED, log entry 12).  Counts that give no value of 16 bits
leave a free value. -/
def beatFactor (free : Nat) (ws : List (Nat × Nat)) : Nat :=
  let n := min (ws.foldl (fun a w => a + w.1) 0) (ws.foldl (fun a w => a + w.2) 0)
  let f := ws.length * 100000 * 4096 / n
  if n = 0 ∨ f ≥ 2 ^ 16 then Config.freeNat free % 2 ^ 16 else f

/-- REPLICA_COUNT_WINDOW (R18). -/
def execReplicaCountWindow (n0 n1 : Nat) (s : State) : Host.Outcome State Fault Refusal :=
  s.when s.firmwareUp (s.onPower fun p => { p with replica := p.replica ++ [(n0, n1)] })

/-- BEAT_FACTOR_UPDATE (R18): CON_BEAT_FACTOR takes the mean of the millisecond's windows. -/
def execBeatFactorUpdate (s : State) : Host.Outcome State Fault Refusal :=
  s.when (s.firmwareUp && !s.power.replica.isEmpty)
    { (s.setReg .conBeatFactor 0 (beatFactor s.freeCtr s.power.replica)).onPower (fun p => { p with replica := [] }) with
      freeCtr := s.freeCtr + 1 }

/-- Lowest rail voltage of die `d` in mV: 650, or V_FLOOR when it is higher (R20, R455). -/
def State.railFloor (s : State) (d : Nat) : Nat := max 650 (s.cone d).vfloor

/-- Highest voltage of die `d`: the ceiling, and the highest at which power and junctions are within limits, but never
below the floor (R19, R455).  In bisque mode the rails are held at V_FLOOR (R457). -/
def State.railTarget (s : State) (d hi : Nat) : Nat :=
  if s.boot.bisque then s.railFloor d else max (s.railFloor d) (min (min s.device.vceil 900) hi)

/-- A rail moves by at most 1 mV in 1 µs (R19). -/
def moveRail (v target : Nat) : Nat := if v < target then v + 1 else if target < v then v - 1 else v

/-- Input power above the cap, or a junction above 95 °C (R19). -/
def State.overLimit (s : State) (power : Nat) (tj0 tj1 : Int) : Bool :=
  decide (power > min s.device.powerCap 1500) || decide (tj0 > 95) || decide (tj1 > 95)

/-- A rail is at its floor. -/
def State.atFloor (s : State) : Bool :=
  decide (s.power.rail0 ≤ s.railFloor 0) || decide (s.power.rail1 ≤ s.railFloor 1)

/-- Entry to the throttle state with F = 15/16, its record and its count (R20). -/
def State.throttleEntry (s : State) (high : Bool) : State :=
  if s.power.throttle.isNone && high && s.atFloor then
    ((s.onPower fun p => { p with throttle := some 15 }).bump .conThrottle 0 1).fault 1 0 0x3D 15 12 0
  else s

/-- F after a millisecond in the throttle state; none when the module leaves it (R20). -/
def throttleStep (f : Nat) (high : Bool) : Option Nat :=
  if high then some (max 2 (f - 1)) else if f + 1 ≥ 16 then none else some (f + 1)

/-- VOLTAGE_SELECT (R19, R20): one microsecond of the limiter. -/
def execVoltageSelect (power : Nat) (tj0 tj1 : Int) (hi0 hi1 : Nat) (s : State) : Host.Outcome State Fault Refusal :=
  s.when s.firmwareUp
    ((s.onPower fun p => { p with
        rail0 := moveRail p.rail0 (s.railTarget 0 hi0), rail1 := moveRail p.rail1 (s.railTarget 1 hi1) }).throttleEntry
      (s.overLimit power tj0 tj1))

/-- THROTTLE_TICK (R20): one millisecond of the throttle state, or entry to it. -/
def execThrottleTick (power : Nat) (tj0 tj1 : Int) (s : State) : Host.Outcome State Fault Refusal :=
  let high := s.overLimit power tj0 tj1
  s.when s.firmwareUp
    (match s.power.throttle with
     | some f => s.onPower fun p => { p with throttle := throttleStep f high }
     | none => s.throttleEntry high)

end Sys2Proof.Machine
end

