-- ==== Sys2Proof/Machine/Lattice.lean ====
section
/-! DEFINITION. Lattice and lute ports, flits, forwarding, losses and the kiln timebase
(spec/12_lattice_kiln_and_lute.md, R347 to R369; R379, R380). -/

namespace Sys2Proof.Machine

/-! ## Ports and groups (R347, R348) -/

/-- Lane groups of a port. -/
def portGroups (p : Nat) : Nat := if p = 6 then 12 else 6
/-- Fewest usable groups with which a port runs. -/
def minGroups (p : Nat) : Nat := if p = 6 then 6 else 3
/-- BIST has marked a lane of the group. -/
def State.groupMarked (s : State) (p g : Nat) : Bool :=
  (List.range 8).any fun l => if p = 6 then s.marked 428 (8 * g + l) else s.marked 392 (48 * p + 8 * g + l)
/-- Groups free of marks. -/
def State.freeGroups (s : State) (p : Nat) : List Nat := (List.range (portGroups p)).filter fun g => !s.groupMarked p g
/-- A mask of groups. -/
def groupMask (gs : List Nat) : BitVec 12 := gs.foldl (fun m g => m ||| (1 <<< g)) 0
/-- Groups that a port may use: unmarked, not excluded, locked. -/
def State.liveGroups (s : State) (p : Nat) (locked : BitVec 12) : List Nat :=
  (s.freeGroups p).filter fun g => !(s.port p).excluded.getLsbD g && locked.getLsbD g

/-- The links run: the start has passed step 4, and the module is not in bisque mode with reason 0x01 (R443, R457). -/
def State.linksRun (s : State) : Bool :=
  s.firmwareUp && (4 ≤ s.boot.phase || s.boot.bisque) && !(s.boot.bisque && s.boot.reason == 1) && !s.boot.idle
/-- The plan and LAT_CTL enable a port (R357, R379). -/
def State.portEnabled (s : State) (p : Nat) : Bool :=
  s.linksRun && (if p = 6 then s.device.role != 0
    else !s.device.latOff.getLsbD p && s.kiln.size (p / 2) > 1 && s.reg .latCtl p % 2 == 1)

/-- Reason of a port whose locked lane groups are too few: 0x01 when no lane locks at all, else 0x02 (R378, R490). -/
def groupsReason (locked : BitVec 12) : Nat := if locked = 0 then 1 else 2
/-- A port goes DOWN with a reason and is retried after 10 ms. -/
def State.portFails (s : State) (p reason : Nat) : State :=
  s.onPort p fun x => { x with st := .down, reason := reason, groups := 0, retry := true, started := s.refNow, ack := false, peerAck := false }
/-- Training starts: steps 1 to 3 of R352; a port without enough unmarked groups stays DOWN until the next start. -/
def State.startTraining (s : State) (p : Nat) : State :=
  if (s.freeGroups p).length < minGroups p then
    s.onPort p fun x => { x with st := .down, reason := 2, retry := false, barred := true, groups := 0 }
  else s.onPort p fun x => { x with
    st := .train, reason := 0, groups := groupMask ((s.freeGroups p).filter fun g => !x.excluded.getLsbD g), started := s.refNow
    retry := false, ack := false, peerAck := false, txSeq := 0, rxSeq := 0, replay := [], replays := 0, rx := [], ackOut := none
    nakOut := none, freed := [], credit := [] }

/-- PORT_ENABLE (R357). -/
def execPortEnable (p : PortIx) (s : State) : Host.Outcome State Fault Refusal :=
  let x := s.port p.val
  s.when (x.st == .down && !x.retry && !x.barred && s.portEnabled p.val) (s.startTraining p.val)
/-- PORT_TRAIN_RETRY (R357). -/
def execPortTrainRetry (p : PortIx) (s : State) : Host.Outcome State Fault Refusal :=
  let x := s.port p.val
  s.when (x.st == .down && x.retry && x.started + 10000000 ≤ s.refNow && s.portEnabled p.val) (s.startTraining p.val)
/-- PORT_TRAIN_TIMEOUT (R352, R357). -/
def execPortTrainTimeout (p : PortIx) (locked : BitVec 12) (s : State) : Host.Outcome State Fault Refusal :=
  let x := s.port p.val
  s.when ((x.st == .train || x.st == .check) && x.started + 20000000 ≤ s.refNow)
    (s.portFails p.val (if (s.liveGroups p.val locked).length < minGroups p.val then groupsReason locked else 9))

/-! ## Links to the apexes and the parent port (R365, R367) -/

/-- Tell both apexes of a loss or its end. -/
def State.tellApexes (s : State) (type p reason : Nat) (beyond : Coord) : State :=
  s.apexes.foldl (fun s c => s.sendPacket (s.packet type 0 c 0 0 15 p beyond.toNat reason [])) s
/-- The first hop toward the kiln apex, with a detour where its port is down; 7 on the master. -/
def State.parentPort (s : State) : Option Nat :=
  if s.lat.apex then some 7
  else (s.kiln.hop s.own s.kiln.apex).bind fun d => (s.portServing d).or (s.detourPort (d / 2))
/-- The parent port is chosen anew; a timebase whose parent has gone down holds over (R368). -/
def State.reparent (s : State) : State :=
  let t := s.tb
  let lost := t.parent < 7 && !s.portUp t.parent
  s.onTb fun t => { t with
    parent := s.parentPort.getD t.parent
    st := if lost && (t.st == .locked || t.st == .locking) then .holdover else t.st, lockSince := if lost then none else t.lockSince }

/-! ## Loss (R364, R365) -/

/-- Reloads that wait for a lost neighbour move on (R328). -/
def State.dropReloads (s : State) (c : Coord) : State :=
  (s.lat.streams.filter fun t => t.kind == 4 && t.peer == .lattice c).foldl (fun s t => s.failStream t 0xD2) s
/-- Packets that waited for a port are routed again. -/
def State.reroute (s : State) (l : List (Nat × Packet)) : State :=
  l.foldl (fun s x => s.routePacket none (x.2.set 12 16 8 (x.2.hops - 1))) s

/-- The neighbour of a port is lost: the port is DOWN, or HELD at the fourth loss within 10 s; what waited is routed again;
a lattice port reports to both apexes, the lute stops its pair. -/
def State.portLost (s : State) (p : Nat) (reason : Nat) : State :=
  let x := s.port p
  let times := (x.losses.filter fun t => s.refNow < t + 10 ^ 10) ++ [s.refNow]
  let held := times.length ≥ 4
  let s1 := s.onPort p fun y => { y with
    st := if held then .held else .down, reason := if held then 7 else reason, groups := 0, retry := !held, started := s.refNow
    losses := times, replay := [], replays := 0, rx := [], credit := [], freed := [], out := [], ack := false, peerAck := false
    reported := p != 6 }
  let s2 := (if p = 6 then s1 else s1.bump .latLoss p 1).fault 5 0xD 0xD2 15 p 0
  let s3 := if held then s2.fault 5 0xD 0xD4 15 p 0 else s2
  if p = 6 then s3.onLute fun l => { l with stop := l.paired || l.stop }
  else (((s3.reparent.reroute x.out).tellApexes 1 p (if held then 7 else reason) x.nbrAt).dropReloads x.nbrAt)

/-- LATTICE_LOSS_DETECT (R364): 2 µs without a frame, or 3.5 µs without a heartbeat. -/
def execLatticeLossDetect (p : PortIx) (s : State) : Host.Outcome State Fault Refusal :=
  let x := s.port p.val
  s.when (x.st == .up && (x.lastRx + 2000 ≤ s.refNow || x.lastHb + 3500 ≤ s.refNow)) (s.portLost p.val 0)

/-! ## Training records (R353 to R356, R373) -/

/-- A field of a training record. -/
def recField (r : BitVec 256) (off lo w : Nat) : Nat := nbits r.toNat (8 * off + lo) w
/-- Reserved bits of a record. -/
def recReserved (r : BitVec 256) : Bool :=
  recField r 12 16 16 != 0 || recField r 16 8 24 != 0 || recField r 24 13 19 != 0 || recField r 28 2 30 != 0
/-- The sender's coordinate. -/
def recCoord (r : BitVec 256) : Coord := BitVec.ofNat 11 (recField r 12 0 11)
/-- The sender's MODULE_ID. -/
def recId (r : BitVec 256) : Nat := recField r 4 0 64
/-- The opposite direction. -/
def opposite (d : Nat) : Nat := if d % 2 = 0 then d + 1 else d - 1

/-- Highest common major version: this part supports major 1; and the smaller minor (R356). -/
def recVersion (r : BitVec 256) : Option (Nat × Nat) :=
  if recField r 16 0 1 = 1 then some (1, min 2 (recField r 20 0 4)) else none

/-- Direction of an adjacent peer; in a dimension of size 2 the peer's PORT decides (R354). -/
def State.peerDir (s : State) (r : BitVec 256) : Option Nat :=
  let ds := (List.range 6).filter fun d => s.kiln.size (d / 2) > 1 && s.kiln.step s.own d == recCoord r
  let d := opposite (recField r 12 11 3)
  if ds.length > 1 && ds.contains d then some d else ds.head?

/-- The outcome of the checks on a peer's record: a reason to hold the port, or the direction that it serves. -/
def State.checkRecord (s : State) (p : Nat) (r : BitVec 256) : Except Nat Nat :=
  if p = 6 then
    let role := recField r 12 14 2
    if recId r ≠ s.device.partner.toNat ∨ role + s.device.role ≠ 3 ∨ role = 0 ∨ role = 3 ∨
        recField r 24 0 12 ≠ s.device.luted.toNat ∨ s.device.luted = 0 then .error 8
    else if (recVersion r).isNone then .error 5 else .ok 0
  else
    let k := s.kiln
    let c := recCoord r
    if s.moduleId ≠ k.idAt s.own ∨ recField r 0 0 32 ≠ k.kilnId.toNat ∨ !k.has c ∨ k.idAt c ≠ recId r then .error 4
    else match s.peerDir r with
      | none => .error 4
      | some d =>
        let fits := d = p ∧ recField r 12 11 3 = opposite d
        if (¬ fits ∧ ¬ s.device.learn) ∨ (List.range 6).any (fun q => q != p && s.portUp q && (s.port q).serves == d) then .error 3
        else if (recVersion r).isNone then .error 5 else .ok d

/-- The port is held. -/
def State.holdPort (s : State) (p reason : Nat) : State :=
  (s.onPort p fun x => { x with st := .held, reason := reason, groups := 0, ack := false, peerAck := false }).fault 5 0xD 0xD0 15 p 0

/-- Credit of a channel at training: 64 KiB in units of 16 B (R350). -/
def firstCredit : Tab Nat := (List.range 9).map fun v => (v, 4096)

/-- Step 6 of R352: the port is UP; an end of a reported loss is told, and a port that serves another direction is
recorded. -/
def State.portComesUp (s : State) (p d : Nat) (r : BitVec 256) : State :=
  let x := s.port p
  let v := (recVersion r).getD (0, 0)
  let remap := p != 6 && !(d == p && recField r 12 11 3 == opposite d)
  let again := x.st == .retrain
  let s1 := s.onPort p fun y => { y with
    st := .up, reason := 0, vmaj := v.1, vmin := v.2, serves := d, remap := remap, nbrId := BitVec.ofNat 64 (recId r), nbrAt := recCoord r
    nbrPort := recField r 12 11 3, nbrReady := recField r 28 0 1 == 1, nbrBisque := recField r 28 1 1 == 1, lastRx := s.refNow
    lastHb := s.refNow, lastTx := s.refNow, ads := if again then y.ads else [], credit := if again then y.credit else firstCredit
    replays := 0, reported := false }
  let s2 := if again then s1.fault 5 0xD 0xD3 15 p 0 else s1
  let s3 := if remap && !again then s2.fault 5 0xD 0xD1 15 p 0 else s2
  let s4 := if p = 6 then s3 else s3.reparent
  if x.reported then s4.tellApexes 2 p 0 (recCoord r) else s4

/-- TRAINING_RECORD (R353 to R357): steps 1 to 3 are over; the record is checked, and the port is UP once the peer has sent
a record with ACK = 1.  In a fast retrain a record that fails is not the same peer's, and the port is lost. -/
def execTrainingRecord (p : PortIx) (rec : BitVec 256) (locked : BitVec 12) (s : State) : Host.Outcome State Fault Refusal :=
  let x := s.port p.val
  if !(x.st == .train || x.st == .check || x.st == .retrain) || recReserved rec then .next s
  else if (s.liveGroups p.val locked).length < minGroups p.val then
    .next (if x.st == .retrain then s.portLost p.val (groupsReason locked) else s.portFails p.val (groupsReason locked))
  else if x.st == .retrain && recId rec != x.nbrId.toNat then .next (s.portLost p.val 0)
  else match s.checkRecord p.val rec with
    | .error r => .next (if x.st == .retrain then s.portLost p.val r else s.holdPort p.val r)
    | .ok d =>
      let s1 := s.onPort p.val fun y => { y with
        st := if y.st = .train then .check else y.st, ack := true, groups := groupMask (s.liveGroups p.val locked)
        peerAck := y.peerAck || recField rec 24 12 1 == 1 }
      .next (if (s1.port p.val).peerAck then s1.portComesUp p.val d rec else s1)

/-! ## Fast retrain (R348, R349, R357) -/

/-- GROUP_ERROR_EXCLUDE (R348). -/
def execGroupErrorExclude (p : PortIx) (group : BitVec 4) (s : State) : Host.Outcome State Fault Refusal :=
  s.when ((s.port p.val).st == .up && (s.port p.val).groups.getLsbD group.toNat)
    (s.onPort p.val fun x => { x with excluded := x.excluded ||| (1 <<< group.toNat) })
/-- A fast retrain is due: eight replays of one flit, or a group in use has been excluded. -/
def Port.retrainDue (x : Port) : Bool := x.st == .up && (x.replays ≥ 8 || x.groups &&& x.excluded != 0)
/-- FAST_RETRAIN (R357): steps 2 to 6 with the transmitters on. -/
def execFastRetrain (p : PortIx) (locked : BitVec 12) (s : State) : Host.Outcome State Fault Refusal :=
  let s1 := if p.val = 6 then s else s.bump .latRetrain p.val 1
  s.when (s.port p.val).retrainDue
    (if (s.liveGroups p.val locked).length < minGroups p.val then s1.portLost p.val (groupsReason locked)
     else s1.onPort p.val fun x => { x with
       st := .retrain, started := s.refNow, ack := false, peerAck := false, replays := 0, groups := groupMask (s.liveGroups p.val locked) })
/-- FAST_RETRAIN_TIMEOUT (R357). -/
def execFastRetrainTimeout (p : PortIx) (s : State) : Host.Outcome State Fault Refusal :=
  s.when ((s.port p.val).st == .retrain && (s.port p.val).started + 1000000 ≤ s.refNow) (s.portLost p.val 9)

/-! ## Flits (R349, R350) -/

/-- Flits that the replay buffer holds: 1 MiB, 2 MiB on the lute. -/
def replayDepth (p : Nat) : Nat := if p = 6 then 8192 else 4096
/-- Bytes cut into payloads of 256 B. -/
def flitsOf (bs : List Byte) : List (List Byte) := (List.range ((bs.length + 255) / 256)).map fun k => (bs.drop (256 * k)).take 256
/-- Send bytes as flits of a channel; they carry the credit that has been freed. -/
def Port.transmit (x : Port) (vc : Nat) (bs : List Byte) : Port :=
  (flitsOf bs).foldl (fun x f => { x with replay := x.replay ++ [(x.txSeq, vc, f)], txSeq := x.txSeq + 1 }) { x with freed := [] }
/-- Drop the flits up to an acknowledged one. -/
def ackReplay (a : BitVec 16) (l : List (BitVec 16 × Nat × List Byte)) : List (BitVec 16 × Nat × List Byte) :=
  if l.any fun f => f.1 == a then (l.dropWhile fun f => f.1 != a).drop 1 else l
/-- Take the acknowledgement and the credit that a flit carries. -/
def Port.credited (x : Port) (ack : Option (BitVec 16)) (grants : List (Fin 9 × Nat)) : Port :=
  let replay := match ack with
    | some a => ackReplay a x.replay
    | none => x.replay
  { x with
    replay := replay, replays := if replay.length = x.replay.length then x.replays else 0
    credit := grants.foldl (fun t g => tmod 0 t g.1.val (· + g.2)) x.credit }

/-- LATTICE_FLIT (R349): a good flit in order is acknowledged and its bytes join its channel; one that fails its CRC, or that
follows a gap, is answered with a NAK; a repeated one is acknowledged again and dropped. -/
def execLatticeFlit (p : PortIx) (seq : BitVec 16) (crcOk : Bool) (vc : Fin 9) (payload : List Byte) (ack : Option (BitVec 16))
    (grants : List (Fin 9 × Nat)) (s : State) : Host.Outcome State Fault Refusal :=
  let x := s.port p.val
  if payload.length > 256 ∨ payload.length % 16 ≠ 0 then .refused (.illFormed "LATTICE_FLIT")
  else if x.st ≠ .up then .next s
  else if !crcOk then
    .next ((if p.val = 6 then s else s.bump .latCrc p.val 1).onPort p.val fun y => { y with nakOut := some x.rxSeq })
  else
    let s1 := s.onPort p.val fun y => { (y.credited ack grants) with lastRx := s.refNow }
    if seq = x.rxSeq then
      .next (s1.onPort p.val fun y => { y with
        rxSeq := y.rxSeq + 1, ackOut := some seq, nakOut := none, rx := tmod [] y.rx vc.val (· ++ payload) })
    else if (x.rxSeq - seq).toNat < 2 ^ 15 then .next (s1.onPort p.val fun y => { y with ackOut := some (y.rxSeq - 1) })
    else .next (s1.onPort p.val fun y => { y with nakOut := some x.rxSeq })

/-- LATTICE_NAK (R349): the sender replays from the named flit. -/
def execLatticeNak (p : PortIx) (seq : BitVec 16) (s : State) : Host.Outcome State Fault Refusal :=
  let x := s.port p.val
  let again := x.replay.dropWhile fun f => f.1 != seq
  s.when (x.st == .up && !again.isEmpty)
    ((s.bump (if p.val = 6 then .lutReplay else .latReplay) (if p.val = 6 then 0 else p.val) again.length).onPort p.val fun y => { y with
      lastRx := s.refNow, replays := if again.length = y.replay.length then y.replays + 1 else 1, replay := again })

/-! ## Link frames (R351) -/

/-- Images that a heartbeat may advertise: sagger and image. -/
def State.adverts (s : State) : List (Nat × LoadedImage) := (List.range 12).flatMap fun g => (s.sagger g).images.map fun i => (g, i)
/-- The bytes of the next heartbeat of a port, as a number. -/
def State.heartbeatOf (s : State) (p : Nat) : Nat :=
  let x := s.port p
  let base := x.hbSeq.toNat + 2 ^ 32 * (Bool.num s.boot.ready + 2 * Bool.num s.boot.bisque + 4 * Bool.num s.boot.shutting)
  let ads := s.adverts
  if p = 6 ∨ (x.vmaj = 1 ∧ x.vmin < 2) then base
  else match ads[x.adNext % max 1 ads.length]? with
    | none => base
    | some (g, i) => base + 2 ^ 64 * (g + 2 ^ 4 * (i.index % 2 ^ 16) + 2 ^ 20) + 2 ^ 96 * (i.measure.toNat % 2 ^ 64)
/-- LATTICE_HEARTBEAT_SEND (R351). -/
def execLatticeHeartbeatSend (p : PortIx) (s : State) : Host.Outcome State Fault Refusal :=
  s.when ((s.port p.val).st == .up && (s.port p.val).lastHbTx + 1000 ≤ s.refNow)
    (s.onPort p.val fun x => { x with
      hbOut := BitVec.ofNat 256 (s.heartbeatOf p.val), hbSeq := x.hbSeq + 1, adNext := (x.adNext + 1) % max 1 s.adverts.length
      lastHbTx := s.refNow, lastTx := s.refNow })
/-- LINK_FRAME_SEND (R351). -/
def execLinkFrameSend (p : PortIx) (s : State) : Host.Outcome State Fault Refusal :=
  s.when ((s.port p.val).st == .up && (s.port p.val).lastTx + 200 ≤ s.refNow) (s.onPort p.val fun x => { x with lastTx := s.refNow })

/-- A heartbeat has arrived. -/
def Port.heard (x : Port) (b : Nat) (now : Nat) : Port :=
  let d := BitVec.ofNat 64 (nbits b 96 64)
  { x with
    lastRx := now, lastHb := now, nbrReady := nbits b 32 1 == 1, nbrBisque := nbits b 33 1 == 1
    ads := if nbits b 84 1 = 1 ∧ (x.vmaj > 1 ∨ x.vmin ≥ 2) then (x.ads.filter (· != d)) ++ [d] else x.ads }
/-- LINK_FRAME_RECEIVE (R351, R367, R377): a frame renews the timers; the lute partner's bisque mode stops the pair. -/
def execLinkFrameReceive (p : PortIx) (frame : LinkFrame) (s : State) : Host.Outcome State Fault Refusal :=
  s.when ((s.port p.val).st == .up)
    (match frame with
     | .heartbeat b =>
       let s1 := s.onPort p.val fun x => x.heard b.toNat s.refNow
       if p.val = 6 && s.lute.paired && nbits b.toNat 33 1 == 1 then s1.onLute fun l => { l with stop := true } else s1
     | _ => s.onPort p.val fun x => { x with lastRx := s.refNow })

/-! ## PACKET_ROUTE (R360, R361, R363) -/

/-- A packet for this module is consumed, unless its sagger cannot take it: then a REQ is answered and others are
discarded. -/
def State.consume (s : State) (p : Packet) : State :=
  if s.takesPackets p.dsag then s.onLat fun l => { l with consumed := l.consumed ++ [p] }
  else if p.cls = 1 then s.sendPacket (s.unreachableFor p) else s

/-- PACKET_ROUTE (R361): the packet at the head of a port's virtual channel. -/
def execPacketRoute (p : PortIx) (vc : Fin 9) (s : State) : Host.Outcome State Fault Refusal :=
  let x := s.port p.val
  let bs := skipFill ((tget [] x.rx vc.val).length / 16) (tget [] x.rx vc.val)
  if p.val = 6 ∨ bs.length < 32 then .next s
  else
    let h : Packet := { hdr := BitVec.ofNat 256 (leNat (bs.take 32)), payload := [] }
    let n := 32 + (h.len + 15) / 16 * 16
    if bs.length < n then .next s
    else
      let pk := { h with payload := (bs.take n).drop 32 }
      let s1 := (s.onPort p.val fun y => { y with
        rx := tset y.rx vc.val (bs.drop n), freed := tmod 0 y.freed vc.val (· + n / 16) }).bump .latRxBytes p.val n
      if s.packetBad pk then
        .next ((s1.bump .latDrop p.val 1).raiseLimited 1000000 0 { code := faultCode 5 0xD 0xDC, unit := p.val })
      else if pk.dest = s.own then .next (s1.consume pk)
      else .next (s1.routePacket (some p.val) pk)

/-! ## Transmission, one REFCLK period at a time -/

/-- The first packet of a port that has credit and replay room leaves it. -/
def State.transmitPort (s : State) (p : Nat) : State :=
  let x := s.port p
  if x.st ≠ .up then s
  else match x.out.find? fun o => o.2.bytes / 16 ≤ tget 0 x.credit o.1 && x.replay.length + o.2.bytes / 256 + 1 ≤ replayDepth p with
    | none => s
    | some (vc, pk) =>
      (s.onPort p fun y => { (y.transmit vc (leBytes pk.hdr.toNat 32 ++ pk.payload)) with
        out := y.out.erase (vc, pk), credit := tmod 0 y.credit vc (· - pk.bytes / 16), lastTx := s.refNow }).bump .latTxBytes p pk.bytes
/-- The oldest message of the lute leaves, in issue order (R376). -/
def State.transmitLute (s : State) : State :=
  let x := s.port 6
  match s.lute.tx with
  | [] => s
  | m :: rest =>
    let bs := leBytes m.hdr.toNat 16 ++ padTo ((m.payload.length + 15) / 16 * 16) m.payload
    if x.st ≠ .up ∨ tget 0 x.credit 0 < bs.length / 16 ∨ replayDepth 6 < x.replay.length + bs.length / 256 + 1 then s
    else (((s.onLute fun l => { l with tx := rest }).onPort 6 fun y => { (y.transmit 0 bs) with
      credit := tmod 0 y.credit 0 (· - bs.length / 16), lastTx := s.refNow }).bump .lutTxBytes 0 bs.length)

/-! ## The kiln timebase (R367 to R369) -/

/-- Correct the timebase by an offset in units of 0.25 ns: up to 100 ns by its rate, further forward by a step, further
backward at half rate (R367, R368).  The rate that the spec leaves open removes the offset within 16 µs. -/
def Timebase.correct (t : Timebase) (off : Int) : Timebase :=
  if off.natAbs ≤ 400 then { t with steer := max (-200) (min 200 (off * 125 / 8)), back := 0 }
  else if off > 0 then { t with ns := t.ns + (off / 4).toNat, steer := 0, back := 0 }
  else { t with back := (-off / 4).toNat, steer := 0 }

/-- State after an offset (R368); answers whether 0xD7 is raised. -/
def Timebase.measured (t : Timebase) (off : Int) (now : Nat) : Bool × Timebase :=
  let since := if off.natAbs ≤ 16 then some (t.lockSince.getD now) else none
  let t1 := { (t.correct off) with offset := off, lockSince := since }
  match t.st with
  | .locked => if off.natAbs > 80 then (true, { t1 with st := .locking, lockSince := none }) else (false, t1)
  | .locking => (false, if since.any fun a => a + 1000000 ≤ now then { t1 with st := .locked } else t1)
  | _ => (false, { t1 with st := .locking })

/-- TIME_SYNC (R367): the four stamps are in units of 0.25 ns. -/
def execTimeSync (t1 t2 t3 t4 : Int) (s : State) : Host.Outcome State Fault Refusal :=
  let off := ((t2 - t1) - (t4 - t3)) / 2
  let (bad, t) := s.tb.measured off s.refNow
  s.when (s.linksRun && s.tb.parent < 7 && s.portUp s.tb.parent)
    (if bad then (s.onTb fun _ => t).kilnFault 0xD7 15 0 else s.onTb fun _ => t)

/-- An edge 0.5 s to 1.5 s after the last accepted one is used, and the first after the start (R493). -/
def Timebase.edgeOk (t : Timebase) (now : Nat) : Bool :=
  match t.tsync with
  | none => true
  | some a => a + 500000000 ≤ now && now ≤ a + 1500000000
/-- Offset of the timebase from the nearest whole second, in ns. -/
def toSecond (ns : Nat) : Int := if ns % 10 ^ 9 < 5 * 10 ^ 8 then -((ns % 10 ^ 9 : Nat) : Int) else ((10 ^ 9 - ns % 10 ^ 9 : Nat) : Int)
/-- TSYNC_EDGE (R369, R493). -/
def execTsyncEdge (s : State) : Host.Outcome State Fault Refusal :=
  let t := s.tb
  if !s.firmwareUp then .next s
  else if !t.edgeOk s.refNow then .next (s.onTb fun t => { t with tsyncAny := some s.refNow })
  else .next (s.onTb fun t =>
    let t := { t with tsync := some s.refNow, tsyncAny := some s.refNow }
    if s.lat.apex then t.correct (4 * toSecond t.ns) else t)

/-- TIMEBASE_SECOND (R369): the whole second after LAT_TB_APPLY; the timebase never decreases (R368). -/
def execTimebaseSecond (s : State) : Host.Outcome State Fault Refusal :=
  let v := s.reg .latTbSet 0
  s.when (s.lat.apex && s.tb.armed.any fun k => k < s.tb.ns / 10 ^ 9)
    (s.onTb fun t =>
      let t := { t with armed := none }
      if t.ns ≤ v then { t with ns := v, frac := 0, back := 0 } else { t with back := t.ns - v })

end Sys2Proof.Machine
end

