-- ==== Sys2Proof/Machine/Router.lean ====
section
/-! DEFINITION. The expert routers: choices against capacity, chunks and their entries, layer close, mixing and the
messages of a luted pair (spec/07_expert_routing.md, R209 to R230). -/

namespace Sys2Proof.Machine

/-! ## The open layer (R209, R210) -/

/-- Indices of the MoE layers of an image in the layer table. -/
def ImageInfo.moeLayers (i : ImageInfo) : List Nat := (List.range i.layers.length).filter fun k => (i.layers.getD k {}).moe.isSome
/-- MoE parameters of a layer-table entry. -/
def State.moe (s : State) (g l : Nat) : MoeInfo := ((s.layer g l).moe).getD {}
/-- Change the router of a sagger. -/
def State.onRouter (s : State) (g : Nat) (f : Router → Router) : State := s.onSagger g fun x => { x with router := f x.router }
/-- Layer-table entry of the MoE layer that rows are routed for: the open one, else the next of the step. -/
def State.routeLayer (s : State) (g : Nat) : Option Nat :=
  match (s.sagger g).router.layer with
  | some l => some l
  | none => (s.stepImage g).moeLayers[(s.sagger g).router.nextMoe]?
/-- Expert `e` runs on this module (R224). -/
def State.ownExpert (s : State) (g e : Nat) : Bool := !s.luted g || (if s.lead then e % 2 == 0 else e % 2 == 1)
/-- Capacity of every expert (R210). -/
def MoeInfo.capacity (m : MoeInfo) (tokens : Nat) : Nat :=
  min 65535 (max m.capMin ((m.capF * tokens * m.kTop + 16 * m.experts - 1) / (16 * m.experts)))
/-- Open the layer: nothing is routed yet, and the targets count from the tallies' present values. -/
def State.openLayer (s : State) (g l : Nat) : State :=
  let m := s.moe g l
  let at_ (t : Nat) : Nat := (s.tally (tallyKey g t)).prod.toNat
  if (s.sagger g).router.layer.isSome then s
  else s.onRouter g fun r => { r with
    layer := some l, routed := [], shared := [], counts := [], chunks := [], closed := false, gluDone := false, fromLead := [],
    remote := [], answered := [], guTarget := at_ m.xtGu, actTarget := at_ m.xtAct, dnTarget := at_ m.xtDn }

/-- Slot of token row `r` of the step: the rows follow the ragged table. -/
def rowSlot : List Ragged → Nat → Option Nat
  | [], _ => none
  | e :: es, r => if e.draft then rowSlot es r else if r < e.new then some e.slot else rowSlot es (r - e.new)
/-- The request of a slot no longer takes part in the step: cancelled, failed or ended (R228). -/
def State.rowDead (s : State) (g slot : Nat) : Bool :=
  match s.reqOfSlot g slot with
  | none => false
  | some q => q.masked || q.failed.isSome || q.st == .ended

/-! ## Ranks, choices and gates (R211 to R213) -/

/-- Scores of a row: the linear values of its columns. -/
def State.scores (s : State) (row n : Nat) : List Dyad :=
  let g := nsigned 16 (s.slabNum row 2)
  (List.range n).map fun e => l16Val g (s.slabNum (row + 4 + 2 * e) 2)
/-- Experts in rank order, with their scores. -/
def rankScores (xs : List Dyad) : List (Nat × Dyad) := rankAll ((List.range xs.length).map fun e => (e, xs.getD e {}))

/-- What the routing action has decided so far. -/
structure Picks where
  counts   : Tab Nat
  reserve  : List Nat
  accepted : List (Nat × Bool) := []
  full     : List Nat := []
  rerouted : List Nat := []
  dropped  : List Nat := []
  deriving DecidableEq, Repr

/-- The first reserve expert with room, and the reserve after it. -/
def takeReserve (cap : Nat) (counts : Tab Nat) : List Nat → Option Nat × List Nat
  | [] => (none, [])
  | r :: rs => if tget 0 counts r < cap then (some r, rs) else takeReserve cap counts rs

/-- One choice of the token. -/
def Picks.pick (p : Picks) (cap e : Nat) : Picks :=
  if tget 0 p.counts e < cap then { p with counts := tmod 0 p.counts e (· + 1), accepted := p.accepted ++ [(e, false)] }
  else match takeReserve cap p.counts p.reserve with
    | (some r, rest) => { p with counts := tmod 0 p.counts r (· + 1), reserve := rest, accepted := p.accepted ++ [(r, true)],
                                 full := p.full ++ [e], rerouted := p.rerouted ++ [r] }
    | (none, rest) => { p with reserve := rest, full := p.full ++ [e], dropped := p.dropped ++ [e] }

/-- The routing action on ranked experts. -/
def routeToken (m : MoeInfo) (cap : Nat) (counts : Tab Nat) (ranked : List Nat) : Picks :=
  (ranked.take m.kTop).foldl (fun p e => p.pick cap e) { counts := counts, reserve := (ranked.drop m.kTop).take m.ovf }

/-- Gates of the accepted scores in units of 2^-16 (R212). -/
def gates (xs : List Dyad) : List Nat :=
  let top := xs.foldl (fun a b => if a.lt b then b else a) (xs.getD 0 {})
  let ws := xs.map fun x => ((exp2Fix 24 (max (-(64 * 2 ^ 24)) (-(logGap 24 top x { m := 1 })))).round (-64)).toNat
  let sum := ws.foldl (· + ·) 0
  ws.map fun w => if sum = 0 then 0 else (rneDiv ((w * 65536 : Nat) : Int) sum).toNat

/-! ## The arena (R219) -/

/-- Regions of the sagger's arena: slab address and bytes. -/
def State.arena (s : State) (g : Nat) : List (Nat × Nat) :=
  ((s.plan.map (·.places)).getD []).filterMap fun p => if p.sagger = g ∧ p.type = 0x0E then some (p.base, p.count) else none
/-- The least multiple of 64 from `a` up. -/
def up64 (a : Nat) : Nat := (a + 63) / 64 * 64
/-- The lowest place for `n` bytes in one region beside the areas in use. -/
def placeIn (region : Nat × Nat) (used : List (BitVec 32 × Nat)) (n : Nat) : Option Nat :=
  let starts := up64 region.1 :: used.map fun u => up64 (u.1.toNat + u.2)
  let ok (a : Nat) : Bool := region.1 ≤ a && a + n ≤ region.1 + region.2 &&
    used.all fun u => a + n ≤ u.1.toNat || u.1.toNat + u.2 ≤ a
  (starts.filter ok).foldl (fun b a => match b with | none => some a | some x => some (min x a)) none
/-- Place areas one after another; none when one of them does not fit. -/
def placeAll (regions : List (Nat × Nat)) : List (BitVec 32 × Nat) → List Nat → Option (List (BitVec 32 × Nat))
  | _, [] => some []
  | used, n :: ns =>
    match regions.findSome? fun r => placeIn r used n with
    | none => none
    | some a => (placeAll regions (used ++ [(BitVec.ofNat 32 a, n)]) ns).map ((BitVec.ofNat 32 a, n) :: ·)
/-- An area is larger than every region of the arena (0x82). -/
def neverFits (regions : List (Nat × Nat)) (ns : List Nat) : Bool := ns.any fun n => regions.all fun r => r.1 + r.2 < up64 r.1 + n

/-! ## Shape of a chunk (R215 to R217, R105) -/

/-- Layers of an expert's projections and the counts of their blocks. -/
structure ChunkShape where
  gate  : LayerInfo
  up    : LayerInfo
  down  : LayerInfo
  /-- slot size of the layer LAYER of the GLU records -/
  act   : Nat
  n     : Nat
  deriving DecidableEq, Repr

/-- Output blocks of a layer. -/
def LayerInfo.outBlocks (l : LayerInfo) : Nat := (l.outputs + 1023) / 1024
/-- Output groups of block `b`. -/
def LayerInfo.groupsOf (l : LayerInfo) (b : Nat) : Nat := blockGroups l.outputs (64 * b)
/-- The shape of the chunks of a MoE layer. -/
def State.chunkShape (s : State) (g l : Nat) : ChunkShape :=
  let m := s.moe g l
  { gate := s.layer g m.gateLayer, up := s.layer g m.upLayer, down := s.layer g m.downLayer, act := (s.layer g l).slot, n := m.flushN }

/-- Partial regions of output block `b` of a layer for lists of up to `n` tokens. -/
def LayerInfo.partBytes (l : LayerInfo) (n b : Nat) : Nat := l.groupsOf b * l.nb * regionBytes n
/-- Distance of the output blocks of a chunk's down projection. -/
def ChunkShape.stride (c : ChunkShape) : Nat := up64 (outBytes c.down c.n)
/-- Sizes of a chunk's areas in order: token lists of the gate and up entries by input block, token lists of the down
entries by input block, gate partials and up partials by output block, the gate outputs, the up outputs, the activations,
down partials by output block, and the down outputs. -/
def ChunkShape.sizes (c : ChunkShape) : List Nat :=
  List.replicate c.gate.nb (8 * c.n) ++ List.replicate c.down.nb (8 * c.n) ++
    (List.range c.gate.outBlocks).map (c.gate.partBytes c.n) ++ (List.range c.up.outBlocks).map (c.up.partBytes c.n) ++
    [c.gate.outBlocks * (c.n * c.gate.slot), c.up.outBlocks * (c.n * c.up.slot), c.down.nb * (c.n * c.act)] ++ (List.range c.down.outBlocks).map (c.down.partBytes c.n) ++
    [c.down.outBlocks * c.stride]
/-- Place of the first area of each kind in that order. -/
def ChunkShape.start (c : ChunkShape) (kind : Nat) : Nat :=
  ([c.gate.nb, c.down.nb, c.gate.outBlocks, c.up.outBlocks, 1, 1, 1, c.down.outBlocks].take kind).foldl (· + ·) 0
/-- Address of area `k` of a kind. -/
def Chunk.area (x : Chunk) (c : ChunkShape) (kind k : Nat) : Nat := ((x.areas.getD (c.start kind + k) (0, 0)).1).toNat
/-- Output address of token `t` of the chunk (R215). -/
def Chunk.outOf (x : Chunk) (c : ChunkShape) (t : Nat) : Nat := x.area c 8 0 + t * c.down.slot

/-- A token-list entry (R89). -/
def tokenLine (block slot : Nat) : List Byte := leBytes block 4 ++ leBytes slot 2 ++ zeros 2
/-- Append a token: its token-list entries name its input blocks (R89, R215). -/
def State.appendToken (s : State) (c : ChunkShape) (x : Chunk) (slot : Nat) (blocks : List (BitVec 32)) : State :=
  (List.range c.gate.nb).foldl (fun s k =>
    s.putSlab (x.area c 0 k + 8 * x.rows.length) (tokenLine (blocks.getD k 0).toNat slot)) s
/-- The token lists of a chunk's down entries: block `k` of token `t` of the activations, which lie block by block, the
tokens of a block one after another (R118, R156, log entry 30). -/
def State.downLists (s : State) (c : ChunkShape) (x : Chunk) : State :=
  let n := x.rows.length
  (List.range c.down.nb).foldl (fun s k => (List.range n).foldl (fun s t =>
    s.putSlab (x.area c 1 k + 8 * t) (tokenLine (x.area c 6 0 + (k * n + t) * c.act) (s.slabNum (x.area c 0 0 + 8 * t + 4) 2))) s) s

/-! ## Entries of a chunk (R216, R217) -/

/-- MAP for a number of tokens (R216). -/
def chunkMap (n : Nat) : Nat := if n ≤ 32 then 2 else if n ≤ 64 then 1 else 0
/-- Length of tile `k` of an expert's matrix. -/
def LayerInfo.tileLenOf (l : LayerInfo) (expert k : Nat) : Nat :=
  match l.wfmt with
  | 0 => 3280
  | 1 => 2048
  | _ => l.tbmLens.getD (expert * ((l.outputs + 15) / 16 * l.nb) + k) 2112
/-- Place of tile `k` after the expert's first tile, in units of 32 B: tiles follow one another in order of output group,
then input block. -/
def LayerInfo.tilePlace (l : LayerInfo) (expert k : Nat) : Nat :=
  (List.range k).foldl (fun n i => n + (l.tileLenOf expert i + 31) / 32) 0
/-- First tile of an expert's matrix in the ware board: `first` is its place in the sagger's window in units of 32 B, with
the die in bit 21. -/
def State.tileStart (s : State) (g first : Nat) : Nat × Nat :=
  let d := nbits first 21 1
  (d, (s.wareWindow g d).1 * 32 + nbits first 0 21)

/-- A TILE entry of a chunk (R87, R216). -/
def tileEntry (l : LayerInfo) (li die off len tokN list part og ib tally : Nat) : BitVec 256 :=
  BitVec.ofNat 256 (1 + 2 ^ 8 * Bool.num l.dMode + 2 ^ 9 * chunkMap tokN + 2 ^ 11 * l.wfmt + 2 ^ 14 * Bool.num l.xsplit +
    2 ^ 16 * l.splitT + 2 ^ 24 * li + 2 ^ 32 * off + 2 ^ 53 * die + 2 ^ 64 * len + 2 ^ 80 * tokN + 2 ^ 96 * list + 2 ^ 128 * part +
    2 ^ 160 * og + 2 ^ 176 * ib + 2 ^ 224 * tally + 2 ^ 236 * l.shift)

/-- Write one reduction set's cell and its entries (R105). -/
def State.emitSet (s : State) (g : Nat) (l : LayerInfo) (li expert die first tokN og part out tally : Nat) (lists : Nat → Nat) : State :=
  let s1 := s.putSlab part (zeros 12 ++ leBytes out 4 ++ leBytes l.nb 1 ++ zeros 15)
  (List.range l.nb).foldl (fun s k =>
    let t := og * l.nb + k
    s.listWrite g (tileEntry l li die (first + l.tilePlace expert t) (l.tileLenOf expert t) tokN (lists k)
      (part + k * regionBytes tokN) og k tally)) s1

/-- Write the entries of one projection of a chunk, and answer how many they are. -/
def State.emitMatrix (s : State) (g : Nat) (l : LayerInfo) (li expert first tokN tally : Nat) (lists parts outs : Nat → Nat) :
    Nat × State :=
  let (die, place) := s.tileStart g first
  let n := (l.outputs + 15) / 16
  (n * l.nb, (List.range n).foldl (fun s og =>
    s.emitSet g l li expert die place tokN og (parts (og / 64) + og % 64 * l.nb * regionBytes tokN) (outs (og / 64)) tally lists) s)

/-- Write the gate and up entries of a chunk; they advance XT_GU (R215). -/
def State.emitGateUp (s : State) (g l : Nat) (x : Chunk) : State :=
  let m := s.moe g l
  let c := s.chunkShape g l
  let ts := m.expertTiles.getD x.expert (0, 0, 0)
  let n := x.rows.length
  let (a, s1) := s.emitMatrix g c.gate m.gateLayer x.expert ts.1 n m.xtGu (x.area c 0) (x.area c 2)
    fun b => x.area c 4 0 + b * n * c.gate.slot
  let (b, s2) := s1.emitMatrix g c.up m.upLayer x.expert ts.2.1 n m.xtGu (x.area c 0) (x.area c 3)
    fun b => x.area c 5 0 + b * n * c.up.slot
  s2.onRouter g fun r => { r with
    guTarget := r.guTarget + a + b
    chunks := r.chunks.map fun y => if y.areas = x.areas then { y with flushed := true } else y }

/-- Write the down entries of a chunk, with their token lists; they advance XT_DN (R217). -/
def State.emitDown (s : State) (g l : Nat) (x : Chunk) : State :=
  let m := s.moe g l
  let c := s.chunkShape g l
  let (n, s1) := (s.downLists c x).emitMatrix g c.down m.downLayer x.expert (m.expertTiles.getD x.expert (0, 0, 0)).2.2 x.rows.length m.xtDn
    (x.area c 1) (x.area c 7) fun b => x.area c 8 0 + b * c.stride
  s1.onRouter g fun r => { r with dnTarget := r.dnTarget + n }

/-! ## Predicted experts (R222, R223) -/

/-- The weight region's range of units cut at chunk bounds: first unit, units and offset in the range. -/
def chunkCuts (first n : Nat) : List (Nat × Nat × Nat) :=
  if n = 0 then [] else (List.range ((first + n - 1) / 64 - first / 64 + 1)).map fun k =>
    let lo := max first ((first / 64 + k) * 64)
    (lo, min (first + n) ((first / 64 + k + 1) * 64) - lo, lo - first)
/-- Ask for the gate and up tiles of an expert (R222, R223). -/
def State.fetchExpert (s : State) (g l expert epoch : Nat) (pred : Bool) : State :=
  let m := s.moe g l
  match s.image? g (s.sagger g).stepModel with
  | none => s
  | some i =>
    let src := m.expertSrc.getD expert (0, 0)
    let (d, place) := s.tileStart g (m.expertTiles.getD expert (0, 0, 0)).1
    (chunkCuts src.1 src.2).foldl (fun s c => s.requestLoad d
      { num := 0, sagger := g, prio := 1, pred := pred, expert := if pred then expert else 0, epoch := if pred then epoch else 0,
        src := i.unitAddr c.1 / 1024, dst := place / 32 + c.2.2, len := c.2.1, tally := 4096 }) s

/-- The first token of an expert in the layer (R223). -/
def State.confirmExpert (s : State) (g l expert : Nat) : State :=
  let r := (s.sagger g).router
  match tget .idle r.pred expert with
  | .predicted =>
    ((s.confirmLoads g r.epoch.toNat expert).bump .xrtPredHit g 1).onRouter g fun r => { r with pred := tset r.pred expert .confirmed }
  | .confirmed => s
  | _ => (s.fetchExpert g l expert r.epoch.toNat false).onRouter g fun r => { r with pred := tset r.pred expert .confirmed }

/-- Votes for the experts of the next MoE layer: one per accepted choice and valid PRED entry. -/
def votes (m : MoeInfo) (counts : Tab Nat) (next : Nat) : List Nat :=
  (List.range next).map fun p => counts.foldl (fun n c => n + c.2 * ((m.pred.getD c.1 []).filter (· == p)).length) 0
/-- Insert an expert behind those with at least as many votes. -/
def insertVote (a : Nat × Nat) : List (Nat × Nat) → List (Nat × Nat)
  | [] => [a]
  | b :: l => if b.2 < a.2 then a :: b :: l else b :: insertVote a l
/-- Experts in order of votes, ties to the lower index. -/
def topVotes (vs : List Nat) : List Nat :=
  (((List.range vs.length).foldl (fun l e => insertVote (e, vs.getD e 0) l) []).map (·.1))

/-- The close of a layer squashes what was predicted and got no token (R223). -/
def State.squashPredicted (s : State) (g : Nat) : State :=
  let r := (s.sagger g).router
  let gone := (r.pred.filter fun p => p.2 == .predicted).map (·.1)
  ((s.squashLoads g fun l => l.epoch == r.epoch.toNat && gone.contains l.expert).bump .xrtPredSquash g gone.length).onRouter g
    fun r => { r with pred := r.pred.map fun p => if p.2 == .predicted then (p.1, .squashed) else p }
/-- Predict the next MoE layer of the image and ask for its tiles, under the advanced EPOCH (R222). -/
def State.predictNext (s : State) (g l : Nat) : State :=
  let m := s.moe g l
  let s1 := s.onRouter g fun r => { r with epoch := r.epoch + 1 }
  let r := (s1.sagger g).router
  match (s.stepImage g).moeLayers.find? (l < ·) with
  | none => s1.onRouter g fun r => { r with pred := [] }
  | some next =>
    let chosen := ((topVotes (votes m r.counts (s.moe g next).experts)).take m.prefetchN).filter (s.ownExpert g)
    (chosen.foldl (fun s e => s.fetchExpert g next e r.epoch.toNat true) (s1.bump .xrtPredIssued g chosen.length)).onRouter g
      fun r => { r with pred := chosen.foldl (fun t e => tset t e .predicted) [] }

/-! ## Enqueueing (R213, R215, R219) -/

/-- The open chunk of an expert. -/
def Router.openChunk (r : Router) (expert : Nat) : Option Chunk := r.chunks.find? fun c => c.expert == expert && !c.flushed
/-- Areas for the chunks that a token's experts still need, and for `extra` areas: none when the arena has no room. -/
def State.newAreas (s : State) (g l : Nat) (experts extra : List Nat) : Option (List (List (BitVec 32 × Nat)) × List (BitVec 32 × Nat)) :=
  let r := (s.sagger g).router
  let c := s.chunkShape g l
  let news := experts.filter fun e => (r.openChunk e).isNone
  let k := c.sizes.length
  (placeAll (s.arena g) r.arenaUsed ((news.flatMap fun _ => c.sizes) ++ extra)).map fun as =>
    ((List.range news.length).map fun i => (as.drop (i * k)).take k, as.drop (news.length * k))
/-- Open chunks for the experts without one. -/
def State.openChunks (s : State) (g : Nat) (experts : List Nat) (areas : List (List (BitVec 32 × Nat))) : State :=
  let news := experts.filter fun e => ((s.sagger g).router.openChunk e).isNone
  s.onRouter g fun r => { r with
    chunks := r.chunks ++ (List.range news.length).map fun i => { expert := news.getD i 0, areas := areas.getD i [] }
    arenaUsed := r.arenaUsed ++ areas.flatten }

/-- Enqueue a token to an expert of this module: answers its output address.  A full chunk is flushed at once. -/
def State.enqueue (s : State) (g l expert row slot : Nat) (blocks : List (BitVec 32)) : Nat × State :=
  match (s.sagger g).router.openChunk expert with
  | none => (0, s)
  | some x =>
    let c := s.chunkShape g l
    let x' := { x with rows := x.rows ++ [(row, BitVec.ofNat 16 slot, blocks)] }
    let s1 := ((s.confirmExpert g l expert).appendToken c x slot blocks).bump .xrtExpTokens (1024 * g + expert) 1
    let s2 := s1.onRouter g fun r => { r with chunks := r.chunks.map fun y => if y.areas = x.areas then x' else y }
    (x.outOf c x.rows.length, if x'.rows.length = (s.moe g l).flushN then s2.emitGateUp g l x' else s2)

/-- The router stops for want of arena space, from now on (R219). -/
def State.stallRouter (s : State) (g : Nat) : State :=
  s.onRouter g fun r => { r with stalled := some (r.stalled.getD s.refNow) }
/-- A router fault of class 0x3 halts the work list (R230). -/
def State.routerFault (s : State) (g detail unit sub : Nat) : State := (s.haltList g).fault 3 4 detail g unit sub

/-! ## ROUTE_ROW (R211 to R215, R225) -/

/-- The 64 bytes of a route record (R214): one choice is its gate, remote and rerouted marks, expert and output. -/
def routeRecord (slot ndrop layer shOut : Nat) (cs : List (Nat × Bool × Bool × Nat × Nat)) : List Byte :=
  padTo 64 (leBytes (slot + 2 ^ 16 * cs.length + 2 ^ 19 * ndrop + 2 ^ 24 * layer) 4 ++ leBytes shOut 4 ++ cs.flatMap fun c =>
    leBytes (c.1 + 2 ^ 17 * Bool.num c.2.1 + 2 ^ 18 * Bool.num c.2.2.1 + 2 ^ 19 * c.2.2.2.1) 4 ++ leBytes c.2.2.2.2 4)
/-- Address of the route record of a row. -/
def State.routeAddr (s : State) (g row : Nat) : Nat := s.placeAddr g 5 + 64 * row

/-- A lute expert message (R226). -/
def luteExpertMsg (type layer epoch id count : Nat) (payload : List Byte) (writes : List (BitVec 32 × List Byte)) : LuteMsg :=
  { hdr := BitVec.ofNat 128 (type + 2 ^ 8 * layer + 2 ^ 16 * epoch + 2 ^ 32 * id + 2 ^ 48 * count + 2 ^ 64 * payload.length)
    payload := payload, writes := writes }
/-- Slot size of a MoE layer's input blocks: that of its layer-table entry. -/
def State.inputSlot (s : State) (g l : Nat) : Nat := (s.layer g l).slot

/-- Count what the routing action did (R213, R231). -/
def State.countPicks (s : State) (g : Nat) (p : Picks) : State :=
  let add (r : Reg) (s : State) (es : List Nat) : State := es.foldl (fun s e => s.bump r (1024 * g + e) 1) s
  add .xrtExpDrop (add .xrtExpRerouteIn (add .xrtExpFull s p.full) p.rerouted) p.dropped

/-- One accepted expert more of a row: its own experts queue the row, the partner's get an output area; the output addresses
so far, and the state. -/
def queuePick (own : Nat → Bool) (g l row slot : Nat) (blocks : List (BitVec 32)) (area : Nat → Nat) (acc : List Nat × State)
    (a : Nat × Bool) : List Nat × State :=
  if own a.1 then
    let r := acc.2.enqueue g l a.1 row slot blocks
    (acc.1 ++ [r.1], r.2)
  else (acc.1 ++ [area a.1], acc.2)

/-- The row is routed: record, queues and, for remote choices, a TOKEN message. -/
def State.routeTo (s : State) (g l row slot : Nat) (ranked : List (Nat × Dyad)) (p : Picks) (blocks shOut : List (BitVec 32)) : State :=
  let m := s.moe g l
  let c := s.chunkShape g l
  let mine := (p.accepted.map (·.1)).filter (s.ownExpert g)
  let far := (p.accepted.map (·.1)).filter fun e => !s.ownExpert g e
  let extra := far.map fun _ => c.down.outBlocks * c.down.slot
  if neverFits (s.arena g) (c.sizes ++ extra) then s.routerFault g 0x82 (dieOfSagger g) 0
  else match s.newAreas g l mine extra with
    | none => s.stallRouter g
    | some (areas, outs) =>
      let s1 := (s.openChunks g mine areas).onRouter g fun r => { r with arenaUsed := r.arenaUsed ++ outs, stalled := none }
      let queued := p.accepted.foldl (queuePick (s.ownExpert g) g l row slot blocks fun e =>
        ((outs.getD (far.findIdx (· == e)) (0, 0)).1).toNat) ([], s1)
      let addrs := queued.1
      let s2 := queued.2
      let gs := gates (p.accepted.map fun a => ((ranked.find? fun x => x.1 == a.1).map (·.2)).getD {})
      let cs := (List.range p.accepted.length).map fun k =>
        let a := p.accepted.getD k (0, false)
        (gs.getD k 0, !s.ownExpert g a.1, a.2, a.1, addrs.getD k 0)
      let record := routeRecord slot p.dropped.length l (if m.shared then (shOut.getD 0 0).toNat else 0) cs
      let s3 := ((s2.putHbm (s.routeAddr g row) record).bump .hbmNarrow (stackOfAddr (s.routeAddr g row)) 1).bump .hbmWrBytes
        (stackOfAddr (s.routeAddr g row)) 64
      let s4 := (s3.countPicks g p).onRouter g fun r => { r with
        routed := r.routed ++ [row], counts := p.counts, shared := r.shared ++ [(row, shOut)]
        remote := far.foldl (fun t e => tmod 0 t e (· + 1)) r.remote }
      let s5 := (s4.bump .xrtRouted g 1).touch g
      if far.isEmpty then s5
      else
        let choices := (cs.filter fun c => c.2.1).flatMap fun c => leBytes c.2.2.2.1 4 ++ leBytes c.2.2.2.2 4
        let input := (List.range c.gate.nb).flatMap fun k => s.slab (blocks.getD k 0).toNat (s.inputSlot g l)
        s5.sendLute (luteExpertMsg 0x21 l (s.sagger g).router.epoch.toNat slot far.length (choices ++ input) [])

/-- ROUTE_ROW (R213): the score row lies at `score`, the row's input blocks at `blocks` and its shared-expert output at
`shOut`.  A masked row is not routed and takes no capacity (R228). -/
def execRouteRow (g : SaggerIx) (row score : BitVec 32) (blocks shOut : List (BitVec 32)) (s : State) :
    Host.Outcome State Fault Refusal :=
  let x := s.sagger g.val
  match s.routeLayer g.val, rowSlot x.ragged row.toNat with
  | some l, some slot =>
    let m := s.moe g.val l
    if x.st != .serving || x.phase != .running || x.listHalt || x.router.closed || (x.router.layer.isSome && x.router.routed.contains row.toNat) then
      .next s
    else if row.toNat ≥ s.placeCount g.val 5 then .next (s.routerFault g.val 0x82 (dieOfWheel (slabWheel score.toNat)) 0)
    else if s.rowDead g.val slot then
      .next ((s.openLayer g.val l).onRouter g.val fun r => { r with routed := r.routed ++ [row.toNat] })
    else if s.slabNum (score.toNat + 2) 2 ≠ 0 then .next (s.routerFault g.val 0x81 (dieOfWheel (slabWheel score.toNat)) 0)
    else
      let s1 := s.openLayer g.val l
      let ranked := rankScores (s1.scores score.toNat m.experts)
      let p := routeToken m (m.capacity x.rowsN) (s1.sagger g.val).router.counts (ranked.map (·.1))
      .next (s1.routeTo g.val l row.toNat slot ranked p blocks shOut)
  | _, _ => .next s

/-! ## LAYER_CLOSE (R217, R218, R222) -/

/-- Close the open layer on this module: open chunks are flushed, idle experts are counted, and the next layer is
predicted. -/
def State.closeLayer (s : State) (g l : Nat) : State :=
  let r := (s.sagger g).router
  let s1 := (r.chunks.filter fun c => !c.flushed).foldl (fun s c => s.emitGateUp g l c) s
  let idle := (List.range (s.moe g l).experts).filter fun e => s.ownExpert g e && !r.chunks.any (·.expert == e)
  let s2 := idle.foldl (fun s e => s.bump .xrtExpSkip (1024 * g + e) 1) s1
  (((s2.squashPredicted g).predictNext g l).onRouter g fun r => { r with closed := true }).touch g

/-- LAYER_CLOSE (R217): every row of the step has been routed for the open layer; the lead tells the follower. -/
def execLayerClose (g : SaggerIx) (s : State) : Host.Outcome State Fault Refusal :=
  let x := s.sagger g.val
  match s.routeLayer g.val with
  | none => .next s
  | some l =>
    let epoch := x.router.epoch.toNat
    let s1 := s.openLayer g.val l
    if x.st != .serving || x.phase != .running || x.listHalt || x.router.closed || (s1.sagger g.val).router.routed.length < x.rowsN then .next s
    else
      let s2 := s1.closeLayer g.val l
      .next (if s.luted g.val && s.lead then s2.sendLute (luteExpertMsg 0x22 l epoch 0 0 [] []) else s2)

/-! ## CLOSE_GLU_EMIT (R217) -/

/-- A GLU record (R156) of `n` tokens of a chunk, `t` tokens of which earlier records have taken. -/
def gluRecord (m : MoeInfo) (c : ChunkShape) (l : Nat) (x : Chunk) (t n : Nat) : BitVec 256 :=
  let k := t * c.down.nb
  BitVec.ofNat 256 (0x12 + 2 ^ 8 * l + 2 ^ 16 * n + 2 ^ 21 * c.down.inFmt + 2 ^ 23 * m.act + 2 ^ 48 * c.down.nb +
    2 ^ 64 * (x.area c 4 0 + k * c.gate.slot) + 2 ^ 96 * c.gate.slot + 2 ^ 128 * (x.area c 5 0 + k * c.up.slot) +
    2 ^ 160 * (x.area c 6 0 + k * c.act) + 2 ^ 192 * m.xtAct)
/-- The GLU records of a chunk: one for each group of up to 16 of its tokens (R217).  The blocks of a chunk's outputs and
activations lie in one order without gaps, so the records together take every block (log entry 30). -/
def gluRecords (m : MoeInfo) (c : ChunkShape) (l : Nat) (x : Chunk) : List (BitVec 256) :=
  (List.range ((x.rows.length + 15) / 16)).map fun k => gluRecord m c l x (16 * k) (min 16 (x.rows.length - 16 * k))
/-- A FENCE entry (R90). -/
def fenceEntry (tally target : Nat) : BitVec 256 :=
  BitVec.ofNat 256 (2 + 2 ^ 32 * (target % 2 ^ 48) + 2 ^ 224 * tally)

/-- CLOSE_GLU_EMIT (R217 steps 2 to 4): the router's consuming wait on XT_GU is met, and the ring has room. -/
def execCloseGluEmit (g : SaggerIx) (s : State) : Host.Outcome State Fault Refusal :=
  let x := s.sagger g.val
  match x.router.layer with
  | none => .next s
  | some l =>
    let m := s.moe g.val l
    let k := tallyKey g.val m.xtGu
    let target := BitVec.ofNat 48 x.router.guTarget
    let rs := x.router.chunks.flatMap fun c => gluRecords m (s.chunkShape g.val l) l c
    if x.st != .serving || x.listHalt || !x.router.closed || x.router.gluDone then .next s
    else if x.router.chunks.isEmpty then .next (s.onRouter g.val fun r => { r with gluDone := true })
    else if (s.tally k).waitBad target true then .next (s.tallyFault k 0xC2 g.val)
    else if !reached (s.tally k).prod target || x.ops.used + rs.length > s.placeCount g.val 2 then .next s
    else
      let s1 := s.consumeTally k target (agentId 4 (dieOfSagger g.val) 0)
      let s2 := rs.foldl (fun s r => s.pushOp g.val r) s1
      let act := x.router.actTarget + rs.length
      let s3 := (s2.onRouter g.val fun r => { r with actTarget := act }).listWrite g.val (fenceEntry m.xtAct act)
      let s4 := x.router.chunks.foldl (fun s c => s.emitDown g.val l c) s3
      .next ((s4.onRouter g.val fun r => { r with gluDone := true }).touch g.val)

/-! ## ARENA_RESUME (R219) -/

/-- The areas of a flushed chunk that requantisation has released: the partial regions of its gate and up entries. -/
def Chunk.spent (x : Chunk) (c : ChunkShape) : List (BitVec 32 × Nat) := (x.areas.drop (c.start 2)).take (c.start 4 - c.start 2)

/-- ARENA_RESUME (R219): every entry written so far has been requantised, so its regions are free again. -/
def execArenaResume (g : SaggerIx) (s : State) : Host.Outcome State Fault Refusal :=
  let r := (s.sagger g.val).router
  match r.layer, r.stalled with
  | some l, some t =>
    let gone := (r.chunks.filter (·.flushed)).flatMap fun c => c.spent (s.chunkShape g.val l)
    s.when (reached (s.tally (tallyKey g.val (s.moe g.val l).xtGu)).prod (BitVec.ofNat 48 r.guTarget))
      (((s.bump .xrtArenaStallNs g.val (s.refNow - t)).onRouter g.val fun r => { r with
        stalled := none, arenaUsed := r.arenaUsed.filter fun a => !gone.contains a }).touch g.val)
  | _, _ => .next s

/-! ## MIX_RUN (R220, R223, R225, R227) -/

/-- A route record as the mixer reads it: slot, and for each choice its gate, REMOTE mark and output address. -/
def State.routeOf (s : State) (g row : Nat) : Nat × List (Nat × Bool × Nat) :=
  let a := s.routeAddr g row
  (s.hbmField a 0 16, (List.range (s.hbmField a 16 3)).map fun c =>
    (s.hbmField a (64 + 64 * c) 17, s.hbmField a (64 + 64 * c + 17) 1 == 1, s.hbmField a (96 + 64 * c) 32))
/-- The block addresses of a choice's output: chunks keep their blocks a stride apart, remote outputs follow one
another. -/
def ChunkShape.outAddrs (c : ChunkShape) (remote : Bool) (out : Nat) : List Nat :=
  blockAddrs out (if remote then c.down.slot else c.stride) c.down.outBlocks
/-- The blocks that the mix of a row reads. -/
def State.mixBlocks (s : State) (g : Nat) (c : ChunkShape) (row : Nat) (sh : List (BitVec 32)) : List Nat :=
  sh.map (·.toNat) ++ ((s.routeOf g row).2.flatMap fun x => c.outAddrs x.2.1 x.2.2)
/-- The exact values of output block `b` of a row: the shared expert's and the gated experts' (R220). -/
def State.mixValues (s : State) (g : Nat) (c : ChunkShape) (shared : Bool) (row b : Nat) (sh : List (BitVec 32)) : List Dyad :=
  let base := if shared then s.blockValues (sh.getD b 0).toNat else []
  ((s.routeOf g row).2.foldl (fun ys x =>
    let vs := s.blockValues ((c.outAddrs x.2.1 x.2.2).getD b 0)
    (List.range 1024).map fun j => (ys.getD j {}).add ((vs.getD j {}).mul { m := x.1, e := -16 })) base)
/-- A row's mix is skipped: its slot was cancelled, failed or never routed (R221, R228). -/
def State.mixSkips (s : State) (g row : Nat) (r : Router) : Bool :=
  !(r.shared.any fun x => x.1 == row) || s.rowDead g (s.routeOf g row).1

/-- The mixer reads the route records of `n` rows (R214). -/
def State.readRoutes (s : State) (g n : Nat) : State :=
  (s.bump .hbmNarrow (stackOfAddr (s.routeAddr g 0)) n).bump .hbmRdBytes (stackOfAddr (s.routeAddr g 0)) (64 * n)
/-- The route records are read; rows whose operands hold a violation fail their requests (R57). -/
def State.mixCheck (s : State) (g : Nat) (c : ChunkShape) (r : Router) : State :=
  r.shared.foldl (fun s x =>
    if s.rowDead g (s.routeOf g x.1).1 then s
    else match (s.mixBlocks g c x.1 x.2).findSome? s.blockViol with
      | none => s
      | some d => (s.failSlot 4 d g (dieOfSagger g) (s.routeOf g x.1).1).bump .sgrFmtViol g 1) (s.readRoutes g r.shared.length)

/-- Write output block `b` of the token list that starts at row `first` (R118 to R120, R220). -/
def State.mixBlock (s : State) (g l : Nat) (r : Router) (first n b out : Nat) : State :=
  let lay := s.layer g l
  let c := s.chunkShape g l
  let d : Drain := { mem := s.mem, r0 := 0, size := regionBytes n, nb := 1, pbase := 0
                     head := { tag := 0, shift := 0, layer := l, tokN := n, outGroup := 64 * b, inBlock := 0, cover := 0 }
                     dead := (List.range n).filter fun t => s.mixSkips g (first + t) r }
  let vals := (List.range n).map fun t =>
    s.mixValues g c (s.moe g l).shared (first + t) b (((r.shared.find? fun x => x.1 == first + t).map (·.2)).getD [])
  let e := d.output lay (lay.residual.map fun t => (t, s.layer g t)) (slabIx out) vals
  let s1 := (((({ s with mem := e.mem } : State).bump .sgrAccClamp g e.clamps).bump .sgrFmtSat g e.sats).bump .sgrFmtFallback g
    e.falls).bump .sgrFmtOutlier g e.sides
  if e.clamps ≠ 0 then s1.fault 1 4 0x55 g (dieOfSagger g) b else s1

/-- The layer is over: its chunks and arena space are free, its experts are idle. -/
def State.endLayer (s : State) (g : Nat) : State :=
  (s.onRouter g fun r => { r with
    layer := none, nextMoe := r.nextMoe + 1, chunks := [], arenaUsed := [], stalled := none
    pred := r.pred.filter fun p => p.2 != .confirmed && p.2 != .squashed }).touch g

/-- The join of a luted pair is complete (R227). -/
def State.joined (s : State) (g l : Nat) : Bool :=
  !s.luted g || !s.lead || (s.sagger g).router.answered.length == (s.moe g l).experts / 2

/-- The rows that a follower returns for one expert: its output blocks and the lead's addresses for them (R225).  Rows of
a cancelled slot are counted and not written (R228). -/
def State.returnRows (s : State) (g l expert : Nat) : List (BitVec 32 × List Byte) :=
  let r := (s.sagger g).router
  let c := s.chunkShape g l
  r.chunks.flatMap fun x => if x.expert ≠ expert then [] else
    (List.range x.rows.length).flatMap fun t =>
      let (row, slot, _) := x.rows.getD t (0, 0, [])
      let base := ((r.fromLead.find? fun f => f.1 == expert && f.2.1 == row).map (·.2.2)).getD 0
      if (s.wheelsOf g).any fun w => (s.wheel w).cancelled.contains slot then []
      else (List.range c.down.outBlocks).map fun b =>
        (base + BitVec.ofNat 32 (b * c.down.slot), s.blockAtSlab (x.outOf c t + b * c.stride))
/-- The answers of a follower: a DONE or an EMPTY for each of its experts (R225). -/
def State.answerLead (s : State) (g l : Nat) : State :=
  let r := (s.sagger g).router
  ((List.range (s.moe g l).experts).filter (s.ownExpert g)).foldl (fun s e =>
    let n := r.chunks.foldl (fun n x => n + if x.expert = e then x.rows.length else 0) 0
    if n = 0 then (s.sendLute (luteExpertMsg 0x24 l r.epoch.toNat e 0 [] [])).bump .xrtEmptyTx g 1
    else s.sendLute (luteExpertMsg 0x23 l r.epoch.toNat e n [] (s.returnRows g l e))) s

/-- MIX_RUN (R220): XT_DN counts every down entry of the layer, and a join is complete.  `outs` gives, for each token list
of up to 128 rows, the OUT_ADDR of every output block; a follower answers its lead instead. -/
def execMixRun (g : SaggerIx) (outs : List (List (BitVec 32))) (s : State) : Host.Outcome State Fault Refusal :=
  let x := s.sagger g.val
  match x.router.layer with
  | none => .next s
  | some l =>
    let m := s.moe g.val l
    let k := tallyKey g.val m.xtDn
    let target := BitVec.ofNat 48 x.router.dnTarget
    let due := !x.router.chunks.isEmpty
    if x.st != .serving || x.listHalt || !x.router.gluDone || !s.joined g.val l then .next s
    else if due && !reached (s.tally k).prod target then .next s
    else
      let s1 := if due then s.consumeTally k target (agentId 4 (dieOfSagger g.val) 0) else s
      if s.luted g.val && !s.lead then .next ((s1.answerLead g.val l).endLayer g.val)
      else
        let s2 := s1.mixCheck g.val (s1.chunkShape g.val l) x.router
        let lists := (x.rowsN + 127) / 128
        let s3 := (List.range lists).foldl (fun s q => (List.range (s.layer g.val l).outBlocks).foldl (fun s b =>
          s.mixBlock g.val l x.router (128 * q) (min 128 (x.rowsN - 128 * q)) b (((outs.getD q []).getD b 0).toNat)) s) s2
        .next ((s3.endLayer g.val).advance g.val m.xtMix (agentId 4 (dieOfSagger g.val) 0))

/-! ## Expert messages of a luted pair (R225 to R227) -/

/-- Bytes received on the lute, without the fill before the next message. -/
def State.luteRx (s : State) : List Byte := skipFill ((tget [] (s.port 6).rx 0).length / 16) (tget [] (s.port 6).rx 0)
/-- Payload bytes that a lute header announces. -/
def luteLen (h : Nat) : Nat := if 0x21 ≤ nbits h 0 8 ∧ nbits h 0 8 ≤ 0x24 then nbits h 64 32 else nbits h 96 13
/-- TYPE is one that the lute carries. -/
def luteType (h : Nat) : Bool := (1 ≤ nbits h 0 8 && nbits h 0 8 ≤ 7) || (0x21 ≤ nbits h 0 8 && nbits h 0 8 ≤ 0x24)
/-- The lute message at the head of the received bytes, once all of it has arrived. -/
def State.luteHead (s : State) : Option (Nat × List Byte) :=
  let bs := s.luteRx
  let h := leNat (bs.take 16)
  let n := if luteType h then luteLen h else 0
  if bs.length < 16 + n then none else some (h, (bs.drop 16).take n)
/-- Take that message. -/
def State.luteTake (s : State) : State :=
  match s.luteHead with
  | none => s
  | some (_, p) =>
    let n := 16 + (p.length + 15) / 16 * 16
    let rest := s.luteRx.drop n
    (s.onPort 6 fun x => { x with rx := tset x.rx 0 rest, freed := tmod 0 x.freed 0 (· + n / 16) }).bump .lutRxBytes 0 n
/-- Luted saggers, rising. -/
def State.lutedSaggers (s : State) : List Nat := s.planSaggers.filter s.luted
/-- A lute message that no table gives: discarded whole with 0xDA (R376). -/
def State.luteDiscard (s : State) (g : Nat) : State := s.luteTake.fault 3 0xD 0xDA g 6 0
/-- The next lute message as a handler takes it: a message of another legal TYPE waits for its own handler. -/
def State.luteWith (s : State) (type : Nat) (f : State → Nat → List Byte → State) : Host.Outcome State Fault Refusal :=
  match s.luteHead with
  | none => .next s
  | some (h, p) =>
    if !luteType h then .next (s.luteDiscard ((s.lutedSaggers.head?).getD 15))
    else if nbits h 0 8 ≠ type then .next s
    else .next (f s.luteTake h p)

/-- The luted sagger that an expert message is for: the lowest with that layer open, else the lowest whose image has it as
a MoE layer (R226 names no sagger; log entry 31). -/
def State.luteSagger (s : State) (h : Nat) : Option Nat :=
  let l := nbits h 8 8
  match s.lutedSaggers.find? fun g => (s.sagger g).router.layer == some l with
  | some g => some g
  | none => s.lutedSaggers.find? fun g =>
      (s.sagger g).router.layer.isNone && (s.sagger g).st == .serving && (s.layer g l).moe.isSome && !s.lead
/-- A message that R226 does not allow is discarded with 0x83 (R230). -/
def State.luteBad (s : State) (g : Nat) : State := s.routerFault g 0x83 (dieOfSagger g) 0

/-- The choices of a TOKEN: expert, reserved bits and output address. -/
def tokenChoices (n : Nat) (p : List Byte) : List (Nat × Nat × Nat) :=
  (List.range n).map fun k => (bfield p (64 * k) 10, bfield p (64 * k + 10) 22, bfield p (64 * k + 32) 32)
/-- A TOKEN breaks R226. -/
def State.tokenBad (s : State) (g h : Nat) (p : List Byte) : Bool :=
  let l := nbits h 8 8
  let n := nbits h 48 16
  let cs := tokenChoices n p
  s.lead || nbits h 96 32 != 0 || n == 0 || n > 7 || p.length != 8 * n + (s.chunkShape g l).gate.nb * s.inputSlot g l ||
    cs.any fun c => c.1 % 2 == 0 || c.1 ≥ (s.moe g l).experts || c.2.1 != 0

/-- LUTE_TOKEN (R225): the follower keeps the token's input blocks in its arena and enqueues it to its own experts. -/
def execLuteToken (s : State) : Host.Outcome State Fault Refusal :=
  s.luteWith 0x21 fun s1 h p =>
    match s.luteSagger h with
    | none => s1.luteBad ((s.lutedSaggers.head?).getD 15)
    | some g =>
      let l := nbits h 8 8
      if s.tokenBad g h p then s1.luteBad g
      else
        let s2 := (s1.openLayer g l).onRouter g fun r => { r with epoch := BitVec.ofNat 16 (nbits h 16 16) }
        let c := s2.chunkShape g l
        let n := nbits h 48 16
        let cs := tokenChoices n p
        let experts := cs.map (·.1)
        let extra := List.replicate c.gate.nb (s2.inputSlot g l)
        if (s2.sagger g).router.closed then s1.luteBad g
        else if neverFits (s2.arena g) (c.sizes ++ extra) then s1.routerFault g 0x82 (dieOfSagger g) 0
        else match s2.newAreas g l experts extra with
          | none => s.stallRouter g
          | some (areas, ins) =>
            let row := (s2.sagger g).router.routed.length
            let s3 := (s2.openChunks g experts areas).onRouter g fun r => { r with
              arenaUsed := r.arenaUsed ++ ins, stalled := none, routed := r.routed ++ [row]
              counts := experts.foldl (fun t e => tmod 0 t e (· + 1)) r.counts
              fromLead := r.fromLead ++ cs.map fun c => (c.1, row, BitVec.ofNat 32 c.2.2) }
            let s4 := (List.range c.gate.nb).foldl (fun s k =>
              s.putSlab ((ins.getD k (0, 0)).1).toNat ((p.drop (8 * n + k * s.inputSlot g l)).take (s.inputSlot g l))) s3
            (experts.foldl (fun s e => (s.enqueue g l e row (nbits h 32 16) (ins.map (·.1))).2) s4).touch g

/-- LUTE_CLOSE (R225): the follower closes the layer for its own experts. -/
def execLuteClose (s : State) : Host.Outcome State Fault Refusal :=
  s.luteWith 0x22 fun s1 h p =>
    match s.luteSagger h with
    | none => s1.luteBad ((s.lutedSaggers.head?).getD 15)
    | some g =>
      let l := nbits h 8 8
      if s.lead || !p.isEmpty || nbits h 32 32 != 0 || nbits h 96 32 != 0 || (s.sagger g).router.closed then s1.luteBad g
      else ((s1.openLayer g l).onRouter g fun r => { r with epoch := BitVec.ofNat 16 (nbits h 16 16) }).closeLayer g l

/-- An answer of the follower for expert `e`: it joins once (R227). -/
def State.takeAnswer (s s1 : State) (h : Nat) (p : List Byte) (done : Bool) (effect : State → Nat → State) : State :=
  match s.luteSagger h with
  | none => s1.luteBad ((s.lutedSaggers.head?).getD 15)
  | some g =>
    let r := (s.sagger g).router
    let e := nbits h 32 10
    let count := nbits h 48 16
    if !s.lead || !p.isEmpty || nbits h 42 6 != 0 || nbits h 96 32 != 0 || e % 2 == 0 || e ≥ (s.moe g (nbits h 8 8)).experts ||
        (!done && count != 0) || r.layer != some (nbits h 8 8) then s1.luteBad g
    else if r.answered.contains e || (done && (count == 0 || count != tget 0 r.remote e)) then s1.routerFault g 0x84 (dieOfSagger g) e
    else ((effect s1 g).onRouter g fun r => { r with answered := r.answered ++ [e] }).touch g

/-- LUTE_DONE (R227): the follower's rows for one expert have been written, and are counted.  `writes` are its writes into
this module's slabs that the lute delivered before the message (R225). -/
def execLuteDone (writes : List (BitVec 32 × List Byte)) (s : State) : Host.Outcome State Fault Refusal :=
  s.luteWith 0x23 fun s1 h p => s.takeAnswer s1 h p true fun s g =>
    writes.foldl (fun s w => if s.slabRegion g w.1.toNat w.2.length 1 then s.putSlab w.1.toNat w.2 else s) s

/-- LUTE_EMPTY (R227). -/
def execLuteEmpty (s : State) : Host.Outcome State Fault Refusal :=
  s.luteWith 0x24 fun s1 h p => s.takeAnswer s1 h p false fun s g => s.bump .xrtEmptyRx g 1

/-! ## The stop of a step (R223) -/

/-- The step was stopped by a fault: its chunks and counts are discarded and every request of the EPOCH is dropped. -/
def State.dropRouter (s : State) (g : Nat) : State :=
  let r := (s.sagger g).router
  let gone := r.pred.filter fun p => p.2 == .predicted
  ((s.squashLoads g fun l => l.epoch == r.epoch.toNat).bump .xrtPredSquash g gone.length).onRouter g fun r => { epoch := r.epoch }

end Sys2Proof.Machine
end

