-- ==== Sys2Proof/Machine/LutePackets.lean ====
section
/-! DEFINITION. Lute memory messages as the partner module takes them (spec/12_lattice_kiln_and_lute.md, R375, R376). -/

namespace Sys2Proof.Machine

/-! ## Fields and checks (R376) -/

/-- SAGGER. -/
def lmSagger (h : Nat) : Nat := nbits h 8 4
/-- TAG. -/
def lmTag (h : Nat) : BitVec 16 := BitVec.ofNat 16 (nbits h 16 16)
/-- Window address. -/
def lmAddr (h : Nat) : Nat := nbits h 32 32 + 2 ^ 32 * nbits h 64 9
/-- Tally number. -/
def lmTally (h : Nat) : Nat := lmSagger h * 4096 + nbits h 32 12
/-- SAGGER is not luted, or a reserved field is non-zero. -/
def State.lmBad (s : State) (h : Nat) : Bool :=
  !s.luted (lmSagger h) || nbits h 12 4 != 0 || nbits h 73 23 != 0 || nbits h 109 19 != 0
/-- A TALLY or MIRROR header has address bits beyond the tally index. -/
def lmTallyBad (h : Nat) : Bool := nbits h 44 20 != 0 || nbits h 64 9 != 0

/-- The OWNED strata of the follower sagger in the plan's order: the slots of the window (R375). -/
def State.windowStrata (s : State) (g : Nat) : List Nat :=
  (((s.plan.map (·.strata)).getD []).filter fun r => r.kind == 1 && r.owner == g).map (·.stratum)
/-- The parts of a window range, cut at slot bounds: HBM address and bytes; none when it lies outside the window or in a
slot without a stratum. -/
def State.windowParts (s : State) (g a n : Nat) : Option (List (Nat × Nat)) :=
  let ts := (s.windowStrata g).take 99
  let o := a - windowBase
  let k := o / stratumBytes
  let first := min n (stratumBytes - o % stratumBytes)
  if a < windowBase ∨ n = 0 ∨ ts.length ≤ (o + n - 1) / stratumBytes then none
  else some ([(ts.getD k 0 * stratumBytes + o % stratumBytes, first)] ++
    if first < n then [(ts.getD (k + 1) 0 * stratumBytes, n - first)] else [])

/-- A message that R376 does not allow, after it has been taken: 0xDA for its sagger. -/
def State.lmReject (s : State) (h : Nat) : State := s.fault 3 0xD 0xDA (if s.luted (lmSagger h) then lmSagger h else 15) 6 0
/-- The next memory message of a type, when it passes the checks on its header and `ok`; traffic of the partner counts as
progress of the sagger (R344). -/
def State.lmTake (s : State) (type : Nat) (ok : State → Nat → List Byte → Bool) (f : State → Nat → List Byte → State) :
    Host.Outcome State Fault Refusal :=
  s.luteWith type fun s h p => if s.lmBad h || !ok s h p then s.lmReject h else f (s.touch (lmSagger h)) h p

/-! ## Memory accesses at the follower (R297, R299, R375) -/

/-- LUTE_WRITE (R375, R376): a posted write into the follower sagger's strata. -/
def execLuteWrite (s : State) : Host.Outcome State Fault Refusal :=
  s.lmTake 1 (fun s h p => !s.lead && 8 ≤ p.length && p.length ≤ 4096 && (s.windowParts (lmSagger h) (lmAddr h) p.length).isSome)
    fun s h p =>
      let parts := (s.windowParts (lmSagger h) (lmAddr h) p.length).getD []
      if parts.any fun x => s.rangeProtected x.1 x.2 then s.writeReject (lmSagger h) ((parts.headD (0, 0)).1)
      else (parts.foldl (fun (acc : List Byte × State) x =>
        (acc.1.drop x.2, (acc.2.putHbm x.1 (acc.1.take x.2)).bump .hbmWrBytes (stackOfAddr x.1) x.2)) (p, s)).2

/-- Bytes that a READ asks for. -/
def lmReadLen (p : List Byte) : Nat := bfield p 0 13
/-- LUTE_READ (R375, R376): the answer follows every write issued before it. -/
def execLuteRead (s : State) : Host.Outcome State Fault Refusal :=
  s.lmTake 2 (fun s h p => !s.lead && p.length == 4 && bfield p 13 19 == 0 && 8 ≤ lmReadLen p && lmReadLen p ≤ 4096 &&
      (s.windowParts (lmSagger h) (lmAddr h) (lmReadLen p)).isSome)
    fun s h p =>
      let parts := (s.windowParts (lmSagger h) (lmAddr h) (lmReadLen p)).getD []
      (parts.foldl (fun s x => s.bump .hbmRdBytes (stackOfAddr x.1) x.2) s).sendLute
        (luteMemMsg 3 (lmSagger h) (lmTag h).toNat (lmAddr h) (parts.flatMap fun x => s.hbm x.1 x.2))

/-- LUTE_ATOMIC (R298, R299, R375): the follower's controller performs the record on the mapped word. -/
def execLuteAtomic (s : State) : Host.Outcome State Fault Refusal :=
  s.lmTake 4 (fun s h p => !s.lead && p.length == 16 && !atBad (leNat p) && (s.windowParts (lmSagger h) (lmAddr h) (atBytes (leNat p))).isSome)
    fun s h p =>
      let r := leNat p
      let a := (((s.windowParts (lmSagger h) (lmAddr h) (atBytes r)).getD []).headD (0, 0)).1
      let s1 := if s.rangeProtected a (atBytes r) then s.writeReject (lmSagger h) a
        else s.doAtomic (nsetBits (nsetBits r 32 32 (a % 2 ^ 32)) 5 9 (a / 2 ^ 32))
      s1.sendLute (luteMemMsg 5 (lmSagger h) (lmTag h).toNat (lmAddr h) [])

/-! ## Answers at the lead -/

/-- The outstanding request that an answer names. -/
def State.luteAsk? (s : State) (h : Nat) : Option LuteAsk := s.lute.asked.find? fun a => a.tag == lmTag h && a.sagger == lmSagger h
/-- The request is answered. -/
def State.dropAsk (s : State) (a : LuteAsk) : State := s.onLute fun l => { l with asked := l.asked.filter (· != a) }

/-- Where the data of an answered READ goes: a slab, a ware-board load or a narrow read.  An HLOAD advances its tally with
its last piece (R284). -/
def State.landRead (s : State) (a : LuteAsk) (p : List Byte) : State :=
  match a.use with
  | .slab dst tally job =>
    let s1 := s.putSlab dst.toNat p
    let more := s1.lute.asked.any fun b => match b.use with
      | .slab _ _ j => j == job
      | _ => false
    if more then s1 else (s1.advance a.sagger tally (agentId 7 (dieOfWheel (slabWheel dst.toNat)) 0)).touch a.sagger
  | .load d num unit => s.onLute fun l => { l with got := l.got ++ [(d, num, unit, p)] }
  | .narrow => s.onMem fun m => { m with narrowOut := p }
  | .atomic _ => s

/-- LUTE_READ_RSP (R376). -/
def execLuteReadRsp (s : State) : Host.Outcome State Fault Refusal :=
  s.lmTake 3 (fun s h p => s.lead && match s.luteAsk? h with
      | some a => a.bytes == p.length && (match a.use with | .atomic _ => false | _ => true)
      | none => false)
    fun s h p => match s.luteAsk? h with
      | some a => (s.dropAsk a).landRead a p
      | none => s

/-- LUTE_ATOMIC_RSP (R376): the answer carries no data, so the success mark and the old value of a remote atomic are free
values (log entry 33). -/
def execLuteAtomicRsp (s : State) : Host.Outcome State Fault Refusal :=
  s.lmTake 5 (fun s h p => s.lead && p.isEmpty && match s.luteAsk? h with
      | some a => (match a.use with | .atomic _ => true | _ => false)
      | none => false)
    fun s h _ => match s.luteAsk? h with
      | none => s
      | some a =>
        let (f, s1) := (s.dropAsk a).draw
        let (v, s2) := s1.draw
        let ret := match a.use with
          | .atomic r => r
          | _ => false
        s2.onMem fun m => { m with
          atomicOk := Config.freeNat f % 2 == 1, atomicOut := if ret then some (Config.freeNat v % 2 ^ (8 * a.bytes)) else none }

/-! ## Tallies (R333, R374) -/

/-- A TALLY payload is one that `tallyOpBytes` can spell, from an agent of the partner. -/
def tallyOpOk (p : List Byte) : Bool :=
  p.length == 16 && 1 ≤ bfield p 0 8 && bfield p 0 8 ≤ 3 && bfield p 8 8 ≤ 1 && bfield p 28 1 == 1 && bfield p 29 3 == 0
/-- LUTE_TALLY: an operation of the partner's agents on a tally whose home is here, under the rules of R337 and R339. -/
def execLuteTally (s : State) : Host.Outcome State Fault Refusal :=
  s.lmTake 6 (fun s h p => !lmTallyBad h && tallyOpOk p && s.homeHere (lmTally h)) fun s h p =>
    let k := lmTally h
    let g := lmSagger h
    let x := s.tally k
    let agent := BitVec.ofNat 13 (bfield p 16 16)
    let n := bfield p 32 32
    let target := BitVec.ofNat 48 (bfield p 64 64)
    let consume := bfield p 8 8 == 1
    match bfield p 0 8 with
    | 1 => if x.mode = 0 then s.tallyFault k 0xC2 g else s.applySignal k n agent
    | 2 =>
      if x.mode ≠ 1 then s.tallyFault k 0xC2 g
      else if n > x.open_ then s.tallyFault k 0xC1 g
      else s.onTally k fun x => { x with cons := x.cons + BitVec.ofNat 48 n }
    | _ =>
      if x.waitBad target consume then s.tallyFault k 0xC2 g
      else s.onTally k (·.wait { agent := agent, target := target, consume := consume })

/-- LUTE_MIRROR (R333): the counters of a tally whose home is on the partner; waiters whose target PROD has reached
wake. -/
def execLuteMirror (s : State) : Host.Outcome State Fault Refusal :=
  s.lmTake 7 (fun s h p => !lmTallyBad h && p.length == 16 && !s.homeHere (lmTally h)) fun s h p =>
    s.onTally (lmTally h) fun t =>
      let prod := BitVec.ofNat 48 (bfield p 0 64)
      { t with prod := prod, cons := BitVec.ofNat 48 (bfield p 64 64), waiters := t.waiters.filter fun w => !reached prod w.target }

end Sys2Proof.Machine
end

