-- ==== Sys2Proof/Machine/Life.lean ====
section
/-! DEFINITION. The life of a sagger: build, stop, reset, clear and going DOWN (spec/14_saggers_trust_and_management.md, R411,
R416; spec/15_boot_and_health.md, R447; spec/16_faults_and_recovery.md, R465 to R467; spec/13_shomu_host_link.md,
R405). -/

namespace Sys2Proof.Machine

/-! ## Requests that end outside a fire point (R405, R411, R416) -/

/-- Queued requests that `p` selects are removed, and live ones are pre-empted as by a cancel: they will end without a DONE
(R405 step 2). -/
def State.markLost (s : State) (g : Nat) (p : Req → Bool) : State :=
  let s1 := s.onSagger g fun x => { x with queue := x.queue.filter fun q => !p q }
  ((s1.sagger g).live.filter p).foldl (fun s q => s.stopReq g q true) s1
/-- Requests that end without a DONE end at their last fired state, when no step is under way (R405 step 3). -/
def State.endLost (s : State) (g : Nat) : State :=
  if (s.sagger g).phase = .none then
    ((s.sagger g).live.filter fun q => q.st == .ended && q.silent).foldl (fun s q => s.endReq g q) s
  else s
/-- Every queued and live request ends at once with DONE FAILED and a code; one that has its DONE only ends. -/
def State.failAll (s : State) (g : Nat) (code : BitVec 16) : State :=
  let x := s.sagger g
  let s1 := x.queue.foldl (fun s q => s.doneReq g q q.tag 8 code) s
  let s2 := x.live.foldl (fun s q => (if q.st = .ended then s else (s.stopSwap g q).doneReq g q q.tag 8 code).endReq g q) s1
  s2.onSagger g fun y => { y with queue := [] }

/-! ## Stopping the work of a sagger (R465 steps 1 and 2) -/

/-- An LDU without the work of sagger `g`. -/
def Ldu.without (l : Ldu) (g : Nat) : Ldu :=
  { l with
    attnQ := l.attnQ.filter fun d => d.1 != g
    cur := match l.cur with
      | some (.desc h d) => if h = g then none else some (.desc h d)
      | some (.op h r) => if h = g then none else some (.op h r)
      | none => none
    tiles := l.tiles.filter fun t => t.sagger != g
    group := if l.group.head? = some g then [] else l.group, cancelled := [] }
/-- An SSU without the work of sagger `g`. -/
def Ssu.without (u : Ssu) (g : Nat) : Ssu :=
  { u with
    jobs := u.jobs.filter fun j => j.sagger != g
    keys := u.keys.filter fun k => k.sagger != g
    done := u.done.filter fun k => k.sagger != g }

/-- The units of the sagger hold nothing of it any more: entries, save areas, row states, rings and pending loads are
discarded (R465 steps 1, 2 and 4). -/
def State.stopWork (s : State) (g : Nat) : State :=
  let s1 := (s.dropRouter g).resetWare g
  let s2 := (List.range 144).foldl (fun s w => if s.ownsWheel g w then
    s.onWheel w fun x => { hang := x.hang, failed := x.failed } else s) s1
  let s3 := (List.range 12).foldl (fun s l => if (s.planSagger g).shelves.getLsbD l then s.onLdu l fun x => x.without g else s) s2
  let s4 := [0, 1].foldl (fun s d => s.onSsu d fun u => u.without g) s3
  let s5 := s4.onLute fun l => { l with asked := l.asked.filter fun a => a.sagger != g }
  s5.onSagger g fun x => { x with
    list := {}, listHalt := false, listWait := [], ops := {}, opHalt := false, attnHalt := false, waiting := [], flight4 := 0
    flight8 := 0, flight16 := 0, walk := {}, qNext := 0, qOpen := [], stageProd := x.stageEnd, stageOrder := [], stageFired := [] }

/-- Glaze streams to or from the sagger are dropped; a chunk reload goes on (R328, R465, R467).  Swap transfers stop. -/
def State.stopStreams (s : State) (g : Nat) : State :=
  let ids := (s.lat.streams.filter fun t => t.sagger == g && t.kind != 4).map (·.sid)
  let outIds := (s.lat.outs.filter fun o => o.sagger == g && o.kind != 4).map (·.sid)
  let s1 := (s.lat.incoming.filter (·.sagger == g)).foldl (fun s x => s.dropIncoming x) s
  let s2 := s1.onLat fun l => { l with
    streams := l.streams.filter fun t => !ids.contains t.sid
    outs := l.outs.filter fun o => !outIds.contains o.sid }
  let s3 := [0, 1].foldl (fun s d => s.onGlaze d fun e => { e with
    expQ := e.expQ.filter fun b => !ids.contains b.1
    cmpQ := e.cmpQ.filter fun b => !outIds.contains b.1 }) s2
  { s3 with swaps := s3.swaps.filter fun r => s3.saggerOfChan r.chan != some g }
/-- Leave every slice of the sagger (R372). -/
def State.leaveFor (s : State) (g : Nat) (code : BitVec 16) : State := s.leaveSlices (fun x => x.sgr == g) code

/-! ## A step that fails (R271, R465 step 3) -/

/-- The request as it waited in the queue before its admission. -/
def Req.requeued (q : Req) : Req := { chan := q.chan, tag := q.tag, sub := q.sub, tSub := q.tSub, arrival := q.arrival }
/-- Tokens drawn at an admission go back to the tenant's bucket, up to its depth (R465). -/
def State.refund (s : State) (g : Nat) (q : Req) : State :=
  s.onSagger g fun x => { x with tenants := x.tenants.map fun t =>
    if t.budget.tenant = q.sub.tenant ∧ t.budget.rate ≠ 0xFFFF then
      { t with bucket := min t.budget.depth (t.bucket + q.sub.prompt.length * 10 ^ 9) } else t }
/-- The request was admitted in the running step. -/
def State.admittedNow (s : State) (g : Nat) (q : Req) : Bool :=
  (s.sagger g).phase == .running && q.firstStep == (s.sagger g).stepNum && q.st != .ended && q.failed.isNone

/-- The step under way fails: its greenware is freed, requests admitted in it go back to the head of the queue, failed ones
end, and what it had sampled is forgotten. -/
def State.failStep (s : State) (g : Nat) : State :=
  let x := s.sagger g
  let back := x.live.filter (s.admittedNow g)
  let s1 := x.ragged.foldl (fun s e => s.trimSlots g e.slot e.fired) s
  let s2 := back.foldl (fun s q => (s.endReq g q).refund g q) s1
  let s3 := ((s2.sagger g).live.filter fun q => !q.compFrames.isEmpty).foldl (fun s q => s.dropCompact g q) s2
  let s4 := s3.onSagger g fun y => { y with
    queue := back.map Req.requeued ++ y.queue, phase := .none, commit := none, ragged := [], rowsN := 0, cleared := true
    lag := if x.phase = .running then newLag y.lag (s.now - x.stepStart) (s.period g) else y.lag
    live := y.live.map fun q => { q with
      rows := 0, tree := [], samples := [], path := none, copies := [], masked := false
      draws := q.draws - (if q.sub.temp = 0 then 0 else q.samples.length) } }
  s4.reap g

/-! ## Build and going DOWN (R411, R447) -/

/-- Usable shelves of a sagger. -/
def State.shelvesOf (s : State) (g : Nat) : List Nat :=
  (List.range 12).filter fun k => (s.planSagger g).shelves.getLsbD k && s.shelfUsable k
/-- A placement of the sagger lies in an unusable stratum or in the slab of an unusable wheel. -/
def State.placeLost (s : State) (g : Nat) : Bool :=
  (s.placedRanges g).any (fun r => (strataOf r.1 r.2).any fun t => !s.stratumUsable t) ||
    (((s.plan.map (·.places)).getD []).any fun p =>
      p.sagger == g && (p.type == 0x0D || p.type == 0x0E) && !s.wheelUsable (slabWheel p.base))
/-- The sagger stays DOWN with 0xFA (R447). -/
def State.cannotBuild (s : State) (g : Nat) : Bool :=
  let p := s.planSagger g
  s.marked 388 g || (s.sagger g).stayDown || (s.shelvesOf g).length < p.minShelves || (s.ldusOf g).length < p.minLdus ||
    (s.ownStrata g).length < p.minStrata || s.placeLost g

/-- Boundary values of a build: P_T loaded, step 1, RHO 1.0, L 0, rings at their bases, order pairwise, prefix nodes and hash heads
empty; images and tenants stay (R244, R411, R416). -/
def State.freshSagger (s : State) (g : Nat) : State :=
  let s1 := (s.zeroHbm (s.placeAddr g 7) (64 * s.placeCount g 7)).zeroHbm (s.placeAddr g 8) (4 * s.placeCount g 8)
  let s2 := (s1.zeroTallies g).onSagger g fun x =>
    { st := .building, images := x.images, tenants := x.tenants, frames := x.frames, resetTimes := x.resetTimes
      probeExpiries := x.probeExpiries, stayDown := x.stayDown, reserved := [], progress := s.refNow, arrivals := x.arrivals
      clearTally := x.clearTally }
  (s2.setReg .sgrAccCtl g (nsetBits (s2.reg .sgrAccCtl g) 0 1 0)).setReg .sgrStepPeriod g (s2.planSagger g).pT

/-- Tallies of the setting plan are configured while the sagger is built (R334). -/
def State.planTallies (s : State) (g : Nat) : State :=
  (((s.plan.map (·.tallies)).getD []).filter fun t => t.1 == g).foldl (fun s t => s.configTally (tallyKey g t.2.1) t.2.2) s
/-- Channels of the sagger open under their key policy: PLAIN at once, the others through R395. -/
def State.openChannels (s : State) (g : Nat) : State :=
  (s.chansOf g).foldl (fun s c => s.onChan c fun x =>
    if x.st = .unassigned ∨ x.st = .closed then
      { x with st := if ((s.planChan c).map (·.policy)).getD 0 = 0 then .openPlain else .closed } else x) s

/-- Build a sagger from DOWN, or again after a clear (R411, R447): a luted one waits in DOWN for its lute. -/
def State.buildSagger (s : State) (g : Nat) : State :=
  if s.luted g && !s.lute.paired then s.onSagger g fun x => { x with st := .down }
  else if s.cannotBuild g then
    ((s.onSagger g fun x => { x with st := .down }).onBoot fun b => { b with sgrDown := b.sgrDown ||| (1 <<< g) }).raise
      { code := faultCode 3 0 0xFA, sagger := sgField g, level := 7, unit := 12 }
  else
    let s1 := ((s.freshSagger g).planTallies g).openChannels g
    let s2 := (s1.wheelsOf g).foldl (fun s w => s.awaitEntry w) s1
    s2.onSagger g fun x => { x with st := .serving }

/-- A sagger goes DOWN (R411): its step stops, its requests end as on loss of the adapter, and it leaves its slices. -/
def State.saggerDown (s : State) (g : Nat) (code : BitVec 16) : State :=
  let s1 := ((s.markLost g fun _ => true).stopWork g).stopStreams g
  let s2 := match (s1.sagger g).commit with
    | some k => s1.finishFire g k
    | none => s1.failStep g
  let s3 := s2.markLost g fun _ => true
  ((s3.endLost g).leaveFor g code).onSagger g fun x => { x with st := .down }

/-! ## Deadlock detectors (R344, R345) -/

/-- Last progress and arming of a detector: of a sagger, or of the house. -/
def State.detector (s : State) (g : Nat) : Nat × Bool :=
  if g < 12 then ((s.sagger g).progress, (s.sagger g).dlArmed) else (s.houseProgress, s.houseArmed)
/-- Disarm a detector until the next progress. -/
def State.disarm (s : State) (g : Nat) : State :=
  if g < 12 then s.onSagger g fun x => { x with dlArmed := false } else { s with houseArmed := false }
/-! ## SAGGER_RESET_SEQUENCE (R465 to R467) -/

/-- The records of a slot fail the checks of R179; `out` allows swapped pages. -/
def State.slotBad (s : State) (g slot : Nat) (out : Bool) : Bool :=
  let i := s.imageOfSlot g slot
  let n := s.firedSlots g slot
  let e : Ragged := { slot := slot, chan := 0, reqId := 0, tree := false, scored := false, fired := n, pos0 := s.nextPos g slot, new := 0 }
  let pages := (n + i.ppp - 1) / i.ppp
  s.seqBad g slot || (List.range i.attnLayers).any fun l => (List.range pages).any fun p =>
    let x := s.pte g slot l p
    if out && x.swapped then x.resv != 0 || x.fill > i.ppp
    else s.pteBad g slot l p (n - 1) (if p = 0 then 0 else s.pageEnd g slot l (p - 1) pages e)
/-- Step 5, records: a request whose record or page table fails ends with DONE FAILED and 0x3A; bad nodes are retired. -/
def State.checkRecords (s : State) (g : Nat) : State :=
  let bad := (s.sagger g).live.filter fun q => q.slots.any fun t => s.slotBad g t (q.st == .swapped)
  let s1 := bad.foldl (fun s q => (((s.stopSwap g q).faultReq 6 0x3A g g q.name).doneReq g q q.tag 8 (faultCode 2 6 0x3A)).endReq g q) s
  ((s1.sagger g).nodes.filter fun n => !(s1.sagger g).retired.contains n).foldl (fun s n =>
    if (s.sagger g).nodes.contains n && !(s.sagger g).retired.contains n && s.nodeBad g n then s.retireNode g n else s) s1
/-- Step 5, reference tiles: a wheel whose tile fails is unusable for the rest of the start. -/
def State.checkTiles (s : State) (g : Nat) (fails : List Nat) : State :=
  (fails.filter fun w => s.ownsWheel g w && s.wheelUsable w).foldl (fun s w =>
    ((s.onWheel w fun x => { x with failed := true }).onHealth fun h => { h with pending := h.pending ++ [(w / 8, w % 8)] }).fault
      3 1 0x3C g w 0) s

/-- Swap transfers resume page by page: a page not yet out is sent again, one that was landing is read again (R465). -/
def State.resumeSwaps (s : State) (g : Nat) : State :=
  ((s.sagger g).live.filter fun q => q.st == .swapped && q.failed.isNone).foldl (fun s q =>
    q.units.foldl (fun s u =>
      let e := s.pte g (q.unitSlot u.1) (u.1 % 256) u.2.1
      match q.landing.find? fun l => l.1 == u.2.2 with
      | some l => s.pageIn g q u.1 u.2.1 u.2.2 l.2
      | none => if e.swapped then s else s.pageOut g q u.1 u.2.1 e.frame) s) s

/-- Step 6: the third reset within 60 s ends every request and raises 0x39 (R466); then order pairwise and SERVING, or DOWN
for a luted sagger without its lute (R411). -/
def State.resumeSagger (s : State) (g : Nat) : State :=
  let code := (s.sagger g).cause.code
  let times := ((s.sagger g).resetTimes.filter fun t => s.refNow < t + 60 * 10 ^ 9) ++ [s.refNow]
  let s1 := if times.length < 3 then s.onSagger g fun x => { x with resetTimes := times }
    else ((s.failAll g code).fault 3 0 0x39 g 12 0).onSagger g fun x => { x with resetTimes := [] }
  let s2 := (s1.setReg .sgrAccCtl g (nsetBits (s1.reg .sgrAccCtl g) 0 1 0)).bump .sgrResets g 1
  if s.luted g && !s.lute.paired then s2.saggerDown g code
  else
    let s3 := (s2.wheelsOf g).foldl (fun s w => s.awaitEntry w) s2
    ((s3.resumeSwaps g).onSagger g fun x => { x with st := .serving }).touch g

/-- SAGGER_RESET_SEQUENCE (R465): stop, quiesce, settle, clear, check and resume.  `refFails` are the wheels whose reference
tile fails. -/
def execSaggerResetSequence (g : SaggerIx) (refFails : List Nat) (s : State) : Host.Outcome State Fault Refusal :=
  let g := g.val
  let code := (s.sagger g).cause.code
  let s1 := ((s.stopStreams g).leaveFor g code).stopWork g
  let s2 := match (s1.sagger g).commit with
    | some k => s1.finishFire g k
    | none => s1.failStep g
  let s3 := ((s2.clearSlabs g).zeroTallies g).setReg .sgrAccCtl g 5
  let s4 := (s3.checkRecords g).checkTiles g refFails
  s.when ((s.sagger g).st == .resetting)
    (if (s4.shelvesOf g).length < (s.planSagger g).minShelves then s4.saggerDown g code else s4.resumeSagger g)

/-! ## SETTER_PROBE and SETTER_PROBE_TIMEOUT (R466) -/

/-- SETTER_PROBE: `answers` says whether the setter answers this probe. -/
def execSetterProbe (g : SaggerIx) (answers : Bool) (s : State) : Host.Outcome State Fault Refusal :=
  s.when (s.firmwareUp && s.named g.val)
    (s.onSagger g.val fun x => { x with probeLost := if answers then none else some (x.probeLost.getD s.refNow) })
/-- SETTER_PROBE_TIMEOUT: no answer within 10 ms; the second expiry in a start leaves the sagger DOWN and marks its
setter. -/
def execSetterProbeTimeout (g : SaggerIx) (s : State) : Host.Outcome State Fault Refusal :=
  let x := s.sagger g.val
  let s1 := (s.onSagger g.val fun y => { y with probeLost := none, probeExpiries := y.probeExpiries + 1 }).fault 3 0 0x38 g.val 12 0
  s.when (x.probeLost.any fun t => t + 10000000 ≤ s.refNow)
    (if x.probeExpiries = 0 then s1
     else ((s1.saggerDown g.val (faultCode 3 0 0x38)).onSagger g.val fun y => { y with stayDown := true }).onHealth fun h =>
       { h with pending := h.pending ++ [(388 + g.val / 8, g.val % 8)] })

/-! ## The luted pair (R373, R377) -/

/-- PAIR_FORM (R373): the lute is UP, which its training checks allow; the luted saggers are built. -/
def execPairForm (s : State) : Host.Outcome State Fault Refusal :=
  s.when ((s.port 6).st == .up && !s.lute.paired && !s.lute.stop && s.device.role != 0 && 5 ≤ s.boot.phase && !s.boot.bisque &&
      !s.boot.shutting)
    ((s.lutedSaggers.filter fun g => (s.sagger g).st == .down).foldl (fun s g => s.buildSagger g)
      (s.onLute fun l => { l with paired := true, mirrors := [] }))

/-- What a pair stop does to one luted sagger: 0xD9, its live requests fail at once on the lead, and it is reset. -/
def State.stopLuted (s : State) (g : Nat) : State :=
  let s1 := s.fault 3 0xD 0xD9 g 6 0
  let s2 := if s.lead then (s1.sagger g).live.foldl (fun s q =>
      (if q.st = .ended then s else (s.stopSwap g q).doneReq g q q.tag 8 (faultCode 3 0xD 0xD9)).endReq g q) s1 else s1
  (s2.onSagger g fun x => { x with st := .resetting, cause := { code := faultCode 3 0xD 0xD9 }, commit := none }).onRouter g
    fun r => { r with remote := [], answered := [] }

/-- PAIR_STOP (R377). -/
def execPairStop (s : State) : Host.Outcome State Fault Refusal :=
  let built := s.lutedSaggers.filter fun g => (s.sagger g).st != .down
  s.when (s.lute.stop)
    (((built.foldl (fun s g => s.stopLuted g) s).onLute fun _ => {}).bump .lutStops 0 1)

end Sys2Proof.Machine
end

