-- ==== Sys2Proof/Machine/PlanCheck.lean ====
section
/-! DEFINITION. The setting plan: its bytes read from the boot flash, and the checks of the start sequence
(spec/15_boot_and_health.md, R433, R436 to R442). -/

namespace Sys2Proof.Machine

/-! ## Sections (R436, R437) -/

/-- A section header. -/
structure PlanSect where
  type  : Nat
  count : Nat
  off   : Nat
  size  : Nat
  deriving DecidableEq, Repr

/-- A field of a record at byte offset `off`. -/
def pf (r : List Byte) (off lo w : Nat) : Nat := bfield r (8 * off + lo) w
/-- A record is zero from byte `a` up to byte `b`. -/
def zeroFrom (r : List Byte) (a b : Nat) : Bool := ((r.drop a).take (b - a)).all (· == 0)
/-- NSECT. -/
def planN (p : List Byte) : Nat := pf p 12 0 16
/-- The section headers of a plan. -/
def planSects (p : List Byte) : List PlanSect := (List.range (planN p)).map fun i =>
  { type := pf p (2016 + 16 * i) 0 8, count := pf p (2020 + 16 * i) 0 32, off := pf p (2024 + 16 * i) 0 32, size := pf p (2028 + 16 * i) 0 32 }
/-- Record size of a section type, least and largest COUNT, and whether it is required; KILN counts its coordinates. -/
def sectRule : Nat → Option (Nat × Nat × Nat × Bool)
  | 1 => some (128, 1, 1, true)
  | 2 => some (8, 1, 2048, true)
  | 3 => some (4, 1, 128, true)
  | 4 => some (128, 1, 12, true)
  | 5 => some (16, 0, 1024, false)
  | 6 => some (16, 0, 64, false)
  | 7 => some (36, 0, 1024, false)
  | 8 => some (20, 0, 12288, false)
  | 9 => some (36, 1, 16, true)
  | 10 => some (16, 1, 16, true)
  | 11 => some (36, 0, 256, false)
  | 12 => some (12, 0, 49152, false)
  | _ => none
/-- Bytes of the signature. -/
def sigBytes : Nat := 3309
/-- A section header breaks R4, R436 or R437. -/
def sectBad (p : List Byte) (x : PlanSect) : Bool :=
  match sectRule x.type with
  | none => true
  | some (size, lo, hi, _) =>
    x.count < lo || hi < x.count || x.off % 16 != 0 || x.off < 2016 + 16 * planN p || x.off + x.size + sigBytes > p.length ||
      x.size != (if x.type = 2 then 32 else 0) + size * x.count
/-- The plan's frame breaks R433 or R436: MAGIC, VERSION, LEN, section headers and reserved fields. -/
def planFrameBad (p : List Byte) : Bool :=
  let ss := planSects p
  pf p 0 0 32 != 0x50535946 || pf p 4 0 32 != 0x10 || pf p 8 0 32 != p.length || planN p == 0 || planN p > 64 || pf p 14 0 16 != 0 ||
    !zeroFrom p 20 64 || p.length < 2016 + 16 * planN p + sigBytes ||
    ((List.range (planN p)).any fun i => pf p (2016 + 16 * i) 8 24 != 0) || ss.any (sectBad p) ||
    (ss.map (·.type)).eraseDups.length != ss.length || [1, 2, 3, 4, 9, 10].any fun t => !ss.any (·.type == t)
/-- The records of a section; none when the plan has no such section. -/
def planRecs (p : List Byte) (type : Nat) : List (List Byte) :=
  match (planSects p).find? (·.type == type), sectRule type with
  | some x, some (size, _) => (List.range x.count).map fun k => (p.drop (x.off + (if type = 2 then 32 else 0) + size * k)).take size
  | _, _ => []
/-- The KILN header. -/
def kilnHead (p : List Byte) : List Byte :=
  match (planSects p).find? (·.type == 2) with
  | some x => (p.drop x.off).take 32
  | none => []

/-! ## Records (R438 to R441) -/

/-- DEVICE. -/
def deviceOf (r : List Byte) : PlanDevice :=
  { powerCap := pf r 0 0 11, vceil := pf r 0 11 11, bifur := pf r 0 22 1 == 1, learn := pf r 0 23 1 == 1, role := pf r 0 24 2
    latOff := BitVec.ofNat 6 (pf r 0 26 6), luted := BitVec.ofNat 12 (pf r 4 0 12), partner := BitVec.ofNat 64 (pf r 8 0 64)
    ip6 := BitVec.ofNat 128 (pf r 16 0 128), ip6Prefix := pf r 32 0 8, ip4Prefix := pf r 32 8 8, ip4 := BitVec.ofNat 32 (pf r 36 0 32) }
/-- A DEVICE record out of range. -/
def deviceBad (r : List Byte) : Bool :=
  let d := deviceOf r
  d.powerCap < 300 || d.powerCap > 1500 || d.vceil < 650 || d.vceil > 900 || d.role == 3 || pf r 4 12 20 != 0 || d.ip6Prefix > 128 ||
    d.ip4Prefix > 32 || pf r 32 16 16 != 0 || !zeroFrom r 40 128
/-- KILN. -/
def kilnOf (p : List Byte) : PlanKiln :=
  let h := kilnHead p
  { kilnId := BitVec.ofNat 32 (pf h 0 0 32), x := pf h 4 0 5, y := pf h 4 5 5, z := pf h 4 10 4, own := BitVec.ofNat 11 (pf h 8 0 11)
    apex := BitVec.ofNat 11 (pf h 12 0 11), backup := BitVec.ofNat 11 (pf h 16 0 11)
    ids := (planRecs p 2).map fun r => BitVec.ofNat 64 (pf r 0 0 64) }
/-- A kiln coordinate lies within the dimensions. -/
def PlanKiln.inside (k : PlanKiln) (c : BitVec 11) : Bool :=
  nbits c.toNat 0 4 < k.x && nbits c.toNat 4 4 < k.y && nbits c.toNat 8 3 < k.z
/-- A KILN section out of range. -/
def kilnBad (p : List Byte) : Bool :=
  let h := kilnHead p
  let k := kilnOf p
  pf h 4 14 18 != 0 || pf h 8 11 21 != 0 || pf h 12 11 21 != 0 || pf h 16 11 21 != 0 || !zeroFrom h 20 32 || k.x == 0 || k.x > 16 ||
    k.y == 0 || k.y > 16 || k.z == 0 || k.z > 8 || k.ids.length != k.x * k.y * k.z || !k.inside k.own || !k.inside k.apex ||
    !k.inside k.backup
/-- STRATA. -/
def stratumOf (r : List Byte) : PlanStratum :=
  { stratum := pf r 0 0 7, kind := pf r 0 7 2, owner := pf r 0 9 4, readers := BitVec.ofNat 12 (pf r 0 13 12) }
/-- A STRATA record out of range. -/
def stratumBad (r : List Byte) : Bool :=
  let x := stratumOf r
  pf r 0 25 7 != 0 || x.kind == 0 || x.kind == 3 || (x.kind == 1 && (x.owner > 11 || x.readers != 0)) || (x.kind == 2 && x.owner != 0)
/-- SAGGER. -/
def saggerOf (r : List Byte) : PlanSagger :=
  { sagger := pf r 0 0 4, shelves := BitVec.ofNat 12 (pf r 0 4 12), hostBudget := pf r 0 16 1 == 1, scopeBind := pf r 0 17 1 == 1
    pT := pf r 4 0 32, pendingMax := pf r 8 0 17, tenantsMax := pf r 8 17 11, chunkMax := pf r 12 0 16, penwinMax := pf r 12 16 13
    minShelves := pf r 16 0 8, minLdus := pf r 16 8 8, minStrata := pf r 16 16 8, wbd0Base := pf r 20 0 6, wbd0Size := pf r 20 6 7
    wbd1Base := pf r 20 13 6, wbd1Size := pf r 20 19 7, swapOff := pf r 24 0 23, swapSize := pf r 28 0 22
    namespaces := BitVec.ofNat 16 (pf r 32 0 16) }
/-- A SAGGER record out of range. -/
def saggerBad (r : List Byte) : Bool :=
  let x := saggerOf r
  x.sagger > 11 || x.shelves == 0 || pf r 0 18 14 != 0 || x.pT < 100000 || x.pT > 10 ^ 9 || x.pendingMax == 0 || x.pendingMax > 65536 ||
    x.tenantsMax == 0 || x.tenantsMax > 1024 || pf r 8 28 4 != 0 || x.chunkMax < 64 || x.penwinMax > 4096 || pf r 12 29 3 != 0 ||
    x.minShelves == 0 || x.minShelves > 12 || x.minLdus == 0 || x.minLdus > 12 || x.minStrata == 0 || x.minStrata > 128 ||
    pf r 16 24 8 != 0 || x.wbd0Base + x.wbd0Size > 64 || x.wbd1Base + x.wbd1Size > 64 || pf r 20 26 6 != 0 || pf r 24 23 9 != 0 ||
    x.swapSize > 2097152 || pf r 28 22 10 != 0 || pf r 32 16 16 != 0 || !zeroFrom r 36 128
/-- PLACE. -/
def placeOf (r : List Byte) : PlanPlace := { type := pf r 0 0 8, sagger := pf r 0 8 4, base := pf r 4 0 32, count := pf r 8 0 32 }
/-- A power of two from `lo` to `hi`. -/
def pow2In (n lo hi : Nat) : Bool := lo ≤ n && n ≤ hi && (List.range 33).any fun k => n == 2 ^ k
/-- COUNT of a placement type is legal. -/
def placeCountOk (type n : Nat) : Bool :=
  match type with
  | 0x01 => pow2In n 4096 65536
  | 0x02 => pow2In n 256 4096
  | 0x03 => 256 ≤ n && n ≤ 65536
  | 0x04 => 1 ≤ n && n ≤ 65536
  | 0x05 => 1 ≤ n && n ≤ 65536
  | 0x06 => 1 ≤ n && n ≤ 65536
  | 0x07 => 2 ≤ n && n ≤ 2 ^ 24
  | 0x08 => pow2In n (2 ^ 10) (2 ^ 24)
  | 0x09 => 1 ≤ n
  | 0x0A => n == 4096
  | 0x0B => 1 ≤ n && n ≤ 65536
  | 0x0C => 1 ≤ n && n ≤ 65536
  | 0x0D => pow2In n 1024 16384
  | 0x0E => 1 ≤ n
  | 0x0F => pow2In n (2 ^ 16) (2 ^ 28)
  | 0x10 => 1 ≤ n
  | _ => false
/-- A PLACE record out of range. -/
def placeBad (r : List Byte) : Bool :=
  let x := placeOf r
  x.sagger > 11 || pf r 0 12 20 != 0 || pf r 12 0 32 != 0 || !placeCountOk x.type x.count
/-- CHANNEL. -/
def channelOf (r : List Byte) : PlanChannel := { chan := pf r 0 0 6, sagger := pf r 0 6 4, policy := pf r 0 10 2, buf := pf r 4 0 32 }
/-- A CHANNEL record out of range. -/
def channelBad (r : List Byte) : Bool :=
  let x := channelOf r
  x.sagger > 11 || x.policy == 3 || pf r 0 12 20 != 0 || x.buf < 65536 || x.buf > 67108864 || pf r 8 0 64 != 0
/-- TENANT: sagger and budget (R240). -/
def tenantOf (r : List Byte) : Nat × Budget :=
  (pf r 0 0 4, { tenant := pf r 4 0 16, pages := pf r 8 0 24, seqs := pf r 12 0 17, rate := pf r 16 0 16, burst := pf r 16 16 16 })
/-- A TENANT record out of range. -/
def tenantBad (r : List Byte) : Bool :=
  pf r 0 0 4 > 11 || pf r 0 4 28 != 0 || pf r 4 16 16 != 0 || pf r 8 24 8 != 0 || pf r 12 17 15 != 0 || pf r 12 0 17 > 65536
/-- NAMESPACE: number, saggers, capacity in GiB. -/
def namespaceOf (r : List Byte) : Nat × BitVec 12 × Nat := (pf r 0 0 4, BitVec.ofNat 12 (pf r 4 0 12), pf r 8 0 32)
/-- TALLY: sagger, index, configuration. -/
def planTallyOf (r : List Byte) : Nat × Nat × BitVec 64 := (pf r 0 0 4, pf r 0 4 12, BitVec.ofNat 64 (pf r 4 0 64))
/-- A TALLY record out of range. -/
def planTallyBad (r : List Byte) : Bool :=
  let c := pf r 4 0 64
  pf r 0 0 4 > 11 || pf r 0 16 16 != 0 || nbits c 0 2 == 3 || nbits c 5 27 != 0 || nbits c 32 24 == 0 || nbits c 56 8 != 0

/-- The plan that bytes spell. -/
def planOf (p : List Byte) : Plan :=
  { seq := pf p 16 0 32, ownerPub := (p.drop 64).take 1952, device := deviceOf ((planRecs p 1).headD []), kiln := kilnOf p
    strata := (planRecs p 3).map stratumOf, saggers := (planRecs p 4).map saggerOf, places := (planRecs p 5).map placeOf
    channels := (planRecs p 6).map channelOf
    hostKeys := (planRecs p 7).map fun r => (pf r 0 0 6, BitVec.ofNat 256 (pf r 4 0 256))
    tenants := (planRecs p 8).map tenantOf
    creds := (planRecs p 9).map fun r => (BitVec.ofNat 3 (pf r 0 0 3), BitVec.ofNat 256 (pf r 4 0 256))
    namespaces := (planRecs p 10).map namespaceOf
    signers := (planRecs p 11).map fun r => (pf r 0 0 4, BitVec.ofNat 256 (pf r 4 0 256))
    tallies := (planRecs p 12).map planTallyOf, digest := digest256 p, bytes := p }

/-- Reserved fields and ranges of every record. -/
def planRecordsBad (p : List Byte) : Bool :=
  (planRecs p 1).any deviceBad || kilnBad p || (planRecs p 3).any stratumBad || (planRecs p 4).any saggerBad || (planRecs p 5).any placeBad ||
    (planRecs p 6).any channelBad || ((planRecs p 7).any fun r => pf r 0 6 26 != 0) || (planRecs p 8).any tenantBad ||
    ((planRecs p 9).any fun r => pf r 0 3 29 != 0) ||
    ((planRecs p 10).any fun r => pf r 0 4 28 != 0 || pf r 4 12 20 != 0 || pf r 12 0 32 != 0) ||
    ((planRecs p 11).any fun r => pf r 0 4 28 != 0) || (planRecs p 12).any planTallyBad

/-! ## Agreement (R440, R442) -/

/-- No value is listed twice. -/
def allOnce {α : Type} [BEq α] (l : List α) : Bool := l.eraseDups.length == l.length
/-- Ranges of address and length that overlap no other. -/
def apart : List (Nat × Nat) → Bool
  | [] => true
  | a :: r => (r.all fun b => a.1 + a.2 ≤ b.1 || b.1 + b.2 ≤ a.1) && apart r
/-- HBM ranges of the placements. -/
def Plan.hbmPlaces (p : Plan) : List (Nat × Nat × Nat) := p.places.filterMap fun x =>
  let n := placeBytes x.type x.count (((p.saggers.find? (·.sagger == x.sagger)).map (·.penwinMax)).getD 0)
  if n = 0 then none else some (x.sagger, x.base * 4096, n)
/-- Slab ranges of the placements with a slab address, as wheel × 2^22 + offset. -/
def Plan.slabPlaces (p : Plan) : List (Nat × Nat × Nat) := p.places.filterMap fun x =>
  if x.type = 0x0D then some (x.sagger, x.base, 32 * x.count) else if x.type = 0x0E then some (x.sagger, x.base, x.count) else none
/-- Wheels of a sagger's shelves. -/
def PlanSagger.wheels (x : PlanSagger) : List Nat := (List.range 144).filter fun w => x.shelves.getLsbD (w / 12)
/-- A placement of sagger `g` lies in its OWNED strata. -/
def Plan.ownsRange (p : Plan) (g a n : Nat) : Bool :=
  a + n ≤ hbmBytes && (strataOf a n).all fun t => p.strata.any fun x => x.stratum == t && x.kind == 1 && x.owner == g
/-- The placements of one sagger obey R440: types once, ranges in its own units, bare offsets in every wheel. -/
def Plan.placesBad (p : Plan) (x : PlanSagger) : Bool :=
  let mine := p.places.filter (·.sagger == x.sagger)
  let num (t : Nat) : Nat := (mine.filter (·.type == t)).length
  let cnt (t : Nat) : Nat := ((mine.find? (·.type == t)).map (·.count)).getD 0
  let bare := mine.filterMap fun y => if y.type = 0x0B ∨ y.type = 0x0C then some (y.base, 32 + 16 * y.count) else none
  let slab := (p.slabPlaces.filter (·.1 == x.sagger)).map (·.2)
  ((List.range 13).any fun t => num (t + 1) != 1) || num 0x0F > 1 || num 0x10 > 1 || cnt 0x06 < cnt 0x04 ||
    ((p.hbmPlaces.filter (·.1 == x.sagger)).any fun r => !p.ownsRange x.sagger r.2.1 r.2.2) ||
    (slab.any fun r => r.1 / 2 ^ 30 != 0 || !x.wheels.contains (r.1 / 2 ^ 22 % 256) || r.1 % 2 ^ 22 + r.2 > slabBytes) ||
    (bare.any fun r => r.1 + r.2 > slabBytes) ||
    x.wheels.any fun w => !apart (bare.map (fun r => (w * 2 ^ 22 + r.1, r.2)) ++ slab.filter fun r => r.1 / 2 ^ 22 == w)

/-- Some shelf, stratum, channel or ware-board MiB is named by two saggers. -/
def Plan.shared (p : Plan) : Bool :=
  !allOnce (p.saggers.flatMap fun x => (List.range 12).filter fun k => x.shelves.getLsbD k) || !allOnce (p.strata.map (·.stratum)) ||
    !allOnce (p.channels.map (·.chan)) || !apart ((p.saggers.filter (·.wbd0Size != 0)).map fun x => (x.wbd0Base, x.wbd0Size)) ||
    !apart ((p.saggers.filter (·.wbd1Size != 0)).map fun x => (x.wbd1Base, x.wbd1Size))
/-- ROLE, LUTED and PARTNER disagree. -/
def Plan.luteBad (p : Plan) (moduleId : Nat) : Bool :=
  let d := p.device
  if d.role = 0 then d.luted != 0 || d.partner != 0
  else d.luted == 0 || ((List.range 12).any fun g => d.luted.getLsbD g && !p.saggers.any (·.sagger == g)) || d.partner == 0 ||
    d.partner.toNat == moduleId
/-- Sagger `g` is listed. -/
def Plan.lists (p : Plan) (g : Nat) : Bool := p.saggers.any (·.sagger == g)
/-- A mask names only listed saggers. -/
def Plan.listsAll (p : Plan) (m : BitVec 12) : Bool := (List.range 12).all fun g => !m.getLsbD g || p.lists g
/-- The records do not agree with one another. -/
def Plan.disagrees (p : Plan) : Bool :=
  let ns := p.namespaces.map (·.1)
  !allOnce (p.saggers.map (·.sagger)) || !allOnce ns || !allOnce p.signers || !allOnce (p.tallies.map fun t => (t.1, t.2.1)) ||
    (p.channels.any fun c => !p.lists c.sagger) || (p.tenants.any fun t => !p.lists t.1) || (p.tallies.any fun t => !p.lists t.1) ||
    (p.places.any fun x => !p.lists x.sagger) ||
    (p.strata.any fun x => if x.kind = 1 then !p.lists x.owner else !p.listsAll x.readers) ||
    (p.namespaces.any fun n => !p.listsAll n.2.1) ||
    (p.saggers.any fun x => (List.range 16).any fun n => x.namespaces.getLsbD n && !ns.contains n) ||
    (p.signers.any fun x => !ns.contains x.1) || (p.hostKeys.any fun k => !p.channels.any (·.chan == k.1)) ||
    !allOnce (p.tenants.map fun t => (t.1, t.2.tenant)) ||
    p.saggers.any fun x => x.tenantsMax < (p.tenants.filter (·.1 == x.sagger)).length
/-- The namespace capacities sum to more than 27.9 TB. -/
def Plan.storeFull (p : Plan) : Bool := (p.namespaces.foldl (fun n x => n + x.2.2) 0) * 2 ^ 30 > 27900000000000

/-- The owner's key is the fused one, and it signed the plan (R433). -/
def State.ownerOk (s : State) (p : List Byte) : Bool :=
  let key := (p.drop 64).take 1952
  (!s.fuses.ownerSet || digest256 key == s.fuses.owner) &&
    Config.mldsaVerify key (p.take (p.length - sigBytes)) (p.drop (p.length - sigBytes))
/-- The plan passes every check of R442. -/
def State.planOk (s : State) (p : List Byte) : Bool :=
  let x := planOf p
  !planFrameBad p && s.ownerOk p && s.health.maxSeq ≤ x.seq && !planRecordsBad p && !x.shared && !x.saggers.any x.placesBad &&
    apart (x.hbmPlaces.map (·.2)) && apart (x.slabPlaces.map (·.2)) && !x.luteBad s.moduleId && !x.storeFull && !x.disagrees

end Sys2Proof.Machine
end

