-- ==== Sys2Proof/Machine/Boot.lean ====
section
/-! DEFINITION. Power and reset, the start sequence, bisque mode, cones, orderly shutdown and BIST
(spec/15_boot_and_health.md; spec/18_module_connector_and_power.md; spec/14_saggers_trust_and_management.md, R417,
R427). -/

namespace Sys2Proof.Machine

/-! ## What survives (R26, R434) -/

/-- All volatile state is lost: the boot flash with its health area, the fuses and the model store stay. -/
def State.lose (s : State) (p : Power) : State :=
  { pending := s.pending, freeCtr := s.freeCtr, mem := { store := s.mem.store, flash := s.mem.flash }, power := p
    health := s.health, fuses := s.fuses, store := s.store }
/-- REFCLK is within ±1,000 ppm, the limit of trip and start (R485, R500). -/
def refInTrip (ppm : Int) : Bool := -100000 ≤ ppm && ppm ≤ 100000
/-- REFCLK is within ±100 ppm (R450). -/
def refInBist (ppm : Int) : Bool := -10000 ≤ ppm && ppm ≤ 10000

/-! ## Bisque mode (R456, R457) -/

/-- Lattice ports are held with reason 0x06 and Shomu links with reason 0x05 (R457, reason 0x01). -/
def State.holdLinks (s : State) : State :=
  let s1 := (List.range 6).foldl (fun s p => s.onPort p fun x => { x with st := .held, reason := 6, groups := 0 }) s
  [0, 1].foldl (fun s k => s.onLink k fun x => { x with st := .held, reason := 5 }) s1

/-- Entry to bisque mode: compute halts, saggers go DOWN, slices are left, 0xFE is raised. -/
def State.enterBisque (s : State) (reason : Nat) : State :=
  let code := faultCode 4 0 0xFE
  let s1 := s.planSaggers.foldl (fun s g => if (s.sagger g).st = .down then s else s.saggerDown g code) s
  let s2 := ((s1.leaveSlices (fun _ => true) code).onBoot fun b => { b with bisque := true, ready := false, reason := reason }).fault
    4 0 0xFE 15 12 0
  if reason = 1 then s2.holdLinks else s2

/-- BISQUE_ENTRY (R456). -/
def execBisqueEntry (reason : BitVec 8) (s : State) : Host.Outcome State Fault Refusal :=
  if reason = 0 ∨ 6 < reason.toNat then .refused (.illFormed "BISQUE_ENTRY")
  else s.when (s.firmwareUp && !s.boot.bisque) (s.enterBisque reason.toNat)

/-- DEADLOCK_DETECT (R344, R345): 10 µs without progress while an agent waits; on a luted pair the lead watches.  A house
deadlock enters bisque mode with reason 0x06 (R468). -/
def execDeadlockDetect (k : BitVec 4) (s : State) : Host.Outcome State Fault Refusal :=
  let g := if k.toNat < 12 then k.toNat else 15
  let es := s.snapEntries g
  let d := s.detector g
  let s1 := ((s.writeSnap g es).bump .tlyDlCount 0 1).disarm g
  s.when (d.2 && d.1 + 10000 ≤ s.refNow && !es.isEmpty && !(12 ≤ k.toNat && k.toNat < 15) && (!s.luted g || s.lead))
    (if g < 12 then s1.fault 3 0xC 0xC4 g (dieOfSagger g) ((es.head?.map (·.index)).getD 0)
     else (s1.fault 4 0xC 0xC5 15 0 ((es.head?.map (·.index)).getD 0)).enterBisque 6)

/-! ## Boot slots (R430 to R432) -/

/-- Byte of the flash at which a boot slot starts. -/
def slotBase (slot : Nat) : Nat := if slot = 0 then 0x00100000 else 0x03D00000
/-- Bytes of a boot slot: 60 MiB. -/
def slotBytes : Nat := 60 * 2 ^ 20
/-- State of a boot slot. -/
def Health.slotState (h : Health) (slot : Nat) : SlotState := if slot = 0 then h.slotA else h.slotB
/-- Set the state of a boot slot. -/
def Health.setSlot (h : Health) (slot : Nat) (x : SlotState) : Health := if slot = 0 then { h with slotA := x } else { h with slotB := x }
/-- A word of a slot's header. -/
def slotWord (f : Mem) (slot off : Nat) : Nat := mnum f (slotBase slot + off) 4
/-- SVN. -/
def slotSvn (f : Mem) (slot : Nat) : Nat := slotWord f slot 8 % 65536
/-- The firmware's bytes. -/
def slotFirmware (f : Mem) (slot : Nat) : List Byte := mread f (slotBase slot + slotWord f slot 12) (slotWord f slot 16)
/-- The plan's bytes. -/
def slotPlan (f : Mem) (slot : Nat) : List Byte := mread f (slotBase slot + slotWord f slot 20) (slotWord f slot 24)
/-- A part of a slot is legal: offset, length, and within the slot (R431). -/
def slotPartBad (off len top : Nat) : Bool := off % 4096 != 0 || off < 4096 || len == 0 || len > top || off + len > slotBytes
/-- The header, digest, signature and SVN of a slot verify (R431, R432). -/
def slotOk (f : Mem) (slot svnMin : Nat) : Bool :=
  let w := slotWord f slot
  w 0 == 0x44594946 && w 4 == 0x10 && w 8 < 65536 && w 28 == 0 && !slotPartBad (w 12) (w 16) 33554432 &&
    !slotPartBad (w 20) (w 24) 16777216 && (w 12 + w 16 ≤ w 20 || w 20 + w 24 ≤ w 12) && svnMin ≤ slotSvn f slot &&
    BitVec.ofNat 256 (mnum f (slotBase slot + 32) 32) == digest256 (slotFirmware f slot) &&
    Config.mldsaVerify Config.firmwareKey (mread f (slotBase slot) 64) (mread f (slotBase slot + 64) sigBytes)

/-- A slot is abandoned: on trial it returns to IDLE, and ROLLBACK is set (R427). -/
def State.abandonSlot (s : State) (slot : Nat) : State :=
  if s.health.slotState slot = .trial then
    (s.onHealth fun h => h.setSlot slot .idle).onBoot fun b => { b with rollback := true }
  else s
/-- Verify a slot; a failure is recorded and the slot abandoned (R432). -/
def State.trySlot (s : State) (slot : Nat) : Bool × State :=
  if slotOk s.mem.flash slot s.fuses.svnMin then (true, s)
  else (false, (s.fault 4 0 0xF8 15 12 0).abandonSlot slot)
/-- The slot that the boot ROM takes first: the STAGED one, which goes on trial, else the one that the health area names
(R427, R432).  A slot still on trial never reached READY: it is abandoned. -/
def State.chooseSlot (s : State) : Nat × State :=
  let s1 := (s.abandonSlot 0).abandonSlot 1
  let s1 := if s1.health.slotState s1.health.slot = .idle then s1.onHealth fun h => { h with slot := 1 - h.slot } else s1
  let other := 1 - s1.health.slot
  if s1.health.slotState other = .staged then (other, s1.onHealth fun h => h.setSlot other .trial) else (s1.health.slot, s1)

/-! ## Steps of the start (R443) -/

/-- Unit classes of the unusable map by their first byte, with the byte after each. -/
def mapClasses : List (Nat × Nat) := [(0, 32), (32, 320), (320, 384), (384, 388), (388, 392), (392, 428), (428, 440), (440, 444), (444, 448)]
/-- Step 1: the boot is counted, pending marks join the unusable map, and 0xFB is raised once per unit class (R451). -/
def State.joinMarks (s : State) : State :=
  let fresh := s.health.pending.filter fun m => !s.marked m.1 m.2
  let map := fresh.foldl (fun m x => mput m x.1 ((mget m x.1) ||| (1 <<< x.2))) s.health.map
  let s1 := s.onHealth fun h => { h with boots := h.boots + 1, map := map, pending := [] }
  (mapClasses.filter fun c => fresh.any fun m => c.1 ≤ m.1 && m.1 < c.2).foldl (fun s _ => s.fault 1 0 0xFB 15 12 0) s1

/-- Step 2: the firmware of a slot runs, and the identity key is derived (R417). -/
def State.startFirmware (s : State) (slot : Nat) (env : StartEnv) : State :=
  let cert := Config.certKey (mread s.mem.flash 0 (2 ^ 20)) == env.publicKey
  let s1 := s.onBoot fun b => { b with
    phase := 2, slot := slot, svn := slotSvn s.mem.flash slot, trial := s.health.slotState slot == .trial, keyOk := env.keyOk
    certOk := env.keyOk && cert, pubKey := env.publicKey, fwDigest := digest256 (slotFirmware s.mem.flash slot) }
  let s2 := if env.keyOk then s1.setReg .secId 0 (leNat (shake256 env.publicKey 8)) else s1
  if env.keyOk ∧ ¬ cert then s2.fault 4 0xF 0xF6 15 0 0 else s2

/-- Step 3: an accepted plan is in force, its owner fused at the first start, and the fallback management and highest
PLAN_SEQ are written to the health area (R433, R434). -/
def State.adoptPlan (s : State) (p : List Byte) : State :=
  let x := planOf p
  let fuses := if s.fuses.ownerSet then s.fuses else { s.fuses with ownerSet := true, owner := digest256 x.ownerPub }
  let s1 := ({ s with plan := some x, fuses := fuses }).onHealth fun h =>
    { h with maxSeq := max h.maxSeq x.seq, creds := x.creds, ip6 := x.device.ip6, ip4 := x.device.ip4 }
  s1.onLat fun l => { l with apex := x.kiln.own == x.kiln.apex, backup := x.kiln.own == x.kiln.backup }

/-- Boot a slot through step 3: the firmware is verified and run, its plan checked; answers whether the firmware ran and
whether the plan was accepted. -/
def State.bootSlot (s : State) (slot : Nat) (env : StartEnv) : Bool × Bool × State :=
  let (ok, s1) := s.trySlot slot
  if !ok then (false, false, s1)
  else
    let s2 := s1.startFirmware slot env
    let p := slotPlan s2.mem.flash slot
    if s2.planOk p then (true, true, s2.adoptPlan p) else (true, false, (s2.fault 4 0 0xF9 15 12 0).abandonSlot slot)

/-- A calibration snapshot of the last shutdown fits the running slot and plan (R444). -/
def State.warmStart (s : State) : Bool :=
  let r := s.boot.last
  r.clean && r.bist == 1 && r.calib && r.slot == s.boot.slot && r.planSeq == ((s.plan.map (·.seq)).getD 0)
/-- Step 4: self-calibration (R445). -/
def State.calibrate (s : State) (env : StartEnv) : State :=
  let warm := s.warmStart && env.warmVerified
  let s1 := [0, 1].foldl (fun s d => s.onCone d fun c => { c with
    codes := if warm then (s.health.codes.drop (32 * d)).take 32 else (env.codes.drop (32 * d)).take 32
    vfloor := if warm then s.health.vfloor.getD d 650 else 650, tL := (env.coneStart.drop (48 * d)).take 48
    heat := ((s.health.cones.getLast?).map fun r => r.heat.getD d 0).getD 0
    index := ((s.health.cones.getLast?).map fun r => r.index.getD d 0).getD 0 }) s
  let s2 := env.pchFailed.foldl (fun s p => s.onStack (p / 32) fun k => { k with pcFail := k.pcFail ||| (1 <<< (p % 32)) }) s1
  let twice := env.pchFailed.filter s.health.pchLast.contains
  (s2.onHealth fun h => { h with
    pchLast := env.pchFailed, coneRef := if h.coneRef.isEmpty then env.coneStart else h.coneRef
    map := twice.foldl (fun m p => mput m (320 + p / 8) ((mget m (320 + p / 8)) ||| (1 <<< (p % 8)))) h.map
    codes := if warm then h.codes else env.codes, vfloor := if warm then h.vfloor else [650, 650] }).onBoot fun b =>
      { b with phase := 3, warm := warm }

/-- The marks and failures that end the start in bisque mode after step 3: reasons 0x05, 0x02 and 0x03 (R456). -/
def State.markReason (s : State) : Option Nat :=
  if !s.boot.keyOk then some 5 else if s.marked 388 12 || s.marked 388 13 then some 2 else if s.marked 388 14 then some 3 else none
/-- What calibration finds that ends the start in bisque mode. -/
def startReason (e : StartEnv) : Option Nat := if !e.bridgeOk then some 3 else if e.codes.any (· > 63) then some 4 else none

/-- Steps 6 and 7: saggers are built in index order, and READY rises (R447, R448); a firmware on trial becomes ACTIVE
(R427). -/
def State.finishStart (s : State) : State :=
  let tenants (g : Nat) : List Tenant := (((s.plan.map (·.tenants)).getD []).filter (·.1 == g)).map fun t =>
    { budget := t.2, bucket := t.2.burst * 1024 * 10 ^ 9, refill := s.refNow }
  let s1 := s.planSaggers.foldl (fun s g => (s.onSagger g fun x => { x with tenants := tenants g }).buildSagger g) s
  let (f, s2) := s1.draw
  let s3 := s2.onBoot fun b => { b with
    phase := 6, ready := true, readyWas := true, startMs := Config.freeNat f % (if b.warm then 30001 else 60001) }
  if s3.boot.trial then
    ({ s3 with fuses := { s3.fuses with svnMin := max s3.fuses.svnMin s3.boot.svn } } : State).onHealth fun h =>
      { (h.setSlot s3.boot.slot .active).setSlot (1 - s3.boot.slot) .idle with slot := s3.boot.slot }
  else s3

/-- Channels that the plan assigns start CLOSED. -/
def State.assignChannels (s : State) : State :=
  ((s.plan.map (·.channels)).getD []).foldl (fun s c => s.onChan c.chan fun x => { x with st := .closed }) s
/-- The timebase starts in FREE; the kiln apex has no parent (R368, R369). -/
def State.startTimebase (s : State) : State := s.onTb fun _ => { parent := s.parentPort.getD 0 }

/-- Ports that the plan disables, and those of a dimension of size 1, stay DOWN with reason 0x06 (R378). -/
def State.disablePorts (s : State) : State :=
  ((List.range 6).filter fun p => s.device.latOff.getLsbD p || s.kiln.size (p / 2) ≤ 1).foldl
    (fun s p => s.onPort p fun x => { x with reason := 6 }) s

/-- Steps 4 to 7 after an accepted plan.  Memory initialisation (R446) has nothing left to do: volatile memory reads zero,
no slab line is valid, and the tracking units, poison tables and tallies are at reset. -/
def State.startServing (s : State) (env : StartEnv) : State :=
  let s0 := s.startTimebase.assignChannels.disablePorts
  match s0.markReason with
  | some r => (s0.onBoot fun b => { b with phase := 4 }).enterBisque r
  | none =>
    let s1 := s0.calibrate env
    match startReason env with
    | some r => (s1.onBoot fun b => { b with phase := 4 }).enterBisque r
    | none => (s1.onBoot fun b => { b with phase := 5 }).finishStart

/-- The whole start sequence (R443) from a module that has lost its volatile state. -/
def State.start (s : State) (env : StartEnv) : State :=
  let s0 := (s.onBoot fun b => { b with phase := 1, last := s.health.shutdown }).onHealth fun h => { h with shutdown := {} }
  let s1 := s0.joinMarks
  let (a, s2) := s1.chooseSlot
  let (fw, ok, s3) := s2.bootSlot a env
  if ok then s3.startServing env
  else
    let (fw2, ok2, s4) := s3.bootSlot (1 - a) env
    if ok2 then (s4.onHealth fun h => { h with slot := 1 - a }).startServing env
    else if fw2 || fw then ((if fw2 then s4 else s4.startFirmware a env).startTimebase.onBoot fun b => { b with phase := 4 }).enterBisque 1
    else s4.onBoot fun b => { b with dead := true }

/-! ## Power and reset (R485 to R500) -/

/-- The input is present and the module inserted: the package rails are on, unless a trip is latched. -/
def Power.fed (p : Power) : Power := { p with rails := p.input && p.inserted && !p.tripped }
/-- RST_N is high with everything that a start needs (R495, R500). -/
def Power.mayStart (p : Power) (ppm : Int) : Bool := p.rails && p.rstN && refInTrip ppm
/-- Start when the module is in reset and may leave it. -/
def State.startIf (s : State) (env : StartEnv) : State :=
  if s.boot.phase = 0 ∧ s.power.mayStart env.refclkPpm then
    (s.onPower fun p => { p with rail0 := 650, rail1 := 650, ppm := env.refclkPpm, refOk := refInBist env.refclkPpm }).start env
  else s

/-- RESET_RELEASE (R443, R495, R500): RST_N is high, and the start follows once the input and REFCLK are valid; otherwise
the module holds itself in reset. -/
def execResetRelease (env : StartEnv) (s : State) : Host.Outcome State Fault Refusal :=
  .next ((s.onPower fun p => { p with rstN := true }).startIf env)
/-- RESET_ASSERT (R494 to R496): RST_N is held low; a latched trip clears. -/
def execResetAssert (s : State) : Host.Outcome State Fault Refusal :=
  .next (s.lose ({ s.power with rstN := false, tripped := false, throttle := none, rail0 := 0, rail1 := 0, replica := [], ppm := 0,
                                refOk := false } : Power).fed)
/-- TRIP (R485, R486): a limit has been passed for 1 ms; the clock trips only once the module has left reset. -/
def execTrip (junction stack : Int) (refclkPpm : Option Int) (s : State) : Host.Outcome State Fault Refusal :=
  s.when (s.power.rails && (junction ≥ 110 || stack ≥ 112 ||
      (s.boot.phase != 0 && (match refclkPpm with | none => true | some p => !refInTrip p))))
    (s.lose { input := s.power.input, inserted := s.power.inserted, rstN := s.power.rstN, tripped := true })
/-- INPUT_LOCKOUT (R492): every rail is removed; a latched trip clears (R486). -/
def execInputLockout (s : State) : Host.Outcome State Fault Refusal :=
  .next (s.lose { inserted := s.power.inserted, rstN := s.power.rstN })
/-- INPUT_RETURN (R492): with RST_N high the module restarts by itself. -/
def execInputReturn (env : StartEnv) (s : State) : Host.Outcome State Fault Refusal :=
  .next ((s.onPower fun p => ({ p with input := true } : Power).fed).startIf env)
/-- MODULE_INSERT (R488). -/
def execModuleInsert (s : State) : Host.Outcome State Fault Refusal :=
  .next (s.onPower fun p => ({ p with inserted := true } : Power).fed)
/-- REFCLK_PPM_UPDATE (R480): the field has 16 bits. -/
def execRefclkPpmUpdate (ppm : Int) (s : State) : Host.Outcome State Fault Refusal :=
  s.when s.firmwareUp (s.onPower fun p => { p with ppm := ppm, refOk := refInBist ppm })
/-- MANAGEMENT_LINK_CHANGE (R428). -/
def execManagementLinkChange (up addr : Bool) (s : State) : Host.Outcome State Fault Refusal :=
  s.when s.firmwareUp (s.onMgmt fun m => { m with link := up, addr := addr })

/-! ## Cones (R453 to R455) -/

/-- Ten minutes of REFCLK. -/
def coneGap : Nat := 600 * 10 ^ 9
/-- Ageing index of a die (R454): the largest rise over the references, in units of 0.01 %. -/
def ageIndex (refs tL : List Nat) : Nat :=
  min 65535 (((List.range 48).map fun k => (tL.getD k 0 - refs.getD k 0) * 10000 / max 1 (refs.getD k 0)).foldl max 0)
/-- Steps of a class's code after which its margin is at least 10 % (R455): each step adds 1.5 % of the element's length. -/
def stepsToTen : Nat → Int → Nat → Nat
  | 0, _, k => k
  | fuel + 1, m, k => if (10000 - m) * 1000 ≤ 9000 * (1000 + 15 * (k : Int)) then k else stepsToTen fuel m (k + 1)
/-- The margin of a class after `k` steps, in units of 0.01 %. -/
def marginAfter (m : Int) (k : Nat) : Int := 10000 - (10000 - m) * 1000 / (1000 + 15 * (k : Int))
/-- Worst of a list of margins. -/
def worstOf (ms : List Int) : Int := ms.foldl min 65535

/-- The new code of a class whose margin is `m`: unchanged at 8 % and above. -/
def newCode (code : Nat) (m : Int) : Nat := if m < 800 then max code (min 63 (code + stepsToTen 64 m 0)) else code
/-- Some class stays below 5 % at code 63. -/
def noMargin (codes : List Nat) (ms : List Int) : Bool :=
  (List.range 32).any fun k =>
    let m := ms.getD k 65535
    m < 800 && marginAfter m (63 - codes.getD k 0) < 500

/-- Re-plan one die whose worst margin is below 8 % (R455): V_FLOOR when its steps restore 8 % within the ceiling, else the
codes of the failing classes. -/
def State.replan (s : State) (d : Nat) (ms : List Int) (steps : Option Nat) : State :=
  let c := s.cone d
  let floor := steps.bind fun n => if c.vfloor + 10 * n + 50 ≤ s.device.vceil then some (c.vfloor + 10 * n) else none
  let c' : ConeDie := match floor with
    | some v => { c with vfloor := v, replan := true }
    | none => { c with codes := (List.range 32).map fun k => newCode (c.codes.getD k 0) (ms.getD k 65535), replan := true }
  let s1 := ((s.onCone d fun _ => c').bump .conReplans 0 1).fault 1 0 0xFD 15 12 d
  s1.onHealth fun h => { h with codes := (s1.cone 0).codes ++ (s1.cone 1).codes, vfloor := [(s1.cone 0).vfloor, (s1.cone 1).vfloor] }

/-- Measure one die.  The spec gives no method for the fit of R454: a projection from 144 measurements is a free value. -/
def State.measureDie (s : State) (d : Nat) (env : ConeEnv) : State :=
  let (f, s1) := s.draw
  let refs := (s.health.coneRef.drop (48 * d)).take 48
  let proj : Nat := if s.health.cones.length + 1 < 144 then 0xFFFF else Config.freeNat f % 65536
  let s2 := s1.onCone d fun c => { c with
    tL := env.tL.getD d [], margin := env.margin.getD d [], index := ageIndex refs (env.tL.getD d [])
    heat := c.heat + env.heat.getD d 0, proj := proj }
  if proj < 180 then s2.raiseLimited (86400 * 10 ^ 9) d { code := faultCode 1 0 0xFF, unit := 12, subunit := d } else s2

/-- A record enters the cone ring of the health area (R434). -/
def Health.addCone (h : Health) (index heat : List Nat) : Health :=
  let r : ConeRec := { index := index, heat := heat }
  { h with cones := (h.cones ++ [r]).drop (h.cones.length + 1 - 65536) }
/-- CONE_MEASURE (R453 to R455). -/
def execConeMeasure (env : ConeEnv) (s : State) : Host.Outcome State Fault Refusal :=
  let s1 := [0, 1].foldl (fun s d => s.measureDie d env) s
  let s2 := ((s1.bump .conMeas 0 1).setReg .conLast 0 s.now).onHealth fun h =>
    h.addCone [(s1.cone 0).index, (s1.cone 1).index] [(s1.cone 0).heat, (s1.cone 1).heat]
  let s3 : State := { s2 with lastMeas := s.refNow }
  let low := if s.boot.bisque then [] else [0, 1].filter fun d => worstOf (env.classes.getD d []) < 800
  let s4 := low.foldl (fun s d => s.replan d (env.classes.getD d []) (env.steps.getD d none)) s3
  s.when (s.firmwareUp && (s.boot.readyWas || s.boot.bisque) && !s.boot.shutting && s.lastMeas + coneGap ≤ s.refNow)
    (if low.any fun d => (env.steps.getD d none).isNone && noMargin (s.cone d).codes (env.classes.getD d []) then s4.enterBisque 4 else s4)

/-! ## Orderly shutdown and BIST (R449 to R452) -/

/-- Step 3: cone record and calibration snapshot. -/
def State.saveCalibration (s : State) : State := s.onHealth fun h =>
  { h.addCone [(s.cone 0).index, (s.cone 1).index] [(s.cone 0).heat, (s.cone 1).heat] with
    codes := (s.cone 0).codes ++ (s.cone 1).codes, vfloor := [(s.cone 0).vfloor, (s.cone 1).vfloor] }
/-- Steps 5 and 6: the shutdown record is written with CLEAN = 1, the response is sent and the module idles. -/
def State.endShutdown (s : State) (result : Nat) : State :=
  let n := s.boot.bistEnv.failed.length
  let s1 := s.onHealth fun h => { h with
    shutdown := { clean := true, bist := result, failed := if result = 3 ∧ !s.boot.bistOn then 0 else n, slot := s.boot.slot
                  planSeq := (s.plan.map (·.seq)).getD 0, calib := true }
    bistLog := (h.bistLog ++ [(h.boots, result)]).drop (h.bistLog.length + 1 - 4096) }
  let s2 := match s.boot.shutBy with
    | some (k, tag) => s1.mgmtAnswer k 0x60 tag 0 []
    | none => s1
  let s3 := (List.range 7).foldl (fun s p => s.onPort p fun x => { x with st := .down, groups := 0 }) s2
  let s4 := [0, 1].foldl (fun s k => s.onLink k fun x => { x with st := .down, width := 0 }) s3
  s4.onBoot fun b => { b with idle := true, bistOn := false, shutBy := none, last := s4.health.shutdown }
/-- Step 4: BIST begins when its conditions hold; blocks already marked are not tested, each failure becomes a pending
mark, and the tested blocks are left zero (R450, R451). -/
def State.startBist (s : State) : State :=
  if s.boot.bistEnv.conditions then
    let found := s.boot.bistEnv.failed.filter fun f => !s.marked f.1 f.2
    let s1 := s.onHealth fun h => { h with pending := h.pending ++ found.filter fun f => !h.pending.contains f }
    (s1.onMem fun m => { store := m.store, flash := m.flash, wp := m.wp }).onBoot fun b =>
      { b with bistOn := true, bistEnv := { b.bistEnv with failed := found } }
  else (s.fault 1 0 0xFC 15 13 0).endShutdown 3
/-- Sagger `g` may still finish its step: a step is under way and the 2 s of step 2 have not passed. -/
def State.stepsOn (s : State) (g : Nat) : Bool :=
  (s.sagger g).st == .serving && (s.sagger g).phase != .none && s.refNow < s.boot.shutAt + 2 * 10 ^ 9
/-- Step 2 as far as it has come: saggers whose step is over go DOWN; with the last one, steps 3 and 4 follow. -/
def State.advanceShutdown (s : State) : State :=
  let code := faultCode 1 0 0
  let s1 := s.planSaggers.foldl (fun s g => if (s.sagger g).st = .down ∨ s.stepsOn g then s else s.saggerDown g code) s
  if s1.planSaggers.any s1.stepsOn then s1
  else (s1.leaveSlices (fun _ => true) code).saveCalibration.startBist
/-- A shutdown goes on while no command waits: step 2 is tried again, or BIST ends (log entry 34). -/
def State.shutdownTick (s : State) : State :=
  if !s.boot.shutting || s.boot.idle then s
  else if s.boot.bistOn then s.endShutdown (if s.boot.bistEnv.failed.isEmpty then 1 else 2)
  else s.advanceShutdown

/-- BIST_CONDITION_CHECK (R450): a failed condition stops BIST, which then counts as skipped. -/
def execBistConditionCheck (refclkPpm : Int) (railsOk : Bool) (s : State) : Host.Outcome State Fault Refusal :=
  s.when (s.boot.bistOn && !(refInBist refclkPpm && railsOk)) ((s.fault 1 0 0xFC 15 13 0).endShutdown 3)

/-! ## FAULT_LOG_ENTER (R463) -/

/-- A record takes the next SEQ and enters the ring; the oldest is overwritten when it is full. -/
def FaultLog.enter (f : FaultLog) (r : FaultRec) : FaultLog :=
  { f with
    ring := (f.ring ++ [{ r with seq := f.next }]).drop (f.ring.length + 1 - 4096), next := f.next + 1
    overflow := f.overflow || f.ring.length ≥ 4096, dev := f.dev || codeClass r.code == 4
    first4 := if codeClass r.code = 4 ∧ !f.dev then f.next else f.first4 }
/-- FAULT_LOG_ENTER (R463): the oldest detected record. -/
def execFaultLogEnter (s : State) : Host.Outcome State Fault Refusal :=
  match s.flog.detected with
  | [] => .next s
  | r :: rest =>
    let s1 := s.bump .topFltLost 0 (if s.flog.ring.length ≥ 4096 then 1 else 0)
    let s2 := if r.level ≥ 2 ∧ r.sagger.toNat < 12 then s1.setReg .sgrResetLast r.sagger.toNat r.code.toNat else s1
    .next (s2.onFlog fun f => { f.enter r with detected := rest })

/-- FAULT_N is driven low (R463, R495). -/
def State.faultLow (s : State) : Bool := s.flog.dev || s.boot.bisque || s.power.tripped || s.boot.dead

end Sys2Proof.Machine
end

