-- ==== Sys2Proof/Machine/Attest.lean ====
section
/-! DEFINITION. Attestation reports (spec/14_saggers_trust_and_management.md, R425, R426). -/

namespace Sys2Proof.Machine

/-- One entry of a report. -/
structure AttestEntry where
  kind   : Nat
  sagger : Nat := 0
  index  : Nat := 0
  resetting : Bool := false
  notAvail : Bool := false
  damaged : Bool := false
  digest : BitVec 256
  deriving DecidableEq, Repr

/-- The 48 bytes of an entry (R425). -/
def AttestEntry.bytes (e : AttestEntry) : List Byte :=
  leBytes (e.kind + 2 ^ 8 * e.sagger + 2 ^ 16 * (e.index % 65536)) 4 ++
    leBytes (Bool.num e.resetting + 2 * Bool.num e.notAvail + 4 * Bool.num e.damaged) 4 ++ zeros 8 ++
    leBytes (if e.notAvail then 0 else e.digest.toNat) 32

/-- A sagger is between serving states (R426). -/
def State.unsettled (s : State) (g : Nat) : Bool :=
  match (s.sagger g).st with
  | .resetting | .clearing | .building => true
  | _ => false
/-- The slot that is not running. -/
def State.otherSlot (s : State) : Nat := 1 - s.boot.slot
/-- A firmware image is staged. -/
def State.staged (s : State) : Bool := s.health.slotState s.otherSlot == .staged
/-- Device entries: KINDs 0x01 to 0x04. -/
def State.deviceEntries (s : State) : List AttestEntry :=
  [{ kind := 1, digest := Config.bootRomDigest }, { kind := 2, digest := s.boot.fwDigest }] ++
    (if s.staged then [{ kind := 3, digest := s.boot.stageDigest.getD 0 }] else []) ++
    (match s.plan with
     | some p => [{ kind := 4, digest := p.digest }]
     | none => [])
/-- Entries of a sagger: its configuration and its loaded images; digests are withheld while it is unsettled. -/
def State.saggerEntries (s : State) (g : Nat) : List AttestEntry :=
  let busy := s.unsettled g
  let cfg := digest256 (Config.saggerConfigBytes ((s.plan.map (·.bytes)).getD []) g)
  { kind := 5, sagger := g, resetting := busy, notAvail := busy, digest := cfg } ::
    (s.sagger g).images.map fun i =>
      { kind := 6, sagger := g, index := i.index, resetting := busy, notAvail := busy, damaged := i.damaged, digest := i.measure }
/-- Saggers of a mask that the plan names. -/
def State.maskSaggers (s : State) (mask : BitVec 12) : List Nat := s.planSaggers.filter fun g => mask.getLsbD g

/-- The signed report (R425); in bisque mode it gives no sagger entries. -/
def State.report (s : State) (nonce : List Byte) (mask : BitVec 12) : List Byte :=
  let es := s.deviceEntries ++ (if s.boot.bisque then [] else (s.maskSaggers mask).flatMap s.saggerEntries)
  let body := leBytes 0x10 4 ++ leBytes (64 + 48 * es.length + sigBytes) 4 ++ leBytes s.moduleId 8 ++ padTo 32 nonce ++
    leBytes (s.now % 2 ^ 64) 8 ++ leBytes (es.length + 2 ^ 8 * Bool.num s.staged + 2 ^ 9 * Bool.num s.boot.bisque) 4 ++
    leBytes s.health.boots 4 ++ es.flatMap AttestEntry.bytes
  body ++ padTo sigBytes (Config.mldsaSign s.boot.pubKey (shake256 body 64))

/-- The wait of a requested report is over: every sagger asked for has settled, or 5 s have passed. -/
def State.attestReady (s : State) (a : AttestWait) : Bool :=
  s.boot.bisque || !(s.maskSaggers a.mask).any s.unsettled || a.since + 5 * 10 ^ 9 ≤ s.refNow
/-- Take the snapshot, sign the report and send it; saggers that are still unsettled raise 0xF5. -/
def State.sendReport (s : State) (a : AttestWait) : State :=
  let r := s.report a.nonce a.mask
  let late := if s.boot.bisque then [] else (s.maskSaggers a.mask).filter s.unsettled
  let s1 := (late.foldl (fun s g => s.fault 1 0xF 0xF5 g 0 0) s).bump .secAttest 0 1
  match a.sess with
  | some k => s1.mgmtAnswer k 0x02 a.tag 0 r
  | none => s1.sendUnder a.chan a.kslot 0x41 a.tag r
/-- A report is asked for: it is given at once, or waits for its saggers (R426). -/
def State.askReport (s : State) (a : AttestWait) : State :=
  if s.attestReady a then s.sendReport a else s.onMgmt fun m => { m with attests := m.attests ++ [a] }

/-- ATTEST_SNAPSHOT (R426): the oldest waiting report whose wait is over. -/
def execAttestSnapshot (s : State) : Host.Outcome State Fault Refusal :=
  match s.mgmt.attests.find? s.attestReady with
  | none => .next s
  | some a => .next ((s.onMgmt fun m => { m with attests := m.attests.erase a }).sendReport a)

end Sys2Proof.Machine
end

