-- ==== Sys2Proof/Machine/ShomuLink.lean ====
section
/-! DEFINITION. The Shomu links: lanes, training, flits, credit, replay, heartbeats and loss
(spec/13_shomu_host_link.md, R381 to R387 and R403 to R406). -/

namespace Sys2Proof.Machine

/-! ## Lanes and widths (R381) -/

/-- The link exists: link 1 only with BIFUR = 1. -/
def State.linkExists (s : State) (k : Nat) : Bool := k = 0 || s.device.bifur
/-- Lane `l` is usable: no BIST mark and not found faulty (SHL_LANES). -/
def State.shomuLane (s : State) (faulty : BitVec 16) (l : Nat) : Bool := !s.marked 440 l && !faulty.getLsbD l
/-- Half `h` (lanes 8h to 8h + 7) holds no faulty lane. -/
def State.halfGood (s : State) (faulty : BitVec 16) (h : Nat) : Bool := (List.range 8).all fun l => s.shomuLane faulty (8 * h + l)
/-- Width that a link can train at, coded as SHL_STATUS.WIDTH; 0 = none. -/
def State.shomuWidth (s : State) (k : Nat) (faulty : BitVec 16) : Nat :=
  if s.device.bifur then (if s.halfGood faulty k then k + 1 else 0)
  else match s.halfGood faulty 0, s.halfGood faulty 1 with
    | true, true => 3
    | true, false => 1
    | false, true => 2
    | false, false => 0
/-- BIST marks alone leave the link without a half: it stays DOWN until the next start. -/
def State.shomuBarred (s : State) (k : Nat) : Bool := s.shomuWidth k 0 == 0
/-- The start and SHL_CTL let the link train. -/
def State.linkEnabled (s : State) (k : Nat) : Bool := s.linksRun && s.linkExists k && s.reg .shlCtl k % 2 == 1

/-- The link fails to train and is retried after 10 ms (R382). -/
def State.linkFails (s : State) (k reason : Nat) : State :=
  s.onLink k fun x => { x with
    st := .down, width := 0, reason := reason, retry := true, started := s.refNow, ack := false, peerAck := false, locked := false }

/-! ## Channels of a link that is lost or opens (R388, R405) -/

/-- The channels close: keys are erased, their messages and swaps discarded, and the requests of each pre-empted
(R405 steps 1, 2 and 4). -/
def State.closeChans (s : State) (cs : List Nat) : State :=
  cs.foldl (fun s c =>
    if (s.chan c).st = .unassigned then s
    else
      let s1 := s.onChan c fun _ => { st := .closed }
      let s2 := { s1 with swaps := s1.swaps.filter fun r => r.chan != c }
      match s2.saggerOfChan c with
      | some g => s2.markLost g fun q => q.chan == c
      | none => s2) s
/-- A link without its adapter: DOWN; its channels close and its buffers are discarded. -/
def State.dropLink (s : State) (k reason : Nat) (retry : Bool) : State :=
  (s.closeChans (s.chansOfLink k)).onLink k fun x =>
    { reason := reason, retry := retry, started := s.refNow, faulty := x.faulty, hbSeq := x.hbSeq, window := x.window }
/-- Loss of the adapter (R405). -/
def State.linkLost (s : State) (k reason : Nat) : State := ((s.bump .shlLoss k 1).fault 5 0xE 0xE2 15 k 0).dropLink k reason true
/-- A channel that opens is granted 64 KiB of MSG credit (R386). -/
def State.grantChan (s : State) (c : Nat) : State :=
  s.onLink (s.linkOfChan c) fun x => { x with freed := tmod 0 x.freed (1 + 4 * c) (· + 1024) }
/-- A PLAIN channel of a built sagger opens with its link, since it has no keys to reopen through. -/
def State.openPlain (s : State) (k : Nat) : State :=
  (s.chansOfLink k).foldl (fun s c =>
    if (s.chan c).st = .closed ∧ ((s.planChan c).map (·.policy)).getD 1 = 0 ∧
        (s.saggerOfChan c).any (fun g => (s.sagger g).st == .serving || (s.sagger g).st == .resetting) then
      s.onChan c fun x => { x with st := .openPlain } else s) s

/-! ## Training (R382 to R384) -/

/-- SHOMU_LINK_TRAIN (R382): steps 1 and 2; `locked` are the lanes that lock. -/
def execShomuLinkTrain (k : LinkIx) (locked : BitVec 16) (s : State) : Host.Outcome State Fault Refusal :=
  let x := s.link k.val
  let fresh := x.st == .down && !x.retry && !x.barred && s.linkEnabled k.val
  let faulty := ~~~ locked
  let w := s.shomuWidth k.val faulty
  s.when (fresh || (x.st == .train && !x.locked))
    (if s.shomuBarred k.val then s.onLink k.val fun y => { y with st := .down, width := 0, reason := 2, barred := true, retry := false }
     else if w = 0 then (s.linkFails k.val (if locked = 0 then 1 else 2)).onLink k.val fun y => { y with faulty := faulty }
     else s.onLink k.val fun y => { y with
       st := .train, width := w, faulty := faulty, locked := true, ack := false, peerAck := false, reason := 0, retry := false
       started := if x.st == .train then y.started else s.refNow })

/-- Reserved bits of an adapter's record, and a window above 4,096 GiB. -/
def shomuRecBad (r : BitVec 256) : Bool :=
  recField r 8 8 24 != 0 || recField r 16 4 28 != 0 || recField r 20 13 19 != 0 || recField r 24 2 30 != 0 ||
    recField r 28 0 32 != 0 || recField r 20 0 13 > 4096
/-- Highest common major version and its smaller minor: this part supports major 1 up to minor 1 (R384). -/
def shomuVersion (r : BitVec 256) : Option (Nat × Nat) :=
  if recField r 8 0 1 = 1 then some (1, min 1 (recField r 12 0 4)) else none
/-- The reason for which an adapter's record holds the link. -/
def State.shomuHold (s : State) (k : Nat) (r : BitVec 256) : Option Nat :=
  if (shomuVersion r).isNone then some 3
  else if recField r 16 0 1 = 0 ∨ (recField r 16 1 1 == 1) ≠ s.device.bifur ∨ (k = 1 ∧ recField r 16 2 1 = 0) then some 4
  else none

/-- Step 4 of R382: the link is UP, credit is advertised and heartbeats start.  After a fast retrain replay and credit
stand. -/
def State.linkUp (s : State) (k : Nat) (r : BitVec 256) : State :=
  let x := s.link k
  let again := x.st == .retrain
  let v := (shomuVersion r).getD (0, 0)
  let s1 := s.onLink k fun y =>
    let z : Link := { y with
      st := .up, reason := 0, vmaj := v.1, vmin := v.2, window := recField r 20 0 13, lastFlit := s.refNow, lastHb := s.refNow
      replays := 0, retry := false }
    if again then z
    else { z with
      rxSeq := 0, txSeq := 0, replay := [], rx := [], ctrlCredit := 0, bulkCredit := 0, part := none, msgs := [], tx := []
      freed := [(0, 256), (2, 4096)], nakOut := none }
  let s2 := if again ∨ (k = 0 ∧ !s.device.bifur ∧ x.width ≠ 3) then s1.fault 5 0xE 0xE1 15 k 0 else s1
  if again then s2
  else
    let s3 := s2.openPlain k
    (s3.chansOfLink k).foldl (fun s c => if s.chanOpen c then s.grantChan c else s) s3

/-- SHOMU_TRAINING_RECORD (R383, R384): the adapter's record is checked; the link is UP once the adapter has sent one with
ACK = 1. -/
def execShomuTrainingRecord (k : LinkIx) (rec : BitVec 256) (s : State) : Host.Outcome State Fault Refusal :=
  let x := s.link k.val
  if !((x.st == .train && x.locked) || x.st == .retrain) || shomuRecBad rec then .next s
  else match s.shomuHold k.val rec with
    | some r =>
      let s1 := if x.st = .retrain then s.dropLink k.val r false else s
      .next ((s1.onLink k.val fun y => { y with st := .held, width := 0, reason := r, retry := false }).fault 5 0xE 0xE0 15 k.val 0)
    | none =>
      let s1 := s.onLink k.val fun y => { y with ack := true, peerAck := y.peerAck || recField rec 16 3 1 == 1 }
      .next (if (s1.link k.val).peerAck then s1.linkUp k.val rec else s1)

/-- SHOMU_TRAIN_TIMEOUT (R382). -/
def execShomuTrainTimeout (k : LinkIx) (s : State) : Host.Outcome State Fault Refusal :=
  let x := s.link k.val
  s.when (x.st == .train && x.started + 20000000 ≤ s.refNow) (s.linkFails k.val 7)
/-- SHOMU_TRAIN_RETRY (R382). -/
def execShomuTrainRetry (k : LinkIx) (s : State) : Host.Outcome State Fault Refusal :=
  let x := s.link k.val
  s.when (x.st == .down && x.retry && x.started + 10000000 ≤ s.refNow && s.linkEnabled k.val)
    (s.onLink k.val fun y => { y with st := .train, retry := false, locked := false, started := s.refNow, reason := 0 })

/-- The lanes of a width. -/
def widthMask (w : Nat) : BitVec 16 := match w with | 1 => 0x00FF | 2 => 0xFF00 | 3 => 0xFFFF | _ => 0
/-- SHOMU_FAST_RETRAIN (R382, R385): eight replays of one flit, or a lane of the link found faulty, start it. -/
def execShomuFastRetrain (k : LinkIx) (faulty : BitVec 16) (s : State) : Host.Outcome State Fault Refusal :=
  let x := s.link k.val
  let all := x.faulty ||| faulty
  let w := s.shomuWidth k.val all
  s.when (x.st == .up && (x.replays ≥ 8 || faulty &&& widthMask x.width != 0))
    (if w = 0 then (s.linkLost k.val 2).onLink k.val fun y => { y with faulty := all }
     else (s.bump .shlRetrain k.val 1).onLink k.val fun y => { y with
       st := .retrain, width := w, faulty := all, locked := true, ack := false, peerAck := false, started := s.refNow, replays := 0 })

/-! ## Flits, credit and replay (R385, R386) -/

/-- Flits that the replay buffer holds. -/
def shomuReplayDepth : Nat := 2048
/-- Drop the flits up to an acknowledged one. -/
def shomuAck (a : BitVec 12) (l : List (BitVec 12 × List Byte)) : List (BitVec 12 × List Byte) :=
  if l.any fun f => f.1 == a then (l.dropWhile fun f => f.1 != a).drop 1 else l
/-- Replay from a flit. -/
def State.shomuReplay (s : State) (k : Nat) (seq : BitVec 12) : State :=
  let x := s.link k
  let again := x.replay.dropWhile fun f => f.1 != seq
  if again.isEmpty then s
  else (s.bump .shlReplay k again.length).onLink k fun y => { y with
    replays := if again.length = y.replay.length then y.replays + 1 else 1, replay := again }
/-- Take one grant (R386); an illegal class or a reserved bit makes it none. -/
def State.takeGrant (s : State) (k : Nat) (b : BitVec 64) : State :=
  let n := nbits b.toNat 8 24
  let c := nbits b.toNat 2 6
  if nbits b.toNat 32 32 ≠ 0 then s
  else match nbits b.toNat 0 2 with
    | 0 => s.onLink k fun x => { x with ctrlCredit := x.ctrlCredit + n }
    | 1 => if s.linkOfChan c = k then s.onChan c fun x => { x with msgCredit := x.msgCredit + n } else s
    | 2 => s.onLink k fun x => { x with bulkCredit := x.bulkCredit + n }
    | _ => s

/-- SHOMU_FLIT (R385): `bytes` are the 256 bytes of a flit.  A DATA flit in order joins the received bytes; one that fails
its CRC, or follows a gap, is answered with a NAK; a repeated one is dropped. -/
def execShomuFlit (k : LinkIx) (bytes : List Byte) (s : State) : Host.Outcome State Fault Refusal :=
  let x := s.link k.val
  let seq := BitVec.ofNat 12 (bfield bytes (8 * 248) 12)
  let ftype := bfield bytes (8 * 248 + 12) 4
  let ack := BitVec.ofNat 12 (bfield bytes (8 * 248 + 16) 12)
  let bad := bfield bytes (8 * 248 + 28) 4 != 0 || ftype > 4 || (crc32c (bytes.take 252)).toNat != leNat (bytes.drop 252)
  if bytes.length ≠ 256 then .refused (.illFormed "SHOMU_FLIT")
  else if x.st ≠ .up then .next s
  else if bad then .next ((s.bump .shlCrc k.val 1).onLink k.val fun y => { y with nakOut := some x.rxSeq })
  else
    let s1 := s.onLink k.val fun y =>
      let replay := if ftype = 3 then y.replay else shomuAck ack y.replay
      { y with lastFlit := s.refNow, replay := replay, replays := if replay.length = y.replay.length then y.replays else 0 }
    match ftype with
    | 0 =>
      if seq = x.rxSeq then .next (s1.onLink k.val fun y => { y with rxSeq := y.rxSeq + 1, nakOut := none, rx := y.rx ++ bytes.take 248 })
      else if (x.rxSeq - seq).toNat < 2048 then .next s1
      else .next (s1.onLink k.val fun y => { y with nakOut := some x.rxSeq })
    | 2 => .next ((List.range 31).foldl (fun s j => s.takeGrant k.val (BitVec.ofNat 64 (leNat ((bytes.drop (8 * j)).take 8)))) s1)
    | 3 => .next (s1.shomuReplay k.val ack)
    | _ => .next s1

/-- SHOMU_NAK (R385): a NAK flit that has passed its checks names the flit to replay from. -/
def execShomuNak (k : LinkIx) (seq : BitVec 12) (s : State) : Host.Outcome State Fault Refusal :=
  s.when ((s.link k.val).st == .up) ((s.onLink k.val fun y => { y with lastFlit := s.refNow }).shomuReplay k.val seq)
/-- CREDIT (R386): the grants of a CREDIT flit that has passed its checks. -/
def execCredit (k : LinkIx) (grants : List (BitVec 64)) (s : State) : Host.Outcome State Fault Refusal :=
  if grants.length > 31 then .refused (.illFormed "CREDIT")
  else s.when ((s.link k.val).st == .up)
    (grants.foldl (fun s b => s.takeGrant k.val b) (s.onLink k.val fun y => { y with lastFlit := s.refNow }))

/-! ## Heartbeats and loss (R403 to R405) -/

/-- The SERVING bits of a heartbeat. -/
def State.servingBits (s : State) : Nat :=
  if s.boot.readyWas then
    (List.range 12).foldl (fun n g => n + (if (s.sagger g).st = .serving ∨ (s.sagger g).st = .resetting then 2 ^ g else 0)) 0
  else 0
/-- The 16-byte header of a message (R390). -/
def msgHeader (type len : Nat) (tag : BitVec 32) : List Byte := leBytes type 4 ++ leBytes len 4 ++ leBytes tag.toNat 4 ++ zeros 4
/-- The payload of the next heartbeat of a link (R403). -/
def State.shomuHeartbeat (s : State) (k : Nat) : List Byte :=
  leBytes (s.link k).hbSeq.toNat 4 ++
    leBytes (Bool.num s.boot.ready + 2 * Bool.num s.boot.bisque + 4 * Bool.num s.boot.shutting + 8 * s.servingBits) 4 ++
    leBytes (if (s.link k).vmin ≥ 1 then s.now % 2 ^ 64 else 0) 8
/-- SHOMU_HEARTBEAT_SEND (R403): every 20 µs. -/
def execShomuHeartbeatSend (k : LinkIx) (s : State) : Host.Outcome State Fault Refusal :=
  let x := s.link k.val
  s.when (x.st == .up && x.lastHbTx + 20000 ≤ s.refNow)
    (s.onLink k.val fun y => { y with
      tx := y.tx ++ [msgHeader 0x50 16 0 ++ s.shomuHeartbeat k.val], hbSeq := y.hbSeq + 1, lastHbTx := s.refNow })
/-- HEARTBEAT (R403): the adapter's oldest received heartbeat. -/
def execHeartbeat (k : LinkIx) (s : State) : Host.Outcome State Fault Refusal :=
  let x := s.link k.val
  s.when (x.st == .up && !x.msgs.isEmpty) (s.onLink k.val fun y => { y with msgs := y.msgs.drop 1, lastHb := s.refNow })
/-- SHOMU_LOSS_DETECT (R404): 100 µs without a valid flit, or 150 µs without a heartbeat. -/
def execShomuLossDetect (k : LinkIx) (s : State) : Host.Outcome State Fault Refusal :=
  let x := s.link k.val
  s.when ((x.st == .up || x.st == .retrain) && (x.lastFlit + 100000 ≤ s.refNow || x.lastHb + 150000 ≤ s.refNow)) (s.linkLost k.val 6)
/-- LOSS_REQUEST_END (R405 step 3): no step of the sagger is under way. -/
def execLossRequestEnd (g : SaggerIx) (s : State) : Host.Outcome State Fault Refusal := .next (s.endLost g.val)

end Sys2Proof.Machine
end

