-- ==== Sys2Proof/Machine/ShomuChan.lean ====
section
/-! DEFINITION. Shomu channels: frames, messages, encryption and key slots, the host swap window and status
(spec/13_shomu_host_link.md, R388 to R402). -/

namespace Sys2Proof.Machine

/-! ## Key slots (R393 to R397) -/

/-- Slot `n` of a channel. -/
def Chan.slot (x : Chan) (n : Nat) : KeySlot := if n = 0 then x.slot0 else x.slot1
/-- Set slot `n` of a channel. -/
def Chan.setSlot (x : Chan) (n : Nat) (k : KeySlot) : Chan := if n = 0 then { x with slot0 := k } else { x with slot1 := k }
/-- Key policy of a channel. -/
def State.policy (s : State) (c : Nat) : Nat := ((s.planChan c).map (·.policy)).getD 0
/-- Swap messages of a channel that were sent under a slot and have no response: its read tally (R397). -/
def State.readTally (s : State) (c n : Nat) : Nat := (s.swaps.filter fun r => r.chan == c && r.sent && r.kslot == n).length

/-- Erase a slot at the end of a rotation: messages being assembled under it are dropped, and pending answers go under the
active slot; KEY_RETIRED is sent on a 1.1 link (R396). -/
def State.retireSlot (s : State) (c n reissued : Nat) : State :=
  let s1 := (s.bump .shlChRotate c 1).onChan c fun x => { (x.setSlot n {}) with
    retiring := none, st := if x.st = .rotating then .open else x.st
    parts := x.parts.filter fun p => p.2.kslot != n
    tx := x.tx.map fun m => if m.kslot = n then { m with kslot := 3 } else m }
  if (s.link (s.linkOfChan c)).vmin ≥ 1 then s1.sendMsg c 0x45 0 (leBytes (n + 2 * reissued) 4) else s1
/-- A slot that is being retired ends once its read tally has drained. -/
def State.drainSlot (s : State) (c : Nat) : State :=
  match (s.chan c).retiring with
  | some (n, _) => if s.readTally c n = 0 then s.retireSlot c n 0 else s
  | none => s
/-- A valid frame has come under a slot: under the new one, it becomes active and the old one retires (R396 step 4). -/
def State.usedSlot (s : State) (c n : Nat) : State :=
  let x := s.chan c
  if x.active = n ∨ x.retiring.isSome then s
  else (s.onChan c fun y => { y with active := n, retiring := some (x.active, s.refNow) }).drainSlot c

/-! ## Messages by type (R391, R392) -/

/-- Class of the message types that a host may send on a channel: 0 CTRL, 1 MSG, 2 BULK. -/
def hostClass (type : Nat) : Option Nat :=
  match type with
  | 0x01 | 0x02 | 0x03 => some 1
  | 0x21 | 0x23 | 0x24 => some 2
  | 0x30 | 0x40 | 0x42 => some 0
  | _ => none
/-- Class of the message types that the module sends. -/
def moduleClass (type : Nat) : Nat :=
  match type with
  | 0x10 | 0x11 | 0x12 => 1
  | 0x20 | 0x22 => 2
  | _ => 0
/-- Types that R393 allows unsealed under policy 1 or 2; R392 discards those that a host may not send on a channel. -/
def plainType (type : Nat) : Bool := (0x40 ≤ type && type ≤ 0x44) || type == 0x50
/-- A message header that has arrived fails R392, or the message is longer than `room`. -/
def headerBad (bs : List Byte) (cls room : Nat) : Bool :=
  hostClass (bfield bs 0 8) != some cls || bfield bs 8 24 != 0 || bfield bs 96 32 != 0 || 16 + bfield bs 32 32 > room ||
    bs.length > 16 + bfield bs 32 32

/-! ## FRAME_RECEIVE (R388 to R394, R397, R398) -/

/-- A frame header's fields (R389). -/
structure FrameHdr where
  chan  : Nat
  kslot : Nat
  enc   : Bool
  first : Bool
  last  : Bool
  cls   : Nat
  link  : Bool
  flen  : Nat
  resv  : Bool
  deriving DecidableEq, Repr
/-- The header that 8 bytes spell. -/
def frameHdrOf (bs : List Byte) : FrameHdr :=
  { chan := bfield bs 0 6, kslot := bfield bs 6 1, enc := bfield bs 7 1 == 1, first := bfield bs 8 1 == 1, last := bfield bs 9 1 == 1
    cls := bfield bs 10 2, link := bfield bs 12 1 == 1, flen := bfield bs 32 13, resv := bfield bs 13 19 != 0 || bfield bs 45 19 != 0 }
/-- Bytes that a frame fills on the link. -/
def FrameHdr.bytes (h : FrameHdr) : Nat := up16 (8 + h.flen + if h.enc then 16 else 0)
/-- Received bytes without fill: runs of 8 zero bytes where a frame would begin. -/
def skipZeros : Nat → List Byte → List Byte
  | 0, bs => bs
  | n + 1, bs => if bs.length ≥ 8 ∧ (bs.take 8).all (· == 0) then skipZeros n (bs.drop 8) else bs
/-- Credit units of a frame. -/
def frameUnits (n : Nat) : Nat := (n + 63) / 64

/-- The record of a frame or message that fails R388 or R392. -/
def State.badFrame (s : State) (k c : Nat) : State := s.fault 5 0xE 0xE3 15 k c
/-- The message of a class on a channel is dropped: its remaining frames are skipped. -/
def State.skipPart (s : State) (c cls : Nat) (last : Bool) : State :=
  s.onChan c fun x => { x with parts := if last then tdel x.parts cls else tset x.parts cls { kslot := 2, bytes := [], skip := true } }
/-- A SUBMIT discarded for its length is rejected with a DONE when its first frame holds REQ_ID (R392). -/
def State.rejectLong (s : State) (c : Nat) (bs : List Byte) : State :=
  match s.saggerOfChan c with
  | some g =>
    if bfield bs 0 8 = 1 ∧ bs.length ≥ 20 then
      s.sendDone g c (BitVec.ofNat 32 (bfield bs 64 32))
        { reqId := BitVec.ofNat 32 (bfield bs 128 32), reason := 5, fault := faultCode 5 0xE 0xE3 }
    else s
  | none => s

/-- The bytes of a frame join their message; the last frame passes it on. -/
def State.addFrame (s : State) (k : Nat) (h : FrameHdr) (slot : Nat) (data : List Byte) : State :=
  let c := h.chan
  let x := s.chan c
  let old := (x.parts.find? fun p => p.1 == h.cls).map (·.2)
  let room := ((s.planChan c).map (·.buf)).getD 0
  let seqBad := match old with
    | some _ => h.first
    | none => !h.first
  if old.any (·.skip) && !h.first then s.skipPart c h.cls h.last
  else if seqBad && !(old.any (·.skip)) then (s.badFrame k c).skipPart c h.cls h.last
  else
    let bs := (if h.first then [] else (old.map (·.bytes)).getD []) ++ data
    let kslot := if h.first then slot else (old.map (·.kslot)).getD slot
    let type := bfield bs 0 8
    if slot = 2 ∧ s.policy c ≠ 0 ∧ ¬ plainType type then (s.fault 2 0xE 0xE7 15 k c).skipPart c h.cls h.last
    else if (bs.length ≥ 16 && headerBad bs h.cls room) || hostClass type != some h.cls || (h.last && bs.length != 16 + bfield bs 32 32) then
      let long := bs.length ≥ 16 && (16 + bfield bs 32 32 > room || bs.length > 16 + bfield bs 32 32 || h.last)
      let s1 := (s.badFrame k c).skipPart c h.cls h.last
      if long && h.cls == 1 then s1.rejectLong c bs else s1
    else if h.last then s.onChan c fun y => { y with
      parts := tdel y.parts h.cls
      rx := y.rx ++ [{ type := type, tag := BitVec.ofNat 32 (bfield bs 64 32), payload := bs.drop 16, kslot := kslot }] }
    else s.onChan c fun y => { y with parts := tset y.parts h.cls { kslot := kslot, bytes := bs } }

/-- A frame of a link message: only HEARTBEAT is one (R391). -/
def State.addLinkFrame (s : State) (k : Nat) (h : FrameHdr) (data : List Byte) : State :=
  let old := (s.link k).part
  let bs := (if h.first then [] else (old.map (·.bytes)).getD []) ++ data
  let bad := h.enc || h.kslot != 0 || h.chan != 0 || h.cls != 0 || h.first == old.isSome || bs.length > 32 ||
    (h.last && !(bs.length == 32 && bfield bs 0 32 == 0x50 && bfield bs 32 32 == 16 && bfield bs 96 32 == 0 && bfield bs 143 17 == 0 &&
      bfield bs 175 17 == 0))
  if bad then (s.badFrame k 0).onLink k fun x => { x with part := none }
  else if h.last then s.onLink k fun x => { x with part := none, msgs := x.msgs ++ [bs.drop 16] }
  else s.onLink k fun x => { x with part := some { kslot := 2, bytes := bs } }

/-- The 96-bit nonce of a frame (R394). -/
def frameNonce (ctr : BitVec 64) (c slot : Nat) (toHost : Bool) : BitVec 96 :=
  BitVec.ofNat 96 (ctr.toNat + 2 ^ 64 * (c % 64) + 2 ^ 70 * Bool.num toHost + 2 ^ 71 * (slot % 2))

/-- A channel's frame under its slot: opened, stale, or closing the channel (R394, R397, R398). -/
def State.openFrame (s : State) (k : Nat) (h : FrameHdr) (hdr cipher tag : List Byte) : State :=
  let c := h.chan
  let ks := (s.chan c).slot h.kslot
  if !ks.live then (s.bump .shlChStale c 1).raiseLimited 1000000 c { code := faultCode 5 0xE 0xE5, unit := k, subunit := c }
  else match Config.gcmOpen ks.rxKey (frameNonce ks.rxCtr c h.kslot false) hdr cipher tag with
    | none => ((s.bump .shlChAuthfail c 1).fault 5 0xE 0xE4 15 k c).closeChans [c]
    | some plain =>
      ((s.onChan c fun x => x.setSlot h.kslot { ks with rxCtr := ks.rxCtr + 1 }).usedSlot c h.kslot).addFrame k h h.kslot (padTo h.flen plain)

/-- FRAME_RECEIVE (R392): the oldest frame among a link's received bytes. -/
def execFrameReceive (k : LinkIx) (s : State) : Host.Outcome State Fault Refusal :=
  let x := s.link k.val
  let bs := skipZeros (x.rx.length / 8) x.rx
  let h := frameHdrOf (bs.take 8)
  let n := h.bytes
  if x.st ≠ .up ∨ bs.length < 8 ∨ bs.length < n then .next s
  else
    let hdr := bs.take 8
    let data := (bs.drop 8).take h.flen
    let tag := (bs.drop (8 + h.flen)).take 16
    let key := if h.cls = 1 then 1 + 4 * h.chan else h.cls
    let s1 := (s.onLink k.val fun y => { y with
      rx := bs.drop n, freed := if h.cls = 3 then y.freed else tmod 0 y.freed key (· + frameUnits n) }).bump .shlRxBytes k.val n
    if h.resv ∨ h.cls = 3 ∨ h.flen = 0 ∨ h.flen > 4096 then .next (s1.badFrame k.val h.chan)
    else if h.link then .next (s1.addLinkFrame k.val h data)
    else if (s.saggerOfChan h.chan).isNone ∨ s.linkOfChan h.chan ≠ k.val then .next (s1.badFrame k.val h.chan)
    else if h.enc then .next (s1.openFrame k.val h hdr data tag)
    else if s.policy h.chan ≠ 0 ∧ h.cls ≠ 0 then .next ((s1.fault 2 0xE 0xE7 15 k.val h.chan).skipPart h.chan h.cls h.last)
    else .next (s1.addFrame k.val h 2 data)

/-! ## Status and attestation (R401, R402, R426) -/

/-- Take the oldest message of a type from a channel whose sagger the plan names. -/
def State.takeCtrl (s : State) (c type : Nat) (effect : State → Nat → Msg → State) : Host.Outcome State Fault Refusal :=
  match s.headMsg c type, s.saggerOfChan c with
  | some m, some g => .next (effect (s.popMsg c type) g m)
  | _, _ => .next s

/-- STATUS payload of a channel (R402). -/
def State.statusOf (s : State) (c g : Nat) : List Byte :=
  let x := s.sagger g
  let st := if s.boot.bisque then 3 else match x.st with
    | .serving => 1
    | .resetting => 2
    | _ => 0
  leBytes (g + 2 ^ 4 * st) 4 ++ leBytes (x.queue.length % 2 ^ 17) 4 ++
    leBytes ((x.live.filter fun q => q.chan == c && q.st != .ended).length % 2 ^ 17) 4 ++ leBytes (min (x.lag / 1000) (2 ^ 32 - 1)) 4 ++
    leBytes (x.fired % 2 ^ 32) 4 ++ leBytes (s.framesFree g % 2 ^ 24) 4 ++ zeros 8
/-- STATUS_REQ (R401). -/
def execStatusReq (ch : ChanIx) (s : State) : Host.Outcome State Fault Refusal :=
  s.takeCtrl ch.val 0x30 fun s g m =>
    if m.payload.length ≠ 0 then s.badFrame (s.linkOfChan ch.val) ch.val
    else s.sendUnder ch.val m.kslot 0x31 m.tag (s.statusOf ch.val g)
/-- ATTEST_REQ (R426): the device entries and those of the channel's sagger. -/
def execAttestReq (ch : ChanIx) (s : State) : Host.Outcome State Fault Refusal :=
  s.takeCtrl ch.val 0x40 fun s g m =>
    if m.payload.length ≠ 32 then s.badFrame (s.linkOfChan ch.val) ch.val
    else if !s.boot.keyOk then s
    else s.askReport { nonce := m.payload, mask := 1 <<< g, since := s.refNow, sess := none, chan := ch.val, kslot := m.kslot, tag := m.tag }

/-! ## Keys (R395, R396) -/

/-- Bytes of a KEY_OFFER under a policy. -/
def offerLen (policy : Nat) : Nat := if policy = 2 then 1604 + 1952 + sigBytes else 1604
/-- The host's signature on an offer fails under policy 2. -/
def State.offerSigBad (s : State) (c : Nat) (p : List Byte) : Bool :=
  let key := (p.drop 1604).take 1952
  s.policy c == 2 && !((((s.plan.map (·.hostKeys)).getD []).any fun h => h.1 == c && h.2 == digest256 key) &&
    Config.mldsaVerify key (p.take 1604) (p.drop 3556))
/-- The reason for which an offer is refused (R395). -/
def State.offerBad (s : State) (c : Nat) (p : List Byte) : Option Nat :=
  if s.policy c = 0 then some 1
  else if p.length ≠ offerLen (s.policy c) ∨ bfield p 1 31 ≠ 0 then some 4
  else if ((s.chan c).slot (bfield p 0 1)).live then some 3
  else if s.offerSigBad c p then some 2 else none
/-- Install new keys in a slot: the first exchange opens the channel, a later one starts a rotation. -/
def State.installKeys (s : State) (c n : Nat) (keys : List Byte) : State :=
  let first := !((s.chan c).slot (1 - n)).live
  let s1 := s.onChan c fun x => { (x.setSlot n
      { live := true, rxKey := BitVec.ofNat 256 (leNat (keys.take 32)), txKey := BitVec.ofNat 256 (leNat (keys.drop 32)) }) with
    active := if first then n else x.active, st := if first then .open else .rotating }
  if first then s1.grantChan c else s1
/-- Answer an offer with KEY_ACCEPT. -/
def State.acceptOffer (s : State) (c : Nat) (m : Msg) : State :=
  let n := bfield m.payload 0 1
  let (f, s1) := s.draw
  let (e, s2) := s1.draw
  let (secret, cipher) := Config.mlkemEncaps ((m.payload.drop 36).take 1568) e
  let body := leBytes n 4 ++ leBytes (Config.entropy f) 32 ++ padTo 1568 cipher
  let digest := shake256 (m.payload ++ body) 64
  let answer := body ++ padTo sigBytes (Config.mldsaSign s.boot.pubKey digest)
  (s2.sendUnder c m.kslot 0x43 m.tag answer).installKeys c n (shake256 (padTo 32 secret ++ digest) 64)
/-- KEY_OFFER (R395): before READY it is held until the sagger serves (R470). -/
def execKeyOffer (ch : ChanIx) (s : State) : Host.Outcome State Fault Refusal :=
  if !s.boot.readyWas && !((s.saggerOfChan ch.val).any fun g => (s.sagger g).st == .serving) then .next s
  else s.takeCtrl ch.val 0x42 fun s _ m =>
    match s.offerBad ch.val m.payload with
    | some r => (s.fault 5 0xE 0xE6 15 (s.linkOfChan ch.val) ch.val).sendUnder ch.val m.kslot 0x44 m.tag (leBytes r 4)
    | none => s.acceptOffer ch.val m

/-! ## The host swap window (R399, R400) -/

/-- Most swap messages without a response on a link. -/
def swapBound : Nat := 1024
/-- Swap messages of a link without a response. -/
def State.outstanding (s : State) (k : Nat) : Nat := (s.swaps.filter fun r => r.link == k && r.sent).length
/-- The bytes of a swap message. -/
def SwapReq.payload (r : SwapReq) : List Byte :=
  leBytes (r.off % 2 ^ 32) 4 ++ leBytes (r.off / 2 ^ 32 % 2 ^ 10) 4 ++ leBytes r.bytes 4 ++ zeros 4 ++ (if r.write then r.data else [])
/-- Send a swap message with a new TAG under its channel's active slot. -/
def State.sendSwap (s : State) (r : SwapReq) : State :=
  let r1 : SwapReq := { r with tag := s.nextTag, kslot := (s.chan r.chan).active, since := s.refNow, sent := true }
  ({ s with swaps := s.swaps ++ [r1], nextTag := s.nextTag + 1 } : State).sendUnder r.chan r1.kslot (if r.write then 0x20 else 0x22)
    r1.tag r1.payload
/-- Drop a swap message from the list, and from what waits to be sent. -/
def State.dropSwap (s : State) (r : SwapReq) : State :=
  ({ s with swaps := s.swaps.filter (· != r) } : State).onChan r.chan fun x => { x with
    tx := x.tx.filter fun m => !(m.tag == r.tag && m.type == (if r.write then 0x20 else 0x22)) }
/-- Send a swap message again with a new TAG. -/
def State.resendSwap (s : State) (r : SwapReq) (tries : Nat) : State := (s.dropSwap r).sendSwap { r with tries := tries }
/-- The transfer of a swap message fails: 0xE8, and its request fails with 0x96 (R269, R400). -/
def State.swapFails (s : State) (r : SwapReq) : State :=
  let g := (s.saggerOfChan r.chan).getD 15
  let s1 := (s.dropSwap r).fault 5 0xE 0xE8 g r.link r.chan
  match (s1.sagger g).live.find? fun q => q.chan == r.chan && q.sub.reqId == r.reqId && q.st != .ended with
  | some q => s1.failSwap g q
  | none => s1

/-- The next message of the page streams that leave on a channel, with its stream (R399). -/
def State.nextWrite (s : State) (c : Nat) : Option (OutStream × SwapReq) :=
  s.lat.outs.findSome? fun o =>
    if o.peer != .host c || !o.ready then none
    else match o.hostParts[o.sent]?, s.reqOfSlot o.sagger (o.ctxA % 65536) with
      | some (blk, off, data), some q =>
        let key := o.ctxA / 65536 + if q.draftSlot = some (o.ctxA % 65536) then 256 else 0
        (q.units.find? fun u => u.1 == key && u.2.1 == o.ctxB).map fun u =>
          (o, { tag := 0, link := s.linkOfChan c, chan := c, reqId := q.sub.reqId, kslot := 0, write := true
                off := if blk = 32 then s.dirOff o.sagger u.2.2 else s.unitOff o.sagger u.2.2 + off
                bytes := data.length, data := data, layer := key, page := o.ctxB, block := blk })
      | _, _ => none
/-- SWAP_WR (R399): one glazed block or directory slot. -/
def execSwapWr (ch : ChanIx) (s : State) : Host.Outcome State Fault Refusal :=
  match s.nextWrite ch.val with
  | none => .next s
  | some (o, r) =>
    s.when (s.chanOpen ch.val && s.outstanding r.link < swapBound)
      (((s.onLat fun l => { l with outs := l.outs.map fun x => if x.sid = o.sid then { x with sent := x.sent + 1 } else x }).bump
        .sgrSwapOut o.sagger r.bytes).sendSwap r)
/-- SWAP_RD (R399): the oldest read that has not been sent. -/
def execSwapRd (ch : ChanIx) (s : State) : Host.Outcome State Fault Refusal :=
  match s.swaps.find? fun r => r.chan == ch.val && !r.sent && !r.write with
  | none => .next s
  | some r =>
    s.when (s.chanOpen ch.val && s.outstanding r.link < swapBound)
      (({ s with swaps := s.swaps.filter (· != r) } : State).sendSwap r)

/-- The swap message that a response answers. -/
def State.swapOf (s : State) (c : Nat) (tag : BitVec 32) (writes : Bool) : Option SwapReq :=
  s.swaps.find? fun r => r.chan == c && r.sent && r.tag == tag && r.write == writes
/-- A response without a request: discarded with 0xE8. -/
def State.unknownTag (s : State) (c : Nat) : State := s.fault 5 0xE 0xE8 15 (s.linkOfChan c) c
/-- SWAP_ACK (R400). -/
def execSwapAck (ch : ChanIx) (s : State) : Host.Outcome State Fault Refusal :=
  s.takeCtrl ch.val 0x21 fun s _ m =>
    match s.swapOf ch.val m.tag true with
    | none => s.unknownTag ch.val
    | some r => (if m.payload.length = 4 ∧ leNat m.payload = 0 then s.dropSwap r else s.swapFails r).drainSlot ch.val
/-- SWAP_ERR (R400). -/
def execSwapErr (ch : ChanIx) (s : State) : Host.Outcome State Fault Refusal :=
  s.takeCtrl ch.val 0x24 fun s _ m =>
    match (s.swapOf ch.val m.tag true).or (s.swapOf ch.val m.tag false) with
    | none => s.unknownTag ch.val
    | some r => (s.swapFails r).drainSlot ch.val

/-- The stream that a swap read fills. -/
def State.readStream (s : State) (r : SwapReq) : Option Stream :=
  let g := (s.saggerOfChan r.chan).getD 15
  (s.sagger g).live.findSome? fun q =>
    if q.chan = r.chan ∧ q.sub.reqId = r.reqId then
      s.lat.streams.find? fun t => t.peer == .host r.chan && t.sagger == g && t.ctxA == pageCtxA (q.unitSlot r.layer) (r.layer % 256) &&
        t.ctxB == r.page
    else none
/-- The data of a swap read: the directory slot gives header and index, a block goes to its die's expander. -/
def State.landSwap (s : State) (r : SwapReq) (t : Stream) (data : List Byte) : State :=
  if r.block = 32 then s.onStream t.sid fun x => { x with
    header := data.take 32, index := data.drop 32, entries := (glazeHdrOf (data.take 32)).nblk }
  else s.onGlaze (s.streamDie t r.block) fun e => { e with expQ := e.expQ ++ [(t.sid, r.block, data)] }
/-- A block that a swap read brings finds its die's expander queue full; it waits in the channel (R330, R386). -/
def State.swapHeld (s : State) (c : Nat) : Bool :=
  match s.headMsg c 0x23 with
  | none => false
  | some m => (s.swapOf c m.tag false).any fun r => r.block != 32 && m.payload.length == r.bytes &&
      (s.readStream r).any fun t => (s.glaze (s.streamDie t r.block)).expQ.length ≥ 64
/-- SWAP_DATA (R400). -/
def execSwapData (ch : ChanIx) (s : State) : Host.Outcome State Fault Refusal :=
  if s.swapHeld ch.val then .next s
  else s.takeCtrl ch.val 0x23 fun s g m =>
    match s.swapOf ch.val m.tag false with
    | none => s.unknownTag ch.val
    | some r =>
      if m.payload.length ≠ r.bytes then (s.swapFails r).drainSlot ch.val
      else
        let s1 := (s.dropSwap r).bump .sgrSwapIn g r.bytes
        (match s1.readStream r with
         | some t => s1.landSwap r t m.payload
         | none => s1).drainSlot ch.val
/-- SWAP_TIMEOUT (R400): after 1 ms the message is sent again, and the fourth time it fails. -/
def execSwapTimeout (k : LinkIx) (tag : BitVec 32) (s : State) : Host.Outcome State Fault Refusal :=
  match s.swaps.find? fun r => r.link == k.val && r.sent && r.tag == tag with
  | none => .next s
  | some r =>
    s.when (r.since + 1000000 ≤ s.refNow)
      ((if r.tries ≥ 3 then s.swapFails r else s.resendSwap r (r.tries + 1)).drainSlot r.chan)

/-- KEY_SLOT_RETIRE_TIMEOUT (R396, R397): 100 ms after the change of slot the old one is retired, and what it still counts
is sent again under the active slot. -/
def execKeySlotRetireTimeout (ch : ChanIx) (s : State) : Host.Outcome State Fault Refusal :=
  match (s.chan ch.val).retiring with
  | none => .next s
  | some (n, since) =>
    let old := s.swaps.filter fun r => r.chan == ch.val && r.sent && r.kslot == n
    let s1 := (old.foldl (fun s r => s.resendSwap r r.tries) s).bump .shlChReissue ch.val old.length
    s.when (since + 100000000 ≤ s.refNow) ((s1.bump .shlChRetireTo ch.val 1).retireSlot ch.val n old.length)

end Sys2Proof.Machine
end

