-- ==== Sys2Proof/Machine/ShomuSend.lean ====
section
/-! DEFINITION. What a Shomu link sends: messages cut into frames, sealed, and put into flits, and the credit that it grants
(spec/13_shomu_host_link.md, R385 to R390, R394, R397).  The model sends one message of a link at a time, while no command
waits (log entry 2). -/

namespace Sys2Proof.Machine

/-- A message of 16 + payload bytes, cut into frames of at most 4,096 B. -/
def messageParts (bs : List Byte) : List (List Byte) :=
  (List.range ((bs.length + 4095) / 4096)).map fun k => (bs.drop (4096 * k)).take 4096
/-- The 8-byte header of part `k` of `n` (R389). -/
def frameHeader (c slot cls k n len : Nat) (enc link : Bool) : List Byte :=
  leBytes (c % 64 + 2 ^ 6 * (slot % 2) + 2 ^ 7 * Bool.num enc + 2 ^ 8 * Bool.num (k == 0) + 2 ^ 9 * Bool.num (k + 1 == n) + 2 ^ 10 * cls +
    2 ^ 12 * Bool.num link) 4 ++ leBytes len 4
/-- A frame's bytes on the link: header, data, tag, and padding to 16 B. -/
def frameOf (hdr data tag : List Byte) : List Byte := padTo (up16 (hdr.length + data.length + tag.length)) (hdr ++ data ++ tag)
/-- The frames of a message, sealed under a slot when there is one (R394). -/
def framesOf (c cls : Nat) (link : Bool) (slot : Option (Nat × KeySlot)) (bs : List Byte) : List (List Byte) :=
  let ps := messageParts bs
  (List.range ps.length).map fun k =>
    let p := ps.getD k []
    match slot with
    | none => frameOf (frameHeader c 0 cls k ps.length p.length false link) p []
    | some (n, ks) =>
      let hdr := frameHeader c n cls k ps.length p.length true link
      let x := Config.gcmSeal ks.txKey (frameNonce (ks.txCtr + BitVec.ofNat 64 k) c n true) hdr p
      frameOf hdr (padTo p.length x.1) (padTo 16 x.2)
/-- Credit units of frames. -/
def unitsOf (fs : List (List Byte)) : Nat := fs.foldl (fun n f => n + frameUnits f.length) 0
/-- Bytes of frames. -/
def bytesOf (fs : List (List Byte)) : Nat := fs.foldl (fun n f => n + f.length) 0
/-- Payloads of 248 B, the last filled with zero. -/
def flitPayloads (bs : List Byte) : List (List Byte) :=
  (List.range ((bs.length + 247) / 248)).map fun k => padTo 248 ((bs.drop (248 * k)).take 248)

/-- Frames leave a link as DATA flits, when the replay buffer has room (R385). -/
def State.sendFrames (s : State) (k : Nat) (fs : List (List Byte)) : State :=
  ((flitPayloads (fs.flatMap id)).foldl (fun s p => s.onLink k fun x => { x with replay := x.replay ++ [(x.txSeq, p)], txSeq := x.txSeq + 1 }) s).bump
    .shlTxBytes k (bytesOf fs)
/-- The replay buffer has room for frames. -/
def State.replayRoom (s : State) (k : Nat) (fs : List (List Byte)) : Bool :=
  (s.link k).replay.length + (flitPayloads (fs.flatMap id)).length ≤ shomuReplayDepth

/-- Credit that a message's class has on its channel and link. -/
def State.credit (s : State) (k c cls : Nat) : Nat :=
  match cls with
  | 0 => (s.link k).ctrlCredit
  | 1 => (s.chan c).msgCredit
  | _ => (s.link k).bulkCredit
/-- Use credit. -/
def State.useCredit (s : State) (k c cls n : Nat) : State :=
  match cls with
  | 0 => s.onLink k fun x => { x with ctrlCredit := x.ctrlCredit - n }
  | 1 => s.onChan c fun x => { x with msgCredit := x.msgCredit - n }
  | _ => s.onLink k fun x => { x with bulkCredit := x.bulkCredit - n }

/-- The slot that a message leaves under: none when it cannot leave now; unsealed as `some none` (R393, R397). -/
def State.slotFor (s : State) (c : Nat) (m : Msg) : Option (Option (Nat × KeySlot)) :=
  let x := s.chan c
  let n := if m.kslot = 3 then x.active else m.kslot
  if n < 2 ∧ (x.slot n).live then some (some (n, x.slot n))
  else if n = 2 ∨ s.policy c = 0 then some none else none
/-- The frame counter limit stops a message under its slot (R394). -/
def counterFull (slot : Option (Nat × KeySlot)) (frames : Nat) : Bool :=
  match slot with
  | some (_, ks) => ks.txCtr.toNat + frames > 2 ^ 40
  | none => false

/-- Order of a message type in R387: 0 CTRL, 1 results, 2 BULK. -/
def sendOrder (type : Nat) : Nat := moduleClass type
/-- The first message of a channel in an order. -/
def State.firstOf (s : State) (c order : Nat) : Option Msg := (s.chan c).tx.find? fun m => sendOrder m.type == order
/-- The bytes of a message. -/
def Msg.bytes (m : Msg) : List Byte := msgHeader m.type m.payload.length m.tag ++ m.payload
/-- The frames of a message that may leave now. -/
def State.readyFrames (s : State) (k c : Nat) (m : Msg) : Option (Option (Nat × KeySlot) × List (List Byte)) :=
  (s.slotFor c m).bind fun slot =>
    let fs := framesOf c (moduleClass m.type) false slot m.bytes
    if counterFull slot fs.length || s.credit k c (moduleClass m.type) < unitsOf fs || !s.replayRoom k fs then none else some (slot, fs)
/-- Channels of a link in turn, the one after the last served first. -/
def State.turnOrder (s : State) (k : Nat) : List Nat :=
  ((List.range 64).map fun j => ((s.link k).turn + 1 + j) % 64).filter fun c => s.linkOfChan c == k
/-- A message of a channel leaves. -/
def State.sendFrom (s : State) (k c : Nat) (m : Msg) (slot : Option (Nat × KeySlot)) (fs : List (List Byte)) : State :=
  let s1 := s.onChan c fun x =>
    let y := match slot with
      | some (n, ks) => x.setSlot n { ks with txCtr := ks.txCtr + BitVec.ofNat 64 fs.length }
      | none => x
    { y with tx := y.tx.erase m }
  (((s1.useCredit k c (moduleClass m.type) (unitsOf fs)).sendFrames k fs).onLink k fun x => { x with turn := c })
/-- Channels that the counter limit stalls raise 0xE9 once (R394). -/
def State.noteStalls (s : State) (k : Nat) : State :=
  (s.chansOfLink k).foldl (fun s c =>
    match (s.chan c).tx.head?.bind fun m => (s.slotFor c m).bind fun slot => slot.map fun x => (m, x) with
    | some (m, (n, ks)) =>
      if !ks.stalled && counterFull (some (n, ks)) (messageParts m.bytes).length then
        (s.onChan c fun x => x.setSlot n { ks with stalled := true }).fault 5 0xE 0xE9 15 k c
      else s
    | none => s) s

/-- A grant may be given now: BULK not while an expander queue is full, MSG not while the channel's receive buffer is full
(R386). -/
def State.grantOpen (s : State) (key : Nat) : Bool :=
  match key % 4 with
  | 1 => (((s.chan (key / 4)).rx.map fun m => 16 + m.payload.length).foldl (· + ·) 0) < ((s.planChan (key / 4)).map (·.buf)).getD 0
  | 2 => [0, 1].all fun d => (s.glaze d).expQ.length < 64
  | _ => true
/-- A CREDIT flit with up to 31 grants (R386). -/
def State.sendCredit (s : State) (k : Nat) : State :=
  let gs := ((s.link k).freed.filter fun g => g.2 != 0 && s.grantOpen g.1).take 31
  if gs.isEmpty then s
  else s.onLink k fun x => { x with
    creditOut := gs.map fun g => BitVec.ofNat 64 (g.1 + 2 ^ 8 * min g.2 (2 ^ 24 - 1))
    freed := (x.freed.map fun g => if gs.contains g then (g.1, g.2 - min g.2 (2 ^ 24 - 1)) else g).filter (·.2 != 0) }

/-- One REFCLK period of a link: credit, then the first ready message in the order of R387. -/
def State.transmitShomu (s : State) (k : Nat) : State :=
  if (s.link k).st ≠ .up then s
  else
    let s1 := (s.sendCredit k).noteStalls k
    let x := s1.link k
    let hb := (x.tx.head?).map fun m => (m, framesOf 0 0 true none m)
    match hb with
    | some (_, fs) =>
      if unitsOf fs ≤ x.ctrlCredit ∧ s1.replayRoom k fs then
        ((s1.useCredit k 0 0 (unitsOf fs)).sendFrames k fs).onLink k fun y => { y with tx := y.tx.drop 1 }
      else s1
    | none =>
      match [0, 1, 2].findSome? fun order => (s1.turnOrder k).findSome? fun c =>
          (s1.firstOf c order).bind fun m => (s1.readyFrames k c m).map fun r => (c, m, r) with
      | some (c, m, slot, fs) => s1.sendFrom k c m slot fs
      | none => s1

end Sys2Proof.Machine
end

