-- ==== Sys2Proof/Machine/Tick.lean ====
section
/-! DEFINITION. One period of REFCLK (10 ns, R17) while no command waits: the timers, the time counters, and the transmitters
of the links (log entry 2). -/

namespace Sys2Proof.Machine

/-! ## Time (R367, R368) -/

/-- The timebase over one period of 10 ns: at its steered rate, or at half rate while a backward correction runs off. -/
def Timebase.advance (t : Timebase) : Timebase :=
  if t.back > 0 then { t with ref := t.ref + 10, ns := t.ns + 5, back := t.back - 5 }
  else
    let f := (t.frac : Int) + 10 * t.steer
    { t with ref := t.ref + 10, ns := ((t.ns : Int) + 10 + f / 1000000).toNat, frac := (f % 1000000).toNat }

/-! ## Time counters -/

/-- Cause of a wheel's stall (R95): 0 none, 1 TILE, 2 SLAB, 3 FENCE, 4 LIST. -/
def State.stallCause (s : State) (w : Nat) : Nat :=
  let x := s.wheel w
  match s.ownerOfWheel w with
  | none => 0
  | some g =>
    let l := (s.sagger g).list
    if !s.wheelUsable w || x.lanes.any (fun e => e.2.job.isSome) then 0
    else if (x.buf0.st == .fill && !s.holdsLanded x.buf0) || (x.buf1.st == .fill && !s.holdsLanded x.buf1) then 1
    else if (x.buf x.older).st == .drain then 2
    else if x.buf0.runs || x.buf1.runs then 0
    else if l.used > 0 && entryKind (s.listHead g) == 2 then 3
    else if l.used = 0 then 4
    else 0
/-- The stall counter of a cause. -/
def stallReg (cause : Nat) : Option Reg :=
  match cause with
  | 1 => some .whlStallTile
  | 2 => some .whlStallSlab
  | 3 => some .whlStallFence
  | 4 => some .whlStallList
  | _ => none
/-- Stall time of the wheels that serve. -/
def State.tickWheels (s : State) : State :=
  (List.range 144).foldl (fun s w =>
    if (s.ownerOfWheel w).any fun g => (s.sagger g).st == .serving then
      match stallReg (s.stallCause w) with
      | some r => s.bump r w 10
      | none => s
    else s) s
/-- The head descriptor of an LDU waits for row states (R150). -/
def State.rowStall (s : State) (l : Nat) : Bool :=
  let x := s.ldu l
  x.cur.isNone && x.rebuild.isNone && (x.attnQ.head?).any fun d => s.rowsFull l d.1 d.2
/-- The walk of a sagger waits under R192 or R193. -/
def State.walkStall (s : State) (g : Nat) : Bool :=
  let x := s.sagger g
  match x.ragged[x.walk.entry]?, s.leastLdu g with
  | some e, some l =>
    let i := s.imageOfSlot g e.slot
    let pages := s.rowPages g e.slot x.walk.layer e (e.rowPos (s.treeOf g e.slot) x.walk.row)
    x.phase == .running && x.st == .serving && !s.maskedSlot g e.slot && x.walk.layer < i.attnLayers && !pages.isEmpty &&
      !s.walkRoom g l i.qPerKv pages.length
  | _, _ => false
/-- Add one period to a counter of unit `u` while a condition holds. -/
def State.charge (s : State) (r : Reg) (u : Nat) (p : Bool) : State := if p then s.bump r u 10 else s
/-- The other time counters (R20, R147, R150, R192, R288, R330). -/
def State.tickWaits (s : State) : State :=
  let s1 := (List.range 12).foldl (fun s l => (s.charge .lduRebuildNs l (s.ldu l).rebuild.isSome).charge .lduRowstallNs l (s.rowStall l)) s
  let s2 := (List.range 12).foldl (fun s g => s.charge .atnWalkStallNs g (s.walkStall g)) s1
  let s3 := [0, 1].foldl (fun s d => (s.charge .wbdHoldWaitNs d ((s.ware d).queue.any (s.loadHeld d))).charge .glzQfullNs d
    ((s.glaze d).expQ.length ≥ 64)) s2
  s3.charge .conThrottleNs 0 s.power.throttle.isSome

/-! ## The period -/

/-- One packet, one lute message and one Shomu message at most leave each port and link. -/
def State.tickLinks (s : State) : State :=
  [0, 1].foldl (fun s k => s.transmitShomu k) ((List.range 6).foldl (fun s p => s.transmitPort p) s.syncMirrors.transmitLute)
/-- One period of REFCLK: nothing runs before the firmware does. -/
def tick (s : State) : State :=
  if s.firmwareUp then
    (((s.onTb Timebase.advance).tickWheels.tickWaits).tickLinks).shutdownTick
  else s

end Sys2Proof.Machine
end

