-- ==== Sys2Proof/Machine/Flags.lean ====
section
/-! DEFINITION. What the control and status registers show: select registers of a session, status fields, counters, and the
bytes of a fault record (spec/17_register_map.md, R473 to R483, and the register tables of each chapter). -/

namespace Sys2Proof.Machine

/-! ## Session view (R477) -/

/-- A select register of a session; SGR_ instances are told apart by `g`. -/
def Session.sel (x : Session) (r : Reg) (g : Nat) : Nat := ((x.sels.find? fun e => e.1 == (r, g)).map (·.2)).getD 0
/-- Set a select register. -/
def Session.setSel (x : Session) (r : Reg) (g v : Nat) : Session := { x with sels := (x.sels.filter fun e => e.1 != (r, g)) ++ [((r, g), v)] }
/-- The upper half that the last _LO read of a pair latched (R9, R478). -/
def Session.latched (x : Session) (r : Reg) (g : Nat) : Nat := ((x.hi.find? fun e => e.1 == (r, g)).map (·.2)).getD 0
/-- Latch an upper half. -/
def Session.latch (x : Session) (r : Reg) (g v : Nat) : Session := { x with hi := (x.hi.filter fun e => e.1 != (r, g)) ++ [((r, g), v)] }

/-- Bits of a select register that are kept, and values that a write is ignored for (R97, R231, R315, R341 and others). -/
def selWrite (r : Reg) (v : Nat) : Option Nat :=
  let low (w : Nat) : Nat := v % 2 ^ w
  let upTo (w top : Nat) : Option Nat := if low w < top then some (low w) else none
  match r with
  | .shfSel | .lduSel | .atnSel => upTo 4 12
  | .whlSel | .slbSel => upTo 8 144
  | .wbdSel | .glzSel | .shlSel | .smpSel | .ssuSel => some (low 1)
  | .hbmSel => some (low 4)
  | .tlySel => if 12 ≤ nbits v 12 4 ∧ nbits v 12 4 < 15 then none else some (low 16)
  | .tlyWsel => some (low 8)
  | .tlyDlSel => if 12 ≤ nbits v 0 4 ∧ nbits v 0 4 < 15 then none else some (low 15)
  | .latSel => upTo 3 6
  | .shlChSel => some (low 6)
  | .conSel => if nbits v 1 6 ≥ 48 then none else some (low 12)
  | .bstMapSel => some (low 7)
  | .xrtSel => if nbits v 0 4 ≥ 12 then none else some (low 14)
  | .topFltSel => some (low 32)
  | .sgrTenSel => some (low 16)
  | _ => none
/-- The register is a select register. -/
def Reg.isSel : Reg → Bool
  | .shfSel | .whlSel | .slbSel | .wbdSel | .hbmSel | .glzSel | .tlySel | .tlyWsel | .tlyDlSel | .latSel | .shlSel | .shlChSel
  | .conSel | .bstMapSel | .smpSel | .xrtSel | .lduSel | .ssuSel | .atnSel | .topFltSel | .sgrTenSel => true
  | _ => false

/-! ## Fault records (R462) -/

/-- The 64 bytes of a record. -/
def FaultRec.bytes (r : FaultRec) : List Byte :=
  let name := r.req.getD { reqId := 0, chan := 0 }
  leBytes (r.code.toNat + 2 ^ 16 * r.sagger.toNat + 2 ^ 20 * (r.level % 8)) 4 ++ leBytes r.seq.toNat 4 ++ leBytes r.time 8 ++
    leBytes (r.unit % 65536 + 2 ^ 16 * (r.subunit % 65536)) 4 ++ leBytes name.reqId.toNat 4 ++
    leBytes (name.slot.toNat + 2 ^ 16 * name.chan.toNat + 2 ^ 22 * Bool.num r.req.isSome) 4 ++ leBytes r.step 4 ++ leBytes r.addr 8 ++
    padTo 20 r.info ++ leBytes (min r.suppressed 65535) 4
/-- A retained record by SEQ. -/
def FaultLog.bySeq (f : FaultLog) (seq : BitVec 32) : Option FaultRec := f.ring.find? (·.seq == seq)

/-! ## Units and counters -/

/-- Unit that a stored register of a block belongs to, in a session's view. -/
def unitOf (x : Session) (b : Block) (g : Nat) (r : Reg) : Nat :=
  match b with
  | .whl => x.sel .whlSel 0
  | .slb => x.sel .slbSel 0
  | .wbd => x.sel .wbdSel 0
  | .hbm => x.sel .hbmSel 0
  | .glz => x.sel .glzSel 0
  | .lat => if r = .latTbSet then 0 else x.sel .latSel 0
  | .shl => match r with
    | .shlChRotate | .shlChRetireTo | .shlChReissue | .shlChStale | .shlChAuthfail => x.sel .shlChSel 0
    | _ => x.sel .shlSel 0
  | .smp => x.sel .smpSel 0
  | .xrt => match r with
    | .xrtExpTokens | .xrtExpFull | .xrtExpRerouteIn | .xrtExpDrop | .xrtExpSkip =>
      1024 * nbits (x.sel .xrtSel 0) 0 4 + nbits (x.sel .xrtSel 0) 4 10
    | _ => nbits (x.sel .xrtSel 0) 0 4
  | .ldu => x.sel .lduSel 0
  | .ssu => x.sel .ssuSel 0
  | .atn => x.sel .atnSel 0
  | .sgr => g
  | _ => 0
/-- The unit that a session's view of a block shows is unusable: its counters read zero and clears are ignored (R479). -/
def State.unitUnusable (s : State) (x : Session) (b : Block) : Bool :=
  match b with
  | .whl => !s.wheelUsable (x.sel .whlSel 0)
  | .slb => !s.wheelUsable (x.sel .slbSel 0)
  | .hbm => s.stackMode (x.sel .hbmSel 0) == 3
  | .ldu => !s.lduUsable (x.sel .lduSel 0)
  | .ssu => !s.ssuUsable (x.sel .ssuSel 0)
  | .smp => s.marked 384 (14 + x.sel .smpSel 0)
  | _ => false
/-- The counters that a CLEAR field clears. -/
def clearedBy : Reg → List Reg
  | .topFltClr => [.topFltLost]
  | .whlCntClr => [.whlEntries, .whlSplits, .whlCancelJobs, .whlCtxCount, .whlBeats, .whlLaneBeats, .whlIdleLaneBeats, .whlBankBeats,
      .whlStallTile, .whlStallSlab, .whlStallFence, .whlStallList]
  | .slbCntClr => [.slbCe, .slbUe, .slbInvalidRd, .slbClears, .slbOpBytes]
  | .wbdCntClr => [.wbdDemand, .wbdSquash, .wbdPoisonUnits, .wbdLoadBytes, .wbdHoldWaitNs]
  | .hbmCntClr => [.hbmCe, .hbmUe, .hbmScrubbed, .hbmRetired, .hbmRdBytes, .hbmWrBytes, .hbmNarrow, .hbmAtomic]
  | .mstCntClr => [.mstRetry, .mstRecon, .mstUncorr, .mstDisturb, .mstReloadPeer, .mstReloadStore, .mstReloadFail, .mstReadBytes]
  | .glzCntClr => [.glzStored, .glzToken, .glzZero, .glzDamaged, .glzRefetch, .glzFailed, .glzDup, .glzInBytes, .glzOutBytes,
      .glzCmpBytes, .glzQfullNs]
  | .latCntClr => [.latReplay, .latCrc, .latDetour, .latDrop, .latLoss, .latRetrain, .latTxBytes, .latRxBytes, .latFwdBytes]
  | .lutCntClr => [.lutRemoteRd, .lutRemoteWr, .lutReplay, .lutStops, .lutTxBytes, .lutRxBytes]
  | .shlCntClr => [.shlReplay, .shlCrc, .shlRetrain, .shlLoss, .shlTxBytes, .shlRxBytes]
  | .smpCntClr => [.smpGreedy, .smpTrunc, .smpRows, .smpBeats]
  | .xrtCntClr => [.xrtPredIssued, .xrtPredHit, .xrtPredSquash, .xrtEmptyTx, .xrtEmptyRx, .xrtRouted, .xrtArenaStallNs]
  | .lduCntClr => [.lduRebuilds, .lduRebuildSkips, .lduL16Sat, .lduL16Ufl, .lduCancelRows, .lduCycles, .lduTailCycles, .lduRebuildNs,
      .lduRowstallNs]
  | .ssuCntClr => [.ssuApplied, .ssuDiscard, .ssuDrop, .ssuEst]
  | .atnCntClr => [.atnPrefixHit, .atnPrefixMiss, .atnPrefixCollide, .atnPublish, .atnPublishSkip, .atnEvict, .atnCompact,
      .atnCompactDefer, .atnTreeCopies, .atnDesc, .atnMasked, .atnWalkStallNs, .atnEvictedSlots, .atnMoveBytes]
  | .sgrFmtClr => [.sgrFmtSat, .sgrFmtFallback, .sgrFmtOutlier, .sgrFmtViol]
  | .sgrAccClr => [.sgrAccRefire, .sgrAccRaise, .sgrAccClamp]
  | .sgrLoopClr => [.sgrStepLate, .sgrStepTrim, .sgrStepFlagged, .sgrReqAdmit, .sgrReqDone, .sgrReqReject, .sgrReqCancel, .sgrTok,
      .sgrTokLate, .sgrSpecNodes, .sgrSpecAccept, .sgrPreempt, .sgrEvicted, .sgrBudgetOver, .sgrSwapOut, .sgrSwapIn]
  | .mgtCntClr => [.secAttest, .mgtCmds, .mgtDenied, .mgtAuthFail]
  | _ => []

/-! ## Status fields -/

/-- A number from fields of (place, value). -/
def fields (fs : List (Nat × Nat)) : Nat := fs.foldl (fun n f => n + 2 ^ f.1 * f.2) 0
/-- A mask of the numbers below `n` that `p` selects. -/
def maskOf (n : Nat) (p : Nat → Bool) : Nat := (List.range n).foldl (fun m k => if p k then m + 2 ^ k else m) 0
/-- Code of a buffer state. -/
def BufState.code : BufState → Nat
  | .free => 0
  | .fill => 1
  | .ready => 2
  | .run => 3
  | .drain => 4
/-- WHL_STATUS (R97). -/
def State.whlStatus (s : State) (w : Nat) : Nat :=
  let x := s.wheel w
  let held := x.buf0.st != .free || x.buf1.st != .free
  let cause := s.stallCause w
  let st := if !s.wheelUsable w then 3 else if !held then 0 else if cause = 0 then 1 else 2
  fields [(0, st), (2, x.buf0.st.code), (5, x.buf1.st.code), (8, x.older), (9, (s.ownerOfWheel w).getD 15), (13, cause), (16, Bool.num x.hang)]
/-- WHL_CTX (R132). -/
def Wheel.ctxBits (x : Wheel) : Nat := fields [(0, Bool.num x.ctx.isSome), (1, Bool.num x.saving.isSome), (2, Bool.num x.restoring)]
/-- SHF_STATUS (R481): at reset value until the saggers are built. -/
def State.shfStatus (s : State) (k : Nat) : Nat :=
  if s.boot.phase < 6 then fields [(0, 15), (4, dieOfShelf k)]
  else fields [(0, (s.ownerOfShelf k).getD 15), (4, dieOfShelf k), (5, Bool.num (s.shelfUsable k)),
    (6, maskOf 12 fun j => s.wheelUsable (12 * k + j)), (18, Bool.num (s.lduUsable k))]
/-- HBM_STATUS (R315). -/
def State.hbmStatus (s : State) (k : Nat) : Nat :=
  let x := s.stack k
  fields [(0, s.stackMode k), (2, x.refresh), (4, npattern 8 x.temp), (12, Bool.num x.limit.isSome), (13, maskOf 8 fun j => s.protected (8 * k + j))]
/-- MST_STATUS (R315). -/
def State.mstStatus (s : State) : Nat :=
  match s.storeBad.length with
  | 0 => Bool.num s.store.writing
  | 1 => 2
  | _ => 3
/-- Code of a port state (R379). -/
def PortState.code : PortState → Nat
  | .down => 0
  | .train => 1
  | .check => 2
  | .up => 3
  | .held => 4
  | .retrain => 5
/-- LAT_STATUS (R379). -/
def Port.latStatus (x : Port) : Nat :=
  fields [(0, x.st.code), (3, x.groups.toNat % 64), (9, x.vmaj), (13, x.vmin), (17, x.serves), (20, Bool.num x.remap), (21, x.reason % 256)]
/-- LAT_NBR_AT (R379). -/
def Port.nbrBits (x : Port) : Nat := fields [(0, x.nbrAt.toNat), (11, x.nbrPort), (14, Bool.num x.nbrReady), (15, Bool.num x.nbrBisque)]
/-- Code of a timebase state. -/
def TbState.code : TbState → Nat
  | .free => 0
  | .locking => 1
  | .locked => 2
  | .holdover => 3
/-- LAT_TB_STATE (R379). -/
def Timebase.bits (t : Timebase) : Nat := fields [(0, t.st.code), (2, t.parent), (16, npattern 16 t.offset)]
/-- LUT_STATUS (R380). -/
def State.lutStatus (s : State) : Nat :=
  let x := s.port 6
  fields [(0, s.device.role), (2, x.st.code), (5, x.vmaj), (9, x.vmin), (13, x.reason % 256), (21, Bool.num s.lute.paired)]
/-- Code of a link state (R408). -/
def LinkState.code : LinkState → Nat
  | .down => 0
  | .train => 1
  | .up => 3
  | .held => 4
  | .retrain => 5
/-- SHL_STATUS (R408). -/
def State.shlStatus (s : State) (k : Nat) : Nat :=
  let x := s.link k
  fields [(0, x.st.code), (3, x.width), (5, x.vmaj), (9, x.vmin), (13, x.reason % 256), (21, Bool.num s.device.bifur)]
/-- SHL_LANES (R408): with BIFUR = 1 each link knows its own half. -/
def State.shlLanes (s : State) : Nat := maskOf 16 fun l => s.shomuLane (s.link (if s.device.bifur then l / 8 else 0)).faulty l
/-- Code of a channel state: a closed channel with a waiting offer is KEYING (R408). -/
def Chan.code (x : Chan) : Nat :=
  match x.st with
  | .unassigned => 0
  | .closed => if x.rx.any (·.type == 0x42) then 2 else 1
  | .keying => 2
  | .open => 3
  | .rotating => 4
  | .openPlain => 5
/-- SHL_CH_STATUS (R408). -/
def State.shlChStatus (s : State) (c : Nat) : Nat :=
  let x := s.chan c
  fields [(0, x.code), (3, (s.saggerOfChan c).getD 15), (7, s.policy c), (9, x.active), (10, Bool.num x.slot0.live),
    (11, Bool.num x.slot1.live), (12, (x.retiring.map fun r => s.readTally c r.1).getD 0 % 2048)]
/-- Code of a sagger state (R428). -/
def SaggerState.code : SaggerState → Nat
  | .down => 0
  | .building => 1
  | .serving => 2
  | .resetting => 3
  | .clearing => 4
/-- SEC_SGR_STATE0 and SEC_SGR_STATE1: saggers from `g` up. -/
def State.sgrStates (s : State) (g n : Nat) : Nat := fields ((List.range n).map fun k => (3 * k, (s.sagger (g + k)).st.code))
/-- Management credentials in force: those of the plan, or of the health area without one (R457). -/
def State.creds (s : State) : List (BitVec 3 × BitVec 256) :=
  match s.plan with
  | some p => p.creds
  | none => s.health.creds
/-- Open sessions. -/
def State.sessionsOpen (s : State) : Nat := ((List.range 4).filter fun k => (s.session k).open_).length
/-- LDU_STATUS (R171). -/
def State.lduStatus (s : State) (l : Nat) : Nat :=
  let x := s.ldu l
  let st := if !s.lduUsable l then 3 else if x.rebuild.isSome || s.rowStall l then 2
    else if x.cur.isSome || !x.tiles.isEmpty || !x.attnQ.isEmpty then 1 else 0
  fields [(0, st), (2, (s.ownerOfShelf l).getD 15), (6, x.rowsOpen), (16, x.step)]
/-- SSU_STATUS (R172). -/
def State.ssuStatus (s : State) (d : Nat) : Nat :=
  let x := s.ssu d
  let st := if !s.ssuUsable d then 3 else if x.keys.length + x.done.length ≥ 262144 then 2
    else if x.jobs.isEmpty && x.keys.isEmpty && x.done.isEmpty then 0 else 1
  fields [(0, st), (2, if x.n < 64 then 0 else x.n.log2 - 6), (5, Bool.num x.seeded)]
/-- SMP_STATUS (R274): a row is sampled at once, so none waits. -/
def State.smpStatus (s : State) (d : Nat) : Nat := if s.marked 384 (14 + d) then 3 else 0
/-- CON_STATUS (R458). -/
def State.conStatus (s : State) (d : Nat) : Nat :=
  fields [(0, (s.cone d).vfloor), (10, if d = 0 then s.power.rail0 else s.power.rail1), (20, Bool.num (s.cone d).replan),
    (21, Bool.num ((s.cone d).proj < 180))]
/-- BST_STATE (R459). -/
def Boot.bits (b : Boot) : Nat :=
  fields [(0, b.phase), (3, Bool.num b.ready), (4, Bool.num b.bisque), (5, b.reason), (13, Bool.num b.warm)]
/-- BST_LAST (R459). -/
def ShutdownRec.bits (r : ShutdownRec) : Nat := fields [(0, r.bist), (2, Bool.num r.clean), (3, r.failed % 65536)]
/-- TOP_SIGNALS (R480). -/
def State.topSignals (s : State) : Nat :=
  fields [(0, Bool.num s.boot.ready), (1, Bool.num (!s.faultLow)), (2, Bool.num s.boot.bisque),
    (3, Bool.num (s.tb.tsyncAny.any fun t => s.refNow ≤ t + 1500000000)), (4, Bool.num s.power.refOk), (8, npattern 16 s.power.ppm)]
/-- Agents waiting on a tally, in agent order. -/
def Tally.waitersSorted (t : Tally) : List Waiter :=
  t.waiters.foldl (fun l w => (l.takeWhile fun x => x.agent.toNat < w.agent.toNat) ++ [w] ++ (l.dropWhile fun x => x.agent.toNat < w.agent.toNat)) []
/-- The TLY_ window registers of the tally that a session has latched (R341). -/
def tallyReg (t : Tally) (wsel : Nat) (r : Reg) : Nat :=
  let w := t.waitersSorted[wsel]?
  match r with
  | .tlyCfgLo => nbits t.cfg.toNat 0 32
  | .tlyCfgHi => nbits t.cfg.toNat 32 32
  | .tlyProd => t.prod.toNat
  | .tlyCons => t.cons.toNat
  | .tlyState => fields [(0, t.waiters.length % 512), (9, Bool.num t.exceeded), (10, Bool.num (!t.blocked.isEmpty))]
  | .tlyLast => t.last.toNat
  | .tlyWaiter => (w.map fun x => fields [(0, x.agent.toNat), (13, Bool.num x.consume)]).getD 0
  | .tlyWtgt => (w.map (·.target.toNat)).getD 0
  | _ => 0
/-- The tenant that a session's SGR_TEN_SEL of an instance names, when it has an entry (R273, R482). -/
def State.tenShown (s : State) (x : Session) (g : Nat) : Option Tenant := s.tenant? g (x.sel .sgrTenSel g)

/-! ## Reading a register -/

/-- The value of a register that a session reads: 32 bits, or 64 of a pair. -/
def State.readReg (s : State) (x : Session) (b : Block) (g : Nat) (r : Reg) : Nat :=
  let u := unitOf x b g r
  let stored := if s.unitUnusable x b then 0 else s.reg r u
  if r.isSel then x.sel r g
  else match r with
  -- TOP_ (R471, R480)
  | .topPart => 0x00011152
  | .topStepping => 0x10
  | .topProto => 0x11121010
  | .topSignals => s.topSignals
  | .topFltStatus => fields [(0, Bool.num s.flog.dev), (1, Bool.num s.flog.overflow), (2, s.flog.ring.length)]
  | .topFltNext => s.flog.next.toNat
  | .topFltFirst4 => s.flog.first4.toNat
  | .topFltData i => leNat ((((x.fault.map FaultRec.bytes).getD []).drop (4 * i.val)).take 4)
  -- SHF_, WHL_, SLB_, WBD_, HBM_, MST_, GLZ_
  | .shfStatus => s.shfStatus (x.sel .shfSel 0)
  | .whlStatus => s.whlStatus u
  | .whlCtx => (s.wheel u).ctxBits
  | .whlCtxSave => ((s.wheel u).ctx.map (·.addr.toNat)).getD 0
  | .slbStatus => fields [(0, maskOf 16 (s.bankUsable u)), (16, nbits (s.reg .slbStatus u) 16 2)]
  | .wbdStatus => fields [(0, (s.ware u).queue.length), (13, (s.ware u).next.toNat)]
  | .hbmStatus => s.hbmStatus u
  | .hbmPcFail => maskOf 32 fun p => !s.pchUsable u p
  | .hbmPoisonOpen => (s.poisons 0).length + (s.poisons 1).length
  | .mstStatus => s.mstStatus
  | .mstChFail => maskOf 32 fun c => s.storeBad.contains c
  | .mstNsLock => maskOf 16 s.nsLocked
  | .glzStatus => min 64 (s.glaze u).expQ.length
  -- TLY_ (R341, R345)
  | .tlyCfgLo | .tlyCfgHi | .tlyProd | .tlyCons | .tlyState | .tlyLast | .tlyWaiter | .tlyWtgt =>
    (x.tally.map fun t => tallyReg t (x.sel .tlyWsel 0) r).getD 0
  | .tlyDlData => ((tget [] s.snaps (nbits (x.sel .tlyDlSel 0) 0 4)).getD (nbits (x.sel .tlyDlSel 0) 4 11) 0).toNat
  | .tlyDlStatus => maskOf 12 (fun k => s.snaps.any (·.1 == k)) + 2 ^ 12 * Bool.num (s.snaps.any (·.1 == 15))
  -- LAT_, LUT_ (R379, R380)
  | .latStatus => (s.port u).latStatus
  | .latNbrAt => (s.port u).nbrBits
  | .latNbrId => (s.port u).nbrId.toNat
  | .latCoord => fields [(0, s.own.toNat), (11, Bool.num s.lat.apex), (12, Bool.num s.lat.backup)]
  | .latTb => s.tb.ns
  | .latTbState => s.tb.bits
  | .latSlices => (s.lat.slices.filter fun y => y.member && y.active).length
  | .lutStatus => s.lutStatus
  | .lutGroups => (s.port 6).groups.toNat
  | .lutSaggers => s.device.luted.toNat
  | .lutPartnerId => (s.port 6).nbrId.toNat
  -- SHL_ (R408)
  | .shlStatus => s.shlStatus u
  | .shlLanes => s.shlLanes
  | .shlWindow => (s.link u).window
  | .shlChStatus => s.shlChStatus (x.sel .shlChSel 0)
  -- MGT_, SEC_ (R428)
  | .mgtStatus => fields [(0, Bool.num s.mgmt.link), (1, Bool.num s.mgmt.addr), (2, s.sessionsOpen)]
  | .mgtCred => maskOf 16 fun c => c < s.creds.length
  | .secIdStatus => fields [(0, Bool.num s.boot.keyOk), (1, Bool.num s.boot.certOk)]
  | .secBoot => fields [(0, s.boot.slot), (1, Bool.num s.staged), (2, Bool.num s.boot.rollback), (3, Bool.num s.boot.trial)]
  | .secFwSvn => fields [(0, s.boot.svn), (16, s.fuses.svnMin)]
  | .secStage => fields [(0, match s.health.slotState s.otherSlot with | .writing => 1 | .staged => 2 | _ => 0), (3, s.boot.stageBytes / 1024)]
  | .secSgrState0 => s.sgrStates 0 8
  | .secSgrState1 => s.sgrStates 8 4
  -- CON_, BST_ (R458, R459)
  | .conStatus => s.conStatus (nbits (x.sel .conSel 0) 0 1)
  | .conMargin =>
    let c := s.cone (nbits (x.sel .conSel 0) 0 1)
    fields [(0, if c.margin.isEmpty then 0 else npattern 16 (worstOf c.margin)), (16, npattern 16 (c.margin.getD (nbits (x.sel .conSel 0) 1 6) 0))]
  | .conAge => fields [(0, (s.cone (nbits (x.sel .conSel 0) 0 1)).index), (16, (s.cone (nbits (x.sel .conSel 0) 0 1)).proj % 65536)]
  | .conHeat => (s.cone (nbits (x.sel .conSel 0) 0 1)).heat % 2 ^ 32
  | .conCode => (s.cone (nbits (x.sel .conSel 0) 0 1)).codes.getD (nbits (x.sel .conSel 0) 7 5) 0 % 64
  | .bstState => s.boot.bits
  | .bstStartMs => s.boot.startMs
  | .bstBoots => s.health.boots
  | .bstLast => s.boot.last.bits
  | .bstPlanSeq => (s.plan.map (·.seq)).getD 0
  | .bstSgrDown => s.boot.sgrDown.toNat
  | .bstMapData => mnum s.health.map (4 * x.sel .bstMapSel 0) 4
  -- SMP_, LDU_, SSU_, ATN_
  | .smpStatus => s.smpStatus u
  | .lduStatus => s.lduStatus u
  | .ssuStatus => s.ssuStatus u
  | .atnFramesFree => s.framesFree u
  | .atnFramesShared => ((s.sagger u).frames.filter fun f => match f.2 with | .shared _ _ => true | _ => false).length
  -- SGR_ (R61, R131, R273, R482)
  | .sgrAccCtl => fields [(0, nbits (s.reg .sgrAccCtl g) 0 3), (3, Bool.num ((s.sagger g).st == .serving || (s.sagger g).st == .resetting))]
  | .sgrAccFlight => fields [(0, (s.sagger g).flight4), (10, (s.sagger g).flight8), (20, (s.sagger g).flight16)]
  | .sgrStepNum => (s.sagger g).fired
  | .sgrStepLag => min (s.sagger g).lag (2 ^ 32 - 1)
  | .sgrStepDur => (s.sagger g).lastDur
  | .sgrStepRho => (s.sagger g).rho
  | .sgrQueued => (s.sagger g).queue.length
  | .sgrTenPages => if (s.tenShown x g).isSome then s.pagesOf g (x.sel .sgrTenSel g) else 0
  | .sgrTenPagesLim => ((s.tenShown x g).map (·.budget.pages)).getD 0
  | .sgrTenSeqs => if (s.tenShown x g).isSome then s.slotsOf g (x.sel .sgrTenSel g) else 0
  | .sgrTenSeqsLim => ((s.tenShown x g).map (·.budget.seqs)).getD 0
  | .sgrTenRate => ((s.tenShown x g).map fun t => t.budget.rate + 2 ^ 16 * t.budget.burst).getD 0
  | _ => stored

/-- The value that a read command sees: an SGR_ instance that the plan does not name reads zero (R479). -/
def State.readValue (s : State) (x : Session) (b : Block) (g : Nat) (r : Reg) : Nat :=
  if b = .sgr ∧ !s.named g then 0 else s.readReg x b g r

/-- Read the word at a CSR address in a session: a _LO read latches its upper half, a _HI read gives what was latched, a gap
reads zero (R9, R476, R478). -/
def State.readWord (s : State) (k : Nat) (addr : Nat) : Nat × State :=
  let x := s.session k
  match blockAt (addr / 65536) with
  | none => (0, s)
  | some (b, g) => match blockWord b (addr % 65536) with
    | none => (0, s)
    | some (.whole r) => (s.readValue x b g r % 2 ^ 32, s)
    | some (.lo r) =>
      let v := s.readValue x b g r
      (v % 2 ^ 32, s.onSession k fun y => y.latch r g (v / 2 ^ 32 % 2 ^ 32))
    | some (.hi r) => (x.latched r g, s)

/-- Read `n` words in address order. -/
def State.readWords (s : State) (k : Nat) : Nat → Nat → List Nat × State
  | _, 0 => ([], s)
  | addr, n + 1 =>
    let (v, s1) := s.readWord k addr
    let (vs, s2) := s1.readWords k (addr + 4) n
    (v :: vs, s2)

end Sys2Proof.Machine
end

