-- ==== Sys2Proof/Machine/Csr.lean ====
section
/-! DEFINITION. Writing the control and status registers: select registers, bits cleared by writing 1, CLEAR fields, and the
controls of ports, links, the timebase and accumulation (spec/17_register_map.md, R475 to R479; R8, R131, R341, R345, R369,
R379, R408, R428, R458, R471). -/

namespace Sys2Proof.Machine

/-! ## CLEAR fields (R8, R479) -/

/-- The step's FLAGS compare counters with their values at its start (R248): a clear moves the mark of a counter that has
not advanced, and puts it out of reach of one that has. -/
def rebase (mark before after : Nat) : Nat := if mark = before then after else 2 ^ 40
/-- Keep the FLAGS of the running step of sagger `g` right over a clear. -/
def State.rebaseMarks (s : State) (g : Nat) (old : State) : State :=
  s.onSagger g fun x => { x with marks :=
    (rebase x.marks.1 (old.reg .sgrFmtFallback g) (s.reg .sgrFmtFallback g),
     rebase x.marks.2.1 (old.reg .sgrAccRefire g) (s.reg .sgrAccRefire g),
     rebase x.marks.2.2 (old.reg .sgrAccClamp g + old.reg .sgrFmtSat g) (s.reg .sgrAccClamp g + s.reg .sgrFmtSat g)) }
/-- Clear counters of one unit. -/
def State.clearRegs (s : State) (rs : List Reg) (u : Nat) : State := rs.foldl (fun s r => s.setReg r u 0) s
/-- Channel counters of R408. -/
def chanCounters : List Reg := [.shlChRotate, .shlChRetireTo, .shlChReissue, .shlChStale, .shlChAuthfail]
/-- Expert counters of R231. -/
def expertCounters : List Reg := [.xrtExpTokens, .xrtExpFull, .xrtExpRerouteIn, .xrtExpDrop, .xrtExpSkip]
/-- Writing 1 to a CLEAR field for unit `u`: SHL_CNT_CLR reaches the channels of the link, XRT_CNT_CLR the experts of the
sagger. -/
def State.clearField (s : State) (r : Reg) (u : Nat) : State :=
  let s1 := s.clearRegs (clearedBy r) u
  match r with
  | .shlCntClr => (s1.chansOfLink u).foldl (fun s c => s.clearRegs chanCounters c) s1
  | .xrtCntClr => { s1 with regs := s1.regs.filter fun e => !(expertCounters.contains e.1.1 && e.1.2 / 1024 == u) }
  | .sgrFmtClr | .sgrAccClr => s1.rebaseMarks u s
  | _ => s1

/-! ## Controls (R131, R369, R379, R408) -/

/-- LAT_CTL.ENABLE (R379): 0 holds the port DOWN with reason 0x06, and what waited for it is routed again; 1 in HELD
restarts training. -/
def State.writeLatCtl (s : State) (p v : Nat) : State :=
  let x := s.port p
  let s1 := s.setReg .latCtl p (v % 2)
  if s.boot.bisque && s.boot.reason == 1 then s
  else if v % 2 = 0 then
    let s2 := s1.onPort p fun y => { y with
      st := .down, reason := 6, groups := 0, retry := false, replay := [], replays := 0, rx := [], credit := [], freed := [], out := []
      ack := false, peerAck := false }
    ((s2.reparent.reroute x.out).dropReloads x.nbrAt)
  else if x.st = .held && s1.portEnabled p then (s1.onPort p fun y => { y with losses := [] }).startTraining p
  else s1
/-- SHL_CTL.ENABLE (R408): 0 holds the link DOWN with reason 0x05 and ends its requests as R405 sets out; 1 in HELD or DOWN
restarts training. -/
def State.writeShlCtl (s : State) (k v : Nat) : State :=
  let x := s.link k
  let s1 := s.setReg .shlCtl k (v % 2)
  if s.boot.bisque && s.boot.reason == 1 then s
  else if v % 2 = 0 then s1.dropLink k 5 false
  else if x.st = .held || x.st = .down then s1.onLink k fun y => { y with st := .down, retry := false }
  else s1
/-- SGR_ACC_CTL (R131, R479): ignored while LOCK = 1; a GROUP of 3 is ignored. -/
def State.writeAccCtl (s : State) (g v : Nat) : State :=
  let old := s.reg .sgrAccCtl g
  if (s.sagger g).st = .serving || (s.sagger g).st = .resetting then s
  else s.setReg .sgrAccCtl g (v % 2 + 2 * (if nbits v 1 2 = 3 then nbits old 1 2 else nbits v 1 2))
/-- A half of LAT_TB_SET: written on the master alone (R369). -/
def State.writeTbSet (s : State) (lo v : Nat) : State :=
  if s.lat.apex then s.setReg .latTbSet 0 (nsetBits (s.reg .latTbSet 0) lo 32 v) else s
/-- Buffers of R345 that a write to TLY_DL_STATUS frees: the saggers', and the house's in bit 12. -/
def State.freeSnaps (s : State) (v : Nat) : State :=
  { s with snaps := s.snaps.filter fun e => !bitOf v (if e.1 < 12 then e.1 else 12) }

/-! ## Writing a register -/

/-- Clear status bits of a stored register: a 1 clears (R8). -/
def State.w1c (s : State) (r : Reg) (u lo w v : Nat) : State :=
  let old := s.reg r u
  let keep (k : Nat) : Bool := bitOf old k && !bitOf v k
  s.setReg r u (nsetBits old lo w (maskOf w fun k => keep (lo + k)))

/-- A select register of session `k` (R477): TLY_SEL ends the tally latch, TOP_FLT_SEL latches its record (R478). -/
def State.writeSel (s : State) (k : Nat) (r : Reg) (g v : Nat) : State :=
  match selWrite r v with
  | none => s
  | some n => s.onSession k fun x =>
    let y := x.setSel r g n
    match r with
    | .tlySel => { y with tally := none }
    | .topFltSel => { y with fault := s.flog.bySeq (BitVec.ofNat 32 n) }
    | _ => y

/-- Write `v` to a register that session `k` addresses.  Fields that are read only keep their value, and so do gaps. -/
def State.writeReg (s : State) (k : Nat) (b : Block) (g : Nat) (r : Reg) (v : Nat) : State :=
  let x := s.session k
  let u := unitOf x b g r
  if r.isSel then s.writeSel k r g v
  else match r with
  | .topScratch => s.setReg .topScratch 0 v
  | .topFltStatus => s.onFlog fun f => { f with dev := f.dev && !bitOf v 0, overflow := f.overflow && !bitOf v 1 }
  | .whlStatus => if s.unitUnusable x b then s else s.onWheel u fun y => { y with hang := y.hang && !bitOf v 16 }
  | .slbStatus => if s.unitUnusable x b then s else s.w1c .slbStatus u 16 2 v
  | .tlySnap => if bitOf v 0 then s.onSession k fun y => { y with
      tally := some (s.tally (tallyKey (nbits (y.sel .tlySel 0) 12 4) (nbits (y.sel .tlySel 0) 0 12))) } else s
  | .tlyDlStatus => s.freeSnaps v
  | .latCtl => s.writeLatCtl u v
  | .latTbApply => if bitOf v 0 && s.lat.apex then s.onTb fun t => { t with armed := some (t.ns / 10 ^ 9) } else s
  | .shlCtl => s.writeShlCtl u v
  | .secBoot => s.onBoot fun y => { y with rollback := y.rollback && !bitOf v 2 }
  | .conStatus => s.onCone (nbits (x.sel .conSel 0) 0 1) fun y => { y with replan := y.replan && !bitOf v 20 }
  | .sgrAccCtl => s.writeAccCtl g v
  | _ => if bitOf v 0 && !(clearedBy r).isEmpty && !s.unitUnusable x b then s.clearField r u else s

/-- Write the word at a CSR address: gaps, and an SGR_ instance that the plan does not name, ignore it (R476, R479). -/
def State.writeWord (s : State) (k addr v : Nat) : State :=
  match blockAt (addr / 65536) with
  | none => s
  | some (b, g) =>
    if b = .sgr ∧ !s.named g then s
    else match blockWord b (addr % 65536) with
      | none => s
      | some (.whole r) => s.writeReg k b g r v
      | some (.lo .latTbSet) => s.writeTbSet 0 v
      | some (.hi .latTbSet) => s.writeTbSet 32 v
      | some _ => s
/-- Write words in address order, one register per handshake (R475). -/
def State.writeWords (s : State) (k : Nat) : Nat → List Nat → State
  | _, [] => s
  | addr, v :: rest => (s.writeWord k addr v).writeWords k (addr + 4) rest

end Sys2Proof.Machine
end

