-- ==== Sys2Proof/Machine/Operands.lean ====
section
/-! DEFINITION. Operand forms of the management commands: their roles, the checks that all of them share, and the fields of
their payloads (spec/14_saggers_trust_and_management.md, R418 to R424, R499; spec/17_register_map.md, R475, R476;
spec/16_faults_and_recovery.md, R463).

The spec gives the payloads of CSR_READ, CSR_WRITE, STEP_READ, FAULT_READ, BUDGET, IMAGE_LOAD and SLICE_FORM; the layouts of
the other payloads are the model's (DESIGN CHOICE, log entry 40). -/

namespace Sys2Proof.Machine

/-! ## Statuses and roles (R418, R420, R421) -/

/-- OK. -/
def stOk : Nat := 0
/-- DENIED. -/
def stDenied : Nat := 1
/-- BAD. -/
def stBad : Nat := 2
/-- LOCKED. -/
def stLocked : Nat := 3
/-- BUSY. -/
def stBusy : Nat := 4
/-- NOTAVAIL. -/
def stNotAvail : Nat := 5
/-- VERIFY. -/
def stVerify : Nat := 6
/-- NOSPACE. -/
def stNoSpace : Nat := 7
/-- UNREACHABLE. -/
def stUnreachable : Nat := 8

/-- OBSERVER: bit 0 of a role mask. -/
def roleObserver : Nat := 0
/-- OPERATOR. -/
def roleOperator : Nat := 1
/-- INSTALLER. -/
def roleInstaller : Nat := 2

/-- Where a command goes. -/
inductive Target where
  /-- to the device: any legal SAGGER -/
  | device
  /-- to a sagger of the plan -/
  | sagger
  deriving DecidableEq, Repr

/-- What R419 to R421 ask of a command. -/
structure MgmtRule where
  cmd    : Nat
  role   : Nat
  target : Target := .device
  /-- BUSY in bisque mode (R457) -/
  halts  : Bool := false
  deriving DecidableEq, Repr

/-- Answer a command. -/
def State.answer (s : State) (r : MgmtRule) (m : MgmtArgs) (status : Nat) (payload : List Byte) : State :=
  s.mgmtAnswer m.sess.val r.cmd m.tag status payload
/-- The checks that every command passes before its own: the status that ends it, if any. -/
def State.mgmtGate (s : State) (r : MgmtRule) (m : MgmtArgs) : Option Nat :=
  if !(s.session m.sess.val).roles.getLsbD r.role then some stDenied
  else if r.halts && s.boot.bisque then some stBusy
  else if 1049600 < m.payload.length || (11 < m.sagger.toNat && m.sagger.toNat < 15) then some stBad
  else if r.target = .sagger ∧ !s.named m.sagger.toNat then some stBad
  else none
/-- Run a management command of an open session (R419): MGT_CMDS counts it, and `effect` acts once the shared checks have
passed. -/
def State.runMgmt (s : State) (r : MgmtRule) (m : MgmtArgs) (effect : State → State) : Host.Outcome State Fault Refusal :=
  let s1 := s.bump .mgtCmds 0 1
  s.when (s.session m.sess.val).open_
    (match s.mgmtGate r m with
     | some st => s1.answer r m st []
     | none => effect s1)

end Sys2Proof.Machine

namespace Sys2Proof

open Machine

/-! ## Payload fields -/

/-- Bits of the word at a byte offset. -/
def MgmtArgs.field (m : MgmtArgs) (off lo w : Nat) : Nat := bfield m.payload (8 * off + lo) w
/-- Words from a byte offset on. -/
def MgmtArgs.words (m : MgmtArgs) (off n : Nat) : List Nat := (List.range n).map fun k => m.field (off + 4 * k) 0 32

/-- ADDR of R475. -/
def MgmtArgs.addr (m : MgmtArgs) : Nat := m.field 0 0 32
/-- COUNT of R475. -/
def MgmtArgs.count (m : MgmtArgs) : Nat := m.field 4 0 7
/-- A register payload is BAD under R476: alignment, COUNT, reserved bits, length, a word outside every block, or in another
block than ADDR. -/
def MgmtArgs.csrBad (m : MgmtArgs) (len : Nat) : Bool :=
  m.payload.length != len || m.addr % 4 != 0 || m.count == 0 || m.count > 64 || m.field 4 7 25 != 0 ||
    (blockAt (m.addr / 65536)).isNone || (m.addr + 4 * (m.count - 1)) / 65536 != m.addr / 65536

/-- A STEP_READ payload is BAD (R499). -/
def MgmtArgs.stepBad (m : MgmtArgs) : Bool :=
  m.payload.length != 8 || m.field 4 9 23 != 0 || m.field 4 0 9 == 0 || m.field 4 0 9 > 256
/-- A FAULT_READ payload is BAD (R463). -/
def MgmtArgs.faultBad (m : MgmtArgs) : Bool :=
  m.payload.length != 8 || m.field 4 19 13 != 0 || m.field 4 0 9 == 0 || m.field 4 0 9 > 256 ||
    (11 < m.field 4 15 4 && m.field 4 15 4 < 15)

/-- The NONCE and the sagger mask of ATTEST (R421): 32 B, then 12 bits. -/
def MgmtArgs.attestBad (m : MgmtArgs) : Bool := m.payload.length != 36 || m.field 32 12 20 != 0

/-- NS and offset of an image in its namespace, in bytes: the offset is given in MiB (R423). -/
def MgmtArgs.imageAt (m : MgmtArgs) : Nat × Nat := (m.field 0 0 4, m.field 4 0 32 * 2 ^ 20)
/-- The head of IMAGE_WRITE, IMAGE_COMMIT and IMAGE_ERASE: NS and offset, 8 B. -/
def MgmtArgs.imageHeadBad (m : MgmtArgs) : Bool := m.payload.length < 8 || m.field 0 4 28 != 0

/-- Fields of IMAGE_LOAD (R423). -/
structure LoadArgs where
  ns     : Nat
  index  : Nat
  off    : Nat
  slice  : Option Nat
  strata : List Nat
  deriving DecidableEq, Repr
/-- The fields of an IMAGE_LOAD payload. -/
def MgmtArgs.load (m : MgmtArgs) : LoadArgs :=
  { ns := m.field 0 0 4, index := m.field 0 16 16, off := m.field 4 0 32 * 2 ^ 20
    slice := if m.field 8 0 1 = 1 then some (m.field 8 1 16) else none
    strata := (List.range (m.field 0 8 8)).map fun k => m.field (16 + k) 0 8 }
/-- An IMAGE_LOAD payload is BAD by its form: NSTRATA, reserved bits, SLICE without SOURCE, length, padding, or a stratum
listed twice. -/
def MgmtArgs.loadBad (m : MgmtArgs) : Bool :=
  let n := m.field 0 8 8
  m.payload.length < 16 || n == 0 || n > 128 || m.payload.length != (16 + n + 3) / 4 * 4 || m.field 0 4 4 != 0 ||
    m.field 8 17 15 != 0 || m.field 12 0 32 != 0 || (m.field 8 0 1 == 0 && m.field 8 1 16 != 0) ||
    (m.payload.drop (16 + n)).any (· != 0) || (m.load.strata.eraseDups.length != m.load.strata.length)

/-- Fields of MIGRATE (R424): channel, REQ_ID, destination coordinate and destination channel, a word each. -/
def MgmtArgs.migrateBad (m : MgmtArgs) : Bool :=
  m.payload.length != 16 || m.field 0 6 26 != 0 || m.field 8 11 21 != 0 || m.field 12 6 26 != 0

end Sys2Proof
end

