-- ==== Sys2Proof/Machine/Mgmt.lean ====
section
/-! DEFINITION. The management port: sessions, certificates and reports, register access, logs, budgets, and the reset and
clear of a sagger (spec/14_saggers_trust_and_management.md, R411, R416 to R426, R499; spec/17_register_map.md, R475 to R478;
spec/16_faults_and_recovery.md, R463). -/

namespace Sys2Proof.Machine

/-! ## Sessions (R418, R477) -/

/-- One minute of REFCLK. -/
def minuteNs : Nat := 60 * 10 ^ 9
/-- The address is being refused. -/
def State.addrRefused (s : State) (a : BitVec 128) : Bool := s.mgmt.refused.any fun r => r.1 == a && s.refNow < r.2 + minuteNs
/-- The lowest free session. -/
def State.freeSession (s : State) : Option Nat := (List.range 4).find? fun k => !(s.session k).open_
/-- A failed handshake: it is counted, and the eighth from one address within 60 s starts a refusal. -/
def State.handshakeFails (s : State) (a : BitVec 128) : State :=
  let recent := (s.mgmt.failures.filter fun f => s.refNow < f.2 + minuteNs) ++ [(a, s.refNow)]
  let eight := (recent.filter (·.1 == a)).length ≥ 8
  ((s.onMgmt fun m => { m with
      failures := if eight then recent.filter (·.1 != a) else recent
      refused := if eight then (m.refused.filter (·.1 != a)) ++ [(a, s.refNow)] else m.refused }).bump .mgtAuthFail 0 1).raiseLimited
    msNs 0 { code := faultCode 1 0xF 0xF3 }
/-- A client with a listed key gets a session with the roles of its credential, and fresh view state. -/
def State.openSession (s : State) (k : Nat) (a : BitVec 128) (roles : BitVec 3) : State :=
  s.onSession k fun _ => { open_ := true, addr := a, roles := roles }
/-- MGMT_HANDSHAKE (R418): a connection from a refused address, or a fifth one, is refused and counts as no failure. -/
def execMgmtHandshake (addr : BitVec 128) (keyDigest : BitVec 256) (tlsOk : Bool) (s : State) : Host.Outcome State Fault Refusal :=
  s.when (s.firmwareUp && !s.addrRefused addr)
    (match s.freeSession with
     | none => s
     | some k => match s.creds.find? (·.2 == keyDigest) with
       | some c => if tlsOk then s.openSession k addr c.1 else s.handshakeFails addr
       | none => s.handshakeFails addr)
/-- ADDRESS_REFUSAL_EXPIRE (R418): 60 s after the eighth failure. -/
def execAddressRefusalExpire (addr : BitVec 128) (s : State) : Host.Outcome State Fault Refusal :=
  .next (s.onMgmt fun m => { m with refused := m.refused.filter fun r => !(r.1 == addr && r.2 + minuteNs ≤ s.refNow) })

/-- A requester that no answer reaches any more. -/
def goneSession : Nat := 255
/-- What session `k` had asked for and still waits is answered to nobody. -/
def forgetAsker (k : Nat) (a : Nat × BitVec 32) : Nat × BitVec 32 := if a.1 = k then (goneSession, a.2) else a
/-- MGMT_SESSION_CLOSE (R477): the session's view state is discarded; serving goes on. -/
def execMgmtSessionClose (sess : SessIx) (s : State) : Host.Outcome State Fault Refusal :=
  let k := sess.val
  s.when (s.session k).open_
    (((s.onSession k fun _ => {}).onMgmt fun m => { m with attests := m.attests.filter fun a => a.sess != some k }).onLat
        (fun l => { l with
          slices := l.slices.map fun x => { x with asker := x.asker.map (forgetAsker k) }
          migrations := l.migrations.map fun x => { x with asker := forgetAsker k x.asker }
          loadings := l.loadings.map fun x => { x with asker := forgetAsker k x.asker } })
      |>.onBoot fun b => { b with shutBy := b.shutBy.map (forgetAsker k) })

/-! ## Identity and reports (R417, R425, R426) -/

/-- GET_CERT (R417, R421). -/
def execGetCert (m : MgmtArgs) (s : State) : Host.Outcome State Fault Refusal :=
  let r : MgmtRule := { cmd := 0x01, role := roleObserver }
  s.runMgmt r m fun s =>
    if m.payload ≠ [] then s.answer r m stBad []
    else if !s.boot.certOk then s.answer r m stVerify []
    else s.answer r m stOk (Config.certChain (mread s.mem.flash 0 (2 ^ 20)))
/-- ATTEST (R425, R426). -/
def execAttest (m : MgmtArgs) (s : State) : Host.Outcome State Fault Refusal :=
  let r : MgmtRule := { cmd := 0x02, role := roleObserver }
  s.runMgmt r m fun s =>
    if m.attestBad then s.answer r m stBad []
    else if !s.boot.keyOk then s.answer r m stNotAvail []
    else s.askReport { nonce := m.payload.take 32, mask := BitVec.ofNat 12 (m.field 32 0 12), since := s.refNow, sess := some m.sess.val
                       tag := m.tag }

/-! ## Registers (R475 to R478) -/

/-- CSR_READ (R475). -/
def execCsrRead (m : MgmtArgs) (s : State) : Host.Outcome State Fault Refusal :=
  let r : MgmtRule := { cmd := 0x10, role := roleObserver }
  s.runMgmt r m fun s =>
    if m.csrBad 8 then s.answer r m stBad []
    else
      let (vs, s1) := s.readWords m.sess.val m.addr m.count
      s1.answer r m stOk (vs.flatMap fun v => leBytes v 4)
/-- CSR_WRITE (R475). -/
def execCsrWrite (m : MgmtArgs) (s : State) : Host.Outcome State Fault Refusal :=
  let r : MgmtRule := { cmd := 0x11, role := roleOperator }
  s.runMgmt r m fun s =>
    if m.csrBad (8 + 4 * m.count) then s.answer r m stBad []
    else (s.writeWords m.sess.val m.addr (m.words 8 m.count)).answer r m stOk []

/-! ## Logs (R463, R499) -/

/-- Records of the step ring. -/
def State.ringSize (s : State) (g : Nat) : Nat := s.placeCount g 0x03
/-- The record at the ring entry of step `n`. -/
def State.ringRecord (s : State) (g n : Nat) : List Byte := s.hbm (s.placeAddr g 0x03 + 32 * (n % max 1 (s.ringSize g))) 32
/-- The ring holds step `n`: it has fired, and its entry's STEP is its own. -/
def State.ringHolds (s : State) (g n : Nat) : Bool :=
  let f := (s.sagger g).fired
  0 < n && n ≤ f && f < n + s.ringSize g && leNat ((s.ringRecord g n).take 4) == n % 2 ^ 32
/-- The oldest step that the ring holds, from `n` up within `fuel` steps. -/
def State.oldestFrom (s : State) (g : Nat) : Nat → Nat → Nat
  | 0, n => n
  | fuel + 1, n => if s.ringHolds g n then n else s.oldestFrom g fuel (n + 1)
/-- The step that fires next. -/
def State.nextStep (s : State) (g : Nat) : Nat :=
  if (s.sagger g).phase = .none then (s.sagger g).stepNum + 1 else (s.sagger g).stepNum
/-- The newest fired step whose low 32 bits are `low`. -/
def stepOfLow (fired low : Nat) : Nat := fired - (fired + 2 ^ 32 - low % 2 ^ 32) % 2 ^ 32
/-- The response of STEP_READ: head, then the retained records in step order. -/
def State.stepAnswer (s : State) (g first count : Nat) : List Byte :=
  let f := (s.sagger g).fired
  let ns := ((List.range count).map fun k => stepOfLow f (first + k)).filter fun n => s.ringHolds g n
  let head := if f = 0 then leBytes 0 8
    else leBytes (s.oldestFrom g (s.ringSize g) (f + 1 - min f (s.ringSize g))) 4 ++ leBytes (s.nextStep g) 4
  head ++ leBytes ns.length 4 ++ leBytes 0 4 ++ ns.flatMap (s.ringRecord g)
/-- STEP_READ (R499). -/
def execStepRead (m : MgmtArgs) (s : State) : Host.Outcome State Fault Refusal :=
  let r : MgmtRule := { cmd := 0x12, role := roleObserver, target := .sagger }
  s.runMgmt r m fun s =>
    if m.stepBad then s.answer r m stBad []
    else s.answer r m stOk (s.stepAnswer m.sagger.toNat (m.field 0 0 32) (m.field 4 0 9))

/-- A record passes the filters of FAULT_READ: its class, and its sagger. -/
def FaultRec.passes (r : FaultRec) (classes sagger : Nat) : Bool :=
  (classes == 0 || bitOf classes (codeClass r.code - 1)) && (sagger == 15 || r.sagger.toNat == sagger)
/-- A SEQ is at or after another, modulo 2^32. -/
def seqFrom (first seq : BitVec 32) : Bool := (seq - first).toNat < 2 ^ 31
/-- The response of FAULT_READ. -/
def FaultLog.answer (f : FaultLog) (first : BitVec 32) (count classes sagger : Nat) : List Byte :=
  let rs := ((f.ring.filter fun r => seqFrom first r.seq && r.passes classes sagger)).take count
  leBytes ((f.ring.head?.map (·.seq)).getD f.next).toNat 4 ++ leBytes f.next.toNat 4 ++ leBytes rs.length 4 ++ leBytes 0 4 ++
    rs.flatMap FaultRec.bytes
/-- FAULT_READ (R463). -/
def execFaultRead (m : MgmtArgs) (s : State) : Host.Outcome State Fault Refusal :=
  let r : MgmtRule := { cmd := 0x13, role := roleObserver }
  s.runMgmt r m fun s =>
    if m.faultBad then s.answer r m stBad []
    else s.answer r m stOk (s.flog.answer (BitVec.ofNat 32 (m.field 0 0 32)) (m.field 4 0 9) (m.field 4 9 6) (m.field 4 15 4))

/-! ## Budgets (R240) -/

/-- BUDGET (R240): BAD for an ill-formed payload, NOSPACE for a new tenant while the table is full. -/
def execBudget (m : MgmtArgs) (s : State) : Host.Outcome State Fault Refusal :=
  let r : MgmtRule := { cmd := 0x20, role := roleOperator, target := .sagger }
  let g := m.sagger.toNat
  s.runMgmt r m fun s =>
    if budgetBad m.payload then s.answer r m stBad []
    else if s.tenantsFull g (budgetOf m.payload).tenant then s.answer r m stNoSpace []
    else (s.setBudget g (budgetOf m.payload)).answer r m stOk []

/-! ## Reset and clear of a sagger (R411, R416) -/

/-- SAGGER_RESET (R411, R421): SERVING to RESETTING; a luted sagger does not reset alone (R464). -/
def execSaggerReset (m : MgmtArgs) (s : State) : Host.Outcome State Fault Refusal :=
  let r : MgmtRule := { cmd := 0x21, role := roleOperator, target := .sagger, halts := true }
  let g := m.sagger.toNat
  s.runMgmt r m fun s =>
    if m.payload ≠ [] then s.answer r m stBad []
    else if (s.sagger g).st ≠ .serving then s.answer r m stBusy []
    else
      let s1 := s.startReset g 0
      (if s1.luted g then s1.onLute fun l => { l with stop := true } else s1).answer r m stOk []

/-- The code of requests that SAGGER_CLEAR ends. -/
def clearCode : BitVec 16 := faultCode 2 0xF 0xF4
/-- SAGGER_CLEAR's effect (R416): the step under way is settled as in a reset, every request ends, every prefix node is
evicted, every frame goes through the scrub, window units are released and the slabs cleared. -/
def State.clearSagger (s : State) (g : Nat) : State :=
  let s1 := ((s.stopStreams g).leaveFor g clearCode).stopWork g
  let s2 := match (s1.sagger g).commit with
    | some k => s1.finishFire g k
    | none => s1.failStep g
  let s3 := (s2.fault 2 0xF 0xF4 g 0 0).failAll g clearCode
  let s4 := s3.bump .atnEvict g (s3.sagger g).nodes.length
  let s5 := (s4.sagger g).frames.foldl (fun s f => s.dropFrame g f.1) s4
  (s5.clearSlabs g).onSagger g fun x => { x with st := .clearing, nodes := [], retired := [], winUnits := [], slots := [] }
/-- SAGGER_CLEAR (R416): SERVING only. -/
def execSaggerClear (m : MgmtArgs) (s : State) : Host.Outcome State Fault Refusal :=
  let r : MgmtRule := { cmd := 0x22, role := roleOperator, target := .sagger, halts := true }
  let g := m.sagger.toNat
  s.runMgmt r m fun s =>
    if m.payload ≠ [] then s.answer r m stBad []
    else if (s.sagger g).st ≠ .serving then s.answer r m stBusy []
    else (s.clearSagger g).answer r m stOk []
/-- A frame of the sagger waits for its scrub. -/
def State.scrubLeft (s : State) (g : Nat) : Bool := (s.sagger g).frames.any fun f => f.2 == .scrubbing
/-- CLEAR_COMPLETE (R416): the last frame has been scrubbed, and the sagger is built again. -/
def execClearComplete (g : SaggerIx) (s : State) : Host.Outcome State Fault Refusal :=
  s.when ((s.sagger g.val).st == .clearing && !s.scrubLeft g.val) (s.buildSagger g.val)

end Sys2Proof.Machine
end

