-- ==== Sys2Proof/Machine/MgmtImage.lean ====
section
/-! DEFINITION. Management of model images and of firmware (spec/14_saggers_trust_and_management.md, R421 to R423, R427;
spec/09_memory_tiers.md, R303, R306, R307; spec/15_boot_and_health.md, R430 to R432, R447). -/

namespace Sys2Proof.Machine

/-! ## The store (R307, R422) -/

/-- Capacity of a namespace in bytes; none for one that the plan does not list. -/
def State.nsCap (s : State) (ns : Nat) : Option Nat :=
  (((s.plan.map (·.namespaces)).getD []).find? fun n => n.1 == ns).map fun n => n.2.2 * 2 ^ 30
/-- Place of a byte of a namespace in the store. -/
def storeAddr (ns off : Nat) : Nat := ns * 2 ^ 45 + off
/-- Two byte ranges meet. -/
def overlap (a n b m : Nat) : Bool := a < b + m && b < a + n

/-- Write bytes into a namespace: an image that they change is committed no longer, and pages that had been lost are
written anew. -/
def State.writeStore (s : State) (ns off : Nat) (bs : List Byte) : State :=
  (s.onStoreMem fun m => mwrite m (storeAddr ns off) bs).onStore fun x => { x with
    images := x.images.filter fun i => !(i.ns == ns && overlap i.off i.info.length off bs.length)
    lost := x.lost.filter fun p => !(p.1 == ns && overlap (p.2 * 16384) 16384 off bs.length) }
/-- IMAGE_WRITE (R422): LOCKED while the namespace is locked; the data must lie within its capacity. -/
def execImageWrite (m : MgmtArgs) (s : State) : Host.Outcome State Fault Refusal :=
  let r : MgmtRule := { cmd := 0x30, role := roleInstaller }
  let (ns, off) := m.imageAt
  let data := m.payload.drop 8
  s.runMgmt r m fun s =>
    if m.imageHeadBad || data.isEmpty || 2 ^ 20 < data.length then s.answer r m stBad []
    else match s.nsCap ns with
      | none => s.answer r m stBad []
      | some cap =>
        if s.nsLocked ns then s.answer r m stLocked []
        else if cap < off + data.length then s.answer r m stNoSpace []
        else (s.writeStore ns off data).answer r m stOk []

/-- The bytes of the image that begins at a place of a namespace: its first MiB says how long it is. -/
def State.imageBytes (s : State) (ns off cap : Nat) : List Byte :=
  let a := storeAddr ns off
  mread s.mem.store a (min (Config.imageInfo (mread s.mem.store a (2 ^ 20))).length (cap - off))
/-- What an image's signature covers, and what its measurement is taken over: its header and its chunk-digest table. -/
def ImageInfo.signed (i : ImageInfo) (bs : List Byte) : List Byte := bs.take i.headerLen ++ i.digests.flatMap fun d => leBytes d.toNat 32
/-- The checks of IMAGE_COMMIT: the signature under a listed signer, and every chunk's digest. -/
def State.commitOk (s : State) (ns : Nat) (bs : List Byte) : Bool :=
  let i := Config.imageInfo bs
  let key := (bs.drop i.keyOff).take 1952
  let chunk (c : Nat) : List Byte := (bs.drop (i.weightOff + c * 65536)).take (i.chunkLen c)
  ((s.plan.map (·.signers)).getD []).contains (ns, digest256 key) &&
    Config.mldsaVerify key (i.signed bs) ((bs.drop i.sigOff).take sigBytes) && i.digests.length == i.chunks &&
    (List.range i.chunks).all fun c => digest256 (chunk c) == i.digests.getD c 0
/-- Record an image as committed. -/
def State.commitImage (s : State) (ns off : Nat) (bs : List Byte) : State :=
  let i := Config.imageInfo bs
  s.onStore fun x => { x with
    images := (x.images.filter fun j => !(j.ns == ns && j.off == off)) ++
      [{ ns := ns, off := off, measure := digest256 (i.signed bs), info := i }] }
/-- IMAGE_COMMIT (R422). -/
def execImageCommit (m : MgmtArgs) (s : State) : Host.Outcome State Fault Refusal :=
  let r : MgmtRule := { cmd := 0x31, role := roleInstaller }
  let (ns, off) := m.imageAt
  s.runMgmt r m fun s =>
    if m.imageHeadBad || m.payload.length != 8 then s.answer r m stBad []
    else match s.nsCap ns with
      | none => s.answer r m stBad []
      | some cap =>
        if cap ≤ off then s.answer r m stBad []
        else
          let bs := s.imageBytes ns off cap
          if s.commitOk ns bs then (s.commitImage ns off bs).answer r m stOk []
          else s.answer r m stVerify []

/-- The committed image at a place of the store. -/
def State.committed? (s : State) (ns off : Nat) : Option Committed := s.store.images.find? fun i => i.ns == ns && i.off == off
/-- IMAGE_ERASE (R422): the image's bytes read zero again. -/
def execImageErase (m : MgmtArgs) (s : State) : Host.Outcome State Fault Refusal :=
  let r : MgmtRule := { cmd := 0x32, role := roleInstaller }
  let (ns, off) := m.imageAt
  s.runMgmt r m fun s =>
    if m.imageHeadBad || m.payload.length != 8 || (s.nsCap ns).isNone then s.answer r m stBad []
    else if s.nsLocked ns then s.answer r m stLocked []
    else match s.committed? ns off with
      | none => s.answer r m stNotAvail []
      | some i =>
        ((s.onStoreMem fun x => mclear x (storeAddr ns off) i.info.length).onStore fun x => { x with images := x.images.erase i }).answer
          r m stOk []

/-! ## IMAGE_LOAD and IMAGE_REMOVE (R306, R423) -/

/-- What one listed stratum lets a load do. -/
inductive StratumUse where
  | bad
  /-- allocated frames are the only obstacle -/
  | busy
  /-- a SHARED_W stratum that is unusable: skipped (R447) -/
  | skip
  | use
  deriving DecidableEq, Repr

/-- A placement of the sagger lies in the stratum. -/
def State.stratumPlaced (s : State) (g t : Nat) : Bool := (s.placedRanges g).any fun r => (strataOf r.1 r.2).contains t
/-- An allocated frame, or one that waits for its scrub, lies in the stratum. -/
def State.stratumFramed (s : State) (g t : Nat) : Bool :=
  (s.sagger g).frames.any fun f => f.1 / stratumFrames == t && f.2 != .retired
/-- Another image, or a load that goes on, holds the stratum; `same` allows the same image. -/
def State.stratumTaken (s : State) (t : Nat) (same : LoadedImage → Bool) : Bool :=
  ((List.range 12).any fun g => (s.sagger g).images.any fun i => i.strata.contains t && !same i) ||
    s.lat.loadings.any fun l => l.slice != 0 && l.image.strata.contains t
/-- The check of R423 on one stratum, for an image with a measurement whose usable strata are `ts`: a SHARED_W stratum may
already hold the same image in the same strata. -/
def State.stratumUse (s : State) (g : Nat) (measure : BitVec 256) (ts : List Nat) (t : Nat) : StratumUse :=
  match s.stratum t with
  | none => .bad
  | some p =>
    if p.kind = 2 then
      if !p.readers.getLsbD g || s.stratumTaken t (fun i => i.measure == measure && i.strata == ts) then .bad
      else if s.stratumUsable t then .use else .skip
    else if p.owner ≠ g || s.stratumPlaced g t || s.stratumTaken t (fun _ => false) || !s.stratumUsable t then .bad
    else if s.stratumFramed g t then .busy else .use

/-- The sagger may load from the namespace (R307, R409). -/
def State.mayLoad (s : State) (g ns : Nat) : Bool :=
  (s.planSagger g).namespaces.getLsbD ns &&
    (((s.plan.map (·.namespaces)).getD []).find? fun n => n.1 == ns).any fun n => n.2.1.getLsbD g
/-- The index is taken in the sagger. -/
def State.indexTaken (s : State) (g ix : Nat) : Bool :=
  (s.image? g ix).isSome || s.lat.loadings.any fun l => l.slice != 0 && l.sagger == g && l.image.index == ix
/-- A BROADCAST slice that a load may use: active, joined here, for this sagger and this image. -/
def State.sliceLoads (s : State) (g : Nat) (measure : BitVec 256) (id : Nat) : Bool :=
  (s.slice? id).any fun x => x.member && x.active && x.job == 1 && x.sgr == g && x.digest == measure.toNat % 2 ^ 64
/-- The weight region fits strata that take its chunks in turn (R306). -/
def fits (chunks strata : Nat) : Bool := strata != 0 && (chunks + strata - 1) / strata * 65536 ≤ stratumBytes

/-- The checks of R423: the image as it will be placed, or the status that refuses the load. -/
def State.loadPlan (s : State) (g : Nat) (a : LoadArgs) : Except Nat LoadedImage :=
  if !s.mayLoad g a.ns || s.indexTaken g a.index then .error stBad
  else match s.committed? a.ns a.off with
    | none => .error stNotAvail
    | some c =>
      let ts := a.strata.filter s.stratumUsable
      let uses := a.strata.map (s.stratumUse g c.measure ts)
      if uses.contains .bad || a.slice.any fun id => !s.sliceLoads g c.measure id then .error stBad
      else if uses.contains .busy then .error stBusy
      else if fits c.info.chunks ts.length then
        .ok { index := a.index, ns := a.ns, off := a.off, strata := ts, measure := c.measure, info := c.info }
      else .error stNoSpace

/-- Chunks of a load that its slice left are given up where another image takes their strata. -/
def State.dropParked (s : State) (strata : List Nat) : State :=
  s.onLat fun y => { y with loadings := y.loadings.filter fun z => !(z.slice == 0 && z.image.strata.any strata.contains) }
/-- A load begins on a slice (R371): its apex has every chunk in its own store; another member waits for its parent.  Chunks
that an earlier load has checked stay written. -/
def State.loadBySlice (s : State) (g : Nat) (i : LoadedImage) (id : Nat) (asker : Nat × BitVec 32) : State :=
  let old := s.lat.loadings.find? fun l => l.slice == 0 && l.sagger == g && l.image.measure == i.measure && l.image.strata == i.strata
  let all := List.range i.info.chunks
  let atApex := (s.slice? id).any fun x => x.apex == s.own
  let l : Loading := { slice := id, sagger := g, image := i, asker := asker
                       have_ := if atApex || s.sameLoaded i then all else (old.map (·.have_)).getD [] }
  let s1 := (s.dropParked i.strata).onLat fun y => { y with loadings := y.loadings ++ [l] }
  let s2 := if atApex && !s.sameLoaded i then
      (all.foldl (fun s c => s.writeChunk i c (s.storeWeights i (c * 65536) (i.info.chunkLen c))) s1).bump .mstReadBytes 0 i.info.weightLen
    else s1
  (if l.have_.length = i.info.chunks then s2.finishLoading l else s2).advanceLoad l
/-- IMAGE_LOAD (R423): from the own store at once, or by a BROADCAST slice; R55 rejects an image with VERIFY. -/
def execImageLoad (m : MgmtArgs) (s : State) : Host.Outcome State Fault Refusal :=
  let r : MgmtRule := { cmd := 0x33, role := roleOperator, target := .sagger, halts := true }
  let g := m.sagger.toNat
  s.runMgmt r m fun s =>
    if m.loadBad then s.answer r m stBad []
    else match s.loadPlan g m.load with
      | .error st => s.answer r m st []
      | .ok i => match m.load.slice with
        | some id => s.loadBySlice g i id (m.sess.val, m.tag)
        | none =>
          let (ok, s1) := (s.dropParked i.strata).loadImage g i
          s1.answer r m (if ok then stOk else stVerify) []

/-- A live request uses the image. -/
def State.imageUsed (s : State) (g ix : Nat) : Bool :=
  (s.sagger g).live.any fun q => q.sub.model == ix || (q.sub.spec == 1 && q.sub.draft == ix)
/-- Every frame of a stratum goes through the scrub before it joins the pool (R304, R423). -/
def State.scrubStratum (s : State) (g t : Nat) : State :=
  let fs := ((List.range stratumFrames).map (t * stratumFrames + ·)).filter fun f => !(s.sagger g).frames.any (·.1 == f)
  (s.onSagger g fun x => { x with frames := fs.foldl (fun t f => tset t f .scrubbing) x.frames }).onStack (stackOfStratum t) fun k =>
    { k with scrubQ := k.scrubQ ++ fs.map fun f => (f, g) }
/-- Strata that no image holds any more lose their protection; the OWNED ones return to the pool, and chunks in them are
reloaded no longer. -/
def State.detach (s : State) (g : Nat) (i : LoadedImage) : State :=
  let s0 := s.onLat fun y => { y with loadings := y.loadings.filter fun l => !(l.sagger == g && l.image.index == i.index) }
  let s1 := s0.onSagger g fun x => { x with images := x.images.erase i }
  let free := i.strata.filter fun t => !s1.imageHolds t
  let s2 := s1.onMem fun m => { m with wp := m.wp.filter fun t => !free.contains t }
  let s3 := [0, 1].foldl (fun s d => s.onPoison d fun l => l.filter fun p => !free.contains (stratumOfAddr (p.chunk * 65536))) s2
  (free.filter (s.ownsStratum g)).foldl (fun s t => s.scrubStratum g t) s3
/-- IMAGE_REMOVE (R421, R423). -/
def execImageRemove (m : MgmtArgs) (s : State) : Host.Outcome State Fault Refusal :=
  let r : MgmtRule := { cmd := 0x34, role := roleOperator, target := .sagger }
  let g := m.sagger.toNat
  let ix := m.field 0 0 16
  s.runMgmt r m fun s =>
    if m.payload.length ≠ 4 ∨ m.field 0 16 16 ≠ 0 then s.answer r m stBad []
    else match s.image? g ix with
      | none => s.answer r m stNotAvail []
      | some i => if s.imageUsed g ix then s.answer r m stBusy [] else (s.detach g i).answer r m stOk []

/-! ## Firmware staging (R427, R430) -/

/-- FW_BEGIN (R427): the slot that is not running is erased; BUSY unless it is IDLE. -/
def execFwBegin (m : MgmtArgs) (s : State) : Host.Outcome State Fault Refusal :=
  let r : MgmtRule := { cmd := 0x40, role := roleInstaller }
  s.runMgmt r m fun s =>
    let slot := s.otherSlot
    if m.payload ≠ [] then s.answer r m stBad []
    else if s.health.slotState slot ≠ .idle then s.answer r m stBusy []
    else
      ((((s.onMem fun x => { x with flash := mclear x.flash (slotBase slot) slotBytes }).onHealth fun h => h.setSlot slot .writing).onBoot
        fun b => { b with stageBytes := 0, stageDigest := none })).answer r m stOk []
/-- FW_DATA (R427): bytes at an offset of the slot; an offset beyond it is BAD. -/
def execFwData (m : MgmtArgs) (s : State) : Host.Outcome State Fault Refusal :=
  let r : MgmtRule := { cmd := 0x41, role := roleInstaller }
  let off := m.field 0 0 32
  let data := m.payload.drop 4
  s.runMgmt r m fun s =>
    let slot := s.otherSlot
    if m.payload.length < 5 ∨ 2 ^ 20 < data.length ∨ slotBytes < off + data.length then s.answer r m stBad []
    else if s.health.slotState slot ≠ .writing then s.answer r m stBusy []
    else
      ((s.onMem fun x => { x with flash := mwrite x.flash (slotBase slot + off) data }).onBoot fun b =>
        { b with stageBytes := b.stageBytes + data.length }).answer r m stOk []
/-- FW_COMMIT (R427): the slot is STAGED when its header, signature, digest and SVN verify; otherwise it is IDLE again. -/
def execFwCommit (m : MgmtArgs) (s : State) : Host.Outcome State Fault Refusal :=
  let r : MgmtRule := { cmd := 0x42, role := roleInstaller }
  s.runMgmt r m fun s =>
    let slot := s.otherSlot
    if m.payload ≠ [] then s.answer r m stBad []
    else if s.health.slotState slot ≠ .writing then s.answer r m stBusy []
    else if slotOk s.mem.flash slot s.fuses.svnMin then
      ((s.onHealth fun h => h.setSlot slot .staged).onBoot fun b =>
        { b with stageDigest := some (digest256 (slotFirmware s.mem.flash slot)) }).answer r m stOk []
    else ((s.onHealth fun h => h.setSlot slot .idle).fault 1 0xF 0xF1 15 0 0).answer r m stVerify []
/-- FW_ABORT (R427): the slot is marked empty. -/
def execFwAbort (m : MgmtArgs) (s : State) : Host.Outcome State Fault Refusal :=
  let r : MgmtRule := { cmd := 0x43, role := roleInstaller }
  s.runMgmt r m fun s =>
    let slot := s.otherSlot
    let st := s.health.slotState slot
    if m.payload ≠ [] then s.answer r m stBad []
    else if st ≠ .writing ∧ st ≠ .staged then s.answer r m stBusy []
    else ((s.onHealth fun h => h.setSlot slot .idle).onBoot fun b => { b with stageBytes := 0, stageDigest := none }).answer r m stOk []

end Sys2Proof.Machine
end

