-- ==== Sys2Proof/Machine/MgmtKiln.lean ====
section
/-! DEFINITION. Management of slices, migrations and the orderly shutdown (spec/12_lattice_kiln_and_lute.md, R370 to R372;
spec/14_saggers_trust_and_management.md, R421, R424; spec/15_boot_and_health.md, R449, R452). -/

namespace Sys2Proof.Machine

/-! ## SLICE_FORM and SLICE_DISSOLVE (R370, R372) -/

/-- The kiln apex starts to form a slice: its record goes to every member. -/
def State.formSlice (s : State) (x : Slice) (asker : Nat × BitVec 32) : State :=
  let s1 := s.onLat fun l => { l with slices := l.slices ++ [{ x with started := s.refNow, asker := some asker }] }
  (x.members s.kiln).foldl (fun s c => s.sendPacket (s.packet 3 0 c 0 x.id 15 0 0 0 (leBytes x.record.toNat 32))) s1
/-- SLICE_FORM (R370): on the kiln apex only; it is answered when the slice is active, refused or timed out. -/
def execSliceForm (m : MgmtArgs) (s : State) : Host.Outcome State Fault Refusal :=
  let r : MgmtRule := { cmd := 0x50, role := roleOperator, halts := true }
  let x := sliceOf (BitVec.ofNat 256 (leNat m.payload))
  s.runMgmt r m fun s =>
    if m.payload.length ≠ 32 || !s.lat.apex || s.sliceBad x || (s.slice? x.id).isSome then s.answer r m stBad []
    else if (x.members s.kiln).any s.lat.lostModules.contains then s.answer r m stUnreachable []
    else s.formSlice x (m.sess.val, m.tag)

/-- A slice is dissolved: every member is told to leave it; a SLICE_FORM that still waits is answered. -/
def State.dissolve (s : State) (x : Slice) : State :=
  let s1 := s.stopSlice x none s.own 0
  match x.asker with
  | some (k, tag) => (s1.onSlice x.id fun y => { y with asker := none }).mgmtAnswer k 0x50 tag stUnreachable []
  | none => s1
/-- SLICE_DISSOLVE (R421): on the kiln apex only. -/
def execSliceDissolve (m : MgmtArgs) (s : State) : Host.Outcome State Fault Refusal :=
  let r : MgmtRule := { cmd := 0x51, role := roleOperator }
  s.runMgmt r m fun s =>
    if m.payload.length ≠ 4 || m.field 0 16 16 != 0 || !s.lat.apex then s.answer r m stBad []
    else match s.slice? (m.field 0 0 16) with
      | none => s.answer r m stNotAvail []
      | some x => (s.dissolve x).answer r m stOk []

/-! ## MIGRATE (R424) -/

/-- An active MIGRATE slice of a sagger that holds both modules. -/
def State.sliceMoves (s : State) (g : Nat) (dest : Coord) : Option Slice :=
  s.lat.slices.find? fun x => x.member && x.active && x.job == 3 && x.sgr == g && x.has s.kiln s.own && x.has s.kiln dest
/-- The request may migrate now: it decodes, and nothing has ended, masked or moved it. -/
def Req.movable (q : Req) : Bool := q.st == .decode && q.failed.isNone && !q.masked && !q.moving
/-- The source holds the sequence out of planning and starts to send (R371). -/
def State.startMove (s : State) (g : Nat) (q : Req) (x : Slice) (dest : Coord) (asker : Nat × BitVec 32) : State :=
  let s1 := (s.onReq g q fun y => { y with moving := true }).onLat fun l => { l with
    migrations := l.migrations ++ [{ sagger := g, chan := q.chan, reqId := q.sub.reqId, dest := dest, slice := x.id, asker := asker }] }
  s1.startMoves g
/-- MIGRATE (R424): answered at the commit; a requirement that the source can judge and that is not met gives BAD or BUSY. -/
def execMigrate (m : MgmtArgs) (s : State) : Host.Outcome State Fault Refusal :=
  let r : MgmtRule := { cmd := 0x52, role := roleOperator, target := .sagger, halts := true }
  let g := m.sagger.toNat
  let dest : Coord := BitVec.ofNat 11 (m.field 8 0 11)
  s.runMgmt r m fun s =>
    if m.migrateBad || dest == s.own then s.answer r m stBad []
    else match s.sliceMoves g dest, (s.sagger g).live.find? fun q => q.chan == m.field 0 0 6 && q.sub.reqId.toNat == m.field 4 0 32 with
      | some x, some q => if q.movable && (s.sagger g).st == .serving then s.startMove g q x dest (m.sess.val, m.tag) else s.answer r m stBusy []
      | _, _ => s.answer r m stBad []

/-! ## SHUTDOWN (R449, R452) -/

/-- Step 1: READY falls and the heartbeats tell; step 2 goes on as the saggers' steps end. -/
def State.startShutdown (s : State) (asker : Nat × BitVec 32) (env : BistEnv) : State :=
  (s.onBoot fun b => { b with
    ready := false, shutting := true, shutAt := s.refNow, shutBy := some asker, bistEnv := env, phase := 7 }).advanceShutdown
/-- SHUTDOWN (R449): a second one is BUSY; `env` is what its BIST will find. -/
def execShutdown (m : MgmtArgs) (env : BistEnv) (s : State) : Host.Outcome State Fault Refusal :=
  let r : MgmtRule := { cmd := 0x60, role := roleOperator }
  s.runMgmt r m fun s =>
    if m.payload ≠ [] then s.answer r m stBad []
    else if s.boot.shutting then s.answer r m stBusy []
    else s.startShutdown (m.sess.val, m.tag) env

end Sys2Proof.Machine
end

