-- ==== Sys2Proof/Machine/Dispatch.lean ====
section
/-! DEFINITION. The meaning of each command: one arm for each constructor of `Instr`. -/

namespace Sys2Proof.Machine

def exec (i : Instr) (s : State) : Host.Outcome State Fault Refusal :=
  match i with
  | .replicaCountWindow n0 n1 => Sys2Proof.Machine.execReplicaCountWindow n0 n1 s
  | .beatFactorUpdate => Sys2Proof.Machine.execBeatFactorUpdate s
  | .voltageSelect power tj0 tj1 hi0 hi1 => Sys2Proof.Machine.execVoltageSelect power tj0 tj1 hi0 hi1 s
  | .throttleTick power tj0 tj1 => Sys2Proof.Machine.execThrottleTick power tj0 tj1 s
  | .entryTake g => Sys2Proof.Machine.execEntryTake g s
  | .fencePass g => Sys2Proof.Machine.execFencePass g s
  | .tileFillDone w b => Sys2Proof.Machine.execTileFillDone w b s
  | .laneTakeJob w lane => Sys2Proof.Machine.execLaneTakeJob w lane s
  | .jobEnd w lane => Sys2Proof.Machine.execJobEnd w lane s
  | .entryJoin w b => Sys2Proof.Machine.execEntryJoin w b s
  | .entryDrain w => Sys2Proof.Machine.execEntryDrain w s
  | .wheelHang w => Sys2Proof.Machine.execWheelHang w s
  | .slotCancelWheel w slot => Sys2Proof.Machine.execSlotCancelWheel w slot s
  | .suspend w saveAddr => Sys2Proof.Machine.execSuspend w saveAddr s
  | .suspendDone w => Sys2Proof.Machine.execSuspendDone w s
  | .resume w => Sys2Proof.Machine.execResume w s
  | .restoreContext w => Sys2Proof.Machine.execRestoreContext w s
  | .listWrite g entry => Sys2Proof.Machine.execListWrite g entry s
  | .lduTakeItem l recs => Sys2Proof.Machine.execLduTakeItem l recs s
  | .pageDescriptor l ecc off => Sys2Proof.Machine.execPageDescriptor l ecc off s
  | .queryTileClose l => Sys2Proof.Machine.execQueryTileClose l s
  | .tableRebuild l => Sys2Proof.Machine.execTableRebuild l s
  | .norm l => Sys2Proof.Machine.execNorm l s
  | .prod l => Sys2Proof.Machine.execProd l s
  | .glu l => Sys2Proof.Machine.execGlu l s
  | .outer l => Sys2Proof.Machine.execOuter l s
  | .lduCancelSlot l slot => Sys2Proof.Machine.execLduCancelSlot l slot s
  | .ssuStream d => Sys2Proof.Machine.execSsuStream d s
  | .ssuKeyComplete d => Sys2Proof.Machine.execSsuKeyComplete d s
  | .ssuApply d g => Sys2Proof.Machine.execSsuApply d g s
  | .kvStoreWrite g slot row layer kAddr vAddr => Sys2Proof.Machine.execKvStoreWrite g slot row layer kAddr vAddr s
  | .walkOpenTile g qAddr outAddr => Sys2Proof.Machine.execWalkOpenTile g qAddr outAddr s
  | .slotCopy g => Sys2Proof.Machine.execSlotCopy g s
  | .compactCopy g => Sys2Proof.Machine.execCompactCopy g s
  | .routeRow g row score blocks shOut => Sys2Proof.Machine.execRouteRow g row score blocks shOut s
  | .layerClose g => Sys2Proof.Machine.execLayerClose g s
  | .closeGluEmit g => Sys2Proof.Machine.execCloseGluEmit g s
  | .arenaResume g => Sys2Proof.Machine.execArenaResume g s
  | .mixRun g outs => Sys2Proof.Machine.execMixRun g outs s
  | .luteToken => Sys2Proof.Machine.execLuteToken s
  | .luteClose => Sys2Proof.Machine.execLuteClose s
  | .luteDone writes => Sys2Proof.Machine.execLuteDone writes s
  | .luteEmpty => Sys2Proof.Machine.execLuteEmpty s
  | .submit ch => Sys2Proof.Machine.execSubmit ch s
  | .cancel ch => Sys2Proof.Machine.execCancel ch s
  | .budgetMessage ch => Sys2Proof.Machine.execBudgetMessage ch s
  | .stepPlan g => Sys2Proof.Machine.execStepPlan g s
  | .draftPass g slot blocks => Sys2Proof.Machine.execDraftPass g slot blocks s
  | .sampleRow g slot node blocks => Sys2Proof.Machine.execSampleRow g slot node blocks s
  | .verifyTree g slot => Sys2Proof.Machine.execVerifyTree g slot s
  | .firePoint g => Sys2Proof.Machine.execFirePoint g s
  | .swapOutPage g slot => Sys2Proof.Machine.execSwapOutPage g slot s
  | .swapIn g slot => Sys2Proof.Machine.execSwapIn g slot s
  | .slabRead w offset len ecc => Sys2Proof.Machine.execSlabRead w offset len ecc s
  | .slabWrite w offset data => Sys2Proof.Machine.execSlabWrite w offset data s
  | .slabClear g => Sys2Proof.Machine.execSlabClear g s
  | .fill g rec => Sys2Proof.Machine.execFill g rec s
  | .copy g rec => Sys2Proof.Machine.execCopy g rec s
  | .hload g rec => Sys2Proof.Machine.execHload g rec s
  | .gather g rec => Sys2Proof.Machine.execGather g rec s
  | .load g rec => Sys2Proof.Machine.execLoad g rec s
  | .loadLand d num ecc off => Sys2Proof.Machine.execLoadLand d num ecc off s
  | .loadDemand w b => Sys2Proof.Machine.execLoadDemand w b s
  | .narrowAccess g write addr size data ecc hit => Sys2Proof.Machine.execNarrowAccess g write addr size data ecc hit s
  | .addS32 g rec => Sys2Proof.Machine.execAddS32 g rec s
  | .addS64 g rec => Sys2Proof.Machine.execAddS64 g rec s
  | .addF32 g rec => Sys2Proof.Machine.execAddF32 g rec s
  | .addS32Floor g rec => Sys2Proof.Machine.execAddS32Floor g rec s
  | .hbmPromote st id => Sys2Proof.Machine.execHbmPromote st id s
  | .refreshTick st temp => Sys2Proof.Machine.execRefreshTick st temp s
  | .frameScrub st ok => Sys2Proof.Machine.execFrameScrub st ok s
  | .storeRead ns page fails stripeFails => Sys2Proof.Machine.execStoreRead ns page fails stripeFails s
  | .disturbRelocate ns block => Sys2Proof.Machine.execDisturbRelocate ns block s
  | .chunkPoison addr => Sys2Proof.Machine.execChunkPoison addr s
  | .chunkReload addr => Sys2Proof.Machine.execChunkReload addr s
  | .reloadSourceTimeout addr => Sys2Proof.Machine.execReloadSourceTimeout addr s
  | .streamHeaderCheck sid => Sys2Proof.Machine.execStreamHeaderCheck sid s
  | .blockExpand d => Sys2Proof.Machine.execBlockExpand d s
  | .refetchTimeout sid block => Sys2Proof.Machine.execRefetchTimeout sid block s
  | .blockCompress d => Sys2Proof.Machine.execBlockCompress d s
  | .tallyConfig t cfg => Sys2Proof.Machine.execTallyConfig t cfg s
  | .signal t n blocking agent by_ => Sys2Proof.Machine.execSignal t n blocking agent by_ s
  | .signalUnblock t => Sys2Proof.Machine.execSignalUnblock t s
  | .release t n agent by_ => Sys2Proof.Machine.execRelease t n agent by_ s
  | .wait t target consume agent by_ => Sys2Proof.Machine.execWait t target consume agent by_ s
  | .read t d => Sys2Proof.Machine.execRead t d s
  | .tallyShadowWrite t => Sys2Proof.Machine.execTallyShadowWrite t s
  | .deadlockDetect k => Sys2Proof.Machine.execDeadlockDetect k s
  | .portEnable p => Sys2Proof.Machine.execPortEnable p s
  | .trainingRecord p rec locked => Sys2Proof.Machine.execTrainingRecord p rec locked s
  | .portTrainTimeout p locked => Sys2Proof.Machine.execPortTrainTimeout p locked s
  | .portTrainRetry p => Sys2Proof.Machine.execPortTrainRetry p s
  | .fastRetrain p locked => Sys2Proof.Machine.execFastRetrain p locked s
  | .fastRetrainTimeout p => Sys2Proof.Machine.execFastRetrainTimeout p s
  | .groupErrorExclude p group => Sys2Proof.Machine.execGroupErrorExclude p group s
  | .latticeFlit p seq crcOk vc payload ack grants => Sys2Proof.Machine.execLatticeFlit p seq crcOk vc payload ack grants s
  | .latticeNak p seq => Sys2Proof.Machine.execLatticeNak p seq s
  | .latticeHeartbeatSend p => Sys2Proof.Machine.execLatticeHeartbeatSend p s
  | .linkFrameSend p => Sys2Proof.Machine.execLinkFrameSend p s
  | .latticeLossDetect p => Sys2Proof.Machine.execLatticeLossDetect p s
  | .packetRoute p vc => Sys2Proof.Machine.execPacketRoute p vc s
  | .loss => Sys2Proof.Machine.execLoss s
  | .restore => Sys2Proof.Machine.execRestore s
  | .apexLossWindow coord => Sys2Proof.Machine.execApexLossWindow coord s
  | .timeSync t1 t2 t3 t4 => Sys2Proof.Machine.execTimeSync t1 t2 t3 t4 s
  | .tsyncEdge => Sys2Proof.Machine.execTsyncEdge s
  | .timebaseSecond => Sys2Proof.Machine.execTimebaseSecond s
  | .sliceJoin => Sys2Proof.Machine.execSliceJoin s
  | .sliceAck => Sys2Proof.Machine.execSliceAck s
  | .sliceFormTimeout slice => Sys2Proof.Machine.execSliceFormTimeout slice s
  | .sliceMark => Sys2Proof.Machine.execSliceMark s
  | .sliceStop => Sys2Proof.Machine.execSliceStop s
  | .sliceLeave => Sys2Proof.Machine.execSliceLeave s
  | .streamHdr mig => Sys2Proof.Machine.execStreamHdr mig s
  | .streamBlk => Sys2Proof.Machine.execStreamBlk s
  | .blkReq => Sys2Proof.Machine.execBlkReq s
  | .streamReq => Sys2Proof.Machine.execStreamReq s
  | .chunkReq => Sys2Proof.Machine.execChunkReq s
  | .streamEnd => Sys2Proof.Machine.execStreamEnd s
  | .unreachable => Sys2Proof.Machine.execUnreachable s
  | .pairForm => Sys2Proof.Machine.execPairForm s
  | .luteWrite => Sys2Proof.Machine.execLuteWrite s
  | .luteRead => Sys2Proof.Machine.execLuteRead s
  | .luteReadRsp => Sys2Proof.Machine.execLuteReadRsp s
  | .luteAtomic => Sys2Proof.Machine.execLuteAtomic s
  | .luteAtomicRsp => Sys2Proof.Machine.execLuteAtomicRsp s
  | .luteTally => Sys2Proof.Machine.execLuteTally s
  | .luteMirror => Sys2Proof.Machine.execLuteMirror s
  | .pairStop => Sys2Proof.Machine.execPairStop s
  | .shomuLinkTrain k locked => Sys2Proof.Machine.execShomuLinkTrain k locked s
  | .shomuTrainingRecord k rec => Sys2Proof.Machine.execShomuTrainingRecord k rec s
  | .shomuTrainTimeout k => Sys2Proof.Machine.execShomuTrainTimeout k s
  | .shomuTrainRetry k => Sys2Proof.Machine.execShomuTrainRetry k s
  | .shomuFastRetrain k faulty => Sys2Proof.Machine.execShomuFastRetrain k faulty s
  | .shomuFlit k bytes => Sys2Proof.Machine.execShomuFlit k bytes s
  | .shomuNak k seq => Sys2Proof.Machine.execShomuNak k seq s
  | .credit k grants => Sys2Proof.Machine.execCredit k grants s
  | .frameReceive k => Sys2Proof.Machine.execFrameReceive k s
  | .statusReq ch => Sys2Proof.Machine.execStatusReq ch s
  | .attestReq ch => Sys2Proof.Machine.execAttestReq ch s
  | .keyOffer ch => Sys2Proof.Machine.execKeyOffer ch s
  | .keySlotRetireTimeout ch => Sys2Proof.Machine.execKeySlotRetireTimeout ch s
  | .swapWr ch => Sys2Proof.Machine.execSwapWr ch s
  | .swapRd ch => Sys2Proof.Machine.execSwapRd ch s
  | .swapAck ch => Sys2Proof.Machine.execSwapAck ch s
  | .swapData ch => Sys2Proof.Machine.execSwapData ch s
  | .swapErr ch => Sys2Proof.Machine.execSwapErr ch s
  | .swapTimeout k tag => Sys2Proof.Machine.execSwapTimeout k tag s
  | .shomuHeartbeatSend k => Sys2Proof.Machine.execShomuHeartbeatSend k s
  | .heartbeat k => Sys2Proof.Machine.execHeartbeat k s
  | .shomuLossDetect k => Sys2Proof.Machine.execShomuLossDetect k s
  | .lossRequestEnd g => Sys2Proof.Machine.execLossRequestEnd g s
  | .mgmtHandshake addr keyDigest tlsOk => Sys2Proof.Machine.execMgmtHandshake addr keyDigest tlsOk s
  | .addressRefusalExpire addr => Sys2Proof.Machine.execAddressRefusalExpire addr s
  | .mgmtSessionClose sess => Sys2Proof.Machine.execMgmtSessionClose sess s
  | .getCert m => Sys2Proof.Machine.execGetCert m s
  | .attest m => Sys2Proof.Machine.execAttest m s
  | .attestSnapshot => Sys2Proof.Machine.execAttestSnapshot s
  | .csrRead m => Sys2Proof.Machine.execCsrRead m s
  | .csrWrite m => Sys2Proof.Machine.execCsrWrite m s
  | .stepRead m => Sys2Proof.Machine.execStepRead m s
  | .faultRead m => Sys2Proof.Machine.execFaultRead m s
  | .budget m => Sys2Proof.Machine.execBudget m s
  | .saggerReset m => Sys2Proof.Machine.execSaggerReset m s
  | .saggerClear m => Sys2Proof.Machine.execSaggerClear m s
  | .clearComplete g => Sys2Proof.Machine.execClearComplete g s
  | .imageWrite m => Sys2Proof.Machine.execImageWrite m s
  | .imageCommit m => Sys2Proof.Machine.execImageCommit m s
  | .imageErase m => Sys2Proof.Machine.execImageErase m s
  | .imageLoad m => Sys2Proof.Machine.execImageLoad m s
  | .imageRemove m => Sys2Proof.Machine.execImageRemove m s
  | .fwBegin m => Sys2Proof.Machine.execFwBegin m s
  | .fwData m => Sys2Proof.Machine.execFwData m s
  | .fwCommit m => Sys2Proof.Machine.execFwCommit m s
  | .fwAbort m => Sys2Proof.Machine.execFwAbort m s
  | .sliceForm m => Sys2Proof.Machine.execSliceForm m s
  | .sliceDissolve m => Sys2Proof.Machine.execSliceDissolve m s
  | .migrate m => Sys2Proof.Machine.execMigrate m s
  | .shutdown m env => Sys2Proof.Machine.execShutdown m env s
  | .bistConditionCheck refclkPpm railsOk => Sys2Proof.Machine.execBistConditionCheck refclkPpm railsOk s
  | .resetRelease env => Sys2Proof.Machine.execResetRelease env s
  | .coneMeasure env => Sys2Proof.Machine.execConeMeasure env s
  | .bisqueEntry reason => Sys2Proof.Machine.execBisqueEntry reason s
  | .faultLogEnter => Sys2Proof.Machine.execFaultLogEnter s
  | .saggerResetSequence g refFails => Sys2Proof.Machine.execSaggerResetSequence g refFails s
  | .setterProbe g answers => Sys2Proof.Machine.execSetterProbe g answers s
  | .setterProbeTimeout g => Sys2Proof.Machine.execSetterProbeTimeout g s
  | .trip junction stack refclkPpm => Sys2Proof.Machine.execTrip junction stack refclkPpm s
  | .resetAssert => Sys2Proof.Machine.execResetAssert s
  | .inputLockout => Sys2Proof.Machine.execInputLockout s
  | .inputReturn env => Sys2Proof.Machine.execInputReturn env s
  | .moduleInsert => Sys2Proof.Machine.execModuleInsert s
  | .linkFrameReceive p frame => Sys2Proof.Machine.execLinkFrameReceive p frame s
  | .managementLinkChange up addr => Sys2Proof.Machine.execManagementLinkChange up addr s
  | .refclkPpmUpdate ppm => Sys2Proof.Machine.execRefclkPpmUpdate ppm s

end Sys2Proof.Machine
end

