-- ==== Sys2Proof/Safety.lean ====
section
/-! DEFINITION. What the whole-machine claims speak of: the canonical form of a state, and what no command takes back. -/

namespace Sys2Proof

/-- The commands that start the module or take its power or its reset line away; only they may lower a cone setting. -/
def Instr.powers : Instr → Bool
  | .resetRelease _ | .trip .. | .resetAssert | .inputLockout | .inputReturn _ => true
  | _ => false

end Sys2Proof

namespace Sys2Proof.Machine

/-! ## Frames -/

/-- The parts of the state, one for each field of `State`. -/
inductive Field where
  | pending | regs | freeCtr | mem | power | boot | health | fuses | plan | tb | flog | saggers | wheels
  | wares | ldus | ssus | tallies | tallyOut | houseProgress | houseArmed | snaps | hbmStacks | store
  | poison | glazes | ports | lat | lute | links | chans | swaps | nextTag | mgmt | cones | lastMeas
  deriving DecidableEq, Repr

/-- A part has the same value in both states. -/
def Field.Same (s t : State) : Field → Prop
  | .pending => t.pending = s.pending
  | .regs => t.regs = s.regs
  | .freeCtr => t.freeCtr = s.freeCtr
  | .mem => t.mem = s.mem
  | .power => t.power = s.power
  | .boot => t.boot = s.boot
  | .health => t.health = s.health
  | .fuses => t.fuses = s.fuses
  | .plan => t.plan = s.plan
  | .tb => t.tb = s.tb
  | .flog => t.flog = s.flog
  | .saggers => t.saggers = s.saggers
  | .wheels => t.wheels = s.wheels
  | .wares => t.wares = s.wares
  | .ldus => t.ldus = s.ldus
  | .ssus => t.ssus = s.ssus
  | .tallies => t.tallies = s.tallies
  | .tallyOut => t.tallyOut = s.tallyOut
  | .houseProgress => t.houseProgress = s.houseProgress
  | .houseArmed => t.houseArmed = s.houseArmed
  | .snaps => t.snaps = s.snaps
  | .hbmStacks => t.hbmStacks = s.hbmStacks
  | .store => t.store = s.store
  | .poison => t.poison = s.poison
  | .glazes => t.glazes = s.glazes
  | .ports => t.ports = s.ports
  | .lat => t.lat = s.lat
  | .lute => t.lute = s.lute
  | .links => t.links = s.links
  | .chans => t.chans = s.chans
  | .swaps => t.swaps = s.swaps
  | .nextTag => t.nextTag = s.nextTag
  | .mgmt => t.mgmt = s.mgmt
  | .cones => t.cones = s.cones
  | .lastMeas => t.lastMeas = s.lastMeas

/-- Of the parts of the state only those of `ps` may differ. -/
def Only (ps : List Field) (s t : State) : Prop := ∀ p, p ∉ ps → p.Same s t

/-- Of the stored registers only those of `l` may differ. -/
def RegsOnly (l : List (Reg × Nat)) (s t : State) : Prop := ∀ r u, (r, u) ∉ l → t.reg r u = s.reg r u

/-- Of the units that `f` reads only those of `us` may differ: saggers, wheels, ports and the like. -/
def Others {α : Type} (f : State → Nat → α) (us : List Nat) (s t : State) : Prop := ∀ u, u ∉ us → f t u = f s u

/-- Outside the `n` bytes at `a` the memory `m'` reads as `m` did. -/
def Outside (a n : Nat) (m m' : Mem) : Prop := ∀ x, x < a ∨ a + n ≤ x → mget m' x = mget m x

/-- The `n` bytes at `a` and the `m` bytes at `b` do not meet. -/
def Apart (a n b m : Nat) : Prop := a + n ≤ b ∨ b + m ≤ a

/-- Exactly one record more has been detected, with code `c`; the log itself is as before. -/
def Detects (c : BitVec 16) (s t : State) : Prop :=
  t.flog.detected.map (·.code) = s.flog.detected.map (·.code) ++ [c] ∧ t.flog = { s.flog with detected := t.flog.detected }

/-! ## Management commands -/

/-- The session of a command is open, and the command passes the checks that all of them share (R418 to R421). -/
def Admits (r : MgmtRule) (m : MgmtArgs) (s : State) : Prop := (s.session m.sess.val).open_ = true ∧ s.mgmtGate r m = none

/-- The sender's session has exactly this response more, and no other session has changed. -/
def Answers (m : MgmtArgs) (cmd status : Nat) (payload : List Byte) (s t : State) : Prop :=
  (t.session m.sess.val).resp = (s.session m.sess.val).resp ++ [⟨32768 + cmd, m.tag, status, payload⟩] ∧ Others State.session [m.sess.val] s t

/-- Of the stored registers only MGT_CMDS and MGT_DENIED may differ. -/
def CountsOnly (s t : State) : Prop := RegsOnly [(.mgtCmds, 0), (.mgtDenied, 0)] s t

/-! ## Whole-machine rules -/

/-- The state keeps its canonical form: every memory lists rising addresses and no zero byte, and the fault ring holds at
most the 4,096 records of R463. -/
structure Canon (s : State) : Prop where
  hbm   : Memory.wf s.mem.hbm = true
  slab  : Memory.wf s.mem.slab = true
  ware  : Memory.wf s.mem.ware = true
  store : Memory.wf s.mem.store = true
  flash : Memory.wf s.mem.flash = true
  map   : Memory.wf s.health.map = true
  ring  : s.flog.ring.length ≤ 4096

/-- No cone setting of `t` is below that of `s` (R455): V_FLOOR of each die and the code of each of its 32 delay classes. -/
def ConesRise (s t : State) : Prop :=
  ∀ d, (s.cone d).vfloor ≤ (t.cone d).vfloor ∧ ∀ k < 32, (s.cone d).codes.getD k 0 ≤ (t.cone d).codes.getD k 0

/-- What every command keeps on its way from `s` to `t`: the canonical form, the queue of waiting commands, draws of free
values that are never repeated, the fuses (R427, R433), the count of boots and the highest accepted PLAN_SEQ (R433, R434);
and, of a command that does not start or stop the module (`serving`), the cone settings (R455) and the REFCLK timer, which
only a period of its own advances (log entry 2). -/
structure Keeps (serving : Bool) (s t : State) : Prop where
  canon   : Canon s → Canon t
  pending : t.pending = s.pending
  freeCtr : s.freeCtr ≤ t.freeCtr
  svn     : s.fuses.svnMin ≤ t.fuses.svnMin
  owner   : s.fuses.ownerSet = true → t.fuses.ownerSet = true ∧ t.fuses.owner = s.fuses.owner
  boots   : s.health.boots ≤ t.health.boots
  maxSeq  : s.health.maxSeq ≤ t.health.maxSeq
  cones   : serving = true → ConesRise s t
  time    : serving = true → t.tb.ref = s.tb.ref

/-- `Keeps` for the next state of an outcome; a refused command has none. -/
def KeepsNext (serving : Bool) (s : State) : Host.Outcome State Fault Refusal → Prop
  | .next t => Keeps serving s t
  | _ => True

end Sys2Proof.Machine
end

