-- ==== Sys2Proof/WellFormed.lean ====
section
/-! DEFINITION. Well-formed commands: the operands that make a constructor of `Instr` one of the spec's commands.

A record or message that a rule rejects is well formed: rejecting it is the command's effect.  Ill-formed are operands that
no command of the row has; log entry 3 says which. -/

namespace Sys2Proof

/-- The 4-bit OP of an operation record (R281, R298): a legal OP must be the command's own. -/
def ownOp (op rec : Nat) : Bool := rec % 16 == op || rec % 16 == 0 || 4 < rec % 16

/-- Bytes of a slab (R275). -/
def slabSize : Nat := 2621440

/-- The operands are those of a command. -/
def Instr.wf : Instr → Bool
  -- a slab access stays in the slab and moves at least one byte (R275)
  | .slabRead _ offset len _ => 0 < len && offset.toNat + len ≤ slabSize
  | .slabWrite _ offset data => 0 < data.length && offset.toNat + data.length ≤ slabSize
  -- the record carries the OP of the command (R281, R298)
  | .fill _ rec => ownOp 1 rec.toNat
  | .copy _ rec => ownOp 2 rec.toNat
  | .hload _ rec => ownOp 3 rec.toNat
  | .gather _ rec => ownOp 4 rec.toNat
  | .addS32 _ rec => ownOp 1 rec.toNat
  | .addS64 _ rec => ownOp 2 rec.toNat
  | .addF32 _ rec => ownOp 3 rec.toNat
  | .addS32Floor _ rec => ownOp 4 rec.toNat
  -- a write carries its data (R297)
  | .narrowAccess _ write _ size data _ _ => !write || data.length == size
  -- a signal or release counts at least one (R335)
  | .signal _ n _ _ _ => n != 0
  | .release _ n _ _ => n != 0
  -- a flit carries whole 16-byte units, at most 256 B (R349)
  | .latticeFlit _ _ _ _ payload _ _ => payload.length ≤ 256 && payload.length % 16 == 0
  -- a Shomu flit has 256 B, and a CREDIT flit at most 31 grants (R385, R386)
  | .shomuFlit _ bytes => bytes.length == 256
  | .credit _ grants => grants.length ≤ 31
  -- reasons of R456
  | .bisqueEntry reason => reason != 0 && reason.toNat ≤ 6
  | _ => true

end Sys2Proof
end

