-- ==== Sys2Proof/Certificates/Slice0/Obligations.lean ====
section
/-! DEFINITION. The statements for the provers.  Each docstring says what is stated and the rules of spec/ that it follows. -/

open Sys2Proof Sys2Proof.Machine

/-- For every command c, queue rest and state s: step of s with c in front of rest is exec of c on s with the queue
rest. (log entry 2, spec/00_scope.md) -/
def Obligations.StepRunsFrontCommand : Prop :=
  ∀ (c : Instr) (rest : List Instr) (s : State),
    step { s with pending := c :: rest } = exec c { s with pending := rest }

/-- With an empty queue, step answers a next state with an empty queue. While the firmware runs, the REFCLK timer is
10 ns on and no cone setting, fuse, count of boots or PLAN_SEQ has fallen; before that the state is unchanged. The
model's choice (log entry 2): a step on an empty queue is one period of the 100 MHz REFCLK, and no command takes time.
(spec/01_module_at_work.md, log entry 2) -/
def Obligations.EmptyQueueStepIsOneTick : Prop :=
  ∀ s : State, s.pending = [] → ∃ t, step s = .next t ∧ t.pending = [] ∧
    (s.firmwareUp = true → t.tb.ref = s.tb.ref + 10 ∧ Keeps true (s.onTb Timebase.advance) t) ∧
    (s.firmwareUp = false → t = s)

/-- For every command and every state, well-formed or not: if exec answers a next state t, then t's memories keep
their canonical form and the fault ring its bound of 4,096 records if s had them; the queue is unchanged; no fuse is
cleared, OWNER_SET once set keeps its owner and the fused SVN minimum never falls; the count of boots and the highest
accepted PLAN_SEQ never fall; no draw of a free value is repeated; and, for a command that does not start the module
or take its power or reset line away, no delay code and no V_FLOOR falls. (R427, R433, R434, R455, R463, R446) -/
def Obligations.EveryCommandKeepsTheModule : Prop :=
  ∀ (c : Instr) (s t : State), exec c s = .next t → Keeps (!c.powers) s t

/-- From every state whose memories are in canonical form (rising addresses, no zero byte listed) and whose fault ring
holds at most 4,096 records, a step that answers a next state leaves them so, whether it runs a command or a tick.
(R463, R446, spec/00_scope.md) -/
def Obligations.EveryStepKeepsCanonicalForm : Prop :=
  ∀ s t : State, Canon s → step s = .next t → Canon t

/-- State.reset has every memory in canonical form, an empty fault ring and no waiting command. (R463,
spec/15_boot_and_health.md) -/
def Obligations.ResetStateIsCanonical : Prop :=
  Canon State.reset ∧ State.reset.pending = [] ∧ State.reset.flog.ring = []

/-- exec refuses a command exactly when its operands are not those of a command of its row (Instr.wf, log entry 3),
and never answers a fault: every well-formed command answers a next state in every state. (log entry 3, R5, R275,
R281) -/
def Obligations.IllFormedCommandsAreRefused : Prop :=
  (∀ (c : Instr) (s : State), c.wf = true → ∃ t, exec c s = .next t) ∧
  (∀ (c : Instr) (s : State), c.wf = false → ∃ m, exec c s = .refused (.illFormed m))

/-- While the firmware runs: REPLICA_COUNT_WINDOW adds the two counts of one 100 µs window; and BEAT_FACTOR_UPDATE
with at least one window, whose smaller sum of counts is not 0, writes CON_BEAT_FACTOR with (windows × 100,000 ×
4,096) / (smaller sum), when that fits 16 bits, and empties the windows; otherwise the register takes a free 16-bit
value. Every other stored register stays. The reading of a count as lane beats is log entry 12. While the firmware
runs, VOLTAGE_SELECT answers a next state in which each core rail has moved by at most 1 mV, and moves up only below,
and down only above, the target of its die. Outside bisque mode the target is at most the larger of the ceiling and
the die's floor; in bisque mode it is the floor. Only the power state, and on entry to the throttle state its record,
its count and the record's containment, change. While the firmware runs, THROTTLE_TICK answers a next state. In the
throttle state with fraction f sixteenths: F falls by one to a floor of 2/16 while the power is above the cap or a
junction above 95 °C, else it rises by one and the state is left when it reaches 16/16. Outside it, the state is
entered with F = 15/16 exactly when a limit is passed and a rail is at its floor; that entry raises one record of
class 0x1, block 0x0, detail 0x3D and counts in CON_THROTTLE. (R18, log entry 12, R19, R20, R457) -/
def Obligations.BeatFactorRailsAndThrottle : Prop :=
  ((∀ n0 n1 s, s.firmwareUp = true → ∃ t, exec (.replicaCountWindow n0 n1) s = .next t ∧
    t.power.replica = s.power.replica ++ [(n0, n1)] ∧ Only [.power] s t) ∧
  (∀ s, s.firmwareUp = true → s.power.replica ≠ [] → ∃ t, exec .beatFactorUpdate s = .next t ∧
    t.power.replica = [] ∧ Only [.power, .regs, .freeCtr] s t ∧ RegsOnly [(.conBeatFactor, 0)] s t ∧
    t.reg .conBeatFactor 0 < 2 ^ 16 ∧
    ∀ n, n = min ((s.power.replica.map (·.1)).sum) ((s.power.replica.map (·.2)).sum) → n ≠ 0 →
      s.power.replica.length * 409600000 / n < 2 ^ 16 →
      t.reg .conBeatFactor 0 = s.power.replica.length * 409600000 / n)) ∧
  (∀ power tj0 tj1 hi0 hi1 s, s.firmwareUp = true → ∃ t, exec (.voltageSelect power tj0 tj1 hi0 hi1) s = .next t ∧
    (t.power.rail0 ≤ s.power.rail0 + 1 ∧ s.power.rail0 ≤ t.power.rail0 + 1) ∧
    (t.power.rail1 ≤ s.power.rail1 + 1 ∧ s.power.rail1 ≤ t.power.rail1 + 1) ∧
    (s.power.rail0 < t.power.rail0 → t.power.rail0 ≤ s.railTarget 0 hi0) ∧
    (t.power.rail0 < s.power.rail0 → s.railTarget 0 hi0 ≤ t.power.rail0) ∧
    (s.power.rail1 < t.power.rail1 → t.power.rail1 ≤ s.railTarget 1 hi1) ∧
    (t.power.rail1 < s.power.rail1 → s.railTarget 1 hi1 ≤ t.power.rail1) ∧
    (∀ d hi, s.railTarget d hi ≤ max (s.railFloor d) s.device.vceil) ∧
    (s.boot.bisque = true → ∀ d hi, s.railTarget d hi = s.railFloor d) ∧
    Only [.power, .regs, .flog] s t ∧ RegsOnly [(.conThrottle, 0)] s t) ∧
  ((∀ power tj0 tj1 s f, s.firmwareUp = true → s.power.throttle = some f →
    ∃ t, exec (.throttleTick power tj0 tj1) s = .next t ∧ Only [.power] s t ∧
      (s.overLimit power tj0 tj1 = true → t.power.throttle = some (max 2 (f - 1))) ∧
      (s.overLimit power tj0 tj1 = false → t.power.throttle = if f + 1 < 16 then some (f + 1) else none)) ∧
  (∀ power tj0 tj1 s, s.firmwareUp = true → s.power.throttle = none →
    ∃ t, exec (.throttleTick power tj0 tj1) s = .next t ∧
      (t.power.throttle = some 15 ↔ s.overLimit power tj0 tj1 = true ∧ s.atFloor = true) ∧
      (t.power.throttle = none ∨ t.power.throttle = some 15) ∧
      (t.power.throttle = some 15 →
        t.reg .conThrottle 0 = min (s.reg .conThrottle 0 + 1) (2 ^ 32 - 1) ∧
        t.flog.detected.map (·.code) = s.flog.detected.map (·.code) ++ [0x103D#16])) ∧
  (∀ (s : State) power tj0 tj1, s.overLimit power tj0 tj1 = true ↔
    power > min s.device.powerCap 1500 ∨ tj0 > 95 ∨ tj1 > 95))

/-- In a serving sagger with a work list, LIST_WRITE with room in the ring and no entry waiting writes the 32 bytes of
the entry at its place, the producer count rises by one, and every other byte of HBM stays; without room, or behind a
waiting entry, the entry waits and memory stays. A TILE entry at the head whose checks pass, with a taker: one buffer
of that wheel goes to FILL with the entry's fields, the entry is counted as taken, and no other wheel changes. When a
check fails with detail d: no wheel changes, the list halts and one record 0x31dd of class 0x3 is detected. A fence at
the head passes exactly when its tally has reached TARGET: it is then counted as taken and no wheel changes; before
that nothing changes. (R85, R80, R86, R90, R93) -/
def Obligations.EntriesAreListedTakenOrRejectedWhole : Prop :=
  (∀ (g : SaggerIx) (e : BitVec 256) (s : State), (s.sagger g.val).st = .serving → s.listSize g.val ≠ 0 →
    ((s.sagger g.val).listWait = [] → (s.sagger g.val).list.used < s.listSize g.val →
      ∃ t, exec (.listWrite g e) s = .next t ∧ t.hbmNum (s.listAddr g.val (s.sagger g.val).list.prod) 32 = e.toNat ∧
        t.sagger g.val = { s.sagger g.val with list := { (s.sagger g.val).list with prod := (s.sagger g.val).list.prod + 1 } } ∧
        t.mem = { s.mem with hbm := t.mem.hbm } ∧
        Outside (s.listAddr g.val (s.sagger g.val).list.prod) 32 s.mem.hbm t.mem.hbm ∧
        Only [.mem, .regs, .saggers] s t ∧ Others State.sagger [g.val] s t ∧
        RegsOnly [(.hbmWrBytes, stackOfAddr (s.listAddr g.val (s.sagger g.val).list.prod))] s t) ∧
    ((s.sagger g.val).listWait ≠ [] ∨ s.listSize g.val ≤ (s.sagger g.val).list.used →
      ∃ t, exec (.listWrite g e) s = .next t ∧ Only [.saggers] s t ∧ Others State.sagger [g.val] s t ∧
        t.sagger g.val = { s.sagger g.val with listWait := (s.sagger g.val).listWait ++ [e] })) ∧
  ((∀ (g : SaggerIx) (s : State) w, (s.sagger g.val).st = .serving → (s.sagger g.val).listHalt = false →
    (s.sagger g.val).list.used ≠ 0 → entryKind (s.listHead g.val) = 1 → s.takerOf g.val (s.listHead g.val) = some w →
    (s.intakeBad g.val (s.listHead g.val) = none →
      (s.sagger g.val).mixes (s.layer g.val (entryOf (s.listHead g.val)).layer).inFmt = false →
      ∃ t, exec (.entryTake g) s = .next t ∧ (t.sagger g.val).list.cons = (s.sagger g.val).list.cons + 1 ∧
        ((t.wheel w).buf (s.wheel w).freeBuf).st = .fill ∧
        ((t.wheel w).buf (s.wheel w).freeBuf).entry = entryOf (s.listHead g.val) ∧
        (t.wheel w).buf (1 - (s.wheel w).freeBuf) = (s.wheel w).buf (1 - (s.wheel w).freeBuf) ∧
        Only [.saggers, .wheels, .mem, .regs] s t ∧ Others State.wheel [w] s t ∧ Others State.sagger [g.val, s.wheelOwner w] s t) ∧
    (∀ d, s.intakeBad g.val (s.listHead g.val) = some d →
      ∃ t, exec (.entryTake g) s = .next t ∧ (t.sagger g.val).listHalt = true ∧ Detects (faultCode 3 1 d) s t ∧
        Only [.saggers, .mem, .regs, .flog, .lute] s t ∧ Others State.sagger [g.val, s.wheelOwner w] s t)) ∧
  (∀ (g : SaggerIx) (s : State) k, k = tallyKey g.val (entryTally (s.listHead g.val)) →
    (s.sagger g.val).st = .serving → (s.sagger g.val).listHalt = false →
    (s.sagger g.val).list.used ≠ 0 → entryKind (s.listHead g.val) = 2 → fenceBad (s.listHead g.val) = false →
    (s.tally k).waitBad (fenceTarget (s.listHead g.val)) true = false → s.homeHere k = true →
    (reached (s.tally k).prod (fenceTarget (s.listHead g.val)) = true →
      ∃ t, exec (.fencePass g) s = .next t ∧ (t.sagger g.val).list.cons = (s.sagger g.val).list.cons + 1 ∧
        t.tally k = { s.tally k with cons := consumeTo (s.tally k).cons (fenceTarget (s.listHead g.val)) } ∧
        Only [.saggers, .tallies, .mem, .regs] s t ∧ Others State.tally [k] s t ∧ Others State.sagger [g.val] s t) ∧
    (reached (s.tally k).prod (fenceTarget (s.listHead g.val)) = false → exec (.fencePass g) s = .next s)))

/-- At a NOP entry with every field other than KIND at zero, in a serving sagger whose list has not halted, ENTRY_TAKE
counts the entry as taken; no wheel and no tally changes, and no byte of memory when no entry waits for room in the
ring. (R91) -/
def Obligations.NopEntriesOnlyCount : Prop :=
  ∀ (g : SaggerIx) (s : State), (s.sagger g.val).st = .serving → (s.sagger g.val).listHalt = false →
    (s.sagger g.val).list.used ≠ 0 → s.listHead g.val = 3 →
    ∃ t, exec (.entryTake g) s = .next t ∧ (t.sagger g.val).list.cons = (s.sagger g.val).list.cons + 1 ∧
      Only [.saggers, .mem, .regs] s t ∧ Others State.sagger [g.val] s t ∧
      ((s.sagger g.val).listWait = [] → Only [.saggers, .regs] s t)

/-- A buffer in FILL whose tile has landed: with no poison and no failing check it becomes READY with the decoded tile
and its entry unchanged; with a poisoned unit it goes to DRAIN with its jobs dropped; with a failing fill check d it
is FREE again, the list halts and one record 0x31dd is detected. No memory and no other wheel changes. ENTRY_JOIN
moves a READY or RUN buffer whose jobs have all ended to DRAIN and changes no other buffer, wheel or memory. (R66,
R80, R93, R133) -/
def Obligations.TileFillsAndEntryStates : Prop :=
  (∀ (w : WheelIx) (b : BufIx) (s : State) x, x = (s.wheel w.val).buf b.val → x.st = .fill → s.holdsLanded x = true →
    (s.holdsPoisoned x = false → s.fillBad x.sagger x.entry (s.tileData x.entry) = none →
      tileBad x.entry.wfmt false (s.tileData x.entry) x.entry.tileLen = none →
      ∃ t, exec (.tileFillDone w b) s = .next t ∧ ((t.wheel w.val).buf b.val).st = .ready ∧
        ((t.wheel w.val).buf b.val).tile = tileRows x.entry.wfmt (s.tileData x.entry) ∧
        ((t.wheel w.val).buf b.val).entry = x.entry ∧
        (t.wheel w.val).buf (1 - b.val) = (s.wheel w.val).buf (1 - b.val) ∧
        Only [.wheels, .saggers, .regs, .flog] s t ∧ Others State.wheel [w.val] s t ∧ Others State.sagger [x.sagger] s t) ∧
    (s.holdsPoisoned x = true →
      ∃ t, exec (.tileFillDone w b) s = .next t ∧ ((t.wheel w.val).buf b.val).st = .drain ∧
        ((t.wheel w.val).buf b.val).poisoned = true ∧ ((t.wheel w.val).buf b.val).jobs = [] ∧
        Only [.wheels, .saggers, .flog] s t ∧ Others State.wheel [w.val] s t) ∧
    (∀ d, s.holdsPoisoned x = false → s.fillBad x.sagger x.entry (s.tileData x.entry) = some d →
      ∃ t, exec (.tileFillDone w b) s = .next t ∧ (t.wheel w.val).buf b.val = {} ∧ (t.sagger x.sagger).listHalt = true ∧
        Detects (faultCode 3 1 d) s t ∧ Only [.wheels, .saggers, .flog, .lute] s t ∧ Others State.wheel [w.val] s t)) ∧
  (∀ (w : WheelIx) (b : BufIx) (s : State) x, x = (s.wheel w.val).buf b.val → (x.st = .ready ∨ x.st = .run) →
    (∀ j ∈ x.jobs, j.live = false) → (s.wheel w.val).saving = none →
    ∃ t, exec (.entryJoin w b) s = .next t ∧ (t.wheel w.val).buf b.val = { x with st := .drain } ∧
      (t.wheel w.val).buf (1 - b.val) = (s.wheel w.val).buf (1 - b.val) ∧
      Only [.wheels, .saggers, .regs, .freeCtr] s t ∧ Others State.wheel [w.val] s t ∧
      RegsOnly [(.whlBeats, w.val), (.whlIdleLaneBeats, w.val)] s t)

/-- A free lane with a job to take (the older entry's first, R79) and a free merge slot if the job opens one:
LANE_TAKE_JOB puts exactly that job on the lane, with the exact sums of its terms in the long registers, and the
buffer runs. JOB_END on a lane with a job of a running buffer frees the lane. For an unsplit job whose four rounded
results fit 32 bits, it stages the four values under their token and columns; one that does not fit, at a shift below
31, re-fires the entry: its shift rises by one and its staged values go. No memory and no other wheel changes. (R69,
R79, R98, R107, R108) -/
def Obligations.LanesRunAndEndJobs : Prop :=
  (∀ (w : WheelIx) (lane : LaneIx) (s : State) b i j, (s.wheel w.val).laneJob lane.val = some (b, i) →
    ((s.wheel w.val).buf b).jobs[i]? = some j →
    ((s.wheel w.val).lane lane.val).job = none → (s.wheel w.val).saving = none → ((s.wheel w.val).buf b).mayStart j = true →
    ∃ t, exec (.laneTakeJob w lane) s = .next t ∧ ((t.wheel w.val).lane lane.val).job = some (b, i) ∧
      ((t.wheel w.val).buf b).jobs[i]? = some { j with st := .running lane.val } ∧ ((t.wheel w.val).buf b).st = .run ∧
      ((t.wheel w.val).lane lane.val).lreg = (List.range 4).map (fun o =>
        jobSum ((s.wheel w.val).buf b).entry.dMode (((s.wheel w.val).buf b).tile.getD (4 * j.quarter + o) [])
          (((s.wheel w.val).buf b).blocks.getD j.tok []) (blockBase (((s.wheel w.val).buf b).blocks.getD j.tok [])) j.lo j.hi) ∧
      Only [.wheels, .saggers] s t ∧ Others State.wheel [w.val] s t ∧ Others (fun x l => (x.wheel w.val).lane l) [lane.val] s t) ∧
  (∀ (w : WheelIx) (lane : LaneIx) (s : State) b i j x, b < 2 → ((s.wheel w.val).lane lane.val).job = some (b, i) →
    x = (s.wheel w.val).buf b → x.jobs[i]? = some j → j.splits ≤ 1 → (s.wheel w.val).saving = none → x.st = .run →
    ∀ ps, ps = convert (s.layer x.sagger x.entry.layer).pbase x.s
        (((s.wheel w.val).lane lane.val).results (s.layer x.sagger x.entry.layer).pbase) →
    ((∀ p ∈ ps, p.natAbs ≤ p32Max) →
      ∃ t, exec (.jobEnd w lane) s = .next t ∧ (t.wheel w.val).lane lane.val = {} ∧
        ((t.wheel w.val).buf b).staged = x.staged ++ (List.range 4).map (fun o => (j.tok, 4 * j.quarter + o, ps.getD o 0)) ∧
        Only [.wheels, .saggers, .regs] s t ∧ Others State.wheel [w.val] s t) ∧
    ((∃ p ∈ ps, p32Max < p.natAbs) → x.s < 31 →
      ∃ t, exec (.jobEnd w lane) s = .next t ∧ (t.wheel w.val).lane lane.val = {} ∧
        ((t.wheel w.val).buf b).staged = [] ∧ ((t.wheel w.val).buf b).s = x.s + 1 ∧
        t.reg .sgrAccRefire x.sagger = min (s.reg .sgrAccRefire x.sagger + 1) (2 ^ 32 - 1) ∧
        Only [.wheels, .saggers, .regs] s t ∧ Others State.wheel [w.val] s t))

/-- ENTRY_DRAIN takes the older entry's buffer in DRAIN. When its tile is poisoned, or its region and the combines
that fall to it are written without a failing check, the buffer is FREE, the other buffer is the older one, and the
entry's tally, when it is in use and its home is here, has advanced by 1. A poisoned tile changes no memory; otherwise
only slab memory changes. A failing check d halts the list with a record 0x31dd. (R80, R81, R83, R104, R111) -/
def Obligations.DrainFreesTheBufferAndAdvancesItsTally : Prop :=
  ∀ (w : WheelIx) (s : State) b x, b = (s.wheel w.val).older → b < 2 → x = (s.wheel w.val).buf b → x.st = .drain →
    (s.sagger x.sagger).listHalt = false → x.sagger < 12 → x.entry.tally < 4096 →
    (x.poisoned = true →
      ∃ t, exec (.entryDrain w) s = .next t ∧ (t.wheel w.val).buf b = {} ∧ (t.wheel w.val).older = 1 - b ∧
        ((s.tally (tallyKey x.sagger x.entry.tally)).mode ≠ 0 → s.homeHere (tallyKey x.sagger x.entry.tally) = true →
          (t.tally (tallyKey x.sagger x.entry.tally)).prod = (s.tally (tallyKey x.sagger x.entry.tally)).prod + 1) ∧
        Only [.wheels, .saggers, .regs, .tallies, .flog, .lute] s t ∧ Others State.wheel [w.val] s t) ∧
    (∀ d, x.poisoned = false →
      ((s.drainOf w.val b).writeOwn x.stagedRows).finish (s.reg .sgrAccCtl x.sagger) (s.layer x.sagger x.entry.layer)
        ((s.layer x.sagger x.entry.layer).residual.map fun r => (r, s.layer x.sagger r)) = .ok d →
      ∃ t, exec (.entryDrain w) s = .next t ∧ (t.wheel w.val).buf b = {} ∧ (t.wheel w.val).older = 1 - b ∧
        ((s.tally (tallyKey x.sagger x.entry.tally)).mode ≠ 0 → s.homeHere (tallyKey x.sagger x.entry.tally) = true →
          (t.tally (tallyKey x.sagger x.entry.tally)).prod = (s.tally (tallyKey x.sagger x.entry.tally)).prod + 1) ∧
        t.mem = { s.mem with slab := d.mem.slab, valid := d.mem.valid } ∧
        Only [.mem, .wheels, .saggers, .regs, .tallies, .flog, .lute] s t ∧ Others State.wheel [w.val] s t) ∧
    (∀ e, x.poisoned = false →
      ((s.drainOf w.val b).writeOwn x.stagedRows).finish (s.reg .sgrAccCtl x.sagger) (s.layer x.sagger x.entry.layer)
        ((s.layer x.sagger x.entry.layer).residual.map fun r => (r, s.layer x.sagger r)) = .error e →
      ∃ t, exec (.entryDrain w) s = .next t ∧ (t.sagger x.sagger).listHalt = true ∧ Detects (faultCode 3 1 e) s t ∧
        Only [.mem, .saggers, .flog, .lute] s t)

/-- SUSPEND of a wheel with no context, at an address in the wheel's own slab aligned to 64 B with the 40,960 B area
inside the slab, starts saving; a failing one changes no wheel and raises 0x3156. Once neither buffer fills or drains,
SUSPEND_DONE holds both buffers and the lanes as the saved context, the 40,960 bytes at the save address hold its
bytes, and no other byte of memory changes, and both buffers are FREE. RESUME of a suspended wheel starts the restore;
any other raises 0x3157 and changes no wheel. With both buffers FREE, and the saved tiles landed and not poisoned,
RESTORE_CONTEXT of a wheel that received no cancellation meanwhile puts the saved buffers and lanes back. (R126, R127,
R128, R129) -/
def Obligations.SuspensionSavesAndRestoresAWheel : Prop :=
  (∀ (w : WheelIx) (a : BitVec 32) (s : State), (s.wheel w.val).ctx = none → (s.wheel w.val).saving = none →
    (nbits a.toNat 30 2 = 0 → slabWheel a.toNat = w.val → slabOff a.toNat % 64 = 0 → slabOff a.toNat + 40960 ≤ slabBytes →
      ∃ t, exec (.suspend w a) s = .next t ∧ t.wheel w.val = { s.wheel w.val with saving := some a } ∧
        Only [.wheels, .saggers] s t ∧ Others State.wheel [w.val] s t) ∧
    (nbits a.toNat 30 2 ≠ 0 ∨ slabWheel a.toNat ≠ w.val ∨ slabOff a.toNat % 64 ≠ 0 ∨ slabBytes < slabOff a.toNat + 40960 →
      ∃ t, exec (.suspend w a) s = .next t ∧ Detects 0x3156#16 s t ∧ Only [.saggers, .flog, .lute] s t)) ∧
  (∀ (w : WheelIx) (s : State) a, (s.wheel w.val).saving = some a → (s.wheel w.val).settled = true →
    ∃ t, exec (.suspendDone w) s = .next t ∧ (t.wheel w.val).buf0 = {} ∧ (t.wheel w.val).buf1 = {} ∧
      (t.wheel w.val).saving = none ∧
      (t.wheel w.val).ctx = some ⟨a, (s.wheel w.val).buf0, (s.wheel w.val).buf1,
        (s.wheel w.val).older, (s.wheel w.val).lanes⟩ ∧
      t.slab a.toNat 40960 = ((s.wheel w.val).context a).bytes s.freeCtr ∧
      Outside (slabIx a.toNat) 40960 s.mem.slab t.mem.slab ∧ t.mem = { s.mem with slab := t.mem.slab, valid := t.mem.valid } ∧
      Only [.wheels, .saggers, .regs, .mem, .freeCtr] s t ∧ Others State.wheel [w.val] s t ∧
      RegsOnly [(.whlCtxCount, w.val)] s t) ∧
  (∀ (w : WheelIx) (s : State),
    ((s.wheel w.val).ctx.isSome = true →
      ∃ t, exec (.resume w) s = .next t ∧ t.wheel w.val = { s.wheel w.val with restoring := true } ∧
        Only [.wheels, .saggers] s t ∧ Others State.wheel [w.val] s t) ∧
    ((s.wheel w.val).ctx = none →
      ∃ t, exec (.resume w) s = .next t ∧ Detects 0x3157#16 s t ∧ Only [.saggers, .flog, .lute] s t)) ∧
  (∀ (w : WheelIx) (s : State) c, (s.wheel w.val).ctx = some c → (s.wheel w.val).restoring = true →
    (s.wheel w.val).buf0.st = .free → (s.wheel w.val).buf1.st = .free → (s.wheel w.val).cancelled = [] →
    s.holdsLanded c.buf0 = true → s.holdsLanded c.buf1 = true → s.holdsPoisoned c.buf0 = false → s.holdsPoisoned c.buf1 = false →
    ∃ t, exec (.restoreContext w) s = .next t ∧ (t.wheel w.val).buf0 = c.buf0 ∧ (t.wheel w.val).buf1 = c.buf1 ∧
      (t.wheel w.val).older = c.older ∧ (t.wheel w.val).lanes = c.lanes ∧ (t.wheel w.val).ctx = none ∧
      Only [.wheels, .saggers, .regs] s t ∧ Others State.wheel [w.val] s t)

/-- SLOT_CANCEL_WHEEL: in each buffer every job whose token belongs to the slot is dropped, its staged values go,
every job, staged value and merge slot of another slot stays, and the buffers keep their state; the slot is remembered
for the step. WHEEL_HANG on a wheel with a running buffer that is not reported yet sets the hang status, changes
nothing else of any wheel, and detects one record of class 0x3, detail 0x48. (R80, R84) -/
def Obligations.CancellationAndHangOfAWheel : Prop :=
  (∀ (w : WheelIx) (slot : BitVec 16) (s : State),
    ∃ t, exec (.slotCancelWheel w slot) s = .next t ∧ slot ∈ (t.wheel w.val).cancelled ∧
      (∀ (b i : Nat) (j : Job), ((s.wheel w.val).buf b).jobs[i]? = some j →
        ((t.wheel w.val).buf b).jobs[i]? =
          some (if j.tok ∈ ((s.wheel w.val).buf b).tokensOf slot then { j with st := .dropped } else j)) ∧
      (∀ (b : Nat) (v : Nat × Nat × Int), v ∈ ((t.wheel w.val).buf b).staged ↔
        v ∈ ((s.wheel w.val).buf b).staged ∧ v.1 ∉ ((s.wheel w.val).buf b).tokensOf slot) ∧
      (∀ (b : Nat) (m : Merge), m ∈ ((t.wheel w.val).buf b).merges ↔
        m ∈ ((s.wheel w.val).buf b).merges ∧ m.tok ∉ ((s.wheel w.val).buf b).tokensOf slot) ∧
      (∀ b, ((t.wheel w.val).buf b).st = ((s.wheel w.val).buf b).st) ∧
      Only [.wheels, .regs] s t ∧ Others State.wheel [w.val] s t ∧ RegsOnly [(.whlCancelJobs, w.val)] s t) ∧
  (∀ (w : WheelIx) (s : State), ((s.wheel w.val).buf0.st = .run ∨ (s.wheel w.val).buf1.st = .run) →
    (s.wheel w.val).hang = false →
    ∃ t, exec (.wheelHang w) s = .next t ∧ t.wheel w.val = { s.wheel w.val with hang := true } ∧
      Detects 0x3148#16 s t ∧ Only [.wheels, .saggers, .flog, .lute] s t ∧ Others State.wheel [w.val] s t)

/-- For every byte with POS_A in bits [2:0], SIGN_A in bit 3, POS_B in bits [6:4] and SIGN_B in bit 7: two non-zero
weights when POS_A < POS_B; one at POS_A when positions and signs agree; none when only the positions agree; a
structure violation (detail 0x03), and only then, when POS_A > POS_B. (R31) -/
def Obligations.T28BytesDecodeAsTheirTable : Prop :=
  ∀ (b : Byte) pa pb sa sb, pa = b.toNat % 8 → sa = b.getLsbD 3 → pb = b.toNat / 16 % 8 → sb = b.getLsbD 7 →
    (t28Bad false [b] = if pa > pb then some 0x03 else none) ∧ (t28Group b).length = 8 ∧
    (pa < pb → ∀ i < 8, (t28Group b).getD i 0 = if i = pa then (if sa then -1 else 1) else if i = pb then (if sb then -1 else 1) else 0) ∧
    (pa = pb → sa = sb → ∀ i < 8, (t28Group b).getD i 0 = if i = pa then (if sa then -1 else 1) else 0) ∧
    (pa = pb → sa ≠ sb → ∀ i < 8, (t28Group b).getD i 0 = 0)

/-- On a usable LDU that holds no item and rebuilds no table: LDU_TAKE_ITEM with no new record takes the head page
descriptor when its sagger's descriptors have not halted, its rows fit, and no operation record waits or one ran last;
with no descriptor queued it takes a waiting operation record, and a record that fails check d of R158 is not taken
up: it leaves the ring, the operation queue halts and one record 0x32dd is detected, with every LDU unchanged. With
new records that fit in the ring of a sagger that serves, LDU_TAKE_ITEM does what it does with none once they have
been written in order behind the ring's records; the ring's size bounds them. TABLE_REBUILD puts the new STEP into the
bank not in use, which becomes active, and counts one rebuild. (R135, R147, R150, R152, R158) -/
def Obligations.LduTakesItemsInTurn : Prop :=
  (∀ (l : ShelfIx) (s : State) h d rest, s.lduUsable l.val = true → (s.ldu l.val).cur = none → (s.ldu l.val).rebuild = none →
    (s.ldu l.val).attnQ = (h, d) :: rest → (s.sagger h).attnHalt = false →
    (s.opWaits (s.lduOwner l.val) = false ∨ (s.ldu l.val).lastOp = true) → s.rowsFull l.val h d = false →
    ∃ t, exec (.lduTakeItem l []) s = .next t ∧ (t.ldu l.val).cur = some (.desc h d) ∧ (t.ldu l.val).attnQ = rest ∧
      (t.ldu l.val).lastOp = false ∧ Only [.ldus, .saggers, .regs] s t ∧ Others State.ldu [l.val] s t ∧
      RegsOnly [(.lduRebuildSkips, l.val)] s t) ∧
  (∀ (l : ShelfIx) (s : State) g r, s.lduUsable l.val = true → (s.ldu l.val).cur = none → (s.ldu l.val).rebuild = none →
    (s.ldu l.val).attnQ = [] → g = s.lduOwner l.val → s.opWaits g = true → r = s.hbmNum (s.opAddr g) 32 →
    (s.opBad g r = none →
      ∃ t, exec (.lduTakeItem l []) s = .next t ∧ (t.ldu l.val).cur = some (.op g (BitVec.ofNat 256 r)) ∧
        (t.ldu l.val).lastOp = true ∧ (t.sagger g).ops.cons = (s.sagger g).ops.cons + 1 ∧
        Only [.ldus, .saggers, .regs] s t ∧ Others State.ldu [l.val] s t ∧ Others State.sagger [g] s t) ∧
    (∀ e, s.opBad g r = some e →
      ∃ t, exec (.lduTakeItem l []) s = .next t ∧ (t.sagger g).opHalt = true ∧ (t.sagger g).ops.cons = (s.sagger g).ops.cons + 1 ∧
        Detects (faultCode 3 2 e) s t ∧ Only [.saggers, .regs, .flog, .lute] s t ∧ Others State.sagger [g] s t)) ∧
  (∀ (l : ShelfIx) (s : State) g recs, g = s.lduOwner l.val → (s.sagger g).st = .serving →
    (s.sagger g).ops.used + recs.length ≤ s.placeCount g 2 → recs.length ≤ s.placeCount g 2 →
    ∃ u, exec (.lduTakeItem l recs) s = exec (.lduTakeItem l []) u ∧ (u.sagger g).ops.prod = (s.sagger g).ops.prod + recs.length ∧
      (u.sagger g).ops.cons = (s.sagger g).ops.cons ∧
      (∀ k, k < recs.length → u.hbmNum (s.placeAddr g 2 + 32 * (((s.sagger g).ops.prod + k) % s.placeCount g 2)) 32 =
        (recs.getD k 0).toNat) ∧
      Only [.mem, .saggers, .regs] s u ∧ Others State.sagger [g] s u) ∧
  (∀ (l : ShelfIx) (s : State) n, (s.ldu l.val).rebuild = some n →
    ∃ t, exec (.tableRebuild l) s = .next t ∧ (t.ldu l.val).step = n ∧ (t.ldu l.val).rebuild = none ∧
      (t.ldu l.val).active = (if (s.ldu l.val).active = 0 then 1 else 0) ∧
      t.reg .lduRebuilds l.val = min (s.reg .lduRebuilds l.val + 1) (2 ^ 32 - 1) ∧
      Only [.ldus, .regs] s t ∧ Others State.ldu [l.val] s t ∧ RegsOnly [(.lduRebuilds, l.val)] s t)

/-- A descriptor that passes its checks, on an open tile that is not masked, with at most 64 positions and sound data:
the tile has taken one descriptor more, and the denominator of each row is its old stack with one balanced addition of
the weights log2 of exp(score / √D), where an invisible position contributes zero. A descriptor that fails check e
halts the sagger's descriptors with one record 0x32ee. A page or query with a structure violation only masks its tile,
and so does an uncorrectable HBM error, which is counted; a corrected one is counted only. Without such an error
memory stays. (R149, R162, R190, R207) -/
def Obligations.PageDescriptorsAddTheirPositions : Prop :=
  ∀ (l : ShelfIx) (off : BitVec 17) (s : State) g d tile, (s.ldu l.val).cur = some (.desc g d) → (s.ldu l.val).rebuild = none →
    (s.descBad g d.toNat = none → (s.ldu l.val).tileAt g (descTile d.toNat) = some tile → tile.masked = false →
      s.pageBad g d.toNat = false → s.queryBad g (s.qtile g tile.qtile) = none → nbits d.toNat 55 9 ≤ 64 →
      ∃ t tile', exec (.pageDescriptor l .good off) s = .next t ∧ (t.ldu l.val).cur = none ∧
        (t.ldu l.val).tileAt g (descTile d.toNat) = some tile' ∧ tile'.taken = tile.taken + 1 ∧
        tile'.rows.length = tile.rows.length ∧
        (∀ q i, q = s.qtile g tile.qtile → i = s.imageOfSlot g (qtSlot q) → ∀ j, j < tile.rows.length → j < i.qPerKv →
          (tile'.rows.getD j {}).den = stackAdd 32 (tile.rows.getD j {}).den
            ((List.range (nbits d.toNat 55 9)).map fun n =>
              if s.slotVisible i q d.toNat n then
                some (scoreWeight (s.ldu l.val).step i.headDim
                  (((toL16 (s.queryVals g q)).terms.drop ((qtHead q * i.qPerKv + j) * i.headDim)).take i.headDim)
                  ((groupTerms ((s.pageVecs i (nbits d.toNat 0 24) (qtHead q) (nbits d.toNat 55 9) false).map
                    (i.vecVals tile.layer (qtHead q) false))).1.getD n []))
              else none)) ∧
        Only [.ldus, .saggers, .regs, .freeCtr] s t ∧ Others State.ldu [l.val] s t ∧ Others State.sagger [g] s t) ∧
    (∀ e ecc, s.descBad g d.toNat = some e →
      ∃ t, exec (.pageDescriptor l ecc off) s = .next t ∧ (t.sagger g).attnHalt = true ∧ (t.ldu l.val).cur = none ∧
        Detects (faultCode 3 2 e) s t ∧ Only [.ldus, .saggers, .flog, .lute] s t ∧ Others State.ldu [l.val] s t) ∧
    (s.descBad g d.toNat = none → (s.ldu l.val).tileAt g (descTile d.toNat) = some tile → tile.masked = false →
      s.pageBad g d.toNat = true →
      ∃ t tile', exec (.pageDescriptor l .good off) s = .next t ∧ (t.ldu l.val).tileAt g (descTile d.toNat) = some tile' ∧
        tile' = { tile with masked := true, taken := tile.taken + 1 } ∧
        Only [.ldus, .saggers, .regs, .flog] s t ∧ Others State.ldu [l.val] s t) ∧
    (∀ k, k = stackOfAddr (nbits d.toNat 0 24 * frameBytes + off.toNat) → s.descBad g d.toNat = none →
      (s.ldu l.val).tileAt g (descTile d.toNat) = some tile → tile.masked = false →
      (∃ t, exec (.pageDescriptor l .corrected off) s = .next t ∧ (t.ldu l.val).cur = none ∧
        t.reg .hbmCe k = min (s.reg .hbmCe k + 1) (2 ^ 32 - 1) ∧ Others State.ldu [l.val] s t) ∧
      ∃ t tile', exec (.pageDescriptor l .uncorrectable off) s = .next t ∧ (t.ldu l.val).cur = none ∧
        (t.ldu l.val).tileAt g (descTile d.toNat) = some tile' ∧ tile' = { tile with masked := true, taken := tile.taken + 1 } ∧
        t.reg .hbmUe k = min (s.reg .hbmUe k + 1) (2 ^ 32 - 1) ∧ Others State.ldu [l.val] s t)

/-- QUERY_TILE_CLOSE on an LDU with a tile that has taken its NDESC descriptors closes the first such tile: the tile
and its entry are freed. A masked tile leaves memory unchanged. The other tiles write their rows, in head order,
requantised with the layer's output settings at OUT_ADDR; of memory only the slabs change, and for a tile of at most
1,024 elements the bytes read back are the block's and every other slab byte stays. LDU_CANCEL_SLOT frees the slot's
row states and drops its queued descriptors, keeps every tile of another slot, and changes no memory. (R149, R151,
R161) -/
def Obligations.QueryTilesCloseIntoBlocks : Prop :=
  (∀ (l : ShelfIx) (s : State) tile, (s.ldu l.val).tiles.find? (fun x => x.ndesc ≤ x.taken) = some tile →
    ∃ t, exec (.queryTileClose l) s = .next t ∧
      (t.ldu l.val).tiles = (s.ldu l.val).tiles.filter (fun u => !(u.sagger == tile.sagger && u.qtile == tile.qtile)) ∧
      tile.qtile ∉ (t.sagger tile.sagger).qOpen ∧
      t.mem = { s.mem with slab := t.mem.slab, valid := t.mem.valid } ∧
      Only [.ldus, .saggers, .ssus, .regs, .mem] s t ∧ Others State.ldu [l.val] s t ∧ Others State.sagger [tile.sagger] s t ∧
      (tile.masked = true → t.mem = s.mem) ∧
      (∀ q i lay vals b, tile.masked = false → q = s.qtile tile.sagger tile.qtile → i = s.imageOfSlot tile.sagger (qtSlot q) →
        lay = s.slotLayer tile.sagger (qtSlot q) tile.layer →
        vals = tile.rows.flatMap (fun r => (resultRow (r.results i.headDim)).vals) → vals ≠ [] → vals.length ≤ 1024 →
        b = (requantise lay.outFmt lay.outlierK lay.fallback vals).bytes →
        t.slab (qtOut q) b.length = b ∧ Outside (slabIx (qtOut q)) b.length s.mem.slab t.mem.slab)) ∧
  (∀ (l : ShelfIx) (slot : BitVec 16) (s : State),
    ∃ t, exec (.lduCancelSlot l slot) s = .next t ∧ slot ∈ (t.ldu l.val).cancelled ∧
      (∀ u : OpenTile, u ∈ (t.ldu l.val).tiles ↔ u ∈ (s.ldu l.val).tiles ∧ u.slot ≠ slot) ∧
      (∀ d : Nat × BitVec 128, d ∈ (t.ldu l.val).attnQ ↔
        d ∈ (s.ldu l.val).attnQ ∧ qtSlot (s.qtile d.1 (descTile d.2.toNat)) ≠ slot.toNat) ∧
      Only [.ldus, .saggers, .regs] s t ∧ Others State.ldu [l.val] s t ∧ RegsOnly [(.lduCancelRows, l.val)] s t)

/-- An LDU with a record of the kind, its table ready, sound input blocks and a sound matrix: NORM, PROD and GLU free
the LDU and advance the record's tally, when it is in use and its home is here, by 1; of memory only the slabs change.
With one row: a PROD with OUT_FMT 0 writes the row's G, two zero bytes and the L16 results Σ x·V_c in column order; a
NORM or GLU of one block writes the requantised block of x_i g_i (ε + Σx²/n)^(−1/2), or of the ACT's product; every
other slab byte stays. (R152, R154, R155, R156) -/
def Obligations.OperationRecordsWriteTheirRows : Prop :=
  ∀ (l : ShelfIx) (s : State) g o key, g < 12 → key = tallyKey g o.tally → o.inputs.findSome? s.blockViol = none →
    (s.curOp l.val 0x10 = some (g, o) → s.chunkPoisoned o.matAddr o.colBytes = false → s.colBad o 0 = false →
      ∃ t, exec (.norm l) s = .next t ∧ (t.ldu l.val).cur = none ∧
        ((s.tally key).mode ≠ 0 → s.homeHere key = true → (t.tally key).prod = (s.tally key).prod + 1) ∧
        t.mem = { s.mem with slab := t.mem.slab, valid := t.mem.valid } ∧
        Only [.mem, .regs, .freeCtr, .ldus, .saggers, .tallies, .flog, .lute] s t ∧ Others State.ldu [l.val] s t ∧
        Others State.tally [key] s t ∧
        (o.rows = 1 → o.dim = 1 → o.outFmt ≠ 0 → ∀ lay b, lay = s.layer g o.layer →
          b = (requantise o.outFmt lay.outlierK lay.fallback (resultRow (normRow (s.ldu l.val).step 1024 lay.epsilon
            (toL16 (s.opRow o o.inAddr 0)).terms (s.column o 0))).vals).bytes →
          t.slab o.out b.length = b ∧ Outside (slabIx o.out) b.length s.mem.slab t.mem.slab)) ∧
    (s.curOp l.val 0x11 = some (g, o) → s.chunkPoisoned o.matAddr (o.cols * o.colBytes) = false →
      (∀ c < o.cols, s.colBad o c = false) →
      ∃ t, exec (.prod l) s = .next t ∧ (t.ldu l.val).cur = none ∧
        ((s.tally key).mode ≠ 0 → s.homeHere key = true → (t.tally key).prod = (s.tally key).prod + 1) ∧
        t.mem = { s.mem with slab := t.mem.slab, valid := t.mem.valid } ∧
        Only [.mem, .regs, .freeCtr, .ldus, .saggers, .tallies, .flog, .lute] s t ∧ Others State.ldu [l.val] s t ∧
        Others State.tally [key] s t ∧
        (o.rows = 1 → o.outFmt = 0 → ∀ x b, x = resultRow ((List.range o.cols).map fun c =>
            resOfVal (logDot (s.ldu l.val).step (toL16 (s.opRow o o.inAddr 0)).terms (s.column o c))) →
          b = leBytes (npattern 16 x.g) 2 ++ zeros 2 ++ x.pats.flatMap (fun p => leBytes p 2) →
          t.slab o.out b.length = b ∧ Outside (slabIx o.out) b.length s.mem.slab t.mem.slab)) ∧
    (s.curOp l.val 0x12 = some (g, o) →
      ∃ t, exec (.glu l) s = .next t ∧ (t.ldu l.val).cur = none ∧
        ((s.tally key).mode ≠ 0 → s.homeHere key = true → (t.tally key).prod = (s.tally key).prod + 1) ∧
        t.mem = { s.mem with slab := t.mem.slab, valid := t.mem.valid } ∧
        Only [.mem, .regs, .freeCtr, .ldus, .saggers, .tallies, .flog, .lute] s t ∧ Others State.ldu [l.val] s t ∧
        Others State.tally [key] s t ∧
        (o.rows = 1 → o.dim = 1 → o.outFmt ≠ 0 → ∀ lay b, lay = s.layer g o.layer →
          b = (requantise o.outFmt lay.outlierK lay.fallback (resultRow ((List.range 1024).map fun i =>
            gluElem (s.ldu l.val).step o.act ((toL16 (s.opRow o o.inAddr 0)).terms.getD i none)
              ((toL16 (s.opRow o o.mat 0)).terms.getD i none))).vals).bytes →
          t.slab o.out b.length = b ∧ Outside (slabIx o.out) b.length s.mem.slab t.mem.slab))

/-- An OUTER record with its table ready and sound input blocks: for every i and c the binary32 word at MAT_PAGE ×
4,096 + (i × COLS + c) × 4 becomes its old value plus the log-domain sum over the rows, rounded to binary32 (ADD_F32,
whose NaN payload is a free value); every other byte of HBM and every other memory stays, and the tally advances by 1.
For NORM, PROD, GLU and OUTER alike, an input block with a violation leaves all memory unchanged and the tally still
advances. (R157, R162, R57, log entry 14) -/
def Obligations.OuterRecordsAddIntoTheirRegion : Prop :=
  (∀ (l : ShelfIx) (s : State) g o key, g < 12 → key = tallyKey g o.tally → s.curOp l.val 0x13 = some (g, o) →
    o.inputs.findSome? s.blockViol = none →
    ∃ t, exec (.outer l) s = .next t ∧ (t.ldu l.val).cur = none ∧
      ((s.tally key).mode ≠ 0 → s.homeHere key = true → (t.tally key).prod = (s.tally key).prod + 1) ∧
      (∀ xt yt, xt = (List.range o.rows).map (fun r => (toL16 (s.opRow o o.inAddr r)).terms) →
        yt = (List.range o.rows).map (fun r => (toL16 (((blockAddrs (o.out + r * o.yBlocks * o.slot) o.slot o.yBlocks).flatMap
          s.blockValues).take o.cols)).terms) →
        ∀ i c, i < 1024 * o.dim → c < o.cols → ∃ k, t.hbmNum (o.matAddr + (i * o.cols + c) * 4) 4 =
          f32Add (Config.freeNat k) (s.hbmNum (o.matAddr + (i * o.cols + c) * 4) 4)
            (f32Round (logDot (s.ldu l.val).step (xt.map fun x => x.getD i none) (yt.map fun y => y.getD c none)) false) % 2 ^ 32) ∧
      t.mem = { s.mem with hbm := t.mem.hbm } ∧ Outside o.matAddr (4096 * o.dim * o.cols) s.mem.hbm t.mem.hbm ∧
      Only [.mem, .regs, .freeCtr, .ldus, .saggers, .tallies, .flog, .lute] s t ∧ Others State.ldu [l.val] s t ∧
      Others State.tally [key] s t) ∧
  (∀ (l : ShelfIx) (s : State) g o key kind c e, g < 12 → key = tallyKey g o.tally →
    (kind, c) ∈ [(0x10, Instr.norm l), (0x11, Instr.prod l), (0x12, Instr.glu l), (0x13, Instr.outer l)] →
    s.curOp l.val kind = some (g, o) → o.inputs.findSome? s.blockViol = some e →
    ∃ t, exec c s = .next t ∧ (t.ldu l.val).cur = none ∧ t.mem = s.mem ∧
      ((s.tally key).mode ≠ 0 → s.homeHere key = true → (t.tally key).prod = (s.tally key).prod + 1) ∧
      Only [.regs, .freeCtr, .ldus, .saggers, .tallies, .flog, .lute] s t ∧ Others State.ldu [l.val] s t)

/-- SSU_STREAM takes the first stream: its count of 1 bits is added to its key, which with its last head's count
becomes complete. SSU_KEY_COMPLETE with room in the stage appends the 16-byte record of the first complete key.
SSU_APPLY takes the first record to apply: for a row that fired and a live request the score byte of the side word
becomes round(((256 − α) S + α e) / 256) with e = round(255 COUNT / (N H_kv)) and no other byte of HBM changes; for
any other row memory stays and one discard is counted. (R165, R168, R169, R170) -/
def Obligations.ScoreEstimatesReachTheirSideWords : Prop :=
  (∀ (d : DieIx) (s : State) j rest k n c, (s.ssu d.val).jobs = j :: rest → (s.ssu d.val).keys.find? (·.is j) = some k →
    n = (s.imageOfSlot j.sagger j.slot.toNat).ssuN → c = streamCount j.probs s.freeCtr n →
    ∃ t, exec (.ssuStream d) s = .next t ∧ (t.ssu d.val).jobs = rest ∧ t.freeCtr = s.freeCtr + n ∧
      (k.heads + 1 < s.keyHeads k → (t.ssu d.val).done = (s.ssu d.val).done ∧
        (t.ssu d.val).keys.find? (·.is j) = some { k with sum := k.sum + c, heads := k.heads + 1 }) ∧
      (s.keyHeads k ≤ k.heads + 1 → (t.ssu d.val).keys.find? (·.is j) = none ∧
        (t.ssu d.val).done = (s.ssu d.val).done ++ [{ k with sum := k.sum + c, heads := k.heads + 1 }]) ∧
      t.reg .ssuEst d.val = min (s.reg .ssuEst d.val + 1) (2 ^ 64 - 1) ∧
      Only [.ssus, .saggers, .regs, .freeCtr] s t ∧ Others State.ssu [d.val] s t ∧ RegsOnly [(.ssuEst, d.val)] s t) ∧
  (∀ (d : DieIx) (s : State) k rest, (s.ssu d.val).done = k :: rest → s.stageFull k.sagger = false →
    ∃ t, exec (.ssuKeyComplete d) s = .next t ∧ (t.ssu d.val).done = rest ∧
      t.hbm (s.stageAddr k.sagger (s.sagger k.sagger).stageProd) 16 = k.bytes ∧
      (t.sagger k.sagger).stageProd = (s.sagger k.sagger).stageProd + 1 ∧ t.mem = { s.mem with hbm := t.mem.hbm } ∧
      Outside (s.stageAddr k.sagger (s.sagger k.sagger).stageProd) 16 s.mem.hbm t.mem.hbm ∧
      Only [.ssus, .saggers, .regs, .mem] s t ∧ Others State.ssu [d.val] s t ∧ Others State.sagger [k.sagger] s t) ∧
  (∀ (d : DieIx) (g : SaggerIx) (s : State) n rest a w i, (s.sagger g.val).stageOrder = n :: rest → a = s.stageAddr g.val n →
    i = s.imageOfSlot g.val (s.hbmField a 0 16) →
    w = s.sideWordAddr g.val (s.hbmField a 0 16) (s.hbmField a 16 8) (s.hbmField a 32 23) →
    ((s.hbmField a 0 16, s.hbmField a 64 16) ∈ (s.sagger g.val).stageFired → (s.reqOfSlot g.val (s.hbmField a 0 16)).isSome = true →
      ∃ t, exec (.ssuApply d g) s = .next t ∧
        t.hbmNum (w + 3) 1 = newScore (s.hbmNum (w + 3) 1) (s.hbmField a 96 19) i.ssuN i.hKv i.ssuAlpha % 256 ∧
        t.mem = { s.mem with hbm := t.mem.hbm } ∧ Outside (w + 3) 1 s.mem.hbm t.mem.hbm ∧
        n ∉ (t.sagger g.val).stageOrder ∧ Only [.saggers, .regs, .mem] s t ∧ Others State.sagger [g.val] s t ∧
        RegsOnly [(.ssuApplied, d.val)] s t) ∧
    ((s.hbmField a 0 16, s.hbmField a 64 16) ∉ (s.sagger g.val).stageFired →
      ∃ t, exec (.ssuApply d g) s = .next t ∧ t.reg .ssuDiscard d.val = min (s.reg .ssuDiscard d.val + 1) (2 ^ 32 - 1) ∧
        n ∉ (t.sagger g.val).stageOrder ∧ Only [.saggers, .regs] s t ∧ Others State.sagger [g.val] s t ∧
        RegsOnly [(.ssuDiscard, d.val)] s t))

/-- For a row of an unmasked ragged entry of the running step whose page is valid. A shared page: memory is unchanged
and one record 0x3674 is detected. Otherwise, with sound operand blocks: the side word of the logical slot is its
position and the initial score; where the page, its table entry and the side word do not overlap, the entry's FILL
covers the slot and every head's K and V read back as the rounded values; every byte of HBM outside the page, the
entry and the side word stays, and every other memory. (R180, R182, R187, R207) -/
def Obligations.KvStoreNeverWritesASharedPage : Prop :=
  ∀ (g : SaggerIx) (slot row : BitVec 16) (layer : BitVec 8) (ka va : BitVec 32) (s : State) e i n p,
    s.raggedOf g.val slot.toNat = some e → i = s.imageOfSlot g.val slot.toNat → n = e.fired + row.toNat →
    p = s.pte g.val slot.toNat layer.toNat (n / i.ppp) → row.toNat < e.new → layer.toNat < i.attnLayers →
    (s.sagger g.val).phase = .running → s.maskedSlot g.val slot.toNat = false → p.valid = true → i.kvb ≤ frameBytes →
    (p.shared = true → ∃ t, exec (.kvStoreWrite g slot row layer ka va) s = .next t ∧ Detects 0x3674#16 s t ∧
      Only [.saggers, .flog, .lute] s t) ∧
    (∀ pa w, pa = s.pteAddr g.val slot.toNat layer.toNat (n / i.ppp) → w = s.sideWordAddr g.val slot.toNat layer.toNat n →
      p.shared = false →
      (s.kvBlocks g.val slot.toNat layer.toNat ka.toNat ++ s.kvBlocks g.val slot.toNat layer.toNat va.toNat).findSome? s.blockViol = none →
      ∃ t, exec (.kvStoreWrite g slot row layer ka va) s = .next t ∧
        t.hbmNum w 4 = (e.rowPos (s.treeOf g.val slot.toNat) row.toNat + 2 ^ 24 * i.sInit) % 2 ^ 32 ∧
        (Apart pa 8 w 4 → pteOf (t.hbmNum pa 8) = pteOf { p with fill := max p.fill (n % i.ppp + 1) }.bits) ∧
        (Apart pa 8 (p.frame * frameBytes) frameBytes → Apart w 4 (p.frame * frameBytes) frameBytes →
          ∀ h < i.hKv, ∀ isV b, b = (i.vecBytes layer.toNat h isV (piece (s.kvValues g.val slot.toNat layer.toNat
              (if isV = true then va.toNat else ka.toNat)) i.headDim h)).1 →
            t.hbm (p.frame * frameBytes + i.vecOff isV h (n % i.ppp)) b.length = b) ∧
        (∀ x, (x < p.frame * frameBytes ∨ p.frame * frameBytes + frameBytes ≤ x) → (x < pa ∨ pa + 8 ≤ x) → (x < w ∨ w + 4 ≤ x) →
          mget t.mem.hbm x = mget s.mem.hbm x) ∧
        t.mem = { s.mem with hbm := t.mem.hbm } ∧ Only [.mem, .regs, .saggers] s t ∧ Others State.sagger [g.val] s t)

/-- When the cursor stands at an unmasked entry whose page-table entries pass their checks and there is room: the
query-tile entry is written, one descriptor for each page of the row is appended in page order to the queue of the
usable LDU with the fewest queued descriptors, the entry is open, and the cursor moves on; no other LDU, sagger or
byte of memory changes. When a page-table entry fails its check, the request fails, the walk skips the entry and
memory stays. SLOT_COPY for a request without a draft slot copies logical slot FIRED + a to FIRED + b in every layer:
vectors and side word, wherever no later write of the same copy meets them; every other byte of HBM stays, the copy
leaves the request's list and the bytes are counted. COMPACT_COPY, when no copy of the first kind is due, copies one
surviving slot into the new frame: bytes of HBM outside that frame stay, so the old pages and tables do, and the side
word is kept with its place until the commit. (R179, R188, R191, R192, R195, R196, R197) -/
def Obligations.WalkTilesAndSlotCopies : Prop :=
  (∀ (g : SaggerIx) (qa oa : BitVec 32) (s : State) e l i pages ix, (s.sagger g.val).ragged[(s.sagger g.val).walk.entry]? = some e →
    s.leastLdu g.val = some l → i = s.imageOfSlot g.val e.slot →
    pages = s.rowPages g.val e.slot (s.sagger g.val).walk.layer e (e.rowPos (s.treeOf g.val e.slot) (s.sagger g.val).walk.row) →
    ix = (s.sagger g.val).qNext % s.qtileCount g.val →
    (s.sagger g.val).phase = .running → (s.sagger g.val).st = .serving → s.maskedSlot g.val e.slot = false →
    (s.sagger g.val).walk.layer < i.attnLayers → pages ≠ [] →
    (s.pagesOk g.val e.slot (s.sagger g.val).walk.layer e = true → s.walkRoom g.val l i.qPerKv pages.length = true →
      ∃ t, exec (.walkOpenTile g qa oa) s = .next t ∧
        (t.ldu l).attnQ = (s.ldu l).attnQ ++ pages.map (fun p => (g.val, s.descOf g.val e.slot (s.sagger g.val).walk.layer p ix
          (e.rowPos (s.treeOf g.val e.slot) (s.sagger g.val).walk.row) e)) ∧
        t.slabNum (s.qtileAddr g.val ix) 32 =
          s.qtileOf g.val e (s.sagger g.val).walk qa.toNat oa.toNat pages.length % 2 ^ 256 ∧
        (t.sagger g.val).qOpen = (s.sagger g.val).qOpen ++ [ix] ∧ (t.sagger g.val).walk = s.walkNext g.val (s.sagger g.val).walk e ∧
        t.mem = { s.mem with slab := t.mem.slab, valid := t.mem.valid } ∧
        Outside (slabIx (s.qtileAddr g.val ix)) 32 s.mem.slab t.mem.slab ∧
        Only [.mem, .ldus, .saggers, .regs] s t ∧ Others State.ldu [l] s t ∧ Others State.sagger [g.val] s t ∧
        RegsOnly [(.atnDesc, g.val), (.atnMasked, g.val),
          (.hbmNarrow, stackOfAddr (s.pteAddr g.val e.slot (s.sagger g.val).walk.layer 0)),
          (.hbmRdBytes, stackOfAddr (s.pteAddr g.val e.slot (s.sagger g.val).walk.layer 0))] s t) ∧
    (s.pagesOk g.val e.slot (s.sagger g.val).walk.layer e = false →
      ∃ t, exec (.walkOpenTile g qa oa) s = .next t ∧ (t.sagger g.val).walk = s.walkSkip g.val (s.sagger g.val).walk ∧
        (∀ q, s.reqOfSlot g.val e.slot = some q → Detects 0x2670#16 s t) ∧
        Only [.saggers, .flog] s t ∧ Others State.sagger [g.val] s t)) ∧
  ((∀ (g : SaggerIx) (s : State) q a b r i f, s.copier g.val = some q → q.copies = (a, b) :: r → q.draftSlot = none →
    i = s.imageOfSlot g.val q.slot → f = ((s.raggedOf g.val q.slot).map (·.fired)).getD 0 →
    ∃ t, exec (.slotCopy g) s = .next t ∧
      (∀ l < i.attnLayers,
        (∀ l', l < l' → l' < i.attnLayers →
          Apart (s.sideWordAddr g.val q.slot l (f + b)) 4 (s.sideWordAddr g.val q.slot l' (f + b)) 4 ∧
          ∀ h v, h < i.hKv → Apart (s.sideWordAddr g.val q.slot l (f + b)) 4 (s.vecAddr g.val q.slot l' (f + b) h v) i.vb) →
        t.hbmNum (s.sideWordAddr g.val q.slot l (f + b)) 4 = s.hbmNum (s.sideWordAddr g.val q.slot l (f + a)) 4) ∧
      (∀ x, (∀ l h v, l < i.attnLayers → h < i.hKv → x < s.vecAddr g.val q.slot l (f + b) h v ∨
            s.vecAddr g.val q.slot l (f + b) h v + i.vb ≤ x) →
          (∀ l < i.attnLayers, x < s.sideWordAddr g.val q.slot l (f + b) ∨ s.sideWordAddr g.val q.slot l (f + b) + 4 ≤ x) →
        mget t.mem.hbm x = mget s.mem.hbm x) ∧
      t.mem = { s.mem with hbm := t.mem.hbm } ∧
      t.reg .atnMoveBytes g.val = min (s.reg .atnMoveBytes g.val + i.attnLayers * (i.kvb + 4)) (2 ^ 64 - 1) ∧
      (t.sagger g.val).live = (s.sagger g.val).live.map (fun y =>
        if y.slot = q.slot ∨ y.draftSlot = some q.slot then { y with copies := r } else y) ∧
      Only [.mem, .regs, .saggers] s t ∧ Others State.sagger [g.val] s t) ∧
  (∀ (g : SaggerIx) (s : State) q l a b r i, s.copier g.val = none → s.compactor g.val = some q →
    q.compCopies = (l, a, b) :: r → i = s.imageOfSlot g.val q.slot → i.kvb ≤ frameBytes →
    ∃ t, exec (.compactCopy g) s = .next t ∧
      Outside (q.compFrame l (b / i.ppp) * frameBytes) frameBytes s.mem.hbm t.mem.hbm ∧ t.mem = { s.mem with hbm := t.mem.hbm } ∧
      (t.sagger g.val).live = (s.sagger g.val).live.map (fun y =>
        if y.slot = q.slot ∨ y.draftSlot = some q.slot then
          { y with compCopies := r, compSides := y.compSides ++ [(l, b, s.hbmNum (s.sideWordAddr g.val q.slot l a) 4)] } else y) ∧
      t.reg .atnMoveBytes g.val = min (s.reg .atnMoveBytes g.val + (i.kvb + 4)) (2 ^ 64 - 1) ∧
      Only [.mem, .regs, .saggers] s t ∧ Others State.sagger [g.val] s t))

/-- The routing action accepts at most K_TOP experts, advances the counts by exactly the accepted choices, and raises
no count above the capacity. ROUTE_ROW of a row that may be routed and whose areas fit marks the row routed, puts the
action's counts in force and writes the 64-byte route record, whose NACC is the number of accepted choices and whose
gates are those of the accepted scores; with no room in the arena it only notes the stall, and no byte of memory
changes. (R210, R212, R213, R214, R219) -/
def Obligations.RoutingNeverExceedsCapacity : Prop :=
  (∀ (m : MoeInfo) cap counts ranked p, p = routeToken m cap counts ranked →
    p.accepted.length ≤ m.kTop ∧
    (∀ e, tget 0 p.counts e = tget 0 counts e + (p.accepted.filter (fun a => a.1 == e)).length) ∧
    ∀ e, tget 0 p.counts e ≤ max (tget 0 counts e) cap) ∧
  (∀ (g : SaggerIx) (row score : BitVec 32) blocks shOut (s : State) l slot s1 ranked p mine extra,
    s.routeLayer g.val = some l → rowSlot (s.sagger g.val).ragged row.toNat = some slot → slot < 65536 → s1 = s.openLayer g.val l →
    ranked = rankScores (s1.scores score.toNat (s.moe g.val l).experts) →
    p = routeToken (s.moe g.val l) ((s.moe g.val l).capacity (s.sagger g.val).rowsN) (s1.sagger g.val).router.counts (ranked.map (·.1)) →
    mine = (p.accepted.map (·.1)).filter (s1.ownExpert g.val) →
    extra = ((p.accepted.map (·.1)).filter (fun e => !s1.ownExpert g.val e)).map
      (fun _ => (s1.chunkShape g.val l).down.outBlocks * (s1.chunkShape g.val l).down.slot) →
    (s.sagger g.val).st = .serving → (s.sagger g.val).phase = .running → (s.sagger g.val).listHalt = false →
    (s.sagger g.val).router.closed = false → ((s.sagger g.val).router.layer = none ∨ row.toNat ∉ (s.sagger g.val).router.routed) →
    row.toNat < s.placeCount g.val 5 → s.rowDead g.val slot = false → s.slabNum (score.toNat + 2) 2 = 0 →
    neverFits (s1.arena g.val) ((s1.chunkShape g.val l).sizes ++ extra) = false →
    (∀ areas, s1.newAreas g.val l mine extra = some areas →
      ∃ t, exec (.routeRow g row score blocks shOut) s = .next t ∧
        (t.sagger g.val).router.routed = (s1.sagger g.val).router.routed ++ [row.toNat] ∧
        (t.sagger g.val).router.counts = p.counts ∧
        ((s.moe g.val l).kTop ≤ 7 → t.hbmField (s.routeAddr g.val row.toNat) 16 3 = p.accepted.length ∧
          ∀ k < p.accepted.length, t.hbmField (s.routeAddr g.val row.toNat) (64 + 64 * k) 17 =
            (gates (p.accepted.map fun a => ((ranked.find? fun x => x.1 == a.1).map (·.2)).getD {})).getD k 0 % 2 ^ 17) ∧
        Only [.mem, .regs, .saggers, .wares, .lute] s t ∧ Others State.sagger [g.val] s t) ∧
    (s1.newAreas g.val l mine extra = none →
      ∃ t, exec (.routeRow g row score blocks shOut) s = .next t ∧ (t.sagger g.val).router.stalled.isSome = true ∧
        Only [.saggers] s t ∧ Others State.sagger [g.val] s t))

/-- LAYER_CLOSE with every row of the step routed closes the layer: every chunk is flushed and the EPOCH is one
higher. CLOSE_GLU_EMIT of a closed layer with chunks, whose XT_GU has reached its target and whose ring has room,
consumes the tally, writes one record per GLU of the layer into the ring and is done. ARENA_RESUME, once XT_GU has
reached the entries written so far, ends the stall and only removes areas from those in use. No slab or HBM byte
changes at ARENA_RESUME, and no other sagger at any of them. (R217, R219, R222) -/
def Obligations.LayersCloseInOrder : Prop :=
  (∀ (g : SaggerIx) (s : State) l s1, s.routeLayer g.val = some l → s1 = s.openLayer g.val l →
    (s.sagger g.val).st = .serving → (s.sagger g.val).phase = .running → (s.sagger g.val).listHalt = false →
    (s.sagger g.val).router.closed = false → (s.sagger g.val).rowsN ≤ (s1.sagger g.val).router.routed.length →
    ∃ t, exec (.layerClose g) s = .next t ∧ (t.sagger g.val).router.closed = true ∧
      (∀ c ∈ (t.sagger g.val).router.chunks, c.flushed = true) ∧
      (t.sagger g.val).router.epoch = (s.sagger g.val).router.epoch + 1 ∧
      Only [.mem, .regs, .freeCtr, .saggers, .wares, .lute] s t ∧ Others State.sagger [g.val] s t) ∧
  (∀ (g : SaggerIx) (s : State) l m k target n, (s.sagger g.val).router.layer = some l → m = s.moe g.val l →
    k = tallyKey g.val m.xtGu → target = BitVec.ofNat 48 (s.sagger g.val).router.guTarget →
    n = ((s.sagger g.val).router.chunks.flatMap fun c => gluRecords m (s.chunkShape g.val l) l c).length →
    (s.sagger g.val).st = .serving → (s.sagger g.val).listHalt = false → (s.sagger g.val).router.closed = true →
    (s.sagger g.val).router.gluDone = false → (s.sagger g.val).router.chunks ≠ [] → (s.tally k).waitBad target true = false →
    reached (s.tally k).prod target = true → (s.sagger g.val).ops.used + n ≤ s.placeCount g.val 2 →
    ∃ t, exec (.closeGluEmit g) s = .next t ∧ (t.sagger g.val).router.gluDone = true ∧
      (t.sagger g.val).ops.prod = (s.sagger g.val).ops.prod + n ∧
      (t.sagger g.val).router.actTarget = (s.sagger g.val).router.actTarget + n ∧
      (s.homeHere k = true → (t.tally k).cons = consumeTo (s.tally k).cons target) ∧
      Only [.mem, .regs, .saggers, .tallies, .lute] s t ∧ Others State.sagger [g.val] s t ∧ Others State.tally [k] s t) ∧
  (∀ (g : SaggerIx) (s : State) l since, (s.sagger g.val).router.layer = some l → (s.sagger g.val).router.stalled = some since →
    reached (s.tally (tallyKey g.val (s.moe g.val l).xtGu)).prod (BitVec.ofNat 48 (s.sagger g.val).router.guTarget) = true →
    ∃ t, exec (.arenaResume g) s = .next t ∧ (t.sagger g.val).router.stalled = none ∧
      (∀ a ∈ (t.sagger g.val).router.arenaUsed, a ∈ (s.sagger g.val).router.arenaUsed) ∧
      Only [.regs, .saggers] s t ∧ Others State.sagger [g.val] s t ∧ RegsOnly [(.xrtArenaStallNs, g.val)] s t)

/-- In a sagger that is not luted, MIX_RUN of a layer whose GLU records are out and whose XT_DN has reached its target
ends the layer: its chunks and arena space are free, the next MoE layer is due, and XT_MIX, when it is in use, has
advanced by 1; of memory only the slabs change. For a step of one row and a layer of one output block without
residual, whose operand blocks are sound, the bytes at OUT_ADDR are the requantised block of the exact sum of the
shared block and the gated blocks. (R118, R220, R223) -/
def Obligations.TheMixerSumsGatedOutputs : Prop :=
  ∀ (g : SaggerIx) outs (s : State) l m k r, r = (s.sagger g.val).router → r.layer = some l → m = s.moe g.val l →
    k = tallyKey g.val m.xtDn → (s.sagger g.val).st = .serving → (s.sagger g.val).listHalt = false → r.gluDone = true →
    s.luted g.val = false → m.xtMix < 4096 → m.xtMix ≠ m.xtDn →
    (r.chunks = [] ∨ reached (s.tally k).prod (BitVec.ofNat 48 r.dnTarget) = true) →
    ∃ t, exec (.mixRun g outs) s = .next t ∧ (t.sagger g.val).router.layer = none ∧
      (t.sagger g.val).router.chunks = [] ∧ (t.sagger g.val).router.arenaUsed = [] ∧
      (t.sagger g.val).router.nextMoe = r.nextMoe + 1 ∧
      ((s.tally (tallyKey g.val m.xtMix)).mode ≠ 0 →
        (t.tally (tallyKey g.val m.xtMix)).prod = (s.tally (tallyKey g.val m.xtMix)).prod + 1) ∧
      t.mem = { s.mem with slab := t.mem.slab, valid := t.mem.valid } ∧
      Only [.mem, .regs, .saggers, .tallies, .flog, .lute] s t ∧
      (∀ sh lay out b, (s.sagger g.val).rowsN = 1 → r.shared = [(0, sh)] → s.rowDead g.val (s.routeOf g.val 0).1 = false →
        (s.mixBlocks g.val (s.chunkShape g.val l) 0 sh).findSome? s.blockViol = none → lay = s.layer g.val l →
        lay.outBlocks = 1 → lay.residual = none → out = ((outs.getD 0 []).getD 0 0).toNat →
        b = (requantise lay.outFmt lay.outlierK lay.fallback
          (s.mixValues g.val (s.chunkShape g.val l) m.shared 0 0 sh)).bytes →
        t.slab out b.length = b ∧ Outside (slabIx out) b.length s.mem.slab t.mem.slab)

/-- A lute message at the head of the received bytes, of the handler's TYPE, that R226 allows. On the follower:
LUTE_TOKEN with room in the arena takes the header's EPOCH and marks one row more as routed; LUTE_CLOSE closes the
layer with every chunk flushed. On the lead: LUTE_DONE with the awaited count, and LUTE_EMPTY, mark the expert as
answered once; EMPTY changes no memory. Every one of them takes the message and its fill off the received bytes, and
leaves every other port, sagger and tally as it is. (R225, R226, R227) -/
def Obligations.ExpertMessagesOfALutedPair : Prop :=
  (∀ (s : State) h p g s2 n cs extra areas, s.luteHead = some (h, p) → nbits h 0 8 = 0x21 → s.luteSagger h = some g →
    s.tokenBad g h p = false →
    s2 = (s.luteTake.openLayer g (nbits h 8 8)).onRouter g (fun r => { r with epoch := BitVec.ofNat 16 (nbits h 16 16) }) →
    n = nbits h 48 16 → cs = tokenChoices n p →
    extra = List.replicate (s2.chunkShape g (nbits h 8 8)).gate.nb (s2.inputSlot g (nbits h 8 8)) →
    (s2.sagger g).router.closed = false → neverFits (s2.arena g) ((s2.chunkShape g (nbits h 8 8)).sizes ++ extra) = false →
    s2.newAreas g (nbits h 8 8) (cs.map (·.1)) extra = some areas →
    ∃ t, exec .luteToken s = .next t ∧ (t.sagger g).router.epoch = BitVec.ofNat 16 (nbits h 16 16) ∧
      (t.sagger g).router.routed = (s2.sagger g).router.routed ++ [(s2.sagger g).router.routed.length] ∧
      t.ports = s.luteTake.ports ∧ Only [.mem, .regs, .saggers, .wares, .ports] s t ∧ Others State.port [6] s t ∧
      Others State.sagger [g] s t) ∧
  (∀ (s : State) h p g, s.luteHead = some (h, p) → nbits h 0 8 = 0x22 → s.luteSagger h = some g → s.lead = false → p = [] →
    nbits h 32 32 = 0 → nbits h 96 32 = 0 → (s.sagger g).router.closed = false →
    ∃ t, exec .luteClose s = .next t ∧ (t.sagger g).router.closed = true ∧
      (∀ c ∈ (t.sagger g).router.chunks, c.flushed = true) ∧ t.ports = s.luteTake.ports ∧
      Only [.mem, .regs, .freeCtr, .saggers, .wares, .ports] s t ∧ Others State.port [6] s t ∧ Others State.sagger [g] s t) ∧
  (∀ (s : State) h p g e, s.luteHead = some (h, p) → s.luteSagger h = some g → s.lead = true → p = [] → e = nbits h 32 10 →
    nbits h 42 6 = 0 → nbits h 96 32 = 0 → e % 2 = 1 → e < (s.moe g (nbits h 8 8)).experts →
    (s.sagger g).router.layer = some (nbits h 8 8) → e ∉ (s.sagger g).router.answered →
    (∀ writes, nbits h 0 8 = 0x23 → nbits h 48 16 = tget 0 (s.sagger g).router.remote e →
      ∃ t, exec (.luteDone writes) s = .next t ∧ (t.sagger g).router.answered = (s.sagger g).router.answered ++ [e] ∧
        t.mem = { s.mem with slab := t.mem.slab, valid := t.mem.valid } ∧
        (∀ a bs, writes = [(a, bs)] → s.slabRegion g a.toNat bs.length 1 = true → t.slab a.toNat bs.length = bs) ∧
        t.ports = s.luteTake.ports ∧ Only [.mem, .regs, .saggers, .ports] s t ∧ Others State.port [6] s t ∧
        Others State.sagger [g] s t) ∧
    (nbits h 0 8 = 0x24 → nbits h 48 16 = 0 →
      ∃ t, exec .luteEmpty s = .next t ∧ (t.sagger g).router.answered = (s.sagger g).router.answered ++ [e] ∧
        t.ports = s.luteTake.ports ∧ Only [.regs, .saggers, .ports] s t ∧ Others State.port [6] s t ∧
        Others State.sagger [g] s t ∧ RegsOnly [(.lutRxBytes, 0), (.xrtEmptyRx, g)] s t))

/-- For the oldest SUBMIT of a channel whose sagger serves after READY and does not shut down. A known REQ_ID: one
DONE with reason 6. Else a failing check d: one DONE with reason 5 and fault 0x26dd, and one such record. Else a full
queue: one DONE with reason 7. Else the request joins the end of the queue with its arrival number, and nothing is
sent. In a sagger that does not serve, reason 5 with 0x26F7. In every case the message is taken, and no memory, other
channel or other sagger changes. (R234, R235, R237, R498) -/
def Obligations.SubmitsHaveOneOutcome : Prop :=
  ∀ (ch : ChanIx) (s : State) m g id dup, s.headMsg ch.val 1 = some m → s.saggerOfChan ch.val = some g →
    (s.sagger g).st ≠ .resetting → id = BitVec.ofNat 32 (leNat (m.payload.take 4)) →
    dup = ((s.sagger g).findReq ch.val id).isSome || (s.sagger g).reserved.contains (ch.val, id) →
    ∃ t, exec (.submit ch) s = .next t ∧ (t.chan ch.val).rx = (s.chan ch.val).rx.eraseP (fun x => sameLane x.type 1) ∧
      Only [.chans, .saggers, .regs, .flog] s t ∧ Others State.chan [ch.val] s t ∧ Others State.sagger [g] s t ∧
      (s.turnsAway g = true →
        (t.chan ch.val).tx = (s.chan ch.val).tx ++
          [⟨0x12, m.tag, ({ reqId := id, reason := 5, fault := 0x26F7 } : DoneInfo).bytes s.now, 3⟩] ∧
        Detects 0x26F7#16 s t ∧ t.saggers = s.saggers) ∧
      (s.turnsAway g = false → dup = true →
        (t.chan ch.val).tx = (s.chan ch.val).tx ++ [⟨0x12, m.tag, ({ reqId := id, reason := 6 } : DoneInfo).bytes s.now, 3⟩] ∧
        t.saggers = s.saggers ∧ t.flog = s.flog) ∧
      (∀ d, s.turnsAway g = false → dup = false → s.submitBad g m.payload = some d →
        (t.chan ch.val).tx = (s.chan ch.val).tx ++
          [⟨0x12, m.tag, ({ reqId := id, reason := 5, fault := faultCode 2 6 d } : DoneInfo).bytes s.now, 3⟩] ∧
        Detects (faultCode 2 6 d) s t ∧ t.saggers = s.saggers) ∧
      (s.turnsAway g = false → dup = false → s.submitBad g m.payload = none →
        (s.planSagger g).pendingMax ≤ (s.sagger g).queue.length →
        (t.chan ch.val).tx = (s.chan ch.val).tx ++ [⟨0x12, m.tag, ({ reqId := id, reason := 7 } : DoneInfo).bytes s.now, 3⟩] ∧
        t.saggers = s.saggers ∧ t.flog = s.flog) ∧
      (s.turnsAway g = false → dup = false → s.submitBad g m.payload = none →
        (s.sagger g).queue.length < (s.planSagger g).pendingMax →
        (t.chan ch.val).tx = (s.chan ch.val).tx ∧ t.flog = s.flog ∧ t.regs = s.regs ∧
        (t.sagger g).queue = (s.sagger g).queue ++
          [{ chan := ch.val, tag := m.tag, sub := submitOf m.payload, tSub := s.now, arrival := (s.sagger g).arrivals }])

/-- For the oldest CANCEL of a channel of a serving sagger after READY, with a payload of 4 bytes: a queued request
leaves the queue and one DONE with reason 3 follows; a live request that has neither ended nor failed is ended, and
one DONE with reason 3 follows; otherwise one DONE with reason 0x0A and no other change. A BUDGET of a sagger with
HOST_BUDGET that is well formed and finds room waits at its tenant for the fire point; one that fails a check d
changes no tenant and raises one record 0x26dd; in neither case is anything sent. (R237, R240, R251, R252) -/
def Obligations.CancelsAndBudgetsAreAnswered : Prop :=
  (∀ (ch : ChanIx) (s : State) m g id, s.headMsg ch.val 2 = some m → s.saggerOfChan ch.val = some g →
    (s.sagger g).st = .serving → s.boot.readyWas = true → m.payload.length = 4 →
    id = BitVec.ofNat 32 (leNat (m.payload.take 4)) →
    (∀ q, (s.sagger g).queue.find? (fun q => q.chan == ch.val && q.sub.reqId == id) = some q →
      ∃ t, exec (.cancel ch) s = .next t ∧
        (t.sagger g).queue = (s.sagger g).queue.filter (fun r => !(r.chan == ch.val && r.sub.reqId == id)) ∧
        (t.chan ch.val).tx = (s.chan ch.val).tx ++ [⟨0x12, m.tag, (q.done 3 0).bytes s.now, 3⟩] ∧
        Only [.chans, .saggers, .regs] s t ∧ Others State.chan [ch.val] s t ∧ Others State.sagger [g] s t) ∧
    (∀ q, (s.sagger g).queue.find? (fun q => q.chan == ch.val && q.sub.reqId == id) = none →
      (s.sagger g).live.find? (fun q => q.chan == ch.val && q.sub.reqId == id && q.st != .ended && q.failed.isNone) = some q →
      ∃ t, exec (.cancel ch) s = .next t ∧
        (∀ r ∈ (t.sagger g).live, r.chan = ch.val → r.sub.reqId = id → r.st = .ended) ∧
        (t.chan ch.val).tx = (s.chan ch.val).tx ++ [⟨0x12, m.tag, (q.done 3 0).bytes s.now, 3⟩] ∧
        Only [.chans, .saggers, .regs, .mem, .hbmStacks, .lat, .swaps] s t ∧ Others State.chan [ch.val] s t ∧
        Others State.sagger [g] s t) ∧
    ((s.sagger g).queue.find? (fun q => q.chan == ch.val && q.sub.reqId == id) = none →
      (s.sagger g).live.find? (fun q => q.chan == ch.val && q.sub.reqId == id && q.st != .ended && q.failed.isNone) = none →
      ∃ t, exec (.cancel ch) s = .next t ∧
        (t.chan ch.val).tx = (s.chan ch.val).tx ++ [⟨0x12, m.tag, ({ reqId := id, reason := 0x0A } : DoneInfo).bytes s.now, 3⟩] ∧
        Only [.chans, .regs] s t ∧ Others State.chan [ch.val] s t)) ∧
  (∀ (ch : ChanIx) (s : State) m g, s.headMsg ch.val 3 = some m → s.saggerOfChan ch.val = some g →
    (s.sagger g).st = .serving → s.boot.readyWas = true →
    ∃ t, exec (.budgetMessage ch) s = .next t ∧ (t.chan ch.val).tx = (s.chan ch.val).tx ∧
      Only [.chans, .saggers, .flog] s t ∧ Others State.chan [ch.val] s t ∧ Others State.sagger [g] s t ∧
      ((s.planSagger g).hostBudget = true → budgetBad m.payload = false → s.tenantsFull g (budgetOf m.payload).tenant = false →
        t.flog = s.flog ∧ ∃ e ∈ (t.sagger g).tenants, e.budget.tenant = (budgetOf m.payload).tenant ∧
          e.next = some (budgetOf m.payload)) ∧
      ((s.planSagger g).hostBudget = false → Detects 0x2695#16 s t ∧ t.saggers = s.saggers) ∧
      ((s.planSagger g).hostBudget = true → budgetBad m.payload = true → Detects 0x2694#16 s t ∧ t.saggers = s.saggers))

/-- For a running request of the slot. DRAFT_PASS with sound logits and a legal tree makes the request's tree the one
grown by the next level. SAMPLE_ROW at the node that the verify walk has reached adds that node's sample; at
temperature 0 its token is the first of the adjusted logits in rank order and no draw of the request's generator is
used, otherwise one is. VERIFY_TREE at the end of the walk fixes the accepted path and its copies, and counts the
nodes and the accepted ones. No memory, no other sagger and no other slot's request changes. (R254, R255, R259, R260,
R261) -/
def Obligations.SamplingVerifiesATree : Prop :=
  (∀ (g : SaggerIx) (slot : BitVec 16) blocks (s : State) q i, s.running g.val slot.toNat = some q → i = s.imageOfSlot g.val slot.toNat →
    q.st = .decode → q.draftSlot.isSome = true → q.tree.length < q.rows → blocks.length = (lastLevel q.tree).length →
    (∀ b ∈ blocks, s.logitsBad b = none) → treeBad (s.growTree q i.vocab q.rows blocks) (s.nextPos g.val slot.toNat) i.maxPos = false →
    ∃ t, exec (.draftPass g slot blocks) s = .next t ∧
      (t.sagger g.val).live = (s.sagger g.val).live.map (fun r => if r.slot = slot.toNat ∨ r.draftSlot = some slot.toNat then
        { r with tree := s.growTree q i.vocab q.rows blocks } else r) ∧
      Only [.saggers] s t ∧ Others State.sagger [g.val] s t) ∧
  (∀ (g : SaggerIx) (slot : BitVec 16) (node : BitVec 6) blocks (s : State) q i w r d, s.running g.val slot.toNat = some q →
    i = s.imageOfSlot g.val slot.toNat → w = s.walkOf g.val q → s.givesToken g.val q = true → w.next = some node.toNat →
    (q.st = .decode → q.tree.length = q.rows) → blocks.length = (i.vocab + 1023) / 1024 → s.logitsBad blocks = none →
    r = q.sub.sample (q.windowWith (w.out.map (·.1))) (s.logits i.vocab blocks) (Config.generator q.key q.draws).toNat →
    d = samplingDie blocks →
    ∃ t, exec (.sampleRow g slot node blocks) s = .next t ∧
      (t.sagger g.val).live = (s.sagger g.val).live.map (fun x => if x.slot = slot.toNat ∨ x.draftSlot = some slot.toNat then
        { x with samples := x.samples ++ [(node.toNat, r.token, r.logp)], draws := x.draws + (if q.sub.temp = 0 then 0 else 1) }
        else x) ∧
      (q.sub.temp = 0 → r.token = ((rankFirst (q.sub.adjust (q.windowWith (w.out.map (·.1))) (s.logits i.vocab blocks))).map (·.1)).getD 0) ∧
      t.reg .smpRows d = min (s.reg .smpRows d + 1) (2 ^ 64 - 1) ∧
      Only [.saggers, .regs] s t ∧ Others State.sagger [g.val] s t ∧
      RegsOnly [(.smpRows, d), (.smpBeats, d), (.smpGreedy, d), (.smpTrunc, d)] s t) ∧
  (∀ (g : SaggerIx) (slot : BitVec 16) (s : State) q w, s.running g.val slot.toNat = some q → w = s.walkOf g.val q →
    q.st = .decode → 1 < q.rows → q.path = none → w.next = none → w.out ≠ [] →
    ∃ t, exec (.verifyTree g slot) s = .next t ∧
      (t.sagger g.val).live = (s.sagger g.val).live.map (fun x => if x.slot = slot.toNat ∨ x.draftSlot = some slot.toNat then
        { x with path := some w.path, copies := pathCopies w.path } else x) ∧
      t.reg .sgrSpecNodes g.val = min (s.reg .sgrSpecNodes g.val + q.tree.length) (2 ^ 64 - 1) ∧
      t.reg .sgrSpecAccept g.val = min (s.reg .sgrSpecAccept g.val + (w.path.length - 1)) (2 ^ 64 - 1) ∧
      Only [.saggers, .regs] s t ∧ Others State.sagger [g.val] s t ∧
      RegsOnly [(.sgrSpecNodes, g.val), (.sgrSpecAccept, g.val)] s t)

/-- STEP_PLAN of a serving sagger between steps, after the slab clear and once its scores are applied, with a plan
that takes a row: the sagger is in a step with the plan's rows, and no request has a sample or a path yet. FIRE_POINT
changes nothing while anything that it waits for is open; otherwise the step is over: no step is under way, its ragged
entries and rows are gone, its number is the last fired, the slab clear is due, and every stage record written so far
has been handed over. No other sagger changes at either. (R244, R245, R270) -/
def Obligations.StepsBeginAndFire : Prop :=
  (∀ (g : SaggerIx) (s : State) p, p = s.planRun g.val → (s.sagger g.val).st = .serving → (s.sagger g.val).phase = .none →
    (s.sagger g.val).cleared = true → (s.sagger g.val).commit = none → s.scoresDone g.val = true → p.taken ≠ [] →
    ∃ t, exec (.stepPlan g) s = .next t ∧ (t.sagger g.val).phase = .running ∧
      (t.sagger g.val).stepNum = (p.s.sagger g.val).stepNum + 1 ∧ (t.sagger g.val).rowsN = rowSum p.taken ∧
      (∀ r ∈ (t.sagger g.val).live, r.samples = [] ∧ r.path = none) ∧
      Only [.mem, .regs, .freeCtr, .saggers, .hbmStacks, .flog, .lute] s t ∧ Others State.sagger [g.val] s t) ∧
  (∀ (g : SaggerIx) (s : State),
    (s.fireReady g.val = false → exec (.firePoint g) s = .next s) ∧
    (s.fireReady g.val = true →
      ∃ t, exec (.firePoint g) s = .next t ∧ (t.sagger g.val).phase = .none ∧ (t.sagger g.val).commit = none ∧
        (t.sagger g.val).cleared = false ∧ (t.sagger g.val).ragged = [] ∧ (t.sagger g.val).rowsN = 0 ∧
        (t.sagger g.val).fired = (s.sagger g.val).stepNum ∧ (t.sagger g.val).stageEnd = (s.sagger g.val).stageProd ∧
        Only [.mem, .regs, .freeCtr, .saggers, .wheels, .ldus, .ssus, .hbmStacks, .glazes, .lat, .lute, .chans, .mgmt, .flog] s t ∧
        Others State.sagger [g.val] s t))

/-- SWAP_OUT_PAGE takes the first page of the slot's swapped request whose last write is answered: while others
remain, its page-table entry becomes SWAPPED with the unit as its frame and no other byte of HBM changes. SWAP_IN of
the first candidate, when its frames are free and its request has units: one directory read and one stream for each
unit are queued, in order, and the units are landing; no other request, sagger or memory changes. (R267, R268) -/
def Obligations.PagesMoveToAndFromTheHostWindow : Prop :=
  (∀ (g : SaggerIx) (slot : BitVec 16) (s : State) q u e a t0, s.swapped g.val slot.toNat = some q →
    q.units.find? (fun u => s.pageIsOut g.val q u.1 u.2.1) = some u → e = s.pte g.val (q.unitSlot u.1) (u.1 % 256) u.2.1 →
    a = s.pteAddr g.val (q.unitSlot u.1) (u.1 % 256) u.2.1 →
    t0 = s.putPte g.val (q.unitSlot u.1) (u.1 % 256) u.2.1 { e with swapped := true, frame := u.2.2 } →
    ∃ t, exec (.swapOutPage g slot) s = .next t ∧
      (t0.swapPages g.val q ≠ [] → t.hbmNum a 8 = { e with swapped := true, frame := u.2.2 }.bits ∧
        Outside a 8 s.mem.hbm t.mem.hbm) ∧
      t.mem = { s.mem with hbm := t.mem.hbm } ∧ Only [.mem, .saggers, .hbmStacks, .lat] s t ∧ Others State.sagger [g.val] s t) ∧
  (∀ (g : SaggerIx) (slot : BitVec 16) (s : State) q fs s1, (s.swapInOrder g.val).find? (fun q => q.slot == slot.toNat) = some q →
    s.takeFrames g.val q.sub.tenant q.units.length = .ok (fs, s1) →
    (∀ r ∈ s.swapInOrder g.val, swapsBefore r q = false) → q.units ≠ [] →
    ∃ t, exec (.swapIn g slot) s = .next t ∧
      t.swaps.map (fun r => (r.write, r.layer, r.page, r.block)) =
        s.swaps.map (fun r => (r.write, r.layer, r.page, r.block)) ++ q.units.map (fun u => (false, u.1, u.2.1, 32)) ∧
      t.lat.streams.length = s.lat.streams.length + q.units.length ∧
      Only [.saggers, .lat, .swaps] s t ∧ Others State.sagger [g.val] s t)

/-- SLAB_WRITE inside a slab: exactly its bytes change and its lines are valid. SLAB_READ answers the bytes and counts
the invalid lines it touches; a corrected error still answers and counts in SLB_CE; an uncorrectable one answers
nothing and detects one record 0x37A9. SLAB_CLEAR after a fire point makes every line of the sagger's slabs invalid
and every byte of them zero, leaves every other slab's bytes, advances the clear tally by 1, and happens once. (R278,
R279, R280) -/
def Obligations.SlabLinesAndTheirClear : Prop :=
  (∀ (w : WheelIx) (o : BitVec 22) data (s : State), data ≠ [] → o.toNat + data.length ≤ slabBytes →
    ∃ t, exec (.slabWrite w o data) s = .next t ∧ t.mem.slabRead (w.val * slabBytes + o.toNat) data.length = data ∧
      Outside (w.val * slabBytes + o.toNat) data.length s.mem.slab t.mem.slab ∧
      (∀ l, l ∈ t.mem.valid ↔ l ∈ s.mem.valid ∨ l ∈ linesOf (w.val * slabBytes + o.toNat) data.length) ∧
      t.mem = { s.mem with slab := t.mem.slab, valid := t.mem.valid } ∧ Only [.mem] s t) ∧
  (∀ (w : WheelIx) (o : BitVec 22) len (s : State), len ≠ 0 → o.toNat + len ≤ slabBytes →
    (∃ t, exec (.slabRead w o len .good) s = .next t ∧
      t.mem = { s.mem with slabOut := s.mem.slabRead (w.val * slabBytes + o.toNat) len } ∧
      t.reg .slbInvalidRd w.val = min (s.reg .slbInvalidRd w.val + s.invalidLines (w.val * slabBytes + o.toNat) len) (2 ^ 32 - 1) ∧
      Only [.mem, .regs] s t ∧ RegsOnly [(.slbInvalidRd, w.val)] s t) ∧
    (∃ t, exec (.slabRead w o len .corrected) s = .next t ∧
      t.mem = { s.mem with slabOut := s.mem.slabRead (w.val * slabBytes + o.toNat) len } ∧
      t.reg .slbCe w.val = min (s.reg .slbCe w.val + 1) (2 ^ 32 - 1) ∧ Only [.mem, .regs, .flog] s t) ∧
    (∃ t, exec (.slabRead w o len .uncorrectable) s = .next t ∧ t.mem = s.mem ∧ Detects 0x37A9#16 s t ∧
      t.reg .slbUe w.val = min (s.reg .slbUe w.val + 1) (2 ^ 32 - 1) ∧ Only [.regs, .flog, .saggers, .lute] s t)) ∧
  (∀ (g : SaggerIx) (s : State), (s.sagger g.val).st = .serving → (s.sagger g.val).phase = .none →
    (s.sagger g.val).commit = none →
    ((s.sagger g.val).cleared = false →
      ∃ t, exec (.slabClear g) s = .next t ∧ (t.sagger g.val).cleared = true ∧
        (t.sagger g.val).clearTally = (s.sagger g.val).clearTally + 1 ∧
        (∀ w < 144, s.ownsWheel g.val w = true → (∀ x < slabBytes, mget t.mem.slab (w * slabBytes + x) = 0) ∧
          ∀ l ∈ t.mem.valid, l / 40960 ≠ w) ∧
        (∀ w, s.ownsWheel g.val w = false → ∀ x < slabBytes,
          mget t.mem.slab (w * slabBytes + x) = mget s.mem.slab (w * slabBytes + x)) ∧
        t.mem = { s.mem with slab := t.mem.slab, valid := t.mem.valid } ∧
        Only [.mem, .regs, .saggers] s t ∧ Others State.sagger [g.val] s t) ∧
    ((s.sagger g.val).cleared = true → exec (.slabClear g) s = .next s))

/-- In a serving sagger, a record that passes its checks: FILL leaves PATTERN in every word of the destination, COPY
the whole source as it was before, HLOAD (source in this module's HBM) the HBM bytes, GATHER one A4 block of each
named row and input block; no slab byte outside the destination changes, no other memory, and the tally, when in use
and homed here, advances by 1. A FILL, COPY or HLOAD record that fails its checks writes nothing and detects one
record 0x37A0. (R281, R282, R284) -/
def Obligations.SlabOperationRecordsWriteTheirDestination : Prop :=
  ∀ (g : SaggerIx) (rec : BitVec 128) (s : State), (s.sagger g.val).st = .serving →
    (sopOp rec.toNat = 1 → s.sopBad g.val rec.toNat 4 = false →
      ∃ t, exec (.fill g rec) s = .next t ∧ t.slab (sopDst rec.toNat) (sopLen rec.toNat) =
        (List.replicate (sopLen rec.toNat / 4) (leBytes (sopSrc rec.toNat) 4)).flatten ∧
      Outside (slabIx (sopDst rec.toNat)) (sopLen rec.toNat) s.mem.slab t.mem.slab ∧
      ((s.tally (tallyKey g.val (sopTally rec.toNat))).mode ≠ 0 → s.homeHere (tallyKey g.val (sopTally rec.toNat)) = true →
        (t.tally (tallyKey g.val (sopTally rec.toNat))).prod = (s.tally (tallyKey g.val (sopTally rec.toNat))).prod + 1) ∧
      t.mem = { s.mem with slab := t.mem.slab, valid := t.mem.valid } ∧
      Only [.mem, .regs, .saggers, .tallies, .flog, .lute] s t) ∧
    (sopOp rec.toNat = 2 → s.sopBad g.val rec.toNat 4 = false → s.slabRegion g.val (sopSrc rec.toNat) (sopLen rec.toNat) 4 = true →
      ∃ t, exec (.copy g rec) s = .next t ∧
      t.slab (sopDst rec.toNat) (sopLen rec.toNat) = s.slab (sopSrc rec.toNat) (sopLen rec.toNat) ∧
      Outside (slabIx (sopDst rec.toNat)) (sopLen rec.toNat) s.mem.slab t.mem.slab ∧
      ((s.tally (tallyKey g.val (sopTally rec.toNat))).mode ≠ 0 → s.homeHere (tallyKey g.val (sopTally rec.toNat)) = true →
        (t.tally (tallyKey g.val (sopTally rec.toNat))).prod = (s.tally (tallyKey g.val (sopTally rec.toNat))).prod + 1) ∧
      t.mem = { s.mem with slab := t.mem.slab, valid := t.mem.valid } ∧
      Only [.mem, .regs, .saggers, .tallies, .flog, .lute] s t) ∧
    (sopOp rec.toNat = 3 → s.sopBad g.val rec.toNat 1 = false →
      s.inWindow g.val (sopSrc rec.toNat * 512) (sopLen rec.toNat) = false →
      s.mayRead g.val (sopSrc rec.toNat * 512) (sopLen rec.toNat) = true →
      ∃ t, exec (.hload g rec) s = .next t ∧
      t.slab (sopDst rec.toNat) (sopLen rec.toNat) = s.hbm (sopSrc rec.toNat * 512) (sopLen rec.toNat) ∧
      Outside (slabIx (sopDst rec.toNat)) (sopLen rec.toNat) s.mem.slab t.mem.slab ∧
      ((s.tally (tallyKey g.val (sopTally rec.toNat))).mode ≠ 0 → s.homeHere (tallyKey g.val (sopTally rec.toNat)) = true →
        (t.tally (tallyKey g.val (sopTally rec.toNat))).prod = (s.tally (tallyKey g.val (sopTally rec.toNat))).prod + 1) ∧
      t.mem = { s.mem with slab := t.mem.slab, valid := t.mem.valid } ∧
      Only [.mem, .regs, .saggers, .tallies, .flog, .lute] s t) ∧
    (∀ i l, sopOp rec.toNat = 4 → s.gatherBad g.val rec.toNat = false → s.image? g.val (s.sagger g.val).stepModel = some i →
      l = s.layer g.val (sopLayer rec.toNat) → (∀ x ∈ s.gatherIds rec.toNat, x < l.outputs) →
      ∃ t, exec (.gather g rec) s = .next t ∧
      (∀ k b bs, k < sopLen rec.toNat → b < l.nb →
        bs = gatherBlock (rowWeights l.wfmt (s.gatherRow i l ((s.gatherIds rec.toNat).getD k 0) b)) →
        t.slab (sopDst rec.toNat + (k * l.nb + b) * 640) bs.length = bs) ∧
      Outside (slabIx (sopDst rec.toNat)) (640 * l.nb * sopLen rec.toNat) s.mem.slab t.mem.slab ∧
      ((s.tally (tallyKey g.val (sopTally rec.toNat))).mode ≠ 0 → s.homeHere (tallyKey g.val (sopTally rec.toNat)) = true →
        (t.tally (tallyKey g.val (sopTally rec.toNat))).prod = (s.tally (tallyKey g.val (sopTally rec.toNat))).prod + 1) ∧
      t.mem = { s.mem with slab := t.mem.slab, valid := t.mem.valid } ∧
      Only [.mem, .regs, .saggers, .tallies, .flog, .lute] s t) ∧
    (∀ op c, (op, c) ∈ [(1, Instr.fill g rec), (2, Instr.copy g rec), (3, Instr.hload g rec)] → sopOp rec.toNat = op →
      s.sopBad g.val rec.toNat (if op = 3 then 1 else 4) = true →
      ∃ t, exec c s = .next t ∧ t.mem = s.mem ∧ t.tallies = s.tallies ∧ Detects 0x37A0#16 s t ∧
        Only [.saggers, .flog, .lute] s t)

/-- LOAD with room in its die's queue and a legal record appends the load under the next number, and exactly its units
take that number as ARM, keeping LAND; a full queue changes nothing; an illegal record changes no ware board, halts
the list and detects 0x38A1. LOAD_LAND of a load that nothing blocks writes its data to the ware board, leaves every
other byte, and every unit of it takes its number as LAND; an HBM error of the read is counted, and an uncorrectable
one poisons as R301 says. LOAD_DEMAND marks exactly the loads that the fill waits on; HBM_PROMOTE promotes exactly the
due reads. (R286, R288, R290, R291, R292, R293, R296) -/
def Obligations.WareBoardLoadsArmAndLand : Prop :=
  (∀ (g : SaggerIx) (rec : BitVec 256) (s : State) d l, (d, l) = loadOf rec.toNat g.val →
    (s.loadBad g.val rec.toNat = false → (s.ware d).queue.length < 4096 →
      ∃ t, exec (.load g rec) s = .next t ∧ (t.ware d).next = (s.ware d).next + 1 ∧
        (t.ware d).queue = (s.ware d).queue ++ [{ l with num := (s.ware d).next, since := s.refNow }] ∧
        (∀ u, tget {} (t.ware d).units u = if l.dst ≤ u ∧ u < l.dst + l.len then
          { tget {} (s.ware d).units u with arm := (s.ware d).next } else tget {} (s.ware d).units u) ∧
        Only [.wares, .saggers, .lute, .regs] s t ∧ Others State.ware [d] s t ∧ Others State.sagger [g.val] s t) ∧
    (s.loadBad g.val rec.toNat = false → 4096 ≤ (s.ware d).queue.length → exec (.load g rec) s = .next s) ∧
    (s.loadBad g.val rec.toNat = true →
      ∃ t, exec (.load g rec) s = .next t ∧ (t.sagger g.val).listHalt = true ∧ Detects 0x38A1#16 s t ∧
        Only [.saggers, .flog, .lute] s t)) ∧
  (∀ (d : DieIx) num (off : BitVec 22) (s : State) l data, (s.ware d.val).queue.find? (fun l => l.num == num) = some l →
    s.loadData d.val l = some data → s.loadBlocked d.val l = false → l.sagger < 12 →
    (∃ t, exec (.loadLand d num .good off) s = .next t ∧
      mread t.mem.ware (d.val * 2 ^ 26 + l.dst * 1024) data.length = data ∧
      Outside (d.val * 2 ^ 26 + l.dst * 1024) data.length s.mem.ware t.mem.ware ∧ t.mem = { s.mem with ware := t.mem.ware } ∧
      (∀ k < l.len, (tget {} (t.ware d.val).units (l.dst + k)).land = num ∧
        (tget {} (t.ware d.val).units (l.dst + k)).poison = s.chunkIsPoisoned ((l.src + k) * 1024)) ∧
      (∀ u, u < l.dst ∨ l.dst + l.len ≤ u →
        (tget {} (t.ware d.val).units u).land = (tget {} (s.ware d.val).units u).land) ∧
      Only [.mem, .wares, .saggers, .tallies, .regs, .flog, .lute] s t ∧ Others State.ware [d.val] s t) ∧
    (∀ a k, a = l.src * 1024 + off.toNat % (l.len * 1024) → k = stackOfAddr a → s.inWindow l.sagger (l.src * 1024) (l.len * 1024) = false →
      (∃ t, exec (.loadLand d num .corrected off) s = .next t ∧ t.reg .hbmCe k = min (s.reg .hbmCe k + 1) (2 ^ 32 - 1) ∧
        ∀ j < l.len, (tget {} (t.ware d.val).units (l.dst + j)).land = num) ∧
      ∃ t, exec (.loadLand d num .uncorrectable off) s = .next t ∧ t.reg .hbmUe k = min (s.reg .hbmUe k + 1) (2 ^ 32 - 1) ∧
        ∀ j < l.len, (tget {} (t.ware d.val).units (l.dst + j)).land = num ∧
          (tget {} (t.ware d.val).units (l.dst + j)).poison = (s.hbmLost l.sagger a .weight).chunkIsPoisoned ((l.src + j) * 1024))) ∧
  (∀ (w : WheelIx) (b : BufIx) (s : State) x n, x = (s.wheel w.val).buf b.val → x.st = .fill →
    n = ((s.ware x.entry.tileDie).queue.filter fun l => !l.demand && s.awaited x l).length → n ≠ 0 →
    ∃ t, exec (.loadDemand w b) s = .next t ∧
      (t.ware x.entry.tileDie).queue = (s.ware x.entry.tileDie).queue.map (fun l => { l with demand := l.demand || s.awaited x l }) ∧
      t.reg .wbdDemand x.entry.tileDie = min (s.reg .wbdDemand x.entry.tileDie + n) (2 ^ 32 - 1) ∧
      Only [.wares, .regs] s t ∧ Others State.ware [x.entry.tileDie] s t) ∧
  (∀ (k : StackIx) id (s : State), ∃ t, exec (.hbmPromote k id) s = .next t ∧ Only [.wares] s t ∧
    ∀ d < 2, (t.ware d).queue = (s.ware d).queue.map (fun l =>
      if l.num.toNat = id ∧ stackOfAddr (l.src * 1024) = k.val ∧ l.hbmClass ≠ 0 ∧ l.since + 10000 ≤ s.refNow then
        { l with promoted := l.promoted + 1, since := s.refNow } else l))

/-- On this module's HBM, in a sagger's own strata. An aligned narrow write puts exactly its bytes, a narrow read
answers them; ADD_S32 and ADD_S64 add modulo 2^32 and 2^64, ADD_F32 adds binary32 with one rounding (NaN payload
free), ADD_S32_FLOOR adds only when the signed result is at least zero, else it leaves the word and fails; RET answers
the old value; no other byte changes. A write or atomic to a protected stratum changes no memory and detects 0x39A3; a
misaligned or foreign access changes no memory and detects 0x39A2. (R297, R298, R299, R303) -/
def Obligations.NarrowAccessesAndAtomics : Prop :=
  (∀ (g : SaggerIx) (a : BitVec 41) size data hit ecc (s : State), size ∈ [8, 16, 32, 64] → a.toNat % size = 0 →
    s.inWindow g.val a.toNat size = false →
    (s.owns g.val a.toNat size = true → s.rangeProtected a.toNat size = false → data.length = size →
      ∃ t, exec (.narrowAccess g true a size data ecc hit) s = .next t ∧ t.hbm a.toNat size = data ∧
        Outside a.toNat size s.mem.hbm t.mem.hbm ∧ t.mem = { s.mem with hbm := t.mem.hbm } ∧ Only [.mem, .regs] s t) ∧
    (s.owns g.val a.toNat size = true →
      ∃ t, exec (.narrowAccess g false a size data .good hit) s = .next t ∧
        t.mem = { s.mem with narrowOut := s.hbm a.toNat size } ∧ Only [.mem, .regs] s t) ∧
    (s.owns g.val a.toNat size = true → s.rangeProtected a.toNat size = true → data.length = size →
      ∃ t, exec (.narrowAccess g true a size data ecc hit) s = .next t ∧ Detects 0x39A3#16 s t ∧ Only [.saggers, .flog, .lute] s t) ∧
    (s.owns g.val a.toNat size = false → data.length = size → ∀ wr,
      ∃ t, exec (.narrowAccess g wr a size data ecc hit) s = .next t ∧ Detects 0x39A2#16 s t ∧ Only [.saggers, .flog, .lute] s t)) ∧
  (∀ (g : SaggerIx) (a : BitVec 41) size data hit ecc wr (s : State), size ∉ [8, 16, 32, 64] ∨ a.toNat % size ≠ 0 → data.length = size →
    ∃ t, exec (.narrowAccess g wr a size data ecc hit) s = .next t ∧ Detects 0x39A2#16 s t ∧ Only [.saggers, .flog, .lute] s t) ∧
  (∀ (g : SaggerIx) (rec : BitVec 128) (s : State) a old, a = atAddr rec.toNat → old = s.hbmNum a (atBytes rec.toNat) →
    atBad rec.toNat = false → s.inWindow g.val (atAddr rec.toNat) (atBytes rec.toNat) = false →
    s.owns g.val (atAddr rec.toNat) (atBytes rec.toNat) = true →
    s.rangeProtected a (atBytes rec.toNat) = false →
    (atOp rec.toNat = 1 → ∃ t, exec (.addS32 g rec) s = .next t ∧ t.hbmNum a 4 = (old + nbits rec.toNat 64 32) % 2 ^ 32 ∧
      t.mem.atomicOk = true ∧ t.mem.atomicOut = (if atRet rec.toNat then some old else none) ∧
      Outside a 4 s.mem.hbm t.mem.hbm ∧ Only [.mem, .regs, .freeCtr] s t) ∧
    (atOp rec.toNat = 2 → ∃ t, exec (.addS64 g rec) s = .next t ∧ t.hbmNum a 8 = (old + nbits rec.toNat 64 64) % 2 ^ 64 ∧
      t.mem.atomicOk = true ∧ t.mem.atomicOut = (if atRet rec.toNat then some old else none) ∧
      Outside a 8 s.mem.hbm t.mem.hbm ∧ Only [.mem, .regs, .freeCtr] s t) ∧
    (atOp rec.toNat = 3 → ∃ t, exec (.addF32 g rec) s = .next t ∧
      t.hbmNum a 4 = f32Add (Config.freeNat s.freeCtr) old (nbits rec.toNat 64 32) % 2 ^ 32 ∧
      t.mem.atomicOk = true ∧ t.mem.atomicOut = (if atRet rec.toNat then some old else none) ∧
      Outside a 4 s.mem.hbm t.mem.hbm ∧ Only [.mem, .regs, .freeCtr] s t) ∧
    (atOp rec.toNat = 4 → ∃ t, exec (.addS32Floor g rec) s = .next t ∧
      (0 ≤ nsigned 32 old + nsigned 32 (nbits rec.toNat 64 32) →
        t.hbmNum a 4 = npattern 32 (nsigned 32 old + nsigned 32 (nbits rec.toNat 64 32)) ∧ t.mem.atomicOk = true) ∧
      (nsigned 32 old + nsigned 32 (nbits rec.toNat 64 32) < 0 → t.mem.hbm = s.mem.hbm ∧ t.mem.atomicOk = false) ∧
      Outside a 4 s.mem.hbm t.mem.hbm ∧ Only [.mem, .regs, .freeCtr] s t)) ∧
  (∀ (g : SaggerIx) (rec : BitVec 128) (s : State) op c, atBad rec.toNat = false → s.inWindow g.val (atAddr rec.toNat) (atBytes rec.toNat) = false →
    s.owns g.val (atAddr rec.toNat) (atBytes rec.toNat) = true →
    s.rangeProtected (atAddr rec.toNat) (atBytes rec.toNat) = true → atOp rec.toNat = op →
    (op, c) ∈ [(1, Instr.addS32 g rec), (2, Instr.addS64 g rec), (3, Instr.addF32 g rec), (4, Instr.addS32Floor g rec)] →
    ∃ t, exec c s = .next t ∧ Detects 0x39A3#16 s t ∧ Only [.saggers, .flog, .lute] s t)

/-- REFRESH_TICK: the stack's rate is at least that of its temperature, rises at once, and falls by at most one step
and only with the temperature 3 °C below its threshold; a first tick at 105 °C or above sets F to 15/16 and detects
0x19AF. FRAME_SCRUB zeroes the oldest freed frame and no other byte; a good read-back frees it, a bad one retires it
with a record 0x19AC. STORE_READ of a page that decodes within 8 attempts on a usable channel is never lost; one whose
stripe fails too is lost and counted; one that the stripe restores detects 0x1AAB. DISTURB_RELOCATE takes a queued
block of an unlocked namespace from the queue and restarts its count. (R300, R304, R305, R308, R309) -/
def Obligations.ControllersAndTheModelStore : Prop :=
  (∀ (k : StackIx) temp (s : State), ∃ t, exec (.refreshTick k temp) s = .next t ∧
    rateOf temp ≤ (t.stack k.val).refresh ∧
    (rateOf temp > (s.stack k.val).refresh → (t.stack k.val).refresh = rateOf temp) ∧
    ((t.stack k.val).refresh < (s.stack k.val).refresh →
      (t.stack k.val).refresh + 1 = (s.stack k.val).refresh ∧ temp ≤ rateThreshold (s.stack k.val).refresh - 3 ∧
        999 ≤ (s.stack k.val).coolMs) ∧
    ((s.stack k.val).limit = none → temp ≥ 105 → (t.stack k.val).limit = some 15 ∧ Detects 0x19AF#16 s t) ∧
    ((s.stack k.val).limit = none → temp < 105 → (t.stack k.val).limit = none ∧ t.flog = s.flog) ∧
    Only [.hbmStacks, .flog] s t ∧ Others State.stack [k.val] s t) ∧
  (∀ (k : StackIx) (s : State) f g rest, (s.stack k.val).scrubQ = (f, g) :: rest →
    ∀ ok, ∃ t, exec (.frameScrub k ok) s = .next t ∧ (t.stack k.val).scrubQ = rest ∧
      (∀ x < frameBytes, mget t.mem.hbm (f * frameBytes + x) = 0) ∧ Outside (f * frameBytes) frameBytes s.mem.hbm t.mem.hbm ∧
      t.mem = { s.mem with hbm := t.mem.hbm } ∧ Others State.stack [k.val] s t ∧
      (ok = true → (t.sagger g).frames = tdel (s.sagger g).frames f ∧
        t.reg .hbmScrubbed k.val = min (s.reg .hbmScrubbed k.val + 1) (2 ^ 32 - 1) ∧ Only [.mem, .regs, .saggers, .hbmStacks] s t) ∧
      (ok = false → (t.sagger g).frames = tset (s.sagger g).frames f .retired ∧ Detects 0x19AC#16 s t ∧
        t.reg .hbmRetired k.val = min (s.reg .hbmRetired k.val + 1) (2 ^ 32 - 1) ∧
        Only [.mem, .regs, .saggers, .hbmStacks, .flog] s t)) ∧
  (∀ (ns : BitVec 4) page fails sf (s : State), ∃ t, exec (.storeRead ns page fails sf) s = .next t ∧ t.mem = s.mem ∧
    (pageChannel page ∉ s.storeBad → fails ≤ 8 → (ns.toNat, page) ∉ t.store.lost ∧ Only [.store, .regs] s t) ∧
    ((pageChannel page ∈ s.storeBad ∨ 8 < fails) → (sf = true ∨ ∃ c ∈ s.storeBad, c ≠ pageChannel page) →
      (ns.toNat, page) ∈ t.store.lost ∧ t.reg .mstUncorr 0 = min (s.reg .mstUncorr 0 + 1) (2 ^ 32 - 1) ∧ Only [.store, .regs] s t) ∧
    ((pageChannel page ∈ s.storeBad ∨ 8 < fails) → sf = false → (∀ c ∈ s.storeBad, c = pageChannel page) →
      (ns.toNat, page) ∉ t.store.lost ∧ Detects 0x1AAB#16 s t ∧ t.reg .mstRecon 0 = min (s.reg .mstRecon 0 + 1) (2 ^ 32 - 1))) ∧
  (∀ (ns : BitVec 4) block (s : State), (ns.toNat, block) ∈ s.store.queued → s.nsLocked ns.toNat = false →
    ∃ t, exec (.disturbRelocate ns block) s = .next t ∧ (ns.toNat, block) ∉ t.store.queued ∧
      (∀ r ∈ t.store.reads, r.1 ≠ (ns.toNat, block)) ∧ Only [.store] s t)

/-- CHUNK_POISON of a chunk of a loaded image that is in no table: with room it enters its die's table with its
sources and one record 0x10A6. CHUNK_RELOAD whose first source has returned bytes with the chunk's digest writes
exactly those bytes and takes the chunk from the table; wrong bytes leave memory and put its next source first.
RELOAD_SOURCE_TIMEOUT past the source's bound takes the next source, and leaves memory. (R310, R311, R312) -/
def Obligations.PoisonedChunksAreReloaded : Prop :=
  (∀ (a : BitVec 41) (s : State) x, (s.imagesAt a.toNat).head? = some x → s.chunkIsPoisoned a.toNat = false →
    (s.poisons (dieOfAddr a.toNat)).length < 4096 →
    ∃ t, exec (.chunkPoison a) s = .next t ∧
      t.poisons (dieOfAddr a.toNat) = s.poisons (dieOfAddr a.toNat) ++
        [{ chunk := a.toNat / 65536, sources := s.reloadSources x.2, since := s.refNow }] ∧
      Detects 0x10A6#16 s t ∧ Only [.poison, .flog, .lat, .ports, .regs] s t) ∧
  (∀ (a : BitVec 41) (s : State) p g i data, s.poisonOf a.toNat = some p → (s.imagesAt a.toNat).head? = some (g, i) →
    s.returned p i ((i.chunkAt a.toNat).getD 0) a.toNat = some data →
    (data ≠ [] → digest256 data = i.info.digests.getD ((i.chunkAt a.toNat).getD 0) 0 →
      ∃ t, exec (.chunkReload a) s = .next t ∧ t.hbm (a.toNat / 65536 * 65536) data.length = data ∧
        Outside (a.toNat / 65536 * 65536) data.length s.mem.hbm t.mem.hbm ∧ t.mem = { s.mem with hbm := t.mem.hbm } ∧
        (∀ q ∈ t.poisons (dieOfAddr a.toNat), q.chunk ≠ a.toNat / 65536) ∧ Only [.mem, .poison, .lat, .regs] s t) ∧
    (digest256 data ≠ i.info.digests.getD ((i.chunkAt a.toNat).getD 0) 0 →
      ∃ t q, exec (.chunkReload a) s = .next t ∧ t.mem = s.mem ∧ t.poisonOf a.toNat = some q ∧ q.sources = p.sources.drop 1)) ∧
  (∀ (a : BitVec 41) (s : State) p k, s.poisonOf a.toNat = some p → p.sources.head? = some k →
    p.since + sourceBound k ≤ s.refNow →
    ∃ t q, exec (.reloadSourceTimeout a) s = .next t ∧ t.mem = s.mem ∧ t.poisonOf a.toNat = some q ∧ q.sources = p.sources.drop 1 ∧
      q.since = s.refNow)

/-- For every block of bytes and every body offset, expanding the payload that the compressor emits against the index
entry that it emits gives the block back; the entry has the offset, the block's length and its CRC32C, and the payload
is padded to a multiple of 16 bytes. An all-zero block is emitted as ZERO without payload. The choice of tokens
(literals and zero runs) is the model's own. (R319, R321, R322, R323) -/
def Obligations.GlazeBlocksRoundTrip : Prop :=
  ∀ (off : Nat) (bs : List Byte) e pay, (e, pay) = compressBlock off bs →
    expandBlock e pay = some bs ∧ e.offset = off ∧ e.blkLen = bs.length ∧ e.crc = crc32c bs ∧ pay.length = up16 e.payLen ∧
    (bs.all (· == 0) = true → e.mode = 2 ∧ pay = []) ∧ (e.mode = 1 → e.payLen ≤ 3840) ∧
    (e.short = true ↔ bs.length < 4096)

/-- STREAM_HEADER_CHECK of a complete header and index: a good one opens the stream with its table; a bad one detects
0x1BB1 and is asked for once more; a second bad one of a gradient stream fails it with 0x3BB0. BLOCK_EXPAND of a block
that passes and is not the last: it leaves the queue, is held as done, and its bytes alone are written (KIND 4 keeps
them in the stream; KIND 5 adds each binary32 word, NaN payload free); a block already done is counted and dropped; a
damaged one with refetches left is counted, asked for again and writes nothing. REFETCH_TIMEOUT past its bound asks
again and writes nothing. BLOCK_COMPRESS appends the next block of its stream. (R316, R320, R322, R323, R325, R326,
R327) -/
def Obligations.GlazeStreamsAreCheckedExpandedAndRefetched : Prop :=
  (∀ sid (s : State) t c, s.stream? sid = some t → t.headerIn = true → t.peer = .lattice c →
    (streamOk t.kind t.ctxA t.ctxB t.dstLen t.header t.indexBytes = true → s.streamRoom t = true →
      ∃ u, exec (.streamHeaderCheck sid) s = .next u ∧
        u.stream? sid = some { t with st := .open, table := glazeTable (glazeHdrOf t.header).nblk t.indexBytes } ∧
        Only [.lat, .regs] s u ∧ RegsOnly [(.glzInBytes, s.streamDie t 0)] s u) ∧
    ((streamOk t.kind t.ctxA t.ctxB t.dstLen t.header t.indexBytes && s.streamRoom t) = false →
      (t.retried = false → ∃ u v, exec (.streamHeaderCheck sid) s = .next u ∧ Detects 0x1BB1#16 s u ∧ u.stream? sid = some v ∧
        v.retried = true ∧ v.header = [] ∧ v.index = [] ∧ v.entries = 0 ∧ v.st = t.st ∧ Only [.flog, .lat, .ports, .regs] s u) ∧
      (t.retried = true → t.kind = 5 → ∃ u, exec (.streamHeaderCheck sid) s = .next u ∧ Detects 0x3BB0#16 s u ∧
        (∀ v ∈ u.lat.streams, v.sid ≠ sid) ∧
        u.reg .glzFailed (s.streamDie t 0) = min (s.reg .glzFailed (s.streamDie t 0) + 1) (2 ^ 32 - 1) ∧ u.mem = s.mem))) ∧
  (∀ (d : DieIx) (s : State) sid k pay rest t e, (s.glaze d.val).expQ = (sid, k, pay) :: rest → s.stream? sid = some t →
    t.table[k]? = some e →
    (k ∈ t.done → ∃ u, exec (.blockExpand d) s = .next u ∧ (u.glaze d.val).expQ = rest ∧
      u.reg .glzDup d.val = min (s.reg .glzDup d.val + 1) (2 ^ 32 - 1) ∧ Only [.glazes, .regs] s u ∧
      RegsOnly [(.glzDup, d.val)] s u ∧ Others State.glaze [d.val] s u) ∧
    (∀ bs, k ∉ t.done → expandBlock e pay = some bs → t.done.length + 1 ≠ t.table.length →
      ∃ u v, exec (.blockExpand d) s = .next u ∧ (u.glaze d.val).expQ = rest ∧ u.stream? sid = some v ∧
        (∀ j, j ∈ v.done ↔ j = k ∨ j ∈ t.done) ∧ Only [.glazes, .mem, .regs, .lat, .freeCtr] s u ∧ Others State.glaze [d.val] s u ∧
        (t.kind ≠ 4 → t.kind ≠ 5 → u.hbm (s.streamAddr t k) bs.length = bs ∧
          Outside (s.streamAddr t k) bs.length s.mem.hbm u.mem.hbm ∧ u.mem = { s.mem with hbm := u.mem.hbm } ∧
          u.reg .glzOutBytes d.val = min (s.reg .glzOutBytes d.val + bs.length) (2 ^ 64 - 1) ∧ u.freeCtr = s.freeCtr) ∧
        (t.kind = 4 → u.mem = s.mem ∧ u.freeCtr = s.freeCtr ∧ tget [] v.held k = bs) ∧
        (t.kind = 5 → bs.length % 4 = 0 → s.streamAddr t k + bs.length ≤ 2 ^ 41 →
          (∀ j < bs.length / 4, u.hbmNum (s.streamAddr t k + 4 * j) 4 = f32Add (Config.freeNat (s.freeCtr + j))
            (s.hbmNum (s.streamAddr t k + 4 * j) 4) (leNat ((bs.drop (4 * j)).take 4)) % 2 ^ 32) ∧
          Outside (s.streamAddr t k) bs.length s.mem.hbm u.mem.hbm ∧ u.mem = { s.mem with hbm := u.mem.hbm })) ∧
    (k ∉ t.done → expandBlock e pay = none → tget 0 t.refetch k < 3 →
      ∃ u v, exec (.blockExpand d) s = .next u ∧ (u.glaze d.val).expQ = rest ∧ u.mem = s.mem ∧ u.stream? sid = some v ∧
        v.done = t.done ∧ tget 0 v.refetch k = tget 0 t.refetch k + 1 ∧
        u.reg .glzDamaged d.val = min (s.reg .glzDamaged d.val + 1) (2 ^ 32 - 1) ∧
        Only [.glazes, .regs, .flog, .lat, .ports, .swaps] s u)) ∧
  (∀ sid (k : BitVec 17) (s : State) t w, s.stream? sid = some t → w ∈ t.waiting → w.1 = k.toNat → w.2 + t.peer.bound ≤ s.refNow →
    tget 0 t.refetch k.toNat < 3 →
    ∃ u v, exec (.refetchTimeout sid k) s = .next u ∧ u.mem = s.mem ∧ u.stream? sid = some v ∧
      tget 0 v.refetch k.toNat = tget 0 t.refetch k.toNat + 1 ∧ (k.toNat, s.refNow) ∈ v.waiting ∧
      Only [.regs, .lat, .ports, .swaps] s u) ∧
  (∀ (d : DieIx) (s : State) sid k rest o b, (s.glaze d.val).cmpQ = (sid, k) :: rest → s.lat.outs.find? (·.sid == sid) = some o →
    k = o.blocks.length → b = compressBlock (bodyBytes (o.blocks.map (·.1)) / 16) (s.outBytes o k) →
    ∃ u, exec (.blockCompress d) s = .next u ∧ (u.glaze d.val).cmpQ = rest ∧
      u.lat.outs.find? (·.sid == sid) = some { o with blocks := o.blocks ++ [b] } ∧
      u.reg .glzCmpBytes d.val = min (s.reg .glzCmpBytes d.val + min 4096 (o.len - 4096 * k)) (2 ^ 64 - 1) ∧
      Only [.glazes, .regs, .lat, .ports] s u ∧ Others State.glaze [d.val] s u)

/-- For a tally whose home is here. TALLY_CONFIG writes a legal configuration while nothing waits, else detects 0xC3
and keeps it. SIGNAL by the tally's own sagger on a tally in use: PROD advances by n modulo 2^48, LAST_SIG is the
agent, exactly the waiters that PROD has reached wake; beyond DEPTH the tally is marked OVER with 0xC0. RELEASE of a
RING tally advances CONS by n, or changes nothing and detects 0xC1 when CONS would pass PROD. WAIT for a reached
target lets the agent go on, and on an EVENT tally a consuming one advances CONS to the target; else the agent waits.
READ answers the counts that the die sees. Mode or ownership errors detect 0xC2 and move no count. Records are class
3, of house tallies class 4. Reached targets are judged modulo 2^48. (R334, R335, R336, R337, R339, R340, R346) -/
def Obligations.TallyCountsMoveByTheirOperations : Prop :=
  (∀ (i : TallyId) cfg (s : State),
    (cfgLegal cfg = true → (s.tally (idKey i)).waiters = [] → (s.tally (idKey i)).blocked = [] →
      ∃ t, exec (.tallyConfig i cfg) s = .next t ∧ t.tally (idKey i) = { s.tally (idKey i) with cfg := cfg } ∧
        Only [.tallies] s t ∧ Others State.tally [(idKey i)] s t) ∧
    ((cfgLegal cfg = false ∨ (s.tally (idKey i)).waiters ≠ [] ∨ (s.tally (idKey i)).blocked ≠ []) →
      ∃ t, exec (.tallyConfig i cfg) s = .next t ∧ Detects (faultCode (if i.sagger.toNat < 12 then 3 else 4) 0xC 0xC3) s t ∧ Only [.flog, .saggers, .lute] s t)) ∧
  (∀ (i : TallyId) (n : BitVec 16) blocking agent (s : State) x, x = s.tally (idKey i) → n ≠ 0 → x.mode ≠ 0 → s.homeHere (idKey i) = true →
    (blocking = true → s.signalFits (idKey i) n.toNat agent = true) →
    ∃ t, exec (.signal i n blocking agent i.sagger) s = .next t ∧ (t.tally (idKey i)).prod = x.prod + BitVec.ofNat 48 n.toNat ∧
      (t.tally (idKey i)).last = agent ∧ (t.tally (idKey i)).cfg = x.cfg ∧ (t.tally (idKey i)).blocked = x.blocked ∧
      (t.tally (idKey i)).waiters = x.waiters.filter (fun w => !reached (x.prod + BitVec.ofNat 48 n.toNat) w.target) ∧
      (x.mode = 1 → (t.tally (idKey i)).cons = x.cons) ∧
      ((t.tally (idKey i)).open_ ≤ x.depth → (t.tally (idKey i)).exceeded = x.exceeded ∧ t.flog = s.flog) ∧
      (x.depth < (t.tally (idKey i)).open_ → (t.tally (idKey i)).exceeded = true ∧ Detects (faultCode (if i.sagger.toNat < 12 then 3 else 4) 0xC 0xC0) s t) ∧
      Others State.tally [(idKey i)] s t ∧ Only [.tallies, .saggers, .houseProgress, .houseArmed, .flog, .lute] s t) ∧
  (∀ (i : TallyId) (n : BitVec 16) blocking agent (by_ : BitVec 4) (s : State), n ≠ 0 →
    (s.tally (idKey i)).mode = 0 ∨ by_ ≠ i.sagger →
    ∃ t, exec (.signal i n blocking agent by_) s = .next t ∧ Detects (faultCode (if i.sagger.toNat < 12 then 3 else 4) 0xC 0xC2) s t ∧ Only [.flog, .saggers, .lute] s t) ∧
  (∀ (i : TallyId) (n : BitVec 16) agent (by_ : BitVec 4) (s : State) x, x = s.tally (idKey i) → n ≠ 0 →
    (x.mode = 1 → by_ = i.sagger → s.homeHere (idKey i) = true → n.toNat ≤ x.open_ →
      ∃ t, exec (.release i n agent by_) s = .next t ∧ t.tally (idKey i) = { x with cons := x.cons + BitVec.ofNat 48 n.toNat } ∧
        Others State.tally [(idKey i)] s t ∧ Only [.tallies, .saggers, .houseProgress, .houseArmed] s t) ∧
    (x.mode = 1 → by_ = i.sagger → s.homeHere (idKey i) = true → x.open_ < n.toNat →
      ∃ t, exec (.release i n agent by_) s = .next t ∧ Detects (faultCode (if i.sagger.toNat < 12 then 3 else 4) 0xC 0xC1) s t ∧ Only [.flog, .saggers, .lute] s t) ∧
    (x.mode ≠ 1 ∨ by_ ≠ i.sagger →
      ∃ t, exec (.release i n agent by_) s = .next t ∧ Detects (faultCode (if i.sagger.toNat < 12 then 3 else 4) 0xC 0xC2) s t ∧ Only [.flog, .saggers, .lute] s t)) ∧
  (∀ (i : TallyId) (target : BitVec 48) consume agent (s : State) x, x = s.tally (idKey i) → s.agentWaits agent = false →
    (x.waitBad target consume = true → ∃ t, exec (.wait i target consume agent i.sagger) s = .next t ∧
      Detects (faultCode (if i.sagger.toNat < 12 then 3 else 4) 0xC 0xC2) s t ∧ Only [.flog, .saggers, .lute] s t) ∧
    (x.waitBad target consume = false → s.homeHere (idKey i) = true → (∀ w ∈ x.waiters, reached x.prod w.target = false) →
      (reached x.prod target = true → ∃ t, exec (.wait i target consume agent i.sagger) s = .next t ∧
        t.tally (idKey i) = { x with cons := if consume then consumeTo x.cons target else x.cons } ∧
        Others State.tally [(idKey i)] s t ∧ Only [.tallies] s t) ∧
      (reached x.prod target = false → ∃ t, exec (.wait i target consume agent i.sagger) s = .next t ∧
        t.tally (idKey i) = { x with waiters := x.waiters ++ [⟨agent, target, consume⟩] } ∧
        Others State.tally [(idKey i)] s t ∧ Only [.tallies] s t))) ∧
  (∀ (i : TallyId) (d : DieIx) (s : State), ∃ t, exec (.read i d) s = .next t ∧ Only [.tallyOut] s t ∧
    (d.val = (s.tally (idKey i)).home ∨ s.spans i.sagger.toNat = false → t.tallyOut = ((s.tally (idKey i)).prod, (s.tally (idKey i)).cons)))

/-- A blocking SIGNAL that would break DEPTH in its signaller's view is held and moves no count; SIGNAL_UNBLOCK
applies exactly the first held signal that fits and none else. TALLY_SHADOW_WRITE of a due shadow writes PROD as 8
bytes at the shadow base plus 8 × index and no other byte. DEADLOCK_DETECT of a sagger whose armed detector has seen
no progress for 10 µs with an agent waiting: one record 0x3CC4, the snapshot in its empty buffer, DL_COUNT + 1 and the
detector disarmed; of the house: 0x4CC5, 0x40FE and bisque mode with reason 6. (R337, R343, R344, R345, R346, R456) -/
def Obligations.HeldSignalsShadowsAndDeadlocks : Prop :=
  (∀ (i : TallyId) (n : BitVec 16) agent (s : State), n ≠ 0 → (s.tally (idKey i)).mode ≠ 0 → s.signalFits (idKey i) n.toNat agent = false →
    ∃ t, exec (.signal i n true agent i.sagger) s = .next t ∧
      t.tally (idKey i) = { s.tally (idKey i) with blocked := (s.tally (idKey i)).blocked ++ [⟨agent, n.toNat⟩] } ∧
      Only [.tallies] s t ∧ Others State.tally [(idKey i)] s t) ∧
  (∀ (i : TallyId) (s : State) h x, x = s.tally (idKey i) → x.blocked.find? (fun h => s.signalFits (idKey i) h.n h.agent) = some h →
    s.homeHere (idKey i) = true →
    ∃ t, exec (.signalUnblock i) s = .next t ∧ (t.tally (idKey i)).blocked = x.blocked.erase h ∧
      (t.tally (idKey i)).prod = x.prod + BitVec.ofNat 48 h.n ∧ (t.tally (idKey i)).last = h.agent ∧ (t.tally (idKey i)).cfg = x.cfg ∧
      Others State.tally [(idKey i)] s t ∧ Only [.tallies, .saggers, .houseProgress, .houseArmed, .flog, .lute] s t) ∧
  (∀ (i : TallyId) (s : State), (s.tally (idKey i)).blocked.find? (fun h => s.signalFits (idKey i) h.n h.agent) = none →
    exec (.signalUnblock i) s = .next s) ∧
  (∀ (i : TallyId) (s : State) a, a = s.placeAddr i.sagger.toNat 0x0A + 8 * i.index.toNat → (s.tally (idKey i)).shadow = true →
    (s.tally (idKey i)).shadowDue = true → (s.place i.sagger.toNat 0x0A).isSome = true →
    ∃ t, exec (.tallyShadowWrite i) s = .next t ∧ t.hbmNum a 8 = (s.tally (idKey i)).prod.toNat ∧ Outside a 8 s.mem.hbm t.mem.hbm ∧
      t.mem = { s.mem with hbm := t.mem.hbm } ∧ t.tally (idKey i) = { s.tally (idKey i) with shadowDue := false } ∧
      Only [.mem, .tallies, .regs] s t ∧ Others State.tally [(idKey i)] s t) ∧
  (∀ (k : BitVec 4) (s : State) e es, k.toNat < 12 → s.snapEntries k.toNat = e :: es → (s.detector k.toNat).2 = true →
    (s.detector k.toNat).1 + 10000 ≤ s.refNow → (s.luted k.toNat = true → s.lead = true) → tget [] s.snaps k.toNat = [] →
    ∃ t, exec (.deadlockDetect k) s = .next t ∧ Detects 0x3CC4#16 s t ∧ tget [] t.snaps k.toNat = snapWords s.now k.toNat (e :: es) ∧
      t.reg .tlyDlCount 0 = min (s.reg .tlyDlCount 0 + 1) (2 ^ 32 - 1) ∧ (t.detector k.toNat).2 = false ∧
      Only [.snaps, .freeCtr, .regs, .saggers, .flog, .lute] s t ∧ Others State.sagger [k.toNat] s t ∧
      RegsOnly [(.tlyDlCount, 0)] s t) ∧
  (∀ (s : State), s.snapEntries 15 ≠ [] → (s.detector 15).2 = true → (s.detector 15).1 + 10000 ≤ s.refNow →
    ∃ t, exec (.deadlockDetect 15) s = .next t ∧ t.boot.bisque = true ∧ t.boot.reason = 6 ∧
      t.reg .tlyDlCount 0 = min (s.reg .tlyDlCount 0 + 1) (2 ^ 32 - 1) ∧ s.flog.detected.length + 2 ≤ t.flog.detected.length ∧
      0x4CC5#16 ∈ t.flog.detected.map (·.code) ∧ 0x40FE#16 ∈ t.flog.detected.map (·.code))

/-- PORT_ENABLE and, 10 ms after a failure, PORT_TRAIN_RETRY start training of an enabled port with enough unmarked
groups; with too few it stays DOWN with reason 2 until the next start. 20 ms in TRAIN or CHECK: DOWN with reason 9,
with too few live groups 2, with no lane lock 1 (the model reads R378 and R490 so), and a retry. TRAINING_RECORD with
enough live groups: a failed check holds the port with its reason and 0x5DD0; a good one acknowledges, and with the
peer's ACK the port is UP with the peer's identity, after a fast retrain with 0x5DD3. GROUP_ERROR_EXCLUDE marks its
group. FAST_RETRAIN goes to RETRAIN; 1 ms there, or 2 µs without a frame or 3.5 µs without a heartbeat in UP, is a
loss: DOWN with 0x5DD2, at the fourth within 10 s HELD with reason 7 and 0x5DD4. Other ports keep their states. (R348,
R352, R354, R355, R357, R364, R365, R377) -/
def Obligations.PortsFollowTheirStateTable : Prop :=
  (∀ (p : PortIx) (s : State) c, (s.port p.val).st = .down → (s.port p.val).barred = false → s.portEnabled p.val = true →
    (c = Instr.portEnable p ∧ (s.port p.val).retry = false) ∨
      (c = Instr.portTrainRetry p ∧ (s.port p.val).retry = true ∧ (s.port p.val).started + 10000000 ≤ s.refNow) →
    ∃ t, exec c s = .next t ∧ Only [.ports] s t ∧ Others State.port [p.val] s t ∧
      (minGroups p.val ≤ (s.freeGroups p.val).length → (t.port p.val).st = .train ∧ (t.port p.val).started = s.refNow ∧
        (t.port p.val).replay = [] ∧ (t.port p.val).txSeq = 0 ∧ (t.port p.val).rxSeq = 0) ∧
      ((s.freeGroups p.val).length < minGroups p.val → (t.port p.val).st = .down ∧ (t.port p.val).reason = 2 ∧
        (t.port p.val).barred = true)) ∧
  (∀ (p : PortIx) locked (s : State), (s.port p.val).st = .train ∨ (s.port p.val).st = .check →
    (s.port p.val).started + 20000000 ≤ s.refNow →
    ∃ t, exec (.portTrainTimeout p locked) s = .next t ∧ Only [.ports] s t ∧ Others State.port [p.val] s t ∧ (t.port p.val).st = .down ∧
      (t.port p.val).retry = true ∧
      (t.port p.val).reason = (if (s.liveGroups p.val locked).length < minGroups p.val then groupsReason locked else 9)) ∧
  (∀ (p : PortIx) rec locked (s : State) x, x = s.port p.val → recReserved rec = false →
    minGroups p.val ≤ (s.liveGroups p.val locked).length →
    (∀ r, x.st = .train ∨ x.st = .check → s.checkRecord p.val rec = .error r →
      ∃ t, exec (.trainingRecord p rec locked) s = .next t ∧ (t.port p.val).st = .held ∧ (t.port p.val).reason = r ∧
        Detects 0x5DD0#16 s t ∧ Only [.ports, .flog] s t ∧ Others State.port [p.val] s t) ∧
    (∀ d, x.st = .train ∨ x.st = .check → s.checkRecord p.val rec = .ok d → x.peerAck = false → recField rec 24 12 1 = 0 →
      ∃ t, exec (.trainingRecord p rec locked) s = .next t ∧ (t.port p.val).st = .check ∧ (t.port p.val).ack = true ∧
        Only [.ports] s t ∧ Others State.port [p.val] s t) ∧
    (∀ d, x.st ≠ .down → x.st ≠ .held → x.st ≠ .up → (x.st = .retrain → recId rec = x.nbrId.toNat) →
      s.checkRecord p.val rec = .ok d → recField rec 24 12 1 = 1 →
      ∃ t, exec (.trainingRecord p rec locked) s = .next t ∧ (t.port p.val).st = .up ∧ (t.port p.val).serves = d ∧
        (t.port p.val).nbrId = BitVec.ofNat 64 (recId rec) ∧ (t.port p.val).nbrAt = recCoord rec ∧
        ((t.port p.val).vmaj, (t.port p.val).vmin) = (1, min 2 (recField rec 20 0 4)) ∧
        (x.st = .retrain → Detects 0x5DD3#16 s t ∧ (t.port p.val).replay = x.replay ∧ (t.port p.val).rxSeq = x.rxSeq) ∧
        Only [.ports, .flog, .tb, .lat, .regs] s t ∧ ∀ q, q ≠ p.val → (t.port q).st = (s.port q).st)) ∧
  (∀ (p : PortIx) (g : BitVec 4) (s : State), (s.port p.val).st = .up → (s.port p.val).groups.getLsbD g.toNat = true →
    ∃ t, exec (.groupErrorExclude p g) s = .next t ∧
      t.port p.val = { s.port p.val with excluded := (s.port p.val).excluded ||| (1 <<< g.toNat) } ∧ Only [.ports] s t ∧ Others State.port [p.val] s t) ∧
  (∀ (p : PortIx) locked (s : State), (s.port p.val).retrainDue = true → minGroups p.val ≤ (s.liveGroups p.val locked).length →
    ∃ t, exec (.fastRetrain p locked) s = .next t ∧ (t.port p.val).st = .retrain ∧ (t.port p.val).replay = (s.port p.val).replay ∧
      (t.port p.val).out = (s.port p.val).out ∧ Only [.ports, .regs] s t ∧ Others State.port [p.val] s t) ∧
  (∀ (p : PortIx) (s : State) c x n, x = s.port p.val →
    (c = Instr.fastRetrainTimeout p ∧ x.st = .retrain ∧ x.started + 1000000 ≤ s.refNow) ∨
      (c = Instr.latticeLossDetect p ∧ x.st = .up ∧ (x.lastRx + 2000 ≤ s.refNow ∨ x.lastHb + 3500 ≤ s.refNow)) →
    n = (x.losses.filter fun t => s.refNow < t + 10 ^ 10).length →
    ∃ t l, exec c s = .next t ∧ t.mem = s.mem ∧ (∀ q, q ≠ p.val → (t.port q).st = (s.port q).st) ∧
      (t.port p.val).st = (if n < 3 then .down else .held) ∧ (3 ≤ n → (t.port p.val).reason = 7) ∧
      t.flog.detected.map (·.code) = s.flog.detected.map (·.code) ++ (if n < 3 then [0x5DD2#16] else [0x5DD2#16, 0x5DD4#16]) ++ l ∧
      (p.val < 6 → t.reg .latLoss p.val = min (s.reg .latLoss p.val + 1) (2 ^ 32 - 1)) ∧
      (p.val = 6 → s.lute.paired = true → t.lute.stop = true))

/-- LATTICE_FLIT on a port that is UP: a good flit with the expected number joins its channel whole, is acknowledged
and advances the number; the same flit again is acknowledged and changes no received byte; one that fails its CRC or
follows a gap asks for the expected flit and changes no received byte. LATTICE_NAK replays from its flit on and
counts. Heartbeats are sent every 1 µs with the port's count and READY, BISQUE and SHUTDOWN, link frames every 200 ns;
a frame received renews the port's timer. PACKET_ROUTE takes the head packet of its channel: bad headers are dropped
and counted; a packet for this module waits for its handler; any other leaves on the port that routing gives, HOPS +
1. (R349, R350, R351, R358, R360, R361, R363) -/
def Obligations.FlitsArriveOnceAndInOrder : Prop :=
  (∀ (p : PortIx) seq vc payload ack grants (s : State) x, x = s.port p.val → x.st = .up → payload.length ≤ 256 → payload.length % 16 = 0 →
    (∃ t, exec (.latticeFlit p x.rxSeq true vc payload ack grants) s = .next t ∧ (t.port p.val).rxSeq = x.rxSeq + 1 ∧
      (t.port p.val).ackOut = some x.rxSeq ∧ (t.port p.val).lastRx = s.refNow ∧
      (t.port p.val).rx = tset x.rx vc.val (tget [] x.rx vc.val ++ payload) ∧ Only [.ports] s t ∧ Others State.port [p.val] s t ∧
      ∀ ack' grants', ∃ u, exec (.latticeFlit p x.rxSeq true vc payload ack' grants') t = .next u ∧
        (u.port p.val).rx = (t.port p.val).rx ∧ (u.port p.val).rxSeq = x.rxSeq + 1 ∧ (u.port p.val).ackOut = some x.rxSeq) ∧
    (seq ≠ x.rxSeq → ∃ t, exec (.latticeFlit p seq true vc payload ack grants) s = .next t ∧ (t.port p.val).rx = x.rx ∧
      (t.port p.val).rxSeq = x.rxSeq ∧ Only [.ports] s t ∧ Others State.port [p.val] s t ∧
      (2 ^ 15 ≤ (x.rxSeq - seq).toNat → (t.port p.val).nakOut = some x.rxSeq)) ∧
    (∃ t, exec (.latticeFlit p seq false vc payload ack grants) s = .next t ∧
      t.port p.val = { x with nakOut := some x.rxSeq } ∧ Only [.ports, .regs] s t ∧ Others State.port [p.val] s t ∧
      (p.val < 6 → t.reg .latCrc p.val = min (s.reg .latCrc p.val + 1) (2 ^ 32 - 1)))) ∧
  (∀ (p : PortIx) seq (s : State) l, (s.port p.val).st = .up → l = (s.port p.val).replay.dropWhile (fun f => f.1 != seq) → l ≠ [] →
    ∃ t r, exec (.latticeNak p seq) s = .next t ∧ (t.port p.val).replay = l ∧ Only [.ports, .regs] s t ∧ Others State.port [p.val] s t ∧
      r = (if p.val = 6 then (Reg.lutReplay, 0) else (Reg.latReplay, p.val)) ∧
      t.reg r.1 r.2 = min (s.reg r.1 r.2 + l.length) (2 ^ 32 - 1)) ∧
  (∀ (p : PortIx) (s : State), (s.port p.val).st = .up → (s.port p.val).lastHbTx + 1000 ≤ s.refNow →
    ∃ t, exec (.latticeHeartbeatSend p) s = .next t ∧ (t.port p.val).hbSeq = (s.port p.val).hbSeq + 1 ∧ (t.port p.val).lastHbTx = s.refNow ∧
      nbits (t.port p.val).hbOut.toNat 0 32 = (s.port p.val).hbSeq.toNat ∧
      nbits (t.port p.val).hbOut.toNat 32 3 = Bool.num s.boot.ready + 2 * Bool.num s.boot.bisque + 4 * Bool.num s.boot.shutting ∧
      Only [.ports] s t ∧ Others State.port [p.val] s t) ∧
  (∀ (p : PortIx) (s : State), (s.port p.val).st = .up → (s.port p.val).lastTx + 200 ≤ s.refNow →
    ∃ t, exec (.linkFrameSend p) s = .next t ∧ t.port p.val = { s.port p.val with lastTx := s.refNow } ∧ Only [.ports] s t ∧ Others State.port [p.val] s t) ∧
  (∀ (p : PortIx) frame (s : State), (s.port p.val).st = .up →
    ∃ t, exec (.linkFrameReceive p frame) s = .next t ∧ (t.port p.val).lastRx = s.refNow ∧ Only [.ports, .lute] s t ∧ Others State.port [p.val] s t ∧
      ∀ b, frame = .heartbeat b → (t.port p.val).lastHb = s.refNow ∧ (t.port p.val).nbrReady = (nbits b.toNat 32 1 == 1) ∧
        (t.port p.val).nbrBisque = (nbits b.toNat 33 1 == 1)) ∧
  (∀ (p : PortIx) (vc : Fin 9) (s : State) bs pk n, p.val < 6 →
    bs = skipFill ((tget [] (s.port p.val).rx vc.val).length / 16) (tget [] (s.port p.val).rx vc.val) → 32 ≤ bs.length →
    pk = (⟨BitVec.ofNat 256 (leNat (bs.take 32)), (bs.take n).drop 32⟩ : Packet) → n = 32 + (pk.len + 15) / 16 * 16 → n ≤ bs.length →
    ∃ t, exec (.packetRoute p vc) s = .next t ∧ tget [] (t.port p.val).rx vc.val = bs.drop n ∧ t.mem = s.mem ∧
      t.reg .latRxBytes p.val = min (s.reg .latRxBytes p.val + n) (2 ^ 64 - 1) ∧
      (s.packetBad pk = true → t.lat = s.lat ∧ t.reg .latDrop p.val = min (s.reg .latDrop p.val + 1) (2 ^ 32 - 1) ∧ Others State.port [p.val] s t) ∧
      (s.packetBad pk = false → pk.dest = s.own → s.takesPackets pk.dsag = true →
        t.lat = { s.lat with consumed := s.lat.consumed ++ [pk] } ∧ Others State.port [p.val] s t) ∧
      (∀ q p' dt, s.packetBad pk = false → pk.dest ≠ s.own → s.nextHop (some p.val) pk = some (q, p', dt) →
        t.lat = s.lat ∧ (t.port q).out = (s.port q).out ++ [((p'.set 12 16 8 (p'.hops + 1)).chan, p'.set 12 16 8 (p'.hops + 1))] ∧
        Others State.port [p.val, q] s t))

/-- TIME_SYNC with the parent port UP records the offset ((t2 − t1) − (t4 − t3)) / 2; FREE and HOLDOVER go to LOCKING,
LOCKING with 1 ms within 4 ns to LOCKED, LOCKED beyond 20 ns back to LOCKING with one record 0x60D7. A correction
above 100 ns forward is stepped, one of 100 ns or less leaves the value to the rate. An accepted TSYNC edge is
remembered and corrects the master only. TIMEBASE_SECOND on the master sets the armed value, unless that would turn
the timebase back. None of them decreases the timebase, and none touches any other state. (R367, R368, R369, R493) -/
def Obligations.TheTimebaseNeverDecreases : Prop :=
  (∀ t1 t2 t3 t4 (s : State) off, off = ((t2 - t1) - (t4 - t3)) / 2 → s.linksRun = true → s.tb.parent < 7 → s.portUp s.tb.parent = true →
    ∃ t, exec (.timeSync t1 t2 t3 t4) s = .next t ∧ s.tb.ns ≤ t.tb.ns ∧ t.tb.offset = off ∧
      t.tb.ns = (if 400 < off then s.tb.ns + (off / 4).toNat else s.tb.ns) ∧
      (s.tb.st = .free ∨ s.tb.st = .holdover → t.tb.st = .locking) ∧
      (s.tb.st = .locking → (t.tb.st = .locked ↔ off.natAbs ≤ 16 ∧ s.tb.lockSince.getD s.refNow + 1000000 ≤ s.refNow)) ∧
      (s.tb.st = .locked → (t.tb.st = .locking ↔ 80 < off.natAbs)) ∧
      (s.tb.st = .locked ∧ 80 < off.natAbs → Detects 0x60D7#16 s t) ∧
      (¬ (s.tb.st = .locked ∧ 80 < off.natAbs) → t.flog = s.flog) ∧ Only [.tb, .flog] s t) ∧
  (∀ (s : State), s.firmwareUp = true → s.tb.edgeOk s.refNow = true →
    ∃ t, exec .tsyncEdge s = .next t ∧ t.tb.tsync = some s.refNow ∧ s.tb.ns ≤ t.tb.ns ∧
      (s.lat.apex = false → t.tb.ns = s.tb.ns ∧ t.tb.steer = s.tb.steer) ∧
      (s.lat.apex = true → s.tb.ns % 10 ^ 9 = 0 → t.tb.ns = s.tb.ns ∧ t.tb.steer = 0) ∧ Only [.tb] s t) ∧
  (∀ (s : State) k, s.lat.apex = true → s.tb.armed = some k → k < s.tb.ns / 10 ^ 9 →
    ∃ t, exec .timebaseSecond s = .next t ∧ t.tb.armed = none ∧ s.tb.ns ≤ t.tb.ns ∧
      (s.tb.ns ≤ s.reg .latTbSet 0 → t.tb.ns = s.reg .latTbSet 0) ∧ Only [.tb] s t)

/-- For the first packet of each type that waits. LOSS is kept where the liveness map is kept, RESTORE takes its
report and its lost module away. APEX_LOSS_WINDOW 50 µs after the first report: a module that every neighbour has lost
becomes lost with 0x60D5, else the reported links become lost. SLICE_JOIN answers a SLICE_ACK with its reason, and
only with reason 0 does this module become a member. SLICE_ACK: the last acceptance makes the slice active; a refusal,
or SLICE_FORM_TIMEOUT after 10 ms, ends forming with 0x60DB. SLICE_MARK enters its word; the last one of a REDUCE
round at its apex advances the round. SLICE_STOP leaves a member's slice with 0x60D6. SLICE_LEAVE stops the slice at
the kiln apex. (R365, R366, R370, R371, R372) -/
def Obligations.SlicesFormAndStopWithTheirModules : Prop :=
  (∀ (s u : State) p, s.takeWhere 1 (fun _ => true) = some (p, u) → s.keepsMap = true →
    ∃ t, exec .loss s = .next t ∧ t.lat = { u.lat with reports := s.lat.reports ++ [lossOf p s.refNow] } ∧ Only [.lat] s t) ∧
  (∀ (s u : State) p, s.takeWhere 2 (fun _ => true) = some (p, u) → s.keepsMap = true →
    ∃ t, exec .restore s = .next t ∧ (∀ r ∈ t.lat.reports, r.at_ ≠ p.src ∨ r.port ≠ p.arg 16) ∧ p.src ∉ t.lat.lostModules ∧
      BitVec.ofNat 11 (p.arg 20) ∉ t.lat.lostModules ∧ Only [.lat] s t) ∧
  (∀ c (s : State) rs t0, s.firstReport c = some t0 → t0 + 50000 ≤ s.refNow → s.keepsMap = true →
    rs = s.lat.reports.filter (fun r => r.beyond == c && r.time ≤ t0 + 50000) →
    ∃ t, exec (.apexLossWindow c) s = .next t ∧ (∀ r ∈ t.lat.reports, r.beyond = c → t0 + 50000 < r.time) ∧ t.mem = s.mem ∧
      (s.moduleLost c rs = true → c ∈ t.lat.lostModules ∧ (s.lat.apex = true → Detects 0x60D5#16 s t) ∧
        (s.lat.apex = false → c = s.kiln.apex → t.lat.apex = true)) ∧
      (s.moduleLost c rs = false → t.lat.lostLinks = s.lat.lostLinks ++ rs.map (fun r => (r.at_, c)) ∧ t.flog = s.flog)) ∧
  (∀ (s u : State) p x r, s.takeWhere 3 (fun _ => true) = some (p, u) → x = sliceOf (BitVec.ofNat 256 (leNat (p.payload.take 32))) → p.len = 32 → r = u.joinReason x →
    ∃ v, exec .sliceJoin s = .next (v.sendPacket (s.packet 4 0 p.src p.xid x.id 15 r 0 0 [])) ∧ Only [.lat] s v ∧
      (r ≠ 0 → v.lat.slices = s.lat.slices) ∧ (r = 0 → ∃ y, v.slice? x.id = some y ∧ y.member = true)) ∧
  (∀ (s u : State) p x k tag, s.takeWhere 4 (fun _ => true) = some (p, u) → u.slice? p.slice = some x → s.lat.apex = true → x.active = false → x.asker = some (k, tag) →
    (p.arg 16 = 0 → ∃ t y, exec .sliceAck s = .next t ∧ t.slice? p.slice = some y ∧ p.src ∈ y.accepts ∧
      (y.active = true ↔ ∀ m ∈ x.members s.kiln, m = p.src ∨ m ∈ x.accepts) ∧ Only [.lat, .mgmt, .regs] s t) ∧
    (p.arg 16 ≠ 0 → ∃ t, exec .sliceAck s = .next t ∧ Detects 0x60DB#16 s t ∧ (∀ y, t.slice? p.slice = some y → y.asker = none) ∧
      t.mem = s.mem)) ∧
  (∀ (i : BitVec 16) (s : State) x, s.slice? i.toNat = some x → s.lat.apex = true → x.forming = true → x.started + 10000000 ≤ s.refNow →
    ∃ t, exec (.sliceFormTimeout i) s = .next t ∧ Detects 0x60DB#16 s t ∧ (∀ y, t.slice? i.toNat = some y → y.asker = none) ∧
      t.mem = s.mem) ∧
  (∀ (s u : State) p x, s.takeWhere 6 (fun _ => true) = some (p, u) → u.slice? p.slice = some x → x.job ≠ 1 →
    ∃ t y, exec .sliceMark s = .next t ∧ t.slice? p.slice = some y ∧ Only [.lat] s t ∧
      (x.job = 2 → x.apex = s.own → (∀ m ∈ x.members s.kiln, m = s.own ∨ m = p.src ∧ p.arg 16 = x.round ∨ m ≠ p.src ∧ (m, x.round) ∈ x.marks) →
        y.round = x.round + 1 ∧ y.marks = []) ∧
      (x.job = 3 ∨ x.apex ≠ s.own → y.round = x.round ∧ (p.src, p.arg 16) ∈ y.marks)) ∧
  (∀ (s u : State) p x, s.takeWhere 5 (fun _ => true) = some (p, u) → u.slice? p.slice = some x → x.member = true →
    ∃ t, exec .sliceStop s = .next t ∧ (∀ y ∈ t.lat.slices, y.id ≠ x.id) ∧ (t.flog.detected.getLast?).map (·.code) = some 0x60D6#16) ∧
  (∀ (s u : State) p x, s.takeWhere 7 (fun _ => true) = some (p, u) → u.slice? (p.arg 16) = some x → s.lat.apex = true →
    ∃ t, exec .sliceLeave s = .next t ∧ t.mem = s.mem ∧ t.flog = s.flog ∧
      (x.member = false → ∀ y ∈ t.lat.slices, y.id ≠ x.id) ∧ (x.member = true → ∀ y, t.slice? x.id = some y → y.active = false))

/-- For the first packet of each type that its handler can take. STREAM_HDR enters its entries into its stream;
STREAM_BLK puts its payload into the expander queue of its stream's die; BLK_REQ queues the named block for
compression again; STREAM_REQ marks the stream it names as requested under the request's XID; CHUNK_REQ of a held
chunk that is not poisoned starts a stream of KIND 4 for it. STREAM_END of a REDUCE contribution to the parent with
status 0 zeroes its region, and no other ends a stream's source bytes; UNREACHABLE drops the stream that it ends.
(R311, R326, R359, R361, R371) -/
def Obligations.StreamPacketsReachTheirStreams : Prop :=
  (∀ mig (s u : State) p t, s.takeWhere 0x10 (fun p => !s.hdrWaits p) = some (p, u) → u.streamOf p = some t → u.stream? t.sid = some t →
    t.st = .header → ∃ v, exec (.streamHdr mig) s = .next v ∧ v.stream? t.sid = some (t.enter p) ∧ Only [.lat] s v) ∧
  (∀ (s u : State) p t d, s.takeWhere 0x11 s.blkReady = some (p, u) → u.streamOf p = some t → p.arg 16 < t.table.length →
    d = u.streamDie t (p.arg 16) →
    ∃ v, exec .streamBlk s = .next v ∧ (v.glaze d).expQ = (s.glaze d).expQ ++ [(t.sid, p.arg 16, p.payload)] ∧
      Only [.lat, .glazes] s v ∧ Others State.glaze [d] s v) ∧
  (∀ (s u : State) p o, s.takeWhere 0x12 (fun _ => true) = some (p, u) → u.outFor p = some o → p.arg 16 < o.count →
    ∃ v, exec .blkReq s = .next v ∧ (v.glaze (dieOfAddr o.src)).cmpQ = (s.glaze (dieOfAddr o.src)).cmpQ ++ [(o.sid, p.arg 16)] ∧
      v.lat = u.lat ∧ Only [.lat, .glazes] s v ∧ Others State.glaze [dieOfAddr o.src] s v) ∧
  (∀ (s u : State) p o, s.takeWhere 0x13 (fun _ => true) = some (p, u) →
    u.lat.outs.find? (fun o => o.peer == .lattice p.src && o.kind == p.arg 16 && o.ctxA == p.arg 20 && o.ctxB == p.arg 24 && o.slice == p.slice) = some o →
    ∃ v, exec .streamReq s = .next v ∧ { o with rsp := true, xid := p.xid } ∈ v.lat.outs ∧ v.lat.streams = s.lat.streams ∧
      Only [.lat, .ports, .regs] s v ∧ (o.ready = false → Only [.lat] s v)) ∧
  (∀ (s u : State) p g i a, s.takeWhere 0x14 (fun _ => true) = some (p, u) → u.imageByDigest (p.arg 20 + 2 ^ 32 * p.arg 24) = some (g, i) →
    p.arg 16 < i.info.chunks → a = i.byteAddr (p.arg 16 * 65536) → s.chunkIsPoisoned a = false →
    ∃ v o, exec .chunkReq s = .next v ∧ v.lat.outs = s.lat.outs ++ [o] ∧ o.kind = 4 ∧ o.peer = .lattice p.src ∧ o.xid = p.xid ∧
      o.src = a ∧ o.len = i.info.chunkLen (p.arg 16) ∧ o.rsp = true ∧
      (v.glaze (dieOfAddr a)).cmpQ = (s.glaze (dieOfAddr a)).cmpQ ++ (List.range o.count).map (fun k => (o.sid, k)) ∧
      Only [.lat, .glazes] s v ∧ Others State.glaze [dieOfAddr a] s v) ∧
  (∀ (s u : State) p o up, s.takeWhere 0x15 (fun _ => true) = some (p, u) → u.outFor p = some o → u.moveOf o.sid = none →
    up = ((u.slice? o.slice).any fun x => x.parent u.kiln u.own == some p.src) →
    ∃ v, exec .streamEnd s = .next v ∧ (∀ q ∈ v.lat.outs, q.sid ≠ o.sid) ∧ Only [.lat, .mem] s v ∧
      (o.kind = 5 ∧ p.arg 16 = 0 ∧ up = true → (∀ x < o.len, mget v.mem.hbm (o.src + x) = 0) ∧
        Outside o.src o.len s.mem.hbm v.mem.hbm ∧ v.mem = { s.mem with hbm := v.mem.hbm }) ∧
      (¬ (o.kind = 5 ∧ p.arg 16 = 0 ∧ up = true) → v.mem = s.mem)) ∧
  (∀ (s u : State) p o, s.takeWhere 0x20 (fun _ => true) = some (p, u) → u.lat.streams.find? (fun t => t.xid == p.xid && !t.pushed) = none →
    u.lat.outs.find? (fun o => o.xid == p.xid && !o.rsp) = some o → u.moveOf o.sid = none →
    ∃ v, exec .unreachable s = .next v ∧ (∀ q ∈ v.lat.outs, q.sid ≠ o.sid) ∧ Only [.lat] s v)

/-- For the message at the head of the lute. On the follower, WRITE writes its payload to the mapped strata and no
other byte (a protected one writes nothing and detects 0x39A3), READ answers the mapped bytes under its TAG, ATOMIC
performs its record on the mapped word and answers. On the lead, READ_RSP of a narrow read, slab piece or load piece
delivers its bytes and settles the request; ATOMIC_RSP settles it, its success mark and old value free. TALLY signals
or releases a tally whose home is here; MIRROR shows the counts of one whose home is not. A message for a sagger that
is not luted, with reserved bits, changes no memory and detects 0x3DDA. (R298, R299, R303, R333, R374, R375, R376) -/
def Obligations.LuteMessagesActOnMappedMemoryAndTallies : Prop :=
  (∀ (s : State) h p parts, s.luteHead = some (h, p) → nbits h 0 8 = 1 → s.lmBad h = false → s.lead = false → 8 ≤ p.length → p.length ≤ 4096 →
    s.windowParts (lmSagger h) (lmAddr h) p.length = some parts →
    (∀ a n, parts = [(a, n)] → s.rangeProtected a n = false → ∃ t, exec .luteWrite s = .next t ∧ t.hbm a p.length = p ∧
      Outside a p.length s.mem.hbm t.mem.hbm ∧ t.mem = { s.mem with hbm := t.mem.hbm } ∧ Only [.mem, .ports, .regs, .saggers] s t) ∧
    (∀ a n b m, parts = [(a, n), (b, m)] → s.rangeProtected a n = false → s.rangeProtected b m = false → Apart a n b m →
      ∃ t, exec .luteWrite s = .next t ∧ t.hbm a n = p.take n ∧ t.hbm b m = p.drop n ∧
      (∀ x, (x < a ∨ a + n ≤ x) → (x < b ∨ b + m ≤ x) → mget t.mem.hbm x = mget s.mem.hbm x) ∧
      t.mem = { s.mem with hbm := t.mem.hbm } ∧ Only [.mem, .ports, .regs, .saggers] s t) ∧
    ((∃ x ∈ parts, s.rangeProtected x.1 x.2 = true) → ∃ t, exec .luteWrite s = .next t ∧ t.mem = s.mem ∧ Detects 0x39A3#16 s t)) ∧
  (∀ (s : State) h p parts, s.luteHead = some (h, p) → nbits h 0 8 = 2 → s.lmBad h = false → s.lead = false → p.length = 4 → bfield p 13 19 = 0 → 8 ≤ lmReadLen p → lmReadLen p ≤ 4096 →
    s.windowParts (lmSagger h) (lmAddr h) (lmReadLen p) = some parts →
    ∃ t, exec .luteRead s = .next t ∧ t.lute = { s.lute with tx := s.lute.tx ++
      [luteMemMsg 3 (lmSagger h) (lmTag h).toNat (lmAddr h) (parts.flatMap fun x => s.hbm x.1 x.2)] } ∧
      Only [.lute, .ports, .regs, .saggers] s t) ∧
  (∀ (s : State) h p a r, s.luteHead = some (h, p) → nbits h 0 8 = 4 → s.lmBad h = false → r = leNat p → s.lead = false → p.length = 16 → atBad r = false → a < 2 ^ 41 →
    s.windowParts (lmSagger h) (lmAddr h) (atBytes r) = some [(a, atBytes r)] → s.rangeProtected a (atBytes r) = false →
    ∃ t, exec .luteAtomic s = .next t ∧
      t.lute = { s.lute with tx := s.lute.tx ++ [luteMemMsg 5 (lmSagger h) (lmTag h).toNat (lmAddr h) []] } ∧
      (∀ v, atomicWord (atOp r) (s.hbmNum a (atBytes r)) (nbits r 64 64) (Config.freeNat s.freeCtr) = some v →
        t.hbmNum a (atBytes r) = v % 2 ^ (8 * atBytes r)) ∧
      (atomicWord (atOp r) (s.hbmNum a (atBytes r)) (nbits r 64 64) (Config.freeNat s.freeCtr) = none → t.mem.hbm = s.mem.hbm) ∧
      Outside a (atBytes r) s.mem.hbm t.mem.hbm ∧ Only [.lute, .ports, .regs, .saggers, .mem, .freeCtr] s t) ∧
  (∀ (s : State) h p a, s.luteHead = some (h, p) → nbits h 0 8 = 3 → s.lmBad h = false → s.lead = true → s.luteAsk? h = some a → a.bytes = p.length →
    (a.use = .narrow → ∃ t, exec .luteReadRsp s = .next t ∧ t.mem = { s.mem with narrowOut := p } ∧ a ∉ t.lute.asked ∧
      Only [.mem, .lute, .ports, .regs, .saggers] s t) ∧
    (∀ dst tally job, a.use = .slab dst tally job → ∃ t, exec .luteReadRsp s = .next t ∧ t.slab dst.toNat p.length = p ∧
      Outside (slabIx dst.toNat) p.length s.mem.slab t.mem.slab ∧ a ∉ t.lute.asked) ∧
    (∀ d num unit, a.use = .load d num unit → ∃ t, exec .luteReadRsp s = .next t ∧ t.lute.got = s.lute.got ++ [(d, num, unit, p)] ∧
      a ∉ t.lute.asked ∧ Only [.lute, .ports, .regs, .saggers] s t)) ∧
  (∀ (s : State) h a r, s.luteHead = some (h, []) → nbits h 0 8 = 5 → s.lmBad h = false → s.lead = true → s.luteAsk? h = some a →
    a.use = .atomic r →
    ∃ t, exec .luteAtomicRsp s = .next t ∧ a ∉ t.lute.asked ∧ t.mem.atomicOk = (Config.freeNat s.freeCtr % 2 == 1) ∧
      t.mem.atomicOut = (if r then some (Config.freeNat (s.freeCtr + 1) % 2 ^ (8 * a.bytes)) else none) ∧
      t.mem = { s.mem with atomicOk := t.mem.atomicOk, atomicOut := t.mem.atomicOut } ∧
      Only [.mem, .lute, .ports, .regs, .saggers, .freeCtr] s t) ∧
  (∀ (s : State) h p k x, s.luteHead = some (h, p) → nbits h 0 8 = 6 → s.lmBad h = false → lmTallyBad h = false → tallyOpOk p = true → k = lmTally h → x = s.tally k → s.homeHere k = true →
    (bfield p 0 8 = 1 → x.mode ≠ 0 → ∃ t, exec .luteTally s = .next t ∧ (t.tally k).prod = x.prod + BitVec.ofNat 48 (bfield p 32 32) ∧
      Others State.tally [k] s t ∧ t.mem = s.mem) ∧
    (bfield p 0 8 = 2 → x.mode = 1 → bfield p 32 32 ≤ x.open_ → ∃ t, exec .luteTally s = .next t ∧
      t.tally k = { x with cons := x.cons + BitVec.ofNat 48 (bfield p 32 32) } ∧ Others State.tally [k] s t ∧ t.mem = s.mem)) ∧
  (∀ (s : State) h p k, s.luteHead = some (h, p) → nbits h 0 8 = 7 → s.lmBad h = false → lmTallyBad h = false → p.length = 16 → k = lmTally h → s.homeHere k = false →
    ∃ t, exec .luteMirror s = .next t ∧ (t.tally k).prod = BitVec.ofNat 48 (bfield p 0 64) ∧
      (t.tally k).cons = BitVec.ofNat 48 (bfield p 64 64) ∧ (∀ w ∈ (t.tally k).waiters, reached (t.tally k).prod w.target = false) ∧
      Others State.tally [k] s t ∧ Only [.tallies, .ports, .regs, .saggers] s t) ∧
  (∀ (s : State) h p n c, s.luteHead = some (h, p) → nbits h 0 8 = n → s.lmBad h = true →
    (n, c) ∈ [(1, Instr.luteWrite), (2, .luteRead), (3, .luteReadRsp), (4, .luteAtomic), (5, .luteAtomicRsp), (6, .luteTally), (7, .luteMirror)] →
    ∃ t, exec c s = .next t ∧ t.mem = s.mem ∧ t.tallies = s.tallies ∧ Detects 0x3DDA#16 s t ∧
      Only [.ports, .regs, .flog, .saggers, .lute] s t)

/-- PAIR_FORM with the lute UP, no pair and the start past phase 5: the pair is formed, and no unluted sagger changes;
a single luted sagger in DOWN that can be built is SERVING afterwards. PAIR_STOP when the pair must stop: the pair is
gone, every luted sagger that was built goes to RESETTING with cause 0x3DD9 and no commit record, on the lead no live
request of it stays, no unluted sagger changes, and LUT_STOPS counts one. (R373, R377) -/
def Obligations.PairsFormAndStopTogether : Prop :=
  (∀ (s : State), (s.port 6).st = .up → s.lute.paired = false → s.lute.stop = false → s.device.role ≠ 0 → 5 ≤ s.boot.phase →
    s.boot.bisque = false → s.boot.shutting = false →
    ∃ t, exec .pairForm s = .next t ∧ t.lute.paired = true ∧ Others State.sagger s.lutedSaggers s t ∧
      ∀ g, s.lutedSaggers = [g] → (s.sagger g).st = .down → s.cannotBuild g = false → (t.sagger g).st = .serving) ∧
  (∀ (s : State), s.lute.stop = true → ∃ t, exec .pairStop s = .next t ∧ t.lute.paired = false ∧ t.lute.stop = false ∧
    (∀ g ∈ s.lutedSaggers, (s.sagger g).st ≠ .down → (t.sagger g).st = .resetting ∧ (t.sagger g).cause.code = 0x3DD9#16 ∧
      (t.sagger g).commit = none ∧ (s.lead = true → (t.sagger g).live = [])) ∧
    (∀ g, g ∉ s.lutedSaggers → t.sagger g = s.sagger g) ∧
    t.reg .lutStops 0 = min (s.reg .lutStops 0 + 1) (2 ^ 32 - 1))

/-- SHOMU_LINK_TRAIN of an enabled link: TRAIN at the width of its good halves; with none, DOWN with reason 1 or 2, or
barred by BIST marks. SHOMU_TRAINING_RECORD: a version or form that does not fit holds the link with its reason and
0x5EE0; a good one acknowledges, and with the adapter's ACK the link is UP with fresh sequence numbers. 20 ms in
TRAIN: reason 7; retry after 10 ms. Eight replays start a fast retrain that keeps the replay buffer. SHOMU_FLIT: DATA
in order joins the received bytes once; a failed CRC or a gap asks for the expected flit. SHOMU_NAK replays from its
flit; CREDIT adds its units. Heartbeats go out every 20 µs. A loss counts, raises 0x5EE2 and closes every channel of
the link, its keys erased. LOSS_REQUEST_END ends the requests of a lost channel, and no other, between steps. (R381,
R382, R383, R384, R385, R386, R403, R404, R405) -/
def Obligations.ShomuLinksTrainCarryFlitsAndAreLost : Prop :=
  (∀ (k : LinkIx) locked (s : State) x, x = s.link k.val → x.st = .down → x.retry = false → x.barred = false → s.linkEnabled k.val = true →
    ∃ t, exec (.shomuLinkTrain k locked) s = .next t ∧ Only [.links] s t ∧ Others State.link [k.val] s t ∧
      (s.shomuBarred k.val = true → (t.link k.val).st = .down ∧ (t.link k.val).reason = 2 ∧ (t.link k.val).barred = true) ∧
      (s.shomuBarred k.val = false → s.shomuWidth k.val (~~~ locked) = 0 → (t.link k.val).st = .down ∧ (t.link k.val).retry = true ∧
        (t.link k.val).reason = (if locked = 0 then 1 else 2)) ∧
      (s.shomuBarred k.val = false → s.shomuWidth k.val (~~~ locked) ≠ 0 → (t.link k.val).st = .train ∧ (t.link k.val).locked = true ∧
        (t.link k.val).width = s.shomuWidth k.val (~~~ locked) ∧ (t.link k.val).started = s.refNow)) ∧
  (∀ (k : LinkIx) rec (s : State) x, x = s.link k.val → x.st = .train → x.locked = true → shomuRecBad rec = false →
    (∀ r, s.shomuHold k.val rec = some r → ∃ t, exec (.shomuTrainingRecord k rec) s = .next t ∧ (t.link k.val).st = .held ∧
      (t.link k.val).reason = r ∧ Detects 0x5EE0#16 s t ∧ Only [.links, .flog] s t ∧ Others State.link [k.val] s t) ∧
    (s.shomuHold k.val rec = none → x.peerAck = false → recField rec 16 3 1 = 0 →
      ∃ t, exec (.shomuTrainingRecord k rec) s = .next t ∧ t.link k.val = { x with ack := true } ∧ Only [.links] s t ∧ Others State.link [k.val] s t) ∧
    (s.shomuHold k.val rec = none → recField rec 16 3 1 = 1 →
      ∃ t, exec (.shomuTrainingRecord k rec) s = .next t ∧ (t.link k.val).st = .up ∧ (t.link k.val).width = x.width ∧
        ((t.link k.val).vmaj, (t.link k.val).vmin) = (1, min 1 (recField rec 12 0 4)) ∧ (t.link k.val).rxSeq = 0 ∧ (t.link k.val).txSeq = 0 ∧
        (t.link k.val).replay = [] ∧ Only [.links, .chans, .flog] s t ∧ Others State.link [k.val] s t)) ∧
  (∀ (k : LinkIx) (s : State), (s.link k.val).st = .train → (s.link k.val).started + 20000000 ≤ s.refNow →
    ∃ t, exec (.shomuTrainTimeout k) s = .next t ∧ (t.link k.val).st = .down ∧ (t.link k.val).reason = 7 ∧ (t.link k.val).retry = true ∧
      Only [.links] s t ∧ Others State.link [k.val] s t) ∧
  (∀ (k : LinkIx) (s : State), (s.link k.val).st = .down → (s.link k.val).retry = true → (s.link k.val).started + 10000000 ≤ s.refNow →
    s.linkEnabled k.val = true → ∃ t, exec (.shomuTrainRetry k) s = .next t ∧ (t.link k.val).st = .train ∧ (t.link k.val).locked = false ∧
      (t.link k.val).started = s.refNow ∧ Only [.links] s t ∧ Others State.link [k.val] s t) ∧
  (∀ (k : LinkIx) faulty (s : State) x, x = s.link k.val → x.st = .up → 8 ≤ x.replays → s.shomuWidth k.val (x.faulty ||| faulty) ≠ 0 →
    ∃ t, exec (.shomuFastRetrain k faulty) s = .next t ∧ (t.link k.val).st = .retrain ∧ (t.link k.val).replay = x.replay ∧
      (t.link k.val).width = s.shomuWidth k.val (x.faulty ||| faulty) ∧ Only [.links, .regs] s t ∧ Others State.link [k.val] s t ∧
      t.reg .shlRetrain k.val = min (s.reg .shlRetrain k.val + 1) (2 ^ 32 - 1)) ∧
  (∀ (k : LinkIx) bytes (s : State) x good seq, x = s.link k.val → x.st = .up → bytes.length = 256 →
    good = (bfield bytes 2012 4 == 0 && decide (bfield bytes 1996 4 ≤ 4) && (crc32c (bytes.take 252)).toNat == leNat (bytes.drop 252)) →
    seq = BitVec.ofNat 12 (bfield bytes 1984 12) →
    (good = false → ∃ t, exec (.shomuFlit k bytes) s = .next t ∧ t.link k.val = { x with nakOut := some x.rxSeq } ∧
      Only [.links, .regs] s t ∧ Others State.link [k.val] s t ∧ t.reg .shlCrc k.val = min (s.reg .shlCrc k.val + 1) (2 ^ 32 - 1)) ∧
    (good = true → bfield bytes 1996 4 = 0 → ∃ t, exec (.shomuFlit k bytes) s = .next t ∧ (t.link k.val).lastFlit = s.refNow ∧
      Only [.links] s t ∧ Others State.link [k.val] s t ∧
      (seq = x.rxSeq → (t.link k.val).rx = x.rx ++ bytes.take 248 ∧ (t.link k.val).rxSeq = x.rxSeq + 1) ∧
      (seq ≠ x.rxSeq → (t.link k.val).rx = x.rx ∧ (t.link k.val).rxSeq = x.rxSeq) ∧
      (seq ≠ x.rxSeq → 2048 ≤ (x.rxSeq - seq).toNat → (t.link k.val).nakOut = some x.rxSeq))) ∧
  (∀ (k : LinkIx) seq (s : State) l, (s.link k.val).st = .up → l = (s.link k.val).replay.dropWhile (fun f => f.1 != seq) → l ≠ [] →
    ∃ t, exec (.shomuNak k seq) s = .next t ∧ (t.link k.val).replay = l ∧ Only [.links, .regs] s t ∧ Others State.link [k.val] s t ∧
      t.reg .shlReplay k.val = min (s.reg .shlReplay k.val + l.length) (2 ^ 32 - 1)) ∧
  (∀ (k : LinkIx) (b : BitVec 64) (s : State) n c, (s.link k.val).st = .up → nbits b.toNat 32 32 = 0 → n = nbits b.toNat 8 24 →
    c = nbits b.toNat 2 6 →
    ∃ t, exec (.credit k [b]) s = .next t ∧ Only [.links, .chans] s t ∧ Others State.link [k.val] s t ∧
      (nbits b.toNat 0 2 = 0 → (t.link k.val).ctrlCredit = (s.link k.val).ctrlCredit + n) ∧
      (nbits b.toNat 0 2 = 1 → s.linkOfChan c = k.val → (t.chan c).msgCredit = (s.chan c).msgCredit + n ∧ Others State.chan [c] s t) ∧
      (nbits b.toNat 0 2 = 2 → (t.link k.val).bulkCredit = (s.link k.val).bulkCredit + n)) ∧
  (∀ (k : LinkIx) (s : State), (s.link k.val).st = .up → (s.link k.val).lastHbTx + 20000 ≤ s.refNow →
    ∃ t, exec (.shomuHeartbeatSend k) s = .next t ∧ (t.link k.val).hbSeq = (s.link k.val).hbSeq + 1 ∧
      (t.link k.val).tx = (s.link k.val).tx ++ [msgHeader 0x50 16 0 ++ s.shomuHeartbeat k.val] ∧ Only [.links] s t ∧ Others State.link [k.val] s t) ∧
  (∀ (k : LinkIx) (s : State) m r, (s.link k.val).st = .up → (s.link k.val).msgs = m :: r →
    ∃ t, exec (.heartbeat k) s = .next t ∧ t.link k.val = { s.link k.val with msgs := r, lastHb := s.refNow } ∧ Only [.links] s t ∧ Others State.link [k.val] s t) ∧
  (∀ (k : LinkIx) (s : State) x, x = s.link k.val → x.st = .up ∨ x.st = .retrain →
    (x.lastFlit + 100000 ≤ s.refNow ∨ x.lastHb + 150000 ≤ s.refNow) →
    ∃ t l, exec (.shomuLossDetect k) s = .next t ∧ (t.link k.val).st = .down ∧ (t.link k.val).reason = 6 ∧ (t.link k.val).retry = true ∧
      t.reg .shlLoss k.val = min (s.reg .shlLoss k.val + 1) (2 ^ 32 - 1) ∧ Others State.link [k.val] s t ∧
      t.flog.detected.map (·.code) = s.flog.detected.map (·.code) ++ [0x5EE2#16] ++ l ∧
      ∀ c ∈ s.chansOfLink k.val, (s.chan c).st ≠ .unassigned →
        (t.chan c).st = .closed ∧ (t.chan c).slot0 = {} ∧ (t.chan c).slot1 = {} ∧ ∀ r ∈ t.swaps, r.chan ≠ c) ∧
  (∀ (g : SaggerIx) (s : State), (s.sagger g.val).phase = .none →
    ∃ t, exec (.lossRequestEnd g) s = .next t ∧ Others State.sagger [g.val] s t ∧
      ∀ q ∈ (t.sagger g.val).live, q ∈ (s.sagger g.val).live ∧ ¬ (q.st = .ended ∧ q.silent = true))

/-- FRAME_RECEIVE takes the oldest frame of a link that is UP. A malformed one raises 0x5EE3 and reaches no channel;
one under a slot without keys counts as stale; one whose tag fails closes its channel and erases its keys; an unsealed
MSG or BULK frame where the policy wants keys raises 0x2EE7 and adds no message; a sealed single-frame message that
passes its checks under the active slot is received whole and advances the frame counter. STATUS_REQ is answered with
the channel's status, ATTEST_REQ of 32 bytes with a report or a wait; wrong lengths raise 0x5EE3. KEY_OFFER after
READY: refused with its reason and 0x5EE6, or accepted with fresh keys in its slot, opening the channel or starting a
rotation. KEY_SLOT_RETIRE_TIMEOUT after 100 ms erases the retiring slot. The nonces and keys drawn are free values.
(R388, R389, R392, R393, R394, R395, R396, R397, R398, R401, R402, R426) -/
def Obligations.FramesKeysAndStatusAnswers : Prop :=
  (∀ (k : LinkIx) (s : State) bs h n, (s.link k.val).st = .up → bs = skipZeros ((s.link k.val).rx.length / 8) (s.link k.val).rx →
    8 ≤ bs.length → h = frameHdrOf (bs.take 8) → n = h.bytes → n ≤ bs.length →
    ∃ t, exec (.frameReceive k) s = .next t ∧ (t.link k.val).rx = bs.drop n ∧
      t.reg .shlRxBytes k.val = min (s.reg .shlRxBytes k.val + n) (2 ^ 64 - 1) ∧
      (h.resv = true ∨ h.cls = 3 ∨ h.flen = 0 ∨ 4096 < h.flen → Detects 0x5EE3#16 s t ∧ Only [.links, .regs, .flog] s t) ∧
      (h.resv = false → h.cls < 3 → 0 < h.flen → h.flen ≤ 4096 → h.link = false → (s.saggerOfChan h.chan).isSome = true →
        s.linkOfChan h.chan = k.val →
        (h.enc = false → s.policy h.chan ≠ 0 → h.cls ≠ 0 → Detects 0x2EE7#16 s t ∧ (t.chan h.chan).rx = (s.chan h.chan).rx ∧
          Others State.chan [h.chan] s t) ∧
        (h.enc = true → ((s.chan h.chan).slot h.kslot).live = false → Only [.links, .regs, .flog] s t ∧
          t.reg .shlChStale h.chan = min (s.reg .shlChStale h.chan + 1) (2 ^ 32 - 1)) ∧
        (h.enc = true → ((s.chan h.chan).slot h.kslot).live = true →
          Config.gcmOpen ((s.chan h.chan).slot h.kslot).rxKey (frameNonce ((s.chan h.chan).slot h.kslot).rxCtr h.chan h.kslot false)
            (bs.take 8) ((bs.drop 8).take h.flen) ((bs.drop (8 + h.flen)).take 16) = none → (s.chan h.chan).st ≠ .unassigned →
          t.reg .shlChAuthfail h.chan = min (s.reg .shlChAuthfail h.chan + 1) (2 ^ 32 - 1) ∧ 0x5EE4#16 ∈ t.flog.detected.map (·.code) ∧
          (t.chan h.chan).st = .closed ∧ (t.chan h.chan).slot0 = {} ∧ (t.chan h.chan).slot1 = {}) ∧
        (∀ plain m, h.enc = true → ((s.chan h.chan).slot h.kslot).live = true → (s.chan h.chan).active = h.kslot →
          Config.gcmOpen ((s.chan h.chan).slot h.kslot).rxKey (frameNonce ((s.chan h.chan).slot h.kslot).rxCtr h.chan h.kslot false)
            (bs.take 8) ((bs.drop 8).take h.flen) ((bs.drop (8 + h.flen)).take 16) = some plain →
          m = padTo h.flen plain → h.first = true → h.last = true → (s.chan h.chan).parts.find? (fun p => p.1 == h.cls) = none →
          hostClass (bfield m 0 8) = some h.cls → 16 ≤ m.length → headerBad m h.cls (((s.planChan h.chan).map (·.buf)).getD 0) = false →
          m.length = 16 + bfield m 32 32 →
          (t.chan h.chan).rx = (s.chan h.chan).rx ++ [⟨bfield m 0 8, BitVec.ofNat 32 (bfield m 64 32), m.drop 16, h.kslot⟩] ∧
          ((t.chan h.chan).slot h.kslot).rxCtr = ((s.chan h.chan).slot h.kslot).rxCtr + 1 ∧
          Only [.links, .regs, .chans] s t ∧ Others State.chan [h.chan] s t))) ∧
  (∀ (c : ChanIx) (s : State) m g, s.headMsg c.val 0x30 = some m → s.saggerOfChan c.val = some g →
    ∃ t, exec (.statusReq c) s = .next t ∧ (t.chan c.val).rx = ((s.popMsg c.val 0x30).chan c.val).rx ∧ Others State.chan [c.val] s t ∧
      (m.payload = [] → (t.chan c.val).tx = (s.chan c.val).tx ++ [⟨0x31, m.tag, s.statusOf c.val g, m.kslot⟩] ∧ Only [.chans] s t) ∧
      (m.payload ≠ [] → Detects 0x5EE3#16 s t ∧ (t.chan c.val).tx = (s.chan c.val).tx ∧ Only [.chans, .flog] s t)) ∧
  (∀ (c : ChanIx) (s : State) m g a, s.headMsg c.val 0x40 = some m → s.saggerOfChan c.val = some g →
    a = (⟨m.payload, 1 <<< g, s.refNow, none, c.val, m.kslot, m.tag⟩ : AttestWait) →
    ∃ t, exec (.attestReq c) s = .next t ∧ (t.chan c.val).rx = ((s.popMsg c.val 0x40).chan c.val).rx ∧ Others State.chan [c.val] s t ∧
      (m.payload.length ≠ 32 → Detects 0x5EE3#16 s t ∧ Only [.chans, .flog] s t) ∧
      (m.payload.length = 32 → s.boot.keyOk = true → s.attestReady a = false → t.mgmt = { s.mgmt with attests := s.mgmt.attests ++ [a] } ∧
        Only [.chans, .mgmt] s t) ∧
      (m.payload.length = 32 → s.boot.keyOk = true → s.attestReady a = true →
        (t.chan c.val).tx = (s.chan c.val).tx ++ [⟨0x41, m.tag, s.report m.payload (1 <<< g), m.kslot⟩] ∧
        t.reg .secAttest 0 = min (s.reg .secAttest 0 + 1) (2 ^ 32 - 1) ∧ Only [.chans, .regs, .flog] s t)) ∧
  (∀ (c : ChanIx) (s : State) m g n, s.headMsg c.val 0x42 = some m → s.saggerOfChan c.val = some g → s.boot.readyWas = true →
    n = bfield m.payload 0 1 →
    ∃ t y, exec (.keyOffer c) s = .next t ∧ y = t.chan c.val ∧ Others State.chan [c.val] s t ∧
      (∀ r, s.offerBad c.val m.payload = some r → y.tx = (s.chan c.val).tx ++ [⟨0x44, m.tag, leBytes r 4, m.kslot⟩] ∧
        y.slot0 = (s.chan c.val).slot0 ∧ y.slot1 = (s.chan c.val).slot1 ∧ y.st = (s.chan c.val).st ∧ Detects 0x5EE6#16 s t ∧ Only [.chans, .flog] s t) ∧
      (s.offerBad c.val m.payload = none → (y.slot n).live = true ∧ (y.slot n).rxCtr = 0 ∧ (y.slot n).txCtr = 0 ∧
        y.tx.map (·.type) = (s.chan c.val).tx.map (·.type) ++ [0x43] ∧ t.freeCtr = s.freeCtr + 2 ∧
        (((s.chan c.val).slot (1 - n)).live = false → y.st = .open ∧ y.active = n) ∧
        (((s.chan c.val).slot (1 - n)).live = true → y.st = .rotating ∧ y.active = (s.chan c.val).active) ∧
        Only [.chans, .links, .freeCtr] s t)) ∧
  (∀ (c : ChanIx) (s : State) n since, (s.chan c.val).retiring = some (n, since) → since + 100000000 ≤ s.refNow →
    ∃ t, exec (.keySlotRetireTimeout c) s = .next t ∧ (t.chan c.val).slot n = {} ∧ (t.chan c.val).retiring = none ∧ Others State.chan [c.val] s t ∧
      t.reg .shlChRetireTo c.val = min (s.reg .shlChRetireTo c.val + 1) (2 ^ 32 - 1) ∧
      (∀ r ∈ t.swaps, r.chan = c.val → r.sent = true → r.kslot = n → (s.chan c.val).active = n) ∧
      Only [.chans, .swaps, .nextTag, .regs] s t)

/-- On an open channel with fewer than 1,024 swap messages out on its link, SWAP_WR sends the next glazed piece of a
page and SWAP_RD the oldest unsent read, each under a new TAG and the active slot. SWAP_ACK with status 0 settles its
write; SWAP_ERR, or an answer of the wrong length, fails the transfer with 0x5EE8; an unknown TAG raises 0x5EE8 and
changes nothing else. SWAP_DATA of the expected length settles its read: the directory slot gives its stream its
header and index, a block enters the expander queue of its die. SWAP_TIMEOUT after 1 ms sends the message again under
a new TAG, and fails the transfer when it has been sent four times. (R269, R330, R399, R400) -/
def Obligations.SwapMessagesMoveTheirData : Prop :=
  (∀ (c : ChanIx) (s : State) o r, s.nextWrite c.val = some (o, r) → s.chanOpen c.val = true → s.outstanding r.link < 1024 →
    ∃ t x, exec (.swapWr c) s = .next t ∧ x = { r with tag := s.nextTag, kslot := (s.chan c.val).active, since := s.refNow, sent := true } ∧
      t.swaps = s.swaps ++ [x] ∧ t.nextTag = s.nextTag + 1 ∧
      (t.chan c.val).tx = (s.chan c.val).tx ++ [⟨0x20, x.tag, x.payload, x.kslot⟩] ∧ Others State.chan [c.val] s t ∧ Only [.swaps, .nextTag, .chans, .lat, .regs] s t) ∧
  (∀ (c : ChanIx) (s : State) r, s.swaps.find? (fun r => r.chan == c.val && !r.sent && !r.write) = some r → s.chanOpen c.val = true →
    s.outstanding r.link < 1024 →
    ∃ t x, exec (.swapRd c) s = .next t ∧ x = { r with tag := s.nextTag, kslot := (s.chan c.val).active, since := s.refNow, sent := true } ∧
      t.swaps = s.swaps.filter (· != r) ++ [x] ∧ t.nextTag = s.nextTag + 1 ∧
      (t.chan c.val).tx = (s.chan c.val).tx ++ [⟨0x22, x.tag, x.payload, x.kslot⟩] ∧ Others State.chan [c.val] s t ∧ Only [.swaps, .nextTag, .chans] s t) ∧
  (∀ (c : ChanIx) (s : State) m g r, s.headMsg c.val 0x21 = some m → s.saggerOfChan c.val = some g → s.swapOf c.val m.tag true = some r →
    (m.payload = zeros 4 → ∃ t, exec (.swapAck c) s = .next t ∧ t.swaps = s.swaps.filter (· != r) ∧ Others State.chan [c.val] s t ∧ Only [.swaps, .chans, .regs] s t) ∧
    (m.payload ≠ zeros 4 → ∃ t l, exec (.swapAck c) s = .next t ∧ r ∉ t.swaps ∧ t.mem = s.mem ∧
      t.flog.detected.map (·.code) = s.flog.detected.map (·.code) ++ [0x5EE8#16] ++ l)) ∧
  (∀ (c : ChanIx) (s : State) m g r, s.headMsg c.val 0x24 = some m → s.saggerOfChan c.val = some g →
    (s.swapOf c.val m.tag true).or (s.swapOf c.val m.tag false) = some r →
    ∃ t l, exec (.swapErr c) s = .next t ∧ r ∉ t.swaps ∧ t.mem = s.mem ∧
      t.flog.detected.map (·.code) = s.flog.detected.map (·.code) ++ [0x5EE8#16] ++ l) ∧
  (∀ (c : ChanIx) (s : State) i ty w m g, (i, ty, w) ∈ [(Instr.swapAck c, 0x21, true), (.swapData c, 0x23, false)] →
    s.headMsg c.val ty = some m → s.saggerOfChan c.val = some g → s.swapOf c.val m.tag w = none →
    ∃ t, exec i s = .next t ∧ Detects 0x5EE8#16 s t ∧ Only [.chans, .flog] s t ∧ Others State.chan [c.val] s t) ∧
  (∀ (c : ChanIx) (s : State) m g r x, s.headMsg c.val 0x23 = some m → s.saggerOfChan c.val = some g → s.swapOf c.val m.tag false = some r →
    m.payload.length = r.bytes → s.readStream r = some x → s.stream? x.sid = some x →
    (r.block = 32 → ∃ t, exec (.swapData c) s = .next t ∧ r ∉ t.swaps ∧ Only [.swaps, .chans, .lat, .regs] s t ∧
      t.stream? x.sid = some { x with header := m.payload.take 32, index := m.payload.drop 32, entries := (glazeHdrOf (m.payload.take 32)).nblk }) ∧
    (∀ d, r.block ≠ 32 → d = s.streamDie x r.block → (s.glaze d).expQ.length < 64 →
      ∃ t, exec (.swapData c) s = .next t ∧ r ∉ t.swaps ∧ (t.glaze d).expQ = (s.glaze d).expQ ++ [(x.sid, r.block, m.payload)] ∧
      Others State.glaze [d] s t ∧ Only [.swaps, .chans, .glazes, .regs] s t)) ∧
  (∀ (k : LinkIx) tag (s : State) r, s.swaps.find? (fun r => r.link == k.val && r.sent && r.tag == tag) = some r →
    r.since + 1000000 ≤ s.refNow →
    (r.tries < 3 → ∃ t x, exec (.swapTimeout k tag) s = .next t ∧ r ∉ t.swaps ∧ x ∈ t.swaps ∧ x.tries = r.tries + 1 ∧ x.tag = s.nextTag ∧
      x.off = r.off ∧ x.data = r.data ∧ x.bytes = r.bytes ∧ x.write = r.write ∧ x.sent = true ∧ Only [.swaps, .nextTag, .chans, .regs] s t) ∧
    (3 ≤ r.tries → ∃ t l, exec (.swapTimeout k tag) s = .next t ∧ r ∉ t.swaps ∧ t.mem = s.mem ∧
      t.flog.detected.map (·.code) = s.flog.detected.map (·.code) ++ [0x5EE8#16] ++ l))

/-- MGMT_HANDSHAKE: a listed key whose exchange succeeds opens the lowest free session with its credential's roles and
fresh view state; a failed one counts in MGT_AUTH_FAIL, and the eighth within 60 s refuses the address; a refused
address or a fifth connection changes nothing. ADDRESS_REFUSAL_EXPIRE ends refusals of 60 s. A close discards the
session. Each of the 22 commands that the shared checks stop is answered with their status, counts in MGT_CMDS (and
MGT_DENIED when DENIED) and does nothing else; on a closed session it does nothing. GET_CERT returns the chain, or
VERIFY. ATTEST: BAD, NOTAVAIL without a key, a signed report at once, or a wait that ATTEST_SNAPSHOT ends. The payload
layout of ATTEST and BAD for an unwanted payload are log entry 40. (R418, R419, R420, R421, R425, R426, R457, R477,
log entry 40) -/
def Obligations.SessionsCheckEveryCommand : Prop :=
  (∀ addr kd (s : State) k c, s.firmwareUp = true → s.addrRefused addr = false → s.freeSession = some k →
    s.creds.find? (·.2 == kd) = some c →
    ∃ t, exec (.mgmtHandshake addr kd true) s = .next t ∧ t.session k = { open_ := true, addr := addr, roles := c.1 } ∧
      Others State.session [k] s t ∧ Only [.mgmt] s t) ∧
  (∀ addr kd ok (s : State), s.firmwareUp = true → s.addrRefused addr = false → s.freeSession ≠ none →
    s.creds.find? (·.2 == kd) = none ∨ ok = false →
    ∃ t, exec (.mgmtHandshake addr kd ok) s = .next t ∧ Others State.session [] s t ∧ Only [.mgmt, .regs, .flog] s t ∧
      t.reg .mgtAuthFail 0 = min (s.reg .mgtAuthFail 0 + 1) (2 ^ 32 - 1) ∧
      (t.addrRefused addr = true ↔ 7 ≤ (s.mgmt.failures.filter fun f => s.refNow < f.2 + minuteNs && f.1 == addr).length)) ∧
  (∀ addr kd ok (s : State), s.addrRefused addr = true ∨ s.freeSession = none → exec (.mgmtHandshake addr kd ok) s = .next s) ∧
  (∀ addr (s : State), ∃ t, exec (.addressRefusalExpire addr) s = .next t ∧ Only [.mgmt] s t ∧ Others State.session [] s t ∧
    ∀ r, r ∈ t.mgmt.refused ↔ r ∈ s.mgmt.refused ∧ ¬ (r.1 = addr ∧ r.2 + minuteNs ≤ s.refNow)) ∧
  (∀ (k : SessIx) (s : State), (s.session k.val).open_ = true →
    ∃ t, exec (.mgmtSessionClose k) s = .next t ∧ t.session k.val = {} ∧ Others State.session [k.val] s t ∧
      Only [.mgmt, .lat, .boot] s t ∧ ∀ a ∈ t.mgmt.attests, a ∈ s.mgmt.attests ∧ a.sess ≠ some k.val) ∧
  (∀ (m : MgmtArgs) env (s : State) (r : MgmtRule) (c : Instr),
    (r, c) ∈ [(⟨0x01, 0, .device, false⟩, Instr.getCert m), (⟨0x02, 0, .device, false⟩, .attest m), (⟨0x10, 0, .device, false⟩, .csrRead m),
      (⟨0x11, 1, .device, false⟩, .csrWrite m), (⟨0x12, 0, .sagger, false⟩, .stepRead m), (⟨0x13, 0, .device, false⟩, .faultRead m),
      (⟨0x20, 1, .sagger, false⟩, .budget m), (⟨0x21, 1, .sagger, true⟩, .saggerReset m), (⟨0x22, 1, .sagger, true⟩, .saggerClear m),
      (⟨0x30, 2, .device, false⟩, .imageWrite m), (⟨0x31, 2, .device, false⟩, .imageCommit m), (⟨0x32, 2, .device, false⟩, .imageErase m),
      (⟨0x33, 1, .sagger, true⟩, .imageLoad m), (⟨0x34, 1, .sagger, false⟩, .imageRemove m), (⟨0x40, 2, .device, false⟩, .fwBegin m),
      (⟨0x41, 2, .device, false⟩, .fwData m), (⟨0x42, 2, .device, false⟩, .fwCommit m), (⟨0x43, 2, .device, false⟩, .fwAbort m),
      (⟨0x50, 1, .device, true⟩, .sliceForm m), (⟨0x51, 1, .device, false⟩, .sliceDissolve m), (⟨0x52, 1, .sagger, true⟩, .migrate m),
      (⟨0x60, 1, .device, false⟩, .shutdown m env)] →
    ((s.session m.sess.val).open_ = false → exec c s = .next s) ∧
    (∀ st, (s.session m.sess.val).open_ = true → s.mgmtGate r m = some st →
      ∃ t, exec c s = .next t ∧ Answers m r.cmd st [] s t ∧ Only [.mgmt, .regs] s t ∧ CountsOnly s t ∧
        t.reg .mgtCmds 0 = min (s.reg .mgtCmds 0 + 1) (2 ^ 32 - 1) ∧
        (st = 1 → t.reg .mgtDenied 0 = min (s.reg .mgtDenied 0 + 1) (2 ^ 32 - 1)) ∧
        (st = 1 ↔ (s.session m.sess.val).roles.getLsbD r.role = false))) ∧
  (∀ m (s : State), Admits ⟨0x01, 0, .device, false⟩ m s → m.payload = [] →
    ∃ t, exec (.getCert m) s = .next t ∧ Only [.mgmt, .regs] s t ∧ CountsOnly s t ∧
      (s.boot.certOk = true → Answers m 0x01 0 (Config.certChain (mread s.mem.flash 0 (2 ^ 20))) s t) ∧
      (s.boot.certOk = false → Answers m 0x01 6 [] s t)) ∧
  (∀ m (s : State) (a : AttestWait), Admits ⟨0x02, 0, .device, false⟩ m s →
    (m.attestBad = true → ∃ t, exec (.attest m) s = .next t ∧ Answers m 0x02 2 [] s t ∧ Only [.mgmt, .regs] s t ∧ CountsOnly s t) ∧
    (m.attestBad = false → s.boot.keyOk = false → ∃ t, exec (.attest m) s = .next t ∧ Answers m 0x02 5 [] s t ∧ Only [.mgmt, .regs] s t ∧ CountsOnly s t) ∧
    (m.attestBad = false → s.boot.keyOk = true → a.mask = BitVec.ofNat 12 (m.field 32 0 12) → a.since = s.refNow →
      a.nonce = m.payload.take 32 → a.sess = some m.sess.val → a.chan = 0 → a.kslot = 0 → a.tag = m.tag →
      (s.boot.bisque = true ∨ (∀ g ∈ s.maskSaggers a.mask, s.unsettled g = false) →
        ∃ t, exec (.attest m) s = .next t ∧ Answers m 0x02 0 (s.report (m.payload.take 32) a.mask) s t ∧ Only [.mgmt, .regs] s t ∧
          t.reg .secAttest 0 = min (s.reg .secAttest 0 + 1) (2 ^ 32 - 1)) ∧
      (s.boot.bisque = false → (∃ g ∈ s.maskSaggers a.mask, s.unsettled g = true) →
        ∃ t, exec (.attest m) s = .next t ∧ t.mgmt.attests = s.mgmt.attests ++ [a] ∧ Others State.session [] s t ∧ Only [.mgmt, .regs] s t ∧ CountsOnly s t))) ∧
  (∀ (s : State) (a : AttestWait) l r k, s.mgmt.attests = l ++ a :: r → (∀ b ∈ l, s.attestReady b = false) → s.attestReady a = true →
    a.sess = some k → (s.session k).open_ = true →
    ∃ t, exec .attestSnapshot s = .next t ∧ t.mgmt.attests = l ++ r ∧ Others State.session [k] s t ∧
      (t.session k).resp = (s.session k).resp ++ [⟨0x8002, a.tag, 0, s.report a.nonce a.mask⟩] ∧
      t.flog.detected.map (·.code) = s.flog.detected.map (·.code) ++
        ((if s.boot.bisque then [] else (s.maskSaggers a.mask).filter s.unsettled).map fun _ => 0x1FF5#16) ∧
      Only [.mgmt, .regs, .flog] s t) ∧
  (∀ (s : State), (∀ b ∈ s.mgmt.attests, s.attestReady b = false) → exec .attestSnapshot s = .next s)

/-- In every block of the register map the upper word of a pair stands 4 bytes above the lower one. A CSR_READ of the
lower word alone answers bits [31:0] of the register's value as the read finds it; any later CSR_READ of the upper
word by the same session, before another read of that pair's lower word, answers bits [63:32] of that same value,
whatever the register holds by then. That host software reads the lower word first is the hypothesis. (R9) -/
def Obligations.RegisterPairsReadConsistently : Prop :=
  ∀ (m : MgmtArgs) (s : State) b g r v, Admits ⟨0x10, 0, .device, false⟩ m s → m.csrBad 8 = false → m.count = 1 →
    blockAt (m.addr / 65536) = some (b, g) → blockWord b (m.addr % 65536) = some (.lo r) →
    v = (s.bump .mgtCmds 0 1).readValue (s.session m.sess.val) b g r →
    blockWord b (m.addr % 65536 + 4) = some (.hi r) ∧
    ∃ t, exec (.csrRead m) s = .next t ∧ Answers m 0x10 0 (leBytes (v % 2 ^ 32) 4) s t ∧ Only [.mgmt, .regs] s t ∧ CountsOnly s t ∧
      ∀ (n : MgmtArgs) (s' : State), n.sess = m.sess → n.addr = m.addr + 4 → n.count = 1 → n.csrBad 8 = false →
        Admits ⟨0x10, 0, .device, false⟩ n s' → (s'.session m.sess.val).hi = (t.session m.sess.val).hi →
        ∃ t', exec (.csrRead n) s' = .next t' ∧ Answers n 0x10 0 (leBytes (v / 2 ^ 32 % 2 ^ 32) 4) s' t' 

/-- CSR_READ answers COUNT words and changes no module state but MGT_CMDS. A bad payload is BAD: nothing is read or
written. CSR_WRITE of one word: a gap is ignored; a select register takes its value, or keeps it when the value is
declared ignored, in this session alone; TOP_SCRATCH takes the value; TOP_FLT_STATUS bits clear where a 1 is written;
a 1 in WHL_CNT_CLR clears the selected usable wheel's counters. STEP_READ answers its head and the records of the
retained steps asked for. FAULT_READ answers the oldest retained SEQ, the next SEQ and at most COUNT records at or
after FIRST_SEQ that pass the filters. (R463, R475, R476, R477, R478, R8, R499) -/
def Obligations.RegistersAndLogsAreReadAndWritten : Prop :=
  (∀ (m : MgmtArgs) (s : State), Admits ⟨0x10, 0, .device, false⟩ m s →
    (m.csrBad 8 = true → ∃ t, exec (.csrRead m) s = .next t ∧ Answers m 0x10 2 [] s t ∧ Only [.mgmt, .regs] s t ∧ CountsOnly s t ∧
      (t.session m.sess.val).hi = (s.session m.sess.val).hi) ∧
    (m.csrBad 8 = false → ∃ t, ∃ ws : List Byte, exec (.csrRead m) s = .next t ∧ ws.length = 4 * m.count ∧ Answers m 0x10 0 ws s t ∧ Only [.mgmt, .regs] s t ∧ CountsOnly s t)) ∧
  (∀ (m : MgmtArgs) (s : State), Admits ⟨0x11, 1, .device, false⟩ m s →
    (m.csrBad (8 + 4 * m.count) = true → ∃ t, exec (.csrWrite m) s = .next t ∧ Answers m 0x11 2 [] s t ∧ Only [.mgmt, .regs] s t ∧ CountsOnly s t ∧
      (t.session m.sess.val).sels = (s.session m.sess.val).sels) ∧
    (∀ b g, m.csrBad (8 + 4 * m.count) = false → m.count = 1 → blockAt (m.addr / 65536) = some (b, g) →
      (blockWord b (m.addr % 65536) = none → ∃ t, exec (.csrWrite m) s = .next t ∧ Answers m 0x11 0 [] s t ∧ Only [.mgmt, .regs] s t ∧ CountsOnly s t ∧
        (t.session m.sess.val).sels = (s.session m.sess.val).sels) ∧
      (∀ r, blockWord b (m.addr % 65536) = some (.whole r) → r.isSel = true → (b = .sgr → s.named g = true) →
        ∃ t, exec (.csrWrite m) s = .next t ∧ Answers m 0x11 0 [] s t ∧ Only [.mgmt, .regs] s t ∧ CountsOnly s t ∧
          (t.session m.sess.val).sel r g = (selWrite r (m.field 8 0 32)).getD ((s.session m.sess.val).sel r g) ∧
          ∀ r' g', (r', g') ≠ (r, g) → (t.session m.sess.val).sel r' g' = (s.session m.sess.val).sel r' g') ∧
      (blockWord b (m.addr % 65536) = some (.whole .topScratch) →
        ∃ t, exec (.csrWrite m) s = .next t ∧ Answers m 0x11 0 [] s t ∧ t.reg .topScratch 0 = m.field 8 0 32 ∧ Only [.mgmt, .regs] s t ∧
          RegsOnly [(.mgtCmds, 0), (.mgtDenied, 0), (.topScratch, 0)] s t) ∧
      (blockWord b (m.addr % 65536) = some (.whole .topFltStatus) →
        ∃ t, exec (.csrWrite m) s = .next t ∧ Answers m 0x11 0 [] s t ∧ Only [.mgmt, .regs, .flog] s t ∧ CountsOnly s t ∧
          t.flog = { s.flog with dev := s.flog.dev && !bitOf (m.field 8 0 32) 0, overflow := s.flog.overflow && !bitOf (m.field 8 0 32) 1 }) ∧
      (∀ w, blockWord b (m.addr % 65536) = some (.whole .whlCntClr) → w = (s.session m.sess.val).sel .whlSel 0 → s.wheelUsable w = true →
        bitOf (m.field 8 0 32) 0 = true → ∃ t, exec (.csrWrite m) s = .next t ∧ Answers m 0x11 0 [] s t ∧ Only [.mgmt, .regs] s t ∧
          (∀ r ∈ clearedBy .whlCntClr, t.reg r w = 0) ∧
          RegsOnly ([(.mgtCmds, 0), (.mgtDenied, 0)] ++ (clearedBy .whlCntClr).map fun r => (r, w)) s t))) ∧
  (∀ (m : MgmtArgs) (s : State) f, Admits ⟨0x12, 0, .sagger, false⟩ m s → f = (s.sagger m.sagger.toNat).fired →
    (m.stepBad = true → ∃ t, exec (.stepRead m) s = .next t ∧ Answers m 0x12 2 [] s t ∧ Only [.mgmt, .regs] s t ∧ CountsOnly s t) ∧
    (m.stepBad = false → ∃ t, ∃ h : List Byte, ∃ ns : List Nat, exec (.stepRead m) s = .next t ∧ Only [.mgmt, .regs] s t ∧ CountsOnly s t ∧ h.length = 8 ∧
      Answers m 0x12 0 (h ++ leBytes ns.length 4 ++ leBytes 0 4 ++ ns.flatMap (s.ringRecord m.sagger.toNat)) s t ∧
      ns.length ≤ m.field 4 0 9 ∧ (f = 0 → h = leBytes 0 8 ∧ ns = []) ∧
      (f ≠ 0 → nbits (leNat h) 32 32 = s.nextStep m.sagger.toNat % 2 ^ 32) ∧
      ∀ n, n ∈ ns ↔ s.ringHolds m.sagger.toNat n = true ∧ ∃ k < m.field 4 0 9, n = stepOfLow f (m.field 0 0 32 + k))) ∧
  (∀ (m : MgmtArgs) (s : State), Admits ⟨0x13, 0, .device, false⟩ m s →
    (m.faultBad = true → ∃ t, exec (.faultRead m) s = .next t ∧ Answers m 0x13 2 [] s t ∧ Only [.mgmt, .regs] s t ∧ CountsOnly s t) ∧
    (m.faultBad = false → ∃ t, ∃ rs : List FaultRec, exec (.faultRead m) s = .next t ∧ Only [.mgmt, .regs] s t ∧ CountsOnly s t ∧
      Answers m 0x13 0 (leBytes ((s.flog.ring.head?.map (·.seq)).getD s.flog.next).toNat 4 ++ leBytes s.flog.next.toNat 4 ++
        leBytes rs.length 4 ++ leBytes 0 4 ++ rs.flatMap FaultRec.bytes) s t ∧ rs.length ≤ m.field 4 0 9 ∧ rs.Sublist s.flog.ring ∧
      (∀ r ∈ rs, seqFrom (BitVec.ofNat 32 (m.field 0 0 32)) r.seq = true ∧ r.passes (m.field 4 9 6) (m.field 4 15 4) = true) ∧
      ∀ r ∈ s.flog.ring, seqFrom (BitVec.ofNat 32 (m.field 0 0 32)) r.seq = true → r.passes (m.field 4 9 6) (m.field 4 15 4) = true →
        r ∈ rs ∨ rs.length = m.field 4 0 9))

/-- IMAGE_WRITE puts its bytes at the offset and un-commits images that they touch; LOCKED, NOSPACE, or BAD change
nothing. IMAGE_COMMIT records the image when its signature and chunk digests verify, else VERIFY. IMAGE_ERASE zeroes a
committed image. IMAGE_LOAD from the own store: installed and write-protected, every chunk at its place; a violation
of R55 rejects it whole with a class 0x3 record and VERIFY (log entry 50); by a slice, a member starts a loading and
answers later. IMAGE_REMOVE: BUSY while a live request uses the image; else detached, its free strata unprotected and
its owned frames in the scrub. FW_BEGIN erases the inactive slot, FW_DATA writes it, FW_COMMIT stages it or answers
VERIFY with 0x1FF1, FW_ABORT empties it; out of turn BUSY. Payload layouts: log entry 40. (R303, R307, R420, R421,
R422, R423, R427, R55, log entry 40) -/
def Obligations.ImagesAndFirmwareAreManaged : Prop :=
  (∀ (m : MgmtArgs) (s : State) ns off data, Admits ⟨0x30, 2, .device, false⟩ m s → (ns, off) = m.imageAt → data = m.payload.drop 8 →
    (m.imageHeadBad = true ∨ data = [] ∨ 2 ^ 20 < data.length ∨ s.nsCap ns = none → ∃ t, exec (.imageWrite m) s = .next t ∧ Answers m 0x30 2 [] s t ∧ Only [.mgmt, .regs] s t ∧ CountsOnly s t) ∧
    (∀ cap, m.imageHeadBad = false → data ≠ [] → data.length ≤ 2 ^ 20 → s.nsCap ns = some cap →
      (s.nsLocked ns = true → ∃ t, exec (.imageWrite m) s = .next t ∧ Answers m 0x30 3 [] s t ∧ Only [.mgmt, .regs] s t ∧ CountsOnly s t) ∧
      (s.nsLocked ns = false → cap < off + data.length → ∃ t, exec (.imageWrite m) s = .next t ∧ Answers m 0x30 7 [] s t ∧ Only [.mgmt, .regs] s t ∧ CountsOnly s t) ∧
      (s.nsLocked ns = false → off + data.length ≤ cap →
        ∃ t, exec (.imageWrite m) s = .next t ∧ Answers m 0x30 0 [] s t ∧ Only [.mgmt, .regs, .mem, .store] s t ∧ CountsOnly s t ∧
          t.mem = { s.mem with store := t.mem.store } ∧ mread t.mem.store (storeAddr ns off) data.length = data ∧
          Outside (storeAddr ns off) data.length s.mem.store t.mem.store ∧
          ∀ i, i ∈ t.store.images ↔ i ∈ s.store.images ∧ ¬ (i.ns = ns ∧ overlap i.off i.info.length off data.length = true)))) ∧
  (∀ (m : MgmtArgs) (s : State) ns off bs cap, Admits ⟨0x31, 2, .device, false⟩ m s → (ns, off) = m.imageAt →
    (m.imageHeadBad = true ∨ m.payload.length ≠ 8 ∨ s.nsCap ns = none → ∃ t, exec (.imageCommit m) s = .next t ∧ Answers m 0x31 2 [] s t ∧ Only [.mgmt, .regs] s t ∧ CountsOnly s t) ∧
    (m.imageHeadBad = false → m.payload.length = 8 → s.nsCap ns = some cap → bs = s.imageBytes ns off cap →
      (cap ≤ off → ∃ t, exec (.imageCommit m) s = .next t ∧ Answers m 0x31 2 [] s t ∧ Only [.mgmt, .regs] s t ∧ CountsOnly s t) ∧
      (off < cap → s.commitOk ns bs = false → ∃ t, exec (.imageCommit m) s = .next t ∧ Answers m 0x31 6 [] s t ∧ Only [.mgmt, .regs] s t ∧ CountsOnly s t) ∧
      (off < cap → s.commitOk ns bs = true →
        ∃ t, exec (.imageCommit m) s = .next t ∧ Answers m 0x31 0 [] s t ∧ Only [.mgmt, .regs, .store] s t ∧ CountsOnly s t ∧
          t.committed? ns off = some ⟨ns, off, digest256 ((Config.imageInfo bs).signed bs), Config.imageInfo bs⟩ ∧
          ∀ i : Committed, (i.ns, i.off) ≠ (ns, off) → (i ∈ t.store.images ↔ i ∈ s.store.images)))) ∧
  (∀ (m : MgmtArgs) (s : State) ns off, Admits ⟨0x32, 2, .device, false⟩ m s → (ns, off) = m.imageAt →
    (m.imageHeadBad = true ∨ m.payload.length ≠ 8 ∨ s.nsCap ns = none → ∃ t, exec (.imageErase m) s = .next t ∧ Answers m 0x32 2 [] s t ∧ Only [.mgmt, .regs] s t ∧ CountsOnly s t) ∧
    (m.imageHeadBad = false → m.payload.length = 8 → s.nsCap ns ≠ none →
      (s.nsLocked ns = true → ∃ t, exec (.imageErase m) s = .next t ∧ Answers m 0x32 3 [] s t ∧ Only [.mgmt, .regs] s t ∧ CountsOnly s t) ∧
      (s.nsLocked ns = false → s.committed? ns off = none → ∃ t, exec (.imageErase m) s = .next t ∧ Answers m 0x32 5 [] s t ∧ Only [.mgmt, .regs] s t ∧ CountsOnly s t) ∧
      (∀ i, s.nsLocked ns = false → s.committed? ns off = some i →
        ∃ t, exec (.imageErase m) s = .next t ∧ Answers m 0x32 0 [] s t ∧ Only [.mgmt, .regs, .mem, .store] s t ∧ CountsOnly s t ∧
          t.store = { s.store with images := s.store.images.erase i } ∧ t.mem = { s.mem with store := t.mem.store } ∧
          (∀ x < i.info.length, mget t.mem.store (storeAddr ns off + x) = 0) ∧
          Outside (storeAddr ns off) i.info.length s.mem.store t.mem.store))) ∧
  (∀ (m : MgmtArgs) (s : State) g, Admits ⟨0x33, 1, .sagger, true⟩ m s → g = m.sagger.toNat →
    (m.loadBad = true → ∃ t, exec (.imageLoad m) s = .next t ∧ Answers m 0x33 2 [] s t ∧ Only [.mgmt, .regs] s t ∧ CountsOnly s t) ∧
    (∀ st, m.loadBad = false → s.loadPlan g m.load = .error st → ∃ t, exec (.imageLoad m) s = .next t ∧ Answers m 0x33 st [] s t ∧ Only [.mgmt, .regs] s t ∧ CountsOnly s t) ∧
    (∀ i, m.loadBad = false → s.loadPlan g m.load = .ok i → m.load.slice = none →
      (∀ d, i.info.loadFault (s.storeWeights i) (Config.freeNat s.freeCtr % 256) = some d →
        ∃ t, exec (.imageLoad m) s = .next t ∧ Answers m 0x33 6 [] s t ∧ t.saggers = s.saggers ∧ t.mem = s.mem ∧
          Detects (faultCode 3 0 d) s t ∧ Only [.mgmt, .regs, .freeCtr, .flog, .lat] s t) ∧
      (i.info.loadFault (s.storeWeights i) (Config.freeNat s.freeCtr % 256) = none →
        (∀ c < i.info.chunks, (s.storeChunk i c).isSome = true) →
        ∃ t, exec (.imageLoad m) s = .next t ∧ Answers m 0x33 0 [] s t ∧
          (t.sagger g).images = (s.sagger g).images.filter (fun j => j.index != i.index) ++ [i] ∧
          (∀ h, h ≠ g → (t.sagger h).images = (s.sagger h).images) ∧ (∀ u ∈ i.strata, u ∈ t.mem.wp) ∧
          t.mem = { s.mem with hbm := t.mem.hbm, wp := t.mem.wp } ∧ (s.sameLoaded i = true → t.mem.hbm = s.mem.hbm) ∧
          (s.sameLoaded i = false → ∀ c < i.info.chunks,
            mread t.mem.hbm (i.byteAddr (c * 65536)) (i.info.chunkLen c) = s.storeWeights i (c * 65536) (i.info.chunkLen c)) ∧
          Only [.mgmt, .regs, .freeCtr, .mem, .saggers, .tallies, .flog, .lute, .lat] s t)) ∧
    (∀ i id x, m.loadBad = false → s.loadPlan g m.load = .ok i → m.load.slice = some id → s.slice? id = some x → x.apex ≠ s.own →
      s.sameLoaded i = false → (∀ l ∈ s.lat.loadings, l.slice ≠ 0) → 0 < i.info.chunks →
      ∃ t, exec (.imageLoad m) s = .next t ∧ Only [.lat, .regs] s t ∧ CountsOnly s t ∧
        ∃ l ∈ t.lat.loadings, l.slice = id ∧ l.sagger = g ∧ l.image = i ∧ l.have_ = [] ∧ l.asker = (m.sess.val, m.tag))) ∧
  (∀ (m : MgmtArgs) (s : State) g, Admits ⟨0x34, 1, .sagger, false⟩ m s → g = m.sagger.toNat →
    (m.payload.length ≠ 4 ∨ m.field 0 16 16 ≠ 0 → ∃ t, exec (.imageRemove m) s = .next t ∧ Answers m 0x34 2 [] s t ∧ Only [.mgmt, .regs] s t ∧ CountsOnly s t) ∧
    (m.payload.length = 4 → m.field 0 16 16 = 0 →
      (s.image? g (m.field 0 0 16) = none → ∃ t, exec (.imageRemove m) s = .next t ∧ Answers m 0x34 5 [] s t ∧ Only [.mgmt, .regs] s t ∧ CountsOnly s t) ∧
      (∀ i, s.image? g (m.field 0 0 16) = some i → s.imageUsed g (m.field 0 0 16) = true → ∃ t, exec (.imageRemove m) s = .next t ∧ Answers m 0x34 4 [] s t ∧ Only [.mgmt, .regs] s t ∧ CountsOnly s t) ∧
      (∀ i, s.image? g (m.field 0 0 16) = some i → s.imageUsed g (m.field 0 0 16) = false →
        ∃ t, exec (.imageRemove m) s = .next t ∧ Answers m 0x34 0 [] s t ∧ (t.sagger g).images = (s.sagger g).images.erase i ∧
          (∀ u ∈ i.strata, t.imageHolds u = false → u ∉ t.mem.wp ∧ (s.ownsStratum g u = true →
            ∀ f < stratumFrames, (t.sagger g).frames.any (fun e => e.1 == u * stratumFrames + f) = true)) ∧
          t.mem = { s.mem with wp := t.mem.wp } ∧ Others State.sagger [g] s t ∧ CountsOnly s t ∧
          Only [.mgmt, .regs, .mem, .saggers, .hbmStacks, .poison, .lat] s t))) ∧
  (∀ (m : MgmtArgs) (s : State) k c cmd, k = s.otherSlot → (cmd, c) ∈ [(0x40, Instr.fwBegin m), (0x42, .fwCommit m), (0x43, .fwAbort m)] →
    Admits ⟨cmd, 2, .device, false⟩ m s →
    (m.payload ≠ [] → ∃ t, exec c s = .next t ∧ Answers m cmd 2 [] s t ∧ Only [.mgmt, .regs] s t ∧ CountsOnly s t) ∧
    (m.payload = [] → (cmd = 0x40 ∧ s.health.slotState k ≠ .idle) ∨ (cmd = 0x42 ∧ s.health.slotState k ≠ .writing) ∨
      (cmd = 0x43 ∧ s.health.slotState k ≠ .writing ∧ s.health.slotState k ≠ .staged) →
      ∃ t, exec c s = .next t ∧ Answers m cmd 4 [] s t ∧ Only [.mgmt, .regs] s t ∧ CountsOnly s t)) ∧
  (∀ (m : MgmtArgs) (s : State) k, k = s.otherSlot → m.payload = [] →
    (Admits ⟨0x40, 2, .device, false⟩ m s → s.health.slotState k = .idle →
      ∃ t, exec (.fwBegin m) s = .next t ∧ Answers m 0x40 0 [] s t ∧ t.health = s.health.setSlot k .writing ∧
        (∀ x < slotBytes, mget t.mem.flash (slotBase k + x) = 0) ∧ Outside (slotBase k) slotBytes s.mem.flash t.mem.flash ∧
        t.mem = { s.mem with flash := t.mem.flash } ∧ t.boot = { s.boot with stageBytes := 0, stageDigest := none } ∧
        Only [.mgmt, .regs, .mem, .health, .boot] s t ∧ CountsOnly s t) ∧
    (Admits ⟨0x42, 2, .device, false⟩ m s → s.health.slotState k = .writing → slotOk s.mem.flash k s.fuses.svnMin = true →
      ∃ t, exec (.fwCommit m) s = .next t ∧ Answers m 0x42 0 [] s t ∧ t.health = s.health.setSlot k .staged ∧
        t.boot = { s.boot with stageDigest := some (digest256 (slotFirmware s.mem.flash k)) } ∧
        Only [.mgmt, .regs, .health, .boot] s t ∧ CountsOnly s t) ∧
    (Admits ⟨0x42, 2, .device, false⟩ m s → s.health.slotState k = .writing → slotOk s.mem.flash k s.fuses.svnMin = false →
      ∃ t, exec (.fwCommit m) s = .next t ∧ Answers m 0x42 6 [] s t ∧ t.health = s.health.setSlot k .idle ∧ Detects 0x1FF1#16 s t ∧
        Only [.mgmt, .regs, .health, .flog] s t ∧ CountsOnly s t) ∧
    (Admits ⟨0x43, 2, .device, false⟩ m s → s.health.slotState k = .writing ∨ s.health.slotState k = .staged →
      ∃ t, exec (.fwAbort m) s = .next t ∧ Answers m 0x43 0 [] s t ∧ t.health = s.health.setSlot k .idle ∧
        t.boot = { s.boot with stageBytes := 0, stageDigest := none } ∧ Only [.mgmt, .regs, .health, .boot] s t ∧ CountsOnly s t)) ∧
  (∀ (m : MgmtArgs) (s : State) k data, k = s.otherSlot → data = m.payload.drop 4 → Admits ⟨0x41, 2, .device, false⟩ m s →
    (m.payload.length < 5 ∨ 2 ^ 20 < data.length ∨ slotBytes < m.field 0 0 32 + data.length → ∃ t, exec (.fwData m) s = .next t ∧ Answers m 0x41 2 [] s t ∧ Only [.mgmt, .regs] s t ∧ CountsOnly s t) ∧
    (5 ≤ m.payload.length → data.length ≤ 2 ^ 20 → m.field 0 0 32 + data.length ≤ slotBytes →
      (s.health.slotState k ≠ .writing → ∃ t, exec (.fwData m) s = .next t ∧ Answers m 0x41 4 [] s t ∧ Only [.mgmt, .regs] s t ∧ CountsOnly s t) ∧
      (s.health.slotState k = .writing →
        ∃ t, exec (.fwData m) s = .next t ∧ Answers m 0x41 0 [] s t ∧ mread t.mem.flash (slotBase k + m.field 0 0 32) data.length = data ∧
          Outside (slotBase k + m.field 0 0 32) data.length s.mem.flash t.mem.flash ∧ t.mem = { s.mem with flash := t.mem.flash } ∧
          t.boot = { s.boot with stageBytes := s.boot.stageBytes + data.length } ∧ Only [.mgmt, .regs, .mem, .boot] s t ∧ CountsOnly s t)))

/-- BUDGET: BAD, NOSPACE, or the tenant's entry holds the new budget for the next fire point. SLICE_FORM on the kiln
apex adds the slice and answers later; BAD or UNREACHABLE otherwise. SLICE_DISSOLVE stops the slice, and answers a
waiting SLICE_FORM UNREACHABLE; NOTAVAIL for an unknown one. MIGRATE holds the request out of planning and answers at
the commit; BAD or BUSY otherwise. SHUTDOWN: READY falls at once; with a step under way it waits; without one every
sagger goes DOWN and BIST starts, or, when its conditions fail, ends as skipped with 0x10FC, the record CLEAN and the
answer OK. A condition that fails during BIST does the same. Log entries 34, 40, 51, 52. (R240, R370, R371, R372,
R420, R421, R424, R449, R450, R452, log entry 34, log entry 40) -/
def Obligations.BudgetsSlicesMigrationsAndShutdown : Prop :=
  (∀ (m : MgmtArgs) (s : State) g b, Admits ⟨0x20, 1, .sagger, false⟩ m s → g = m.sagger.toNat → b = budgetOf m.payload →
    (budgetBad m.payload = true → ∃ t, exec (.budget m) s = .next t ∧ Answers m 0x20 2 [] s t ∧ Only [.mgmt, .regs] s t ∧ CountsOnly s t) ∧
    (budgetBad m.payload = false → s.tenantsFull g b.tenant = true → ∃ t, exec (.budget m) s = .next t ∧ Answers m 0x20 7 [] s t ∧ Only [.mgmt, .regs] s t ∧ CountsOnly s t) ∧
    (budgetBad m.payload = false → s.tenantsFull g b.tenant = false →
      ∃ t, exec (.budget m) s = .next t ∧ Answers m 0x20 0 [] s t ∧ (∃ e ∈ (t.sagger g).tenants, e.budget.tenant = b.tenant ∧ e.next = some b) ∧
        (∀ e ∈ (t.sagger g).tenants, e.budget.tenant = b.tenant → e.next = some b) ∧
        (t.sagger g).tenants.filter (fun e => e.budget.tenant != b.tenant) = (s.sagger g).tenants.filter (fun e => e.budget.tenant != b.tenant) ∧
        t.sagger g = { s.sagger g with tenants := (t.sagger g).tenants } ∧ Others State.sagger [g] s t ∧
        Only [.mgmt, .regs, .saggers] s t ∧ CountsOnly s t)) ∧
  (∀ (m : MgmtArgs) (s : State) x, Admits ⟨0x50, 1, .device, true⟩ m s → x = sliceOf (BitVec.ofNat 256 (leNat m.payload)) →
    (m.payload.length ≠ 32 ∨ s.lat.apex = false ∨ s.sliceBad x = true ∨ s.slice? x.id ≠ none → ∃ t, exec (.sliceForm m) s = .next t ∧ Answers m 0x50 2 [] s t ∧ Only [.mgmt, .regs] s t ∧ CountsOnly s t) ∧
    (m.payload.length = 32 → s.lat.apex = true → s.sliceBad x = false → s.slice? x.id = none →
      ((∃ c ∈ x.members s.kiln, c ∈ s.lat.lostModules) → ∃ t, exec (.sliceForm m) s = .next t ∧ Answers m 0x50 8 [] s t ∧ Only [.mgmt, .regs] s t ∧ CountsOnly s t) ∧
      ((∀ c ∈ x.members s.kiln, c ∉ s.lat.lostModules) →
        ∃ t, exec (.sliceForm m) s = .next t ∧ (t.session m.sess.val).resp = (s.session m.sess.val).resp ∧ Only [.regs, .lat, .ports] s t ∧
          t.lat.slices = s.lat.slices ++ [{ x with started := s.refNow, asker := some (m.sess.val, m.tag) }]))) ∧
  (∀ (m : MgmtArgs) (s : State), Admits ⟨0x51, 1, .device, false⟩ m s →
    (m.payload.length ≠ 4 ∨ m.field 0 16 16 ≠ 0 ∨ s.lat.apex = false → ∃ t, exec (.sliceDissolve m) s = .next t ∧ Answers m 0x51 2 [] s t ∧ Only [.mgmt, .regs] s t ∧ CountsOnly s t) ∧
    (m.payload.length = 4 → m.field 0 16 16 = 0 → s.lat.apex = true →
      (s.slice? (m.field 0 0 16) = none → ∃ t, exec (.sliceDissolve m) s = .next t ∧ Answers m 0x51 5 [] s t ∧ Only [.mgmt, .regs] s t ∧ CountsOnly s t) ∧
      (∀ x, s.slice? (m.field 0 0 16) = some x → ∃ t, exec (.sliceDissolve m) s = .next t ∧
        (∀ y, t.slice? (m.field 0 0 16) = some y → y.active = false) ∧ Only [.mgmt, .regs, .lat, .ports] s t ∧
        (x.asker = none → Answers m 0x51 0 [] s t) ∧
        (∀ k tag, x.asker = some (k, tag) → k ≠ m.sess.val → (s.session k).open_ = true →
          (t.session k).resp = (s.session k).resp ++ [⟨0x8050, tag, 8, []⟩] ∧
          (t.session m.sess.val).resp = (s.session m.sess.val).resp ++ [⟨0x8051, m.tag, 0, []⟩])))) ∧
  (∀ (m : MgmtArgs) (s : State) g dest, Admits ⟨0x52, 1, .sagger, true⟩ m s → g = m.sagger.toNat → dest = BitVec.ofNat 11 (m.field 8 0 11) →
    (m.migrateBad = true ∨ dest = s.own ∨ s.sliceMoves g dest = none ∨
      (s.sagger g).live.find? (fun q => q.chan == m.field 0 0 6 && q.sub.reqId.toNat == m.field 4 0 32) = none → ∃ t, exec (.migrate m) s = .next t ∧ Answers m 0x52 2 [] s t ∧ Only [.mgmt, .regs] s t ∧ CountsOnly s t) ∧
    (∀ x q, m.migrateBad = false → dest ≠ s.own → s.sliceMoves g dest = some x →
      (s.sagger g).live.find? (fun q => q.chan == m.field 0 0 6 && q.sub.reqId.toNat == m.field 4 0 32) = some q →
      (q.movable = false ∨ (s.sagger g).st ≠ .serving → ∃ t, exec (.migrate m) s = .next t ∧ Answers m 0x52 4 [] s t ∧ Only [.mgmt, .regs] s t ∧ CountsOnly s t) ∧
      (q.movable = true → (s.sagger g).st = .serving → s.inStep g q = true ∨ s.swapPages g q ≠ [] →
        (∀ a ∈ s.lat.migrations, a.sagger = g → a.started = true) →
        ∃ t, exec (.migrate m) s = .next t ∧ (t.session m.sess.val).resp = (s.session m.sess.val).resp ∧ Only [.regs, .saggers, .lat, .glazes] s t ∧ Others State.sagger [g] s t ∧
          (∀ r ∈ (t.sagger g).live, r.chan = q.chan → r.sub.reqId = q.sub.reqId → r.moving = true) ∧
          ∃ a ∈ t.lat.migrations, a.sagger = g ∧ a.chan = q.chan ∧ a.reqId = q.sub.reqId ∧ a.dest = dest ∧ a.slice = x.id ∧
            a.asker = (m.sess.val, m.tag)))) ∧
  (∀ (m : MgmtArgs) env (s : State), Admits ⟨0x60, 1, .device, false⟩ m s →
    (m.payload ≠ [] → ∃ t, exec (.shutdown m env) s = .next t ∧ Answers m 0x60 2 [] s t ∧ Only [.mgmt, .regs] s t ∧ CountsOnly s t) ∧
    (m.payload = [] → s.boot.shutting = true → ∃ t, exec (.shutdown m env) s = .next t ∧ Answers m 0x60 4 [] s t ∧ Only [.mgmt, .regs] s t ∧ CountsOnly s t) ∧
    (m.payload = [] → s.boot.shutting = false →
      ∃ t, exec (.shutdown m env) s = .next t ∧ t.boot.ready = false ∧ t.boot.shutting = true ∧ t.power = s.power ∧ t.fuses = s.fuses ∧
        t.plan = s.plan ∧ t.store = s.store ∧ t.tb = s.tb ∧
        ((∃ g ∈ s.planSaggers, (s.sagger g).st = .serving ∧ (s.sagger g).phase ≠ .none) →
          t.boot.bistOn = s.boot.bistOn ∧ t.boot.idle = s.boot.idle ∧ t.health = s.health ∧ t.boot.shutBy = some (m.sess.val, m.tag)) ∧
        ((∀ g ∈ s.planSaggers, (s.sagger g).st ≠ .serving ∨ (s.sagger g).phase = .none) →
          (∀ g ∈ s.planSaggers, (t.sagger g).st = .down) ∧
          (env.conditions = true → t.boot.bistOn = true ∧ t.boot.shutBy = some (m.sess.val, m.tag) ∧
            (∀ f ∈ env.failed, s.marked f.1 f.2 = true ∨ f ∈ t.health.pending) ∧
            t.mem = { store := s.mem.store, flash := s.mem.flash, wp := s.mem.wp }) ∧
          (env.conditions = false → t.boot.idle = true ∧ t.health.shutdown.clean = true ∧ t.health.shutdown.bist = 3 ∧
            (t.session m.sess.val).resp.getLast? = some ⟨0x8060, m.tag, 0, []⟩ ∧
            ∃ l, t.flog.detected.map (·.code) = s.flog.detected.map (·.code) ++ l ++ [0x10FC#16])))) ∧
  (∀ ppm ok (s : State), s.boot.bistOn = true → refInBist ppm = false ∨ ok = false →
    ∃ t, exec (.bistConditionCheck ppm ok) s = .next t ∧ t.boot.bistOn = false ∧ t.boot.idle = true ∧ t.health.shutdown.clean = true ∧
      t.health.shutdown.bist = 3 ∧ t.health.bistLog.getLast? = some (s.health.boots, 3) ∧ Detects 0x10FC#16 s t ∧
      (∀ p < 7, (t.port p).st = .down) ∧ (∀ k < 2, (t.link k).st = .down) ∧ Only [.boot, .health, .flog, .ports, .links, .mgmt, .regs] s t ∧
      ∀ k tag, s.boot.shutBy = some (k, tag) → (s.session k).open_ = true →
        (t.session k).resp = (s.session k).resp ++ [⟨0x8060, tag, 0, []⟩]) ∧
  (∀ ppm (s : State), s.boot.bistOn = false ∨ refInBist ppm = true → exec (.bistConditionCheck ppm true) s = .next s)

/-- SAGGER_RESET takes a serving sagger to RESETTING (and, on a luted one, stops the pair); SAGGER_CLEAR ends every
request, evicts every node, sends every frame through the scrub, clears the slabs, keeps the images, and detects one
record 0x2FF4; both BUSY unless serving. CLEAR_COMPLETE, once no frame waits for its scrub, builds the sagger: SERVING
at step 0 fired, RHO 1.0, lag 0, images and tenants kept; DOWN with 0x30FA below its minimums; DOWN without its lute.
SAGGER_RESET_SEQUENCE stops and settles the work, clears the slabs, marks wheels whose reference tile fails, and
serves again, or goes DOWN below its minimums; the third reset in 60 s ends every queued request. SETTER_PROBE starts
or ends a wait of 10 ms; its first expiry detects 0x3038, its second leaves the sagger DOWN and marks the setter.
(R411, R416, R421, R447, R465, R466) -/
def Obligations.SaggersAreResetClearedAndProbed : Prop :=
  (∀ (m : MgmtArgs) (s : State) g cmd c, g = m.sagger.toNat → (cmd, c) ∈ [(0x21, Instr.saggerReset m), (0x22, .saggerClear m)] →
    Admits ⟨cmd, 1, .sagger, true⟩ m s →
    (m.payload ≠ [] → ∃ t, exec c s = .next t ∧ Answers m cmd 2 [] s t ∧ Only [.mgmt, .regs] s t ∧ CountsOnly s t) ∧
    (m.payload = [] → (s.sagger g).st ≠ .serving → ∃ t, exec c s = .next t ∧ Answers m cmd 4 [] s t ∧ Only [.mgmt, .regs] s t ∧ CountsOnly s t)) ∧
  (∀ (m : MgmtArgs) (s : State) g, g = m.sagger.toNat → g < 12 → m.payload = [] → (s.sagger g).st = .serving →
    (Admits ⟨0x21, 1, .sagger, true⟩ m s →
      ∃ t, exec (.saggerReset m) s = .next t ∧ Answers m 0x21 0 [] s t ∧
        t.sagger g = { s.sagger g with st := .resetting, cause := (t.sagger g).cause } ∧ (t.sagger g).cause.code = 0 ∧
        Others State.sagger [g] s t ∧ t.lute = { s.lute with stop := s.lute.stop || s.luted g } ∧
        Only [.mgmt, .regs, .saggers, .lute] s t ∧ CountsOnly s t) ∧
    (Admits ⟨0x22, 1, .sagger, true⟩ m s →
      ∃ t l, exec (.saggerClear m) s = .next t ∧ (t.session m.sess.val).resp.getLast? = some ⟨0x8022, m.tag, 0, []⟩ ∧
        (t.sagger g).st = .clearing ∧ (t.sagger g).live = [] ∧ (t.sagger g).queue = [] ∧ (t.sagger g).nodes = [] ∧
        (t.sagger g).winUnits = [] ∧ (t.sagger g).images = (s.sagger g).images ∧
        (∀ f x, (t.sagger g).frames.find? (fun e => e.1 == f) = some (f, x) → x = .scrubbing ∨ x = .retired) ∧
        (∀ w < 144, s.ownsWheel g w = true → ∀ x < slabBytes, mget t.mem.slab (w * slabBytes + x) = 0) ∧
        t.flog.detected.map (·.code) = s.flog.detected.map (·.code) ++ l ∧ 0x2FF4#16 ∈ l ∧
        Only [.mgmt, .regs, .freeCtr, .mem, .flog, .saggers, .wheels, .wares, .ldus, .ssus, .hbmStacks, .glazes, .ports, .lat, .lute, .chans,
          .swaps] s t)) ∧
  (∀ (g : SaggerIx) (s : State) x, x = s.sagger g.val →
    (x.st ≠ .clearing ∨ s.scrubLeft g.val = true → exec (.clearComplete g) s = .next s) ∧
    (x.st = .clearing → s.scrubLeft g.val = false →
      (s.luted g.val = true → s.lute.paired = false →
        ∃ t, exec (.clearComplete g) s = .next t ∧ t.sagger g.val = { x with st := .down } ∧ Others State.sagger [g.val] s t ∧ Only [.saggers] s t) ∧
      (s.luted g.val = false ∨ s.lute.paired = true → s.cannotBuild g.val = true →
        ∃ t, exec (.clearComplete g) s = .next t ∧ t.sagger g.val = { x with st := .down } ∧ Others State.sagger [g.val] s t ∧
          t.boot = { s.boot with sgrDown := s.boot.sgrDown ||| (1 <<< g.val) } ∧ Detects 0x30FA#16 s t ∧ Only [.saggers, .boot, .flog] s t) ∧
      (s.luted g.val = false ∨ s.lute.paired = true → s.cannotBuild g.val = false →
        ∃ t, exec (.clearComplete g) s = .next t ∧ (t.sagger g.val).st = .serving ∧ (t.sagger g.val).stepNum = 0 ∧ (t.sagger g.val).fired = 0 ∧
          (t.sagger g.val).rho = 4096 ∧ (t.sagger g.val).lag = 0 ∧ (t.sagger g.val).images = x.images ∧ (t.sagger g.val).tenants = x.tenants ∧
          (t.sagger g.val).live = [] ∧ (t.sagger g.val).queue = [] ∧ (t.sagger g.val).nodes = [] ∧
          (∀ h, h ≠ g.val → (t.sagger h).images = (s.sagger h).images) ∧
          Only [.mem, .regs, .saggers, .tallies, .flog, .lute, .chans] s t))) ∧
  (∀ (g : SaggerIx) fails (s : State), (s.sagger g.val).st = .resetting → ∃ t, exec (.saggerResetSequence g fails) s = .next t ∧
    ((t.sagger g.val).st = .serving ∨ (t.sagger g.val).st = .down) ∧
    (∀ w ∈ fails, s.ownsWheel g.val w = true → s.wheelUsable w = true → (t.wheel w).failed = true) ∧
    (∀ w < 144, s.ownsWheel g.val w = true → ∀ x < slabBytes, mget t.mem.slab (w * slabBytes + x) = 0) ∧
    ((t.sagger g.val).st = .serving → t.reg .sgrAccCtl g.val % 2 = 0) ∧
    (fails = [] → (s.planSagger g.val).minShelves ≤ (s.shelvesOf g.val).length → s.luted g.val = false ∨ s.lute.paired = true →
      (t.sagger g.val).st = .serving ∧ t.reg .sgrResets g.val = min (s.reg .sgrResets g.val + 1) (2 ^ 32 - 1) ∧
      (2 ≤ ((s.sagger g.val).resetTimes.filter fun r => s.refNow < r + 60 * 10 ^ 9).length →
        (t.sagger g.val).queue = [] ∧ (t.sagger g.val).resetTimes = []) ∧
      (((s.sagger g.val).resetTimes.filter fun r => s.refNow < r + 60 * 10 ^ 9).length < 2 →
        (t.sagger g.val).resetTimes = ((s.sagger g.val).resetTimes.filter fun r => s.refNow < r + 60 * 10 ^ 9) ++ [s.refNow])) ∧
    (fails = [] → (s.shelvesOf g.val).length < (s.planSagger g.val).minShelves → (t.sagger g.val).st = .down) ∧
    Only [.mgmt, .regs, .freeCtr, .mem, .health, .flog, .saggers, .wheels, .wares, .ldus, .ssus, .tallies, .hbmStacks, .glazes, .ports, .lat,
      .lute, .chans, .swaps] s t) ∧
  (∀ (g : SaggerIx) fails (s : State), (s.sagger g.val).st ≠ .resetting → exec (.saggerResetSequence g fails) s = .next s) ∧
  (∀ (g : SaggerIx) answers (s : State), s.firmwareUp = true → s.named g.val = true →
    ∃ t, exec (.setterProbe g answers) s = .next t ∧ Only [.saggers] s t ∧ Others State.sagger [g.val] s t ∧
      t.sagger g.val = { s.sagger g.val with probeLost := if answers then none else some ((s.sagger g.val).probeLost.getD s.refNow) }) ∧
  (∀ (g : SaggerIx) (s : State) x lost, x = s.sagger g.val → x.probeLost = some lost → lost + 10000000 ≤ s.refNow → s.luted g.val = false →
    (x.probeExpiries = 0 → ∃ t, exec (.setterProbeTimeout g) s = .next t ∧ (t.sagger g.val).probeLost = none ∧ (t.sagger g.val).probeExpiries = 1 ∧
      Detects 0x3038#16 s t ∧ (x.st = .serving → (t.sagger g.val).st = .resetting) ∧ Others State.sagger [g.val] s t ∧ Only [.saggers, .flog] s t) ∧
    (x.probeExpiries ≠ 0 → ∃ t, exec (.setterProbeTimeout g) s = .next t ∧ (t.sagger g.val).st = .down ∧ (t.sagger g.val).stayDown = true ∧
      (t.sagger g.val).probeLost = none ∧ t.health = { s.health with pending := s.health.pending ++ [(388 + g.val / 8, g.val % 8)] } ∧
      Only [.mgmt, .regs, .freeCtr, .mem, .health, .flog, .saggers, .wheels, .wares, .ldus, .ssus, .hbmStacks, .glazes, .ports, .lat, .lute, .chans,
        .swaps] s t))

/-- RESET_RELEASE and INPUT_RETURN run the start sequence when the rails are on, RST_N is high, REFCLK is within
±1,000 ppm and the module is in reset: the boot is counted, and the module ends with READY high on a verified slot and
its plan, in bisque mode with a reason 0x01 to 0x05, or dead with two bad slots; otherwise only the power state
changes. RESET_ASSERT, TRIP (a limit passed for 1 ms) and INPUT_LOCKOUT lose every volatile part: the store, the
flash, its health area and the fuses stay; a trip is latched until RST_N or the input goes. MODULE_INSERT feeds the
module; REFCLK_PPM_UPDATE and MANAGEMENT_LINK_CHANGE set what they name. That a start is one effect is log entry 41.
(R26, R443, R456, R480, R485, R486, R488, R492, R495, R496, R500, log entry 41) -/
def Obligations.PowerResetAndTheStartSequence : Prop :=
  (∀ env (s : State) p, p = { s.power with rstN := true } →
    (s.boot.phase = 0 → p.mayStart env.refclkPpm = true → ∃ t, exec (.resetRelease env) s = .next t ∧ t.health.boots = s.health.boots + 1 ∧ t.power.ppm = env.refclkPpm ∧ t.pending = s.pending ∧
      ((t.boot.ready = true ∧ t.boot.phase = 6 ∧ env.keyOk = true ∧ env.bridgeOk = true ∧ (∀ c ∈ env.codes, c ≤ 63) ∧
          slotOk s.mem.flash t.boot.slot s.fuses.svnMin = true ∧ t.plan = some (planOf (slotPlan s.mem.flash t.boot.slot))) ∨
        (t.boot.bisque = true ∧ t.boot.ready = false ∧ 1 ≤ t.boot.reason ∧ t.boot.reason ≤ 5) ∨
        (t.boot.dead = true ∧ slotOk s.mem.flash 0 s.fuses.svnMin = false ∧ slotOk s.mem.flash 1 s.fuses.svnMin = false))) ∧
    (s.boot.phase ≠ 0 ∨ p.mayStart env.refclkPpm = false → ∃ t, exec (.resetRelease env) s = .next t ∧ t.power = p ∧ Only [.power] s t)) ∧
  (∀ env (s : State) p, p = ({ s.power with input := true } : Power).fed →
    (s.boot.phase = 0 → p.mayStart env.refclkPpm = true → ∃ t, exec (.inputReturn env) s = .next t ∧ t.health.boots = s.health.boots + 1 ∧ t.power.ppm = env.refclkPpm ∧ t.pending = s.pending ∧
      ((t.boot.ready = true ∧ t.boot.phase = 6 ∧ env.keyOk = true ∧ env.bridgeOk = true ∧ (∀ c ∈ env.codes, c ≤ 63) ∧
          slotOk s.mem.flash t.boot.slot s.fuses.svnMin = true ∧ t.plan = some (planOf (slotPlan s.mem.flash t.boot.slot))) ∨
        (t.boot.bisque = true ∧ t.boot.ready = false ∧ 1 ≤ t.boot.reason ∧ t.boot.reason ≤ 5) ∨
        (t.boot.dead = true ∧ slotOk s.mem.flash 0 s.fuses.svnMin = false ∧ slotOk s.mem.flash 1 s.fuses.svnMin = false))) ∧
    (s.boot.phase ≠ 0 ∨ p.mayStart env.refclkPpm = false → ∃ t, exec (.inputReturn env) s = .next t ∧ t.power = p ∧ Only [.power] s t)) ∧
  (∀ (p : Power) ppm, p.mayStart ppm = true ↔ p.rails = true ∧ p.rstN = true ∧ -100000 ≤ ppm ∧ ppm ≤ 100000) ∧
  (∀ (s : State), ∃ t, exec .resetAssert s = .next t ∧ t.power.rstN = false ∧ t.power.tripped = false ∧ t.power.input = s.power.input ∧
    t.power.inserted = s.power.inserted ∧ t.power.rails = (s.power.input && s.power.inserted) ∧ t.power.refOk = false ∧
    t = { State.reset with pending := s.pending, freeCtr := s.freeCtr, mem := { store := s.mem.store, flash := s.mem.flash }, power := t.power, health := s.health, fuses := s.fuses, store := s.store }) ∧
  (∀ junction stack ppm (s : State), s.power.rails = true →
    (junction ≥ 110 ∨ stack ≥ 112 ∨ (s.boot.phase ≠ 0 ∧ ∀ p, ppm = some p → p < -100000 ∨ 100000 < p) →
      ∃ t, exec (.trip junction stack ppm) s = .next t ∧ t.power.tripped = true ∧ t.power.rails = false ∧ t.power.input = s.power.input ∧
        t.power.inserted = s.power.inserted ∧ t.power.rstN = s.power.rstN ∧
        t = { State.reset with pending := s.pending, freeCtr := s.freeCtr, mem := { store := s.mem.store, flash := s.mem.flash }, power := t.power, health := s.health, fuses := s.fuses, store := s.store }) ∧
    (junction < 110 → stack < 112 → s.boot.phase = 0 ∨ (∃ p, ppm = some p ∧ -100000 ≤ p ∧ p ≤ 100000) →
      exec (.trip junction stack ppm) s = .next s)) ∧
  (∀ junction stack ppm (s : State), s.power.rails = false → exec (.trip junction stack ppm) s = .next s) ∧
  (∀ (s : State), ∃ t, exec .inputLockout s = .next t ∧ t.power.input = false ∧ t.power.rails = false ∧ t.power.tripped = false ∧
    t.power.inserted = s.power.inserted ∧ t.power.rstN = s.power.rstN ∧
    t = { State.reset with pending := s.pending, freeCtr := s.freeCtr, mem := { store := s.mem.store, flash := s.mem.flash }, power := t.power, health := s.health, fuses := s.fuses, store := s.store }) ∧
  (∀ (s : State), ∃ t, exec .moduleInsert s = .next t ∧ Only [.power] s t ∧
    t.power = { s.power with inserted := true, rails := s.power.input && !s.power.tripped }) ∧
  (∀ ppm (s : State), s.firmwareUp = true → ∃ t, exec (.refclkPpmUpdate ppm) s = .next t ∧ Only [.power] s t ∧
    t.power = { s.power with ppm := ppm, refOk := decide (-10000 ≤ ppm) && decide (ppm ≤ 10000) }) ∧
  (∀ up addr (s : State), s.firmwareUp = true → ∃ t, exec (.managementLinkChange up addr) s = .next t ∧ Only [.mgmt] s t ∧
    t.mgmt = { s.mgmt with link := up, addr := addr })

/-- BISQUE_ENTRY with reason 1 to 6 while the firmware runs: READY falls, every sagger of the plan is DOWN, record
0x40FE is detected last, and for reason 1 the links are held. FAULT_LOG_ENTER gives the oldest detected record the
next SEQ and puts it at the end of the ring, which keeps the newest 4,096; a class 4 record sets DEV, and the first
such its SEQ. CONE_MEASURE, at most every 10 minutes: counted and dated; a die whose worst class margin is below 8 %
raises V_FLOOR by its steps of 10 mV within the ceiling, else its delay codes, which never fall; without a low class
nothing is re-planned; a class without margin at code 63 enters bisque mode for reason 4. The margins are operands
(log entry 42). (R453, R454, R455, R456, R457, R462, R463, log entry 42) -/
def Obligations.BisqueFaultLogAndCones : Prop :=
  (∀ (r : BitVec 8) (s : State), 1 ≤ r.toNat → r.toNat ≤ 6 →
    (s.firmwareUp = true → s.boot.bisque = false →
      ∃ t l, exec (.bisqueEntry r) s = .next t ∧ t.boot = { s.boot with bisque := true, ready := false, reason := r.toNat } ∧
        (∀ g ∈ s.planSaggers, (t.sagger g).st = .down) ∧ t.flog.detected.map (·.code) = s.flog.detected.map (·.code) ++ l ++ [0x40FE#16] ∧
        (r = 1 → (∀ p < 6, (t.port p).st = .held ∧ (t.port p).reason = 6) ∧ ∀ k < 2, (t.link k).st = .held ∧ (t.link k).reason = 5) ∧
        (r ≠ 1 → t.links = s.links) ∧
        Only [.mgmt, .regs, .freeCtr, .mem, .boot, .flog, .saggers, .wheels, .wares, .ldus, .ssus, .hbmStacks, .glazes, .ports, .lat, .lute, .links,
          .chans, .swaps] s t) ∧
    (s.firmwareUp = false ∨ s.boot.bisque = true → exec (.bisqueEntry r) s = .next s)) ∧
  (∀ (s : State), s.flog.detected = [] → exec .faultLogEnter s = .next s) ∧
  (∀ (s : State) r rest, s.flog.detected = r :: rest →
    ∃ t, exec .faultLogEnter s = .next t ∧ t.flog.detected = rest ∧ t.flog.next = s.flog.next + 1 ∧
      (s.flog.ring.length < 4096 → t.flog.ring = s.flog.ring ++ [{ r with seq := s.flog.next }] ∧ t.flog.overflow = s.flog.overflow) ∧
      (s.flog.ring.length = 4096 → t.flog.ring = s.flog.ring.drop 1 ++ [{ r with seq := s.flog.next }] ∧ t.flog.overflow = true ∧
        t.reg .topFltLost 0 = min (s.reg .topFltLost 0 + 1) (2 ^ 32 - 1)) ∧
      (codeClass r.code = 4 → t.flog.dev = true ∧ t.flog.first4 = if s.flog.dev then s.flog.first4 else s.flog.next) ∧
      (codeClass r.code ≠ 4 → t.flog.dev = s.flog.dev ∧ t.flog.first4 = s.flog.first4) ∧
      (2 ≤ r.level → r.sagger.toNat < 12 → t.reg .sgrResetLast r.sagger.toNat = r.code.toNat) ∧
      Only [.flog, .regs] s t ∧ RegsOnly [(.topFltLost, 0), (.sgrResetLast, r.sagger.toNat)] s t) ∧
  (∀ env (s : State) low, s.firmwareUp = true → s.boot.readyWas = true ∨ s.boot.bisque = true → s.boot.shutting = false →
    s.lastMeas + coneGap ≤ s.refNow →
    low = (fun d => s.boot.bisque = false ∧ worstOf (env.classes.getD d []) < 800) →
    ∃ t, exec (.coneMeasure env) s = .next t ∧ t.lastMeas = s.refNow ∧ t.reg .conLast 0 = s.now ∧
      t.reg .conMeas 0 = min (s.reg .conMeas 0 + 1) (2 ^ 32 - 1) ∧ ConesRise s t ∧
      (∀ d < 2, (t.cone d).tL = env.tL.getD d [] ∧ (t.cone d).margin = env.margin.getD d [] ∧
        (t.cone d).heat = (s.cone d).heat + env.heat.getD d 0 ∧
        (¬ low d → (t.cone d).vfloor = (s.cone d).vfloor ∧ (t.cone d).codes = (s.cone d).codes) ∧
        (∀ n, low d → env.steps.getD d none = some n → (s.cone d).vfloor + 10 * n + 50 ≤ s.device.vceil →
          (t.cone d).vfloor = (s.cone d).vfloor + 10 * n ∧ (t.cone d).codes = (s.cone d).codes) ∧
        (low d → (∀ n, env.steps.getD d none = some n → s.device.vceil < (s.cone d).vfloor + 10 * n + 50) → (t.cone d).vfloor = (s.cone d).vfloor ∧
          ∀ k < 32, (t.cone d).codes.getD k 0 = newCode ((s.cone d).codes.getD k 0) ((env.classes.getD d []).getD k 65535))) ∧
      (¬ low 0 → ¬ low 1 → t.boot = s.boot ∧ t.reg .conReplans 0 = s.reg .conReplans 0 ∧
        Only [.cones, .regs, .flog, .freeCtr, .health, .lastMeas] s t) ∧
      (∀ d < 2, low d → env.steps.getD d none = none → noMargin (s.cone d).codes (env.classes.getD d []) = true →
        t.boot.bisque = true ∧ t.boot.reason = 4)) ∧
  (∀ env (s : State), s.firmwareUp = false ∨ s.boot.shutting = true ∨ s.refNow < s.lastMeas + coneGap →
    exec (.coneMeasure env) s = .next s)
end

