-- ==== Sys2Proof/Laws/Access.lean ====
section
/-! SUPPORT. Units and stored registers: what an accessor reads after an updater. -/

namespace Sys2Proof.Machine

/-! ## Tables and register lists -/

theorem tget_tset {α : Type} (d : α) (t : Tab α) (k j : Nat) (v : α) :
    tget d (tset t k v) j = if j = k then v else tget d t j := by
  induction t with
  | nil => simp [tset, tget, eq_comm]
  | cons c r ih =>
    obtain ⟨a, x⟩ := c
    simp only [tset]
    split
    · by_cases hj : j = k
      · simp [tget, hj]
      · simp [tget, hj, Ne.symm hj]
    · split
      · rename_i _ heq
        by_cases hj : j = k
        · simp [tget, hj]
        · have : ¬ a = j := fun h => hj (h ▸ heq)
          simp [tget, hj, Ne.symm hj, this]
      · rename_i _ hne
        by_cases hj : j = k
        · subst hj; simp [tget, hne, ih]
        · simp [tget, ih, hj]

theorem tget_tmod {α : Type} (d : α) (t : Tab α) (k j : Nat) (f : α → α) :
    tget d (tmod d t k f) j = if j = k then f (tget d t k) else tget d t j := tget_tset d t k j _

theorem regGet_regPut (l : List ((Reg × Nat) × Nat)) (r r' : Reg) (u u' v : Nat) :
    regGet (regPut l r u v) r' u' = if r' = r ∧ u' = u then v else regGet l r' u' := by
  induction l with
  | nil => simp [regPut, regGet, eq_comm]
  | cons c l ih =>
    obtain ⟨⟨a, b⟩, w⟩ := c
    simp only [regPut]
    by_cases h : a = r ∧ b = u
    · obtain ⟨rfl, rfl⟩ := h
      by_cases h2 : r' = a ∧ u' = b
      · simp [regGet, h2]
      · have h3 : ¬ (a = r' ∧ b = u') := fun h3 => h2 ⟨h3.1.symm, h3.2.symm⟩
        simp [regGet, h2, h3]
    · rw [if_neg h]
      simp only [regGet]
      by_cases h2 : a = r' ∧ b = u'
      · have h3 : ¬ (r' = r ∧ u' = u) := fun h3 => h ⟨h2.1.trans h3.1, h2.2.trans h3.2⟩
        rw [if_pos h2, if_pos h2, if_neg h3]
      · rw [if_neg h2, if_neg h2, ih]

/-- A stored register after a write of one. -/
theorem State.reg_setReg (s : State) (r r' : Reg) (u u' v : Nat) :
    (s.setReg r u v).reg r' u' = if r' = r ∧ u' = u then v else s.reg r' u' := regGet_regPut _ _ _ _ _ _

/-- A stored register after a count: counters stop at their largest value (R97, R131, R471). -/
theorem State.reg_bump (s : State) (r r' : Reg) (u u' n : Nat) :
    (s.bump r u n).reg r' u' = if r' = r ∧ u' = u then min (s.reg r u + n) r.top else s.reg r' u' :=
  regGet_regPut _ _ _ _ _ _

/-! ## One accessor after one updater -/

@[simp] theorem State.onSagger_sagger (s : State) (g : Nat) (f : Sagger → Sagger) (k' : Nat) :
    (s.onSagger g f).sagger k' = if k' = g then f (s.sagger g) else s.sagger k' := tget_tmod _ _ _ _ _
@[simp] theorem State.onWheel_sagger (s : State) (w : Nat) (f : Wheel → Wheel) (k' : Nat) : (s.onWheel w f).sagger k' = s.sagger k' := rfl
@[simp] theorem State.onWare_sagger (s : State) (d : Nat) (f : Ware → Ware) (k' : Nat) : (s.onWare d f).sagger k' = s.sagger k' := rfl
@[simp] theorem State.onLdu_sagger (s : State) (l : Nat) (f : Ldu → Ldu) (k' : Nat) : (s.onLdu l f).sagger k' = s.sagger k' := rfl
@[simp] theorem State.onSsu_sagger (s : State) (d : Nat) (f : Ssu → Ssu) (k' : Nat) : (s.onSsu d f).sagger k' = s.sagger k' := rfl
@[simp] theorem State.onTally_sagger (s : State) (k : Nat) (f : Tally → Tally) (k' : Nat) : (s.onTally k f).sagger k' = s.sagger k' := rfl
@[simp] theorem State.onStack_sagger (s : State) (k : Nat) (f : Stack → Stack) (k' : Nat) : (s.onStack k f).sagger k' = s.sagger k' := rfl
@[simp] theorem State.onGlaze_sagger (s : State) (d : Nat) (f : Glaze → Glaze) (k' : Nat) : (s.onGlaze d f).sagger k' = s.sagger k' := rfl
@[simp] theorem State.onPort_sagger (s : State) (p : Nat) (f : Port → Port) (k' : Nat) : (s.onPort p f).sagger k' = s.sagger k' := rfl
@[simp] theorem State.onLink_sagger (s : State) (k : Nat) (f : Link → Link) (k' : Nat) : (s.onLink k f).sagger k' = s.sagger k' := rfl
@[simp] theorem State.onChan_sagger (s : State) (c : Nat) (f : Chan → Chan) (k' : Nat) : (s.onChan c f).sagger k' = s.sagger k' := rfl
@[simp] theorem State.onSession_sagger (s : State) (k : Nat) (f : Session → Session) (k' : Nat) : (s.onSession k f).sagger k' = s.sagger k' := rfl
@[simp] theorem State.onCone_sagger (s : State) (d : Nat) (f : ConeDie → ConeDie) (k' : Nat) : (s.onCone d f).sagger k' = s.sagger k' := rfl
@[simp] theorem State.onPower_sagger (s : State) (f : Power → Power) (k' : Nat) : (s.onPower f).sagger k' = s.sagger k' := rfl
@[simp] theorem State.onBoot_sagger (s : State) (f : Boot → Boot) (k' : Nat) : (s.onBoot f).sagger k' = s.sagger k' := rfl
@[simp] theorem State.onHealth_sagger (s : State) (f : Health → Health) (k' : Nat) : (s.onHealth f).sagger k' = s.sagger k' := rfl
@[simp] theorem State.onFlog_sagger (s : State) (f : FaultLog → FaultLog) (k' : Nat) : (s.onFlog f).sagger k' = s.sagger k' := rfl
@[simp] theorem State.onTb_sagger (s : State) (f : Timebase → Timebase) (k' : Nat) : (s.onTb f).sagger k' = s.sagger k' := rfl
@[simp] theorem State.onLat_sagger (s : State) (f : Lattice → Lattice) (k' : Nat) : (s.onLat f).sagger k' = s.sagger k' := rfl
@[simp] theorem State.onLute_sagger (s : State) (f : Lute → Lute) (k' : Nat) : (s.onLute f).sagger k' = s.sagger k' := rfl
@[simp] theorem State.onMgmt_sagger (s : State) (f : Mgmt → Mgmt) (k' : Nat) : (s.onMgmt f).sagger k' = s.sagger k' := rfl
@[simp] theorem State.onStore_sagger (s : State) (f : Store → Store) (k' : Nat) : (s.onStore f).sagger k' = s.sagger k' := rfl
@[simp] theorem State.onMem_sagger (s : State) (f : Memories → Memories) (k' : Nat) : (s.onMem f).sagger k' = s.sagger k' := rfl
@[simp] theorem State.onHbm_sagger (s : State) (f : Mem → Mem) (k' : Nat) : (s.onHbm f).sagger k' = s.sagger k' := rfl
@[simp] theorem State.onWareMem_sagger (s : State) (f : Mem → Mem) (k' : Nat) : (s.onWareMem f).sagger k' = s.sagger k' := rfl
@[simp] theorem State.onStoreMem_sagger (s : State) (f : Mem → Mem) (k' : Nat) : (s.onStoreMem f).sagger k' = s.sagger k' := rfl
@[simp] theorem State.onPoison_sagger (s : State) (d : Nat) (f : List Poison → List Poison) (k' : Nat) : (s.onPoison d f).sagger k' = s.sagger k' := rfl
@[simp] theorem State.setReg_sagger (s : State) (r : Reg) (u v : Nat) (k' : Nat) : (s.setReg r u v).sagger k' = s.sagger k' := rfl
@[simp] theorem State.bump_sagger (s : State) (r : Reg) (u n : Nat) (k' : Nat) : (s.bump r u n).sagger k' = s.sagger k' := rfl
@[simp] theorem State.onSagger_wheel (s : State) (g : Nat) (f : Sagger → Sagger) (k' : Nat) : (s.onSagger g f).wheel k' = s.wheel k' := rfl
@[simp] theorem State.onWheel_wheel (s : State) (w : Nat) (f : Wheel → Wheel) (k' : Nat) :
    (s.onWheel w f).wheel k' = if k' = w then f (s.wheel w) else s.wheel k' := tget_tmod _ _ _ _ _
@[simp] theorem State.onWare_wheel (s : State) (d : Nat) (f : Ware → Ware) (k' : Nat) : (s.onWare d f).wheel k' = s.wheel k' := rfl
@[simp] theorem State.onLdu_wheel (s : State) (l : Nat) (f : Ldu → Ldu) (k' : Nat) : (s.onLdu l f).wheel k' = s.wheel k' := rfl
@[simp] theorem State.onSsu_wheel (s : State) (d : Nat) (f : Ssu → Ssu) (k' : Nat) : (s.onSsu d f).wheel k' = s.wheel k' := rfl
@[simp] theorem State.onTally_wheel (s : State) (k : Nat) (f : Tally → Tally) (k' : Nat) : (s.onTally k f).wheel k' = s.wheel k' := rfl
@[simp] theorem State.onStack_wheel (s : State) (k : Nat) (f : Stack → Stack) (k' : Nat) : (s.onStack k f).wheel k' = s.wheel k' := rfl
@[simp] theorem State.onGlaze_wheel (s : State) (d : Nat) (f : Glaze → Glaze) (k' : Nat) : (s.onGlaze d f).wheel k' = s.wheel k' := rfl
@[simp] theorem State.onPort_wheel (s : State) (p : Nat) (f : Port → Port) (k' : Nat) : (s.onPort p f).wheel k' = s.wheel k' := rfl
@[simp] theorem State.onLink_wheel (s : State) (k : Nat) (f : Link → Link) (k' : Nat) : (s.onLink k f).wheel k' = s.wheel k' := rfl
@[simp] theorem State.onChan_wheel (s : State) (c : Nat) (f : Chan → Chan) (k' : Nat) : (s.onChan c f).wheel k' = s.wheel k' := rfl
@[simp] theorem State.onSession_wheel (s : State) (k : Nat) (f : Session → Session) (k' : Nat) : (s.onSession k f).wheel k' = s.wheel k' := rfl
@[simp] theorem State.onCone_wheel (s : State) (d : Nat) (f : ConeDie → ConeDie) (k' : Nat) : (s.onCone d f).wheel k' = s.wheel k' := rfl
@[simp] theorem State.onPower_wheel (s : State) (f : Power → Power) (k' : Nat) : (s.onPower f).wheel k' = s.wheel k' := rfl
@[simp] theorem State.onBoot_wheel (s : State) (f : Boot → Boot) (k' : Nat) : (s.onBoot f).wheel k' = s.wheel k' := rfl
@[simp] theorem State.onHealth_wheel (s : State) (f : Health → Health) (k' : Nat) : (s.onHealth f).wheel k' = s.wheel k' := rfl
@[simp] theorem State.onFlog_wheel (s : State) (f : FaultLog → FaultLog) (k' : Nat) : (s.onFlog f).wheel k' = s.wheel k' := rfl
@[simp] theorem State.onTb_wheel (s : State) (f : Timebase → Timebase) (k' : Nat) : (s.onTb f).wheel k' = s.wheel k' := rfl
@[simp] theorem State.onLat_wheel (s : State) (f : Lattice → Lattice) (k' : Nat) : (s.onLat f).wheel k' = s.wheel k' := rfl
@[simp] theorem State.onLute_wheel (s : State) (f : Lute → Lute) (k' : Nat) : (s.onLute f).wheel k' = s.wheel k' := rfl
@[simp] theorem State.onMgmt_wheel (s : State) (f : Mgmt → Mgmt) (k' : Nat) : (s.onMgmt f).wheel k' = s.wheel k' := rfl
@[simp] theorem State.onStore_wheel (s : State) (f : Store → Store) (k' : Nat) : (s.onStore f).wheel k' = s.wheel k' := rfl
@[simp] theorem State.onMem_wheel (s : State) (f : Memories → Memories) (k' : Nat) : (s.onMem f).wheel k' = s.wheel k' := rfl
@[simp] theorem State.onHbm_wheel (s : State) (f : Mem → Mem) (k' : Nat) : (s.onHbm f).wheel k' = s.wheel k' := rfl
@[simp] theorem State.onWareMem_wheel (s : State) (f : Mem → Mem) (k' : Nat) : (s.onWareMem f).wheel k' = s.wheel k' := rfl
@[simp] theorem State.onStoreMem_wheel (s : State) (f : Mem → Mem) (k' : Nat) : (s.onStoreMem f).wheel k' = s.wheel k' := rfl
@[simp] theorem State.onPoison_wheel (s : State) (d : Nat) (f : List Poison → List Poison) (k' : Nat) : (s.onPoison d f).wheel k' = s.wheel k' := rfl
@[simp] theorem State.setReg_wheel (s : State) (r : Reg) (u v : Nat) (k' : Nat) : (s.setReg r u v).wheel k' = s.wheel k' := rfl
@[simp] theorem State.bump_wheel (s : State) (r : Reg) (u n : Nat) (k' : Nat) : (s.bump r u n).wheel k' = s.wheel k' := rfl
@[simp] theorem State.onSagger_ware (s : State) (g : Nat) (f : Sagger → Sagger) (k' : Nat) : (s.onSagger g f).ware k' = s.ware k' := rfl
@[simp] theorem State.onWheel_ware (s : State) (w : Nat) (f : Wheel → Wheel) (k' : Nat) : (s.onWheel w f).ware k' = s.ware k' := rfl
@[simp] theorem State.onWare_ware (s : State) (d : Nat) (f : Ware → Ware) (k' : Nat) :
    (s.onWare d f).ware k' = if k' = d then f (s.ware d) else s.ware k' := tget_tmod _ _ _ _ _
@[simp] theorem State.onLdu_ware (s : State) (l : Nat) (f : Ldu → Ldu) (k' : Nat) : (s.onLdu l f).ware k' = s.ware k' := rfl
@[simp] theorem State.onSsu_ware (s : State) (d : Nat) (f : Ssu → Ssu) (k' : Nat) : (s.onSsu d f).ware k' = s.ware k' := rfl
@[simp] theorem State.onTally_ware (s : State) (k : Nat) (f : Tally → Tally) (k' : Nat) : (s.onTally k f).ware k' = s.ware k' := rfl
@[simp] theorem State.onStack_ware (s : State) (k : Nat) (f : Stack → Stack) (k' : Nat) : (s.onStack k f).ware k' = s.ware k' := rfl
@[simp] theorem State.onGlaze_ware (s : State) (d : Nat) (f : Glaze → Glaze) (k' : Nat) : (s.onGlaze d f).ware k' = s.ware k' := rfl
@[simp] theorem State.onPort_ware (s : State) (p : Nat) (f : Port → Port) (k' : Nat) : (s.onPort p f).ware k' = s.ware k' := rfl
@[simp] theorem State.onLink_ware (s : State) (k : Nat) (f : Link → Link) (k' : Nat) : (s.onLink k f).ware k' = s.ware k' := rfl
@[simp] theorem State.onChan_ware (s : State) (c : Nat) (f : Chan → Chan) (k' : Nat) : (s.onChan c f).ware k' = s.ware k' := rfl
@[simp] theorem State.onSession_ware (s : State) (k : Nat) (f : Session → Session) (k' : Nat) : (s.onSession k f).ware k' = s.ware k' := rfl
@[simp] theorem State.onCone_ware (s : State) (d : Nat) (f : ConeDie → ConeDie) (k' : Nat) : (s.onCone d f).ware k' = s.ware k' := rfl
@[simp] theorem State.onPower_ware (s : State) (f : Power → Power) (k' : Nat) : (s.onPower f).ware k' = s.ware k' := rfl
@[simp] theorem State.onBoot_ware (s : State) (f : Boot → Boot) (k' : Nat) : (s.onBoot f).ware k' = s.ware k' := rfl
@[simp] theorem State.onHealth_ware (s : State) (f : Health → Health) (k' : Nat) : (s.onHealth f).ware k' = s.ware k' := rfl
@[simp] theorem State.onFlog_ware (s : State) (f : FaultLog → FaultLog) (k' : Nat) : (s.onFlog f).ware k' = s.ware k' := rfl
@[simp] theorem State.onTb_ware (s : State) (f : Timebase → Timebase) (k' : Nat) : (s.onTb f).ware k' = s.ware k' := rfl
@[simp] theorem State.onLat_ware (s : State) (f : Lattice → Lattice) (k' : Nat) : (s.onLat f).ware k' = s.ware k' := rfl
@[simp] theorem State.onLute_ware (s : State) (f : Lute → Lute) (k' : Nat) : (s.onLute f).ware k' = s.ware k' := rfl
@[simp] theorem State.onMgmt_ware (s : State) (f : Mgmt → Mgmt) (k' : Nat) : (s.onMgmt f).ware k' = s.ware k' := rfl
@[simp] theorem State.onStore_ware (s : State) (f : Store → Store) (k' : Nat) : (s.onStore f).ware k' = s.ware k' := rfl
@[simp] theorem State.onMem_ware (s : State) (f : Memories → Memories) (k' : Nat) : (s.onMem f).ware k' = s.ware k' := rfl
@[simp] theorem State.onHbm_ware (s : State) (f : Mem → Mem) (k' : Nat) : (s.onHbm f).ware k' = s.ware k' := rfl
@[simp] theorem State.onWareMem_ware (s : State) (f : Mem → Mem) (k' : Nat) : (s.onWareMem f).ware k' = s.ware k' := rfl
@[simp] theorem State.onStoreMem_ware (s : State) (f : Mem → Mem) (k' : Nat) : (s.onStoreMem f).ware k' = s.ware k' := rfl
@[simp] theorem State.onPoison_ware (s : State) (d : Nat) (f : List Poison → List Poison) (k' : Nat) : (s.onPoison d f).ware k' = s.ware k' := rfl
@[simp] theorem State.setReg_ware (s : State) (r : Reg) (u v : Nat) (k' : Nat) : (s.setReg r u v).ware k' = s.ware k' := rfl
@[simp] theorem State.bump_ware (s : State) (r : Reg) (u n : Nat) (k' : Nat) : (s.bump r u n).ware k' = s.ware k' := rfl
@[simp] theorem State.onSagger_ldu (s : State) (g : Nat) (f : Sagger → Sagger) (k' : Nat) : (s.onSagger g f).ldu k' = s.ldu k' := rfl
@[simp] theorem State.onWheel_ldu (s : State) (w : Nat) (f : Wheel → Wheel) (k' : Nat) : (s.onWheel w f).ldu k' = s.ldu k' := rfl
@[simp] theorem State.onWare_ldu (s : State) (d : Nat) (f : Ware → Ware) (k' : Nat) : (s.onWare d f).ldu k' = s.ldu k' := rfl
@[simp] theorem State.onLdu_ldu (s : State) (l : Nat) (f : Ldu → Ldu) (k' : Nat) :
    (s.onLdu l f).ldu k' = if k' = l then f (s.ldu l) else s.ldu k' := tget_tmod _ _ _ _ _
@[simp] theorem State.onSsu_ldu (s : State) (d : Nat) (f : Ssu → Ssu) (k' : Nat) : (s.onSsu d f).ldu k' = s.ldu k' := rfl
@[simp] theorem State.onTally_ldu (s : State) (k : Nat) (f : Tally → Tally) (k' : Nat) : (s.onTally k f).ldu k' = s.ldu k' := rfl
@[simp] theorem State.onStack_ldu (s : State) (k : Nat) (f : Stack → Stack) (k' : Nat) : (s.onStack k f).ldu k' = s.ldu k' := rfl
@[simp] theorem State.onGlaze_ldu (s : State) (d : Nat) (f : Glaze → Glaze) (k' : Nat) : (s.onGlaze d f).ldu k' = s.ldu k' := rfl
@[simp] theorem State.onPort_ldu (s : State) (p : Nat) (f : Port → Port) (k' : Nat) : (s.onPort p f).ldu k' = s.ldu k' := rfl
@[simp] theorem State.onLink_ldu (s : State) (k : Nat) (f : Link → Link) (k' : Nat) : (s.onLink k f).ldu k' = s.ldu k' := rfl
@[simp] theorem State.onChan_ldu (s : State) (c : Nat) (f : Chan → Chan) (k' : Nat) : (s.onChan c f).ldu k' = s.ldu k' := rfl
@[simp] theorem State.onSession_ldu (s : State) (k : Nat) (f : Session → Session) (k' : Nat) : (s.onSession k f).ldu k' = s.ldu k' := rfl
@[simp] theorem State.onCone_ldu (s : State) (d : Nat) (f : ConeDie → ConeDie) (k' : Nat) : (s.onCone d f).ldu k' = s.ldu k' := rfl
@[simp] theorem State.onPower_ldu (s : State) (f : Power → Power) (k' : Nat) : (s.onPower f).ldu k' = s.ldu k' := rfl
@[simp] theorem State.onBoot_ldu (s : State) (f : Boot → Boot) (k' : Nat) : (s.onBoot f).ldu k' = s.ldu k' := rfl
@[simp] theorem State.onHealth_ldu (s : State) (f : Health → Health) (k' : Nat) : (s.onHealth f).ldu k' = s.ldu k' := rfl
@[simp] theorem State.onFlog_ldu (s : State) (f : FaultLog → FaultLog) (k' : Nat) : (s.onFlog f).ldu k' = s.ldu k' := rfl
@[simp] theorem State.onTb_ldu (s : State) (f : Timebase → Timebase) (k' : Nat) : (s.onTb f).ldu k' = s.ldu k' := rfl
@[simp] theorem State.onLat_ldu (s : State) (f : Lattice → Lattice) (k' : Nat) : (s.onLat f).ldu k' = s.ldu k' := rfl
@[simp] theorem State.onLute_ldu (s : State) (f : Lute → Lute) (k' : Nat) : (s.onLute f).ldu k' = s.ldu k' := rfl
@[simp] theorem State.onMgmt_ldu (s : State) (f : Mgmt → Mgmt) (k' : Nat) : (s.onMgmt f).ldu k' = s.ldu k' := rfl
@[simp] theorem State.onStore_ldu (s : State) (f : Store → Store) (k' : Nat) : (s.onStore f).ldu k' = s.ldu k' := rfl
@[simp] theorem State.onMem_ldu (s : State) (f : Memories → Memories) (k' : Nat) : (s.onMem f).ldu k' = s.ldu k' := rfl
@[simp] theorem State.onHbm_ldu (s : State) (f : Mem → Mem) (k' : Nat) : (s.onHbm f).ldu k' = s.ldu k' := rfl
@[simp] theorem State.onWareMem_ldu (s : State) (f : Mem → Mem) (k' : Nat) : (s.onWareMem f).ldu k' = s.ldu k' := rfl
@[simp] theorem State.onStoreMem_ldu (s : State) (f : Mem → Mem) (k' : Nat) : (s.onStoreMem f).ldu k' = s.ldu k' := rfl
@[simp] theorem State.onPoison_ldu (s : State) (d : Nat) (f : List Poison → List Poison) (k' : Nat) : (s.onPoison d f).ldu k' = s.ldu k' := rfl
@[simp] theorem State.setReg_ldu (s : State) (r : Reg) (u v : Nat) (k' : Nat) : (s.setReg r u v).ldu k' = s.ldu k' := rfl
@[simp] theorem State.bump_ldu (s : State) (r : Reg) (u n : Nat) (k' : Nat) : (s.bump r u n).ldu k' = s.ldu k' := rfl
@[simp] theorem State.onSagger_ssu (s : State) (g : Nat) (f : Sagger → Sagger) (k' : Nat) : (s.onSagger g f).ssu k' = s.ssu k' := rfl
@[simp] theorem State.onWheel_ssu (s : State) (w : Nat) (f : Wheel → Wheel) (k' : Nat) : (s.onWheel w f).ssu k' = s.ssu k' := rfl
@[simp] theorem State.onWare_ssu (s : State) (d : Nat) (f : Ware → Ware) (k' : Nat) : (s.onWare d f).ssu k' = s.ssu k' := rfl
@[simp] theorem State.onLdu_ssu (s : State) (l : Nat) (f : Ldu → Ldu) (k' : Nat) : (s.onLdu l f).ssu k' = s.ssu k' := rfl
@[simp] theorem State.onSsu_ssu (s : State) (d : Nat) (f : Ssu → Ssu) (k' : Nat) :
    (s.onSsu d f).ssu k' = if k' = d then f (s.ssu d) else s.ssu k' := tget_tmod _ _ _ _ _
@[simp] theorem State.onTally_ssu (s : State) (k : Nat) (f : Tally → Tally) (k' : Nat) : (s.onTally k f).ssu k' = s.ssu k' := rfl
@[simp] theorem State.onStack_ssu (s : State) (k : Nat) (f : Stack → Stack) (k' : Nat) : (s.onStack k f).ssu k' = s.ssu k' := rfl
@[simp] theorem State.onGlaze_ssu (s : State) (d : Nat) (f : Glaze → Glaze) (k' : Nat) : (s.onGlaze d f).ssu k' = s.ssu k' := rfl
@[simp] theorem State.onPort_ssu (s : State) (p : Nat) (f : Port → Port) (k' : Nat) : (s.onPort p f).ssu k' = s.ssu k' := rfl
@[simp] theorem State.onLink_ssu (s : State) (k : Nat) (f : Link → Link) (k' : Nat) : (s.onLink k f).ssu k' = s.ssu k' := rfl
@[simp] theorem State.onChan_ssu (s : State) (c : Nat) (f : Chan → Chan) (k' : Nat) : (s.onChan c f).ssu k' = s.ssu k' := rfl
@[simp] theorem State.onSession_ssu (s : State) (k : Nat) (f : Session → Session) (k' : Nat) : (s.onSession k f).ssu k' = s.ssu k' := rfl
@[simp] theorem State.onCone_ssu (s : State) (d : Nat) (f : ConeDie → ConeDie) (k' : Nat) : (s.onCone d f).ssu k' = s.ssu k' := rfl
@[simp] theorem State.onPower_ssu (s : State) (f : Power → Power) (k' : Nat) : (s.onPower f).ssu k' = s.ssu k' := rfl
@[simp] theorem State.onBoot_ssu (s : State) (f : Boot → Boot) (k' : Nat) : (s.onBoot f).ssu k' = s.ssu k' := rfl
@[simp] theorem State.onHealth_ssu (s : State) (f : Health → Health) (k' : Nat) : (s.onHealth f).ssu k' = s.ssu k' := rfl
@[simp] theorem State.onFlog_ssu (s : State) (f : FaultLog → FaultLog) (k' : Nat) : (s.onFlog f).ssu k' = s.ssu k' := rfl
@[simp] theorem State.onTb_ssu (s : State) (f : Timebase → Timebase) (k' : Nat) : (s.onTb f).ssu k' = s.ssu k' := rfl
@[simp] theorem State.onLat_ssu (s : State) (f : Lattice → Lattice) (k' : Nat) : (s.onLat f).ssu k' = s.ssu k' := rfl
@[simp] theorem State.onLute_ssu (s : State) (f : Lute → Lute) (k' : Nat) : (s.onLute f).ssu k' = s.ssu k' := rfl
@[simp] theorem State.onMgmt_ssu (s : State) (f : Mgmt → Mgmt) (k' : Nat) : (s.onMgmt f).ssu k' = s.ssu k' := rfl
@[simp] theorem State.onStore_ssu (s : State) (f : Store → Store) (k' : Nat) : (s.onStore f).ssu k' = s.ssu k' := rfl
@[simp] theorem State.onMem_ssu (s : State) (f : Memories → Memories) (k' : Nat) : (s.onMem f).ssu k' = s.ssu k' := rfl
@[simp] theorem State.onHbm_ssu (s : State) (f : Mem → Mem) (k' : Nat) : (s.onHbm f).ssu k' = s.ssu k' := rfl
@[simp] theorem State.onWareMem_ssu (s : State) (f : Mem → Mem) (k' : Nat) : (s.onWareMem f).ssu k' = s.ssu k' := rfl
@[simp] theorem State.onStoreMem_ssu (s : State) (f : Mem → Mem) (k' : Nat) : (s.onStoreMem f).ssu k' = s.ssu k' := rfl
@[simp] theorem State.onPoison_ssu (s : State) (d : Nat) (f : List Poison → List Poison) (k' : Nat) : (s.onPoison d f).ssu k' = s.ssu k' := rfl
@[simp] theorem State.setReg_ssu (s : State) (r : Reg) (u v : Nat) (k' : Nat) : (s.setReg r u v).ssu k' = s.ssu k' := rfl
@[simp] theorem State.bump_ssu (s : State) (r : Reg) (u n : Nat) (k' : Nat) : (s.bump r u n).ssu k' = s.ssu k' := rfl
@[simp] theorem State.onSagger_tally (s : State) (g : Nat) (f : Sagger → Sagger) (k' : Nat) : (s.onSagger g f).tally k' = s.tally k' := rfl
@[simp] theorem State.onWheel_tally (s : State) (w : Nat) (f : Wheel → Wheel) (k' : Nat) : (s.onWheel w f).tally k' = s.tally k' := rfl
@[simp] theorem State.onWare_tally (s : State) (d : Nat) (f : Ware → Ware) (k' : Nat) : (s.onWare d f).tally k' = s.tally k' := rfl
@[simp] theorem State.onLdu_tally (s : State) (l : Nat) (f : Ldu → Ldu) (k' : Nat) : (s.onLdu l f).tally k' = s.tally k' := rfl
@[simp] theorem State.onSsu_tally (s : State) (d : Nat) (f : Ssu → Ssu) (k' : Nat) : (s.onSsu d f).tally k' = s.tally k' := rfl
@[simp] theorem State.onTally_tally (s : State) (k : Nat) (f : Tally → Tally) (k' : Nat) :
    (s.onTally k f).tally k' = if k' = k then f (s.tally k) else s.tally k' := tget_tmod _ _ _ _ _
@[simp] theorem State.onStack_tally (s : State) (k : Nat) (f : Stack → Stack) (k' : Nat) : (s.onStack k f).tally k' = s.tally k' := rfl
@[simp] theorem State.onGlaze_tally (s : State) (d : Nat) (f : Glaze → Glaze) (k' : Nat) : (s.onGlaze d f).tally k' = s.tally k' := rfl
@[simp] theorem State.onPort_tally (s : State) (p : Nat) (f : Port → Port) (k' : Nat) : (s.onPort p f).tally k' = s.tally k' := rfl
@[simp] theorem State.onLink_tally (s : State) (k : Nat) (f : Link → Link) (k' : Nat) : (s.onLink k f).tally k' = s.tally k' := rfl
@[simp] theorem State.onChan_tally (s : State) (c : Nat) (f : Chan → Chan) (k' : Nat) : (s.onChan c f).tally k' = s.tally k' := rfl
@[simp] theorem State.onSession_tally (s : State) (k : Nat) (f : Session → Session) (k' : Nat) : (s.onSession k f).tally k' = s.tally k' := rfl
@[simp] theorem State.onCone_tally (s : State) (d : Nat) (f : ConeDie → ConeDie) (k' : Nat) : (s.onCone d f).tally k' = s.tally k' := rfl
@[simp] theorem State.onPower_tally (s : State) (f : Power → Power) (k' : Nat) : (s.onPower f).tally k' = s.tally k' := rfl
@[simp] theorem State.onBoot_tally (s : State) (f : Boot → Boot) (k' : Nat) : (s.onBoot f).tally k' = s.tally k' := rfl
@[simp] theorem State.onHealth_tally (s : State) (f : Health → Health) (k' : Nat) : (s.onHealth f).tally k' = s.tally k' := rfl
@[simp] theorem State.onFlog_tally (s : State) (f : FaultLog → FaultLog) (k' : Nat) : (s.onFlog f).tally k' = s.tally k' := rfl
@[simp] theorem State.onTb_tally (s : State) (f : Timebase → Timebase) (k' : Nat) : (s.onTb f).tally k' = s.tally k' := rfl
@[simp] theorem State.onLat_tally (s : State) (f : Lattice → Lattice) (k' : Nat) : (s.onLat f).tally k' = s.tally k' := rfl
@[simp] theorem State.onLute_tally (s : State) (f : Lute → Lute) (k' : Nat) : (s.onLute f).tally k' = s.tally k' := rfl
@[simp] theorem State.onMgmt_tally (s : State) (f : Mgmt → Mgmt) (k' : Nat) : (s.onMgmt f).tally k' = s.tally k' := rfl
@[simp] theorem State.onStore_tally (s : State) (f : Store → Store) (k' : Nat) : (s.onStore f).tally k' = s.tally k' := rfl
@[simp] theorem State.onMem_tally (s : State) (f : Memories → Memories) (k' : Nat) : (s.onMem f).tally k' = s.tally k' := rfl
@[simp] theorem State.onHbm_tally (s : State) (f : Mem → Mem) (k' : Nat) : (s.onHbm f).tally k' = s.tally k' := rfl
@[simp] theorem State.onWareMem_tally (s : State) (f : Mem → Mem) (k' : Nat) : (s.onWareMem f).tally k' = s.tally k' := rfl
@[simp] theorem State.onStoreMem_tally (s : State) (f : Mem → Mem) (k' : Nat) : (s.onStoreMem f).tally k' = s.tally k' := rfl
@[simp] theorem State.onPoison_tally (s : State) (d : Nat) (f : List Poison → List Poison) (k' : Nat) : (s.onPoison d f).tally k' = s.tally k' := rfl
@[simp] theorem State.setReg_tally (s : State) (r : Reg) (u v : Nat) (k' : Nat) : (s.setReg r u v).tally k' = s.tally k' := rfl
@[simp] theorem State.bump_tally (s : State) (r : Reg) (u n : Nat) (k' : Nat) : (s.bump r u n).tally k' = s.tally k' := rfl
@[simp] theorem State.onSagger_stack (s : State) (g : Nat) (f : Sagger → Sagger) (k' : Nat) : (s.onSagger g f).stack k' = s.stack k' := rfl
@[simp] theorem State.onWheel_stack (s : State) (w : Nat) (f : Wheel → Wheel) (k' : Nat) : (s.onWheel w f).stack k' = s.stack k' := rfl
@[simp] theorem State.onWare_stack (s : State) (d : Nat) (f : Ware → Ware) (k' : Nat) : (s.onWare d f).stack k' = s.stack k' := rfl
@[simp] theorem State.onLdu_stack (s : State) (l : Nat) (f : Ldu → Ldu) (k' : Nat) : (s.onLdu l f).stack k' = s.stack k' := rfl
@[simp] theorem State.onSsu_stack (s : State) (d : Nat) (f : Ssu → Ssu) (k' : Nat) : (s.onSsu d f).stack k' = s.stack k' := rfl
@[simp] theorem State.onTally_stack (s : State) (k : Nat) (f : Tally → Tally) (k' : Nat) : (s.onTally k f).stack k' = s.stack k' := rfl
@[simp] theorem State.onStack_stack (s : State) (k : Nat) (f : Stack → Stack) (k' : Nat) :
    (s.onStack k f).stack k' = if k' = k then f (s.stack k) else s.stack k' := tget_tmod _ _ _ _ _
@[simp] theorem State.onGlaze_stack (s : State) (d : Nat) (f : Glaze → Glaze) (k' : Nat) : (s.onGlaze d f).stack k' = s.stack k' := rfl
@[simp] theorem State.onPort_stack (s : State) (p : Nat) (f : Port → Port) (k' : Nat) : (s.onPort p f).stack k' = s.stack k' := rfl
@[simp] theorem State.onLink_stack (s : State) (k : Nat) (f : Link → Link) (k' : Nat) : (s.onLink k f).stack k' = s.stack k' := rfl
@[simp] theorem State.onChan_stack (s : State) (c : Nat) (f : Chan → Chan) (k' : Nat) : (s.onChan c f).stack k' = s.stack k' := rfl
@[simp] theorem State.onSession_stack (s : State) (k : Nat) (f : Session → Session) (k' : Nat) : (s.onSession k f).stack k' = s.stack k' := rfl
@[simp] theorem State.onCone_stack (s : State) (d : Nat) (f : ConeDie → ConeDie) (k' : Nat) : (s.onCone d f).stack k' = s.stack k' := rfl
@[simp] theorem State.onPower_stack (s : State) (f : Power → Power) (k' : Nat) : (s.onPower f).stack k' = s.stack k' := rfl
@[simp] theorem State.onBoot_stack (s : State) (f : Boot → Boot) (k' : Nat) : (s.onBoot f).stack k' = s.stack k' := rfl
@[simp] theorem State.onHealth_stack (s : State) (f : Health → Health) (k' : Nat) : (s.onHealth f).stack k' = s.stack k' := rfl
@[simp] theorem State.onFlog_stack (s : State) (f : FaultLog → FaultLog) (k' : Nat) : (s.onFlog f).stack k' = s.stack k' := rfl
@[simp] theorem State.onTb_stack (s : State) (f : Timebase → Timebase) (k' : Nat) : (s.onTb f).stack k' = s.stack k' := rfl
@[simp] theorem State.onLat_stack (s : State) (f : Lattice → Lattice) (k' : Nat) : (s.onLat f).stack k' = s.stack k' := rfl
@[simp] theorem State.onLute_stack (s : State) (f : Lute → Lute) (k' : Nat) : (s.onLute f).stack k' = s.stack k' := rfl
@[simp] theorem State.onMgmt_stack (s : State) (f : Mgmt → Mgmt) (k' : Nat) : (s.onMgmt f).stack k' = s.stack k' := rfl
@[simp] theorem State.onStore_stack (s : State) (f : Store → Store) (k' : Nat) : (s.onStore f).stack k' = s.stack k' := rfl
@[simp] theorem State.onMem_stack (s : State) (f : Memories → Memories) (k' : Nat) : (s.onMem f).stack k' = s.stack k' := rfl
@[simp] theorem State.onHbm_stack (s : State) (f : Mem → Mem) (k' : Nat) : (s.onHbm f).stack k' = s.stack k' := rfl
@[simp] theorem State.onWareMem_stack (s : State) (f : Mem → Mem) (k' : Nat) : (s.onWareMem f).stack k' = s.stack k' := rfl
@[simp] theorem State.onStoreMem_stack (s : State) (f : Mem → Mem) (k' : Nat) : (s.onStoreMem f).stack k' = s.stack k' := rfl
@[simp] theorem State.onPoison_stack (s : State) (d : Nat) (f : List Poison → List Poison) (k' : Nat) : (s.onPoison d f).stack k' = s.stack k' := rfl
@[simp] theorem State.setReg_stack (s : State) (r : Reg) (u v : Nat) (k' : Nat) : (s.setReg r u v).stack k' = s.stack k' := rfl
@[simp] theorem State.bump_stack (s : State) (r : Reg) (u n : Nat) (k' : Nat) : (s.bump r u n).stack k' = s.stack k' := rfl
@[simp] theorem State.onSagger_glaze (s : State) (g : Nat) (f : Sagger → Sagger) (k' : Nat) : (s.onSagger g f).glaze k' = s.glaze k' := rfl
@[simp] theorem State.onWheel_glaze (s : State) (w : Nat) (f : Wheel → Wheel) (k' : Nat) : (s.onWheel w f).glaze k' = s.glaze k' := rfl
@[simp] theorem State.onWare_glaze (s : State) (d : Nat) (f : Ware → Ware) (k' : Nat) : (s.onWare d f).glaze k' = s.glaze k' := rfl
@[simp] theorem State.onLdu_glaze (s : State) (l : Nat) (f : Ldu → Ldu) (k' : Nat) : (s.onLdu l f).glaze k' = s.glaze k' := rfl
@[simp] theorem State.onSsu_glaze (s : State) (d : Nat) (f : Ssu → Ssu) (k' : Nat) : (s.onSsu d f).glaze k' = s.glaze k' := rfl
@[simp] theorem State.onTally_glaze (s : State) (k : Nat) (f : Tally → Tally) (k' : Nat) : (s.onTally k f).glaze k' = s.glaze k' := rfl
@[simp] theorem State.onStack_glaze (s : State) (k : Nat) (f : Stack → Stack) (k' : Nat) : (s.onStack k f).glaze k' = s.glaze k' := rfl
@[simp] theorem State.onGlaze_glaze (s : State) (d : Nat) (f : Glaze → Glaze) (k' : Nat) :
    (s.onGlaze d f).glaze k' = if k' = d then f (s.glaze d) else s.glaze k' := tget_tmod _ _ _ _ _
@[simp] theorem State.onPort_glaze (s : State) (p : Nat) (f : Port → Port) (k' : Nat) : (s.onPort p f).glaze k' = s.glaze k' := rfl
@[simp] theorem State.onLink_glaze (s : State) (k : Nat) (f : Link → Link) (k' : Nat) : (s.onLink k f).glaze k' = s.glaze k' := rfl
@[simp] theorem State.onChan_glaze (s : State) (c : Nat) (f : Chan → Chan) (k' : Nat) : (s.onChan c f).glaze k' = s.glaze k' := rfl
@[simp] theorem State.onSession_glaze (s : State) (k : Nat) (f : Session → Session) (k' : Nat) : (s.onSession k f).glaze k' = s.glaze k' := rfl
@[simp] theorem State.onCone_glaze (s : State) (d : Nat) (f : ConeDie → ConeDie) (k' : Nat) : (s.onCone d f).glaze k' = s.glaze k' := rfl
@[simp] theorem State.onPower_glaze (s : State) (f : Power → Power) (k' : Nat) : (s.onPower f).glaze k' = s.glaze k' := rfl
@[simp] theorem State.onBoot_glaze (s : State) (f : Boot → Boot) (k' : Nat) : (s.onBoot f).glaze k' = s.glaze k' := rfl
@[simp] theorem State.onHealth_glaze (s : State) (f : Health → Health) (k' : Nat) : (s.onHealth f).glaze k' = s.glaze k' := rfl
@[simp] theorem State.onFlog_glaze (s : State) (f : FaultLog → FaultLog) (k' : Nat) : (s.onFlog f).glaze k' = s.glaze k' := rfl
@[simp] theorem State.onTb_glaze (s : State) (f : Timebase → Timebase) (k' : Nat) : (s.onTb f).glaze k' = s.glaze k' := rfl
@[simp] theorem State.onLat_glaze (s : State) (f : Lattice → Lattice) (k' : Nat) : (s.onLat f).glaze k' = s.glaze k' := rfl
@[simp] theorem State.onLute_glaze (s : State) (f : Lute → Lute) (k' : Nat) : (s.onLute f).glaze k' = s.glaze k' := rfl
@[simp] theorem State.onMgmt_glaze (s : State) (f : Mgmt → Mgmt) (k' : Nat) : (s.onMgmt f).glaze k' = s.glaze k' := rfl
@[simp] theorem State.onStore_glaze (s : State) (f : Store → Store) (k' : Nat) : (s.onStore f).glaze k' = s.glaze k' := rfl
@[simp] theorem State.onMem_glaze (s : State) (f : Memories → Memories) (k' : Nat) : (s.onMem f).glaze k' = s.glaze k' := rfl
@[simp] theorem State.onHbm_glaze (s : State) (f : Mem → Mem) (k' : Nat) : (s.onHbm f).glaze k' = s.glaze k' := rfl
@[simp] theorem State.onWareMem_glaze (s : State) (f : Mem → Mem) (k' : Nat) : (s.onWareMem f).glaze k' = s.glaze k' := rfl
@[simp] theorem State.onStoreMem_glaze (s : State) (f : Mem → Mem) (k' : Nat) : (s.onStoreMem f).glaze k' = s.glaze k' := rfl
@[simp] theorem State.onPoison_glaze (s : State) (d : Nat) (f : List Poison → List Poison) (k' : Nat) : (s.onPoison d f).glaze k' = s.glaze k' := rfl
@[simp] theorem State.setReg_glaze (s : State) (r : Reg) (u v : Nat) (k' : Nat) : (s.setReg r u v).glaze k' = s.glaze k' := rfl
@[simp] theorem State.bump_glaze (s : State) (r : Reg) (u n : Nat) (k' : Nat) : (s.bump r u n).glaze k' = s.glaze k' := rfl
@[simp] theorem State.onSagger_port (s : State) (g : Nat) (f : Sagger → Sagger) (k' : Nat) : (s.onSagger g f).port k' = s.port k' := rfl
@[simp] theorem State.onWheel_port (s : State) (w : Nat) (f : Wheel → Wheel) (k' : Nat) : (s.onWheel w f).port k' = s.port k' := rfl
@[simp] theorem State.onWare_port (s : State) (d : Nat) (f : Ware → Ware) (k' : Nat) : (s.onWare d f).port k' = s.port k' := rfl
@[simp] theorem State.onLdu_port (s : State) (l : Nat) (f : Ldu → Ldu) (k' : Nat) : (s.onLdu l f).port k' = s.port k' := rfl
@[simp] theorem State.onSsu_port (s : State) (d : Nat) (f : Ssu → Ssu) (k' : Nat) : (s.onSsu d f).port k' = s.port k' := rfl
@[simp] theorem State.onTally_port (s : State) (k : Nat) (f : Tally → Tally) (k' : Nat) : (s.onTally k f).port k' = s.port k' := rfl
@[simp] theorem State.onStack_port (s : State) (k : Nat) (f : Stack → Stack) (k' : Nat) : (s.onStack k f).port k' = s.port k' := rfl
@[simp] theorem State.onGlaze_port (s : State) (d : Nat) (f : Glaze → Glaze) (k' : Nat) : (s.onGlaze d f).port k' = s.port k' := rfl
@[simp] theorem State.onPort_port (s : State) (p : Nat) (f : Port → Port) (k' : Nat) :
    (s.onPort p f).port k' = if k' = p then f (s.port p) else s.port k' := tget_tmod _ _ _ _ _
@[simp] theorem State.onLink_port (s : State) (k : Nat) (f : Link → Link) (k' : Nat) : (s.onLink k f).port k' = s.port k' := rfl
@[simp] theorem State.onChan_port (s : State) (c : Nat) (f : Chan → Chan) (k' : Nat) : (s.onChan c f).port k' = s.port k' := rfl
@[simp] theorem State.onSession_port (s : State) (k : Nat) (f : Session → Session) (k' : Nat) : (s.onSession k f).port k' = s.port k' := rfl
@[simp] theorem State.onCone_port (s : State) (d : Nat) (f : ConeDie → ConeDie) (k' : Nat) : (s.onCone d f).port k' = s.port k' := rfl
@[simp] theorem State.onPower_port (s : State) (f : Power → Power) (k' : Nat) : (s.onPower f).port k' = s.port k' := rfl
@[simp] theorem State.onBoot_port (s : State) (f : Boot → Boot) (k' : Nat) : (s.onBoot f).port k' = s.port k' := rfl
@[simp] theorem State.onHealth_port (s : State) (f : Health → Health) (k' : Nat) : (s.onHealth f).port k' = s.port k' := rfl
@[simp] theorem State.onFlog_port (s : State) (f : FaultLog → FaultLog) (k' : Nat) : (s.onFlog f).port k' = s.port k' := rfl
@[simp] theorem State.onTb_port (s : State) (f : Timebase → Timebase) (k' : Nat) : (s.onTb f).port k' = s.port k' := rfl
@[simp] theorem State.onLat_port (s : State) (f : Lattice → Lattice) (k' : Nat) : (s.onLat f).port k' = s.port k' := rfl
@[simp] theorem State.onLute_port (s : State) (f : Lute → Lute) (k' : Nat) : (s.onLute f).port k' = s.port k' := rfl
@[simp] theorem State.onMgmt_port (s : State) (f : Mgmt → Mgmt) (k' : Nat) : (s.onMgmt f).port k' = s.port k' := rfl
@[simp] theorem State.onStore_port (s : State) (f : Store → Store) (k' : Nat) : (s.onStore f).port k' = s.port k' := rfl
@[simp] theorem State.onMem_port (s : State) (f : Memories → Memories) (k' : Nat) : (s.onMem f).port k' = s.port k' := rfl
@[simp] theorem State.onHbm_port (s : State) (f : Mem → Mem) (k' : Nat) : (s.onHbm f).port k' = s.port k' := rfl
@[simp] theorem State.onWareMem_port (s : State) (f : Mem → Mem) (k' : Nat) : (s.onWareMem f).port k' = s.port k' := rfl
@[simp] theorem State.onStoreMem_port (s : State) (f : Mem → Mem) (k' : Nat) : (s.onStoreMem f).port k' = s.port k' := rfl
@[simp] theorem State.onPoison_port (s : State) (d : Nat) (f : List Poison → List Poison) (k' : Nat) : (s.onPoison d f).port k' = s.port k' := rfl
@[simp] theorem State.setReg_port (s : State) (r : Reg) (u v : Nat) (k' : Nat) : (s.setReg r u v).port k' = s.port k' := rfl
@[simp] theorem State.bump_port (s : State) (r : Reg) (u n : Nat) (k' : Nat) : (s.bump r u n).port k' = s.port k' := rfl
@[simp] theorem State.onSagger_link (s : State) (g : Nat) (f : Sagger → Sagger) (k' : Nat) : (s.onSagger g f).link k' = s.link k' := rfl
@[simp] theorem State.onWheel_link (s : State) (w : Nat) (f : Wheel → Wheel) (k' : Nat) : (s.onWheel w f).link k' = s.link k' := rfl
@[simp] theorem State.onWare_link (s : State) (d : Nat) (f : Ware → Ware) (k' : Nat) : (s.onWare d f).link k' = s.link k' := rfl
@[simp] theorem State.onLdu_link (s : State) (l : Nat) (f : Ldu → Ldu) (k' : Nat) : (s.onLdu l f).link k' = s.link k' := rfl
@[simp] theorem State.onSsu_link (s : State) (d : Nat) (f : Ssu → Ssu) (k' : Nat) : (s.onSsu d f).link k' = s.link k' := rfl
@[simp] theorem State.onTally_link (s : State) (k : Nat) (f : Tally → Tally) (k' : Nat) : (s.onTally k f).link k' = s.link k' := rfl
@[simp] theorem State.onStack_link (s : State) (k : Nat) (f : Stack → Stack) (k' : Nat) : (s.onStack k f).link k' = s.link k' := rfl
@[simp] theorem State.onGlaze_link (s : State) (d : Nat) (f : Glaze → Glaze) (k' : Nat) : (s.onGlaze d f).link k' = s.link k' := rfl
@[simp] theorem State.onPort_link (s : State) (p : Nat) (f : Port → Port) (k' : Nat) : (s.onPort p f).link k' = s.link k' := rfl
@[simp] theorem State.onLink_link (s : State) (k : Nat) (f : Link → Link) (k' : Nat) :
    (s.onLink k f).link k' = if k' = k then f (s.link k) else s.link k' := tget_tmod _ _ _ _ _
@[simp] theorem State.onChan_link (s : State) (c : Nat) (f : Chan → Chan) (k' : Nat) : (s.onChan c f).link k' = s.link k' := rfl
@[simp] theorem State.onSession_link (s : State) (k : Nat) (f : Session → Session) (k' : Nat) : (s.onSession k f).link k' = s.link k' := rfl
@[simp] theorem State.onCone_link (s : State) (d : Nat) (f : ConeDie → ConeDie) (k' : Nat) : (s.onCone d f).link k' = s.link k' := rfl
@[simp] theorem State.onPower_link (s : State) (f : Power → Power) (k' : Nat) : (s.onPower f).link k' = s.link k' := rfl
@[simp] theorem State.onBoot_link (s : State) (f : Boot → Boot) (k' : Nat) : (s.onBoot f).link k' = s.link k' := rfl
@[simp] theorem State.onHealth_link (s : State) (f : Health → Health) (k' : Nat) : (s.onHealth f).link k' = s.link k' := rfl
@[simp] theorem State.onFlog_link (s : State) (f : FaultLog → FaultLog) (k' : Nat) : (s.onFlog f).link k' = s.link k' := rfl
@[simp] theorem State.onTb_link (s : State) (f : Timebase → Timebase) (k' : Nat) : (s.onTb f).link k' = s.link k' := rfl
@[simp] theorem State.onLat_link (s : State) (f : Lattice → Lattice) (k' : Nat) : (s.onLat f).link k' = s.link k' := rfl
@[simp] theorem State.onLute_link (s : State) (f : Lute → Lute) (k' : Nat) : (s.onLute f).link k' = s.link k' := rfl
@[simp] theorem State.onMgmt_link (s : State) (f : Mgmt → Mgmt) (k' : Nat) : (s.onMgmt f).link k' = s.link k' := rfl
@[simp] theorem State.onStore_link (s : State) (f : Store → Store) (k' : Nat) : (s.onStore f).link k' = s.link k' := rfl
@[simp] theorem State.onMem_link (s : State) (f : Memories → Memories) (k' : Nat) : (s.onMem f).link k' = s.link k' := rfl
@[simp] theorem State.onHbm_link (s : State) (f : Mem → Mem) (k' : Nat) : (s.onHbm f).link k' = s.link k' := rfl
@[simp] theorem State.onWareMem_link (s : State) (f : Mem → Mem) (k' : Nat) : (s.onWareMem f).link k' = s.link k' := rfl
@[simp] theorem State.onStoreMem_link (s : State) (f : Mem → Mem) (k' : Nat) : (s.onStoreMem f).link k' = s.link k' := rfl
@[simp] theorem State.onPoison_link (s : State) (d : Nat) (f : List Poison → List Poison) (k' : Nat) : (s.onPoison d f).link k' = s.link k' := rfl
@[simp] theorem State.setReg_link (s : State) (r : Reg) (u v : Nat) (k' : Nat) : (s.setReg r u v).link k' = s.link k' := rfl
@[simp] theorem State.bump_link (s : State) (r : Reg) (u n : Nat) (k' : Nat) : (s.bump r u n).link k' = s.link k' := rfl
@[simp] theorem State.onSagger_chan (s : State) (g : Nat) (f : Sagger → Sagger) (k' : Nat) : (s.onSagger g f).chan k' = s.chan k' := rfl
@[simp] theorem State.onWheel_chan (s : State) (w : Nat) (f : Wheel → Wheel) (k' : Nat) : (s.onWheel w f).chan k' = s.chan k' := rfl
@[simp] theorem State.onWare_chan (s : State) (d : Nat) (f : Ware → Ware) (k' : Nat) : (s.onWare d f).chan k' = s.chan k' := rfl
@[simp] theorem State.onLdu_chan (s : State) (l : Nat) (f : Ldu → Ldu) (k' : Nat) : (s.onLdu l f).chan k' = s.chan k' := rfl
@[simp] theorem State.onSsu_chan (s : State) (d : Nat) (f : Ssu → Ssu) (k' : Nat) : (s.onSsu d f).chan k' = s.chan k' := rfl
@[simp] theorem State.onTally_chan (s : State) (k : Nat) (f : Tally → Tally) (k' : Nat) : (s.onTally k f).chan k' = s.chan k' := rfl
@[simp] theorem State.onStack_chan (s : State) (k : Nat) (f : Stack → Stack) (k' : Nat) : (s.onStack k f).chan k' = s.chan k' := rfl
@[simp] theorem State.onGlaze_chan (s : State) (d : Nat) (f : Glaze → Glaze) (k' : Nat) : (s.onGlaze d f).chan k' = s.chan k' := rfl
@[simp] theorem State.onPort_chan (s : State) (p : Nat) (f : Port → Port) (k' : Nat) : (s.onPort p f).chan k' = s.chan k' := rfl
@[simp] theorem State.onLink_chan (s : State) (k : Nat) (f : Link → Link) (k' : Nat) : (s.onLink k f).chan k' = s.chan k' := rfl
@[simp] theorem State.onChan_chan (s : State) (c : Nat) (f : Chan → Chan) (k' : Nat) :
    (s.onChan c f).chan k' = if k' = c then f (s.chan c) else s.chan k' := tget_tmod _ _ _ _ _
@[simp] theorem State.onSession_chan (s : State) (k : Nat) (f : Session → Session) (k' : Nat) : (s.onSession k f).chan k' = s.chan k' := rfl
@[simp] theorem State.onCone_chan (s : State) (d : Nat) (f : ConeDie → ConeDie) (k' : Nat) : (s.onCone d f).chan k' = s.chan k' := rfl
@[simp] theorem State.onPower_chan (s : State) (f : Power → Power) (k' : Nat) : (s.onPower f).chan k' = s.chan k' := rfl
@[simp] theorem State.onBoot_chan (s : State) (f : Boot → Boot) (k' : Nat) : (s.onBoot f).chan k' = s.chan k' := rfl
@[simp] theorem State.onHealth_chan (s : State) (f : Health → Health) (k' : Nat) : (s.onHealth f).chan k' = s.chan k' := rfl
@[simp] theorem State.onFlog_chan (s : State) (f : FaultLog → FaultLog) (k' : Nat) : (s.onFlog f).chan k' = s.chan k' := rfl
@[simp] theorem State.onTb_chan (s : State) (f : Timebase → Timebase) (k' : Nat) : (s.onTb f).chan k' = s.chan k' := rfl
@[simp] theorem State.onLat_chan (s : State) (f : Lattice → Lattice) (k' : Nat) : (s.onLat f).chan k' = s.chan k' := rfl
@[simp] theorem State.onLute_chan (s : State) (f : Lute → Lute) (k' : Nat) : (s.onLute f).chan k' = s.chan k' := rfl
@[simp] theorem State.onMgmt_chan (s : State) (f : Mgmt → Mgmt) (k' : Nat) : (s.onMgmt f).chan k' = s.chan k' := rfl
@[simp] theorem State.onStore_chan (s : State) (f : Store → Store) (k' : Nat) : (s.onStore f).chan k' = s.chan k' := rfl
@[simp] theorem State.onMem_chan (s : State) (f : Memories → Memories) (k' : Nat) : (s.onMem f).chan k' = s.chan k' := rfl
@[simp] theorem State.onHbm_chan (s : State) (f : Mem → Mem) (k' : Nat) : (s.onHbm f).chan k' = s.chan k' := rfl
@[simp] theorem State.onWareMem_chan (s : State) (f : Mem → Mem) (k' : Nat) : (s.onWareMem f).chan k' = s.chan k' := rfl
@[simp] theorem State.onStoreMem_chan (s : State) (f : Mem → Mem) (k' : Nat) : (s.onStoreMem f).chan k' = s.chan k' := rfl
@[simp] theorem State.onPoison_chan (s : State) (d : Nat) (f : List Poison → List Poison) (k' : Nat) : (s.onPoison d f).chan k' = s.chan k' := rfl
@[simp] theorem State.setReg_chan (s : State) (r : Reg) (u v : Nat) (k' : Nat) : (s.setReg r u v).chan k' = s.chan k' := rfl
@[simp] theorem State.bump_chan (s : State) (r : Reg) (u n : Nat) (k' : Nat) : (s.bump r u n).chan k' = s.chan k' := rfl
@[simp] theorem State.onSagger_session (s : State) (g : Nat) (f : Sagger → Sagger) (k' : Nat) : (s.onSagger g f).session k' = s.session k' := rfl
@[simp] theorem State.onWheel_session (s : State) (w : Nat) (f : Wheel → Wheel) (k' : Nat) : (s.onWheel w f).session k' = s.session k' := rfl
@[simp] theorem State.onWare_session (s : State) (d : Nat) (f : Ware → Ware) (k' : Nat) : (s.onWare d f).session k' = s.session k' := rfl
@[simp] theorem State.onLdu_session (s : State) (l : Nat) (f : Ldu → Ldu) (k' : Nat) : (s.onLdu l f).session k' = s.session k' := rfl
@[simp] theorem State.onSsu_session (s : State) (d : Nat) (f : Ssu → Ssu) (k' : Nat) : (s.onSsu d f).session k' = s.session k' := rfl
@[simp] theorem State.onTally_session (s : State) (k : Nat) (f : Tally → Tally) (k' : Nat) : (s.onTally k f).session k' = s.session k' := rfl
@[simp] theorem State.onStack_session (s : State) (k : Nat) (f : Stack → Stack) (k' : Nat) : (s.onStack k f).session k' = s.session k' := rfl
@[simp] theorem State.onGlaze_session (s : State) (d : Nat) (f : Glaze → Glaze) (k' : Nat) : (s.onGlaze d f).session k' = s.session k' := rfl
@[simp] theorem State.onPort_session (s : State) (p : Nat) (f : Port → Port) (k' : Nat) : (s.onPort p f).session k' = s.session k' := rfl
@[simp] theorem State.onLink_session (s : State) (k : Nat) (f : Link → Link) (k' : Nat) : (s.onLink k f).session k' = s.session k' := rfl
@[simp] theorem State.onChan_session (s : State) (c : Nat) (f : Chan → Chan) (k' : Nat) : (s.onChan c f).session k' = s.session k' := rfl
@[simp] theorem State.onSession_session (s : State) (k : Nat) (f : Session → Session) (k' : Nat) :
    (s.onSession k f).session k' = if k' = k then f (s.session k) else s.session k' := tget_tmod _ _ _ _ _
@[simp] theorem State.onCone_session (s : State) (d : Nat) (f : ConeDie → ConeDie) (k' : Nat) : (s.onCone d f).session k' = s.session k' := rfl
@[simp] theorem State.onPower_session (s : State) (f : Power → Power) (k' : Nat) : (s.onPower f).session k' = s.session k' := rfl
@[simp] theorem State.onBoot_session (s : State) (f : Boot → Boot) (k' : Nat) : (s.onBoot f).session k' = s.session k' := rfl
@[simp] theorem State.onHealth_session (s : State) (f : Health → Health) (k' : Nat) : (s.onHealth f).session k' = s.session k' := rfl
@[simp] theorem State.onFlog_session (s : State) (f : FaultLog → FaultLog) (k' : Nat) : (s.onFlog f).session k' = s.session k' := rfl
@[simp] theorem State.onTb_session (s : State) (f : Timebase → Timebase) (k' : Nat) : (s.onTb f).session k' = s.session k' := rfl
@[simp] theorem State.onLat_session (s : State) (f : Lattice → Lattice) (k' : Nat) : (s.onLat f).session k' = s.session k' := rfl
@[simp] theorem State.onLute_session (s : State) (f : Lute → Lute) (k' : Nat) : (s.onLute f).session k' = s.session k' := rfl
@[simp] theorem State.onStore_session (s : State) (f : Store → Store) (k' : Nat) : (s.onStore f).session k' = s.session k' := rfl
@[simp] theorem State.onMem_session (s : State) (f : Memories → Memories) (k' : Nat) : (s.onMem f).session k' = s.session k' := rfl
@[simp] theorem State.onHbm_session (s : State) (f : Mem → Mem) (k' : Nat) : (s.onHbm f).session k' = s.session k' := rfl
@[simp] theorem State.onWareMem_session (s : State) (f : Mem → Mem) (k' : Nat) : (s.onWareMem f).session k' = s.session k' := rfl
@[simp] theorem State.onStoreMem_session (s : State) (f : Mem → Mem) (k' : Nat) : (s.onStoreMem f).session k' = s.session k' := rfl
@[simp] theorem State.onPoison_session (s : State) (d : Nat) (f : List Poison → List Poison) (k' : Nat) : (s.onPoison d f).session k' = s.session k' := rfl
@[simp] theorem State.setReg_session (s : State) (r : Reg) (u v : Nat) (k' : Nat) : (s.setReg r u v).session k' = s.session k' := rfl
@[simp] theorem State.bump_session (s : State) (r : Reg) (u n : Nat) (k' : Nat) : (s.bump r u n).session k' = s.session k' := rfl
@[simp] theorem State.onSagger_cone (s : State) (g : Nat) (f : Sagger → Sagger) (k' : Nat) : (s.onSagger g f).cone k' = s.cone k' := rfl
@[simp] theorem State.onWheel_cone (s : State) (w : Nat) (f : Wheel → Wheel) (k' : Nat) : (s.onWheel w f).cone k' = s.cone k' := rfl
@[simp] theorem State.onWare_cone (s : State) (d : Nat) (f : Ware → Ware) (k' : Nat) : (s.onWare d f).cone k' = s.cone k' := rfl
@[simp] theorem State.onLdu_cone (s : State) (l : Nat) (f : Ldu → Ldu) (k' : Nat) : (s.onLdu l f).cone k' = s.cone k' := rfl
@[simp] theorem State.onSsu_cone (s : State) (d : Nat) (f : Ssu → Ssu) (k' : Nat) : (s.onSsu d f).cone k' = s.cone k' := rfl
@[simp] theorem State.onTally_cone (s : State) (k : Nat) (f : Tally → Tally) (k' : Nat) : (s.onTally k f).cone k' = s.cone k' := rfl
@[simp] theorem State.onStack_cone (s : State) (k : Nat) (f : Stack → Stack) (k' : Nat) : (s.onStack k f).cone k' = s.cone k' := rfl
@[simp] theorem State.onGlaze_cone (s : State) (d : Nat) (f : Glaze → Glaze) (k' : Nat) : (s.onGlaze d f).cone k' = s.cone k' := rfl
@[simp] theorem State.onPort_cone (s : State) (p : Nat) (f : Port → Port) (k' : Nat) : (s.onPort p f).cone k' = s.cone k' := rfl
@[simp] theorem State.onLink_cone (s : State) (k : Nat) (f : Link → Link) (k' : Nat) : (s.onLink k f).cone k' = s.cone k' := rfl
@[simp] theorem State.onChan_cone (s : State) (c : Nat) (f : Chan → Chan) (k' : Nat) : (s.onChan c f).cone k' = s.cone k' := rfl
@[simp] theorem State.onSession_cone (s : State) (k : Nat) (f : Session → Session) (k' : Nat) : (s.onSession k f).cone k' = s.cone k' := rfl
@[simp] theorem State.onCone_cone (s : State) (d : Nat) (f : ConeDie → ConeDie) (k' : Nat) :
    (s.onCone d f).cone k' = if k' = d then f (s.cone d) else s.cone k' := tget_tmod _ _ _ _ _
@[simp] theorem State.onPower_cone (s : State) (f : Power → Power) (k' : Nat) : (s.onPower f).cone k' = s.cone k' := rfl
@[simp] theorem State.onBoot_cone (s : State) (f : Boot → Boot) (k' : Nat) : (s.onBoot f).cone k' = s.cone k' := rfl
@[simp] theorem State.onHealth_cone (s : State) (f : Health → Health) (k' : Nat) : (s.onHealth f).cone k' = s.cone k' := rfl
@[simp] theorem State.onFlog_cone (s : State) (f : FaultLog → FaultLog) (k' : Nat) : (s.onFlog f).cone k' = s.cone k' := rfl
@[simp] theorem State.onTb_cone (s : State) (f : Timebase → Timebase) (k' : Nat) : (s.onTb f).cone k' = s.cone k' := rfl
@[simp] theorem State.onLat_cone (s : State) (f : Lattice → Lattice) (k' : Nat) : (s.onLat f).cone k' = s.cone k' := rfl
@[simp] theorem State.onLute_cone (s : State) (f : Lute → Lute) (k' : Nat) : (s.onLute f).cone k' = s.cone k' := rfl
@[simp] theorem State.onMgmt_cone (s : State) (f : Mgmt → Mgmt) (k' : Nat) : (s.onMgmt f).cone k' = s.cone k' := rfl
@[simp] theorem State.onStore_cone (s : State) (f : Store → Store) (k' : Nat) : (s.onStore f).cone k' = s.cone k' := rfl
@[simp] theorem State.onMem_cone (s : State) (f : Memories → Memories) (k' : Nat) : (s.onMem f).cone k' = s.cone k' := rfl
@[simp] theorem State.onHbm_cone (s : State) (f : Mem → Mem) (k' : Nat) : (s.onHbm f).cone k' = s.cone k' := rfl
@[simp] theorem State.onWareMem_cone (s : State) (f : Mem → Mem) (k' : Nat) : (s.onWareMem f).cone k' = s.cone k' := rfl
@[simp] theorem State.onStoreMem_cone (s : State) (f : Mem → Mem) (k' : Nat) : (s.onStoreMem f).cone k' = s.cone k' := rfl
@[simp] theorem State.onPoison_cone (s : State) (d : Nat) (f : List Poison → List Poison) (k' : Nat) : (s.onPoison d f).cone k' = s.cone k' := rfl
@[simp] theorem State.setReg_cone (s : State) (r : Reg) (u v : Nat) (k' : Nat) : (s.setReg r u v).cone k' = s.cone k' := rfl
@[simp] theorem State.bump_cone (s : State) (r : Reg) (u n : Nat) (k' : Nat) : (s.bump r u n).cone k' = s.cone k' := rfl
@[simp] theorem State.onSagger_poisons (s : State) (g : Nat) (f : Sagger → Sagger) (k' : Nat) : (s.onSagger g f).poisons k' = s.poisons k' := rfl
@[simp] theorem State.onWheel_poisons (s : State) (w : Nat) (f : Wheel → Wheel) (k' : Nat) : (s.onWheel w f).poisons k' = s.poisons k' := rfl
@[simp] theorem State.onWare_poisons (s : State) (d : Nat) (f : Ware → Ware) (k' : Nat) : (s.onWare d f).poisons k' = s.poisons k' := rfl
@[simp] theorem State.onLdu_poisons (s : State) (l : Nat) (f : Ldu → Ldu) (k' : Nat) : (s.onLdu l f).poisons k' = s.poisons k' := rfl
@[simp] theorem State.onSsu_poisons (s : State) (d : Nat) (f : Ssu → Ssu) (k' : Nat) : (s.onSsu d f).poisons k' = s.poisons k' := rfl
@[simp] theorem State.onTally_poisons (s : State) (k : Nat) (f : Tally → Tally) (k' : Nat) : (s.onTally k f).poisons k' = s.poisons k' := rfl
@[simp] theorem State.onStack_poisons (s : State) (k : Nat) (f : Stack → Stack) (k' : Nat) : (s.onStack k f).poisons k' = s.poisons k' := rfl
@[simp] theorem State.onGlaze_poisons (s : State) (d : Nat) (f : Glaze → Glaze) (k' : Nat) : (s.onGlaze d f).poisons k' = s.poisons k' := rfl
@[simp] theorem State.onPort_poisons (s : State) (p : Nat) (f : Port → Port) (k' : Nat) : (s.onPort p f).poisons k' = s.poisons k' := rfl
@[simp] theorem State.onLink_poisons (s : State) (k : Nat) (f : Link → Link) (k' : Nat) : (s.onLink k f).poisons k' = s.poisons k' := rfl
@[simp] theorem State.onChan_poisons (s : State) (c : Nat) (f : Chan → Chan) (k' : Nat) : (s.onChan c f).poisons k' = s.poisons k' := rfl
@[simp] theorem State.onSession_poisons (s : State) (k : Nat) (f : Session → Session) (k' : Nat) : (s.onSession k f).poisons k' = s.poisons k' := rfl
@[simp] theorem State.onCone_poisons (s : State) (d : Nat) (f : ConeDie → ConeDie) (k' : Nat) : (s.onCone d f).poisons k' = s.poisons k' := rfl
@[simp] theorem State.onPower_poisons (s : State) (f : Power → Power) (k' : Nat) : (s.onPower f).poisons k' = s.poisons k' := rfl
@[simp] theorem State.onBoot_poisons (s : State) (f : Boot → Boot) (k' : Nat) : (s.onBoot f).poisons k' = s.poisons k' := rfl
@[simp] theorem State.onHealth_poisons (s : State) (f : Health → Health) (k' : Nat) : (s.onHealth f).poisons k' = s.poisons k' := rfl
@[simp] theorem State.onFlog_poisons (s : State) (f : FaultLog → FaultLog) (k' : Nat) : (s.onFlog f).poisons k' = s.poisons k' := rfl
@[simp] theorem State.onTb_poisons (s : State) (f : Timebase → Timebase) (k' : Nat) : (s.onTb f).poisons k' = s.poisons k' := rfl
@[simp] theorem State.onLat_poisons (s : State) (f : Lattice → Lattice) (k' : Nat) : (s.onLat f).poisons k' = s.poisons k' := rfl
@[simp] theorem State.onLute_poisons (s : State) (f : Lute → Lute) (k' : Nat) : (s.onLute f).poisons k' = s.poisons k' := rfl
@[simp] theorem State.onMgmt_poisons (s : State) (f : Mgmt → Mgmt) (k' : Nat) : (s.onMgmt f).poisons k' = s.poisons k' := rfl
@[simp] theorem State.onStore_poisons (s : State) (f : Store → Store) (k' : Nat) : (s.onStore f).poisons k' = s.poisons k' := rfl
@[simp] theorem State.onMem_poisons (s : State) (f : Memories → Memories) (k' : Nat) : (s.onMem f).poisons k' = s.poisons k' := rfl
@[simp] theorem State.onHbm_poisons (s : State) (f : Mem → Mem) (k' : Nat) : (s.onHbm f).poisons k' = s.poisons k' := rfl
@[simp] theorem State.onWareMem_poisons (s : State) (f : Mem → Mem) (k' : Nat) : (s.onWareMem f).poisons k' = s.poisons k' := rfl
@[simp] theorem State.onStoreMem_poisons (s : State) (f : Mem → Mem) (k' : Nat) : (s.onStoreMem f).poisons k' = s.poisons k' := rfl
@[simp] theorem State.onPoison_poisons (s : State) (d : Nat) (f : List Poison → List Poison) (k' : Nat) :
    (s.onPoison d f).poisons k' = if k' = d then f (s.poisons d) else s.poisons k' := tget_tmod _ _ _ _ _
@[simp] theorem State.setReg_poisons (s : State) (r : Reg) (u v : Nat) (k' : Nat) : (s.setReg r u v).poisons k' = s.poisons k' := rfl
@[simp] theorem State.bump_poisons (s : State) (r : Reg) (u n : Nat) (k' : Nat) : (s.bump r u n).poisons k' = s.poisons k' := rfl
@[simp] theorem State.onSagger_reg (s : State) (g : Nat) (f : Sagger → Sagger) (r' : Reg) (k' : Nat) : (s.onSagger g f).reg r' k' = s.reg r' k' := rfl
@[simp] theorem State.onWheel_reg (s : State) (w : Nat) (f : Wheel → Wheel) (r' : Reg) (k' : Nat) : (s.onWheel w f).reg r' k' = s.reg r' k' := rfl
@[simp] theorem State.onWare_reg (s : State) (d : Nat) (f : Ware → Ware) (r' : Reg) (k' : Nat) : (s.onWare d f).reg r' k' = s.reg r' k' := rfl
@[simp] theorem State.onLdu_reg (s : State) (l : Nat) (f : Ldu → Ldu) (r' : Reg) (k' : Nat) : (s.onLdu l f).reg r' k' = s.reg r' k' := rfl
@[simp] theorem State.onSsu_reg (s : State) (d : Nat) (f : Ssu → Ssu) (r' : Reg) (k' : Nat) : (s.onSsu d f).reg r' k' = s.reg r' k' := rfl
@[simp] theorem State.onTally_reg (s : State) (k : Nat) (f : Tally → Tally) (r' : Reg) (k' : Nat) : (s.onTally k f).reg r' k' = s.reg r' k' := rfl
@[simp] theorem State.onStack_reg (s : State) (k : Nat) (f : Stack → Stack) (r' : Reg) (k' : Nat) : (s.onStack k f).reg r' k' = s.reg r' k' := rfl
@[simp] theorem State.onGlaze_reg (s : State) (d : Nat) (f : Glaze → Glaze) (r' : Reg) (k' : Nat) : (s.onGlaze d f).reg r' k' = s.reg r' k' := rfl
@[simp] theorem State.onPort_reg (s : State) (p : Nat) (f : Port → Port) (r' : Reg) (k' : Nat) : (s.onPort p f).reg r' k' = s.reg r' k' := rfl
@[simp] theorem State.onLink_reg (s : State) (k : Nat) (f : Link → Link) (r' : Reg) (k' : Nat) : (s.onLink k f).reg r' k' = s.reg r' k' := rfl
@[simp] theorem State.onChan_reg (s : State) (c : Nat) (f : Chan → Chan) (r' : Reg) (k' : Nat) : (s.onChan c f).reg r' k' = s.reg r' k' := rfl
@[simp] theorem State.onSession_reg (s : State) (k : Nat) (f : Session → Session) (r' : Reg) (k' : Nat) : (s.onSession k f).reg r' k' = s.reg r' k' := rfl
@[simp] theorem State.onCone_reg (s : State) (d : Nat) (f : ConeDie → ConeDie) (r' : Reg) (k' : Nat) : (s.onCone d f).reg r' k' = s.reg r' k' := rfl
@[simp] theorem State.onPower_reg (s : State) (f : Power → Power) (r' : Reg) (k' : Nat) : (s.onPower f).reg r' k' = s.reg r' k' := rfl
@[simp] theorem State.onBoot_reg (s : State) (f : Boot → Boot) (r' : Reg) (k' : Nat) : (s.onBoot f).reg r' k' = s.reg r' k' := rfl
@[simp] theorem State.onHealth_reg (s : State) (f : Health → Health) (r' : Reg) (k' : Nat) : (s.onHealth f).reg r' k' = s.reg r' k' := rfl
@[simp] theorem State.onFlog_reg (s : State) (f : FaultLog → FaultLog) (r' : Reg) (k' : Nat) : (s.onFlog f).reg r' k' = s.reg r' k' := rfl
@[simp] theorem State.onTb_reg (s : State) (f : Timebase → Timebase) (r' : Reg) (k' : Nat) : (s.onTb f).reg r' k' = s.reg r' k' := rfl
@[simp] theorem State.onLat_reg (s : State) (f : Lattice → Lattice) (r' : Reg) (k' : Nat) : (s.onLat f).reg r' k' = s.reg r' k' := rfl
@[simp] theorem State.onLute_reg (s : State) (f : Lute → Lute) (r' : Reg) (k' : Nat) : (s.onLute f).reg r' k' = s.reg r' k' := rfl
@[simp] theorem State.onMgmt_reg (s : State) (f : Mgmt → Mgmt) (r' : Reg) (k' : Nat) : (s.onMgmt f).reg r' k' = s.reg r' k' := rfl
@[simp] theorem State.onStore_reg (s : State) (f : Store → Store) (r' : Reg) (k' : Nat) : (s.onStore f).reg r' k' = s.reg r' k' := rfl
@[simp] theorem State.onMem_reg (s : State) (f : Memories → Memories) (r' : Reg) (k' : Nat) : (s.onMem f).reg r' k' = s.reg r' k' := rfl
@[simp] theorem State.onHbm_reg (s : State) (f : Mem → Mem) (r' : Reg) (k' : Nat) : (s.onHbm f).reg r' k' = s.reg r' k' := rfl
@[simp] theorem State.onWareMem_reg (s : State) (f : Mem → Mem) (r' : Reg) (k' : Nat) : (s.onWareMem f).reg r' k' = s.reg r' k' := rfl
@[simp] theorem State.onStoreMem_reg (s : State) (f : Mem → Mem) (r' : Reg) (k' : Nat) : (s.onStoreMem f).reg r' k' = s.reg r' k' := rfl
@[simp] theorem State.onPoison_reg (s : State) (d : Nat) (f : List Poison → List Poison) (r' : Reg) (k' : Nat) : (s.onPoison d f).reg r' k' = s.reg r' k' := rfl

end Sys2Proof.Machine
end

