-- ==== Sys2Proof/Laws/Mem.lean ====
section
/-! SUPPORT. Sparse memories: what a read gives after a write, and that every operation keeps the canonical form. -/

namespace Sys2Proof.Machine

/-! ## The canonical form -/

/-- The canonical form, one entry at a time: no zero byte, and the first entry lies below every other. -/
theorem Memory.wf_cons (c : Host.Cell) (m : Mem) :
    Memory.wf (c :: m) = true ↔ c.2 ≠ 0 ∧ (∀ d ∈ m, c.1 < d.1) ∧ Memory.wf m = true := by
  induction m generalizing c with
  | nil => simp [Memory.wf]
  | cons d r ih =>
    simp only [Memory.wf, Bool.and_eq_true, bne_iff_ne, decide_eq_true_eq, List.mem_cons, forall_eq_or_imp]
    constructor
    · rintro ⟨⟨h1, h2⟩, h3⟩
      exact ⟨h1, ⟨h2, fun e he => Nat.lt_trans h2 (((ih d).1 h3).2.1 e he)⟩, h3⟩
    · rintro ⟨h1, ⟨h2, _⟩, h3⟩
      exact ⟨⟨h1, h2⟩, h3⟩

theorem Memory.wf_filter {m : Mem} (p : Host.Cell → Bool) (h : Memory.wf m = true) : Memory.wf (m.filter p) = true := by
  induction m with
  | nil => rfl
  | cons c r ih =>
    obtain ⟨h1, h2, h3⟩ := (Memory.wf_cons c r).1 h
    rw [List.filter_cons]
    split
    · exact (Memory.wf_cons _ _).2 ⟨h1, fun d hd => h2 d (List.mem_filter.1 hd).1, ih h3⟩
    · exact ih h3

theorem mem_mins {m : Mem} {a : Nat} {b : Byte} {d : Host.Cell} (h : d ∈ mins m a b) : d = (a, b) ∨ d ∈ m := by
  induction m with
  | nil => simpa [mins] using h
  | cons c r ih =>
    simp only [mins] at h
    split at h
    · simpa using h
    · split at h
      · rcases List.mem_cons.1 h with h | h
        · exact .inl h
        · exact .inr (List.mem_cons_of_mem _ h)
      · rcases List.mem_cons.1 h with h | h
        · exact .inr (h ▸ List.mem_cons_self)
        · exact (ih h).imp id (List.mem_cons_of_mem _)

theorem Memory.wf_mins {m : Mem} (a : Nat) {b : Byte} (hb : b ≠ 0) (h : Memory.wf m = true) :
    Memory.wf (mins m a b) = true := by
  induction m with
  | nil => simpa [mins, Memory.wf] using hb
  | cons c r ih =>
    obtain ⟨h1, h2, h3⟩ := (Memory.wf_cons c r).1 h
    simp only [mins]
    split
    · rename_i hlt
      exact (Memory.wf_cons _ _).2 ⟨hb, fun d hd => by
        rcases List.mem_cons.1 hd with rfl | hd
        · exact hlt
        · exact Nat.lt_trans hlt (h2 d hd), h⟩
    · split
      · rename_i _ heq
        exact (Memory.wf_cons _ _).2 ⟨hb, fun d hd => by subst heq; exact h2 d hd, h3⟩
      · rename_i hlt hne
        exact (Memory.wf_cons _ _).2 ⟨h1, fun d hd => by
          rcases mem_mins hd with rfl | hd
          · show c.1 < a; omega
          · exact h2 d hd, ih h3⟩

theorem Memory.wf_mput {m : Mem} (a : Nat) (b : Byte) (h : Memory.wf m = true) : Memory.wf (mput m a b) = true := by
  unfold mput
  split
  · exact Memory.wf_filter _ h
  · exact Memory.wf_mins a ‹_› h

theorem Memory.wf_mwrite {m : Mem} (a : Nat) (bs : List Byte) (h : Memory.wf m = true) :
    Memory.wf (mwrite m a bs) = true := by
  induction bs generalizing m a with
  | nil => exact h
  | cons b bs ih => exact ih _ (Memory.wf_mput a b h)

theorem Memory.wf_mclear {m : Mem} (a n : Nat) (h : Memory.wf m = true) : Memory.wf (mclear m a n) = true :=
  Memory.wf_filter _ h

theorem Memory.wf_mputNum {m : Mem} (a n v : Nat) (h : Memory.wf m = true) : Memory.wf (mputNum m a n v) = true :=
  Memory.wf_mwrite a _ h

theorem Memory.wf_msetField {m : Mem} (a lo w v : Nat) (h : Memory.wf m = true) :
    Memory.wf (msetField m a lo w v) = true := Memory.wf_mputNum _ _ _ h

theorem Memory.wf_foldl_mput {α : Type} {a : α → Nat} {v : Mem → α → Byte} (xs : List α) (m : Mem) (h : Memory.wf m = true) :
    Memory.wf (xs.foldl (fun m x => mput m (a x) (v m x)) m) = true := by
  induction xs generalizing m with
  | nil => exact h
  | cons x xs ih => exact ih _ (Memory.wf_mput _ _ h)

/-! ## Reads after writes -/

theorem mget_filter_of_keep {m : Mem} {a : Nat} (p : Host.Cell → Bool) (h : ∀ c : Host.Cell, c.1 = a → p c = true) :
    mget (m.filter p) a = mget m a := by
  induction m with
  | nil => rfl
  | cons c r ih =>
    rw [List.filter_cons]
    by_cases hc : c.1 = a
    · simp [h c hc, mget, hc]
    · split <;> simp [mget, hc, ih]

theorem mget_filter_of_drop {m : Mem} {a : Nat} (p : Host.Cell → Bool) (h : ∀ c : Host.Cell, c.1 = a → p c = false) :
    mget (m.filter p) a = 0 := by
  induction m with
  | nil => rfl
  | cons c r ih =>
    rw [List.filter_cons]
    by_cases hc : c.1 = a
    · simp [h c hc, ih]
    · split <;> simp [mget, hc, ih]

theorem mget_mins (m : Mem) (a x : Nat) (b : Byte) :
    mget (mins m a b) x = if x = a then b else mget m x := by
  induction m with
  | nil => simp [mins, mget, eq_comm]
  | cons c r ih =>
    simp only [mins]
    split
    · by_cases hx : x = a
      · simp [mget, hx]
      · simp [mget, hx, Ne.symm hx]
    · split
      · rename_i _ heq
        by_cases hx : x = a
        · simp [mget, hx]
        · have : c.1 ≠ x := fun h => hx (h ▸ heq)
          simp [mget, hx, Ne.symm hx, this]
      · rename_i _ hne
        by_cases hx : x = a
        · subst hx; simp [mget, hne, ih]
        · simp [mget, ih, hx]

/-- A byte read after a byte is written. -/
theorem mget_mput (m : Mem) (a x : Nat) (b : Byte) :
    mget (mput m a b) x = if x = a then b else mget m x := by
  unfold mput
  split
  · rename_i hb
    by_cases hx : x = a
    · rw [mget_filter_of_drop _ (fun c hc => by simp [hc, hx])]; simp [hx, hb]
    · rw [mget_filter_of_keep _ (fun c hc => by simp [hc, hx])]; simp [hx]
  · exact mget_mins m a x b

/-- A byte below or above the written range stays. -/
theorem mget_mwrite_of_outside (m : Mem) (a x : Nat) (bs : List Byte) (h : x < a ∨ a + bs.length ≤ x) :
    mget (mwrite m a bs) x = mget m x := by
  induction bs generalizing m a with
  | nil => rfl
  | cons b bs ih =>
    simp only [List.length_cons] at h
    rw [mwrite, ih _ _ (by omega), mget_mput, if_neg (by omega)]

/-- A byte within the written range is the byte written there. -/
theorem mget_mwrite_of_inside (m : Mem) (a k : Nat) (bs : List Byte) (h : k < bs.length) :
    mget (mwrite m a bs) (a + k) = bs[k] := by
  induction bs generalizing m a k with
  | nil => simp at h
  | cons b bs ih =>
    cases k with
    | zero => rw [mwrite, mget_mwrite_of_outside _ _ _ _ (by omega), mget_mput]; simp
    | succ k =>
      have := ih (mput m a b) (a + 1) k (by simpa using h)
      rw [mwrite, show a + (k + 1) = a + 1 + k from by omega, this]; simp

/-- A range read back after it is written. -/
theorem mread_mwrite (m : Mem) (a : Nat) (bs : List Byte) : mread (mwrite m a bs) a bs.length = bs := by
  have key : ∀ (n k : Nat) (hk : k + n = bs.length),
      mread (mwrite m a bs) (a + k) n = bs.drop k := by
    intro n
    induction n with
    | zero => intro k hk; simp [mread, ← hk]
    | succ n ih =>
      intro k hk
      have hlt : k < bs.length := by omega
      rw [mread, mget_mwrite_of_inside m a k bs hlt, List.drop_eq_getElem_cons hlt,
        show a + k + 1 = a + (k + 1) from by omega, ih (k + 1) (by omega)]
  simpa using key bs.length 0 (by simp)

theorem mget_mclear (m : Mem) (a n x : Nat) :
    mget (mclear m a n) x = if a ≤ x ∧ x < a + n then 0 else mget m x := by
  unfold mclear
  split
  · rename_i h
    exact mget_filter_of_drop _ fun c hc => by simp only [hc]; simp; omega
  · rename_i h
    exact mget_filter_of_keep _ fun c hc => by simp only [hc]; simp; omega

theorem mread_of_outside {m m' : Mem} {a : Nat} : ∀ {n : Nat}, (∀ x, a ≤ x → x < a + n → mget m x = mget m' x) →
    mread m a n = mread m' a n
  | 0, _ => rfl
  | n + 1, h => by
    rw [mread, mread, h a (Nat.le_refl _) (by omega), mread_of_outside fun x h1 h2 => h x (by omega) (by omega)]

@[simp] theorem mread_length (m : Mem) (a : Nat) : ∀ n, (mread m a n).length = n
  | 0 => rfl
  | n + 1 => by simp [mread, mread_length m (a + 1) n]

@[simp] theorem leBytes_length (n : Nat) : ∀ k, (leBytes n k).length = k
  | 0 => rfl
  | k + 1 => by simp [leBytes, leBytes_length (n / 256) k]

/-- The number that the little-endian bytes of `n` spell. -/
theorem leNat_leBytes (n : Nat) : ∀ k, leNat (leBytes n k) = n % 256 ^ k
  | 0 => by simp [leBytes, leNat, Nat.mod_one]
  | k + 1 => by
    rw [leBytes, leNat, leNat_leBytes (n / 256) k, Nat.pow_succ', Nat.mod_mul]
    simp

/-- A number read back after it is written. -/
theorem mnum_mputNum (m : Mem) (a n v : Nat) : mnum (mputNum m a n v) a n = v % 256 ^ n := by
  have h := mread_mwrite m a (leBytes v n)
  rw [leBytes_length] at h
  rw [mnum, mputNum, h, leNat_leBytes]

end Sys2Proof.Machine
end

