-- ==== Sys2Proof/Laws/Drain.lean ====
section
/-! SUPPORT. The drain unit changes slabs only, and keeps their canonical form. -/

namespace Sys2Proof.Machine

/-- `m'` differs from `m` in the slabs and their valid lines only, which keep their canonical form. -/
structure SlabOnly (m m' : Memories) : Prop where
  same : m' = { m with slab := m'.slab, valid := m'.valid }
  wf   : Memory.wf m.slab = true → Memory.wf m'.slab = true

theorem SlabOnly.refl (m : Memories) : SlabOnly m m := ⟨rfl, id⟩

theorem SlabOnly.trans {m m' m'' : Memories} (h : SlabOnly m m') (h' : SlabOnly m' m'') : SlabOnly m m'' :=
  ⟨by rw [h'.same, h.same], h'.wf ∘ h.wf⟩

theorem Memories.slabWrite_only {m m' : Memories} (i : Nat) (bs : List Byte) (h : SlabOnly m m') : SlabOnly m (m'.slabWrite i bs) :=
  h.trans ⟨rfl, Memory.wf_mwrite i bs⟩

theorem SlabOnly.foldl {α β : Type} {π : β → Memories} {f : β → α → β} {m : Memories} {xs : List α} {y : β}
    (hf : ∀ z x, SlabOnly m (π z) → SlabOnly m (π (f z x))) (h : SlabOnly m (π y)) : SlabOnly m (π (xs.foldl f y)) := by
  induction xs generalizing y with
  | nil => exact h
  | cons x xs ih => exact ih (hf y x h)

variable {m : Memories} {d : Drain}

theorem Drain.setCell_only (a lo w v : Nat) (h : SlabOnly m d.mem) : SlabOnly m (d.setCell a lo w v).mem :=
  Memories.slabWrite_only _ _ h

theorem Drain.putRegion_only (a : Nat) (x : RegionHead) (rows : List (List Int)) (dead : Bool) (h : SlabOnly m d.mem) :
    SlabOnly m (d.putRegion a x rows dead).mem :=
  SlabOnly.foldl (π := id) (fun _ _ hz => Memories.slabWrite_only _ _ hz) (Memories.slabWrite_only _ _ h)

theorem Drain.writeOwn_only (rows : List (List Int)) (h : SlabOnly m d.mem) : SlabOnly m (d.writeOwn rows).mem := by
  unfold Drain.writeOwn
  refine Drain.putRegion_only _ _ _ _ ?_
  split
  · exact h
  · exact Memories.slabWrite_only _ _ h

theorem Drain.combine_only {d' : Drain} {dst : Nat} {ops : List Nat} (h : SlabOnly m d.mem) (e : d.combine dst ops = .ok d') :
    SlabOnly m d'.mem := by
  unfold Drain.combine at e
  split at e
  · cases e
  · cases e
    exact Drain.putRegion_only _ _ _ _ h

theorem Drain.residual_only (l target : LayerInfo) (tix out : Nat) (vals : List (List Dyad)) (h : SlabOnly m d.mem) :
    SlabOnly m (d.residual l target tix out vals).mem :=
  SlabOnly.foldl (π := Drain.mem) (fun _ _ hz => Drain.putRegion_only _ _ _ _ (Memories.slabWrite_only _ _ hz)) h

theorem Drain.output_only (l : LayerInfo) (target : Option (Nat × LayerInfo)) (out : Nat) (vals : List (List Dyad))
    (h : SlabOnly m d.mem) : SlabOnly m (d.output l target out vals).mem := by
  unfold Drain.output
  have key : SlabOnly m (((List.range d.head.tokN).filter fun t => !d.dead.contains t).foldl (fun d t =>
      let q := requantise l.outFmt l.outlierK l.fallback (vals.getD t [])
      { d with mem := d.mem.slabWrite (out + t * l.slot) q.bytes, sats := d.sats + q.sats, falls := d.falls + Bool.num q.fellBack,
               sides := d.sides + q.side }) d).mem :=
    SlabOnly.foldl (π := Drain.mem) (fun _ _ hz => Memories.slabWrite_only _ _ hz) h
  split
  · exact key
  · exact Drain.residual_only _ _ _ _ _ key

theorem Drain.requant_only {d' : Drain} {l : LayerInfo} {target : Option (Nat × LayerInfo)} (h : SlabOnly m d.mem)
    (e : d.requant l target = .ok d') : SlabOnly m d'.mem := by
  unfold Drain.requant at e
  dsimp only at e
  split at e
  · cases e
  · cases e
    exact Drain.output_only _ _ _ _ h

theorem Drain.rootDone_only {d' : Drain} {k : Nat} {l : LayerInfo} {target : Option (Nat × LayerInfo)} (h : SlabOnly m d.mem)
    (e : d.rootDone k l target = .ok d') : SlabOnly m d'.mem := by
  have key := Drain.setCell_only (d.setOf 0) 136 7 (d.cell (d.setOf 0) 136 7 + 1)
    (Drain.setCell_only d.r0 149 1 1 (Drain.setCell_only d.r0 143 6 k h))
  unfold Drain.rootDone at e
  dsimp only at e
  split at e
  · cases e
  · split at e
    · exact Drain.requant_only key e
    · cases e; exact key

theorem Drain.arrive_only {d' : Drain} {lay : LayerInfo} {target : Option (Nat × LayerInfo)} : ∀ {fuel l r : Nat} {d : Drain},
    SlabOnly m d.mem → d.arrive lay target fuel l r = .ok d' → SlabOnly m d'.mem
  | 0, _, _, _, _, e => by simp [Drain.arrive] at e
  | fuel + 1, l, r, d, h, e => by
    unfold Drain.arrive at e
    dsimp only at e
    split at e
    · exact Drain.rootDone_only h e
    · split at e
      · cases e
      · split at e
        · split at e
          · exact Drain.arrive_only (Drain.setCell_only _ _ _ _ h) e
          · cases e
            exact Drain.setCell_only _ _ _ _ (Drain.setCell_only _ _ _ _ (Drain.setCell_only _ _ _ _ h))
        · split at e
          · cases e
          · rename_i hc
            exact Drain.arrive_only (Drain.combine_only (Drain.setCell_only _ _ _ _ (Drain.setCell_only _ _ _ _ h)) hc) e

theorem Drain.fold_only {d' : Drain} {G : Nat} {lay : LayerInfo} {target : Option (Nat × LayerInfo)} : ∀ {fuel : Nat} {d : Drain},
    SlabOnly m d.mem → d.fold G lay target fuel = .ok d' → SlabOnly m d'.mem
  | 0, _, h, e => by cases e; exact h
  | fuel + 1, d, h, e => by
    unfold Drain.fold at e
    dsimp only at e
    split at e
    · cases e; exact h
    · split at e
      · exact Drain.rootDone_only h e
      · split at e
        · split at e
          · cases e
          · rename_i hc
            exact Drain.fold_only (Drain.setCell_only _ _ _ _ (Drain.combine_only h hc)) e
        · cases e; exact h

theorem Drain.finish_only {d' : Drain} {ctl : Nat} {lay : LayerInfo} {target : Option (Nat × LayerInfo)} (h : SlabOnly m d.mem)
    (e : d.finish ctl lay target = .ok d') : SlabOnly m d'.mem := by
  unfold Drain.finish at e
  split at e
  · unfold Drain.arriveGrouped at e
    dsimp only at e
    split at e
    · cases e
    · split at e
      · cases e; exact Drain.setCell_only _ _ _ _ h
      · split at e
        · cases e
        · rename_i hc
          exact Drain.fold_only (Drain.combine_only (Drain.setCell_only _ _ _ _ h) hc) e
  · exact Drain.arrive_only h e

end Sys2Proof.Machine
end

