-- ==== Sys2Proof/Laws/Keeps.lean ====
section
/-! SUPPORT. `Keeps`, through the updaters of Machine/Access.lean and the forms a meaning is built of. -/

namespace Sys2Proof.Machine

set_option linter.all false

variable {b : Bool} {s0 s : State}

theorem ConesRise.refl (s : State) : ConesRise s s := fun _ => ⟨Nat.le_refl _, fun _ _ => Nat.le_refl _⟩

theorem ConesRise.trans {r t : State} (h : ConesRise r s) (h' : ConesRise s t) : ConesRise r t :=
  fun d => ⟨Nat.le_trans (h d).1 (h' d).1, fun k hk => Nat.le_trans ((h d).2 k hk) ((h' d).2 k hk)⟩

theorem Keeps.refl (b : Bool) (s : State) : Keeps b s s :=
  ⟨id, rfl, Nat.le_refl _, Nat.le_refl _, fun h => ⟨h, rfl⟩, Nat.le_refl _, Nat.le_refl _, fun _ => ConesRise.refl s, fun _ => rfl⟩

theorem Keeps.trans {t : State} (h : Keeps b s0 s) (h' : Keeps b s t) : Keeps b s0 t where
  canon := h'.canon ∘ h.canon
  pending := h'.pending.trans h.pending
  freeCtr := Nat.le_trans h.freeCtr h'.freeCtr
  svn := Nat.le_trans h.svn h'.svn
  owner := fun ho => ⟨(h'.owner (h.owner ho).1).1, (h'.owner (h.owner ho).1).2.trans (h.owner ho).2⟩
  boots := Nat.le_trans h.boots h'.boots
  maxSeq := Nat.le_trans h.maxSeq h'.maxSeq
  cones := fun hb => (h.cones hb).trans (h'.cones hb)
  time := fun hb => (h'.time hb).trans (h.time hb)

/-! ## One change of the state -/

/-- A change that leaves everything that `Keeps` speaks of. -/
theorem Keeps.of_same {t : State} (h : Keeps b s0 s) (hm : t.mem = s.mem) (hp : t.pending = s.pending)
    (hf : t.freeCtr = s.freeCtr) (hu : t.fuses = s.fuses) (hh : t.health = s.health) (hr : t.flog = s.flog)
    (hc : t.cones = s.cones) (ht : t.tb = s.tb) : Keeps b s0 t :=
  h.trans ⟨fun c => ⟨hm ▸ c.hbm, hm ▸ c.slab, hm ▸ c.ware, hm ▸ c.store, hm ▸ c.flash, hh ▸ c.map, hr ▸ c.ring⟩, hp,
    Nat.le_of_eq hf.symm, hu ▸ Nat.le_refl _, fun ho => ⟨by rw [hu]; exact ho, by rw [hu]⟩, hh ▸ Nat.le_refl _, hh ▸ Nat.le_refl _,
    fun _ d => by unfold State.cone; rw [hc]; exact ConesRise.refl s d, fun _ => by rw [ht]⟩

/-- A change that only draws free values besides. -/
theorem Keeps.of_draw {t : State} {n : Nat} (h : Keeps b s0 s) (hf : t.freeCtr = s.freeCtr + n) (hm : t.mem = s.mem)
    (hp : t.pending = s.pending) (hu : t.fuses = s.fuses) (hh : t.health = s.health) (hr : t.flog = s.flog)
    (hc : t.cones = s.cones) (ht : t.tb = s.tb) : Keeps b s0 t :=
  h.trans ⟨fun c => ⟨hm ▸ c.hbm, hm ▸ c.slab, hm ▸ c.ware, hm ▸ c.store, hm ▸ c.flash, hh ▸ c.map, hr ▸ c.ring⟩, hp,
    by omega, hu ▸ Nat.le_refl _, fun ho => ⟨by rw [hu]; exact ho, by rw [hu]⟩, hh ▸ Nat.le_refl _, hh ▸ Nat.le_refl _,
    fun _ d => by unfold State.cone; rw [hc]; exact ConesRise.refl s d, fun _ => by rw [ht]⟩

/-- `Keeps.of_same` for a record update. -/
theorem Keeps.mk_same
    {regs : List ((Reg × Nat) × Nat)}
    {power : Power}
    {boot : Boot}
    {plan : Option Plan}
    {saggers : Tab Sagger}
    {wheels : Tab Wheel}
    {wares : Tab Ware}
    {ldus : Tab Ldu}
    {ssus : Tab Ssu}
    {tallies : Tab Tally}
    {tallyOut : BitVec 48 × BitVec 48}
    {houseProgress : Nat}
    {houseArmed : Bool}
    {snaps : Tab (List (BitVec 32))}
    {hbmStacks : Tab Stack}
    {store : Store}
    {poison : Tab (List Poison)}
    {glazes : Tab Glaze}
    {ports : Tab Port}
    {lat : Lattice}
    {lute : Lute}
    {links : Tab Link}
    {chans : Tab Chan}
    {swaps : List SwapReq}
    {nextTag : BitVec 32}
    {mgmt : Mgmt}
    {lastMeas : Nat}
    (h : Keeps b s0 s) :
    Keeps b s0 (State.mk s.pending regs s.freeCtr s.mem power boot s.health s.fuses plan s.tb s.flog saggers wheels wares ldus ssus tallies tallyOut houseProgress houseArmed snaps hbmStacks store poison glazes ports lat lute links chans swaps nextTag mgmt s.cones lastMeas) :=
  h.of_same rfl rfl rfl rfl rfl rfl rfl rfl

theorem Keeps.mk_draw {n : Nat}
    {regs : List ((Reg × Nat) × Nat)}
    {power : Power}
    {boot : Boot}
    {plan : Option Plan}
    {saggers : Tab Sagger}
    {wheels : Tab Wheel}
    {wares : Tab Ware}
    {ldus : Tab Ldu}
    {ssus : Tab Ssu}
    {tallies : Tab Tally}
    {tallyOut : BitVec 48 × BitVec 48}
    {houseProgress : Nat}
    {houseArmed : Bool}
    {snaps : Tab (List (BitVec 32))}
    {hbmStacks : Tab Stack}
    {store : Store}
    {poison : Tab (List Poison)}
    {glazes : Tab Glaze}
    {ports : Tab Port}
    {lat : Lattice}
    {lute : Lute}
    {links : Tab Link}
    {chans : Tab Chan}
    {swaps : List SwapReq}
    {nextTag : BitVec 32}
    {mgmt : Mgmt}
    {lastMeas : Nat}
    (h : Keeps b s0 s) :
    Keeps b s0 (State.mk s.pending regs (s.freeCtr + n) s.mem power boot s.health s.fuses plan s.tb s.flog saggers wheels wares ldus ssus tallies tallyOut houseProgress houseArmed snaps hbmStacks store poison glazes ports lat lute links chans swaps nextTag mgmt s.cones lastMeas) :=
  h.of_draw rfl rfl rfl rfl rfl rfl rfl rfl

/-- The memories keep their canonical form. -/
def Memories.Canon (m : Memories) : Prop :=
  Memory.wf m.hbm = true ∧ Memory.wf m.slab = true ∧ Memory.wf m.ware = true ∧ Memory.wf m.store = true ∧
    Memory.wf m.flash = true

theorem Memories.slabWrite_canon {m : Memories} (i : Nat) (bs : List Byte) (h : m.Canon) : (m.slabWrite i bs).Canon :=
  ⟨h.1, Memory.wf_mwrite _ _ h.2.1, h.2.2⟩

theorem Memories.slabClear_canon {m : Memories} (w : Nat) (h : m.Canon) : (m.slabClear w).Canon :=
  ⟨h.1, Memory.wf_mclear _ _ h.2.1, h.2.2⟩

/-- A change of the flash bytes. -/
theorem Memories.flash_canon {m : Memories} {x : Mem} (hx : Memory.wf x = true) (h : m.Canon) :
    Memories.Canon { m with flash := x } := ⟨h.1, h.2.1, h.2.2.1, h.2.2.2.1, hx⟩

theorem State.onMem_keeps {f : Memories → Memories} (hf : ∀ m, m.Canon → (f m).Canon) (h : Keeps b s0 s) :
    Keeps b s0 (s.onMem f) :=
  h.trans ⟨fun c => by
      obtain ⟨h1, h2, h3, h4, h5⟩ := hf s.mem ⟨c.hbm, c.slab, c.ware, c.store, c.flash⟩
      exact ⟨h1, h2, h3, h4, h5, c.map, c.ring⟩, rfl, Nat.le_refl _, Nat.le_refl _, fun ho => ⟨ho, rfl⟩, Nat.le_refl _,
    Nat.le_refl _, fun _ => ConesRise.refl s, fun _ => rfl⟩

/-- Only the slabs change. -/
theorem Keeps.of_slabOnly {m : Memories} (hm : SlabOnly s.mem m) (h : Keeps b s0 s) : Keeps b s0 { s with mem := m } :=
  h.trans ⟨fun c => ⟨by show Memory.wf m.hbm = true; rw [hm.same]; exact c.hbm, hm.wf c.slab,
      by show Memory.wf m.ware = true; rw [hm.same]; exact c.ware, by show Memory.wf m.store = true; rw [hm.same]; exact c.store,
      by show Memory.wf m.flash = true; rw [hm.same]; exact c.flash, c.map, c.ring⟩, rfl, Nat.le_refl _, Nat.le_refl _,
    fun ho => ⟨ho, rfl⟩, Nat.le_refl _, Nat.le_refl _, fun _ => ConesRise.refl s, fun _ => rfl⟩

theorem State.onHbm_keeps {f : Mem → Mem} (hf : ∀ m, Memory.wf m = true → Memory.wf (f m) = true) (h : Keeps b s0 s) :
    Keeps b s0 (s.onHbm f) := State.onMem_keeps (f := fun m => { m with hbm := f m.hbm }) (fun _ hm => ⟨hf _ hm.1, hm.2⟩) h

theorem State.onWareMem_keeps {f : Mem → Mem} (hf : ∀ m, Memory.wf m = true → Memory.wf (f m) = true)
    (h : Keeps b s0 s) : Keeps b s0 (s.onWareMem f) :=
  State.onMem_keeps (f := fun m => { m with ware := f m.ware }) (fun _ hm => ⟨hm.1, hm.2.1, hf _ hm.2.2.1, hm.2.2.2⟩) h

theorem State.onStoreMem_keeps {f : Mem → Mem} (hf : ∀ m, Memory.wf m = true → Memory.wf (f m) = true)
    (h : Keeps b s0 s) : Keeps b s0 (s.onStoreMem f) :=
  State.onMem_keeps (f := fun m => { m with store := f m.store })
    (fun _ hm => ⟨hm.1, hm.2.1, hm.2.2.1, hf _ hm.2.2.2.1, hm.2.2.2.2⟩) h

/-- The health area is changed: its map keeps its canonical form, and its counts do not fall. -/
theorem State.onHealth_keeps {f : Health → Health} (hf : ∀ x : Health, (Memory.wf x.map = true → Memory.wf (f x).map = true) ∧
    x.boots ≤ (f x).boots ∧ x.maxSeq ≤ (f x).maxSeq) (h : Keeps b s0 s) : Keeps b s0 (s.onHealth f) :=
  h.trans ⟨fun c => ⟨c.hbm, c.slab, c.ware, c.store, c.flash, (hf _).1 c.map, c.ring⟩, rfl, Nat.le_refl _, Nat.le_refl _,
    fun ho => ⟨ho, rfl⟩, (hf _).2.1, (hf _).2.2, fun _ => ConesRise.refl s, fun _ => rfl⟩

theorem State.onHealth_keeps_at {f : Health → Health} (hf : (Memory.wf s.health.map = true → Memory.wf (f s.health).map = true) ∧
    s.health.boots ≤ (f s.health).boots ∧ s.health.maxSeq ≤ (f s.health).maxSeq) (h : Keeps b s0 s) : Keeps b s0 (s.onHealth f) :=
  h.trans ⟨fun c => ⟨c.hbm, c.slab, c.ware, c.store, c.flash, hf.1 c.map, c.ring⟩, rfl, Nat.le_refl _, Nat.le_refl _,
    fun ho => ⟨ho, rfl⟩, hf.2.1, hf.2.2, fun _ => ConesRise.refl s, fun _ => rfl⟩

/-- The fault log is changed: its ring stays within 4,096 records. -/
theorem State.onFlog_keeps {f : FaultLog → FaultLog} (hf : ∀ x : FaultLog, x.ring.length ≤ 4096 → (f x).ring.length ≤ 4096)
    (h : Keeps b s0 s) : Keeps b s0 (s.onFlog f) :=
  h.trans ⟨fun c => ⟨c.hbm, c.slab, c.ware, c.store, c.flash, c.map, hf _ c.ring⟩, rfl, Nat.le_refl _, Nat.le_refl _,
    fun ho => ⟨ho, rfl⟩, Nat.le_refl _, Nat.le_refl _, fun _ => ConesRise.refl s, fun _ => rfl⟩

/-- The cones of a die are changed: outside service anything may change, in service no setting falls. -/
theorem State.onCone_keeps {d : Nat} {f : ConeDie → ConeDie} (hf : b = true → (s.cone d).vfloor ≤ (f (s.cone d)).vfloor ∧
    ∀ k < 32, (s.cone d).codes.getD k 0 ≤ (f (s.cone d)).codes.getD k 0) (h : Keeps b s0 s) : Keeps b s0 (s.onCone d f) :=
  h.trans ⟨fun c => ⟨c.hbm, c.slab, c.ware, c.store, c.flash, c.map, c.ring⟩, rfl, Nat.le_refl _, Nat.le_refl _,
    fun ho => ⟨ho, rfl⟩, Nat.le_refl _, Nat.le_refl _, fun hb e => by
      have : (s.onCone d f).cone e = if e = d then f (s.cone d) else s.cone e := tget_tmod _ _ _ _ _
      rw [this]
      split
      · rename_i he; subst he; exact hf hb
      · exact ConesRise.refl s e, fun _ => rfl⟩

/-- The timebase is changed: in service no command moves the REFCLK timer. -/
theorem State.onTb_keeps {f : Timebase → Timebase} (hf : b = true → (f s.tb).ref = s.tb.ref) (h : Keeps b s0 s) :
    Keeps b s0 (s.onTb f) :=
  h.trans ⟨fun c => ⟨c.hbm, c.slab, c.ware, c.store, c.flash, c.map, c.ring⟩, rfl, Nat.le_refl _, Nat.le_refl _,
    fun ho => ⟨ho, rfl⟩, Nat.le_refl _, Nat.le_refl _, fun _ => ConesRise.refl s, hf⟩

section
variable (h : Keeps b s0 s)
include h
theorem State.onSagger_keeps {g : Nat} {f : Sagger → Sagger} : Keeps b s0 (s.onSagger g f) := h.of_same rfl rfl rfl rfl rfl rfl rfl rfl
theorem State.onWheel_keeps {g : Nat} {f : Wheel → Wheel} : Keeps b s0 (s.onWheel g f) := h.of_same rfl rfl rfl rfl rfl rfl rfl rfl
theorem State.onWare_keeps {g : Nat} {f : Ware → Ware} : Keeps b s0 (s.onWare g f) := h.of_same rfl rfl rfl rfl rfl rfl rfl rfl
theorem State.onLdu_keeps {g : Nat} {f : Ldu → Ldu} : Keeps b s0 (s.onLdu g f) := h.of_same rfl rfl rfl rfl rfl rfl rfl rfl
theorem State.onSsu_keeps {g : Nat} {f : Ssu → Ssu} : Keeps b s0 (s.onSsu g f) := h.of_same rfl rfl rfl rfl rfl rfl rfl rfl
theorem State.onTally_keeps {g : Nat} {f : Tally → Tally} : Keeps b s0 (s.onTally g f) := h.of_same rfl rfl rfl rfl rfl rfl rfl rfl
theorem State.onStack_keeps {g : Nat} {f : Stack → Stack} : Keeps b s0 (s.onStack g f) := h.of_same rfl rfl rfl rfl rfl rfl rfl rfl
theorem State.onGlaze_keeps {g : Nat} {f : Glaze → Glaze} : Keeps b s0 (s.onGlaze g f) := h.of_same rfl rfl rfl rfl rfl rfl rfl rfl
theorem State.onPort_keeps {g : Nat} {f : Port → Port} : Keeps b s0 (s.onPort g f) := h.of_same rfl rfl rfl rfl rfl rfl rfl rfl
theorem State.onLink_keeps {g : Nat} {f : Link → Link} : Keeps b s0 (s.onLink g f) := h.of_same rfl rfl rfl rfl rfl rfl rfl rfl
theorem State.onChan_keeps {g : Nat} {f : Chan → Chan} : Keeps b s0 (s.onChan g f) := h.of_same rfl rfl rfl rfl rfl rfl rfl rfl
theorem State.onSession_keeps {g : Nat} {f : Session → Session} : Keeps b s0 (s.onSession g f) := h.of_same rfl rfl rfl rfl rfl rfl rfl rfl
theorem State.onPower_keeps {f : Power → Power} : Keeps b s0 (s.onPower f) := h.of_same rfl rfl rfl rfl rfl rfl rfl rfl
theorem State.onBoot_keeps {f : Boot → Boot} : Keeps b s0 (s.onBoot f) := h.of_same rfl rfl rfl rfl rfl rfl rfl rfl
theorem State.onLat_keeps {f : Lattice → Lattice} : Keeps b s0 (s.onLat f) := h.of_same rfl rfl rfl rfl rfl rfl rfl rfl
theorem State.onLute_keeps {f : Lute → Lute} : Keeps b s0 (s.onLute f) := h.of_same rfl rfl rfl rfl rfl rfl rfl rfl
theorem State.onMgmt_keeps {f : Mgmt → Mgmt} : Keeps b s0 (s.onMgmt f) := h.of_same rfl rfl rfl rfl rfl rfl rfl rfl
theorem State.onStore_keeps {f : Store → Store} : Keeps b s0 (s.onStore f) := h.of_same rfl rfl rfl rfl rfl rfl rfl rfl
theorem State.onPoison_keeps {d : Nat} {f : List Poison → List Poison} : Keeps b s0 (s.onPoison d f) := h.of_same rfl rfl rfl rfl rfl rfl rfl rfl
theorem State.setReg_keeps {r : Reg} {u v : Nat} : Keeps b s0 (s.setReg r u v) := h.of_same rfl rfl rfl rfl rfl rfl rfl rfl
theorem State.bump_keeps {r : Reg} {u n : Nat} : Keeps b s0 (s.bump r u n) := h.of_same rfl rfl rfl rfl rfl rfl rfl rfl
theorem State.draw_keeps : Keeps b s0 s.draw.2 := h.of_draw (n := 1) rfl rfl rfl rfl rfl rfl rfl rfl
end

/-! ## Forms -/

theorem Keeps.foldl {α : Type} {f : State → α → State} {xs : List α} (hf : ∀ t x, Keeps b s0 t → Keeps b s0 (f t x))
    (h : Keeps b s0 s) : Keeps b s0 (xs.foldl f s) := by
  induction xs generalizing s with
  | nil => exact h
  | cons x xs ih => exact ih (hf s x h)

theorem Keeps.foldr {α : Type} {f : α → State → State} {xs : List α} (hf : ∀ x t, Keeps b s0 t → Keeps b s0 (f x t))
    (h : Keeps b s0 s) : Keeps b s0 (xs.foldr f s) := by
  induction xs with
  | nil => exact h
  | cons x xs ih => exact hf x _ ih

/-- A fold whose carried value holds a state. -/
theorem Keeps.foldl_of {α β : Type} {π : β → State} {f : β → α → β} {xs : List α} {y : β}
    (hf : ∀ z x, Keeps b s0 (π z) → Keeps b s0 (π (f z x))) (h : Keeps b s0 (π y)) : Keeps b s0 (π (xs.foldl f y)) := by
  induction xs generalizing y with
  | nil => exact h
  | cons x xs ih => exact ih (hf y x h)

/-- A fold whose carried value may be lost on the way. -/
theorem Keeps.foldl_opt {α β : Type} {π : β → State} {f : Option β → α → Option β} {xs : List α} {y : Option β}
    (hf : ∀ acc x, (∀ z, acc = some z → Keeps b s0 (π z)) → ∀ z, f acc x = some z → Keeps b s0 (π z))
    (h : ∀ z, y = some z → Keeps b s0 (π z)) : ∀ z, xs.foldl f y = some z → Keeps b s0 (π z) := by
  induction xs generalizing y with
  | nil => exact h
  | cons x xs ih => exact ih (hf y x h)

theorem Keeps.ite {c : Prop} [Decidable c] {x y : State} (hx : c → Keeps b s0 x) (hy : ¬ c → Keeps b s0 y) :
    Keeps b s0 (if c then x else y) := by split <;> simp_all

theorem Keeps.ite2 {α : Type} {c : Prop} [Decidable c] {x y : α × State} (hx : c → Keeps b s0 x.2) (hy : ¬ c → Keeps b s0 y.2) :
    Keeps b s0 (if c then x else y).2 := by split <;> simp_all

theorem Keeps.of_snd {α : Type} {p : α × State} {x : α} {t : State} (h : Keeps b s0 p.2) (e : p = (x, t)) : Keeps b s0 t := by
  subst e; exact h

theorem Keeps.of_third {α β : Type} {p : α × β × State} {x : α} {y : β} {t : State} (h : Keeps b s0 p.2.2) (e : p = (x, y, t)) :
    Keeps b s0 t := by
  subst e; exact h

theorem KeepsNext.ite {c : Prop} [Decidable c] {x y : Host.Outcome State Fault Refusal} (hx : c → KeepsNext b s0 x)
    (hy : ¬ c → KeepsNext b s0 y) : KeepsNext b s0 (if c then x else y) := by split <;> simp_all

theorem KeepsNext.next (h : Keeps b s0 s) : KeepsNext b s0 (.next s) := h

theorem KeepsNext.refused {r : Refusal} : KeepsNext b s0 (.refused r) := trivial

theorem State.when_keeps {c : Bool} {t : State} (h : Keeps b s0 s) (ht : c = true → Keeps b s0 t) :
    KeepsNext b s0 (s.when c t) := by
  unfold State.when
  split
  · exact ht ‹_›
  · exact h

end Sys2Proof.Machine
end

