-- ==== Sys2Proof/Laws/KeepsOps.lean ====
section
/-! SUPPORT. `Keeps` through the functions of Machine/Ops.lean. -/

namespace Sys2Proof.Machine

set_option linter.all false

theorem State.putSlab_keeps {b : Bool} {s0 s : State} {a : Nat} {bs : List Byte} (h : Keeps b s0 s) :
    Keeps b s0 (State.putSlab s a bs) :=
  State.onMem_keeps (f := fun m => m.slabWrite (slabIx a) bs)
    (fun _ hm => ⟨hm.1, Memory.wf_mwrite _ _ hm.2.1, hm.2.2⟩) h

theorem State.putSlabNum_keeps {kb : Bool} {r0 s : State} {a : Nat} {n : Nat} {v : Nat} (hk : Keeps kb r0 s) :
    Keeps kb r0 (State.putSlabNum s a n v) := by
  unfold State.putSlabNum
  repeat' with_reducible first | assumption | refine State.putSlab_keeps ?_

theorem State.putHbm_keeps {b : Bool} {s0 s : State} {a : Nat} {bs : List Byte} (h : Keeps b s0 s) :
    Keeps b s0 (State.putHbm s a bs) := State.onHbm_keeps (fun _ hm => Memory.wf_mwrite _ _ hm) h

theorem State.putHbmNum_keeps {b : Bool} {s0 s : State} {a n v : Nat} (h : Keeps b s0 s) :
    Keeps b s0 (State.putHbmNum s a n v) := State.onHbm_keeps (fun _ hm => Memory.wf_mputNum _ _ _ hm) h

theorem State.putHbmField_keeps {b : Bool} {s0 s : State} {a lo w v : Nat} (h : Keeps b s0 s) :
    Keeps b s0 (State.putHbmField s a lo w v) := State.onHbm_keeps (fun _ hm => Memory.wf_msetField _ _ _ _ hm) h

theorem State.zeroHbm_keeps {b : Bool} {s0 s : State} {a n : Nat} (h : Keeps b s0 s) :
    Keeps b s0 (State.zeroHbm s a n) := State.onHbm_keeps (fun _ hm => Memory.wf_mclear _ _ hm) h

theorem State.touch_keeps {kb : Bool} {r0 s : State} {g : Nat} (hk : Keeps kb r0 s) :
    Keeps kb r0 (State.touch s g) := by
  unfold State.touch
  repeat' with_reducible first | assumption | refine State.onSagger_keeps ?_ | refine Keeps.mk_same ?_

theorem State.startReset_keeps {kb : Bool} {r0 s : State} {g : Nat} {code : BitVec 16} (hk : Keeps kb r0 s) :
    Keeps kb r0 (State.startReset s g code) := by
  unfold State.startReset
  repeat' with_reducible first
    | assumption | refine State.onSagger_keeps ?_ | refine Keeps.ite (fun _ => ?_) fun _ => ?_
    | refine Keeps.mk_same ?_

theorem State.contain_keeps {kb : Bool} {r0 s : State} {r : FaultRec} (hk : Keeps kb r0 s) :
    Keeps kb r0 (State.contain s r) := by
  unfold State.contain
  repeat' with_reducible first
    | assumption | refine State.onLute_keeps ?_ | refine State.startReset_keeps ?_ | split
    | refine Keeps.mk_same ?_

theorem State.raise_keeps {b : Bool} {s0 s : State} {r : FaultRec} (h : Keeps b s0 s) :
    Keeps b s0 (State.raise s r) := State.contain_keeps (State.onFlog_keeps (fun _ hx => hx) h)

theorem State.fault_keeps {kb : Bool} {r0 s : State} {cls : Nat} {block : Nat} {detail : Nat} {g : Nat} {unit : Nat}
    {sub : Nat} (hk : Keeps kb r0 s) :
    Keeps kb r0 (State.fault s cls block detail g unit sub) := by
  unfold State.fault
  repeat' with_reducible first | assumption | refine State.raise_keeps ?_

theorem State.faultReq_keeps {kb : Bool} {r0 s : State} {block : Nat} {detail : Nat} {g : Nat} {unit : Nat} {q :
    ReqName} (hk : Keeps kb r0 s) :
    Keeps kb r0 (State.faultReq s block detail g unit q) := by
  unfold State.faultReq
  repeat' with_reducible first | assumption | refine State.raise_keeps ?_

theorem State.faultRec_keeps {kb : Bool} {r0 s : State} {cls : Nat} {block : Nat} {detail : Nat} {g : Nat} {unit :
    Nat} {sub : Nat} {addr : Nat} {bytes : List Byte} (hk : Keeps kb r0 s) :
    Keeps kb r0 (State.faultRec s cls block detail g unit sub addr bytes) := by
  unfold State.faultRec
  repeat' with_reducible first | assumption | refine State.raise_keeps ?_

theorem State.raiseLimited_keeps {b : Bool} {s0 s : State} {gap sub : Nat} {r : FaultRec} (h : Keeps b s0 s) :
    Keeps b s0 (State.raiseLimited s gap sub r) :=
  Keeps.ite (fun _ => State.onFlog_keeps (fun _ hx => hx) h) fun _ => State.raise_keeps (State.onFlog_keeps (fun _ hx => hx) h)

theorem State.onSlot_keeps {kb : Bool} {r0 s : State} {g : Nat} {slot : Nat} {f : Req → Req} (hk : Keeps kb r0 s) :
    Keeps kb r0 (State.onSlot s g slot f) := by
  unfold State.onSlot
  repeat' with_reducible first
    | assumption | refine State.onSagger_keeps ?_ | refine Keeps.ite (fun _ => ?_) fun _ => ?_
    | refine Keeps.mk_same ?_

theorem State.failSlot_keeps {kb : Bool} {r0 s : State} {block : Nat} {detail : Nat} {g : Nat} {unit : Nat} {slot :
    Nat} (hk : Keeps kb r0 s) :
    Keeps kb r0 (State.failSlot s block detail g unit slot) := by
  unfold State.failSlot
  repeat' with_reducible first
    | assumption | refine State.faultReq_keeps ?_ | refine State.onSlot_keeps ?_ | split | refine Keeps.mk_same ?_

theorem State.haltList_keeps {kb : Bool} {r0 s : State} {g : Nat} (hk : Keeps kb r0 s) :
    Keeps kb r0 (State.haltList s g) := by
  unfold State.haltList
  repeat' with_reducible first | assumption | refine State.onSagger_keeps ?_ | refine Keeps.mk_same ?_

end Sys2Proof.Machine
end

