-- ==== Sys2Proof/Laws/KeepsRemote.lean ====
section
/-! SUPPORT. `Keeps` through the functions of Machine/Remote.lean. -/

namespace Sys2Proof.Machine

set_option linter.all false

theorem State.sendLute_keeps {kb : Bool} {r0 s : State} {m : LuteMsg} (hk : Keeps kb r0 s) :
    Keeps kb r0 (State.sendLute s m) := by
  unfold State.sendLute
  repeat' with_reducible first | assumption | refine State.onLute_keeps ?_ | refine Keeps.mk_same ?_

theorem State.askRemote_keeps {kb : Bool} {r0 s : State} {g : Nat} {a : Nat} {n : Nat} {use : LuteUse} (hk : Keeps
    kb r0 s) :
    Keeps kb r0 (State.askRemote s g a n use) := by
  unfold State.askRemote
  repeat' with_reducible first
    | assumption | extract_lets | refine State.onLute_keeps ?_ | refine State.bump_keeps ?_
    | refine State.sendLute_keeps ?_ | dsimp +zetaDelta only | refine Keeps.mk_same ?_

theorem State.writeRemote_keeps {kb : Bool} {r0 s : State} {g : Nat} {a : Nat} {data : List Byte} (hk : Keeps kb r0
    s) :
    Keeps kb r0 (State.writeRemote s g a data) := by
  unfold State.writeRemote
  repeat' with_reducible first | assumption | refine State.bump_keeps ?_ | refine State.sendLute_keeps ?_

theorem State.atomicRemote_keeps {kb : Bool} {r0 s : State} {g : Nat} {a : Nat} {r : Nat} (hk : Keeps kb r0 s) :
    Keeps kb r0 (State.atomicRemote s g a r) := by
  unfold State.atomicRemote
  repeat' with_reducible first
    | assumption | extract_lets | refine State.onLute_keeps ?_ | refine State.bump_keeps ?_
    | refine State.sendLute_keeps ?_ | refine Keeps.ite (fun _ => ?_) fun _ => ?_ | dsimp +zetaDelta only
    | refine Keeps.mk_same ?_

end Sys2Proof.Machine
end

