-- ==== Sys2Proof/Laws/KeepsTally.lean ====
section
/-! SUPPORT. `Keeps` through the functions of Machine/Tally.lean. -/

namespace Sys2Proof.Machine

set_option linter.all false

theorem State.tallyFault_keeps {kb : Bool} {r0 s : State} {k : Nat} {detail : Nat} {by_ : Nat} (hk : Keeps kb r0 s) :
    Keeps kb r0 (State.tallyFault s k detail by_) := by
  unfold State.tallyFault
  repeat' with_reducible first | assumption | refine State.fault_keeps ?_ | refine Keeps.ite (fun _ => ?_) fun _ => ?_

theorem State.tallyTouch_keeps {kb : Bool} {r0 s : State} {k : Nat} (hk : Keeps kb r0 s) :
    Keeps kb r0 (State.tallyTouch s k) := by
  unfold State.tallyTouch
  repeat' with_reducible first
    | assumption | refine State.touch_keeps ?_ | refine Keeps.ite (fun _ => ?_) fun _ => ?_
    | refine Keeps.mk_same ?_

theorem State.applySignal_keeps {kb : Bool} {r0 s : State} {k : Nat} {n : Nat} {agent : BitVec 13} (hk : Keeps kb r0
    s) :
    Keeps kb r0 (State.applySignal s k n agent) := by
  unfold State.applySignal
  repeat' with_reducible first
    | assumption | extract_lets | refine State.onTally_keeps ?_ | refine State.tallyFault_keeps ?_
    | refine State.tallyTouch_keeps ?_ | refine Keeps.ite (fun _ => ?_) fun _ => ?_ | dsimp +zetaDelta only
    | refine Keeps.mk_same ?_

theorem State.sendTally_keeps {kb : Bool} {r0 s : State} {k : Nat} {op : Nat} {flag : Nat} {agent : BitVec 13} {n :
    Nat} {target : Nat} (hk : Keeps kb r0 s) :
    Keeps kb r0 (State.sendTally s k op flag agent n target) := by
  unfold State.sendTally
  repeat' with_reducible first | assumption | refine State.sendLute_keeps ?_

theorem State.deliverSignal_keeps {kb : Bool} {r0 s : State} {k : Nat} {n : Nat} {agent : BitVec 13} (hk : Keeps kb
    r0 s) :
    Keeps kb r0 (State.deliverSignal s k n agent) := by
  unfold State.deliverSignal
  repeat' with_reducible first
    | assumption | refine State.tallyTouch_keeps ?_ | refine State.applySignal_keeps ?_
    | refine State.sendTally_keeps ?_ | refine Keeps.ite (fun _ => ?_) fun _ => ?_

theorem State.signalTally_keeps {kb : Bool} {r0 s : State} {k : Nat} {n : Nat} {agent : BitVec 13} {by_ : Nat} (hk :
    Keeps kb r0 s) :
    Keeps kb r0 (State.signalTally s k n agent by_) := by
  unfold State.signalTally
  repeat' with_reducible first
    | assumption | refine State.tallyFault_keeps ?_ | refine State.deliverSignal_keeps ?_
    | refine Keeps.ite (fun _ => ?_) fun _ => ?_

theorem State.consumeTally_keeps {kb : Bool} {r0 s : State} {k : Nat} {target : BitVec 48} {agent : BitVec 13} (hk :
    Keeps kb r0 s) :
    Keeps kb r0 (State.consumeTally s k target agent) := by
  unfold State.consumeTally
  repeat' with_reducible first
    | assumption | refine State.onTally_keeps ?_ | refine State.sendTally_keeps ?_
    | refine Keeps.ite (fun _ => ?_) fun _ => ?_ | refine Keeps.mk_same ?_

theorem State.advance_keeps {kb : Bool} {r0 s : State} {g : Nat} {i : Nat} {agent : BitVec 13} (hk : Keeps kb r0 s) :
    Keeps kb r0 (State.advance s g i agent) := by
  unfold State.advance
  repeat' with_reducible first | assumption | refine State.signalTally_keeps ?_

theorem State.zeroTallies_keeps {kb : Bool} {r0 s : State} {g : Nat} (hk : Keeps kb r0 s) :
    Keeps kb r0 (State.zeroTallies s g) := by
  unfold State.zeroTallies
  repeat' with_reducible first | assumption | refine Keeps.ite (fun _ => ?_) fun _ => ?_ | refine Keeps.mk_same ?_

theorem State.sendMirror_keeps {kb : Bool} {r0 s : State} {k : Nat} (hk : Keeps kb r0 s) :
    Keeps kb r0 (State.sendMirror s k) := by
  unfold State.sendMirror
  repeat' with_reducible first
    | assumption | extract_lets | refine State.onLute_keeps ?_ | refine State.sendLute_keeps ?_
    | refine Keeps.ite (fun _ => ?_) fun _ => ?_ | dsimp +zetaDelta only | refine Keeps.mk_same ?_

theorem State.syncMirrors_keeps {kb : Bool} {r0 s : State}  (hk : Keeps kb r0 s) :
    Keeps kb r0 (State.syncMirrors s) := by
  unfold State.syncMirrors
  repeat' with_reducible first
    | assumption | refine State.sendMirror_keeps ?_ | refine Keeps.foldl (fun _ _ _ => ?_) ?_
    | refine Keeps.mk_same ?_

theorem State.configTally_keeps {kb : Bool} {r0 s : State} {k : Nat} {cfg : BitVec 64} (hk : Keeps kb r0 s) :
    Keeps kb r0 (State.configTally s k cfg) := by
  unfold State.configTally
  repeat' with_reducible first
    | assumption | extract_lets | refine State.onTally_keeps ?_ | refine State.tallyFault_keeps ?_
    | refine Keeps.ite (fun _ => ?_) fun _ => ?_ | dsimp +zetaDelta only | refine Keeps.mk_same ?_

theorem execTallyConfig_keeps {kb : Bool} {r0 s : State} {t : TallyId} {cfg : BitVec 64} (hk : Keeps kb r0 s) :
    KeepsNext kb r0 (execTallyConfig t cfg s) := by
  unfold execTallyConfig
  repeat' with_reducible first
    | assumption | refine State.configTally_keeps ?_ | refine KeepsNext.next ?_ | exact KeepsNext.refused

theorem execSignal_keeps {kb : Bool} {r0 s : State} {t : TallyId} {n : BitVec 16} {blocking : Bool} {agent : BitVec
    13} {by_ : BitVec 4} (hk : Keeps kb r0 s) :
    KeepsNext kb r0 (execSignal t n blocking agent by_ s) := by
  unfold execSignal
  repeat' with_reducible first
    | assumption | refine State.onTally_keeps ?_ | refine State.signalTally_keeps ?_ | refine KeepsNext.next ?_
    | exact KeepsNext.refused | refine KeepsNext.ite (fun _ => ?_) fun _ => ?_
    | refine Keeps.ite (fun _ => ?_) fun _ => ?_ | refine Keeps.mk_same ?_

theorem execSignalUnblock_keeps {kb : Bool} {r0 s : State} {t : TallyId} (hk : Keeps kb r0 s) :
    KeepsNext kb r0 (execSignalUnblock t s) := by
  unfold execSignalUnblock
  repeat' with_reducible first
    | assumption | refine State.onTally_keeps ?_ | refine State.deliverSignal_keeps ?_ | refine KeepsNext.next ?_
    | exact KeepsNext.refused | split | refine Keeps.mk_same ?_

theorem execRelease_keeps {kb : Bool} {r0 s : State} {t : TallyId} {n : BitVec 16} {agent : BitVec 13} {by_ : BitVec
    4} (hk : Keeps kb r0 s) :
    KeepsNext kb r0 (execRelease t n agent by_ s) := by
  unfold execRelease
  repeat' with_reducible first
    | assumption | extract_lets | refine State.onTally_keeps ?_ | refine State.tallyFault_keeps ?_
    | refine State.tallyTouch_keeps ?_ | refine State.sendTally_keeps ?_ | refine KeepsNext.next ?_
    | exact KeepsNext.refused | refine KeepsNext.ite (fun _ => ?_) fun _ => ?_
    | refine Keeps.ite (fun _ => ?_) fun _ => ?_ | dsimp +zetaDelta only | refine Keeps.mk_same ?_

theorem execWait_keeps {kb : Bool} {r0 s : State} {t : TallyId} {target : BitVec 48} {consume : Bool} {agent :
    BitVec 13} {by_ : BitVec 4} (hk : Keeps kb r0 s) :
    KeepsNext kb r0 (execWait t target consume agent by_ s) := by
  unfold execWait
  repeat' with_reducible first
    | assumption | refine State.onTally_keeps ?_ | refine State.tallyFault_keeps ?_
    | refine State.sendTally_keeps ?_ | refine State.consume_keeps ?_ | refine KeepsNext.next ?_
    | exact KeepsNext.refused | refine KeepsNext.ite (fun _ => ?_) fun _ => ?_
    | refine Keeps.ite (fun _ => ?_) fun _ => ?_ | refine Keeps.mk_same ?_

theorem execRead_keeps {kb : Bool} {r0 s : State} {t : TallyId} {d : DieIx} (hk : Keeps kb r0 s) :
    KeepsNext kb r0 (execRead t d s) := by
  unfold execRead
  repeat' with_reducible first
    | assumption | refine KeepsNext.next ?_ | exact KeepsNext.refused | refine Keeps.mk_same ?_

theorem execTallyShadowWrite_keeps {kb : Bool} {r0 s : State} {t : TallyId} (hk : Keeps kb r0 s) :
    KeepsNext kb r0 (execTallyShadowWrite t s) := by
  unfold execTallyShadowWrite
  repeat' with_reducible first
    | assumption | extract_lets | refine State.onTally_keeps ?_ | refine State.bump_keeps ?_
    | refine State.putHbmNum_keeps ?_ | refine State.when_keeps ?_ fun _ => ?_ | refine KeepsNext.next ?_
    | exact KeepsNext.refused | dsimp +zetaDelta only | refine Keeps.mk_same ?_

theorem State.writeSnap_keeps {kb : Bool} {r0 s : State} {g : Nat} {es : List SnapEntry} (hk : Keeps kb r0 s) :
    Keeps kb r0 (State.writeSnap s g es) := by
  unfold State.writeSnap
  repeat' with_reducible first
    | assumption | extract_lets | refine Keeps.ite (fun _ => ?_) fun _ => ?_ | dsimp +zetaDelta only
    | refine Keeps.mk_same ?_ | refine Keeps.mk_draw ?_

end Sys2Proof.Machine
end

