-- ==== Sys2Proof/Laws/KeepsPacket.lean ====
section
/-! SUPPORT. `Keeps` through the functions of Machine/Packet.lean. -/

namespace Sys2Proof.Machine

set_option linter.all false

theorem State.queueOn_keeps {kb : Bool} {r0 s : State} {port : Nat} {p : Packet} {forwarded : Bool} (hk : Keeps kb
    r0 s) :
    Keeps kb r0 (State.queueOn s port p forwarded) := by
  unfold State.queueOn
  repeat' with_reducible first
    | assumption | extract_lets | refine State.onPort_keeps ?_ | refine State.bump_keeps ?_
    | refine Keeps.ite (fun _ => ?_) fun _ => ?_ | dsimp +zetaDelta only | refine Keeps.mk_same ?_

theorem State.forward_keeps {kb : Bool} {r0 s : State} {input : Option Nat} {p : Packet} (hk : Keeps kb r0 s) :
    Keeps kb r0 (State.forward s input p) := by
  unfold State.forward
  repeat' with_reducible first
    | assumption | refine State.onLat_keeps ?_ | refine State.bump_keeps ?_ | refine State.queueOn_keeps ?_
    | refine Keeps.ite (fun _ => ?_) fun _ => ?_ | split | refine Keeps.mk_same ?_

theorem State.routePacket_keeps {kb : Bool} {r0 s : State} {input : Option Nat} {p : Packet} (hk : Keeps kb r0 s) :
    Keeps kb r0 (State.routePacket s input p) := by
  unfold State.routePacket
  repeat' with_reducible first
    | assumption | extract_lets | refine State.forward_keeps ?_ | refine Keeps.ite (fun _ => ?_) fun _ => ?_
    | dsimp +zetaDelta only

theorem State.sendPacket_keeps {kb : Bool} {r0 s : State} {p : Packet} (hk : Keeps kb r0 s) :
    Keeps kb r0 (State.sendPacket s p) := by
  unfold State.sendPacket
  repeat' with_reducible first | assumption | refine State.routePacket_keeps ?_

theorem State.takePacket_keeps {kb : Bool} {r0 s t : State} {type : Nat} {p : Packet} (h : Keeps kb r0 s)
    (e : s.takePacket type = some (p, t)) : Keeps kb r0 t := by
  unfold State.takePacket at e
  rw [Option.map_eq_some_iff] at e
  obtain ⟨_, _, e⟩ := e
  cases e
  exact State.onLat_keeps h

end Sys2Proof.Machine
end

