-- ==== Sys2Proof/Laws/KeepsPoison.lean ====
section
/-! SUPPORT. `Keeps` through the functions of Machine/Poison.lean. -/

namespace Sys2Proof.Machine

set_option linter.all false

theorem State.damageChunk_keeps {kb : Bool} {r0 s : State} {a : Nat} (hk : Keeps kb r0 s) :
    Keeps kb r0 (State.damageChunk s a) := by
  unfold State.damageChunk
  repeat' with_reducible first
    | assumption | refine State.onSagger_keeps ?_ | refine State.raise_keeps ?_
    | refine Keeps.foldl (fun _ _ _ => ?_) ?_ | refine Keeps.ite (fun _ => ?_) fun _ => ?_
    | refine Keeps.mk_same ?_

theorem State.askChunk_keeps {kb : Bool} {r0 s : State} {a : Nat} {sources : List Nat} (hk : Keeps kb r0 s) :
    Keeps kb r0 (State.askChunk s a sources) := by
  unfold State.askChunk
  repeat' with_reducible first
    | assumption | extract_lets | refine State.onLat_keeps ?_ | refine State.sendPacket_keeps ?_
    | refine Keeps.ite (fun _ => ?_) fun _ => ?_ | split | dsimp +zetaDelta only | refine Keeps.mk_same ?_

theorem State.onChunk_keeps {kb : Bool} {r0 s : State} {a : Nat} {f : Poison → Poison} (hk : Keeps kb r0 s) :
    Keeps kb r0 (State.onChunk s a f) := by
  unfold State.onChunk
  repeat' with_reducible first
    | assumption | refine State.onPoison_keeps ?_ | refine Keeps.ite (fun _ => ?_) fun _ => ?_

theorem State.dropReload_keeps {kb : Bool} {r0 s : State} {a : Nat} (hk : Keeps kb r0 s) :
    Keeps kb r0 (State.dropReload s a) := by
  unfold State.dropReload
  repeat' with_reducible first | assumption | refine State.onLat_keeps ?_ | refine Keeps.mk_same ?_

theorem State.nextSource_keeps {kb : Bool} {r0 s : State} {a : Nat} (hk : Keeps kb r0 s) :
    Keeps kb r0 (State.nextSource s a) := by
  unfold State.nextSource
  repeat' with_reducible first
    | assumption | extract_lets | refine State.bump_keeps ?_ | refine State.damageChunk_keeps ?_
    | refine State.askChunk_keeps ?_ | refine State.onChunk_keeps ?_ | refine State.dropReload_keeps ?_
    | refine Keeps.ite (fun _ => ?_) fun _ => ?_ | split | dsimp +zetaDelta only | refine Keeps.mk_same ?_

theorem State.poisonChunk_keeps {kb : Bool} {r0 s : State} {a : Nat} (hk : Keeps kb r0 s) :
    Keeps kb r0 (State.poisonChunk s a) := by
  unfold State.poisonChunk
  repeat' with_reducible first
    | assumption | extract_lets | refine State.onPoison_keeps ?_ | refine State.raise_keeps ?_
    | refine State.damageChunk_keeps ?_ | refine State.askChunk_keeps ?_
    | refine Keeps.ite (fun _ => ?_) fun _ => ?_ | split | dsimp +zetaDelta only | refine Keeps.mk_same ?_

end Sys2Proof.Machine
end

