-- ==== Sys2Proof/Laws/KeepsPower.lean ====
section
/-! SUPPORT. `Keeps` through the functions of Machine/Power.lean. -/

namespace Sys2Proof.Machine

set_option linter.all false

theorem execReplicaCountWindow_keeps {kb : Bool} {r0 s : State} {n0 : Nat} {n1 : Nat} (hk : Keeps kb r0 s) :
    KeepsNext kb r0 (execReplicaCountWindow n0 n1 s) := by
  unfold execReplicaCountWindow
  repeat' with_reducible first
    | assumption | refine State.onPower_keeps ?_ | refine State.when_keeps ?_ fun _ => ?_
    | refine KeepsNext.next ?_ | exact KeepsNext.refused | refine Keeps.mk_same ?_

theorem execBeatFactorUpdate_keeps {kb : Bool} {r0 s : State}  (hk : Keeps kb r0 s) :
    KeepsNext kb r0 (execBeatFactorUpdate s) := by
  exact State.when_keeps hk fun _ => hk.of_draw (n := 1) rfl rfl rfl rfl rfl rfl rfl rfl

theorem State.throttleEntry_keeps {kb : Bool} {r0 s : State} {high : Bool} (hk : Keeps kb r0 s) :
    Keeps kb r0 (State.throttleEntry s high) := by
  unfold State.throttleEntry
  repeat' with_reducible first
    | assumption | refine State.onPower_keeps ?_ | refine State.bump_keeps ?_ | refine State.fault_keeps ?_
    | refine Keeps.ite (fun _ => ?_) fun _ => ?_ | refine Keeps.mk_same ?_

theorem execVoltageSelect_keeps {kb : Bool} {r0 s : State} {power : Nat} {tj0 : Int} {tj1 : Int} {hi0 : Nat} {hi1 :
    Nat} (hk : Keeps kb r0 s) :
    KeepsNext kb r0 (execVoltageSelect power tj0 tj1 hi0 hi1 s) := by
  unfold execVoltageSelect
  repeat' with_reducible first
    | assumption | refine State.onPower_keeps ?_ | refine State.throttleEntry_keeps ?_
    | refine State.when_keeps ?_ fun _ => ?_ | refine KeepsNext.next ?_ | exact KeepsNext.refused
    | refine Keeps.mk_same ?_

theorem execThrottleTick_keeps {kb : Bool} {r0 s : State} {power : Nat} {tj0 : Int} {tj1 : Int} (hk : Keeps kb r0 s) :
    KeepsNext kb r0 (execThrottleTick power tj0 tj1 s) := by
  unfold execThrottleTick
  repeat' with_reducible first
    | assumption | extract_lets | refine State.onPower_keeps ?_ | refine State.throttleEntry_keeps ?_
    | refine State.when_keeps ?_ fun _ => ?_ | refine KeepsNext.next ?_ | exact KeepsNext.refused | split
    | dsimp +zetaDelta only | refine Keeps.mk_same ?_

end Sys2Proof.Machine
end

