-- ==== Sys2Proof/Laws/KeepsWheel.lean ====
section
/-! SUPPORT. `Keeps` through the functions of Machine/Wheel.lean. -/

namespace Sys2Proof.Machine

set_option linter.all false

theorem State.onBuf_keeps {kb : Bool} {r0 s : State} {w : Nat} {b : Nat} {f : Buf → Buf} (hk : Keeps kb r0 s) :
    Keeps kb r0 (State.onBuf s w b f) := by
  unfold State.onBuf
  repeat' with_reducible first | assumption | refine State.onWheel_keeps ?_

theorem State.awaitEntry_keeps {kb : Bool} {r0 s : State} {w : Nat} (hk : Keeps kb r0 s) :
    Keeps kb r0 (State.awaitEntry s w) := by
  unfold State.awaitEntry
  repeat' with_reducible first
    | assumption | refine State.onSagger_keeps ?_ | refine Keeps.ite (fun _ => ?_) fun _ => ?_ | split
    | refine Keeps.mk_same ?_

theorem State.pushEntry_keeps {kb : Bool} {r0 s : State} {g : Nat} {e : BitVec 256} (hk : Keeps kb r0 s) :
    Keeps kb r0 (State.pushEntry s g e) := by
  unfold State.pushEntry
  repeat' with_reducible first
    | assumption | refine State.onSagger_keeps ?_ | refine State.bump_keeps ?_ | refine State.putHbmNum_keeps ?_
    | refine Keeps.mk_same ?_

theorem State.listWrite_keeps {kb : Bool} {r0 s : State} {g : Nat} {e : BitVec 256} (hk : Keeps kb r0 s) :
    Keeps kb r0 (State.listWrite s g e) := by
  unfold State.listWrite
  repeat' with_reducible first
    | assumption | refine State.onSagger_keeps ?_ | refine State.pushEntry_keeps ?_
    | refine Keeps.ite (fun _ => ?_) fun _ => ?_ | refine Keeps.mk_same ?_

theorem State.popEntry_keeps {kb : Bool} {r0 s : State} {g : Nat} (hk : Keeps kb r0 s) :
    Keeps kb r0 (State.popEntry s g) := by
  unfold State.popEntry
  have h1 : Keeps kb r0 ((s.bump .hbmRdBytes (stackOfAddr (s.listAddr g (s.sagger g).list.cons)) 32).onSagger g fun x =>
      { x with list := { x.list with cons := x.list.cons + 1 } }) := State.onSagger_keeps (State.bump_keeps hk)
  generalize (s.bump .hbmRdBytes (stackOfAddr (s.listAddr g (s.sagger g).list.cons)) 32).onSagger g _ = u at h1 ⊢
  dsimp only
  split
  · exact h1
  · exact State.pushEntry_keeps (State.onSagger_keeps h1)

theorem State.rejectEntry_keeps {kb : Bool} {r0 s : State} {g : Nat} {w : Nat} {b : Nat} {detail : Nat} {raw : Nat}
    (hk : Keeps kb r0 s) :
    Keeps kb r0 (State.rejectEntry s g w b detail raw) := by
  unfold State.rejectEntry
  repeat' with_reducible first | assumption | refine State.faultRec_keeps ?_ | refine State.haltList_keeps ?_

theorem State.takeEntry_keeps {kb : Bool} {r0 s : State} {g : Nat} {w : Nat} {b : Nat} {raw : Nat} (hk : Keeps kb r0
    s) :
    Keeps kb r0 (State.takeEntry s g w b raw) := by
  unfold State.takeEntry
  dsimp only
  repeat' with_reducible first
    | assumption | refine State.onSagger_keeps ?_ | refine State.onWheel_keeps ?_ | refine State.touch_keeps ?_
    | refine State.onBuf_keeps ?_ | refine State.awaitEntry_keeps ?_ | refine State.popEntry_keeps ?_
    | refine State.rejectEntry_keeps ?_ | refine Keeps.ite (fun _ => ?_) fun _ => ?_ | split
    | refine Keeps.mk_same ?_

theorem execEntryTake_keeps {kb : Bool} {r0 s : State} {g : SaggerIx} (hk : Keeps kb r0 s) :
    KeepsNext kb r0 (execEntryTake g s) := by
  unfold execEntryTake
  repeat' with_reducible first
    | assumption | extract_lets | refine State.touch_keeps ?_ | refine State.popEntry_keeps ?_
    | refine State.takeEntry_keeps ?_ | refine KeepsNext.next ?_ | exact KeepsNext.refused
    | refine KeepsNext.ite (fun _ => ?_) fun _ => ?_ | refine Keeps.ite (fun _ => ?_) fun _ => ?_ | split
    | dsimp +zetaDelta only | refine Keeps.mk_same ?_

theorem execFencePass_keeps {kb : Bool} {r0 s : State} {g : SaggerIx} (hk : Keeps kb r0 s) :
    KeepsNext kb r0 (execFencePass g s) := by
  unfold execFencePass
  repeat' with_reducible first
    | assumption | extract_lets | refine State.touch_keeps ?_ | refine State.faultRec_keeps ?_
    | refine State.haltList_keeps ?_ | refine State.tallyFault_keeps ?_ | refine State.consumeTally_keeps ?_
    | refine State.popEntry_keeps ?_ | refine KeepsNext.next ?_ | exact KeepsNext.refused
    | refine KeepsNext.ite (fun _ => ?_) fun _ => ?_ | refine Keeps.ite (fun _ => ?_) fun _ => ?_
    | dsimp +zetaDelta only

theorem execListWrite_keeps {kb : Bool} {r0 s : State} {g : SaggerIx} {entry : BitVec 256} (hk : Keeps kb r0 s) :
    KeepsNext kb r0 (execListWrite g entry s) := by
  unfold execListWrite
  repeat' with_reducible first
    | assumption | refine State.listWrite_keeps ?_ | refine State.when_keeps ?_ fun _ => ?_
    | refine KeepsNext.next ?_ | exact KeepsNext.refused

theorem State.poisonBuf_keeps {kb : Bool} {r0 s : State} {g : Nat} {w : Nat} {b : Nat} (hk : Keeps kb r0 s) :
    Keeps kb r0 (State.poisonBuf s g w b) := by
  unfold State.poisonBuf
  repeat' with_reducible first
    | assumption | extract_lets | refine State.onWheel_keeps ?_ | refine State.failSlot_keeps ?_
    | refine State.onBuf_keeps ?_ | refine Keeps.foldl (fun _ _ _ => ?_) ?_
    | refine Keeps.ite (fun _ => ?_) fun _ => ?_ | dsimp +zetaDelta only | refine Keeps.mk_same ?_

theorem State.dropBadTokens_keeps {kb : Bool} {r0 s : State} {g : Nat} {w : Nat} {l : LayerInfo} {toks : List
    (BitVec 32 × BitVec 16)} (hk : Keeps kb r0 s) :
    Keeps kb r0 (State.dropBadTokens s g w l toks) := by
  unfold State.dropBadTokens
  repeat' with_reducible first
    | assumption | refine State.onWheel_keeps ?_ | refine State.bump_keeps ?_ | refine State.failSlot_keeps ?_
    | refine Keeps.foldl (fun _ _ _ => ?_) ?_ | refine Keeps.ite (fun _ => ?_) fun _ => ?_ | split
    | refine Keeps.mk_same ?_

theorem State.fillBuf_keeps {kb : Bool} {r0 s : State} {g : Nat} {w : Nat} {b : Nat} {bytes : List Byte} (hk : Keeps
    kb r0 s) :
    Keeps kb r0 (State.fillBuf s g w b bytes) := by
  unfold State.fillBuf
  repeat' with_reducible first
    | assumption | extract_lets | refine State.bump_keeps ?_ | refine State.onBuf_keeps ?_
    | refine State.dropBadTokens_keeps ?_ | refine Keeps.ite (fun _ => ?_) fun _ => ?_ | dsimp +zetaDelta only
    | refine Keeps.mk_same ?_

theorem State.dropBuf_keeps {kb : Bool} {r0 s : State} {g : Nat} {w : Nat} {b : Nat} (hk : Keeps kb r0 s) :
    Keeps kb r0 (State.dropBuf s g w b) := by
  unfold State.dropBuf
  repeat' with_reducible first
    | assumption | extract_lets | refine State.onSagger_keeps ?_ | refine State.onWheel_keeps ?_
    | refine State.onBuf_keeps ?_ | refine State.awaitEntry_keeps ?_ | dsimp +zetaDelta only
    | refine Keeps.mk_same ?_

theorem State.poisonTile_keeps {kb : Bool} {r0 s : State} {e : Entry} (hk : Keeps kb r0 s) :
    Keeps kb r0 (State.poisonTile s e) := by
  unfold State.poisonTile
  repeat' with_reducible first
    | assumption | refine State.poisonChunk_keeps ?_ | refine Keeps.foldl (fun _ _ _ => ?_) ?_ | split
    | refine Keeps.mk_same ?_

theorem execTileFillDone_keeps {kb : Bool} {r0 s : State} {w : WheelIx} {b : BufIx} (hk : Keeps kb r0 s) :
    KeepsNext kb r0 (execTileFillDone w b s) := by
  unfold execTileFillDone
  repeat' with_reducible first
    | assumption | extract_lets | refine State.bump_keeps ?_ | refine State.fault_keeps ?_
    | refine State.rejectEntry_keeps ?_ | refine State.poisonBuf_keeps ?_ | refine State.fillBuf_keeps ?_
    | refine State.dropBuf_keeps ?_ | refine State.poisonTile_keeps ?_ | refine KeepsNext.next ?_
    | exact KeepsNext.refused | refine KeepsNext.ite (fun _ => ?_) fun _ => ?_
    | refine Keeps.ite (fun _ => ?_) fun _ => ?_ | split | dsimp +zetaDelta only | refine Keeps.mk_same ?_

theorem execLaneTakeJob_keeps {kb : Bool} {r0 s : State} {w : WheelIx} {lane : LaneIx} (hk : Keeps kb r0 s) :
    KeepsNext kb r0 (execLaneTakeJob w lane s) := by
  unfold execLaneTakeJob
  repeat' with_reducible first
    | assumption | extract_lets | refine State.onWheel_keeps ?_ | refine State.touch_keeps ?_
    | refine State.onBuf_keeps ?_ | refine State.when_keeps ?_ fun _ => ?_ | refine KeepsNext.next ?_
    | exact KeepsNext.refused | split | dsimp +zetaDelta only | refine Keeps.mk_same ?_

theorem execSlotCancelWheel_keeps {kb : Bool} {r0 s : State} {w : WheelIx} {slot : BitVec 16} (hk : Keeps kb r0 s) :
    KeepsNext kb r0 (execSlotCancelWheel w slot s) := by
  unfold execSlotCancelWheel
  repeat' with_reducible first
    | assumption | extract_lets | refine State.onWheel_keeps ?_ | refine State.bump_keeps ?_
    | refine KeepsNext.next ?_ | exact KeepsNext.refused | dsimp +zetaDelta only

theorem execWheelHang_keeps {kb : Bool} {r0 s : State} {w : WheelIx} (hk : Keeps kb r0 s) :
    KeepsNext kb r0 (execWheelHang w s) := by
  unfold execWheelHang
  repeat' with_reducible first
    | assumption | extract_lets | refine State.onWheel_keeps ?_ | refine State.fault_keeps ?_
    | refine State.when_keeps ?_ fun _ => ?_ | refine KeepsNext.next ?_ | exact KeepsNext.refused
    | refine KeepsNext.ite (fun _ => ?_) fun _ => ?_ | refine Keeps.ite (fun _ => ?_) fun _ => ?_
    | dsimp +zetaDelta only | refine Keeps.mk_same ?_

end Sys2Proof.Machine
end

