-- ==== Sys2Proof/Laws/KeepsAccum.lean ====
section
/-! SUPPORT. `Keeps` through the functions of Machine/Accum.lean. -/

namespace Sys2Proof.Machine

set_option linter.all false

theorem State.convertJob_keeps {kb : Bool} {r0 s : State} {w : Nat} {b : Nat} {tok : Nat} {quarter : Nat} {vs : List
    Dyad} (hk : Keeps kb r0 s) :
    Keeps kb r0 (State.convertJob s w b tok quarter vs) := by
  unfold State.convertJob
  repeat' with_reducible first
    | assumption | extract_lets | refine State.onWheel_keeps ?_ | refine State.bump_keeps ?_
    | refine State.fault_keeps ?_ | refine State.onBuf_keeps ?_ | refine Keeps.ite (fun _ => ?_) fun _ => ?_
    | dsimp +zetaDelta only | refine Keeps.mk_same ?_

theorem State.endJob_keeps {kb : Bool} {r0 s : State} {w : Nat} {lane : Nat} {b : Nat} {i : Nat} (hk : Keeps kb r0
    s) :
    Keeps kb r0 (State.endJob s w lane b i) := by
  unfold State.endJob
  repeat' with_reducible first
    | assumption | extract_lets | refine State.onWheel_keeps ?_ | refine State.bump_keeps ?_
    | refine State.touch_keeps ?_ | refine State.onBuf_keeps ?_ | refine State.convertJob_keeps ?_
    | refine Keeps.ite (fun _ => ?_) fun _ => ?_ | split | dsimp +zetaDelta only | refine Keeps.mk_same ?_

theorem execJobEnd_keeps {kb : Bool} {r0 s : State} {w : WheelIx} {lane : LaneIx} (hk : Keeps kb r0 s) :
    KeepsNext kb r0 (execJobEnd w lane s) := by
  unfold execJobEnd
  repeat' with_reducible first
    | assumption | extract_lets | refine State.endJob_keeps ?_ | refine State.when_keeps ?_ fun _ => ?_
    | refine KeepsNext.next ?_ | exact KeepsNext.refused | split | dsimp +zetaDelta only | refine Keeps.mk_same ?_

theorem execEntryJoin_keeps {kb : Bool} {r0 s : State} {w : WheelIx} {b : BufIx} (hk : Keeps kb r0 s) :
    KeepsNext kb r0 (execEntryJoin w b s) := by
  exact State.when_keeps hk fun _ => hk.of_draw (n := 2) rfl rfl rfl rfl rfl rfl rfl rfl

theorem State.leaveDrain_keeps {kb : Bool} {r0 s : State} {w : Nat} {b : Nat} (hk : Keeps kb r0 s) :
    Keeps kb r0 (State.leaveDrain s w b) := by
  unfold State.leaveDrain
  repeat' with_reducible first
    | assumption | extract_lets | refine State.onSagger_keeps ?_ | refine State.onWheel_keeps ?_
    | refine State.bump_keeps ?_ | refine State.touch_keeps ?_ | refine State.advance_keeps ?_
    | refine State.onBuf_keeps ?_ | refine State.awaitEntry_keeps ?_ | dsimp +zetaDelta only
    | refine Keeps.mk_same ?_

theorem State.drainCounts_keeps {kb : Bool} {r0 s : State} {g : Nat} {w : Nat} {b : Nat} {d : Drain} (hk : Keeps kb
    r0 s) :
    Keeps kb r0 (State.drainCounts s g w b d) := by
  unfold State.drainCounts
  repeat' with_reducible first
    | assumption | extract_lets | refine State.bump_keeps ?_ | refine State.fault_keeps ?_
    | refine Keeps.ite (fun _ => ?_) fun _ => ?_ | dsimp +zetaDelta only

theorem State.drainEntry_keeps {kb : Bool} {r0 s : State} {w : Nat} {b : Nat} (hk : Keeps kb r0 s) :
    Keeps kb r0 (State.drainEntry s w b) := by
  have key : SlabOnly s.mem ((s.drainOf w b).writeOwn ((s.wheel w).buf b).stagedRows).mem :=
    Drain.writeOwn_only _ (SlabOnly.refl _)
  unfold State.drainEntry
  dsimp only
  split
  · exact State.leaveDrain_keeps hk
  · split
    · exact State.fault_keeps (State.haltList_keeps (Keeps.of_slabOnly key hk))
    · rename_i hd
      exact State.leaveDrain_keeps (State.drainCounts_keeps (Keeps.of_slabOnly (Drain.finish_only key hd) hk))

theorem execEntryDrain_keeps {kb : Bool} {r0 s : State} {w : WheelIx} (hk : Keeps kb r0 s) :
    KeepsNext kb r0 (execEntryDrain w s) := by
  unfold execEntryDrain
  repeat' with_reducible first
    | assumption | extract_lets | refine State.drainEntry_keeps ?_ | refine State.when_keeps ?_ fun _ => ?_
    | refine KeepsNext.next ?_ | exact KeepsNext.refused | dsimp +zetaDelta only

theorem execSuspend_keeps {kb : Bool} {r0 s : State} {w : WheelIx} {saveAddr : BitVec 32} (hk : Keeps kb r0 s) :
    KeepsNext kb r0 (execSuspend w saveAddr s) := by
  unfold execSuspend
  repeat' with_reducible first
    | assumption | extract_lets | refine State.onSagger_keeps ?_ | refine State.onWheel_keeps ?_
    | refine State.fault_keeps ?_ | refine KeepsNext.next ?_ | exact KeepsNext.refused
    | refine KeepsNext.ite (fun _ => ?_) fun _ => ?_ | refine Keeps.ite (fun _ => ?_) fun _ => ?_
    | dsimp +zetaDelta only | refine Keeps.mk_same ?_

theorem State.saveContext_keeps {kb : Bool} {r0 s : State} {w : Nat} {a : BitVec 32} (hk : Keeps kb r0 s) :
    Keeps kb r0 (State.saveContext s w a) := by
  have h1 : Keeps kb r0 (s.putSlab a.toNat (((s.wheel w).context a).bytes s.freeCtr)) := State.putSlab_keeps hk
  have h2 := h1.of_draw (n := 40960) (t := { (s.putSlab a.toNat (((s.wheel w).context a).bytes s.freeCtr)) with
    freeCtr := (s.putSlab a.toNat (((s.wheel w).context a).bytes s.freeCtr)).freeCtr + 40960 }) rfl rfl rfl rfl rfl rfl rfl rfl
  exact State.awaitEntry_keeps (State.bump_keeps (State.onWheel_keeps h2))

theorem execSuspendDone_keeps {kb : Bool} {r0 s : State} {w : WheelIx} (hk : Keeps kb r0 s) :
    KeepsNext kb r0 (execSuspendDone w s) := by
  unfold execSuspendDone
  split
  · exact KeepsNext.next hk
  · exact State.when_keeps hk fun _ => State.saveContext_keeps hk

theorem execResume_keeps {kb : Bool} {r0 s : State} {w : WheelIx} (hk : Keeps kb r0 s) :
    KeepsNext kb r0 (execResume w s) := by
  unfold execResume
  repeat' with_reducible first
    | assumption | extract_lets | refine State.onSagger_keeps ?_ | refine State.onWheel_keeps ?_
    | refine State.fault_keeps ?_ | refine KeepsNext.next ?_ | exact KeepsNext.refused
    | refine KeepsNext.ite (fun _ => ?_) fun _ => ?_ | refine Keeps.ite (fun _ => ?_) fun _ => ?_
    | dsimp +zetaDelta only | refine Keeps.mk_same ?_

theorem execRestoreContext_keeps {kb : Bool} {r0 s : State} {w : WheelIx} (hk : Keeps kb r0 s) :
    KeepsNext kb r0 (execRestoreContext w s) := by
  unfold execRestoreContext
  repeat' with_reducible first
    | assumption | extract_lets | refine State.onWheel_keeps ?_ | refine State.bump_keeps ?_
    | refine State.awaitEntry_keeps ?_ | refine State.poisonBuf_keeps ?_ | refine State.when_keeps ?_ fun _ => ?_
    | refine KeepsNext.next ?_ | exact KeepsNext.refused | refine Keeps.foldl (fun _ _ _ => ?_) ?_
    | refine KeepsNext.ite (fun _ => ?_) fun _ => ?_ | refine Keeps.ite (fun _ => ?_) fun _ => ?_ | split
    | dsimp +zetaDelta only | refine Keeps.mk_same ?_

end Sys2Proof.Machine
end

