-- ==== Sys2Proof/Laws/KeepsKv.lean ====
section
/-! SUPPORT. `Keeps` through the functions of Machine/Kv.lean. -/

namespace Sys2Proof.Machine

set_option linter.all false

theorem State.putSeq_keeps {kb : Bool} {r0 s : State} {g : Nat} {slot : Nat} {off : Nat} {lo : Nat} {w : Nat} {v :
    Nat} (hk : Keeps kb r0 s) :
    Keeps kb r0 (State.putSeq s g slot off lo w v) := by
  unfold State.putSeq
  repeat' with_reducible first | assumption | refine State.putHbmField_keeps ?_

theorem State.putPte_keeps {kb : Bool} {r0 s : State} {g : Nat} {slot : Nat} {layer : Nat} {page : Nat} {e : Pte}
    (hk : Keeps kb r0 s) :
    Keeps kb r0 (State.putPte s g slot layer page e) := by
  unfold State.putPte
  repeat' with_reducible first | assumption | refine State.putHbmNum_keeps ?_

end Sys2Proof.Machine
end

