-- ==== Sys2Proof/Laws/KeepsFrames.lean ====
section
/-! SUPPORT. `Keeps` through the functions of Machine/Frames.lean. -/

namespace Sys2Proof.Machine

set_option linter.all false

theorem State.setFrame_keeps {kb : Bool} {r0 s : State} {g : Nat} {f : Nat} {st : FrameState} (hk : Keeps kb r0 s) :
    Keeps kb r0 (State.setFrame s g f st) := by
  unfold State.setFrame
  repeat' with_reducible first | assumption | refine State.onSagger_keeps ?_ | refine Keeps.mk_same ?_

theorem State.dropFrame_keeps {kb : Bool} {r0 s : State} {g : Nat} {f : Nat} (hk : Keeps kb r0 s) :
    Keeps kb r0 (State.dropFrame s g f) := by
  unfold State.dropFrame
  repeat' with_reducible first
    | assumption | refine State.onStack_keeps ?_ | refine State.setFrame_keeps ?_ | split
    | refine Keeps.mk_same ?_


theorem State.takeFrame_keeps {kb : Bool} {r0 s t : State} {g tenant f : Nat} (h : Keeps kb r0 s)
    (e : s.takeFrame g tenant = .ok (f, t)) : Keeps kb r0 t := by
  unfold State.takeFrame at e
  split at e
  · cases e
  · split at e
    · cases e
    · cases e
      exact State.setFrame_keeps h

theorem State.putNode_keeps {kb : Bool} {r0 s : State} {g : Nat} {n : Nat} {off : Nat} {lo : Nat} {w : Nat} {v :
    Nat} (hk : Keeps kb r0 s) :
    Keeps kb r0 (State.putNode s g n off lo w v) := by
  unfold State.putNode
  repeat' with_reducible first | assumption | refine State.putHbmField_keeps ?_


theorem unlinkFrom_keeps {kb : Bool} {r0 s : State} {next : State → Nat → Nat} {put : State → Nat → Nat → State} {n : Nat}
    {ns : List Nat} (h : Keeps kb r0 s) (hf : ∀ (y0 : State) (y1 : Nat) (y2 : Nat), Keeps kb r0 y0 → Keeps kb r0 (put y0 y1 y2)) :
    Keeps kb r0 (unlinkFrom next put n ns s) := by
  induction ns with
  | nil => exact h
  | cons a r ih =>
    cases r with
    | nil => exact h
    | cons c r =>
      rw [unlinkFrom]
      split
      · exact hf _ _ _ h
      · exact ih

theorem State.unlinkNode_keeps {kb : Bool} {r0 s : State} {g : Nat} {n : Nat} (hk : Keeps kb r0 s) :
    Keeps kb r0 (State.unlinkNode s g n) := by
  unfold State.unlinkNode
  repeat' with_reducible first
    | assumption | extract_lets | refine State.putHbmNum_keeps ?_ | refine State.putNode_keeps ?_
    | refine unlinkFrom_keeps ?_ fun _ _ _ _ => ?_ | refine Keeps.ite (fun _ => ?_) fun _ => ?_
    | dsimp +zetaDelta only

theorem State.freeNode_keeps {kb : Bool} {r0 s : State} {g : Nat} {n : Nat} (hk : Keeps kb r0 s) :
    Keeps kb r0 (State.freeNode s g n) := by
  unfold State.freeNode
  repeat' with_reducible first
    | assumption | extract_lets | refine State.onSagger_keeps ?_ | refine State.putHbm_keeps ?_
    | refine State.dropFrame_keeps ?_ | refine Keeps.foldl (fun _ _ _ => ?_) ?_ | dsimp +zetaDelta only
    | refine Keeps.mk_same ?_

theorem State.retireNode_keeps {kb : Bool} {r0 s : State} {g : Nat} {n : Nat} (hk : Keeps kb r0 s) :
    Keeps kb r0 (State.retireNode s g n) := by
  unfold State.retireNode
  repeat' with_reducible first
    | assumption | extract_lets | refine State.onSagger_keeps ?_ | refine State.fault_keeps ?_
    | refine State.putNode_keeps ?_ | refine State.unlinkNode_keeps ?_ | refine State.freeNode_keeps ?_
    | refine Keeps.foldr (fun _ _ _ => ?_) ?_ | refine Keeps.ite (fun _ => ?_) fun _ => ?_ | dsimp +zetaDelta only
    | refine Keeps.mk_same ?_

theorem State.evictNode_keeps {kb : Bool} {r0 s : State} {g : Nat} {n : Nat} (hk : Keeps kb r0 s) :
    Keeps kb r0 (State.evictNode s g n) := by
  unfold State.evictNode
  repeat' with_reducible first
    | assumption | refine State.bump_keeps ?_ | refine State.unlinkNode_keeps ?_ | refine State.freeNode_keeps ?_

theorem State.evictFor_keeps {kb : Bool} {r0 : State} {g : Nat} {keep : List Nat} : ∀ {fuel n : Nat} {s : State},
    Keeps kb r0 s → Keeps kb r0 (s.evictFor g keep fuel n).2
  | 0, _, _, h => h
  | fuel + 1, n, s, h => by
    unfold State.evictFor
    split
    · exact h
    · split
      · exact h
      · exact State.evictFor_keeps (State.evictNode_keeps h)

theorem State.lookup_keeps {kb : Bool} {r0 : State} {g scope model : Nat} {tokens : List Nat} : ∀ {fuel j parent : Nat} {s : State},
    Keeps kb r0 s → Keeps kb r0 (s.lookup g scope model tokens fuel j parent).2
  | 0, _, _, _, h => h
  | fuel + 1, j, parent, s, h => by
    unfold State.lookup
    dsimp only
    split
    · exact State.retireNode_keeps (State.bump_keeps h)
    · exact State.bump_keeps h
    · exact State.lookup_keeps (State.bump_keeps h)

theorem State.attachNode_keeps {kb : Bool} {r0 s : State} {g : Nat} {slot : Nat} {j : Nat} {n : Nat} (hk : Keeps kb
    r0 s) :
    Keeps kb r0 (State.attachNode s g slot j n) := by
  unfold State.attachNode
  repeat' with_reducible first
    | assumption | extract_lets | refine State.bump_keeps ?_ | refine State.putHbmNum_keeps ?_
    | refine State.putSeq_keeps ?_ | refine State.putPte_keeps ?_ | refine State.putNode_keeps ?_
    | refine Keeps.foldl (fun _ _ _ => ?_) ?_ | dsimp +zetaDelta only | refine Keeps.mk_same ?_

theorem State.attachAll_keeps {kb : Bool} {r0 s : State} {g : Nat} {slot : Nat} {ns : List Nat} (hk : Keeps kb r0 s) :
    Keeps kb r0 (State.attachAll s g slot ns) := by
  unfold State.attachAll
  repeat' with_reducible first
    | assumption | refine State.attachNode_keeps ?_ | refine Keeps.foldl (fun _ _ _ => ?_) ?_

theorem State.unref_keeps {kb : Bool} {r0 s : State} {g : Nat} {n : Nat} (hk : Keeps kb r0 s) :
    Keeps kb r0 (State.unref s g n) := by
  unfold State.unref
  repeat' with_reducible first
    | assumption | extract_lets | refine State.fault_keeps ?_ | refine State.putNode_keeps ?_
    | refine State.freeNode_keeps ?_ | refine Keeps.ite (fun _ => ?_) fun _ => ?_ | dsimp +zetaDelta only

theorem State.releaseBlocks_keeps {kb : Bool} {r0 s : State} {g : Nat} {slot : Nat} {k : Nat} (hk : Keeps kb r0 s) :
    Keeps kb r0 (State.releaseBlocks s g slot k) := by
  unfold State.releaseBlocks
  repeat' with_reducible first
    | assumption | extract_lets | refine State.putSeq_keeps ?_ | refine State.unref_keeps ?_
    | refine Keeps.foldl (fun _ _ _ => ?_) ?_ | refine Keeps.ite (fun _ => ?_) fun _ => ?_ | dsimp +zetaDelta only

theorem State.nodeRoom_keeps {kb : Bool} {r0 : State} {g : Nat} {k : Nat} {keep : List Nat} : ∀ {fuel : Nat} {s : State},
    Keeps kb r0 s → Keeps kb r0 (State.nodeRoom s g k keep fuel).2
  | 0, _, h => h
  | fuel + 1, s, h => by
    unfold State.nodeRoom
    split
    · exact h
    · split
      · exact h
      · exact State.nodeRoom_keeps (State.evictNode_keeps h)

theorem State.buildNode_keeps {kb : Bool} {r0 s : State} {g : Nat} {n : Nat} {list : Nat} {scope : Nat} {model :
    Nat} {parent : Nat} {digest : Nat} {depth : Nat} {refs : Nat} {tokens : List Nat} {entries : List Pte} (hk :
    Keeps kb r0 s) :
    Keeps kb r0 (State.buildNode s g n list scope model parent digest depth refs tokens entries) := by
  unfold State.buildNode
  repeat' with_reducible first
    | assumption | extract_lets | refine State.onSagger_keeps ?_ | refine State.putHbm_keeps ?_
    | refine State.putHbmNum_keeps ?_ | refine State.putNode_keeps ?_ | refine Keeps.ite (fun _ => ?_) fun _ => ?_
    | dsimp +zetaDelta only | refine Keeps.mk_same ?_

theorem State.publishOwn_keeps {kb : Bool} {r0 s : State} {g : Nat} {slot : Nat} {tenant : Nat} {n : Nat} {list :
    Nat} {scope : Nat} {model : Nat} {parent : Nat} {digest : Nat} {j : Nat} {tokens : List Nat} (hk : Keeps kb r0
    s) :
    Keeps kb r0 (State.publishOwn s g slot tenant n list scope model parent digest j tokens) := by
  unfold State.publishOwn
  repeat' with_reducible first
    | assumption | extract_lets | refine State.putSeq_keeps ?_ | refine State.putPte_keeps ?_
    | refine State.setFrame_keeps ?_ | refine State.buildNode_keeps ?_ | refine Keeps.foldl (fun _ _ _ => ?_) ?_
    | dsimp +zetaDelta only | refine Keeps.mk_same ?_

theorem State.takeFrames_keeps {kb : Bool} {r0 t : State} {g tenant : Nat} : ∀ {k : Nat} {s : State} {fs : List Nat},
    Keeps kb r0 s → s.takeFrames g tenant k = .ok (fs, t) → Keeps kb r0 t
  | 0, _, _, h, e => by cases e; exact h
  | k + 1, s, fs, h, e => by
    unfold State.takeFrames at e
    split at e
    · cases e
    · rename_i h1
      split at e
      · cases e
      · rename_i h2
        cases e
        exact State.takeFrames_keeps (State.takeFrame_keeps h h1) h2

theorem State.copySlotTo_keeps {kb : Bool} {r0 s : State} {g : Nat} {slot : Nat} {layer : Nat} {n : Nat} {frame :
    Nat} {t : Nat} (hk : Keeps kb r0 s) :
    Keeps kb r0 (State.copySlotTo s g slot layer n frame t) := by
  unfold State.copySlotTo
  repeat' with_reducible first
    | assumption | extract_lets | refine State.putHbm_keeps ?_ | refine Keeps.foldl (fun _ _ _ => ?_) ?_
    | dsimp +zetaDelta only

theorem State.publishCopy_keeps {kb : Bool} {r0 s : State} {g : Nat} {slot : Nat} {tenant : Nat} {n : Nat} {list :
    Nat} {scope : Nat} {model : Nat} {parent : Nat} {digest : Nat} {j : Nat} {tokens : List Nat} {frames : List Nat}
    (hk : Keeps kb r0 s) :
    Keeps kb r0 (State.publishCopy s g slot tenant n list scope model parent digest j tokens frames) := by
  unfold State.publishCopy
  repeat' with_reducible first
    | assumption | extract_lets | refine State.setFrame_keeps ?_ | refine State.buildNode_keeps ?_
    | refine State.copySlotTo_keeps ?_ | refine Keeps.foldl (fun _ _ _ => ?_) ?_ | dsimp +zetaDelta only

theorem State.publishBlock_keeps {kb : Bool} {r0 s : State} {g : Nat} {slot : Nat} {tenant : Nat} {scope : Nat}
    {model : Nat} {tokens : List Nat} {chain : List Nat} {j : Nat} (hk : Keeps kb r0 s) :
    Keeps kb r0 (State.publishBlock s g slot tenant scope model tokens chain j).2 := by
  unfold State.publishBlock
  repeat' with_reducible first
    | assumption | extract_lets | refine Keeps.of_snd ?_ (by assumption) | refine State.bump_keeps ?_
    | refine State.nodeRoom_keeps ?_ | refine State.publishOwn_keeps ?_ | refine State.evictFor_keeps ?_
    | refine State.takeFrames_keeps ?_ (by assumption) | refine State.publishCopy_keeps ?_
    | refine Keeps.ite2 (fun _ => ?_) fun _ => ?_ | refine Keeps.ite (fun _ => ?_) fun _ => ?_ | split
    | dsimp +zetaDelta only | refine Keeps.mk_same ?_

theorem State.publishFrom_keeps {kb : Bool} {r0 : State} {g slot tenant scope model : Nat} {tokens : List Nat} :
    ∀ {fuel : Nat} {chain : List Nat} {s : State}, Keeps kb r0 s →
      Keeps kb r0 (s.publishFrom g slot tenant scope model tokens fuel chain).2
  | 0, _, _, h => h
  | fuel + 1, chain, s, h => by
    unfold State.publishFrom
    split
    · exact h
    · split
      · rename_i e
        exact Keeps.of_snd (State.publishBlock_keeps h) e
      · rename_i e
        exact State.publishFrom_keeps (Keeps.of_snd (State.publishBlock_keeps h) e)

theorem State.publishSlot_keeps {kb : Bool} {r0 s : State} {g : Nat} {slot : Nat} {model : Nat} {q : Req} {chain :
    List Nat} (hk : Keeps kb r0 s) :
    Keeps kb r0 (State.publishSlot s g slot model q chain).2 := by
  unfold State.publishSlot
  repeat' with_reducible first
    | assumption | refine Keeps.of_snd ?_ (by assumption) | refine State.publishFrom_keeps ?_
    | refine Keeps.ite2 (fun _ => ?_) fun _ => ?_ | refine Keeps.ite (fun _ => ?_) fun _ => ?_

end Sys2Proof.Machine
end

