-- ==== Sys2Proof/Laws/KeepsHbmErrors.lean ====
section
/-! SUPPORT. `Keeps` through the functions of Machine/HbmErrors.lean. -/

namespace Sys2Proof.Machine

set_option linter.all false

theorem State.hbmCorrected_keeps {kb : Bool} {r0 s : State} {a : Nat} (hk : Keeps kb r0 s) :
    Keeps kb r0 (State.hbmCorrected s a) := by
  unfold State.hbmCorrected
  repeat' with_reducible first | assumption | refine State.bump_keeps ?_ | refine State.raiseLimited_keeps ?_

theorem State.hbmCount_keeps {kb : Bool} {r0 s : State} {a : Nat} (hk : Keeps kb r0 s) :
    Keeps kb r0 (State.hbmCount s a) := by
  unfold State.hbmCount
  repeat' first
    | (with_reducible first
        | assumption | extract_lets | refine State.onStack_keeps ?_ | refine State.bump_keeps ?_
        | refine State.fault_keeps ?_ | refine Keeps.ite (fun _ => ?_) fun _ => ?_ | dsimp +zetaDelta only)
    | refine State.onHealth_keeps (fun _ => ⟨id, Nat.le_refl _, Nat.le_refl _⟩) ?_
    | with_reducible refine Keeps.mk_same ?_

theorem State.failReqs_keeps {kb : Bool} {r0 s : State} {g : Nat} {a : Nat} {p : Req → Bool} (hk : Keeps kb r0 s) :
    Keeps kb r0 (State.failReqs s g a p) := by
  unfold State.failReqs
  repeat' with_reducible first | assumption | refine State.failSlot_keeps ?_ | refine Keeps.foldl (fun _ _ _ => ?_) ?_

theorem State.hbmLost_keeps {kb : Bool} {r0 s : State} {g : Nat} {a : Nat} {hit : HbmData} (hk : Keeps kb r0 s) :
    Keeps kb r0 (State.hbmLost s g a hit) := by
  unfold State.hbmLost
  repeat' with_reducible first
    | assumption | extract_lets | refine State.fault_keeps ?_ | refine State.poisonChunk_keeps ?_
    | refine State.retireNode_keeps ?_ | refine State.hbmCount_keeps ?_ | refine State.failReqs_keeps ?_ | split
    | dsimp +zetaDelta only | refine Keeps.mk_same ?_

theorem State.pageLost_keeps {kb : Bool} {r0 s : State} {g slot f a : Nat} (hk : Keeps kb r0 s) :
    Keeps kb r0 (State.pageLost s g slot f a) := by
  unfold State.pageLost
  repeat' with_reducible first
    | assumption | refine State.hbmLost_keeps ?_ | refine State.hbmCount_keeps ?_ | split

theorem State.weightRead_keeps {kb : Bool} {r0 s : State} {g a : Nat} {ecc : Ecc} (hk : Keeps kb r0 s) :
    Keeps kb r0 (State.weightRead s g a ecc) := by
  unfold State.weightRead
  repeat' with_reducible first
    | assumption | refine State.hbmCorrected_keeps ?_ | refine State.hbmLost_keeps ?_ | split

end Sys2Proof.Machine
end

