-- ==== Sys2Proof/Laws/KeepsLdu.lean ====
section
/-! SUPPORT. `Keeps` through the functions of Machine/Ldu.lean. -/

namespace Sys2Proof.Machine

set_option linter.all false

theorem State.writeBlocks_keeps {kb : Bool} {r0 s : State} {g : Nat} {a : Nat} {stride : Nat} {fmt : Nat} {l :
    LayerInfo} {vs : List Dyad} (hk : Keeps kb r0 s) :
    Keeps kb r0 (State.writeBlocks s g a stride fmt l vs) := by
  unfold State.writeBlocks
  repeat' with_reducible first
    | assumption | extract_lets | refine State.bump_keeps ?_ | refine State.putSlab_keeps ?_
    | refine Keeps.foldl (fun _ _ _ => ?_) ?_ | dsimp +zetaDelta only

theorem State.failRows_keeps {kb : Bool} {r0 s : State} {detail : Nat} {g : Nat} {l : Nat} (hk : Keeps kb r0 s) :
    Keeps kb r0 (State.failRows s detail g l) := by
  unfold State.failRows
  repeat' with_reducible first | assumption | refine State.failSlot_keeps ?_ | refine Keeps.foldl (fun _ _ _ => ?_) ?_

theorem State.startGroup_keeps {kb : Bool} {r0 s : State} {l : Nat} {group : List Nat} {n : Nat} (hk : Keeps kb r0
    s) :
    Keeps kb r0 (State.startGroup s l group n) := by
  unfold State.startGroup
  repeat' with_reducible first
    | assumption | extract_lets | refine State.onLdu_keeps ?_ | refine State.bump_keeps ?_ | dsimp +zetaDelta only

theorem State.pushOp_keeps {kb : Bool} {r0 s : State} {g : Nat} {r : BitVec 256} (hk : Keeps kb r0 s) :
    Keeps kb r0 (State.pushOp s g r) := by
  unfold State.pushOp
  repeat' with_reducible first
    | assumption | extract_lets | refine State.onSagger_keeps ?_ | refine State.bump_keeps ?_
    | refine State.putHbmNum_keeps ?_ | dsimp +zetaDelta only | refine Keeps.mk_same ?_

theorem State.setterOps_keeps {kb : Bool} {r0 s : State} {g : Nat} {recs : List (BitVec 256)} (hk : Keeps kb r0 s) :
    Keeps kb r0 (State.setterOps s g recs) :=
  Keeps.ite (fun _ => Keeps.foldl (fun _ _ ht => State.pushOp_keeps ht) hk) fun _ => hk

theorem State.popOp_keeps {kb : Bool} {r0 s : State} {g : Nat} (hk : Keeps kb r0 s) : Keeps kb r0 (State.popOp s g) :=
  State.touch_keeps (State.onSagger_keeps (State.bump_keeps hk))

theorem State.takeOp_keeps {kb : Bool} {r0 s : State} {l : Nat} {g : Nat} (hk : Keeps kb r0 s) :
    Keeps kb r0 (State.takeOp s l g) := by
  unfold State.takeOp
  repeat' with_reducible first
    | assumption | extract_lets | refine State.onSagger_keeps ?_ | refine State.onLdu_keeps ?_
    | refine State.popOp_keeps ?_ | refine State.faultRec_keeps ?_ | refine State.startGroup_keeps ?_ | split
    | dsimp +zetaDelta only | refine Keeps.mk_same ?_

theorem State.takeDesc_keeps {kb : Bool} {r0 s : State} {l : Nat} {g : Nat} {d : BitVec 128} (hk : Keeps kb r0 s) :
    Keeps kb r0 (State.takeDesc s l g d) := by
  unfold State.takeDesc
  repeat' with_reducible first
    | assumption | extract_lets | refine State.onLdu_keeps ?_ | refine State.touch_keeps ?_
    | refine State.startGroup_keeps ?_ | refine Keeps.ite (fun _ => ?_) fun _ => ?_ | dsimp +zetaDelta only
    | refine Keeps.mk_same ?_

theorem State.takeItem_keeps {kb : Bool} {r0 s : State} {l : Nat} (hk : Keeps kb r0 s) :
    Keeps kb r0 (State.takeItem s l) := by
  unfold State.takeItem
  repeat' with_reducible first
    | assumption | extract_lets | refine State.takeOp_keeps ?_ | refine State.takeDesc_keeps ?_
    | refine Keeps.ite (fun _ => ?_) fun _ => ?_ | split | dsimp +zetaDelta only

theorem execLduTakeItem_keeps {kb : Bool} {r0 s : State} {l : ShelfIx} {recs : List (BitVec 256)} (hk : Keeps kb r0 s) :
    KeepsNext kb r0 (execLduTakeItem l recs s) :=
  KeepsNext.next (State.takeItem_keeps (State.setterOps_keeps hk))

theorem execTableRebuild_keeps {kb : Bool} {r0 s : State} {l : ShelfIx} (hk : Keeps kb r0 s) :
    KeepsNext kb r0 (execTableRebuild l s) := by
  unfold execTableRebuild
  repeat' with_reducible first
    | assumption | refine State.onLdu_keeps ?_ | refine State.bump_keeps ?_ | refine KeepsNext.next ?_
    | exact KeepsNext.refused | refine KeepsNext.ite (fun _ => ?_) fun _ => ?_
    | refine Keeps.ite (fun _ => ?_) fun _ => ?_ | split | refine Keeps.mk_same ?_

theorem State.lduRan_keeps {kb : Bool} {r0 s : State} {l : Nat} {n : Nat} (hk : Keeps kb r0 s) :
    Keeps kb r0 (State.lduRan s l n) := by
  unfold State.lduRan
  repeat' with_reducible first
    | assumption | extract_lets | refine Keeps.of_snd ?_ (by assumption) | refine State.draw_keeps ?_
    | refine State.bump_keeps ?_ | split | dsimp +zetaDelta only

theorem State.countL16_keeps {kb : Bool} {r0 s : State} {l : Nat} {x : L16Group} (hk : Keeps kb r0 s) :
    Keeps kb r0 (State.countL16 s l x) := by
  unfold State.countL16
  repeat' with_reducible first | assumption | refine State.bump_keeps ?_

theorem State.pageTile_keeps {kb : Bool} {r0 s : State} {l : Nat} {g : Nat} {d : Nat} {t : OpenTile} (hk : Keeps kb
    r0 s) :
    Keeps kb r0 (State.pageTile s l g d t) := by
  unfold State.pageTile
  repeat' with_reducible first
    | assumption | extract_lets | refine State.onLdu_keeps ?_ | refine State.touch_keeps ?_
    | refine State.lduRan_keeps ?_ | refine State.countL16_keeps ?_ | refine Keeps.foldl (fun _ _ _ => ?_) ?_
    | refine State.bump_keeps ?_
    | refine Keeps.ite (fun _ => ?_) fun _ => ?_ | dsimp +zetaDelta only | refine Keeps.mk_same ?_

theorem State.maskTile_keeps {kb : Bool} {r0 s : State} {l : Nat} {g : Nat} {d : Nat} {detail : Nat} (hk : Keeps kb
    r0 s) :
    Keeps kb r0 (State.maskTile s l g d detail) := by
  unfold State.maskTile
  repeat' with_reducible first
    | assumption | extract_lets | refine State.onLdu_keeps ?_ | refine State.bump_keeps ?_
    | refine State.failSlot_keeps ?_ | dsimp +zetaDelta only | refine Keeps.mk_same ?_

theorem State.pageRead_keeps {kb : Bool} {r0 s : State} {l g d : Nat} {t : OpenTile} (hk : Keeps kb r0 s) :
    Keeps kb r0 (State.pageRead s l g d t) := by
  unfold State.pageRead
  repeat' with_reducible first
    | assumption | refine State.pageTile_keeps ?_ | refine State.maskTile_keeps ?_ | split

theorem State.skipTile_keeps {kb : Bool} {r0 s : State} {l g d : Nat} (hk : Keeps kb r0 s) :
    Keeps kb r0 (State.skipTile s l g d) := by
  unfold State.skipTile
  repeat' with_reducible first | assumption | refine State.onLdu_keeps ?_

theorem State.descAt_keeps {kb : Bool} {r0 s : State} {l g d : Nat} {ecc : Ecc} {off : Nat} {bad : Option Nat}
    {tile : Option OpenTile} (hk : Keeps kb r0 s) : Keeps kb r0 (State.descAt s l g d ecc off bad tile) := by
  unfold State.descAt
  repeat' with_reducible first
    | assumption | extract_lets | refine State.onLdu_keeps ?_ | refine State.onSagger_keeps ?_
    | refine State.faultRec_keeps ?_ | refine State.pageRead_keeps ?_ | refine State.hbmCorrected_keeps ?_
    | refine State.skipTile_keeps ?_ | refine State.pageLost_keeps ?_ | refine Keeps.ite (fun _ => ?_) fun _ => ?_
    | split | refine Keeps.mk_same ?_

theorem State.runDesc_keeps {kb : Bool} {r0 s : State} {l g d : Nat} {ecc : Ecc} {off : Nat} (hk : Keeps kb r0 s) :
    Keeps kb r0 (State.runDesc s l g d ecc off) := by
  unfold State.runDesc
  repeat' with_reducible first | assumption | refine State.descAt_keeps ?_

theorem execPageDescriptor_keeps {kb : Bool} {r0 s : State} {l : ShelfIx} {ecc : Ecc} {off : BitVec 17} (hk : Keeps kb r0 s) :
    KeepsNext kb r0 (execPageDescriptor l ecc off s) := by
  unfold execPageDescriptor
  repeat' with_reducible first
    | assumption | extract_lets | refine State.runDesc_keeps ?_ | refine KeepsNext.next ?_
    | exact KeepsNext.refused | split | dsimp +zetaDelta only | refine Keeps.mk_same ?_

theorem State.scoreTile_keeps {kb : Bool} {r0 s : State} {d : Nat} {g : Nat} {js : List SsuJob} (hk : Keeps kb r0 s) :
    Keeps kb r0 (State.scoreTile s d g js) := by
  unfold State.scoreTile
  repeat' with_reducible first
    | assumption | extract_lets | refine State.onSsu_keeps ?_ | refine State.bump_keeps ?_
    | refine Keeps.ite (fun _ => ?_) fun _ => ?_ | dsimp +zetaDelta only | refine Keeps.mk_same ?_

theorem State.closeTile_keeps {kb : Bool} {r0 s : State} {l : Nat} {t : OpenTile} (hk : Keeps kb r0 s) :
    Keeps kb r0 (State.closeTile s l t) := by
  unfold State.closeTile
  repeat' with_reducible first
    | assumption | extract_lets | refine State.onSagger_keeps ?_ | refine State.onLdu_keeps ?_
    | refine State.touch_keeps ?_ | refine State.writeBlocks_keeps ?_ | refine State.countL16_keeps ?_
    | refine State.scoreTile_keeps ?_ | refine Keeps.foldl (fun _ _ _ => ?_) ?_
    | refine Keeps.ite (fun _ => ?_) fun _ => ?_ | dsimp +zetaDelta only | refine Keeps.mk_same ?_

theorem execQueryTileClose_keeps {kb : Bool} {r0 s : State} {l : ShelfIx} (hk : Keeps kb r0 s) :
    KeepsNext kb r0 (execQueryTileClose l s) := by
  unfold execQueryTileClose
  repeat' with_reducible first
    | assumption | refine State.closeTile_keeps ?_ | refine KeepsNext.next ?_ | exact KeepsNext.refused | split
    | refine Keeps.mk_same ?_

theorem State.opDone_keeps {kb : Bool} {r0 s : State} {l : Nat} {g : Nat} {o : OpRec} (hk : Keeps kb r0 s) :
    Keeps kb r0 (State.opDone s l g o) := by
  unfold State.opDone
  repeat' with_reducible first
    | assumption | refine State.onLdu_keeps ?_ | refine State.touch_keeps ?_ | refine State.advance_keeps ?_
    | refine Keeps.mk_same ?_

theorem State.runOp_keeps {kb : Bool} {r0 s : State} {l : Nat} {g : Nat} {o : OpRec} {cols : Nat} {cyc : Nat}
    {effect : State → State} (hk : Keeps kb r0 s) (hf : ∀ (y0 : State), Keeps kb r0 y0 → Keeps kb r0 (effect y0)) :
    Keeps kb r0 (State.runOp s l g o cols cyc effect) := by
  unfold State.runOp
  repeat' with_reducible first
    | assumption | extract_lets | refine hf _ ?_ | refine State.bump_keeps ?_ | refine State.fault_keeps ?_
    | refine State.poisonChunk_keeps ?_ | refine State.failRows_keeps ?_ | refine State.lduRan_keeps ?_
    | refine State.opDone_keeps ?_ | refine Keeps.foldl (fun _ _ _ => ?_) ?_
    | refine Keeps.ite (fun _ => ?_) fun _ => ?_ | split | dsimp +zetaDelta only | refine Keeps.mk_same ?_

theorem State.writeRow_keeps {kb : Bool} {r0 s : State} {l : Nat} {g : Nat} {o : OpRec} {r : Nat} {rs : List LogRes}
    (hk : Keeps kb r0 s) :
    Keeps kb r0 (State.writeRow s l g o r rs) := by
  unfold State.writeRow
  repeat' with_reducible first
    | assumption | extract_lets | refine State.putSlab_keeps ?_ | refine State.writeBlocks_keeps ?_
    | refine State.countL16_keeps ?_ | refine Keeps.ite (fun _ => ?_) fun _ => ?_ | dsimp +zetaDelta only

theorem State.normOp_keeps {kb : Bool} {r0 s : State} {l : Nat} {g : Nat} {o : OpRec} (hk : Keeps kb r0 s) :
    Keeps kb r0 (State.normOp s l g o) := by
  unfold State.normOp
  repeat' with_reducible first
    | assumption | extract_lets | refine State.bump_keeps ?_ | refine State.countL16_keeps ?_ | refine State.writeRow_keeps ?_
    | refine Keeps.foldl (fun _ _ _ => ?_) ?_ | dsimp +zetaDelta only

theorem execNorm_keeps {kb : Bool} {r0 s : State} {l : ShelfIx} (hk : Keeps kb r0 s) :
    KeepsNext kb r0 (execNorm l s) := by
  unfold execNorm
  repeat' with_reducible first
    | assumption | refine State.runOp_keeps ?_ (fun _ _ => ?_) | refine State.normOp_keeps ?_
    | refine KeepsNext.next ?_ | exact KeepsNext.refused | split | refine Keeps.mk_same ?_

theorem State.prodOp_keeps {kb : Bool} {r0 s : State} {l : Nat} {g : Nat} {o : OpRec} (hk : Keeps kb r0 s) :
    Keeps kb r0 (State.prodOp s l g o) := by
  unfold State.prodOp
  repeat' with_reducible first
    | assumption | extract_lets | refine State.bump_keeps ?_ | refine State.countL16_keeps ?_ | refine State.writeRow_keeps ?_
    | refine Keeps.foldl (fun _ _ _ => ?_) ?_ | dsimp +zetaDelta only

theorem State.scoreCheck_keeps {kb : Bool} {r0 s : State} {l : Nat} {g : Nat} {o : OpRec} (hk : Keeps kb r0 s) :
    Keeps kb r0 (State.scoreCheck s l g o) := by
  unfold State.scoreCheck
  repeat' with_reducible first
    | assumption | refine State.fault_keeps ?_ | refine State.haltList_keeps ?_
    | refine Keeps.ite (fun _ => ?_) fun _ => ?_ | split | refine Keeps.mk_same ?_

theorem execProd_keeps {kb : Bool} {r0 s : State} {l : ShelfIx} (hk : Keeps kb r0 s) :
    KeepsNext kb r0 (execProd l s) := by
  unfold execProd
  repeat' with_reducible first
    | assumption | refine State.runOp_keeps ?_ (fun _ _ => ?_) | refine State.prodOp_keeps ?_
    | refine State.scoreCheck_keeps ?_ | refine KeepsNext.next ?_ | exact KeepsNext.refused | split
    | refine Keeps.mk_same ?_

theorem State.gluOp_keeps {kb : Bool} {r0 s : State} {l : Nat} {g : Nat} {o : OpRec} (hk : Keeps kb r0 s) :
    Keeps kb r0 (State.gluOp s l g o) := by
  unfold State.gluOp
  repeat' with_reducible first
    | assumption | extract_lets | refine State.countL16_keeps ?_ | refine State.writeRow_keeps ?_
    | refine Keeps.foldl (fun _ _ _ => ?_) ?_ | dsimp +zetaDelta only

theorem execGlu_keeps {kb : Bool} {r0 s : State} {l : ShelfIx} (hk : Keeps kb r0 s) :
    KeepsNext kb r0 (execGlu l s) := by
  unfold execGlu
  repeat' with_reducible first
    | assumption | refine State.runOp_keeps ?_ (fun _ _ => ?_) | refine State.gluOp_keeps ?_
    | refine KeepsNext.next ?_ | exact KeepsNext.refused | split | refine Keeps.mk_same ?_

theorem State.addF32At_keeps {kb : Bool} {r0 s : State} {a : Nat} {v : Nat} (hk : Keeps kb r0 s) :
    Keeps kb r0 (State.addF32At s a v) := by
  unfold State.addF32At
  repeat' with_reducible first
    | assumption | extract_lets | refine Keeps.of_snd ?_ (by assumption) | refine State.draw_keeps ?_
    | refine State.bump_keeps ?_ | refine State.putHbmNum_keeps ?_ | split | dsimp +zetaDelta only

theorem State.outerOp_keeps {kb : Bool} {r0 s : State} {l : Nat} {o : OpRec} (hk : Keeps kb r0 s) :
    Keeps kb r0 (State.outerOp s l o) := by
  unfold State.outerOp
  repeat' with_reducible first
    | assumption | extract_lets | refine State.countL16_keeps ?_ | refine State.addF32At_keeps ?_
    | refine Keeps.foldl (fun _ _ _ => ?_) ?_ | dsimp +zetaDelta only

theorem execOuter_keeps {kb : Bool} {r0 s : State} {l : ShelfIx} (hk : Keeps kb r0 s) :
    KeepsNext kb r0 (execOuter l s) := by
  unfold execOuter
  repeat' with_reducible first
    | assumption | refine State.runOp_keeps ?_ (fun _ _ => ?_) | refine State.outerOp_keeps ?_
    | refine KeepsNext.next ?_ | exact KeepsNext.refused | split | refine Keeps.mk_same ?_

theorem State.lduCancel_keeps {kb : Bool} {r0 s : State} {l : Nat} {slot : BitVec 16} (hk : Keeps kb r0 s) :
    Keeps kb r0 (State.lduCancel s l slot) := by
  unfold State.lduCancel
  repeat' with_reducible first
    | assumption | extract_lets | refine State.onSagger_keeps ?_ | refine State.onLdu_keeps ?_
    | refine State.bump_keeps ?_ | refine Keeps.foldl (fun _ _ _ => ?_) ?_
    | refine Keeps.ite (fun _ => ?_) fun _ => ?_ | split | dsimp +zetaDelta only | refine Keeps.mk_same ?_

theorem execLduCancelSlot_keeps {kb : Bool} {r0 s : State} {l : ShelfIx} {slot : BitVec 16} (hk : Keeps kb r0 s) :
    KeepsNext kb r0 (execLduCancelSlot l slot s) := by
  unfold execLduCancelSlot
  repeat' with_reducible first
    | assumption | refine State.lduCancel_keeps ?_ | refine KeepsNext.next ?_ | exact KeepsNext.refused

end Sys2Proof.Machine
end

