-- ==== Sys2Proof/Laws/KeepsMessage.lean ====
section
/-! SUPPORT. `Keeps` through the functions of Machine/Message.lean. -/

namespace Sys2Proof.Machine

set_option linter.all false

theorem State.popMsg_keeps {kb : Bool} {r0 s : State} {c : Nat} {type : Nat} (hk : Keeps kb r0 s) :
    Keeps kb r0 (State.popMsg s c type) := by
  unfold State.popMsg
  repeat' with_reducible first | assumption | refine State.onChan_keeps ?_ | refine Keeps.mk_same ?_

theorem State.sendUnder_keeps {kb : Bool} {r0 s : State} {c : Nat} {kslot : Nat} {type : Nat} {tag : BitVec 32}
    {payload : List Byte} (hk : Keeps kb r0 s) :
    Keeps kb r0 (State.sendUnder s c kslot type tag payload) := by
  unfold State.sendUnder
  repeat' with_reducible first | assumption | refine State.onChan_keeps ?_ | refine Keeps.mk_same ?_

theorem State.sendMsg_keeps {kb : Bool} {r0 s : State} {c : Nat} {type : Nat} {tag : BitVec 32} {payload : List
    Byte} (hk : Keeps kb r0 s) :
    Keeps kb r0 (State.sendMsg s c type tag payload) := by
  unfold State.sendMsg
  repeat' with_reducible first | assumption | refine State.sendUnder_keeps ?_

theorem State.countDone_keeps {kb : Bool} {r0 s : State} {g : Nat} {reason : Nat} (hk : Keeps kb r0 s) :
    Keeps kb r0 (State.countDone s g reason) := by
  unfold State.countDone
  repeat' with_reducible first
    | assumption | extract_lets | refine State.bump_keeps ?_ | split | dsimp +zetaDelta only
    | refine Keeps.mk_same ?_

theorem State.sendDone_keeps {kb : Bool} {r0 s : State} {g : Nat} {c : Nat} {tag : BitVec 32} {d : DoneInfo} (hk :
    Keeps kb r0 s) :
    Keeps kb r0 (State.sendDone s g c tag d) := by
  unfold State.sendDone
  repeat' with_reducible first | assumption | refine State.sendMsg_keeps ?_ | refine State.countDone_keeps ?_

theorem State.doneReq_keeps {kb : Bool} {r0 s : State} {g : Nat} {q : Req} {tag : BitVec 32} {reason : Nat} {fault :
    BitVec 16} (hk : Keeps kb r0 s) :
    Keeps kb r0 (State.doneReq s g q tag reason fault) := by
  unfold State.doneReq
  repeat' with_reducible first
    | assumption | refine State.fault_keeps ?_ | refine State.sendDone_keeps ?_
    | refine Keeps.ite (fun _ => ?_) fun _ => ?_

theorem State.mgmtAnswer_keeps {kb : Bool} {r0 s : State} {sess : Nat} {cmd : Nat} {tag : BitVec 32} {status : Nat}
    {payload : List Byte} (hk : Keeps kb r0 s) :
    Keeps kb r0 (State.mgmtAnswer s sess cmd tag status payload) := by
  unfold State.mgmtAnswer
  repeat' with_reducible first
    | assumption | extract_lets | refine State.onSession_keeps ?_ | refine State.bump_keeps ?_
    | refine Keeps.ite (fun _ => ?_) fun _ => ?_ | dsimp +zetaDelta only | refine Keeps.mk_same ?_

end Sys2Proof.Machine
end

