-- ==== Sys2Proof/Laws/KeepsAttention.lean ====
section
/-! SUPPORT. `Keeps` through the functions of Machine/Attention.lean. -/

namespace Sys2Proof.Machine

set_option linter.all false

theorem State.putVec_keeps {kb : Bool} {r0 s : State} {g : Nat} {a : Nat} {i : ImageInfo} {layer : Nat} {h : Nat}
    {isV : Bool} {vs : List Dyad} (hk : Keeps kb r0 s) :
    Keeps kb r0 (State.putVec s g a i layer h isV vs) := by
  unfold State.putVec
  repeat' with_reducible first
    | assumption | extract_lets | refine State.bump_keeps ?_ | refine State.putHbm_keeps ?_
    | dsimp +zetaDelta only

theorem State.storeKv_keeps {kb : Bool} {r0 s : State} {g : Nat} {slot : Nat} {layer : Nat} {n : Nat} {pos : Nat}
    {ka : Nat} {va : Nat} (hk : Keeps kb r0 s) :
    Keeps kb r0 (State.storeKv s g slot layer n pos ka va) := by
  unfold State.storeKv
  repeat' with_reducible first
    | assumption | extract_lets | refine State.putHbmNum_keeps ?_ | refine State.putVec_keeps ?_
    | refine Keeps.foldl (fun _ _ _ => ?_) ?_ | dsimp +zetaDelta only | refine Keeps.mk_same ?_

theorem execKvStoreWrite_keeps {kb : Bool} {r0 s : State} {g : SaggerIx} {slot : BitVec 16} {row : BitVec 16} {layer
    : BitVec 8} {kAddr : BitVec 32} {vAddr : BitVec 32} (hk : Keeps kb r0 s) :
    KeepsNext kb r0 (execKvStoreWrite g slot row layer kAddr vAddr s) := by
  unfold execKvStoreWrite
  repeat' with_reducible first
    | assumption | extract_lets | refine State.bump_keeps ?_ | refine State.touch_keeps ?_
    | refine State.fault_keeps ?_ | refine State.failSlot_keeps ?_ | refine State.storeKv_keeps ?_
    | refine KeepsNext.next ?_ | exact KeepsNext.refused | refine KeepsNext.ite (fun _ => ?_) fun _ => ?_
    | refine Keeps.ite (fun _ => ?_) fun _ => ?_ | split | dsimp +zetaDelta only | refine Keeps.mk_same ?_

theorem State.emitTile_keeps {kb : Bool} {r0 s : State} {g : Nat} {l : Nat} {e : Ragged} {c : WalkCursor} {qAddr :
    Nat} {outAddr : Nat} {pages : List Nat} (hk : Keeps kb r0 s) :
    Keeps kb r0 (State.emitTile s g l e c qAddr outAddr pages) := by
  unfold State.emitTile
  repeat' with_reducible first
    | assumption | extract_lets | refine State.onSagger_keeps ?_ | refine State.onLdu_keeps ?_
    | refine State.bump_keeps ?_ | refine State.putSlabNum_keeps ?_ | dsimp +zetaDelta only
    | refine Keeps.mk_same ?_

theorem execWalkOpenTile_keeps {kb : Bool} {r0 s : State} {g : SaggerIx} {qAddr : BitVec 32} {outAddr : BitVec 32}
    (hk : Keeps kb r0 s) :
    KeepsNext kb r0 (execWalkOpenTile g qAddr outAddr s) := by
  unfold execWalkOpenTile
  repeat' with_reducible first
    | assumption | extract_lets | refine State.onSagger_keeps ?_ | refine State.touch_keeps ?_
    | refine State.failSlot_keeps ?_ | refine State.emitTile_keeps ?_ | refine State.when_keeps ?_ fun _ => ?_
    | refine KeepsNext.next ?_ | exact KeepsNext.refused | refine Keeps.foldl (fun _ _ _ => ?_) ?_
    | refine KeepsNext.ite (fun _ => ?_) fun _ => ?_ | refine Keeps.ite (fun _ => ?_) fun _ => ?_ | split
    | dsimp +zetaDelta only | refine Keeps.mk_same ?_

theorem State.copySlot_keeps {kb : Bool} {r0 m s : State} {g : Nat} {slot : Nat} {layer : Nat} {a : Nat} {b : Nat}
    (hk : Keeps kb r0 m) (_hk1 : Keeps kb r0 s) :
    Keeps kb r0 (State.copySlot m s g slot layer a b) := by
  unfold State.copySlot
  repeat' with_reducible first
    | assumption | extract_lets | refine State.putHbm_keeps ?_ | refine State.putHbmNum_keeps ?_
    | refine Keeps.foldl (fun _ _ _ => ?_) ?_ | dsimp +zetaDelta only

theorem State.copyLayers_keeps {kb : Bool} {r0 s : State} {g : Nat} {slot : Nat} {a : Nat} {b : Nat} (hk : Keeps kb
    r0 s) :
    Keeps kb r0 (State.copyLayers s g slot a b) := by
  unfold State.copyLayers
  repeat' with_reducible first
    | assumption | extract_lets | refine State.bump_keeps ?_ | refine State.copySlot_keeps ?_ ?_
    | refine Keeps.foldl (fun _ _ _ => ?_) ?_ | dsimp +zetaDelta only

theorem execSlotCopy_keeps {kb : Bool} {r0 s : State} {g : SaggerIx} (hk : Keeps kb r0 s) :
    KeepsNext kb r0 (execSlotCopy g s) := by
  unfold execSlotCopy
  repeat' with_reducible first
    | assumption | extract_lets | refine State.touch_keeps ?_ | refine State.onSlot_keeps ?_
    | refine State.copyLayers_keeps ?_ | refine KeepsNext.next ?_ | exact KeepsNext.refused
    | refine KeepsNext.ite (fun _ => ?_) fun _ => ?_ | refine Keeps.ite (fun _ => ?_) fun _ => ?_ | split
    | dsimp +zetaDelta only | refine Keeps.mk_same ?_

theorem execCompactCopy_keeps {kb : Bool} {r0 s : State} {g : SaggerIx} (hk : Keeps kb r0 s) :
    KeepsNext kb r0 (execCompactCopy g s) := by
  unfold execCompactCopy
  repeat' with_reducible first
    | assumption | extract_lets | refine State.bump_keeps ?_ | refine State.touch_keeps ?_
    | refine State.onSlot_keeps ?_ | refine State.copySlotTo_keeps ?_ | refine KeepsNext.next ?_
    | exact KeepsNext.refused | split | dsimp +zetaDelta only | refine Keeps.mk_same ?_

end Sys2Proof.Machine
end

