-- ==== Sys2Proof/Laws/KeepsServe.lean ====
section
/-! SUPPORT. `Keeps` through the functions of Machine/Serve.lean. -/

namespace Sys2Proof.Machine

set_option linter.all false

theorem State.refuseSubmit_keeps {kb : Bool} {r0 s : State} {g : Nat} {c : Nat} {m : Msg} {reason : Nat} {fault :
    BitVec 16} (hk : Keeps kb r0 s) :
    Keeps kb r0 (State.refuseSubmit s g c m reason fault) := by
  unfold State.refuseSubmit
  repeat' with_reducible first | assumption | refine State.fault_keeps ?_ | refine State.sendDone_keeps ?_

theorem State.rejectSubmit_keeps {kb : Bool} {r0 s : State} {g : Nat} {c : Nat} {m : Msg} {detail : Nat} {info :
    Bool} (hk : Keeps kb r0 s) :
    Keeps kb r0 (State.rejectSubmit s g c m detail info) := by
  unfold State.rejectSubmit
  repeat' with_reducible first
    | assumption | extract_lets | refine State.raise_keeps ?_ | refine State.refuseSubmit_keeps ?_
    | refine Keeps.ite (fun _ => ?_) fun _ => ?_ | dsimp +zetaDelta only

theorem State.acceptSubmit_keeps {kb : Bool} {r0 s : State} {g : Nat} {c : Nat} {m : Msg} (hk : Keeps kb r0 s) :
    Keeps kb r0 (State.acceptSubmit s g c m) := by
  unfold State.acceptSubmit
  repeat' with_reducible first | assumption | refine State.onSagger_keeps ?_ | refine Keeps.mk_same ?_

theorem State.takeSubmit_keeps {kb : Bool} {r0 s : State} {g : Nat} {c : Nat} {m : Msg} (hk : Keeps kb r0 s) :
    Keeps kb r0 (State.takeSubmit s g c m) := by
  unfold State.takeSubmit
  repeat' with_reducible first
    | assumption | extract_lets | refine State.refuseSubmit_keeps ?_ | refine State.rejectSubmit_keeps ?_
    | refine State.acceptSubmit_keeps ?_ | refine Keeps.ite (fun _ => ?_) fun _ => ?_ | split
    | dsimp +zetaDelta only | refine Keeps.mk_same ?_

theorem State.takeMsg_keeps {kb : Bool} {r0 s : State} {c : Nat} {type : Nat} {effect : State → Nat → Msg → State}
    (hk : Keeps kb r0 s) (hf : ∀ (y0 : State) (y1 : Nat) (y2 : Msg), Keeps kb r0 y0 → Keeps kb r0 (effect y0 y1 y2))
    :
    KeepsNext kb r0 (State.takeMsg s c type effect) := by
  unfold State.takeMsg
  repeat' with_reducible first
    | assumption | refine hf _ _ _ ?_ | refine State.popMsg_keeps ?_ | refine KeepsNext.next ?_
    | exact KeepsNext.refused | refine KeepsNext.ite (fun _ => ?_) fun _ => ?_
    | refine Keeps.ite (fun _ => ?_) fun _ => ?_ | split | refine Keeps.mk_same ?_

theorem execSubmit_keeps {kb : Bool} {r0 s : State} {ch : ChanIx} (hk : Keeps kb r0 s) :
    KeepsNext kb r0 (execSubmit ch s) := by
  unfold execSubmit
  repeat' with_reducible first
    | assumption | refine State.takeSubmit_keeps ?_ | refine State.takeMsg_keeps ?_ (fun _ _ _ _ => ?_)
    | refine KeepsNext.next ?_ | exact KeepsNext.refused

theorem State.freeSlot_keeps {kb : Bool} {r0 s : State} {g : Nat} {slot : Nat} (hk : Keeps kb r0 s) :
    Keeps kb r0 (State.freeSlot s g slot) := by
  unfold State.freeSlot
  repeat' with_reducible first
    | assumption | extract_lets | refine State.onSagger_keeps ?_ | refine State.putHbm_keeps ?_
    | refine State.dropFrame_keeps ?_ | refine State.releaseBlocks_keeps ?_
    | refine Keeps.foldl (fun _ _ _ => ?_) ?_ | dsimp +zetaDelta only | refine Keeps.mk_same ?_

theorem State.endReq_keeps {kb : Bool} {r0 s : State} {g : Nat} {q : Req} (hk : Keeps kb r0 s) :
    Keeps kb r0 (State.endReq s g q) := by
  unfold State.endReq
  repeat' with_reducible first
    | assumption | extract_lets | refine State.onSagger_keeps ?_ | refine State.dropFrame_keeps ?_
    | refine State.freeSlot_keeps ?_ | refine Keeps.foldl (fun _ _ _ => ?_) ?_ | dsimp +zetaDelta only
    | refine Keeps.mk_same ?_

theorem State.onReq_keeps {kb : Bool} {r0 s : State} {g : Nat} {q : Req} {f : Req → Req} (hk : Keeps kb r0 s) :
    Keeps kb r0 (State.onReq s g q f) := by
  unfold State.onReq
  repeat' with_reducible first
    | assumption | refine State.onSagger_keeps ?_ | refine Keeps.ite (fun _ => ?_) fun _ => ?_
    | refine Keeps.mk_same ?_

theorem State.setMask_keeps {kb : Bool} {r0 s : State} {g : Nat} {slot : Nat} (hk : Keeps kb r0 s) :
    Keeps kb r0 (State.setMask s g slot) := by
  unfold State.setMask
  repeat' with_reducible first
    | assumption | extract_lets | refine State.putSlabNum_keeps ?_ | split | dsimp +zetaDelta only
    | refine Keeps.mk_same ?_

theorem State.stopSwap_keeps {kb : Bool} {r0 s : State} {g : Nat} {q : Req} (hk : Keeps kb r0 s) :
    Keeps kb r0 (State.stopSwap s g q) := by
  unfold State.stopSwap
  repeat' with_reducible first
    | assumption | extract_lets | refine State.onSagger_keeps ?_ | refine State.onLat_keeps ?_
    | refine State.onReq_keeps ?_ | dsimp +zetaDelta only | refine Keeps.mk_same ?_

theorem State.reap_keeps {kb : Bool} {r0 s : State} {g : Nat} (hk : Keeps kb r0 s) :
    Keeps kb r0 (State.reap s g) := by
  unfold State.reap
  repeat' with_reducible first
    | assumption | refine State.doneReq_keeps ?_ | refine State.endReq_keeps ?_
    | refine Keeps.foldl (fun _ _ _ => ?_) ?_ | refine Keeps.ite (fun _ => ?_) fun _ => ?_ | split
    | refine Keeps.mk_same ?_

theorem State.stopReq_keeps {kb : Bool} {r0 s : State} {g : Nat} {q : Req} {silent : Bool} (hk : Keeps kb r0 s) :
    Keeps kb r0 (State.stopReq s g q silent) := by
  unfold State.stopReq
  repeat' with_reducible first
    | assumption | extract_lets | refine State.onReq_keeps ?_ | refine State.setMask_keeps ?_
    | refine State.stopSwap_keeps ?_ | refine State.reap_keeps ?_ | refine Keeps.foldl (fun _ _ _ => ?_) ?_
    | refine Keeps.ite (fun _ => ?_) fun _ => ?_ | dsimp +zetaDelta only | refine Keeps.mk_same ?_

theorem State.takeCancel_keeps {kb : Bool} {r0 s : State} {g : Nat} {c : Nat} {m : Msg} (hk : Keeps kb r0 s) :
    Keeps kb r0 (State.takeCancel s g c m) := by
  unfold State.takeCancel
  repeat' with_reducible first
    | assumption | extract_lets | refine State.onSagger_keeps ?_ | refine State.raise_keeps ?_
    | refine State.sendDone_keeps ?_ | refine State.stopReq_keeps ?_ | refine Keeps.ite (fun _ => ?_) fun _ => ?_
    | split | dsimp +zetaDelta only | refine Keeps.mk_same ?_

theorem execCancel_keeps {kb : Bool} {r0 s : State} {ch : ChanIx} (hk : Keeps kb r0 s) :
    KeepsNext kb r0 (execCancel ch s) := by
  unfold execCancel
  repeat' with_reducible first
    | assumption | refine State.takeMsg_keeps ?_ (fun _ _ _ _ => ?_) | refine State.takeCancel_keeps ?_
    | refine KeepsNext.next ?_ | exact KeepsNext.refused

theorem State.setBudget_keeps {kb : Bool} {r0 s : State} {g : Nat} {b : Budget} (hk : Keeps kb r0 s) :
    Keeps kb r0 (State.setBudget s g b) := by
  unfold State.setBudget
  repeat' with_reducible first
    | assumption | refine State.onSagger_keeps ?_ | refine Keeps.ite (fun _ => ?_) fun _ => ?_
    | refine Keeps.mk_same ?_

theorem State.takeBudget_keeps {kb : Bool} {r0 s : State} {g : Nat} {m : Msg} (hk : Keeps kb r0 s) :
    Keeps kb r0 (State.takeBudget s g m) := by
  unfold State.takeBudget
  repeat' with_reducible first
    | assumption | extract_lets | refine State.raise_keeps ?_ | refine State.setBudget_keeps ?_
    | refine Keeps.ite (fun _ => ?_) fun _ => ?_ | dsimp +zetaDelta only

theorem execBudgetMessage_keeps {kb : Bool} {r0 s : State} {ch : ChanIx} (hk : Keeps kb r0 s) :
    KeepsNext kb r0 (execBudgetMessage ch s) := by
  unfold execBudgetMessage
  repeat' with_reducible first
    | assumption | refine State.takeMsg_keeps ?_ (fun _ _ _ _ => ?_) | refine State.takeBudget_keeps ?_
    | refine KeepsNext.next ?_ | exact KeepsNext.refused

end Sys2Proof.Machine
end

