-- ==== Sys2Proof/Laws/KeepsSsu.lean ====
section
/-! SUPPORT. `Keeps` through the functions of Machine/Ssu.lean. -/

namespace Sys2Proof.Machine

set_option linter.all false

theorem State.countKey_keeps {kb : Bool} {r0 s : State} {d : Nat} {j : SsuJob} {c : Nat} (hk : Keeps kb r0 s) :
    Keeps kb r0 (State.countKey s d j c) := by
  unfold State.countKey
  repeat' with_reducible first
    | assumption | extract_lets | refine State.onSsu_keeps ?_ | refine Keeps.ite (fun _ => ?_) fun _ => ?_ | split
    | dsimp +zetaDelta only | refine Keeps.mk_same ?_

theorem execSsuStream_keeps {kb : Bool} {r0 s : State} {d : DieIx} (hk : Keeps kb r0 s) :
    KeepsNext kb r0 (execSsuStream d s) := by
  unfold execSsuStream
  repeat' with_reducible first
    | assumption | extract_lets | refine State.onSsu_keeps ?_ | refine State.bump_keeps ?_
    | refine State.touch_keeps ?_ | refine State.countKey_keeps ?_ | refine KeepsNext.next ?_
    | exact KeepsNext.refused | split | dsimp +zetaDelta only | refine Keeps.mk_same ?_ | refine Keeps.mk_draw ?_

theorem execSsuKeyComplete_keeps {kb : Bool} {r0 s : State} {d : DieIx} (hk : Keeps kb r0 s) :
    KeepsNext kb r0 (execSsuKeyComplete d s) := by
  unfold execSsuKeyComplete
  repeat' with_reducible first
    | assumption | extract_lets | refine State.onSagger_keeps ?_ | refine State.onSsu_keeps ?_
    | refine State.bump_keeps ?_ | refine State.putHbm_keeps ?_ | refine State.when_keeps ?_ fun _ => ?_
    | refine KeepsNext.next ?_ | exact KeepsNext.refused | split | dsimp +zetaDelta only | refine Keeps.mk_same ?_

theorem State.applyScore_keeps {kb : Bool} {r0 s : State} {d : Nat} {g : Nat} {n : Nat} (hk : Keeps kb r0 s) :
    Keeps kb r0 (State.applyScore s d g n) := by
  unfold State.applyScore
  repeat' with_reducible first
    | assumption | extract_lets | refine State.onSagger_keeps ?_ | refine State.bump_keeps ?_
    | refine State.putHbmNum_keeps ?_ | refine Keeps.ite (fun _ => ?_) fun _ => ?_ | dsimp +zetaDelta only
    | refine Keeps.mk_same ?_

theorem execSsuApply_keeps {kb : Bool} {r0 s : State} {d : DieIx} {g : SaggerIx} (hk : Keeps kb r0 s) :
    KeepsNext kb r0 (execSsuApply d g s) := by
  unfold execSsuApply
  repeat' with_reducible first
    | assumption | refine State.touch_keeps ?_ | refine State.applyScore_keeps ?_ | refine KeepsNext.next ?_
    | exact KeepsNext.refused | split | refine Keeps.mk_same ?_

end Sys2Proof.Machine
end

