-- ==== Sys2Proof/Laws/KeepsPlan.lean ====
section
/-! SUPPORT. `Keeps` through the functions of Machine/Plan.lean. -/

namespace Sys2Proof.Machine

set_option linter.all false

theorem State.mapPage_keeps {kb : Bool} {r0 s t : State} {g slot tenant start pos layer page : Nat} (h : Keeps kb r0 s)
    (e : s.mapPage g slot tenant start pos layer page = .ok t) : Keeps kb r0 t := by
  unfold State.mapPage at e
  split at e
  · cases e
  · rename_i h1
    cases e
    exact State.putPte_keeps (State.takeFrame_keeps h h1)

theorem State.mapPages_keeps {kb : Bool} {r0 t : State} {g slot tenant start pos : Nat} : ∀ {ps : List (Nat × Nat)} {s : State},
    Keeps kb r0 s → s.mapPages g slot tenant start pos ps = .ok t → Keeps kb r0 t
  | [], _, h, e => by cases e; exact h
  | _ :: _, s, h, e => by
    unfold State.mapPages at e
    split at e
    · cases e
    · rename_i h1
      exact State.mapPages_keeps (State.mapPage_keeps h h1) e

theorem State.mapRows_keeps {kb : Bool} {r0 s t : State} {g slot tenant rows : Nat} (h : Keeps kb r0 s)
    (e : s.mapRows g slot tenant rows = .ok t) : Keeps kb r0 t := by
  unfold State.mapRows at e
  dsimp only at e
  split at e
  · cases e
  · rename_i h1
    cases e
    exact State.putSeq_keeps (State.mapPages_keeps h h1)

theorem State.mapCand_keeps {kb : Bool} {r0 s t : State} {g : Nat} {q : Req} {c : Cand} (h : Keeps kb r0 s)
    (e : s.mapCand g q c = .ok t) : Keeps kb r0 t := by
  unfold State.mapCand at e
  split at e
  · cases e
  · rename_i h1
    split at e
    · cases e
      exact State.mapRows_keeps h h1
    · exact State.mapRows_keeps (State.mapRows_keeps h h1) e

theorem State.drawTokens_keeps {kb : Bool} {r0 s : State} {g : Nat} {q : Req} (hk : Keeps kb r0 s) :
    Keeps kb r0 (State.drawTokens s g q) := by
  unfold State.drawTokens
  repeat' with_reducible first
    | assumption | extract_lets | refine State.onSagger_keeps ?_ | refine Keeps.ite (fun _ => ?_) fun _ => ?_
    | dsimp +zetaDelta only | refine Keeps.mk_same ?_

theorem State.newSlot_keeps {kb : Bool} {r0 s : State} {g : Nat} {slot : Nat} {q : Req} {i : ImageInfo} {frame :
    Nat} (hk : Keeps kb r0 s) :
    Keeps kb r0 (State.newSlot s g slot q i frame) := by
  unfold State.newSlot
  repeat' with_reducible first
    | assumption | extract_lets | refine State.putHbm_keeps ?_ | refine State.zeroHbm_keeps ?_
    | refine State.setFrame_keeps ?_ | refine Keeps.foldl (fun _ _ _ => ?_) ?_ | dsimp +zetaDelta only

theorem State.reqKey_keeps {kb : Bool} {r0 s : State} {q : Submit} (hk : Keeps kb r0 s) :
    Keeps kb r0 (State.reqKey s q).2 := by
  unfold State.reqKey
  repeat' with_reducible first
    | assumption | extract_lets | refine Keeps.of_snd ?_ (by assumption) | dsimp +zetaDelta only
    | refine Keeps.mk_same ?_ | refine Keeps.mk_draw ?_

theorem State.prefixOf_keeps {kb : Bool} {r0 s : State} {g : Nat} {slot : Nat} {model : Nat} {q : Submit} (hk :
    Keeps kb r0 s) :
    Keeps kb r0 (State.prefixOf s g slot model q).2 := by
  unfold State.prefixOf
  repeat' with_reducible first
    | assumption | extract_lets | refine Keeps.of_snd ?_ (by assumption) | refine State.bump_keeps ?_
    | refine State.lookup_keeps ?_ | refine State.attachAll_keeps ?_ | refine Keeps.ite2 (fun _ => ?_) fun _ => ?_
    | refine Keeps.ite (fun _ => ?_) fun _ => ?_ | split | dsimp +zetaDelta only

theorem State.tableRoom_keeps {kb : Bool} {r0 s t : State} {g : Nat} {q : Req} {models fs : List Nat} (h : Keeps kb r0 s)
    (e : s.tableRoom g q models = some (fs, t)) : Keeps kb r0 t := by
  have key : ∀ (ms : List Nat) (acc : Option (List Nat × State)), (∀ x, acc = some x → Keeps kb r0 x.2) →
      ∀ x, ms.foldl (fun acc m => acc.bind fun (fs, s) =>
        let i := ((s.image? g m).map (·.info)).getD {}
        let n := tableFrames i (ptPagesFor i (q.sub.prompt.length + q.sub.maxNew))
        (s.freeRun g n).map fun f => (fs ++ [f], (List.range n).foldl (fun s k => s.setFrame g (f + k) .table) s)) acc = some x →
      Keeps kb r0 x.2 := by
    intro ms
    induction ms with
    | nil => intro acc ha x hx; exact ha x hx
    | cons m ms ih =>
      intro acc ha x hx
      refine ih _ ?_ x hx
      intro y hy
      rw [Option.bind_eq_some_iff] at hy
      obtain ⟨z, hz, hy⟩ := hy
      dsimp only at hy
      rw [Option.map_eq_some_iff] at hy
      obtain ⟨f, _, rfl⟩ := hy
      exact Keeps.foldl (fun _ _ ht => State.setFrame_keeps ht) (ha z hz)
  exact key models _ (fun x hx => by cases hx; exact h) _ e

theorem State.seat_keeps {kb : Bool} {r0 s : State} {g : Nat} {q : Req} {slots : List Nat} {frames : List Nat} (hk :
    Keeps kb r0 s) :
    Keeps kb r0 (State.seat s g q slots frames) := by
  unfold State.seat
  repeat' with_reducible first
    | assumption | extract_lets | refine Keeps.of_snd ?_ (by assumption) | refine State.onSagger_keeps ?_
    | refine State.bump_keeps ?_ | refine State.onReq_keeps ?_ | refine State.drawTokens_keeps ?_
    | refine State.newSlot_keeps ?_ | refine State.reqKey_keeps ?_ | refine State.prefixOf_keeps ?_
    | refine Keeps.foldl (fun _ _ _ => ?_) ?_ | refine Keeps.ite (fun _ => ?_) fun _ => ?_ | split
    | dsimp +zetaDelta only | refine Keeps.mk_same ?_

theorem State.startCompact_keeps {kb : Bool} {r0 s : State} {g : Nat} {q : Req} (hk : Keeps kb r0 s) :
    Keeps kb r0 (State.startCompact s g q) := by
  unfold State.startCompact
  repeat' with_reducible first
    | assumption | extract_lets | refine State.bump_keeps ?_ | refine State.putSeq_keeps ?_
    | refine State.takeFrames_keeps ?_ (by assumption) | refine State.onReq_keeps ?_ | split
    | dsimp +zetaDelta only | refine Keeps.mk_same ?_

theorem State.failBadSeqs_keeps {kb : Bool} {r0 s : State} {g : Nat} (hk : Keeps kb r0 s) :
    Keeps kb r0 (State.failBadSeqs s g) := by
  unfold State.failBadSeqs
  repeat' with_reducible first | assumption | refine State.failSlot_keeps ?_ | refine Keeps.foldl (fun _ _ _ => ?_) ?_

theorem PlanRun.give_keeps {kb : Bool} {r0 : State} {p : PlanRun} {g : Nat} {c : Cand} (h : Keeps kb r0 p.s) :
    Keeps kb r0 (p.give g c).s := by
  unfold PlanRun.give
  split
  · exact h
  · dsimp only
    split
    · rename_i e
      exact State.onReq_keeps (State.mapCand_keeps h e)
    · exact State.onReq_keeps h
    · exact State.onReq_keeps (State.evictFor_keeps h)

theorem PlanRun.prefills_keeps {kb : Bool} {r0 : State} {g : Nat} {i : ImageInfo} {alone : Bool} : ∀ {qs : List Req} {p : PlanRun},
    Keeps kb r0 p.s → Keeps kb r0 (p.prefills g i alone qs).s
  | [], _, h => h
  | q :: r, p, h => by
    unfold PlanRun.prefills
    split
    · exact h
    · dsimp only
      split
      · exact h
      · exact PlanRun.prefills_keeps (PlanRun.give_keeps h)

theorem PlanRun.admit_keeps {kb : Bool} {r0 : State} {p : PlanRun} {g : Nat} {i : ImageInfo} {alone : Bool} {q : Req}
    (h : Keeps kb r0 p.s) : Keeps kb r0 (p.admitOne g i alone q).s := by
  unfold PlanRun.admitOne
  dsimp only
  generalize (if q.sub.spec = 1 then [q.sub.model, q.sub.draft] else [q.sub.model]) = models
  split
  · exact h
  · split
    · exact State.evictFor_keeps h
    · split
      · exact h
      · split
        · exact h
        · split
          · exact PlanRun.give_keeps (State.seat_keeps h)
          · exact h
          · exact State.evictFor_keeps h

theorem State.planRun_keeps {kb : Bool} {r0 s : State} {g : Nat} (h : Keeps kb r0 s) : Keeps kb r0 (s.planRun g).s := by
  have hb := Keeps.foldl (fun t q (ht : Keeps kb r0 t) => State.startCompact_keeps (g := g) (q := q) ht)
    (State.onSagger_keeps (g := g) (f := fun x => { x with stepModel := s.planModel g }) (State.failBadSeqs_keeps (g := g) h))
    (xs := ((((s.failBadSeqs g).onSagger g fun x => { x with stepModel := s.planModel g }).sagger g).live.filter fun q =>
      q.st == .compact && q.failed.isNone))
  unfold State.planRun
  refine Keeps.foldl_of (π := PlanRun.s) (fun p q hp => ?_) ?_
  · split
    · exact PlanRun.admit_keeps hp
    · exact hp
  · exact PlanRun.prefills_keeps (Keeps.foldl_of (π := PlanRun.s) (fun p c hp => PlanRun.give_keeps hp) hb)

theorem State.beginStep_keeps {kb : Bool} {r0 s : State} {g : Nat} {p : PlanRun} (h : Keeps kb r0 p.s) :
    Keeps kb r0 (State.beginStep s g p) := State.onSagger_keeps (State.putSlab_keeps (State.putSlab_keeps h))

theorem execStepPlan_keeps {kb : Bool} {r0 s : State} {g : SaggerIx} (hk : Keeps kb r0 s) :
    KeepsNext kb r0 (execStepPlan g s) := by
  unfold execStepPlan
  repeat' with_reducible first
    | assumption | extract_lets | refine State.touch_keeps ?_ | refine State.reap_keeps ?_
    | refine State.planRun_keeps ?_ | refine State.beginStep_keeps ?_ | refine KeepsNext.next ?_
    | exact KeepsNext.refused | refine KeepsNext.ite (fun _ => ?_) fun _ => ?_
    | refine Keeps.ite (fun _ => ?_) fun _ => ?_ | dsimp +zetaDelta only

end Sys2Proof.Machine
end

