-- ==== Sys2Proof/Laws/KeepsSample.lean ====
section
/-! SUPPORT. `Keeps` through the functions of Machine/Sample.lean. -/

namespace Sys2Proof.Machine

set_option linter.all false

theorem execDraftPass_keeps {kb : Bool} {r0 s : State} {g : SaggerIx} {slot : BitVec 16} {blocks : List (List
    (BitVec 32))} (hk : Keeps kb r0 s) :
    KeepsNext kb r0 (execDraftPass g slot blocks s) := by
  unfold execDraftPass
  repeat' with_reducible first
    | assumption | extract_lets | refine State.bump_keeps ?_ | refine State.touch_keeps ?_
    | refine State.onSlot_keeps ?_ | refine State.failSlot_keeps ?_ | refine KeepsNext.next ?_
    | exact KeepsNext.refused | refine KeepsNext.ite (fun _ => ?_) fun _ => ?_
    | refine Keeps.ite (fun _ => ?_) fun _ => ?_ | split | dsimp +zetaDelta only | refine Keeps.mk_same ?_

theorem State.countSample_keeps {kb : Bool} {r0 s : State} {d : Nat} {vocab : Nat} {greedy : Bool} {r : Sampled} (hk
    : Keeps kb r0 s) :
    Keeps kb r0 (State.countSample s d vocab greedy r) := by
  unfold State.countSample
  repeat' with_reducible first | assumption | refine State.bump_keeps ?_

theorem execSampleRow_keeps {kb : Bool} {r0 s : State} {g : SaggerIx} {slot : BitVec 16} {node : BitVec 6} {blocks :
    List (BitVec 32)} (hk : Keeps kb r0 s) :
    KeepsNext kb r0 (execSampleRow g slot node blocks s) := by
  unfold execSampleRow
  repeat' with_reducible first
    | assumption | extract_lets | refine State.bump_keeps ?_ | refine State.touch_keeps ?_
    | refine State.onSlot_keeps ?_ | refine State.failSlot_keeps ?_ | refine State.countSample_keeps ?_
    | refine KeepsNext.next ?_ | exact KeepsNext.refused | refine KeepsNext.ite (fun _ => ?_) fun _ => ?_
    | refine Keeps.ite (fun _ => ?_) fun _ => ?_ | split | dsimp +zetaDelta only | refine Keeps.mk_same ?_

theorem execVerifyTree_keeps {kb : Bool} {r0 s : State} {g : SaggerIx} {slot : BitVec 16} (hk : Keeps kb r0 s) :
    KeepsNext kb r0 (execVerifyTree g slot s) := by
  unfold execVerifyTree
  repeat' with_reducible first
    | assumption | extract_lets | refine State.bump_keeps ?_ | refine State.touch_keeps ?_
    | refine State.onSlot_keeps ?_ | refine State.when_keeps ?_ fun _ => ?_ | refine KeepsNext.next ?_
    | exact KeepsNext.refused | split | dsimp +zetaDelta only | refine Keeps.mk_same ?_

end Sys2Proof.Machine
end

