-- ==== Sys2Proof/Laws/KeepsSwap.lean ====
section
/-! SUPPORT. `Keeps` through the functions of Machine/Swap.lean. -/

namespace Sys2Proof.Machine

set_option linter.all false

theorem State.newSid_keeps {kb : Bool} {r0 s : State}  (hk : Keeps kb r0 s) :
    Keeps kb r0 (State.newSid s).2 := by
  unfold State.newSid
  repeat' with_reducible first
    | assumption | refine Keeps.of_snd ?_ (by assumption) | refine State.onLat_keeps ?_ | refine Keeps.mk_same ?_

theorem State.startOut_keeps {kb : Bool} {r0 s : State} {o : OutStream} (hk : Keeps kb r0 s) :
    Keeps kb r0 (State.startOut s o) := by
  unfold State.startOut
  repeat' with_reducible first
    | assumption | refine State.onGlaze_keeps ?_ | refine State.onLat_keeps ?_ | refine Keeps.mk_same ?_

theorem State.pageOut_keeps {kb : Bool} {r0 s : State} {g : Nat} {q : Req} {key : Nat} {page : Nat} {frame : Nat}
    (hk : Keeps kb r0 s) :
    Keeps kb r0 (State.pageOut s g q key page frame) := by
  unfold State.pageOut
  repeat' with_reducible first
    | assumption | extract_lets | refine Keeps.of_snd ?_ (by assumption) | refine State.newSid_keeps ?_
    | refine State.startOut_keeps ?_ | split | dsimp +zetaDelta only

theorem State.swapOut_keeps {kb : Bool} {r0 s : State} {g : Nat} {q : Req} (hk : Keeps kb r0 s) :
    Keeps kb r0 (State.swapOut s g q).2 := by
  unfold State.swapOut
  repeat' with_reducible first
    | assumption | extract_lets | refine Keeps.of_snd ?_ (by assumption) | refine State.onSagger_keeps ?_
    | refine State.putSeq_keeps ?_ | refine State.onReq_keeps ?_ | refine State.pageOut_keeps ?_
    | refine Keeps.foldl (fun _ _ _ => ?_) ?_ | refine Keeps.ite2 (fun _ => ?_) fun _ => ?_
    | refine Keeps.ite (fun _ => ?_) fun _ => ?_ | dsimp +zetaDelta only | refine Keeps.mk_same ?_

theorem State.finishPageOut_keeps {kb : Bool} {r0 s : State} {g : Nat} {q : Req} {key : Nat} {page : Nat} {unit :
    Nat} (hk : Keeps kb r0 s) :
    Keeps kb r0 (State.finishPageOut s g q key page unit) := by
  unfold State.finishPageOut
  repeat' with_reducible first
    | assumption | extract_lets | refine State.onLat_keeps ?_ | refine State.putSeq_keeps ?_
    | refine State.putPte_keeps ?_ | refine State.dropFrame_keeps ?_ | refine Keeps.foldl (fun _ _ _ => ?_) ?_
    | refine Keeps.ite (fun _ => ?_) fun _ => ?_ | dsimp +zetaDelta only | refine Keeps.mk_same ?_

theorem execSwapOutPage_keeps {kb : Bool} {r0 s : State} {g : SaggerIx} {slot : BitVec 16} (hk : Keeps kb r0 s) :
    KeepsNext kb r0 (execSwapOutPage g slot s) := by
  unfold execSwapOutPage
  repeat' with_reducible first
    | assumption | refine State.touch_keeps ?_ | refine State.finishPageOut_keeps ?_ | refine KeepsNext.next ?_
    | exact KeepsNext.refused | split | refine Keeps.mk_same ?_

theorem State.pageIn_keeps {kb : Bool} {r0 s : State} {g : Nat} {q : Req} {key : Nat} {page : Nat} {unit : Nat}
    {frame : Nat} (hk : Keeps kb r0 s) :
    Keeps kb r0 (State.pageIn s g q key page unit frame) := by
  unfold State.pageIn
  repeat' with_reducible first
    | assumption | extract_lets | refine Keeps.of_snd ?_ (by assumption) | refine State.onLat_keeps ?_
    | refine State.newSid_keeps ?_ | split | dsimp +zetaDelta only | refine Keeps.mk_same ?_

theorem State.landPage_keeps {kb : Bool} {r0 s : State} {g : Nat} {q : Req} {key : Nat} {page : Nat} (hk : Keeps kb
    r0 s) :
    Keeps kb r0 (State.landPage s g q key page) := by
  unfold State.landPage
  repeat' with_reducible first
    | assumption | extract_lets | refine State.onSagger_keeps ?_ | refine State.putSeq_keeps ?_
    | refine State.putPte_keeps ?_ | refine State.onReq_keeps ?_ | refine Keeps.foldl (fun _ _ _ => ?_) ?_
    | refine Keeps.ite (fun _ => ?_) fun _ => ?_ | split | dsimp +zetaDelta only | refine Keeps.mk_same ?_

theorem execSwapIn_keeps {kb : Bool} {r0 s : State} {g : SaggerIx} {slot : BitVec 16} (hk : Keeps kb r0 s) :
    KeepsNext kb r0 (execSwapIn g slot s) := by
  unfold execSwapIn
  repeat' with_reducible first
    | assumption | extract_lets | refine State.touch_keeps ?_ | refine State.putSeq_keeps ?_
    | refine State.takeFrames_keeps ?_ (by assumption) | refine State.onReq_keeps ?_
    | refine State.pageIn_keeps ?_ | refine KeepsNext.next ?_ | exact KeepsNext.refused
    | refine Keeps.foldl (fun _ _ _ => ?_) ?_ | refine KeepsNext.ite (fun _ => ?_) fun _ => ?_
    | refine Keeps.ite (fun _ => ?_) fun _ => ?_ | split | dsimp +zetaDelta only | refine Keeps.mk_same ?_

theorem State.failSwapAs_keeps {kb : Bool} {r0 s : State} {block : Nat} {detail : Nat} {unit : Nat} {g : Nat} {q :
    Req} (hk : Keeps kb r0 s) :
    Keeps kb r0 (State.failSwapAs s block detail unit g q) := by
  unfold State.failSwapAs
  repeat' with_reducible first
    | assumption | extract_lets | refine State.faultReq_keeps ?_ | refine State.doneReq_keeps ?_
    | refine State.onReq_keeps ?_ | refine State.stopSwap_keeps ?_ | dsimp +zetaDelta only
    | refine Keeps.mk_same ?_

theorem State.failSwap_keeps {kb : Bool} {r0 s : State} {g : Nat} {q : Req} (hk : Keeps kb r0 s) :
    Keeps kb r0 (State.failSwap s g q) := by
  unfold State.failSwap
  repeat' with_reducible first | assumption | refine State.failSwapAs_keeps ?_

theorem State.dropMove_keeps {kb : Bool} {r0 s : State} {m : Migration} {status : Nat} (hk : Keeps kb r0 s) :
    Keeps kb r0 (State.dropMove s m status) := by
  unfold State.dropMove
  repeat' with_reducible first
    | assumption | extract_lets | refine State.onSagger_keeps ?_ | refine State.onLat_keeps ?_
    | refine State.mgmtAnswer_keeps ?_ | refine Keeps.ite (fun _ => ?_) fun _ => ?_ | dsimp +zetaDelta only
    | refine Keeps.mk_same ?_

theorem State.moveOut_keeps {kb : Bool} {r0 s : State} {m : Migration} {q : Req} {key : Nat} {page : Nat} {frame :
    Nat} (hk : Keeps kb r0 s) :
    Keeps kb r0 (State.moveOut s m q key page frame) := by
  unfold State.moveOut
  repeat' with_reducible first
    | assumption | extract_lets | refine Keeps.of_snd ?_ (by assumption) | refine State.onLat_keeps ?_
    | refine State.newSid_keeps ?_ | refine State.startOut_keeps ?_ | refine Keeps.ite (fun _ => ?_) fun _ => ?_
    | split | dsimp +zetaDelta only | refine Keeps.mk_same ?_

theorem State.startMoves_keeps {kb : Bool} {r0 s : State} {g : Nat} (hk : Keeps kb r0 s) :
    Keeps kb r0 (State.startMoves s g) := by
  unfold State.startMoves
  repeat' with_reducible first
    | assumption | refine State.dropMove_keeps ?_ | refine State.moveOut_keeps ?_
    | refine Keeps.foldl (fun _ _ _ => ?_) ?_ | refine Keeps.ite (fun _ => ?_) fun _ => ?_ | split
    | refine Keeps.mk_same ?_

end Sys2Proof.Machine
end

