-- ==== Sys2Proof/Laws/KeepsFire.lean ====
section
/-! SUPPORT. `Keeps` through the functions of Machine/Fire.lean. -/

namespace Sys2Proof.Machine

set_option linter.all false

theorem State.trimPage_keeps {kb : Bool} {r0 s : State} {g : Nat} {slot : Nat} {layer : Nat} {page : Nat} {fired :
    Nat} (hk : Keeps kb r0 s) :
    Keeps kb r0 (State.trimPage s g slot layer page fired) := by
  unfold State.trimPage
  repeat' with_reducible first
    | assumption | extract_lets | refine State.putPte_keeps ?_ | refine State.dropFrame_keeps ?_
    | refine Keeps.ite (fun _ => ?_) fun _ => ?_ | dsimp +zetaDelta only | refine Keeps.mk_same ?_

theorem State.trimSlots_keeps {kb : Bool} {r0 s : State} {g : Nat} {slot : Nat} {fired : Nat} (hk : Keeps kb r0 s) :
    Keeps kb r0 (State.trimSlots s g slot fired) := by
  unfold State.trimSlots
  repeat' with_reducible first
    | assumption | extract_lets | refine State.trimPage_keeps ?_ | refine Keeps.foldl (fun _ _ _ => ?_) ?_
    | dsimp +zetaDelta only

theorem State.fireSlot_keeps {kb : Bool} {r0 s : State} {g : Nat} {slot : Nat} {fired : Nat} {pos : Nat} {step :
    Nat} (hk : Keeps kb r0 s) :
    Keeps kb r0 (State.fireSlot s g slot fired pos step) := by
  unfold State.fireSlot
  repeat' with_reducible first | assumption | refine State.putSeq_keeps ?_ | refine State.trimSlots_keeps ?_

theorem State.applySeq_keeps {kb : Bool} {r0 s : State} {g : Nat} {k : Commit} {c : CommitSeq} (hk : Keeps kb r0 s) :
    Keeps kb r0 (State.applySeq s g k c) := by
  unfold State.applySeq
  repeat' with_reducible first
    | assumption | extract_lets | refine State.onReq_keeps ?_ | refine State.fireSlot_keeps ?_
    | refine Keeps.ite (fun _ => ?_) fun _ => ?_ | split | dsimp +zetaDelta only | refine Keeps.mk_same ?_

theorem State.publishReq_keeps {kb : Bool} {r0 s : State} {g : Nat} {c : CommitSeq} (hk : Keeps kb r0 s) :
    Keeps kb r0 (State.publishReq s g c) := by
  unfold State.publishReq
  repeat' with_reducible first
    | assumption | extract_lets | refine Keeps.of_snd ?_ (by assumption) | refine State.publishSlot_keeps ?_
    | refine State.onReq_keeps ?_ | split | dsimp +zetaDelta only | refine Keeps.mk_same ?_

theorem State.commitCompact_keeps {kb : Bool} {r0 s : State} {g : Nat} {q : Req} (hk : Keeps kb r0 s) :
    Keeps kb r0 (State.commitCompact s g q) := by
  unfold State.commitCompact
  repeat' with_reducible first
    | assumption | extract_lets | refine State.bump_keeps ?_ | refine State.putHbmNum_keeps ?_
    | refine State.putSeq_keeps ?_ | refine State.putPte_keeps ?_ | refine State.dropFrame_keeps ?_
    | refine State.releaseBlocks_keeps ?_ | refine State.onReq_keeps ?_ | refine Keeps.foldl (fun _ _ _ => ?_) ?_
    | refine Keeps.ite (fun _ => ?_) fun _ => ?_ | dsimp +zetaDelta only | refine Keeps.mk_same ?_

theorem State.dropCompact_keeps {kb : Bool} {r0 s : State} {g : Nat} {q : Req} (hk : Keeps kb r0 s) :
    Keeps kb r0 (State.dropCompact s g q) := by
  unfold State.dropCompact
  repeat' with_reducible first
    | assumption | refine State.dropFrame_keeps ?_ | refine State.onReq_keeps ?_
    | refine Keeps.foldl (fun _ _ _ => ?_) ?_ | refine Keeps.mk_same ?_

theorem State.applyCompacts_keeps {kb : Bool} {r0 s : State} {g : Nat} (hk : Keeps kb r0 s) :
    Keeps kb r0 (State.applyCompacts s g) := by
  unfold State.applyCompacts
  repeat' with_reducible first
    | assumption | refine State.commitCompact_keeps ?_ | refine State.dropCompact_keeps ?_
    | refine Keeps.foldl (fun _ _ _ => ?_) ?_ | refine Keeps.ite (fun _ => ?_) fun _ => ?_

theorem State.handOff_keeps {kb : Bool} {r0 s : State} {g : Nat} {k : Commit} (hk : Keeps kb r0 s) :
    Keeps kb r0 (State.handOff s g k) := by
  unfold State.handOff
  repeat' with_reducible first
    | assumption | extract_lets | refine State.onSagger_keeps ?_ | refine State.onSsu_keeps ?_
    | refine Keeps.foldl (fun _ _ _ => ?_) ?_ | dsimp +zetaDelta only | refine Keeps.mk_same ?_

theorem State.applyBudgets_keeps {kb : Bool} {r0 s : State} {g : Nat} (hk : Keeps kb r0 s) :
    Keeps kb r0 (State.applyBudgets s g) := by
  unfold State.applyBudgets
  repeat' with_reducible first
    | assumption | extract_lets | refine State.onSagger_keeps ?_ | refine Keeps.ite (fun _ => ?_) fun _ => ?_
    | split | dsimp +zetaDelta only | refine Keeps.mk_same ?_

theorem State.ageCuts_keeps {kb : Bool} {r0 s : State} {g : Nat} (hk : Keeps kb r0 s) :
    Keeps kb r0 (State.ageCuts s g) := by
  unfold State.ageCuts
  repeat' with_reducible first
    | assumption | extract_lets | refine State.onSagger_keeps ?_ | refine State.bump_keeps ?_
    | refine Keeps.foldl (fun _ _ _ => ?_) ?_ | refine Keeps.ite (fun _ => ?_) fun _ => ?_ | split
    | dsimp +zetaDelta only | refine Keeps.mk_same ?_

theorem State.shortVictims_keeps {kb : Bool} {r0 s : State} {g : Nat} (hk : Keeps kb r0 s) :
    Keeps kb r0 (State.shortVictims s g).2 := by
  unfold State.shortVictims
  repeat' with_reducible first
    | assumption | extract_lets | refine Keeps.of_snd ?_ (by assumption) | refine State.evictFor_keeps ?_
    | refine State.onReq_keeps ?_ | refine State.planRun_keeps ?_ | refine Keeps.foldl (fun _ _ _ => ?_) ?_
    | refine Keeps.ite2 (fun _ => ?_) fun _ => ?_ | refine Keeps.ite (fun _ => ?_) fun _ => ?_ | split
    | dsimp +zetaDelta only | refine Keeps.mk_same ?_

theorem State.preempt_keeps {kb : Bool} {r0 s : State} {g : Nat} {q : Req} (hk : Keeps kb r0 s) :
    Keeps kb r0 (State.preempt s g q).2 := by
  unfold State.preempt
  repeat' with_reducible first
    | assumption | extract_lets | refine Keeps.of_snd ?_ (by assumption) | refine State.bump_keeps ?_
    | refine State.onReq_keeps ?_ | refine State.swapOut_keeps ?_ | refine Keeps.ite2 (fun _ => ?_) fun _ => ?_
    | refine Keeps.ite (fun _ => ?_) fun _ => ?_ | split | dsimp +zetaDelta only | refine Keeps.mk_same ?_

theorem State.learnStep_keeps {kb : Bool} {r0 s : State} {g : Nat} {tokens : Nat} {late : Nat} (hk : Keeps kb r0 s) :
    Keeps kb r0 (State.learnStep s g tokens late) := by
  unfold State.learnStep
  repeat' with_reducible first
    | assumption | extract_lets | refine State.onSagger_keeps ?_ | refine State.bump_keeps ?_
    | dsimp +zetaDelta only | refine Keeps.mk_same ?_

theorem State.recordStep_keeps {kb : Bool} {r0 s : State} {g : Nat} {tokens : Nat} {es : List Ragged} {preempt :
    Bool} (hk : Keeps kb r0 s) :
    Keeps kb r0 (State.recordStep s g tokens es preempt) :=
  State.bump_keeps (State.putHbm_keeps hk)

theorem State.sendVerdict_keeps {kb : Bool} {r0 s : State} {g : Nat} {k : Commit} {evicted : List Req} {v : Verdict}
    (hk : Keeps kb r0 s) :
    Keeps kb r0 (State.sendVerdict s g k evicted v) := by
  unfold State.sendVerdict
  repeat' with_reducible first
    | assumption | extract_lets | refine State.sendMsg_keeps ?_ | refine State.doneReq_keeps ?_
    | refine Keeps.ite (fun _ => ?_) fun _ => ?_ | split | dsimp +zetaDelta only | refine Keeps.mk_same ?_

theorem State.fireApply_keeps {kb : Bool} {r0 s : State} {g : Nat} {k : Commit} (hk : Keeps kb r0 s) :
    Keeps kb r0 (State.fireApply s g k) := by
  unfold State.fireApply
  repeat' with_reducible first
    | assumption | extract_lets | refine State.applySeq_keeps ?_ | refine State.publishReq_keeps ?_
    | refine State.applyCompacts_keeps ?_ | refine State.handOff_keeps ?_ | refine State.applyBudgets_keeps ?_
    | refine Keeps.foldl (fun _ _ _ => ?_) ?_ | dsimp +zetaDelta only

theorem State.fireEnds_keeps {kb : Bool} {r0 s : State} {g : Nat} {vs : List Verdict} (hk : Keeps kb r0 s) :
    Keeps kb r0 (State.fireEnds s g vs).2 := by
  unfold State.fireEnds
  repeat' with_reducible first
    | assumption | extract_lets | refine Keeps.of_snd ?_ (by assumption) | refine State.endReq_keeps ?_
    | refine Keeps.foldl (fun _ _ _ => ?_) ?_ | dsimp +zetaDelta only


theorem preemptInto_keeps {kb : Bool} {r0 : State} {g : Nat} {acc : List Req × State} {q : Req} (h : Keeps kb r0 acc.2) :
    Keeps kb r0 (preemptInto g acc q).2 := State.preempt_keeps h

theorem State.fireVictims_keeps {kb : Bool} {r0 s : State} {g : Nat} (h : Keeps kb r0 s) :
    Keeps kb r0 (s.fireVictims g).2.2 := by
  have run : ∀ (qs : List Req) (acc : List Req × State), Keeps kb r0 acc.2 → Keeps kb r0 (qs.foldl (preemptInto g) acc).2 :=
    fun qs acc hacc => Keeps.foldl_of (π := Prod.snd) (fun _ _ hz => preemptInto_keeps hz) hacc
  have h1 := run (s.cutVictims g) ([], s) h
  have h2 := State.shortVictims_keeps (g := g) h1
  unfold State.fireVictims
  dsimp only
  with_reducible exact run _ _ h2

theorem State.fireClose_keeps {kb : Bool} {r0 s : State} {g : Nat} (hk : Keeps kb r0 s) :
    Keeps kb r0 (State.fireClose s g) := by
  unfold State.fireClose
  repeat' with_reducible first
    | assumption | extract_lets | refine State.onSagger_keeps ?_ | refine State.onWheel_keeps ?_
    | refine State.onLdu_keeps ?_ | refine State.putSeq_keeps ?_ | refine State.onReq_keeps ?_
    | refine Keeps.foldl (fun _ _ _ => ?_) ?_ | refine Keeps.ite (fun _ => ?_) fun _ => ?_ | dsimp +zetaDelta only
    | refine Keeps.mk_same ?_

theorem State.finishFire_keeps {kb : Bool} {r0 s : State} {g : Nat} {k : Commit} (hk : Keeps kb r0 s) :
    Keeps kb r0 (State.finishFire s g k) := by
  unfold State.finishFire
  repeat' with_reducible first
    | assumption | extract_lets | refine Keeps.of_snd ?_ (by assumption)
    | refine Keeps.of_third ?_ (by assumption) | refine State.onSagger_keeps ?_ | refine State.sendDone_keeps ?_
    | refine State.doneReq_keeps ?_ | refine State.startMoves_keeps ?_ | refine State.ageCuts_keeps ?_
    | refine State.learnStep_keeps ?_ | refine State.recordStep_keeps ?_ | refine State.sendVerdict_keeps ?_
    | refine State.fireApply_keeps ?_ | refine State.fireEnds_keeps ?_ | refine State.fireVictims_keeps ?_
    | refine State.fireClose_keeps ?_ | refine Keeps.foldl (fun _ _ _ => ?_) ?_ | split | dsimp +zetaDelta only
    | refine Keeps.mk_same ?_

theorem execFirePoint_keeps {kb : Bool} {r0 s : State} {g : SaggerIx} (hk : Keeps kb r0 s) :
    KeepsNext kb r0 (execFirePoint g s) := by
  unfold execFirePoint
  repeat' with_reducible first
    | assumption | refine State.touch_keeps ?_ | refine State.finishFire_keeps ?_
    | refine State.when_keeps ?_ fun _ => ?_ | refine KeepsNext.next ?_ | exact KeepsNext.refused

end Sys2Proof.Machine
end

