-- ==== Sys2Proof/Laws/KeepsWareBoard.lean ====
section
/-! SUPPORT. `Keeps` through the functions of Machine/WareBoard.lean. -/

namespace Sys2Proof.Machine

set_option linter.all false

theorem State.onUnit_keeps {kb : Bool} {r0 s : State} {d : Nat} {u : Nat} {f : WareUnit → WareUnit} (hk : Keeps kb
    r0 s) :
    Keeps kb r0 (State.onUnit s d u f) := by
  unfold State.onUnit
  repeat' with_reducible first | assumption | refine State.onWare_keeps ?_ | refine Keeps.mk_same ?_

theorem State.acceptLoad_keeps {kb : Bool} {r0 s : State} {d : Nat} {l : Load} (hk : Keeps kb r0 s) :
    Keeps kb r0 (State.acceptLoad s d l) := by
  unfold State.acceptLoad
  repeat' with_reducible first
    | assumption | extract_lets | refine State.onWare_keeps ?_ | refine State.onUnit_keeps ?_
    | refine Keeps.foldl (fun _ _ _ => ?_) ?_ | dsimp +zetaDelta only | refine Keeps.mk_same ?_

theorem State.admitWaiting_keeps {kb : Bool} {r0 s : State} {d : Nat} (hk : Keeps kb r0 s) :
    Keeps kb r0 (State.admitWaiting s d) := by
  unfold State.admitWaiting
  repeat' with_reducible first
    | assumption | extract_lets | refine State.onWare_keeps ?_ | refine State.acceptLoad_keeps ?_
    | refine Keeps.foldl (fun _ _ _ => ?_) ?_ | refine Keeps.foldl_of (π := Prod.snd) (fun _ _ _ => ?_) ?_
    | dsimp +zetaDelta only | refine Keeps.mk_same ?_

theorem State.requestLoad_keeps {kb : Bool} {r0 s : State} {d : Nat} {l : Load} (hk : Keeps kb r0 s) :
    Keeps kb r0 (State.requestLoad s d l) := by
  unfold State.requestLoad
  repeat' with_reducible first
    | assumption | refine State.onWare_keeps ?_ | refine State.admitWaiting_keeps ?_ | refine Keeps.mk_same ?_

theorem State.askLoad_keeps {kb : Bool} {r0 s : State} {d : Nat} {l : Load} (hk : Keeps kb r0 s) :
    Keeps kb r0 (State.askLoad s d l) := by
  unfold State.askLoad
  repeat' with_reducible first
    | assumption | refine State.askRemote_keeps ?_ | refine Keeps.foldl (fun _ _ _ => ?_) ?_
    | refine Keeps.ite (fun _ => ?_) fun _ => ?_

theorem execLoad_keeps {kb : Bool} {r0 s : State} {g : SaggerIx} {rec : BitVec 256} (hk : Keeps kb r0 s) :
    KeepsNext kb r0 (execLoad g rec s) := by
  unfold execLoad
  repeat' with_reducible first
    | assumption | extract_lets | refine State.touch_keeps ?_ | refine State.faultRec_keeps ?_
    | refine State.haltList_keeps ?_ | refine State.acceptLoad_keeps ?_ | refine State.askLoad_keeps ?_
    | refine State.when_keeps ?_ fun _ => ?_ | refine KeepsNext.next ?_ | exact KeepsNext.refused
    | refine KeepsNext.ite (fun _ => ?_) fun _ => ?_ | refine Keeps.ite (fun _ => ?_) fun _ => ?_ | split
    | dsimp +zetaDelta only

theorem State.landLoad_keeps {kb : Bool} {r0 s : State} {d : Nat} {l : Load} {data : List Byte} (hk : Keeps kb r0 s) :
    Keeps kb r0 (State.landLoad s d l data) := by
  unfold State.landLoad
  repeat' first
    | (with_reducible first
        | assumption | extract_lets | refine State.onWare_keeps ?_ | refine State.onLute_keeps ?_
        | refine State.bump_keeps ?_ | refine State.touch_keeps ?_ | refine State.advance_keeps ?_
        | refine State.onUnit_keeps ?_ | refine State.admitWaiting_keeps ?_
        | refine Keeps.foldl (fun _ _ _ => ?_) ?_ | refine Keeps.ite (fun _ => ?_) fun _ => ?_
        | dsimp +zetaDelta only)
    | refine State.onWareMem_keeps (fun _ hm => Memory.wf_mwrite _ _ hm) ?_
    | with_reducible refine Keeps.mk_same ?_

theorem State.loadRead_keeps {kb : Bool} {r0 s : State} {l : Load} {ecc : Ecc} {off : Nat} (hk : Keeps kb r0 s) :
    Keeps kb r0 (State.loadRead s l ecc off) := by
  unfold State.loadRead
  repeat' with_reducible first
    | assumption | refine State.weightRead_keeps ?_ | refine Keeps.ite (fun _ => ?_) fun _ => ?_

theorem execLoadLand_keeps {kb : Bool} {r0 s : State} {d : DieIx} {num : BitVec 16} {ecc : Ecc} {off : BitVec 22}
    (hk : Keeps kb r0 s) : KeepsNext kb r0 (execLoadLand d num ecc off s) := by
  unfold execLoadLand
  repeat' with_reducible first
    | assumption | refine State.loadRead_keeps ?_ | refine State.landLoad_keeps ?_ | refine State.when_keeps ?_ fun _ => ?_
    | refine KeepsNext.next ?_ | exact KeepsNext.refused | split | refine Keeps.mk_same ?_

theorem execLoadDemand_keeps {kb : Bool} {r0 s : State} {w : WheelIx} {b : BufIx} (hk : Keeps kb r0 s) :
    KeepsNext kb r0 (execLoadDemand w b s) := by
  unfold execLoadDemand
  repeat' with_reducible first
    | assumption | extract_lets | refine State.onWare_keeps ?_ | refine State.bump_keeps ?_
    | refine State.when_keeps ?_ fun _ => ?_ | refine KeepsNext.next ?_ | exact KeepsNext.refused
    | dsimp +zetaDelta only | refine Keeps.mk_same ?_

theorem State.dropLoad_keeps {kb : Bool} {r0 s : State} {d : Nat} {l : Load} (hk : Keeps kb r0 s) :
    Keeps kb r0 (State.dropLoad s d l) := by
  have h1 : Keeps kb r0 (s.onWareMem fun m => mwrite m (d * 2 ^ 26 + l.dst * 1024) (freeBytes s.freeCtr (l.len *
      1024))) :=
    State.onWareMem_keeps (fun _ hm => Memory.wf_mwrite _ _ hm) hk
  have h2 := h1.of_draw (n := l.len * 1024)
    (t := { (s.onWareMem fun m => mwrite m (d * 2 ^ 26 + l.dst * 1024) (freeBytes s.freeCtr (l.len * 1024))) with
      freeCtr := s.freeCtr + l.len * 1024 }) rfl rfl rfl rfl rfl rfl rfl rfl
  exact State.bump_keeps (State.onWare_keeps (Keeps.foldl (fun _ _ ht => State.onUnit_keeps ht) h2))

theorem State.squashLoads_keeps {kb : Bool} {r0 s : State} {g : Nat} {p : Load → Bool} (hk : Keeps kb r0 s) :
    Keeps kb r0 (State.squashLoads s g p) := by
  unfold State.squashLoads
  repeat' with_reducible first
    | assumption | extract_lets | refine State.onWare_keeps ?_ | refine State.admitWaiting_keeps ?_
    | refine State.dropLoad_keeps ?_ | refine Keeps.foldl (fun _ _ _ => ?_) ?_ | dsimp +zetaDelta only
    | refine Keeps.mk_same ?_

theorem State.confirmLoads_keeps {kb : Bool} {r0 s : State} {g : Nat} {epoch : Nat} {expert : Nat} (hk : Keeps kb r0
    s) :
    Keeps kb r0 (State.confirmLoads s g epoch expert) := by
  unfold State.confirmLoads
  repeat' with_reducible first
    | assumption | extract_lets | refine State.onWare_keeps ?_ | refine State.raise_keeps ?_
    | refine Keeps.foldl (fun _ _ _ => ?_) ?_ | refine Keeps.ite (fun _ => ?_) fun _ => ?_ | dsimp +zetaDelta only
    | refine Keeps.mk_same ?_

theorem State.resetWare_keeps {kb : Bool} {r0 s : State} {g : Nat} (hk : Keeps kb r0 s) :
    Keeps kb r0 (State.resetWare s g) := by
  unfold State.resetWare
  repeat' with_reducible first
    | assumption | extract_lets | refine State.onWare_keeps ?_ | refine Keeps.foldl (fun _ _ _ => ?_) ?_
    | refine Keeps.ite (fun _ => ?_) fun _ => ?_ | dsimp +zetaDelta only | refine Keeps.mk_same ?_

end Sys2Proof.Machine
end

