-- ==== Sys2Proof/Laws/KeepsMemory.lean ====
section
/-! SUPPORT. `Keeps` through the functions of Machine/Memory.lean. -/

namespace Sys2Proof.Machine

set_option linter.all false

theorem State.slabCorrected_keeps {kb : Bool} {r0 s : State} {w : Nat} {bank : Nat} (hk : Keeps kb r0 s) :
    Keeps kb r0 (State.slabCorrected s w bank) := by
  unfold State.slabCorrected
  repeat' with_reducible first
    | assumption | refine State.setReg_keeps ?_ | refine State.bump_keeps ?_ | refine State.raiseLimited_keeps ?_

theorem State.slabLost_keeps {kb : Bool} {r0 s : State} {w : Nat} {bank : Nat} (hk : Keeps kb r0 s) :
    Keeps kb r0 (State.slabLost s w bank) := by
  unfold State.slabLost
  repeat' with_reducible first
    | assumption | refine State.setReg_keeps ?_ | refine State.bump_keeps ?_ | refine State.fault_keeps ?_

theorem execSlabRead_keeps {kb : Bool} {r0 s : State} {w : WheelIx} {offset : BitVec 22} {len : Nat} {ecc : Ecc} (hk
    : Keeps kb r0 s) :
    KeepsNext kb r0 (execSlabRead w offset len ecc s) := by
  unfold execSlabRead
  repeat' first
    | (with_reducible first
        | assumption | extract_lets | refine State.bump_keeps ?_ | refine State.slabCorrected_keeps ?_
        | refine State.slabLost_keeps ?_ | refine KeepsNext.next ?_ | exact KeepsNext.refused
        | refine KeepsNext.ite (fun _ => ?_) fun _ => ?_ | refine Keeps.ite (fun _ => ?_) fun _ => ?_ | split
        | dsimp +zetaDelta only)
    | refine State.onMem_keeps (fun _ hm => hm) ?_ | with_reducible refine Keeps.mk_same ?_

theorem execSlabWrite_keeps {kb : Bool} {r0 s : State} {w : WheelIx} {offset : BitVec 22} {data : List Byte} (hk :
    Keeps kb r0 s) :
    KeepsNext kb r0 (execSlabWrite w offset data s) := by
  unfold execSlabWrite
  repeat' first
    | (with_reducible first
        | assumption | refine KeepsNext.next ?_ | exact KeepsNext.refused
        | refine KeepsNext.ite (fun _ => ?_) fun _ => ?_ | refine Keeps.ite (fun _ => ?_) fun _ => ?_)
    | refine State.onMem_keeps (fun _ hm => Memories.slabWrite_canon _ _ hm) ?_

theorem State.clearSlabs_keeps {kb : Bool} {r0 s : State} {g : Nat} (hk : Keeps kb r0 s) :
    Keeps kb r0 (State.clearSlabs s g) := by
  unfold State.clearSlabs
  repeat' first
    | (with_reducible first
        | assumption | refine State.bump_keeps ?_ | refine Keeps.foldl (fun _ _ _ => ?_) ?_
        | refine Keeps.ite (fun _ => ?_) fun _ => ?_)
    | refine State.onMem_keeps (fun _ hm => Memories.slabClear_canon _ hm) ?_

theorem execSlabClear_keeps {kb : Bool} {r0 s : State} {g : SaggerIx} (hk : Keeps kb r0 s) :
    KeepsNext kb r0 (execSlabClear g s) := by
  unfold execSlabClear
  repeat' with_reducible first
    | assumption | extract_lets | refine State.onSagger_keeps ?_ | refine State.touch_keeps ?_
    | refine State.clearSlabs_keeps ?_ | refine State.when_keeps ?_ fun _ => ?_ | refine KeepsNext.next ?_
    | exact KeepsNext.refused | dsimp +zetaDelta only | refine Keeps.mk_same ?_

theorem State.sopReject_keeps {kb : Bool} {r0 s : State} {g : Nat} {r : Nat} (hk : Keeps kb r0 s) :
    Keeps kb r0 (State.sopReject s g r) := by
  unfold State.sopReject
  repeat' with_reducible first | assumption | refine State.faultRec_keeps ?_

theorem State.sopDone_keeps {kb : Bool} {r0 s : State} {g : Nat} {r : Nat} (hk : Keeps kb r0 s) :
    Keeps kb r0 (State.sopDone s g r) := by
  unfold State.sopDone
  repeat' with_reducible first | assumption | refine State.touch_keeps ?_ | refine State.advance_keeps ?_

theorem State.runSop_keeps {kb : Bool} {r0 s effect : State} {name : String} {op : Nat} {g : Nat} {r : Nat} {ok :
    Bool} (hk : Keeps kb r0 s) (hk1 : Keeps kb r0 effect) :
    KeepsNext kb r0 (State.runSop s name op g r ok effect) := by
  unfold State.runSop
  repeat' with_reducible first
    | assumption | refine State.sopReject_keeps ?_ | refine KeepsNext.next ?_ | exact KeepsNext.refused
    | refine KeepsNext.ite (fun _ => ?_) fun _ => ?_ | refine Keeps.ite (fun _ => ?_) fun _ => ?_

theorem execFill_keeps {kb : Bool} {r0 s : State} {g : SaggerIx} {rec : BitVec 128} (hk : Keeps kb r0 s) :
    KeepsNext kb r0 (execFill g rec s) := by
  unfold execFill
  repeat' with_reducible first
    | assumption | extract_lets | refine State.bump_keeps ?_ | refine State.putSlab_keeps ?_
    | refine State.sopDone_keeps ?_ | refine State.runSop_keeps ?_ ?_ | refine KeepsNext.next ?_
    | exact KeepsNext.refused | dsimp +zetaDelta only

theorem execCopy_keeps {kb : Bool} {r0 s : State} {g : SaggerIx} {rec : BitVec 128} (hk : Keeps kb r0 s) :
    KeepsNext kb r0 (execCopy g rec s) := by
  unfold execCopy
  repeat' with_reducible first
    | assumption | extract_lets | refine State.bump_keeps ?_ | refine State.putSlab_keeps ?_
    | refine State.sopDone_keeps ?_ | refine State.runSop_keeps ?_ ?_ | refine KeepsNext.next ?_
    | exact KeepsNext.refused | dsimp +zetaDelta only

theorem execHload_keeps {kb : Bool} {r0 s : State} {g : SaggerIx} {rec : BitVec 128} (hk : Keeps kb r0 s) :
    KeepsNext kb r0 (execHload g rec s) := by
  unfold execHload
  repeat' with_reducible first
    | assumption | extract_lets | refine State.bump_keeps ?_ | refine State.putSlab_keeps ?_
    | refine State.askRemote_keeps ?_ | refine State.sopDone_keeps ?_ | refine State.runSop_keeps ?_ ?_
    | refine KeepsNext.next ?_ | exact KeepsNext.refused | refine Keeps.foldl (fun _ _ _ => ?_) ?_
    | refine KeepsNext.ite (fun _ => ?_) fun _ => ?_ | refine Keeps.ite (fun _ => ?_) fun _ => ?_
    | dsimp +zetaDelta only

theorem State.gatherOp_keeps {kb : Bool} {r0 s : State} {g : Nat} {r : Nat} (hk : Keeps kb r0 s) :
    Keeps kb r0 (State.gatherOp s g r) := by
  unfold State.gatherOp
  repeat' with_reducible first
    | assumption | extract_lets | refine State.bump_keeps ?_ | refine State.putSlab_keeps ?_
    | refine Keeps.foldl (fun _ _ _ => ?_) ?_ | split
    | dsimp +zetaDelta only | refine Keeps.mk_same ?_

theorem execGather_keeps {kb : Bool} {r0 s : State} {g : SaggerIx} {rec : BitVec 128} (hk : Keeps kb r0 s) :
    KeepsNext kb r0 (execGather g rec s) := by
  unfold execGather
  repeat' with_reducible first
    | assumption | extract_lets | refine State.fault_keeps ?_ | refine State.sopDone_keeps ?_
    | refine State.runSop_keeps ?_ ?_ | refine State.gatherOp_keeps ?_ | refine KeepsNext.next ?_
    | exact KeepsNext.refused | refine KeepsNext.ite (fun _ => ?_) fun _ => ?_
    | refine Keeps.ite (fun _ => ?_) fun _ => ?_ | dsimp +zetaDelta only

theorem State.narrowReject_keeps {kb : Bool} {r0 s : State} {g : Nat} {a : Nat} (hk : Keeps kb r0 s) :
    Keeps kb r0 (State.narrowReject s g a) := by
  unfold State.narrowReject
  repeat' with_reducible first | assumption | refine State.raise_keeps ?_

theorem State.writeReject_keeps {kb : Bool} {r0 s : State} {g : Nat} {a : Nat} (hk : Keeps kb r0 s) :
    Keeps kb r0 (State.writeReject s g a) := by
  unfold State.writeReject
  repeat' with_reducible first | assumption | refine State.raise_keeps ?_

theorem execNarrowAccess_keeps {kb : Bool} {r0 s : State} {g : SaggerIx} {write : Bool} {addr : BitVec 41} {size :
    Nat} {data : List Byte} {ecc : Ecc} {hit : HbmData} (hk : Keeps kb r0 s) :
    KeepsNext kb r0 (execNarrowAccess g write addr size data ecc hit s) := by
  unfold execNarrowAccess
  repeat' first
    | (with_reducible first
        | assumption | extract_lets | refine State.bump_keeps ?_ | refine State.putHbm_keeps ?_
        | refine State.askRemote_keeps ?_ | refine State.writeRemote_keeps ?_ | refine State.hbmCorrected_keeps ?_
        | refine State.hbmLost_keeps ?_ | refine State.narrowReject_keeps ?_ | refine State.writeReject_keeps ?_
        | refine KeepsNext.next ?_ | exact KeepsNext.refused | refine KeepsNext.ite (fun _ => ?_) fun _ => ?_
        | refine Keeps.ite (fun _ => ?_) fun _ => ?_ | split | dsimp +zetaDelta only)
    | refine State.onMem_keeps (fun _ hm => hm) ?_ | with_reducible refine Keeps.mk_same ?_

theorem State.doAtomic_keeps {kb : Bool} {r0 s : State} {r : Nat} (hk : Keeps kb r0 s) :
    Keeps kb r0 (State.doAtomic s r) := by
  unfold State.doAtomic
  repeat' first
    | (with_reducible first
        | assumption | extract_lets | refine Keeps.of_snd ?_ (by assumption) | refine State.draw_keeps ?_
        | refine State.bump_keeps ?_ | refine State.putHbmNum_keeps ?_
        | refine Keeps.ite (fun _ => ?_) fun _ => ?_ | split | dsimp +zetaDelta only)
    | refine State.onMem_keeps (fun _ hm => hm) ?_ | with_reducible refine Keeps.mk_same ?_

theorem State.runAtomic_keeps {kb : Bool} {r0 s : State} {name : String} {op : Nat} {g : Nat} {r : Nat} (hk : Keeps
    kb r0 s) :
    KeepsNext kb r0 (State.runAtomic s name op g r) := by
  unfold State.runAtomic
  repeat' with_reducible first
    | assumption | refine State.atomicRemote_keeps ?_ | refine State.narrowReject_keeps ?_
    | refine State.writeReject_keeps ?_ | refine State.doAtomic_keeps ?_ | refine KeepsNext.next ?_
    | exact KeepsNext.refused | refine KeepsNext.ite (fun _ => ?_) fun _ => ?_
    | refine Keeps.ite (fun _ => ?_) fun _ => ?_

theorem execAddS32_keeps {kb : Bool} {r0 s : State} {g : SaggerIx} {rec : BitVec 128} (hk : Keeps kb r0 s) :
    KeepsNext kb r0 (execAddS32 g rec s) := by
  unfold execAddS32
  repeat' with_reducible first
    | assumption | refine State.runAtomic_keeps ?_ | refine KeepsNext.next ?_ | exact KeepsNext.refused

theorem execAddS64_keeps {kb : Bool} {r0 s : State} {g : SaggerIx} {rec : BitVec 128} (hk : Keeps kb r0 s) :
    KeepsNext kb r0 (execAddS64 g rec s) := by
  unfold execAddS64
  repeat' with_reducible first
    | assumption | refine State.runAtomic_keeps ?_ | refine KeepsNext.next ?_ | exact KeepsNext.refused

theorem execAddF32_keeps {kb : Bool} {r0 s : State} {g : SaggerIx} {rec : BitVec 128} (hk : Keeps kb r0 s) :
    KeepsNext kb r0 (execAddF32 g rec s) := by
  unfold execAddF32
  repeat' with_reducible first
    | assumption | refine State.runAtomic_keeps ?_ | refine KeepsNext.next ?_ | exact KeepsNext.refused

theorem execAddS32Floor_keeps {kb : Bool} {r0 s : State} {g : SaggerIx} {rec : BitVec 128} (hk : Keeps kb r0 s) :
    KeepsNext kb r0 (execAddS32Floor g rec s) := by
  unfold execAddS32Floor
  repeat' with_reducible first
    | assumption | refine State.runAtomic_keeps ?_ | refine KeepsNext.next ?_ | exact KeepsNext.refused

theorem execHbmPromote_keeps {kb : Bool} {r0 s : State} {st : StackIx} {id : Nat} (hk : Keeps kb r0 s) :
    KeepsNext kb r0 (execHbmPromote st id s) := by
  unfold execHbmPromote
  repeat' with_reducible first
    | assumption | extract_lets | refine State.onWare_keeps ?_ | refine KeepsNext.next ?_
    | exact KeepsNext.refused | refine Keeps.foldl (fun _ _ _ => ?_) ?_
    | refine KeepsNext.ite (fun _ => ?_) fun _ => ?_ | refine Keeps.ite (fun _ => ?_) fun _ => ?_
    | dsimp +zetaDelta only | refine Keeps.mk_same ?_

theorem execRefreshTick_keeps {kb : Bool} {r0 s : State} {st : StackIx} {temp : Int} (hk : Keeps kb r0 s) :
    KeepsNext kb r0 (execRefreshTick st temp s) := by
  unfold execRefreshTick
  repeat' with_reducible first
    | assumption | extract_lets | refine State.onStack_keeps ?_ | refine State.fault_keeps ?_
    | refine KeepsNext.next ?_ | exact KeepsNext.refused | refine KeepsNext.ite (fun _ => ?_) fun _ => ?_
    | refine Keeps.ite (fun _ => ?_) fun _ => ?_ | dsimp +zetaDelta only

theorem execFrameScrub_keeps {kb : Bool} {r0 s : State} {st : StackIx} {ok : Bool} (hk : Keeps kb r0 s) :
    KeepsNext kb r0 (execFrameScrub st ok s) := by
  unfold execFrameScrub
  repeat' with_reducible first
    | assumption | extract_lets | refine State.onSagger_keeps ?_ | refine State.onStack_keeps ?_
    | refine State.bump_keeps ?_ | refine State.zeroHbm_keeps ?_ | refine State.fault_keeps ?_
    | refine State.setFrame_keeps ?_ | refine KeepsNext.next ?_ | exact KeepsNext.refused
    | refine KeepsNext.ite (fun _ => ?_) fun _ => ?_ | refine Keeps.ite (fun _ => ?_) fun _ => ?_ | split
    | dsimp +zetaDelta only | refine Keeps.mk_same ?_

theorem execStoreRead_keeps {kb : Bool} {r0 s : State} {ns : BitVec 4} {page : Nat} {fails : Nat} {stripeFails :
    Bool} (hk : Keeps kb r0 s) :
    KeepsNext kb r0 (execStoreRead ns page fails stripeFails s) := by
  unfold execStoreRead
  repeat' with_reducible first
    | assumption | extract_lets | refine State.onStore_keeps ?_ | refine State.bump_keeps ?_
    | refine State.fault_keeps ?_ | refine KeepsNext.next ?_ | exact KeepsNext.refused
    | refine KeepsNext.ite (fun _ => ?_) fun _ => ?_ | refine Keeps.ite (fun _ => ?_) fun _ => ?_
    | dsimp +zetaDelta only | refine Keeps.mk_same ?_

theorem execDisturbRelocate_keeps {kb : Bool} {r0 s : State} {ns : BitVec 4} {block : Nat} (hk : Keeps kb r0 s) :
    KeepsNext kb r0 (execDisturbRelocate ns block s) := by
  unfold execDisturbRelocate
  repeat' with_reducible first
    | assumption | extract_lets | refine State.onStore_keeps ?_ | refine State.when_keeps ?_ fun _ => ?_
    | refine KeepsNext.next ?_ | exact KeepsNext.refused | dsimp +zetaDelta only | refine Keeps.mk_same ?_

theorem execChunkPoison_keeps {kb : Bool} {r0 s : State} {addr : BitVec 41} (hk : Keeps kb r0 s) :
    KeepsNext kb r0 (execChunkPoison addr s) := by
  unfold execChunkPoison
  repeat' with_reducible first
    | assumption | refine State.poisonChunk_keeps ?_ | refine KeepsNext.next ?_ | exact KeepsNext.refused

theorem execChunkReload_keeps {kb : Bool} {r0 s : State} {addr : BitVec 41} (hk : Keeps kb r0 s) :
    KeepsNext kb r0 (execChunkReload addr s) := by
  unfold execChunkReload
  repeat' with_reducible first
    | assumption | extract_lets | refine State.onPoison_keeps ?_ | refine State.bump_keeps ?_
    | refine State.putHbm_keeps ?_ | refine State.dropReload_keeps ?_ | refine State.nextSource_keeps ?_
    | refine KeepsNext.next ?_ | exact KeepsNext.refused | refine KeepsNext.ite (fun _ => ?_) fun _ => ?_
    | refine Keeps.ite (fun _ => ?_) fun _ => ?_ | split | dsimp +zetaDelta only | refine Keeps.mk_same ?_

theorem execReloadSourceTimeout_keeps {kb : Bool} {r0 s : State} {addr : BitVec 41} (hk : Keeps kb r0 s) :
    KeepsNext kb r0 (execReloadSourceTimeout addr s) := by
  unfold execReloadSourceTimeout
  repeat' with_reducible first
    | assumption | refine State.nextSource_keeps ?_ | refine State.when_keeps ?_ fun _ => ?_
    | refine KeepsNext.next ?_ | exact KeepsNext.refused | split | refine Keeps.mk_same ?_

end Sys2Proof.Machine
end

