-- ==== Sys2Proof/Laws/KeepsImageLoad.lean ====
section
/-! SUPPORT. `Keeps` through the functions of Machine/ImageLoad.lean. -/

namespace Sys2Proof.Machine

set_option linter.all false

theorem State.writeChunk_keeps {kb : Bool} {r0 s : State} {i : LoadedImage} {c : Nat} {data : List Byte} (hk : Keeps
    kb r0 s) :
    Keeps kb r0 (State.writeChunk s i c data) := by
  unfold State.writeChunk
  repeat' with_reducible first
    | assumption | extract_lets | refine State.bump_keeps ?_ | refine State.putHbm_keeps ?_
    | dsimp +zetaDelta only

theorem State.installImage_keeps {kb : Bool} {r0 s : State} {g : Nat} {i : LoadedImage} (hk : Keeps kb r0 s) :
    Keeps kb r0 (State.installImage s g i) := by
  unfold State.installImage
  repeat' first
    | (with_reducible first
        | assumption | extract_lets | refine State.onSagger_keeps ?_ | refine State.configTally_keeps ?_
        | refine Keeps.foldl (fun _ _ _ => ?_) ?_ | dsimp +zetaDelta only)
    | refine State.onMem_keeps (fun _ hm => hm) ?_ | with_reducible refine Keeps.mk_same ?_

theorem State.loadRejected_keeps {kb : Bool} {r0 s : State} {g : Nat} {detail : Nat} (hk : Keeps kb r0 s) :
    Keeps kb r0 (State.loadRejected s g detail) := by
  unfold State.loadRejected
  repeat' with_reducible first | assumption | refine State.raise_keeps ?_

theorem State.loadFromStore_keeps {kb : Bool} {r0 s : State} {g : Nat} {i : LoadedImage} (hk : Keeps kb r0 s) :
    Keeps kb r0 (State.loadFromStore s g i) := by
  unfold State.loadFromStore
  repeat' with_reducible first
    | assumption | extract_lets | refine State.bump_keeps ?_ | refine State.poisonChunk_keeps ?_
    | refine State.writeChunk_keeps ?_ | refine State.installImage_keeps ?_
    | refine Keeps.foldl (fun _ _ _ => ?_) ?_ | dsimp +zetaDelta only

theorem State.loadImage_keeps {kb : Bool} {r0 s : State} {g : Nat} {i : LoadedImage} (hk : Keeps kb r0 s) :
    Keeps kb r0 (State.loadImage s g i).2 := by
  unfold State.loadImage
  repeat' with_reducible first
    | assumption | extract_lets | refine Keeps.of_snd ?_ (by assumption) | refine State.draw_keeps ?_
    | refine State.installImage_keeps ?_ | refine State.loadRejected_keeps ?_
    | refine State.loadFromStore_keeps ?_ | refine Keeps.ite2 (fun _ => ?_) fun _ => ?_
    | refine Keeps.ite (fun _ => ?_) fun _ => ?_ | split | dsimp +zetaDelta only | refine Keeps.mk_same ?_

end Sys2Proof.Machine
end

