-- ==== Sys2Proof/Laws/KeepsRouter.lean ====
section
/-! SUPPORT. `Keeps` through the functions of Machine/Router.lean. -/

namespace Sys2Proof.Machine

set_option linter.all false

theorem State.onRouter_keeps {kb : Bool} {r0 s : State} {g : Nat} {f : Router → Router} (hk : Keeps kb r0 s) :
    Keeps kb r0 (State.onRouter s g f) := by
  unfold State.onRouter
  repeat' with_reducible first | assumption | refine State.onSagger_keeps ?_ | refine Keeps.mk_same ?_

theorem State.openLayer_keeps {kb : Bool} {r0 s : State} {g : Nat} {l : Nat} (hk : Keeps kb r0 s) :
    Keeps kb r0 (State.openLayer s g l) := by
  unfold State.openLayer
  repeat' with_reducible first
    | assumption | extract_lets | refine State.onRouter_keeps ?_ | refine Keeps.ite (fun _ => ?_) fun _ => ?_
    | dsimp +zetaDelta only | refine Keeps.mk_same ?_

theorem State.appendToken_keeps {kb : Bool} {r0 s : State} {c : ChunkShape} {x : Chunk} {slot : Nat} {blocks : List
    (BitVec 32)} (hk : Keeps kb r0 s) :
    Keeps kb r0 (State.appendToken s c x slot blocks) := by
  unfold State.appendToken
  repeat' with_reducible first
    | assumption | extract_lets | refine State.putSlab_keeps ?_ | refine Keeps.foldl (fun _ _ _ => ?_) ?_
    | dsimp +zetaDelta only

theorem State.emitSet_keeps {kb : Bool} {r0 s : State} {g : Nat} {l : LayerInfo} {li : Nat} {expert : Nat} {die :
    Nat} {first : Nat} {tokN : Nat} {og : Nat} {part : Nat} {out : Nat} {tally : Nat} {lists : Nat → Nat} (hk :
    Keeps kb r0 s) :
    Keeps kb r0 (State.emitSet s g l li expert die first tokN og part out tally lists) := by
  unfold State.emitSet
  repeat' with_reducible first
    | assumption | extract_lets | refine State.putSlab_keeps ?_ | refine State.listWrite_keeps ?_
    | refine Keeps.foldl (fun _ _ _ => ?_) ?_ | dsimp +zetaDelta only

theorem State.emitMatrix_keeps {kb : Bool} {r0 s : State} {g : Nat} {l : LayerInfo} {li : Nat} {expert : Nat} {first
    : Nat} {tokN : Nat} {tally : Nat} {lists : Nat → Nat} {parts : Nat → Nat} {outs : Nat → Nat} (hk : Keeps kb r0
    s) :
    Keeps kb r0 (State.emitMatrix s g l li expert first tokN tally lists parts outs).2 := by
  unfold State.emitMatrix
  repeat' with_reducible first
    | assumption | extract_lets | refine Keeps.of_snd ?_ (by assumption) | refine State.emitSet_keeps ?_
    | refine Keeps.foldl (fun _ _ _ => ?_) ?_ | split | dsimp +zetaDelta only

theorem State.emitGateUp_keeps {kb : Bool} {r0 s : State} {g : Nat} {l : Nat} {x : Chunk} (hk : Keeps kb r0 s) :
    Keeps kb r0 (State.emitGateUp s g l x) := by
  unfold State.emitGateUp
  repeat' with_reducible first
    | assumption | extract_lets | refine Keeps.of_snd ?_ (by assumption) | refine State.onRouter_keeps ?_
    | refine State.emitMatrix_keeps ?_ | refine Keeps.ite (fun _ => ?_) fun _ => ?_ | split
    | dsimp +zetaDelta only | refine Keeps.mk_same ?_

theorem State.downLists_keeps {kb : Bool} {r0 s : State} {c : ChunkShape} {x : Chunk} (hk : Keeps kb r0 s) :
    Keeps kb r0 (State.downLists s c x) := by
  unfold State.downLists
  repeat' with_reducible first
    | assumption | extract_lets | refine State.putSlab_keeps ?_ | refine Keeps.foldl (fun _ _ _ => ?_) ?_

theorem State.emitDown_keeps {kb : Bool} {r0 s : State} {g : Nat} {l : Nat} {x : Chunk} (hk : Keeps kb r0 s) :
    Keeps kb r0 (State.emitDown s g l x) := by
  unfold State.emitDown
  repeat' with_reducible first
    | assumption | extract_lets | refine Keeps.of_snd ?_ (by assumption) | refine State.onRouter_keeps ?_
    | refine State.emitMatrix_keeps ?_ | refine State.downLists_keeps ?_ | split | dsimp +zetaDelta only | refine Keeps.mk_same ?_

theorem State.fetchExpert_keeps {kb : Bool} {r0 s : State} {g : Nat} {l : Nat} {expert : Nat} {epoch : Nat} {pred :
    Bool} (hk : Keeps kb r0 s) :
    Keeps kb r0 (State.fetchExpert s g l expert epoch pred) := by
  unfold State.fetchExpert
  repeat' with_reducible first
    | assumption | extract_lets | refine State.requestLoad_keeps ?_ | refine Keeps.foldl (fun _ _ _ => ?_) ?_
    | refine Keeps.ite (fun _ => ?_) fun _ => ?_ | split | dsimp +zetaDelta only | refine Keeps.mk_same ?_

theorem State.confirmExpert_keeps {kb : Bool} {r0 s : State} {g : Nat} {l : Nat} {expert : Nat} (hk : Keeps kb r0 s) :
    Keeps kb r0 (State.confirmExpert s g l expert) := by
  unfold State.confirmExpert
  repeat' with_reducible first
    | assumption | extract_lets | refine State.bump_keeps ?_ | refine State.confirmLoads_keeps ?_
    | refine State.onRouter_keeps ?_ | refine State.fetchExpert_keeps ?_ | split | dsimp +zetaDelta only
    | refine Keeps.mk_same ?_

theorem State.squashPredicted_keeps {kb : Bool} {r0 s : State} {g : Nat} (hk : Keeps kb r0 s) :
    Keeps kb r0 (State.squashPredicted s g) := by
  unfold State.squashPredicted
  repeat' with_reducible first
    | assumption | extract_lets | refine State.bump_keeps ?_ | refine State.squashLoads_keeps ?_
    | refine State.onRouter_keeps ?_ | refine Keeps.ite (fun _ => ?_) fun _ => ?_ | dsimp +zetaDelta only
    | refine Keeps.mk_same ?_

theorem State.predictNext_keeps {kb : Bool} {r0 s : State} {g : Nat} {l : Nat} (hk : Keeps kb r0 s) :
    Keeps kb r0 (State.predictNext s g l) := by
  unfold State.predictNext
  repeat' with_reducible first
    | assumption | extract_lets | refine State.bump_keeps ?_ | refine State.onRouter_keeps ?_
    | refine State.fetchExpert_keeps ?_ | refine Keeps.foldl (fun _ _ _ => ?_) ?_ | split | dsimp +zetaDelta only
    | refine Keeps.mk_same ?_

theorem State.openChunks_keeps {kb : Bool} {r0 s : State} {g : Nat} {experts : List Nat} {areas : List (List (BitVec
    32 × Nat))} (hk : Keeps kb r0 s) :
    Keeps kb r0 (State.openChunks s g experts areas) := by
  unfold State.openChunks
  repeat' with_reducible first
    | assumption | extract_lets | refine State.onRouter_keeps ?_ | dsimp +zetaDelta only | refine Keeps.mk_same ?_

theorem State.enqueue_keeps {kb : Bool} {r0 s : State} {g : Nat} {l : Nat} {expert : Nat} {row : Nat} {slot : Nat}
    {blocks : List (BitVec 32)} (hk : Keeps kb r0 s) :
    Keeps kb r0 (State.enqueue s g l expert row slot blocks).2 := by
  unfold State.enqueue
  repeat' with_reducible first
    | assumption | extract_lets | refine Keeps.of_snd ?_ (by assumption) | refine State.bump_keeps ?_
    | refine State.onRouter_keeps ?_ | refine State.appendToken_keeps ?_ | refine State.emitGateUp_keeps ?_
    | refine State.confirmExpert_keeps ?_ | refine Keeps.ite2 (fun _ => ?_) fun _ => ?_
    | refine Keeps.ite (fun _ => ?_) fun _ => ?_ | split | dsimp +zetaDelta only | refine Keeps.mk_same ?_

theorem State.stallRouter_keeps {kb : Bool} {r0 s : State} {g : Nat} (hk : Keeps kb r0 s) :
    Keeps kb r0 (State.stallRouter s g) := by
  unfold State.stallRouter
  repeat' with_reducible first | assumption | refine State.onRouter_keeps ?_ | refine Keeps.mk_same ?_

theorem State.routerFault_keeps {kb : Bool} {r0 s : State} {g : Nat} {detail : Nat} {unit : Nat} {sub : Nat} (hk :
    Keeps kb r0 s) :
    Keeps kb r0 (State.routerFault s g detail unit sub) := by
  unfold State.routerFault
  repeat' with_reducible first | assumption | refine State.fault_keeps ?_ | refine State.haltList_keeps ?_

theorem State.countPicks_keeps {kb : Bool} {r0 s : State} {g : Nat} {p : Picks} (hk : Keeps kb r0 s) :
    Keeps kb r0 (State.countPicks s g p) := by
  unfold State.countPicks
  repeat' with_reducible first
    | assumption | extract_lets | refine State.bump_keeps ?_ | refine Keeps.foldl (fun _ _ _ => ?_) ?_
    | dsimp +zetaDelta only | refine Keeps.mk_same ?_

theorem queuePick_keeps {kb : Bool} {r0 : State} {own : Nat → Bool} {g l row slot : Nat} {blocks : List (BitVec 32)}
    {area : Nat → Nat} {acc : List Nat × State} {a : Nat × Bool} (h : Keeps kb r0 acc.2) :
    Keeps kb r0 (queuePick own g l row slot blocks area acc a).2 := by
  unfold queuePick
  split
  · exact State.enqueue_keeps h
  · exact h

theorem queuePicks_keeps {kb : Bool} {r0 : State} {own : Nat → Bool} {g l row slot : Nat} {blocks : List (BitVec 32)}
    {area : Nat → Nat} {as : List (Nat × Bool)} {acc : List Nat × State} (h : Keeps kb r0 acc.2) :
    Keeps kb r0 (as.foldl (queuePick own g l row slot blocks area) acc).2 :=
  Keeps.foldl_of (π := Prod.snd) (fun _ _ hz => queuePick_keeps hz) h

theorem State.routeTo_keeps {kb : Bool} {r0 s : State} {g : Nat} {l : Nat} {row : Nat} {slot : Nat} {ranked : List
    (Nat × Dyad)} {p : Picks} {blocks : List (BitVec 32)} {shOut : List (BitVec 32)} (hk : Keeps kb r0 s) :
    Keeps kb r0 (State.routeTo s g l row slot ranked p blocks shOut) := by
  unfold State.routeTo
  repeat' with_reducible first
    | assumption | extract_lets | refine Keeps.of_snd ?_ (by assumption) | refine State.bump_keeps ?_
    | refine State.putHbm_keeps ?_ | refine State.touch_keeps ?_ | refine State.sendLute_keeps ?_
    | refine State.onRouter_keeps ?_ | refine State.openChunks_keeps ?_ | refine State.stallRouter_keeps ?_
    | refine State.routerFault_keeps ?_ | refine State.countPicks_keeps ?_ | refine queuePicks_keeps ?_
    | refine Keeps.foldl (fun _ _ _ => ?_) ?_ | refine Keeps.foldl_of (π := Prod.snd) (fun _ _ _ => ?_) ?_
    | refine Keeps.ite (fun _ => ?_) fun _ => ?_ | split | dsimp +zetaDelta only | refine Keeps.mk_same ?_

theorem execRouteRow_keeps {kb : Bool} {r0 s : State} {g : SaggerIx} {row : BitVec 32} {score : BitVec 32} {blocks :
    List (BitVec 32)} {shOut : List (BitVec 32)} (hk : Keeps kb r0 s) :
    KeepsNext kb r0 (execRouteRow g row score blocks shOut s) := by
  unfold execRouteRow
  repeat' with_reducible first
    | assumption | extract_lets | refine State.onRouter_keeps ?_ | refine State.openLayer_keeps ?_
    | refine State.routerFault_keeps ?_ | refine State.routeTo_keeps ?_ | refine KeepsNext.next ?_
    | exact KeepsNext.refused | refine KeepsNext.ite (fun _ => ?_) fun _ => ?_
    | refine Keeps.ite (fun _ => ?_) fun _ => ?_ | split | dsimp +zetaDelta only | refine Keeps.mk_same ?_

theorem State.closeLayer_keeps {kb : Bool} {r0 s : State} {g : Nat} {l : Nat} (hk : Keeps kb r0 s) :
    Keeps kb r0 (State.closeLayer s g l) := by
  unfold State.closeLayer
  repeat' with_reducible first
    | assumption | extract_lets | refine State.bump_keeps ?_ | refine State.touch_keeps ?_
    | refine State.onRouter_keeps ?_ | refine State.emitGateUp_keeps ?_ | refine State.squashPredicted_keeps ?_
    | refine State.predictNext_keeps ?_ | refine Keeps.foldl (fun _ _ _ => ?_) ?_ | dsimp +zetaDelta only
    | refine Keeps.mk_same ?_

theorem execLayerClose_keeps {kb : Bool} {r0 s : State} {g : SaggerIx} (hk : Keeps kb r0 s) :
    KeepsNext kb r0 (execLayerClose g s) := by
  unfold execLayerClose
  repeat' with_reducible first
    | assumption | extract_lets | refine State.sendLute_keeps ?_ | refine State.openLayer_keeps ?_
    | refine State.closeLayer_keeps ?_ | refine KeepsNext.next ?_ | exact KeepsNext.refused
    | refine KeepsNext.ite (fun _ => ?_) fun _ => ?_ | refine Keeps.ite (fun _ => ?_) fun _ => ?_ | split
    | dsimp +zetaDelta only | refine Keeps.mk_same ?_

theorem execCloseGluEmit_keeps {kb : Bool} {r0 s : State} {g : SaggerIx} (hk : Keeps kb r0 s) :
    KeepsNext kb r0 (execCloseGluEmit g s) := by
  unfold execCloseGluEmit
  repeat' with_reducible first
    | assumption | extract_lets | refine State.touch_keeps ?_ | refine State.tallyFault_keeps ?_
    | refine State.consumeTally_keeps ?_ | refine State.listWrite_keeps ?_ | refine State.onRouter_keeps ?_
    | refine State.emitDown_keeps ?_ | refine State.pushOp_keeps ?_ | refine KeepsNext.next ?_
    | exact KeepsNext.refused | refine Keeps.foldl (fun _ _ _ => ?_) ?_
    | refine KeepsNext.ite (fun _ => ?_) fun _ => ?_ | refine Keeps.ite (fun _ => ?_) fun _ => ?_ | split
    | dsimp +zetaDelta only | refine Keeps.mk_same ?_

theorem execArenaResume_keeps {kb : Bool} {r0 s : State} {g : SaggerIx} (hk : Keeps kb r0 s) :
    KeepsNext kb r0 (execArenaResume g s) := by
  unfold execArenaResume
  repeat' with_reducible first
    | assumption | extract_lets | refine State.bump_keeps ?_ | refine State.touch_keeps ?_
    | refine State.onRouter_keeps ?_ | refine State.when_keeps ?_ fun _ => ?_ | refine KeepsNext.next ?_
    | exact KeepsNext.refused | split | dsimp +zetaDelta only | refine Keeps.mk_same ?_

theorem State.readRoutes_keeps {kb : Bool} {r0 s : State} {g n : Nat} (hk : Keeps kb r0 s) : Keeps kb r0 (State.readRoutes s g n) :=
  State.bump_keeps (State.bump_keeps hk)

theorem State.mixCheck_keeps {kb : Bool} {r0 s : State} {g : Nat} {c : ChunkShape} {r : Router} (hk : Keeps kb r0 s) :
    Keeps kb r0 (State.mixCheck s g c r) := by
  unfold State.mixCheck
  repeat' with_reducible first
    | assumption | refine State.readRoutes_keeps ?_ | refine State.bump_keeps ?_ | refine State.failSlot_keeps ?_
    | refine Keeps.foldl (fun _ _ _ => ?_) ?_ | refine Keeps.ite (fun _ => ?_) fun _ => ?_ | split
    | refine Keeps.mk_same ?_

theorem State.mixBlock_keeps {kb : Bool} {r0 s : State} {g : Nat} {l : Nat} {r : Router} {first : Nat} {n : Nat} {b
    : Nat} {out : Nat} (hk : Keeps kb r0 s) :
    Keeps kb r0 (State.mixBlock s g l r first n b out) := by
  unfold State.mixBlock
  extract_lets lay c d vals e s1
  have h1 : Keeps kb r0 s1 :=
    State.bump_keeps (State.bump_keeps (State.bump_keeps (State.bump_keeps
      (Keeps.of_slabOnly (Drain.output_only _ _ _ _ (SlabOnly.refl _)) hk))))
  split
  · exact State.fault_keeps h1
  · exact h1

theorem State.endLayer_keeps {kb : Bool} {r0 s : State} {g : Nat} (hk : Keeps kb r0 s) :
    Keeps kb r0 (State.endLayer s g) := by
  unfold State.endLayer
  repeat' with_reducible first
    | assumption | refine State.touch_keeps ?_ | refine State.onRouter_keeps ?_ | refine Keeps.mk_same ?_

theorem State.answerLead_keeps {kb : Bool} {r0 s : State} {g : Nat} {l : Nat} (hk : Keeps kb r0 s) :
    Keeps kb r0 (State.answerLead s g l) := by
  unfold State.answerLead
  repeat' with_reducible first
    | assumption | extract_lets | refine State.bump_keeps ?_ | refine State.sendLute_keeps ?_
    | refine Keeps.foldl (fun _ _ _ => ?_) ?_ | refine Keeps.ite (fun _ => ?_) fun _ => ?_ | dsimp +zetaDelta only

theorem execMixRun_keeps {kb : Bool} {r0 s : State} {g : SaggerIx} {outs : List (List (BitVec 32))} (hk : Keeps kb
    r0 s) :
    KeepsNext kb r0 (execMixRun g outs s) := by
  unfold execMixRun
  repeat' with_reducible first
    | assumption | extract_lets | refine State.consumeTally_keeps ?_ | refine State.advance_keeps ?_
    | refine State.mixCheck_keeps ?_ | refine State.mixBlock_keeps ?_ | refine State.endLayer_keeps ?_
    | refine State.answerLead_keeps ?_ | refine KeepsNext.next ?_ | exact KeepsNext.refused
    | refine Keeps.foldl (fun _ _ _ => ?_) ?_ | refine KeepsNext.ite (fun _ => ?_) fun _ => ?_
    | refine Keeps.ite (fun _ => ?_) fun _ => ?_ | split | dsimp +zetaDelta only | refine Keeps.mk_same ?_

theorem State.luteTake_keeps {kb : Bool} {r0 s : State}  (hk : Keeps kb r0 s) :
    Keeps kb r0 (State.luteTake s) := by
  unfold State.luteTake
  repeat' with_reducible first
    | assumption | extract_lets | refine State.onPort_keeps ?_ | refine State.bump_keeps ?_ | split
    | dsimp +zetaDelta only | refine Keeps.mk_same ?_

theorem State.luteDiscard_keeps {kb : Bool} {r0 s : State} {g : Nat} (hk : Keeps kb r0 s) :
    Keeps kb r0 (State.luteDiscard s g) := by
  unfold State.luteDiscard
  repeat' with_reducible first | assumption | refine State.fault_keeps ?_ | refine State.luteTake_keeps ?_

theorem State.luteWith_keeps {kb : Bool} {r0 s : State} {type : Nat} {f : State → Nat → List Byte → State} (hk :
    Keeps kb r0 s) (hf : ∀ (y0 : State) (y1 : Nat) (y2 : List Byte), Keeps kb r0 y0 → Keeps kb r0 (f y0 y1 y2)) :
    KeepsNext kb r0 (State.luteWith s type f) := by
  unfold State.luteWith
  repeat' with_reducible first
    | assumption | refine hf _ _ _ ?_ | refine State.luteTake_keeps ?_ | refine State.luteDiscard_keeps ?_
    | refine KeepsNext.next ?_ | exact KeepsNext.refused | refine KeepsNext.ite (fun _ => ?_) fun _ => ?_
    | refine Keeps.ite (fun _ => ?_) fun _ => ?_ | split | refine Keeps.mk_same ?_

theorem State.luteBad_keeps {kb : Bool} {r0 s : State} {g : Nat} (hk : Keeps kb r0 s) :
    Keeps kb r0 (State.luteBad s g) := by
  unfold State.luteBad
  repeat' with_reducible first | assumption | refine State.routerFault_keeps ?_

theorem execLuteToken_keeps {kb : Bool} {r0 s : State}  (hk : Keeps kb r0 s) :
    KeepsNext kb r0 (execLuteToken s) := by
  unfold execLuteToken
  repeat' with_reducible first
    | assumption | extract_lets | refine Keeps.of_snd ?_ (by assumption) | refine State.putSlab_keeps ?_
    | refine State.touch_keeps ?_ | refine State.onRouter_keeps ?_ | refine State.openLayer_keeps ?_
    | refine State.openChunks_keeps ?_ | refine State.enqueue_keeps ?_ | refine State.stallRouter_keeps ?_
    | refine State.routerFault_keeps ?_ | refine State.luteWith_keeps ?_ (fun _ _ _ _ => ?_)
    | refine State.luteBad_keeps ?_ | refine KeepsNext.next ?_ | exact KeepsNext.refused
    | refine Keeps.foldl (fun _ _ _ => ?_) ?_ | refine KeepsNext.ite (fun _ => ?_) fun _ => ?_
    | refine Keeps.ite (fun _ => ?_) fun _ => ?_ | split | dsimp +zetaDelta only | refine Keeps.mk_same ?_

theorem execLuteClose_keeps {kb : Bool} {r0 s : State}  (hk : Keeps kb r0 s) :
    KeepsNext kb r0 (execLuteClose s) := by
  unfold execLuteClose
  repeat' with_reducible first
    | assumption | extract_lets | refine State.onRouter_keeps ?_ | refine State.openLayer_keeps ?_
    | refine State.closeLayer_keeps ?_ | refine State.luteWith_keeps ?_ (fun _ _ _ _ => ?_)
    | refine State.luteBad_keeps ?_ | refine KeepsNext.next ?_ | exact KeepsNext.refused
    | refine KeepsNext.ite (fun _ => ?_) fun _ => ?_ | refine Keeps.ite (fun _ => ?_) fun _ => ?_ | split
    | dsimp +zetaDelta only | refine Keeps.mk_same ?_

theorem State.takeAnswer_keeps {kb : Bool} {r0 s s1 : State} {h : Nat} {p : List Byte} {done : Bool} {effect : State
    → Nat → State} (_hk : Keeps kb r0 s) (hk1 : Keeps kb r0 s1) (hf : ∀ (y0 : State) (y1 : Nat), Keeps kb r0 y0 →
    Keeps kb r0 (effect y0 y1)) :
    Keeps kb r0 (State.takeAnswer s s1 h p done effect) := by
  unfold State.takeAnswer
  repeat' with_reducible first
    | assumption | extract_lets | refine hf _ _ ?_ | refine State.touch_keeps ?_ | refine State.onRouter_keeps ?_
    | refine State.routerFault_keeps ?_ | refine State.luteBad_keeps ?_
    | refine Keeps.ite (fun _ => ?_) fun _ => ?_ | split | dsimp +zetaDelta only | refine Keeps.mk_same ?_

theorem execLuteDone_keeps {kb : Bool} {r0 s : State} {writes : List (BitVec 32 × List Byte)} (hk : Keeps kb r0 s) :
    KeepsNext kb r0 (execLuteDone writes s) := by
  unfold execLuteDone
  repeat' with_reducible first
    | assumption | refine State.putSlab_keeps ?_ | refine State.luteWith_keeps ?_ (fun _ _ _ _ => ?_)
    | refine State.takeAnswer_keeps ?_ ?_ (fun _ _ _ => ?_) | refine KeepsNext.next ?_ | exact KeepsNext.refused
    | refine Keeps.foldl (fun _ _ _ => ?_) ?_ | refine KeepsNext.ite (fun _ => ?_) fun _ => ?_
    | refine Keeps.ite (fun _ => ?_) fun _ => ?_

theorem execLuteEmpty_keeps {kb : Bool} {r0 s : State}  (hk : Keeps kb r0 s) :
    KeepsNext kb r0 (execLuteEmpty s) := by
  unfold execLuteEmpty
  repeat' with_reducible first
    | assumption | refine State.bump_keeps ?_ | refine State.luteWith_keeps ?_ (fun _ _ _ _ => ?_)
    | refine State.takeAnswer_keeps ?_ ?_ (fun _ _ _ => ?_) | refine KeepsNext.next ?_ | exact KeepsNext.refused

theorem State.dropRouter_keeps {kb : Bool} {r0 s : State} {g : Nat} (hk : Keeps kb r0 s) :
    Keeps kb r0 (State.dropRouter s g) := by
  unfold State.dropRouter
  repeat' with_reducible first
    | assumption | extract_lets | refine State.bump_keeps ?_ | refine State.squashLoads_keeps ?_
    | refine State.onRouter_keeps ?_ | dsimp +zetaDelta only

end Sys2Proof.Machine
end

