-- ==== Sys2Proof/Laws/KeepsSlices.lean ====
section
/-! SUPPORT. `Keeps` through the functions of Machine/Slices.lean. -/

namespace Sys2Proof.Machine

set_option linter.all false

theorem State.onSlice_keeps {kb : Bool} {r0 s : State} {id : Nat} {f : Slice → Slice} (hk : Keeps kb r0 s) :
    Keeps kb r0 (State.onSlice s id f) := by
  unfold State.onSlice
  repeat' with_reducible first
    | assumption | refine State.onLat_keeps ?_ | refine Keeps.ite (fun _ => ?_) fun _ => ?_
    | refine Keeps.mk_same ?_

theorem State.sendMark_keeps {kb : Bool} {r0 s : State} {x : Slice} {dst : Coord} {word : Nat} (hk : Keeps kb r0 s) :
    Keeps kb r0 (State.sendMark s x dst word) := by
  unfold State.sendMark
  repeat' with_reducible first | assumption | refine State.sendPacket_keeps ?_

end Sys2Proof.Machine
end

