-- ==== Sys2Proof/Laws/KeepsStreams.lean ====
section
/-! SUPPORT. `Keeps` through the functions of Machine/Streams.lean. -/

namespace Sys2Proof.Machine

set_option linter.all false

theorem State.onStream_keeps {kb : Bool} {r0 s : State} {sid : Nat} {f : Stream → Stream} (hk : Keeps kb r0 s) :
    Keeps kb r0 (State.onStream s sid f) := by
  unfold State.onStream
  repeat' with_reducible first
    | assumption | refine State.onLat_keeps ?_ | refine Keeps.ite (fun _ => ?_) fun _ => ?_
    | refine Keeps.mk_same ?_

theorem State.dropStream_keeps {kb : Bool} {r0 s : State} {sid : Nat} (hk : Keeps kb r0 s) :
    Keeps kb r0 (State.dropStream s sid) := by
  unfold State.dropStream
  repeat' with_reducible first | assumption | refine State.onLat_keeps ?_ | refine Keeps.mk_same ?_

theorem State.endStream_keeps {kb : Bool} {r0 s : State} {t : Stream} {status : Nat} (hk : Keeps kb r0 s) :
    Keeps kb r0 (State.endStream s t status) := by
  unfold State.endStream
  repeat' with_reducible first
    | assumption | refine State.sendPacket_keeps ?_ | refine Keeps.ite (fun _ => ?_) fun _ => ?_ | split
    | refine Keeps.mk_same ?_

theorem State.readWindow_keeps {kb : Bool} {r0 s : State} {t : Stream} {block : Nat} (hk : Keeps kb r0 s) :
    Keeps kb r0 (State.readWindow s t block) := by
  unfold State.readWindow
  repeat' with_reducible first
    | assumption | extract_lets | refine Keeps.ite (fun _ => ?_) fun _ => ?_ | split | dsimp +zetaDelta only
    | refine Keeps.mk_same ?_

theorem State.askAgain_keeps {kb : Bool} {r0 s : State} {t : Stream} (hk : Keeps kb r0 s) :
    Keeps kb r0 (State.askAgain s t) := by
  unfold State.askAgain
  repeat' with_reducible first
    | assumption | extract_lets | refine State.sendPacket_keeps ?_ | refine State.onStream_keeps ?_
    | refine State.readWindow_keeps ?_ | refine Keeps.ite (fun _ => ?_) fun _ => ?_ | split
    | dsimp +zetaDelta only | refine Keeps.mk_same ?_

theorem State.onIncoming_keeps {kb : Bool} {r0 s : State} {x : Incoming} {f : Incoming → Incoming} (hk : Keeps kb r0
    s) :
    Keeps kb r0 (State.onIncoming s x f) := by
  unfold State.onIncoming
  repeat' with_reducible first
    | assumption | refine State.onLat_keeps ?_ | refine Keeps.ite (fun _ => ?_) fun _ => ?_
    | refine Keeps.mk_same ?_

theorem State.dropIncoming_keeps {kb : Bool} {r0 s : State} {x : Incoming} (hk : Keeps kb r0 s) :
    Keeps kb r0 (State.dropIncoming s x) := by
  unfold State.dropIncoming
  repeat' with_reducible first
    | assumption | extract_lets | refine State.onSagger_keeps ?_ | refine State.onLat_keeps ?_
    | refine State.endReq_keeps ?_ | dsimp +zetaDelta only | refine Keeps.mk_same ?_

theorem State.placeSlot_keeps {kb : Bool} {r0 s t : State} {g slot model : Nat} {q : Submit} {tokens : List Nat} {m : MigrantSlot}
    {ns : List Nat} {ps : List (Nat × Nat × Nat)} (h : Keeps kb r0 s)
    (e : s.placeSlot g slot model q tokens m = some (ns, ps, t)) : Keeps kb r0 t := by
  unfold State.placeSlot at e
  extract_lets i r n depth at e
  split at e
  rename_i nodes s0 h0
  have k0 : Keeps kb r0 s0 := by
    split at h0
    · cases h0; exact h
    · exact Keeps.of_snd (State.lookup_keeps h) h0
  split at e
  · cases e
  · split at e
    · cases e
    · refine Keeps.foldl_opt (π := fun x => x.2.2) ?_ ?_ _ e
      · intro acc x ha z hz
        rw [Option.bind_eq_some_iff] at hz
        obtain ⟨w, hw, hz⟩ := hz
        have kw := ha w hw
        dsimp only at hz
        split at hz
        · cases hz; exact State.putPte_keeps kw
        · split at hz
          · cases hz; exact kw
          · split at hz
            · cases hz
            · rename_i hf
              cases hz
              exact State.putPte_keeps (State.takeFrame_keeps kw hf)
      · intro z hz
        cases hz
        exact Keeps.foldl (fun _ _ ht => State.putHbmNum_keeps ht) (State.putSeq_keeps (State.putSeq_keeps
          (Keeps.foldl (fun _ _ ht => State.attachNode_keeps ht) (State.putHbm_keeps (State.zeroHbm_keeps
            (Keeps.foldl (fun _ _ ht => State.setFrame_keeps ht) k0))))))

theorem State.startIncoming_keeps {kb : Bool} {r0 s t : State} {x : Slice} {src : Coord} {g : Nat} {m : Migrant} (h : Keeps kb r0 s)
    (e : s.startIncoming x src g m = some t) : Keeps kb r0 t := by
  unfold State.startIncoming at e
  extract_lets model at e
  split at e
  rename_i key s0 h0
  have k0 : Keeps kb r0 s0 := Keeps.of_snd (State.reqKey_keeps h) h0
  extract_lets q q1 s1 tokens placed at e
  have k1 : Keeps kb r0 s1 := State.onSagger_keeps k0
  have kp : ∀ z, placed = some z → Keeps kb r0 z.2.2 := by
    refine Keeps.foldl_opt (π := fun (x : List (List Nat) × List (Nat × Nat × Nat) × State) => x.2.2) ?_ ?_
    · intro acc k ha z hz
      rw [Option.bind_eq_some_iff] at hz
      obtain ⟨w, hw, hz⟩ := hz
      dsimp only at hz
      split at hz
      · cases hz
      · rw [Option.map_eq_some_iff] at hz
        obtain ⟨v, hv, rfl⟩ := hz
        exact State.placeSlot_keeps (ha w hw) hv
    · intro z hz
      cases hz
      exact k1
  rw [Option.ite_none_left_eq_some] at e
  obtain ⟨_, e⟩ := e
  rw [Option.map_eq_some_iff] at e
  obtain ⟨w, hw, rfl⟩ := e
  exact State.onLat_keeps (State.onSagger_keeps (kp w hw))

theorem State.commitIncoming_keeps {kb : Bool} {r0 s : State} {x : Incoming} {t : Stream} (hk : Keeps kb r0 s) :
    Keeps kb r0 (State.commitIncoming s x t) := by
  unfold State.commitIncoming
  repeat' with_reducible first
    | assumption | extract_lets | refine State.onSagger_keeps ?_ | refine State.onLat_keeps ?_
    | refine State.endStream_keeps ?_ | refine State.dropIncoming_keeps ?_
    | refine Keeps.ite (fun _ => ?_) fun _ => ?_ | dsimp +zetaDelta only | refine Keeps.mk_same ?_

theorem State.landMoved_keeps {kb : Bool} {r0 s : State} {t : Stream} (hk : Keeps kb r0 s) :
    Keeps kb r0 (State.landMoved s t) := by
  unfold State.landMoved
  repeat' with_reducible first
    | assumption | extract_lets | refine State.endStream_keeps ?_ | refine State.onIncoming_keeps ?_
    | refine State.commitIncoming_keeps ?_ | refine Keeps.ite (fun _ => ?_) fun _ => ?_ | split
    | dsimp +zetaDelta only | refine Keeps.mk_same ?_

theorem State.pushTo_keeps {kb : Bool} {r0 s : State} {x : Slice} {dst : Coord} {kind : Nat} {g : Nat} {ctxA : Nat}
    {ctxB : Nat} {src : Nat} {len : Nat} (hk : Keeps kb r0 s) :
    Keeps kb r0 (State.pushTo s x dst kind g ctxA ctxB src len) := by
  unfold State.pushTo
  repeat' with_reducible first
    | assumption | extract_lets | refine Keeps.of_snd ?_ (by assumption) | refine State.newSid_keeps ?_
    | refine State.startOut_keeps ?_ | split | dsimp +zetaDelta only

theorem State.onLoading_keeps {kb : Bool} {r0 s : State} {l : Loading} {f : Loading → Loading} (hk : Keeps kb r0 s) :
    Keeps kb r0 (State.onLoading s l f) := by
  unfold State.onLoading
  repeat' with_reducible first
    | assumption | refine State.onLat_keeps ?_ | refine Keeps.ite (fun _ => ?_) fun _ => ?_
    | refine Keeps.mk_same ?_

theorem State.advanceLoad_keeps {kb : Bool} {r0 s : State} {l : Loading} (hk : Keeps kb r0 s) :
    Keeps kb r0 (State.advanceLoad s l) := by
  unfold State.advanceLoad
  repeat' with_reducible first
    | assumption | extract_lets | refine State.sendMark_keeps ?_ | refine State.pushTo_keeps ?_
    | refine State.onLoading_keeps ?_ | refine Keeps.foldl (fun _ _ _ => ?_) ?_
    | refine Keeps.ite (fun _ => ?_) fun _ => ?_ | split | dsimp +zetaDelta only | refine Keeps.mk_same ?_

theorem State.finishLoading_keeps {kb : Bool} {r0 s : State} {l : Loading} (hk : Keeps kb r0 s) :
    Keeps kb r0 (State.finishLoading s l) := by
  unfold State.finishLoading
  repeat' with_reducible first
    | assumption | extract_lets | refine Keeps.of_snd ?_ (by assumption) | refine State.onLat_keeps ?_
    | refine State.draw_keeps ?_ | refine State.mgmtAnswer_keeps ?_ | refine State.installImage_keeps ?_
    | refine State.loadRejected_keeps ?_ | split | dsimp +zetaDelta only | refine Keeps.mk_same ?_

theorem State.failLoading_keeps {kb : Bool} {r0 s : State} {l : Loading} {detail : Nat} {die : Nat} (hk : Keeps kb
    r0 s) :
    Keeps kb r0 (State.failLoading s l detail die) := by
  unfold State.failLoading
  repeat' with_reducible first
    | assumption | refine State.onLat_keeps ?_ | refine State.raise_keeps ?_ | refine State.mgmtAnswer_keeps ?_
    | refine Keeps.mk_same ?_

theorem State.landChunks_keeps {kb : Bool} {r0 s : State} {t : Stream} {expLen : Nat} (hk : Keeps kb r0 s) :
    Keeps kb r0 (State.landChunks s t expLen) := by
  unfold State.landChunks
  repeat' with_reducible first
    | assumption | extract_lets | refine State.endStream_keeps ?_ | refine State.onLoading_keeps ?_
    | refine State.advanceLoad_keeps ?_ | refine State.finishLoading_keeps ?_ | refine State.failLoading_keeps ?_
    | refine Keeps.foldl (fun _ _ _ => ?_) ?_ | refine Keeps.ite (fun _ => ?_) fun _ => ?_ | split
    | dsimp +zetaDelta only | refine Keeps.mk_same ?_

theorem State.landGradient_keeps {kb : Bool} {r0 s : State} {t : Stream} {expLen : Nat} (hk : Keeps kb r0 s) :
    Keeps kb r0 (State.landGradient s t expLen) := by
  unfold State.landGradient
  repeat' with_reducible first
    | assumption | extract_lets | refine State.onSlice_keeps ?_ | refine State.sendMark_keeps ?_
    | refine State.endStream_keeps ?_ | refine State.pushTo_keeps ?_ | refine Keeps.foldl (fun _ _ _ => ?_) ?_
    | refine Keeps.ite (fun _ => ?_) fun _ => ?_ | split | dsimp +zetaDelta only | refine Keeps.mk_same ?_

theorem State.failStream_keeps {kb : Bool} {r0 s : State} {t : Stream} {detail : Nat} (hk : Keeps kb r0 s) :
    Keeps kb r0 (State.failStream s t detail) := by
  unfold State.failStream
  repeat' with_reducible first
    | assumption | extract_lets | refine State.bump_keeps ?_ | refine State.fault_keeps ?_
    | refine State.nextSource_keeps ?_ | refine State.failSwapAs_keeps ?_ | refine State.failSwap_keeps ?_
    | refine State.dropStream_keeps ?_ | refine State.endStream_keeps ?_ | refine State.dropIncoming_keeps ?_
    | refine State.failLoading_keeps ?_ | refine Keeps.ite (fun _ => ?_) fun _ => ?_ | split
    | dsimp +zetaDelta only | refine Keeps.mk_same ?_

theorem State.finishStream_keeps {kb : Bool} {r0 s : State} {t : Stream} (hk : Keeps kb r0 s) :
    Keeps kb r0 (State.finishStream s t) := by
  unfold State.finishStream
  repeat' with_reducible first
    | assumption | extract_lets | refine State.landPage_keeps ?_ | refine State.dropStream_keeps ?_
    | refine State.landMoved_keeps ?_ | refine State.landChunks_keeps ?_ | refine State.landGradient_keeps ?_
    | split | dsimp +zetaDelta only | refine Keeps.mk_same ?_

theorem State.queueZeros_keeps {kb : Bool} {r0 s : State} {t : Stream} {es : List GlazeEntry} (hk : Keeps kb r0 s) :
    Keeps kb r0 (State.queueZeros s t es) := by
  unfold State.queueZeros
  repeat' with_reducible first
    | assumption | refine State.onGlaze_keeps ?_ | refine State.readWindow_keeps ?_
    | refine Keeps.foldl (fun _ _ _ => ?_) ?_ | refine Keeps.ite (fun _ => ?_) fun _ => ?_
    | refine Keeps.mk_same ?_

theorem execStreamHeaderCheck_keeps {kb : Bool} {r0 s : State} {sid : Nat} (hk : Keeps kb r0 s) :
    KeepsNext kb r0 (execStreamHeaderCheck sid s) := by
  unfold execStreamHeaderCheck
  repeat' with_reducible first
    | assumption | extract_lets | refine State.bump_keeps ?_ | refine State.fault_keeps ?_
    | refine State.onStream_keeps ?_ | refine State.askAgain_keeps ?_ | refine State.failStream_keeps ?_
    | refine State.queueZeros_keeps ?_ | refine KeepsNext.next ?_ | exact KeepsNext.refused
    | refine KeepsNext.ite (fun _ => ?_) fun _ => ?_ | refine Keeps.ite (fun _ => ?_) fun _ => ?_ | split
    | dsimp +zetaDelta only | refine Keeps.mk_same ?_

theorem State.refetchBlock_keeps {kb : Bool} {r0 s : State} {t : Stream} {k : Nat} (hk : Keeps kb r0 s) :
    Keeps kb r0 (State.refetchBlock s t k) := by
  unfold State.refetchBlock
  repeat' with_reducible first
    | assumption | extract_lets | refine State.bump_keeps ?_ | refine State.sendPacket_keeps ?_
    | refine State.onStream_keeps ?_ | refine State.readWindow_keeps ?_ | refine State.failStream_keeps ?_
    | refine Keeps.ite (fun _ => ?_) fun _ => ?_ | split | dsimp +zetaDelta only | refine Keeps.mk_same ?_

theorem State.addF32_keeps {kb : Bool} {r0 s : State} {a : Nat} {v : Nat} (hk : Keeps kb r0 s) :
    Keeps kb r0 (State.addF32 s a v) := by
  unfold State.addF32
  repeat' first
    | (with_reducible first
        | assumption | refine State.doAtomic_keeps ?_)
    | refine State.onMem_keeps (fun _ hm => hm) ?_ | with_reducible refine Keeps.mk_same ?_

theorem State.addValues_keeps {kb : Bool} {r0 s : State} {a : Nat} {bs : List Byte} (hk : Keeps kb r0 s) :
    Keeps kb r0 (State.addValues s a bs) := by
  unfold State.addValues
  repeat' with_reducible first | assumption | refine State.addF32_keeps ?_ | refine Keeps.foldl (fun _ _ _ => ?_) ?_

theorem State.blockPassed_keeps {kb : Bool} {r0 s : State} {d : Nat} {t : Stream} {k : Nat} {bs : List Byte} (hk :
    Keeps kb r0 s) :
    Keeps kb r0 (State.blockPassed s d t k bs) := by
  unfold State.blockPassed
  repeat' with_reducible first
    | assumption | extract_lets | refine State.bump_keeps ?_ | refine State.putHbm_keeps ?_
    | refine State.onStream_keeps ?_ | refine State.finishStream_keeps ?_ | refine State.addValues_keeps ?_
    | refine Keeps.ite (fun _ => ?_) fun _ => ?_ | split | dsimp +zetaDelta only | refine Keeps.mk_same ?_

theorem execBlockExpand_keeps {kb : Bool} {r0 s : State} {d : DieIx} (hk : Keeps kb r0 s) :
    KeepsNext kb r0 (execBlockExpand d s) := by
  unfold execBlockExpand
  repeat' with_reducible first
    | assumption | extract_lets | refine State.onGlaze_keeps ?_ | refine State.bump_keeps ?_
    | refine State.raiseLimited_keeps ?_ | refine State.refetchBlock_keeps ?_ | refine State.blockPassed_keeps ?_
    | refine KeepsNext.next ?_ | exact KeepsNext.refused | refine KeepsNext.ite (fun _ => ?_) fun _ => ?_
    | refine Keeps.ite (fun _ => ?_) fun _ => ?_ | split | dsimp +zetaDelta only | refine Keeps.mk_same ?_

theorem execRefetchTimeout_keeps {kb : Bool} {r0 s : State} {sid : Nat} {block : BitVec 17} (hk : Keeps kb r0 s) :
    KeepsNext kb r0 (execRefetchTimeout sid block s) := by
  unfold execRefetchTimeout
  repeat' with_reducible first
    | assumption | refine State.refetchBlock_keeps ?_ | refine State.when_keeps ?_ fun _ => ?_
    | refine KeepsNext.next ?_ | exact KeepsNext.refused | split | refine Keeps.mk_same ?_

theorem State.sendBlock_keeps {kb : Bool} {r0 s : State} {o : OutStream} {k : Nat} {pay : List Byte} (hk : Keeps kb
    r0 s) :
    Keeps kb r0 (State.sendBlock s o k pay) := by
  unfold State.sendBlock
  repeat' with_reducible first | assumption | refine State.sendPacket_keeps ?_ | split | refine Keeps.mk_same ?_

theorem State.sendStream_keeps {kb : Bool} {r0 s : State} {o : OutStream} (hk : Keeps kb r0 s) :
    Keeps kb r0 (State.sendStream s o) := by
  unfold State.sendStream
  repeat' with_reducible first
    | assumption | extract_lets | refine State.sendPacket_keeps ?_ | refine State.sendBlock_keeps ?_
    | refine Keeps.foldl (fun _ _ _ => ?_) ?_ | split | dsimp +zetaDelta only | refine Keeps.mk_same ?_

theorem State.countBlock_keeps {kb : Bool} {r0 s : State} {d : Nat} {mode : Nat} (hk : Keeps kb r0 s) :
    Keeps kb r0 (State.countBlock s d mode) := by
  unfold State.countBlock
  repeat' with_reducible first | assumption | refine State.bump_keeps ?_ | split | refine Keeps.mk_same ?_

theorem execBlockCompress_keeps {kb : Bool} {r0 s : State} {d : DieIx} (hk : Keeps kb r0 s) :
    KeepsNext kb r0 (execBlockCompress d s) := by
  unfold execBlockCompress
  repeat' with_reducible first
    | assumption | extract_lets | refine State.onGlaze_keeps ?_ | refine State.onLat_keeps ?_
    | refine State.bump_keeps ?_ | refine State.sendBlock_keeps ?_ | refine State.sendStream_keeps ?_
    | refine State.countBlock_keeps ?_ | refine KeepsNext.next ?_ | exact KeepsNext.refused
    | refine KeepsNext.ite (fun _ => ?_) fun _ => ?_ | refine Keeps.ite (fun _ => ?_) fun _ => ?_ | split
    | dsimp +zetaDelta only | refine Keeps.mk_same ?_

end Sys2Proof.Machine
end

