-- ==== Sys2Proof/Laws/KeepsStreamPackets.lean ====
section
/-! SUPPORT. `Keeps` through the functions of Machine/StreamPackets.lean. -/

namespace Sys2Proof.Machine

set_option linter.all false

theorem State.takeWhere_keeps {kb : Bool} {r0 s t : State} {type : Nat} {ok : Packet → Bool} {p : Packet} (h : Keeps kb r0 s)
    (e : s.takeWhere type ok = some (p, t)) : Keeps kb r0 t := by
  unfold State.takeWhere at e
  rw [Option.map_eq_some_iff] at e
  obtain ⟨_, _, e⟩ := e
  cases e
  exact State.onLat_keeps h

theorem State.handle_keeps {kb : Bool} {r0 s : State} {type : Nat} {ok : Packet → Bool} {f : Packet → State → State}
    (hk : Keeps kb r0 s) (hf : ∀ (y0 : Packet) (y1 : State), Keeps kb r0 y1 → Keeps kb r0 (f y0 y1)) :
    KeepsNext kb r0 (State.handle s type ok f) := by
  unfold State.handle
  repeat' with_reducible first
    | assumption | refine hf _ _ ?_ | refine State.takeWhere_keeps ?_ (by assumption) | refine KeepsNext.next ?_
    | exact KeepsNext.refused | split | refine Keeps.mk_same ?_

theorem State.beginMigration_keeps {kb : Bool} {r0 s : State} {x : Slice} {p : Packet} {m : Migrant} (hk : Keeps kb
    r0 s) :
    Keeps kb r0 (State.beginMigration s x p m) := by
  unfold State.beginMigration
  split
  · exact hk
  · split
    · rename_i e
      exact State.startIncoming_keeps hk e
    · exact State.sendPacket_keeps hk

theorem State.takeHeader_keeps {kb : Bool} {r0 s : State} {mig : Option Migrant} {p : Packet} (hk : Keeps kb r0 s) :
    Keeps kb r0 (State.takeHeader s mig p) := by
  unfold State.takeHeader
  repeat' with_reducible first
    | assumption | extract_lets | refine State.onLat_keeps ?_ | refine State.onStream_keeps ?_
    | refine State.beginMigration_keeps ?_ | refine Keeps.ite (fun _ => ?_) fun _ => ?_ | split
    | dsimp +zetaDelta only | refine Keeps.mk_same ?_

theorem execStreamHdr_keeps {kb : Bool} {r0 s : State} {mig : Option Migrant} (hk : Keeps kb r0 s) :
    KeepsNext kb r0 (execStreamHdr mig s) := by
  unfold execStreamHdr
  repeat' with_reducible first
    | assumption | refine State.handle_keeps ?_ (fun _ _ _ => ?_) | refine State.takeHeader_keeps ?_
    | refine KeepsNext.next ?_ | exact KeepsNext.refused

theorem State.takeBlock_keeps {kb : Bool} {r0 s : State} {p : Packet} (hk : Keeps kb r0 s) :
    Keeps kb r0 (State.takeBlock s p) := by
  unfold State.takeBlock
  repeat' with_reducible first
    | assumption | extract_lets | refine State.onGlaze_keeps ?_ | refine State.onStream_keeps ?_
    | refine Keeps.ite (fun _ => ?_) fun _ => ?_ | split | dsimp +zetaDelta only | refine Keeps.mk_same ?_

theorem execStreamBlk_keeps {kb : Bool} {r0 s : State}  (hk : Keeps kb r0 s) :
    KeepsNext kb r0 (execStreamBlk s) := by
  unfold execStreamBlk
  repeat' with_reducible first
    | assumption | refine State.handle_keeps ?_ (fun _ _ _ => ?_) | refine State.takeBlock_keeps ?_
    | refine KeepsNext.next ?_ | exact KeepsNext.refused

theorem State.onOut_keeps {kb : Bool} {r0 s : State} {sid : Nat} {f : OutStream → OutStream} (hk : Keeps kb r0 s) :
    Keeps kb r0 (State.onOut s sid f) := by
  unfold State.onOut
  repeat' with_reducible first
    | assumption | refine State.onLat_keeps ?_ | refine Keeps.ite (fun _ => ?_) fun _ => ?_
    | refine Keeps.mk_same ?_

theorem State.dropOut_keeps {kb : Bool} {r0 s : State} {sid : Nat} (hk : Keeps kb r0 s) :
    Keeps kb r0 (State.dropOut s sid) := by
  unfold State.dropOut
  repeat' with_reducible first | assumption | refine State.onLat_keeps ?_ | refine Keeps.mk_same ?_

theorem execBlkReq_keeps {kb : Bool} {r0 s : State}  (hk : Keeps kb r0 s) :
    KeepsNext kb r0 (execBlkReq s) := by
  unfold execBlkReq
  repeat' with_reducible first
    | assumption | refine State.onGlaze_keeps ?_ | refine State.handle_keeps ?_ (fun _ _ _ => ?_)
    | refine KeepsNext.next ?_ | exact KeepsNext.refused | refine KeepsNext.ite (fun _ => ?_) fun _ => ?_
    | refine Keeps.ite (fun _ => ?_) fun _ => ?_ | split | refine Keeps.mk_same ?_

theorem State.sendContribution_keeps {kb : Bool} {r0 s : State} {p : Packet} (hk : Keeps kb r0 s) :
    Keeps kb r0 (State.sendContribution s p) := by
  unfold State.sendContribution
  repeat' with_reducible first
    | assumption | extract_lets | refine Keeps.of_snd ?_ (by assumption) | refine State.draw_keeps ?_
    | refine State.newSid_keeps ?_ | refine State.startOut_keeps ?_ | refine Keeps.ite (fun _ => ?_) fun _ => ?_
    | split | dsimp +zetaDelta only | refine Keeps.mk_same ?_

theorem execStreamReq_keeps {kb : Bool} {r0 s : State}  (hk : Keeps kb r0 s) :
    KeepsNext kb r0 (execStreamReq s) := by
  unfold execStreamReq
  repeat' with_reducible first
    | assumption | extract_lets | refine State.sendStream_keeps ?_
    | refine State.handle_keeps ?_ (fun _ _ _ => ?_) | refine State.onOut_keeps ?_
    | refine State.sendContribution_keeps ?_ | refine KeepsNext.next ?_ | exact KeepsNext.refused
    | refine KeepsNext.ite (fun _ => ?_) fun _ => ?_ | refine Keeps.ite (fun _ => ?_) fun _ => ?_ | split
    | dsimp +zetaDelta only | refine Keeps.mk_same ?_

theorem execChunkReq_keeps {kb : Bool} {r0 s : State}  (hk : Keeps kb r0 s) :
    KeepsNext kb r0 (execChunkReq s) := by
  unfold execChunkReq
  repeat' with_reducible first
    | assumption | extract_lets | refine Keeps.of_snd ?_ (by assumption) | refine State.newSid_keeps ?_
    | refine State.startOut_keeps ?_ | refine State.handle_keeps ?_ (fun _ _ _ => ?_) | refine KeepsNext.next ?_
    | exact KeepsNext.refused | refine KeepsNext.ite (fun _ => ?_) fun _ => ?_
    | refine Keeps.ite (fun _ => ?_) fun _ => ?_ | split | dsimp +zetaDelta only | refine Keeps.mk_same ?_

theorem State.commitMove_keeps {kb : Bool} {r0 s : State} {m : Migration} (hk : Keeps kb r0 s) :
    Keeps kb r0 (State.commitMove s m) := by
  unfold State.commitMove
  repeat' with_reducible first
    | assumption | extract_lets | refine State.onLat_keeps ?_ | refine State.mgmtAnswer_keeps ?_
    | refine State.stopReq_keeps ?_ | split | dsimp +zetaDelta only | refine Keeps.mk_same ?_

theorem State.movedPage_keeps {kb : Bool} {r0 s : State} {m : Migration} {sid : Nat} (hk : Keeps kb r0 s) :
    Keeps kb r0 (State.movedPage s m sid) := by
  unfold State.movedPage
  repeat' with_reducible first
    | assumption | extract_lets | refine State.onLat_keeps ?_ | refine State.dropOut_keeps ?_
    | refine State.commitMove_keeps ?_ | refine Keeps.ite (fun _ => ?_) fun _ => ?_ | dsimp +zetaDelta only
    | refine Keeps.mk_same ?_

theorem State.moveFailed_keeps {kb : Bool} {r0 s : State} {m : Migration} {status : Nat} (hk : Keeps kb r0 s) :
    Keeps kb r0 (State.moveFailed s m status) := by
  unfold State.moveFailed
  repeat' with_reducible first
    | assumption | refine State.failSlot_keeps ?_ | refine State.dropMove_keeps ?_
    | refine Keeps.ite (fun _ => ?_) fun _ => ?_ | split | refine Keeps.mk_same ?_

theorem execStreamEnd_keeps {kb : Bool} {r0 s : State}  (hk : Keeps kb r0 s) :
    KeepsNext kb r0 (execStreamEnd s) := by
  unfold execStreamEnd
  repeat' with_reducible first
    | assumption | extract_lets | refine State.zeroHbm_keeps ?_ | refine State.handle_keeps ?_ (fun _ _ _ => ?_)
    | refine State.dropOut_keeps ?_ | refine State.movedPage_keeps ?_ | refine State.moveFailed_keeps ?_
    | refine KeepsNext.next ?_ | exact KeepsNext.refused | refine KeepsNext.ite (fun _ => ?_) fun _ => ?_
    | refine Keeps.ite (fun _ => ?_) fun _ => ?_ | split | dsimp +zetaDelta only | refine Keeps.mk_same ?_

theorem execUnreachable_keeps {kb : Bool} {r0 s : State}  (hk : Keeps kb r0 s) :
    KeepsNext kb r0 (execUnreachable s) := by
  unfold execUnreachable
  repeat' with_reducible first
    | assumption | refine State.dropMove_keeps ?_ | refine State.failStream_keeps ?_
    | refine State.handle_keeps ?_ (fun _ _ _ => ?_) | refine State.dropOut_keeps ?_ | refine KeepsNext.next ?_
    | exact KeepsNext.refused | refine KeepsNext.ite (fun _ => ?_) fun _ => ?_
    | refine Keeps.ite (fun _ => ?_) fun _ => ?_ | split | refine Keeps.mk_same ?_

end Sys2Proof.Machine
end

