-- ==== Sys2Proof/Laws/KeepsKiln.lean ====
section
/-! SUPPORT. `Keeps` through the functions of Machine/Kiln.lean. -/

namespace Sys2Proof.Machine

set_option linter.all false

theorem State.parkLoadings_keeps {kb : Bool} {r0 s : State} {id : Nat} (hk : Keeps kb r0 s) :
    Keeps kb r0 (State.parkLoadings s id) := by
  unfold State.parkLoadings
  repeat' with_reducible first
    | assumption | refine State.onLat_keeps ?_ | refine State.mgmtAnswer_keeps ?_
    | refine State.onLoading_keeps ?_ | refine Keeps.foldl (fun _ _ _ => ?_) ?_
    | refine Keeps.ite (fun _ => ?_) fun _ => ?_ | refine Keeps.mk_same ?_

theorem State.dropSlice_keeps {kb : Bool} {r0 s : State} {id : Nat} (hk : Keeps kb r0 s) :
    Keeps kb r0 (State.dropSlice s id) := by
  unfold State.dropSlice
  repeat' with_reducible first
    | assumption | extract_lets | refine State.onLat_keeps ?_ | refine State.dropMove_keeps ?_
    | refine State.dropIncoming_keeps ?_ | refine State.parkLoadings_keeps ?_
    | refine Keeps.foldl (fun _ _ _ => ?_) ?_ | dsimp +zetaDelta only | refine Keeps.mk_same ?_

theorem State.leaveSlices_keeps {kb : Bool} {r0 s : State} {p : Slice → Bool} {code : BitVec 16} (hk : Keeps kb r0
    s) :
    Keeps kb r0 (State.leaveSlices s p code) := by
  unfold State.leaveSlices
  repeat' with_reducible first
    | assumption | refine State.sendPacket_keeps ?_ | refine State.dropSlice_keeps ?_
    | refine Keeps.foldl (fun _ _ _ => ?_) ?_

theorem State.stopSlice_keeps {kb : Bool} {r0 s : State} {x : Slice} {except : Option Coord} {fault : Coord} {code :
    BitVec 16} (hk : Keeps kb r0 s) :
    Keeps kb r0 (State.stopSlice s x except fault code) := by
  unfold State.stopSlice
  repeat' with_reducible first
    | assumption | extract_lets | refine State.onLat_keeps ?_ | refine State.fault_keeps ?_
    | refine State.sendPacket_keeps ?_ | refine State.onSlice_keeps ?_ | refine Keeps.foldl (fun _ _ _ => ?_) ?_
    | refine Keeps.ite (fun _ => ?_) fun _ => ?_ | dsimp +zetaDelta only | refine Keeps.mk_same ?_

theorem State.kilnFault_keeps {kb : Bool} {r0 s : State} {detail : Nat} {g : Nat} {addr : Nat} (hk : Keeps kb r0 s) :
    Keeps kb r0 (State.kilnFault s detail g addr) := by
  unfold State.kilnFault
  repeat' with_reducible first | assumption | refine State.raise_keeps ?_

theorem execLoss_keeps {kb : Bool} {r0 s : State}  (hk : Keeps kb r0 s) :
    KeepsNext kb r0 (execLoss s) := by
  unfold execLoss
  repeat' with_reducible first
    | assumption | refine State.onLat_keeps ?_ | refine State.handle_keeps ?_ (fun _ _ _ => ?_)
    | refine KeepsNext.next ?_ | exact KeepsNext.refused | refine KeepsNext.ite (fun _ => ?_) fun _ => ?_
    | refine Keeps.ite (fun _ => ?_) fun _ => ?_ | refine Keeps.mk_same ?_

theorem execRestore_keeps {kb : Bool} {r0 s : State}  (hk : Keeps kb r0 s) :
    KeepsNext kb r0 (execRestore s) := by
  unfold execRestore
  repeat' with_reducible first
    | assumption | extract_lets | refine State.onLat_keeps ?_ | refine State.handle_keeps ?_ (fun _ _ _ => ?_)
    | refine State.dropLink_keeps ?_ | refine KeepsNext.next ?_ | exact KeepsNext.refused
    | refine KeepsNext.ite (fun _ => ?_) fun _ => ?_ | refine Keeps.ite (fun _ => ?_) fun _ => ?_
    | dsimp +zetaDelta only | refine Keeps.mk_same ?_

theorem State.stopLost_keeps {kb : Bool} {r0 s : State} {modules : List Coord} {links : List (Coord × Coord)} (hk :
    Keeps kb r0 s) :
    Keeps kb r0 (State.stopLost s modules links) := by
  unfold State.stopLost
  repeat' with_reducible first
    | assumption | refine State.stopSlice_keeps ?_ | refine Keeps.foldl (fun _ _ _ => ?_) ?_ | split
    | refine Keeps.mk_same ?_

theorem State.takeOver_keeps {kb : Bool} {r0 s : State}  (hk : Keeps kb r0 s) :
    Keeps kb r0 (State.takeOver s) := by
  unfold State.takeOver
  repeat' first
    | (with_reducible first
        | assumption | extract_lets | refine State.onLat_keeps ?_ | refine State.stopLost_keeps ?_
        | dsimp +zetaDelta only)
    | refine State.onTb_keeps (fun _ => rfl) ?_ | with_reducible refine Keeps.mk_same ?_

theorem execApexLossWindow_keeps {kb : Bool} {r0 s : State} {coord : BitVec 11} (hk : Keeps kb r0 s) :
    KeepsNext kb r0 (execApexLossWindow coord s) := by
  unfold execApexLossWindow
  repeat' with_reducible first
    | assumption | extract_lets | refine State.onLat_keeps ?_ | refine State.kilnFault_keeps ?_
    | refine State.stopLost_keeps ?_ | refine State.takeOver_keeps ?_ | refine KeepsNext.next ?_
    | exact KeepsNext.refused | refine KeepsNext.ite (fun _ => ?_) fun _ => ?_
    | refine Keeps.ite (fun _ => ?_) fun _ => ?_ | dsimp +zetaDelta only | refine Keeps.mk_same ?_

theorem execSliceJoin_keeps {kb : Bool} {r0 s : State}  (hk : Keeps kb r0 s) :
    KeepsNext kb r0 (execSliceJoin s) := by
  unfold execSliceJoin
  repeat' with_reducible first
    | assumption | extract_lets | refine State.onLat_keeps ?_ | refine State.sendPacket_keeps ?_
    | refine State.onSlice_keeps ?_ | refine State.handle_keeps ?_ (fun _ _ _ => ?_) | refine KeepsNext.next ?_
    | exact KeepsNext.refused | refine KeepsNext.ite (fun _ => ?_) fun _ => ?_
    | refine Keeps.ite (fun _ => ?_) fun _ => ?_ | dsimp +zetaDelta only | refine Keeps.mk_same ?_

theorem State.formFailed_keeps {kb : Bool} {r0 s : State} {x : Slice} {status : Nat} (hk : Keeps kb r0 s) :
    Keeps kb r0 (State.formFailed s x status) := by
  unfold State.formFailed
  repeat' with_reducible first
    | assumption | extract_lets | refine State.mgmtAnswer_keeps ?_ | refine State.onSlice_keeps ?_
    | refine State.stopSlice_keeps ?_ | refine State.kilnFault_keeps ?_ | split | dsimp +zetaDelta only
    | refine Keeps.mk_same ?_

theorem execSliceAck_keeps {kb : Bool} {r0 s : State}  (hk : Keeps kb r0 s) :
    KeepsNext kb r0 (execSliceAck s) := by
  unfold execSliceAck
  repeat' with_reducible first
    | assumption | extract_lets | refine State.mgmtAnswer_keeps ?_ | refine State.onSlice_keeps ?_
    | refine State.handle_keeps ?_ (fun _ _ _ => ?_) | refine State.formFailed_keeps ?_ | refine KeepsNext.next ?_
    | exact KeepsNext.refused | refine KeepsNext.ite (fun _ => ?_) fun _ => ?_
    | refine Keeps.ite (fun _ => ?_) fun _ => ?_ | split | dsimp +zetaDelta only | refine Keeps.mk_same ?_

theorem execSliceFormTimeout_keeps {kb : Bool} {r0 s : State} {slice : BitVec 16} (hk : Keeps kb r0 s) :
    KeepsNext kb r0 (execSliceFormTimeout slice s) := by
  unfold execSliceFormTimeout
  repeat' with_reducible first
    | assumption | refine State.formFailed_keeps ?_ | refine State.when_keeps ?_ fun _ => ?_
    | refine KeepsNext.next ?_ | exact KeepsNext.refused | split | refine Keeps.mk_same ?_

theorem execSliceMark_keeps {kb : Bool} {r0 s : State}  (hk : Keeps kb r0 s) :
    KeepsNext kb r0 (execSliceMark s) := by
  unfold execSliceMark
  repeat' with_reducible first
    | assumption | extract_lets | refine State.onSlice_keeps ?_ | refine State.advanceLoad_keeps ?_
    | refine State.handle_keeps ?_ (fun _ _ _ => ?_) | refine KeepsNext.next ?_ | exact KeepsNext.refused
    | refine KeepsNext.ite (fun _ => ?_) fun _ => ?_ | refine Keeps.ite (fun _ => ?_) fun _ => ?_ | split
    | dsimp +zetaDelta only | refine Keeps.mk_same ?_

theorem execSliceStop_keeps {kb : Bool} {r0 s : State}  (hk : Keeps kb r0 s) :
    KeepsNext kb r0 (execSliceStop s) := by
  unfold execSliceStop
  repeat' with_reducible first
    | assumption | refine State.handle_keeps ?_ (fun _ _ _ => ?_) | refine State.dropSlice_keeps ?_
    | refine State.kilnFault_keeps ?_ | refine KeepsNext.next ?_ | exact KeepsNext.refused
    | refine KeepsNext.ite (fun _ => ?_) fun _ => ?_ | refine Keeps.ite (fun _ => ?_) fun _ => ?_ | split
    | refine Keeps.mk_same ?_

theorem execSliceLeave_keeps {kb : Bool} {r0 s : State}  (hk : Keeps kb r0 s) :
    KeepsNext kb r0 (execSliceLeave s) := by
  unfold execSliceLeave
  repeat' with_reducible first
    | assumption | refine State.handle_keeps ?_ (fun _ _ _ => ?_) | refine State.stopSlice_keeps ?_
    | refine KeepsNext.next ?_ | exact KeepsNext.refused | refine KeepsNext.ite (fun _ => ?_) fun _ => ?_
    | refine Keeps.ite (fun _ => ?_) fun _ => ?_ | split | refine Keeps.mk_same ?_

end Sys2Proof.Machine
end

