-- ==== Sys2Proof/Laws/KeepsLattice.lean ====
section
/-! SUPPORT. `Keeps` through the functions of Machine/Lattice.lean. -/

namespace Sys2Proof.Machine

set_option linter.all false

theorem State.portFails_keeps {kb : Bool} {r0 s : State} {p : Nat} {reason : Nat} (hk : Keeps kb r0 s) :
    Keeps kb r0 (State.portFails s p reason) := by
  unfold State.portFails
  repeat' with_reducible first | assumption | refine State.onPort_keeps ?_ | refine Keeps.mk_same ?_

theorem State.startTraining_keeps {kb : Bool} {r0 s : State} {p : Nat} (hk : Keeps kb r0 s) :
    Keeps kb r0 (State.startTraining s p) := by
  unfold State.startTraining
  repeat' with_reducible first
    | assumption | refine State.onPort_keeps ?_ | refine Keeps.ite (fun _ => ?_) fun _ => ?_
    | refine Keeps.mk_same ?_

theorem execPortEnable_keeps {kb : Bool} {r0 s : State} {p : PortIx} (hk : Keeps kb r0 s) :
    KeepsNext kb r0 (execPortEnable p s) := by
  unfold execPortEnable
  repeat' with_reducible first
    | assumption | extract_lets | refine State.startTraining_keeps ?_ | refine State.when_keeps ?_ fun _ => ?_
    | refine KeepsNext.next ?_ | exact KeepsNext.refused | dsimp +zetaDelta only

theorem execPortTrainRetry_keeps {kb : Bool} {r0 s : State} {p : PortIx} (hk : Keeps kb r0 s) :
    KeepsNext kb r0 (execPortTrainRetry p s) := by
  unfold execPortTrainRetry
  repeat' with_reducible first
    | assumption | extract_lets | refine State.startTraining_keeps ?_ | refine State.when_keeps ?_ fun _ => ?_
    | refine KeepsNext.next ?_ | exact KeepsNext.refused | dsimp +zetaDelta only

theorem execPortTrainTimeout_keeps {kb : Bool} {r0 s : State} {p : PortIx} {locked : BitVec 12} (hk : Keeps kb r0 s) :
    KeepsNext kb r0 (execPortTrainTimeout p locked s) := by
  unfold execPortTrainTimeout
  repeat' with_reducible first
    | assumption | extract_lets | refine State.portFails_keeps ?_ | refine State.when_keeps ?_ fun _ => ?_
    | refine KeepsNext.next ?_ | exact KeepsNext.refused | refine KeepsNext.ite (fun _ => ?_) fun _ => ?_
    | refine Keeps.ite (fun _ => ?_) fun _ => ?_ | dsimp +zetaDelta only

theorem State.tellApexes_keeps {kb : Bool} {r0 s : State} {type : Nat} {p : Nat} {reason : Nat} {beyond : Coord} (hk
    : Keeps kb r0 s) :
    Keeps kb r0 (State.tellApexes s type p reason beyond) := by
  unfold State.tellApexes
  repeat' with_reducible first
    | assumption | refine State.sendPacket_keeps ?_ | refine Keeps.foldl (fun _ _ _ => ?_) ?_

theorem State.reparent_keeps {kb : Bool} {r0 s : State}  (hk : Keeps kb r0 s) :
    Keeps kb r0 (State.reparent s) := by
  unfold State.reparent
  repeat' first
    | (with_reducible first
        | assumption | extract_lets | refine Keeps.ite (fun _ => ?_) fun _ => ?_ | dsimp +zetaDelta only)
    | refine State.onTb_keeps (fun _ => rfl) ?_ | with_reducible refine Keeps.mk_same ?_

theorem State.dropReloads_keeps {kb : Bool} {r0 s : State} {c : Coord} (hk : Keeps kb r0 s) :
    Keeps kb r0 (State.dropReloads s c) := by
  unfold State.dropReloads
  repeat' with_reducible first
    | assumption | refine State.failStream_keeps ?_ | refine Keeps.foldl (fun _ _ _ => ?_) ?_

theorem State.reroute_keeps {kb : Bool} {r0 s : State} {l : List (Nat × Packet)} (hk : Keeps kb r0 s) :
    Keeps kb r0 (State.reroute s l) := by
  unfold State.reroute
  repeat' with_reducible first
    | assumption | refine State.routePacket_keeps ?_ | refine Keeps.foldl (fun _ _ _ => ?_) ?_

theorem State.portLost_keeps {kb : Bool} {r0 s : State} {p : Nat} {reason : Nat} (hk : Keeps kb r0 s) :
    Keeps kb r0 (State.portLost s p reason) := by
  unfold State.portLost
  repeat' with_reducible first
    | assumption | extract_lets | refine State.onPort_keeps ?_ | refine State.onLute_keeps ?_
    | refine State.bump_keeps ?_ | refine State.fault_keeps ?_ | refine State.tellApexes_keeps ?_
    | refine State.reparent_keeps ?_ | refine State.dropReloads_keeps ?_ | refine State.reroute_keeps ?_
    | refine Keeps.ite (fun _ => ?_) fun _ => ?_ | dsimp +zetaDelta only | refine Keeps.mk_same ?_

theorem execLatticeLossDetect_keeps {kb : Bool} {r0 s : State} {p : PortIx} (hk : Keeps kb r0 s) :
    KeepsNext kb r0 (execLatticeLossDetect p s) := by
  unfold execLatticeLossDetect
  repeat' with_reducible first
    | assumption | extract_lets | refine State.portLost_keeps ?_ | refine State.when_keeps ?_ fun _ => ?_
    | refine KeepsNext.next ?_ | exact KeepsNext.refused | dsimp +zetaDelta only

theorem State.holdPort_keeps {kb : Bool} {r0 s : State} {p : Nat} {reason : Nat} (hk : Keeps kb r0 s) :
    Keeps kb r0 (State.holdPort s p reason) := by
  unfold State.holdPort
  repeat' with_reducible first
    | assumption | refine State.onPort_keeps ?_ | refine State.fault_keeps ?_ | refine Keeps.mk_same ?_

theorem State.portComesUp_keeps {kb : Bool} {r0 s : State} {p : Nat} {d : Nat} {r : BitVec 256} (hk : Keeps kb r0 s) :
    Keeps kb r0 (State.portComesUp s p d r) := by
  unfold State.portComesUp
  repeat' with_reducible first
    | assumption | extract_lets | refine State.onPort_keeps ?_ | refine State.fault_keeps ?_
    | refine State.tellApexes_keeps ?_ | refine State.reparent_keeps ?_
    | refine Keeps.ite (fun _ => ?_) fun _ => ?_ | dsimp +zetaDelta only | refine Keeps.mk_same ?_

theorem execTrainingRecord_keeps {kb : Bool} {r0 s : State} {p : PortIx} {rec : BitVec 256} {locked : BitVec 12} (hk
    : Keeps kb r0 s) :
    KeepsNext kb r0 (execTrainingRecord p rec locked s) := by
  unfold execTrainingRecord
  repeat' with_reducible first
    | assumption | extract_lets | refine State.onPort_keeps ?_ | refine State.portFails_keeps ?_
    | refine State.portLost_keeps ?_ | refine State.holdPort_keeps ?_ | refine State.portComesUp_keeps ?_
    | refine KeepsNext.next ?_ | exact KeepsNext.refused | refine KeepsNext.ite (fun _ => ?_) fun _ => ?_
    | refine Keeps.ite (fun _ => ?_) fun _ => ?_ | split | dsimp +zetaDelta only | refine Keeps.mk_same ?_

theorem execGroupErrorExclude_keeps {kb : Bool} {r0 s : State} {p : PortIx} {group : BitVec 4} (hk : Keeps kb r0 s) :
    KeepsNext kb r0 (execGroupErrorExclude p group s) := by
  unfold execGroupErrorExclude
  repeat' with_reducible first
    | assumption | refine State.onPort_keeps ?_ | refine State.when_keeps ?_ fun _ => ?_
    | refine KeepsNext.next ?_ | exact KeepsNext.refused | refine Keeps.mk_same ?_

theorem execFastRetrain_keeps {kb : Bool} {r0 s : State} {p : PortIx} {locked : BitVec 12} (hk : Keeps kb r0 s) :
    KeepsNext kb r0 (execFastRetrain p locked s) := by
  unfold execFastRetrain
  repeat' with_reducible first
    | assumption | extract_lets | refine State.onPort_keeps ?_ | refine State.bump_keeps ?_
    | refine State.portLost_keeps ?_ | refine State.when_keeps ?_ fun _ => ?_ | refine KeepsNext.next ?_
    | exact KeepsNext.refused | refine KeepsNext.ite (fun _ => ?_) fun _ => ?_
    | refine Keeps.ite (fun _ => ?_) fun _ => ?_ | dsimp +zetaDelta only | refine Keeps.mk_same ?_

theorem execFastRetrainTimeout_keeps {kb : Bool} {r0 s : State} {p : PortIx} (hk : Keeps kb r0 s) :
    KeepsNext kb r0 (execFastRetrainTimeout p s) := by
  unfold execFastRetrainTimeout
  repeat' with_reducible first
    | assumption | refine State.portLost_keeps ?_ | refine State.when_keeps ?_ fun _ => ?_
    | refine KeepsNext.next ?_ | exact KeepsNext.refused

theorem execLatticeFlit_keeps {kb : Bool} {r0 s : State} {p : PortIx} {seq : BitVec 16} {crcOk : Bool} {vc : Fin 9}
    {payload : List Byte} {ack : Option (BitVec 16)} {grants : List (Fin 9 × Nat)} (hk : Keeps kb r0 s) :
    KeepsNext kb r0 (execLatticeFlit p seq crcOk vc payload ack grants s) := by
  unfold execLatticeFlit
  repeat' with_reducible first
    | assumption | extract_lets | refine State.onPort_keeps ?_ | refine State.bump_keeps ?_
    | refine KeepsNext.next ?_ | exact KeepsNext.refused | refine KeepsNext.ite (fun _ => ?_) fun _ => ?_
    | refine Keeps.ite (fun _ => ?_) fun _ => ?_ | dsimp +zetaDelta only | refine Keeps.mk_same ?_

theorem execLatticeNak_keeps {kb : Bool} {r0 s : State} {p : PortIx} {seq : BitVec 16} (hk : Keeps kb r0 s) :
    KeepsNext kb r0 (execLatticeNak p seq s) := by
  unfold execLatticeNak
  repeat' with_reducible first
    | assumption | extract_lets | refine State.onPort_keeps ?_ | refine State.bump_keeps ?_
    | refine State.when_keeps ?_ fun _ => ?_ | refine KeepsNext.next ?_ | exact KeepsNext.refused
    | refine KeepsNext.ite (fun _ => ?_) fun _ => ?_ | refine Keeps.ite (fun _ => ?_) fun _ => ?_
    | dsimp +zetaDelta only | refine Keeps.mk_same ?_

theorem execLatticeHeartbeatSend_keeps {kb : Bool} {r0 s : State} {p : PortIx} (hk : Keeps kb r0 s) :
    KeepsNext kb r0 (execLatticeHeartbeatSend p s) := by
  unfold execLatticeHeartbeatSend
  repeat' with_reducible first
    | assumption | refine State.onPort_keeps ?_ | refine State.when_keeps ?_ fun _ => ?_
    | refine KeepsNext.next ?_ | exact KeepsNext.refused | refine Keeps.mk_same ?_

theorem execLinkFrameSend_keeps {kb : Bool} {r0 s : State} {p : PortIx} (hk : Keeps kb r0 s) :
    KeepsNext kb r0 (execLinkFrameSend p s) := by
  unfold execLinkFrameSend
  repeat' with_reducible first
    | assumption | refine State.onPort_keeps ?_ | refine State.when_keeps ?_ fun _ => ?_
    | refine KeepsNext.next ?_ | exact KeepsNext.refused | refine Keeps.mk_same ?_

theorem execLinkFrameReceive_keeps {kb : Bool} {r0 s : State} {p : PortIx} {frame : LinkFrame} (hk : Keeps kb r0 s) :
    KeepsNext kb r0 (execLinkFrameReceive p frame s) := by
  unfold execLinkFrameReceive
  repeat' with_reducible first
    | assumption | extract_lets | refine State.onPort_keeps ?_ | refine State.onLute_keeps ?_
    | refine State.when_keeps ?_ fun _ => ?_ | refine KeepsNext.next ?_ | exact KeepsNext.refused
    | refine KeepsNext.ite (fun _ => ?_) fun _ => ?_ | refine Keeps.ite (fun _ => ?_) fun _ => ?_ | split
    | dsimp +zetaDelta only | refine Keeps.mk_same ?_

theorem State.consume_keeps {kb : Bool} {r0 s : State} {p : Packet} (hk : Keeps kb r0 s) :
    Keeps kb r0 (State.consume s p) := by
  unfold State.consume
  repeat' with_reducible first
    | assumption | refine State.onLat_keeps ?_ | refine State.sendPacket_keeps ?_
    | refine Keeps.ite (fun _ => ?_) fun _ => ?_ | refine Keeps.mk_same ?_

theorem execPacketRoute_keeps {kb : Bool} {r0 s : State} {p : PortIx} {vc : Fin 9} (hk : Keeps kb r0 s) :
    KeepsNext kb r0 (execPacketRoute p vc s) := by
  unfold execPacketRoute
  repeat' with_reducible first
    | assumption | extract_lets | refine State.onPort_keeps ?_ | refine State.bump_keeps ?_
    | refine State.raiseLimited_keeps ?_ | refine State.routePacket_keeps ?_ | refine State.consume_keeps ?_
    | refine KeepsNext.next ?_ | exact KeepsNext.refused | refine KeepsNext.ite (fun _ => ?_) fun _ => ?_
    | refine Keeps.ite (fun _ => ?_) fun _ => ?_ | dsimp +zetaDelta only | refine Keeps.mk_same ?_

theorem State.transmitPort_keeps {kb : Bool} {r0 s : State} {p : Nat} (hk : Keeps kb r0 s) :
    Keeps kb r0 (State.transmitPort s p) := by
  unfold State.transmitPort
  repeat' with_reducible first
    | assumption | extract_lets | refine State.onPort_keeps ?_ | refine State.bump_keeps ?_
    | refine Keeps.ite (fun _ => ?_) fun _ => ?_ | split | dsimp +zetaDelta only | refine Keeps.mk_same ?_

theorem State.transmitLute_keeps {kb : Bool} {r0 s : State}  (hk : Keeps kb r0 s) :
    Keeps kb r0 (State.transmitLute s) := by
  unfold State.transmitLute
  repeat' with_reducible first
    | assumption | extract_lets | refine State.onPort_keeps ?_ | refine State.onLute_keeps ?_
    | refine State.bump_keeps ?_ | refine Keeps.ite (fun _ => ?_) fun _ => ?_ | split | dsimp +zetaDelta only
    | refine Keeps.mk_same ?_

@[simp] theorem Timebase.correct_ref (t : Timebase) (off : Int) : (t.correct off).ref = t.ref := by
  unfold Timebase.correct
  split
  · rfl
  · split <;> rfl

theorem Timebase.measured_ref (t : Timebase) (off : Int) (now : Nat) : (t.measured off now).2.ref = t.ref := by
  have h := t.correct_ref off
  unfold Timebase.measured
  generalize t.correct off = u at h ⊢
  dsimp only
  cases t.st <;> dsimp only <;> repeat' first | exact h | split

theorem execTimeSync_keeps {kb : Bool} {r0 s : State} {t1 t2 t3 t4 : Int} (hk : Keeps kb r0 s) :
    KeepsNext kb r0 (execTimeSync t1 t2 t3 t4 s) := by
  have key : Keeps kb r0 (s.onTb fun _ => (s.tb.measured ((t2 - t1 - (t4 - t3)) / 2) s.refNow).2) :=
    State.onTb_keeps (fun _ => Timebase.measured_ref _ _ _) hk
  unfold execTimeSync
  refine State.when_keeps hk fun _ => ?_
  exact Keeps.ite (fun _ => State.kilnFault_keeps key) fun _ => key

theorem execTsyncEdge_keeps {kb : Bool} {r0 s : State}  (hk : Keeps kb r0 s) :
    KeepsNext kb r0 (execTsyncEdge s) := by
  unfold execTsyncEdge
  dsimp only
  split
  · exact hk
  · split
    · exact State.onTb_keeps (fun _ => rfl) hk
    · refine State.onTb_keeps (fun _ => ?_) hk
      split
      · rw [Timebase.correct_ref]
      · rfl

theorem execTimebaseSecond_keeps {kb : Bool} {r0 s : State}  (hk : Keeps kb r0 s) :
    KeepsNext kb r0 (execTimebaseSecond s) := by
  unfold execTimebaseSecond
  refine State.when_keeps hk fun _ => State.onTb_keeps (fun _ => ?_) hk
  extract_lets t
  show Timebase.ref (if _ then _ else _) = _
  split <;> rfl

end Sys2Proof.Machine
end

