-- ==== Sys2Proof/Laws/KeepsLutePackets.lean ====
section
/-! SUPPORT. `Keeps` through the functions of Machine/LutePackets.lean. -/

namespace Sys2Proof.Machine

set_option linter.all false

theorem State.lmReject_keeps {kb : Bool} {r0 s : State} {h : Nat} (hk : Keeps kb r0 s) :
    Keeps kb r0 (State.lmReject s h) := by
  unfold State.lmReject
  repeat' with_reducible first | assumption | refine State.fault_keeps ?_ | refine Keeps.ite (fun _ => ?_) fun _ => ?_

theorem State.lmTake_keeps {kb : Bool} {r0 s : State} {type : Nat} {ok : State → Nat → List Byte → Bool} {f : State
    → Nat → List Byte → State} (hk : Keeps kb r0 s) (hf : ∀ (y0 : State) (y1 : Nat) (y2 : List Byte), Keeps kb r0 y0
    → Keeps kb r0 (f y0 y1 y2)) :
    KeepsNext kb r0 (State.lmTake s type ok f) := by
  unfold State.lmTake
  repeat' with_reducible first
    | assumption | refine hf _ _ _ ?_ | refine State.touch_keeps ?_
    | refine State.luteWith_keeps ?_ (fun _ _ _ _ => ?_) | refine State.lmReject_keeps ?_
    | refine KeepsNext.next ?_ | exact KeepsNext.refused | refine KeepsNext.ite (fun _ => ?_) fun _ => ?_
    | refine Keeps.ite (fun _ => ?_) fun _ => ?_

theorem execLuteWrite_keeps {kb : Bool} {r0 s : State}  (hk : Keeps kb r0 s) :
    KeepsNext kb r0 (execLuteWrite s) := by
  unfold execLuteWrite
  repeat' with_reducible first
    | assumption | extract_lets | refine State.bump_keeps ?_ | refine State.putHbm_keeps ?_
    | refine State.writeReject_keeps ?_ | refine State.lmTake_keeps ?_ (fun _ _ _ _ => ?_)
    | refine KeepsNext.next ?_ | exact KeepsNext.refused | refine Keeps.foldl (fun _ _ _ => ?_) ?_
    | refine Keeps.foldl_of (π := Prod.snd) (fun _ _ _ => ?_) ?_ | refine KeepsNext.ite (fun _ => ?_) fun _ => ?_
    | refine Keeps.ite (fun _ => ?_) fun _ => ?_ | dsimp +zetaDelta only

theorem execLuteRead_keeps {kb : Bool} {r0 s : State}  (hk : Keeps kb r0 s) :
    KeepsNext kb r0 (execLuteRead s) := by
  unfold execLuteRead
  repeat' with_reducible first
    | assumption | extract_lets | refine State.bump_keeps ?_ | refine State.sendLute_keeps ?_
    | refine State.lmTake_keeps ?_ (fun _ _ _ _ => ?_) | refine KeepsNext.next ?_ | exact KeepsNext.refused
    | refine Keeps.foldl (fun _ _ _ => ?_) ?_ | dsimp +zetaDelta only

theorem execLuteAtomic_keeps {kb : Bool} {r0 s : State}  (hk : Keeps kb r0 s) :
    KeepsNext kb r0 (execLuteAtomic s) := by
  unfold execLuteAtomic
  repeat' with_reducible first
    | assumption | extract_lets | refine State.sendLute_keeps ?_ | refine State.writeReject_keeps ?_
    | refine State.doAtomic_keeps ?_ | refine State.lmTake_keeps ?_ (fun _ _ _ _ => ?_) | refine KeepsNext.next ?_
    | exact KeepsNext.refused | refine KeepsNext.ite (fun _ => ?_) fun _ => ?_
    | refine Keeps.ite (fun _ => ?_) fun _ => ?_ | dsimp +zetaDelta only

theorem State.dropAsk_keeps {kb : Bool} {r0 s : State} {a : LuteAsk} (hk : Keeps kb r0 s) :
    Keeps kb r0 (State.dropAsk s a) := by
  unfold State.dropAsk
  repeat' with_reducible first | assumption | refine State.onLute_keeps ?_ | refine Keeps.mk_same ?_

theorem State.landRead_keeps {kb : Bool} {r0 s : State} {a : LuteAsk} {p : List Byte} (hk : Keeps kb r0 s) :
    Keeps kb r0 (State.landRead s a p) := by
  unfold State.landRead
  repeat' first
    | (with_reducible first
        | assumption | extract_lets | refine State.onLute_keeps ?_ | refine State.putSlab_keeps ?_
        | refine State.touch_keeps ?_ | refine State.advance_keeps ?_ | refine Keeps.ite (fun _ => ?_) fun _ => ?_
        | split | dsimp +zetaDelta only)
    | refine State.onMem_keeps (fun _ hm => hm) ?_ | with_reducible refine Keeps.mk_same ?_

theorem execLuteReadRsp_keeps {kb : Bool} {r0 s : State}  (hk : Keeps kb r0 s) :
    KeepsNext kb r0 (execLuteReadRsp s) := by
  unfold execLuteReadRsp
  repeat' with_reducible first
    | assumption | refine State.lmTake_keeps ?_ (fun _ _ _ _ => ?_) | refine State.dropAsk_keeps ?_
    | refine State.landRead_keeps ?_ | refine KeepsNext.next ?_ | exact KeepsNext.refused | split
    | refine Keeps.mk_same ?_

theorem execLuteAtomicRsp_keeps {kb : Bool} {r0 s : State}  (hk : Keeps kb r0 s) :
    KeepsNext kb r0 (execLuteAtomicRsp s) := by
  unfold execLuteAtomicRsp
  repeat' first
    | (with_reducible first
        | assumption | extract_lets | refine Keeps.of_snd ?_ (by assumption) | refine State.draw_keeps ?_
        | refine State.lmTake_keeps ?_ (fun _ _ _ _ => ?_) | refine State.dropAsk_keeps ?_
        | refine KeepsNext.next ?_ | exact KeepsNext.refused | refine KeepsNext.ite (fun _ => ?_) fun _ => ?_
        | refine Keeps.ite (fun _ => ?_) fun _ => ?_ | split | dsimp +zetaDelta only)
    | refine State.onMem_keeps (fun _ hm => hm) ?_ | with_reducible refine Keeps.mk_same ?_

theorem execLuteTally_keeps {kb : Bool} {r0 s : State}  (hk : Keeps kb r0 s) :
    KeepsNext kb r0 (execLuteTally s) := by
  unfold execLuteTally
  repeat' with_reducible first
    | assumption | extract_lets | refine State.onTally_keeps ?_ | refine State.tallyFault_keeps ?_
    | refine State.applySignal_keeps ?_ | refine State.consume_keeps ?_
    | refine State.lmTake_keeps ?_ (fun _ _ _ _ => ?_) | refine KeepsNext.next ?_ | exact KeepsNext.refused
    | refine KeepsNext.ite (fun _ => ?_) fun _ => ?_ | refine Keeps.ite (fun _ => ?_) fun _ => ?_ | split
    | dsimp +zetaDelta only | refine Keeps.mk_same ?_

theorem execLuteMirror_keeps {kb : Bool} {r0 s : State}  (hk : Keeps kb r0 s) :
    KeepsNext kb r0 (execLuteMirror s) := by
  unfold execLuteMirror
  repeat' with_reducible first
    | assumption | extract_lets | refine State.onTally_keeps ?_ | refine State.lmTake_keeps ?_ (fun _ _ _ _ => ?_)
    | refine KeepsNext.next ?_ | exact KeepsNext.refused | dsimp +zetaDelta only | refine Keeps.mk_same ?_

end Sys2Proof.Machine
end

