-- ==== Sys2Proof/Laws/KeepsLife.lean ====
section
/-! SUPPORT. `Keeps` through the functions of Machine/Life.lean. -/

namespace Sys2Proof.Machine

set_option linter.all false

theorem State.markLost_keeps {kb : Bool} {r0 s : State} {g : Nat} {p : Req → Bool} (hk : Keeps kb r0 s) :
    Keeps kb r0 (State.markLost s g p) := by
  unfold State.markLost
  repeat' with_reducible first
    | assumption | extract_lets | refine State.onSagger_keeps ?_ | refine State.stopReq_keeps ?_
    | refine Keeps.foldl (fun _ _ _ => ?_) ?_ | dsimp +zetaDelta only | refine Keeps.mk_same ?_

theorem State.endLost_keeps {kb : Bool} {r0 s : State} {g : Nat} (hk : Keeps kb r0 s) :
    Keeps kb r0 (State.endLost s g) := by
  unfold State.endLost
  repeat' with_reducible first
    | assumption | refine State.endReq_keeps ?_ | refine Keeps.foldl (fun _ _ _ => ?_) ?_
    | refine Keeps.ite (fun _ => ?_) fun _ => ?_

theorem State.failAll_keeps {kb : Bool} {r0 s : State} {g : Nat} {code : BitVec 16} (hk : Keeps kb r0 s) :
    Keeps kb r0 (State.failAll s g code) := by
  unfold State.failAll
  repeat' with_reducible first
    | assumption | extract_lets | refine State.onSagger_keeps ?_ | refine State.doneReq_keeps ?_
    | refine State.endReq_keeps ?_ | refine State.stopSwap_keeps ?_ | refine Keeps.foldl (fun _ _ _ => ?_) ?_
    | refine Keeps.ite (fun _ => ?_) fun _ => ?_ | dsimp +zetaDelta only | refine Keeps.mk_same ?_

theorem State.stopWork_keeps {kb : Bool} {r0 s : State} {g : Nat} (hk : Keeps kb r0 s) :
    Keeps kb r0 (State.stopWork s g) := by
  unfold State.stopWork
  repeat' with_reducible first
    | assumption | extract_lets | refine State.onSagger_keeps ?_ | refine State.onWheel_keeps ?_
    | refine State.onLdu_keeps ?_ | refine State.onSsu_keeps ?_ | refine State.onLute_keeps ?_
    | refine State.resetWare_keeps ?_ | refine State.dropRouter_keeps ?_ | refine Keeps.foldl (fun _ _ _ => ?_) ?_
    | refine Keeps.ite (fun _ => ?_) fun _ => ?_ | dsimp +zetaDelta only | refine Keeps.mk_same ?_

theorem State.stopStreams_keeps {kb : Bool} {r0 s : State} {g : Nat} (hk : Keeps kb r0 s) :
    Keeps kb r0 (State.stopStreams s g) := by
  unfold State.stopStreams
  repeat' with_reducible first
    | assumption | extract_lets | refine State.onGlaze_keeps ?_ | refine State.onLat_keeps ?_
    | refine State.dropIncoming_keeps ?_ | refine Keeps.foldl (fun _ _ _ => ?_) ?_ | dsimp +zetaDelta only
    | refine Keeps.mk_same ?_

theorem State.leaveFor_keeps {kb : Bool} {r0 s : State} {g : Nat} {code : BitVec 16} (hk : Keeps kb r0 s) :
    Keeps kb r0 (State.leaveFor s g code) := by
  unfold State.leaveFor
  repeat' with_reducible first | assumption | refine State.leaveSlices_keeps ?_

theorem State.refund_keeps {kb : Bool} {r0 s : State} {g : Nat} {q : Req} (hk : Keeps kb r0 s) :
    Keeps kb r0 (State.refund s g q) := by
  unfold State.refund
  repeat' with_reducible first
    | assumption | refine State.onSagger_keeps ?_ | refine Keeps.ite (fun _ => ?_) fun _ => ?_
    | refine Keeps.mk_same ?_

theorem State.failStep_keeps {kb : Bool} {r0 s : State} {g : Nat} (hk : Keeps kb r0 s) :
    Keeps kb r0 (State.failStep s g) := by
  unfold State.failStep
  repeat' with_reducible first
    | assumption | extract_lets | refine State.onSagger_keeps ?_ | refine State.endReq_keeps ?_
    | refine State.reap_keeps ?_ | refine State.trimSlots_keeps ?_ | refine State.dropCompact_keeps ?_
    | refine State.refund_keeps ?_ | refine Keeps.foldl (fun _ _ _ => ?_) ?_
    | refine Keeps.ite (fun _ => ?_) fun _ => ?_ | dsimp +zetaDelta only | refine Keeps.mk_same ?_

theorem State.freshSagger_keeps {kb : Bool} {r0 s : State} {g : Nat} (hk : Keeps kb r0 s) :
    Keeps kb r0 (State.freshSagger s g) := by
  unfold State.freshSagger
  repeat' with_reducible first
    | assumption | extract_lets | refine State.onSagger_keeps ?_ | refine State.setReg_keeps ?_
    | refine State.zeroHbm_keeps ?_ | refine State.zeroTallies_keeps ?_ | dsimp +zetaDelta only

theorem State.planTallies_keeps {kb : Bool} {r0 s : State} {g : Nat} (hk : Keeps kb r0 s) :
    Keeps kb r0 (State.planTallies s g) := by
  unfold State.planTallies
  repeat' with_reducible first
    | assumption | refine State.configTally_keeps ?_ | refine Keeps.foldl (fun _ _ _ => ?_) ?_

theorem State.openChannels_keeps {kb : Bool} {r0 s : State} {g : Nat} (hk : Keeps kb r0 s) :
    Keeps kb r0 (State.openChannels s g) := by
  unfold State.openChannels
  repeat' with_reducible first
    | assumption | refine State.onChan_keeps ?_ | refine State.openPlain_keeps ?_
    | refine Keeps.foldl (fun _ _ _ => ?_) ?_ | refine Keeps.ite (fun _ => ?_) fun _ => ?_
    | refine Keeps.mk_same ?_

theorem State.buildSagger_keeps {kb : Bool} {r0 s : State} {g : Nat} (hk : Keeps kb r0 s) :
    Keeps kb r0 (State.buildSagger s g) := by
  unfold State.buildSagger
  repeat' with_reducible first
    | assumption | extract_lets | refine State.onSagger_keeps ?_ | refine State.onBoot_keeps ?_
    | refine State.raise_keeps ?_ | refine State.awaitEntry_keeps ?_ | refine State.freshSagger_keeps ?_
    | refine State.planTallies_keeps ?_ | refine State.openChannels_keeps ?_
    | refine Keeps.foldl (fun _ _ _ => ?_) ?_ | refine Keeps.ite (fun _ => ?_) fun _ => ?_ | dsimp +zetaDelta only
    | refine Keeps.mk_same ?_

theorem State.saggerDown_keeps {kb : Bool} {r0 s : State} {g : Nat} {code : BitVec 16} (hk : Keeps kb r0 s) :
    Keeps kb r0 (State.saggerDown s g code) := by
  unfold State.saggerDown
  repeat' with_reducible first
    | assumption | extract_lets | refine State.onSagger_keeps ?_ | refine State.finishFire_keeps ?_
    | refine State.markLost_keeps ?_ | refine State.endLost_keeps ?_ | refine State.stopWork_keeps ?_
    | refine State.stopStreams_keeps ?_ | refine State.leaveFor_keeps ?_ | refine State.failStep_keeps ?_ | split
    | dsimp +zetaDelta only | refine Keeps.mk_same ?_

theorem State.disarm_keeps {kb : Bool} {r0 s : State} {g : Nat} (hk : Keeps kb r0 s) :
    Keeps kb r0 (State.disarm s g) := by
  unfold State.disarm
  repeat' with_reducible first
    | assumption | refine State.onSagger_keeps ?_ | refine Keeps.ite (fun _ => ?_) fun _ => ?_
    | refine Keeps.mk_same ?_

theorem State.checkRecords_keeps {kb : Bool} {r0 s : State} {g : Nat} (hk : Keeps kb r0 s) :
    Keeps kb r0 (State.checkRecords s g) := by
  unfold State.checkRecords
  repeat' with_reducible first
    | assumption | extract_lets | refine State.faultReq_keeps ?_ | refine State.doneReq_keeps ?_
    | refine State.retireNode_keeps ?_ | refine State.endReq_keeps ?_ | refine State.stopSwap_keeps ?_
    | refine Keeps.foldl (fun _ _ _ => ?_) ?_ | refine Keeps.ite (fun _ => ?_) fun _ => ?_ | dsimp +zetaDelta only

theorem State.checkTiles_keeps {kb : Bool} {r0 s : State} {g : Nat} {fails : List Nat} (hk : Keeps kb r0 s) :
    Keeps kb r0 (State.checkTiles s g fails) := by
  unfold State.checkTiles
  repeat' first
    | (with_reducible first
        | assumption | refine State.onWheel_keeps ?_ | refine State.fault_keeps ?_
        | refine Keeps.foldl (fun _ _ _ => ?_) ?_)
    | refine State.onHealth_keeps (fun _ => ⟨id, Nat.le_refl _, Nat.le_refl _⟩) ?_
    | with_reducible refine Keeps.mk_same ?_

theorem State.resumeSwaps_keeps {kb : Bool} {r0 s : State} {g : Nat} (hk : Keeps kb r0 s) :
    Keeps kb r0 (State.resumeSwaps s g) := by
  unfold State.resumeSwaps
  repeat' with_reducible first
    | assumption | extract_lets | refine State.pageOut_keeps ?_ | refine State.pageIn_keeps ?_
    | refine Keeps.foldl (fun _ _ _ => ?_) ?_ | refine Keeps.ite (fun _ => ?_) fun _ => ?_ | split
    | dsimp +zetaDelta only | refine Keeps.mk_same ?_

theorem State.resumeSagger_keeps {kb : Bool} {r0 s : State} {g : Nat} (hk : Keeps kb r0 s) :
    Keeps kb r0 (State.resumeSagger s g) := by
  unfold State.resumeSagger
  repeat' with_reducible first
    | assumption | extract_lets | refine State.onSagger_keeps ?_ | refine State.setReg_keeps ?_
    | refine State.bump_keeps ?_ | refine State.touch_keeps ?_ | refine State.fault_keeps ?_
    | refine State.awaitEntry_keeps ?_ | refine State.failAll_keeps ?_ | refine State.saggerDown_keeps ?_
    | refine State.resumeSwaps_keeps ?_ | refine Keeps.foldl (fun _ _ _ => ?_) ?_
    | refine Keeps.ite (fun _ => ?_) fun _ => ?_ | dsimp +zetaDelta only | refine Keeps.mk_same ?_

theorem execSaggerResetSequence_keeps {kb : Bool} {r0 s : State} {g : SaggerIx} {refFails : List Nat} (hk : Keeps kb
    r0 s) :
    KeepsNext kb r0 (execSaggerResetSequence g refFails s) := by
  unfold execSaggerResetSequence
  repeat' with_reducible first
    | assumption | extract_lets | refine State.setReg_keeps ?_ | refine State.zeroTallies_keeps ?_
    | refine State.finishFire_keeps ?_ | refine State.clearSlabs_keeps ?_ | refine State.stopWork_keeps ?_
    | refine State.stopStreams_keeps ?_ | refine State.leaveFor_keeps ?_ | refine State.failStep_keeps ?_
    | refine State.saggerDown_keeps ?_ | refine State.checkRecords_keeps ?_ | refine State.checkTiles_keeps ?_
    | refine State.resumeSagger_keeps ?_ | refine State.when_keeps ?_ fun _ => ?_ | refine KeepsNext.next ?_
    | exact KeepsNext.refused | refine KeepsNext.ite (fun _ => ?_) fun _ => ?_
    | refine Keeps.ite (fun _ => ?_) fun _ => ?_ | split | dsimp +zetaDelta only | refine Keeps.mk_same ?_

theorem execSetterProbe_keeps {kb : Bool} {r0 s : State} {g : SaggerIx} {answers : Bool} (hk : Keeps kb r0 s) :
    KeepsNext kb r0 (execSetterProbe g answers s) := by
  unfold execSetterProbe
  repeat' with_reducible first
    | assumption | refine State.onSagger_keeps ?_ | refine State.when_keeps ?_ fun _ => ?_
    | refine KeepsNext.next ?_ | exact KeepsNext.refused | refine KeepsNext.ite (fun _ => ?_) fun _ => ?_
    | refine Keeps.ite (fun _ => ?_) fun _ => ?_ | refine Keeps.mk_same ?_

theorem execSetterProbeTimeout_keeps {kb : Bool} {r0 s : State} {g : SaggerIx} (hk : Keeps kb r0 s) :
    KeepsNext kb r0 (execSetterProbeTimeout g s) := by
  unfold execSetterProbeTimeout
  repeat' first
    | (with_reducible first
        | assumption | extract_lets | refine State.onSagger_keeps ?_ | refine State.fault_keeps ?_
        | refine State.saggerDown_keeps ?_ | refine State.when_keeps ?_ fun _ => ?_ | refine KeepsNext.next ?_
        | exact KeepsNext.refused | refine KeepsNext.ite (fun _ => ?_) fun _ => ?_
        | refine Keeps.ite (fun _ => ?_) fun _ => ?_ | dsimp +zetaDelta only)
    | refine State.onHealth_keeps (fun _ => ⟨id, Nat.le_refl _, Nat.le_refl _⟩) ?_
    | with_reducible refine Keeps.mk_same ?_

theorem execPairForm_keeps {kb : Bool} {r0 s : State}  (hk : Keeps kb r0 s) :
    KeepsNext kb r0 (execPairForm s) := by
  unfold execPairForm
  repeat' with_reducible first
    | assumption | refine State.onLute_keeps ?_ | refine State.buildSagger_keeps ?_
    | refine State.when_keeps ?_ fun _ => ?_ | refine KeepsNext.next ?_ | exact KeepsNext.refused
    | refine Keeps.foldl (fun _ _ _ => ?_) ?_ | refine Keeps.mk_same ?_

theorem State.stopLuted_keeps {kb : Bool} {r0 s : State} {g : Nat} (hk : Keeps kb r0 s) :
    Keeps kb r0 (State.stopLuted s g) := by
  unfold State.stopLuted
  repeat' with_reducible first
    | assumption | extract_lets | refine State.onSagger_keeps ?_ | refine State.fault_keeps ?_
    | refine State.doneReq_keeps ?_ | refine State.endReq_keeps ?_ | refine State.stopSwap_keeps ?_
    | refine State.onRouter_keeps ?_ | refine Keeps.foldl (fun _ _ _ => ?_) ?_
    | refine Keeps.ite (fun _ => ?_) fun _ => ?_ | dsimp +zetaDelta only | refine Keeps.mk_same ?_

theorem execPairStop_keeps {kb : Bool} {r0 s : State}  (hk : Keeps kb r0 s) :
    KeepsNext kb r0 (execPairStop s) := by
  unfold execPairStop
  repeat' with_reducible first
    | assumption | extract_lets | refine State.onLute_keeps ?_ | refine State.bump_keeps ?_
    | refine State.stopLuted_keeps ?_ | refine State.when_keeps ?_ fun _ => ?_ | refine KeepsNext.next ?_
    | exact KeepsNext.refused | refine Keeps.foldl (fun _ _ _ => ?_) ?_ | dsimp +zetaDelta only

end Sys2Proof.Machine
end

