-- ==== Sys2Proof/Laws/KeepsBoot.lean ====
section
/-! SUPPORT. `Keeps` through the functions of Machine/Boot.lean. -/

namespace Sys2Proof.Machine

set_option linter.all false

theorem State.lose_keeps {r0 s : State} {p : Power} (hk : Keeps false r0 s) : Keeps false r0 (s.lose p) :=
  hk.trans ⟨fun c => ⟨rfl, rfl, rfl, c.store, c.flash, c.map, Nat.zero_le _⟩, rfl, Nat.le_refl _, Nat.le_refl _,
    fun ho => ⟨ho, rfl⟩, Nat.le_refl _, Nat.le_refl _, nofun, nofun⟩

/-- A slot's state is changed. -/
theorem Health.setSlot_keeps (h : Health) (slot : Nat) (st : SlotState) :
    (h.setSlot slot st).map = h.map ∧ (h.setSlot slot st).boots = h.boots ∧ (h.setSlot slot st).maxSeq = h.maxSeq := by
  unfold Health.setSlot
  split <;> exact ⟨rfl, rfl, rfl⟩

theorem State.setSlot_keeps {kb : Bool} {r0 s : State} {slot : Nat} {st : SlotState} (hk : Keeps kb r0 s) :
    Keeps kb r0 (s.onHealth fun h => h.setSlot slot st) :=
  State.onHealth_keeps (fun x => by
    obtain ⟨h1, h2, h3⟩ := x.setSlot_keeps slot st
    exact ⟨fun hm => h1 ▸ hm, Nat.le_of_eq h2.symm, Nat.le_of_eq h3.symm⟩) hk

theorem State.holdLinks_keeps {kb : Bool} {r0 s : State}  (hk : Keeps kb r0 s) :
    Keeps kb r0 (State.holdLinks s) := by
  unfold State.holdLinks
  repeat' with_reducible first
    | assumption | extract_lets | refine State.onPort_keeps ?_ | refine State.onLink_keeps ?_
    | refine Keeps.foldl (fun _ _ _ => ?_) ?_ | dsimp +zetaDelta only | refine Keeps.mk_same ?_

theorem State.enterBisque_keeps {kb : Bool} {r0 s : State} {reason : Nat} (hk : Keeps kb r0 s) :
    Keeps kb r0 (State.enterBisque s reason) := by
  unfold State.enterBisque
  repeat' with_reducible first
    | assumption | extract_lets | refine State.onBoot_keeps ?_ | refine State.fault_keeps ?_
    | refine State.leaveSlices_keeps ?_ | refine State.saggerDown_keeps ?_ | refine State.holdLinks_keeps ?_
    | refine Keeps.foldl (fun _ _ _ => ?_) ?_ | refine Keeps.ite (fun _ => ?_) fun _ => ?_ | dsimp +zetaDelta only
    | refine Keeps.mk_same ?_

theorem execBisqueEntry_keeps {kb : Bool} {r0 s : State} {reason : BitVec 8} (hk : Keeps kb r0 s) :
    KeepsNext kb r0 (execBisqueEntry reason s) := by
  unfold execBisqueEntry
  repeat' with_reducible first
    | assumption | refine State.enterBisque_keeps ?_ | refine State.when_keeps ?_ fun _ => ?_
    | refine KeepsNext.next ?_ | exact KeepsNext.refused | refine KeepsNext.ite (fun _ => ?_) fun _ => ?_
    | refine Keeps.ite (fun _ => ?_) fun _ => ?_

theorem execDeadlockDetect_keeps {kb : Bool} {r0 s : State} {k : BitVec 4} (hk : Keeps kb r0 s) :
    KeepsNext kb r0 (execDeadlockDetect k s) := by
  unfold execDeadlockDetect
  repeat' with_reducible first
    | assumption | extract_lets | refine State.bump_keeps ?_ | refine State.fault_keeps ?_
    | refine State.writeSnap_keeps ?_ | refine State.disarm_keeps ?_ | refine State.enterBisque_keeps ?_
    | refine State.when_keeps ?_ fun _ => ?_ | refine KeepsNext.next ?_ | exact KeepsNext.refused
    | refine KeepsNext.ite (fun _ => ?_) fun _ => ?_ | refine Keeps.ite (fun _ => ?_) fun _ => ?_
    | dsimp +zetaDelta only

theorem State.abandonSlot_keeps {kb : Bool} {r0 s : State} {slot : Nat} (hk : Keeps kb r0 s) :
    Keeps kb r0 (State.abandonSlot s slot) := by
  unfold State.abandonSlot
  split
  · exact State.onBoot_keeps (State.setSlot_keeps hk)
  · exact hk

theorem State.trySlot_keeps {kb : Bool} {r0 s : State} {slot : Nat} (hk : Keeps kb r0 s) :
    Keeps kb r0 (State.trySlot s slot).2 := by
  unfold State.trySlot
  repeat' with_reducible first
    | assumption | refine Keeps.of_snd ?_ (by assumption) | refine State.fault_keeps ?_
    | refine State.abandonSlot_keeps ?_ | refine Keeps.ite2 (fun _ => ?_) fun _ => ?_
    | refine Keeps.ite (fun _ => ?_) fun _ => ?_

theorem State.chooseSlot_keeps {kb : Bool} {r0 s : State}  (hk : Keeps kb r0 s) :
    Keeps kb r0 (State.chooseSlot s).2 := by
  have h1 : Keeps kb r0 ((s.abandonSlot 0).abandonSlot 1) := State.abandonSlot_keeps (State.abandonSlot_keeps hk)
  unfold State.chooseSlot
  generalize (s.abandonSlot 0).abandonSlot 1 = s1 at h1
  extract_lets s1' s2 other
  have h2 : Keeps kb r0 s2 := by
    show Keeps kb r0 (if _ then _ else _)
    refine Keeps.ite (fun _ => ?_) fun _ => h1
    exact State.onHealth_keeps (fun _ => ⟨id, Nat.le_refl _, Nat.le_refl _⟩) h1
  refine Keeps.ite2 (fun _ => State.setSlot_keeps h2) fun _ => h2

theorem State.joinMarks_keeps {kb : Bool} {r0 s : State}  (hk : Keeps kb r0 s) :
    Keeps kb r0 (State.joinMarks s) := by
  unfold State.joinMarks
  refine Keeps.foldl (fun _ _ ht => State.fault_keeps ht) ?_
  refine State.onHealth_keeps_at ⟨fun hm => ?_, Nat.le_succ _, Nat.le_refl _⟩ hk
  exact Memory.wf_foldl_mput _ _ hm

theorem State.startFirmware_keeps {kb : Bool} {r0 s : State} {slot : Nat} {env : StartEnv} (hk : Keeps kb r0 s) :
    Keeps kb r0 (State.startFirmware s slot env) := by
  unfold State.startFirmware
  repeat' with_reducible first
    | assumption | extract_lets | refine State.onBoot_keeps ?_ | refine State.setReg_keeps ?_
    | refine State.fault_keeps ?_ | refine Keeps.ite (fun _ => ?_) fun _ => ?_ | dsimp +zetaDelta only
    | refine Keeps.mk_same ?_

theorem State.adoptPlan_keeps {kb : Bool} {r0 s : State} {p : List Byte} (hk : Keeps kb r0 s) :
    Keeps kb r0 (State.adoptPlan s p) := by
  unfold State.adoptPlan
  extract_lets x fuses s1
  refine State.onLat_keeps (State.onHealth_keeps (f := fun h =>
    { h with maxSeq := max h.maxSeq x.seq, creds := x.creds, ip6 := x.device.ip6, ip4 := x.device.ip4 })
    (fun _ => ⟨id, Nat.le_refl _, Nat.le_max_left _ _⟩) ?_)
  refine hk.trans ⟨fun c => ⟨c.hbm, c.slab, c.ware, c.store, c.flash, c.map, c.ring⟩, rfl, Nat.le_refl _, ?_, fun ho
      => ?_,
    Nat.le_refl _, Nat.le_refl _, fun _ => ConesRise.refl s, fun _ => rfl⟩
  · show s.fuses.svnMin ≤ Fuses.svnMin (if _ then _ else _)
    split <;> exact Nat.le_refl _
  · show Fuses.ownerSet (if _ then _ else _) = true ∧ Fuses.owner (if _ then _ else _) = _
    rw [if_pos ho]
    exact ⟨ho, rfl⟩

theorem State.bootSlot_keeps {kb : Bool} {r0 s : State} {slot : Nat} {env : StartEnv} (hk : Keeps kb r0 s) :
    Keeps kb r0 (State.bootSlot s slot env).2.2 := by
  have h1 : Keeps kb r0 (s.trySlot slot).2 := State.trySlot_keeps hk
  unfold State.bootSlot
  split
  rename_i ok s1 e
  have h1 := Keeps.of_snd h1 e
  split
  · exact h1
  · have h2 : Keeps kb r0 (s1.startFirmware slot env) := State.startFirmware_keeps h1
    dsimp only
    split
    · exact State.adoptPlan_keeps h2
    · exact State.abandonSlot_keeps (State.fault_keeps h2)

theorem State.calibrate_keeps {r0 s : State} {env : StartEnv} (hk : Keeps false r0 s) : Keeps false r0 (s.calibrate env) := by
  unfold State.calibrate
  extract_lets warm s1 s2 twice
  have h2 : Keeps false r0 s2 :=
    Keeps.foldl (fun _ _ ht => State.onStack_keeps ht) (Keeps.foldl (fun _ _ ht => State.onCone_keeps nofun ht) hk)
  refine State.onBoot_keeps ?_
  apply State.onHealth_keeps _ h2
  exact fun x => ⟨Memory.wf_foldl_mput _ _, Nat.le_refl _, Nat.le_refl _⟩

theorem State.finishStart_keeps {kb : Bool} {r0 s : State}  (hk : Keeps kb r0 s) :
    Keeps kb r0 (State.finishStart s) := by
  unfold State.finishStart
  extract_lets tenants s1
  have h1 : Keeps kb r0 s1 := Keeps.foldl (fun _ _ ht => State.buildSagger_keeps (State.onSagger_keeps ht)) hk
  split
  rename_i f s2 e
  have h3 : Keeps kb r0 (s2.onBoot fun b => { b with
      phase := 6, ready := true, readyWas := true, startMs := Config.freeNat f % (if b.warm then 30001 else 60001)
          }) :=
    State.onBoot_keeps (Keeps.of_snd (State.draw_keeps h1) e)
  extract_lets s3
  have h3 : Keeps kb r0 s3 := h3
  split
  · refine State.onHealth_keeps (fun x => ?_) ?_
    · obtain ⟨h1, h2, h3⟩ := x.setSlot_keeps s3.boot.slot .active
      obtain ⟨h4, h5, h6⟩ := (x.setSlot s3.boot.slot .active).setSlot_keeps (1 - s3.boot.slot) .idle
      exact ⟨fun hm => (h4.trans h1) ▸ hm, Nat.le_of_eq (h5.trans h2).symm, Nat.le_of_eq (h6.trans h3).symm⟩
    · exact h3.trans ⟨fun c => ⟨c.hbm, c.slab, c.ware, c.store, c.flash, c.map, c.ring⟩, rfl, Nat.le_refl _,
        Nat.le_max_left _ _,
        fun ho => ⟨ho, rfl⟩, Nat.le_refl _, Nat.le_refl _, fun _ => ConesRise.refl s3, fun _ => rfl⟩
  · exact h3

theorem State.assignChannels_keeps {kb : Bool} {r0 s : State}  (hk : Keeps kb r0 s) :
    Keeps kb r0 (State.assignChannels s) := by
  unfold State.assignChannels
  repeat' with_reducible first
    | assumption | refine State.onChan_keeps ?_ | refine Keeps.foldl (fun _ _ _ => ?_) ?_
    | refine Keeps.mk_same ?_

theorem State.disablePorts_keeps {kb : Bool} {r0 s : State} (hk : Keeps kb r0 s) : Keeps kb r0 s.disablePorts := by
  unfold State.disablePorts
  repeat' with_reducible first
    | assumption | refine State.onPort_keeps ?_ | refine Keeps.foldl (fun _ _ _ => ?_) ?_
    | refine Keeps.mk_same ?_

theorem State.startTimebase_keeps {r0 s : State} (hk : Keeps false r0 s) : Keeps false r0 s.startTimebase :=
  State.onTb_keeps nofun hk

theorem State.startServing_keeps {r0 s : State} {env : StartEnv} (hk : Keeps false r0 s) :
    Keeps false r0 (s.startServing env) := by
  have h0 : Keeps false r0 s.startTimebase.assignChannels.disablePorts :=
    State.disablePorts_keeps (State.assignChannels_keeps (State.startTimebase_keeps hk))
  unfold State.startServing
  dsimp only
  split
  · exact State.enterBisque_keeps (State.onBoot_keeps h0)
  · split
    · exact State.enterBisque_keeps (State.onBoot_keeps (State.calibrate_keeps h0))
    · exact State.finishStart_keeps (State.onBoot_keeps (State.calibrate_keeps h0))

theorem State.start_keeps {r0 s : State} {env : StartEnv} (hk : Keeps false r0 s) : Keeps false r0 (s.start env) := by
  unfold State.start
  extract_lets s0 s1
  have h1 : Keeps false r0 s1 :=
    State.joinMarks_keeps (State.onHealth_keeps (fun _ => ⟨id, Nat.le_refl _, Nat.le_refl _⟩) (State.onBoot_keeps hk))
  split
  rename_i a s2 e2
  have h2 := Keeps.of_snd (State.chooseSlot_keeps h1) e2
  split
  rename_i fw ok s3 e3
  have h3 := Keeps.of_third (State.bootSlot_keeps h2) e3
  split
  · exact State.startServing_keeps h3
  · split
    rename_i fw2 ok2 s4 e4
    have h4 := Keeps.of_third (State.bootSlot_keeps h3) e4
    split
    · exact State.startServing_keeps (State.onHealth_keeps (fun _ => ⟨id, Nat.le_refl _, Nat.le_refl _⟩) h4)
    · split
      · refine State.enterBisque_keeps (State.onBoot_keeps (State.startTimebase_keeps ?_))
        exact Keeps.ite (fun _ => h4) fun _ => State.startFirmware_keeps h4
      · exact State.onBoot_keeps h4

theorem State.startIf_keeps {r0 s : State} {env : StartEnv} (hk : Keeps false r0 s) : Keeps false r0 (s.startIf env) :=
  Keeps.ite (fun _ => State.start_keeps (State.onPower_keeps hk)) fun _ => hk

theorem execResetRelease_keeps {r0 s : State} {env : StartEnv} (hk : Keeps false r0 s) :
    KeepsNext false r0 (execResetRelease env s) := State.startIf_keeps (State.onPower_keeps hk)

theorem execResetAssert_keeps {r0 s : State} (hk : Keeps false r0 s) : KeepsNext false r0 (execResetAssert s) :=
  State.lose_keeps hk

theorem execTrip_keeps {r0 s : State} {junction stack : Int} {ppm : Option Int} (hk : Keeps false r0 s) :
    KeepsNext false r0 (execTrip junction stack ppm s) := State.when_keeps hk fun _ => State.lose_keeps hk

theorem execInputLockout_keeps {r0 s : State} (hk : Keeps false r0 s) : KeepsNext false r0 (execInputLockout s) :=
  State.lose_keeps hk

theorem execInputReturn_keeps {r0 s : State} {env : StartEnv} (hk : Keeps false r0 s) :
    KeepsNext false r0 (execInputReturn env s) := State.startIf_keeps (State.onPower_keeps hk)

theorem execModuleInsert_keeps {kb : Bool} {r0 s : State}  (hk : Keeps kb r0 s) :
    KeepsNext kb r0 (execModuleInsert s) := by
  unfold execModuleInsert
  repeat' with_reducible first
    | assumption | refine State.onPower_keeps ?_ | refine KeepsNext.next ?_ | exact KeepsNext.refused
    | refine Keeps.mk_same ?_

theorem execRefclkPpmUpdate_keeps {kb : Bool} {r0 s : State} {ppm : Int} (hk : Keeps kb r0 s) :
    KeepsNext kb r0 (execRefclkPpmUpdate ppm s) := by
  unfold execRefclkPpmUpdate
  repeat' with_reducible first
    | assumption | refine State.onPower_keeps ?_ | refine State.when_keeps ?_ fun _ => ?_
    | refine KeepsNext.next ?_ | exact KeepsNext.refused | refine Keeps.mk_same ?_

theorem execManagementLinkChange_keeps {kb : Bool} {r0 s : State} {up : Bool} {addr : Bool} (hk : Keeps kb r0 s) :
    KeepsNext kb r0 (execManagementLinkChange up addr s) := by
  unfold execManagementLinkChange
  repeat' with_reducible first
    | assumption | refine State.onMgmt_keeps ?_ | refine State.when_keeps ?_ fun _ => ?_
    | refine KeepsNext.next ?_ | exact KeepsNext.refused | refine Keeps.mk_same ?_

theorem Health.addCone_keeps (h : Health) (index heat : List Nat) : (Memory.wf h.map = true → Memory.wf (h.addCone index heat).map = true) ∧
    h.boots ≤ (h.addCone index heat).boots ∧ h.maxSeq ≤ (h.addCone index heat).maxSeq := by
  unfold Health.addCone
  exact ⟨id, Nat.le_refl _, Nat.le_refl _⟩

theorem newCode_le (code : Nat) (m : Int) : code ≤ newCode code m := by
  unfold newCode
  split
  · exact Nat.le_max_left _ _
  · exact Nat.le_refl _

theorem State.replan_keeps {kb : Bool} {r0 s : State} {d : Nat} {ms : List Int} {steps : Option Nat} (hk : Keeps kb r0 s) :
    Keeps kb r0 (s.replan d ms steps) := by
  unfold State.replan
  extract_lets c floor c' s1
  have hc : c.vfloor ≤ c'.vfloor ∧ ∀ k < 32, c.codes.getD k 0 ≤ c'.codes.getD k 0 := by
    show c.vfloor ≤ ConeDie.vfloor (match floor with | some v => _ | none => _) ∧
      ∀ k < 32, _ ≤ (ConeDie.codes (match floor with | some v => _ | none => _)).getD k 0
    rcases hf : floor with _ | v
    · refine ⟨Nat.le_refl _, fun k hk' => ?_⟩
      simp only [List.getD_eq_getElem?_getD, List.getElem?_map, List.getElem?_range hk', Option.map_some, Option.getD_some]
      exact newCode_le _ _
    · refine ⟨?_, fun _ _ => Nat.le_refl _⟩
      obtain ⟨n, _, hn⟩ := Option.bind_eq_some_iff.1 hf
      rw [Option.ite_none_right_eq_some] at hn
      obtain ⟨_, hn⟩ := hn
      cases hn
      show c.vfloor ≤ c.vfloor + 10 * n
      omega
  have h1 : Keeps kb r0 s1 := State.fault_keeps (State.bump_keeps (State.onCone_keeps (fun _ => hc) hk))
  exact State.onHealth_keeps (fun _ => ⟨id, Nat.le_refl _, Nat.le_refl _⟩) h1

theorem State.measureDie_keeps {kb : Bool} {r0 s : State} {d : Nat} {env : ConeEnv} (hk : Keeps kb r0 s) :
    Keeps kb r0 (State.measureDie s d env) := by
  unfold State.measureDie
  split
  rename_i f s1 e
  have h1 := Keeps.of_snd (State.draw_keeps hk) e
  extract_lets refs proj s2
  have h2 : Keeps kb r0 s2 := State.onCone_keeps (fun _ => ⟨Nat.le_refl _, fun _ _ => Nat.le_refl _⟩) h1
  split
  · exact State.raiseLimited_keeps h2
  · exact h2

theorem execConeMeasure_keeps {kb : Bool} {r0 s : State} {env : ConeEnv} (hk : Keeps kb r0 s) :
    KeepsNext kb r0 (execConeMeasure env s) := by
  unfold execConeMeasure
  extract_lets s1 s2 s3 low s4
  have h1 : Keeps kb r0 s1 := Keeps.foldl (fun _ _ ht => State.measureDie_keeps ht) hk
  clear_value s1
  have h2 : Keeps kb r0 s2 :=
    State.onHealth_keeps (f := fun h => h.addCone [(s1.cone 0).index, (s1.cone 1).index] [(s1.cone 0).heat, (s1.cone
        1).heat])
      (fun x => x.addCone_keeps _ _) (State.setReg_keeps (State.bump_keeps h1))
  clear_value s2
  have h3 : Keeps kb r0 s3 := h2.of_same rfl rfl rfl rfl rfl rfl rfl rfl
  have h4 : Keeps kb r0 s4 := Keeps.foldl (fun _ _ ht => State.replan_keeps ht) h3
  exact State.when_keeps hk fun _ => Keeps.ite (fun _ => State.enterBisque_keeps h4) fun _ => h4

theorem State.saveCalibration_keeps {kb : Bool} {r0 s : State}  (hk : Keeps kb r0 s) :
    Keeps kb r0 (State.saveCalibration s) := by
  unfold State.saveCalibration
  apply State.onHealth_keeps _ hk
  intro x
  have h1 := x.addCone_keeps [(s.cone 0).index, (s.cone 1).index] [(s.cone 0).heat, (s.cone 1).heat]
  revert h1
  generalize x.addCone [(s.cone 0).index, (s.cone 1).index] [(s.cone 0).heat, (s.cone 1).heat] = y
  exact id

theorem State.endShutdown_keeps {kb : Bool} {r0 s : State} {result : Nat} (hk : Keeps kb r0 s) :
    Keeps kb r0 (State.endShutdown s result) := by
  unfold State.endShutdown
  extract_lets n s1 s2 s3 s4
  have h1 : Keeps kb r0 s1 := State.onHealth_keeps (fun _ => ⟨id, Nat.le_refl _, Nat.le_refl _⟩) hk
  have h2 : Keeps kb r0 s2 := by
    dsimp only [s2]
    split
    · exact State.mgmtAnswer_keeps h1
    · exact h1
  exact State.onBoot_keeps (Keeps.foldl (fun _ _ ht => State.onLink_keeps ht) (Keeps.foldl (fun _ _ ht =>
      State.onPort_keeps ht) h2))

theorem State.startBist_keeps {kb : Bool} {r0 s : State}  (hk : Keeps kb r0 s) :
    Keeps kb r0 (State.startBist s) := by
  unfold State.startBist
  split
  · have h1 : Keeps kb r0 (s.onHealth fun h => { h with pending := h.pending ++
        (s.boot.bistEnv.failed.filter fun f => !s.marked f.1 f.2).filter fun f => !h.pending.contains f }) :=
      State.onHealth_keeps (fun _ => ⟨id, Nat.le_refl _, Nat.le_refl _⟩) hk
    refine State.onBoot_keeps ?_
    apply State.onMem_keeps _ h1
    exact fun m hm => ⟨rfl, rfl, rfl, hm.2.2.2⟩
  · exact State.endShutdown_keeps (State.fault_keeps hk)

theorem State.advanceShutdown_keeps {kb : Bool} {r0 s : State}  (hk : Keeps kb r0 s) :
    Keeps kb r0 (State.advanceShutdown s) := by
  unfold State.advanceShutdown
  repeat' with_reducible first
    | assumption | extract_lets | refine State.leaveSlices_keeps ?_ | refine State.saggerDown_keeps ?_
    | refine State.saveCalibration_keeps ?_ | refine State.startBist_keeps ?_
    | refine Keeps.foldl (fun _ _ _ => ?_) ?_ | refine Keeps.ite (fun _ => ?_) fun _ => ?_ | dsimp +zetaDelta only

theorem State.shutdownTick_keeps {kb : Bool} {r0 s : State}  (hk : Keeps kb r0 s) :
    Keeps kb r0 (State.shutdownTick s) := by
  unfold State.shutdownTick
  repeat' with_reducible first
    | assumption | refine State.endShutdown_keeps ?_ | refine State.advanceShutdown_keeps ?_
    | refine Keeps.ite (fun _ => ?_) fun _ => ?_

theorem execBistConditionCheck_keeps {kb : Bool} {r0 s : State} {refclkPpm : Int} {railsOk : Bool} (hk : Keeps kb r0
    s) :
    KeepsNext kb r0 (execBistConditionCheck refclkPpm railsOk s) := by
  unfold execBistConditionCheck
  repeat' with_reducible first
    | assumption | refine State.fault_keeps ?_ | refine State.endShutdown_keeps ?_
    | refine State.when_keeps ?_ fun _ => ?_ | refine KeepsNext.next ?_ | exact KeepsNext.refused

theorem execFaultLogEnter_keeps {kb : Bool} {r0 s : State}  (hk : Keeps kb r0 s) :
    KeepsNext kb r0 (execFaultLogEnter s) := by
  unfold execFaultLogEnter
  split
  · exact hk
  · rename_i r rest _
    have h1 : Keeps kb r0 (s.bump .topFltLost 0 (if s.flog.ring.length ≥ 4096 then 1 else 0)) := State.bump_keeps hk
    refine KeepsNext.next (State.onFlog_keeps (fun x hx => ?_) (Keeps.ite (fun _ => State.setReg_keeps h1) fun _ =>
        h1))
    simp only [FaultLog.enter, List.length_drop, List.length_append, List.length_cons, List.length_nil]
    omega

end Sys2Proof.Machine
end

