-- ==== Sys2Proof/Laws/KeepsAttest.lean ====
section
/-! SUPPORT. `Keeps` through the functions of Machine/Attest.lean. -/

namespace Sys2Proof.Machine

set_option linter.all false

theorem State.sendReport_keeps {kb : Bool} {r0 s : State} {a : AttestWait} (hk : Keeps kb r0 s) :
    Keeps kb r0 (State.sendReport s a) := by
  unfold State.sendReport
  repeat' with_reducible first
    | assumption | extract_lets | refine State.bump_keeps ?_ | refine State.fault_keeps ?_
    | refine State.sendUnder_keeps ?_ | refine State.mgmtAnswer_keeps ?_ | refine Keeps.foldl (fun _ _ _ => ?_) ?_
    | refine Keeps.ite (fun _ => ?_) fun _ => ?_ | split | dsimp +zetaDelta only | refine Keeps.mk_same ?_

theorem State.askReport_keeps {kb : Bool} {r0 s : State} {a : AttestWait} (hk : Keeps kb r0 s) :
    Keeps kb r0 (State.askReport s a) := by
  unfold State.askReport
  repeat' with_reducible first
    | assumption | refine State.onMgmt_keeps ?_ | refine State.sendReport_keeps ?_
    | refine Keeps.ite (fun _ => ?_) fun _ => ?_ | refine Keeps.mk_same ?_

theorem execAttestSnapshot_keeps {kb : Bool} {r0 s : State}  (hk : Keeps kb r0 s) :
    KeepsNext kb r0 (execAttestSnapshot s) := by
  unfold execAttestSnapshot
  repeat' with_reducible first
    | assumption | refine State.onMgmt_keeps ?_ | refine State.sendReport_keeps ?_ | refine KeepsNext.next ?_
    | exact KeepsNext.refused | split | refine Keeps.mk_same ?_

end Sys2Proof.Machine
end

