-- ==== Sys2Proof/Laws/KeepsShomuLink.lean ====
section
/-! SUPPORT. `Keeps` through the functions of Machine/ShomuLink.lean. -/

namespace Sys2Proof.Machine

set_option linter.all false

theorem State.linkFails_keeps {kb : Bool} {r0 s : State} {k : Nat} {reason : Nat} (hk : Keeps kb r0 s) :
    Keeps kb r0 (State.linkFails s k reason) := by
  unfold State.linkFails
  repeat' with_reducible first | assumption | refine State.onLink_keeps ?_ | refine Keeps.mk_same ?_

theorem State.closeChans_keeps {kb : Bool} {r0 s : State} {cs : List Nat} (hk : Keeps kb r0 s) :
    Keeps kb r0 (State.closeChans s cs) := by
  unfold State.closeChans
  repeat' with_reducible first
    | assumption | extract_lets | refine State.onChan_keeps ?_ | refine State.markLost_keeps ?_
    | refine Keeps.foldl (fun _ _ _ => ?_) ?_ | refine Keeps.ite (fun _ => ?_) fun _ => ?_ | split
    | dsimp +zetaDelta only | refine Keeps.mk_same ?_

theorem State.dropLink_keeps {kb : Bool} {r0 s : State} {k : Nat} {reason : Nat} {retry : Bool} (hk : Keeps kb r0 s) :
    Keeps kb r0 (State.dropLink s k reason retry) := by
  unfold State.dropLink
  repeat' with_reducible first | assumption | refine State.onLink_keeps ?_ | refine State.closeChans_keeps ?_

theorem State.linkLost_keeps {kb : Bool} {r0 s : State} {k : Nat} {reason : Nat} (hk : Keeps kb r0 s) :
    Keeps kb r0 (State.linkLost s k reason) := by
  unfold State.linkLost
  repeat' with_reducible first
    | assumption | refine State.bump_keeps ?_ | refine State.fault_keeps ?_ | refine State.dropLink_keeps ?_

theorem State.grantChan_keeps {kb : Bool} {r0 s : State} {c : Nat} (hk : Keeps kb r0 s) :
    Keeps kb r0 (State.grantChan s c) := by
  unfold State.grantChan
  repeat' with_reducible first | assumption | refine State.onLink_keeps ?_ | refine Keeps.mk_same ?_

theorem State.openPlain_keeps {kb : Bool} {r0 s : State} {k : Nat} (hk : Keeps kb r0 s) :
    Keeps kb r0 (State.openPlain s k) := by
  unfold State.openPlain
  repeat' with_reducible first
    | assumption | refine State.onChan_keeps ?_ | refine Keeps.foldl (fun _ _ _ => ?_) ?_
    | refine Keeps.ite (fun _ => ?_) fun _ => ?_ | refine Keeps.mk_same ?_

theorem execShomuLinkTrain_keeps {kb : Bool} {r0 s : State} {k : LinkIx} {locked : BitVec 16} (hk : Keeps kb r0 s) :
    KeepsNext kb r0 (execShomuLinkTrain k locked s) := by
  unfold execShomuLinkTrain
  repeat' with_reducible first
    | assumption | extract_lets | refine State.onLink_keeps ?_ | refine State.linkFails_keeps ?_
    | refine State.when_keeps ?_ fun _ => ?_ | refine KeepsNext.next ?_ | exact KeepsNext.refused
    | refine KeepsNext.ite (fun _ => ?_) fun _ => ?_ | refine Keeps.ite (fun _ => ?_) fun _ => ?_
    | dsimp +zetaDelta only | refine Keeps.mk_same ?_

theorem State.linkUp_keeps {kb : Bool} {r0 s : State} {k : Nat} {r : BitVec 256} (hk : Keeps kb r0 s) :
    Keeps kb r0 (State.linkUp s k r) := by
  unfold State.linkUp
  repeat' with_reducible first
    | assumption | extract_lets | refine State.onLink_keeps ?_ | refine State.fault_keeps ?_
    | refine State.grantChan_keeps ?_ | refine State.openPlain_keeps ?_ | refine Keeps.foldl (fun _ _ _ => ?_) ?_
    | refine Keeps.ite (fun _ => ?_) fun _ => ?_ | dsimp +zetaDelta only | refine Keeps.mk_same ?_

theorem execShomuTrainingRecord_keeps {kb : Bool} {r0 s : State} {k : LinkIx} {rec : BitVec 256} (hk : Keeps kb r0
    s) :
    KeepsNext kb r0 (execShomuTrainingRecord k rec s) := by
  unfold execShomuTrainingRecord
  repeat' with_reducible first
    | assumption | extract_lets | refine State.onLink_keeps ?_ | refine State.fault_keeps ?_
    | refine State.dropLink_keeps ?_ | refine State.linkUp_keeps ?_ | refine KeepsNext.next ?_
    | exact KeepsNext.refused | refine KeepsNext.ite (fun _ => ?_) fun _ => ?_
    | refine Keeps.ite (fun _ => ?_) fun _ => ?_ | split | dsimp +zetaDelta only | refine Keeps.mk_same ?_

theorem execShomuTrainTimeout_keeps {kb : Bool} {r0 s : State} {k : LinkIx} (hk : Keeps kb r0 s) :
    KeepsNext kb r0 (execShomuTrainTimeout k s) := by
  unfold execShomuTrainTimeout
  repeat' with_reducible first
    | assumption | extract_lets | refine State.linkFails_keeps ?_ | refine State.when_keeps ?_ fun _ => ?_
    | refine KeepsNext.next ?_ | exact KeepsNext.refused | dsimp +zetaDelta only

theorem execShomuTrainRetry_keeps {kb : Bool} {r0 s : State} {k : LinkIx} (hk : Keeps kb r0 s) :
    KeepsNext kb r0 (execShomuTrainRetry k s) := by
  unfold execShomuTrainRetry
  repeat' with_reducible first
    | assumption | extract_lets | refine State.onLink_keeps ?_ | refine State.when_keeps ?_ fun _ => ?_
    | refine KeepsNext.next ?_ | exact KeepsNext.refused | dsimp +zetaDelta only | refine Keeps.mk_same ?_

theorem execShomuFastRetrain_keeps {kb : Bool} {r0 s : State} {k : LinkIx} {faulty : BitVec 16} (hk : Keeps kb r0 s) :
    KeepsNext kb r0 (execShomuFastRetrain k faulty s) := by
  unfold execShomuFastRetrain
  repeat' with_reducible first
    | assumption | extract_lets | refine State.onLink_keeps ?_ | refine State.bump_keeps ?_
    | refine State.linkLost_keeps ?_ | refine State.when_keeps ?_ fun _ => ?_ | refine KeepsNext.next ?_
    | exact KeepsNext.refused | refine KeepsNext.ite (fun _ => ?_) fun _ => ?_
    | refine Keeps.ite (fun _ => ?_) fun _ => ?_ | dsimp +zetaDelta only | refine Keeps.mk_same ?_

theorem State.shomuReplay_keeps {kb : Bool} {r0 s : State} {k : Nat} {seq : BitVec 12} (hk : Keeps kb r0 s) :
    Keeps kb r0 (State.shomuReplay s k seq) := by
  unfold State.shomuReplay
  repeat' with_reducible first
    | assumption | extract_lets | refine State.onLink_keeps ?_ | refine State.bump_keeps ?_
    | refine Keeps.ite (fun _ => ?_) fun _ => ?_ | dsimp +zetaDelta only | refine Keeps.mk_same ?_

theorem State.takeGrant_keeps {kb : Bool} {r0 s : State} {k : Nat} {b : BitVec 64} (hk : Keeps kb r0 s) :
    Keeps kb r0 (State.takeGrant s k b) := by
  unfold State.takeGrant
  repeat' with_reducible first
    | assumption | extract_lets | refine State.onLink_keeps ?_ | refine State.onChan_keeps ?_
    | refine Keeps.ite (fun _ => ?_) fun _ => ?_ | split | dsimp +zetaDelta only | refine Keeps.mk_same ?_

theorem execShomuFlit_keeps {kb : Bool} {r0 s : State} {k : LinkIx} {bytes : List Byte} (hk : Keeps kb r0 s) :
    KeepsNext kb r0 (execShomuFlit k bytes s) := by
  unfold execShomuFlit
  repeat' with_reducible first
    | assumption | extract_lets | refine State.onLink_keeps ?_ | refine State.bump_keeps ?_
    | refine State.shomuReplay_keeps ?_ | refine State.takeGrant_keeps ?_ | refine KeepsNext.next ?_
    | exact KeepsNext.refused | refine Keeps.foldl (fun _ _ _ => ?_) ?_
    | refine KeepsNext.ite (fun _ => ?_) fun _ => ?_ | refine Keeps.ite (fun _ => ?_) fun _ => ?_ | split
    | dsimp +zetaDelta only | refine Keeps.mk_same ?_

theorem execShomuNak_keeps {kb : Bool} {r0 s : State} {k : LinkIx} {seq : BitVec 12} (hk : Keeps kb r0 s) :
    KeepsNext kb r0 (execShomuNak k seq s) := by
  unfold execShomuNak
  repeat' with_reducible first
    | assumption | refine State.onLink_keeps ?_ | refine State.shomuReplay_keeps ?_
    | refine State.when_keeps ?_ fun _ => ?_ | refine KeepsNext.next ?_ | exact KeepsNext.refused
    | refine Keeps.mk_same ?_

theorem execCredit_keeps {kb : Bool} {r0 s : State} {k : LinkIx} {grants : List (BitVec 64)} (hk : Keeps kb r0 s) :
    KeepsNext kb r0 (execCredit k grants s) := by
  unfold execCredit
  repeat' with_reducible first
    | assumption | refine State.onLink_keeps ?_ | refine State.takeGrant_keeps ?_
    | refine State.when_keeps ?_ fun _ => ?_ | refine KeepsNext.next ?_ | exact KeepsNext.refused
    | refine Keeps.foldl (fun _ _ _ => ?_) ?_ | refine KeepsNext.ite (fun _ => ?_) fun _ => ?_
    | refine Keeps.ite (fun _ => ?_) fun _ => ?_ | refine Keeps.mk_same ?_

theorem execShomuHeartbeatSend_keeps {kb : Bool} {r0 s : State} {k : LinkIx} (hk : Keeps kb r0 s) :
    KeepsNext kb r0 (execShomuHeartbeatSend k s) := by
  unfold execShomuHeartbeatSend
  repeat' with_reducible first
    | assumption | extract_lets | refine State.onLink_keeps ?_ | refine State.when_keeps ?_ fun _ => ?_
    | refine KeepsNext.next ?_ | exact KeepsNext.refused | dsimp +zetaDelta only | refine Keeps.mk_same ?_

theorem execHeartbeat_keeps {kb : Bool} {r0 s : State} {k : LinkIx} (hk : Keeps kb r0 s) :
    KeepsNext kb r0 (execHeartbeat k s) := by
  unfold execHeartbeat
  repeat' with_reducible first
    | assumption | extract_lets | refine State.onLink_keeps ?_ | refine State.when_keeps ?_ fun _ => ?_
    | refine KeepsNext.next ?_ | exact KeepsNext.refused | dsimp +zetaDelta only | refine Keeps.mk_same ?_

theorem execShomuLossDetect_keeps {kb : Bool} {r0 s : State} {k : LinkIx} (hk : Keeps kb r0 s) :
    KeepsNext kb r0 (execShomuLossDetect k s) := by
  unfold execShomuLossDetect
  repeat' with_reducible first
    | assumption | extract_lets | refine State.linkLost_keeps ?_ | refine State.when_keeps ?_ fun _ => ?_
    | refine KeepsNext.next ?_ | exact KeepsNext.refused | dsimp +zetaDelta only

theorem execLossRequestEnd_keeps {kb : Bool} {r0 s : State} {g : SaggerIx} (hk : Keeps kb r0 s) :
    KeepsNext kb r0 (execLossRequestEnd g s) := by
  unfold execLossRequestEnd
  repeat' with_reducible first
    | assumption | refine State.endLost_keeps ?_ | refine KeepsNext.next ?_ | exact KeepsNext.refused

end Sys2Proof.Machine
end

