-- ==== Sys2Proof/Laws/KeepsShomuChan.lean ====
section
/-! SUPPORT. `Keeps` through the functions of Machine/ShomuChan.lean. -/

namespace Sys2Proof.Machine

set_option linter.all false

theorem State.retireSlot_keeps {kb : Bool} {r0 s : State} {c : Nat} {n : Nat} {reissued : Nat} (hk : Keeps kb r0 s) :
    Keeps kb r0 (State.retireSlot s c n reissued) := by
  unfold State.retireSlot
  repeat' first
    | (with_reducible first
        | assumption | extract_lets | refine State.onChan_keeps ?_ | refine State.bump_keeps ?_
        | refine State.sendMsg_keeps ?_ | refine Keeps.ite (fun _ => ?_) fun _ => ?_ | dsimp +zetaDelta only)
    | refine State.setSlot_keeps ?_ | with_reducible refine Keeps.mk_same ?_

theorem State.drainSlot_keeps {kb : Bool} {r0 s : State} {c : Nat} (hk : Keeps kb r0 s) :
    Keeps kb r0 (State.drainSlot s c) := by
  unfold State.drainSlot
  repeat' with_reducible first
    | assumption | refine State.retireSlot_keeps ?_ | refine Keeps.ite (fun _ => ?_) fun _ => ?_ | split
    | refine Keeps.mk_same ?_

theorem State.usedSlot_keeps {kb : Bool} {r0 s : State} {c : Nat} {n : Nat} (hk : Keeps kb r0 s) :
    Keeps kb r0 (State.usedSlot s c n) := by
  unfold State.usedSlot
  repeat' with_reducible first
    | assumption | extract_lets | refine State.onChan_keeps ?_ | refine State.drainSlot_keeps ?_
    | refine Keeps.ite (fun _ => ?_) fun _ => ?_ | dsimp +zetaDelta only | refine Keeps.mk_same ?_

theorem State.badFrame_keeps {kb : Bool} {r0 s : State} {k : Nat} {c : Nat} (hk : Keeps kb r0 s) :
    Keeps kb r0 (State.badFrame s k c) := by
  unfold State.badFrame
  repeat' with_reducible first | assumption | refine State.fault_keeps ?_

theorem State.skipPart_keeps {kb : Bool} {r0 s : State} {c : Nat} {cls : Nat} {last : Bool} (hk : Keeps kb r0 s) :
    Keeps kb r0 (State.skipPart s c cls last) := by
  unfold State.skipPart
  repeat' with_reducible first
    | assumption | refine State.onChan_keeps ?_ | refine Keeps.ite (fun _ => ?_) fun _ => ?_
    | refine Keeps.mk_same ?_

theorem State.rejectLong_keeps {kb : Bool} {r0 s : State} {c : Nat} {bs : List Byte} (hk : Keeps kb r0 s) :
    Keeps kb r0 (State.rejectLong s c bs) := by
  unfold State.rejectLong
  repeat' with_reducible first
    | assumption | refine State.fault_keeps ?_ | refine State.sendDone_keeps ?_
    | refine Keeps.ite (fun _ => ?_) fun _ => ?_ | split | refine Keeps.mk_same ?_

theorem State.addFrame_keeps {kb : Bool} {r0 s : State} {k : Nat} {h : FrameHdr} {slot : Nat} {data : List Byte} (hk
    : Keeps kb r0 s) :
    Keeps kb r0 (State.addFrame s k h slot data) := by
  unfold State.addFrame
  repeat' with_reducible first
    | assumption | extract_lets | refine State.onChan_keeps ?_ | refine State.fault_keeps ?_
    | refine State.badFrame_keeps ?_ | refine State.skipPart_keeps ?_ | refine State.rejectLong_keeps ?_
    | refine Keeps.ite (fun _ => ?_) fun _ => ?_ | split | dsimp +zetaDelta only | refine Keeps.mk_same ?_

theorem State.addLinkFrame_keeps {kb : Bool} {r0 s : State} {k : Nat} {h : FrameHdr} {data : List Byte} (hk : Keeps
    kb r0 s) :
    Keeps kb r0 (State.addLinkFrame s k h data) := by
  unfold State.addLinkFrame
  repeat' with_reducible first
    | assumption | extract_lets | refine State.onLink_keeps ?_ | refine State.badFrame_keeps ?_
    | refine Keeps.ite (fun _ => ?_) fun _ => ?_ | dsimp +zetaDelta only | refine Keeps.mk_same ?_

theorem State.openFrame_keeps {kb : Bool} {r0 s : State} {k : Nat} {h : FrameHdr} {hdr : List Byte} {cipher : List
    Byte} {tag : List Byte} (hk : Keeps kb r0 s) :
    Keeps kb r0 (State.openFrame s k h hdr cipher tag) := by
  unfold State.openFrame
  repeat' first
    | (with_reducible first
        | assumption | extract_lets | refine State.onChan_keeps ?_ | refine State.bump_keeps ?_
        | refine State.fault_keeps ?_ | refine State.raiseLimited_keeps ?_ | refine State.closeChans_keeps ?_
        | refine State.usedSlot_keeps ?_ | refine State.addFrame_keeps ?_
        | refine Keeps.ite (fun _ => ?_) fun _ => ?_ | split | dsimp +zetaDelta only)
    | refine State.setSlot_keeps ?_ | with_reducible refine Keeps.mk_same ?_

theorem execFrameReceive_keeps {kb : Bool} {r0 s : State} {k : LinkIx} (hk : Keeps kb r0 s) :
    KeepsNext kb r0 (execFrameReceive k s) := by
  unfold execFrameReceive
  repeat' with_reducible first
    | assumption | extract_lets | refine State.onLink_keeps ?_ | refine State.bump_keeps ?_
    | refine State.fault_keeps ?_ | refine State.badFrame_keeps ?_ | refine State.skipPart_keeps ?_
    | refine State.addFrame_keeps ?_ | refine State.addLinkFrame_keeps ?_ | refine State.openFrame_keeps ?_
    | refine KeepsNext.next ?_ | exact KeepsNext.refused | refine KeepsNext.ite (fun _ => ?_) fun _ => ?_
    | refine Keeps.ite (fun _ => ?_) fun _ => ?_ | dsimp +zetaDelta only | refine Keeps.mk_same ?_

theorem State.takeCtrl_keeps {kb : Bool} {r0 s : State} {c : Nat} {type : Nat} {effect : State → Nat → Msg → State}
    (hk : Keeps kb r0 s) (hf : ∀ (y0 : State) (y1 : Nat) (y2 : Msg), Keeps kb r0 y0 → Keeps kb r0 (effect y0 y1 y2))
    :
    KeepsNext kb r0 (State.takeCtrl s c type effect) := by
  unfold State.takeCtrl
  repeat' with_reducible first
    | assumption | refine hf _ _ _ ?_ | refine State.popMsg_keeps ?_ | refine KeepsNext.next ?_
    | exact KeepsNext.refused | split | refine Keeps.mk_same ?_

theorem execStatusReq_keeps {kb : Bool} {r0 s : State} {ch : ChanIx} (hk : Keeps kb r0 s) :
    KeepsNext kb r0 (execStatusReq ch s) := by
  unfold execStatusReq
  repeat' with_reducible first
    | assumption | refine State.sendUnder_keeps ?_ | refine State.badFrame_keeps ?_
    | refine State.takeCtrl_keeps ?_ (fun _ _ _ _ => ?_) | refine KeepsNext.next ?_ | exact KeepsNext.refused
    | refine KeepsNext.ite (fun _ => ?_) fun _ => ?_ | refine Keeps.ite (fun _ => ?_) fun _ => ?_

theorem execAttestReq_keeps {kb : Bool} {r0 s : State} {ch : ChanIx} (hk : Keeps kb r0 s) :
    KeepsNext kb r0 (execAttestReq ch s) := by
  unfold execAttestReq
  repeat' with_reducible first
    | assumption | refine State.askReport_keeps ?_ | refine State.badFrame_keeps ?_
    | refine State.takeCtrl_keeps ?_ (fun _ _ _ _ => ?_) | refine KeepsNext.next ?_ | exact KeepsNext.refused
    | refine KeepsNext.ite (fun _ => ?_) fun _ => ?_ | refine Keeps.ite (fun _ => ?_) fun _ => ?_

theorem State.installKeys_keeps {kb : Bool} {r0 s : State} {c : Nat} {n : Nat} {keys : List Byte} (hk : Keeps kb r0
    s) :
    Keeps kb r0 (State.installKeys s c n keys) := by
  unfold State.installKeys
  repeat' first
    | (with_reducible first
        | assumption | extract_lets | refine State.onChan_keeps ?_ | refine State.grantChan_keeps ?_
        | refine Keeps.ite (fun _ => ?_) fun _ => ?_ | dsimp +zetaDelta only)
    | refine State.setSlot_keeps ?_ | with_reducible refine Keeps.mk_same ?_

theorem State.acceptOffer_keeps {kb : Bool} {r0 s : State} {c : Nat} {m : Msg} (hk : Keeps kb r0 s) :
    Keeps kb r0 (State.acceptOffer s c m) := by
  unfold State.acceptOffer
  repeat' with_reducible first
    | assumption | extract_lets | refine Keeps.of_snd ?_ (by assumption) | refine State.draw_keeps ?_
    | refine State.sendUnder_keeps ?_ | refine State.installKeys_keeps ?_ | refine State.answer_keeps ?_ | split
    | dsimp +zetaDelta only

theorem execKeyOffer_keeps {kb : Bool} {r0 s : State} {ch : ChanIx} (hk : Keeps kb r0 s) :
    KeepsNext kb r0 (execKeyOffer ch s) := by
  unfold execKeyOffer
  repeat' with_reducible first
    | assumption | refine State.fault_keeps ?_ | refine State.sendUnder_keeps ?_
    | refine State.takeCtrl_keeps ?_ (fun _ _ _ _ => ?_) | refine State.acceptOffer_keeps ?_
    | refine KeepsNext.next ?_ | exact KeepsNext.refused | refine KeepsNext.ite (fun _ => ?_) fun _ => ?_
    | refine Keeps.ite (fun _ => ?_) fun _ => ?_ | split | refine Keeps.mk_same ?_

theorem State.sendSwap_keeps {kb : Bool} {r0 s : State} {r : SwapReq} (hk : Keeps kb r0 s) :
    Keeps kb r0 (State.sendSwap s r) := by
  unfold State.sendSwap
  repeat' with_reducible first
    | assumption | extract_lets | refine State.sendUnder_keeps ?_ | refine Keeps.ite (fun _ => ?_) fun _ => ?_
    | dsimp +zetaDelta only | refine Keeps.mk_same ?_

theorem State.dropSwap_keeps {kb : Bool} {r0 s : State} {r : SwapReq} (hk : Keeps kb r0 s) :
    Keeps kb r0 (State.dropSwap s r) := by
  unfold State.dropSwap
  repeat' with_reducible first
    | assumption | refine State.onChan_keeps ?_ | refine Keeps.ite (fun _ => ?_) fun _ => ?_
    | refine Keeps.mk_same ?_

theorem State.resendSwap_keeps {kb : Bool} {r0 s : State} {r : SwapReq} {tries : Nat} (hk : Keeps kb r0 s) :
    Keeps kb r0 (State.resendSwap s r tries) := by
  unfold State.resendSwap
  repeat' with_reducible first
    | assumption | refine State.sendSwap_keeps ?_ | refine State.dropSwap_keeps ?_ | refine Keeps.mk_same ?_

theorem State.swapFails_keeps {kb : Bool} {r0 s : State} {r : SwapReq} (hk : Keeps kb r0 s) :
    Keeps kb r0 (State.swapFails s r) := by
  unfold State.swapFails
  repeat' with_reducible first
    | assumption | extract_lets | refine State.fault_keeps ?_ | refine State.failSwap_keeps ?_
    | refine State.dropSwap_keeps ?_ | split | dsimp +zetaDelta only | refine Keeps.mk_same ?_

theorem execSwapWr_keeps {kb : Bool} {r0 s : State} {ch : ChanIx} (hk : Keeps kb r0 s) :
    KeepsNext kb r0 (execSwapWr ch s) := by
  unfold execSwapWr
  repeat' with_reducible first
    | assumption | refine State.onLat_keeps ?_ | refine State.bump_keeps ?_ | refine State.sendSwap_keeps ?_
    | refine State.when_keeps ?_ fun _ => ?_ | refine KeepsNext.next ?_ | exact KeepsNext.refused
    | refine KeepsNext.ite (fun _ => ?_) fun _ => ?_ | refine Keeps.ite (fun _ => ?_) fun _ => ?_ | split
    | refine Keeps.mk_same ?_

theorem execSwapRd_keeps {kb : Bool} {r0 s : State} {ch : ChanIx} (hk : Keeps kb r0 s) :
    KeepsNext kb r0 (execSwapRd ch s) := by
  unfold execSwapRd
  repeat' with_reducible first
    | assumption | refine State.sendSwap_keeps ?_ | refine State.when_keeps ?_ fun _ => ?_
    | refine KeepsNext.next ?_ | exact KeepsNext.refused | split | refine Keeps.mk_same ?_

theorem State.unknownTag_keeps {kb : Bool} {r0 s : State} {c : Nat} (hk : Keeps kb r0 s) :
    Keeps kb r0 (State.unknownTag s c) := by
  unfold State.unknownTag
  repeat' with_reducible first | assumption | refine State.fault_keeps ?_

theorem execSwapAck_keeps {kb : Bool} {r0 s : State} {ch : ChanIx} (hk : Keeps kb r0 s) :
    KeepsNext kb r0 (execSwapAck ch s) := by
  unfold execSwapAck
  repeat' with_reducible first
    | assumption | refine State.drainSlot_keeps ?_ | refine State.takeCtrl_keeps ?_ (fun _ _ _ _ => ?_)
    | refine State.dropSwap_keeps ?_ | refine State.swapFails_keeps ?_ | refine State.unknownTag_keeps ?_
    | refine KeepsNext.next ?_ | exact KeepsNext.refused | refine KeepsNext.ite (fun _ => ?_) fun _ => ?_
    | refine Keeps.ite (fun _ => ?_) fun _ => ?_ | split | refine Keeps.mk_same ?_

theorem execSwapErr_keeps {kb : Bool} {r0 s : State} {ch : ChanIx} (hk : Keeps kb r0 s) :
    KeepsNext kb r0 (execSwapErr ch s) := by
  unfold execSwapErr
  repeat' with_reducible first
    | assumption | refine State.drainSlot_keeps ?_ | refine State.takeCtrl_keeps ?_ (fun _ _ _ _ => ?_)
    | refine State.swapFails_keeps ?_ | refine State.unknownTag_keeps ?_ | refine KeepsNext.next ?_
    | exact KeepsNext.refused | split | refine Keeps.mk_same ?_

theorem State.landSwap_keeps {kb : Bool} {r0 s : State} {r : SwapReq} {t : Stream} {data : List Byte} (hk : Keeps kb
    r0 s) :
    Keeps kb r0 (State.landSwap s r t data) := by
  unfold State.landSwap
  repeat' with_reducible first
    | assumption | refine State.onGlaze_keeps ?_ | refine State.onStream_keeps ?_
    | refine Keeps.ite (fun _ => ?_) fun _ => ?_ | refine Keeps.mk_same ?_

theorem execSwapData_keeps {kb : Bool} {r0 s : State} {ch : ChanIx} (hk : Keeps kb r0 s) :
    KeepsNext kb r0 (execSwapData ch s) := by
  unfold execSwapData
  repeat' with_reducible first
    | assumption | extract_lets | refine State.bump_keeps ?_ | refine State.drainSlot_keeps ?_
    | refine State.takeCtrl_keeps ?_ (fun _ _ _ _ => ?_) | refine State.dropSwap_keeps ?_
    | refine State.swapFails_keeps ?_ | refine State.unknownTag_keeps ?_ | refine State.landSwap_keeps ?_
    | refine KeepsNext.next ?_ | exact KeepsNext.refused | refine KeepsNext.ite (fun _ => ?_) fun _ => ?_
    | refine Keeps.ite (fun _ => ?_) fun _ => ?_ | split | dsimp +zetaDelta only | refine Keeps.mk_same ?_

theorem execSwapTimeout_keeps {kb : Bool} {r0 s : State} {k : LinkIx} {tag : BitVec 32} (hk : Keeps kb r0 s) :
    KeepsNext kb r0 (execSwapTimeout k tag s) := by
  unfold execSwapTimeout
  repeat' with_reducible first
    | assumption | refine State.drainSlot_keeps ?_ | refine State.resendSwap_keeps ?_
    | refine State.swapFails_keeps ?_ | refine State.when_keeps ?_ fun _ => ?_ | refine KeepsNext.next ?_
    | exact KeepsNext.refused | refine KeepsNext.ite (fun _ => ?_) fun _ => ?_
    | refine Keeps.ite (fun _ => ?_) fun _ => ?_ | split | refine Keeps.mk_same ?_

theorem execKeySlotRetireTimeout_keeps {kb : Bool} {r0 s : State} {ch : ChanIx} (hk : Keeps kb r0 s) :
    KeepsNext kb r0 (execKeySlotRetireTimeout ch s) := by
  unfold execKeySlotRetireTimeout
  repeat' with_reducible first
    | assumption | extract_lets | refine State.bump_keeps ?_ | refine State.retireSlot_keeps ?_
    | refine State.resendSwap_keeps ?_ | refine State.when_keeps ?_ fun _ => ?_ | refine KeepsNext.next ?_
    | exact KeepsNext.refused | refine Keeps.foldl (fun _ _ _ => ?_) ?_ | split | dsimp +zetaDelta only
    | refine Keeps.mk_same ?_

end Sys2Proof.Machine
end

