-- ==== Sys2Proof/Laws/KeepsShomuSend.lean ====
section
/-! SUPPORT. `Keeps` through the functions of Machine/ShomuSend.lean. -/

namespace Sys2Proof.Machine

set_option linter.all false

theorem State.sendFrames_keeps {kb : Bool} {r0 s : State} {k : Nat} {fs : List (List Byte)} (hk : Keeps kb r0 s) :
    Keeps kb r0 (State.sendFrames s k fs) := by
  unfold State.sendFrames
  repeat' with_reducible first
    | assumption | refine State.onLink_keeps ?_ | refine State.bump_keeps ?_
    | refine Keeps.foldl (fun _ _ _ => ?_) ?_ | refine Keeps.mk_same ?_

theorem State.useCredit_keeps {kb : Bool} {r0 s : State} {k : Nat} {c : Nat} {cls : Nat} {n : Nat} (hk : Keeps kb r0
    s) :
    Keeps kb r0 (State.useCredit s k c cls n) := by
  unfold State.useCredit
  repeat' with_reducible first
    | assumption | refine State.onLink_keeps ?_ | refine State.onChan_keeps ?_ | split | refine Keeps.mk_same ?_

theorem State.sendFrom_keeps {kb : Bool} {r0 s : State} {k : Nat} {c : Nat} {m : Msg} {slot : Option (Nat ×
    KeySlot)} {fs : List (List Byte)} (hk : Keeps kb r0 s) :
    Keeps kb r0 (State.sendFrom s k c m slot fs) := by
  unfold State.sendFrom
  repeat' first
    | (with_reducible first
        | assumption | extract_lets | refine State.onLink_keeps ?_ | refine State.onChan_keeps ?_
        | refine State.sendFrames_keeps ?_ | refine State.useCredit_keeps ?_ | split | dsimp +zetaDelta only)
    | refine State.setSlot_keeps ?_ | with_reducible refine Keeps.mk_same ?_

theorem State.noteStalls_keeps {kb : Bool} {r0 s : State} {k : Nat} (hk : Keeps kb r0 s) :
    Keeps kb r0 (State.noteStalls s k) := by
  unfold State.noteStalls
  repeat' first
    | (with_reducible first
        | assumption | refine State.onChan_keeps ?_ | refine State.fault_keeps ?_
        | refine Keeps.foldl (fun _ _ _ => ?_) ?_ | refine Keeps.ite (fun _ => ?_) fun _ => ?_ | split)
    | refine State.setSlot_keeps ?_ | with_reducible refine Keeps.mk_same ?_

theorem State.sendCredit_keeps {kb : Bool} {r0 s : State} {k : Nat} (hk : Keeps kb r0 s) :
    Keeps kb r0 (State.sendCredit s k) := by
  unfold State.sendCredit
  repeat' with_reducible first
    | assumption | extract_lets | refine State.onLink_keeps ?_ | refine Keeps.ite (fun _ => ?_) fun _ => ?_
    | dsimp +zetaDelta only | refine Keeps.mk_same ?_

theorem State.transmitShomu_keeps {kb : Bool} {r0 s : State} {k : Nat} (hk : Keeps kb r0 s) :
    Keeps kb r0 (State.transmitShomu s k) := by
  unfold State.transmitShomu
  repeat' with_reducible first
    | assumption | extract_lets | refine State.onLink_keeps ?_ | refine State.sendFrames_keeps ?_
    | refine State.useCredit_keeps ?_ | refine State.sendFrom_keeps ?_ | refine State.noteStalls_keeps ?_
    | refine State.sendCredit_keeps ?_ | refine Keeps.ite (fun _ => ?_) fun _ => ?_ | split
    | dsimp +zetaDelta only | refine Keeps.mk_same ?_

end Sys2Proof.Machine
end

