-- ==== Sys2Proof/Laws/KeepsTick.lean ====
section
/-! SUPPORT. `Keeps` through the functions of Machine/Tick.lean. -/

namespace Sys2Proof.Machine

set_option linter.all false

theorem State.tickWheels_keeps {kb : Bool} {r0 s : State}  (hk : Keeps kb r0 s) :
    Keeps kb r0 (State.tickWheels s) := by
  unfold State.tickWheels
  repeat' with_reducible first
    | assumption | refine State.bump_keeps ?_ | refine Keeps.foldl (fun _ _ _ => ?_) ?_
    | refine Keeps.ite (fun _ => ?_) fun _ => ?_ | split | refine Keeps.mk_same ?_

theorem State.charge_keeps {kb : Bool} {r0 s : State} {r : Reg} {u : Nat} {p : Bool} (hk : Keeps kb r0 s) :
    Keeps kb r0 (State.charge s r u p) := by
  unfold State.charge
  repeat' with_reducible first | assumption | refine State.bump_keeps ?_ | refine Keeps.ite (fun _ => ?_) fun _ => ?_

theorem State.tickWaits_keeps {kb : Bool} {r0 s : State}  (hk : Keeps kb r0 s) :
    Keeps kb r0 (State.tickWaits s) := by
  unfold State.tickWaits
  repeat' with_reducible first
    | assumption | extract_lets | refine State.charge_keeps ?_ | refine Keeps.foldl (fun _ _ _ => ?_) ?_
    | dsimp +zetaDelta only

theorem State.tickLinks_keeps {kb : Bool} {r0 s : State}  (hk : Keeps kb r0 s) :
    Keeps kb r0 (State.tickLinks s) := by
  unfold State.tickLinks
  repeat' with_reducible first
    | assumption | refine State.syncMirrors_keeps ?_ | refine State.transmitPort_keeps ?_
    | refine State.transmitLute_keeps ?_ | refine State.transmitShomu_keeps ?_
    | refine Keeps.foldl (fun _ _ _ => ?_) ?_

/-- One period: the REFCLK timer advances by 10 ns once the firmware runs, and everything after it is kept. -/
theorem tick_keeps {s : State} :
    if s.firmwareUp = true then Keeps true (s.onTb Timebase.advance) (tick s) else tick s = s := by
  unfold tick
  split
  · exact State.shutdownTick_keeps (State.tickLinks_keeps (State.tickWaits_keeps (State.tickWheels_keeps (Keeps.refl _ _))))
  · rfl

@[simp] theorem Timebase.advance_ref (t : Timebase) : t.advance.ref = t.ref + 10 := by
  unfold Timebase.advance
  split <;> rfl

end Sys2Proof.Machine
end

