-- ==== Sys2Proof/Laws/KeepsFlags.lean ====
section
/-! SUPPORT. `Keeps` through the functions of Machine/Flags.lean. -/

namespace Sys2Proof.Machine

set_option linter.all false






theorem State.readWord_keeps {kb : Bool} {r0 s : State} {k : Nat} {addr : Nat} (hk : Keeps kb r0 s) :
    Keeps kb r0 (State.readWord s k addr).2 := by
  unfold State.readWord
  repeat' with_reducible first
    | assumption | extract_lets | refine Keeps.of_snd ?_ (by assumption) | refine State.onSession_keeps ?_ | split
    | dsimp +zetaDelta only | refine Keeps.mk_same ?_

theorem State.readWords_keeps {kb : Bool} {r0 : State} {k : Nat} : ∀ {n addr : Nat} {s : State}, Keeps kb r0 s →
    Keeps kb r0 (s.readWords k addr n).2
  | 0, _, _, h => h
  | n + 1, addr, s, h => State.readWords_keeps (n := n) (s := (s.readWord k addr).2) (State.readWord_keeps h)

end Sys2Proof.Machine
end

