-- ==== Sys2Proof/Laws/KeepsCsr.lean ====
section
/-! SUPPORT. `Keeps` through the functions of Machine/Csr.lean. -/

namespace Sys2Proof.Machine

set_option linter.all false

theorem State.rebaseMarks_keeps {kb : Bool} {r0 s old : State} {g : Nat} (hk : Keeps kb r0 s) (_hk1 : Keeps kb r0
    old) :
    Keeps kb r0 (State.rebaseMarks s g old) := by
  unfold State.rebaseMarks
  repeat' with_reducible first | assumption | refine State.onSagger_keeps ?_ | refine Keeps.mk_same ?_

theorem State.clearRegs_keeps {kb : Bool} {r0 s : State} {rs : List Reg} {u : Nat} (hk : Keeps kb r0 s) :
    Keeps kb r0 (State.clearRegs s rs u) := by
  unfold State.clearRegs
  repeat' with_reducible first | assumption | refine State.setReg_keeps ?_ | refine Keeps.foldl (fun _ _ _ => ?_) ?_

theorem State.clearField_keeps {kb : Bool} {r0 s : State} {r : Reg} {u : Nat} (hk : Keeps kb r0 s) :
    Keeps kb r0 (State.clearField s r u) := by
  unfold State.clearField
  repeat' with_reducible first
    | assumption | extract_lets | refine State.rebaseMarks_keeps ?_ ?_ | refine State.clearRegs_keeps ?_
    | refine Keeps.foldl (fun _ _ _ => ?_) ?_ | split | dsimp +zetaDelta only | refine Keeps.mk_same ?_

theorem State.writeLatCtl_keeps {kb : Bool} {r0 s : State} {p : Nat} {v : Nat} (hk : Keeps kb r0 s) :
    Keeps kb r0 (State.writeLatCtl s p v) := by
  unfold State.writeLatCtl
  repeat' with_reducible first
    | assumption | extract_lets | refine State.onPort_keeps ?_ | refine State.setReg_keeps ?_
    | refine State.startTraining_keeps ?_ | refine State.reparent_keeps ?_ | refine State.dropReloads_keeps ?_
    | refine State.reroute_keeps ?_ | refine Keeps.ite (fun _ => ?_) fun _ => ?_ | dsimp +zetaDelta only
    | refine Keeps.mk_same ?_

theorem State.writeShlCtl_keeps {kb : Bool} {r0 s : State} {k : Nat} {v : Nat} (hk : Keeps kb r0 s) :
    Keeps kb r0 (State.writeShlCtl s k v) := by
  unfold State.writeShlCtl
  repeat' with_reducible first
    | assumption | extract_lets | refine State.onLink_keeps ?_ | refine State.setReg_keeps ?_
    | refine State.dropLink_keeps ?_ | refine Keeps.ite (fun _ => ?_) fun _ => ?_ | dsimp +zetaDelta only
    | refine Keeps.mk_same ?_

theorem State.writeAccCtl_keeps {kb : Bool} {r0 s : State} {g : Nat} {v : Nat} (hk : Keeps kb r0 s) :
    Keeps kb r0 (State.writeAccCtl s g v) := by
  unfold State.writeAccCtl
  repeat' with_reducible first
    | assumption | extract_lets | refine State.setReg_keeps ?_ | refine Keeps.ite (fun _ => ?_) fun _ => ?_
    | dsimp +zetaDelta only

theorem State.writeTbSet_keeps {kb : Bool} {r0 s : State} {lo : Nat} {v : Nat} (hk : Keeps kb r0 s) :
    Keeps kb r0 (State.writeTbSet s lo v) := by
  unfold State.writeTbSet
  repeat' with_reducible first
    | assumption | refine State.setReg_keeps ?_ | refine Keeps.ite (fun _ => ?_) fun _ => ?_

theorem State.freeSnaps_keeps {kb : Bool} {r0 s : State} {v : Nat} (hk : Keeps kb r0 s) :
    Keeps kb r0 (State.freeSnaps s v) := by
  unfold State.freeSnaps
  repeat' with_reducible first | assumption | refine Keeps.ite (fun _ => ?_) fun _ => ?_ | refine Keeps.mk_same ?_

theorem State.w1c_keeps {kb : Bool} {r0 s : State} {r : Reg} {u : Nat} {lo : Nat} {w : Nat} {v : Nat} (hk : Keeps kb
    r0 s) :
    Keeps kb r0 (State.w1c s r u lo w v) := by
  unfold State.w1c
  repeat' with_reducible first | assumption | extract_lets | refine State.setReg_keeps ?_ | dsimp +zetaDelta only

theorem State.writeSel_keeps {kb : Bool} {r0 s : State} {k : Nat} {r : Reg} {g : Nat} {v : Nat} (hk : Keeps kb r0 s) :
    Keeps kb r0 (State.writeSel s k r g v) := by
  unfold State.writeSel
  repeat' with_reducible first
    | assumption | extract_lets | refine State.onSession_keeps ?_ | refine State.fault_keeps ?_ | split
    | dsimp +zetaDelta only | refine Keeps.mk_same ?_

theorem State.writeReg_keeps {kb : Bool} {r0 s : State} {k : Nat} {b : Block} {g : Nat} {r : Reg} {v : Nat} (hk :
    Keeps kb r0 s) :
    Keeps kb r0 (State.writeReg s k b g r v) := by
  unfold State.writeReg
  repeat' first
    | (with_reducible first
        | assumption | extract_lets | refine State.onWheel_keeps ?_ | refine State.onSession_keeps ?_
        | refine State.onBoot_keeps ?_ | refine State.setReg_keeps ?_ | refine State.replan_keeps ?_
        | refine State.clearField_keeps ?_ | refine State.writeLatCtl_keeps ?_ | refine State.writeShlCtl_keeps ?_
        | refine State.writeAccCtl_keeps ?_ | refine State.freeSnaps_keeps ?_ | refine State.w1c_keeps ?_
        | refine State.writeSel_keeps ?_ | refine Keeps.ite (fun _ => ?_) fun _ => ?_ | split
        | dsimp +zetaDelta only)
    | refine State.onCone_keeps (fun _ => ⟨Nat.le_refl _, fun _ _ => Nat.le_refl _⟩) ?_
    | refine State.onTb_keeps (fun _ => rfl) ?_ | refine State.onFlog_keeps (fun _ hx => hx) ?_
    | with_reducible refine Keeps.mk_same ?_

theorem State.writeWord_keeps {kb : Bool} {r0 s : State} {k : Nat} {addr : Nat} {v : Nat} (hk : Keeps kb r0 s) :
    Keeps kb r0 (State.writeWord s k addr v) := by
  unfold State.writeWord
  repeat' with_reducible first
    | assumption | refine State.writeTbSet_keeps ?_ | refine State.writeReg_keeps ?_
    | refine Keeps.ite (fun _ => ?_) fun _ => ?_ | split | refine Keeps.mk_same ?_

theorem State.writeWords_keeps {kb : Bool} {r0 : State} {k : Nat} : ∀ {vs : List Nat} {addr : Nat} {s : State}, Keeps kb r0 s →
    Keeps kb r0 (s.writeWords k addr vs)
  | [], _, _, h => h
  | v :: vs, addr, s, h => State.writeWords_keeps (vs := vs) (s := s.writeWord k addr v) (State.writeWord_keeps h)

end Sys2Proof.Machine
end

