-- ==== Sys2Proof/Laws/KeepsOperands.lean ====
section
/-! SUPPORT. `Keeps` through the functions of Machine/Operands.lean. -/

namespace Sys2Proof.Machine

set_option linter.all false

theorem State.answer_keeps {kb : Bool} {r0 s : State} {r : MgmtRule} {m : MgmtArgs} {status : Nat} {payload : List
    Byte} (hk : Keeps kb r0 s) :
    Keeps kb r0 (State.answer s r m status payload) := by
  unfold State.answer
  repeat' with_reducible first | assumption | refine State.mgmtAnswer_keeps ?_

theorem State.runMgmt_keeps {kb : Bool} {r0 s : State} {r : MgmtRule} {m : MgmtArgs} {effect : State → State} (hk :
    Keeps kb r0 s) (hf : ∀ (y0 : State), Keeps kb r0 y0 → Keeps kb r0 (effect y0)) :
    KeepsNext kb r0 (State.runMgmt s r m effect) := by
  unfold State.runMgmt
  repeat' with_reducible first
    | assumption | extract_lets | refine hf _ ?_ | refine State.bump_keeps ?_ | refine State.answer_keeps ?_
    | refine State.when_keeps ?_ fun _ => ?_ | refine KeepsNext.next ?_ | exact KeepsNext.refused | split
    | dsimp +zetaDelta only | refine Keeps.mk_same ?_

end Sys2Proof.Machine
end

