-- ==== Sys2Proof/Laws/KeepsMgmt.lean ====
section
/-! SUPPORT. `Keeps` through the functions of Machine/Mgmt.lean. -/

namespace Sys2Proof.Machine

set_option linter.all false

theorem State.handshakeFails_keeps {kb : Bool} {r0 s : State} {a : BitVec 128} (hk : Keeps kb r0 s) :
    Keeps kb r0 (State.handshakeFails s a) := by
  unfold State.handshakeFails
  repeat' with_reducible first
    | assumption | extract_lets | refine State.onMgmt_keeps ?_ | refine State.bump_keeps ?_
    | refine State.raiseLimited_keeps ?_ | refine Keeps.ite (fun _ => ?_) fun _ => ?_ | dsimp +zetaDelta only
    | refine Keeps.mk_same ?_

theorem State.openSession_keeps {kb : Bool} {r0 s : State} {k : Nat} {a : BitVec 128} {roles : BitVec 3} (hk : Keeps
    kb r0 s) :
    Keeps kb r0 (State.openSession s k a roles) := by
  unfold State.openSession
  repeat' with_reducible first | assumption | refine State.onSession_keeps ?_

theorem execMgmtHandshake_keeps {kb : Bool} {r0 s : State} {addr : BitVec 128} {keyDigest : BitVec 256} {tlsOk :
    Bool} (hk : Keeps kb r0 s) :
    KeepsNext kb r0 (execMgmtHandshake addr keyDigest tlsOk s) := by
  unfold execMgmtHandshake
  repeat' with_reducible first
    | assumption | refine State.handshakeFails_keeps ?_ | refine State.openSession_keeps ?_
    | refine State.when_keeps ?_ fun _ => ?_ | refine KeepsNext.next ?_ | exact KeepsNext.refused
    | refine KeepsNext.ite (fun _ => ?_) fun _ => ?_ | refine Keeps.ite (fun _ => ?_) fun _ => ?_ | split
    | refine Keeps.mk_same ?_

theorem execAddressRefusalExpire_keeps {kb : Bool} {r0 s : State} {addr : BitVec 128} (hk : Keeps kb r0 s) :
    KeepsNext kb r0 (execAddressRefusalExpire addr s) := by
  unfold execAddressRefusalExpire
  repeat' with_reducible first
    | assumption | refine State.onMgmt_keeps ?_ | refine KeepsNext.next ?_ | exact KeepsNext.refused
    | refine Keeps.mk_same ?_

theorem execMgmtSessionClose_keeps {kb : Bool} {r0 s : State} {sess : SessIx} (hk : Keeps kb r0 s) :
    KeepsNext kb r0 (execMgmtSessionClose sess s) := by
  unfold execMgmtSessionClose
  repeat' with_reducible first
    | assumption | extract_lets | refine State.onSession_keeps ?_ | refine State.onBoot_keeps ?_
    | refine State.onLat_keeps ?_ | refine State.onMgmt_keeps ?_ | refine State.when_keeps ?_ fun _ => ?_
    | refine KeepsNext.next ?_ | exact KeepsNext.refused | dsimp +zetaDelta only | refine Keeps.mk_same ?_

theorem execGetCert_keeps {kb : Bool} {r0 s : State} {m : MgmtArgs} (hk : Keeps kb r0 s) :
    KeepsNext kb r0 (execGetCert m s) := by
  unfold execGetCert
  repeat' with_reducible first
    | assumption | extract_lets | refine State.answer_keeps ?_ | refine State.runMgmt_keeps ?_ (fun _ _ => ?_)
    | refine KeepsNext.next ?_ | exact KeepsNext.refused | refine KeepsNext.ite (fun _ => ?_) fun _ => ?_
    | refine Keeps.ite (fun _ => ?_) fun _ => ?_ | dsimp +zetaDelta only

theorem execAttest_keeps {kb : Bool} {r0 s : State} {m : MgmtArgs} (hk : Keeps kb r0 s) :
    KeepsNext kb r0 (execAttest m s) := by
  unfold execAttest
  repeat' with_reducible first
    | assumption | extract_lets | refine State.askReport_keeps ?_ | refine State.answer_keeps ?_
    | refine State.runMgmt_keeps ?_ (fun _ _ => ?_) | refine KeepsNext.next ?_ | exact KeepsNext.refused
    | refine KeepsNext.ite (fun _ => ?_) fun _ => ?_ | refine Keeps.ite (fun _ => ?_) fun _ => ?_
    | dsimp +zetaDelta only

theorem execCsrRead_keeps {kb : Bool} {r0 s : State} {m : MgmtArgs} (hk : Keeps kb r0 s) :
    KeepsNext kb r0 (execCsrRead m s) := by
  unfold execCsrRead
  repeat' with_reducible first
    | assumption | extract_lets | refine State.readWords_keeps ?_ | refine State.answer_keeps ?_
    | refine State.runMgmt_keeps ?_ (fun _ _ => ?_) | refine KeepsNext.next ?_ | exact KeepsNext.refused
    | refine KeepsNext.ite (fun _ => ?_) fun _ => ?_ | refine Keeps.ite (fun _ => ?_) fun _ => ?_ | split
    | dsimp +zetaDelta only

theorem execCsrWrite_keeps {kb : Bool} {r0 s : State} {m : MgmtArgs} (hk : Keeps kb r0 s) :
    KeepsNext kb r0 (execCsrWrite m s) := by
  unfold execCsrWrite
  repeat' with_reducible first
    | assumption | extract_lets | refine State.writeWords_keeps ?_ | refine State.answer_keeps ?_
    | refine State.runMgmt_keeps ?_ (fun _ _ => ?_) | refine KeepsNext.next ?_ | exact KeepsNext.refused
    | refine KeepsNext.ite (fun _ => ?_) fun _ => ?_ | refine Keeps.ite (fun _ => ?_) fun _ => ?_
    | dsimp +zetaDelta only

theorem execStepRead_keeps {kb : Bool} {r0 s : State} {m : MgmtArgs} (hk : Keeps kb r0 s) :
    KeepsNext kb r0 (execStepRead m s) := by
  unfold execStepRead
  repeat' with_reducible first
    | assumption | extract_lets | refine State.answer_keeps ?_ | refine State.runMgmt_keeps ?_ (fun _ _ => ?_)
    | refine KeepsNext.next ?_ | exact KeepsNext.refused | refine KeepsNext.ite (fun _ => ?_) fun _ => ?_
    | refine Keeps.ite (fun _ => ?_) fun _ => ?_ | dsimp +zetaDelta only

theorem execFaultRead_keeps {kb : Bool} {r0 s : State} {m : MgmtArgs} (hk : Keeps kb r0 s) :
    KeepsNext kb r0 (execFaultRead m s) := by
  unfold execFaultRead
  repeat' with_reducible first
    | assumption | extract_lets | refine State.answer_keeps ?_ | refine State.runMgmt_keeps ?_ (fun _ _ => ?_)
    | refine KeepsNext.next ?_ | exact KeepsNext.refused | refine KeepsNext.ite (fun _ => ?_) fun _ => ?_
    | refine Keeps.ite (fun _ => ?_) fun _ => ?_ | dsimp +zetaDelta only

theorem execBudget_keeps {kb : Bool} {r0 s : State} {m : MgmtArgs} (hk : Keeps kb r0 s) :
    KeepsNext kb r0 (execBudget m s) := by
  unfold execBudget
  repeat' with_reducible first
    | assumption | extract_lets | refine State.setBudget_keeps ?_ | refine State.answer_keeps ?_
    | refine State.runMgmt_keeps ?_ (fun _ _ => ?_) | refine KeepsNext.next ?_ | exact KeepsNext.refused
    | refine KeepsNext.ite (fun _ => ?_) fun _ => ?_ | refine Keeps.ite (fun _ => ?_) fun _ => ?_
    | dsimp +zetaDelta only

theorem execSaggerReset_keeps {kb : Bool} {r0 s : State} {m : MgmtArgs} (hk : Keeps kb r0 s) :
    KeepsNext kb r0 (execSaggerReset m s) := by
  unfold execSaggerReset
  repeat' with_reducible first
    | assumption | extract_lets | refine State.onLute_keeps ?_ | refine State.startReset_keeps ?_
    | refine State.answer_keeps ?_ | refine State.runMgmt_keeps ?_ (fun _ _ => ?_) | refine KeepsNext.next ?_
    | exact KeepsNext.refused | refine KeepsNext.ite (fun _ => ?_) fun _ => ?_
    | refine Keeps.ite (fun _ => ?_) fun _ => ?_ | dsimp +zetaDelta only | refine Keeps.mk_same ?_

theorem State.clearSagger_keeps {kb : Bool} {r0 s : State} {g : Nat} (hk : Keeps kb r0 s) :
    Keeps kb r0 (State.clearSagger s g) := by
  unfold State.clearSagger
  repeat' with_reducible first
    | assumption | extract_lets | refine State.onSagger_keeps ?_ | refine State.bump_keeps ?_
    | refine State.fault_keeps ?_ | refine State.dropFrame_keeps ?_ | refine State.finishFire_keeps ?_
    | refine State.clearSlabs_keeps ?_ | refine State.failAll_keeps ?_ | refine State.stopWork_keeps ?_
    | refine State.stopStreams_keeps ?_ | refine State.leaveFor_keeps ?_ | refine State.failStep_keeps ?_
    | refine Keeps.foldl (fun _ _ _ => ?_) ?_ | split | dsimp +zetaDelta only | refine Keeps.mk_same ?_

theorem execSaggerClear_keeps {kb : Bool} {r0 s : State} {m : MgmtArgs} (hk : Keeps kb r0 s) :
    KeepsNext kb r0 (execSaggerClear m s) := by
  unfold execSaggerClear
  repeat' with_reducible first
    | assumption | extract_lets | refine State.answer_keeps ?_ | refine State.runMgmt_keeps ?_ (fun _ _ => ?_)
    | refine State.clearSagger_keeps ?_ | refine KeepsNext.next ?_ | exact KeepsNext.refused
    | refine KeepsNext.ite (fun _ => ?_) fun _ => ?_ | refine Keeps.ite (fun _ => ?_) fun _ => ?_
    | dsimp +zetaDelta only

theorem execClearComplete_keeps {kb : Bool} {r0 s : State} {g : SaggerIx} (hk : Keeps kb r0 s) :
    KeepsNext kb r0 (execClearComplete g s) := by
  unfold execClearComplete
  repeat' with_reducible first
    | assumption | refine State.buildSagger_keeps ?_ | refine State.when_keeps ?_ fun _ => ?_
    | refine KeepsNext.next ?_ | exact KeepsNext.refused

end Sys2Proof.Machine
end

