-- ==== Sys2Proof/Laws/KeepsMgmtImage.lean ====
section
/-! SUPPORT. `Keeps` through the functions of Machine/MgmtImage.lean. -/

namespace Sys2Proof.Machine

set_option linter.all false

theorem State.writeStore_keeps {kb : Bool} {r0 s : State} {ns : Nat} {off : Nat} {bs : List Byte} (hk : Keeps kb r0
    s) :
    Keeps kb r0 (State.writeStore s ns off bs) := by
  unfold State.writeStore
  repeat' first
    | (with_reducible first
        | assumption | refine State.onStore_keeps ?_)
    | refine State.onStoreMem_keeps (fun _ hm => Memory.wf_mwrite _ _ hm) ?_
    | with_reducible refine Keeps.mk_same ?_

theorem execImageWrite_keeps {kb : Bool} {r0 s : State} {m : MgmtArgs} (hk : Keeps kb r0 s) :
    KeepsNext kb r0 (execImageWrite m s) := by
  unfold execImageWrite
  repeat' with_reducible first
    | assumption | extract_lets | refine State.answer_keeps ?_ | refine State.runMgmt_keeps ?_ (fun _ _ => ?_)
    | refine State.writeStore_keeps ?_ | refine KeepsNext.next ?_ | exact KeepsNext.refused
    | refine KeepsNext.ite (fun _ => ?_) fun _ => ?_ | refine Keeps.ite (fun _ => ?_) fun _ => ?_ | split
    | dsimp +zetaDelta only | refine Keeps.mk_same ?_

theorem State.commitImage_keeps {kb : Bool} {r0 s : State} {ns : Nat} {off : Nat} {bs : List Byte} (hk : Keeps kb r0
    s) :
    Keeps kb r0 (State.commitImage s ns off bs) := by
  unfold State.commitImage
  repeat' with_reducible first
    | assumption | extract_lets | refine State.onStore_keeps ?_ | dsimp +zetaDelta only | refine Keeps.mk_same ?_

theorem execImageCommit_keeps {kb : Bool} {r0 s : State} {m : MgmtArgs} (hk : Keeps kb r0 s) :
    KeepsNext kb r0 (execImageCommit m s) := by
  unfold execImageCommit
  repeat' with_reducible first
    | assumption | extract_lets | refine State.answer_keeps ?_ | refine State.runMgmt_keeps ?_ (fun _ _ => ?_)
    | refine State.commitImage_keeps ?_ | refine KeepsNext.next ?_ | exact KeepsNext.refused
    | refine KeepsNext.ite (fun _ => ?_) fun _ => ?_ | refine Keeps.ite (fun _ => ?_) fun _ => ?_ | split
    | dsimp +zetaDelta only | refine Keeps.mk_same ?_

theorem execImageErase_keeps {kb : Bool} {r0 s : State} {m : MgmtArgs} (hk : Keeps kb r0 s) :
    KeepsNext kb r0 (execImageErase m s) := by
  unfold execImageErase
  repeat' first
    | (with_reducible first
        | assumption | extract_lets | refine State.onStore_keeps ?_ | refine State.answer_keeps ?_
        | refine State.runMgmt_keeps ?_ (fun _ _ => ?_) | refine KeepsNext.next ?_ | exact KeepsNext.refused
        | refine KeepsNext.ite (fun _ => ?_) fun _ => ?_ | refine Keeps.ite (fun _ => ?_) fun _ => ?_ | split
        | dsimp +zetaDelta only)
    | refine State.onStoreMem_keeps (fun _ hm => Memory.wf_mclear _ _ hm) ?_
    | with_reducible refine Keeps.mk_same ?_

theorem State.dropParked_keeps {kb : Bool} {r0 s : State} {strata : List Nat} (hk : Keeps kb r0 s) :
    Keeps kb r0 (State.dropParked s strata) := by
  unfold State.dropParked
  repeat' with_reducible first | assumption | refine State.onLat_keeps ?_ | refine Keeps.mk_same ?_

theorem State.loadBySlice_keeps {kb : Bool} {r0 s : State} {g : Nat} {i : LoadedImage} {id : Nat} {asker : Nat ×
    BitVec 32} (hk : Keeps kb r0 s) :
    Keeps kb r0 (State.loadBySlice s g i id asker) := by
  unfold State.loadBySlice
  repeat' with_reducible first
    | assumption | extract_lets | refine State.onLat_keeps ?_ | refine State.bump_keeps ?_
    | refine State.writeChunk_keeps ?_ | refine State.advanceLoad_keeps ?_ | refine State.finishLoading_keeps ?_
    | refine State.dropParked_keeps ?_ | refine Keeps.foldl (fun _ _ _ => ?_) ?_
    | refine Keeps.ite (fun _ => ?_) fun _ => ?_ | dsimp +zetaDelta only | refine Keeps.mk_same ?_

theorem execImageLoad_keeps {kb : Bool} {r0 s : State} {m : MgmtArgs} (hk : Keeps kb r0 s) :
    KeepsNext kb r0 (execImageLoad m s) := by
  unfold execImageLoad
  repeat' with_reducible first
    | assumption | extract_lets | refine Keeps.of_snd ?_ (by assumption) | refine State.loadImage_keeps ?_
    | refine State.answer_keeps ?_ | refine State.runMgmt_keeps ?_ (fun _ _ => ?_)
    | refine State.dropParked_keeps ?_ | refine State.loadBySlice_keeps ?_ | refine KeepsNext.next ?_
    | exact KeepsNext.refused | refine KeepsNext.ite (fun _ => ?_) fun _ => ?_
    | refine Keeps.ite (fun _ => ?_) fun _ => ?_ | split | dsimp +zetaDelta only | refine Keeps.mk_same ?_

theorem State.scrubStratum_keeps {kb : Bool} {r0 s : State} {g : Nat} {t : Nat} (hk : Keeps kb r0 s) :
    Keeps kb r0 (State.scrubStratum s g t) := by
  unfold State.scrubStratum
  repeat' with_reducible first
    | assumption | extract_lets | refine State.onSagger_keeps ?_ | refine State.onStack_keeps ?_
    | refine Keeps.foldl (fun _ _ _ => ?_) ?_ | dsimp +zetaDelta only | refine Keeps.mk_same ?_

theorem State.detach_keeps {kb : Bool} {r0 s : State} {g : Nat} {i : LoadedImage} (hk : Keeps kb r0 s) :
    Keeps kb r0 (State.detach s g i) := by
  unfold State.detach
  repeat' first
    | (with_reducible first
        | assumption | extract_lets | refine State.onSagger_keeps ?_ | refine State.onLat_keeps ?_
        | refine State.onPoison_keeps ?_ | refine State.scrubStratum_keeps ?_
        | refine Keeps.foldl (fun _ _ _ => ?_) ?_ | dsimp +zetaDelta only)
    | refine State.onMem_keeps (fun _ hm => hm) ?_ | with_reducible refine Keeps.mk_same ?_

theorem execImageRemove_keeps {kb : Bool} {r0 s : State} {m : MgmtArgs} (hk : Keeps kb r0 s) :
    KeepsNext kb r0 (execImageRemove m s) := by
  unfold execImageRemove
  repeat' with_reducible first
    | assumption | extract_lets | refine State.answer_keeps ?_ | refine State.runMgmt_keeps ?_ (fun _ _ => ?_)
    | refine State.detach_keeps ?_ | refine KeepsNext.next ?_ | exact KeepsNext.refused
    | refine KeepsNext.ite (fun _ => ?_) fun _ => ?_ | refine Keeps.ite (fun _ => ?_) fun _ => ?_ | split
    | dsimp +zetaDelta only | refine Keeps.mk_same ?_

theorem execFwBegin_keeps {kb : Bool} {r0 s : State} {m : MgmtArgs} (hk : Keeps kb r0 s) :
    KeepsNext kb r0 (execFwBegin m s) := by
  unfold execFwBegin
  repeat' first
    | (with_reducible first
        | assumption | extract_lets | refine State.onBoot_keeps ?_ | refine State.answer_keeps ?_
        | refine State.runMgmt_keeps ?_ (fun _ _ => ?_) | refine KeepsNext.next ?_ | exact KeepsNext.refused
        | refine KeepsNext.ite (fun _ => ?_) fun _ => ?_ | refine Keeps.ite (fun _ => ?_) fun _ => ?_
        | dsimp +zetaDelta only)
    | refine State.setSlot_keeps ?_
    | refine State.onMem_keeps (fun _ hm => Memories.flash_canon (Memory.wf_mclear _ _ hm.2.2.2.2) hm) ?_
    | with_reducible refine Keeps.mk_same ?_

theorem execFwData_keeps {kb : Bool} {r0 s : State} {m : MgmtArgs} (hk : Keeps kb r0 s) :
    KeepsNext kb r0 (execFwData m s) := by
  unfold execFwData
  repeat' first
    | (with_reducible first
        | assumption | extract_lets | refine State.onBoot_keeps ?_ | refine State.answer_keeps ?_
        | refine State.runMgmt_keeps ?_ (fun _ _ => ?_) | refine KeepsNext.next ?_ | exact KeepsNext.refused
        | refine KeepsNext.ite (fun _ => ?_) fun _ => ?_ | refine Keeps.ite (fun _ => ?_) fun _ => ?_
        | dsimp +zetaDelta only)
    | refine State.onMem_keeps (fun _ hm => Memories.flash_canon (Memory.wf_mwrite _ _ hm.2.2.2.2) hm) ?_
    | with_reducible refine Keeps.mk_same ?_

theorem execFwCommit_keeps {kb : Bool} {r0 s : State} {m : MgmtArgs} (hk : Keeps kb r0 s) :
    KeepsNext kb r0 (execFwCommit m s) := by
  unfold execFwCommit
  repeat' first
    | (with_reducible first
        | assumption | extract_lets | refine State.onBoot_keeps ?_ | refine State.fault_keeps ?_
        | refine State.answer_keeps ?_ | refine State.runMgmt_keeps ?_ (fun _ _ => ?_) | refine KeepsNext.next ?_
        | exact KeepsNext.refused | refine KeepsNext.ite (fun _ => ?_) fun _ => ?_
        | refine Keeps.ite (fun _ => ?_) fun _ => ?_ | dsimp +zetaDelta only)
    | refine State.setSlot_keeps ?_ | with_reducible refine Keeps.mk_same ?_

theorem execFwAbort_keeps {kb : Bool} {r0 s : State} {m : MgmtArgs} (hk : Keeps kb r0 s) :
    KeepsNext kb r0 (execFwAbort m s) := by
  unfold execFwAbort
  repeat' first
    | (with_reducible first
        | assumption | extract_lets | refine State.onBoot_keeps ?_ | refine State.answer_keeps ?_
        | refine State.runMgmt_keeps ?_ (fun _ _ => ?_) | refine KeepsNext.next ?_ | exact KeepsNext.refused
        | refine KeepsNext.ite (fun _ => ?_) fun _ => ?_ | refine Keeps.ite (fun _ => ?_) fun _ => ?_
        | dsimp +zetaDelta only)
    | refine State.setSlot_keeps ?_ | with_reducible refine Keeps.mk_same ?_

end Sys2Proof.Machine
end

