-- ==== Sys2Proof/Laws/KeepsMgmtKiln.lean ====
section
/-! SUPPORT. `Keeps` through the functions of Machine/MgmtKiln.lean. -/

namespace Sys2Proof.Machine

set_option linter.all false

theorem State.formSlice_keeps {kb : Bool} {r0 s : State} {x : Slice} {asker : Nat × BitVec 32} (hk : Keeps kb r0 s) :
    Keeps kb r0 (State.formSlice s x asker) := by
  unfold State.formSlice
  repeat' with_reducible first
    | assumption | extract_lets | refine State.onLat_keeps ?_ | refine State.sendPacket_keeps ?_
    | refine Keeps.foldl (fun _ _ _ => ?_) ?_ | dsimp +zetaDelta only | refine Keeps.mk_same ?_

theorem execSliceForm_keeps {kb : Bool} {r0 s : State} {m : MgmtArgs} (hk : Keeps kb r0 s) :
    KeepsNext kb r0 (execSliceForm m s) := by
  unfold execSliceForm
  repeat' with_reducible first
    | assumption | extract_lets | refine State.answer_keeps ?_ | refine State.runMgmt_keeps ?_ (fun _ _ => ?_)
    | refine State.formSlice_keeps ?_ | refine KeepsNext.next ?_ | exact KeepsNext.refused
    | refine KeepsNext.ite (fun _ => ?_) fun _ => ?_ | refine Keeps.ite (fun _ => ?_) fun _ => ?_
    | dsimp +zetaDelta only

theorem State.dissolve_keeps {kb : Bool} {r0 s : State} {x : Slice} (hk : Keeps kb r0 s) :
    Keeps kb r0 (State.dissolve s x) := by
  unfold State.dissolve
  repeat' with_reducible first
    | assumption | extract_lets | refine State.mgmtAnswer_keeps ?_ | refine State.onSlice_keeps ?_
    | refine State.stopSlice_keeps ?_ | split | dsimp +zetaDelta only | refine Keeps.mk_same ?_

theorem execSliceDissolve_keeps {kb : Bool} {r0 s : State} {m : MgmtArgs} (hk : Keeps kb r0 s) :
    KeepsNext kb r0 (execSliceDissolve m s) := by
  unfold execSliceDissolve
  repeat' with_reducible first
    | assumption | extract_lets | refine State.answer_keeps ?_ | refine State.runMgmt_keeps ?_ (fun _ _ => ?_)
    | refine State.dissolve_keeps ?_ | refine KeepsNext.next ?_ | exact KeepsNext.refused
    | refine KeepsNext.ite (fun _ => ?_) fun _ => ?_ | refine Keeps.ite (fun _ => ?_) fun _ => ?_ | split
    | dsimp +zetaDelta only | refine Keeps.mk_same ?_

theorem State.startMove_keeps {kb : Bool} {r0 s : State} {g : Nat} {q : Req} {x : Slice} {dest : Coord} {asker : Nat
    × BitVec 32} (hk : Keeps kb r0 s) :
    Keeps kb r0 (State.startMove s g q x dest asker) := by
  unfold State.startMove
  repeat' with_reducible first
    | assumption | extract_lets | refine State.onLat_keeps ?_ | refine State.onReq_keeps ?_
    | refine State.startMoves_keeps ?_ | dsimp +zetaDelta only | refine Keeps.mk_same ?_

theorem execMigrate_keeps {kb : Bool} {r0 s : State} {m : MgmtArgs} (hk : Keeps kb r0 s) :
    KeepsNext kb r0 (execMigrate m s) := by
  unfold execMigrate
  repeat' with_reducible first
    | assumption | extract_lets | refine State.answer_keeps ?_ | refine State.runMgmt_keeps ?_ (fun _ _ => ?_)
    | refine State.startMove_keeps ?_ | refine KeepsNext.next ?_ | exact KeepsNext.refused
    | refine KeepsNext.ite (fun _ => ?_) fun _ => ?_ | refine Keeps.ite (fun _ => ?_) fun _ => ?_ | split
    | dsimp +zetaDelta only | refine Keeps.mk_same ?_

theorem State.startShutdown_keeps {kb : Bool} {r0 s : State} {asker : Nat × BitVec 32} {env : BistEnv} (hk : Keeps
    kb r0 s) :
    Keeps kb r0 (State.startShutdown s asker env) := by
  unfold State.startShutdown
  repeat' with_reducible first
    | assumption | refine State.onBoot_keeps ?_ | refine State.advanceShutdown_keeps ?_ | refine Keeps.mk_same ?_

theorem execShutdown_keeps {kb : Bool} {r0 s : State} {m : MgmtArgs} {env : BistEnv} (hk : Keeps kb r0 s) :
    KeepsNext kb r0 (execShutdown m env s) := by
  unfold execShutdown
  repeat' with_reducible first
    | assumption | extract_lets | refine State.answer_keeps ?_ | refine State.runMgmt_keeps ?_ (fun _ _ => ?_)
    | refine State.startShutdown_keeps ?_ | refine KeepsNext.next ?_ | exact KeepsNext.refused
    | refine KeepsNext.ite (fun _ => ?_) fun _ => ?_ | refine Keeps.ite (fun _ => ?_) fun _ => ?_
    | dsimp +zetaDelta only

end Sys2Proof.Machine
end

