-- ==== Sys2Proof/Laws/State.lean ====
section
/-! SUPPORT. One lemma for each updater of Machine/Access.lean and each field of State that it leaves: all hold by definition,
so that no later proof unfolds a record update. -/

namespace Sys2Proof.Machine

@[simp] theorem State.onSagger_pending (s : State) (g : Nat) (f : Sagger → Sagger) : (s.onSagger g f).pending = s.pending := rfl
@[simp] theorem State.onSagger_regs (s : State) (g : Nat) (f : Sagger → Sagger) : (s.onSagger g f).regs = s.regs := rfl
@[simp] theorem State.onSagger_freeCtr (s : State) (g : Nat) (f : Sagger → Sagger) : (s.onSagger g f).freeCtr = s.freeCtr := rfl
@[simp] theorem State.onSagger_mem (s : State) (g : Nat) (f : Sagger → Sagger) : (s.onSagger g f).mem = s.mem := rfl
@[simp] theorem State.onSagger_power (s : State) (g : Nat) (f : Sagger → Sagger) : (s.onSagger g f).power = s.power := rfl
@[simp] theorem State.onSagger_boot (s : State) (g : Nat) (f : Sagger → Sagger) : (s.onSagger g f).boot = s.boot := rfl
@[simp] theorem State.onSagger_health (s : State) (g : Nat) (f : Sagger → Sagger) : (s.onSagger g f).health = s.health := rfl
@[simp] theorem State.onSagger_fuses (s : State) (g : Nat) (f : Sagger → Sagger) : (s.onSagger g f).fuses = s.fuses := rfl
@[simp] theorem State.onSagger_plan (s : State) (g : Nat) (f : Sagger → Sagger) : (s.onSagger g f).plan = s.plan := rfl
@[simp] theorem State.onSagger_tb (s : State) (g : Nat) (f : Sagger → Sagger) : (s.onSagger g f).tb = s.tb := rfl
@[simp] theorem State.onSagger_flog (s : State) (g : Nat) (f : Sagger → Sagger) : (s.onSagger g f).flog = s.flog := rfl
@[simp] theorem State.onSagger_wheels (s : State) (g : Nat) (f : Sagger → Sagger) : (s.onSagger g f).wheels = s.wheels := rfl
@[simp] theorem State.onSagger_wares (s : State) (g : Nat) (f : Sagger → Sagger) : (s.onSagger g f).wares = s.wares := rfl
@[simp] theorem State.onSagger_ldus (s : State) (g : Nat) (f : Sagger → Sagger) : (s.onSagger g f).ldus = s.ldus := rfl
@[simp] theorem State.onSagger_ssus (s : State) (g : Nat) (f : Sagger → Sagger) : (s.onSagger g f).ssus = s.ssus := rfl
@[simp] theorem State.onSagger_tallies (s : State) (g : Nat) (f : Sagger → Sagger) : (s.onSagger g f).tallies = s.tallies := rfl
@[simp] theorem State.onSagger_tallyOut (s : State) (g : Nat) (f : Sagger → Sagger) : (s.onSagger g f).tallyOut = s.tallyOut := rfl
@[simp] theorem State.onSagger_houseProgress (s : State) (g : Nat) (f : Sagger → Sagger) : (s.onSagger g f).houseProgress = s.houseProgress := rfl
@[simp] theorem State.onSagger_houseArmed (s : State) (g : Nat) (f : Sagger → Sagger) : (s.onSagger g f).houseArmed = s.houseArmed := rfl
@[simp] theorem State.onSagger_snaps (s : State) (g : Nat) (f : Sagger → Sagger) : (s.onSagger g f).snaps = s.snaps := rfl
@[simp] theorem State.onSagger_hbmStacks (s : State) (g : Nat) (f : Sagger → Sagger) : (s.onSagger g f).hbmStacks = s.hbmStacks := rfl
@[simp] theorem State.onSagger_store (s : State) (g : Nat) (f : Sagger → Sagger) : (s.onSagger g f).store = s.store := rfl
@[simp] theorem State.onSagger_poison (s : State) (g : Nat) (f : Sagger → Sagger) : (s.onSagger g f).poison = s.poison := rfl
@[simp] theorem State.onSagger_glazes (s : State) (g : Nat) (f : Sagger → Sagger) : (s.onSagger g f).glazes = s.glazes := rfl
@[simp] theorem State.onSagger_ports (s : State) (g : Nat) (f : Sagger → Sagger) : (s.onSagger g f).ports = s.ports := rfl
@[simp] theorem State.onSagger_lat (s : State) (g : Nat) (f : Sagger → Sagger) : (s.onSagger g f).lat = s.lat := rfl
@[simp] theorem State.onSagger_lute (s : State) (g : Nat) (f : Sagger → Sagger) : (s.onSagger g f).lute = s.lute := rfl
@[simp] theorem State.onSagger_links (s : State) (g : Nat) (f : Sagger → Sagger) : (s.onSagger g f).links = s.links := rfl
@[simp] theorem State.onSagger_chans (s : State) (g : Nat) (f : Sagger → Sagger) : (s.onSagger g f).chans = s.chans := rfl
@[simp] theorem State.onSagger_swaps (s : State) (g : Nat) (f : Sagger → Sagger) : (s.onSagger g f).swaps = s.swaps := rfl
@[simp] theorem State.onSagger_nextTag (s : State) (g : Nat) (f : Sagger → Sagger) : (s.onSagger g f).nextTag = s.nextTag := rfl
@[simp] theorem State.onSagger_mgmt (s : State) (g : Nat) (f : Sagger → Sagger) : (s.onSagger g f).mgmt = s.mgmt := rfl
@[simp] theorem State.onSagger_cones (s : State) (g : Nat) (f : Sagger → Sagger) : (s.onSagger g f).cones = s.cones := rfl
@[simp] theorem State.onSagger_lastMeas (s : State) (g : Nat) (f : Sagger → Sagger) : (s.onSagger g f).lastMeas = s.lastMeas := rfl
@[simp] theorem State.onWheel_pending (s : State) (w : Nat) (f : Wheel → Wheel) : (s.onWheel w f).pending = s.pending := rfl
@[simp] theorem State.onWheel_regs (s : State) (w : Nat) (f : Wheel → Wheel) : (s.onWheel w f).regs = s.regs := rfl
@[simp] theorem State.onWheel_freeCtr (s : State) (w : Nat) (f : Wheel → Wheel) : (s.onWheel w f).freeCtr = s.freeCtr := rfl
@[simp] theorem State.onWheel_mem (s : State) (w : Nat) (f : Wheel → Wheel) : (s.onWheel w f).mem = s.mem := rfl
@[simp] theorem State.onWheel_power (s : State) (w : Nat) (f : Wheel → Wheel) : (s.onWheel w f).power = s.power := rfl
@[simp] theorem State.onWheel_boot (s : State) (w : Nat) (f : Wheel → Wheel) : (s.onWheel w f).boot = s.boot := rfl
@[simp] theorem State.onWheel_health (s : State) (w : Nat) (f : Wheel → Wheel) : (s.onWheel w f).health = s.health := rfl
@[simp] theorem State.onWheel_fuses (s : State) (w : Nat) (f : Wheel → Wheel) : (s.onWheel w f).fuses = s.fuses := rfl
@[simp] theorem State.onWheel_plan (s : State) (w : Nat) (f : Wheel → Wheel) : (s.onWheel w f).plan = s.plan := rfl
@[simp] theorem State.onWheel_tb (s : State) (w : Nat) (f : Wheel → Wheel) : (s.onWheel w f).tb = s.tb := rfl
@[simp] theorem State.onWheel_flog (s : State) (w : Nat) (f : Wheel → Wheel) : (s.onWheel w f).flog = s.flog := rfl
@[simp] theorem State.onWheel_saggers (s : State) (w : Nat) (f : Wheel → Wheel) : (s.onWheel w f).saggers = s.saggers := rfl
@[simp] theorem State.onWheel_wares (s : State) (w : Nat) (f : Wheel → Wheel) : (s.onWheel w f).wares = s.wares := rfl
@[simp] theorem State.onWheel_ldus (s : State) (w : Nat) (f : Wheel → Wheel) : (s.onWheel w f).ldus = s.ldus := rfl
@[simp] theorem State.onWheel_ssus (s : State) (w : Nat) (f : Wheel → Wheel) : (s.onWheel w f).ssus = s.ssus := rfl
@[simp] theorem State.onWheel_tallies (s : State) (w : Nat) (f : Wheel → Wheel) : (s.onWheel w f).tallies = s.tallies := rfl
@[simp] theorem State.onWheel_tallyOut (s : State) (w : Nat) (f : Wheel → Wheel) : (s.onWheel w f).tallyOut = s.tallyOut := rfl
@[simp] theorem State.onWheel_houseProgress (s : State) (w : Nat) (f : Wheel → Wheel) : (s.onWheel w f).houseProgress = s.houseProgress := rfl
@[simp] theorem State.onWheel_houseArmed (s : State) (w : Nat) (f : Wheel → Wheel) : (s.onWheel w f).houseArmed = s.houseArmed := rfl
@[simp] theorem State.onWheel_snaps (s : State) (w : Nat) (f : Wheel → Wheel) : (s.onWheel w f).snaps = s.snaps := rfl
@[simp] theorem State.onWheel_hbmStacks (s : State) (w : Nat) (f : Wheel → Wheel) : (s.onWheel w f).hbmStacks = s.hbmStacks := rfl
@[simp] theorem State.onWheel_store (s : State) (w : Nat) (f : Wheel → Wheel) : (s.onWheel w f).store = s.store := rfl
@[simp] theorem State.onWheel_poison (s : State) (w : Nat) (f : Wheel → Wheel) : (s.onWheel w f).poison = s.poison := rfl
@[simp] theorem State.onWheel_glazes (s : State) (w : Nat) (f : Wheel → Wheel) : (s.onWheel w f).glazes = s.glazes := rfl
@[simp] theorem State.onWheel_ports (s : State) (w : Nat) (f : Wheel → Wheel) : (s.onWheel w f).ports = s.ports := rfl
@[simp] theorem State.onWheel_lat (s : State) (w : Nat) (f : Wheel → Wheel) : (s.onWheel w f).lat = s.lat := rfl
@[simp] theorem State.onWheel_lute (s : State) (w : Nat) (f : Wheel → Wheel) : (s.onWheel w f).lute = s.lute := rfl
@[simp] theorem State.onWheel_links (s : State) (w : Nat) (f : Wheel → Wheel) : (s.onWheel w f).links = s.links := rfl
@[simp] theorem State.onWheel_chans (s : State) (w : Nat) (f : Wheel → Wheel) : (s.onWheel w f).chans = s.chans := rfl
@[simp] theorem State.onWheel_swaps (s : State) (w : Nat) (f : Wheel → Wheel) : (s.onWheel w f).swaps = s.swaps := rfl
@[simp] theorem State.onWheel_nextTag (s : State) (w : Nat) (f : Wheel → Wheel) : (s.onWheel w f).nextTag = s.nextTag := rfl
@[simp] theorem State.onWheel_mgmt (s : State) (w : Nat) (f : Wheel → Wheel) : (s.onWheel w f).mgmt = s.mgmt := rfl
@[simp] theorem State.onWheel_cones (s : State) (w : Nat) (f : Wheel → Wheel) : (s.onWheel w f).cones = s.cones := rfl
@[simp] theorem State.onWheel_lastMeas (s : State) (w : Nat) (f : Wheel → Wheel) : (s.onWheel w f).lastMeas = s.lastMeas := rfl
@[simp] theorem State.onWare_pending (s : State) (d : Nat) (f : Ware → Ware) : (s.onWare d f).pending = s.pending := rfl
@[simp] theorem State.onWare_regs (s : State) (d : Nat) (f : Ware → Ware) : (s.onWare d f).regs = s.regs := rfl
@[simp] theorem State.onWare_freeCtr (s : State) (d : Nat) (f : Ware → Ware) : (s.onWare d f).freeCtr = s.freeCtr := rfl
@[simp] theorem State.onWare_mem (s : State) (d : Nat) (f : Ware → Ware) : (s.onWare d f).mem = s.mem := rfl
@[simp] theorem State.onWare_power (s : State) (d : Nat) (f : Ware → Ware) : (s.onWare d f).power = s.power := rfl
@[simp] theorem State.onWare_boot (s : State) (d : Nat) (f : Ware → Ware) : (s.onWare d f).boot = s.boot := rfl
@[simp] theorem State.onWare_health (s : State) (d : Nat) (f : Ware → Ware) : (s.onWare d f).health = s.health := rfl
@[simp] theorem State.onWare_fuses (s : State) (d : Nat) (f : Ware → Ware) : (s.onWare d f).fuses = s.fuses := rfl
@[simp] theorem State.onWare_plan (s : State) (d : Nat) (f : Ware → Ware) : (s.onWare d f).plan = s.plan := rfl
@[simp] theorem State.onWare_tb (s : State) (d : Nat) (f : Ware → Ware) : (s.onWare d f).tb = s.tb := rfl
@[simp] theorem State.onWare_flog (s : State) (d : Nat) (f : Ware → Ware) : (s.onWare d f).flog = s.flog := rfl
@[simp] theorem State.onWare_saggers (s : State) (d : Nat) (f : Ware → Ware) : (s.onWare d f).saggers = s.saggers := rfl
@[simp] theorem State.onWare_wheels (s : State) (d : Nat) (f : Ware → Ware) : (s.onWare d f).wheels = s.wheels := rfl
@[simp] theorem State.onWare_ldus (s : State) (d : Nat) (f : Ware → Ware) : (s.onWare d f).ldus = s.ldus := rfl
@[simp] theorem State.onWare_ssus (s : State) (d : Nat) (f : Ware → Ware) : (s.onWare d f).ssus = s.ssus := rfl
@[simp] theorem State.onWare_tallies (s : State) (d : Nat) (f : Ware → Ware) : (s.onWare d f).tallies = s.tallies := rfl
@[simp] theorem State.onWare_tallyOut (s : State) (d : Nat) (f : Ware → Ware) : (s.onWare d f).tallyOut = s.tallyOut := rfl
@[simp] theorem State.onWare_houseProgress (s : State) (d : Nat) (f : Ware → Ware) : (s.onWare d f).houseProgress = s.houseProgress := rfl
@[simp] theorem State.onWare_houseArmed (s : State) (d : Nat) (f : Ware → Ware) : (s.onWare d f).houseArmed = s.houseArmed := rfl
@[simp] theorem State.onWare_snaps (s : State) (d : Nat) (f : Ware → Ware) : (s.onWare d f).snaps = s.snaps := rfl
@[simp] theorem State.onWare_hbmStacks (s : State) (d : Nat) (f : Ware → Ware) : (s.onWare d f).hbmStacks = s.hbmStacks := rfl
@[simp] theorem State.onWare_store (s : State) (d : Nat) (f : Ware → Ware) : (s.onWare d f).store = s.store := rfl
@[simp] theorem State.onWare_poison (s : State) (d : Nat) (f : Ware → Ware) : (s.onWare d f).poison = s.poison := rfl
@[simp] theorem State.onWare_glazes (s : State) (d : Nat) (f : Ware → Ware) : (s.onWare d f).glazes = s.glazes := rfl
@[simp] theorem State.onWare_ports (s : State) (d : Nat) (f : Ware → Ware) : (s.onWare d f).ports = s.ports := rfl
@[simp] theorem State.onWare_lat (s : State) (d : Nat) (f : Ware → Ware) : (s.onWare d f).lat = s.lat := rfl
@[simp] theorem State.onWare_lute (s : State) (d : Nat) (f : Ware → Ware) : (s.onWare d f).lute = s.lute := rfl
@[simp] theorem State.onWare_links (s : State) (d : Nat) (f : Ware → Ware) : (s.onWare d f).links = s.links := rfl
@[simp] theorem State.onWare_chans (s : State) (d : Nat) (f : Ware → Ware) : (s.onWare d f).chans = s.chans := rfl
@[simp] theorem State.onWare_swaps (s : State) (d : Nat) (f : Ware → Ware) : (s.onWare d f).swaps = s.swaps := rfl
@[simp] theorem State.onWare_nextTag (s : State) (d : Nat) (f : Ware → Ware) : (s.onWare d f).nextTag = s.nextTag := rfl
@[simp] theorem State.onWare_mgmt (s : State) (d : Nat) (f : Ware → Ware) : (s.onWare d f).mgmt = s.mgmt := rfl
@[simp] theorem State.onWare_cones (s : State) (d : Nat) (f : Ware → Ware) : (s.onWare d f).cones = s.cones := rfl
@[simp] theorem State.onWare_lastMeas (s : State) (d : Nat) (f : Ware → Ware) : (s.onWare d f).lastMeas = s.lastMeas := rfl
@[simp] theorem State.onLdu_pending (s : State) (l : Nat) (f : Ldu → Ldu) : (s.onLdu l f).pending = s.pending := rfl
@[simp] theorem State.onLdu_regs (s : State) (l : Nat) (f : Ldu → Ldu) : (s.onLdu l f).regs = s.regs := rfl
@[simp] theorem State.onLdu_freeCtr (s : State) (l : Nat) (f : Ldu → Ldu) : (s.onLdu l f).freeCtr = s.freeCtr := rfl
@[simp] theorem State.onLdu_mem (s : State) (l : Nat) (f : Ldu → Ldu) : (s.onLdu l f).mem = s.mem := rfl
@[simp] theorem State.onLdu_power (s : State) (l : Nat) (f : Ldu → Ldu) : (s.onLdu l f).power = s.power := rfl
@[simp] theorem State.onLdu_boot (s : State) (l : Nat) (f : Ldu → Ldu) : (s.onLdu l f).boot = s.boot := rfl
@[simp] theorem State.onLdu_health (s : State) (l : Nat) (f : Ldu → Ldu) : (s.onLdu l f).health = s.health := rfl
@[simp] theorem State.onLdu_fuses (s : State) (l : Nat) (f : Ldu → Ldu) : (s.onLdu l f).fuses = s.fuses := rfl
@[simp] theorem State.onLdu_plan (s : State) (l : Nat) (f : Ldu → Ldu) : (s.onLdu l f).plan = s.plan := rfl
@[simp] theorem State.onLdu_tb (s : State) (l : Nat) (f : Ldu → Ldu) : (s.onLdu l f).tb = s.tb := rfl
@[simp] theorem State.onLdu_flog (s : State) (l : Nat) (f : Ldu → Ldu) : (s.onLdu l f).flog = s.flog := rfl
@[simp] theorem State.onLdu_saggers (s : State) (l : Nat) (f : Ldu → Ldu) : (s.onLdu l f).saggers = s.saggers := rfl
@[simp] theorem State.onLdu_wheels (s : State) (l : Nat) (f : Ldu → Ldu) : (s.onLdu l f).wheels = s.wheels := rfl
@[simp] theorem State.onLdu_wares (s : State) (l : Nat) (f : Ldu → Ldu) : (s.onLdu l f).wares = s.wares := rfl
@[simp] theorem State.onLdu_ssus (s : State) (l : Nat) (f : Ldu → Ldu) : (s.onLdu l f).ssus = s.ssus := rfl
@[simp] theorem State.onLdu_tallies (s : State) (l : Nat) (f : Ldu → Ldu) : (s.onLdu l f).tallies = s.tallies := rfl
@[simp] theorem State.onLdu_tallyOut (s : State) (l : Nat) (f : Ldu → Ldu) : (s.onLdu l f).tallyOut = s.tallyOut := rfl
@[simp] theorem State.onLdu_houseProgress (s : State) (l : Nat) (f : Ldu → Ldu) : (s.onLdu l f).houseProgress = s.houseProgress := rfl
@[simp] theorem State.onLdu_houseArmed (s : State) (l : Nat) (f : Ldu → Ldu) : (s.onLdu l f).houseArmed = s.houseArmed := rfl
@[simp] theorem State.onLdu_snaps (s : State) (l : Nat) (f : Ldu → Ldu) : (s.onLdu l f).snaps = s.snaps := rfl
@[simp] theorem State.onLdu_hbmStacks (s : State) (l : Nat) (f : Ldu → Ldu) : (s.onLdu l f).hbmStacks = s.hbmStacks := rfl
@[simp] theorem State.onLdu_store (s : State) (l : Nat) (f : Ldu → Ldu) : (s.onLdu l f).store = s.store := rfl
@[simp] theorem State.onLdu_poison (s : State) (l : Nat) (f : Ldu → Ldu) : (s.onLdu l f).poison = s.poison := rfl
@[simp] theorem State.onLdu_glazes (s : State) (l : Nat) (f : Ldu → Ldu) : (s.onLdu l f).glazes = s.glazes := rfl
@[simp] theorem State.onLdu_ports (s : State) (l : Nat) (f : Ldu → Ldu) : (s.onLdu l f).ports = s.ports := rfl
@[simp] theorem State.onLdu_lat (s : State) (l : Nat) (f : Ldu → Ldu) : (s.onLdu l f).lat = s.lat := rfl
@[simp] theorem State.onLdu_lute (s : State) (l : Nat) (f : Ldu → Ldu) : (s.onLdu l f).lute = s.lute := rfl
@[simp] theorem State.onLdu_links (s : State) (l : Nat) (f : Ldu → Ldu) : (s.onLdu l f).links = s.links := rfl
@[simp] theorem State.onLdu_chans (s : State) (l : Nat) (f : Ldu → Ldu) : (s.onLdu l f).chans = s.chans := rfl
@[simp] theorem State.onLdu_swaps (s : State) (l : Nat) (f : Ldu → Ldu) : (s.onLdu l f).swaps = s.swaps := rfl
@[simp] theorem State.onLdu_nextTag (s : State) (l : Nat) (f : Ldu → Ldu) : (s.onLdu l f).nextTag = s.nextTag := rfl
@[simp] theorem State.onLdu_mgmt (s : State) (l : Nat) (f : Ldu → Ldu) : (s.onLdu l f).mgmt = s.mgmt := rfl
@[simp] theorem State.onLdu_cones (s : State) (l : Nat) (f : Ldu → Ldu) : (s.onLdu l f).cones = s.cones := rfl
@[simp] theorem State.onLdu_lastMeas (s : State) (l : Nat) (f : Ldu → Ldu) : (s.onLdu l f).lastMeas = s.lastMeas := rfl
@[simp] theorem State.onSsu_pending (s : State) (d : Nat) (f : Ssu → Ssu) : (s.onSsu d f).pending = s.pending := rfl
@[simp] theorem State.onSsu_regs (s : State) (d : Nat) (f : Ssu → Ssu) : (s.onSsu d f).regs = s.regs := rfl
@[simp] theorem State.onSsu_freeCtr (s : State) (d : Nat) (f : Ssu → Ssu) : (s.onSsu d f).freeCtr = s.freeCtr := rfl
@[simp] theorem State.onSsu_mem (s : State) (d : Nat) (f : Ssu → Ssu) : (s.onSsu d f).mem = s.mem := rfl
@[simp] theorem State.onSsu_power (s : State) (d : Nat) (f : Ssu → Ssu) : (s.onSsu d f).power = s.power := rfl
@[simp] theorem State.onSsu_boot (s : State) (d : Nat) (f : Ssu → Ssu) : (s.onSsu d f).boot = s.boot := rfl
@[simp] theorem State.onSsu_health (s : State) (d : Nat) (f : Ssu → Ssu) : (s.onSsu d f).health = s.health := rfl
@[simp] theorem State.onSsu_fuses (s : State) (d : Nat) (f : Ssu → Ssu) : (s.onSsu d f).fuses = s.fuses := rfl
@[simp] theorem State.onSsu_plan (s : State) (d : Nat) (f : Ssu → Ssu) : (s.onSsu d f).plan = s.plan := rfl
@[simp] theorem State.onSsu_tb (s : State) (d : Nat) (f : Ssu → Ssu) : (s.onSsu d f).tb = s.tb := rfl
@[simp] theorem State.onSsu_flog (s : State) (d : Nat) (f : Ssu → Ssu) : (s.onSsu d f).flog = s.flog := rfl
@[simp] theorem State.onSsu_saggers (s : State) (d : Nat) (f : Ssu → Ssu) : (s.onSsu d f).saggers = s.saggers := rfl
@[simp] theorem State.onSsu_wheels (s : State) (d : Nat) (f : Ssu → Ssu) : (s.onSsu d f).wheels = s.wheels := rfl
@[simp] theorem State.onSsu_wares (s : State) (d : Nat) (f : Ssu → Ssu) : (s.onSsu d f).wares = s.wares := rfl
@[simp] theorem State.onSsu_ldus (s : State) (d : Nat) (f : Ssu → Ssu) : (s.onSsu d f).ldus = s.ldus := rfl
@[simp] theorem State.onSsu_tallies (s : State) (d : Nat) (f : Ssu → Ssu) : (s.onSsu d f).tallies = s.tallies := rfl
@[simp] theorem State.onSsu_tallyOut (s : State) (d : Nat) (f : Ssu → Ssu) : (s.onSsu d f).tallyOut = s.tallyOut := rfl
@[simp] theorem State.onSsu_houseProgress (s : State) (d : Nat) (f : Ssu → Ssu) : (s.onSsu d f).houseProgress = s.houseProgress := rfl
@[simp] theorem State.onSsu_houseArmed (s : State) (d : Nat) (f : Ssu → Ssu) : (s.onSsu d f).houseArmed = s.houseArmed := rfl
@[simp] theorem State.onSsu_snaps (s : State) (d : Nat) (f : Ssu → Ssu) : (s.onSsu d f).snaps = s.snaps := rfl
@[simp] theorem State.onSsu_hbmStacks (s : State) (d : Nat) (f : Ssu → Ssu) : (s.onSsu d f).hbmStacks = s.hbmStacks := rfl
@[simp] theorem State.onSsu_store (s : State) (d : Nat) (f : Ssu → Ssu) : (s.onSsu d f).store = s.store := rfl
@[simp] theorem State.onSsu_poison (s : State) (d : Nat) (f : Ssu → Ssu) : (s.onSsu d f).poison = s.poison := rfl
@[simp] theorem State.onSsu_glazes (s : State) (d : Nat) (f : Ssu → Ssu) : (s.onSsu d f).glazes = s.glazes := rfl
@[simp] theorem State.onSsu_ports (s : State) (d : Nat) (f : Ssu → Ssu) : (s.onSsu d f).ports = s.ports := rfl
@[simp] theorem State.onSsu_lat (s : State) (d : Nat) (f : Ssu → Ssu) : (s.onSsu d f).lat = s.lat := rfl
@[simp] theorem State.onSsu_lute (s : State) (d : Nat) (f : Ssu → Ssu) : (s.onSsu d f).lute = s.lute := rfl
@[simp] theorem State.onSsu_links (s : State) (d : Nat) (f : Ssu → Ssu) : (s.onSsu d f).links = s.links := rfl
@[simp] theorem State.onSsu_chans (s : State) (d : Nat) (f : Ssu → Ssu) : (s.onSsu d f).chans = s.chans := rfl
@[simp] theorem State.onSsu_swaps (s : State) (d : Nat) (f : Ssu → Ssu) : (s.onSsu d f).swaps = s.swaps := rfl
@[simp] theorem State.onSsu_nextTag (s : State) (d : Nat) (f : Ssu → Ssu) : (s.onSsu d f).nextTag = s.nextTag := rfl
@[simp] theorem State.onSsu_mgmt (s : State) (d : Nat) (f : Ssu → Ssu) : (s.onSsu d f).mgmt = s.mgmt := rfl
@[simp] theorem State.onSsu_cones (s : State) (d : Nat) (f : Ssu → Ssu) : (s.onSsu d f).cones = s.cones := rfl
@[simp] theorem State.onSsu_lastMeas (s : State) (d : Nat) (f : Ssu → Ssu) : (s.onSsu d f).lastMeas = s.lastMeas := rfl
@[simp] theorem State.onTally_pending (s : State) (k : Nat) (f : Tally → Tally) : (s.onTally k f).pending = s.pending := rfl
@[simp] theorem State.onTally_regs (s : State) (k : Nat) (f : Tally → Tally) : (s.onTally k f).regs = s.regs := rfl
@[simp] theorem State.onTally_freeCtr (s : State) (k : Nat) (f : Tally → Tally) : (s.onTally k f).freeCtr = s.freeCtr := rfl
@[simp] theorem State.onTally_mem (s : State) (k : Nat) (f : Tally → Tally) : (s.onTally k f).mem = s.mem := rfl
@[simp] theorem State.onTally_power (s : State) (k : Nat) (f : Tally → Tally) : (s.onTally k f).power = s.power := rfl
@[simp] theorem State.onTally_boot (s : State) (k : Nat) (f : Tally → Tally) : (s.onTally k f).boot = s.boot := rfl
@[simp] theorem State.onTally_health (s : State) (k : Nat) (f : Tally → Tally) : (s.onTally k f).health = s.health := rfl
@[simp] theorem State.onTally_fuses (s : State) (k : Nat) (f : Tally → Tally) : (s.onTally k f).fuses = s.fuses := rfl
@[simp] theorem State.onTally_plan (s : State) (k : Nat) (f : Tally → Tally) : (s.onTally k f).plan = s.plan := rfl
@[simp] theorem State.onTally_tb (s : State) (k : Nat) (f : Tally → Tally) : (s.onTally k f).tb = s.tb := rfl
@[simp] theorem State.onTally_flog (s : State) (k : Nat) (f : Tally → Tally) : (s.onTally k f).flog = s.flog := rfl
@[simp] theorem State.onTally_saggers (s : State) (k : Nat) (f : Tally → Tally) : (s.onTally k f).saggers = s.saggers := rfl
@[simp] theorem State.onTally_wheels (s : State) (k : Nat) (f : Tally → Tally) : (s.onTally k f).wheels = s.wheels := rfl
@[simp] theorem State.onTally_wares (s : State) (k : Nat) (f : Tally → Tally) : (s.onTally k f).wares = s.wares := rfl
@[simp] theorem State.onTally_ldus (s : State) (k : Nat) (f : Tally → Tally) : (s.onTally k f).ldus = s.ldus := rfl
@[simp] theorem State.onTally_ssus (s : State) (k : Nat) (f : Tally → Tally) : (s.onTally k f).ssus = s.ssus := rfl
@[simp] theorem State.onTally_tallyOut (s : State) (k : Nat) (f : Tally → Tally) : (s.onTally k f).tallyOut = s.tallyOut := rfl
@[simp] theorem State.onTally_houseProgress (s : State) (k : Nat) (f : Tally → Tally) : (s.onTally k f).houseProgress = s.houseProgress := rfl
@[simp] theorem State.onTally_houseArmed (s : State) (k : Nat) (f : Tally → Tally) : (s.onTally k f).houseArmed = s.houseArmed := rfl
@[simp] theorem State.onTally_snaps (s : State) (k : Nat) (f : Tally → Tally) : (s.onTally k f).snaps = s.snaps := rfl
@[simp] theorem State.onTally_hbmStacks (s : State) (k : Nat) (f : Tally → Tally) : (s.onTally k f).hbmStacks = s.hbmStacks := rfl
@[simp] theorem State.onTally_store (s : State) (k : Nat) (f : Tally → Tally) : (s.onTally k f).store = s.store := rfl
@[simp] theorem State.onTally_poison (s : State) (k : Nat) (f : Tally → Tally) : (s.onTally k f).poison = s.poison := rfl
@[simp] theorem State.onTally_glazes (s : State) (k : Nat) (f : Tally → Tally) : (s.onTally k f).glazes = s.glazes := rfl
@[simp] theorem State.onTally_ports (s : State) (k : Nat) (f : Tally → Tally) : (s.onTally k f).ports = s.ports := rfl
@[simp] theorem State.onTally_lat (s : State) (k : Nat) (f : Tally → Tally) : (s.onTally k f).lat = s.lat := rfl
@[simp] theorem State.onTally_lute (s : State) (k : Nat) (f : Tally → Tally) : (s.onTally k f).lute = s.lute := rfl
@[simp] theorem State.onTally_links (s : State) (k : Nat) (f : Tally → Tally) : (s.onTally k f).links = s.links := rfl
@[simp] theorem State.onTally_chans (s : State) (k : Nat) (f : Tally → Tally) : (s.onTally k f).chans = s.chans := rfl
@[simp] theorem State.onTally_swaps (s : State) (k : Nat) (f : Tally → Tally) : (s.onTally k f).swaps = s.swaps := rfl
@[simp] theorem State.onTally_nextTag (s : State) (k : Nat) (f : Tally → Tally) : (s.onTally k f).nextTag = s.nextTag := rfl
@[simp] theorem State.onTally_mgmt (s : State) (k : Nat) (f : Tally → Tally) : (s.onTally k f).mgmt = s.mgmt := rfl
@[simp] theorem State.onTally_cones (s : State) (k : Nat) (f : Tally → Tally) : (s.onTally k f).cones = s.cones := rfl
@[simp] theorem State.onTally_lastMeas (s : State) (k : Nat) (f : Tally → Tally) : (s.onTally k f).lastMeas = s.lastMeas := rfl
@[simp] theorem State.onStack_pending (s : State) (k : Nat) (f : Stack → Stack) : (s.onStack k f).pending = s.pending := rfl
@[simp] theorem State.onStack_regs (s : State) (k : Nat) (f : Stack → Stack) : (s.onStack k f).regs = s.regs := rfl
@[simp] theorem State.onStack_freeCtr (s : State) (k : Nat) (f : Stack → Stack) : (s.onStack k f).freeCtr = s.freeCtr := rfl
@[simp] theorem State.onStack_mem (s : State) (k : Nat) (f : Stack → Stack) : (s.onStack k f).mem = s.mem := rfl
@[simp] theorem State.onStack_power (s : State) (k : Nat) (f : Stack → Stack) : (s.onStack k f).power = s.power := rfl
@[simp] theorem State.onStack_boot (s : State) (k : Nat) (f : Stack → Stack) : (s.onStack k f).boot = s.boot := rfl
@[simp] theorem State.onStack_health (s : State) (k : Nat) (f : Stack → Stack) : (s.onStack k f).health = s.health := rfl
@[simp] theorem State.onStack_fuses (s : State) (k : Nat) (f : Stack → Stack) : (s.onStack k f).fuses = s.fuses := rfl
@[simp] theorem State.onStack_plan (s : State) (k : Nat) (f : Stack → Stack) : (s.onStack k f).plan = s.plan := rfl
@[simp] theorem State.onStack_tb (s : State) (k : Nat) (f : Stack → Stack) : (s.onStack k f).tb = s.tb := rfl
@[simp] theorem State.onStack_flog (s : State) (k : Nat) (f : Stack → Stack) : (s.onStack k f).flog = s.flog := rfl
@[simp] theorem State.onStack_saggers (s : State) (k : Nat) (f : Stack → Stack) : (s.onStack k f).saggers = s.saggers := rfl
@[simp] theorem State.onStack_wheels (s : State) (k : Nat) (f : Stack → Stack) : (s.onStack k f).wheels = s.wheels := rfl
@[simp] theorem State.onStack_wares (s : State) (k : Nat) (f : Stack → Stack) : (s.onStack k f).wares = s.wares := rfl
@[simp] theorem State.onStack_ldus (s : State) (k : Nat) (f : Stack → Stack) : (s.onStack k f).ldus = s.ldus := rfl
@[simp] theorem State.onStack_ssus (s : State) (k : Nat) (f : Stack → Stack) : (s.onStack k f).ssus = s.ssus := rfl
@[simp] theorem State.onStack_tallies (s : State) (k : Nat) (f : Stack → Stack) : (s.onStack k f).tallies = s.tallies := rfl
@[simp] theorem State.onStack_tallyOut (s : State) (k : Nat) (f : Stack → Stack) : (s.onStack k f).tallyOut = s.tallyOut := rfl
@[simp] theorem State.onStack_houseProgress (s : State) (k : Nat) (f : Stack → Stack) : (s.onStack k f).houseProgress = s.houseProgress := rfl
@[simp] theorem State.onStack_houseArmed (s : State) (k : Nat) (f : Stack → Stack) : (s.onStack k f).houseArmed = s.houseArmed := rfl
@[simp] theorem State.onStack_snaps (s : State) (k : Nat) (f : Stack → Stack) : (s.onStack k f).snaps = s.snaps := rfl
@[simp] theorem State.onStack_store (s : State) (k : Nat) (f : Stack → Stack) : (s.onStack k f).store = s.store := rfl
@[simp] theorem State.onStack_poison (s : State) (k : Nat) (f : Stack → Stack) : (s.onStack k f).poison = s.poison := rfl
@[simp] theorem State.onStack_glazes (s : State) (k : Nat) (f : Stack → Stack) : (s.onStack k f).glazes = s.glazes := rfl
@[simp] theorem State.onStack_ports (s : State) (k : Nat) (f : Stack → Stack) : (s.onStack k f).ports = s.ports := rfl
@[simp] theorem State.onStack_lat (s : State) (k : Nat) (f : Stack → Stack) : (s.onStack k f).lat = s.lat := rfl
@[simp] theorem State.onStack_lute (s : State) (k : Nat) (f : Stack → Stack) : (s.onStack k f).lute = s.lute := rfl
@[simp] theorem State.onStack_links (s : State) (k : Nat) (f : Stack → Stack) : (s.onStack k f).links = s.links := rfl
@[simp] theorem State.onStack_chans (s : State) (k : Nat) (f : Stack → Stack) : (s.onStack k f).chans = s.chans := rfl
@[simp] theorem State.onStack_swaps (s : State) (k : Nat) (f : Stack → Stack) : (s.onStack k f).swaps = s.swaps := rfl
@[simp] theorem State.onStack_nextTag (s : State) (k : Nat) (f : Stack → Stack) : (s.onStack k f).nextTag = s.nextTag := rfl
@[simp] theorem State.onStack_mgmt (s : State) (k : Nat) (f : Stack → Stack) : (s.onStack k f).mgmt = s.mgmt := rfl
@[simp] theorem State.onStack_cones (s : State) (k : Nat) (f : Stack → Stack) : (s.onStack k f).cones = s.cones := rfl
@[simp] theorem State.onStack_lastMeas (s : State) (k : Nat) (f : Stack → Stack) : (s.onStack k f).lastMeas = s.lastMeas := rfl
@[simp] theorem State.onGlaze_pending (s : State) (d : Nat) (f : Glaze → Glaze) : (s.onGlaze d f).pending = s.pending := rfl
@[simp] theorem State.onGlaze_regs (s : State) (d : Nat) (f : Glaze → Glaze) : (s.onGlaze d f).regs = s.regs := rfl
@[simp] theorem State.onGlaze_freeCtr (s : State) (d : Nat) (f : Glaze → Glaze) : (s.onGlaze d f).freeCtr = s.freeCtr := rfl
@[simp] theorem State.onGlaze_mem (s : State) (d : Nat) (f : Glaze → Glaze) : (s.onGlaze d f).mem = s.mem := rfl
@[simp] theorem State.onGlaze_power (s : State) (d : Nat) (f : Glaze → Glaze) : (s.onGlaze d f).power = s.power := rfl
@[simp] theorem State.onGlaze_boot (s : State) (d : Nat) (f : Glaze → Glaze) : (s.onGlaze d f).boot = s.boot := rfl
@[simp] theorem State.onGlaze_health (s : State) (d : Nat) (f : Glaze → Glaze) : (s.onGlaze d f).health = s.health := rfl
@[simp] theorem State.onGlaze_fuses (s : State) (d : Nat) (f : Glaze → Glaze) : (s.onGlaze d f).fuses = s.fuses := rfl
@[simp] theorem State.onGlaze_plan (s : State) (d : Nat) (f : Glaze → Glaze) : (s.onGlaze d f).plan = s.plan := rfl
@[simp] theorem State.onGlaze_tb (s : State) (d : Nat) (f : Glaze → Glaze) : (s.onGlaze d f).tb = s.tb := rfl
@[simp] theorem State.onGlaze_flog (s : State) (d : Nat) (f : Glaze → Glaze) : (s.onGlaze d f).flog = s.flog := rfl
@[simp] theorem State.onGlaze_saggers (s : State) (d : Nat) (f : Glaze → Glaze) : (s.onGlaze d f).saggers = s.saggers := rfl
@[simp] theorem State.onGlaze_wheels (s : State) (d : Nat) (f : Glaze → Glaze) : (s.onGlaze d f).wheels = s.wheels := rfl
@[simp] theorem State.onGlaze_wares (s : State) (d : Nat) (f : Glaze → Glaze) : (s.onGlaze d f).wares = s.wares := rfl
@[simp] theorem State.onGlaze_ldus (s : State) (d : Nat) (f : Glaze → Glaze) : (s.onGlaze d f).ldus = s.ldus := rfl
@[simp] theorem State.onGlaze_ssus (s : State) (d : Nat) (f : Glaze → Glaze) : (s.onGlaze d f).ssus = s.ssus := rfl
@[simp] theorem State.onGlaze_tallies (s : State) (d : Nat) (f : Glaze → Glaze) : (s.onGlaze d f).tallies = s.tallies := rfl
@[simp] theorem State.onGlaze_tallyOut (s : State) (d : Nat) (f : Glaze → Glaze) : (s.onGlaze d f).tallyOut = s.tallyOut := rfl
@[simp] theorem State.onGlaze_houseProgress (s : State) (d : Nat) (f : Glaze → Glaze) : (s.onGlaze d f).houseProgress = s.houseProgress := rfl
@[simp] theorem State.onGlaze_houseArmed (s : State) (d : Nat) (f : Glaze → Glaze) : (s.onGlaze d f).houseArmed = s.houseArmed := rfl
@[simp] theorem State.onGlaze_snaps (s : State) (d : Nat) (f : Glaze → Glaze) : (s.onGlaze d f).snaps = s.snaps := rfl
@[simp] theorem State.onGlaze_hbmStacks (s : State) (d : Nat) (f : Glaze → Glaze) : (s.onGlaze d f).hbmStacks = s.hbmStacks := rfl
@[simp] theorem State.onGlaze_store (s : State) (d : Nat) (f : Glaze → Glaze) : (s.onGlaze d f).store = s.store := rfl
@[simp] theorem State.onGlaze_poison (s : State) (d : Nat) (f : Glaze → Glaze) : (s.onGlaze d f).poison = s.poison := rfl
@[simp] theorem State.onGlaze_ports (s : State) (d : Nat) (f : Glaze → Glaze) : (s.onGlaze d f).ports = s.ports := rfl
@[simp] theorem State.onGlaze_lat (s : State) (d : Nat) (f : Glaze → Glaze) : (s.onGlaze d f).lat = s.lat := rfl
@[simp] theorem State.onGlaze_lute (s : State) (d : Nat) (f : Glaze → Glaze) : (s.onGlaze d f).lute = s.lute := rfl
@[simp] theorem State.onGlaze_links (s : State) (d : Nat) (f : Glaze → Glaze) : (s.onGlaze d f).links = s.links := rfl
@[simp] theorem State.onGlaze_chans (s : State) (d : Nat) (f : Glaze → Glaze) : (s.onGlaze d f).chans = s.chans := rfl
@[simp] theorem State.onGlaze_swaps (s : State) (d : Nat) (f : Glaze → Glaze) : (s.onGlaze d f).swaps = s.swaps := rfl
@[simp] theorem State.onGlaze_nextTag (s : State) (d : Nat) (f : Glaze → Glaze) : (s.onGlaze d f).nextTag = s.nextTag := rfl
@[simp] theorem State.onGlaze_mgmt (s : State) (d : Nat) (f : Glaze → Glaze) : (s.onGlaze d f).mgmt = s.mgmt := rfl
@[simp] theorem State.onGlaze_cones (s : State) (d : Nat) (f : Glaze → Glaze) : (s.onGlaze d f).cones = s.cones := rfl
@[simp] theorem State.onGlaze_lastMeas (s : State) (d : Nat) (f : Glaze → Glaze) : (s.onGlaze d f).lastMeas = s.lastMeas := rfl
@[simp] theorem State.onPort_pending (s : State) (p : Nat) (f : Port → Port) : (s.onPort p f).pending = s.pending := rfl
@[simp] theorem State.onPort_regs (s : State) (p : Nat) (f : Port → Port) : (s.onPort p f).regs = s.regs := rfl
@[simp] theorem State.onPort_freeCtr (s : State) (p : Nat) (f : Port → Port) : (s.onPort p f).freeCtr = s.freeCtr := rfl
@[simp] theorem State.onPort_mem (s : State) (p : Nat) (f : Port → Port) : (s.onPort p f).mem = s.mem := rfl
@[simp] theorem State.onPort_power (s : State) (p : Nat) (f : Port → Port) : (s.onPort p f).power = s.power := rfl
@[simp] theorem State.onPort_boot (s : State) (p : Nat) (f : Port → Port) : (s.onPort p f).boot = s.boot := rfl
@[simp] theorem State.onPort_health (s : State) (p : Nat) (f : Port → Port) : (s.onPort p f).health = s.health := rfl
@[simp] theorem State.onPort_fuses (s : State) (p : Nat) (f : Port → Port) : (s.onPort p f).fuses = s.fuses := rfl
@[simp] theorem State.onPort_plan (s : State) (p : Nat) (f : Port → Port) : (s.onPort p f).plan = s.plan := rfl
@[simp] theorem State.onPort_tb (s : State) (p : Nat) (f : Port → Port) : (s.onPort p f).tb = s.tb := rfl
@[simp] theorem State.onPort_flog (s : State) (p : Nat) (f : Port → Port) : (s.onPort p f).flog = s.flog := rfl
@[simp] theorem State.onPort_saggers (s : State) (p : Nat) (f : Port → Port) : (s.onPort p f).saggers = s.saggers := rfl
@[simp] theorem State.onPort_wheels (s : State) (p : Nat) (f : Port → Port) : (s.onPort p f).wheels = s.wheels := rfl
@[simp] theorem State.onPort_wares (s : State) (p : Nat) (f : Port → Port) : (s.onPort p f).wares = s.wares := rfl
@[simp] theorem State.onPort_ldus (s : State) (p : Nat) (f : Port → Port) : (s.onPort p f).ldus = s.ldus := rfl
@[simp] theorem State.onPort_ssus (s : State) (p : Nat) (f : Port → Port) : (s.onPort p f).ssus = s.ssus := rfl
@[simp] theorem State.onPort_tallies (s : State) (p : Nat) (f : Port → Port) : (s.onPort p f).tallies = s.tallies := rfl
@[simp] theorem State.onPort_tallyOut (s : State) (p : Nat) (f : Port → Port) : (s.onPort p f).tallyOut = s.tallyOut := rfl
@[simp] theorem State.onPort_houseProgress (s : State) (p : Nat) (f : Port → Port) : (s.onPort p f).houseProgress = s.houseProgress := rfl
@[simp] theorem State.onPort_houseArmed (s : State) (p : Nat) (f : Port → Port) : (s.onPort p f).houseArmed = s.houseArmed := rfl
@[simp] theorem State.onPort_snaps (s : State) (p : Nat) (f : Port → Port) : (s.onPort p f).snaps = s.snaps := rfl
@[simp] theorem State.onPort_hbmStacks (s : State) (p : Nat) (f : Port → Port) : (s.onPort p f).hbmStacks = s.hbmStacks := rfl
@[simp] theorem State.onPort_store (s : State) (p : Nat) (f : Port → Port) : (s.onPort p f).store = s.store := rfl
@[simp] theorem State.onPort_poison (s : State) (p : Nat) (f : Port → Port) : (s.onPort p f).poison = s.poison := rfl
@[simp] theorem State.onPort_glazes (s : State) (p : Nat) (f : Port → Port) : (s.onPort p f).glazes = s.glazes := rfl
@[simp] theorem State.onPort_lat (s : State) (p : Nat) (f : Port → Port) : (s.onPort p f).lat = s.lat := rfl
@[simp] theorem State.onPort_lute (s : State) (p : Nat) (f : Port → Port) : (s.onPort p f).lute = s.lute := rfl
@[simp] theorem State.onPort_links (s : State) (p : Nat) (f : Port → Port) : (s.onPort p f).links = s.links := rfl
@[simp] theorem State.onPort_chans (s : State) (p : Nat) (f : Port → Port) : (s.onPort p f).chans = s.chans := rfl
@[simp] theorem State.onPort_swaps (s : State) (p : Nat) (f : Port → Port) : (s.onPort p f).swaps = s.swaps := rfl
@[simp] theorem State.onPort_nextTag (s : State) (p : Nat) (f : Port → Port) : (s.onPort p f).nextTag = s.nextTag := rfl
@[simp] theorem State.onPort_mgmt (s : State) (p : Nat) (f : Port → Port) : (s.onPort p f).mgmt = s.mgmt := rfl
@[simp] theorem State.onPort_cones (s : State) (p : Nat) (f : Port → Port) : (s.onPort p f).cones = s.cones := rfl
@[simp] theorem State.onPort_lastMeas (s : State) (p : Nat) (f : Port → Port) : (s.onPort p f).lastMeas = s.lastMeas := rfl
@[simp] theorem State.onLink_pending (s : State) (k : Nat) (f : Link → Link) : (s.onLink k f).pending = s.pending := rfl
@[simp] theorem State.onLink_regs (s : State) (k : Nat) (f : Link → Link) : (s.onLink k f).regs = s.regs := rfl
@[simp] theorem State.onLink_freeCtr (s : State) (k : Nat) (f : Link → Link) : (s.onLink k f).freeCtr = s.freeCtr := rfl
@[simp] theorem State.onLink_mem (s : State) (k : Nat) (f : Link → Link) : (s.onLink k f).mem = s.mem := rfl
@[simp] theorem State.onLink_power (s : State) (k : Nat) (f : Link → Link) : (s.onLink k f).power = s.power := rfl
@[simp] theorem State.onLink_boot (s : State) (k : Nat) (f : Link → Link) : (s.onLink k f).boot = s.boot := rfl
@[simp] theorem State.onLink_health (s : State) (k : Nat) (f : Link → Link) : (s.onLink k f).health = s.health := rfl
@[simp] theorem State.onLink_fuses (s : State) (k : Nat) (f : Link → Link) : (s.onLink k f).fuses = s.fuses := rfl
@[simp] theorem State.onLink_plan (s : State) (k : Nat) (f : Link → Link) : (s.onLink k f).plan = s.plan := rfl
@[simp] theorem State.onLink_tb (s : State) (k : Nat) (f : Link → Link) : (s.onLink k f).tb = s.tb := rfl
@[simp] theorem State.onLink_flog (s : State) (k : Nat) (f : Link → Link) : (s.onLink k f).flog = s.flog := rfl
@[simp] theorem State.onLink_saggers (s : State) (k : Nat) (f : Link → Link) : (s.onLink k f).saggers = s.saggers := rfl
@[simp] theorem State.onLink_wheels (s : State) (k : Nat) (f : Link → Link) : (s.onLink k f).wheels = s.wheels := rfl
@[simp] theorem State.onLink_wares (s : State) (k : Nat) (f : Link → Link) : (s.onLink k f).wares = s.wares := rfl
@[simp] theorem State.onLink_ldus (s : State) (k : Nat) (f : Link → Link) : (s.onLink k f).ldus = s.ldus := rfl
@[simp] theorem State.onLink_ssus (s : State) (k : Nat) (f : Link → Link) : (s.onLink k f).ssus = s.ssus := rfl
@[simp] theorem State.onLink_tallies (s : State) (k : Nat) (f : Link → Link) : (s.onLink k f).tallies = s.tallies := rfl
@[simp] theorem State.onLink_tallyOut (s : State) (k : Nat) (f : Link → Link) : (s.onLink k f).tallyOut = s.tallyOut := rfl
@[simp] theorem State.onLink_houseProgress (s : State) (k : Nat) (f : Link → Link) : (s.onLink k f).houseProgress = s.houseProgress := rfl
@[simp] theorem State.onLink_houseArmed (s : State) (k : Nat) (f : Link → Link) : (s.onLink k f).houseArmed = s.houseArmed := rfl
@[simp] theorem State.onLink_snaps (s : State) (k : Nat) (f : Link → Link) : (s.onLink k f).snaps = s.snaps := rfl
@[simp] theorem State.onLink_hbmStacks (s : State) (k : Nat) (f : Link → Link) : (s.onLink k f).hbmStacks = s.hbmStacks := rfl
@[simp] theorem State.onLink_store (s : State) (k : Nat) (f : Link → Link) : (s.onLink k f).store = s.store := rfl
@[simp] theorem State.onLink_poison (s : State) (k : Nat) (f : Link → Link) : (s.onLink k f).poison = s.poison := rfl
@[simp] theorem State.onLink_glazes (s : State) (k : Nat) (f : Link → Link) : (s.onLink k f).glazes = s.glazes := rfl
@[simp] theorem State.onLink_ports (s : State) (k : Nat) (f : Link → Link) : (s.onLink k f).ports = s.ports := rfl
@[simp] theorem State.onLink_lat (s : State) (k : Nat) (f : Link → Link) : (s.onLink k f).lat = s.lat := rfl
@[simp] theorem State.onLink_lute (s : State) (k : Nat) (f : Link → Link) : (s.onLink k f).lute = s.lute := rfl
@[simp] theorem State.onLink_chans (s : State) (k : Nat) (f : Link → Link) : (s.onLink k f).chans = s.chans := rfl
@[simp] theorem State.onLink_swaps (s : State) (k : Nat) (f : Link → Link) : (s.onLink k f).swaps = s.swaps := rfl
@[simp] theorem State.onLink_nextTag (s : State) (k : Nat) (f : Link → Link) : (s.onLink k f).nextTag = s.nextTag := rfl
@[simp] theorem State.onLink_mgmt (s : State) (k : Nat) (f : Link → Link) : (s.onLink k f).mgmt = s.mgmt := rfl
@[simp] theorem State.onLink_cones (s : State) (k : Nat) (f : Link → Link) : (s.onLink k f).cones = s.cones := rfl
@[simp] theorem State.onLink_lastMeas (s : State) (k : Nat) (f : Link → Link) : (s.onLink k f).lastMeas = s.lastMeas := rfl
@[simp] theorem State.onChan_pending (s : State) (c : Nat) (f : Chan → Chan) : (s.onChan c f).pending = s.pending := rfl
@[simp] theorem State.onChan_regs (s : State) (c : Nat) (f : Chan → Chan) : (s.onChan c f).regs = s.regs := rfl
@[simp] theorem State.onChan_freeCtr (s : State) (c : Nat) (f : Chan → Chan) : (s.onChan c f).freeCtr = s.freeCtr := rfl
@[simp] theorem State.onChan_mem (s : State) (c : Nat) (f : Chan → Chan) : (s.onChan c f).mem = s.mem := rfl
@[simp] theorem State.onChan_power (s : State) (c : Nat) (f : Chan → Chan) : (s.onChan c f).power = s.power := rfl
@[simp] theorem State.onChan_boot (s : State) (c : Nat) (f : Chan → Chan) : (s.onChan c f).boot = s.boot := rfl
@[simp] theorem State.onChan_health (s : State) (c : Nat) (f : Chan → Chan) : (s.onChan c f).health = s.health := rfl
@[simp] theorem State.onChan_fuses (s : State) (c : Nat) (f : Chan → Chan) : (s.onChan c f).fuses = s.fuses := rfl
@[simp] theorem State.onChan_plan (s : State) (c : Nat) (f : Chan → Chan) : (s.onChan c f).plan = s.plan := rfl
@[simp] theorem State.onChan_tb (s : State) (c : Nat) (f : Chan → Chan) : (s.onChan c f).tb = s.tb := rfl
@[simp] theorem State.onChan_flog (s : State) (c : Nat) (f : Chan → Chan) : (s.onChan c f).flog = s.flog := rfl
@[simp] theorem State.onChan_saggers (s : State) (c : Nat) (f : Chan → Chan) : (s.onChan c f).saggers = s.saggers := rfl
@[simp] theorem State.onChan_wheels (s : State) (c : Nat) (f : Chan → Chan) : (s.onChan c f).wheels = s.wheels := rfl
@[simp] theorem State.onChan_wares (s : State) (c : Nat) (f : Chan → Chan) : (s.onChan c f).wares = s.wares := rfl
@[simp] theorem State.onChan_ldus (s : State) (c : Nat) (f : Chan → Chan) : (s.onChan c f).ldus = s.ldus := rfl
@[simp] theorem State.onChan_ssus (s : State) (c : Nat) (f : Chan → Chan) : (s.onChan c f).ssus = s.ssus := rfl
@[simp] theorem State.onChan_tallies (s : State) (c : Nat) (f : Chan → Chan) : (s.onChan c f).tallies = s.tallies := rfl
@[simp] theorem State.onChan_tallyOut (s : State) (c : Nat) (f : Chan → Chan) : (s.onChan c f).tallyOut = s.tallyOut := rfl
@[simp] theorem State.onChan_houseProgress (s : State) (c : Nat) (f : Chan → Chan) : (s.onChan c f).houseProgress = s.houseProgress := rfl
@[simp] theorem State.onChan_houseArmed (s : State) (c : Nat) (f : Chan → Chan) : (s.onChan c f).houseArmed = s.houseArmed := rfl
@[simp] theorem State.onChan_snaps (s : State) (c : Nat) (f : Chan → Chan) : (s.onChan c f).snaps = s.snaps := rfl
@[simp] theorem State.onChan_hbmStacks (s : State) (c : Nat) (f : Chan → Chan) : (s.onChan c f).hbmStacks = s.hbmStacks := rfl
@[simp] theorem State.onChan_store (s : State) (c : Nat) (f : Chan → Chan) : (s.onChan c f).store = s.store := rfl
@[simp] theorem State.onChan_poison (s : State) (c : Nat) (f : Chan → Chan) : (s.onChan c f).poison = s.poison := rfl
@[simp] theorem State.onChan_glazes (s : State) (c : Nat) (f : Chan → Chan) : (s.onChan c f).glazes = s.glazes := rfl
@[simp] theorem State.onChan_ports (s : State) (c : Nat) (f : Chan → Chan) : (s.onChan c f).ports = s.ports := rfl
@[simp] theorem State.onChan_lat (s : State) (c : Nat) (f : Chan → Chan) : (s.onChan c f).lat = s.lat := rfl
@[simp] theorem State.onChan_lute (s : State) (c : Nat) (f : Chan → Chan) : (s.onChan c f).lute = s.lute := rfl
@[simp] theorem State.onChan_links (s : State) (c : Nat) (f : Chan → Chan) : (s.onChan c f).links = s.links := rfl
@[simp] theorem State.onChan_swaps (s : State) (c : Nat) (f : Chan → Chan) : (s.onChan c f).swaps = s.swaps := rfl
@[simp] theorem State.onChan_nextTag (s : State) (c : Nat) (f : Chan → Chan) : (s.onChan c f).nextTag = s.nextTag := rfl
@[simp] theorem State.onChan_mgmt (s : State) (c : Nat) (f : Chan → Chan) : (s.onChan c f).mgmt = s.mgmt := rfl
@[simp] theorem State.onChan_cones (s : State) (c : Nat) (f : Chan → Chan) : (s.onChan c f).cones = s.cones := rfl
@[simp] theorem State.onChan_lastMeas (s : State) (c : Nat) (f : Chan → Chan) : (s.onChan c f).lastMeas = s.lastMeas := rfl
@[simp] theorem State.onSession_pending (s : State) (k : Nat) (f : Session → Session) : (s.onSession k f).pending = s.pending := rfl
@[simp] theorem State.onSession_regs (s : State) (k : Nat) (f : Session → Session) : (s.onSession k f).regs = s.regs := rfl
@[simp] theorem State.onSession_freeCtr (s : State) (k : Nat) (f : Session → Session) : (s.onSession k f).freeCtr = s.freeCtr := rfl
@[simp] theorem State.onSession_mem (s : State) (k : Nat) (f : Session → Session) : (s.onSession k f).mem = s.mem := rfl
@[simp] theorem State.onSession_power (s : State) (k : Nat) (f : Session → Session) : (s.onSession k f).power = s.power := rfl
@[simp] theorem State.onSession_boot (s : State) (k : Nat) (f : Session → Session) : (s.onSession k f).boot = s.boot := rfl
@[simp] theorem State.onSession_health (s : State) (k : Nat) (f : Session → Session) : (s.onSession k f).health = s.health := rfl
@[simp] theorem State.onSession_fuses (s : State) (k : Nat) (f : Session → Session) : (s.onSession k f).fuses = s.fuses := rfl
@[simp] theorem State.onSession_plan (s : State) (k : Nat) (f : Session → Session) : (s.onSession k f).plan = s.plan := rfl
@[simp] theorem State.onSession_tb (s : State) (k : Nat) (f : Session → Session) : (s.onSession k f).tb = s.tb := rfl
@[simp] theorem State.onSession_flog (s : State) (k : Nat) (f : Session → Session) : (s.onSession k f).flog = s.flog := rfl
@[simp] theorem State.onSession_saggers (s : State) (k : Nat) (f : Session → Session) : (s.onSession k f).saggers = s.saggers := rfl
@[simp] theorem State.onSession_wheels (s : State) (k : Nat) (f : Session → Session) : (s.onSession k f).wheels = s.wheels := rfl
@[simp] theorem State.onSession_wares (s : State) (k : Nat) (f : Session → Session) : (s.onSession k f).wares = s.wares := rfl
@[simp] theorem State.onSession_ldus (s : State) (k : Nat) (f : Session → Session) : (s.onSession k f).ldus = s.ldus := rfl
@[simp] theorem State.onSession_ssus (s : State) (k : Nat) (f : Session → Session) : (s.onSession k f).ssus = s.ssus := rfl
@[simp] theorem State.onSession_tallies (s : State) (k : Nat) (f : Session → Session) : (s.onSession k f).tallies = s.tallies := rfl
@[simp] theorem State.onSession_tallyOut (s : State) (k : Nat) (f : Session → Session) : (s.onSession k f).tallyOut = s.tallyOut := rfl
@[simp] theorem State.onSession_houseProgress (s : State) (k : Nat) (f : Session → Session) : (s.onSession k f).houseProgress = s.houseProgress := rfl
@[simp] theorem State.onSession_houseArmed (s : State) (k : Nat) (f : Session → Session) : (s.onSession k f).houseArmed = s.houseArmed := rfl
@[simp] theorem State.onSession_snaps (s : State) (k : Nat) (f : Session → Session) : (s.onSession k f).snaps = s.snaps := rfl
@[simp] theorem State.onSession_hbmStacks (s : State) (k : Nat) (f : Session → Session) : (s.onSession k f).hbmStacks = s.hbmStacks := rfl
@[simp] theorem State.onSession_store (s : State) (k : Nat) (f : Session → Session) : (s.onSession k f).store = s.store := rfl
@[simp] theorem State.onSession_poison (s : State) (k : Nat) (f : Session → Session) : (s.onSession k f).poison = s.poison := rfl
@[simp] theorem State.onSession_glazes (s : State) (k : Nat) (f : Session → Session) : (s.onSession k f).glazes = s.glazes := rfl
@[simp] theorem State.onSession_ports (s : State) (k : Nat) (f : Session → Session) : (s.onSession k f).ports = s.ports := rfl
@[simp] theorem State.onSession_lat (s : State) (k : Nat) (f : Session → Session) : (s.onSession k f).lat = s.lat := rfl
@[simp] theorem State.onSession_lute (s : State) (k : Nat) (f : Session → Session) : (s.onSession k f).lute = s.lute := rfl
@[simp] theorem State.onSession_links (s : State) (k : Nat) (f : Session → Session) : (s.onSession k f).links = s.links := rfl
@[simp] theorem State.onSession_chans (s : State) (k : Nat) (f : Session → Session) : (s.onSession k f).chans = s.chans := rfl
@[simp] theorem State.onSession_swaps (s : State) (k : Nat) (f : Session → Session) : (s.onSession k f).swaps = s.swaps := rfl
@[simp] theorem State.onSession_nextTag (s : State) (k : Nat) (f : Session → Session) : (s.onSession k f).nextTag = s.nextTag := rfl
@[simp] theorem State.onSession_cones (s : State) (k : Nat) (f : Session → Session) : (s.onSession k f).cones = s.cones := rfl
@[simp] theorem State.onSession_lastMeas (s : State) (k : Nat) (f : Session → Session) : (s.onSession k f).lastMeas = s.lastMeas := rfl
@[simp] theorem State.onCone_pending (s : State) (d : Nat) (f : ConeDie → ConeDie) : (s.onCone d f).pending = s.pending := rfl
@[simp] theorem State.onCone_regs (s : State) (d : Nat) (f : ConeDie → ConeDie) : (s.onCone d f).regs = s.regs := rfl
@[simp] theorem State.onCone_freeCtr (s : State) (d : Nat) (f : ConeDie → ConeDie) : (s.onCone d f).freeCtr = s.freeCtr := rfl
@[simp] theorem State.onCone_mem (s : State) (d : Nat) (f : ConeDie → ConeDie) : (s.onCone d f).mem = s.mem := rfl
@[simp] theorem State.onCone_power (s : State) (d : Nat) (f : ConeDie → ConeDie) : (s.onCone d f).power = s.power := rfl
@[simp] theorem State.onCone_boot (s : State) (d : Nat) (f : ConeDie → ConeDie) : (s.onCone d f).boot = s.boot := rfl
@[simp] theorem State.onCone_health (s : State) (d : Nat) (f : ConeDie → ConeDie) : (s.onCone d f).health = s.health := rfl
@[simp] theorem State.onCone_fuses (s : State) (d : Nat) (f : ConeDie → ConeDie) : (s.onCone d f).fuses = s.fuses := rfl
@[simp] theorem State.onCone_plan (s : State) (d : Nat) (f : ConeDie → ConeDie) : (s.onCone d f).plan = s.plan := rfl
@[simp] theorem State.onCone_tb (s : State) (d : Nat) (f : ConeDie → ConeDie) : (s.onCone d f).tb = s.tb := rfl
@[simp] theorem State.onCone_flog (s : State) (d : Nat) (f : ConeDie → ConeDie) : (s.onCone d f).flog = s.flog := rfl
@[simp] theorem State.onCone_saggers (s : State) (d : Nat) (f : ConeDie → ConeDie) : (s.onCone d f).saggers = s.saggers := rfl
@[simp] theorem State.onCone_wheels (s : State) (d : Nat) (f : ConeDie → ConeDie) : (s.onCone d f).wheels = s.wheels := rfl
@[simp] theorem State.onCone_wares (s : State) (d : Nat) (f : ConeDie → ConeDie) : (s.onCone d f).wares = s.wares := rfl
@[simp] theorem State.onCone_ldus (s : State) (d : Nat) (f : ConeDie → ConeDie) : (s.onCone d f).ldus = s.ldus := rfl
@[simp] theorem State.onCone_ssus (s : State) (d : Nat) (f : ConeDie → ConeDie) : (s.onCone d f).ssus = s.ssus := rfl
@[simp] theorem State.onCone_tallies (s : State) (d : Nat) (f : ConeDie → ConeDie) : (s.onCone d f).tallies = s.tallies := rfl
@[simp] theorem State.onCone_tallyOut (s : State) (d : Nat) (f : ConeDie → ConeDie) : (s.onCone d f).tallyOut = s.tallyOut := rfl
@[simp] theorem State.onCone_houseProgress (s : State) (d : Nat) (f : ConeDie → ConeDie) : (s.onCone d f).houseProgress = s.houseProgress := rfl
@[simp] theorem State.onCone_houseArmed (s : State) (d : Nat) (f : ConeDie → ConeDie) : (s.onCone d f).houseArmed = s.houseArmed := rfl
@[simp] theorem State.onCone_snaps (s : State) (d : Nat) (f : ConeDie → ConeDie) : (s.onCone d f).snaps = s.snaps := rfl
@[simp] theorem State.onCone_hbmStacks (s : State) (d : Nat) (f : ConeDie → ConeDie) : (s.onCone d f).hbmStacks = s.hbmStacks := rfl
@[simp] theorem State.onCone_store (s : State) (d : Nat) (f : ConeDie → ConeDie) : (s.onCone d f).store = s.store := rfl
@[simp] theorem State.onCone_poison (s : State) (d : Nat) (f : ConeDie → ConeDie) : (s.onCone d f).poison = s.poison := rfl
@[simp] theorem State.onCone_glazes (s : State) (d : Nat) (f : ConeDie → ConeDie) : (s.onCone d f).glazes = s.glazes := rfl
@[simp] theorem State.onCone_ports (s : State) (d : Nat) (f : ConeDie → ConeDie) : (s.onCone d f).ports = s.ports := rfl
@[simp] theorem State.onCone_lat (s : State) (d : Nat) (f : ConeDie → ConeDie) : (s.onCone d f).lat = s.lat := rfl
@[simp] theorem State.onCone_lute (s : State) (d : Nat) (f : ConeDie → ConeDie) : (s.onCone d f).lute = s.lute := rfl
@[simp] theorem State.onCone_links (s : State) (d : Nat) (f : ConeDie → ConeDie) : (s.onCone d f).links = s.links := rfl
@[simp] theorem State.onCone_chans (s : State) (d : Nat) (f : ConeDie → ConeDie) : (s.onCone d f).chans = s.chans := rfl
@[simp] theorem State.onCone_swaps (s : State) (d : Nat) (f : ConeDie → ConeDie) : (s.onCone d f).swaps = s.swaps := rfl
@[simp] theorem State.onCone_nextTag (s : State) (d : Nat) (f : ConeDie → ConeDie) : (s.onCone d f).nextTag = s.nextTag := rfl
@[simp] theorem State.onCone_mgmt (s : State) (d : Nat) (f : ConeDie → ConeDie) : (s.onCone d f).mgmt = s.mgmt := rfl
@[simp] theorem State.onCone_lastMeas (s : State) (d : Nat) (f : ConeDie → ConeDie) : (s.onCone d f).lastMeas = s.lastMeas := rfl
@[simp] theorem State.onPower_pending (s : State) (f : Power → Power) : (s.onPower f).pending = s.pending := rfl
@[simp] theorem State.onPower_regs (s : State) (f : Power → Power) : (s.onPower f).regs = s.regs := rfl
@[simp] theorem State.onPower_freeCtr (s : State) (f : Power → Power) : (s.onPower f).freeCtr = s.freeCtr := rfl
@[simp] theorem State.onPower_mem (s : State) (f : Power → Power) : (s.onPower f).mem = s.mem := rfl
@[simp] theorem State.onPower_boot (s : State) (f : Power → Power) : (s.onPower f).boot = s.boot := rfl
@[simp] theorem State.onPower_health (s : State) (f : Power → Power) : (s.onPower f).health = s.health := rfl
@[simp] theorem State.onPower_fuses (s : State) (f : Power → Power) : (s.onPower f).fuses = s.fuses := rfl
@[simp] theorem State.onPower_plan (s : State) (f : Power → Power) : (s.onPower f).plan = s.plan := rfl
@[simp] theorem State.onPower_tb (s : State) (f : Power → Power) : (s.onPower f).tb = s.tb := rfl
@[simp] theorem State.onPower_flog (s : State) (f : Power → Power) : (s.onPower f).flog = s.flog := rfl
@[simp] theorem State.onPower_saggers (s : State) (f : Power → Power) : (s.onPower f).saggers = s.saggers := rfl
@[simp] theorem State.onPower_wheels (s : State) (f : Power → Power) : (s.onPower f).wheels = s.wheels := rfl
@[simp] theorem State.onPower_wares (s : State) (f : Power → Power) : (s.onPower f).wares = s.wares := rfl
@[simp] theorem State.onPower_ldus (s : State) (f : Power → Power) : (s.onPower f).ldus = s.ldus := rfl
@[simp] theorem State.onPower_ssus (s : State) (f : Power → Power) : (s.onPower f).ssus = s.ssus := rfl
@[simp] theorem State.onPower_tallies (s : State) (f : Power → Power) : (s.onPower f).tallies = s.tallies := rfl
@[simp] theorem State.onPower_tallyOut (s : State) (f : Power → Power) : (s.onPower f).tallyOut = s.tallyOut := rfl
@[simp] theorem State.onPower_houseProgress (s : State) (f : Power → Power) : (s.onPower f).houseProgress = s.houseProgress := rfl
@[simp] theorem State.onPower_houseArmed (s : State) (f : Power → Power) : (s.onPower f).houseArmed = s.houseArmed := rfl
@[simp] theorem State.onPower_snaps (s : State) (f : Power → Power) : (s.onPower f).snaps = s.snaps := rfl
@[simp] theorem State.onPower_hbmStacks (s : State) (f : Power → Power) : (s.onPower f).hbmStacks = s.hbmStacks := rfl
@[simp] theorem State.onPower_store (s : State) (f : Power → Power) : (s.onPower f).store = s.store := rfl
@[simp] theorem State.onPower_poison (s : State) (f : Power → Power) : (s.onPower f).poison = s.poison := rfl
@[simp] theorem State.onPower_glazes (s : State) (f : Power → Power) : (s.onPower f).glazes = s.glazes := rfl
@[simp] theorem State.onPower_ports (s : State) (f : Power → Power) : (s.onPower f).ports = s.ports := rfl
@[simp] theorem State.onPower_lat (s : State) (f : Power → Power) : (s.onPower f).lat = s.lat := rfl
@[simp] theorem State.onPower_lute (s : State) (f : Power → Power) : (s.onPower f).lute = s.lute := rfl
@[simp] theorem State.onPower_links (s : State) (f : Power → Power) : (s.onPower f).links = s.links := rfl
@[simp] theorem State.onPower_chans (s : State) (f : Power → Power) : (s.onPower f).chans = s.chans := rfl
@[simp] theorem State.onPower_swaps (s : State) (f : Power → Power) : (s.onPower f).swaps = s.swaps := rfl
@[simp] theorem State.onPower_nextTag (s : State) (f : Power → Power) : (s.onPower f).nextTag = s.nextTag := rfl
@[simp] theorem State.onPower_mgmt (s : State) (f : Power → Power) : (s.onPower f).mgmt = s.mgmt := rfl
@[simp] theorem State.onPower_cones (s : State) (f : Power → Power) : (s.onPower f).cones = s.cones := rfl
@[simp] theorem State.onPower_lastMeas (s : State) (f : Power → Power) : (s.onPower f).lastMeas = s.lastMeas := rfl
@[simp] theorem State.onBoot_pending (s : State) (f : Boot → Boot) : (s.onBoot f).pending = s.pending := rfl
@[simp] theorem State.onBoot_regs (s : State) (f : Boot → Boot) : (s.onBoot f).regs = s.regs := rfl
@[simp] theorem State.onBoot_freeCtr (s : State) (f : Boot → Boot) : (s.onBoot f).freeCtr = s.freeCtr := rfl
@[simp] theorem State.onBoot_mem (s : State) (f : Boot → Boot) : (s.onBoot f).mem = s.mem := rfl
@[simp] theorem State.onBoot_power (s : State) (f : Boot → Boot) : (s.onBoot f).power = s.power := rfl
@[simp] theorem State.onBoot_health (s : State) (f : Boot → Boot) : (s.onBoot f).health = s.health := rfl
@[simp] theorem State.onBoot_fuses (s : State) (f : Boot → Boot) : (s.onBoot f).fuses = s.fuses := rfl
@[simp] theorem State.onBoot_plan (s : State) (f : Boot → Boot) : (s.onBoot f).plan = s.plan := rfl
@[simp] theorem State.onBoot_tb (s : State) (f : Boot → Boot) : (s.onBoot f).tb = s.tb := rfl
@[simp] theorem State.onBoot_flog (s : State) (f : Boot → Boot) : (s.onBoot f).flog = s.flog := rfl
@[simp] theorem State.onBoot_saggers (s : State) (f : Boot → Boot) : (s.onBoot f).saggers = s.saggers := rfl
@[simp] theorem State.onBoot_wheels (s : State) (f : Boot → Boot) : (s.onBoot f).wheels = s.wheels := rfl
@[simp] theorem State.onBoot_wares (s : State) (f : Boot → Boot) : (s.onBoot f).wares = s.wares := rfl
@[simp] theorem State.onBoot_ldus (s : State) (f : Boot → Boot) : (s.onBoot f).ldus = s.ldus := rfl
@[simp] theorem State.onBoot_ssus (s : State) (f : Boot → Boot) : (s.onBoot f).ssus = s.ssus := rfl
@[simp] theorem State.onBoot_tallies (s : State) (f : Boot → Boot) : (s.onBoot f).tallies = s.tallies := rfl
@[simp] theorem State.onBoot_tallyOut (s : State) (f : Boot → Boot) : (s.onBoot f).tallyOut = s.tallyOut := rfl
@[simp] theorem State.onBoot_houseProgress (s : State) (f : Boot → Boot) : (s.onBoot f).houseProgress = s.houseProgress := rfl
@[simp] theorem State.onBoot_houseArmed (s : State) (f : Boot → Boot) : (s.onBoot f).houseArmed = s.houseArmed := rfl
@[simp] theorem State.onBoot_snaps (s : State) (f : Boot → Boot) : (s.onBoot f).snaps = s.snaps := rfl
@[simp] theorem State.onBoot_hbmStacks (s : State) (f : Boot → Boot) : (s.onBoot f).hbmStacks = s.hbmStacks := rfl
@[simp] theorem State.onBoot_store (s : State) (f : Boot → Boot) : (s.onBoot f).store = s.store := rfl
@[simp] theorem State.onBoot_poison (s : State) (f : Boot → Boot) : (s.onBoot f).poison = s.poison := rfl
@[simp] theorem State.onBoot_glazes (s : State) (f : Boot → Boot) : (s.onBoot f).glazes = s.glazes := rfl
@[simp] theorem State.onBoot_ports (s : State) (f : Boot → Boot) : (s.onBoot f).ports = s.ports := rfl
@[simp] theorem State.onBoot_lat (s : State) (f : Boot → Boot) : (s.onBoot f).lat = s.lat := rfl
@[simp] theorem State.onBoot_lute (s : State) (f : Boot → Boot) : (s.onBoot f).lute = s.lute := rfl
@[simp] theorem State.onBoot_links (s : State) (f : Boot → Boot) : (s.onBoot f).links = s.links := rfl
@[simp] theorem State.onBoot_chans (s : State) (f : Boot → Boot) : (s.onBoot f).chans = s.chans := rfl
@[simp] theorem State.onBoot_swaps (s : State) (f : Boot → Boot) : (s.onBoot f).swaps = s.swaps := rfl
@[simp] theorem State.onBoot_nextTag (s : State) (f : Boot → Boot) : (s.onBoot f).nextTag = s.nextTag := rfl
@[simp] theorem State.onBoot_mgmt (s : State) (f : Boot → Boot) : (s.onBoot f).mgmt = s.mgmt := rfl
@[simp] theorem State.onBoot_cones (s : State) (f : Boot → Boot) : (s.onBoot f).cones = s.cones := rfl
@[simp] theorem State.onBoot_lastMeas (s : State) (f : Boot → Boot) : (s.onBoot f).lastMeas = s.lastMeas := rfl
@[simp] theorem State.onHealth_pending (s : State) (f : Health → Health) : (s.onHealth f).pending = s.pending := rfl
@[simp] theorem State.onHealth_regs (s : State) (f : Health → Health) : (s.onHealth f).regs = s.regs := rfl
@[simp] theorem State.onHealth_freeCtr (s : State) (f : Health → Health) : (s.onHealth f).freeCtr = s.freeCtr := rfl
@[simp] theorem State.onHealth_mem (s : State) (f : Health → Health) : (s.onHealth f).mem = s.mem := rfl
@[simp] theorem State.onHealth_power (s : State) (f : Health → Health) : (s.onHealth f).power = s.power := rfl
@[simp] theorem State.onHealth_boot (s : State) (f : Health → Health) : (s.onHealth f).boot = s.boot := rfl
@[simp] theorem State.onHealth_fuses (s : State) (f : Health → Health) : (s.onHealth f).fuses = s.fuses := rfl
@[simp] theorem State.onHealth_plan (s : State) (f : Health → Health) : (s.onHealth f).plan = s.plan := rfl
@[simp] theorem State.onHealth_tb (s : State) (f : Health → Health) : (s.onHealth f).tb = s.tb := rfl
@[simp] theorem State.onHealth_flog (s : State) (f : Health → Health) : (s.onHealth f).flog = s.flog := rfl
@[simp] theorem State.onHealth_saggers (s : State) (f : Health → Health) : (s.onHealth f).saggers = s.saggers := rfl
@[simp] theorem State.onHealth_wheels (s : State) (f : Health → Health) : (s.onHealth f).wheels = s.wheels := rfl
@[simp] theorem State.onHealth_wares (s : State) (f : Health → Health) : (s.onHealth f).wares = s.wares := rfl
@[simp] theorem State.onHealth_ldus (s : State) (f : Health → Health) : (s.onHealth f).ldus = s.ldus := rfl
@[simp] theorem State.onHealth_ssus (s : State) (f : Health → Health) : (s.onHealth f).ssus = s.ssus := rfl
@[simp] theorem State.onHealth_tallies (s : State) (f : Health → Health) : (s.onHealth f).tallies = s.tallies := rfl
@[simp] theorem State.onHealth_tallyOut (s : State) (f : Health → Health) : (s.onHealth f).tallyOut = s.tallyOut := rfl
@[simp] theorem State.onHealth_houseProgress (s : State) (f : Health → Health) : (s.onHealth f).houseProgress = s.houseProgress := rfl
@[simp] theorem State.onHealth_houseArmed (s : State) (f : Health → Health) : (s.onHealth f).houseArmed = s.houseArmed := rfl
@[simp] theorem State.onHealth_snaps (s : State) (f : Health → Health) : (s.onHealth f).snaps = s.snaps := rfl
@[simp] theorem State.onHealth_hbmStacks (s : State) (f : Health → Health) : (s.onHealth f).hbmStacks = s.hbmStacks := rfl
@[simp] theorem State.onHealth_store (s : State) (f : Health → Health) : (s.onHealth f).store = s.store := rfl
@[simp] theorem State.onHealth_poison (s : State) (f : Health → Health) : (s.onHealth f).poison = s.poison := rfl
@[simp] theorem State.onHealth_glazes (s : State) (f : Health → Health) : (s.onHealth f).glazes = s.glazes := rfl
@[simp] theorem State.onHealth_ports (s : State) (f : Health → Health) : (s.onHealth f).ports = s.ports := rfl
@[simp] theorem State.onHealth_lat (s : State) (f : Health → Health) : (s.onHealth f).lat = s.lat := rfl
@[simp] theorem State.onHealth_lute (s : State) (f : Health → Health) : (s.onHealth f).lute = s.lute := rfl
@[simp] theorem State.onHealth_links (s : State) (f : Health → Health) : (s.onHealth f).links = s.links := rfl
@[simp] theorem State.onHealth_chans (s : State) (f : Health → Health) : (s.onHealth f).chans = s.chans := rfl
@[simp] theorem State.onHealth_swaps (s : State) (f : Health → Health) : (s.onHealth f).swaps = s.swaps := rfl
@[simp] theorem State.onHealth_nextTag (s : State) (f : Health → Health) : (s.onHealth f).nextTag = s.nextTag := rfl
@[simp] theorem State.onHealth_mgmt (s : State) (f : Health → Health) : (s.onHealth f).mgmt = s.mgmt := rfl
@[simp] theorem State.onHealth_cones (s : State) (f : Health → Health) : (s.onHealth f).cones = s.cones := rfl
@[simp] theorem State.onHealth_lastMeas (s : State) (f : Health → Health) : (s.onHealth f).lastMeas = s.lastMeas := rfl
@[simp] theorem State.onFlog_pending (s : State) (f : FaultLog → FaultLog) : (s.onFlog f).pending = s.pending := rfl
@[simp] theorem State.onFlog_regs (s : State) (f : FaultLog → FaultLog) : (s.onFlog f).regs = s.regs := rfl
@[simp] theorem State.onFlog_freeCtr (s : State) (f : FaultLog → FaultLog) : (s.onFlog f).freeCtr = s.freeCtr := rfl
@[simp] theorem State.onFlog_mem (s : State) (f : FaultLog → FaultLog) : (s.onFlog f).mem = s.mem := rfl
@[simp] theorem State.onFlog_power (s : State) (f : FaultLog → FaultLog) : (s.onFlog f).power = s.power := rfl
@[simp] theorem State.onFlog_boot (s : State) (f : FaultLog → FaultLog) : (s.onFlog f).boot = s.boot := rfl
@[simp] theorem State.onFlog_health (s : State) (f : FaultLog → FaultLog) : (s.onFlog f).health = s.health := rfl
@[simp] theorem State.onFlog_fuses (s : State) (f : FaultLog → FaultLog) : (s.onFlog f).fuses = s.fuses := rfl
@[simp] theorem State.onFlog_plan (s : State) (f : FaultLog → FaultLog) : (s.onFlog f).plan = s.plan := rfl
@[simp] theorem State.onFlog_tb (s : State) (f : FaultLog → FaultLog) : (s.onFlog f).tb = s.tb := rfl
@[simp] theorem State.onFlog_saggers (s : State) (f : FaultLog → FaultLog) : (s.onFlog f).saggers = s.saggers := rfl
@[simp] theorem State.onFlog_wheels (s : State) (f : FaultLog → FaultLog) : (s.onFlog f).wheels = s.wheels := rfl
@[simp] theorem State.onFlog_wares (s : State) (f : FaultLog → FaultLog) : (s.onFlog f).wares = s.wares := rfl
@[simp] theorem State.onFlog_ldus (s : State) (f : FaultLog → FaultLog) : (s.onFlog f).ldus = s.ldus := rfl
@[simp] theorem State.onFlog_ssus (s : State) (f : FaultLog → FaultLog) : (s.onFlog f).ssus = s.ssus := rfl
@[simp] theorem State.onFlog_tallies (s : State) (f : FaultLog → FaultLog) : (s.onFlog f).tallies = s.tallies := rfl
@[simp] theorem State.onFlog_tallyOut (s : State) (f : FaultLog → FaultLog) : (s.onFlog f).tallyOut = s.tallyOut := rfl
@[simp] theorem State.onFlog_houseProgress (s : State) (f : FaultLog → FaultLog) : (s.onFlog f).houseProgress = s.houseProgress := rfl
@[simp] theorem State.onFlog_houseArmed (s : State) (f : FaultLog → FaultLog) : (s.onFlog f).houseArmed = s.houseArmed := rfl
@[simp] theorem State.onFlog_snaps (s : State) (f : FaultLog → FaultLog) : (s.onFlog f).snaps = s.snaps := rfl
@[simp] theorem State.onFlog_hbmStacks (s : State) (f : FaultLog → FaultLog) : (s.onFlog f).hbmStacks = s.hbmStacks := rfl
@[simp] theorem State.onFlog_store (s : State) (f : FaultLog → FaultLog) : (s.onFlog f).store = s.store := rfl
@[simp] theorem State.onFlog_poison (s : State) (f : FaultLog → FaultLog) : (s.onFlog f).poison = s.poison := rfl
@[simp] theorem State.onFlog_glazes (s : State) (f : FaultLog → FaultLog) : (s.onFlog f).glazes = s.glazes := rfl
@[simp] theorem State.onFlog_ports (s : State) (f : FaultLog → FaultLog) : (s.onFlog f).ports = s.ports := rfl
@[simp] theorem State.onFlog_lat (s : State) (f : FaultLog → FaultLog) : (s.onFlog f).lat = s.lat := rfl
@[simp] theorem State.onFlog_lute (s : State) (f : FaultLog → FaultLog) : (s.onFlog f).lute = s.lute := rfl
@[simp] theorem State.onFlog_links (s : State) (f : FaultLog → FaultLog) : (s.onFlog f).links = s.links := rfl
@[simp] theorem State.onFlog_chans (s : State) (f : FaultLog → FaultLog) : (s.onFlog f).chans = s.chans := rfl
@[simp] theorem State.onFlog_swaps (s : State) (f : FaultLog → FaultLog) : (s.onFlog f).swaps = s.swaps := rfl
@[simp] theorem State.onFlog_nextTag (s : State) (f : FaultLog → FaultLog) : (s.onFlog f).nextTag = s.nextTag := rfl
@[simp] theorem State.onFlog_mgmt (s : State) (f : FaultLog → FaultLog) : (s.onFlog f).mgmt = s.mgmt := rfl
@[simp] theorem State.onFlog_cones (s : State) (f : FaultLog → FaultLog) : (s.onFlog f).cones = s.cones := rfl
@[simp] theorem State.onFlog_lastMeas (s : State) (f : FaultLog → FaultLog) : (s.onFlog f).lastMeas = s.lastMeas := rfl
@[simp] theorem State.onTb_pending (s : State) (f : Timebase → Timebase) : (s.onTb f).pending = s.pending := rfl
@[simp] theorem State.onTb_regs (s : State) (f : Timebase → Timebase) : (s.onTb f).regs = s.regs := rfl
@[simp] theorem State.onTb_freeCtr (s : State) (f : Timebase → Timebase) : (s.onTb f).freeCtr = s.freeCtr := rfl
@[simp] theorem State.onTb_mem (s : State) (f : Timebase → Timebase) : (s.onTb f).mem = s.mem := rfl
@[simp] theorem State.onTb_power (s : State) (f : Timebase → Timebase) : (s.onTb f).power = s.power := rfl
@[simp] theorem State.onTb_boot (s : State) (f : Timebase → Timebase) : (s.onTb f).boot = s.boot := rfl
@[simp] theorem State.onTb_health (s : State) (f : Timebase → Timebase) : (s.onTb f).health = s.health := rfl
@[simp] theorem State.onTb_fuses (s : State) (f : Timebase → Timebase) : (s.onTb f).fuses = s.fuses := rfl
@[simp] theorem State.onTb_plan (s : State) (f : Timebase → Timebase) : (s.onTb f).plan = s.plan := rfl
@[simp] theorem State.onTb_flog (s : State) (f : Timebase → Timebase) : (s.onTb f).flog = s.flog := rfl
@[simp] theorem State.onTb_saggers (s : State) (f : Timebase → Timebase) : (s.onTb f).saggers = s.saggers := rfl
@[simp] theorem State.onTb_wheels (s : State) (f : Timebase → Timebase) : (s.onTb f).wheels = s.wheels := rfl
@[simp] theorem State.onTb_wares (s : State) (f : Timebase → Timebase) : (s.onTb f).wares = s.wares := rfl
@[simp] theorem State.onTb_ldus (s : State) (f : Timebase → Timebase) : (s.onTb f).ldus = s.ldus := rfl
@[simp] theorem State.onTb_ssus (s : State) (f : Timebase → Timebase) : (s.onTb f).ssus = s.ssus := rfl
@[simp] theorem State.onTb_tallies (s : State) (f : Timebase → Timebase) : (s.onTb f).tallies = s.tallies := rfl
@[simp] theorem State.onTb_tallyOut (s : State) (f : Timebase → Timebase) : (s.onTb f).tallyOut = s.tallyOut := rfl
@[simp] theorem State.onTb_houseProgress (s : State) (f : Timebase → Timebase) : (s.onTb f).houseProgress = s.houseProgress := rfl
@[simp] theorem State.onTb_houseArmed (s : State) (f : Timebase → Timebase) : (s.onTb f).houseArmed = s.houseArmed := rfl
@[simp] theorem State.onTb_snaps (s : State) (f : Timebase → Timebase) : (s.onTb f).snaps = s.snaps := rfl
@[simp] theorem State.onTb_hbmStacks (s : State) (f : Timebase → Timebase) : (s.onTb f).hbmStacks = s.hbmStacks := rfl
@[simp] theorem State.onTb_store (s : State) (f : Timebase → Timebase) : (s.onTb f).store = s.store := rfl
@[simp] theorem State.onTb_poison (s : State) (f : Timebase → Timebase) : (s.onTb f).poison = s.poison := rfl
@[simp] theorem State.onTb_glazes (s : State) (f : Timebase → Timebase) : (s.onTb f).glazes = s.glazes := rfl
@[simp] theorem State.onTb_ports (s : State) (f : Timebase → Timebase) : (s.onTb f).ports = s.ports := rfl
@[simp] theorem State.onTb_lat (s : State) (f : Timebase → Timebase) : (s.onTb f).lat = s.lat := rfl
@[simp] theorem State.onTb_lute (s : State) (f : Timebase → Timebase) : (s.onTb f).lute = s.lute := rfl
@[simp] theorem State.onTb_links (s : State) (f : Timebase → Timebase) : (s.onTb f).links = s.links := rfl
@[simp] theorem State.onTb_chans (s : State) (f : Timebase → Timebase) : (s.onTb f).chans = s.chans := rfl
@[simp] theorem State.onTb_swaps (s : State) (f : Timebase → Timebase) : (s.onTb f).swaps = s.swaps := rfl
@[simp] theorem State.onTb_nextTag (s : State) (f : Timebase → Timebase) : (s.onTb f).nextTag = s.nextTag := rfl
@[simp] theorem State.onTb_mgmt (s : State) (f : Timebase → Timebase) : (s.onTb f).mgmt = s.mgmt := rfl
@[simp] theorem State.onTb_cones (s : State) (f : Timebase → Timebase) : (s.onTb f).cones = s.cones := rfl
@[simp] theorem State.onTb_lastMeas (s : State) (f : Timebase → Timebase) : (s.onTb f).lastMeas = s.lastMeas := rfl
@[simp] theorem State.onLat_pending (s : State) (f : Lattice → Lattice) : (s.onLat f).pending = s.pending := rfl
@[simp] theorem State.onLat_regs (s : State) (f : Lattice → Lattice) : (s.onLat f).regs = s.regs := rfl
@[simp] theorem State.onLat_freeCtr (s : State) (f : Lattice → Lattice) : (s.onLat f).freeCtr = s.freeCtr := rfl
@[simp] theorem State.onLat_mem (s : State) (f : Lattice → Lattice) : (s.onLat f).mem = s.mem := rfl
@[simp] theorem State.onLat_power (s : State) (f : Lattice → Lattice) : (s.onLat f).power = s.power := rfl
@[simp] theorem State.onLat_boot (s : State) (f : Lattice → Lattice) : (s.onLat f).boot = s.boot := rfl
@[simp] theorem State.onLat_health (s : State) (f : Lattice → Lattice) : (s.onLat f).health = s.health := rfl
@[simp] theorem State.onLat_fuses (s : State) (f : Lattice → Lattice) : (s.onLat f).fuses = s.fuses := rfl
@[simp] theorem State.onLat_plan (s : State) (f : Lattice → Lattice) : (s.onLat f).plan = s.plan := rfl
@[simp] theorem State.onLat_tb (s : State) (f : Lattice → Lattice) : (s.onLat f).tb = s.tb := rfl
@[simp] theorem State.onLat_flog (s : State) (f : Lattice → Lattice) : (s.onLat f).flog = s.flog := rfl
@[simp] theorem State.onLat_saggers (s : State) (f : Lattice → Lattice) : (s.onLat f).saggers = s.saggers := rfl
@[simp] theorem State.onLat_wheels (s : State) (f : Lattice → Lattice) : (s.onLat f).wheels = s.wheels := rfl
@[simp] theorem State.onLat_wares (s : State) (f : Lattice → Lattice) : (s.onLat f).wares = s.wares := rfl
@[simp] theorem State.onLat_ldus (s : State) (f : Lattice → Lattice) : (s.onLat f).ldus = s.ldus := rfl
@[simp] theorem State.onLat_ssus (s : State) (f : Lattice → Lattice) : (s.onLat f).ssus = s.ssus := rfl
@[simp] theorem State.onLat_tallies (s : State) (f : Lattice → Lattice) : (s.onLat f).tallies = s.tallies := rfl
@[simp] theorem State.onLat_tallyOut (s : State) (f : Lattice → Lattice) : (s.onLat f).tallyOut = s.tallyOut := rfl
@[simp] theorem State.onLat_houseProgress (s : State) (f : Lattice → Lattice) : (s.onLat f).houseProgress = s.houseProgress := rfl
@[simp] theorem State.onLat_houseArmed (s : State) (f : Lattice → Lattice) : (s.onLat f).houseArmed = s.houseArmed := rfl
@[simp] theorem State.onLat_snaps (s : State) (f : Lattice → Lattice) : (s.onLat f).snaps = s.snaps := rfl
@[simp] theorem State.onLat_hbmStacks (s : State) (f : Lattice → Lattice) : (s.onLat f).hbmStacks = s.hbmStacks := rfl
@[simp] theorem State.onLat_store (s : State) (f : Lattice → Lattice) : (s.onLat f).store = s.store := rfl
@[simp] theorem State.onLat_poison (s : State) (f : Lattice → Lattice) : (s.onLat f).poison = s.poison := rfl
@[simp] theorem State.onLat_glazes (s : State) (f : Lattice → Lattice) : (s.onLat f).glazes = s.glazes := rfl
@[simp] theorem State.onLat_ports (s : State) (f : Lattice → Lattice) : (s.onLat f).ports = s.ports := rfl
@[simp] theorem State.onLat_lute (s : State) (f : Lattice → Lattice) : (s.onLat f).lute = s.lute := rfl
@[simp] theorem State.onLat_links (s : State) (f : Lattice → Lattice) : (s.onLat f).links = s.links := rfl
@[simp] theorem State.onLat_chans (s : State) (f : Lattice → Lattice) : (s.onLat f).chans = s.chans := rfl
@[simp] theorem State.onLat_swaps (s : State) (f : Lattice → Lattice) : (s.onLat f).swaps = s.swaps := rfl
@[simp] theorem State.onLat_nextTag (s : State) (f : Lattice → Lattice) : (s.onLat f).nextTag = s.nextTag := rfl
@[simp] theorem State.onLat_mgmt (s : State) (f : Lattice → Lattice) : (s.onLat f).mgmt = s.mgmt := rfl
@[simp] theorem State.onLat_cones (s : State) (f : Lattice → Lattice) : (s.onLat f).cones = s.cones := rfl
@[simp] theorem State.onLat_lastMeas (s : State) (f : Lattice → Lattice) : (s.onLat f).lastMeas = s.lastMeas := rfl
@[simp] theorem State.onLute_pending (s : State) (f : Lute → Lute) : (s.onLute f).pending = s.pending := rfl
@[simp] theorem State.onLute_regs (s : State) (f : Lute → Lute) : (s.onLute f).regs = s.regs := rfl
@[simp] theorem State.onLute_freeCtr (s : State) (f : Lute → Lute) : (s.onLute f).freeCtr = s.freeCtr := rfl
@[simp] theorem State.onLute_mem (s : State) (f : Lute → Lute) : (s.onLute f).mem = s.mem := rfl
@[simp] theorem State.onLute_power (s : State) (f : Lute → Lute) : (s.onLute f).power = s.power := rfl
@[simp] theorem State.onLute_boot (s : State) (f : Lute → Lute) : (s.onLute f).boot = s.boot := rfl
@[simp] theorem State.onLute_health (s : State) (f : Lute → Lute) : (s.onLute f).health = s.health := rfl
@[simp] theorem State.onLute_fuses (s : State) (f : Lute → Lute) : (s.onLute f).fuses = s.fuses := rfl
@[simp] theorem State.onLute_plan (s : State) (f : Lute → Lute) : (s.onLute f).plan = s.plan := rfl
@[simp] theorem State.onLute_tb (s : State) (f : Lute → Lute) : (s.onLute f).tb = s.tb := rfl
@[simp] theorem State.onLute_flog (s : State) (f : Lute → Lute) : (s.onLute f).flog = s.flog := rfl
@[simp] theorem State.onLute_saggers (s : State) (f : Lute → Lute) : (s.onLute f).saggers = s.saggers := rfl
@[simp] theorem State.onLute_wheels (s : State) (f : Lute → Lute) : (s.onLute f).wheels = s.wheels := rfl
@[simp] theorem State.onLute_wares (s : State) (f : Lute → Lute) : (s.onLute f).wares = s.wares := rfl
@[simp] theorem State.onLute_ldus (s : State) (f : Lute → Lute) : (s.onLute f).ldus = s.ldus := rfl
@[simp] theorem State.onLute_ssus (s : State) (f : Lute → Lute) : (s.onLute f).ssus = s.ssus := rfl
@[simp] theorem State.onLute_tallies (s : State) (f : Lute → Lute) : (s.onLute f).tallies = s.tallies := rfl
@[simp] theorem State.onLute_tallyOut (s : State) (f : Lute → Lute) : (s.onLute f).tallyOut = s.tallyOut := rfl
@[simp] theorem State.onLute_houseProgress (s : State) (f : Lute → Lute) : (s.onLute f).houseProgress = s.houseProgress := rfl
@[simp] theorem State.onLute_houseArmed (s : State) (f : Lute → Lute) : (s.onLute f).houseArmed = s.houseArmed := rfl
@[simp] theorem State.onLute_snaps (s : State) (f : Lute → Lute) : (s.onLute f).snaps = s.snaps := rfl
@[simp] theorem State.onLute_hbmStacks (s : State) (f : Lute → Lute) : (s.onLute f).hbmStacks = s.hbmStacks := rfl
@[simp] theorem State.onLute_store (s : State) (f : Lute → Lute) : (s.onLute f).store = s.store := rfl
@[simp] theorem State.onLute_poison (s : State) (f : Lute → Lute) : (s.onLute f).poison = s.poison := rfl
@[simp] theorem State.onLute_glazes (s : State) (f : Lute → Lute) : (s.onLute f).glazes = s.glazes := rfl
@[simp] theorem State.onLute_ports (s : State) (f : Lute → Lute) : (s.onLute f).ports = s.ports := rfl
@[simp] theorem State.onLute_lat (s : State) (f : Lute → Lute) : (s.onLute f).lat = s.lat := rfl
@[simp] theorem State.onLute_links (s : State) (f : Lute → Lute) : (s.onLute f).links = s.links := rfl
@[simp] theorem State.onLute_chans (s : State) (f : Lute → Lute) : (s.onLute f).chans = s.chans := rfl
@[simp] theorem State.onLute_swaps (s : State) (f : Lute → Lute) : (s.onLute f).swaps = s.swaps := rfl
@[simp] theorem State.onLute_nextTag (s : State) (f : Lute → Lute) : (s.onLute f).nextTag = s.nextTag := rfl
@[simp] theorem State.onLute_mgmt (s : State) (f : Lute → Lute) : (s.onLute f).mgmt = s.mgmt := rfl
@[simp] theorem State.onLute_cones (s : State) (f : Lute → Lute) : (s.onLute f).cones = s.cones := rfl
@[simp] theorem State.onLute_lastMeas (s : State) (f : Lute → Lute) : (s.onLute f).lastMeas = s.lastMeas := rfl
@[simp] theorem State.onMgmt_pending (s : State) (f : Mgmt → Mgmt) : (s.onMgmt f).pending = s.pending := rfl
@[simp] theorem State.onMgmt_regs (s : State) (f : Mgmt → Mgmt) : (s.onMgmt f).regs = s.regs := rfl
@[simp] theorem State.onMgmt_freeCtr (s : State) (f : Mgmt → Mgmt) : (s.onMgmt f).freeCtr = s.freeCtr := rfl
@[simp] theorem State.onMgmt_mem (s : State) (f : Mgmt → Mgmt) : (s.onMgmt f).mem = s.mem := rfl
@[simp] theorem State.onMgmt_power (s : State) (f : Mgmt → Mgmt) : (s.onMgmt f).power = s.power := rfl
@[simp] theorem State.onMgmt_boot (s : State) (f : Mgmt → Mgmt) : (s.onMgmt f).boot = s.boot := rfl
@[simp] theorem State.onMgmt_health (s : State) (f : Mgmt → Mgmt) : (s.onMgmt f).health = s.health := rfl
@[simp] theorem State.onMgmt_fuses (s : State) (f : Mgmt → Mgmt) : (s.onMgmt f).fuses = s.fuses := rfl
@[simp] theorem State.onMgmt_plan (s : State) (f : Mgmt → Mgmt) : (s.onMgmt f).plan = s.plan := rfl
@[simp] theorem State.onMgmt_tb (s : State) (f : Mgmt → Mgmt) : (s.onMgmt f).tb = s.tb := rfl
@[simp] theorem State.onMgmt_flog (s : State) (f : Mgmt → Mgmt) : (s.onMgmt f).flog = s.flog := rfl
@[simp] theorem State.onMgmt_saggers (s : State) (f : Mgmt → Mgmt) : (s.onMgmt f).saggers = s.saggers := rfl
@[simp] theorem State.onMgmt_wheels (s : State) (f : Mgmt → Mgmt) : (s.onMgmt f).wheels = s.wheels := rfl
@[simp] theorem State.onMgmt_wares (s : State) (f : Mgmt → Mgmt) : (s.onMgmt f).wares = s.wares := rfl
@[simp] theorem State.onMgmt_ldus (s : State) (f : Mgmt → Mgmt) : (s.onMgmt f).ldus = s.ldus := rfl
@[simp] theorem State.onMgmt_ssus (s : State) (f : Mgmt → Mgmt) : (s.onMgmt f).ssus = s.ssus := rfl
@[simp] theorem State.onMgmt_tallies (s : State) (f : Mgmt → Mgmt) : (s.onMgmt f).tallies = s.tallies := rfl
@[simp] theorem State.onMgmt_tallyOut (s : State) (f : Mgmt → Mgmt) : (s.onMgmt f).tallyOut = s.tallyOut := rfl
@[simp] theorem State.onMgmt_houseProgress (s : State) (f : Mgmt → Mgmt) : (s.onMgmt f).houseProgress = s.houseProgress := rfl
@[simp] theorem State.onMgmt_houseArmed (s : State) (f : Mgmt → Mgmt) : (s.onMgmt f).houseArmed = s.houseArmed := rfl
@[simp] theorem State.onMgmt_snaps (s : State) (f : Mgmt → Mgmt) : (s.onMgmt f).snaps = s.snaps := rfl
@[simp] theorem State.onMgmt_hbmStacks (s : State) (f : Mgmt → Mgmt) : (s.onMgmt f).hbmStacks = s.hbmStacks := rfl
@[simp] theorem State.onMgmt_store (s : State) (f : Mgmt → Mgmt) : (s.onMgmt f).store = s.store := rfl
@[simp] theorem State.onMgmt_poison (s : State) (f : Mgmt → Mgmt) : (s.onMgmt f).poison = s.poison := rfl
@[simp] theorem State.onMgmt_glazes (s : State) (f : Mgmt → Mgmt) : (s.onMgmt f).glazes = s.glazes := rfl
@[simp] theorem State.onMgmt_ports (s : State) (f : Mgmt → Mgmt) : (s.onMgmt f).ports = s.ports := rfl
@[simp] theorem State.onMgmt_lat (s : State) (f : Mgmt → Mgmt) : (s.onMgmt f).lat = s.lat := rfl
@[simp] theorem State.onMgmt_lute (s : State) (f : Mgmt → Mgmt) : (s.onMgmt f).lute = s.lute := rfl
@[simp] theorem State.onMgmt_links (s : State) (f : Mgmt → Mgmt) : (s.onMgmt f).links = s.links := rfl
@[simp] theorem State.onMgmt_chans (s : State) (f : Mgmt → Mgmt) : (s.onMgmt f).chans = s.chans := rfl
@[simp] theorem State.onMgmt_swaps (s : State) (f : Mgmt → Mgmt) : (s.onMgmt f).swaps = s.swaps := rfl
@[simp] theorem State.onMgmt_nextTag (s : State) (f : Mgmt → Mgmt) : (s.onMgmt f).nextTag = s.nextTag := rfl
@[simp] theorem State.onMgmt_cones (s : State) (f : Mgmt → Mgmt) : (s.onMgmt f).cones = s.cones := rfl
@[simp] theorem State.onMgmt_lastMeas (s : State) (f : Mgmt → Mgmt) : (s.onMgmt f).lastMeas = s.lastMeas := rfl
@[simp] theorem State.onStore_pending (s : State) (f : Store → Store) : (s.onStore f).pending = s.pending := rfl
@[simp] theorem State.onStore_regs (s : State) (f : Store → Store) : (s.onStore f).regs = s.regs := rfl
@[simp] theorem State.onStore_freeCtr (s : State) (f : Store → Store) : (s.onStore f).freeCtr = s.freeCtr := rfl
@[simp] theorem State.onStore_mem (s : State) (f : Store → Store) : (s.onStore f).mem = s.mem := rfl
@[simp] theorem State.onStore_power (s : State) (f : Store → Store) : (s.onStore f).power = s.power := rfl
@[simp] theorem State.onStore_boot (s : State) (f : Store → Store) : (s.onStore f).boot = s.boot := rfl
@[simp] theorem State.onStore_health (s : State) (f : Store → Store) : (s.onStore f).health = s.health := rfl
@[simp] theorem State.onStore_fuses (s : State) (f : Store → Store) : (s.onStore f).fuses = s.fuses := rfl
@[simp] theorem State.onStore_plan (s : State) (f : Store → Store) : (s.onStore f).plan = s.plan := rfl
@[simp] theorem State.onStore_tb (s : State) (f : Store → Store) : (s.onStore f).tb = s.tb := rfl
@[simp] theorem State.onStore_flog (s : State) (f : Store → Store) : (s.onStore f).flog = s.flog := rfl
@[simp] theorem State.onStore_saggers (s : State) (f : Store → Store) : (s.onStore f).saggers = s.saggers := rfl
@[simp] theorem State.onStore_wheels (s : State) (f : Store → Store) : (s.onStore f).wheels = s.wheels := rfl
@[simp] theorem State.onStore_wares (s : State) (f : Store → Store) : (s.onStore f).wares = s.wares := rfl
@[simp] theorem State.onStore_ldus (s : State) (f : Store → Store) : (s.onStore f).ldus = s.ldus := rfl
@[simp] theorem State.onStore_ssus (s : State) (f : Store → Store) : (s.onStore f).ssus = s.ssus := rfl
@[simp] theorem State.onStore_tallies (s : State) (f : Store → Store) : (s.onStore f).tallies = s.tallies := rfl
@[simp] theorem State.onStore_tallyOut (s : State) (f : Store → Store) : (s.onStore f).tallyOut = s.tallyOut := rfl
@[simp] theorem State.onStore_houseProgress (s : State) (f : Store → Store) : (s.onStore f).houseProgress = s.houseProgress := rfl
@[simp] theorem State.onStore_houseArmed (s : State) (f : Store → Store) : (s.onStore f).houseArmed = s.houseArmed := rfl
@[simp] theorem State.onStore_snaps (s : State) (f : Store → Store) : (s.onStore f).snaps = s.snaps := rfl
@[simp] theorem State.onStore_hbmStacks (s : State) (f : Store → Store) : (s.onStore f).hbmStacks = s.hbmStacks := rfl
@[simp] theorem State.onStore_poison (s : State) (f : Store → Store) : (s.onStore f).poison = s.poison := rfl
@[simp] theorem State.onStore_glazes (s : State) (f : Store → Store) : (s.onStore f).glazes = s.glazes := rfl
@[simp] theorem State.onStore_ports (s : State) (f : Store → Store) : (s.onStore f).ports = s.ports := rfl
@[simp] theorem State.onStore_lat (s : State) (f : Store → Store) : (s.onStore f).lat = s.lat := rfl
@[simp] theorem State.onStore_lute (s : State) (f : Store → Store) : (s.onStore f).lute = s.lute := rfl
@[simp] theorem State.onStore_links (s : State) (f : Store → Store) : (s.onStore f).links = s.links := rfl
@[simp] theorem State.onStore_chans (s : State) (f : Store → Store) : (s.onStore f).chans = s.chans := rfl
@[simp] theorem State.onStore_swaps (s : State) (f : Store → Store) : (s.onStore f).swaps = s.swaps := rfl
@[simp] theorem State.onStore_nextTag (s : State) (f : Store → Store) : (s.onStore f).nextTag = s.nextTag := rfl
@[simp] theorem State.onStore_mgmt (s : State) (f : Store → Store) : (s.onStore f).mgmt = s.mgmt := rfl
@[simp] theorem State.onStore_cones (s : State) (f : Store → Store) : (s.onStore f).cones = s.cones := rfl
@[simp] theorem State.onStore_lastMeas (s : State) (f : Store → Store) : (s.onStore f).lastMeas = s.lastMeas := rfl
@[simp] theorem State.onMem_pending (s : State) (f : Memories → Memories) : (s.onMem f).pending = s.pending := rfl
@[simp] theorem State.onMem_regs (s : State) (f : Memories → Memories) : (s.onMem f).regs = s.regs := rfl
@[simp] theorem State.onMem_freeCtr (s : State) (f : Memories → Memories) : (s.onMem f).freeCtr = s.freeCtr := rfl
@[simp] theorem State.onMem_power (s : State) (f : Memories → Memories) : (s.onMem f).power = s.power := rfl
@[simp] theorem State.onMem_boot (s : State) (f : Memories → Memories) : (s.onMem f).boot = s.boot := rfl
@[simp] theorem State.onMem_health (s : State) (f : Memories → Memories) : (s.onMem f).health = s.health := rfl
@[simp] theorem State.onMem_fuses (s : State) (f : Memories → Memories) : (s.onMem f).fuses = s.fuses := rfl
@[simp] theorem State.onMem_plan (s : State) (f : Memories → Memories) : (s.onMem f).plan = s.plan := rfl
@[simp] theorem State.onMem_tb (s : State) (f : Memories → Memories) : (s.onMem f).tb = s.tb := rfl
@[simp] theorem State.onMem_flog (s : State) (f : Memories → Memories) : (s.onMem f).flog = s.flog := rfl
@[simp] theorem State.onMem_saggers (s : State) (f : Memories → Memories) : (s.onMem f).saggers = s.saggers := rfl
@[simp] theorem State.onMem_wheels (s : State) (f : Memories → Memories) : (s.onMem f).wheels = s.wheels := rfl
@[simp] theorem State.onMem_wares (s : State) (f : Memories → Memories) : (s.onMem f).wares = s.wares := rfl
@[simp] theorem State.onMem_ldus (s : State) (f : Memories → Memories) : (s.onMem f).ldus = s.ldus := rfl
@[simp] theorem State.onMem_ssus (s : State) (f : Memories → Memories) : (s.onMem f).ssus = s.ssus := rfl
@[simp] theorem State.onMem_tallies (s : State) (f : Memories → Memories) : (s.onMem f).tallies = s.tallies := rfl
@[simp] theorem State.onMem_tallyOut (s : State) (f : Memories → Memories) : (s.onMem f).tallyOut = s.tallyOut := rfl
@[simp] theorem State.onMem_houseProgress (s : State) (f : Memories → Memories) : (s.onMem f).houseProgress = s.houseProgress := rfl
@[simp] theorem State.onMem_houseArmed (s : State) (f : Memories → Memories) : (s.onMem f).houseArmed = s.houseArmed := rfl
@[simp] theorem State.onMem_snaps (s : State) (f : Memories → Memories) : (s.onMem f).snaps = s.snaps := rfl
@[simp] theorem State.onMem_hbmStacks (s : State) (f : Memories → Memories) : (s.onMem f).hbmStacks = s.hbmStacks := rfl
@[simp] theorem State.onMem_store (s : State) (f : Memories → Memories) : (s.onMem f).store = s.store := rfl
@[simp] theorem State.onMem_poison (s : State) (f : Memories → Memories) : (s.onMem f).poison = s.poison := rfl
@[simp] theorem State.onMem_glazes (s : State) (f : Memories → Memories) : (s.onMem f).glazes = s.glazes := rfl
@[simp] theorem State.onMem_ports (s : State) (f : Memories → Memories) : (s.onMem f).ports = s.ports := rfl
@[simp] theorem State.onMem_lat (s : State) (f : Memories → Memories) : (s.onMem f).lat = s.lat := rfl
@[simp] theorem State.onMem_lute (s : State) (f : Memories → Memories) : (s.onMem f).lute = s.lute := rfl
@[simp] theorem State.onMem_links (s : State) (f : Memories → Memories) : (s.onMem f).links = s.links := rfl
@[simp] theorem State.onMem_chans (s : State) (f : Memories → Memories) : (s.onMem f).chans = s.chans := rfl
@[simp] theorem State.onMem_swaps (s : State) (f : Memories → Memories) : (s.onMem f).swaps = s.swaps := rfl
@[simp] theorem State.onMem_nextTag (s : State) (f : Memories → Memories) : (s.onMem f).nextTag = s.nextTag := rfl
@[simp] theorem State.onMem_mgmt (s : State) (f : Memories → Memories) : (s.onMem f).mgmt = s.mgmt := rfl
@[simp] theorem State.onMem_cones (s : State) (f : Memories → Memories) : (s.onMem f).cones = s.cones := rfl
@[simp] theorem State.onMem_lastMeas (s : State) (f : Memories → Memories) : (s.onMem f).lastMeas = s.lastMeas := rfl
@[simp] theorem State.onHbm_pending (s : State) (f : Mem → Mem) : (s.onHbm f).pending = s.pending := rfl
@[simp] theorem State.onHbm_regs (s : State) (f : Mem → Mem) : (s.onHbm f).regs = s.regs := rfl
@[simp] theorem State.onHbm_freeCtr (s : State) (f : Mem → Mem) : (s.onHbm f).freeCtr = s.freeCtr := rfl
@[simp] theorem State.onHbm_power (s : State) (f : Mem → Mem) : (s.onHbm f).power = s.power := rfl
@[simp] theorem State.onHbm_boot (s : State) (f : Mem → Mem) : (s.onHbm f).boot = s.boot := rfl
@[simp] theorem State.onHbm_health (s : State) (f : Mem → Mem) : (s.onHbm f).health = s.health := rfl
@[simp] theorem State.onHbm_fuses (s : State) (f : Mem → Mem) : (s.onHbm f).fuses = s.fuses := rfl
@[simp] theorem State.onHbm_plan (s : State) (f : Mem → Mem) : (s.onHbm f).plan = s.plan := rfl
@[simp] theorem State.onHbm_tb (s : State) (f : Mem → Mem) : (s.onHbm f).tb = s.tb := rfl
@[simp] theorem State.onHbm_flog (s : State) (f : Mem → Mem) : (s.onHbm f).flog = s.flog := rfl
@[simp] theorem State.onHbm_saggers (s : State) (f : Mem → Mem) : (s.onHbm f).saggers = s.saggers := rfl
@[simp] theorem State.onHbm_wheels (s : State) (f : Mem → Mem) : (s.onHbm f).wheels = s.wheels := rfl
@[simp] theorem State.onHbm_wares (s : State) (f : Mem → Mem) : (s.onHbm f).wares = s.wares := rfl
@[simp] theorem State.onHbm_ldus (s : State) (f : Mem → Mem) : (s.onHbm f).ldus = s.ldus := rfl
@[simp] theorem State.onHbm_ssus (s : State) (f : Mem → Mem) : (s.onHbm f).ssus = s.ssus := rfl
@[simp] theorem State.onHbm_tallies (s : State) (f : Mem → Mem) : (s.onHbm f).tallies = s.tallies := rfl
@[simp] theorem State.onHbm_tallyOut (s : State) (f : Mem → Mem) : (s.onHbm f).tallyOut = s.tallyOut := rfl
@[simp] theorem State.onHbm_houseProgress (s : State) (f : Mem → Mem) : (s.onHbm f).houseProgress = s.houseProgress := rfl
@[simp] theorem State.onHbm_houseArmed (s : State) (f : Mem → Mem) : (s.onHbm f).houseArmed = s.houseArmed := rfl
@[simp] theorem State.onHbm_snaps (s : State) (f : Mem → Mem) : (s.onHbm f).snaps = s.snaps := rfl
@[simp] theorem State.onHbm_hbmStacks (s : State) (f : Mem → Mem) : (s.onHbm f).hbmStacks = s.hbmStacks := rfl
@[simp] theorem State.onHbm_store (s : State) (f : Mem → Mem) : (s.onHbm f).store = s.store := rfl
@[simp] theorem State.onHbm_poison (s : State) (f : Mem → Mem) : (s.onHbm f).poison = s.poison := rfl
@[simp] theorem State.onHbm_glazes (s : State) (f : Mem → Mem) : (s.onHbm f).glazes = s.glazes := rfl
@[simp] theorem State.onHbm_ports (s : State) (f : Mem → Mem) : (s.onHbm f).ports = s.ports := rfl
@[simp] theorem State.onHbm_lat (s : State) (f : Mem → Mem) : (s.onHbm f).lat = s.lat := rfl
@[simp] theorem State.onHbm_lute (s : State) (f : Mem → Mem) : (s.onHbm f).lute = s.lute := rfl
@[simp] theorem State.onHbm_links (s : State) (f : Mem → Mem) : (s.onHbm f).links = s.links := rfl
@[simp] theorem State.onHbm_chans (s : State) (f : Mem → Mem) : (s.onHbm f).chans = s.chans := rfl
@[simp] theorem State.onHbm_swaps (s : State) (f : Mem → Mem) : (s.onHbm f).swaps = s.swaps := rfl
@[simp] theorem State.onHbm_nextTag (s : State) (f : Mem → Mem) : (s.onHbm f).nextTag = s.nextTag := rfl
@[simp] theorem State.onHbm_mgmt (s : State) (f : Mem → Mem) : (s.onHbm f).mgmt = s.mgmt := rfl
@[simp] theorem State.onHbm_cones (s : State) (f : Mem → Mem) : (s.onHbm f).cones = s.cones := rfl
@[simp] theorem State.onHbm_lastMeas (s : State) (f : Mem → Mem) : (s.onHbm f).lastMeas = s.lastMeas := rfl
@[simp] theorem State.onWareMem_pending (s : State) (f : Mem → Mem) : (s.onWareMem f).pending = s.pending := rfl
@[simp] theorem State.onWareMem_regs (s : State) (f : Mem → Mem) : (s.onWareMem f).regs = s.regs := rfl
@[simp] theorem State.onWareMem_freeCtr (s : State) (f : Mem → Mem) : (s.onWareMem f).freeCtr = s.freeCtr := rfl
@[simp] theorem State.onWareMem_power (s : State) (f : Mem → Mem) : (s.onWareMem f).power = s.power := rfl
@[simp] theorem State.onWareMem_boot (s : State) (f : Mem → Mem) : (s.onWareMem f).boot = s.boot := rfl
@[simp] theorem State.onWareMem_health (s : State) (f : Mem → Mem) : (s.onWareMem f).health = s.health := rfl
@[simp] theorem State.onWareMem_fuses (s : State) (f : Mem → Mem) : (s.onWareMem f).fuses = s.fuses := rfl
@[simp] theorem State.onWareMem_plan (s : State) (f : Mem → Mem) : (s.onWareMem f).plan = s.plan := rfl
@[simp] theorem State.onWareMem_tb (s : State) (f : Mem → Mem) : (s.onWareMem f).tb = s.tb := rfl
@[simp] theorem State.onWareMem_flog (s : State) (f : Mem → Mem) : (s.onWareMem f).flog = s.flog := rfl
@[simp] theorem State.onWareMem_saggers (s : State) (f : Mem → Mem) : (s.onWareMem f).saggers = s.saggers := rfl
@[simp] theorem State.onWareMem_wheels (s : State) (f : Mem → Mem) : (s.onWareMem f).wheels = s.wheels := rfl
@[simp] theorem State.onWareMem_wares (s : State) (f : Mem → Mem) : (s.onWareMem f).wares = s.wares := rfl
@[simp] theorem State.onWareMem_ldus (s : State) (f : Mem → Mem) : (s.onWareMem f).ldus = s.ldus := rfl
@[simp] theorem State.onWareMem_ssus (s : State) (f : Mem → Mem) : (s.onWareMem f).ssus = s.ssus := rfl
@[simp] theorem State.onWareMem_tallies (s : State) (f : Mem → Mem) : (s.onWareMem f).tallies = s.tallies := rfl
@[simp] theorem State.onWareMem_tallyOut (s : State) (f : Mem → Mem) : (s.onWareMem f).tallyOut = s.tallyOut := rfl
@[simp] theorem State.onWareMem_houseProgress (s : State) (f : Mem → Mem) : (s.onWareMem f).houseProgress = s.houseProgress := rfl
@[simp] theorem State.onWareMem_houseArmed (s : State) (f : Mem → Mem) : (s.onWareMem f).houseArmed = s.houseArmed := rfl
@[simp] theorem State.onWareMem_snaps (s : State) (f : Mem → Mem) : (s.onWareMem f).snaps = s.snaps := rfl
@[simp] theorem State.onWareMem_hbmStacks (s : State) (f : Mem → Mem) : (s.onWareMem f).hbmStacks = s.hbmStacks := rfl
@[simp] theorem State.onWareMem_store (s : State) (f : Mem → Mem) : (s.onWareMem f).store = s.store := rfl
@[simp] theorem State.onWareMem_poison (s : State) (f : Mem → Mem) : (s.onWareMem f).poison = s.poison := rfl
@[simp] theorem State.onWareMem_glazes (s : State) (f : Mem → Mem) : (s.onWareMem f).glazes = s.glazes := rfl
@[simp] theorem State.onWareMem_ports (s : State) (f : Mem → Mem) : (s.onWareMem f).ports = s.ports := rfl
@[simp] theorem State.onWareMem_lat (s : State) (f : Mem → Mem) : (s.onWareMem f).lat = s.lat := rfl
@[simp] theorem State.onWareMem_lute (s : State) (f : Mem → Mem) : (s.onWareMem f).lute = s.lute := rfl
@[simp] theorem State.onWareMem_links (s : State) (f : Mem → Mem) : (s.onWareMem f).links = s.links := rfl
@[simp] theorem State.onWareMem_chans (s : State) (f : Mem → Mem) : (s.onWareMem f).chans = s.chans := rfl
@[simp] theorem State.onWareMem_swaps (s : State) (f : Mem → Mem) : (s.onWareMem f).swaps = s.swaps := rfl
@[simp] theorem State.onWareMem_nextTag (s : State) (f : Mem → Mem) : (s.onWareMem f).nextTag = s.nextTag := rfl
@[simp] theorem State.onWareMem_mgmt (s : State) (f : Mem → Mem) : (s.onWareMem f).mgmt = s.mgmt := rfl
@[simp] theorem State.onWareMem_cones (s : State) (f : Mem → Mem) : (s.onWareMem f).cones = s.cones := rfl
@[simp] theorem State.onWareMem_lastMeas (s : State) (f : Mem → Mem) : (s.onWareMem f).lastMeas = s.lastMeas := rfl
@[simp] theorem State.onStoreMem_pending (s : State) (f : Mem → Mem) : (s.onStoreMem f).pending = s.pending := rfl
@[simp] theorem State.onStoreMem_regs (s : State) (f : Mem → Mem) : (s.onStoreMem f).regs = s.regs := rfl
@[simp] theorem State.onStoreMem_freeCtr (s : State) (f : Mem → Mem) : (s.onStoreMem f).freeCtr = s.freeCtr := rfl
@[simp] theorem State.onStoreMem_power (s : State) (f : Mem → Mem) : (s.onStoreMem f).power = s.power := rfl
@[simp] theorem State.onStoreMem_boot (s : State) (f : Mem → Mem) : (s.onStoreMem f).boot = s.boot := rfl
@[simp] theorem State.onStoreMem_health (s : State) (f : Mem → Mem) : (s.onStoreMem f).health = s.health := rfl
@[simp] theorem State.onStoreMem_fuses (s : State) (f : Mem → Mem) : (s.onStoreMem f).fuses = s.fuses := rfl
@[simp] theorem State.onStoreMem_plan (s : State) (f : Mem → Mem) : (s.onStoreMem f).plan = s.plan := rfl
@[simp] theorem State.onStoreMem_tb (s : State) (f : Mem → Mem) : (s.onStoreMem f).tb = s.tb := rfl
@[simp] theorem State.onStoreMem_flog (s : State) (f : Mem → Mem) : (s.onStoreMem f).flog = s.flog := rfl
@[simp] theorem State.onStoreMem_saggers (s : State) (f : Mem → Mem) : (s.onStoreMem f).saggers = s.saggers := rfl
@[simp] theorem State.onStoreMem_wheels (s : State) (f : Mem → Mem) : (s.onStoreMem f).wheels = s.wheels := rfl
@[simp] theorem State.onStoreMem_wares (s : State) (f : Mem → Mem) : (s.onStoreMem f).wares = s.wares := rfl
@[simp] theorem State.onStoreMem_ldus (s : State) (f : Mem → Mem) : (s.onStoreMem f).ldus = s.ldus := rfl
@[simp] theorem State.onStoreMem_ssus (s : State) (f : Mem → Mem) : (s.onStoreMem f).ssus = s.ssus := rfl
@[simp] theorem State.onStoreMem_tallies (s : State) (f : Mem → Mem) : (s.onStoreMem f).tallies = s.tallies := rfl
@[simp] theorem State.onStoreMem_tallyOut (s : State) (f : Mem → Mem) : (s.onStoreMem f).tallyOut = s.tallyOut := rfl
@[simp] theorem State.onStoreMem_houseProgress (s : State) (f : Mem → Mem) : (s.onStoreMem f).houseProgress = s.houseProgress := rfl
@[simp] theorem State.onStoreMem_houseArmed (s : State) (f : Mem → Mem) : (s.onStoreMem f).houseArmed = s.houseArmed := rfl
@[simp] theorem State.onStoreMem_snaps (s : State) (f : Mem → Mem) : (s.onStoreMem f).snaps = s.snaps := rfl
@[simp] theorem State.onStoreMem_hbmStacks (s : State) (f : Mem → Mem) : (s.onStoreMem f).hbmStacks = s.hbmStacks := rfl
@[simp] theorem State.onStoreMem_store (s : State) (f : Mem → Mem) : (s.onStoreMem f).store = s.store := rfl
@[simp] theorem State.onStoreMem_poison (s : State) (f : Mem → Mem) : (s.onStoreMem f).poison = s.poison := rfl
@[simp] theorem State.onStoreMem_glazes (s : State) (f : Mem → Mem) : (s.onStoreMem f).glazes = s.glazes := rfl
@[simp] theorem State.onStoreMem_ports (s : State) (f : Mem → Mem) : (s.onStoreMem f).ports = s.ports := rfl
@[simp] theorem State.onStoreMem_lat (s : State) (f : Mem → Mem) : (s.onStoreMem f).lat = s.lat := rfl
@[simp] theorem State.onStoreMem_lute (s : State) (f : Mem → Mem) : (s.onStoreMem f).lute = s.lute := rfl
@[simp] theorem State.onStoreMem_links (s : State) (f : Mem → Mem) : (s.onStoreMem f).links = s.links := rfl
@[simp] theorem State.onStoreMem_chans (s : State) (f : Mem → Mem) : (s.onStoreMem f).chans = s.chans := rfl
@[simp] theorem State.onStoreMem_swaps (s : State) (f : Mem → Mem) : (s.onStoreMem f).swaps = s.swaps := rfl
@[simp] theorem State.onStoreMem_nextTag (s : State) (f : Mem → Mem) : (s.onStoreMem f).nextTag = s.nextTag := rfl
@[simp] theorem State.onStoreMem_mgmt (s : State) (f : Mem → Mem) : (s.onStoreMem f).mgmt = s.mgmt := rfl
@[simp] theorem State.onStoreMem_cones (s : State) (f : Mem → Mem) : (s.onStoreMem f).cones = s.cones := rfl
@[simp] theorem State.onStoreMem_lastMeas (s : State) (f : Mem → Mem) : (s.onStoreMem f).lastMeas = s.lastMeas := rfl
@[simp] theorem State.onPoison_pending (s : State) (d : Nat) (f : List Poison → List Poison) : (s.onPoison d f).pending = s.pending := rfl
@[simp] theorem State.onPoison_regs (s : State) (d : Nat) (f : List Poison → List Poison) : (s.onPoison d f).regs = s.regs := rfl
@[simp] theorem State.onPoison_freeCtr (s : State) (d : Nat) (f : List Poison → List Poison) : (s.onPoison d f).freeCtr = s.freeCtr := rfl
@[simp] theorem State.onPoison_mem (s : State) (d : Nat) (f : List Poison → List Poison) : (s.onPoison d f).mem = s.mem := rfl
@[simp] theorem State.onPoison_power (s : State) (d : Nat) (f : List Poison → List Poison) : (s.onPoison d f).power = s.power := rfl
@[simp] theorem State.onPoison_boot (s : State) (d : Nat) (f : List Poison → List Poison) : (s.onPoison d f).boot = s.boot := rfl
@[simp] theorem State.onPoison_health (s : State) (d : Nat) (f : List Poison → List Poison) : (s.onPoison d f).health = s.health := rfl
@[simp] theorem State.onPoison_fuses (s : State) (d : Nat) (f : List Poison → List Poison) : (s.onPoison d f).fuses = s.fuses := rfl
@[simp] theorem State.onPoison_plan (s : State) (d : Nat) (f : List Poison → List Poison) : (s.onPoison d f).plan = s.plan := rfl
@[simp] theorem State.onPoison_tb (s : State) (d : Nat) (f : List Poison → List Poison) : (s.onPoison d f).tb = s.tb := rfl
@[simp] theorem State.onPoison_flog (s : State) (d : Nat) (f : List Poison → List Poison) : (s.onPoison d f).flog = s.flog := rfl
@[simp] theorem State.onPoison_saggers (s : State) (d : Nat) (f : List Poison → List Poison) : (s.onPoison d f).saggers = s.saggers := rfl
@[simp] theorem State.onPoison_wheels (s : State) (d : Nat) (f : List Poison → List Poison) : (s.onPoison d f).wheels = s.wheels := rfl
@[simp] theorem State.onPoison_wares (s : State) (d : Nat) (f : List Poison → List Poison) : (s.onPoison d f).wares = s.wares := rfl
@[simp] theorem State.onPoison_ldus (s : State) (d : Nat) (f : List Poison → List Poison) : (s.onPoison d f).ldus = s.ldus := rfl
@[simp] theorem State.onPoison_ssus (s : State) (d : Nat) (f : List Poison → List Poison) : (s.onPoison d f).ssus = s.ssus := rfl
@[simp] theorem State.onPoison_tallies (s : State) (d : Nat) (f : List Poison → List Poison) : (s.onPoison d f).tallies = s.tallies := rfl
@[simp] theorem State.onPoison_tallyOut (s : State) (d : Nat) (f : List Poison → List Poison) : (s.onPoison d f).tallyOut = s.tallyOut := rfl
@[simp] theorem State.onPoison_houseProgress (s : State) (d : Nat) (f : List Poison → List Poison) : (s.onPoison d f).houseProgress = s.houseProgress := rfl
@[simp] theorem State.onPoison_houseArmed (s : State) (d : Nat) (f : List Poison → List Poison) : (s.onPoison d f).houseArmed = s.houseArmed := rfl
@[simp] theorem State.onPoison_snaps (s : State) (d : Nat) (f : List Poison → List Poison) : (s.onPoison d f).snaps = s.snaps := rfl
@[simp] theorem State.onPoison_hbmStacks (s : State) (d : Nat) (f : List Poison → List Poison) : (s.onPoison d f).hbmStacks = s.hbmStacks := rfl
@[simp] theorem State.onPoison_store (s : State) (d : Nat) (f : List Poison → List Poison) : (s.onPoison d f).store = s.store := rfl
@[simp] theorem State.onPoison_glazes (s : State) (d : Nat) (f : List Poison → List Poison) : (s.onPoison d f).glazes = s.glazes := rfl
@[simp] theorem State.onPoison_ports (s : State) (d : Nat) (f : List Poison → List Poison) : (s.onPoison d f).ports = s.ports := rfl
@[simp] theorem State.onPoison_lat (s : State) (d : Nat) (f : List Poison → List Poison) : (s.onPoison d f).lat = s.lat := rfl
@[simp] theorem State.onPoison_lute (s : State) (d : Nat) (f : List Poison → List Poison) : (s.onPoison d f).lute = s.lute := rfl
@[simp] theorem State.onPoison_links (s : State) (d : Nat) (f : List Poison → List Poison) : (s.onPoison d f).links = s.links := rfl
@[simp] theorem State.onPoison_chans (s : State) (d : Nat) (f : List Poison → List Poison) : (s.onPoison d f).chans = s.chans := rfl
@[simp] theorem State.onPoison_swaps (s : State) (d : Nat) (f : List Poison → List Poison) : (s.onPoison d f).swaps = s.swaps := rfl
@[simp] theorem State.onPoison_nextTag (s : State) (d : Nat) (f : List Poison → List Poison) : (s.onPoison d f).nextTag = s.nextTag := rfl
@[simp] theorem State.onPoison_mgmt (s : State) (d : Nat) (f : List Poison → List Poison) : (s.onPoison d f).mgmt = s.mgmt := rfl
@[simp] theorem State.onPoison_cones (s : State) (d : Nat) (f : List Poison → List Poison) : (s.onPoison d f).cones = s.cones := rfl
@[simp] theorem State.onPoison_lastMeas (s : State) (d : Nat) (f : List Poison → List Poison) : (s.onPoison d f).lastMeas = s.lastMeas := rfl
@[simp] theorem State.setReg_pending (s : State) (r : Reg) (u v : Nat) : (s.setReg r u v).pending = s.pending := rfl
@[simp] theorem State.setReg_freeCtr (s : State) (r : Reg) (u v : Nat) : (s.setReg r u v).freeCtr = s.freeCtr := rfl
@[simp] theorem State.setReg_mem (s : State) (r : Reg) (u v : Nat) : (s.setReg r u v).mem = s.mem := rfl
@[simp] theorem State.setReg_power (s : State) (r : Reg) (u v : Nat) : (s.setReg r u v).power = s.power := rfl
@[simp] theorem State.setReg_boot (s : State) (r : Reg) (u v : Nat) : (s.setReg r u v).boot = s.boot := rfl
@[simp] theorem State.setReg_health (s : State) (r : Reg) (u v : Nat) : (s.setReg r u v).health = s.health := rfl
@[simp] theorem State.setReg_fuses (s : State) (r : Reg) (u v : Nat) : (s.setReg r u v).fuses = s.fuses := rfl
@[simp] theorem State.setReg_plan (s : State) (r : Reg) (u v : Nat) : (s.setReg r u v).plan = s.plan := rfl
@[simp] theorem State.setReg_tb (s : State) (r : Reg) (u v : Nat) : (s.setReg r u v).tb = s.tb := rfl
@[simp] theorem State.setReg_flog (s : State) (r : Reg) (u v : Nat) : (s.setReg r u v).flog = s.flog := rfl
@[simp] theorem State.setReg_saggers (s : State) (r : Reg) (u v : Nat) : (s.setReg r u v).saggers = s.saggers := rfl
@[simp] theorem State.setReg_wheels (s : State) (r : Reg) (u v : Nat) : (s.setReg r u v).wheels = s.wheels := rfl
@[simp] theorem State.setReg_wares (s : State) (r : Reg) (u v : Nat) : (s.setReg r u v).wares = s.wares := rfl
@[simp] theorem State.setReg_ldus (s : State) (r : Reg) (u v : Nat) : (s.setReg r u v).ldus = s.ldus := rfl
@[simp] theorem State.setReg_ssus (s : State) (r : Reg) (u v : Nat) : (s.setReg r u v).ssus = s.ssus := rfl
@[simp] theorem State.setReg_tallies (s : State) (r : Reg) (u v : Nat) : (s.setReg r u v).tallies = s.tallies := rfl
@[simp] theorem State.setReg_tallyOut (s : State) (r : Reg) (u v : Nat) : (s.setReg r u v).tallyOut = s.tallyOut := rfl
@[simp] theorem State.setReg_houseProgress (s : State) (r : Reg) (u v : Nat) : (s.setReg r u v).houseProgress = s.houseProgress := rfl
@[simp] theorem State.setReg_houseArmed (s : State) (r : Reg) (u v : Nat) : (s.setReg r u v).houseArmed = s.houseArmed := rfl
@[simp] theorem State.setReg_snaps (s : State) (r : Reg) (u v : Nat) : (s.setReg r u v).snaps = s.snaps := rfl
@[simp] theorem State.setReg_hbmStacks (s : State) (r : Reg) (u v : Nat) : (s.setReg r u v).hbmStacks = s.hbmStacks := rfl
@[simp] theorem State.setReg_store (s : State) (r : Reg) (u v : Nat) : (s.setReg r u v).store = s.store := rfl
@[simp] theorem State.setReg_poison (s : State) (r : Reg) (u v : Nat) : (s.setReg r u v).poison = s.poison := rfl
@[simp] theorem State.setReg_glazes (s : State) (r : Reg) (u v : Nat) : (s.setReg r u v).glazes = s.glazes := rfl
@[simp] theorem State.setReg_ports (s : State) (r : Reg) (u v : Nat) : (s.setReg r u v).ports = s.ports := rfl
@[simp] theorem State.setReg_lat (s : State) (r : Reg) (u v : Nat) : (s.setReg r u v).lat = s.lat := rfl
@[simp] theorem State.setReg_lute (s : State) (r : Reg) (u v : Nat) : (s.setReg r u v).lute = s.lute := rfl
@[simp] theorem State.setReg_links (s : State) (r : Reg) (u v : Nat) : (s.setReg r u v).links = s.links := rfl
@[simp] theorem State.setReg_chans (s : State) (r : Reg) (u v : Nat) : (s.setReg r u v).chans = s.chans := rfl
@[simp] theorem State.setReg_swaps (s : State) (r : Reg) (u v : Nat) : (s.setReg r u v).swaps = s.swaps := rfl
@[simp] theorem State.setReg_nextTag (s : State) (r : Reg) (u v : Nat) : (s.setReg r u v).nextTag = s.nextTag := rfl
@[simp] theorem State.setReg_mgmt (s : State) (r : Reg) (u v : Nat) : (s.setReg r u v).mgmt = s.mgmt := rfl
@[simp] theorem State.setReg_cones (s : State) (r : Reg) (u v : Nat) : (s.setReg r u v).cones = s.cones := rfl
@[simp] theorem State.setReg_lastMeas (s : State) (r : Reg) (u v : Nat) : (s.setReg r u v).lastMeas = s.lastMeas := rfl
@[simp] theorem State.bump_pending (s : State) (r : Reg) (u n : Nat) : (s.bump r u n).pending = s.pending := rfl
@[simp] theorem State.bump_freeCtr (s : State) (r : Reg) (u n : Nat) : (s.bump r u n).freeCtr = s.freeCtr := rfl
@[simp] theorem State.bump_mem (s : State) (r : Reg) (u n : Nat) : (s.bump r u n).mem = s.mem := rfl
@[simp] theorem State.bump_power (s : State) (r : Reg) (u n : Nat) : (s.bump r u n).power = s.power := rfl
@[simp] theorem State.bump_boot (s : State) (r : Reg) (u n : Nat) : (s.bump r u n).boot = s.boot := rfl
@[simp] theorem State.bump_health (s : State) (r : Reg) (u n : Nat) : (s.bump r u n).health = s.health := rfl
@[simp] theorem State.bump_fuses (s : State) (r : Reg) (u n : Nat) : (s.bump r u n).fuses = s.fuses := rfl
@[simp] theorem State.bump_plan (s : State) (r : Reg) (u n : Nat) : (s.bump r u n).plan = s.plan := rfl
@[simp] theorem State.bump_tb (s : State) (r : Reg) (u n : Nat) : (s.bump r u n).tb = s.tb := rfl
@[simp] theorem State.bump_flog (s : State) (r : Reg) (u n : Nat) : (s.bump r u n).flog = s.flog := rfl
@[simp] theorem State.bump_saggers (s : State) (r : Reg) (u n : Nat) : (s.bump r u n).saggers = s.saggers := rfl
@[simp] theorem State.bump_wheels (s : State) (r : Reg) (u n : Nat) : (s.bump r u n).wheels = s.wheels := rfl
@[simp] theorem State.bump_wares (s : State) (r : Reg) (u n : Nat) : (s.bump r u n).wares = s.wares := rfl
@[simp] theorem State.bump_ldus (s : State) (r : Reg) (u n : Nat) : (s.bump r u n).ldus = s.ldus := rfl
@[simp] theorem State.bump_ssus (s : State) (r : Reg) (u n : Nat) : (s.bump r u n).ssus = s.ssus := rfl
@[simp] theorem State.bump_tallies (s : State) (r : Reg) (u n : Nat) : (s.bump r u n).tallies = s.tallies := rfl
@[simp] theorem State.bump_tallyOut (s : State) (r : Reg) (u n : Nat) : (s.bump r u n).tallyOut = s.tallyOut := rfl
@[simp] theorem State.bump_houseProgress (s : State) (r : Reg) (u n : Nat) : (s.bump r u n).houseProgress = s.houseProgress := rfl
@[simp] theorem State.bump_houseArmed (s : State) (r : Reg) (u n : Nat) : (s.bump r u n).houseArmed = s.houseArmed := rfl
@[simp] theorem State.bump_snaps (s : State) (r : Reg) (u n : Nat) : (s.bump r u n).snaps = s.snaps := rfl
@[simp] theorem State.bump_hbmStacks (s : State) (r : Reg) (u n : Nat) : (s.bump r u n).hbmStacks = s.hbmStacks := rfl
@[simp] theorem State.bump_store (s : State) (r : Reg) (u n : Nat) : (s.bump r u n).store = s.store := rfl
@[simp] theorem State.bump_poison (s : State) (r : Reg) (u n : Nat) : (s.bump r u n).poison = s.poison := rfl
@[simp] theorem State.bump_glazes (s : State) (r : Reg) (u n : Nat) : (s.bump r u n).glazes = s.glazes := rfl
@[simp] theorem State.bump_ports (s : State) (r : Reg) (u n : Nat) : (s.bump r u n).ports = s.ports := rfl
@[simp] theorem State.bump_lat (s : State) (r : Reg) (u n : Nat) : (s.bump r u n).lat = s.lat := rfl
@[simp] theorem State.bump_lute (s : State) (r : Reg) (u n : Nat) : (s.bump r u n).lute = s.lute := rfl
@[simp] theorem State.bump_links (s : State) (r : Reg) (u n : Nat) : (s.bump r u n).links = s.links := rfl
@[simp] theorem State.bump_chans (s : State) (r : Reg) (u n : Nat) : (s.bump r u n).chans = s.chans := rfl
@[simp] theorem State.bump_swaps (s : State) (r : Reg) (u n : Nat) : (s.bump r u n).swaps = s.swaps := rfl
@[simp] theorem State.bump_nextTag (s : State) (r : Reg) (u n : Nat) : (s.bump r u n).nextTag = s.nextTag := rfl
@[simp] theorem State.bump_mgmt (s : State) (r : Reg) (u n : Nat) : (s.bump r u n).mgmt = s.mgmt := rfl
@[simp] theorem State.bump_cones (s : State) (r : Reg) (u n : Nat) : (s.bump r u n).cones = s.cones := rfl
@[simp] theorem State.bump_lastMeas (s : State) (r : Reg) (u n : Nat) : (s.bump r u n).lastMeas = s.lastMeas := rfl

end Sys2Proof.Machine
end

