-- ==== Sys2Proof/Tests/Slice0.lean ====
section
/-! SUPPORT. Tests: the terms that the well-formedness check refuses, and for each statement of
Certificates/Slice0/Obligations.lean a concrete state and operands that meet its hypotheses, most with the value that the
command leaves.  A hypothesis about an opaque constant of `Config` (a signature, an image's contents, a free value) has no
witness: nothing in Lean evaluates it. -/

namespace Sys2Proof.Tests

set_option Elab.async false

open Sys2Proof.Machine

/-! ## Small states -/

/-- Two modules in X; sagger 0 has die 0's shelves and stratum 0, with its rings at the bottom of it. -/
def plan : Plan :=
  { kiln := { x := 2, ids := [1, 2] }, strata := [⟨0, 1, 0, 0⟩, ⟨16, 1, 0, 0⟩, ⟨17, 2, 0, 1⟩]
    saggers := [{ sagger := 0, shelves := 0x3F, hostBudget := true, pendingMax := 2, tenantsMax := 2, namespaces := 1,
                   wbd0Size := 1 }]
    places := [⟨1, 0, 1, 4⟩, ⟨2, 0, 2, 4⟩, ⟨3, 0, 3, 4⟩, ⟨4, 0, 4, 4⟩, ⟨5, 0, 5, 4⟩, ⟨13, 0, 65536, 4⟩, ⟨14, 0, 131072, 65536⟩, ⟨15, 0, 6, 4⟩, ⟨11, 0, 1048576, 4⟩, ⟨12, 0, 1064960, 4⟩]
    channels := [⟨0, 0, 0, 1⟩, ⟨1, 0, 1, 1⟩], creds := [(7, 5)]
    namespaces := [(0, 1, 1)] }
/-- The module while it serves, with sagger 0 as given. -/
def up (x : Sagger := { st := .serving }) : State :=
  { State.reset with
    power := { input := true, inserted := true, rails := true, rstN := true, rail0 := 650, rail1 := 650, refOk := true }
    boot := { phase := 6, ready := true, readyWas := true, keyOk := true, certOk := true }, plan := some plan, saggers := [(0, x)] }
/-- The state after an outcome. -/
def after (o : Host.Outcome State Fault Refusal) : State := match o with | .next t => t | _ => State.reset
/-- The refusal of an outcome. -/
def refusal (o : Host.Outcome State Fault Refusal) : Option Refusal := match o with | .refused r => some r | _ => none
/-- The command answers this next state. -/
def answers (o : Host.Outcome State Fault Refusal) (t : State) : Bool := match o with | .next u => u == t | _ => false
/-- Codes of the records detected and not yet in the log. -/
def codes (s : State) : List (BitVec 16) := s.flog.detected.map (·.code)

/-! ## Well-formed commands -/

theorem test_wf_slab : (Instr.slabRead 0 0 0 .good).wf = false ∧ (Instr.slabRead 0 2621439 2 .good).wf = false ∧
    (Instr.slabRead 0 2621439 1 .good).wf = true ∧ (Instr.slabWrite 0 0 []).wf = false ∧
    (Instr.slabWrite 0 2621439 [1, 2]).wf = false ∧ (Instr.slabWrite 0 2621439 [1]).wf = true := by decide +kernel
theorem test_wf_records : (Instr.fill 0 2).wf = false ∧ (Instr.copy 0 1).wf = false ∧ (Instr.hload 0 4).wf = false ∧
    (Instr.gather 0 3).wf = false ∧ (Instr.addS32 0 4).wf = false ∧ (Instr.addS64 0 1).wf = false ∧ (Instr.addF32 0 2).wf = false ∧
    (Instr.addS32Floor 0 3).wf = false ∧ (Instr.fill 0 1).wf = true ∧ (Instr.fill 0 5).wf = true := by decide +kernel
theorem test_wf_operands : (Instr.narrowAccess 0 true 0 8 [1] .good .weight).wf = false ∧ (Instr.signal ⟨0, 0⟩ 0 false 0 0).wf = false ∧
    (Instr.release ⟨0, 0⟩ 0 0 0).wf = false ∧ (Instr.latticeFlit 0 0 true 0 [1] none []).wf = false ∧
    (Instr.shomuFlit 0 [1]).wf = false ∧ (Instr.credit 0 (List.replicate 32 0)).wf = false ∧
    (Instr.bisqueEntry 0).wf = false ∧ (Instr.bisqueEntry 7).wf = false ∧ (Instr.bisqueEntry 6).wf = true := by decide +kernel
theorem test_illFormed_is_refused : refusal (exec (.bisqueEntry 7) State.reset) = some (.illFormed "BISQUE_ENTRY") := by decide +kernel

/-! ## The queue, power and throttling -/

theorem test_queue : (after (step { State.reset with pending := [.moduleInsert, .faultLogEnter] })).pending = [.faultLogEnter] ∧
    (after (step { State.reset with pending := [.moduleInsert, .faultLogEnter] })).power.inserted = true := by decide +kernel
theorem test_tick : (after (step up)).tb.ref = 10 ∧ answers (step State.reset) State.reset = true := by decide +kernel
theorem test_command_answers : answers (exec .faultLogEnter State.reset) State.reset = true ∧ Memory.wf State.reset.mem.hbm = true := by decide +kernel
theorem test_beat_factor : up.firmwareUp = true ∧
    (after (exec .beatFactorUpdate { up with power := { up.power with replica := [(90000, 100000)] } })).reg .conBeatFactor 0 = 4551 ∧
    (after (exec (.replicaCountWindow 1 2) up)).power.replica = [(1, 2)] := by decide +kernel
theorem test_rails : (after (exec (.voltageSelect 100 60 60 900 600) up)).power.rail0 = 651 ∧
    (after (exec (.voltageSelect 100 60 60 900 600) up)).power.rail1 = 650 := by decide +kernel
theorem test_throttle : (after (exec (.throttleTick 1501 60 60) up)).power.throttle = some 15 ∧
    (after (exec (.throttleTick 1501 60 60) up)).reg .conThrottle 0 = 1 ∧ codes (after (exec (.throttleTick 100 96 60) up)) = [0x103D#16] ∧
    (after (exec (.throttleTick 1501 60 60) { up with power := { up.power with throttle := some 2 } })).power.throttle = some 2 ∧
    (after (exec (.throttleTick 1500 95 60) { up with power := { up.power with throttle := some 15 } })).power.throttle = none := by decide +kernel

/-! ## Wheels -/

/-- A legal T28 tile entry of one token, its list at slab offset 0 and its partial region at 64. -/
def tileEntry : Nat := 1 + 2 ^ 11 + 2048 * 2 ^ 64 + 2 ^ 80 + 64 * 2 ^ 128
/-- Sagger 0 with one entry in its work list and wheel 3 waiting. -/
def listed (raw : Nat) : State :=
  let s := up { st := .serving, list := ⟨1, 0⟩, waiting := [3], slots := [0] }
  { s with mem := { s.mem with hbm := mwrite [] 4096 (leBytes raw 32) } }
/-- Wheel 0 with the given older buffer. -/
def wheel0 (x : Buf) (s : State := up) : State := s.onWheel 0 fun y => { y with buf0 := x }

theorem test_list_write : up.listSize 0 = 4 ∧ (after (exec (.listWrite 0 7) up)).hbmNum 4096 32 = 7 ∧
    ((after (exec (.listWrite 0 7) (up { st := .serving, list := ⟨4, 0⟩ }))).sagger 0).listWait = [7] := by decide +kernel
theorem test_nop_entry : (listed 3).listHead 0 = 3 ∧ ((after (exec (.entryTake 0) (listed 3))).sagger 0).list.cons = 1 := by decide +kernel
theorem test_tile_entry_taken : (listed tileEntry).takerOf 0 tileEntry = some 3 ∧ (listed tileEntry).intakeBad 0 tileEntry = none ∧
    ((listed tileEntry).sagger 0).mixes ((listed tileEntry).layer 0 0).inFmt = false ∧
    ((after (exec (.entryTake 0) (listed tileEntry))).wheel 3).buf0.st = .fill := by decide +kernel
theorem test_tile_entry_rejected : (listed (tileEntry + 2 ^ 54)).intakeBad 0 (tileEntry + 2 ^ 54) = some 0x45 ∧
    codes (after (exec (.entryTake 0) (listed (tileEntry + 2 ^ 54)))) = [0x3145#16] := by decide +kernel
/-- A fence for tally 7 to reach 5; the tally is an EVENT of depth 100 with the given PROD. -/
def fenced (prod : BitVec 48) : State :=
  { listed (2 + 2 ^ 32 * 5 + 2 ^ 224 * 7) with tallies := [(7, { cfg := 2 + 100 * 2 ^ 32, prod := prod })] }
theorem test_fence : fenceBad (2 + 2 ^ 32 * 5 + 2 ^ 224 * 7) = false ∧ (fenced 5).homeHere 7 = true ∧ ((fenced 5).tally 7).waitBad 5 true = false ∧
    ((after (exec (.fencePass 0) (fenced 5))).sagger 0).list.cons = 1 ∧ ((after (exec (.fencePass 0) (fenced 5))).tally 7).cons = 5 ∧
    ((after (exec (.fencePass 0) (fenced 4))).sagger 0).list.cons = 0 := by decide +kernel
/-- A buffer of wheel 0 whose entry, of sagger 0, has tile and lists at zero. -/
def buf (st : BufState) : Buf := { st := st, sagger := 0, entry := { partAddr := 64, tally := 7 }, toks := [(0, 0)] }
theorem test_tile_lands : (wheel0 (buf .fill)).holdsLanded (buf .fill) = true ∧ (wheel0 (buf .fill)).holdsPoisoned (buf .fill) = false ∧
    (wheel0 (buf .fill)).fillBad 0 (buf .fill).entry ((wheel0 (buf .fill)).tileData (buf .fill).entry) = some 0x52 ∧
    codes (after (exec (.tileFillDone 0 0) (wheel0 (buf .fill)))) = [0x3152#16] := by decide +kernel
theorem test_entry_joins : ((after (exec (.entryJoin 0 0) (wheel0 (buf .run)))).wheel 0).buf0.st = .drain := by decide +kernel
/-- One unsplit job on lane 2, with the given long registers. -/
def running (regs : List Int) (s : Nat := 0) : State :=
  (wheel0 { buf .run with jobs := [{ tok := 0, quarter := 0, lo := 0, hi := 1024, st := .running 2 }], s := s }).onWheel 0 fun y =>
    { y with lanes := [(2, { job := some (0, 0), lreg := regs })] }
theorem test_lane_takes : let s := wheel0 { buf .ready with jobs := [{ tok := 0, quarter := 0, lo := 0, hi := 1024 }] }
    (s.wheel 0).laneJob 2 = some (0, 0) ∧ ((after (exec (.laneTakeJob 0 2) s)).wheel 0).buf0.st = .run ∧
    (((after (exec (.laneTakeJob 0 2) s)).wheel 0).lane 2).job = some (0, 0) := by decide +kernel
theorem test_job_ends : ((after (exec (.jobEnd 0 2) (running [1, -2, 3, 2147483647]))).wheel 0).buf0.staged =
      [(0, 0, 1), (0, 1, -2), (0, 2, 3), (0, 3, 2147483647)] ∧
    ((after (exec (.jobEnd 0 2) (running [2147483648, 0, 0, 0]))).wheel 0).buf0.s = 1 ∧
    ((after (exec (.jobEnd 0 2) (running [2147483648, 0, 0, 0]))).wheel 0).buf0.staged = [] := by decide +kernel
theorem test_drain_poisoned :
    let s : State := { wheel0 { buf .drain with poisoned := true } with tallies := [(7, { cfg := 1 + 100 * 2 ^ 32 })] }
    s.homeHere 7 = true ∧ ((after (exec (.entryDrain 0) s)).wheel 0).buf0.st = .free ∧ ((after (exec (.entryDrain 0) s)).tally 7).prod = 1 := by
  decide +kernel
theorem test_suspend : ((after (exec (.suspend 0 64) up)).wheel 0).saving = some 64 ∧ codes (after (exec (.suspend 0 63) up)) = [0x3156#16] ∧
    codes (after (exec (.suspend 1 64) up)) = [0x3156#16] ∧ ((after (exec (.suspend 0 2580480) up)).wheel 0).saving = some 2580480 ∧
    codes (after (exec (.suspend 0 2580544) up)) = [0x3156#16] := by decide +kernel
theorem test_suspended_and_resumed : let s := up.onWheel 0 fun x => { x with saving := some 64, buf0 := { buf .run with s := 3 } }
    (s.wheel 0).settled = true ∧ (((after (exec (.suspendDone 0) s)).wheel 0).ctx.map (·.buf0.s)) = some 3 ∧
    ((after (exec (.resume 0) (after (exec (.suspendDone 0) s)))).wheel 0).restoring = true ∧ codes (after (exec (.resume 0) up)) = [0x3157#16] ∧
    ((after (exec (.restoreContext 0) (after (exec (.resume 0) (after (exec (.suspendDone 0) s)))))).wheel 0).buf0.s = 3 := by decide +kernel
theorem test_cancel_and_hang : ((after (exec (.slotCancelWheel 0 0) (running [0, 0, 0, 0]))).wheel 0).cancelled = [0] ∧
    ((after (exec (.wheelHang 0) (running [0, 0, 0, 0]))).wheel 0).hang = true ∧
    codes (after (exec (.wheelHang 0) (running [0, 0, 0, 0]))) = [0x3148#16] := by decide +kernel
/-- Wheel 0 with a set cell for one input block at its partial region. -/
def withSet (x : Buf) : State := { wheel0 x with mem := { slab := mwrite [] 80 [1], valid := [1] } }
theorem test_tile_ready : (withSet (buf .fill)).fillBad 0 (buf .fill).entry ((withSet (buf .fill)).tileData (buf .fill).entry) = none ∧
    tileBad 1 false ((withSet (buf .fill)).tileData (buf .fill).entry) 2048 = none ∧
    ((after (exec (.tileFillDone 0 0) (withSet (buf .fill)))).wheel 0).buf0.st = .ready := by decide +kernel
theorem test_tile_poisoned :
    let x : Buf := { buf .fill with holds := [(0, 0)] }
    let s : State := { wheel0 x with wares := [(0, { units := [(0, { poison := true })] })] }
    s.holdsLanded x = true ∧ s.holdsPoisoned x = true ∧ ((after (exec (.tileFillDone 0 0) s)).wheel 0).buf0.st = .drain := by decide +kernel
/-- The drain of wheel 0's older buffer succeeds. -/
def drains (s : State) (x : Buf) : Option Nat :=
  match ((s.drainOf 0 0).writeOwn x.stagedRows).finish (s.reg .sgrAccCtl 0) (s.layer 0 0) none with
  | .ok _ => none
  | .error e => some e
theorem test_drain : drains (withSet (buf .drain)) (buf .drain) = none ∧
    ((after (exec (.entryDrain 0) (withSet (buf .drain)))).wheel 0).buf0.st = .free ∧
    drains (withSet { buf .drain with staged := [(0, 0, -2147483648)] }) { buf .drain with staged := [(0, 0, -2147483648)] } = some 0x54 ∧
    codes (after (exec (.entryDrain 0) (withSet { buf .drain with staged := [(0, 0, -2147483648)] }))) = [0x3154#16] := by decide +kernel

/-! ## Log-domain and stochastic units -/

theorem test_t28 : (0x10#8).toNat % 8 < (0x10#8).toNat / 16 % 8 ∧ t28Group 0x10 = [1, 1, 0, 0, 0, 0, 0, 0] ∧ t28Group 0x88 = [-1, 0, 0, 0, 0, 0, 0, 0] ∧
    t28Group 0x80 = [0, 0, 0, 0, 0, 0, 0, 0] ∧ t28Bad false [0x01] = some 0x03 ∧ t28Bad false [0x70] = none := by decide +kernel
/-- Sagger 0 serves a model with one KV head of 2 elements. -/
def model (i : ImageInfo) (x : Sagger := { st := .serving }) : State :=
  up { x with images := [{ index := 0, ns := 0, off := 0, strata := [], measure := 0, info := i }] }
/-- One KV head of 2 elements, one attention layer. -/
def small : ImageInfo := { hKv := 1, headDim := 2, maxPos := 64, attnLayers := 1, layers := [{}] }
/-- LDU 0 with this item taken. -/
def holding (x : LduItem) (s : State := model small) : State := s.onLdu 0 fun y => { y with cur := some x }
/-- An operation record: one row of one block at slab offset 0, results at 4,096, second operand or page `mat`, tally 7. -/
def opRec (kind outFmt cols mat : Nat) : Nat :=
  kind + 2 ^ 16 + 2 ^ 21 * outFmt + 2 ^ 32 * cols + 2 ^ 48 + 2 ^ 96 * 1120 + 2 ^ 128 * mat + 2 ^ 160 * 4096 + 2 ^ 192 * 7
/-- Sagger 0 with one record in its operation ring. -/
def ringed (r : Nat) : State := (model small { st := .serving, ops := ⟨1, 0⟩ }).putHbmNum 8192 32 r

theorem test_take_descriptor : let s := (model small).onLdu 0 fun y => { y with attnQ := [(0, 0)] }
    s.lduUsable 0 = true ∧ s.opWaits (s.lduOwner 0) = false ∧ s.rowsFull 0 0 0 = false ∧
    ((after (exec (.lduTakeItem 0 []) s)).ldu 0).cur = some (.desc 0 0) := by decide +kernel
theorem test_take_record : (ringed (opRec 0x10 1 0 0)).lduUsable 0 = true ∧ (ringed (opRec 0x10 1 0 0)).opWaits 0 = true ∧
    (ringed (opRec 0x10 1 0 0)).opBad 0 (opRec 0x10 1 0 0) = none ∧ (ringed (opRec 0x10 0 0 0)).opBad 0 (opRec 0x10 0 0 0) = some 0x60 ∧
    codes (after (exec (.lduTakeItem 0 []) (ringed (opRec 0x10 0 0 0)))) = [0x3260#16] ∧
    (after (exec (.lduTakeItem 0 [BitVec.ofNat 256 (opRec 0x10 0 0 0)]) (model small { st := .serving }))).flog =
      (after (exec (.lduTakeItem 0 []) (ringed (opRec 0x10 0 0 0)))).flog := by decide +kernel
theorem test_table_rebuild : let s := up.onLdu 0 fun y => { y with rebuild := some 7 }
    ((after (exec (.tableRebuild 0) s)).ldu 0).step = 7 ∧ (after (exec (.tableRebuild 0) s)).reg .lduRebuilds 0 = 1 := by decide +kernel
/-- The tile of entry 0 on LDU 0. -/
def tile0 : OpenTile := { sagger := 0, qtile := 0, slot := 0, layer := 0, kvHead := 0, ndesc := 1, rows := [emptyRow 2] }
/-- A descriptor of one valid slot of page frame 0 for entry 0, and the same with a reserved bit set. -/
def desc0 : BitVec 128 := BitVec.ofNat 128 (2 ^ 55)
/-- The bytes of a sound block of format A4 when n = 639: 1,024 zeros. -/
def blockOf (n : Nat) : List Byte := 1 :: zeros n
theorem leNat_zeros : ∀ n, leNat (zeros n) = 0
  | 0 => rfl
  | n + 1 => by show (0#8).toNat + 256 * leNat (zeros n) = 0; rw [leNat_zeros n]; rfl
theorem bfield_blockOf (n lo w : Nat) (h : 8 ≤ lo) : bfield (blockOf n) lo w = 0 := by
  obtain ⟨k, hk⟩ : ∃ k, lo / 8 = k + 1 := ⟨lo / 8 - 1, by omega⟩
  have e : (((blockOf n).drop (lo / 8)).take ((lo % 8 + w + 7) / 8)) = zeros (min ((lo % 8 + w + 7) / 8) (n - k)) := by
    rw [hk]; simp [blockOf, zeros]
  rw [bfield, e, leNat_zeros]; simp [nbits]
theorem blockMant_blockOf (n i : Nat) : blockMant 1 (blockOf n) i = 0 := by
  rw [blockMant, bfield_blockOf n _ _ (by show 8 ≤ 8 * 128 + i * 4; omega)]; rfl
theorem blockExp_blockOf (n k : Nat) : blockExp (blockOf n) k = 0 := by
  have e : (32 + k) = (31 + k) + 1 := by omega
  rw [blockExp, blockOf, e, List.getD_cons_succ, zeros, List.getD_eq_getElem?_getD, List.getElem?_replicate]
  split <;> rfl
theorem any_blockOf (n k m : Nat) : ((((blockOf n).drop (k + 1)).take m).any (· != 0)) = false := by
  simp [blockOf, zeros]
theorem blockBad_blockOf (n : Nat) : blockBad (blockOf n) = none := by
  have h0 : bfield (blockOf n) 0 4 = 1 := by simp [bfield, blockOf, nbits, leNat]
  have h1 : bfield (blockOf n) 4 4 = 0 := by simp [bfield, blockOf, nbits, leNat]
  have h2 := bfield_blockOf n 8 8 (by decide)
  have h3 := bfield_blockOf n 16 16 (by decide)
  simp only [blockBad, h0, h1, h2, h3, blockMant_blockOf, blockExp_blockOf, sideList, spreadExps, sideOff, List.map_nil, List.range_zero, Nat.mul_zero, Nat.sub_zero, Nat.add_zero, if_true, any_blockOf]
  simp [rising, maxMant, blockExp_blockOf]
theorem sound_block {s : State} {a : Nat} (h : s.blockAtSlab a = blockOf 639) : s.blockViol a = none := by
  rw [State.blockViol, h]; exact blockBad_blockOf _


theorem sound_mem {s : State} {a : Nat} {m : Memories} (e : s.mem = m)
    (h : m.slabRead (slabIx a) (blockBytes (nbits (leNat (m.slabRead (slabIx a) 1)) 0 4)) = blockOf 639) : s.blockViol a = none := by
  subst e; exact sound_block h
/-- LDU 0 has taken a descriptor for the tile; the query entry has Q_ADDR 0, OUT_ADDR 4,096 and one descriptor. -/
def attending (t : OpenTile) (d : BitVec 128) (page : Byte) : State :=
  { (model small { st := .serving, qOpen := [0] }).onLdu 0 fun y => { y with cur := some (.desc 0 d), tiles := [t] } with
    mem := { hbm := [(0, page), (16404, 1)], slab := [(0, 1), (65557, 0x10), (65560, 1)], valid := [0, 1024] } }
theorem test_page_descriptor : (attending tile0 desc0 1).descBad 0 desc0.toNat = none ∧ descTile desc0.toNat = 0 ∧
    ((attending tile0 desc0 1).ldu 0).tileAt 0 0 = some tile0 ∧ (attending tile0 desc0 1).pageBad 0 desc0.toNat = false ∧
    nbits desc0.toNat 55 9 = 1 ∧ (attending tile0 0 1).descBad 0 0 = some 0x72 ∧
    codes (after (exec (.pageDescriptor 0 .good 0) (attending tile0 0 1))) = [0x3272#16] ∧
    (attending tile0 desc0 0x80).pageBad 0 desc0.toNat = true ∧
    (((after (exec (.pageDescriptor 0 .good 0) (attending tile0 desc0 0x80))).ldu 0).tiles.map (·.masked)) = [true] := by decide +kernel
theorem test_page_descriptor_error :
    (((after (exec (.pageDescriptor 0 .uncorrectable 5) (attending tile0 desc0 1))).ldu 0).tiles.map (·.masked)) = [true] ∧
    (after (exec (.pageDescriptor 0 .uncorrectable 5) (attending tile0 desc0 1))).reg .hbmUe 0 = 1 := by decide +kernel
theorem test_page_descriptor_query : (attending tile0 desc0 1).queryBad 0 ((attending tile0 desc0 1).qtile 0 0) = none := by
  have e : blockAddrs (qtQAddr ((attending tile0 desc0 1).qtile 0 0)) ((attending tile0 desc0 1).slotLayer 0
    (qtSlot ((attending tile0 desc0 1).qtile 0 0)) (qtLayer ((attending tile0 desc0 1).qtile 0 0))).slot
    ((attending tile0 desc0 1).imageOfSlot 0 (qtSlot ((attending tile0 desc0 1).qtile 0 0))).qBlocks = [0] := by decide +kernel
  rw [State.queryBad, e, List.findSome?_cons, sound_block (by decide +kernel)]; rfl
theorem test_tile_closes : (({ tile0 with taken := 1 } : OpenTile).rows.flatMap fun r => (resultRow (r.results 2)).vals).length = 2 ∧
    ((after (exec (.queryTileClose 0) (attending { tile0 with taken := 1, masked := true } 0 1))).ldu 0).tiles = [] ∧
    ((after (exec (.queryTileClose 0) (attending { tile0 with taken := 1, masked := true } 0 1))).sagger 0).qOpen = [] := by decide +kernel
theorem test_ldu_cancel : ((after (exec (.lduCancelSlot 0 0) (attending tile0 desc0 1))).ldu 0).tiles = [] ∧
    ((after (exec (.lduCancelSlot 0 1) (attending tile0 desc0 1))).ldu 0).tiles = [tile0] := by decide +kernel

/-- LDU 0 has taken the record; a sound block at slab offset 0 and at 4,096, and tally 7 is an EVENT. -/
def working (r : Nat) (block : Byte := 1) : State :=
  { (model small).onLdu 0 fun y => { y with cur := some (.op 0 (BitVec.ofNat 256 r)) } with
    tallies := [(7, { cfg := 2 + 100 * 2 ^ 32 })], mem := { slab := [(0, block), (4096, 1)], valid := [0, 64] } }
theorem blocks_of_working (r : Nat) : (working r).blockViol 0 = none ∧ (working r).blockViol 4096 = none := by
  constructor
  · exact sound_block (by show (State.reset.onMem fun _ => { slab := [(0, 1), (4096, 1)], valid := [0, 64] } : State).blockAtSlab 0 = _; decide +kernel)
  · exact sound_block (by show (State.reset.onMem fun _ => { slab := [(0, 1), (4096, 1)], valid := [0, 64] } : State).blockAtSlab 4096 = _; decide +kernel)
theorem test_records_taken : ∀ k ∈ [(0x10, 1, 0), (0x11, 0, 1), (0x12, 1, 0), (0x13, 0, 1)],
    ((working (opRec k.1 k.2.1 k.2.2 0)).curOp 0 k.1).isSome = true ∧ (opOf (opRec k.1 k.2.1 k.2.2 0)).rows = 1 ∧
    (opOf (opRec k.1 k.2.1 k.2.2 0)).dim = 1 ∧ (working (opRec k.1 k.2.1 k.2.2 0)).homeHere 7 = true ∧
    (working (opRec k.1 k.2.1 k.2.2 0)).chunkPoisoned 0 2112 = false ∧
    (working (opRec k.1 k.2.1 k.2.2 0)).colBad (opOf (opRec k.1 k.2.1 k.2.2 0)) 0 = false := by decide +kernel
theorem test_records_sound : ∀ k ∈ [(0x10, 1, 0), (0x11, 0, 1), (0x12, 1, 0), (0x13, 0, 1)],
    (opOf (opRec k.1 k.2.1 k.2.2 0)).inputs.findSome? (working (opRec k.1 k.2.1 k.2.2 0)).blockViol = none := by
  intro k hk
  have e : ∀ k ∈ [(0x10, 1, 0), (0x11, 0, 1), (0x12, 1, 0), (0x13, 0, 1)], ∀ a ∈ (opOf (opRec k.1 k.2.1 k.2.2 0)).inputs, a = 0 ∨ a = 4096 := by
    decide +kernel
  rw [List.findSome?_eq_none_iff]
  intro a ha
  rcases e k hk a ha with h | h <;> rw [h]
  · exact (blocks_of_working _).1
  · exact (blocks_of_working _).2
theorem test_records_of_bad_blocks : (opOf (opRec 0x13 0 1 0)).inputs.findSome? (working (opRec 0x13 0 1 0) 0).blockViol = some 0x10 ∧
    ((after (exec (.norm 0) (working (opRec 0x10 1 0 0) 0))).tally 7).prod = 1 ∧ ((after (exec (.prod 0) (working (opRec 0x11 0 1 0) 0))).tally 7).prod = 1 ∧
    ((after (exec (.glu 0) (working (opRec 0x12 1 0 0) 0))).tally 7).prod = 1 ∧ ((after (exec (.outer 0) (working (opRec 0x13 0 1 0) 0))).tally 7).prod = 1 := by
  decide +kernel

/-- A scored position of slot 0 and its key, with 1 or 2 KV heads. -/
def scoring (heads : Nat) : State :=
  (model { small with hKv := heads }).onSsu 0 fun x => { x with jobs := [⟨0, 0, 0, 0, 0, [1]⟩], keys := [{ sagger := 0, slot := 0, layer := 0, lslot := 0, row := 0 }] }
theorem test_ssu_stream : ((scoring 1).ssu 0).keys.length = 1 ∧ ((after (exec (.ssuStream 0) (scoring 1))).ssu 0).jobs = [] ∧
    (after (exec (.ssuStream 0) (scoring 2))).reg .ssuEst 0 = 1 := by decide +kernel
theorem test_ssu_key_complete :
    let s := (model small).onSsu 0 fun x => { x with done := [{ sagger := 0, slot := 0, layer := 0, lslot := 5, row := 0, sum := 64, heads := 1 }] }
    s.stageFull 0 = false ∧ (after (exec (.ssuKeyComplete 0) s)).hbmNum (24576 + 12) 4 = 64 ∧ (after (exec (.ssuKeyComplete 0) s)).hbmNum (24576 + 4) 4 = 5 := by
  decide +kernel
/-- A stage record of COUNT 64 for slot 0, row 0; the request is live, and the row has fired or not. -/
def staging (fired : List (Nat × Nat)) : State :=
  { model small { st := .serving, stageOrder := [0], stageFired := fired, live := [{ chan := 0, sub := {} }] } with
    mem := { hbm := [(24588, 64)] } }
theorem test_ssu_apply : ((staging [(0, 0)]).reqOfSlot 0 0).isSome = true ∧ (after (exec (.ssuApply 0 0) (staging [(0, 0)]))).hbmNum 3 1 = 64 ∧
    (after (exec (.ssuApply 0 0) (staging []))).hbmNum 3 1 = 0 ∧ (after (exec (.ssuApply 0 0) (staging []))).reg .ssuDiscard 0 = 1 := by decide +kernel

/-! ## KV cache and expert routing -/

/-- A row of slot 0 in the running step; its page-table entry has frame 1 and the marks `m` (1 valid, 2 shared). -/
def kvState (m : Byte) (slab : Mem := [(0, 1)]) : State :=
  { model small { st := .serving, phase := .running, ragged := [⟨0, 0, 0, false, false, 0, 0, 1, false⟩] } with
    mem := { hbm := [(16400, 20), (16404, 1), (16408, 21), (81920, 1), (81923, m), (81927, 128)], slab := slab, valid := [0] } }
theorem test_kv_shared : ((kvState 3).raggedOf 0 0).isSome = true ∧ ((kvState 3).pte 0 0 0 0).valid = true ∧ small.kvb ≤ frameBytes ∧
    ((kvState 3).sagger 0).phase = .running ∧ (kvState 3).maskedSlot 0 0 = false ∧ ((kvState 3).pte 0 0 0 0).shared = true ∧
    codes (after (exec (.kvStoreWrite 0 0 0 0 0 0) (kvState 3))) = [0x3674#16] := by decide +kernel
theorem test_kv_write : ((kvState 1).pte 0 0 0 0).shared = false ∧ (kvState 1).pteAddr 0 0 0 0 = 81920 ∧ (kvState 1).sideWordAddr 0 0 0 0 = 86016 ∧
    ((kvState 1).pte 0 0 0 0).frame * frameBytes = 131072 ∧ (kvState 1).kvBlocks 0 0 0 0 = [0] ∧
    codes (after (exec (.kvStoreWrite 0 0 0 0 0 0) (kvState 1 []))) = [] := by decide +kernel
theorem sound_kv : (kvState 1).blockViol 0 = none :=
  sound_mem (m := { hbm := [(16400, 20), (16404, 1), (16408, 21), (81920, 1), (81923, 1), (81927, 128)], slab := [(0, 1)], valid := [0] }) rfl
    (by decide +kernel)
theorem test_kv_operands : ((kvState 1).kvBlocks 0 0 0 0 ++ (kvState 1).kvBlocks 0 0 0 0).findSome? (kvState 1).blockViol = none := by
  have e : ∀ a ∈ (kvState 1).kvBlocks 0 0 0 0 ++ (kvState 1).kvBlocks 0 0 0 0, a = 0 := by decide +kernel
  rw [List.findSome?_eq_none_iff]
  intro a ha
  rw [e a ha]
  exact sound_kv
theorem test_walk : (kvState 1).leastLdu 0 = some 0 ∧ (kvState 1).rowPages 0 0 0 ⟨0, 0, 0, false, false, 0, 0, 1, false⟩ 0 = [0] ∧
    (kvState 1).pagesOk 0 0 0 ⟨0, 0, 0, false, false, 0, 0, 1, false⟩ = true ∧ (kvState 1).walkRoom 0 0 1 1 = true ∧
    ((after (exec (.walkOpenTile 0 0 4096) (kvState 1))).ldu 0).attnQ.length = 1 ∧
    (kvState 0).pagesOk 0 0 0 ⟨0, 0, 0, false, false, 0, 0, 1, false⟩ = false ∧
    ((after (exec (.walkOpenTile 0 0 4096) (kvState 0))).sagger 0).walk = ⟨1, 0, 0, 0⟩ := by decide +kernel
/-- The request of slot 0 has a copy to do. -/
def moving (q : Req) : State := (kvState 1).onSagger 0 fun x => { x with live := [q] }
theorem test_slot_copy : ((moving { chan := 0, sub := {}, copies := [(0, 1)] }).copier 0).isSome = true ∧
    (((after (exec (.slotCopy 0) (moving { chan := 0, sub := {}, copies := [(0, 1)] }))).sagger 0).live.map (·.copies)) = [[]] ∧
    (after (exec (.slotCopy 0) (moving { chan := 0, sub := {}, copies := [(0, 1)] }))).reg .atnMoveBytes 0 = 8 := by decide +kernel
theorem test_compact_copy : ((moving { chan := 0, sub := {}, compCopies := [(0, 1, 0)] }).compactor 0).isSome = true ∧
    (moving { chan := 0, sub := {}, compCopies := [(0, 1, 0)] }).copier 0 = none ∧
    (((after (exec (.compactCopy 0) (moving { chan := 0, sub := {}, compCopies := [(0, 1, 0)] }))).sagger 0).live.map (·.compSides)) =
      [[(0, 0, 0)]] := by decide +kernel

/-- A model whose one layer is a MoE layer of two experts. -/
def moeModel : ImageInfo :=
  { small with layers := [{ slot := 16, moe := some { experts := 2, expertTiles := [(0, 64, 128), (192, 256, 320)] } }] }
/-- Sagger 0 in a step of one row of that model, with the given router. -/
def routing (r : Router) : State :=
  (model moeModel { st := .serving, phase := .running, rowsN := 1, ragged := [⟨0, 0, 0, false, false, 0, 0, 1, false⟩] }).onRouter 0 fun _ => r
theorem test_route_row : (routing {}).routeLayer 0 = some 0 ∧ rowSlot ((routing {}).sagger 0).ragged 0 = some 0 ∧ (routing {}).rowDead 0 0 = false ∧
    neverFits ((routing {}).arena 0) ((routing {}).chunkShape 0 0).sizes = false ∧
    ((after (exec (.routeRow 0 0 0 [0] []) (routing {}))).sagger 0).router.routed = [0] ∧
    ((after (exec (.routeRow 0 0 0 [0] []) (routing {}))).sagger 0).router.counts = [(0, 1)] ∧
    ((after (exec (.routeRow 0 0 0 [0] []) (routing { arenaUsed := [(131072, 65536)] }))).sagger 0).router.stalled = some 0 := by decide +kernel
theorem test_layer_close : let s := routing { layer := some 0, routed := [0] }
    ((after (exec (.layerClose 0) s)).sagger 0).router.closed = true ∧ ((after (exec (.layerClose 0) s)).sagger 0).router.epoch = 1 := by decide +kernel
/-- A closed layer with one chunk of one row. -/
def closedRouter : Router := { layer := some 0, routed := [0], closed := true, chunks := [{ expert := 0, rows := [(0, 0, [0])], areas := [(131072, 64)], flushed := true }] }
theorem test_glu_emit : ((routing closedRouter).tally 0).waitBad 0 true = true ∧
    (({ routing closedRouter with tallies := [(0, { cfg := 2 + 100 * 2 ^ 32 })] }).tally 0).waitBad 0 true = false ∧
    ((after (exec (.closeGluEmit 0) { routing closedRouter with tallies := [(0, { cfg := 2 + 100 * 2 ^ 32 })] })).sagger 0).router.gluDone = true ∧
    ((after (exec (.closeGluEmit 0) { routing closedRouter with tallies := [(0, { cfg := 2 + 100 * 2 ^ 32 })] })).sagger 0).ops.prod = 1 := by decide +kernel
theorem test_arena_resume : ((after (exec (.arenaResume 0) (routing { closedRouter with stalled := some 0, arenaUsed := [(131072, 64)] }))).sagger 0).router.stalled =
    none := by decide +kernel
theorem test_mix_run : (routing { closedRouter with gluDone := true }).luted 0 = false ∧
    ((after (exec (.mixRun 0 [[0]]) (routing { closedRouter with gluDone := true, chunks := [], shared := [] }))).sagger 0).router.nextMoe = 1 ∧
    reached ((routing { closedRouter with gluDone := true }).tally 2).prod 0 = true ∧
    (routing { closedRouter with gluDone := true, shared := [(0, [])] }).rowDead 0 ((routing closedRouter).routeOf 0 0).1 = false ∧
    (routing closedRouter).mixBlocks 0 ((routing closedRouter).chunkShape 0 0) 0 [] = [] := by decide +kernel

/-- The lead (role 1) or the follower (role 2) of a pair with sagger 0 luted, and this message received. -/
def lutedPair (role : Nat) (msg : List Byte) (r : Router := {}) : State :=
  let s := (routing r).onPort 6 fun x => { x with st := .up, rx := [(0, msg)] }
  { s with plan := some { plan with device := { role := role, luted := 1 } }, lute := { paired := true } }
/-- A lute header. -/
def luteHdr (type id n len : Nat) : List Byte := leBytes (type + 2 ^ 16 * 9 + 2 ^ 32 * id + 2 ^ 48 * n + 2 ^ 64 * len) 16
/-- A TOKEN of one choice, expert 1, with one input block of 16 bytes. -/
def tokenMsg : List Byte := luteHdr 0x21 0 1 24 ++ leBytes 1 4 ++ leBytes 4096 4 ++ zeros 16 ++ zeros 8
theorem test_lute_token : (lutedPair 2 tokenMsg).luteHead = some (leNat (tokenMsg.take 16), (tokenMsg.drop 16).take 24) ∧
    (lutedPair 2 tokenMsg).luteSagger (leNat (tokenMsg.take 16)) = some 0 ∧
    (lutedPair 2 tokenMsg).tokenBad 0 (leNat (tokenMsg.take 16)) ((tokenMsg.drop 16).take 24) = false := by decide +kernel
theorem test_lute_token_taken : ((after (exec .luteToken (lutedPair 2 tokenMsg))).sagger 0).router.routed = [0] := by decide +kernel
theorem test_lute_close : (lutedPair 2 (luteHdr 0x22 0 0 0)).luteHead = some (leNat (luteHdr 0x22 0 0 0), []) ∧
    ((after (exec .luteClose (lutedPair 2 (luteHdr 0x22 0 0 0) { layer := some 0 }))).sagger 0).router.closed = true := by decide +kernel
theorem test_lute_answers : (lutedPair 1 (luteHdr 0x24 1 0 0) { layer := some 0 }).lead = true ∧
    ((after (exec .luteEmpty (lutedPair 1 (luteHdr 0x24 1 0 0) { layer := some 0 }))).sagger 0).router.answered = [1] ∧
    ((after (exec (.luteDone [(0, [7])]) (lutedPair 1 (luteHdr 0x23 1 1 0) { layer := some 0, remote := [(1, 1)] }))).sagger 0).router.answered = [1] ∧
    (lutedPair 1 (luteHdr 0x23 1 1 0) { layer := some 0 }).slabRegion 0 0 1 1 = true ∧
    (after (exec (.luteDone [(0, [7])]) (lutedPair 1 (luteHdr 0x23 1 1 0) { layer := some 0, remote := [(1, 1)] }))).slab 0 1 = [7] := by decide +kernel

/-! ## Serving -/

/-- Channel 0 has received this message. -/
def received (type : Nat) (p : List Byte) (s : State) : State := s.onChan 0 fun x => { x with st := .openPlain, rx := [{ type := type, tag := 5, payload := p }] }
/-- A submit of one prompt token for MODEL 0, tenant 0, REQ_ID `id`. -/
def submitMsg (id tok : Nat) : List Byte :=
  leBytes id 4 ++ leBytes 0 4 ++ leBytes 0xFFFF0000 4 ++ leBytes 0 4 ++ leBytes 1 4 ++ leBytes 1 4 ++ zeros 36 ++ leBytes 0xFFFF 4 ++ leBytes tok 4
/-- A request of channel 0. -/
def request (id : BitVec 32) (st : ReqState := .decode) : Req := { chan := 0, tag := 9, sub := { reqId := id, prompt := [3] }, st := st }
/-- Sagger 0 serves with tenant 0 and these requests queued. -/
def queueing (q : List Req) : State := model small { st := .serving, tenants := [{}], queue := q }
/-- Messages that channel 0 sends: TYPE, and byte 4 of the payload (REASON of a DONE). -/
def sentOn (s : State) : List (Nat × Byte) := (s.chan 0).tx.map fun m => (m.type, m.payload.getD 4 0)
theorem test_submit : (received 1 (submitMsg 7 3) (queueing [])).headMsg 0 1 = some ⟨1, 5, submitMsg 7 3, 0⟩ ∧
    (queueing []).turnsAway 0 = false ∧ (queueing []).submitBad 0 (submitMsg 7 3) = none ∧ (queueing []).submitBad 0 (submitMsg 7 16) = some 0x30 ∧
    ((after (exec (.submit 0) (received 1 (submitMsg 7 3) (queueing [])))).sagger 0).queue.map (·.sub.reqId) = [7] ∧
    sentOn (after (exec (.submit 0) (received 1 (submitMsg 7 16) (queueing [])))) = [(0x12, 5)] := by decide +kernel
theorem test_submit_refused :
    ((queueing [request 7]).sagger 0).findReq 0 7 = some (request 7) ∧
    sentOn (after (exec (.submit 0) (received 1 (submitMsg 7 3) (queueing [request 7])))) = [(0x12, 6)] ∧
    sentOn (after (exec (.submit 0) (received 1 (submitMsg 7 3) (queueing [request 8, request 9])))) = [(0x12, 7)] ∧
    sentOn (after (exec (.submit 0) (received 1 (submitMsg 7 3) { queueing [] with boot := {} }))) = [(0x12, 5)] := by decide +kernel
/-- Sagger 0 has one live request in its step, of slot 0 and with sound page tables. -/
def live (q : Req) (i : ImageInfo := small) : State :=
  { model i { st := .serving, phase := .running, tenants := [{ budget := { pages := 4 } }], live := [q], ragged := [⟨0, 0, 0, q.rows > 1, false, 0, 0, q.rows, false⟩] } with
    mem := { hbm := [(16384, 1), (16400, 20), (16404, 16), (16408, 21), (81920, 1), (81923, 1), (81927, 128)], slab := [(0, 1)], valid := [0] } }
theorem test_cancel : sentOn (after (exec (.cancel 0) (received 2 (leBytes 7 4) (queueing [request 7])))) = [(0x12, 3)] ∧
    ((after (exec (.cancel 0) (received 2 (leBytes 7 4) (queueing [request 7])))).sagger 0).queue = [] ∧
    (((after (exec (.cancel 0) (received 2 (leBytes 7 4) (live { request 7 with rows := 1 })))).sagger 0).live.map (·.st)) = [.ended] ∧
    sentOn (after (exec (.cancel 0) (received 2 (leBytes 7 4) (queueing [])))) = [(0x12, 10)] := by decide +kernel
theorem test_budget : let p : List Byte := leBytes 4 4 ++ leBytes 100 4 ++ leBytes 9 4 ++ leBytes 1 4
    budgetBad p = false ∧ (queueing []).tenantsFull 0 4 = false ∧
    (((after (exec (.budgetMessage 0) (received 3 p (queueing [])))).sagger 0).tenants.map (·.next.isSome)) = [false, true] ∧
    codes (after (exec (.budgetMessage 0) (received 3 (leBytes 4 4) (queueing [])))) = [0x2694#16] ∧
    codes (after (exec (.budgetMessage 0) (received 3 p { queueing [] with plan := some { plan with saggers := [{ sagger := 0 }] } }))) = [0x2695#16] := by
  decide +kernel

/-- A decode request with a draft slot and the given rows. -/
def drafting : Req := { request 7 with draftSlot := some 1, rows := 3, tree := [⟨3, 0, 0⟩], sub := { reqId := 7, spec := 1, draft := 0, specNodes := 3, specDepth := 2, branch := 2 } }
theorem test_draft : (live drafting).running 0 0 = some drafting ∧ (live drafting).imageOfSlot 0 0 = small ∧ (live drafting).nextPos 0 0 = 0 ∧
    lastLevel drafting.tree = [0] ∧ treeBad [⟨3, 0, 0⟩, ⟨0, 0, 1⟩, ⟨1, 0, 1⟩] 0 64 = false := by decide +kernel
theorem sound_live (q : Req) (i : ImageInfo) : (live q i).blockAtSlab 0 = blockOf 639 := by
  show ({ slab := [(0, 1)], valid := [0] } : Memories).slabRead (slabIx 0) (blockBytes (nbits (leNat (({ slab := [(0, 1)], valid := [0] } : Memories).slabRead (slabIx 0) 1)) 0 4)) = _
  decide +kernel
theorem logits_sound {s : State} (h : s.blockViol 0 = none) : s.logitsBad [0] = none := by
  rw [State.logitsBad, List.findSome?_eq_none_iff]
  intro a ha
  rw [List.mem_singleton.mp ha]
  exact h
theorem test_draft_logits : (live drafting).logitsBad [0] = none := logits_sound (sound_block (sound_live _ _))
theorem values_blockOf (n : Nat) : (blockElems (blockOf n)).map Elem.val = List.replicate 1024 {} := by
  have h0 : bfield (blockOf n) 0 4 = 1 := by simp [bfield, blockOf, nbits, leNat]
  have h1 : bfield (blockOf n) 4 4 = 0 := by simp [bfield, blockOf, nbits, leNat]
  simp only [blockElems, h0, sideList, h1, List.range_zero, List.map_nil, List.find?_nil, blockMant_blockOf, List.map_map]
  rw [List.eq_replicate_iff]
  constructor
  · simp
  · intro x hx
    obtain ⟨i, _, rfl⟩ := List.mem_map.mp hx
    rfl
theorem test_draft_tree : (live drafting).growTree drafting 16 3 [[0]] = [⟨3, 0, 0⟩, ⟨0, 0, 1⟩, ⟨1, 0, 1⟩] := by
  have e : (live drafting).logits 16 [0] = List.replicate 16 {} := by
    have h : (live drafting).blockValues (0 : BitVec 32).toNat = List.replicate 1024 {} := by
      rw [State.blockValues, show (live drafting).blockAtSlab (0 : BitVec 32).toNat = blockOf 639 from sound_live _ _, values_blockOf]
    rw [State.logits, List.flatMap_cons, List.flatMap_nil, List.append_nil, h, List.take_replicate]
    rfl
  have l : lastLevel drafting.tree = [0] := by decide +kernel
  simp only [State.growTree, l, List.length_cons, List.length_nil, List.getD_cons_zero, State.childrenOf, Nat.zero_add, List.range_one, List.flatMap_cons, List.flatMap_nil, e]
  decide +kernel
/-- A tree of two nodes whose walk has ended at node 1, at node 0, or has not begun. -/
def treeReq (samples : List (Nat × Nat × BitVec 16)) : Req :=
  { request 7 with rows := 2, tree := [⟨3, 0, 0⟩, ⟨5, 0, 1⟩], samples := samples, sub := { reqId := 7, maxNew := 9, penWin := 0 } }
theorem test_sample : (live (treeReq [])).givesToken 0 (treeReq []) = true ∧ ((live (treeReq [])).walkOf 0 (treeReq [])).next = some 0 ∧
    ((live (treeReq [(0, 5, 0)])).walkOf 0 (treeReq [(0, 5, 0)])).next = some 1 ∧ (live (treeReq [])).running 0 0 = some (treeReq []) := by decide +kernel
theorem test_sample_logits : (live (treeReq [])).logitsBad [0] = none := logits_sound (sound_block (sound_live _ _))
theorem test_verify : (live (treeReq [(0, 5, 0), (1, 6, 0)])).walkOf 0 (treeReq [(0, 5, 0), (1, 6, 0)]) = ⟨[0, 1], [(5, 0), (6, 0)], none⟩ ∧
    (((after (exec (.verifyTree 0 0) (live (treeReq [(0, 5, 0), (1, 6, 0)])))).sagger 0).live.map (·.path)) = [some [0, 1]] ∧
    (after (exec (.verifyTree 0 0) (live (treeReq [(0, 5, 0), (1, 6, 0)])))).reg .sgrSpecAccept 0 = 1 := by decide +kernel
/-- The same request between steps. -/
def between : State := (live (request 7)).onSagger 0 fun x => { x with phase := .none, ragged := [] }
theorem test_plan : between.scoresDone 0 = true ∧ ((between.planRun 0).taken.map (·.rows)) = [1] ∧
    ((after (exec (.stepPlan 0) between)).sagger 0).phase = .running ∧ ((after (exec (.stepPlan 0) between)).sagger 0).stepNum = 1 := by decide +kernel
theorem test_fire : (live { request 7 with rows := 1 }).fireReady 0 = false ∧ (live { request 7 with rows := 1, samples := [(0, 5, 0)] }).fireReady 0 = true ∧
    ((after (exec (.firePoint 0) (live { request 7 with rows := 1, samples := [(0, 5, 0)] }))).sagger 0).phase = .none := by
  decide +kernel
/-- A swapped request with one page in unit 0. -/
def swapping : Req := { request 7 .swapped with before := .decode, units := [(0, 0, 0)] }
/-- Its page's stream has sent its one message. -/
def pageGone : State := { live swapping with lat := { outs := [{ sid := 0, peer := .host 0, kind := 1, sagger := 0, ctxA := 0, ctxB := 0, src := 131072, len := 0, sent := 1 }] } }
theorem test_swap_out : pageGone.swapped 0 0 = some swapping ∧ pageGone.pageIsOut 0 swapping 0 0 = true ∧
    (((after (exec (.swapOutPage 0 0) pageGone)).pte 0 0 0 0).swapped) = true := by decide +kernel
/-- A second page of the sequence, in frame 2. -/
def twoPages (s : State) : State := { s with mem := { s.mem with hbm := s.mem.hbm ++ [(81928, 2), (81931, 1), (81935, 128)] } }
theorem test_swap_out_first : (twoPages pageGone).pageIsOut 0 swapping 0 0 = true ∧
    ((twoPages pageGone).putPte 0 0 0 0 { (twoPages pageGone).pte 0 0 0 0 with swapped := true, frame := 0 }).swapPages 0 swapping = [(0, 1, 2)] := by
  decide +kernel
/-- Its record says that all of it is swapped out. -/
def swappedOut : State := (live swapping).onHbm fun m => mwrite m 16384 [5]
theorem test_swap_in : swappedOut.swapInOrder 0 = [swapping] ∧
    (match swappedOut.takeFrames 0 0 1 with | .ok r => some r.1 | .error _ => none) = some [1] ∧ swapsBefore swapping swapping = false ∧
    ((after (exec (.swapIn 0 0) swappedOut)).swaps.map fun r => (r.write, r.layer, r.page, r.block)) = [(false, 0, 0, 32)] := by decide +kernel

/-! ## Memory tiers -/

/-- Sagger 0 serves and its slabs wait for the clear after a fire point; one line holds a byte. -/
def dirty : State :=
  { model small { st := .serving, cleared := false } with mem := { slab := [(0, 9), (64, 5)], valid := [0, 1] }, tallies := [(7, { cfg := 2 + 100 * 2 ^ 32 })] }
theorem test_slab_write : (after (exec (.slabWrite 0 2621439 [7]) up)).mem.slab = [(2621439, 7)] ∧
    (after (exec (.slabWrite 0 2621439 [7]) up)).mem.valid = [40959] := by decide +kernel
theorem test_slab_read : (after (exec (.slabRead 0 0 1 .good) dirty)).mem.slabOut = [9] ∧ (after (exec (.slabRead 0 128 1 .good) dirty)).reg .slbInvalidRd 0 = 1 ∧
    (after (exec (.slabRead 0 0 1 .corrected) dirty)).reg .slbCe 0 = 1 ∧ codes (after (exec (.slabRead 0 0 1 .uncorrectable) dirty)) = [0x37A9#16] := by decide +kernel
theorem test_slab_clear : (after (exec (.slabClear 0) dirty)).mem.slab = [] ∧ (after (exec (.slabClear 0) dirty)).mem.valid = [] ∧
    ((after (exec (.slabClear 0) dirty)).sagger 0).clearTally = 1 ∧ answers (exec (.slabClear 0) up) up = true ∧ (up.sagger 0).cleared = true := by
  decide +kernel
/-- A slab operation record: OP, source or pattern, LEN; its destination is slab offset 64 and its tally is 7. -/
def sop (op src len : Nat) : BitVec 128 := BitVec.ofNat 128 (op + 2 ^ 16 * 7 + 2 ^ 32 * 64 + 2 ^ 64 * src + 2 ^ 96 * len)
theorem test_fill : dirty.sopBad 0 (sop 1 0x04030201 8).toNat 4 = false ∧ (after (exec (.fill 0 (sop 1 0x04030201 8)) dirty)).slab 64 8 = [1, 2, 3, 4, 1, 2, 3, 4] ∧
    ((after (exec (.fill 0 (sop 1 0x04030201 8)) dirty)).tally 7).prod = 1 ∧ dirty.sopBad 0 (sop 1 0 3).toNat 4 = true ∧
    codes (after (exec (.fill 0 (sop 1 0 3)) dirty)) = [0x37A0#16] := by decide +kernel
theorem test_copy_hload : dirty.sopBad 0 (sop 2 0 4).toNat 4 = false ∧ dirty.slabRegion 0 0 4 4 = true ∧ (after (exec (.copy 0 (sop 2 0 4)) dirty)).slab 64 4 = [9, 0, 0, 0] ∧
    codes (after (exec (.copy 0 (sop 2 0 3)) dirty)) = [0x37A0#16] ∧ dirty.inWindow 0 512 4 = false ∧ dirty.mayRead 0 512 4 = true ∧
    (after (exec (.hload 0 (sop 3 1 4)) { dirty with mem := { hbm := [(512, 8)] } })).slab 64 4 = [8, 0, 0, 0] ∧
    codes (after (exec (.hload 0 (sop 3 1 3)) dirty)) = [0x37A0#16] := by decide +kernel
theorem test_gather : sopOp (sop 4 0 1 + BitVec.ofNat 128 16).toNat = 4 ∧ dirty.gatherBad 0 (sop 4 0 1 + BitVec.ofNat 128 16).toNat = false ∧
    (dirty.image? 0 (dirty.sagger 0).stepModel).isSome = true ∧
    (∀ x ∈ dirty.gatherIds (sop 4 0 1 + BitVec.ofNat 128 16).toNat, x < (dirty.layer 0 0).outputs) := by decide +kernel
/-- A load record of one unit from HBM unit 0 to ware-board unit 0. -/
def loadRec : BitVec 256 := BitVec.ofNat 256 (0x31 + 2 ^ 8 + 2 ^ 128 + 2 ^ 160 * 7)
/-- Sagger 0 with an image in protected stratum 0. -/
def weighty (i : ImageInfo := { small with weightLen := 16 }) : State :=
  { up { st := .serving, images := [{ index := 0, ns := 0, off := 0, strata := [0], measure := 0, info := i }] } with mem := { wp := [0] }, wares := [(0, { next := 1 })] }
/-- The load of that record under number 1. -/
def load1 : Load := { (loadOf loadRec.toNat 0).2 with num := 1 }
theorem test_load : weighty.loadBad 0 loadRec.toNat = false ∧ ((after (exec (.load 0 loadRec) weighty)).ware 0).queue = [load1] ∧
    ((after (exec (.load 0 loadRec) weighty)).ware 0).units = [(0, { arm := 1 })] ∧ weighty.loadBad 0 (loadRec.toNat + 2 ^ 21) = true ∧
    codes (after (exec (.load 0 0) weighty)) = [0x38A1#16] := by decide +kernel
theorem test_load_full : (({ weighty with wares := [(0, { queue := List.replicate 4096 load1 })] } : State).ware 0).queue.length = 4096 := by decide +kernel
theorem test_load_land : let s : State := { weighty with wares := [(0, { queue := [load1], next := 2 })] }
    s.loadBlocked 0 load1 = false ∧ (s.loadData 0 load1).isSome = true ∧ load1.sagger < 12 ∧
    (tget {} ((after (exec (.loadLand 0 1 .good 0) s)).ware 0).units 0).land = 1 ∧ ((after (exec (.loadLand 0 1 .good 0) s)).ware 0).queue = [] := by decide +kernel
theorem test_load_land_error : let s : State := { weighty with wares := [(0, { queue := [load1], next := 2 })] }
    s.inWindow 0 (load1.src * 1024) (load1.len * 1024) = false ∧
    (after (exec (.loadLand 0 1 .uncorrectable 0) s)).reg .hbmUe 0 = 1 ∧
    (tget {} ((after (exec (.loadLand 0 1 .uncorrectable 0) s)).ware 0).units 0).poison = true ∧
    (after (exec (.loadLand 0 1 .corrected 0) s)).reg .hbmCe 0 = 1 := by decide +kernel
theorem test_load_demand : let s : State := { wheel0 { buf .fill with holds := [(0, 1)] } with wares := [(0, { queue := [load1] })] }
    s.awaited { buf .fill with holds := [(0, 1)] } load1 = true ∧ ((after (exec (.loadDemand 0 0) s)).ware 0).queue.map (·.demand) = [true] ∧
    (after (exec (.loadDemand 0 0) s)).reg .wbdDemand 0 = 1 := by decide +kernel
theorem test_promote : let s : State := { weighty with wares := [(0, { queue := [load1] })], tb := { ref := 10000 } }
    ((after (exec (.hbmPromote 0 1) s)).ware 0).queue.map (·.promoted) = [1] ∧
    ((after (exec (.hbmPromote 0 1) { s with tb := { ref := 9999 } })).ware 0).queue.map (·.promoted) = [0] := by decide +kernel
theorem test_narrow : up.owns 0 8 8 = true ∧ up.rangeProtected 8 8 = false ∧ up.inWindow 0 8 8 = false ∧
    (after (exec (.narrowAccess 0 true 8 8 [1, 2, 3, 4, 5, 6, 7, 8] .good .weight) up)).hbm 8 8 = [1, 2, 3, 4, 5, 6, 7, 8] ∧
    (after (exec (.narrowAccess 0 false 0 8 [] .good .weight) { up with mem := { hbm := [(0, 4)] } })).mem.narrowOut = [4, 0, 0, 0, 0, 0, 0, 0] := by
  decide +kernel
theorem test_narrow_refused : weighty.rangeProtected 0 8 = true ∧ codes (after (exec (.narrowAccess 0 true 0 8 (zeros 8) .good .weight) weighty)) = [0x39A3#16] ∧
    up.owns 0 stratumBytes 8 = false ∧ codes (after (exec (.narrowAccess 0 true (BitVec.ofNat 41 stratumBytes) 8 (zeros 8) .good .weight) up)) = [0x39A2#16] ∧
    codes (after (exec (.narrowAccess 0 true 4 8 (zeros 8) .good .weight) up)) = [0x39A2#16] ∧
    codes (after (exec (.narrowAccess 0 true 0 4 (zeros 4) .good .weight) up)) = [0x39A2#16] := by decide +kernel
/-- An atomic record with RET on HBM word 8. -/
def atomicRec (op v : Nat) : BitVec 128 := BitVec.ofNat 128 (op + 2 ^ 4 + 2 ^ 32 * 8 + 2 ^ 64 * v)
/-- Words of 0xFFFFFFFF, then 5, from 8 on. -/
def words : State := { up with mem := { hbm := [(8, 255), (9, 255), (10, 255), (11, 255), (12, 5)] } }
theorem test_adds : atBad (atomicRec 1 2).toNat = false ∧ words.owns 0 8 4 = true ∧ (after (exec (.addS32 0 (atomicRec 1 2)) words)).hbmNum 8 4 = 1 ∧
    (after (exec (.addS32 0 (atomicRec 1 2)) words)).mem.atomicOut = some 0xFFFFFFFF ∧
    (after (exec (.addS64 0 (atomicRec 2 1)) words)).hbmNum 8 8 = 6 * 2 ^ 32 ∧ words.owns 0 8 8 = true := by decide +kernel
theorem test_floor_and_float : (after (exec (.addS32Floor 0 (atomicRec 4 1)) words)).hbmNum 8 4 = 0 ∧
    (after (exec (.addS32Floor 0 (atomicRec 4 0)) words)).mem.atomicOk = false ∧ (after (exec (.addS32Floor 0 (atomicRec 4 0)) words)).hbmNum 8 4 = 0xFFFFFFFF ∧
    (after (exec (.addF32 0 (atomicRec 3 0x3F800000)) { up with mem := { hbm := [(10, 0x80), (11, 0x3F)] } })).hbmNum 8 4 = 0x40000000 := by decide +kernel
theorem test_atomics_protected : codes (after (exec (.addS32 0 (atomicRec 1 2)) weighty)) = [0x39A3#16] ∧ codes (after (exec (.addS64 0 (atomicRec 2 2)) weighty)) = [0x39A3#16] ∧
    codes (after (exec (.addF32 0 (atomicRec 3 2)) weighty)) = [0x39A3#16] ∧ codes (after (exec (.addS32Floor 0 (atomicRec 4 2)) weighty)) = [0x39A3#16] := by
  decide +kernel
theorem test_refresh : ((after (exec (.refreshTick 0 85) up)).stack 0).refresh = 1 ∧ ((after (exec (.refreshTick 0 105) up)).stack 0).limit = some 15 ∧
    codes (after (exec (.refreshTick 0 105) up)) = [0x19AF#16] ∧ (up.stack 0).limit = none ∧
    ((after (exec (.refreshTick 0 82) (up.onStack 0 fun x => { x with refresh := 1, coolMs := 999 }))).stack 0).refresh = 0 ∧
    ((after (exec (.refreshTick 0 82) (up.onStack 0 fun x => { x with refresh := 1, coolMs := 998 }))).stack 0).refresh = 1 := by decide +kernel
/-- Frame 1 of sagger 0, with a byte in it, waits for scrub. -/
def scrubbing : State := { up { st := .serving, frames := [(1, .scrubbing)] } with mem := { hbm := [(131072, 7), (262144, 8)] }, hbmStacks := [(0, { scrubQ := [(1, 0)] })] }
theorem test_scrub : (after (exec (.frameScrub 0 true) scrubbing)).mem.hbm = [(262144, 8)] ∧ ((after (exec (.frameScrub 0 true) scrubbing)).sagger 0).frames = [] ∧
    ((after (exec (.frameScrub 0 false) scrubbing)).sagger 0).frames = [(1, .retired)] ∧ codes (after (exec (.frameScrub 0 false) scrubbing)) = [0x19AC#16] := by
  decide +kernel
theorem test_store_read : pageChannel 0 = 1 ∧ up.storeBad = [] ∧ (after (exec (.storeRead 1 0 9 true) up)).store.lost = [(1, 0)] ∧
    (after (exec (.storeRead 1 0 8 true) up)).store.lost = [] ∧ codes (after (exec (.storeRead 1 0 9 false) up)) = [0x1AAB#16] := by decide +kernel
theorem test_disturb : (up {}).nsLocked 1 = false ∧ (after (exec (.disturbRelocate 1 5) { up {} with store := { queued := [(1, 5)], reads := [((1, 5), 50000)] } })).store.queued = [] ∧
    (after (exec (.disturbRelocate 1 5) { up {} with store := { queued := [(1, 5)], reads := [((1, 5), 50000)] } })).store.reads = [] := by decide +kernel
theorem test_poison : (weighty.imagesAt 0).length = 1 ∧ weighty.chunkIsPoisoned 0 = false ∧ codes (after (exec (.chunkPoison 0) weighty)) = [0x10A6#16] ∧
    ((after (exec (.chunkPoison 0) weighty)).poisons 0).map (·.sources) = [[7]] := by decide +kernel
/-- Chunk 0 of an image of 16 bytes is poisoned and its own store is asked; its digest is as given. -/
def reloading (d : BitVec 256) : State := { weighty { small with weightLen := 16, digests := [d] } with poison := [(0, [{ chunk := 0, sources := [7] }])] }
theorem test_reload_data : ((reloading 0).imagesAt 0).head?.map (fun x => (x.1, x.2.info.digests)) = some (0, [0]) ∧
    ((reloading 0).poisonOf 0).isSome = true ∧
    ((reloading 0).imagesAt 0).head?.bind (fun x => (reloading 0).returned { chunk := 0, sources := [7] } x.2 0 0) = some (zeros 16) := by decide +kernel
/-- SHAKE256 of 16 zero bytes, its 32 bytes as a little-endian number (FIPS 202, computed outside the model). -/
theorem test_digest : digest256 (zeros 16) = 0x26036379b8ae812ed3cbe78d17d63dc928762b6faa34bfc4434f5f453cb270d5 := by decide +kernel
theorem test_reload : (after (exec (.chunkReload 0) (reloading 0x26036379b8ae812ed3cbe78d17d63dc928762b6faa34bfc4434f5f453cb270d5))).poisons 0 = [] ∧
    ((after (exec (.chunkReload 0) (reloading 0))).poisons 0).map (·.sources) = [[]] := by decide +kernel
theorem test_reload_timeout : ((({ reloading 0 with tb := { ref := 1200000 } } : State).poisonOf 0).map (·.sources.head?)) = some (some 7) ∧
    ((after (exec (.reloadSourceTimeout 0) { reloading 0 with tb := { ref := 1200000 } })).poisonOf 0).map (·.failed) = some true ∧
    ((after (exec (.reloadSourceTimeout 0) { reloading 0 with tb := { ref := 1199999 } })).poisonOf 0).map (·.failed) = some false := by decide +kernel

/-! ## Glaze streams -/

theorem test_glaze_block : (compressBlock 0 (zeros 64)).2 = [] ∧ (compressBlock 0 (zeros 64)).1.mode = 2 ∧
    expandBlock (compressBlock 3 [1, 2, 3, 4]).1 (compressBlock 3 [1, 2, 3, 4]).2 = some [1, 2, 3, 4] := by decide +kernel
/-- One block of four bytes, compressed for a gradient stream. -/
def gone : OutStream := { sid := 9, peer := .lattice 2, kind := 5, sagger := 0, ctxA := 0, ctxB := 1, src := 4096, len := 4, blocks := [compressBlock 0 [0, 0, 0x80, 0x3F]] }
/-- The stream as this module receives it, with its header and index. -/
def coming : Stream := { sid := 5, peer := .lattice 2, kind := 5, sagger := 0, ctxA := 0, ctxB := 1, dst := 4096, dstLen := 4096, header := gone.header, index := gone.index, entries := 1 }
/-- The module with that stream. -/
def streaming (t : Stream) : State := { model small with lat := { streams := [t] }, glazes := [(0, { expQ := [(5, 0, (compressBlock 0 [0, 0, 0x80, 0x3F]).2)] })] }
/-- The stream after its header check. -/
def opened : Stream := { coming with st := .open, table := [(compressBlock 0 [0, 0, 0x80, 0x3F]).1] }
theorem test_stream_header : (streaming coming).stream? 5 = some coming ∧ coming.headerIn = true ∧
    streamOk coming.kind coming.ctxA coming.ctxB coming.dstLen coming.header coming.indexBytes = true ∧ (streaming coming).streamRoom coming = true ∧
    (after (exec (.streamHeaderCheck 5) (streaming coming))).stream? 5 = some opened ∧
    codes (after (exec (.streamHeaderCheck 5) (streaming { coming with ctxB := 2 }))) = [0x1BB1#16] ∧
    codes (after (exec (.streamHeaderCheck 5) (streaming { coming with ctxB := 2, retried := true }))) = [0x3BB0#16] := by decide +kernel
/-- The same with a second block to come, of another kind. -/
def two (kind : Nat) (done : List Nat := []) : Stream := { opened with kind := kind, done := done, table := opened.table ++ opened.table }
theorem test_block_expand : (two 5).table.length = 2 ∧ ((two 5).table[0]?.map (expandBlock · (compressBlock 0 [0, 0, 0x80, 0x3F]).2)) = some (some [0, 0, 0x80, 0x3F]) ∧
    (streaming (two 5)).streamAddr (two 5) 0 = 4096 ∧ (after (exec (.blockExpand 0) (streaming (two 5)))).hbmNum 4096 4 = 0x3F800000 ∧
    (after (exec (.blockExpand 0) (streaming (two 1)))).hbm 4096 4 = [0, 0, 0x80, 0x3F] ∧
    ((after (exec (.blockExpand 0) (streaming (two 4)))).stream? 5).map (·.held) = some [(0, [0, 0, 0x80, 0x3F])] ∧
    (after (exec (.blockExpand 0) (streaming (two 5 [0])))).reg .glzDup 0 = 1 := by decide +kernel
theorem test_block_damaged : let s : State := { streaming (two 5) with glazes := [(0, { expQ := [(5, 0, [1])] })] }
    ((two 5).table[0]?.map (expandBlock · [1])) = some none ∧ (after (exec (.blockExpand 0) s)).reg .glzDamaged 0 = 1 ∧
    ((after (exec (.blockExpand 0) s)).stream? 5).map (·.refetch) = some [(0, 1)] := by decide +kernel
theorem test_refetch : let s : State := { streaming { two 5 with waiting := [(0, 0)] } with tb := { ref := 100000 } }
    ((after (exec (.refetchTimeout 5 0) s)).stream? 5).map (·.refetch) = some [(0, 1)] ∧
    ((after (exec (.refetchTimeout 5 0) { s with tb := { ref := 99999 } })).stream? 5).map (·.refetch) = some [] := by decide +kernel
theorem test_block_compress : let s : State := { up with mem := { hbm := [(4098, 0x80), (4099, 0x3F)] }, lat := { outs := [{ gone with blocks := [] }] }, glazes := [(0, { cmpQ := [(9, 0)] })] }
    s.outBytes { gone with blocks := [] } 0 = [0, 0, 0x80, 0x3F] ∧ ((after (exec (.blockCompress 0) s)).lat.outs.map (·.blocks.map (·.2))) =
      [[(compressBlock 0 [0, 0, 0x80, 0x3F]).2]] := by decide +kernel

/-! ## Tallies -/

/-- Tally 7 of sagger 0, or of the house, as given. -/
def tallying (x : Tally) (k : Nat := 7) (s : State := up) : State := { s with tallies := [(k, x)], tb := { ref := 10000 } }
/-- RING of DEPTH 2, and EVENT of DEPTH 2. -/
def ring (p c : BitVec 48) : Tally := { cfg := 1 + 2 * 2 ^ 32, prod := p, cons := c }
def event (p c : BitVec 48) (w : List Waiter := []) (h : List HeldSignal := []) : Tally := { cfg := 2 + 2 * 2 ^ 32, prod := p, cons := c, waiters := w, blocked := h }
def t7 : TallyId := ⟨0, 7⟩
def house7 : TallyId := ⟨15, 7⟩
theorem test_tally_config : cfgLegal (1 + 2 ^ 55) = true ∧ cfgLegal 1 = false ∧ cfgLegal (3 + 2 ^ 32) = false ∧ cfgLegal (33 + 2 ^ 32) = false ∧
    cfgLegal (1 + 2 ^ 56) = false ∧ ((after (exec (.tallyConfig t7 (1 + 2 ^ 32)) up)).tally 7).cfg = 1 + 2 ^ 32 ∧
    codes (after (exec (.tallyConfig t7 1) up)) = [0x3CC3#16] ∧ codes (after (exec (.tallyConfig house7 (1 + 2 ^ 32)) (tallying (event 0 0 [⟨1, 1, false⟩]) 61447))) = [0x4CC3#16] := by
  decide +kernel
theorem test_signal : idKey t7 = 7 ∧ idKey house7 = 61447 ∧ (tallying (ring 0 0)).homeHere 7 = true ∧ (tallying (ring 0 0)).signalFits 7 2 0 = true ∧
    (tallying (ring 0 0)).signalFits 7 3 0 = false ∧
    ((after (exec (.signal t7 2 true 9 0) (tallying (ring 0 0)))).tally 7).prod = 2 ∧ ((after (exec (.signal t7 2 true 9 0) (tallying (ring 0 0)))).tally 7).last = 9 ∧
    ((after (exec (.signal t7 3 true 9 0) (tallying (ring 0 0)))).tally 7).blocked = [⟨9, 3⟩] ∧
    codes (after (exec (.signal t7 3 false 9 0) (tallying (ring 0 0)))) = [0x3CC0#16] := by decide +kernel
theorem test_signal_wakes : (after (exec (.signal t7 1 false 9 0) (tallying (event (2 ^ 48 - 1) (2 ^ 48 - 1) [⟨1, 0, true⟩, ⟨2, 1, false⟩])))).tally 7 =
      { event 0 0 [⟨2, 1, false⟩] with last := 9 } ∧
    codes (after (exec (.signal t7 1 false 9 0) up)) = [0x3CC2#16] ∧ codes (after (exec (.signal house7 1 false 9 0) (tallying (ring 0 0) 61447))) = [0x4CC2#16] := by
  decide +kernel
theorem test_release : ((after (exec (.release t7 2 9 0) (tallying (ring 5 3)))).tally 7).cons = 5 ∧ codes (after (exec (.release t7 3 9 0) (tallying (ring 5 3)))) = [0x3CC1#16] ∧
    codes (after (exec (.release t7 1 9 0) (tallying (event 5 3)))) = [0x3CC2#16] ∧ codes (after (exec (.release t7 1 9 1) (tallying (ring 5 3)))) = [0x3CC2#16] := by
  decide +kernel
theorem test_wait : (tallying (event 1 0)).agentWaits 3 = false ∧ (event 1 0).waitBad 2 true = false ∧ (event 1 0).waitBad 3 false = true ∧ (ring 1 0).waitBad 1 true = true ∧
    ((after (exec (.wait t7 1 true 3 0) (tallying (event 1 0)))).tally 7) = event 1 1 ∧
    ((after (exec (.wait t7 2 true 3 0) (tallying (event 1 0)))).tally 7) = event 1 0 [⟨3, 2, true⟩] ∧
    codes (after (exec (.wait t7 3 false 3 0) (tallying (event 1 0)))) = [0x3CC2#16] := by decide +kernel
theorem test_read : (tallying (ring 5 3)).spans 0 = false ∧ (after (exec (.read t7 1) (tallying (ring 5 3)))).tallyOut = (5, 3) ∧
    (after (exec (.read t7 0) (tallying (ring 5 3)))).tallyOut = (5, 3) := by decide +kernel
theorem test_signal_unblock : (event 1 0 [] [⟨1, 2⟩, ⟨2, 1⟩]).blocked.find? (fun h => (tallying (event 1 0 [] [⟨1, 2⟩, ⟨2, 1⟩])).signalFits 7 h.n h.agent) = some ⟨2, 1⟩ ∧
    ((after (exec (.signalUnblock t7) (tallying (event 1 0 [] [⟨1, 2⟩, ⟨2, 1⟩])))).tally 7).blocked = [⟨1, 2⟩] ∧
    ((after (exec (.signalUnblock t7) (tallying (event 1 0 [] [⟨1, 2⟩, ⟨2, 1⟩])))).tally 7).prod = 2 ∧
    answers (exec (.signalUnblock t7) (tallying (event 2 0 [] [⟨1, 2⟩]))) (tallying (event 2 0 [] [⟨1, 2⟩])) = true := by decide +kernel
/-- Tally 7 of sagger 0 has its shadow bit and a shadow that is due, at byte 4096. -/
def shadowed : State := { tallying { cfg := 0x12 + 2 ^ 32, prod := 0x1122, shadowDue := true } with plan := some { plan with places := [⟨10, 0, 1, 4⟩] } }
theorem test_shadow : (shadowed.tally 7).shadow = true ∧ (shadowed.place 0 0x0A).isSome = true ∧ (after (exec (.tallyShadowWrite t7) shadowed)).hbmNum 4152 8 = 0x1122 ∧
    ((after (exec (.tallyShadowWrite t7) shadowed)).tally 7).shadowDue = false := by decide +kernel
/-- An agent has waited for 10 µs since the last progress of sagger 0, or of the house. -/
def stuck : State := tallying (event 1 0 [⟨3, 2, true⟩]) 7 (up { st := .serving, progress := 0, dlArmed := true })
def stuckHouse : State := { tallying (event 1 0 [⟨3, 2, true⟩]) 61447 with houseArmed := true }
theorem test_deadlock : (stuck.snapEntries 0).map (·.agent) = [3] ∧ stuck.detector 0 = (0, true) ∧ codes (after (exec (.deadlockDetect 0) stuck)) = [0x3CC4#16] ∧
    (tget [] (after (exec (.deadlockDetect 0) stuck)).snaps 0).getD 8 0 = 0xE003 ∧ (tget [] (after (exec (.deadlockDetect 0) stuck)).snaps 0).length = 16 ∧
    (after (exec (.deadlockDetect 0) stuck)).detector 0 = (0, false) := by decide +kernel
theorem test_deadlock_house : (stuckHouse.snapEntries 15).map (·.agent) = [3] ∧ stuckHouse.detector 15 = (0, true) ∧
    (after (exec (.deadlockDetect 15) stuckHouse)).boot.reason = 6 ∧ codes (after (exec (.deadlockDetect 15) stuckHouse)) = [0x4CC5#16, 0x40FE#16] := by decide +kernel

/-! ## Ports -/

/-- Module 1 of the kiln is this one; port `p` is as given and the timer shows `now`. -/
def ported (p : Nat) (x : Port) (now : Nat := 30000000) : State :=
  { up with regs := [((.secId, 0), 1), ((.latCtl, 0), 1), ((.latCtl, 1), 1)], ports := [(p, x)], tb := { ref := now }, plan := some { plan with device := { role := 1, luted := 1, partner := 2 } } }
/-- The record of module 2 at X = 1 behind our +X: its PORT is −X. -/
def peerRecord (id ack version : Nat) : BitVec 256 :=
  BitVec.ofNat 256 (id * 2 ^ 32 + 2 ^ 96 + 2 ^ 107 + version * 2 ^ 128 + 2 * 2 ^ 160 + ack * 2 ^ 204)
theorem test_port_starts : (ported 0 {}).portEnabled 0 = true ∧ (ported 0 {}).freeGroups 0 = [0, 1, 2, 3, 4, 5] ∧
    ((after (exec (.portEnable 0) (ported 0 {}))).port 0).st = .train ∧
    ((after (exec (.portTrainRetry 0) (ported 0 { retry := true, started := 20000000 }))).port 0).st = .train ∧
    ((after (exec (.portTrainRetry 0) (ported 0 { retry := true, started := 20000001 }))).port 0).st = .down ∧
    (((after (exec (.portEnable 0) { ported 0 {} with health := { map := [(392, 255), (393, 255), (394, 255), (395, 255)] } })).port 0).reason) = 2 := by decide +kernel
theorem test_port_timeout : ((after (exec (.portTrainTimeout 0 0x3F) (ported 0 { st := .check, started := 10000000 }))).port 0).reason = 9 ∧
    ((after (exec (.portTrainTimeout 0 3) (ported 0 { st := .train, started := 10000000 }))).port 0).reason = 2 ∧
    ((after (exec (.portTrainTimeout 0 3) (ported 0 { st := .train, started := 10000001 }))).port 0).st = .train := by decide +kernel
theorem test_record_checks : recReserved (peerRecord 2 0 1) = false ∧ ((ported 0 { st := .train }).liveGroups 0 7).length = 3 ∧
    ((ported 0 { st := .train }).checkRecord 0 (peerRecord 2 0 1)).toOption = some 0 ∧
    ((after (exec (.trainingRecord 0 (peerRecord 3 0 1) 7) (ported 0 { st := .train }))).port 0).reason = 4 ∧
    codes (after (exec (.trainingRecord 0 (peerRecord 2 0 0) 7) (ported 0 { st := .check }))) = [0x5DD0#16] ∧
    ((after (exec (.trainingRecord 0 (peerRecord 2 0 1) 7) (ported 0 { st := .train }))).port 0).st = .check := by decide +kernel
theorem test_record_up : ((after (exec (.trainingRecord 0 (peerRecord 2 1 1) 7) (ported 0 { st := .check }))).port 0).st = .up ∧
    ((after (exec (.trainingRecord 0 (peerRecord 2 1 1) 7) (ported 0 { st := .check }))).port 0).nbrId = 2 ∧
    codes (after (exec (.trainingRecord 0 (peerRecord 2 1 1) 7) (ported 0 { st := .retrain, nbrId := 2, rxSeq := 5 }))) = [0x5DD3#16] ∧
    ((after (exec (.trainingRecord 0 (peerRecord 2 1 1) 7) (ported 0 { st := .retrain, nbrId := 2, rxSeq := 5 }))).port 0).rxSeq = 5 := by decide +kernel
theorem test_group_exclude : ((after (exec (.groupErrorExclude 0 5) (ported 0 { st := .up, groups := 0x3F }))).port 0).excluded = 0x20 ∧
    ((after (exec (.groupErrorExclude 0 0) (ported 0 { st := .up, groups := 0x3E }))).port 0).excluded = 0 := by decide +kernel
theorem test_fast_retrain : Port.retrainDue { st := .up, replays := 8 } = true ∧ Port.retrainDue { st := .up, replays := 7 } = false ∧
    Port.retrainDue { st := .up, groups := 0x3F, excluded := 1 } = true ∧
    ((after (exec (.fastRetrain 0 0x3F) (ported 0 { st := .up, replays := 8, replay := [(1, 0, [])] }))).port 0).st = .retrain ∧
    ((after (exec (.fastRetrainTimeout 0) (ported 0 { st := .retrain, started := 29000000 }))).port 0).st = .down ∧
    ((after (exec (.fastRetrainTimeout 0) (ported 0 { st := .retrain, started := 29000001 }))).port 0).st = .retrain := by decide +kernel
theorem test_port_loss : codes (after (exec (.latticeLossDetect 0) (ported 0 { st := .up, lastRx := 29998000, lastHb := 30000000 }))) = [0x5DD2#16] ∧
    ((after (exec (.latticeLossDetect 0) (ported 0 { st := .up, lastRx := 29998001, lastHb := 29996501 }))).port 0).st = .up ∧
    ((after (exec (.latticeLossDetect 0) (ported 0 { st := .up, lastRx := 30000000, lastHb := 29996500, losses := [1, 2, 3] }))).port 0).st = .held ∧
    ((after (exec (.latticeLossDetect 6) { ported 6 { st := .up } with lute := { paired := true } })).lute.stop) = true := by decide +kernel

/-! ## Flits and packets -/

theorem test_lattice_flit : ((after (exec (.latticeFlit 0 65535 true 3 (zeros 16) none []) (ported 0 { st := .up, rxSeq := 65535 }))).port 0).rxSeq = 0 ∧
    ((after (exec (.latticeFlit 0 65535 true 3 (zeros 256) none []) (ported 0 { st := .up, rxSeq := 65535 }))).port 0).ackOut = some 65535 ∧
    ((after (exec (.latticeFlit 0 1 true 3 (zeros 16) none []) (ported 0 { st := .up, rxSeq := 0 }))).port 0).nakOut = some 0 ∧
    ((after (exec (.latticeFlit 0 32768 true 3 [] none []) (ported 0 { st := .up, rxSeq := 0 }))).port 0).nakOut = some 0 ∧
    (after (exec (.latticeFlit 0 0 false 3 [] none []) (ported 0 { st := .up, rxSeq := 0 }))).reg .latCrc 0 = 1 := by decide +kernel
theorem test_lattice_nak : ((after (exec (.latticeNak 0 2) (ported 0 { st := .up, replay := [(1, 0, []), (2, 0, []), (3, 0, [])] }))).port 0).replay.map (·.1) = [2, 3] ∧
    (after (exec (.latticeNak 0 2) (ported 0 { st := .up, replay := [(1, 0, []), (2, 0, []), (3, 0, [])] }))).reg .latReplay 0 = 2 := by decide +kernel
theorem test_frames_sent : ((after (exec (.latticeHeartbeatSend 0) (ported 0 { st := .up, hbSeq := 0xFFFFFFFF } 1000))).port 0).hbSeq = 0 ∧
    nbits ((after (exec (.latticeHeartbeatSend 0) (ported 0 { st := .up, hbSeq := 0xFFFFFFFF } 1000))).port 0).hbOut.toNat 0 35 = 0x1FFFFFFFF ∧
    ((after (exec (.linkFrameSend 0) (ported 0 { st := .up } 200))).port 0).lastTx = 200 ∧ ((after (exec (.linkFrameSend 0) (ported 0 { st := .up, lastTx := 1 } 200))).port 0).lastTx = 1 := by
  decide +kernel
theorem test_frame_received : ((after (exec (.linkFrameReceive 0 (.heartbeat (BitVec.ofNat 256 (2 ^ 32)))) (ported 0 { st := .up } 5))).port 0).nbrReady = true ∧
    ((after (exec (.linkFrameReceive 0 (.heartbeat (BitVec.ofNat 256 (2 ^ 32)))) (ported 0 { st := .up } 5))).port 0).lastHb = 5 := by decide +kernel
/-- A packet of module 2 to this one or onward. -/
def incoming (type cls dst : Nat) : Packet := ⟨BitVec.ofNat 256 (type + 2 ^ 8 * cls + 2 ^ 32 * dst + 2 ^ 48 + 15 * 2 ^ 120), []⟩
/-- Port 0 has received it on channel 3 × CLASS. -/
def portHolding (pk : Packet) (s : State := ported 0 { st := .up, serves := 0 }) : State := s.onPort 0 fun x => { x with rx := [(3 * pk.cls, leBytes pk.hdr.toNat 32)] }
theorem test_packet_route : (portHolding (incoming 1 0 0)).packetBad (incoming 1 0 0) = false ∧ (portHolding (incoming 1 1 0)).packetBad (incoming 1 1 0) = true ∧
    (incoming 1 0 0).dest = (portHolding (incoming 1 0 0)).own ∧ (portHolding (incoming 1 0 0)).takesPackets (incoming 1 0 0).dsag = true ∧
    (after (exec (.packetRoute 0 0) (portHolding (incoming 1 0 0)))).lat.consumed = [incoming 1 0 0] ∧
    (after (exec (.packetRoute 0 3) (portHolding (incoming 1 1 0)))).reg .latDrop 0 = 1 := by decide +kernel
theorem test_packet_forwarded : (portHolding (incoming 1 0 1)).nextHop (some 0) (incoming 1 0 1) = some (0, incoming 1 0 1, false) ∧
    ((after (exec (.packetRoute 0 0) (portHolding (incoming 1 0 1)))).port 0).out.map (·.2.hops) = [1] := by decide +kernel

/-! ## The timebase -/

/-- Port 0 leads to the parent. -/
def timed (t : Timebase) : State := { ported 0 { st := .up } with tb := { t with parent := 0, ref := 1000000 } }
theorem test_time_sync : (timed {}).linksRun = true ∧ (timed {}).portUp 0 = true ∧ (after (exec (.timeSync 0 800 0 (-2)) (timed { ns := 5 }))).tb.ns = 105 ∧
    (after (exec (.timeSync 0 800 0 0) (timed { ns := 5 }))).tb.ns = 5 ∧ (after (exec (.timeSync 0 800 0 0) (timed { ns := 5 }))).tb.st = .locking ∧
    (after (exec (.timeSync 0 32 0 0) (timed { st := .locking, lockSince := some 0 }))).tb.st = .locked ∧
    (after (exec (.timeSync 0 34 0 0) (timed { st := .locking, lockSince := some 0 }))).tb.st = .locking ∧
    (after (exec (.timeSync 0 32 0 0) (timed { st := .locking, lockSince := some 1 }))).tb.st = .locking := by decide +kernel
theorem test_time_sync_lost : codes (after (exec (.timeSync 0 0 162 0) (timed { st := .locked }))) = [0x60D7#16] ∧
    codes (after (exec (.timeSync 0 0 0 160) (timed { st := .locked }))) = [] ∧
    (after (exec (.timeSync 0 162 0 0) (timed { st := .locked }))).tb.st = .locking ∧ (after (exec (.timeSync 0 160 0 0) (timed { st := .locked }))).tb.st = .locked := by decide +kernel
theorem test_tsync : let e (a : Nat) : Bool := Timebase.edgeOk { tsync := some 0 } a
    (e 499999999, e 500000000, e 1500000000, e 1500000001) = (false, true, true, false) ∧ up.tb.edgeOk 0 = true ∧
    (after (exec .tsyncEdge up)).tb.tsync = some 0 ∧
    (after (exec .tsyncEdge { up with lat := { apex := true }, tb := { ns := 5 * 10 ^ 9 } })).tb.ns = 5 * 10 ^ 9 ∧
    (after (exec .tsyncEdge { up with tb := { ns := 7 } })).tb.ns = 7 := by decide +kernel
theorem test_timebase_second : let s (set : Nat) : State := { up with lat := { apex := true }, tb := { ns := 2 * 10 ^ 9, armed := some 1 }, regs := [((.latTbSet, 0), set)] }
    (after (exec .timebaseSecond (s (2 * 10 ^ 9)))).tb.ns = 2 * 10 ^ 9 ∧ (after (exec .timebaseSecond (s (9 * 10 ^ 9)))).tb.ns = 9 * 10 ^ 9 ∧
    (after (exec .timebaseSecond (s 5))).tb.ns = 2 * 10 ^ 9 ∧ (after (exec .timebaseSecond (s 5))).tb.armed = none := by decide +kernel

/-! ## Slices -/

/-- A packet of module 2: ARG words and payload. -/
def said (type a16 a20 a24 slice : Nat) (payload : List Byte := []) : Packet :=
  ⟨BitVec.ofNat 256 (type + 2 ^ 16 * payload.length + 2 ^ 48 + 2 ^ 96 * slice + 15 * 2 ^ 120 + 2 ^ 128 * a16 + 2 ^ 160 * a20 + 2 ^ 192 * a24), payload⟩
/-- The apex of a kiln of two modules, with these packets waiting. -/
def apexState (ps : List Packet) (l : Lattice := {}) : State :=
  { ported 0 {} with lat := { l with apex := true, consumed := ps }, plan := some { plan with kiln := { x := 2, ids := [1, 2], apex := 0, backup := 1 } } }
/-- Slice 5 of both modules for a JOB, with this module its apex, under model digest 0. -/
def sliceRec (job : Nat) : BitVec 256 := BitVec.ofNat 256 (5 + 2 ^ 16 * job + 2 ^ 64 * 2 + 2 ^ 72 + 2 ^ 80)
/-- That slice as held. -/
def held5 (job : Nat) : Slice := { sliceOf (sliceRec job) with member := true }
theorem test_loss : (apexState [said 1 0 1 0 0]).keepsMap = true ∧ ((apexState [said 1 0 1 0 0]).takeWhere 1 fun _ => true).map (·.1) = some (said 1 0 1 0 0) ∧
    (after (exec .loss (apexState [said 1 0 1 0 0]))).lat.reports = [⟨1, 0, 1, 30000000, 0⟩] := by decide +kernel
theorem test_restore : ((apexState [said 2 0 0 0 0]).takeWhere 2 fun _ => true).isSome = true ∧
    (after (exec .restore (apexState [said 2 0 0 0 0] { reports := [⟨1, 0, 0, 0, 0⟩, ⟨1, 1, 0, 0, 0⟩], lostModules := [1, 0] }))).lat.reports = [⟨1, 1, 0, 0, 0⟩] ∧
    (after (exec .restore (apexState [said 2 0 0 0 0] { lostModules := [1, 0] }))).lat.lostModules = [] := by decide +kernel
/-- One or both of module 2's links are reported, the first at time 29,950,000. -/
def reported (n : Nat) (time : Nat) : State := apexState [] { reports := (List.range n).map fun p => ⟨0, p, 1, time, 0⟩ }
theorem test_apex_loss_window : (reported 2 29950000).firstReport 1 = some 29950000 ∧ (reported 2 29950000).windowOver 1 = true ∧ (reported 2 29950001).windowOver 1 = false ∧
    (reported 2 29950000).moduleLost 1 (reported 2 29950000).lat.reports = true ∧ (reported 1 29950000).moduleLost 1 (reported 1 29950000).lat.reports = false ∧
    (after (exec (.apexLossWindow 1) (reported 2 29950000))).lat.lostModules = [1] ∧ codes (after (exec (.apexLossWindow 1) (reported 2 29950000))) = [0x60D5#16] ∧
    (after (exec (.apexLossWindow 1) (reported 1 29950000))).lat.lostLinks = [(0, 1)] := by decide +kernel
theorem test_slice_join : let s (job : Nat) : State := apexState [said 3 0 0 0 0 (leBytes (sliceRec job).toNat 32)]
    ((s 1).takeWhere 3 fun _ => true).isSome = true ∧ (said 3 0 0 0 0 (leBytes (sliceRec 1).toNat 32)).len = 32 ∧ (s 1).joinReason (sliceOf (sliceRec 1)) = 0 ∧
    (s 1).joinReason (sliceOf (sliceRec 2)) = 3 ∧ (s 1).joinReason (sliceOf (sliceRec 4)) = 4 ∧
    ((after (exec .sliceJoin (s 1))).slice? 5).map (·.member) = some true ∧ (after (exec .sliceJoin (s 2))).lat.slices = [] := by decide +kernel
theorem test_slice_ack : let s (r : Nat) : State := apexState [said 4 r 0 0 5] { slices := [{ held5 1 with asker := some (0, 7), accepts := [0] }] }
    ((s 0).slice? 5).map (·.asker) = some (some (0, 7)) ∧ ((s 0).takeWhere 4 fun _ => true).isSome = true ∧ (held5 1).members (s 0).kiln = [0, 1] ∧
    ((after (exec .sliceAck (s 0))).slice? 5).map (·.active) = some true ∧
    codes (after (exec .sliceAck (s 2))) = [0x60DB#16] := by decide +kernel
theorem test_slice_form_timeout : let s (t : Nat) : State := apexState [] { slices := [{ held5 1 with asker := some (0, 7), started := t }] }
    codes (after (exec (.sliceFormTimeout 5) (s 20000000))) = [0x60DB#16] ∧ codes (after (exec (.sliceFormTimeout 5) (s 20000001))) = [] := by decide +kernel
theorem test_slice_mark : let s (job : Nat) : State := apexState [said 6 3 0 0 5] { slices := [{ held5 job with round := 3 }] }
    ((s 2).takeWhere 6 fun _ => true).isSome = true ∧ (held5 2).apex = (s 2).own ∧
    ((after (exec .sliceMark (s 2))).slice? 5).map (·.round) = some 4 ∧ ((after (exec .sliceMark (s 3))).slice? 5).map (·.marks) = some [(1, 3)] := by decide +kernel
theorem test_slice_stop : let s : State := apexState [said 5 0 0 0 5] { slices := [held5 1] }
    (s.takeWhere 5 fun _ => true).isSome = true ∧ codes (after (exec .sliceStop s)) = [0x60D6#16] ∧ (after (exec .sliceStop s)).lat.slices = [] := by decide +kernel
theorem test_slice_leave : let s (m : Bool) : State := apexState [said 7 5 0x5DD2 0 5] { slices := [{ held5 1 with member := m, active := true }] }
    ((s true).takeWhere 7 fun _ => true).isSome = true ∧ ((after (exec .sliceLeave (s true))).slice? 5).map (·.active) = some false ∧
    (after (exec .sliceLeave (s false))).lat.slices = [] := by decide +kernel

/-! ## Stream packets -/

/-- A stream of module 2 under XID 9, and its packets. -/
def stream9 (st : StreamState) : Stream := { sid := 5, peer := .lattice 1, xid := 9, kind := 5, sagger := 0, ctxA := 0, ctxB := 1, dst := 4096, dstLen := 4096, st := st, table := opened.table }
def out9 : OutStream := { gone with peer := .lattice 1, xid := 9 }
def packet9 (type cls a16 a20 a24 : Nat) (payload : List Byte := []) : Packet := { said type a16 a20 a24 0 payload with hdr := (said type a16 a20 a24 0 payload).hdr ||| BitVec.ofNat 256 (2 ^ 8 * cls + 9 * 2 ^ 64) }
/-- Module 1 with that packet. -/
def streamed (p : Packet) (ts : List Stream) (os : List OutStream := []) : State := { ported 0 {} with lat := { consumed := [p], streams := ts, outs := os } }
theorem test_stream_hdr : let p := packet9 0x10 2 0 1 0 (gone.header ++ gone.index)
    ((streamed p [stream9 .header]).takeWhere 0x10 fun p => !(streamed p [stream9 .header]).hdrWaits p).isSome = true ∧ (streamed p [stream9 .header]).streamOf p = some (stream9 .header) ∧
    ((after (exec (.streamHdr none) (streamed p [stream9 .header]))).stream? 5).map (·.header) = some gone.header ∧
    ((after (exec (.streamHdr none) (streamed p [stream9 .header]))).stream? 5).map (·.entries) = some 1 := by decide +kernel
theorem test_stream_blk : let p := packet9 0x11 2 0 0 0 [7]
    (streamed p [stream9 .open]).blkReady p = true ∧ (stream9 .open).table.length = 1 ∧ (streamed p [stream9 .open]).streamDie (stream9 .open) 0 = 0 ∧
    ((after (exec .streamBlk (streamed p [stream9 .open]))).glaze 0).expQ = [(5, 0, [7])] := by decide +kernel
theorem test_blk_req : let p := packet9 0x12 1 0 0 0
    (streamed p [] [out9]).outFor p = some out9 ∧ out9.count = 1 ∧ ((after (exec .blkReq (streamed p [] [out9]))).glaze 0).cmpQ = [(9, 0)] := by decide +kernel
theorem test_stream_req : let p := packet9 0x13 1 5 0 1
    out9.ready = true ∧ { out9 with blocks := [] }.ready = false ∧ (((streamed p [] [out9]).lat.outs.find? fun o => o.peer == .lattice p.src && o.kind == p.arg 16 && o.ctxA == p.arg 20 && o.ctxB == p.arg 24 && o.slice == p.slice).isSome) = true ∧
    (after (exec .streamReq (streamed p [] [{ out9 with blocks := [] }]))).lat.outs.map (·.rsp) = [true] := by decide +kernel
/-- Sagger 0 holds an image of one chunk whose measurement is 77. -/
def imaged (p : Packet) : State := { streamed p [] with saggers := [(0, { st := .serving, images := [{ index := 3, ns := 0, off := 0, strata := [0], measure := 77, info := { small with weightLen := 512 } }] })] }
theorem test_chunk_req : let p := packet9 0x14 1 0 77 0
    ((imaged p).imageByDigest 77).map (·.1) = some 0 ∧ (imaged p).chunkIsPoisoned 0 = false ∧
    (after (exec .chunkReq (imaged p))).lat.outs.map (fun o => (o.kind, o.src, o.len, o.xid, o.ctxB)) = [(4, 0, 512, 9, 3)] ∧
    ((after (exec .chunkReq (imaged p))).glaze 0).cmpQ.length = 1 := by decide +kernel
/-- Module 2 at the far end of slice 5 is this module's child or parent. -/
def contributed (job parent : Nat) : State :=
  let s := streamed (packet9 0x15 2 0 0 0) [] [{ out9 with slice := 5 }]
  { s with lat := { s.lat with slices := [{ sliceOf (sliceRec job ||| BitVec.ofNat 256 (2 ^ 32 * parent)) with member := true }] }, mem := { hbm := [(4096, 9), (4100, 9)] } }
theorem test_stream_end : ((contributed 2 1).slice? 5).map (fun x => x.parent (contributed 2 1).kiln (contributed 2 1).own) = some (some 1) ∧ (contributed 2 1).moveOf 9 = none ∧
    ((contributed 2 0).slice? 5).map (fun x => x.parent (contributed 2 0).kiln (contributed 2 0).own) = some none ∧
    (after (exec .streamEnd (contributed 2 1))).mem.hbm = [(4100, 9)] ∧ (after (exec .streamEnd (contributed 2 0))).mem.hbm = [(4096, 9), (4100, 9)] ∧
    (after (exec .streamEnd (contributed 2 1))).lat.outs = [] := by decide +kernel
theorem test_unreachable : let p := packet9 0x20 2 0x10 0 0
    ((streamed p [] [out9]).takeWhere 0x20 fun _ => true).isSome = true ∧ (streamed p [] [out9]).moveOf 9 = none ∧ (after (exec .unreachable (streamed p [] [out9]))).lat.outs = [] := by decide +kernel

/-! ## Lute messages and pairs -/

/-- A lute memory message: sagger 0, TAG 9, window offset, payload. -/
def luteMsg (type off : Nat) (p : List Byte) : List Byte :=
  leBytes (type + 2 ^ 16 * 9 + 2 ^ 32 * ((windowBase + off) % 2 ^ 32) + 2 ^ 64 * ((windowBase + off) / 2 ^ 32) + 2 ^ 96 * p.length) 16 ++ padTo ((p.length + 15) / 16 * 16) p
/-- The pair with that message; memory and protected strata as given. -/
def told (role type off : Nat) (p : List Byte) (wp : List Nat := []) : State := { lutedPair role (luteMsg type off p) with mem := { wp := wp } }
theorem test_lute_window : (told 2 1 0 [1]).windowStrata 0 = [0, 16] ∧ (told 2 1 0 [1]).windowParts 0 (windowBase + stratumBytes - 4) 8 = some [(stratumBytes - 4, 4), (16 * stratumBytes, 4)] ∧
    (told 2 1 0 [1]).windowParts 0 (windowBase + 2 * stratumBytes - 8) 8 = some [(17 * stratumBytes - 8, 8)] ∧ (told 2 1 0 [1]).windowParts 0 (windowBase + 2 * stratumBytes - 7) 8 = none ∧
    (told 2 1 0 [1]).windowParts 0 (windowBase - 1) 8 = none ∧ (told 2 1 0 [1, 2]).luteHead.map (·.2) = some [1, 2] ∧
    (told 2 1 0 [1, 2]).luteHead.map (fun h => ((told 2 1 0 [1, 2]).lmBad h.1, lmAddr h.1, nbits h.1 0 8)) = some (false, windowBase, 1) := by decide +kernel
theorem test_lute_write : (after (exec .luteWrite (told 2 1 8 [1, 2, 3, 4, 5, 6, 7, 8]))).mem.hbm = [(8, 1), (9, 2), (10, 3), (11, 4), (12, 5), (13, 6), (14, 7), (15, 8)] ∧
    (after (exec .luteWrite (told 2 1 (stratumBytes - 4) [0, 0, 0, 4, 5, 0, 0, 0]))).mem.hbm = [(stratumBytes - 1, 4), (16 * stratumBytes, 5)] ∧
    codes (after (exec .luteWrite (told 2 1 8 [1, 2, 3, 4, 5, 6, 7, 8] [0]))) = [0x39A3#16] ∧
    (told 2 1 8 [1, 2, 3, 4, 5, 6, 7, 8] [0]).rangeProtected 8 8 = true := by decide +kernel
theorem test_lute_read : let s : State := { told 2 2 8 (leBytes 8 4) with mem := { hbm := [(9, 7)] } }
    (after (exec .luteRead s)).lute.tx = [luteMemMsg 3 0 9 (windowBase + 8) [0, 7, 0, 0, 0, 0, 0, 0]] ∧
    codes (after (exec .luteRead (told 2 2 8 (leBytes 7 4)))) = [0x3DDA#16] ∧ bfield (leBytes 4096 4) 13 19 = 0 ∧ lmReadLen (leBytes 4096 4) = 4096 := by decide +kernel
/-- An atomic ADD_U32 of 5. -/
def addRec : List Byte := leBytes (1 + 2 ^ 64 * 5) 16
theorem test_lute_atomic : atBad (leNat addRec) = false ∧ atBytes (leNat addRec) = 4 ∧ (told 2 4 8 addRec).windowParts 0 (windowBase + 8) 4 = some [(8, 4)] ∧
    atomicWord (atOp (leNat addRec)) 0 (nbits (leNat addRec) 64 64) 0 = some 5 ∧ atomicWord 4 0 (2 ^ 32 - 1) 0 = none ∧
    (after (exec .luteAtomic (told 2 4 8 addRec))).hbmNum 8 4 = 5 ∧ (after (exec .luteAtomic (told 2 4 8 addRec))).lute.tx = [luteMemMsg 5 0 9 (windowBase + 8) []] := by decide +kernel
/-- The lead with one request outstanding, and its answer. -/
def asked (type : Nat) (u : LuteUse) (p : List Byte) : State := { told 1 type 0 p with lute := { paired := true, asked := [⟨9, 0, 2, u⟩] } }
theorem test_lute_read_rsp : (asked 3 .narrow [1, 2]).luteHead.map (fun h => (asked 3 .narrow [1, 2]).luteAsk? h.1) = some (some ⟨9, 0, 2, .narrow⟩) ∧
    (after (exec .luteReadRsp (asked 3 .narrow [1, 2]))).mem.narrowOut = [1, 2] ∧ (after (exec .luteReadRsp (asked 3 .narrow [1, 2]))).lute.asked = [] ∧
    (after (exec .luteReadRsp (asked 3 (.slab 64 7 1) [1, 2]))).slab 64 2 = [1, 2] ∧ (after (exec .luteReadRsp (asked 3 (.load 0 1 4) [1, 2]))).lute.got = [(0, 1, 4, [1, 2])] ∧
    (after (exec .luteReadRsp (asked 3 (.load 0 1 4) [1, 2, 3]))).lute.got = [] := by decide +kernel
theorem test_lute_atomic_rsp : (asked 5 (.atomic false) []).luteHead.map (·.2) = some [] ∧ (after (exec .luteAtomicRsp (asked 5 (.atomic false) []))).lute.asked = [] ∧
    (after (exec .luteAtomicRsp (asked 5 (.atomic false) []))).mem.atomicOut = none := by decide +kernel
/-- A tally message for tally 7 of sagger 0, whose LEAD bit is given. -/
def tallied (type lead : Nat) (p : List Byte) (mode : Nat := 1) : State :=
  { lutedPair 1 (leBytes (type + 2 ^ 32 * 7 + 2 ^ 96 * p.length) 16 ++ padTo ((p.length + 15) / 16 * 16) p) with tallies := [(7, { cfg := BitVec.ofNat 64 (mode + 8 * lead + 100 * 2 ^ 32), prod := 5 })] }
theorem test_lute_tally : (tallied 6 1 (tallyOpBytes 1 0 0x1003 2 0)).homeHere 7 = true ∧ tallyOpOk (tallyOpBytes 1 0 0x1003 2 0) = true ∧ lmTallyBad (6 + 2 ^ 32 * 7 + 2 ^ 96 * 16) = false ∧ lmTally (6 + 2 ^ 32 * 7) = 7 ∧
    ((after (exec .luteTally (tallied 6 1 (tallyOpBytes 1 0 0x1003 2 0)))).tally 7).prod = 7 ∧ ((after (exec .luteTally (tallied 6 1 (tallyOpBytes 2 0 0x1003 5 0)))).tally 7).cons = 5 ∧
    codes (after (exec .luteTally (tallied 6 1 (tallyOpBytes 2 0 0x1003 6 0)))) = [0x3CC1#16] := by decide +kernel
theorem test_lute_mirror : (tallied 7 0 (leBytes 9 8 ++ leBytes 8 8)).homeHere 7 = false ∧ ((after (exec .luteMirror (tallied 7 0 (leBytes 9 8 ++ leBytes 8 8)))).tally 7).prod = 9 ∧
    ((after (exec .luteMirror (tallied 7 0 (leBytes 9 8 ++ leBytes 8 8)))).tally 7).cons = 8 := by decide +kernel
theorem test_lute_rejects : ∀ x ∈ [(1, Instr.luteWrite), (2, .luteRead), (3, .luteReadRsp), (4, .luteAtomic), (5, .luteAtomicRsp), (6, .luteTally), (7, .luteMirror)],
    (lutedPair 1 (leBytes (x.1 + 2 ^ 8) 16)).luteHead = some (x.1 + 2 ^ 8, []) ∧ (lutedPair 1 (leBytes (x.1 + 2 ^ 8) 16)).lmBad (x.1 + 2 ^ 8) = true ∧
    codes (after (exec x.2 (lutedPair 1 (leBytes (x.1 + 2 ^ 8) 16)))) = [0x3DDA#16] := by decide +kernel
theorem test_pair_form : let s : State := { lutedPair 1 [] with saggers := [(0, {})], lute := {} }
    s.lutedSaggers = [0] ∧ s.cannotBuild 0 = false ∧ (s.port 6).st = .up ∧ (after (exec .pairForm s)).lute.paired = true ∧
    ((after (exec .pairForm s)).sagger 0).st = .serving := by decide +kernel
theorem test_pair_stop : let s : State := { lutedPair 1 [] with lute := { paired := true, stop := true } }
    (s.sagger 0).st = .serving ∧ ((after (exec .pairStop s)).sagger 0).st = .resetting ∧ ((after (exec .pairStop s)).sagger 0).cause.code = 0x3DD9#16 ∧
    (after (exec .pairStop s)).lute.paired = false ∧ (after (exec .pairStop s)).reg .lutStops 0 = 1 := by decide +kernel

/-! ## The Shomu link -/

/-- Link 0 as given, with its adapter, at time 30 ms. -/
def linked (x : Link) (s : State := up) : State := { s with regs := [((.shlCtl, 0), 1)], links := [(0, x)], tb := { ref := 30000000 } }
theorem test_link_train : (linked {}).linkEnabled 0 = true ∧ (linked {}).shomuBarred 0 = false ∧
    ((linked {}).shomuWidth 0 0, (linked {}).shomuWidth 0 0x8000, (linked {}).shomuWidth 0 1, (linked {}).shomuWidth 0 0x101) = (3, 1, 2, 0) ∧
    ((after (exec (.shomuLinkTrain 0 0xFF) (linked {}))).link 0).width = 1 ∧ ((after (exec (.shomuLinkTrain 0 0) (linked {}))).link 0).reason = 1 ∧
    ((after (exec (.shomuLinkTrain 0 0x7F7F) (linked {}))).link 0).reason = 2 ∧
    ((after (exec (.shomuLinkTrain 0 0xFFFF) { linked {} with health := { map := [(440, 1), (441, 1)] } })).link 0).barred = true := by decide +kernel
/-- An adapter's record: FORM full, VERSION major mask and minor, ACK. -/
def adapterRec (full major ack : Nat) : BitVec 256 := BitVec.ofNat 256 (2 ^ 64 * major + 2 ^ 96 + 2 ^ 128 * full + 2 ^ 131 * ack + 2 ^ 160 * 4096)
theorem test_link_record : let s : State := linked { st := .train, locked := true, width := 3 }
    shomuRecBad (adapterRec 1 1 1) = false ∧ s.shomuHold 0 (adapterRec 1 1 1) = none ∧ s.shomuHold 0 (adapterRec 1 2 0) = some 3 ∧ s.shomuHold 0 (adapterRec 0 1 0) = some 4 ∧
    ((after (exec (.shomuTrainingRecord 0 (adapterRec 1 1 0)) s)).link 0).ack = true ∧ ((after (exec (.shomuTrainingRecord 0 (adapterRec 1 1 1)) s)).link 0).st = .up ∧
    ((after (exec (.shomuTrainingRecord 0 (adapterRec 1 1 1)) s)).link 0).vmin = 1 ∧
    codes (after (exec (.shomuTrainingRecord 0 (adapterRec 0 1 0)) s)) = [0x5EE0#16] := by decide +kernel
theorem test_link_times : ((after (exec (.shomuTrainTimeout 0) (linked { st := .train, started := 10000000 }))).link 0).reason = 7 ∧
    ((after (exec (.shomuTrainTimeout 0) (linked { st := .train, started := 10000001 }))).link 0).st = .train ∧
    ((after (exec (.shomuTrainRetry 0) (linked { retry := true, started := 20000000 }))).link 0).st = .train ∧
    ((after (exec (.shomuTrainRetry 0) (linked { retry := true, started := 20000001 }))).link 0).st = .down := by decide +kernel
theorem test_link_fast_retrain : let s (n : Nat) : State := linked { st := .up, width := 3, faulty := 0, replays := n, replay := [(1, [])] }
    ((after (exec (.shomuFastRetrain 0 0) (s 8))).link 0).st = .retrain ∧ ((after (exec (.shomuFastRetrain 0 0) (s 7))).link 0).st = .up ∧
    ((after (exec (.shomuFastRetrain 0 0x100) (s 0))).link 0).width = 1 ∧ ((after (exec (.shomuFastRetrain 0 0) (s 8))).link 0).replay = [(1, [])] := by decide +kernel
/-- A flit: its sequence number, type, and ACK, with a CRC that is right or not. -/
def flit (seq type ack : Nat) (off : Nat := 0) : List Byte :=
  let b := List.replicate 248 7 ++ leBytes (seq + 2 ^ 12 * type + 2 ^ 16 * ack) 4
  b ++ leBytes ((crc32c b).toNat + off) 4
theorem test_crc32c : crc32c [0x31, 0x32, 0x33, 0x34, 0x35, 0x36, 0x37, 0x38, 0x39] = 0xE3069283 := by decide +kernel
theorem test_shomu_flit : let s : State := linked { st := .up, rxSeq := 4095 }
    ((after (exec (.shomuFlit 0 (flit 4095 0 0)) s)).link 0).rxSeq = 0 ∧ ((after (exec (.shomuFlit 0 (flit 4095 0 0)) s)).link 0).rx.length = 248 ∧
    ((after (exec (.shomuFlit 0 (flit 0 0 0)) s)).link 0).nakOut = some 4095 ∧ ((after (exec (.shomuFlit 0 (flit 4094 0 0)) s)).link 0).nakOut = none ∧
    (after (exec (.shomuFlit 0 (flit 4095 0 0 1)) s)).reg .shlCrc 0 = 1 := by decide +kernel
theorem test_shomu_nak : let s : State := linked { st := .up, replay := [(1, []), (2, []), (3, [])] }
    ((after (exec (.shomuNak 0 2) s)).link 0).replay.map (·.1) = [2, 3] ∧ (after (exec (.shomuNak 0 2) s)).reg .shlReplay 0 = 2 := by decide +kernel
theorem test_credit : ((after (exec (.credit 0 [BitVec.ofNat 64 (5 * 256)]) (linked { st := .up }))).link 0).ctrlCredit = 5 ∧
    ((after (exec (.credit 0 [BitVec.ofNat 64 (1 + 4 * 63 + 5 * 256)]) (linked { st := .up }))).chan 63).msgCredit = 5 ∧
    ((after (exec (.credit 0 [BitVec.ofNat 64 (2 + (2 ^ 24 - 1) * 256)]) (linked { st := .up }))).link 0).bulkCredit = 2 ^ 24 - 1 := by decide +kernel
theorem test_shomu_heartbeats : ((after (exec (.shomuHeartbeatSend 0) (linked { st := .up, vmin := 1, hbSeq := 0xFFFFFFFF, lastHbTx := 29980000 }))).link 0).hbSeq = 0 ∧
    ((after (exec (.shomuHeartbeatSend 0) (linked { st := .up, lastHbTx := 29980001 }))).link 0).tx = [] ∧
    (((after (exec (.shomuHeartbeatSend 0) (linked { st := .up, hbSeq := 5 }))).link 0).tx.map fun m => (m.drop 16).take 8) = [[5, 0, 0, 0, 9, 0, 0, 0]] ∧
    ((after (exec (.heartbeat 0) (linked { st := .up, msgs := [[], []] }))).link 0).msgs = [[]] := by decide +kernel
theorem test_shomu_loss : let s (x : Link) : State := (linked x).onChan 0 fun _ => { st := .open, slot0 := { live := true } }
    codes (after (exec (.shomuLossDetect 0) (s { st := .up, lastFlit := 29900000, lastHb := 30000000 }))) = [0x5EE2#16] ∧
    ((after (exec (.shomuLossDetect 0) (s { st := .up, lastFlit := 29900001, lastHb := 29850001 }))).link 0).st = .up ∧
    (after (exec (.shomuLossDetect 0) (s { st := .retrain, lastFlit := 30000000, lastHb := 29850000 }))).chan 0 = { st := .closed } := by decide +kernel
theorem test_loss_request_end : let s : State := model small { st := .serving, live := [{ request 7 .ended with silent := true, slot := 0 }, { request 8 with slot := 1 }] }
    (s.sagger 0).phase = .none ∧ ((after (exec (.lossRequestEnd 0) s)).sagger 0).live.map (·.sub.reqId) = [8] := by decide +kernel

/-! ## Frames, status and keys -/

/-- A policy for channel 0, with a receive buffer of 64 KiB, and these bytes received. -/
def framed (policy : Nat) (bs : List Byte) (c : Chan := { st := .openPlain }) : State :=
  { linked { st := .up, rx := bs } with plan := some { plan with channels := [⟨0, 0, policy, 65536⟩] }, chans := [(0, c)] }
/-- A frame of a whole message of CLASS `cls`. -/
def frame1 (cls type : Nat) (p : List Byte) : List Byte :=
  frameOf (frameHeader 0 0 cls 0 1 (16 + p.length) false false) (msgHeader type p.length 5 ++ p) []
theorem test_frame_receive : ((after (exec (.frameReceive 0) (framed 0 (zeros 8 ++ frame1 0 0x30 [] ++ [9])))).chan 0).rx = [⟨0x30, 5, [], 2⟩] ∧
    ((after (exec (.frameReceive 0) (framed 0 (zeros 8 ++ frame1 0 0x30 [] ++ [9])))).link 0).rx = [9] ∧
    (frameHdrOf ((frame1 0 0x30 []).take 8)).bytes = 32 ∧
    codes (after (exec (.frameReceive 0) (framed 0 (frame1 3 0x30 [])))) = [0x5EE3#16] ∧
    codes (after (exec (.frameReceive 0) (framed 1 (frame1 1 1 [])))) = [0x2EE7#16] := by decide +kernel
theorem test_frame_lengths : (frameHdrOf (leBytes 0 4 ++ leBytes 4096 4)).flen = 4096 ∧ (frameHdrOf (leBytes 0 4 ++ leBytes 4097 4)).flen = 4097 ∧ (frameHdrOf (zeros 8)).flen = 0 ∧
    (frameHdrOf (leBytes 0x2000 4 ++ leBytes 1 4)).resv = true ∧ (frameHdrOf (leBytes 0 4 ++ leBytes 0x2001 4)).resv = true := by decide +kernel
/-- A sealed frame under slot 1, which may hold keys. -/
def sealed (live : Bool) : State := framed 1 (frameHeader 0 1 0 0 1 16 true false ++ zeros 40) { st := .open, active := 1, slot1 := { live := live } }
theorem test_stale_frame : ((sealed false).chan 0).slot 1 = {} ∧ (after (exec (.frameReceive 0) (sealed false))).reg .shlChStale 0 = 1 ∧
    (((sealed true).chan 0).slot 1).live = true ∧ (frameHdrOf ((((sealed true).link 0).rx).take 8)) = ⟨0, 1, true, true, true, 0, false, 16, false⟩ := by decide +kernel
theorem test_status_req : (received 0x30 [] (queueing [request 7])).headMsg 0 0x30 = some ⟨0x30, 5, [], 0⟩ ∧
    (((after (exec (.statusReq 0) (received 0x30 [] (queueing [request 7])))).chan 0).tx.map fun m => (m.type, m.payload.take 8)) = [(0x31, [0x10, 0, 0, 0, 1, 0, 0, 0])] ∧
    codes (after (exec (.statusReq 0) (received 0x30 [1] up))) = [0x5EE3#16] := by decide +kernel
theorem test_attest_req : codes (after (exec (.attestReq 0) (received 0x40 (zeros 31) up))) = [0x5EE3#16] ∧
    (received 0x40 (zeros 32) (up { st := .building })).attestReady ⟨zeros 32, 1, 0, none, 0, 0, 5⟩ = false ∧
    (received 0x40 (zeros 32) up).attestReady ⟨zeros 32, 1, 0, none, 0, 0, 5⟩ = true ∧
    (after (exec (.attestReq 0) (received 0x40 (zeros 32) (up { st := .building })))).mgmt.attests.length = 1 := by decide +kernel
/-- Channel 0 has received an offer for slot 0 under a policy. -/
def offered (policy : Nat) (n : Nat) (c : Chan := { st := .closed }) : State := framed policy [] { c with rx := [⟨0x42, 5, zeros n, 2⟩] }
theorem test_key_offer : (offered 1 1604).offerBad 0 (zeros 1604) = none ∧ (offered 0 1604).offerBad 0 (zeros 1604) = some 1 ∧ (offered 1 1603).offerBad 0 (zeros 1603) = some 4 ∧
    (offered 1 1604 { slot0 := { live := true } }).offerBad 0 (zeros 1604) = some 3 ∧ ((offered 1 1604).headMsg 0 0x42).isSome = true ∧ (offered 1 1604).boot.readyWas = true ∧
    (((offered 1 1604 { slot1 := { live := true } }).chan 0).slot 1).live = true ∧
    sentOn (after (exec (.keyOffer 0) (offered 1 4))) = [(0x44, 0)] ∧ codes (after (exec (.keyOffer 0) (offered 1 4))) = [0x5EE6#16] := by decide +kernel
theorem test_slot_retire : let s (t : Nat) : State := { framed 1 [] { st := .rotating, active := 1, slot0 := { live := true }, slot1 := { live := true }, retiring := some (0, t) } with tb := { ref := 100000000 } }
    ((after (exec (.keySlotRetireTimeout 0) (s 0))).chan 0).slot0 = {} ∧ ((after (exec (.keySlotRetireTimeout 0) (s 0))).chan 0).retiring = none ∧
    ((after (exec (.keySlotRetireTimeout 0) (s 1))).chan 0).retiring = some (0, 1) ∧ (after (exec (.keySlotRetireTimeout 0) (s 0))).reg .shlChRetireTo 0 = 1 := by decide +kernel

/-! ## Swap messages -/

/-- A page of request 7 waits to leave on channel 0. -/
def leaving : State := received 0x99 [] { pageGone with lat := { outs := [{ sid := 0, peer := .host 0, kind := 1, sagger := 0, ctxA := 0, ctxB := 0, src := 131072, len := 0 }] } }
theorem test_swap_wr : (leaving.nextWrite 0).isSome = true ∧ leaving.chanOpen 0 = true ∧ leaving.outstanding 0 = 0 ∧
    (after (exec (.swapWr 0) leaving)).swaps.map (fun r => (r.sent, r.write, r.block, r.bytes)) = [(true, true, 32, 1024)] ∧
    ((after (exec (.swapWr 0) leaving)).chan 0).tx.map (·.type) = [0x20] := by decide +kernel
/-- A swap message of request 7 for a block or the directory slot. -/
def swap9 (write sent : Bool) (block : Nat := 32) : SwapReq :=
  { tag := 9, link := 0, chan := 0, reqId := 7, kslot := 0, write := write, off := 0, bytes := 4, data := if write then [1, 2, 3, 4] else [], layer := 0, page := 0, block := block, sent := sent }
/-- The stream of that page. -/
def reading : Stream := { coming with peer := .host 0, kind := 1, dst := 131072, ctxA := 0, ctxB := 0, header := [], index := [] }
/-- The message has been sent or waits; this answer has come under TAG `tag`. -/
def answered (r : SwapReq) (type : Nat) (tag : BitVec 32) (p : List Byte) : State :=
  { live swapping with swaps := [r], lat := { streams := [reading] }, chans := [(0, { st := .openPlain, rx := [⟨type, tag, p, 0⟩] })] }
theorem test_swap_rd : let s : State := answered (swap9 false false) 0x99 0 []
    (s.swaps.find? fun r => r.chan == 0 && !r.sent && !r.write) = some (swap9 false false) ∧
    (after (exec (.swapRd 0) s)).swaps.map (·.sent) = [true] ∧ ((after (exec (.swapRd 0) s)).chan 0).tx.map (·.type) = [0x22] := by decide +kernel
theorem test_swap_ack : (answered (swap9 true true) 0x21 9 (zeros 4)).swapOf 0 9 true = some (swap9 true true) ∧
    (after (exec (.swapAck 0) (answered (swap9 true true) 0x21 9 (zeros 4)))).swaps = [] ∧
    (codes (after (exec (.swapAck 0) (answered (swap9 true true) 0x21 9 (leBytes 1 4))))).head? = some 0x5EE8#16 ∧
    codes (after (exec (.swapAck 0) (answered (swap9 true true) 0x21 8 (zeros 4)))) = [0x5EE8#16] := by decide +kernel
theorem test_swap_err : ((answered (swap9 true true) 0x24 9 []).swapOf 0 9 true).or ((answered (swap9 true true) 0x24 9 []).swapOf 0 9 false) = some (swap9 true true) ∧
    (codes (after (exec (.swapErr 0) (answered (swap9 true true) 0x24 9 (leBytes 1 4))))).head? = some 0x5EE8#16 := by decide +kernel
theorem test_swap_data : let s (b : Nat) : State := answered (swap9 false true b) 0x23 9 [1, 2, 3, 4]
    (s 32).readStream (swap9 false true) = some reading ∧ (s 32).stream? 5 = some reading ∧
    ((after (exec (.swapData 0) (s 32))).stream? 5).map (·.header) = some [1, 2, 3, 4] ∧
    ((after (exec (.swapData 0) (s 0))).glaze 0).expQ = [(5, 0, [1, 2, 3, 4])] ∧ (after (exec (.swapData 0) (s 0))).swaps = [] ∧
    codes (after (exec (.swapData 0) (answered (swap9 false true) 0x23 8 [1, 2, 3, 4]))) = [0x5EE8#16] := by decide +kernel
theorem test_swap_timeout : let s (n t : Nat) : State := { answered { swap9 true true with tries := n } 0x99 0 [] with tb := { ref := t }, nextTag := 20 }
    (after (exec (.swapTimeout 0 9) (s 2 1000000))).swaps.map (fun r => (r.tries, r.tag)) = [(3, 20)] ∧ (after (exec (.swapTimeout 0 9) (s 3 1000000))).swaps = [] ∧
    (after (exec (.swapTimeout 0 9) (s 2 999999))).swaps.map (·.tries) = [2] := by decide +kernel

/-! ## Management sessions -/

/-- Session 0 is open with every role. -/
def managed (s : State := up) (roles : BitVec 3 := 7) : State := { s with mgmt := { sessions := [(0, { open_ := true, roles := roles })] } }
/-- A command of session 0 under TAG 5. -/
def cmd (sagger : BitVec 4) (p : List Byte) : MgmtArgs := ⟨0, sagger, 5, p⟩
/-- Answers of session 0: command, status and payload. -/
def answersOf (s : State) : List (Nat × Nat × List Byte) := (s.session 0).resp.map fun r => (r.cmd, r.status, r.payload)
/-- Statuses of session 0. -/
def statuses (o : Host.Outcome State Fault Refusal) : List Nat := ((after o).session 0).resp.map (·.status)
theorem test_handshake : up.creds = [(7, 5)] ∧ up.addrRefused 1 = false ∧ up.freeSession = some 0 ∧
    (after (exec (.mgmtHandshake 1 5 true) up)).session 0 = { open_ := true, addr := 1, roles := 7 } ∧
    (after (exec (.mgmtHandshake 1 6 true) up)).reg .mgtAuthFail 0 = 1 ∧
    (after (exec (.mgmtHandshake 1 5 false) { up with mgmt := { failures := List.replicate 7 (1, 0) } })).addrRefused 1 = true ∧
    (after (exec (.mgmtHandshake 1 5 false) { up with mgmt := { failures := List.replicate 6 (1, 0) } })).addrRefused 1 = false ∧
    ({ up with mgmt := { sessions := [(0, { open_ := true }), (1, { open_ := true }), (2, { open_ := true }), (3, { open_ := true })] } } : State).freeSession = none := by decide +kernel
theorem test_refusal_expires : let s (t : Nat) : State := { up with mgmt := { refused := [(1, 0)] }, tb := { ref := t } }
    (s (minuteNs - 1)).addrRefused 1 = true ∧ (after (exec (.addressRefusalExpire 1) (s (minuteNs - 1)))).mgmt.refused = [(1, 0)] ∧
    (after (exec (.addressRefusalExpire 1) (s minuteNs))).mgmt.refused = [] := by decide +kernel
theorem test_session_close : (after (exec (.mgmtSessionClose 0) managed)).session 0 = {} := by decide +kernel
theorem test_gate : (managed up 6).mgmtGate ⟨0x10, 0, .device, false⟩ (cmd 15 []) = some 1 ∧ managed.mgmtGate ⟨0x21, 1, .sagger, true⟩ (cmd 1 []) = some 2 ∧
    managed.mgmtGate ⟨0x10, 0, .device, false⟩ (cmd 12 []) = some 2 ∧ managed.mgmtGate ⟨0x21, 1, .sagger, true⟩ (cmd 0 []) = none ∧
    (managed { up with boot := { bisque := true } }).mgmtGate ⟨0x21, 1, .sagger, true⟩ (cmd 0 []) = some 4 ∧
    answersOf (after (exec (.csrRead (cmd 15 [])) (managed up 6))) = [(0x8010, 1, [])] ∧ (after (exec (.csrRead (cmd 15 [])) (managed up 6))).reg .mgtDenied 0 = 1 ∧
    answers (exec (.csrRead (cmd 15 [])) up) up = true := by decide +kernel
theorem test_get_cert : statuses (exec (.getCert (cmd 15 [])) (managed { up with boot := { certOk := false } })) = [6] ∧ managed.boot.certOk = true ∧
    statuses (exec (.getCert (cmd 15 [1])) managed) = [2] := by decide +kernel
theorem test_attest : (cmd 15 (zeros 32 ++ [1, 0, 0, 0])).attestBad = false ∧ (cmd 15 (zeros 32 ++ [0, 16, 0, 0])).attestBad = true ∧ managed.boot.keyOk = true ∧
    statuses (exec (.attest (cmd 15 (zeros 36))) (managed { up with boot := {} })) = [5] ∧ statuses (exec (.attest (cmd 15 [])) managed) = [2] ∧
    (∀ g ∈ managed.maskSaggers 1, managed.unsettled g = false) ∧ (∃ g ∈ (managed (up { st := .building })).maskSaggers 1, (managed (up { st := .building })).unsettled g = true) ∧
    (after (exec (.attest (cmd 15 (zeros 32 ++ [1, 0, 0, 0]))) (managed (up { st := .building })))).mgmt.attests = [⟨zeros 32, 1, 0, some 0, 0, 0, 5⟩] := by decide +kernel
theorem test_attest_snapshot : let a : AttestWait := ⟨zeros 32, 1, 0, some 0, 0, 0, 5⟩
    ({ managed (up { st := .building }) with tb := { ref := 5 * 10 ^ 9 } } : State).attestReady a = true ∧ (managed (up { st := .building })).attestReady a = false ∧
    answers (exec .attestSnapshot managed) managed = true := by decide +kernel

/-! ## Registers and logs -/

/-- CSR_READ or CSR_WRITE at an address. -/
def csr (addr n : Nat) (ws : List Nat := []) : MgmtArgs := cmd 15 (leBytes addr 4 ++ leBytes n 4 ++ ws.flatMap fun w => leBytes w 4)
theorem test_csr_payload : (csr 0 1).csrBad 8 = false ∧ (csr 0 64).csrBad 8 = false ∧ (csr 0 65).csrBad 8 = true ∧ (csr 0 0).csrBad 8 = true ∧ (csr 2 1).csrBad 8 = true ∧
    (csr 0xFFFC 2).csrBad 8 = true ∧ (csr 0x7FFF0000 1).csrBad 8 = true ∧ statuses (exec (.csrRead (csr 0 0)) managed) = [2] := by decide +kernel
/-- Each block has a place, and the registers that the tests use have theirs. -/
theorem test_csr_places : (blockAt 0).map (·.1) = some .top ∧ blockWord .top 0xFFFC = none ∧ (blockAt 2).map (·.1) = some .whl := by decide +kernel
/-- Byte offset of a word of a block. -/
def offsetOf (b : Block) (w : RegWord) : Nat := (((List.range 512).map (4 * ·)).find? fun o => blockWord b o == some w).getD 0xFFFC
theorem test_csr_pair : blockWord .whl 0x40 = some (.lo .whlBeats) ∧ blockWord .whl 0x44 = some (.hi .whlBeats) ∧ blockAt 2 = some (.whl, 0) ∧ (csr 0x20040 1).csrBad 8 = false ∧
    (csr 0x20040 1).addr / 65536 = 2 ∧ (csr 0x20040 1).addr % 65536 = 0x40 := by decide +kernel
theorem test_csr_write : let s : State := managed { up with flog := { dev := true, overflow := true } }
    (after (exec (.csrWrite (csr (offsetOf .top (.whole .topScratch)) 1 [0xDEADBEEF])) s)).reg .topScratch 0 = 0xDEADBEEF ∧
    (after (exec (.csrWrite (csr (offsetOf .top (.whole .topFltStatus)) 1 [2])) s)).flog = { dev := true, overflow := false } ∧
    statuses (exec (.csrWrite (csr 0xFFFC 1 [1])) s) = [0] ∧ statuses (exec (.csrWrite (csr 0 1 [])) s) = [2] := by decide +kernel
theorem test_csr_select : let s : State := managed
    Reg.isSel .whlSel = true ∧ selWrite .whlSel 143 = some 143 ∧ selWrite .whlSel 144 = none ∧ s.wheelUsable 3 = true ∧
    ((after (exec (.csrWrite (csr (0x20000 + offsetOf .whl (.whole .whlSel)) 1 [3])) s)).session 0).sel .whlSel 0 = 3 ∧
    blockWord .whl (offsetOf .whl (.whole .whlCntClr)) = some (.whole .whlCntClr) := by decide +kernel
theorem test_csr_clear : let s : State := { managed with regs := [((.whlBeats, 3), 9)], mgmt := { sessions := [(0, { open_ := true, roles := 7, sels := [((.whlSel, 0), 3)] })] } }
    ((s.session 0).sel .whlSel 0 = 3 ∧ ∀ r ∈ clearedBy .whlCntClr, (after (exec (.csrWrite (csr (0x20000 + offsetOf .whl (.whole .whlCntClr)) 1 [1])) s)).reg r 3 = 0) := by decide +kernel
theorem test_step_read : (cmd 0 (leBytes 1 4 ++ leBytes 256 4)).stepBad = false ∧ (cmd 0 (leBytes 1 4 ++ leBytes 257 4)).stepBad = true ∧ (cmd 0 (leBytes 1 4 ++ zeros 4)).stepBad = true ∧
    answersOf (after (exec (.stepRead (cmd 0 (leBytes 1 4 ++ leBytes 4 4))) managed)) = [(0x8012, 0, zeros 16)] ∧
    statuses (exec (.stepRead (cmd 0 [])) managed) = [2] ∧ stepOfLow 0x100000005 0xFFFFFFFF = 0xFFFFFFFF ∧ stepOfLow 0x100000005 5 = 0x100000005 := by decide +kernel
theorem test_step_read_one : let s : State := managed { up { st := .serving, fired := 1, stepNum := 1 } with mem := { hbm := [(12320, 1)] } }
    s.ringHolds 0 1 = true ∧ answersOf (after (exec (.stepRead (cmd 0 (leBytes 1 4 ++ leBytes 4 4))) s)) = [(0x8012, 0, leBytes 1 4 ++ leBytes 2 4 ++ leBytes 1 4 ++ zeros 4 ++ [1] ++ zeros 31)] := by decide +kernel
/-- The log holds records 5 and 6 of classes 1 and 4. -/
def logged : State := managed { up with flog := { ring := [{ code := 0x1FF1, seq := 5 }, { code := 0x40FE, seq := 6 }], next := 7 } }
/-- FAULT_READ from SEQ 5 with a class mask. -/
def faultCmd (n classes : Nat) : MgmtArgs := cmd 15 (leBytes 5 4 ++ leBytes (n + 2 ^ 9 * classes + 2 ^ 15 * 15) 4)
theorem test_fault_read : (faultCmd 256 0).faultBad = false ∧ (faultCmd 257 0).faultBad = true ∧
    (answersOf (after (exec (.faultRead (faultCmd 256 0)) logged))).map (fun r => (r.2.1, r.2.2.take 16)) = [(0, leBytes 5 4 ++ leBytes 7 4 ++ leBytes 2 4 ++ zeros 4)] ∧
    (answersOf (after (exec (.faultRead (faultCmd 256 8)) logged))).map (fun r => (r.2.2.drop 8).take 4) = [leBytes 1 4] ∧ statuses (exec (.faultRead (faultCmd 257 0)) logged) = [2] := by decide +kernel

/-! ## Images and firmware -/

/-- The store may be written: sagger 0 is DOWN. -/
def unlocked : State := managed (up {})
/-- NS 0 and an offset in MiB, with data. -/
def imageCmd (off : Nat) (data : List Byte) : MgmtArgs := cmd 15 (leBytes 0 4 ++ leBytes off 4 ++ data)
theorem test_image_write : (imageCmd 3 [1]).imageAt = (0, 3 * 2 ^ 20) ∧ unlocked.nsCap 0 = some (2 ^ 30) ∧ unlocked.nsLocked 0 = false ∧ managed.nsLocked 0 = true ∧
    (after (exec (.imageWrite (imageCmd 3 [7, 8])) unlocked)).mem.store = [(3 * 2 ^ 20, 7), (3 * 2 ^ 20 + 1, 8)] ∧ statuses (exec (.imageWrite (imageCmd 3 [7])) managed) = [3] ∧
    statuses (exec (.imageWrite (imageCmd 1023 [7])) unlocked) = [0] ∧ statuses (exec (.imageWrite (imageCmd 1024 [7])) unlocked) = [7] ∧ statuses (exec (.imageWrite (imageCmd 3 [])) unlocked) = [2] := by decide +kernel
theorem test_image_commit : statuses (exec (.imageCommit (imageCmd 1024 [])) unlocked) = [2] ∧ statuses (exec (.imageCommit (imageCmd 3 [1])) unlocked) = [2] ∧
    unlocked.commitOk 0 [] = false ∧ (imageCmd 1023 []).imageHeadBad = false := by decide +kernel
/-- An image of 100 bytes is committed at offset 0. -/
def committed (s : State) : State := { s with store := { images := [⟨0, 0, 77, { small with length := 100 }⟩] }, mem := { store := [(0, 1), (99, 2), (100, 3)] } }
theorem test_image_erase : (committed unlocked).committed? 0 0 = some ⟨0, 0, 77, { small with length := 100 }⟩ ∧
    (after (exec (.imageErase (imageCmd 0 [])) (committed unlocked))).mem.store = [(100, 3)] ∧ (after (exec (.imageErase (imageCmd 0 [])) (committed unlocked))).store.images = [] ∧
    statuses (exec (.imageErase (imageCmd 1 [])) (committed unlocked)) = [5] ∧ statuses (exec (.imageErase (imageCmd 0 [])) (committed managed)) = [3] ∧
    statuses (exec (.imageErase (imageCmd 0 [1])) unlocked) = [2] := by decide +kernel
/-- IMAGE_LOAD of NS 0, index 3, offset 0 into stratum 16. -/
def loadCmd (n : Nat) : MgmtArgs := cmd 0 (leBytes (2 ^ 8 * n + 2 ^ 16 * 3) 4 ++ zeros 12 ++ [16, 0, 0, 0])
theorem test_image_load : (loadCmd 1).loadBad = false ∧ (loadCmd 5).loadBad = true ∧ (loadCmd 1).load = ⟨0, 3, 0, none, [16]⟩ ∧
    statuses (exec (.imageLoad (loadCmd 0)) managed) = [2] ∧ (match managed.loadPlan 0 (loadCmd 1).load with | .error e => some e | .ok _ => none) = some 5 ∧
    (match (committed managed).loadPlan 0 (loadCmd 1).load with | .error _ => none | .ok i => some (i.strata, i.measure)) = some ([16], 77) ∧
    statuses (exec (.imageLoad (loadCmd 1)) managed) = [5] := by decide +kernel
theorem test_image_remove : let s : State := managed (model small { st := .serving, live := [request 7] })
    s.imageUsed 0 0 = true ∧ statuses (exec (.imageRemove (cmd 0 (zeros 4))) s) = [4] ∧ statuses (exec (.imageRemove (cmd 0 [1, 0, 0, 0])) s) = [5] ∧
    statuses (exec (.imageRemove (cmd 0 [0, 0, 1, 0])) s) = [2] ∧ (managed (model small)).imageUsed 0 0 = false ∧
    ((after (exec (.imageRemove (cmd 0 (zeros 4))) (managed (model small)))).sagger 0).images = [] := by decide +kernel
/-- Slot B is in a state. -/
def slotB (x : SlotState) : State := managed { up with health := { slotB := x }, mem := { flash := [(0x03D00000, 1), (0x03D00000 + 60 * 2 ^ 20, 2)] } }
theorem test_firmware : (slotB .idle).otherSlot = 1 ∧ (after (exec (.fwBegin (cmd 15 [])) (slotB .idle))).health.slotB = .writing ∧
    (after (exec (.fwBegin (cmd 15 [])) (slotB .idle))).mem.flash = [(0x03D00000 + 60 * 2 ^ 20, 2)] ∧ statuses (exec (.fwBegin (cmd 15 [])) (slotB .writing)) = [4] ∧
    statuses (exec (.fwCommit (cmd 15 [])) (slotB .writing)) = [6] ∧ codes (after (exec (.fwCommit (cmd 15 [])) (slotB .writing))) = [0x1FF1#16] ∧
    statuses (exec (.fwCommit (cmd 15 [])) (slotB .idle)) = [4] ∧ (after (exec (.fwAbort (cmd 15 [])) (slotB .staged))).health.slotB = .idle ∧ statuses (exec (.fwAbort (cmd 15 [])) (slotB .idle)) = [4] := by decide +kernel
theorem test_fw_data : (after (exec (.fwData (cmd 15 (leBytes (60 * 2 ^ 20 - 1) 4 ++ [9]))) (slotB .writing))).mem.flash = [(0x03D00000, 1), (0x03D00000 + 60 * 2 ^ 20 - 1, 9), (0x03D00000 + 60 * 2 ^ 20, 2)] ∧
    statuses (exec (.fwData (cmd 15 (leBytes (60 * 2 ^ 20) 4 ++ [9]))) (slotB .writing)) = [2] ∧ statuses (exec (.fwData (cmd 15 (zeros 5))) (slotB .idle)) = [4] := by decide +kernel

/-! ## Budgets, slices, migration and shutdown -/

theorem test_budget_command : let p (t : Nat) : List Byte := leBytes t 4 ++ leBytes 100 4 ++ leBytes 9 4 ++ leBytes 1 4
    budgetBad (p 4) = false ∧ managed.tenantsFull 0 4 = false ∧ (managed (up { st := .serving, tenants := [{}, {}] })).tenantsFull 0 4 = true ∧
    (((after (exec (.budget (cmd 0 (p 4))) managed)).sagger 0).tenants.map fun e => (e.next.map (·.tenant))) = [some 4] ∧
    statuses (exec (.budget (cmd 0 (p 4))) (managed (up { st := .serving, tenants := [{}, {}] }))) = [7] ∧ statuses (exec (.budget (cmd 0 [])) managed) = [2] := by decide +kernel
/-- The kiln apex with a session. -/
def formed (l : Lattice := {}) : State := managed (apexState [] l)
theorem test_slice_form : formed.sliceBad (sliceOf (sliceRec 1)) = false ∧ sliceOf (BitVec.ofNat 256 (leNat (leBytes (sliceRec 1).toNat 32))) = sliceOf (sliceRec 1) ∧
    (after (exec (.sliceForm (cmd 15 (leBytes (sliceRec 1).toNat 32))) formed)).lat.slices.map (fun x => (x.id, x.asker)) = [(5, some (0, 5))] ∧
    statuses (exec (.sliceForm (cmd 15 (leBytes (sliceRec 1).toNat 32))) (formed { lostModules := [1] })) = [8] ∧
    statuses (exec (.sliceForm (cmd 15 (leBytes (sliceRec 4).toNat 32))) formed) = [2] := by decide +kernel
theorem test_slice_dissolve : statuses (exec (.sliceDissolve (cmd 15 [5, 0, 0, 0])) formed) = [5] ∧ statuses (exec (.sliceDissolve (cmd 15 [5, 0, 1, 0])) formed) = [2] ∧
    statuses (exec (.sliceDissolve (cmd 15 [5, 0, 0, 0])) (formed { slices := [held5 1] })) = [0] ∧
    ((after (exec (.sliceDissolve (cmd 15 [5, 0, 0, 0])) (formed { slices := [{ held5 1 with active := true }] }))).slice? 5).map (·.active) = some false := by decide +kernel
/-- A slice for migrations to module 2 is active; request 7 is live. -/
def migrating (q : Req) (x : SaggerState := .serving) : State :=
  { formed { slices := [{ held5 3 with active := true }] } with saggers := [(0, { st := x, phase := .running, live := [q], ragged := [⟨0, 0, 0, false, false, 0, 0, 1, false⟩], images := [⟨0, 0, 0, [], 0, small, false⟩] })] }
theorem test_migrate : let m : MgmtArgs := cmd 0 (leBytes 0 4 ++ leBytes 7 4 ++ leBytes 1 4 ++ leBytes 2 4)
    m.migrateBad = false ∧ ((migrating (request 7)).sliceMoves 0 1).map (·.id) = some 5 ∧ (request 7).movable = true ∧ (request 7 .swapped).movable = false ∧ (migrating (request 7)).inStep 0 (request 7) = true ∧
    (after (exec (.migrate m) (migrating (request 7)))).lat.migrations.map (fun a => (a.reqId, a.dest, a.asker)) = [(7, 1, (0, 5))] ∧
    (((after (exec (.migrate m) (migrating (request 7)))).sagger 0).live.map (·.moving)) = [true] ∧
    statuses (exec (.migrate m) (migrating (request 7 .swapped))) = [4] ∧ statuses (exec (.migrate m) (migrating (request 8))) = [2] := by decide +kernel
theorem test_shutdown : let e (ok : Bool) : BistEnv := { failed := [(0, 1)], conditions := ok }
    (after (exec (.shutdown (cmd 15 []) (e true)) managed)).boot.bistOn = true ∧ (after (exec (.shutdown (cmd 15 []) (e true)) managed)).health.pending = [(0, 1)] ∧
    (after (exec (.shutdown (cmd 15 []) (e false)) managed)).health.shutdown.bist = 3 ∧ statuses (exec (.shutdown (cmd 15 []) (e false)) managed) = [0] ∧
    codes (after (exec (.shutdown (cmd 15 []) (e false)) managed)) = [0x10FC#16] ∧
    (after (exec (.shutdown (cmd 15 []) (e true)) (managed (up { st := .serving, phase := .running })))).boot.bistOn = false ∧
    statuses (exec (.shutdown (cmd 15 []) (e true)) (managed { up with boot := { shutting := true } })) = [4] ∧ statuses (exec (.shutdown (cmd 15 [1]) (e true)) managed) = [2] := by decide +kernel
theorem test_bist_condition : let s : State := managed { up with boot := { phase := 7, bistOn := true, shutting := true, shutBy := some (0, 9) } }
    refInBist 10000 = true ∧ refInBist 10001 = false ∧ (after (exec (.bistConditionCheck 10001 true) s)).boot.idle = true ∧ codes (after (exec (.bistConditionCheck 0 false) s)) = [0x10FC#16] ∧
    statuses (exec (.bistConditionCheck 0 false) s) = [0] ∧ answers (exec (.bistConditionCheck 10000 true) s) s = true := by decide +kernel

/-! ## Reset and clear of a sagger -/

theorem test_sagger_reset : statuses (exec (.saggerReset (cmd 0 [])) managed) = [0] ∧ ((after (exec (.saggerReset (cmd 0 [])) managed)).sagger 0).st = .resetting ∧
    statuses (exec (.saggerReset (cmd 0 [])) unlocked) = [4] ∧ statuses (exec (.saggerReset (cmd 0 [1])) managed) = [2] := by decide +kernel
theorem test_sagger_clear : let s : State := managed (up { st := .serving, live := [request 7], queue := [request 8], frames := [(5, .exclusive 0)] })
    ((after (exec (.saggerClear (cmd 0 [])) s)).sagger 0).st = .clearing ∧ ((after (exec (.saggerClear (cmd 0 [])) s)).sagger 0).live = [] ∧
    ((after (exec (.saggerClear (cmd 0 [])) s)).sagger 0).frames.map (·.2) = [.scrubbing] ∧ codes (after (exec (.saggerClear (cmd 0 [])) s)) = [0x2FF4#16] ∧
    statuses (exec (.saggerClear (cmd 0 [])) s) = [0] ∧ statuses (exec (.saggerClear (cmd 0 [])) unlocked) = [4] := by decide +kernel
theorem test_clear_complete : let s (fs : Tab FrameState) : State := up { st := .clearing, frames := fs }
    (s [(5, .scrubbing)]).scrubLeft 0 = true ∧ (s []).cannotBuild 0 = false ∧ ((after (exec (.clearComplete 0) (s []))).sagger 0).st = .serving ∧
    ((after (exec (.clearComplete 0) (s []))).sagger 0).rho = 4096 ∧ codes (after (exec (.clearComplete 0) ((up { st := .clearing, stayDown := true })))) = [0x30FA#16] := by decide +kernel
theorem test_reset_sequence : let t : State := after (exec (.saggerResetSequence 0 [0]) (up { st := .resetting, resetTimes := [0, 0], queue := [request 7] }))
    (up { st := .resetting }).ownsWheel 0 0 = true ∧ (t.sagger 0).st = .serving ∧ t.reg .sgrResets 0 = 1 ∧ (t.wheel 0).failed = true ∧ (t.sagger 0).queue = [] ∧ (t.sagger 0).resetTimes = [] := by
  decide +kernel
theorem test_setter_probe : let s (n : Nat) (t : Nat) : State := { up { st := .serving, probeLost := some 0, probeExpiries := n } with tb := { ref := t } }
    up.named 0 = true ∧ ((after (exec (.setterProbe 0 false) up)).sagger 0).probeLost = some 0 ∧ ((after (exec (.setterProbe 0 true) (s 0 0))).sagger 0).probeLost = none ∧
    codes (after (exec (.setterProbeTimeout 0) (s 0 10000000))) = [0x3038#16] ∧ codes (after (exec (.setterProbeTimeout 0) (s 0 9999999))) = [] ∧
    ((after (exec (.setterProbeTimeout 0) (s 1 10000000))).sagger 0).st = .down ∧ (after (exec (.setterProbeTimeout 0) (s 1 10000000))).health.pending = [(388, 0)] := by decide +kernel

/-! ## Power, reset and bisque mode -/

/-- What a start finds. -/
def env (ppm : Int := 0) : StartEnv := { refclkPpm := ppm, keyOk := true, bridgeOk := true, warmVerified := true, codes := [], pchFailed := [], coneStart := [], publicKey := [] }
/-- The rails are on and RST_N is low. -/
def fed : State := { State.reset with power := { input := true, inserted := true, rails := true } }
theorem test_reset_release : fed.boot.phase = 0 ∧ (Power.mayStart { rails := true, rstN := true } 100000) = true ∧ (Power.mayStart { rails := true, rstN := true } (-100001)) = false ∧
    (after (exec (.resetRelease env) fed)).boot.dead = true ∧ (after (exec (.resetRelease env) fed)).health.boots = 1 ∧
    (after (exec (.resetRelease (env 100001)) fed)).power.rstN = true ∧ (after (exec (.resetRelease (env 100001)) fed)).health.boots = 0 := by decide +kernel
theorem test_input_return : (after (exec (.inputReturn env) { fed with power := { inserted := true, rstN := true } })).health.boots = 1 ∧
    (after (exec (.inputReturn env) { fed with power := { rstN := true } })).power = { input := true, rstN := true } := by decide +kernel
theorem test_reset_assert : (after (exec .resetAssert up)).power.rstN = false ∧ (after (exec .resetAssert up)).power.rails = true ∧ (after (exec .resetAssert up)).plan = none := by decide +kernel
theorem test_trip : (after (exec (.trip 110 0 (some 0)) up)).power.tripped = true ∧ (after (exec (.trip 109 112 (some 0)) up)).power.rails = false ∧
    (after (exec (.trip 0 0 none) up)).power.tripped = true ∧ answers (exec (.trip 109 111 (some 100000)) up) up = true ∧ answers (exec (.trip 109 111 none) fed) fed = true ∧
    answers (exec (.trip 200 0 none) State.reset) State.reset = true := by decide +kernel
theorem test_power_inputs : (after (exec .inputLockout up)).power = { inserted := true, rstN := true } ∧
    (after (exec .moduleInsert { State.reset with power := { input := true } })).power.rails = true ∧ (after (exec (.refclkPpmUpdate 10001) up)).power.refOk = false ∧
    (after (exec (.refclkPpmUpdate (-10000)) up)).power.refOk = true ∧ (after (exec (.managementLinkChange true false) up)).mgmt.link = true := by decide +kernel
theorem test_bisque : (after (exec (.bisqueEntry 1) up)).boot.reason = 1 ∧ codes (after (exec (.bisqueEntry 6) up)) = [0x40FE#16] ∧ ((after (exec (.bisqueEntry 1) up)).port 5).reason = 6 ∧
    ((after (exec (.bisqueEntry 1) up)).link 1).reason = 5 ∧ ((after (exec (.bisqueEntry 2) up)).sagger 0).st = .down ∧ answers (exec (.bisqueEntry 1) fed) fed = true := by decide +kernel
theorem test_fault_log : let s (code : BitVec 16) : State := { up with flog := { detected := [{ code := code, sagger := 3, level := 2 }, { code := 0x10FC }], next := 0xFFFFFFFF } }
    (after (exec .faultLogEnter (s 0x40FE))).flog.next = 0 ∧ (after (exec .faultLogEnter (s 0x40FE))).flog.dev = true ∧ (after (exec .faultLogEnter (s 0x40FE))).flog.first4 = 0xFFFFFFFF ∧
    (after (exec .faultLogEnter (s 0x30FE))).flog.dev = false ∧ (after (exec .faultLogEnter (s 0x30FE))).reg .sgrResetLast 3 = 0x30FE ∧ codes (after (exec .faultLogEnter (s 0x40FE))) = [0x10FC#16] := by decide +kernel
theorem test_fault_log_full : let f : FaultLog := { ring := List.replicate 4096 { code := 0x1FF1 }, next := 4096 }
    (f.enter { code := 0x10FC }).ring.length = 4096 ∧ (f.enter { code := 0x10FC }).overflow = true := by decide +kernel
/-- A measurement: the class margins and steps of die 0. -/
def cones (classes : List Int) (steps : Option Nat) : ConeEnv := { tL := [], margin := [], classes := [classes], steps := [steps], heat := [4] }
theorem test_cones : let s : State := { up with tb := { ref := coneGap }, cones := [(0, { vfloor := 650, codes := List.replicate 32 5 })] }
    worstOf [800, 900] = 800 ∧ ((after (exec (.coneMeasure (cones [800] none)) s)).cone 0).codes = List.replicate 32 5 ∧ ((after (exec (.coneMeasure (cones [800] none)) s)).cone 0).heat = 4 ∧
    ((after (exec (.coneMeasure (cones [799] (some 20))) s)).cone 0).vfloor = 850 ∧ ((after (exec (.coneMeasure (cones [799] (some 21))) s)).cone 0).vfloor = 650 ∧
    ((after (exec (.coneMeasure (cones [799] (some 21))) s)).cone 0).codes.take 2 = [7, 5] ∧ (after (exec (.coneMeasure (cones [799] none)) s)).reg .conReplans 0 = 1 := by decide +kernel
theorem test_cones_spent : let s : State := { up with tb := { ref := coneGap }, cones := [(0, { vfloor := 650, codes := List.replicate 32 63 })] }
    noMargin (s.cone 0).codes [499] = true ∧ noMargin (s.cone 0).codes [500] = false ∧ (after (exec (.coneMeasure (cones [499] none)) s)).boot.reason = 4 ∧
    answers (exec (.coneMeasure (cones [499] none)) { s with tb := { ref := coneGap - 1 } }) { s with tb := { ref := coneGap - 1 } } = true := by decide +kernel

end Sys2Proof.Tests
end

namespace Sys2Proof.Machine

/-! # Reading the two words of a register (O54)

First what an answer of the management port changes and what it leaves, then the register map, then CSR_READ of one word. -/

/-! ## Frames -/

theorem Only.trans {ps : List Field} {s t u : State} (h : Only ps s t) (h' : Only ps t u) : Only ps s u := by
  intro p hp
  have h1 := h p hp
  have h2 := h' p hp
  cases p <;> exact h2.trans h1

theorem RegsOnly.trans {l : List (Reg × Nat)} {s t u : State} (h : RegsOnly l s t) (h' : RegsOnly l t u) : RegsOnly l s u :=
  fun r n hr => (h' r n hr).trans (h r n hr)

/-- A change of the management port alone. -/
theorem State.onMgmt_only (s : State) (f : Mgmt → Mgmt) : Only [.mgmt, .regs] s (s.onMgmt f) := by
  intro p hp
  cases p
  case mgmt => simp at hp
  all_goals rfl

/-- A count in a stored register. -/
theorem State.bump_only (s : State) (r : Reg) (u n : Nat) : Only [.mgmt, .regs] s (s.bump r u n) := by
  intro p hp
  cases p
  case regs => simp at hp
  all_goals rfl

theorem State.onSession_only (s : State) (k : Nat) (f : Session → Session) : Only [.mgmt, .regs] s (s.onSession k f) :=
  s.onMgmt_only fun m => { m with sessions := tmod {} m.sessions k f }

theorem State.bump_regsOnly {l : List (Reg × Nat)} {r : Reg} {u : Nat} (s : State) (n : Nat) (h : (r, u) ∈ l) :
    RegsOnly l s (s.bump r u n) := by
  intro r' u' hr
  have hne : ¬ (r' = r ∧ u' = u) := by
    rintro ⟨rfl, rfl⟩
    exact hr h
  rw [State.reg_bump, if_neg hne]

/-! ## Answers of the management port -/

theorem State.mgmtAnswer_eq {s : State} {k : Nat} (h : (s.session k).open_ = true) (cmd : Nat) (tag : BitVec 32) (st : Nat)
    (bs : List Byte) :
    s.mgmtAnswer k cmd tag st bs =
      (s.bump .mgtDenied 0 (if st = 1 then 1 else 0)).onSession k fun x =>
        { x with resp := x.resp ++ [⟨32768 + cmd, tag, st, bs⟩] } := by
  simp [State.mgmtAnswer, h]

/-- On the way from `s` to `u` no session has got a response, no session but `k` has changed, and nothing outside the
management port but its counts of commands. -/
structure Quiet (k : Nat) (s u : State) : Prop where
  open_  : (u.session k).open_ = (s.session k).open_
  resp   : (u.session k).resp = (s.session k).resp
  others : Others State.session [k] s u
  only   : Only [.mgmt, .regs] s u
  counts : CountsOnly s u

theorem Quiet.refl (k : Nat) (s : State) : Quiet k s s :=
  ⟨rfl, rfl, fun _ _ => rfl, fun p _ => by cases p <;> rfl, fun _ _ _ => rfl⟩

theorem Quiet.trans {k : Nat} {s t u : State} (h : Quiet k s t) (h' : Quiet k t u) : Quiet k s u :=
  ⟨h'.open_.trans h.open_, h'.resp.trans h.resp, fun j hj => (h'.others j hj).trans (h.others j hj), h.only.trans h'.only,
    h.counts.trans h'.counts⟩

/-- MGT_CMDS counts. -/
theorem State.bump_mgtCmds_quiet (s : State) (k n : Nat) : Quiet k s (s.bump .mgtCmds 0 n) :=
  ⟨rfl, rfl, fun _ _ => rfl, s.bump_only _ _ _, s.bump_regsOnly _ (by simp)⟩

/-- An upper half is latched. -/
theorem State.latch_quiet (s : State) (k : Nat) (r : Reg) (g v : Nat) :
    Quiet k s (s.onSession k fun x => x.latch r g v) where
  open_ := by simp [Session.latch]
  resp := by simp [Session.latch]
  others j hj := by
    have hne : j ≠ k := by simpa using hj
    simp [hne]
  only := s.onSession_only _ _
  counts _ _ _ := rfl

/-- An answer to an open session after an effect that was quiet: all that it changes. -/
theorem Quiet.answer {m : MgmtArgs} {s u : State} (h : Quiet m.sess.val s u) (hopen : (s.session m.sess.val).open_ = true)
    (r : MgmtRule) (st : Nat) (bs : List Byte) :
    Answers m r.cmd st bs s (u.answer r m st bs) ∧ Only [.mgmt, .regs] s (u.answer r m st bs) ∧
      CountsOnly s (u.answer r m st bs) ∧ ((u.answer r m st bs).session m.sess.val).hi = (u.session m.sess.val).hi := by
  rw [State.answer, State.mgmtAnswer_eq (h.open_.trans hopen)]
  refine ⟨⟨by simp [h.resp], fun j hj => ?_⟩, h.only.trans ((u.bump_only _ _ _).trans (State.onSession_only _ _ _)),
    h.counts.trans (u.bump_regsOnly _ (by simp)), by simp⟩
  have hne : j ≠ m.sess.val := by simpa using hj
  simpa [hne] using h.others j hj

/-- A command that passes the shared checks is counted and has its effect (R418, R419). -/
theorem State.runMgmt_of_admits {r : MgmtRule} {m : MgmtArgs} {s : State} (h : Admits r m s) (f : State → State) :
    s.runMgmt r m f = .next (f (s.bump .mgtCmds 0 1)) := by
  obtain ⟨hopen, hgate⟩ := h
  simp [State.runMgmt, State.when, hopen, hgate]

/-! ## The register map -/

/-- The first byte offset after a row of registers. -/
def rowEnd : Nat → List RegSlot → Nat
  | at_, [] => at_
  | at_, .word _ :: rest => rowEnd (at_ + 4) rest
  | at_, .pair _ :: rest => rowEnd (at_ + 8) rest

theorem le_rowEnd (at_ : Nat) (l : List RegSlot) : at_ ≤ rowEnd at_ l := by
  fun_induction rowEnd at_ l <;> omega

/-- A word that a row gives lies within it. -/
theorem rowWord_bounds {off at_ : Nat} {l : List RegSlot} {x : RegWord} (h : rowWord off at_ l = some x) :
    at_ ≤ off ∧ off < rowEnd at_ l := by
  fun_induction rowWord off at_ l with
  | case1 => simp at h
  | case2 r rest =>
    have := le_rowEnd (off + 4) rest
    simp only [rowEnd]
    omega
  | case3 at_ r rest _ ih =>
    obtain ⟨hlo, hhi⟩ := ih h
    simp only [rowEnd]
    omega
  | case4 r rest =>
    have := le_rowEnd (off + 8) rest
    simp only [rowEnd]
    omega
  | case5 at_ r rest =>
    have := le_rowEnd (at_ + 8) rest
    simp only [rowEnd]
    omega
  | case6 at_ r rest _ _ ih =>
    obtain ⟨hlo, hhi⟩ := ih h
    simp only [rowEnd]
    omega

/-- In a row the upper word of a pair stands 4 bytes above the lower one (R9). -/
theorem rowWord_hi_of_lo {off at_ : Nat} {l : List RegSlot} {r : Reg} (h : rowWord off at_ l = some (.lo r)) :
    rowWord (off + 4) at_ l = some (.hi r) := by
  fun_induction rowWord off at_ l with
  | case1 | case2 | case5 => simp at h
  | case3 at_ r' rest _ ih =>
    have := (rowWord_bounds h).1
    rw [rowWord, if_neg (by omega), ih h]
  | case4 r' rest =>
    obtain rfl : r' = r := by simpa using h
    simp [rowWord]
  | case6 at_ r' rest _ _ ih =>
    have := (rowWord_bounds h).1
    rw [rowWord, if_neg (by omega), if_neg (by omega), ih h]

/-- The rows of a block follow each other without overlap. -/
theorem blockRows_apart (b : Block) : (blockRows b).Pairwise fun x y => rowEnd x.1 x.2 ≤ y.1 := by
  cases b <;> decide

theorem rowEnd_le_of_mem_blockRows (b : Block) : ∀ x ∈ blockRows b, rowEnd x.1 x.2 ≤ 65536 := by
  cases b <;> decide

theorem findSome?_rowWord_hi_of_lo {off : Nat} {r : Reg} {rows : List (Nat × List RegSlot)}
    (hrows : rows.Pairwise fun x y => rowEnd x.1 x.2 ≤ y.1)
    (h : rows.findSome? (fun x => rowWord off x.1 x.2) = some (.lo r)) :
    rows.findSome? (fun x => rowWord (off + 4) x.1 x.2) = some (.hi r) := by
  induction rows with
  | nil => simp at h
  | cons x rest ih =>
    obtain ⟨hx, hrest⟩ := List.pairwise_cons.1 hrows
    cases hw : rowWord off x.1 x.2 with
    | some y =>
      obtain rfl : y = .lo r := by simpa [hw] using h
      simp [rowWord_hi_of_lo hw]
    | none =>
      have h' : rest.findSome? (fun x => rowWord off x.1 x.2) = some (.lo r) := by simpa [hw] using h
      obtain ⟨y, hy, hlo⟩ := List.exists_of_findSome?_eq_some h'
      have hnone : rowWord (off + 4) x.1 x.2 = none := by
        refine Option.eq_none_iff_forall_ne_some.2 fun z hz => ?_
        have := (rowWord_bounds hz).2
        have := (rowWord_bounds hlo).1
        have := hx y hy
        omega
      simpa [hnone] using ih hrest h'

/-- In every block the upper word of a pair stands 4 bytes above the lower one (R9). -/
theorem blockWord_hi_of_lo {b : Block} {off : Nat} {r : Reg} (h : blockWord b off = some (.lo r)) :
    blockWord b (off + 4) = some (.hi r) := findSome?_rowWord_hi_of_lo (blockRows_apart b) h

/-- The registers of a block lie in its window of 64 KiB (R473). -/
theorem lt_of_blockWord {b : Block} {off : Nat} {x : RegWord} (h : blockWord b off = some x) : off < 65536 := by
  obtain ⟨y, hy, hw⟩ := List.exists_of_findSome?_eq_some h
  have := (rowWord_bounds hw).2
  have := rowEnd_le_of_mem_blockRows b y hy
  omega

/-! ## Reading a pair -/

/-- A latched upper half is what was latched last. -/
theorem Session.latched_latch (x : Session) (r : Reg) (g v : Nat) : (x.latch r g v).latched r g = v := by
  have hfind : (x.hi.filter fun e => e.1 != (r, g)).find? (fun e => e.1 == (r, g)) = none := by simp
  simp [Session.latch, Session.latched, hfind]

theorem State.readWord_lo {s : State} {k addr : Nat} {b : Block} {g : Nat} {r : Reg}
    (hb : blockAt (addr / 65536) = some (b, g))
    (hw : blockWord b (addr % 65536) = some (.lo r)) :
    s.readWord k addr = (s.readValue (s.session k) b g r % 2 ^ 32,
      s.onSession k fun y => y.latch r g (s.readValue (s.session k) b g r / 2 ^ 32 % 2 ^ 32)) := by
  simp [State.readWord, hb, hw]

theorem State.readWord_hi {s : State} {k addr : Nat} {b : Block} {g : Nat} {r : Reg}
    (hb : blockAt (addr / 65536) = some (b, g))
    (hw : blockWord b (addr % 65536) = some (.hi r)) : s.readWord k addr = ((s.session k).latched r g, s) := by
  simp [State.readWord, hb, hw]

/-- A read of a word changes nothing but an upper half that its session has latched. -/
theorem State.readWord_quiet (s : State) (k addr : Nat) : Quiet k s (s.readWord k addr).2 := by
  unfold State.readWord
  split
  · exact .refl k s
  · split
    case h_3 => exact s.latch_quiet ..
    all_goals exact .refl k s

/-- CSR_READ of one word (R475): it answers the word, and the session's latched halves are as the read leaves them. -/
theorem exec_csrRead_one {m : MgmtArgs} {s : State} (ha : Admits ⟨0x10, 0, .device, false⟩ m s)
    (hbad : m.csrBad 8 = false) (hcount : m.count = 1) {word : Nat} {u : State}
    (hread : (s.bump .mgtCmds 0 1).readWord m.sess.val m.addr = (word, u)) :
    ∃ t, exec (.csrRead m) s = .next t ∧ Answers m 0x10 0 (leBytes word 4) s t ∧ Only [.mgmt, .regs] s t ∧ CountsOnly s t ∧
      (t.session m.sess.val).hi = (u.session m.sess.val).hi := by
  have hexec : exec (.csrRead m) s = .next (u.answer ⟨0x10, 0, .device, false⟩ m 0 (leBytes word 4)) := by
    show execCsrRead m s = _
    unfold execCsrRead
    rw [roleObserver, State.runMgmt_of_admits ha]
    simp [hbad, hcount, State.readWords, hread, stOk]
  have hquiet := (s.bump_mgtCmds_quiet m.sess.val 1).trans (State.readWord_quiet _ _ m.addr)
  rw [hread] at hquiet
  exact ⟨_, hexec, hquiet.answer ha.1 ..⟩

/-- The upper half that the last read of a lower word has latched is what later reads of the upper word give (R9). -/
theorem Session.latched_of_hi_eq {x y : Session} {r : Reg} {g v : Nat} (h : x.hi = (y.latch r g v).hi) :
    x.latched r g = v := by
  rw [← y.latched_latch r g v]
  simp [Session.latched, h]

/-- Settles O54: the upper word of a pair stands 4 bytes above the lower one, a read of the lower word latches the upper half
of the value it answered, and a read of the upper word answers the latched half. -/
theorem registerPairsReadConsistently : Obligations.RegisterPairsReadConsistently := by
  intro m s b g r v ha hbad hcount hblock hword hv
  have hhi := blockWord_hi_of_lo hword
  obtain ⟨t, hexec, hans, honly, hcnt, hlatch⟩ := exec_csrRead_one ha hbad hcount (State.readWord_lo hblock hword)
  refine ⟨hhi, t, hexec, by simpa [hv] using hans, honly, hcnt, fun n s' hsess haddr hcount' hbad' ha' hsame => ?_⟩
  have hlt := lt_of_blockWord hhi
  have hblock' : blockAt (n.addr / 65536) = some (b, g) := by
    rw [haddr, show (m.addr + 4) / 65536 = m.addr / 65536 by omega, hblock]
  have hword' : blockWord b (n.addr % 65536) = some (.hi r) := by
    rw [haddr, show (m.addr + 4) % 65536 = m.addr % 65536 + 4 by omega, hhi]
  obtain ⟨t', hexec', hans', -⟩ := exec_csrRead_one ha' hbad' hcount' (State.readWord_hi hblock' hword')
  have hlatched : (s'.session n.sess.val).latched r g = v / 2 ^ 32 % 2 ^ 32 := by
    rw [hsess]
    refine Session.latched_of_hi_eq (y := s.session m.sess.val) ?_
    simpa [hv] using hsame.trans hlatch
  exact ⟨t', hexec', by simpa [hlatched] using hans'⟩

end Sys2Proof.Machine

namespace Sys2Proof.Machine

/-! # Every well-formed command has a next state (O6)

A meaning is a tree of conditions and matches whose leaves are next states. `IsNext` has a rule for each form; a row's lemma
follows the branches of its meaning. -/

/-! ## Outcomes that are a next state -/

/-- The command has a meaning here: the outcome is a next state. -/
def IsNext (o : Host.Outcome State Fault Refusal) : Prop := ∃ t, o = .next t

theorem IsNext.next (t : State) : IsNext (.next t) := ⟨t, rfl⟩

theorem IsNext.ite {c : Prop} [Decidable c] {x y : Host.Outcome State Fault Refusal} (hx : IsNext x) (hy : IsNext y) :
    IsNext (if c then x else y) := by
  split
  · exact hx
  · exact hy

theorem IsNext.when (s : State) (ready : Bool) (t : State) : IsNext (s.when ready t) := .ite (.next t) (.next s)

/-! ## The forms that the meanings of several rows share -/

theorem IsNext.takeMsg (s : State) (c type : Nat) (f : State → Nat → Msg → State) :
    IsNext (s.takeMsg c type f) := by
  unfold State.takeMsg
  split
  · exact .ite (.next _) (.next _)
  · exact .next _

theorem IsNext.takeCtrl (s : State) (c type : Nat) (f : State → Nat → Msg → State) :
    IsNext (s.takeCtrl c type f) := by
  unfold State.takeCtrl
  split <;> exact .next _

theorem IsNext.handle (s : State) (type : Nat) (ok : Packet → Bool) (f : Packet → State → State) :
    IsNext (s.handle type ok f) := by
  unfold State.handle
  split <;> exact .next _

theorem IsNext.luteWith (s : State) (type : Nat) (f : State → Nat → List Byte → State) :
    IsNext (s.luteWith type f) := by
  unfold State.luteWith
  split
  · exact .next _
  · exact .ite (.next _) (.ite (.next _) (.next _))

theorem IsNext.lmTake (s : State) (type : Nat) (ok : State → Nat → List Byte → Bool)
    (f : State → Nat → List Byte → State) : IsNext (s.lmTake type ok f) := .luteWith ..

/-! ## The meanings that branch -/

theorem execSignalUnblock_isNext (t : TallyId) (s : State) : IsNext (execSignalUnblock t s) := by
  unfold execSignalUnblock
  split <;> exact .next _

theorem execWait_isNext (t : TallyId) (target : BitVec 48) (consume : Bool) (agent : BitVec 13) (by_ : BitVec 4)
    (s : State) :
    IsNext (execWait t target consume agent by_ s) :=
  .ite (.next _) (.ite (.next _) (.ite (.next _) (.next _)))

theorem execEntryTake_isNext (g : SaggerIx) (s : State) : IsNext (execEntryTake g s) := by
  unfold execEntryTake
  refine .ite (.next _) (.ite (.next _) ?_)
  split <;> exact .next _

theorem execFencePass_isNext (g : SaggerIx) (s : State) : IsNext (execFencePass g s) :=
  .ite (.next _) (.ite (.next _) (.ite (.next _) (.ite (.next _) (.next _))))

theorem execTileFillDone_isNext (w : WheelIx) (b : BufIx) (s : State) : IsNext (execTileFillDone w b s) := by
  unfold execTileFillDone
  refine .ite (.next _) (.ite (.next _) ?_)
  split
  · exact .next _
  · split <;> exact .next _

theorem execLaneTakeJob_isNext (w : WheelIx) (lane : LaneIx) (s : State) : IsNext (execLaneTakeJob w lane s) := by
  unfold execLaneTakeJob
  extract_lets
  split
  · exact .next _
  · exact .when ..

theorem execJobEnd_isNext (w : WheelIx) (lane : LaneIx) (s : State) : IsNext (execJobEnd w lane s) := by
  unfold execJobEnd
  extract_lets
  split
  · exact .next _
  · exact .when ..

theorem execSuspend_isNext (w : WheelIx) (saveAddr : BitVec 32) (s : State) : IsNext (execSuspend w saveAddr s) :=
  .ite (.next _) (.ite (.next _) (.next _))

theorem execSuspendDone_isNext (w : WheelIx) (s : State) : IsNext (execSuspendDone w s) := by
  unfold execSuspendDone
  split
  · exact .next _
  · exact .when ..

theorem execResume_isNext (w : WheelIx) (s : State) : IsNext (execResume w s) :=
  .ite (.next _) (.next _)

theorem execRestoreContext_isNext (w : WheelIx) (s : State) : IsNext (execRestoreContext w s) := by
  unfold execRestoreContext
  extract_lets
  split
  · exact .next _
  · exact .when ..

theorem execTableRebuild_isNext (l : ShelfIx) (s : State) : IsNext (execTableRebuild l s) := by
  unfold execTableRebuild
  split <;> exact .next _

theorem execPageDescriptor_isNext (l : ShelfIx) (ecc : Ecc) (off : BitVec 17) (s : State) :
    IsNext (execPageDescriptor l ecc off s) := by
  unfold execPageDescriptor
  extract_lets
  split <;> exact .next _

theorem execQueryTileClose_isNext (l : ShelfIx) (s : State) : IsNext (execQueryTileClose l s) := by
  unfold execQueryTileClose
  split <;> exact .next _

theorem execNorm_isNext (l : ShelfIx) (s : State) : IsNext (execNorm l s) := by
  unfold execNorm
  split <;> exact .next _

theorem execProd_isNext (l : ShelfIx) (s : State) : IsNext (execProd l s) := by
  unfold execProd
  split <;> exact .next _

theorem execGlu_isNext (l : ShelfIx) (s : State) : IsNext (execGlu l s) := by
  unfold execGlu
  split <;> exact .next _

theorem execOuter_isNext (l : ShelfIx) (s : State) : IsNext (execOuter l s) := by
  unfold execOuter
  split <;> exact .next _

theorem execKvStoreWrite_isNext (g : SaggerIx) (slot : BitVec 16) (row : BitVec 16) (layer : BitVec 8)
    (kAddr vAddr : BitVec 32) (s : State) :
    IsNext (execKvStoreWrite g slot row layer kAddr vAddr s) := by
  unfold execKvStoreWrite
  split
  · exact .next _
  · refine .ite (.next _) (.ite (.next _) ?_)
    split <;> exact .next _

theorem execWalkOpenTile_isNext (g : SaggerIx) (qAddr outAddr : BitVec 32) (s : State) :
    IsNext (execWalkOpenTile g qAddr outAddr s) := by
  unfold execWalkOpenTile
  extract_lets
  split
  · exact .ite (.next _) (.ite (.ite (.next _) (.next _)) (.ite (.next _) (.ite (.next _) (.when ..))))
  · exact .next _

theorem execSlotCopy_isNext (g : SaggerIx) (s : State) : IsNext (execSlotCopy g s) := by
  unfold execSlotCopy
  split
  · exact .next _
  · split <;> exact .next _

theorem execCompactCopy_isNext (g : SaggerIx) (s : State) : IsNext (execCompactCopy g s) := by
  unfold execCompactCopy
  split
  · split <;> exact .next _
  · exact .next _

theorem execSubmit_isNext (ch : ChanIx) (s : State) : IsNext (execSubmit ch s) := by
  unfold execSubmit
  exact .takeMsg ..

theorem execCancel_isNext (ch : ChanIx) (s : State) : IsNext (execCancel ch s) := by
  unfold execCancel
  exact .takeMsg ..

theorem execBudgetMessage_isNext (ch : ChanIx) (s : State) : IsNext (execBudgetMessage ch s) := by
  unfold execBudgetMessage
  exact .takeMsg ..

theorem execSsuStream_isNext (d : DieIx) (s : State) : IsNext (execSsuStream d s) := by
  unfold execSsuStream
  split <;> exact .next _

theorem execSsuKeyComplete_isNext (d : DieIx) (s : State) : IsNext (execSsuKeyComplete d s) := by
  unfold execSsuKeyComplete
  split
  · exact .next _
  · exact .when ..

theorem execSsuApply_isNext (d : DieIx) (g : SaggerIx) (s : State) : IsNext (execSsuApply d g s) := by
  unfold execSsuApply
  split <;> exact .next _

theorem execStepPlan_isNext (g : SaggerIx) (s : State) : IsNext (execStepPlan g s) :=
  .ite (.next _) (.ite (.next _) (.next _))

theorem execDraftPass_isNext (g : SaggerIx) (slot : BitVec 16) (blocks : List (List (BitVec 32))) (s : State) :
    IsNext (execDraftPass g slot blocks s) := by
  unfold execDraftPass
  split
  · exact .next _
  · refine .ite (.next _) ?_
    split
    · exact .next _
    · exact .ite (.next _) (.next _)

theorem execSampleRow_isNext (g : SaggerIx) (slot : BitVec 16) (node : BitVec 6) (blocks : List (BitVec 32))
    (s : State) :
    IsNext (execSampleRow g slot node blocks s) := by
  unfold execSampleRow
  split
  · exact .next _
  · refine .ite (.next _) ?_
    split <;> exact .next _

theorem execVerifyTree_isNext (g : SaggerIx) (slot : BitVec 16) (s : State) : IsNext (execVerifyTree g slot s) := by
  unfold execVerifyTree
  split
  · exact .next _
  · exact .when ..

theorem execSwapOutPage_isNext (g : SaggerIx) (slot : BitVec 16) (s : State) : IsNext (execSwapOutPage g slot s) := by
  unfold execSwapOutPage
  split
  · exact .next _
  · split <;> exact .next _

theorem execSwapIn_isNext (g : SaggerIx) (slot : BitVec 16) (s : State) : IsNext (execSwapIn g slot s) := by
  unfold execSwapIn
  split
  · exact .next _
  · split
    · exact .next _
    · exact .ite (.next _) (.ite (.next _) (.next _))

theorem execLoad_isNext (g : SaggerIx) (rec : BitVec 256) (s : State) : IsNext (execLoad g rec s) :=
  .ite (.next _) (.when ..)

theorem execLoadLand_isNext (d : DieIx) (num : BitVec 16) (ecc : Ecc) (off : BitVec 22) (s : State) :
    IsNext (execLoadLand d num ecc off s) := by
  unfold execLoadLand
  split
  · exact .next _
  · split
    · exact .next _
    · exact .when ..

theorem execFrameScrub_isNext (st : StackIx) (ok : Bool) (s : State) : IsNext (execFrameScrub st ok s) := by
  unfold execFrameScrub
  split
  · exact .next _
  · exact .ite (.next _) (.next _)

theorem execStoreRead_isNext (ns : BitVec 4) (page fails : Nat) (stripeFails : Bool) (s : State) :
    IsNext (execStoreRead ns page fails stripeFails s) :=
  .ite (.next _) (.ite (.next _) (.next _))

theorem execChunkReload_isNext (addr : BitVec 41) (s : State) : IsNext (execChunkReload addr s) := by
  unfold execChunkReload
  extract_lets
  split
  · extract_lets
    split
    · exact .next _
    · exact .ite (.next _) (.next _)
  · exact .next _

theorem execReloadSourceTimeout_isNext (addr : BitVec 41) (s : State) : IsNext (execReloadSourceTimeout addr s) := by
  unfold execReloadSourceTimeout
  split
  · exact .when ..
  · exact .next _

theorem execStreamHeaderCheck_isNext (sid : Nat) (s : State) : IsNext (execStreamHeaderCheck sid s) := by
  unfold execStreamHeaderCheck
  split
  · exact .next _
  · exact .ite (.next _) (.ite (.ite (.next _) (.next _)) (.ite (.next _) (.next _)))

theorem execBlockExpand_isNext (d : DieIx) (s : State) : IsNext (execBlockExpand d s) := by
  unfold execBlockExpand
  split
  · exact .next _
  · split
    · exact .next _
    · split
      · exact .next _
      · refine .ite (.next _) ?_
        split <;> exact .next _

theorem execRefetchTimeout_isNext (sid : Nat) (block : BitVec 17) (s : State) :
    IsNext (execRefetchTimeout sid block s) := by
  unfold execRefetchTimeout
  split
  · exact .next _
  · exact .when ..

theorem execBlockCompress_isNext (d : DieIx) (s : State) : IsNext (execBlockCompress d s) := by
  unfold execBlockCompress
  split
  · exact .next _
  · split
    · exact .next _
    · exact .ite (.next _) (.next _)

theorem execStreamHdr_isNext (mig : Option Migrant) (s : State) : IsNext (execStreamHdr mig s) := by
  unfold execStreamHdr
  exact .handle ..

theorem execStreamBlk_isNext (s : State) : IsNext (execStreamBlk s) := by
  unfold execStreamBlk
  exact .handle ..

theorem execBlkReq_isNext (s : State) : IsNext (execBlkReq s) := by
  unfold execBlkReq
  exact .handle ..

theorem execStreamReq_isNext (s : State) : IsNext (execStreamReq s) := by
  unfold execStreamReq
  exact .handle ..

theorem execChunkReq_isNext (s : State) : IsNext (execChunkReq s) := by
  unfold execChunkReq
  exact .handle ..

theorem execStreamEnd_isNext (s : State) : IsNext (execStreamEnd s) := by
  unfold execStreamEnd
  exact .handle ..

theorem execUnreachable_isNext (s : State) : IsNext (execUnreachable s) := by
  unfold execUnreachable
  exact .handle ..

theorem execLoss_isNext (s : State) : IsNext (execLoss s) := by
  unfold execLoss
  exact .handle ..

theorem execRestore_isNext (s : State) : IsNext (execRestore s) := by
  unfold execRestore
  exact .handle ..

theorem execApexLossWindow_isNext (coord : BitVec 11) (s : State) : IsNext (execApexLossWindow coord s) :=
  .ite (.next _) (.ite (.ite (.next _) (.ite (.next _) (.next _))) (.next _))

theorem execSliceJoin_isNext (s : State) : IsNext (execSliceJoin s) := by
  unfold execSliceJoin
  exact .handle ..

theorem execSliceAck_isNext (s : State) : IsNext (execSliceAck s) := by
  unfold execSliceAck
  exact .handle ..

theorem execSliceFormTimeout_isNext (slice : BitVec 16) (s : State) : IsNext (execSliceFormTimeout slice s) := by
  unfold execSliceFormTimeout
  split
  · exact .next _
  · exact .when ..

theorem execSliceMark_isNext (s : State) : IsNext (execSliceMark s) := by
  unfold execSliceMark
  exact .handle ..

theorem execSliceStop_isNext (s : State) : IsNext (execSliceStop s) := by
  unfold execSliceStop
  exact .handle ..

theorem execSliceLeave_isNext (s : State) : IsNext (execSliceLeave s) := by
  unfold execSliceLeave
  exact .handle ..

theorem execTrainingRecord_isNext (p : PortIx) (rec : BitVec 256) (locked : BitVec 12) (s : State) :
    IsNext (execTrainingRecord p rec locked s) := by
  unfold execTrainingRecord
  refine .ite (.next _) (.ite (.next _) (.ite (.next _) ?_))
  split <;> exact .next _

theorem execPacketRoute_isNext (p : PortIx) (vc : Fin 9) (s : State) : IsNext (execPacketRoute p vc s) :=
  .ite (.next _) (.ite (.next _) (.ite (.next _) (.ite (.next _) (.next _))))

theorem execTsyncEdge_isNext (s : State) : IsNext (execTsyncEdge s) :=
  .ite (.next _) (.ite (.next _) (.next _))

theorem execRouteRow_isNext (g : SaggerIx) (row score : BitVec 32) (blocks shOut : List (BitVec 32)) (s : State) :
    IsNext (execRouteRow g row score blocks shOut s) := by
  unfold execRouteRow
  extract_lets
  split
  · exact .ite (.next _) (.ite (.next _) (.ite (.next _) (.ite (.next _) (.next _))))
  · exact .next _

theorem execLayerClose_isNext (g : SaggerIx) (s : State) : IsNext (execLayerClose g s) := by
  unfold execLayerClose
  extract_lets
  split
  · exact .next _
  · exact .ite (.next _) (.next _)

theorem execCloseGluEmit_isNext (g : SaggerIx) (s : State) : IsNext (execCloseGluEmit g s) := by
  unfold execCloseGluEmit
  extract_lets
  split
  · exact .next _
  · exact .ite (.next _) (.ite (.next _) (.ite (.next _) (.ite (.next _) (.next _))))

theorem execArenaResume_isNext (g : SaggerIx) (s : State) : IsNext (execArenaResume g s) := by
  unfold execArenaResume
  extract_lets
  split
  · exact .when ..
  · exact .next _

theorem execMixRun_isNext (g : SaggerIx) (outs : List (List (BitVec 32))) (s : State) :
    IsNext (execMixRun g outs s) := by
  unfold execMixRun
  extract_lets
  split
  · exact .next _
  · exact .ite (.next _) (.ite (.next _) (.ite (.next _) (.next _)))

theorem execLuteToken_isNext (s : State) : IsNext (execLuteToken s) := by
  unfold execLuteToken
  exact .luteWith ..

theorem execLuteClose_isNext (s : State) : IsNext (execLuteClose s) := by
  unfold execLuteClose
  exact .luteWith ..

theorem execLuteDone_isNext (writes : List (BitVec 32 × List Byte)) (s : State) : IsNext (execLuteDone writes s) := by
  unfold execLuteDone
  exact .luteWith ..

theorem execLuteEmpty_isNext (s : State) : IsNext (execLuteEmpty s) := by
  unfold execLuteEmpty
  exact .luteWith ..

theorem execLuteWrite_isNext (s : State) : IsNext (execLuteWrite s) := by
  unfold execLuteWrite
  exact .lmTake ..

theorem execLuteRead_isNext (s : State) : IsNext (execLuteRead s) := by
  unfold execLuteRead
  exact .lmTake ..

theorem execLuteAtomic_isNext (s : State) : IsNext (execLuteAtomic s) := by
  unfold execLuteAtomic
  exact .lmTake ..

theorem execLuteReadRsp_isNext (s : State) : IsNext (execLuteReadRsp s) := by
  unfold execLuteReadRsp
  exact .lmTake ..

theorem execLuteAtomicRsp_isNext (s : State) : IsNext (execLuteAtomicRsp s) := by
  unfold execLuteAtomicRsp
  exact .lmTake ..

theorem execLuteTally_isNext (s : State) : IsNext (execLuteTally s) := by
  unfold execLuteTally
  exact .lmTake ..

theorem execLuteMirror_isNext (s : State) : IsNext (execLuteMirror s) := by
  unfold execLuteMirror
  exact .lmTake ..

theorem execFaultLogEnter_isNext (s : State) : IsNext (execFaultLogEnter s) := by
  unfold execFaultLogEnter
  split <;> exact .next _

theorem execAttestSnapshot_isNext (s : State) : IsNext (execAttestSnapshot s) := by
  unfold execAttestSnapshot
  split <;> exact .next _

theorem execShomuTrainingRecord_isNext (k : LinkIx) (rec : BitVec 256) (s : State) :
    IsNext (execShomuTrainingRecord k rec s) := by
  unfold execShomuTrainingRecord
  refine .ite (.next _) ?_
  split <;> exact .next _

theorem execFrameReceive_isNext (k : LinkIx) (s : State) : IsNext (execFrameReceive k s) :=
  .ite (.next _) (.ite (.next _) (.ite (.next _) (.ite (.next _) (.ite (.next _) (.ite (.next _) (.next _))))))

theorem execStatusReq_isNext (ch : ChanIx) (s : State) : IsNext (execStatusReq ch s) := by
  unfold execStatusReq
  exact .takeCtrl ..

theorem execAttestReq_isNext (ch : ChanIx) (s : State) : IsNext (execAttestReq ch s) := by
  unfold execAttestReq
  exact .takeCtrl ..

theorem execKeyOffer_isNext (ch : ChanIx) (s : State) : IsNext (execKeyOffer ch s) :=
  .ite (.next _) (.takeCtrl ..)

theorem execSwapWr_isNext (ch : ChanIx) (s : State) : IsNext (execSwapWr ch s) := by
  unfold execSwapWr
  split
  · exact .next _
  · exact .when ..

theorem execSwapRd_isNext (ch : ChanIx) (s : State) : IsNext (execSwapRd ch s) := by
  unfold execSwapRd
  split
  · exact .next _
  · exact .when ..

theorem execSwapAck_isNext (ch : ChanIx) (s : State) : IsNext (execSwapAck ch s) := by
  unfold execSwapAck
  exact .takeCtrl ..

theorem execSwapErr_isNext (ch : ChanIx) (s : State) : IsNext (execSwapErr ch s) := by
  unfold execSwapErr
  exact .takeCtrl ..

theorem execSwapData_isNext (ch : ChanIx) (s : State) : IsNext (execSwapData ch s) :=
  .ite (.next _) (.takeCtrl ..)

theorem execSwapTimeout_isNext (k : LinkIx) (tag : BitVec 32) (s : State) : IsNext (execSwapTimeout k tag s) := by
  unfold execSwapTimeout
  split
  · exact .next _
  · exact .when ..

theorem execKeySlotRetireTimeout_isNext (ch : ChanIx) (s : State) : IsNext (execKeySlotRetireTimeout ch s) := by
  unfold execKeySlotRetireTimeout
  split
  · exact .next _
  · exact .when ..

/-! ## Refusals -/

/-- The outcome is a next state when `wf` holds, and a refusal of an ill-formed command when it does not. -/
def RefusedUnless (wf : Bool) (o : Host.Outcome State Fault Refusal) : Prop :=
  (wf = true → IsNext o) ∧ (wf = false → ∃ m, o = .refused (.illFormed m))

/-- A row all of whose operands are well formed. -/
theorem IsNext.refusedUnless {o : Host.Outcome State Fault Refusal} (h : IsNext o) : RefusedUnless true o :=
  ⟨fun _ => h, nofun⟩

/-- A row that looks at its operands first: the guard `c` is the negation of `wf`. -/
theorem RefusedUnless.guard {wf : Bool} {c : Prop} [Decidable c] {m : String} {o : Host.Outcome State Fault Refusal}
    (hc : c ↔ wf = false) (ho : IsNext o) : RefusedUnless wf (if c then .refused (.illFormed m) else o) := by
  refine ⟨fun hw => ?_, fun hw => ⟨m, if_pos (hc.2 hw)⟩⟩
  rw [if_neg fun h => by simp [hc.1 h] at hw]
  exact ho

/-- The guard of the records that carry an OP: a legal OP is the row's own. -/
theorem ownOp_eq_false_iff (op r : Nat) :
    nbits r 0 4 ≠ op ∧ 1 ≤ nbits r 0 4 ∧ nbits r 0 4 ≤ 4 ↔ ownOp op r = false := by
  simp [nbits, ownOp]
  omega

theorem State.runSop_refusedUnless (s : State) (name : String) (op g r : Nat) (ok : Bool) (t : State) :
    RefusedUnless (ownOp op r) (s.runSop name op g r ok t) :=
  .guard (ownOp_eq_false_iff op r) (.ite (.next _) (.ite (.next _) (.next _)))

theorem State.runAtomic_refusedUnless (s : State) (name : String) (op g r : Nat) :
    RefusedUnless (ownOp op r) (s.runAtomic name op g r) :=
  .guard (ownOp_eq_false_iff op r) (.ite (.next _) (.ite (.next _) (.ite (.next _) (.ite (.next _) (.next _)))))

theorem execSlabRead_refusedUnless (w : WheelIx) (offset : BitVec 22) (len : Nat) (ecc : Ecc) (s : State) :
    RefusedUnless (Instr.slabRead w offset len ecc).wf (execSlabRead w offset len ecc s) := by
  refine .guard ?_ ?_
  · have hsize : slabSize = slabBytes := rfl
    simp [Instr.wf]
    omega
  · extract_lets
    split <;> exact .next _

theorem execSlabWrite_refusedUnless (w : WheelIx) (offset : BitVec 22) (data : List Byte) (s : State) :
    RefusedUnless (Instr.slabWrite w offset data).wf (execSlabWrite w offset data s) := by
  refine .guard ?_ (.next _)
  have hsize : slabSize = slabBytes := rfl
  simp [Instr.wf, Decidable.or_iff_not_imp_left, hsize, List.length_pos_iff]

theorem execNarrowAccess_refusedUnless (g : SaggerIx) (write : Bool) (addr : BitVec 41) (size : Nat) (data : List Byte)
    (ecc : Ecc) (hit : HbmData) (s : State) :
    RefusedUnless (Instr.narrowAccess g write addr size data ecc hit).wf
      (execNarrowAccess g write addr size data ecc hit s) := by
  refine .guard (by cases write <;> simp [Instr.wf]) (.ite (.next _) (.ite (.next _) (.ite (.next _) (.ite ?_ ?_))))
  · exact .ite (.next _) (.next _)
  · split <;> exact .next _

theorem execSignal_refusedUnless (t : TallyId) (n : BitVec 16) (blocking : Bool) (agent : BitVec 13) (by_ : BitVec 4)
    (s : State) :
    RefusedUnless (Instr.signal t n blocking agent by_).wf (execSignal t n blocking agent by_ s) :=
  .guard (by simp [Instr.wf]) (.ite (.next _) (.next _))

theorem execRelease_refusedUnless (t : TallyId) (n : BitVec 16) (agent : BitVec 13) (by_ : BitVec 4) (s : State) :
    RefusedUnless (Instr.release t n agent by_).wf (execRelease t n agent by_ s) :=
  .guard (by simp [Instr.wf]) (.ite (.next _) (.ite (.next _) (.ite (.next _) (.next _))))

theorem execLatticeFlit_refusedUnless (p : PortIx) (seq : BitVec 16) (crcOk : Bool) (vc : Fin 9) (payload : List Byte)
    (ack : Option (BitVec 16)) (grants : List (Fin 9 × Nat)) (s : State) :
    RefusedUnless (Instr.latticeFlit p seq crcOk vc payload ack grants).wf
      (execLatticeFlit p seq crcOk vc payload ack grants s) := by
  refine .guard ?_ (.ite (.next _) (.ite (.next _) (.ite (.next _) (.ite (.next _) (.next _)))))
  simp [Instr.wf]
  omega

theorem execShomuFlit_refusedUnless (k : LinkIx) (bytes : List Byte) (s : State) :
    RefusedUnless (Instr.shomuFlit k bytes).wf (execShomuFlit k bytes s) := by
  refine .guard (by simp [Instr.wf]) (.ite (.next _) (.ite (.next _) ?_))
  extract_lets
  split
  · exact .ite (.next _) (.ite (.next _) (.next _))
  all_goals exact .next _

theorem execCredit_refusedUnless (k : LinkIx) (grants : List (BitVec 64)) (s : State) :
    RefusedUnless (Instr.credit k grants).wf (execCredit k grants s) :=
  .guard (by simp [Instr.wf]) (.when ..)

theorem execBisqueEntry_refusedUnless (reason : BitVec 8) (s : State) :
    RefusedUnless (Instr.bisqueEntry reason).wf (execBisqueEntry reason s) :=
  .guard (by simp [Instr.wf, Decidable.or_iff_not_imp_left]) (.when ..)

/-- exec refuses exactly the ill-formed commands, and gives every other one a next state: the rows that look at their
operands have their own lemmas, and the operands of all others are well formed. -/
theorem exec_refusedUnless (c : Instr) (s : State) : RefusedUnless c.wf (exec c s) := by
  cases c with
  -- rows that look at their operands first
  | slabRead => exact execSlabRead_refusedUnless ..
  | slabWrite => exact execSlabWrite_refusedUnless ..
  | narrowAccess => exact execNarrowAccess_refusedUnless ..
  | signal => exact execSignal_refusedUnless ..
  | release => exact execRelease_refusedUnless ..
  | latticeFlit => exact execLatticeFlit_refusedUnless ..
  | shomuFlit => exact execShomuFlit_refusedUnless ..
  | credit => exact execCredit_refusedUnless ..
  | bisqueEntry => exact execBisqueEntry_refusedUnless ..
  | fill | copy | hload | gather => exact State.runSop_refusedUnless ..
  | addS32 | addS64 | addF32 | addS32Floor => exact State.runAtomic_refusedUnless ..
  -- rows that always act
  | slotCancelWheel | lduTakeItem | lduCancelSlot | hbmPromote | refreshTick | chunkPoison | tallyConfig | read
  | lossRequestEnd | addressRefusalExpire | resetRelease | resetAssert | inputLockout | inputReturn | moduleInsert =>
    exact (IsNext.next _).refusedUnless
  -- rows that branch, or take a message or packet, each by its own lemma
  | entryTake => exact (execEntryTake_isNext ..).refusedUnless
  | fencePass => exact (execFencePass_isNext ..).refusedUnless
  | tileFillDone => exact (execTileFillDone_isNext ..).refusedUnless
  | laneTakeJob => exact (execLaneTakeJob_isNext ..).refusedUnless
  | jobEnd => exact (execJobEnd_isNext ..).refusedUnless
  | suspend => exact (execSuspend_isNext ..).refusedUnless
  | suspendDone => exact (execSuspendDone_isNext ..).refusedUnless
  | resume => exact (execResume_isNext ..).refusedUnless
  | restoreContext => exact (execRestoreContext_isNext ..).refusedUnless
  | pageDescriptor => exact (execPageDescriptor_isNext ..).refusedUnless
  | queryTileClose => exact (execQueryTileClose_isNext ..).refusedUnless
  | tableRebuild => exact (execTableRebuild_isNext ..).refusedUnless
  | norm => exact (execNorm_isNext ..).refusedUnless
  | prod => exact (execProd_isNext ..).refusedUnless
  | glu => exact (execGlu_isNext ..).refusedUnless
  | outer => exact (execOuter_isNext ..).refusedUnless
  | ssuStream => exact (execSsuStream_isNext ..).refusedUnless
  | ssuKeyComplete => exact (execSsuKeyComplete_isNext ..).refusedUnless
  | ssuApply => exact (execSsuApply_isNext ..).refusedUnless
  | kvStoreWrite => exact (execKvStoreWrite_isNext ..).refusedUnless
  | walkOpenTile => exact (execWalkOpenTile_isNext ..).refusedUnless
  | slotCopy => exact (execSlotCopy_isNext ..).refusedUnless
  | compactCopy => exact (execCompactCopy_isNext ..).refusedUnless
  | routeRow => exact (execRouteRow_isNext ..).refusedUnless
  | layerClose => exact (execLayerClose_isNext ..).refusedUnless
  | closeGluEmit => exact (execCloseGluEmit_isNext ..).refusedUnless
  | arenaResume => exact (execArenaResume_isNext ..).refusedUnless
  | mixRun => exact (execMixRun_isNext ..).refusedUnless
  | luteToken => exact (execLuteToken_isNext ..).refusedUnless
  | luteClose => exact (execLuteClose_isNext ..).refusedUnless
  | luteDone => exact (execLuteDone_isNext ..).refusedUnless
  | luteEmpty => exact (execLuteEmpty_isNext ..).refusedUnless
  | submit => exact (execSubmit_isNext ..).refusedUnless
  | cancel => exact (execCancel_isNext ..).refusedUnless
  | budgetMessage => exact (execBudgetMessage_isNext ..).refusedUnless
  | stepPlan => exact (execStepPlan_isNext ..).refusedUnless
  | draftPass => exact (execDraftPass_isNext ..).refusedUnless
  | sampleRow => exact (execSampleRow_isNext ..).refusedUnless
  | verifyTree => exact (execVerifyTree_isNext ..).refusedUnless
  | swapOutPage => exact (execSwapOutPage_isNext ..).refusedUnless
  | swapIn => exact (execSwapIn_isNext ..).refusedUnless
  | load => exact (execLoad_isNext ..).refusedUnless
  | loadLand => exact (execLoadLand_isNext ..).refusedUnless
  | frameScrub => exact (execFrameScrub_isNext ..).refusedUnless
  | storeRead => exact (execStoreRead_isNext ..).refusedUnless
  | chunkReload => exact (execChunkReload_isNext ..).refusedUnless
  | reloadSourceTimeout => exact (execReloadSourceTimeout_isNext ..).refusedUnless
  | streamHeaderCheck => exact (execStreamHeaderCheck_isNext ..).refusedUnless
  | blockExpand => exact (execBlockExpand_isNext ..).refusedUnless
  | refetchTimeout => exact (execRefetchTimeout_isNext ..).refusedUnless
  | blockCompress => exact (execBlockCompress_isNext ..).refusedUnless
  | signalUnblock => exact (execSignalUnblock_isNext ..).refusedUnless
  | wait => exact (execWait_isNext ..).refusedUnless
  | trainingRecord => exact (execTrainingRecord_isNext ..).refusedUnless
  | packetRoute => exact (execPacketRoute_isNext ..).refusedUnless
  | loss => exact (execLoss_isNext ..).refusedUnless
  | restore => exact (execRestore_isNext ..).refusedUnless
  | apexLossWindow => exact (execApexLossWindow_isNext ..).refusedUnless
  | tsyncEdge => exact (execTsyncEdge_isNext ..).refusedUnless
  | sliceJoin => exact (execSliceJoin_isNext ..).refusedUnless
  | sliceAck => exact (execSliceAck_isNext ..).refusedUnless
  | sliceFormTimeout => exact (execSliceFormTimeout_isNext ..).refusedUnless
  | sliceMark => exact (execSliceMark_isNext ..).refusedUnless
  | sliceStop => exact (execSliceStop_isNext ..).refusedUnless
  | sliceLeave => exact (execSliceLeave_isNext ..).refusedUnless
  | streamHdr => exact (execStreamHdr_isNext ..).refusedUnless
  | streamBlk => exact (execStreamBlk_isNext ..).refusedUnless
  | blkReq => exact (execBlkReq_isNext ..).refusedUnless
  | streamReq => exact (execStreamReq_isNext ..).refusedUnless
  | chunkReq => exact (execChunkReq_isNext ..).refusedUnless
  | streamEnd => exact (execStreamEnd_isNext ..).refusedUnless
  | unreachable => exact (execUnreachable_isNext ..).refusedUnless
  | luteWrite => exact (execLuteWrite_isNext ..).refusedUnless
  | luteRead => exact (execLuteRead_isNext ..).refusedUnless
  | luteReadRsp => exact (execLuteReadRsp_isNext ..).refusedUnless
  | luteAtomic => exact (execLuteAtomic_isNext ..).refusedUnless
  | luteAtomicRsp => exact (execLuteAtomicRsp_isNext ..).refusedUnless
  | luteTally => exact (execLuteTally_isNext ..).refusedUnless
  | luteMirror => exact (execLuteMirror_isNext ..).refusedUnless
  | shomuTrainingRecord => exact (execShomuTrainingRecord_isNext ..).refusedUnless
  | frameReceive => exact (execFrameReceive_isNext ..).refusedUnless
  | statusReq => exact (execStatusReq_isNext ..).refusedUnless
  | attestReq => exact (execAttestReq_isNext ..).refusedUnless
  | keyOffer => exact (execKeyOffer_isNext ..).refusedUnless
  | keySlotRetireTimeout => exact (execKeySlotRetireTimeout_isNext ..).refusedUnless
  | swapWr => exact (execSwapWr_isNext ..).refusedUnless
  | swapRd => exact (execSwapRd_isNext ..).refusedUnless
  | swapAck => exact (execSwapAck_isNext ..).refusedUnless
  | swapData => exact (execSwapData_isNext ..).refusedUnless
  | swapErr => exact (execSwapErr_isNext ..).refusedUnless
  | swapTimeout => exact (execSwapTimeout_isNext ..).refusedUnless
  | attestSnapshot => exact (execAttestSnapshot_isNext ..).refusedUnless
  | faultLogEnter => exact (execFaultLogEnter_isNext ..).refusedUnless
  -- rows that wait for their event (log entry 1), or for an open session (R419)
  | _ => exact (IsNext.when ..).refusedUnless

/-- Settles O6: row by row, a well-formed command answers a next state and an ill-formed one is refused. -/
theorem illFormedCommandsAreRefused : Obligations.IllFormedCommandsAreRefused :=
  ⟨fun c s => (exec_refusedUnless c s).1, fun c s => (exec_refusedUnless c s).2⟩

end Sys2Proof.Machine

namespace Sys2Proof.Machine

/-! # What the work of the saggers leaves unchanged

A sagger that goes DOWN runs the whole fire point, and one that is built opens tallies and channels.  `State.rest` is the state
without the parts that such work may change; each function below keeps it. -/

/-- The state without the parts that running, stopping and building saggers may change: the engines, their memories, queues
and registers, the links' traffic and the fault log.  What is left are the commands, power, boot, health area, fuses, plan,
timebase, tallies, store, flash, Shomu links and cones. -/
def State.rest (s : State) : State :=
  { s with
    regs := [], freeCtr := 0, mem := { s.mem with hbm := [], slab := [], valid := [], ware := [] }, flog := {}, saggers := []
    wheels := [], wares := [], ldus := [], ssus := [], hbmStacks := [], glazes := [], ports := [], lat := {}, lute := {}
    chans := [], swaps := [], mgmt := {} }

/-! ## Combinators -/

/-- A fold whose steps keep what `π` reads keeps it. -/
theorem foldl_proj {σ α β : Type} {π : σ → β} {f : σ → α → σ} (hf : ∀ s a, π (f s a) = π s) (l : List α) (s : σ) :
    π (l.foldl f s) = π s := by
  induction l generalizing s with
  | nil => rfl
  | cons a l ih => exact (ih (f s a)).trans (hf s a)

theorem State.rest_foldl {α : Type} {f : State → α → State} (hf : ∀ s a, (f s a).rest = s.rest) (l : List α) (s : State) :
    (l.foldl f s).rest = s.rest := foldl_proj hf l s

theorem State.rest_ite {c : Prop} [Decidable c] {s t u : State} (ht : t.rest = s.rest) (hu : u.rest = s.rest) :
    (if c then t else u).rest = s.rest := by
  split
  · exact ht
  · exact hu

/-! ## Updates of one part

Each holds by computation. `(rfl)` keeps these rules rewrite rules with a proof of their own, where plain `rfl` would have the
kernel compare whole states after every use. -/

section
variable (s : State)

@[simp] theorem State.rest_onSagger (g : Nat) (f : Sagger → Sagger) : (s.onSagger g f).rest = s.rest := (rfl)
@[simp] theorem State.rest_onWheel (w : Nat) (f : Wheel → Wheel) : (s.onWheel w f).rest = s.rest := (rfl)
@[simp] theorem State.rest_onWare (d : Nat) (f : Ware → Ware) : (s.onWare d f).rest = s.rest := (rfl)
@[simp] theorem State.rest_onLdu (l : Nat) (f : Ldu → Ldu) : (s.onLdu l f).rest = s.rest := (rfl)
@[simp] theorem State.rest_onSsu (d : Nat) (f : Ssu → Ssu) : (s.onSsu d f).rest = s.rest := (rfl)
@[simp] theorem State.rest_onStack (k : Nat) (f : Stack → Stack) : (s.onStack k f).rest = s.rest := (rfl)
@[simp] theorem State.rest_onGlaze (d : Nat) (f : Glaze → Glaze) : (s.onGlaze d f).rest = s.rest := (rfl)
@[simp] theorem State.rest_onPort (p : Nat) (f : Port → Port) : (s.onPort p f).rest = s.rest := (rfl)
@[simp] theorem State.rest_onChan (c : Nat) (f : Chan → Chan) : (s.onChan c f).rest = s.rest := (rfl)
@[simp] theorem State.rest_onFlog (f : FaultLog → FaultLog) : (s.onFlog f).rest = s.rest := (rfl)
@[simp] theorem State.rest_onLat (f : Lattice → Lattice) : (s.onLat f).rest = s.rest := (rfl)
@[simp] theorem State.rest_onLute (f : Lute → Lute) : (s.onLute f).rest = s.rest := (rfl)
@[simp] theorem State.rest_setReg (r : Reg) (u v : Nat) : (s.setReg r u v).rest = s.rest := (rfl)
@[simp] theorem State.rest_bump (r : Reg) (u n : Nat) : (s.bump r u n).rest = s.rest := (rfl)
@[simp] theorem State.rest_putHbm (a : Nat) (bs : List Byte) : (s.putHbm a bs).rest = s.rest := (rfl)
@[simp] theorem State.rest_putHbmNum (a n v : Nat) : (s.putHbmNum a n v).rest = s.rest := (rfl)
@[simp] theorem State.rest_zeroHbm (a n : Nat) : (s.zeroHbm a n).rest = s.rest := (rfl)
@[simp] theorem State.rest_putSlab (a : Nat) (bs : List Byte) : (s.putSlab a bs).rest = s.rest := (rfl)
@[simp] theorem State.rest_putSeq (g slot off lo w v : Nat) : (s.putSeq g slot off lo w v).rest = s.rest := (rfl)
@[simp] theorem State.rest_putPte (g slot layer page : Nat) (e : Pte) : (s.putPte g slot layer page e).rest = s.rest := (rfl)
@[simp] theorem State.rest_putNode (g n off lo w v : Nat) : (s.putNode g n off lo w v).rest = s.rest := (rfl)
@[simp] theorem State.rest_setFrame (g f : Nat) (st : FrameState) : (s.setFrame g f st).rest = s.rest := (rfl)
@[simp] theorem State.rest_onReq (g : Nat) (q : Req) (f : Req → Req) : (s.onReq g q f).rest = s.rest := (rfl)
@[simp] theorem State.rest_onUnit (d u : Nat) (f : WareUnit → WareUnit) : (s.onUnit d u f).rest = s.rest := (rfl)
@[simp] theorem State.rest_onRouter (g : Nat) (f : Router → Router) : (s.onRouter g f).rest = s.rest := (rfl)
@[simp] theorem State.rest_onLoading (l : Loading) (f : Loading → Loading) : (s.onLoading l f).rest = s.rest := (rfl)
theorem State.rest_swaps (l : List SwapReq) : ({ s with swaps := l } : State).rest = s.rest := (rfl)

/-! ## Fault records and messages -/

@[simp] theorem State.rest_contain (r : FaultRec) : (s.contain r).rest = s.rest := by
  unfold State.contain State.startReset
  split
  · exact State.rest_ite rfl rfl
  · rfl
  · rfl

@[simp] theorem State.rest_raise (r : FaultRec) : (s.raise r).rest = s.rest := by simp [State.raise]

@[simp] theorem State.rest_fault (cls block detail g unit sub : Nat) : (s.fault cls block detail g unit sub).rest = s.rest :=
  s.rest_raise _

@[simp] theorem State.rest_sendMsg (c type : Nat) (tag : BitVec 32) (payload : List Byte) :
    (s.sendMsg c type tag payload).rest = s.rest := (rfl)

@[simp] theorem State.rest_countDone (g reason : Nat) : (s.countDone g reason).rest = s.rest := by
  unfold State.countDone
  split <;> rfl

@[simp] theorem State.rest_sendDone (g c : Nat) (tag : BitVec 32) (d : DoneInfo) : (s.sendDone g c tag d).rest = s.rest := by
  simp [State.sendDone]

@[simp] theorem State.rest_doneReq (g : Nat) (q : Req) (tag : BitVec 32) (reason : Nat) (fault : BitVec 16) :
    (s.doneReq g q tag reason fault).rest = s.rest := State.rest_ite rfl (s.rest_sendDone ..)

@[simp] theorem State.rest_mgmtAnswer (sess cmd : Nat) (tag : BitVec 32) (status : Nat) (payload : List Byte) :
    (s.mgmtAnswer sess cmd tag status payload).rest = s.rest := State.rest_ite rfl rfl

/-! ## Packets, streams and migrations -/

@[simp] theorem State.rest_forward (input : Option Nat) (p : Packet) : (s.forward input p).rest = s.rest := by
  refine State.rest_ite rfl ?_
  split <;> rfl

@[simp] theorem State.rest_sendPacket (p : Packet) : (s.sendPacket p).rest = s.rest :=
  State.rest_ite ((State.rest_forward ..).trans (s.rest_forward ..)) (s.rest_forward ..)

@[simp] theorem State.rest_newSid : s.newSid.2.rest = s.rest := (rfl)
@[simp] theorem State.rest_startOut (o : OutStream) : (s.startOut o).rest = s.rest := by simp [State.startOut]
@[simp] theorem State.rest_moveOut (m : Migration) (q : Req) (key page frame : Nat) :
    (s.moveOut m q key page frame).rest = s.rest := by simp [State.moveOut]
@[simp] theorem State.rest_pageOut (g : Nat) (q : Req) (key page frame : Nat) : (s.pageOut g q key page frame).rest = s.rest := by
  simp [State.pageOut]
@[simp] theorem State.rest_dropMove (m : Migration) (status : Nat) : (s.dropMove m status).rest = s.rest := by
  simp [State.dropMove]

@[simp] theorem State.rest_startMoves (g : Nat) : (s.startMoves g).rest = s.rest := by
  refine State.rest_foldl (fun s m => ?_) ..
  split
  · exact s.rest_dropMove ..
  · exact State.rest_ite rfl (State.rest_ite (s.rest_dropMove ..) (State.rest_foldl (fun s _ => s.rest_moveOut ..) ..))

/-! ## Frames and nodes of the tree -/

@[simp] theorem State.rest_dropFrame (g f : Nat) : (s.dropFrame g f).rest = s.rest := by
  unfold State.dropFrame
  split <;> rfl

theorem State.rest_unlinkFrom {next : State → Nat → Nat} {put : State → Nat → Nat → State}
    (hput : ∀ s a v, (put s a v).rest = s.rest) (n : Nat) (l : List Nat) : (unlinkFrom next put n l s).rest = s.rest := by
  fun_induction unlinkFrom next put n l s with
  | case1 => exact hput ..
  | case2 _ _ _ _ _ ih => exact ih
  | case3 => rfl

@[simp] theorem State.rest_unlinkNode (g n : Nat) : (s.unlinkNode g n).rest = s.rest := by
  unfold State.unlinkNode
  extract_lets d chain s1 p kids
  have h1 : s1.rest = s.rest := State.rest_ite (s.rest_putHbmNum ..) (s.rest_unlinkFrom (fun s a v => s.rest_putNode ..) ..)
  refine State.rest_ite h1 (State.rest_ite ((s1.rest_putNode ..).trans h1) ?_)
  exact (s1.rest_unlinkFrom (fun s a v => s.rest_putNode ..) ..).trans h1

@[simp] theorem State.rest_freeNode (g n : Nat) : (s.freeNode g n).rest = s.rest := by
  simp [State.freeNode, State.rest_foldl]

@[simp] theorem State.rest_evictNode (g n : Nat) : (s.evictNode g n).rest = s.rest := by simp [State.evictNode]

@[simp] theorem State.rest_evictFor (g : Nat) (keep : List Nat) (fuel n : Nat) : (s.evictFor g keep fuel n).2.rest = s.rest := by
  fun_induction State.evictFor s g keep fuel n <;> simp_all

@[simp] theorem State.rest_unref (g n : Nat) : (s.unref g n).rest = s.rest := by
  have h := s.rest_putNode g n 32 0 32 (s.nodeRefs g n - 1)
  exact State.rest_ite (s.rest_fault ..) (State.rest_ite ((State.rest_freeNode ..).trans h) h)

@[simp] theorem State.rest_releaseBlocks (g slot k : Nat) : (s.releaseBlocks g slot k).rest = s.rest := by
  simp [State.releaseBlocks, State.rest_foldl]

/-! ## Publishing blocks -/

@[simp] theorem State.rest_nodeRoom (g k : Nat) (keep : List Nat) (fuel : Nat) : (s.nodeRoom g k keep fuel).2.rest = s.rest := by
  fun_induction State.nodeRoom s g k keep fuel <;> simp_all

@[simp] theorem State.rest_buildNode (g n list scope model parent digest depth refs : Nat) (tokens : List Nat) (entries : List Pte) :
    (s.buildNode g n list scope model parent digest depth refs tokens entries).rest = s.rest := by
  simp [State.buildNode, apply_ite State.rest]

@[simp] theorem State.rest_publishOwn (g slot tenant n list scope model parent digest j : Nat) (tokens : List Nat) :
    (s.publishOwn g slot tenant n list scope model parent digest j tokens).rest = s.rest := by
  simp [State.publishOwn, State.rest_foldl]

theorem State.rest_of_takeFrame {s t : State} {g tenant f : Nat} (h : s.takeFrame g tenant = .ok (f, t)) : t.rest = s.rest := by
  unfold State.takeFrame at h
  split at h
  · cases h
  · split at h <;> cases h
    exact s.rest_setFrame ..

theorem State.rest_of_takeFrames {s t : State} {g tenant k : Nat} {fs : List Nat} (h : s.takeFrames g tenant k = .ok (fs, t)) :
    t.rest = s.rest := by
  induction k generalizing s fs with
  | zero => cases h; rfl
  | succ k ih =>
    unfold State.takeFrames at h
    split at h
    · cases h
    · next h1 =>
      split at h
      · cases h
      · next h2 =>
        cases h
        exact (ih h2).trans (State.rest_of_takeFrame h1)

@[simp] theorem State.rest_copySlotTo (g slot layer n frame t : Nat) : (s.copySlotTo g slot layer n frame t).rest = s.rest := by
  simp [State.copySlotTo, State.rest_foldl]

@[simp] theorem State.rest_publishCopy (g slot tenant n list scope model parent digest j : Nat) (tokens frames : List Nat) :
    (s.publishCopy g slot tenant n list scope model parent digest j tokens frames).rest = s.rest := by
  simp [State.publishCopy, State.rest_foldl]

@[simp] theorem State.rest_publishBlock (g slot tenant scope model : Nat) (tokens chain : List Nat) (j : Nat) :
    (s.publishBlock g slot tenant scope model tokens chain j).2.rest = s.rest := by
  unfold State.publishBlock
  extract_lets i parent toks d
  have hroom := s.rest_nodeRoom g (i.listBytes / 1024) chain (s.placeCount g 7)
  split
  · rfl
  · split
    · next t h => exact (t.rest_bump ..).trans (by simpa [h] using hroom)
    · next n list t h =>
      have ht : t.rest = s.rest := by simpa [h] using hroom
      split
      · simpa using ht
      · split
        · simpa using ht
        · simpa using ht
        · next h2 => simpa using (State.rest_of_takeFrames h2).trans ht

@[simp] theorem State.rest_publishFrom (g slot tenant scope model : Nat) (tokens : List Nat) (fuel : Nat) (chain : List Nat) :
    (s.publishFrom g slot tenant scope model tokens fuel chain).2.rest = s.rest := by
  induction fuel generalizing s chain with
  | zero => rfl
  | succ fuel ih =>
    have hblock := s.rest_publishBlock g slot tenant scope model tokens chain chain.length
    unfold State.publishFrom
    split
    · rfl
    · split
      · next h => simpa [h] using hblock
      · next h => exact (ih ..).trans (by simpa [h] using hblock)

@[simp] theorem State.rest_publishSlot (g slot model : Nat) (q : Req) (chain : List Nat) :
    (s.publishSlot g slot model q chain).2.rest = s.rest := by
  unfold State.publishSlot
  split
  · rfl
  · simp

@[simp] theorem State.rest_publishReq (g : Nat) (c : CommitSeq) : (s.publishReq g c).rest = s.rest := by
  unfold State.publishReq
  split
  · rfl
  · dsimp only
    split <;> simp

/-! ## Requests -/

@[simp] theorem State.rest_freeSlot (g slot : Nat) : (s.freeSlot g slot).rest = s.rest := by
  simp [State.freeSlot, State.rest_foldl]

@[simp] theorem State.rest_endReq (g : Nat) (q : Req) : (s.endReq g q).rest = s.rest := by
  simp [State.endReq, State.rest_foldl]

@[simp] theorem State.rest_setMask (g slot : Nat) : (s.setMask g slot).rest = s.rest := by
  unfold State.setMask
  dsimp only
  split
  · rfl
  · exact s.rest_putSlab ..

@[simp] theorem State.rest_stopSwap (g : Nat) (q : Req) : (s.stopSwap g q).rest = s.rest := by
  unfold State.stopSwap
  extract_lets mine s0 s1
  have h0 : s0.rest = s.rest := s.rest_swaps _
  simp [s1, h0]

@[simp] theorem State.rest_reap (g : Nat) : (s.reap g).rest = s.rest := by
  refine State.rest_foldl (fun s q => State.rest_ite (s.rest_endReq ..) ?_) ..
  split <;> simp

@[simp] theorem State.rest_stopReq (g : Nat) (q : Req) (silent : Bool) : (s.stopReq g q silent).rest = s.rest := by
  simp [State.stopReq, apply_ite State.rest, State.rest_foldl]

@[simp] theorem State.rest_markLost (g : Nat) (p : Req → Bool) : (s.markLost g p).rest = s.rest := by
  simp [State.markLost, State.rest_foldl]

@[simp] theorem State.rest_endLost (g : Nat) : (s.endLost g).rest = s.rest := by
  simp [State.endLost, apply_ite State.rest, State.rest_foldl]

@[simp] theorem State.rest_dropIncoming (x : Incoming) : (s.dropIncoming x).rest = s.rest := by
  simp [State.dropIncoming]

/-! ## The fire point -/

@[simp] theorem State.rest_trimPage (g slot layer page fired : Nat) : (s.trimPage g slot layer page fired).rest = s.rest := by
  simp [State.trimPage, apply_ite State.rest]

@[simp] theorem State.rest_trimSlots (g slot fired : Nat) : (s.trimSlots g slot fired).rest = s.rest := by
  simp [State.trimSlots, State.rest_foldl]

@[simp] theorem State.rest_fireSlot (g slot fired pos step : Nat) : (s.fireSlot g slot fired pos step).rest = s.rest := by
  simp [State.fireSlot]

@[simp] theorem State.rest_applySeq (g : Nat) (k : Commit) (c : CommitSeq) : (s.applySeq g k c).rest = s.rest := by
  unfold State.applySeq
  split
  · rfl
  · dsimp only
    rw [State.rest_onReq]
    split
    · simp
    · split <;> simp

@[simp] theorem State.rest_dropCompact (g : Nat) (q : Req) : (s.dropCompact g q).rest = s.rest := by
  simp [State.dropCompact, State.rest_foldl]

@[simp] theorem State.rest_commitCompact (g : Nat) (q : Req) : (s.commitCompact g q).rest = s.rest := by
  simp [State.commitCompact, State.rest_foldl, apply_ite State.rest]

@[simp] theorem State.rest_applyCompacts (g : Nat) : (s.applyCompacts g).rest = s.rest := by
  simp [State.applyCompacts, State.rest_foldl, apply_ite State.rest]

@[simp] theorem State.rest_handOff (g : Nat) (k : Commit) : (s.handOff g k).rest = s.rest := by
  simp [State.handOff]

@[simp] theorem State.rest_applyBudgets (g : Nat) : (s.applyBudgets g).rest = s.rest := s.rest_onSagger ..

@[simp] theorem State.rest_fireApply (g : Nat) (k : Commit) : (s.fireApply g k).rest = s.rest := by
  simp [State.fireApply, State.rest_foldl]

@[simp] theorem State.rest_fireEnds (g : Nat) (vs : List Verdict) : (s.fireEnds g vs).2.rest = s.rest := by
  simp [State.fireEnds, State.rest_foldl]

@[simp] theorem State.rest_swapOut (g : Nat) (q : Req) : (s.swapOut g q).2.rest = s.rest := by
  unfold State.swapOut
  dsimp only
  split
  · rfl
  · simp [apply_ite State.rest, State.rest_foldl]

@[simp] theorem State.rest_preempt (g : Nat) (q : Req) : (s.preempt g q).2.rest = s.rest := by
  simp [State.preempt, apply_ite State.rest]

theorem rest_preemptInto (g : Nat) (acc : List Req × State) (q : Req) : (preemptInto g acc q).2.rest = acc.2.rest :=
  acc.2.rest_preempt g q

@[simp] theorem State.rest_shortVictims (g : Nat) : (s.shortVictims g).2.rest = s.rest := by
  unfold State.shortVictims
  dsimp only
  split
  · rfl
  · simp [apply_ite State.rest, State.rest_foldl]

@[simp] theorem State.rest_fireVictims (g : Nat) : (s.fireVictims g).2.2.rest = s.rest := by
  unfold State.fireVictims
  dsimp only
  have run : ∀ (qs : List Req) (acc : List Req × State), (qs.foldl (preemptInto g) acc).2.rest = acc.2.rest :=
    foldl_proj (π := fun acc : List Req × State => acc.2.rest) (rest_preemptInto g)
  rw [run, State.rest_shortVictims, run]

@[simp] theorem State.rest_fireClose (g : Nat) : (s.fireClose g).rest = s.rest := by
  simp [State.fireClose, State.rest_foldl, apply_ite State.rest]

@[simp] theorem State.rest_ageCuts (g : Nat) : (s.ageCuts g).rest = s.rest := by
  refine State.rest_foldl (fun s t => ?_) ..
  dsimp only
  split <;> simp

@[simp] theorem State.rest_learnStep (g tokens late : Nat) : (s.learnStep g tokens late).rest = s.rest := by
  simp [State.learnStep]

@[simp] theorem State.rest_recordStep (g tokens : Nat) (es : List Ragged) (preempt : Bool) :
    (s.recordStep g tokens es preempt).rest = s.rest := by
  simp [State.recordStep]

@[simp] theorem State.rest_sendVerdict (g : Nat) (k : Commit) (evicted : List Req) (v : Verdict) :
    (s.sendVerdict g k evicted v).rest = s.rest := by
  unfold State.sendVerdict
  dsimp only
  split <;> simp [apply_ite State.rest]

@[simp] theorem State.rest_finishFire (g : Nat) (k : Commit) : (s.finishFire g k).rest = s.rest := by
  simp [State.finishFire, State.rest_foldl]

/-! ## Going DOWN -/

@[simp] theorem State.rest_acceptLoad (d : Nat) (l : Load) : (s.acceptLoad d l).rest = s.rest := by
  simp [State.acceptLoad, State.rest_foldl]

@[simp] theorem State.rest_admitWaiting (d : Nat) : (s.admitWaiting d).rest = s.rest := by
  simp [State.admitWaiting, State.rest_foldl]

@[simp] theorem State.rest_dropLoad (d : Nat) (l : Load) : (s.dropLoad d l).rest = s.rest := by
  unfold State.dropLoad
  extract_lets n s1 s2 s3
  have h2 : s2.rest = s.rest := (rfl)
  have h3 : s3.rest = s2.rest := State.rest_foldl (fun s u => s.rest_onUnit ..) ..
  simp [h3, h2]

@[simp] theorem State.rest_squashLoads (g : Nat) (p : Load → Bool) : (s.squashLoads g p).rest = s.rest := by
  simp [State.squashLoads, State.rest_foldl]

@[simp] theorem State.rest_dropRouter (g : Nat) : (s.dropRouter g).rest = s.rest := by
  simp [State.dropRouter]

@[simp] theorem State.rest_resetWare (g : Nat) : (s.resetWare g).rest = s.rest := by
  simp [State.resetWare]

@[simp] theorem State.rest_stopWork (g : Nat) : (s.stopWork g).rest = s.rest := by
  simp [State.stopWork, State.rest_foldl, apply_ite State.rest]

@[simp] theorem State.rest_stopStreams (g : Nat) : (s.stopStreams g).rest = s.rest := by
  unfold State.stopStreams
  extract_lets ids outIds s1 s2 s3
  have h1 : s1.rest = s.rest := State.rest_foldl (fun s x => s.rest_dropIncoming x) ..
  have h3 : s3.rest = s2.rest := State.rest_foldl (fun s d => s.rest_onGlaze ..) ..
  exact (s3.rest_swaps _).trans (h3.trans ((s1.rest_onLat _).trans h1))

@[simp] theorem State.rest_parkLoadings (id : Nat) : (s.parkLoadings id).rest = s.rest := by
  simp [State.parkLoadings, State.rest_foldl, apply_ite State.rest]

@[simp] theorem State.rest_dropSlice (id : Nat) : (s.dropSlice id).rest = s.rest := by
  simp [State.dropSlice, State.rest_foldl]

@[simp] theorem State.rest_leaveSlices (p : Slice → Bool) (code : BitVec 16) : (s.leaveSlices p code).rest = s.rest := by
  simp [State.leaveSlices, State.rest_foldl]

@[simp] theorem State.rest_failStep (g : Nat) : (s.failStep g).rest = s.rest := by
  simp [State.failStep, State.refund, State.rest_foldl]

/-- A sagger that goes DOWN changes nothing of the rest, whatever its step had still to commit (R411). -/
@[simp] theorem State.rest_saggerDown (g : Nat) (code : BitVec 16) : (s.saggerDown g code).rest = s.rest := by
  unfold State.saggerDown
  dsimp only
  rw [State.rest_onSagger, State.leaveFor, State.rest_leaveSlices, State.rest_endLost, State.rest_markLost]
  split <;> simp

end

/-! ## Building saggers and bisque mode -/

/-- The rest without what building a sagger or entering bisque mode changes besides: tallies, Shomu links and BST_SGR_DOWN. -/
def State.core (s : State) : State :=
  { s.rest with tallies := [], links := [], boot := { s.rest.boot with sgrDown := 0 } }

theorem State.core_of_rest {s t : State} (h : t.rest = s.rest) : t.core = s.core := by simp only [State.core, h]

section
variable (s : State)

theorem State.core_onTally (k : Nat) (f : Tally → Tally) : (s.onTally k f).core = s.core := (rfl)
theorem State.core_onLink (k : Nat) (f : Link → Link) : (s.onLink k f).core = s.core := (rfl)
theorem State.core_zeroTallies (g : Nat) : (s.zeroTallies g).core = s.core := (rfl)
theorem State.core_sgrDown (m : BitVec 12) : (s.onBoot fun b => { b with sgrDown := b.sgrDown ||| m }).core = s.core := (rfl)

theorem State.core_configTally (k : Nat) (cfg : BitVec 64) : (s.configTally k cfg).core = s.core := by
  unfold State.configTally
  dsimp only
  split
  · exact State.core_of_rest (s.rest_fault ..)
  · exact s.core_onTally ..

theorem State.core_freshSagger (g : Nat) : (s.freshSagger g).core = s.core := by
  unfold State.freshSagger
  extract_lets s1 s2
  have h1 : s1.rest = s.rest := by simp [s1]
  have h2 : s2.core = s1.core := (State.core_of_rest (State.rest_onSagger ..)).trans (s1.core_zeroTallies g)
  exact (State.core_of_rest (by simp)).trans (h2.trans (State.core_of_rest h1))

theorem State.rest_openChannels (g : Nat) : (s.openChannels g).rest = s.rest := State.rest_foldl (fun s _ => s.rest_onChan ..) ..

theorem State.rest_awaitEntry (w : Nat) : (s.awaitEntry w).rest = s.rest := by
  unfold State.awaitEntry
  split
  · rfl
  · exact State.rest_ite (s.rest_onSagger ..) rfl

theorem State.core_buildSagger (g : Nat) : (s.buildSagger g).core = s.core := by
  unfold State.buildSagger
  split
  · exact State.core_of_rest (s.rest_onSagger ..)
  · split
    · calc
        _ = ((s.onSagger g fun x => { x with st := .down }).onBoot fun b => { b with sgrDown := b.sgrDown ||| (1 <<< g) }).core :=
          State.core_of_rest (State.rest_raise ..)
        _ = (s.onSagger g fun x => { x with st := .down }).core := State.core_sgrDown ..
        _ = s.core := State.core_of_rest (s.rest_onSagger ..)
    · extract_lets s1 s2
      have h1 : s1.core = s.core := calc
        s1.core = ((s.freshSagger g).planTallies g).core := State.core_of_rest (State.rest_openChannels ..)
        _ = (s.freshSagger g).core := foldl_proj (fun s _ => s.core_configTally ..) ..
        _ = s.core := s.core_freshSagger g
      have h2 : s2.rest = s1.rest := State.rest_foldl (fun s _ => s.rest_awaitEntry ..) ..
      exact (State.core_of_rest ((s2.rest_onSagger ..).trans h2)).trans h1

theorem State.core_holdLinks : s.holdLinks.core = s.core :=
  (foldl_proj (fun s _ => s.core_onLink ..) ..).trans
    (State.core_of_rest (State.rest_foldl (fun s _ => s.rest_onPort ..) ..))

/-- Entry to bisque mode (R456): of the core it changes READY, the mode and its reason alone. -/
theorem State.core_enterBisque (reason : Nat) : (s.enterBisque reason).core =
    s.core.onBoot fun b => { b with bisque := true, ready := false, reason := reason } := by
  unfold State.enterBisque
  extract_lets code s1 s2
  have h1 : s1.rest = s.rest := State.rest_foldl (fun s g => State.rest_ite rfl (s.rest_saggerDown ..)) ..
  have h2 : s2.core = s.core.onBoot fun b => { b with bisque := true, ready := false, reason := reason } := calc
    s2.core = ((s1.leaveSlices (fun _ => true) code).onBoot fun b =>
        { b with bisque := true, ready := false, reason := reason }).core := State.core_of_rest (State.rest_fault ..)
    _ = (s1.leaveSlices (fun _ => true) code).core.onBoot fun b =>
        { b with bisque := true, ready := false, reason := reason } := (rfl)
    _ = _ := by rw [State.core_of_rest ((s1.rest_leaveSlices ..).trans h1)]
  split
  · exact s2.core_holdLinks.trans h2
  · exact h2
end

end Sys2Proof.Machine

namespace Sys2Proof.Machine

/-! # Power, reset and the start sequence (O59)

The start is followed step by step: the choice of a slot rests on flash and the rollback minimum, which the steps before it
keep (`BootKeeps`); what serves afterwards keeps the count of boots, power, the slot and the plan (`ServeKeeps`). -/

/-! ## Steps 1 to 3: choosing and booting a slot -/

/-- What the steps of a start between the count of the boot and READY leave alone, for the choice of a slot rests on it. -/
structure BootKeeps (s t : State) : Prop where
  boots : t.health.boots = s.health.boots
  power : t.power = s.power
  flash : t.mem.flash = s.mem.flash
  svn   : t.fuses.svnMin = s.fuses.svnMin

theorem BootKeeps.refl (s : State) : BootKeeps s s := ⟨rfl, rfl, rfl, rfl⟩

theorem BootKeeps.trans {s t u : State} (h : BootKeeps s t) (h' : BootKeeps t u) : BootKeeps s u :=
  ⟨h'.boots.trans h.boots, h'.power.trans h.power, h'.flash.trans h.flash, h'.svn.trans h.svn⟩

theorem BootKeeps.of_rest {s t : State} (h : t.rest = s.rest) : BootKeeps s t :=
  ⟨congrArg (fun u => u.health.boots) h, congrArg (fun u => u.power) h, congrArg (fun u => u.mem.flash) h,
    congrArg (fun u => u.fuses.svnMin) h⟩

theorem State.setSlot_bootKeeps (s : State) (slot : Nat) (x : SlotState) : BootKeeps s (s.onHealth fun h => h.setSlot slot x) :=
  ⟨(s.health.setSlot_keeps slot x).2.1, rfl, rfl, rfl⟩

theorem State.abandonSlot_bootKeeps (s : State) (slot : Nat) : BootKeeps s (s.abandonSlot slot) := by
  unfold State.abandonSlot
  split
  · exact (s.setSlot_bootKeeps slot .idle).trans ⟨rfl, rfl, rfl, rfl⟩
  · exact .refl s

theorem State.chooseSlot_bootKeeps (s : State) : BootKeeps s s.chooseSlot.2 := by
  have habandon := (s.abandonSlot_bootKeeps 0).trans (State.abandonSlot_bootKeeps _ 1)
  unfold State.chooseSlot
  extract_lets s1 s2 other
  have h2 : BootKeeps s s2 := by
    refine habandon.trans ?_
    show BootKeeps s1 (if _ then _ else _)
    split
    · exact ⟨rfl, rfl, rfl, rfl⟩
    · exact .refl s1
  split
  · exact h2.trans (s2.setSlot_bootKeeps ..)
  · exact h2

/-- Step 1 counts the boot (R443). -/
theorem State.joinMarks_bootKeeps (s : State) :
    BootKeeps (s.onHealth fun h => { h with boots := h.boots + 1 }) s.joinMarks := by
  unfold State.joinMarks
  extract_lets fresh map s1
  have h1 : BootKeeps (s.onHealth fun h => { h with boots := h.boots + 1 }) s1 := ⟨rfl, rfl, rfl, rfl⟩
  exact h1.trans (.of_rest (State.rest_foldl (fun s _ => s.rest_fault ..) ..))

theorem State.startFirmware_bootKeeps (s : State) (slot : Nat) (env : StartEnv) : BootKeeps s (s.startFirmware slot env) := by
  unfold State.startFirmware
  extract_lets cert s1 s2
  have h1 : BootKeeps s s1 := ⟨rfl, rfl, rfl, rfl⟩
  have h2 : s2.rest = s1.rest := State.rest_ite (s1.rest_setReg ..) rfl
  exact h1.trans (.of_rest (State.rest_ite ((s2.rest_fault ..).trans h2) h2))

theorem State.startFirmware_boot (s : State) (slot : Nat) (env : StartEnv) :
    (s.startFirmware slot env).boot.slot = slot ∧ (s.startFirmware slot env).boot.keyOk = env.keyOk := by
  unfold State.startFirmware
  extract_lets cert s1 s2
  have h2 : s2.rest = s1.rest := State.rest_ite (s1.rest_setReg ..) rfl
  have h := congrArg State.boot (State.rest_ite (c := env.keyOk ∧ ¬cert) ((s2.rest_fault 4 0xF 0xF6 15 0 0).trans h2) h2)
  exact ⟨congrArg Boot.slot h, congrArg Boot.keyOk h⟩

theorem State.adoptPlan_bootKeeps (s : State) (p : List Byte) : BootKeeps s (s.adoptPlan p) := by
  refine ⟨rfl, rfl, rfl, ?_⟩
  show Fuses.svnMin (if _ then _ else _) = _
  split <;> rfl

theorem State.trySlot_eq (s : State) (slot : Nat) : s.trySlot slot =
    if slotOk s.mem.flash slot s.fuses.svnMin then (true, s) else (false, (s.fault 4 0 0xF8 15 12 0).abandonSlot slot) := rfl

/-- What booting a slot gives (R432, R442): the firmware runs when the slot verifies; with an accepted plan it is the running
slot, and its plan is in force. -/
structure Boots (s : State) (slot : Nat) (env : StartEnv) (fw ok : Bool) (t : State) : Prop where
  keeps : BootKeeps s t
  runs  : fw = slotOk s.mem.flash slot s.fuses.svnMin
  fwOk  : ok = true → fw = true
  slot_ : ok = true → t.boot.slot = slot
  keyOk : ok = true → t.boot.keyOk = env.keyOk
  plan  : ok = true → t.plan = some (planOf (slotPlan s.mem.flash slot))

theorem State.bootSlot_boots {s t : State} {slot : Nat} {env : StartEnv} {fw ok : Bool}
    (h : s.bootSlot slot env = (fw, ok, t)) : Boots s slot env fw ok t := by
  unfold State.bootSlot at h
  rw [State.trySlot_eq] at h
  by_cases hslot : slotOk s.mem.flash slot s.fuses.svnMin = true
  · have hfw := s.startFirmware_bootKeeps slot env
    obtain ⟨hs, hk⟩ := s.startFirmware_boot slot env
    simp only [hslot, if_true, Bool.not_true, Bool.false_eq_true, if_false, hfw.flash] at h
    split at h <;> cases h
    · exact ⟨hfw.trans (State.adoptPlan_bootKeeps ..), hslot.symm, fun _ => rfl, fun _ => hs, fun _ => hk, fun _ => rfl⟩
    · refine ⟨hfw.trans ((BootKeeps.of_rest (State.rest_fault ..)).trans (State.abandonSlot_bootKeeps ..)), hslot.symm, ?_, ?_,
        ?_, ?_⟩ <;> simp
  · simp only [hslot] at h
    cases h
    refine ⟨(BootKeeps.of_rest (s.rest_fault ..)).trans (State.abandonSlot_bootKeeps ..), by simpa using hslot, ?_, ?_, ?_,
      ?_⟩ <;> simp

/-- Every slot but A is B. -/
theorem slotOk_of_ne_zero {slot : Nat} (h : slot ≠ 0) (f : Mem) (v : Nat) : slotOk f slot v = slotOk f 1 v := by
  simp [slotOk, slotWord, slotSvn, slotFirmware, slotBase, h]

/-- A slot and the other one are A and B. -/
theorem slots_fail {slot : Nat} {f : Mem} {v : Nat} (h : slotOk f slot v = false) (h' : slotOk f (1 - slot) v = false) :
    slotOk f 0 v = false ∧ slotOk f 1 v = false := by
  rcases Nat.eq_zero_or_pos slot with rfl | hpos
  · exact ⟨h, h'⟩
  · rw [slotOk_of_ne_zero (by omega)] at h
    rw [Nat.sub_eq_zero_of_le hpos] at h'
    exact ⟨h', h⟩

/-! ## Steps 4 to 7: serving or bisque mode -/

theorem State.markReason_none {s : State} (h : s.markReason = none) : s.boot.keyOk = true := by
  unfold State.markReason at h
  split at h
  · cases h
  · next hk => simpa using hk

theorem State.markReason_bounds {s : State} {r : Nat} (h : s.markReason = some r) : 1 ≤ r ∧ r ≤ 5 := by
  unfold State.markReason at h
  split at h
  · cases h; decide
  · split at h
    · cases h; decide
    · split at h <;> cases h
      decide

theorem startReason_none {env : StartEnv} (h : startReason env = none) : env.bridgeOk = true ∧ ∀ c ∈ env.codes, c ≤ 63 := by
  unfold startReason at h
  split at h
  · cases h
  · split at h
    · cases h
    · simp_all

theorem startReason_bounds {env : StartEnv} {r : Nat} (h : startReason env = some r) : 1 ≤ r ∧ r ≤ 5 := by
  unfold startReason at h
  split at h
  · cases h; decide
  · split at h <;> cases h
    decide

/-- What the steps after an accepted plan leave alone. -/
structure ServeKeeps (s t : State) : Prop where
  boots : t.health.boots = s.health.boots
  power : t.power = s.power
  slot_ : t.boot.slot = s.boot.slot
  plan  : t.plan = s.plan

theorem ServeKeeps.refl (s : State) : ServeKeeps s s := ⟨rfl, rfl, rfl, rfl⟩

theorem ServeKeeps.trans {s t u : State} (h : ServeKeeps s t) (h' : ServeKeeps t u) : ServeKeeps s u :=
  ⟨h'.boots.trans h.boots, h'.power.trans h.power, h'.slot_.trans h.slot_, h'.plan.trans h.plan⟩

theorem State.setPhase_serveKeeps (s : State) (n : Nat) : ServeKeeps s (s.onBoot fun b => { b with phase := n }) :=
  ⟨rfl, rfl, rfl, rfl⟩

theorem ServeKeeps.of_core {s t : State} (h : t.core = s.core) : ServeKeeps s t :=
  ⟨congrArg (fun u => u.health.boots) h, congrArg (fun u => u.power) h, congrArg (fun u => u.boot.slot) h,
    congrArg (fun u => u.plan) h⟩

/-- The module is in bisque mode with a reason that a start can give (R456). -/
def InBisque (t : State) : Prop := t.boot.bisque = true ∧ t.boot.ready = false ∧ 1 ≤ t.boot.reason ∧ t.boot.reason ≤ 5

theorem State.enterBisque_serveKeeps (s : State) (r : Nat) : ServeKeeps s (s.enterBisque r) := by
  have h := s.core_enterBisque r
  exact ⟨congrArg (fun u => u.health.boots) h, congrArg (fun u => u.power) h, congrArg (fun u => u.boot.slot) h,
    congrArg (fun u => u.plan) h⟩

theorem State.enterBisque_inBisque (s : State) {r : Nat} (hr : 1 ≤ r ∧ r ≤ 5) : InBisque (s.enterBisque r) := by
  have h := s.core_enterBisque r
  have hreason : (s.enterBisque r).boot.reason = r := congrArg (fun u => u.boot.reason) h
  refine ⟨congrArg (fun u => u.boot.bisque) h, congrArg (fun u => u.boot.ready) h, ?_⟩
  rw [hreason]
  exact hr

theorem State.calibrate_serveKeeps (s : State) (env : StartEnv) : ServeKeeps s (s.calibrate env) := by
  unfold State.calibrate
  extract_lets warm s1 s2 twice
  have h1 : ServeKeeps s s1 := ⟨rfl, rfl, rfl, rfl⟩
  have h2 : s2.rest = s1.rest := State.rest_foldl (fun s _ => s.rest_onStack ..) ..
  exact (h1.trans (.of_core (State.core_of_rest h2))).trans ⟨rfl, rfl, rfl, rfl⟩

theorem State.finishStart_serveKeeps (s : State) : ServeKeeps s s.finishStart := by
  unfold State.finishStart
  extract_lets tenants s1
  have h1 : s1.core = s.core := foldl_proj
    (fun s g => (State.core_buildSagger _ g).trans (State.core_of_rest (s.rest_onSagger ..))) ..
  dsimp only [State.draw]
  split
  · exact (ServeKeeps.of_core h1).trans ⟨((Health.setSlot_keeps ..).2.1).trans (Health.setSlot_keeps ..).2.1, rfl, rfl, rfl⟩
  · exact (ServeKeeps.of_core h1).trans ⟨rfl, rfl, rfl, rfl⟩

/-- READY rises (R448). -/
theorem State.finishStart_ready (s : State) : s.finishStart.boot.ready = true ∧ s.finishStart.boot.phase = 6 := by
  unfold State.finishStart
  dsimp only [State.draw]
  split <;> exact ⟨rfl, rfl⟩

/-- How the steps after an accepted plan end: READY high, or bisque mode. -/
theorem State.startServing_ends (s : State) (env : StartEnv) : ServeKeeps s (s.startServing env) ∧
    (((s.startServing env).boot.ready = true ∧ (s.startServing env).boot.phase = 6 ∧ s.boot.keyOk = true ∧
        env.bridgeOk = true ∧ ∀ c ∈ env.codes, c ≤ 63) ∨ InBisque (s.startServing env)) := by
  unfold State.startServing
  extract_lets s0 s1
  have hrest : s0.rest = s.startTimebase.rest :=
    (State.rest_foldl (fun s _ => s.rest_onPort ..) ..).trans (State.rest_foldl (fun s _ => s.rest_onChan ..) ..)
  have h0 : ServeKeeps s s0 := (⟨rfl, rfl, rfl, rfl⟩ : ServeKeeps s s.startTimebase).trans (.of_core (State.core_of_rest hrest))
  have h1 : ServeKeeps s s1 := h0.trans (s0.calibrate_serveKeeps env)
  split
  · next r hr =>
    exact ⟨h0.trans ((s0.setPhase_serveKeeps 4).trans (State.enterBisque_serveKeeps ..)),
      .inr (State.enterBisque_inBisque _ (State.markReason_bounds hr))⟩
  · next hmark =>
    have hkey : s.boot.keyOk = true := (congrArg (fun u => u.boot.keyOk) hrest).symm.trans (State.markReason_none hmark)
    split
    · next r hr =>
      exact ⟨h1.trans ((s1.setPhase_serveKeeps 4).trans (State.enterBisque_serveKeeps ..)),
        .inr (State.enterBisque_inBisque _ (startReason_bounds hr))⟩
    · next hstart =>
      obtain ⟨hready, hphase⟩ := State.finishStart_ready (s1.onBoot fun b => { b with phase := 5 })
      exact ⟨h1.trans ((s1.setPhase_serveKeeps 5).trans (State.finishStart_serveKeeps _)),
        .inl ⟨hready, hphase, hkey, startReason_none hstart⟩⟩

/-! ## The whole start -/

/-- The ends of a start from `s` (R432, R443, R448, R456): READY high on a verified slot and its plan, bisque mode, or dead with
two bad slots. -/
def StartEnds (env : StartEnv) (s t : State) : Prop :=
  (t.boot.ready = true ∧ t.boot.phase = 6 ∧ env.keyOk = true ∧ env.bridgeOk = true ∧ (∀ c ∈ env.codes, c ≤ 63) ∧
    slotOk s.mem.flash t.boot.slot s.fuses.svnMin = true ∧ t.plan = some (planOf (slotPlan s.mem.flash t.boot.slot))) ∨
  InBisque t ∨
  (t.boot.dead = true ∧ slotOk s.mem.flash 0 s.fuses.svnMin = false ∧ slotOk s.mem.flash 1 s.fuses.svnMin = false)

/-- A start counts the boot and leaves power alone, and it ends in one of the three ways. -/
structure Started (env : StartEnv) (s t : State) : Prop where
  boots : t.health.boots = s.health.boots + 1
  power : t.power = s.power
  ends  : StartEnds env s t

/-- Before a slot is booted the start has counted the boot, and flash, rollback minimum and power are as they were. -/
abbrev Counted (s t : State) : Prop := BootKeeps (s.onHealth fun h => { h with boots := h.boots + 1 }) t

theorem Started.of_accepted {env : StartEnv} {s s1 t u : State} {slot : Nat} (hs : Counted s s1)
    (hb : Boots s1 slot env true true t) (hu : ServeKeeps t u) (huk : u.boot.keyOk = t.boot.keyOk) :
    Started env s (u.startServing env) := by
  obtain ⟨hkeeps, hend⟩ := u.startServing_ends env
  have hcount := hs.trans hb.keeps
  have hserve := hu.trans hkeeps
  refine ⟨hserve.boots.trans hcount.boots, hserve.power.trans hcount.power, ?_⟩
  have hslot : (u.startServing env).boot.slot = slot := hserve.slot_.trans (hb.slot_ rfl)
  have hok : slotOk s.mem.flash slot s.fuses.svnMin = true := by
    have := hb.runs
    rw [hs.flash, hs.svn] at this
    exact this.symm
  have hplan : (u.startServing env).plan = some (planOf (slotPlan s.mem.flash slot)) := by
    rw [hserve.plan, hb.plan rfl, hs.flash]; rfl
  rcases hend with ⟨hready, hphase, hkey, hbridge, hcodes⟩ | hbisque
  · exact .inl ⟨hready, hphase, (huk.trans (hb.keyOk rfl)).symm.trans hkey, hbridge, hcodes, by rw [hslot]; exact hok,
      by rw [hslot]; exact hplan⟩
  · exact .inr (.inl hbisque)

theorem Started.of_bisque {env : StartEnv} {s t : State} (ht : Counted s t) : Started env s (t.enterBisque 1) := by
  have h := t.enterBisque_serveKeeps 1
  exact ⟨h.boots.trans ht.boots, h.power.trans ht.power, .inr (.inl (t.enterBisque_inBisque (by decide)))⟩

theorem State.start_started (s : State) (env : StartEnv) : Started env s (s.start env) := by
  unfold State.start
  extract_lets s0 s1
  have h0 : Counted s (s0.onHealth fun h => { h with boots := h.boots + 1 }) := ⟨rfl, rfl, rfl, rfl⟩
  have h1 : Counted s s1 := h0.trans s0.joinMarks_bootKeeps
  split
  next a s2 hchoose =>
  have h2 : Counted s s2 := h1.trans (by simpa [hchoose] using s1.chooseSlot_bootKeeps)
  split
  next fw ok s3 hboot =>
  have hb := State.bootSlot_boots hboot
  have h3 := h2.trans hb.keeps
  split
  · next hok =>
    subst hok
    obtain rfl := hb.fwOk rfl
    exact .of_accepted h2 hb (.refl _) rfl
  · split
    next fw2 ok2 s4 hboot2 =>
    have hb2 := State.bootSlot_boots hboot2
    have h4 := h3.trans hb2.keeps
    split
    · next hok =>
      subst hok
      obtain rfl := hb2.fwOk rfl
      exact .of_accepted h3 hb2 ⟨rfl, rfl, rfl, rfl⟩ rfl
    · split
      · have h5 : Counted s (if fw2 = true then s4 else s4.startFirmware a env) := by
          split
          · exact h4
          · exact h4.trans (s4.startFirmware_bootKeeps a env)
        refine .of_bisque (h5.trans ?_)
        exact ⟨rfl, rfl, rfl, rfl⟩
      · next hfw =>
        have hbad : fw = false ∧ fw2 = false := by simpa [and_comm] using hfw
        have hr := hb.runs
        have hr2 := hb2.runs
        rw [h2.flash, h2.svn, hbad.1] at hr
        rw [h3.flash, h3.svn, hbad.2] at hr2
        exact ⟨h4.boots, h4.power, .inr (.inr ⟨rfl, slots_fail hr.symm hr2.symm⟩)⟩

/-! ## Power and reset -/

theorem State.onPower_only (s : State) (f : Power → Power) : Only [.power] s (s.onPower f) := by
  intro p hp
  cases p
  case power => simp at hp
  all_goals rfl

theorem State.onMgmt_only_mgmt (s : State) (f : Mgmt → Mgmt) : Only [.mgmt] s (s.onMgmt f) := by
  intro p hp
  cases p
  case mgmt => simp at hp
  all_goals rfl

theorem refInTrip_iff {ppm : Int} : refInTrip ppm = true ↔ -100000 ≤ ppm ∧ ppm ≤ 100000 := by simp [refInTrip]

theorem Power.mayStart_iff (p : Power) (ppm : Int) :
    p.mayStart ppm = true ↔ p.rails = true ∧ p.rstN = true ∧ -100000 ≤ ppm ∧ ppm ≤ 100000 := by
  simp [Power.mayStart, refInTrip_iff, and_assoc]

theorem State.when_true (s t : State) {c : Bool} (h : c = true) : s.when c t = .next t := if_pos h

theorem State.when_false (s t : State) {c : Bool} (h : c = false) : s.when c t = .next s := if_neg (by simp [h])

/-- RESET_RELEASE and INPUT_RETURN: after their change of power the start runs when the module is in reset and may leave it
(R495, R500); otherwise nothing else changes. -/
theorem State.startIf_onPower {s : State} {f : Power → Power} {env : StartEnv} {p : Power} (hp : p = f s.power)
    {effect : Host.Outcome State Fault Refusal} (heffect : effect = .next ((s.onPower f).startIf env)) :
    (s.boot.phase = 0 → p.mayStart env.refclkPpm = true → ∃ t, effect = .next t ∧
      t.health.boots = s.health.boots + 1 ∧ t.power.ppm = env.refclkPpm ∧ t.pending = s.pending ∧ StartEnds env s t) ∧
    (s.boot.phase ≠ 0 ∨ p.mayStart env.refclkPpm = false → ∃ t, effect = .next t ∧
      t.power = p ∧ Only [.power] s t) := by
  subst hp heffect
  refine ⟨fun hphase hmay => ?_,
    fun h => ⟨s.onPower f, congrArg _ (if_neg fun ⟨hphase, hmay⟩ => ?_), rfl, s.onPower_only f⟩⟩
  · have hpending : ((s.onPower f).startIf env).pending = s.pending :=
      (State.startIf_keeps (State.onPower_keeps (Keeps.refl false s))).pending
    have hstart : (s.onPower f).startIf env = ((s.onPower f).onPower fun p =>
        { p with rail0 := 650, rail1 := 650, ppm := env.refclkPpm, refOk := refInBist env.refclkPpm }).start env :=
      if_pos ⟨hphase, hmay⟩
    obtain ⟨hboots, hpower, hends⟩ := State.start_started ((s.onPower f).onPower fun p =>
      { p with rail0 := 650, rail1 := 650, ppm := env.refclkPpm, refOk := refInBist env.refclkPpm }) env
    exact ⟨_, congrArg _ hstart, hboots, congrArg Power.ppm hpower, hstart ▸ hpending, hends⟩
  · rcases h with h | h
    · exact h hphase
    · exact Bool.false_ne_true (h.symm.trans hmay)

/-- What is left of a module that has lost its volatile state (R26, R434). -/
theorem State.lose_eq (s : State) (p : Power) : s.lose p = { State.reset with
    pending := s.pending, freeCtr := s.freeCtr, mem := { store := s.mem.store, flash := s.mem.flash }, power := p
    health := s.health, fuses := s.fuses, store := s.store } := rfl

/-- A trip drops the rails and is latched; the input, the insertion and RST_N stay (R485, R486). -/
theorem execTrip_of_limit {junction stack : Int} {ppm : Option Int} {s : State} (hrails : s.power.rails = true)
    (h : junction ≥ 110 ∨ stack ≥ 112 ∨ (s.boot.phase ≠ 0 ∧ ∀ p, ppm = some p → p < -100000 ∨ 100000 < p)) :
    execTrip junction stack ppm s =
      .next (s.lose { input := s.power.input, inserted := s.power.inserted, rstN := s.power.rstN, tripped := true }) := by
  refine State.when_true _ _ ?_
  rcases h with h | h | ⟨hphase, hppm⟩
  · simp [hrails, h]
  · simp [hrails, h]
  · cases ppm with
    | none => simp [hrails, hphase]
    | some p =>
      have hout : refInTrip p = false := by
        refine Bool.eq_false_iff.2 fun hin => ?_
        have := refInTrip_iff.1 hin
        have := hppm p rfl
        omega
      simp [hrails, hphase, hout]

/-- Within the limits nothing trips. -/
theorem execTrip_of_within {junction stack : Int} {ppm : Option Int} {s : State} (hj : junction < 110) (hs : stack < 112)
    (h : s.boot.phase = 0 ∨ ∃ p, ppm = some p ∧ -100000 ≤ p ∧ p ≤ 100000) : execTrip junction stack ppm s = .next s := by
  refine State.when_false _ _ ?_
  have hj' : ¬ 110 ≤ junction := Int.not_le.2 hj
  have hs' : ¬ 112 ≤ stack := Int.not_le.2 hs
  rcases h with h | ⟨p, rfl, hp⟩
  · simp [hj', hs', h]
  · simp [hj', hs', refInTrip_iff.2 hp]

/-- Without rails nothing trips. -/
theorem execTrip_of_off {junction stack : Int} {ppm : Option Int} {s : State} (h : s.power.rails = false) :
    execTrip junction stack ppm s = .next s :=
  State.when_false _ _ (by simp [h])

/-- Settles O59: a start, whatever the saggers that it builds or takes down still held, counts one boot, keeps power and ends
in one of three ways; every other event of power is one update. -/
theorem powerResetAndTheStartSequence : Obligations.PowerResetAndTheStartSequence := by
  refine ⟨?resetRelease, ?inputReturn, Power.mayStart_iff, ?resetAssert, ?trip, ?tripOff, ?inputLockout, ?moduleInsert,
    ?refclkPpmUpdate, ?managementLinkChange⟩
  case resetRelease => exact fun env s p hp => State.startIf_onPower (f := fun p => { p with rstN := true }) hp rfl
  case inputReturn =>
    exact fun env s p hp => State.startIf_onPower (f := fun p => ({ p with input := true } : Power).fed) hp rfl
  case resetAssert =>
    intro s
    refine ⟨_, rfl, rfl, rfl, rfl, rfl, ?_, rfl, s.lose_eq _⟩
    show (s.power.input && s.power.inserted && !false) = _
    simp
  case trip =>
    intro junction stack ppm s hrails
    exact ⟨fun h => ⟨_, execTrip_of_limit hrails h, rfl, rfl, rfl, rfl, rfl, s.lose_eq _⟩, execTrip_of_within⟩
  case tripOff => exact fun junction stack ppm s => execTrip_of_off
  case inputLockout => exact fun s => ⟨_, rfl, rfl, rfl, rfl, rfl, rfl, s.lose_eq _⟩
  case moduleInsert =>
    refine fun s => ⟨_, rfl, s.onPower_only _, ?_⟩
    show ({ s.power with inserted := true } : Power).fed = _
    simp [Power.fed]
  case refclkPpmUpdate => exact fun ppm s hup => ⟨_, State.when_true _ _ hup, s.onPower_only _, rfl⟩
  case managementLinkChange => exact fun up addr s hup => ⟨_, State.when_true _ _ hup, s.onMgmt_only_mgmt _, rfl⟩

end Sys2Proof.Machine

namespace Sys2Proof.Machine

/-! # The bytes of a T28 row (O15)

The positions as residues of the byte, then what the decoder answers in each of its two branches. -/

/-- POS_A of a T28 byte lies in bits [2:0] (R30). -/
@[simp] theorem nbits_zero_three (x : Nat) : nbits x 0 3 = x % 8 := by simp [nbits]

/-- POS_B of a T28 byte lies in bits [6:4] (R30). -/
@[simp] theorem nbits_four_three (x : Nat) : nbits x 4 3 = x / 16 % 8 := by simp [nbits]

/-- Away from model load, a single byte is a violation just when its positions descend (R31). -/
theorem t28Bad_false_singleton (b : Byte) :
    t28Bad false [b] = if b.toNat % 8 > b.toNat / 16 % 8 then some 0x03 else none := by
  simp [t28Bad]

@[simp] theorem t28Group_length (b : Byte) : (t28Group b).length = 8 := by simp [t28Group]

/-- With ascending positions, each of the two places holds its own sign and the other six hold zero (R31). -/
theorem t28Group_getD_of_lt {b : Byte} (h : b.toNat % 8 < b.toNat / 16 % 8) {i : Nat} (hi : i < 8) :
    (t28Group b).getD i 0 =
      if i = b.toNat % 8 then signed1 (b.getLsbD 3) else if i = b.toNat / 16 % 8 then signed1 (b.getLsbD 7) else 0 := by
  simp [t28Group, h, hi]

/-- Otherwise only the place POS_A can hold a weight, and only when the signs agree (R31). -/
theorem t28Group_getD_of_not_lt {b : Byte} (h : ¬ b.toNat % 8 < b.toNat / 16 % 8) {i : Nat} (hi : i < 8) :
    (t28Group b).getD i 0 = if b.getLsbD 3 = b.getLsbD 7 ∧ i = b.toNat % 8 then signed1 (b.getLsbD 3) else 0 := by
  simp [t28Group, h, hi]

/-- Settles O15: the violation is read off the positions alone, and the three legal rows of R31's table are the two
branches of the group's decoder, the second one split by the signs. -/
theorem t28BytesDecodeAsTheirTable : Obligations.T28BytesDecodeAsTheirTable := by
  rintro b _ _ _ _ rfl rfl rfl rfl
  refine ⟨t28Bad_false_singleton b, t28Group_length b, ?twoWeights, ?oneWeight, ?noWeight⟩
  case twoWeights => exact fun hlt i hi => t28Group_getD_of_lt hlt hi
  case oneWeight =>
    intro hpos hsign i hi
    rw [t28Group_getD_of_not_lt (Nat.not_lt.2 (Nat.le_of_eq hpos.symm)) hi]
    simp only [hsign, true_and, signed1]
  case noWeight =>
    intro hpos hsign i hi
    rw [t28Group_getD_of_not_lt (Nat.not_lt.2 (Nat.le_of_eq hpos.symm)) hi, if_neg fun h => hsign h.1]

end Sys2Proof.Machine

namespace Sys2Proof.Machine

/-! # What the work of one wheel may change

The statements of chapter 03 each say which parts of the state, which wheels and which saggers a command may change.
`WheelFrame` says all three at once, and has one rule for each operation that the commands are built of: the frame of a command
is read off its meaning, operation by operation. -/

/-! ## Changes of one part of the state -/

theorem Only.refl (ps : List Field) (s : State) : Only ps s s := fun p _ => by cases p <;> rfl

/-- What changes one part changes no more than a list that holds it. -/
theorem Only.widen {p : Field} {ps : List Field} {s t : State} (h : Only [p] s t) (hp : p ∈ ps) : Only ps s t := by
  intro q hq
  exact h q fun hqp => hq (List.mem_singleton.1 hqp ▸ hp)

theorem State.onSagger_only (s : State) (g : Nat) (f : Sagger → Sagger) : Only [.saggers] s (s.onSagger g f) := by
  intro p hp
  cases p
  case saggers => simp at hp
  all_goals rfl

theorem State.onWheel_only (s : State) (w : Nat) (f : Wheel → Wheel) : Only [.wheels] s (s.onWheel w f) := by
  intro p hp
  cases p
  case wheels => simp at hp
  all_goals rfl

theorem State.onTally_only (s : State) (k : Nat) (f : Tally → Tally) : Only [.tallies] s (s.onTally k f) := by
  intro p hp
  cases p
  case tallies => simp at hp
  all_goals rfl

theorem State.onFlog_only (s : State) (f : FaultLog → FaultLog) : Only [.flog] s (s.onFlog f) := by
  intro p hp
  cases p
  case flog => simp at hp
  all_goals rfl

theorem State.onLute_only (s : State) (f : Lute → Lute) : Only [.lute] s (s.onLute f) := by
  intro p hp
  cases p
  case lute => simp at hp
  all_goals rfl

theorem State.bump_only_regs (s : State) (r : Reg) (u n : Nat) : Only [.regs] s (s.bump r u n) := by
  intro p hp
  cases p
  case regs => simp at hp
  all_goals rfl

theorem State.withMem_only (s : State) (m : Memories) : Only [.mem] s { s with mem := m } := by
  intro p hp
  cases p
  case mem => simp at hp
  all_goals rfl

/-! ## The parts that two operations are made of -/

/-- The sagger field of a record names sagger `g`, or no sagger that a reset could reach. -/
theorem sgField_toNat {g : Nat} (h : (sgField g).toNat < 12) : (sgField g).toNat = g := by
  unfold sgField at h ⊢
  split at h
  next hg => rw [if_pos hg, BitVec.toNat_ofNat]; omega
  next => simp at h

/-- The head entry is read and counted as taken, before an entry that waits is written (R85). -/
def State.countTaken (s : State) (g : Nat) : State :=
  (s.bump .hbmRdBytes (stackOfAddr (s.listAddr g (s.sagger g).list.cons)) 32).onSagger g fun x =>
    { x with list := { x.list with cons := x.list.cons + 1 } }

theorem State.popEntry_of_nil {s : State} {g : Nat} (h : (s.sagger g).listWait = []) : s.popEntry g = s.countTaken g := by
  simp [State.popEntry, State.countTaken, h]

theorem State.popEntry_of_cons {s : State} {g : Nat} {e : BitVec 256} {r : List (BitVec 256)}
    (h : (s.sagger g).listWait = e :: r) :
    s.popEntry g = ((s.countTaken g).onSagger g fun x => { x with listWait := r }).pushEntry g e := by
  simp [State.popEntry, State.countTaken, h]

/-! ## The frame and its rules -/

/-- From `s` to `t` only the parts `ps` may differ, of the wheels only `ws`, and of the saggers only `gs`. -/
structure WheelFrame (ps : List Field) (ws gs : List Nat) (s t : State) : Prop where
  only    : Only ps s t
  wheels  : Others State.wheel ws s t
  saggers : Others State.sagger gs s t

namespace WheelFrame

variable {ps : List Field} {ws gs : List Nat} {s t : State}

theorem refl : WheelFrame ps ws gs s s := ⟨.refl ps s, fun _ _ => rfl, fun _ _ => rfl⟩

theorem trans {u : State} (h : WheelFrame ps ws gs s t) (h' : WheelFrame ps ws gs t u) : WheelFrame ps ws gs s u :=
  ⟨h.only.trans h'.only, fun w hw => (h'.wheels w hw).trans (h.wheels w hw),
    fun g hg => (h'.saggers g hg).trans (h.saggers g hg)⟩

theorem onSagger {g : Nat} {f : Sagger → Sagger} (h : WheelFrame ps ws gs s t) (hp : .saggers ∈ ps := by decide)
    (hg : g ∈ gs := by simp) : WheelFrame ps ws gs s (t.onSagger g f) := by
  refine h.trans ⟨(t.onSagger_only g f).widen hp, fun _ _ => rfl, fun k hk => ?_⟩
  rw [State.onSagger_sagger, if_neg fun (hkg : k = g) => hk (hkg ▸ hg)]

theorem onWheel {w : Nat} {f : Wheel → Wheel} (h : WheelFrame ps ws gs s t) (hp : .wheels ∈ ps := by decide)
    (hw : w ∈ ws := by simp) : WheelFrame ps ws gs s (t.onWheel w f) := by
  refine h.trans ⟨(t.onWheel_only w f).widen hp, fun k hk => ?_, fun _ _ => rfl⟩
  rw [State.onWheel_wheel, if_neg fun (hkw : k = w) => hk (hkw ▸ hw)]

theorem onBuf {w b : Nat} {f : Buf → Buf} (h : WheelFrame ps ws gs s t) (hp : .wheels ∈ ps := by decide)
    (hw : w ∈ ws := by simp) : WheelFrame ps ws gs s (t.onBuf w b f) := h.onWheel hp hw

theorem bump {r : Reg} {u n : Nat} (h : WheelFrame ps ws gs s t) (hp : .regs ∈ ps := by decide) :
    WheelFrame ps ws gs s (t.bump r u n) :=
  h.trans ⟨(t.bump_only_regs r u n).widen hp, fun _ _ => rfl, fun _ _ => rfl⟩

theorem onTally {k : Nat} {f : Tally → Tally} (h : WheelFrame ps ws gs s t) (hp : .tallies ∈ ps := by decide) :
    WheelFrame ps ws gs s (t.onTally k f) :=
  h.trans ⟨(t.onTally_only k f).widen hp, fun _ _ => rfl, fun _ _ => rfl⟩

theorem onFlog {f : FaultLog → FaultLog} (h : WheelFrame ps ws gs s t) (hp : .flog ∈ ps := by decide) :
    WheelFrame ps ws gs s (t.onFlog f) :=
  h.trans ⟨(t.onFlog_only f).widen hp, fun _ _ => rfl, fun _ _ => rfl⟩

theorem onLute {f : Lute → Lute} (h : WheelFrame ps ws gs s t) (hp : .lute ∈ ps := by decide) :
    WheelFrame ps ws gs s (t.onLute f) :=
  h.trans ⟨(t.onLute_only f).widen hp, fun _ _ => rfl, fun _ _ => rfl⟩

theorem withMem {m : Memories} (h : WheelFrame ps ws gs s t) (hp : .mem ∈ ps := by decide) :
    WheelFrame ps ws gs s { t with mem := m } :=
  h.trans ⟨(t.withMem_only m).widen hp, fun _ _ => rfl, fun _ _ => rfl⟩

theorem ite {c : Prop} [Decidable c] {u : State} (ht : WheelFrame ps ws gs s t) (hu : WheelFrame ps ws gs s u) :
    WheelFrame ps ws gs s (if c then t else u) := by
  split
  · exact ht
  · exact hu

theorem touch {g : Nat} (h : WheelFrame ps ws gs s t) (hp : .saggers ∈ ps := by decide) (hg : g ∈ gs := by simp) :
    WheelFrame ps ws gs s (t.touch g) := h.onSagger hp hg

theorem haltList {g : Nat} (h : WheelFrame ps ws gs s t) (hp : .saggers ∈ ps := by decide) (hg : g ∈ gs := by simp) :
    WheelFrame ps ws gs s (t.haltList g) := h.onSagger hp hg

/-! ## What a frame leaves -/

theorem plan_eq (h : WheelFrame ps ws gs s t) (hp : .plan ∉ ps := by decide) : t.plan = s.plan := h.only .plan hp

theorem flog_eq (h : WheelFrame ps ws gs s t) (hp : .flog ∉ ps := by decide) : t.flog = s.flog := h.only .flog hp

theorem mem_eq (h : WheelFrame ps ws gs s t) (hp : .mem ∉ ps := by decide) : t.mem = s.mem := h.only .mem hp

theorem tally_eq (h : WheelFrame ps ws gs s t) (k : Nat) (hp : .tallies ∉ ps := by decide) : t.tally k = s.tally k :=
  congrArg (fun l : Tab Tally => tget ({} : Tally) l k) (h.only .tallies hp)

theorem wheel_eq (h : WheelFrame ps [] gs s t) (w : Nat) : t.wheel w = s.wheel w := h.wheels w List.not_mem_nil

theorem wheelOwner_eq (h : WheelFrame ps ws gs s t) (w : Nat) (hp : .plan ∉ ps := by decide) :
    t.wheelOwner w = s.wheelOwner w := by
  simp only [State.wheelOwner, State.ownerOfWheel, State.ownerOfShelf, h.plan_eq hp]

theorem homeHere_eq (h : WheelFrame ps ws gs s t) (k : Nat) (hp : .plan ∉ ps := by decide)
    (ht : .tallies ∉ ps := by decide) : t.homeHere k = s.homeHere k := by
  simp only [State.homeHere, State.luted, State.lead, State.device, h.plan_eq hp, h.tally_eq k ht]

/-! ## Fault records -/

theorem raise {r : FaultRec} (h : WheelFrame ps ws gs s t)
    (hp : ∀ p ∈ [Field.saggers, .flog, .lute], p ∈ ps := by decide)
    (hg : r.sagger.toNat < 12 → r.sagger.toNat ∈ gs := by simp) : WheelFrame ps ws gs s (t.raise r) := by
  have hlog := h.onFlog (f := fun f => { f with detected := f.detected ++ [t.stamp r] }) (hp _ (by simp))
  have hreset : ∀ u, WheelFrame ps ws gs s u → WheelFrame ps ws gs s (u.startReset r.sagger.toNat r.code) := by
    intro u hu
    unfold State.startReset
    split
    next hserving => exact hu.onSagger (hp _ (by simp)) (hg hserving.1)
    next => exact hu
  unfold State.raise State.contain
  dsimp only
  split
  · exact hreset _ hlog
  · exact hlog.onLute (hp _ (by simp))
  · exact hlog

theorem fault {cls block detail g unit sub : Nat} (h : WheelFrame ps ws gs s t)
    (hp : ∀ p ∈ [Field.saggers, .flog, .lute], p ∈ ps := by decide) (hg : g ∈ gs := by simp) :
    WheelFrame ps ws gs s (t.fault cls block detail g unit sub) :=
  h.raise hp fun hlt => (sgField_toNat hlt).symm ▸ hg

theorem faultRec {cls block detail g unit sub addr : Nat} {bytes : List Byte} (h : WheelFrame ps ws gs s t)
    (hp : ∀ p ∈ [Field.saggers, .flog, .lute], p ∈ ps := by decide) (hg : g ∈ gs := by simp) :
    WheelFrame ps ws gs s (t.faultRec cls block detail g unit sub addr bytes) :=
  h.raise hp fun hlt => (sgField_toNat hlt).symm ▸ hg

/-! ## The work list and the queue of waiting wheels -/

theorem awaitEntry {w : Nat} (h : WheelFrame ps ws gs s t) (hp : .saggers ∈ ps := by decide)
    (hplan : .plan ∉ ps := by decide) (hg : s.wheelOwner w ∈ gs := by simp) : WheelFrame ps ws gs s (t.awaitEntry w) := by
  unfold State.awaitEntry
  split
  next => exact h
  next g howner =>
    have hw : t.wheelOwner w = g := by simp [State.wheelOwner, howner]
    exact .ite (h.onSagger hp (by rw [← hw, h.wheelOwner_eq w hplan]; exact hg)) h

theorem pushEntry {g : Nat} {e : BitVec 256} (h : WheelFrame ps ws gs s t)
    (hp : ∀ p ∈ [Field.mem, .regs, .saggers], p ∈ ps := by decide) (hg : g ∈ gs := by simp) :
    WheelFrame ps ws gs s (t.pushEntry g e) :=
  ((h.withMem (hp _ (by simp))).bump (hp _ (by simp))).onSagger (hp _ (by simp)) hg

theorem countTaken {g : Nat} (h : WheelFrame ps ws gs s t) (hp : ∀ p ∈ [Field.regs, .saggers], p ∈ ps := by decide)
    (hg : g ∈ gs := by simp) : WheelFrame ps ws gs s (t.countTaken g) :=
  (h.bump (hp _ (by simp))).onSagger (hp _ (by simp)) hg

theorem popEntry {g : Nat} (h : WheelFrame ps ws gs s t)
    (hp : ∀ p ∈ [Field.mem, .regs, .saggers], p ∈ ps := by decide) (hg : g ∈ gs := by simp) :
    WheelFrame ps ws gs s (t.popEntry g) := by
  have htaken := h.countTaken (fun p hmem => hp p (List.mem_cons_of_mem _ hmem)) hg
  cases hwait : (t.sagger g).listWait with
  | nil => exact State.popEntry_of_nil hwait ▸ htaken
  | cons e r => exact State.popEntry_of_cons hwait ▸ (htaken.onSagger (hp _ (by simp)) hg).pushEntry hp hg

end WheelFrame

end Sys2Proof.Machine

namespace Sys2Proof.Machine

/-! # What the operations of a wheel read and leave

The values that the shared operations of chapter 03 leave in a sagger, a wheel, a register or the fault log. -/

/-! ## Buffers and lanes -/

@[simp] theorem Wheel.onBuf_buf (x : Wheel) (b : Nat) (f : Buf → Buf) : (x.onBuf b f).buf b = f (x.buf b) := by
  unfold Wheel.onBuf Wheel.buf
  split <;> rfl

theorem Wheel.onBuf_buf_other (x : Wheel) {b : Nat} (hb : b < 2) (f : Buf → Buf) : (x.onBuf b f).buf (1 - b) = x.buf (1 - b) := by
  obtain rfl | rfl : b = 0 ∨ b = 1 := by omega
  · rfl
  · rfl

@[simp] theorem Wheel.withOlder_buf (x : Wheel) (o b : Nat) : ({ x with older := o } : Wheel).buf b = x.buf b := rfl
@[simp] theorem Wheel.withLanes_buf (x : Wheel) (ls : Tab Lane) (b : Nat) : ({ x with lanes := ls } : Wheel).buf b = x.buf b := rfl

theorem Wheel.freeBuf_lt (x : Wheel) : x.freeBuf < 2 := by
  unfold Wheel.freeBuf
  split <;> decide

/-! ## Saggers -/

/-- A wheel that joins the queue changes nothing of a sagger but the queue (R86). -/
theorem State.awaitEntry_sagger (s : State) (w k : Nat) : ∃ q, (s.awaitEntry w).sagger k = { s.sagger k with waiting := q } := by
  unfold State.awaitEntry
  split
  · exact ⟨_, rfl⟩
  · split
    · rw [State.onSagger_sagger]
      split
      next hk => exact ⟨_, by rw [hk]⟩
      next => exact ⟨_, rfl⟩
    · exact ⟨_, rfl⟩

/-- A record changes nothing of a sagger but whether it resets, and why (R411, R464). -/
theorem State.raise_sagger (s : State) (r : FaultRec) (k : Nat) :
    ∃ st cause, (s.raise r).sagger k = { s.sagger k with st := st, cause := cause } := by
  unfold State.raise State.contain State.startReset
  dsimp only
  split
  · split
    · rw [State.onSagger_sagger]
      split
      next hk => exact ⟨_, _, by rw [hk]; rfl⟩
      next => exact ⟨_, _, rfl⟩
    · exact ⟨_, _, rfl⟩
  · exact ⟨_, _, rfl⟩
  · exact ⟨_, _, rfl⟩

@[simp] theorem State.awaitEntry_list (s : State) (w k : Nat) : ((s.awaitEntry w).sagger k).list = (s.sagger k).list := by
  obtain ⟨q, h⟩ := s.awaitEntry_sagger w k
  rw [h]

@[simp] theorem State.awaitEntry_listHalt (s : State) (w k : Nat) :
    ((s.awaitEntry w).sagger k).listHalt = (s.sagger k).listHalt := by
  obtain ⟨q, h⟩ := s.awaitEntry_sagger w k
  rw [h]

@[simp] theorem State.raise_listHalt (s : State) (r : FaultRec) (k : Nat) :
    ((s.raise r).sagger k).listHalt = (s.sagger k).listHalt := by
  obtain ⟨st, cause, h⟩ := s.raise_sagger r k
  rw [h]

/-- Progress is noted at the sagger's detector only (R344). -/
theorem State.touch_sagger (s : State) (g k : Nat) :
    ∃ n armed, (s.touch g).sagger k = { s.sagger k with progress := n, dlArmed := armed } := by
  rw [State.touch, State.onSagger_sagger]
  split
  next hk => exact ⟨_, _, by rw [hk]⟩
  next => exact ⟨_, _, rfl⟩

@[simp] theorem State.touch_list (s : State) (g k : Nat) : ((s.touch g).sagger k).list = (s.sagger k).list := by
  obtain ⟨n, armed, h⟩ := s.touch_sagger g k
  rw [h]

/-- The running step's image does not depend on progress. -/
@[simp] theorem State.touch_layer (s : State) (g k l : Nat) : (s.touch g).layer k l = s.layer k l := by
  obtain ⟨n, armed, h⟩ := s.touch_sagger g k
  simp only [State.layer, State.stepImage, State.image?, h]

@[simp] theorem Sagger.onFlight_list (x : Sagger) (tag : Nat) (f : Nat → Nat) : (x.onFlight tag f).list = x.list := by
  unfold Sagger.onFlight
  split <;> rfl

@[simp] theorem State.countTaken_cons (s : State) (g : Nat) :
    ((s.countTaken g).sagger g).list.cons = (s.sagger g).list.cons + 1 := by simp [State.countTaken]

/-- The entry is counted as taken whether or not another one enters the ring (R85). -/
@[simp] theorem State.popEntry_cons (s : State) (g : Nat) : ((s.popEntry g).sagger g).list.cons = (s.sagger g).list.cons + 1 := by
  cases hwait : (s.sagger g).listWait with
  | nil => rw [State.popEntry_of_nil hwait, State.countTaken_cons]
  | cons e r =>
    rw [State.popEntry_of_cons hwait, State.pushEntry]
    simp [State.putHbmNum]

/-! ## The fault log -/

/-- A record waits to enter the log; the log is otherwise as it was (R463). -/
theorem State.raise_flog (s : State) (r : FaultRec) :
    (s.raise r).flog = { s.flog with detected := s.flog.detected ++ [s.stamp r] } := by
  unfold State.raise State.contain State.startReset
  dsimp only
  split
  · split <;> rfl
  · rfl
  · rfl

theorem State.detects_raise (s : State) (r : FaultRec) : Detects r.code s (s.raise r) := by
  rw [Detects, State.raise_flog]
  exact ⟨by simp [State.stamp], rfl⟩

/-- Only the log decides which record has been detected. -/
theorem Detects.of_flog_eq {c : BitVec 16} {s t u v : State} (h : Detects c t u) (hs : t.flog = s.flog) (hv : v.flog = u.flog) :
    Detects c s v := by
  rw [Detects, hv, ← hs]
  exact h

end Sys2Proof.Machine

namespace Sys2Proof.Machine

/-! # Cancellation and hang of a wheel (O14) -/

/-- A cancellation reaches both buffers alike (R84). -/
@[simp] theorem Wheel.cancelSlot_buf (x : Wheel) (slot : BitVec 16) (b : Nat) :
    (x.cancelSlot slot).buf b = (x.buf b).cancel slot := by
  unfold Wheel.buf
  split <;> rfl

@[simp] theorem Wheel.mem_cancelSlot_cancelled (x : Wheel) (slot : BitVec 16) : slot ∈ (x.cancelSlot slot).cancelled := by
  by_cases h : slot ∈ x.cancelled <;> simp [Wheel.cancelSlot, h]

/-- A wheel with a running buffer that has not reported yet sets its status bit and raises one record (R80). -/
theorem execWheelHang_of_run {w : WheelIx} {s : State}
    (hrun : (s.wheel w.val).buf0.st = .run ∨ (s.wheel w.val).buf1.st = .run) (hhang : (s.wheel w.val).hang = false) :
    ∃ g b, exec (.wheelHang w) s = .next ((s.onWheel w.val fun x => { x with hang := true }).fault 3 1 0x48 g w.val b) :=
  ⟨_, _, State.when_true _ _ (by simpa [hhang] using hrun)⟩

/-- Settles O14: SLOT_CANCEL_WHEEL is one change of the wheel and one count, and WHEEL_HANG is one bit and one record. -/
theorem cancellationAndHangOfAWheel : Obligations.CancellationAndHangOfAWheel := by
  refine ⟨fun w slot s => ?cancel, fun w s hrun hhang => ?hang⟩
  case cancel =>
    have hframe : WheelFrame [.wheels, .regs] [w.val] [] s ((s.onWheel w.val (·.cancelSlot slot)).bump .whlCancelJobs w.val
        ((s.wheel w.val).buf0.cancelCount slot + (s.wheel w.val).buf1.cancelCount slot)) := WheelFrame.refl.onWheel.bump
    refine ⟨_, rfl, by simp, fun b i j hj => ?jobs, fun b v => ?staged, fun b m => ?merges, fun b => ?st, hframe.only,
      hframe.wheels, (s.onWheel w.val (·.cancelSlot slot)).bump_regsOnly _ (by simp)⟩
    case jobs => simp [Buf.cancel, hj]
    case staged => simp [Buf.cancel]
    case merges => simp [Buf.cancel]
    case st => simp [Buf.cancel]
  case hang =>
    obtain ⟨g, b, hexec⟩ := execWheelHang_of_run hrun hhang
    have hset : WheelFrame [.wheels, .saggers, .flog, .lute] [w.val] [g] s (s.onWheel w.val fun x => { x with hang := true }) :=
      WheelFrame.refl.onWheel
    have hfault : WheelFrame [.saggers, .flog, .lute] [] [g] (s.onWheel w.val fun x => { x with hang := true })
        ((s.onWheel w.val fun x => { x with hang := true }).fault 3 1 0x48 g w.val b) := WheelFrame.refl.fault
    refine ⟨_, hexec, by rw [hfault.wheel_eq]; simp, ?detects, hset.fault.only, hset.fault.wheels⟩
    case detects => exact (State.detects_raise _ _).of_flog_eq rfl rfl

end Sys2Proof.Machine

namespace Sys2Proof.Machine

/-! # The work list (O8, O9) -/

/-! ## LIST_WRITE (R85) -/

/-- With room in the ring and none waiting, an entry is written. -/
theorem execListWrite_of_room {g : SaggerIx} {e : BitVec 256} {s : State} (hserve : (s.sagger g.val).st = .serving)
    (hlist : s.listSize g.val ≠ 0) (hwait : (s.sagger g.val).listWait = [])
    (hroom : (s.sagger g.val).list.used < s.listSize g.val) : exec (.listWrite g e) s = .next (s.pushEntry g.val e) := by
  have hwrite : s.listWrite g.val e = s.pushEntry g.val e := by simp [State.listWrite, hwait, hroom]
  rw [← hwrite]
  exact State.when_true _ _ (by simp [hserve, hlist])

/-- Behind a waiting entry, or with the ring full, an entry waits. -/
theorem execListWrite_of_full {g : SaggerIx} {e : BitVec 256} {s : State} (hserve : (s.sagger g.val).st = .serving)
    (hlist : s.listSize g.val ≠ 0)
    (hfull : (s.sagger g.val).listWait ≠ [] ∨ s.listSize g.val ≤ (s.sagger g.val).list.used) :
    exec (.listWrite g e) s = .next (s.onSagger g.val fun x => { x with listWait := x.listWait ++ [e] }) := by
  have hwrite : s.listWrite g.val e = s.onSagger g.val fun x => { x with listWait := x.listWait ++ [e] } := by
    refine if_neg fun hroom => ?_
    simp only [Bool.and_eq_true, List.isEmpty_iff, decide_eq_true_eq] at hroom
    rcases hfull with h | h
    · exact h hroom.1
    · exact Nat.not_lt.2 h hroom.2
  rw [← hwrite]
  exact State.when_true _ _ (by simp [hserve, hlist])

/-- The entry reads back at its place. -/
theorem State.pushEntry_hbmNum (s : State) (g : Nat) (e : BitVec 256) :
    (s.pushEntry g e).hbmNum (s.listAddr g (s.sagger g).list.prod) 32 = e.toNat := by
  show mnum (mputNum s.mem.hbm _ 32 e.toNat) _ 32 = e.toNat
  exact (mnum_mputNum ..).trans (Nat.mod_eq_of_lt e.isLt)

/-- A number written changes no byte outside its own. -/
theorem outside_mputNum (m : Mem) (a n v : Nat) : Outside a n m (mputNum m a n v) := fun x hx =>
  mget_mwrite_of_outside m a x _ (by rwa [leBytes_length])

/-! ## ENTRY_TAKE (R86, R91, R93) -/

/-- The entry has left the list and the wheel the queue of waiting wheels. -/
def State.handOver (s : State) (g w : Nat) : State :=
  (s.popEntry g).onSagger g fun x => { x with waiting := x.waiting.filter (· != w) }

/-- A buffer that has taken an entry of sagger `g` (R80, R86). -/
def State.takenBuf (s : State) (g raw : Nat) : Buf :=
  { st := .fill, sagger := g, raw := BitVec.ofNat 256 raw, entry := entryOf raw, holds := s.takeHolds (entryOf raw)
    toks := (s.tokens (entryOf raw).tokList.toNat (entryOf raw).tokN).map fun t => (t.1, t.2.1), s := (entryOf raw).shift }

/-- Wheel `w` has the entry in buffer `b`. -/
def State.putTaken (s : State) (g w b raw : Nat) : State :=
  s.onWheel w fun y => { y.onBuf b fun _ => s.takenBuf g raw with older := if (y.buf (1 - b)).st = .free then b else y.older }

@[simp] theorem State.handOver_cons (s : State) (g w : Nat) :
    ((s.handOver g w).sagger g).list.cons = (s.sagger g).list.cons + 1 := by simp [State.handOver]

theorem State.putTaken_buf (s : State) (g w b raw : Nat) : ((s.putTaken g w b raw).wheel w).buf b = s.takenBuf g raw := by
  simp [State.putTaken]

theorem State.putTaken_buf_other (s : State) (g w raw : Nat) {b : Nat} (hb : b < 2) :
    ((s.putTaken g w b raw).wheel w).buf (1 - b) = (s.wheel w).buf (1 - b) := by
  simp [State.putTaken, Wheel.onBuf_buf_other _ hb]

section
variable {s : State} {g w b raw : Nat} (h : s.intakeBad g raw = none)
  (hmix : (s.sagger g).mixes (s.layer g (entryOf raw).layer).inFmt = false)
include h hmix

/-- An entry that passes the checks goes into the buffer, and is in flight (R122). -/
theorem State.takeEntry_of_good : s.takeEntry g w b raw = ((((s.handOver g w).putTaken g w b raw).onSagger g
      (·.onFlight (s.layer g (entryOf raw).layer).inFmt (· + 1))).awaitEntry w).touch g := by
  simp [State.takeEntry, State.handOver, State.putTaken, State.takenBuf, h, hmix]

theorem State.takeEntry_good_frame :
    WheelFrame [.saggers, .wheels, .mem, .regs] [w] [g, s.wheelOwner w] s (s.takeEntry g w b raw) := by
  rw [State.takeEntry_of_good h hmix]
  exact WheelFrame.refl.popEntry.onSagger.onWheel.onSagger.awaitEntry.touch

theorem State.takeEntry_good_cons : ((s.takeEntry g w b raw).sagger g).list.cons = (s.sagger g).list.cons + 1 := by
  rw [State.takeEntry_of_good h hmix]
  simp [State.putTaken]

/-- What follows the take of the buffer leaves the wheel as it is. -/
theorem State.takeEntry_good_wheel : (s.takeEntry g w b raw).wheel w = ((s.handOver g w).putTaken g w b raw).wheel w := by
  have hafter : WheelFrame [.saggers] [] [g, ((s.handOver g w).putTaken g w b raw).wheelOwner w]
      ((s.handOver g w).putTaken g w b raw) (s.takeEntry g w b raw) := by
    rw [State.takeEntry_of_good h hmix]
    exact WheelFrame.refl.onSagger.awaitEntry.touch
  exact hafter.wheel_eq w

end

section
variable {s : State} {g w b raw d : Nat} (h : s.intakeBad g raw = some d)
include h

/-- An entry that fails a check of R93 leaves the buffer free, halts the list and is recorded. -/
theorem State.takeEntry_of_bad :
    s.takeEntry g w b raw = ((s.handOver g w).rejectEntry g w b d raw).awaitEntry w := by
  simp [State.takeEntry, State.handOver, h]

theorem State.takeEntry_bad_frame :
    WheelFrame [.saggers, .mem, .regs, .flog, .lute] [] [g, s.wheelOwner w] s (s.takeEntry g w b raw) := by
  rw [State.takeEntry_of_bad h]
  exact WheelFrame.refl.popEntry.onSagger.haltList.faultRec.awaitEntry

theorem State.takeEntry_bad_listHalt : ((s.takeEntry g w b raw).sagger g).listHalt = true := by
  rw [State.takeEntry_of_bad h]
  simp [State.rejectEntry, State.faultRec, State.haltList]

theorem State.takeEntry_bad_detects : Detects (faultCode 3 1 d) s (s.takeEntry g w b raw) := by
  have hhalted : WheelFrame [.saggers, .mem, .regs] [] [g] s ((s.handOver g w).haltList g) :=
    WheelFrame.refl.popEntry.onSagger.haltList
  have hawait : WheelFrame [.saggers] [] [((s.handOver g w).rejectEntry g w b d raw).wheelOwner w]
      ((s.handOver g w).rejectEntry g w b d raw) (s.takeEntry g w b raw) := by
    rw [State.takeEntry_of_bad h]
    exact WheelFrame.refl.awaitEntry
  exact (State.detects_raise _ _).of_flog_eq hhalted.flog_eq hawait.flog_eq

end

/-- ENTRY_TAKE at a TILE entry with a taker. -/
theorem execEntryTake_of_tile {g : SaggerIx} {s : State} {w : Nat} (hserve : (s.sagger g.val).st = .serving)
    (hhalt : (s.sagger g.val).listHalt = false) (hused : (s.sagger g.val).list.used ≠ 0)
    (hkind : entryKind (s.listHead g.val) = 1) (htaker : s.takerOf g.val (s.listHead g.val) = some w) :
    exec (.entryTake g) s = .next (s.takeEntry g.val w (s.wheel w).freeBuf (s.listHead g.val)) := by
  show execEntryTake g s = _
  simp [execEntryTake, hserve, hhalt, hused, hkind, htaker]

/-- ENTRY_TAKE at a NOP entry. -/
theorem execEntryTake_of_nop {g : SaggerIx} {s : State} (hserve : (s.sagger g.val).st = .serving)
    (hhalt : (s.sagger g.val).listHalt = false) (hused : (s.sagger g.val).list.used ≠ 0) (hnop : s.listHead g.val = 3) :
    exec (.entryTake g) s = .next ((s.popEntry g.val).touch g.val) := by
  have hkind : entryKind 3 = 3 := by decide
  have hbad : nopBad 3 = false := by decide
  show execEntryTake g s = _
  simp [execEntryTake, hserve, hhalt, hused, hnop, hkind, hbad]

/-! ## FENCE_PASS (R90) -/

/-- CONS of tally `k` after a consuming wait for `target` at its home (R336). -/
def State.consumed (s : State) (k : Nat) (target : BitVec 48) : State :=
  s.onTally k fun t => { t with cons := consumeTo t.cons target }

section
variable {g : SaggerIx} {s : State} {k : Nat} (hk : k = tallyKey g.val (entryTally (s.listHead g.val)))
  (hserve : (s.sagger g.val).st = .serving) (hhalt : (s.sagger g.val).listHalt = false)
  (hused : (s.sagger g.val).list.used ≠ 0) (hkind : entryKind (s.listHead g.val) = 2)
  (hform : fenceBad (s.listHead g.val) = false) (hwait : (s.tally k).waitBad (fenceTarget (s.listHead g.val)) true = false)
include hk hserve hhalt hused hkind hform hwait

/-- A fence whose tally has reached TARGET waits, consuming, and is taken. -/
theorem execFencePass_of_reached (hhome : s.homeHere k = true)
    (hreached : reached (s.tally k).prod (fenceTarget (s.listHead g.val)) = true) :
    exec (.fencePass g) s = .next (((s.consumed k (fenceTarget (s.listHead g.val))).popEntry g.val).touch g.val) := by
  subst hk
  show execFencePass g s = _
  simp [execFencePass, State.consumeTally, State.consumed, hserve, hhalt, hused, hkind, hform, hwait, hhome, hreached]

/-- A fence whose tally has not reached TARGET stays. -/
theorem execFencePass_of_not_reached (hreached : reached (s.tally k).prod (fenceTarget (s.listHead g.val)) = false) :
    exec (.fencePass g) s = .next s := by
  subst hk
  show execFencePass g s = _
  simp [execFencePass, hserve, hhalt, hused, hkind, hform, hwait, hreached]

end

/-! ## The statements -/

/-- Settles O9: a NOP is a take of the head entry and nothing more. -/
theorem nopEntriesOnlyCount : Obligations.NopEntriesOnlyCount := by
  intro g s hserve hhalt hused hnop
  have hframe : WheelFrame [.saggers, .mem, .regs] [] [g.val] s ((s.popEntry g.val).touch g.val) := WheelFrame.refl.popEntry.touch
  refine ⟨_, execEntryTake_of_nop hserve hhalt hused hnop, by simp, hframe.only, hframe.saggers, fun hwait => ?_⟩
  have hnomem : WheelFrame [.saggers, .regs] [] [g.val] s ((s.countTaken g.val).touch g.val) := WheelFrame.refl.countTaken.touch
  exact State.popEntry_of_nil hwait ▸ hnomem.only

/-- Settles O8: the ring's writer, the two ends of a take, and the fence, each by its equation and its frame. -/
theorem entriesAreListedTakenOrRejectedWhole : Obligations.EntriesAreListedTakenOrRejectedWhole := by
  refine ⟨fun g e s hserve hlist => ⟨fun hwait hroom => ?room, fun hfull => ?full⟩,
    fun g s w hserve hhalt hused hkind htaker => ⟨fun hgood hmix => ?taken, fun d hbad => ?rejected⟩,
    fun g s k hk hserve hhalt hused hkind hform hwait hhome => ⟨fun hreached => ?passes, fun hreached => ?stays⟩⟩
  case room =>
    have hframe : WheelFrame [.mem, .regs, .saggers] [] [g.val] s (s.pushEntry g.val e) := WheelFrame.refl.pushEntry
    refine ⟨_, execListWrite_of_room hserve hlist hwait hroom, s.pushEntry_hbmNum _ _, ?_, rfl, outside_mputNum _ _ _ _,
      hframe.only, hframe.saggers, ?_⟩
    · simp [State.pushEntry, State.putHbmNum]
    · exact State.bump_regsOnly _ 32 (by simp)
  case full =>
    have hframe : WheelFrame [.saggers] [] [g.val] s (s.onSagger g.val fun x => { x with listWait := x.listWait ++ [e] }) :=
      WheelFrame.refl.onSagger
    exact ⟨_, execListWrite_of_full hserve hlist hfull, hframe.only, hframe.saggers, by simp⟩
  case taken =>
    have hframe := State.takeEntry_good_frame (w := w) (b := (s.wheel w).freeBuf) hgood hmix
    have hwheel := State.takeEntry_good_wheel (w := w) (b := (s.wheel w).freeBuf) hgood hmix
    have hhand : WheelFrame [.saggers, .mem, .regs] [] [g.val] s (s.handOver g.val w) := WheelFrame.refl.popEntry.onSagger
    refine ⟨_, execEntryTake_of_tile hserve hhalt hused hkind htaker, State.takeEntry_good_cons hgood hmix, ?st, ?entry, ?other,
      hframe.only, hframe.wheels, hframe.saggers⟩
    case st => rw [hwheel, State.putTaken_buf]; rfl
    case entry => rw [hwheel, State.putTaken_buf]; rfl
    case other => rw [hwheel, State.putTaken_buf_other _ _ _ _ (Wheel.freeBuf_lt _), hhand.wheel_eq]
  case rejected =>
    have hframe := State.takeEntry_bad_frame (w := w) (b := (s.wheel w).freeBuf) hbad
    exact ⟨_, execEntryTake_of_tile hserve hhalt hused hkind htaker, State.takeEntry_bad_listHalt hbad,
      State.takeEntry_bad_detects hbad, hframe.only, hframe.saggers⟩
  case passes =>
    have hframe : WheelFrame [.saggers, .tallies, .mem, .regs] [] [g.val] s
        (((s.consumed k (fenceTarget (s.listHead g.val))).popEntry g.val).touch g.val) := WheelFrame.refl.onTally.popEntry.touch
    have hafter : WheelFrame [.saggers, .mem, .regs] [] [g.val] (s.consumed k (fenceTarget (s.listHead g.val)))
        (((s.consumed k (fenceTarget (s.listHead g.val))).popEntry g.val).touch g.val) := WheelFrame.refl.popEntry.touch
    refine ⟨_, execFencePass_of_reached hk hserve hhalt hused hkind hform hwait hhome hreached, by simp [State.consumed], ?tally,
      hframe.only, fun i hi => ?others, hframe.saggers⟩
    case tally => rw [hafter.tally_eq, State.consumed]; simp
    case others =>
      rw [hafter.tally_eq, State.consumed, State.onTally_tally, if_neg]
      simpa using hi
  case stays => exact execFencePass_of_not_reached hk hserve hhalt hused hkind hform hwait hreached

end Sys2Proof.Machine

namespace Sys2Proof.Machine

/-! # Lanes and their jobs (O11) -/

/-! ## Lanes -/

theorem Wheel.onBuf_lanes (x : Wheel) (b : Nat) (f : Buf → Buf) : (x.onBuf b f).lanes = x.lanes := by
  unfold Wheel.onBuf
  split <;> rfl

theorem Wheel.lane_withLanes_tset (x : Wheel) (ls : Tab Lane) (l k : Nat) (v : Lane) :
    ({ x with lanes := tset ls l v } : Wheel).lane k = if k = l then v else tget {} ls k := tget_tset ..

/-- Taking buffer `b` off the lanes leaves a lane that is free as it is. -/
theorem tget_freeLanes (ls : Tab Lane) (b k : Nat) (h : (tget ({} : Lane) ls k).job = none) :
    tget ({} : Lane) (freeLanes ls b) k = tget {} ls k := by
  induction ls with
  | nil => rfl
  | cons c r ih =>
    obtain ⟨a, x⟩ := c
    by_cases ha : a = k
    · have hx : x.job = none := by simpa [tget, ha] using h
      simp [freeLanes, tget, ha, hx]
    · have hr := ih (by simpa [tget, ha] using h)
      by_cases hx : (x.job.any fun p => p.1 == b) = true
      · simpa [freeLanes, tget, ha, hx] using hr
      · simpa [freeLanes, tget, ha, hx] using hr

/-! ## LANE_TAKE_JOB (R69, R79) -/

/-- Lane `lane` of wheel `w` has job `i` of buffer `b`. -/
def State.laneTaken (s : State) (w lane b i : Nat) (j : Job) : State :=
  s.onWheel w fun x => { x.onBuf b (·.startJob i lane j) with lanes := tset x.lanes lane (((s.wheel w).buf b).laneOf b i j) }

/-- A free lane takes the job that falls to it. -/
theorem execLaneTakeJob_of_job {w : WheelIx} {lane : LaneIx} {s : State} {b i : Nat} {j : Job}
    (htake : (s.wheel w.val).laneJob lane.val = some (b, i)) (hj : ((s.wheel w.val).buf b).jobs[i]? = some j)
    (hfree : ((s.wheel w.val).lane lane.val).job = none) (hsaving : (s.wheel w.val).saving = none)
    (hmay : ((s.wheel w.val).buf b).mayStart j = true) :
    exec (.laneTakeJob w lane) s = .next ((s.laneTaken w.val lane.val b i j).touch ((s.wheel w.val).buf b).sagger) := by
  show execLaneTakeJob w lane s = _
  simp [execLaneTakeJob, State.when, State.laneTaken, htake, hj, hfree, hsaving, hmay]

/-- The job that a lane takes is running on it. -/
theorem Buf.startJob_job {x : Buf} {i : Nat} {j : Job} (lane : Nat) (hj : x.jobs[i]? = some j) :
    (x.startJob i lane j).jobs[i]? = some { j with st := .running lane } := by
  have hi : i < x.jobs.length := (List.getElem?_eq_some_iff.1 hj).1
  exact List.getElem?_set_self hi

theorem State.laneTaken_buf (s : State) (w lane b i : Nat) (j : Job) :
    ((s.laneTaken w lane b i j).wheel w).buf b = ((s.wheel w).buf b).startJob i lane j := by simp [State.laneTaken]

theorem State.laneTaken_lane (s : State) (w lane b i k : Nat) (j : Job) :
    ((s.laneTaken w lane b i j).wheel w).lane k =
      if k = lane then ((s.wheel w).buf b).laneOf b i j else (s.wheel w).lane k := by
  rw [State.laneTaken, State.onWheel_wheel, if_pos rfl]
  exact Wheel.lane_withLanes_tset ..

/-! ## Conversion (R102, R107, R108) -/

/-- A value that fits 32 bits is not clamped (R109). -/
theorem p32Clamp_of_fits {p : Int} (h : p.natAbs ≤ p32Max) : p32Clamp p = p := by
  unfold p32Clamp
  omega

/-- Staging values that all fit adds them as they are. -/
theorem Buf.stage_staged_of_fits (x : Buf) (tok quarter : Nat) {ps : List Int} (h : ∀ p ∈ ps, p.natAbs ≤ p32Max) :
    (x.stage tok quarter ps).staged = x.staged ++ (List.range 4).map fun o => (tok, 4 * quarter + o, ps.getD o 0) := by
  have hclamp : ∀ o, p32Clamp (ps.getD o 0) = ps.getD o 0 := by
    intro o
    refine p32Clamp_of_fits ?_
    rw [List.getD_eq_getElem?_getD]
    cases ho : ps[o]? with
    | none => exact Nat.zero_le _
    | some p => exact h p (List.mem_of_getElem? ho)
  simp only [Buf.stage, hclamp]

section
variable {s : State} {w b tok quarter : Nat} {vs : List Dyad} {x : Buf} (hx : x = (s.wheel w).buf b) {ps : List Int}
  (hps : ps = convert (s.layer x.sagger x.entry.layer).pbase x.s vs)
include hx hps

/-- Results that all fit are staged. -/
theorem State.convertJob_of_fits (h : ∀ p ∈ ps, p.natAbs ≤ p32Max) :
    s.convertJob w b tok quarter vs = s.onBuf w b (·.stage tok quarter ps) := by
  subst hx
  have hnone : (ps.filter fun p => decide (p.natAbs > p32Max)).length = 0 := by
    rw [List.length_eq_zero_iff, List.filter_eq_nil_iff]
    simpa using h
  simp [State.convertJob, ← hps, hnone]

/-- A result that does not fit re-fires the entry, while its shift is below 31. -/
theorem State.convertJob_of_refires (h : ∃ p ∈ ps, p32Max < p.natAbs) (hs : x.s < 31) :
    s.convertJob w b tok quarter vs =
      (s.onWheel w fun y => { y.onBuf b Buf.refire with lanes := freeLanes y.lanes b }).bump .sgrAccRefire x.sagger 1 := by
  subst hx
  have hsome : (ps.filter fun p => decide (p.natAbs > p32Max)).length ≠ 0 := by
    rw [Ne, List.length_eq_zero_iff, List.filter_eq_nil_iff]
    simpa using h
  simp [State.convertJob, ← hps, hsome, hs]

end

/-! ## JOB_END (R107) -/

/-- Job `i` of buffer `b` has ended, and its lane is free. -/
def State.jobEnded (s : State) (w lane b i : Nat) (j : Job) : State :=
  (((s.bump .whlLaneBeats w (jobBeats ((s.wheel w).buf b) j).1).bump .whlBankBeats w
    (jobBeats ((s.wheel w).buf b) j).2).touch ((s.wheel w).buf b).sagger).onWheel w fun y =>
      { y.onBuf b fun x => { x with jobs := x.jobs.set i { j with st := .ended } } with lanes := tset y.lanes lane {} }

/-- The end of an unsplit job. -/
theorem execJobEnd_of_unsplit {w : WheelIx} {lane : LaneIx} {s : State} {b i : Nat} {j : Job} {x : Buf}
    (hlane : ((s.wheel w.val).lane lane.val).job = some (b, i)) (hx : x = (s.wheel w.val).buf b)
    (hj : x.jobs[i]? = some j) (hsplit : j.splits ≤ 1) (hsaving : (s.wheel w.val).saving = none) (hrun : x.st = .run) :
    exec (.jobEnd w lane) s = .next ((s.jobEnded w.val lane.val b i j).convertJob w.val b j.tok j.quarter
      (((s.wheel w.val).lane lane.val).results (s.layer x.sagger x.entry.layer).pbase)) := by
  subst hx
  show execJobEnd w lane s = _
  simp [execJobEnd, State.when, State.endJob, State.jobEnded, hlane, hj, hsplit, hsaving, hrun]

theorem State.jobEnded_buf (s : State) (w lane b i : Nat) (j : Job) :
    ((s.jobEnded w lane b i j).wheel w).buf b =
      { (s.wheel w).buf b with jobs := ((s.wheel w).buf b).jobs.set i { j with st := .ended } } := by
  simp [State.jobEnded, State.touch]

theorem State.jobEnded_layer (s : State) (w lane b i g l : Nat) (j : Job) :
    (s.jobEnded w lane b i j).layer g l = s.layer g l :=
  ((s.bump .whlLaneBeats w (jobBeats ((s.wheel w).buf b) j).1).bump .whlBankBeats w
    (jobBeats ((s.wheel w).buf b) j).2).touch_layer ((s.wheel w).buf b).sagger g l

theorem State.jobEnded_lane (s : State) (w lane b i : Nat) (j : Job) :
    ((s.jobEnded w lane b i j).wheel w).lane lane = {} := by
  rw [State.jobEnded, State.onWheel_wheel, if_pos rfl]
  exact (tget_tset ..).trans (if_pos rfl)

/-- The end of a job counts its beats only (R97). -/
theorem State.jobEnded_reg (s : State) (w lane b i : Nat) (j : Job) {r : Reg} (u : Nat) (hlane : r ≠ .whlLaneBeats)
    (hbank : r ≠ .whlBankBeats) : (s.jobEnded w lane b i j).reg r u = s.reg r u := by
  simp [State.jobEnded, State.touch, State.reg_bump, hlane, hbank]

/-- Settles O11: a lane takes its job in one change of the wheel; a job ends in one more, whose results are then staged or
re-fire the entry. -/
theorem lanesRunAndEndJobs : Obligations.LanesRunAndEndJobs := by
  refine ⟨fun w lane s b i j htake hj hfree hsaving hmay => ?take,
    fun w lane s b i j x hb hlane hx hj hsplit hsaving hrun ps hps => ?end_⟩
  case take =>
    have hframe : WheelFrame [.wheels, .saggers] [w.val] [((s.wheel w.val).buf b).sagger] s
        ((s.laneTaken w.val lane.val b i j).touch ((s.wheel w.val).buf b).sagger) := WheelFrame.refl.onWheel.touch
    have hwheel : ((s.laneTaken w.val lane.val b i j).touch ((s.wheel w.val).buf b).sagger).wheel w.val =
        (s.laneTaken w.val lane.val b i j).wheel w.val := rfl
    refine ⟨_, execLaneTakeJob_of_job htake hj hfree hsaving hmay, ?_, ?_, ?_, ?_, hframe.only, hframe.wheels, fun k hk => ?_⟩
    · rw [hwheel, State.laneTaken_lane, if_pos rfl]; rfl
    · rw [hwheel, State.laneTaken_buf, Buf.startJob_job _ hj]
    · rw [hwheel, State.laneTaken_buf]; rfl
    · rw [hwheel, State.laneTaken_lane, if_pos rfl]; rfl
    · have hne : k ≠ lane.val := by simpa using hk
      show (State.wheel _ w.val).lane k = _
      rw [hwheel, State.laneTaken_lane, if_neg hne]
  case end_ =>
    have hexec := execJobEnd_of_unsplit hlane hx hj hsplit hsaving hrun
    have hbuf : ((s.jobEnded w.val lane.val b i j).wheel w.val).buf b =
        { x with jobs := x.jobs.set i { j with st := .ended } } := by rw [State.jobEnded_buf, ← hx]
    have hps' : ps = convert ((s.jobEnded w.val lane.val b i j).layer x.sagger x.entry.layer).pbase x.s
        (((s.wheel w.val).lane lane.val).results (s.layer x.sagger x.entry.layer).pbase) := by rw [State.jobEnded_layer, hps]
    have hlaneFree := s.jobEnded_lane w.val lane.val b i j
    refine ⟨fun hfits => ?fits, fun hhigh hs => ?refires⟩
    case fits =>
      have hconv := State.convertJob_of_fits (tok := j.tok) (quarter := j.quarter) hbuf.symm hps' hfits
      have hframe : WheelFrame [.wheels, .saggers, .regs] [w.val] [((s.wheel w.val).buf b).sagger] s
          ((s.jobEnded w.val lane.val b i j).onBuf w.val b (·.stage j.tok j.quarter ps)) :=
        WheelFrame.refl.bump.bump.touch.onWheel.onBuf
      refine ⟨_, hexec.trans (congrArg _ hconv), ?_, ?_, hframe.only, hframe.wheels⟩
      · simpa [State.onBuf, Wheel.lane, Wheel.onBuf_lanes] using hlaneFree
      · simp only [State.onBuf, State.onWheel_wheel, if_pos, Wheel.onBuf_buf, hbuf]
        exact Buf.stage_staged_of_fits _ _ _ hfits
    case refires =>
      have hconv := State.convertJob_of_refires (tok := j.tok) (quarter := j.quarter) hbuf.symm hps' hhigh hs
      have hframe : WheelFrame [.wheels, .saggers, .regs] [w.val] [((s.wheel w.val).buf b).sagger] s
          (((s.jobEnded w.val lane.val b i j).onWheel w.val fun y =>
            { y.onBuf b Buf.refire with lanes := freeLanes y.lanes b }).bump .sgrAccRefire x.sagger 1) :=
        WheelFrame.refl.bump.bump.touch.onWheel.onWheel.bump
      refine ⟨_, hexec.trans (congrArg _ hconv), ?_, ?_, ?_, ?_, hframe.only, hframe.wheels⟩
      · rw [State.bump_wheel, State.onWheel_wheel, if_pos rfl]
        exact (tget_freeLanes _ b _ (congrArg Lane.job hlaneFree)).trans hlaneFree
      · simp [hbuf, Buf.refire]
      · simp [hbuf, Buf.refire]
      · rw [State.reg_bump, if_pos ⟨rfl, rfl⟩, State.onWheel_reg, State.jobEnded_reg _ _ _ _ _ _ _ (by decide) (by decide)]
        rfl

end Sys2Proof.Machine

namespace Sys2Proof.Machine

/-! # The end of an entry (O12) -/

/-! ## The tally of an entry (R81, R336, R337) -/

theorem tallySagger_tallyKey {g i : Nat} (hi : i < 4096) : tallySagger (tallyKey g i) = g := by
  unfold tallySagger tallyKey
  omega

@[simp] theorem State.tallyTouch_tally (s : State) (k j : Nat) : (s.tallyTouch k).tally j = s.tally j := by
  unfold State.tallyTouch
  split <;> rfl

namespace WheelFrame

variable {ps : List Field} {ws gs : List Nat} {s t : State} {k n : Nat} {agent : BitVec 13}

theorem tallyFault {detail by_ : Nat} (h : WheelFrame ps ws gs s t)
    (hp : ∀ p ∈ [Field.saggers, .flog, .lute], p ∈ ps := by decide) (hg : by_ ∈ gs := by simp) :
    WheelFrame ps ws gs s (t.tallyFault k detail by_) := h.fault hp hg

theorem sendTally {op flag target : Nat} (h : WheelFrame ps ws gs s t) (hp : .lute ∈ ps := by decide) :
    WheelFrame ps ws gs s (t.sendTally k op flag agent n target) := by
  unfold State.sendTally State.sendLute
  exact h.onLute hp

section
variable (hk : tallySagger k < 12) (hg : tallySagger k ∈ gs)
include hk hg

theorem tallyTouch (h : WheelFrame ps ws gs s t) (hp : .saggers ∈ ps := by decide) : WheelFrame ps ws gs s (t.tallyTouch k) := by
  unfold State.tallyTouch
  rw [if_pos hk]
  exact h.touch hp hg

variable (hp : ∀ p ∈ [Field.saggers, .tallies, .flog, .lute], p ∈ ps)
include hp

theorem applySignal (h : WheelFrame ps ws gs s t) : WheelFrame ps ws gs s (t.applySignal k n agent) := by
  have hsignal : WheelFrame ps ws gs s ((t.onTally k (·.signal n agent)).tallyTouch k) :=
    (h.onTally (hp _ (by simp))).tallyTouch hk hg (hp _ (by simp))
  exact .ite ((hsignal.onTally (hp _ (by simp))).tallyFault (fun p hmem => hp p (by revert p; decide)) hg) hsignal

theorem signalTally (h : WheelFrame ps ws gs s t) : WheelFrame ps ws gs s (t.signalTally k n agent (tallySagger k)) := by
  have hfault : ∀ p ∈ [Field.saggers, .flog, .lute], p ∈ ps := fun p hmem => hp p (by revert p; decide)
  exact .ite (h.tallyFault hfault hg)
    (.ite (h.applySignal hk hg hp) ((h.sendTally (hp _ (by simp))).tallyTouch hk hg (hp _ (by simp))))

end

/-- The tally of sagger `g`'s own entry is signalled (R81). -/
theorem advance {g i : Nat} (h : WheelFrame ps ws gs s t) (hlt : g < 12) (hi : i < 4096)
    (hp : ∀ p ∈ [Field.saggers, .tallies, .flog, .lute], p ∈ ps := by decide) (hg : g ∈ gs := by simp) :
    WheelFrame ps ws gs s (t.advance g i agent) := by
  have hk := tallySagger_tallyKey (g := g) hi
  have hsignal := h.signalTally (k := tallyKey g i) (n := 1) (agent := agent) (hk.symm ▸ hlt) (hk.symm ▸ hg) hp
  rwa [hk] at hsignal

end WheelFrame

/-- A signal at its home advances PROD, also when it breaks DEPTH (R336, R337). -/
theorem State.applySignal_prod (s : State) (k n : Nat) (agent : BitVec 13) :
    ((s.applySignal k n agent).tally k).prod = (s.tally k).prod + BitVec.ofNat 48 n := by
  have hsignal : (((s.onTally k (·.signal n agent)).tallyTouch k).tally k).prod = (s.tally k).prod + BitVec.ofNat 48 n := by
    simp [Tally.signal, Tally.wake]
  unfold State.applySignal
  dsimp only
  split
  · have hfault : ∀ u : State, WheelFrame [.saggers, .flog, .lute] [] [tallySagger k] u (u.tallyFault k 0xC0 (tallySagger k)) :=
      fun _ => WheelFrame.refl.tallyFault
    rw [(hfault _).tally_eq, State.onTally_tally, if_pos rfl]
    exact hsignal
  · exact hsignal

/-- An entry's tally, in use and at home, advances by 1 (R81). -/
theorem State.advance_prod {s : State} {g i : Nat} (agent : BitVec 13) (hi : i < 4096) (hmode : (s.tally (tallyKey g i)).mode ≠ 0)
    (hhome : s.homeHere (tallyKey g i) = true) :
    ((s.advance g i agent).tally (tallyKey g i)).prod = (s.tally (tallyKey g i)).prod + 1 := by
  have happly : s.advance g i agent = s.applySignal (tallyKey g i) 1 agent := by
    simp [State.advance, State.signalTally, State.deliverSignal, tallySagger_tallyKey hi, hmode, hhome]
  rw [happly]
  exact s.applySignal_prod ..

/-! ## Leaving DRAIN (R80, R81, R287) -/

/-- The buffer is free, its entry out of flight and counted. -/
def State.bufFreed (s : State) (w b : Nat) : State :=
  ((s.onWheel w fun y => { y.onBuf b fun _ => {} with older := 1 - b }).onSagger ((s.wheel w).buf b).sagger
    (·.onFlight (s.layer ((s.wheel w).buf b).sagger ((s.wheel w).buf b).entry.layer).inFmt (· - 1))).bump .whlEntries w 1

theorem State.leaveDrain_eq (s : State) (w b : Nat) :
    s.leaveDrain w b = (((s.bufFreed w b).advance ((s.wheel w).buf b).sagger ((s.wheel w).buf b).entry.tally
      (agentId 1 (dieOfWheel w) (w % 72))).awaitEntry w).touch ((s.wheel w).buf b).sagger := rfl

theorem WheelFrame.leaveDrain {ps : List Field} {ws gs : List Nat} {s t : State} {w b : Nat} {x : Buf} (h : WheelFrame ps ws gs s t)
    (hx : x = (t.wheel w).buf b) (hlt : x.sagger < 12) (ht : x.entry.tally < 4096)
    (hp : ∀ p ∈ [Field.wheels, .saggers, .regs, .tallies, .flog, .lute], p ∈ ps := by decide) (hplan : .plan ∉ ps := by decide)
    (hw : w ∈ ws := by simp) (hg : x.sagger ∈ gs := by simp) (howner : s.wheelOwner w ∈ gs := by simp) :
    WheelFrame ps ws gs s (t.leaveDrain w b) := by
  subst hx
  have hsaggers := hp .saggers (by simp)
  have hfreed : WheelFrame ps ws gs s (t.bufFreed w b) :=
    ((h.onWheel (hp _ (by simp)) hw).onSagger hsaggers hg).bump (hp _ (by simp))
  exact ((hfreed.advance hlt ht (fun p hmem => hp p (by revert p; decide)) hg).awaitEntry hsaggers hplan howner).touch hsaggers hg

section
variable {s : State} {w b : Nat} {x : Buf} (hx : x = (s.wheel w).buf b) (hg : x.sagger < 12) (ht : x.entry.tally < 4096)
include hx hg ht

/-- The buffer is free and the other one the older. -/
theorem State.leaveDrain_wheel : ((s.leaveDrain w b).wheel w).buf b = {} ∧ ((s.leaveDrain w b).wheel w).older = 1 - b := by
  subst hx
  have hafter : WheelFrame [.saggers, .tallies, .flog, .lute] [] [((s.wheel w).buf b).sagger, (s.bufFreed w b).wheelOwner w]
      (s.bufFreed w b) (s.leaveDrain w b) := by
    rw [State.leaveDrain_eq]
    exact (WheelFrame.refl.advance hg ht).awaitEntry.touch
  rw [hafter.wheel_eq, State.bufFreed, State.bump_wheel, State.onSagger_wheel, State.onWheel_wheel, if_pos rfl]
  exact ⟨Wheel.onBuf_buf .., rfl⟩

/-- The entry's tally, in use and at home, advances by 1. -/
theorem State.leaveDrain_prod (hmode : (s.tally (tallyKey x.sagger x.entry.tally)).mode ≠ 0)
    (hhome : s.homeHere (tallyKey x.sagger x.entry.tally) = true) :
    ((s.leaveDrain w b).tally (tallyKey x.sagger x.entry.tally)).prod = (s.tally (tallyKey x.sagger x.entry.tally)).prod + 1 := by
  subst hx
  have hfreed : WheelFrame [.wheels, .saggers, .regs] [w] [((s.wheel w).buf b).sagger] s (s.bufFreed w b) :=
    WheelFrame.refl.onWheel.onSagger.bump
  have hafter : ∀ u : State, WheelFrame [.saggers] [] [((s.wheel w).buf b).sagger, u.wheelOwner w] u
      ((u.awaitEntry w).touch ((s.wheel w).buf b).sagger) := fun _ => WheelFrame.refl.awaitEntry.touch
  rw [State.leaveDrain_eq, (hafter _).tally_eq, State.advance_prod _ ht (by rwa [hfreed.tally_eq])
    (by rwa [hfreed.homeHere_eq]), hfreed.tally_eq]

end

/-! ## ENTRY_DRAIN (R111) -/

/-- The older entry's buffer, in DRAIN, drains. -/
theorem execEntryDrain_of_drain {w : WheelIx} {s : State} {x : Buf} (hx : x = (s.wheel w.val).buf (s.wheel w.val).older)
    (hst : x.st = .drain) (hhalt : (s.sagger x.sagger).listHalt = false) :
    exec (.entryDrain w) s = .next (s.drainEntry w.val (s.wheel w.val).older) := by
  subst hx
  exact State.when_true _ _ (by simp [hst, hhalt])

section
variable {s : State} {w b : Nat} {x : Buf} (hx : x = (s.wheel w).buf b)
include hx

theorem State.drainEntry_of_poisoned (h : x.poisoned = true) : s.drainEntry w b = s.leaveDrain w b := by
  subst hx
  exact if_pos h

variable (h : x.poisoned = false)
include h

theorem State.drainEntry_of_ok {d : Drain}
    (hd : ((s.drainOf w b).writeOwn x.stagedRows).finish (s.reg .sgrAccCtl x.sagger) (s.layer x.sagger x.entry.layer)
      ((s.layer x.sagger x.entry.layer).residual.map fun r => (r, s.layer x.sagger r)) = .ok d) :
    s.drainEntry w b = (({ s with mem := d.mem } : State).drainCounts x.sagger w b d).leaveDrain w b := by
  subst hx
  simp [State.drainEntry, h, hd]

theorem State.drainEntry_of_error {e : Nat}
    (he : ((s.drainOf w b).writeOwn x.stagedRows).finish (s.reg .sgrAccCtl x.sagger) (s.layer x.sagger x.entry.layer)
      ((s.layer x.sagger x.entry.layer).residual.map fun r => (r, s.layer x.sagger r)) = .error e) :
    s.drainEntry w b =
      (({ s with mem := ((s.drainOf w b).writeOwn x.stagedRows).mem } : State).haltList x.sagger).fault 3 1 e x.sagger w b := by
  subst hx
  simp [State.drainEntry, h, he]

end

namespace WheelFrame

variable {ps : List Field} {ws gs : List Nat} {s t : State}

theorem drainCounts {g w b : Nat} {d : Drain} (h : WheelFrame ps ws gs s t)
    (hp : ∀ p ∈ [Field.regs, .saggers, .flog, .lute], p ∈ ps := by decide) (hg : g ∈ gs := by simp) :
    WheelFrame ps ws gs s (t.drainCounts g w b d) := by
  have hr := hp .regs (by simp)
  have hcounts := ((((h.bump (r := .sgrAccRaise) (u := g) (n := d.raises) hr).bump (r := .sgrAccClamp) (u := g) (n := d.clamps)
    hr).bump (r := .sgrFmtSat) (u := g) (n := d.sats) hr).bump (r := .sgrFmtFallback) (u := g) (n := d.falls) hr).bump
    (r := .sgrFmtOutlier) (u := g) (n := d.sides) hr
  exact .ite (hcounts.fault (fun p hmem => hp p (List.mem_cons_of_mem _ hmem)) hg) hcounts

end WheelFrame

/-- Settles O12: a drain that fails halts the list; one that ends leaves DRAIN, after a poisoned tile at once and otherwise
once only slabs and counts have changed. -/
theorem drainFreesTheBufferAndAdvancesItsTally : Obligations.DrainFreesTheBufferAndAdvancesItsTally := by
  intro w s b x hb hlt hx hst hhalt hg ht
  have hexec : exec (.entryDrain w) s = .next (s.drainEntry w.val b) :=
    hb ▸ execEntryDrain_of_drain (hb ▸ hx) hst hhalt
  refine ⟨fun hpoison => ?poisoned, fun d hpoison hd => ?drained, fun e hpoison he => ?fails⟩
  case poisoned =>
    rw [hexec, State.drainEntry_of_poisoned hx hpoison]
    have hframe : WheelFrame [.wheels, .saggers, .regs, .tallies, .flog, .lute] [w.val] [x.sagger, s.wheelOwner w.val] s
        (s.leaveDrain w.val b) := WheelFrame.refl.leaveDrain hx hg ht
    obtain ⟨hfree, holder⟩ := State.leaveDrain_wheel hx hg ht
    exact ⟨_, rfl, hfree, holder, State.leaveDrain_prod hx hg ht, hframe.only, hframe.wheels⟩
  case drained =>
    rw [hexec, State.drainEntry_of_ok hx hpoison hd]
    generalize hu : ({ s with mem := d.mem } : State).drainCounts x.sagger w.val b d = u
    have hcounted : WheelFrame [.mem, .regs, .saggers, .flog, .lute] [] [x.sagger] s u :=
      hu ▸ WheelFrame.refl.withMem.drainCounts
    have hmem : u.mem = d.mem := hu ▸ (WheelFrame.drainCounts (ps := [.regs, .saggers, .flog, .lute]) (ws := []) (gs := [x.sagger])
      .refl).mem_eq
    have hslab : SlabOnly s.mem d.mem := Drain.finish_only (Drain.writeOwn_only _ (SlabOnly.refl _)) hd
    have hxu : x = (u.wheel w.val).buf b := by rw [hcounted.wheel_eq, hx]
    have hframe : WheelFrame [.mem, .wheels, .saggers, .regs, .tallies, .flog, .lute] [w.val] [x.sagger, s.wheelOwner w.val] s
        (u.leaveDrain w.val b) := (hu ▸ WheelFrame.refl.withMem.drainCounts : WheelFrame _ _ _ s u).leaveDrain hxu hg ht
    have hleave : WheelFrame [.wheels, .saggers, .regs, .tallies, .flog, .lute] [w.val] [x.sagger, u.wheelOwner w.val] u
        (u.leaveDrain w.val b) := WheelFrame.refl.leaveDrain hxu hg ht
    obtain ⟨hfree, holder⟩ := State.leaveDrain_wheel hxu hg ht
    refine ⟨_, rfl, hfree, holder, fun hmode hhome => ?prod, ?mem, hframe.only, hframe.wheels⟩
    case prod =>
      have hprod := State.leaveDrain_prod hxu hg ht (by rwa [hcounted.tally_eq]) (by rwa [hcounted.homeHere_eq])
      rwa [hcounted.tally_eq] at hprod
    case mem => rw [hleave.mem_eq, hmem]; exact hslab.same
  case fails =>
    rw [hexec, State.drainEntry_of_error hx hpoison he]
    have hhalted : WheelFrame [.mem, .saggers] [] [x.sagger] s
        (({ s with mem := ((s.drainOf w.val b).writeOwn x.stagedRows).mem } : State).haltList x.sagger) :=
      WheelFrame.refl.withMem.haltList
    have hframe : WheelFrame [.mem, .saggers, .flog, .lute] [] [x.sagger] s
        ((({ s with mem := ((s.drainOf w.val b).writeOwn x.stagedRows).mem } : State).haltList x.sagger).fault 3 1 e x.sagger
          w.val b) := WheelFrame.refl.withMem.haltList.fault
    exact ⟨_, rfl, by simp [State.fault, State.haltList], (State.detects_raise _ _).of_flog_eq hhalted.flog_eq rfl, hframe.only⟩

end Sys2Proof.Machine

namespace Sys2Proof.Machine

/-! # A tile that lands beside a running entry (O10)

R57 takes a token whose block breaks its format out of the entry as a cancellation does, and a cancellation reaches both buffers
of a wheel (R84). So a fill can drop jobs of the other buffer, when that one works for the same slot. -/

/-- A landed tile with no poison and no failing check is decoded (R80). -/
theorem execTileFillDone_of_good {w : WheelIx} {b : BufIx} {s : State} {x : Buf} (hx : x = (s.wheel w.val).buf b.val)
    (hst : x.st = .fill) (hlanded : s.holdsLanded x = true) (hpoison : s.holdsPoisoned x = false)
    (hfill : s.fillBad x.sagger x.entry (s.tileData x.entry) = none)
    (htile : tileBad x.entry.wfmt false (s.tileData x.entry) x.entry.tileLen = none) :
    exec (.tileFillDone w b) s = .next (s.fillBuf x.sagger w.val b.val (s.tileData x.entry)) := by
  subst hx
  show execTileFillDone w b s = _
  simp [execTileFillDone, hst, hlanded, hpoison, hfill, htile]

/-- The buffer that fills: a legal T28 tile, its reduction set at slab offset 64, and one token of slot 5, whose block at slab
offset 0 is all zeros and so has the illegal format 0 (R39). -/
def fillingBuf : Buf := { st := .fill, entry := { partAddr := 64 }, toks := [(0, 5)] }

/-- The other buffer, which holds the older entry: lane 2 runs a job of a token of the same slot. -/
def runningBuf : Buf :=
  { st := .run, entry := { partAddr := 4096 }, toks := [(8192, 5)]
    jobs := [{ tok := 0, quarter := 0, lo := 0, hi := 1024, st := .running 2 }] }

/-- A serving sagger 0 with the shelves of die 0, whose wheel 0 holds the two buffers; the set cell says one input block. -/
def fillsBesideRun : State :=
  { State.reset with
    plan := some { saggers := [{ sagger := 0, shelves := 0x3F }] }
    saggers := [(0, { st := .serving })]
    wheels := [(0, { buf0 := fillingBuf, buf1 := runningBuf, older := 1, lanes := [(2, { job := some (1, 0) })] })]
    mem := { slab := mwrite [] 80 [1], valid := [1] } }

theorem fillsBesideRun_passes_checks :
    fillsBesideRun.fillBad 0 fillingBuf.entry (fillsBesideRun.tileData fillingBuf.entry) = none ∧
      tileBad 1 false (fillsBesideRun.tileData fillingBuf.entry) 2048 = none := by decide +kernel

/-- The fill drops the job that ran in the other buffer. -/
theorem fillsBesideRun_drops_running_job :
    (((fillsBesideRun.fillBuf 0 0 0 (fillsBesideRun.tileData fillingBuf.entry)).wheel 0).buf 1).jobs.map (·.st) = [.dropped] := by
  decide +kernel

/-- Refutes O10: the fill of one buffer changes the other one when a token-block breaks its format and both buffers work for its
slot. -/
theorem not_tileFillsAndEntryStates : ¬ Obligations.TileFillsAndEntryStates := by
  unfold Obligations.TileFillsAndEntryStates
  rintro ⟨hfills, -⟩
  obtain ⟨hbad, htile⟩ := fillsBesideRun_passes_checks
  obtain ⟨hready, -, -⟩ := hfills 0 0 fillsBesideRun fillingBuf rfl rfl rfl
  obtain ⟨t, hexec, -, -, -, hother, -⟩ := hready rfl hbad htile
  rw [execTileFillDone_of_good (x := fillingBuf) rfl rfl rfl rfl hbad htile] at hexec
  cases hexec
  have hjobs := congrArg (fun x => x.jobs.map (·.st)) hother
  exact absurd (fillsBesideRun_drops_running_job.symm.trans hjobs) (by decide)

end Sys2Proof.Machine

namespace Sys2Proof.Machine

/-! # Suspension and restoration of a wheel (O13) -/

/-! ## Bytes written to the slabs -/

/-- Bytes written at a slab address are read there, and of all memory only they and their lines have changed (R278). -/
theorem State.slab_of_slabWrite {s t : State} {a : Nat} {bs : List Byte} (h : t.mem = s.mem.slabWrite (slabIx a) bs) :
    t.slab a bs.length = bs ∧ Outside (slabIx a) bs.length s.mem.slab t.mem.slab ∧
      t.mem = { s.mem with slab := t.mem.slab, valid := t.mem.valid } := by
  rw [State.slab, h]
  exact ⟨mread_mwrite .., fun x hx => mget_mwrite_of_outside _ _ _ _ hx, rfl⟩

/-! ## The save area (R128) -/

@[simp] theorem freeBytes_length (k n : Nat) : (freeBytes k n).length = n := by simp [freeBytes]

@[simp] theorem zeros_length (n : Nat) : (zeros n).length = n := List.length_replicate

/-- Rows of equal length, one after another. -/
theorem length_flatMap_range {n m : Nat} {f : Nat → List Byte} (h : ∀ i, (f i).length = m) :
    ((List.range n).flatMap f).length = n * m := by
  simp only [List.length_flatMap, h, List.map_const', List.length_range, List.sum_replicate_nat]

@[simp] theorem Buf.savedEntry_length (x : Buf) (k : Nat) : (x.savedEntry k).length = 32 := by
  unfold Buf.savedEntry
  split <;> simp

@[simp] theorem Lane.saved_length (x : Lane) (b k : Nat) : (x.saved b k).length = 80 := by
  unfold Lane.saved
  split
  · simp [length_flatMap_range (m := 12), length_flatMap_range (m := 4)]
  · simp

@[simp] theorem Buf.savedStage_length (x : Buf) (k : Nat) : (x.savedStage k).length = 8192 := by
  refine length_flatMap_range (m := 4) fun i => ?_
  split <;> simp

/-- The save area has the 40,960 bytes of R128. -/
theorem WheelCtx.bytes_length (c : WheelCtx) (k : Nat) : (c.bytes k).length = 40960 := by
  have hlanes : ((List.range 256).flatMap fun i => (tget {} c.lanes (i / 2)).saved (i % 2) (k + 128 + 80 * i)).length = 20480 :=
    length_flatMap_range fun i => Lane.saved_length ..
  simp [WheelCtx.bytes, hlanes]

/-! ## SUSPEND and RESUME (R126, R127, R129) -/

/-- The wheel leaves its sagger's queue and `f` changes it. -/
def State.unqueued (s : State) (w : Nat) (f : Wheel → Wheel) : State :=
  (s.onWheel w f).onSagger (s.wheelOwner w) fun y => { y with waiting := y.waiting.filter (· != w) }

@[simp] theorem State.unqueued_wheel (s : State) (w : Nat) (f : Wheel → Wheel) : (s.unqueued w f).wheel w = f (s.wheel w) := by
  simp [State.unqueued]

theorem State.unqueued_frame (s : State) (w : Nat) (f : Wheel → Wheel) :
    WheelFrame [.wheels, .saggers] [w] [s.wheelOwner w] s (s.unqueued w f) := WheelFrame.refl.onWheel.onSagger

/-- R126's conditions on the address of a save area. -/
def BadSaveArea (w a : Nat) : Prop := nbits a 30 2 ≠ 0 ∨ slabWheel a ≠ w ∨ slabOff a % 64 ≠ 0 ∨ slabBytes < slabOff a + 40960

theorem execSuspend_of_good {w : WheelIx} {a : BitVec 32} {s : State} (hctx : (s.wheel w.val).ctx = none)
    (hsaving : (s.wheel w.val).saving = none) (harea : ¬ BadSaveArea w.val a.toNat) :
    exec (.suspend w a) s = .next (s.unqueued w.val fun x => { x with saving := some a }) := by
  refine (if_neg harea).trans (if_neg ?_)
  simp [hctx, hsaving]

theorem execSuspend_of_bad {w : WheelIx} {a : BitVec 32} {s : State} (harea : BadSaveArea w.val a.toNat) :
    exec (.suspend w a) s = .next (s.fault 3 1 0x56 (s.wheelOwner w.val) w.val 0) := if_pos harea

theorem execResume_of_saved {w : WheelIx} {s : State} (hctx : (s.wheel w.val).ctx.isSome = true) :
    exec (.resume w) s = .next (s.unqueued w.val fun x => { x with restoring := true }) :=
  if_neg (by simp [Option.isSome_iff_ne_none.1 hctx])

theorem execResume_of_none {w : WheelIx} {s : State} (hctx : (s.wheel w.val).ctx = none) :
    exec (.resume w) s = .next (s.fault 3 1 0x57 (s.wheelOwner w.val) w.val 0) := if_pos (by simp [hctx])

/-- A fault of class 0x3 raised for a wheel changes no wheel and nothing but its log and what contains it. -/
theorem State.fault_only {s : State} {cls block detail g unit sub : Nat} :
    Only [.saggers, .flog, .lute] s (s.fault cls block detail g unit sub) :=
  (WheelFrame.refl (ps := [.saggers, .flog, .lute]) (ws := []) (gs := [g]) (s := s)).fault.only

/-! ## SUSPEND_DONE (R127, R128) -/

theorem execSuspendDone_of_settled {w : WheelIx} {s : State} {a : BitVec 32} (hsaving : (s.wheel w.val).saving = some a)
    (hsettled : (s.wheel w.val).settled = true) : exec (.suspendDone w) s = .next (s.saveContext w.val a) := by
  show execSuspendDone w s = _
  rw [execSuspendDone, hsaving]
  exact State.when_true _ _ hsettled

/-- The wheel once its context is saved. -/
def Wheel.emptied (x : Wheel) (a : BitVec 32) : Wheel :=
  { x with ctx := some (x.context a), saving := none, buf0 := {}, buf1 := {}, lanes := [] }

/-- The context lies in the save area, its free values are drawn, and the wheel is empty and counted. -/
def State.contextSaved (s : State) (w : Nat) (a : BitVec 32) : State :=
  let s1 := s.putSlab a.toNat (((s.wheel w).context a).bytes s.freeCtr)
  (({ s1 with freeCtr := s1.freeCtr + 40960 } : State).onWheel w (·.emptied a)).bump .whlCtxCount w 1

theorem State.saveContext_eq (s : State) (w : Nat) (a : BitVec 32) : s.saveContext w a = (s.contextSaved w a).awaitEntry w := rfl

theorem State.withFreeCtr_only (s : State) (n : Nat) : Only [.freeCtr] s { s with freeCtr := n } := by
  intro p hp
  cases p
  case freeCtr => simp at hp
  all_goals rfl

theorem WheelFrame.withFreeCtr {ps : List Field} {ws gs : List Nat} {s t : State} {n : Nat} (h : WheelFrame ps ws gs s t)
    (hp : .freeCtr ∈ ps := by decide) : WheelFrame ps ws gs s { t with freeCtr := n } :=
  h.trans ⟨(t.withFreeCtr_only n).widen hp, fun _ _ => rfl, fun _ _ => rfl⟩

theorem WheelFrame.regsOnly {ps : List Field} {ws gs : List Nat} {s t : State} (h : WheelFrame ps ws gs s t)
    (l : List (Reg × Nat)) (hp : .regs ∉ ps := by decide) : RegsOnly l s t :=
  fun r u _ => congrArg (regGet · r u) (h.only .regs hp)

theorem State.contextSaved_frame (s : State) (w : Nat) (a : BitVec 32) (gs : List Nat) :
    WheelFrame [.wheels, .saggers, .regs, .mem, .freeCtr] [w] gs s (s.contextSaved w a) :=
  WheelFrame.refl.withMem.withFreeCtr.onWheel.bump

/-- What follows the save is the wheel's return to the queue. -/
theorem State.awaitEntry_frame (s : State) (w : Nat) : WheelFrame [.saggers] [] [s.wheelOwner w] s (s.awaitEntry w) :=
  WheelFrame.refl.awaitEntry

theorem State.saveContext_frame (s : State) (w : Nat) (a : BitVec 32) :
    WheelFrame [.wheels, .saggers, .regs, .mem, .freeCtr] [w] [s.wheelOwner w] s (s.saveContext w a) :=
  (s.contextSaved_frame w a _).awaitEntry

theorem State.saveContext_wheel (s : State) (w : Nat) (a : BitVec 32) :
    (s.saveContext w a).wheel w = (s.wheel w).emptied a := by
  rw [State.saveContext_eq, ((s.contextSaved w a).awaitEntry_frame w).wheel_eq, State.contextSaved, State.bump_wheel,
    State.onWheel_wheel, if_pos rfl]
  rfl

theorem State.saveContext_mem (s : State) (w : Nat) (a : BitVec 32) :
    (s.saveContext w a).mem = s.mem.slabWrite (slabIx a.toNat) (((s.wheel w).context a).bytes s.freeCtr) := by
  rw [State.saveContext_eq, ((s.contextSaved w a).awaitEntry_frame w).mem_eq]
  rfl

theorem State.saveContext_regs (s : State) (w : Nat) (a : BitVec 32) :
    RegsOnly [(.whlCtxCount, w)] s (s.saveContext w a) := by
  have hcount : RegsOnly [(.whlCtxCount, w)] s (s.contextSaved w a) := State.bump_regsOnly _ 1 (by simp)
  exact hcount.trans (((s.contextSaved w a).awaitEntry_frame w).regsOnly _)

/-! ## RESTORE_CONTEXT (R129) -/

theorem Wheel.restored_of_no_cancel {x : Wheel} (c : WheelCtx) (h : x.cancelled = []) : x.restored c =
    { x with buf0 := c.buf0, buf1 := c.buf1, older := c.older, lanes := c.lanes, ctx := none, restoring := false } := by
  rw [Wheel.restored, h]
  rfl

/-- The wheel has its context back, its dropped jobs are counted, and it joins the queue. -/
def State.contextRestored (s : State) (w : Nat) (c : WheelCtx) (dropped : Nat) : State :=
  ((s.onWheel w (·.restored c)).bump .whlCancelJobs w dropped).awaitEntry w

theorem State.contextRestored_frame (s : State) (w : Nat) (c : WheelCtx) (dropped : Nat) :
    WheelFrame [.wheels, .saggers, .regs] [w] [s.wheelOwner w] s (s.contextRestored w c dropped) :=
  WheelFrame.refl.onWheel.bump.awaitEntry

theorem State.contextRestored_wheel (s : State) (w : Nat) (c : WheelCtx) (dropped : Nat) :
    (s.contextRestored w c dropped).wheel w = (s.wheel w).restored c := by
  rw [State.contextRestored, (State.awaitEntry_frame _ w).wheel_eq]
  simp

/-- With both buffers free and the saved tiles landed and sound, the context returns as it is. -/
theorem execRestoreContext_of_sound {w : WheelIx} {s : State} {c : WheelCtx} (hctx : (s.wheel w.val).ctx = some c)
    (hrestoring : (s.wheel w.val).restoring = true) (hfree0 : (s.wheel w.val).buf0.st = .free)
    (hfree1 : (s.wheel w.val).buf1.st = .free) (hlanded0 : s.holdsLanded c.buf0 = true) (hlanded1 : s.holdsLanded c.buf1 = true)
    (hsound0 : s.holdsPoisoned c.buf0 = false) (hsound1 : s.holdsPoisoned c.buf1 = false) :
    ∃ dropped, exec (.restoreContext w) s = .next (s.contextRestored w.val c dropped) := by
  refine ⟨(s.wheel w.val).cancelled.foldl (fun n t => n + c.buf0.cancelCount t + c.buf1.cancelCount t) 0, ?_⟩
  show execRestoreContext w s = _
  simp only [execRestoreContext, hctx, hsound0, hsound1, Bool.and_false, Bool.false_eq_true, if_false]
  exact State.when_true _ _ (by simp [hrestoring, Buf.held, hfree0, hfree1, hlanded0, hlanded1])

/-- Settles O13: SUSPEND and RESUME mark the wheel or raise one record; SUSPEND_DONE is one write of the save area and one
change of the wheel, which RESTORE_CONTEXT takes back. The restore reads the context that the wheel holds, not the save area
(the model's choice, log entry 63). -/
theorem suspensionSavesAndRestoresAWheel : Obligations.SuspensionSavesAndRestoresAWheel := by
  refine ⟨fun w a s hctx hsaving => ⟨fun hhigh hwheel halign hfits => ?starts, fun hbad => ?refused⟩,
    fun w s a hsaving hsettled => ?saved, fun w s => ⟨fun hctx => ?resumes, fun hctx => ?stray⟩,
    fun w s c hctx hrestoring hfree0 hfree1 hcancelled hlanded0 hlanded1 hsound0 hsound1 => ?restored⟩
  case starts =>
    have harea : ¬ BadSaveArea w.val a.toNat := by
      rintro (h | h | h | h)
      · exact h hhigh
      · exact h hwheel
      · exact h halign
      · omega
    have hframe := s.unqueued_frame w.val fun x => { x with saving := some a }
    exact ⟨_, execSuspend_of_good hctx hsaving harea, State.unqueued_wheel .., hframe.only, hframe.wheels⟩
  case refused => exact ⟨_, execSuspend_of_bad hbad, State.detects_raise _ _, State.fault_only⟩
  case saved =>
    have hframe := s.saveContext_frame w.val a
    obtain ⟨hread, hout, hmem⟩ := State.slab_of_slabWrite (s.saveContext_mem w.val a)
    rw [WheelCtx.bytes_length] at hread hout
    refine ⟨_, execSuspendDone_of_settled hsaving hsettled, ?_, ?_, ?_, ?_, hread, hout, hmem, hframe.only, hframe.wheels,
      s.saveContext_regs w.val a⟩
    all_goals rw [State.saveContext_wheel]; rfl
  case resumes =>
    have hframe := s.unqueued_frame w.val fun x => { x with restoring := true }
    exact ⟨_, execResume_of_saved hctx, State.unqueued_wheel .., hframe.only, hframe.wheels⟩
  case stray => exact ⟨_, execResume_of_none hctx, State.detects_raise _ _, State.fault_only⟩
  case restored =>
    obtain ⟨dropped, hexec⟩ := execRestoreContext_of_sound hctx hrestoring hfree0 hfree1 hlanded0 hlanded1 hsound0 hsound1
    have hframe := s.contextRestored_frame w.val c dropped
    refine ⟨_, hexec, ?_, ?_, ?_, ?_, ?_, hframe.only, hframe.wheels⟩
    all_goals rw [State.contextRestored_wheel, Wheel.restored_of_no_cancel c hcancelled]

end Sys2Proof.Machine

namespace Sys2Proof.Machine

/-! # The mixer of the routed experts (O26) -/

/-! ## Signals, records and progress leave every router as it is -/

@[simp] theorem State.raise_router (s : State) (r : FaultRec) (k : Nat) :
    ((s.raise r).sagger k).router = (s.sagger k).router := by
  obtain ⟨st, cause, h⟩ := s.raise_sagger r k
  rw [h]

@[simp] theorem State.touch_router (s : State) (g k : Nat) : ((s.touch g).sagger k).router = (s.sagger k).router := by
  obtain ⟨n, armed, h⟩ := s.touch_sagger g k
  rw [h]

@[simp] theorem State.tallyTouch_router (s : State) (k j : Nat) : ((s.tallyTouch k).sagger j).router = (s.sagger j).router := by
  unfold State.tallyTouch
  split
  · exact s.touch_router ..
  · rfl

@[simp] theorem State.tallyFault_router (s : State) (k detail by_ j : Nat) :
    ((s.tallyFault k detail by_).sagger j).router = (s.sagger j).router := s.raise_router ..

@[simp] theorem State.applySignal_router (s : State) (k n : Nat) (agent : BitVec 13) (j : Nat) :
    ((s.applySignal k n agent).sagger j).router = (s.sagger j).router := by
  unfold State.applySignal
  dsimp only
  split <;> simp

@[simp] theorem State.advance_router (s : State) (g i : Nat) (agent : BitVec 13) (j : Nat) :
    ((s.advance g i agent).sagger j).router = (s.sagger j).router := by
  unfold State.advance State.signalTally State.deliverSignal
  split
  · simp
  · split
    · simp
    · simp [State.sendTally, State.sendLute]

/-- A tally of a sagger that is not luted has its home here (R334). -/
theorem State.homeHere_of_not_luted {s : State} {g i : Nat} (hi : i < 4096) (h : s.luted g = false) :
    s.homeHere (tallyKey g i) = true := by
  simp [State.homeHere, tallySagger_tallyKey hi, h]

/-- A frame within larger bounds. -/
theorem WheelFrame.mono {ps ps' : List Field} {ws gs gs' : List Nat} {s t : State} (h : WheelFrame ps ws gs s t)
    (hp : ∀ p ∈ ps, p ∈ ps') (hg : gs ⊆ gs') : WheelFrame ps' ws gs' s t :=
  ⟨fun p hn => h.only p fun hm => hn (hp p hm), h.wheels, fun k hn => h.saggers k fun hm => hn (hg hm)⟩

/-! ## The parts of the mixer's work -/

/-- The drain unit as it starts on output block `b` of the `n` rows from `first` on (R118). -/
def State.mixDrain (s : State) (g l : Nat) (r : Router) (first n b : Nat) : Drain :=
  { mem := s.mem, r0 := 0, size := regionBytes n, nb := 1, pbase := 0
    head := { tag := 0, shift := 0, layer := l, tokN := n, outGroup := 64 * b, inBlock := 0, cover := 0 }
    dead := (List.range n).filter fun t => s.mixSkips g (first + t) r }

/-- The drain unit once it has written the mixed values of those rows at slab address `out`. -/
def State.mixOutput (s : State) (g l : Nat) (r : Router) (first n b out : Nat) : Drain :=
  (s.mixDrain g l r first n b).output (s.layer g l) ((s.layer g l).residual.map fun t => (t, s.layer g t)) (slabIx out)
    ((List.range n).map fun t => s.mixValues g (s.chunkShape g l) (s.moe g l).shared (first + t) b
      (((r.shared.find? fun x => x.1 == first + t).map (·.2)).getD []))

/-- The memory of a drain is taken over and what it did is counted. -/
def State.mixCounted (s : State) (g : Nat) (e : Drain) : State :=
  (((({ s with mem := e.mem } : State).bump .sgrAccClamp g e.clamps).bump .sgrFmtSat g e.sats).bump .sgrFmtFallback g
    e.falls).bump .sgrFmtOutlier g e.sides

/-- The block of a drain is written and counted, and clamped values raise one record. -/
def State.writeMixed (s : State) (g b : Nat) (e : Drain) : State :=
  if e.clamps ≠ 0 then (s.mixCounted g e).fault 1 4 0x55 g (dieOfSagger g) b else s.mixCounted g e

theorem State.mixBlock_eq (s : State) (g l : Nat) (r : Router) (first n b out : Nat) :
    s.mixBlock g l r first n b out = s.writeMixed g b (s.mixOutput g l r first n b out) := rfl

/-- Every row of the step is checked and every output block written: what MIX_RUN does for a sagger `x` whose rows it mixes. -/
def State.mixRows (s : State) (g l : Nat) (x : Sagger) (outs : List (List (BitVec 32))) : State :=
  (List.range ((x.rowsN + 127) / 128)).foldl (fun u q => (List.range (u.layer g l).outBlocks).foldl (fun u b =>
    u.mixBlock g l x.router (128 * q) (min 128 (x.rowsN - 128 * q)) b (((outs.getD q []).getD b 0).toNat)) u)
    (s.mixCheck g (s.chunkShape g l) x.router)

/-! ## What checking and writing the rows of a layer keeps -/

/-- From `s` to `t` the mixer of sagger `g` has failed requests, counted, and written slabs: no tally, no other sagger, and not the
router itself has changed. -/
structure MixKeeps (g : Nat) (s t : State) : Prop where
  frame  : WheelFrame [.mem, .regs, .saggers, .flog, .lute] [] [g] s t
  router : (t.sagger g).router = (s.sagger g).router
  slab   : SlabOnly s.mem t.mem

namespace MixKeeps

variable {g : Nat} {s t : State}

theorem refl : MixKeeps g s s := ⟨.refl, rfl, .refl _⟩

theorem bump {r : Reg} {u n : Nat} (h : MixKeeps g s t) : MixKeeps g s (t.bump r u n) := ⟨h.frame.bump, h.router, h.slab⟩

theorem raise {r : FaultRec} (h : MixKeeps g s t) (hr : r.sagger = sgField g) : MixKeeps g s (t.raise r) := by
  have hraise : WheelFrame [.saggers, .flog, .lute] [] [r.sagger.toNat] t (t.raise r) := WheelFrame.refl.raise
  refine ⟨h.frame.raise (hg := fun hlt => ?_), by rw [State.raise_router, h.router], by rw [hraise.mem_eq]; exact h.slab⟩
  rw [hr] at hlt ⊢
  simp [sgField_toNat hlt]

theorem fault {cls block detail unit sub : Nat} (h : MixKeeps g s t) : MixKeeps g s (t.fault cls block detail g unit sub) :=
  h.raise rfl

theorem failSlot {block detail unit slot : Nat} (h : MixKeeps g s t) : MixKeeps g s (t.failSlot block detail g unit slot) := by
  unfold State.failSlot
  split
  next => exact h
  next q _ =>
    have hraised : MixKeeps g s (t.faultReq block detail g unit q.name) := h.raise rfl
    exact ⟨hraised.frame.onSagger, by simpa [State.onSlot] using hraised.router, hraised.slab⟩

theorem withMem {m : Memories} (h : MixKeeps g s t) (hm : SlabOnly t.mem m) : MixKeeps g s { t with mem := m } :=
  ⟨h.frame.withMem, h.router, h.slab.trans hm⟩

theorem foldl {α : Type} {f : State → α → State} (hf : ∀ u x, MixKeeps g s u → MixKeeps g s (f u x)) (xs : List α)
    (h : MixKeeps g s t) : MixKeeps g s (xs.foldl f t) := List.foldlRecOn xs f h fun u hu x _ => hf u x hu

theorem readRoutes {n : Nat} (h : MixKeeps g s t) : MixKeeps g s (t.readRoutes g n) := h.bump.bump

theorem mixCheck {c : ChunkShape} {r : Router} (h : MixKeeps g s t) : MixKeeps g s (t.mixCheck g c r) := by
  refine foldl (fun u x hu => ?_) _ h.readRoutes
  split
  · exact hu
  · split
    · exact hu
    · exact hu.failSlot.bump

theorem mixCounted {e : Drain} (h : MixKeeps g s t) (he : SlabOnly t.mem e.mem) : MixKeeps g s (t.mixCounted g e) :=
  (h.withMem he).bump.bump.bump.bump

theorem writeMixed {b : Nat} {e : Drain} (h : MixKeeps g s t) (he : SlabOnly t.mem e.mem) : MixKeeps g s (t.writeMixed g b e) := by
  unfold State.writeMixed
  split
  · exact (h.mixCounted he).fault
  · exact h.mixCounted he

theorem mixBlock {l first n b out : Nat} {r : Router} (h : MixKeeps g s t) : MixKeeps g s (t.mixBlock g l r first n b out) :=
  h.writeMixed (Drain.output_only _ _ _ _ (.refl _))

theorem mixRows {l : Nat} {x : Sagger} {outs : List (List (BitVec 32))} (h : MixKeeps g s t) : MixKeeps g s (t.mixRows g l x outs) :=
  foldl (fun _ _ hu => foldl (fun _ _ hv => hv.mixBlock) _ hu) _ h.mixCheck

end MixKeeps

/-! ## What the mixer reads -/

/-- Everything that the mixer reads of a state: its memory, its plan and its saggers. -/
def State.mixView (s : State) : State := { State.reset with mem := s.mem, plan := s.plan, saggers := s.saggers }

theorem WheelFrame.mixView_eq {ws gs : List Nat} {s t : State} {ps : List Field} (h : WheelFrame ps ws gs s t)
    (hp : ∀ p ∈ [Field.mem, .plan, .saggers], p ∉ ps := by decide) : t.mixView = s.mixView := by
  have hmem : t.mem = s.mem := h.only .mem (hp _ (by simp))
  have hplan : t.plan = s.plan := h.only .plan (hp _ (by simp))
  have hsaggers : t.saggers = s.saggers := h.only .saggers (hp _ (by simp))
  simp only [State.mixView, hmem, hplan, hsaggers]

/-! ## One output block of one row (R118, R220) -/

/-- Of a list of one row that is not skipped, with no residual, the requantised block of its values is written. -/
theorem State.mixOutput_mem_of_row {s : State} {g l row b out : Nat} {r : Router} {sh : List (BitVec 32)}
    (hshared : r.shared = [(row, sh)]) (hdead : s.rowDead g (s.routeOf g row).1 = false)
    (hresidual : (s.layer g l).residual = none) :
    (s.mixOutput g l r row 1 b out).mem = s.mem.slabWrite (slabIx out) (requantise (s.layer g l).outFmt (s.layer g l).outlierK
      (s.layer g l).fallback (s.mixValues g (s.chunkShape g l) (s.moe g l).shared row b sh)).bytes := by
  have hskips : s.mixSkips g row r = false := by simp [State.mixSkips, hshared, hdead]
  simp [State.mixOutput, State.mixDrain, Drain.output, hresidual, hskips, hshared]

theorem State.writeMixed_mem (s : State) (g b : Nat) (e : Drain) : (s.writeMixed g b e).mem = e.mem := by
  unfold State.writeMixed
  split
  · exact (s.mixCounted g e).fault_only .mem (by decide)
  · rfl

/-- A row whose operand blocks are sound fails no request. -/
theorem State.mixCheck_of_sound {s : State} {g row : Nat} {c : ChunkShape} {r : Router} {sh : List (BitVec 32)}
    (hshared : r.shared = [(row, sh)]) (hsound : (s.mixBlocks g c row sh).findSome? s.blockViol = none) :
    s.mixCheck g c r = s.readRoutes g 1 := by
  have hsound' : ((s.readRoutes g 1).mixBlocks g c row sh).findSome? (s.readRoutes g 1).blockViol = none := hsound
  simp only [State.mixCheck, hshared, List.foldl_cons, List.foldl_nil, List.length_singleton, hsound']
  exact ite_self _

section
variable {s : State} {g l : Nat} {x : Sagger} {sh : List (BitVec 32)} (hrows : x.rowsN = 1) (hshared : x.router.shared = [(0, sh)])
  (hsound : (s.mixBlocks g (s.chunkShape g l) 0 sh).findSome? s.blockViol = none) (hblocks : (s.layer g l).outBlocks = 1)
include hrows hshared hsound hblocks

/-- A step of one row and one output block writes one block. -/
theorem State.mixRows_of_one (outs : List (List (BitVec 32))) :
    s.mixRows g l x outs = (s.readRoutes g 1).mixBlock g l x.router 0 1 0 (((outs.getD 0 []).getD 0 0).toNat) := by
  have hblocks' : ((s.readRoutes g 1).layer g l).outBlocks = 1 := hblocks
  have hone : List.range 1 = [0] := rfl
  simp only [State.mixRows, State.mixCheck_of_sound hshared hsound, hrows, hblocks', hone, List.foldl_cons, List.foldl_nil,
    Nat.reduceAdd, Nat.reduceDiv, Nat.reduceMul, Nat.reduceSub, Nat.min_def, Nat.reduceLeDiff, if_false]

variable {out : Nat} {outs : List (List (BitVec 32))} (hdead : s.rowDead g (s.routeOf g 0).1 = false)
  (hresidual : (s.layer g l).residual = none) (hout : out = ((outs.getD 0 []).getD 0 0).toNat)
include hdead hresidual hout

/-- The memory after such a step. -/
theorem State.mixRows_mem_of_one : (s.mixRows g l x outs).mem = s.mem.slabWrite (slabIx out)
    (requantise (s.layer g l).outFmt (s.layer g l).outlierK (s.layer g l).fallback
      (s.mixValues g (s.chunkShape g l) (s.moe g l).shared 0 0 sh)).bytes := by
  rw [State.mixRows_of_one hrows hshared hsound hblocks, State.mixBlock_eq, State.writeMixed_mem, ← hout]
  exact State.mixOutput_mem_of_row (s := s.readRoutes g 1) hshared hdead hresidual

/-- It is the same from every state with the same view. -/
theorem State.mixRows_mem_of_view {v : State} (hview : v.mixView = s.mixView) : (v.mixRows g l x outs).mem =
    s.mem.slabWrite (slabIx out) (requantise (s.layer g l).outFmt (s.layer g l).outlierK (s.layer g l).fallback
      (s.mixValues g (s.chunkShape g l) (s.moe g l).shared 0 0 sh)).bytes := by
  have hlayer : v.layer g l = s.layer g l := (congrArg (fun y : State => y.layer g l) hview :)
  have hvalues : v.mixValues g (v.chunkShape g l) (v.moe g l).shared 0 0 sh =
      s.mixValues g (s.chunkShape g l) (s.moe g l).shared 0 0 sh :=
    (congrArg (fun y : State => y.mixValues g (y.chunkShape g l) (y.moe g l).shared 0 0 sh) hview :)
  have hmem : v.mem = s.mem := (congrArg State.mem hview :)
  rw [State.mixRows_mem_of_one hrows hshared ?sound (hlayer ▸ hblocks) ?dead (hlayer ▸ hresidual) hout, hmem, hlayer, hvalues]
  case dead => exact (congrArg (fun y : State => y.rowDead g (y.routeOf g 0).1) hview).trans hdead
  case sound =>
    exact (congrArg (fun y : State => (y.mixBlocks g (y.chunkShape g l) 0 sh).findSome? y.blockViol) hview).trans hsound

end

/-! ## Consuming XT_DN (R220, R336) -/

/-- XT_DN is consumed when it counted the entries of a chunk. -/
def State.dnConsumed (s : State) (g l : Nat) : State :=
  if !(s.sagger g).router.chunks.isEmpty then
    s.consumeTally (tallyKey g (s.moe g l).xtDn) (BitVec.ofNat 48 (s.sagger g).router.dnTarget) (agentId 4 (dieOfSagger g) 0)
  else s

theorem WheelFrame.consumeTally {ps : List Field} {ws gs : List Nat} {s t : State} {k : Nat} {target : BitVec 48}
    {agent : BitVec 13} (h : WheelFrame ps ws gs s t) (hp : ∀ p ∈ [Field.tallies, .lute], p ∈ ps := by decide) :
    WheelFrame ps ws gs s (t.consumeTally k target agent) := .ite (h.onTally (hp _ (by simp))) (h.sendTally (hp _ (by simp)))

theorem State.dnConsumed_frame (s : State) (g l : Nat) : WheelFrame [.tallies, .lute] [] [] s (s.dnConsumed g l) :=
  .ite WheelFrame.refl.consumeTally .refl

theorem State.consumeTally_tally_other (s : State) {k j : Nat} (target : BitVec 48) (agent : BitVec 13) (h : j ≠ k) :
    (s.consumeTally k target agent).tally j = s.tally j := by
  unfold State.consumeTally
  split
  · rw [State.onTally_tally, if_neg h]
  · rfl

theorem State.dnConsumed_tally_other (s : State) {g l i : Nat} (h : i ≠ (s.moe g l).xtDn) :
    (s.dnConsumed g l).tally (tallyKey g i) = s.tally (tallyKey g i) := by
  unfold State.dnConsumed
  split
  · exact s.consumeTally_tally_other _ _ fun hk => h (Nat.add_left_cancel hk)
  · rfl

/-! ## The end of the layer (R220) -/

/-- The layer ends and XT_MIX is signalled. -/
def State.mixEnded (s : State) (g i : Nat) : State := (s.endLayer g).advance g i (agentId 4 (dieOfSagger g) 0)

theorem WheelFrame.mixEnded {ps : List Field} {gs : List Nat} {s t : State} {g i : Nat} (h : WheelFrame ps [] gs s t)
    (hg : g < 12) (hi : i < 4096) (hp : ∀ p ∈ [Field.saggers, .tallies, .flog, .lute], p ∈ ps := by decide)
    (hgs : g ∈ gs := by simp) : WheelFrame ps [] gs s (t.mixEnded g i) :=
  ((h.onSagger (hp _ (by simp)) hgs).touch (hp _ (by simp)) hgs).advance hg hi hp hgs

theorem State.mixEnded_router (s : State) (g i : Nat) : ((s.mixEnded g i).sagger g).router =
    { (s.sagger g).router with
      layer := none, nextMoe := (s.sagger g).router.nextMoe + 1, chunks := [], arenaUsed := [], stalled := none
      pred := (s.sagger g).router.pred.filter fun p => p.2 != .confirmed && p.2 != .squashed } := by
  simp [State.mixEnded, State.endLayer, State.onRouter]

theorem State.mixEnded_prod {s : State} {g i : Nat} (hi : i < 4096) (hluted : s.luted g = false)
    (hmode : (s.tally (tallyKey g i)).mode ≠ 0) :
    ((s.mixEnded g i).tally (tallyKey g i)).prod = (s.tally (tallyKey g i)).prod + 1 :=
  State.advance_prod (s := s.endLayer g) _ hi hmode (State.homeHere_of_not_luted hi hluted)

/-! ## MIX_RUN (R220) -/

theorem execMixRun_of_counted {g : SaggerIx} {outs : List (List (BitVec 32))} {s : State} {l : Nat}
    (hlayer : (s.sagger g.val).router.layer = some l) (hserve : (s.sagger g.val).st = .serving)
    (hhalt : (s.sagger g.val).listHalt = false) (hglu : (s.sagger g.val).router.gluDone = true)
    (hluted : s.luted g.val = false)
    (hdn : (s.sagger g.val).router.chunks = [] ∨ reached (s.tally (tallyKey g.val (s.moe g.val l).xtDn)).prod
      (BitVec.ofNat 48 (s.sagger g.val).router.dnTarget) = true) :
    exec (.mixRun g outs) s =
      .next (((s.dnConsumed g.val l).mixRows g.val l (s.sagger g.val) outs).mixEnded g.val (s.moe g.val l).xtMix) := by
  have hjoined : s.joined g.val l = true := by simp [State.joined, hluted]
  have hwaits : (!(s.sagger g.val).router.chunks.isEmpty && !reached (s.tally (tallyKey g.val (s.moe g.val l).xtDn)).prod
      (BitVec.ofNat 48 (s.sagger g.val).router.dnTarget)) = false := by
    rcases hdn with h | h <;> simp [h]
  show execMixRun g outs s = _
  simp only [execMixRun, hlayer]
  rw [if_neg (by simp [hserve, hhalt, hglu, hjoined]), if_neg (by simp [hwaits]), if_neg (by simp [hluted])]
  rfl

/-- What MIX_RUN may change: the parts that consuming XT_DN, mixing the rows and ending the layer may change. -/
theorem State.mixRun_frame {s u : State} {g l i : Nat} (hg : g < 12) (hi : i < 4096) (hkeeps : MixKeeps g (s.dnConsumed g l) u) :
    WheelFrame [.mem, .regs, .saggers, .tallies, .flog, .lute] [] [g] s (u.mixEnded g i) :=
  (((s.dnConsumed_frame g l).mono (by decide) (List.nil_subset _)).trans (hkeeps.frame.mono (by decide) (List.Subset.refl _))).mixEnded
    hg hi

/-- Settles O26: MIX_RUN consumes XT_DN, mixes the rows, and ends the layer; the mixing of one row and one block is one write. -/
theorem theMixerSumsGatedOutputs : Obligations.TheMixerSumsGatedOutputs := by
  rintro g outs s l m k r rfl hlayer rfl rfl hserve hhalt hglu hluted hmix hne hdn
  refine ⟨_, execMixRun_of_counted hlayer hserve hhalt hglu hluted hdn, ?_⟩
  have hdnFrame := s.dnConsumed_frame g.val l
  have hview := hdnFrame.mixView_eq
  generalize hu : (s.dnConsumed g.val l).mixRows g.val l (s.sagger g.val) outs = u
  have hkeeps : MixKeeps g.val (s.dnConsumed g.val l) u := hu ▸ MixKeeps.refl.mixRows
  have hrouter : (u.sagger g.val).router = (s.sagger g.val).router := by
    rw [hkeeps.router, hdnFrame.saggers g.val List.not_mem_nil]
  have htally : u.tally (tallyKey g.val (s.moe g.val l).xtMix) = s.tally (tallyKey g.val (s.moe g.val l).xtMix) := by
    rw [hkeeps.frame.tally_eq, State.dnConsumed_tally_other s hne]
  have hended : WheelFrame [.saggers, .tallies, .flog, .lute] [] [g.val] u (u.mixEnded g.val (s.moe g.val l).xtMix) :=
    WheelFrame.refl.mixEnded g.isLt hmix
  have hframe := State.mixRun_frame g.isLt hmix hkeeps
  rw [State.mixEnded_router, hrouter]
  refine ⟨rfl, rfl, rfl, rfl, fun hmode => ?prod, ?mem, hframe.only, ?block⟩
  case prod =>
    have hlutedU : u.luted g.val = false := by
      rw [State.luted, State.device, hkeeps.frame.plan_eq, hdnFrame.plan_eq]
      exact hluted
    rw [State.mixEnded_prod hmix hlutedU (htally ▸ hmode), htally]
  case mem =>
    have hslab := hkeeps.slab.same
    rw [hdnFrame.mem_eq] at hslab
    rw [hended.mem_eq]
    exact hslab
  case block =>
    rintro sh lay out b hrows hshared hdead hsound rfl hblocks hresidual hout rfl
    have hmem := State.mixRows_mem_of_view hrows hshared hsound hblocks hdead hresidual hout hview
    rw [hu, ← hended.mem_eq] at hmem
    obtain ⟨hread, houtside, -⟩ := State.slab_of_slabWrite hmem
    exact ⟨hread, houtside⟩

end Sys2Proof.Machine

namespace Sys2Proof.Machine

/-! # What the log-domain and stochastic units may change

The frames of chapter 03 serve chapter 05 as well: an LDU's or an SSU's work is a change of its own unit among changes that
leave every unit as it is. -/

theorem State.onLdu_only (s : State) (l : Nat) (f : Ldu → Ldu) : Only [.ldus] s (s.onLdu l f) := by
  intro p hp
  cases p
  case ldus => simp at hp
  all_goals rfl

theorem State.onSsu_only (s : State) (d : Nat) (f : Ssu → Ssu) : Only [.ssus] s (s.onSsu d f) := by
  intro p hp
  cases p
  case ssus => simp at hp
  all_goals rfl

/-! ## The other units of a kind -/

theorem Others.trans {α : Type} {f : State → Nat → α} {us : List Nat} {s t u : State} (h : Others f us s t)
    (h' : Others f us t u) : Others f us s u := fun k hk => (h' k hk).trans (h k hk)

theorem Others.single {α : Type} {f : State → Nat → α} {u : Nat} {s t : State} (h : ∀ k, k ≠ u → f t k = f s k) :
    Others f [u] s t := fun k hk => h k (by simpa using hk)

theorem State.onLdu_others (s : State) (l : Nat) (f : Ldu → Ldu) : Others State.ldu [l] s (s.onLdu l f) :=
  .single fun k hk => by rw [State.onLdu_ldu, if_neg hk]

theorem State.onTally_others (s : State) (k : Nat) (f : Tally → Tally) : Others State.tally [k] s (s.onTally k f) :=
  .single fun j hj => by rw [State.onTally_tally, if_neg hj]

namespace WheelFrame

variable {ps : List Field} {ws gs : List Nat} {s t : State}

theorem onLdu {l : Nat} {f : Ldu → Ldu} (h : WheelFrame ps ws gs s t) (hp : .ldus ∈ ps := by decide) :
    WheelFrame ps ws gs s (t.onLdu l f) :=
  h.trans ⟨(t.onLdu_only l f).widen hp, fun _ _ => rfl, fun _ _ => rfl⟩

theorem onSsu {d : Nat} {f : Ssu → Ssu} (h : WheelFrame ps ws gs s t) (hp : .ssus ∈ ps := by decide) :
    WheelFrame ps ws gs s (t.onSsu d f) :=
  h.trans ⟨(t.onSsu_only d f).widen hp, fun _ _ => rfl, fun _ _ => rfl⟩

theorem foldl {α : Type} {f : State → α → State} (hf : ∀ u x, WheelFrame ps ws gs s u → WheelFrame ps ws gs s (f u x))
    (xs : List α) (h : WheelFrame ps ws gs s t) : WheelFrame ps ws gs s (xs.foldl f t) :=
  List.foldlRecOn xs f h fun u hu x _ => hf u x hu

theorem ldu_eq (h : WheelFrame ps ws gs s t) (k : Nat) (hp : .ldus ∉ ps := by decide) : t.ldu k = s.ldu k :=
  congrArg (fun l : Tab Ldu => tget ({} : Ldu) l k) (h.only .ldus hp)

theorem ssu_eq (h : WheelFrame ps ws gs s t) (k : Nat) (hp : .ssus ∉ ps := by decide) : t.ssu k = s.ssu k :=
  congrArg (fun l : Tab Ssu => tget ({} : Ssu) l k) (h.only .ssus hp)

theorem ldus (h : WheelFrame ps ws gs s t) {us : List Nat} (hp : .ldus ∉ ps := by decide) : Others State.ldu us s t :=
  fun k _ => h.ldu_eq k hp

theorem ssus (h : WheelFrame ps ws gs s t) {us : List Nat} (hp : .ssus ∉ ps := by decide) : Others State.ssu us s t :=
  fun k _ => h.ssu_eq k hp

theorem tallies (h : WheelFrame ps ws gs s t) {us : List Nat} (hp : .tallies ∉ ps := by decide) : Others State.tally us s t :=
  fun k _ => h.tally_eq k hp

/-! ## Counts and failed requests -/

theorem countL16 {l : Nat} {x : L16Group} (h : WheelFrame ps ws gs s t) (hp : .regs ∈ ps := by decide) :
    WheelFrame ps ws gs s (t.countL16 l x) := (h.bump hp).bump hp

theorem lduRan {l n : Nat} (h : WheelFrame ps ws gs s t) (hp : .freeCtr ∈ ps := by decide) (hr : .regs ∈ ps := by decide) :
    WheelFrame ps ws gs s (t.lduRan l n) := ((h.withFreeCtr hp).bump hr).bump hr

theorem failSlot {block detail g unit slot : Nat} (h : WheelFrame ps ws gs s t)
    (hp : ∀ p ∈ [Field.saggers, .flog, .lute], p ∈ ps := by decide) (hg : g ∈ gs := by simp) :
    WheelFrame ps ws gs s (t.failSlot block detail g unit slot) := by
  unfold State.failSlot
  split
  next => exact h
  next q _ => exact (h.raise hp fun hlt => (sgField_toNat hlt).symm ▸ hg).onSagger (hp _ (by simp)) hg

theorem failRows {detail g l : Nat} (h : WheelFrame ps ws gs s t)
    (hp : ∀ p ∈ [Field.saggers, .flog, .lute], p ∈ ps := by decide) (hg : g ∈ gs := by simp) :
    WheelFrame ps ws gs s (t.failRows detail g l) := foldl (fun _ _ hu => hu.failSlot hp hg) _ h

theorem scoreCheck {l g : Nat} {o : OpRec} (h : WheelFrame ps ws gs s t)
    (hp : ∀ p ∈ [Field.saggers, .flog, .lute], p ∈ ps := by decide) (hg : g ∈ gs := by simp) :
    WheelFrame ps ws gs s (t.scoreCheck l g o) := by
  unfold State.scoreCheck
  split
  · exact .ite ((h.haltList (hp _ (by simp)) hg).fault hp hg) h
  · exact h

end WheelFrame

end Sys2Proof.Machine

namespace Sys2Proof.Machine

/-! # The end of an operation record (R152, R162) -/

/-! ## Its tally -/

theorem State.applySignal_others (s : State) (k n : Nat) (agent : BitVec 13) :
    Others State.tally [k] s (s.applySignal k n agent) := by
  have hsignal : Others State.tally [k] s ((s.onTally k (·.signal n agent)).tallyTouch k) :=
    fun j hj => (State.tallyTouch_tally ..).trans (s.onTally_others k _ j hj)
  have hfault (u : State) : WheelFrame [.saggers, .flog, .lute] [] [tallySagger k] u (u.tallyFault k 0xC0 (tallySagger k)) :=
    WheelFrame.refl.tallyFault
  unfold State.applySignal
  dsimp only
  split
  · exact (hsignal.trans (State.onTally_others _ k _)).trans (hfault _).tallies
  · exact hsignal

/-- The tally that advances is the one named (R336, R337). -/
theorem State.advance_others (s : State) (g i : Nat) (agent : BitVec 13) :
    Others State.tally [tallyKey g i] s (s.advance g i agent) := by
  unfold State.advance State.signalTally State.deliverSignal
  split
  · exact (WheelFrame.refl (ps := [.saggers, .flog, .lute]) (ws := []) (gs := [g]) (s := s)).tallyFault.tallies
  · split
    · exact s.applySignal_others _ 1 agent
    · exact fun j _ => State.tallyTouch_tally ..

/-! ## The record leaves its LDU -/

/-- From `s` to `t` LDU `l` has finished its record: it is free, and the record's tally `key`, in use and at home, has advanced;
no other LDU and no other tally has changed. -/
structure EndsRecord (l key : Nat) (s t : State) : Prop where
  free    : (t.ldu l).cur = none
  prod    : (s.tally key).mode ≠ 0 → s.homeHere key = true → (t.tally key).prod = (s.tally key).prod + 1
  ldus    : Others State.ldu [l] s t
  tallies : Others State.tally [key] s t

theorem State.curOp_tally_lt {s : State} {l kind g : Nat} {o : OpRec} (h : s.curOp l kind = some (g, o)) : o.tally < 4096 := by
  unfold State.curOp at h
  split at h
  · split at h
    · cases h
      exact Nat.mod_lt _ (by decide)
    · cases h
  · cases h

section
variable {s u : State} {l g : Nat} {o : OpRec} (hg : g < 12) (ho : o.tally < 4096)
include hg ho

/-- What ends a record once its LDU is free. -/
theorem State.opDone_after (s : State) (l : Nat) : WheelFrame [.saggers, .tallies, .flog, .lute] [] [g]
    (s.onLdu l fun x => { x with cur := none }) (s.opDone l g o) := (WheelFrame.refl.advance hg ho).touch

theorem WheelFrame.opDone {ps : List Field} {ws gs : List Nat} (h : WheelFrame ps ws gs s u)
    (hp : ∀ p ∈ [Field.ldus, .saggers, .tallies, .flog, .lute], p ∈ ps := by decide) (hgs : g ∈ gs := by simp) :
    WheelFrame ps ws gs s (u.opDone l g o) :=
  ((h.onLdu (hp _ (by simp))).advance hg ho (fun p hm => hp p (List.mem_cons_of_mem _ hm)) hgs).touch (hp _ (by simp)) hgs

theorem State.opDone_mem (s : State) (l : Nat) : (s.opDone l g o).mem = s.mem := (State.opDone_after hg ho s l).mem_eq

/-- A record ends after work that leaves LDUs, tallies and the plan as they are. -/
theorem State.opDone_endsRecord {ps : List Field} {ws gs : List Nat} (h : WheelFrame ps ws gs s u) (l : Nat)
    (hp : ∀ p ∈ [Field.plan, .ldus, .tallies], p ∉ ps := by decide) :
    EndsRecord l (tallyKey g o.tally) s (u.opDone l g o) := by
  have hldu := hp .ldus (by simp)
  have htally := hp .tallies (by simp)
  have hafter := State.opDone_after hg ho u l
  refine ⟨?free, fun hmode hhome => ?prod, ?ldus, ?tallies⟩
  case free =>
    rw [hafter.ldu_eq, State.onLdu_ldu, if_pos rfl]
  case prod =>
    have hprod := State.advance_prod (s := u.onLdu l fun x => { x with cur := none }) (g := g) (i := o.tally)
      (agentId 3 (dieOfShelf l) (l % 6)) ho (by rw [State.onLdu_tally, h.tally_eq _ htally]; exact hmode)
      ((h.homeHere_eq _ (hp _ (by simp)) htally).trans hhome)
    rw [State.onLdu_tally, h.tally_eq _ htally] at hprod
    exact hprod
  case ldus => exact ((h.ldus hldu).trans (u.onLdu_others l _)).trans hafter.ldus
  case tallies => exact (h.tallies htally).trans ((u.onLdu l _).advance_others g o.tally _)

end

/-! ## Running a record (R152, R157, R162) -/

section
variable {s : State} {l g cols cyc : Nat} {o : OpRec} {effect : State → State}

theorem State.runOp_of_viol {e : Nat} (h : o.inputs.findSome? s.blockViol = some e) :
    s.runOp l g o cols cyc effect = (((s.lduRan l cyc).failRows e g l).bump .sgrFmtViol g 1).opDone l g o := by
  simp only [State.runOp, h]

theorem State.runOp_of_sound (h : o.inputs.findSome? s.blockViol = none)
    (hpoison : cols ≠ 0 → s.chunkPoisoned o.matAddr (cols * o.colBytes) = false)
    (hcols : ∀ c < cols, s.colBad o c = false) : s.runOp l g o cols cyc effect = (effect (s.lduRan l cyc)).opDone l g o := by
  have hgood : (List.range cols).any (s.colBad o) = false := by simpa using hcols
  simp only [State.runOp, h, hgood]
  rw [if_neg (by rintro ⟨hne, hbad⟩; simp [hpoison hne] at hbad), if_neg (by simp)]

end

section
variable {s : State} {l : ShelfIx} {g : Nat} {o : OpRec}

theorem exec_norm_of_curOp (h : s.curOp l.val 0x10 = some (g, o)) :
    exec (.norm l) s = .next (s.runOp l.val g o 1 (16 * o.dim) (·.normOp l.val g o)) := by
  show execNorm l s = _
  simp only [execNorm, h]

theorem exec_prod_of_curOp (h : s.curOp l.val 0x11 = some (g, o)) :
    exec (.prod l) s =
      .next ((s.scoreCheck l.val g o).runOp l.val g o o.cols ((o.cols + 63) / 64 * 8 * o.dim) (·.prodOp l.val g o)) := by
  show execProd l s = _
  simp only [execProd, h]

theorem exec_glu_of_curOp (h : s.curOp l.val 0x12 = some (g, o)) :
    exec (.glu l) s = .next (s.runOp l.val g o 0 (4 * o.dim) (·.gluOp l.val g o)) := by
  show execGlu l s = _
  simp only [execGlu, h]

theorem exec_outer_of_curOp (h : s.curOp l.val 0x13 = some (g, o)) :
    exec (.outer l) s = .next (s.runOp l.val g o 0 ((o.cols + 63) / 64 * 8 * o.dim) (·.outerOp l.val o)) := by
  show execOuter l s = _
  simp only [execOuter, h]

end

/-- What a record reads of its blocks depends on memory alone. -/
theorem State.blockViol_congr {s t : State} (h : t.mem = s.mem) : t.blockViol = s.blockViol := by
  funext a
  simp only [State.blockViol, State.blockAtSlab, State.slabNum, State.slab, h]

end Sys2Proof.Machine

namespace Sys2Proof.Machine

/-! # Operation records whose input is damaged, and OUTER (O20) -/

/-! ## A damaged input (R57, R162) -/

/-- Each kind of record, after what its command checks first, runs as a record of an LDU (R152). -/
theorem exec_of_curOp {s : State} {l : ShelfIx} {kind g : Nat} {o : OpRec} {c : Instr}
    (hc : (kind, c) ∈ [(0x10, Instr.norm l), (0x11, Instr.prod l), (0x12, Instr.glu l), (0x13, Instr.outer l)])
    (hcur : s.curOp l.val kind = some (g, o)) :
    ∃ u cols cyc effect, WheelFrame [.saggers, .flog, .lute] [] [g] s u ∧
      exec c s = .next (u.runOp l.val g o cols cyc effect) := by
  simp only [List.mem_cons, Prod.mk.injEq, List.not_mem_nil, or_false] at hc
  obtain ⟨rfl, rfl⟩ | ⟨rfl, rfl⟩ | ⟨rfl, rfl⟩ | ⟨rfl, rfl⟩ := hc
  · exact ⟨s, _, _, _, .refl, exec_norm_of_curOp hcur⟩
  · exact ⟨_, _, _, _, WheelFrame.refl.scoreCheck, exec_prod_of_curOp hcur⟩
  · exact ⟨s, _, _, _, .refl, exec_glu_of_curOp hcur⟩
  · exact ⟨s, _, _, _, .refl, exec_outer_of_curOp hcur⟩

/-! ## Words of HBM that take a sum (R157, R299) -/

/-- Every word of the list, at its address, takes its value. -/
def State.addF32s (s : State) (ws : List (Nat × Nat)) : State := ws.foldl (fun s w => s.addF32At w.1 w.2) s

theorem State.addF32At_hbmNum (s : State) (a v : Nat) :
    (s.addF32At a v).hbmNum a 4 = f32Add (Config.freeNat s.freeCtr) (s.hbmNum a 4) v % 2 ^ 32 := mnum_mputNum ..

theorem State.addF32At_mget (s : State) {a x : Nat} (v : Nat) (h : x < a ∨ a + 4 ≤ x) :
    mget (s.addF32At a v).mem.hbm x = mget s.mem.hbm x := mget_mwrite_of_outside _ _ _ _ (by simpa using h)

theorem WheelFrame.addF32At {ps : List Field} {ws gs : List Nat} {s t : State} {a v : Nat} (h : WheelFrame ps ws gs s t)
    (hp : ∀ p ∈ [Field.freeCtr, .mem, .regs], p ∈ ps := by decide) : WheelFrame ps ws gs s (t.addF32At a v) := by
  have hr := hp .regs (by simp)
  exact ((((h.withFreeCtr (hp _ (by simp))).withMem (hp _ (by simp))).bump hr).bump hr).bump hr |>.bump hr

theorem WheelFrame.addF32s {ps : List Field} {ws gs : List Nat} {s t : State} {l : List (Nat × Nat)}
    (h : WheelFrame ps ws gs s t) (hp : ∀ p ∈ [Field.freeCtr, .mem, .regs], p ∈ ps := by decide) :
    WheelFrame ps ws gs s (t.addF32s l) :=
  foldl (fun _ _ hu => hu.addF32At hp) _ h

theorem State.addF32s_mem (s : State) (ws : List (Nat × Nat)) :
    (s.addF32s ws).mem = { s.mem with hbm := (s.addF32s ws).mem.hbm } := by
  induction ws generalizing s with
  | nil => rfl
  | cons w ws ih => exact ih (s.addF32At w.1 w.2)

/-- A byte of no word of the list stays. -/
theorem State.addF32s_mget {ws : List (Nat × Nat)} {x : Nat} (s : State) (h : ∀ w ∈ ws, x < w.1 ∨ w.1 + 4 ≤ x) :
    mget (s.addF32s ws).mem.hbm x = mget s.mem.hbm x := by
  induction ws generalizing s with
  | nil => rfl
  | cons w ws ih =>
    obtain ⟨hw, hws⟩ := List.forall_mem_cons.1 h
    exact (ih _ hws).trans (s.addF32At_mget w.2 hw)

theorem hbmNum_congr {s t : State} {a n : Nat} (h : ∀ x, a ≤ x → x < a + n → mget t.mem.hbm x = mget s.mem.hbm x) :
    t.hbmNum a n = s.hbmNum a n := congrArg leNat (mread_of_outside h)

/-- Of words in rising order without overlap each takes its own value, once. -/
theorem State.addF32s_hbmNum {ws : List (Nat × Nat)} {w : Nat × Nat} (s : State)
    (hrise : ws.Pairwise fun v w => v.1 + 4 ≤ w.1) (hw : w ∈ ws) :
    ∃ k, (s.addF32s ws).hbmNum w.1 4 = f32Add (Config.freeNat k) (s.hbmNum w.1 4) w.2 % 2 ^ 32 := by
  induction ws generalizing s with
  | nil => cases hw
  | cons v ws ih =>
    obtain ⟨hv, hrest⟩ := List.pairwise_cons.1 hrise
    obtain rfl | hw := List.mem_cons.1 hw
    · refine ⟨s.freeCtr, (hbmNum_congr fun x hlo hhi => ?_).trans (s.addF32At_hbmNum ..)⟩
      exact State.addF32s_mget _ fun u hu => .inl (Nat.lt_of_lt_of_le hhi (hv u hu))
    · obtain ⟨k, hk⟩ := ih (s.addF32At v.1 v.2) hrest hw
      have hold : (s.addF32At v.1 v.2).hbmNum w.1 4 = s.hbmNum w.1 4 :=
        hbmNum_congr fun x hlo hhi => s.addF32At_mget _ (.inr (by have := hv w hw; omega))
      exact ⟨k, hold ▸ hk⟩

/-! ## The words of an OUTER record (R157) -/

/-- The rows of the first operand. -/
def State.outerX (s : State) (o : OpRec) : List L16Group := (List.range o.rows).map fun r => toL16 (s.opRow o o.inAddr r)

/-- The rows of the second operand. -/
def State.outerY (s : State) (o : OpRec) : List L16Group :=
  (List.range o.rows).map fun r =>
    toL16 (((blockAddrs (o.out + r * o.yBlocks * o.slot) o.slot o.yBlocks).flatMap s.blockValues).take o.cols)

/-- The word of (i, c) and the sum that it takes. -/
def State.outerWord (s : State) (l : Nat) (o : OpRec) (i c : Nat) : Nat × Nat :=
  (o.matAddr + (i * o.cols + c) * 4,
    f32Round (logDot (s.ldu l).step (((s.outerX o).map L16Group.terms).map fun x => x.getD i none)
      (((s.outerY o).map L16Group.terms).map fun y => y.getD c none)) false)

/-- The words of a record's region, row after row. -/
def State.outerWords (s : State) (l : Nat) (o : OpRec) : List (Nat × Nat) :=
  (List.range (1024 * o.dim)).flatMap fun i => (List.range o.cols).map (s.outerWord l o i)

/-- The conversions of a record's operands are counted. -/
def State.outerCounted (s : State) (l : Nat) (o : OpRec) : State := (s.outerX o ++ s.outerY o).foldl (fun s x => s.countL16 l x) s

theorem State.outerCounted_frame (s : State) (l : Nat) (o : OpRec) : WheelFrame [.regs] [] [] s (s.outerCounted l o) :=
  .foldl (fun _ _ hu => hu.countL16) _ .refl

theorem State.outerOp_eq (s : State) (l : Nat) (o : OpRec) :
    s.outerOp l o = (s.outerCounted l o).addF32s (s.outerWords l o) := by
  simp only [State.outerOp, State.addF32s, State.outerWords, List.foldl_flatMap, List.foldl_map]
  rfl

theorem State.mem_outerWords {s : State} {l i c : Nat} {o : OpRec} (hi : i < 1024 * o.dim) (hc : c < o.cols) :
    s.outerWord l o i c ∈ s.outerWords l o :=
  List.mem_flatMap.2 ⟨i, List.mem_range.2 hi, List.mem_map.2 ⟨c, List.mem_range.2 hc, rfl⟩⟩

/-- The words of a region rise without overlap. -/
theorem State.outerWords_rise (s : State) (l : Nat) (o : OpRec) :
    (s.outerWords l o).Pairwise fun v w => v.1 + 4 ≤ w.1 := by
  refine List.pairwise_flatMap.2 ⟨fun i _ => ?row, ?rows⟩
  case row =>
    refine List.pairwise_map.2 (List.pairwise_lt_range.imp fun {c d} hcd => ?_)
    simp only [State.outerWord]
    omega
  case rows =>
    refine List.pairwise_lt_range.imp fun {i j} hij v hv w hw => ?_
    obtain ⟨c, hc, rfl⟩ := List.mem_map.1 hv
    obtain ⟨d, -, rfl⟩ := List.mem_map.1 hw
    have hrow : (i + 1) * o.cols ≤ j * o.cols := Nat.mul_le_mul_right _ hij
    rw [Nat.succ_mul] at hrow
    have hc := List.mem_range.1 hc
    simp only [State.outerWord]
    omega

/-- The words of a record lie in its region. -/
theorem State.outerWords_bound {s : State} {l : Nat} {o : OpRec} {w : Nat × Nat} (h : w ∈ s.outerWords l o) :
    o.matAddr ≤ w.1 ∧ w.1 + 4 ≤ o.matAddr + 4096 * o.dim * o.cols := by
  obtain ⟨i, hi, hw⟩ := List.mem_flatMap.1 h
  obtain ⟨c, hc, rfl⟩ := List.mem_map.1 hw
  have hi := List.mem_range.1 hi
  have hc := List.mem_range.1 hc
  have hrow : (i + 1) * o.cols ≤ 1024 * o.dim * o.cols := Nat.mul_le_mul_right _ hi
  have hregion : 4 * (1024 * o.dim * o.cols) = 4096 * o.dim * o.cols := by rw [← Nat.mul_assoc, ← Nat.mul_assoc]
  rw [Nat.succ_mul] at hrow
  simp only [State.outerWord]
  omega

/-! ## What an OUTER record changes (R157) -/

/-- The words of a record take their sums once its cycles are counted. -/
def State.outerRun (s : State) (l : Nat) (o : OpRec) : State := (s.lduRan l ((o.cols + 63) / 64 * 8 * o.dim)).outerOp l o

theorem exec_outer_of_sound {s : State} {l : ShelfIx} {g : Nat} {o : OpRec} (hcur : s.curOp l.val 0x13 = some (g, o))
    (hsound : o.inputs.findSome? s.blockViol = none) : exec (.outer l) s = .next ((s.outerRun l.val o).opDone l.val g o) := by
  rw [exec_outer_of_curOp hcur, State.runOp_of_sound hsound (by simp) (by simp), State.outerRun]

section
variable (s : State) (l : Nat) (o : OpRec)

/-- Counting cycles and conversions changes neither memory nor what the sums are formed of. -/
theorem State.outerRun_eq : ∃ u, WheelFrame [.regs, .freeCtr] [] [] s u ∧ s.outerRun l o = u.addF32s (s.outerWords l o) := by
  have hran : WheelFrame [.regs, .freeCtr] [] [] s (s.lduRan l ((o.cols + 63) / 64 * 8 * o.dim)) := WheelFrame.refl.lduRan
  exact ⟨_, hran.trans ((State.outerCounted_frame _ l o).mono (by decide) (List.Subset.refl _)), State.outerOp_eq _ l o⟩

theorem State.outerRun_frame (gs : List Nat) : WheelFrame [.mem, .regs, .freeCtr] [] gs s (s.outerRun l o) := by
  obtain ⟨u, hu, h⟩ := s.outerRun_eq l o
  rw [h]
  exact (hu.mono (by decide) (List.nil_subset _)).addF32s

theorem State.outerRun_mem : (s.outerRun l o).mem = { s.mem with hbm := (s.outerRun l o).mem.hbm } := by
  obtain ⟨u, hu, h⟩ := s.outerRun_eq l o
  rw [h, State.addF32s_mem, hu.mem_eq]

theorem State.outerRun_outside : Outside o.matAddr (4096 * o.dim * o.cols) s.mem.hbm (s.outerRun l o).mem.hbm := by
  obtain ⟨u, hu, h⟩ := s.outerRun_eq l o
  intro x hx
  rw [h, State.addF32s_mget, hu.mem_eq]
  intro w hw
  obtain ⟨hlo, hhi⟩ := State.outerWords_bound hw
  omega

theorem State.outerRun_hbmNum {i c : Nat} (hi : i < 1024 * o.dim) (hc : c < o.cols) :
    ∃ k, (s.outerRun l o).hbmNum (s.outerWord l o i c).1 4 =
      f32Add (Config.freeNat k) (s.hbmNum (s.outerWord l o i c).1 4) (s.outerWord l o i c).2 % 2 ^ 32 := by
  obtain ⟨u, hu, h⟩ := s.outerRun_eq l o
  obtain ⟨k, hk⟩ := u.addF32s_hbmNum (s.outerWords_rise l o) (State.mem_outerWords hi hc)
  refine ⟨k, ?_⟩
  rw [h, hk, State.hbmNum, State.hbmNum, hu.mem_eq]

end

/-- Settles O20: an OUTER record is one addition into each word of its region, and a damaged input runs no record. -/
theorem outerRecordsAddIntoTheirRegion : Obligations.OuterRecordsAddIntoTheirRegion := by
  refine ⟨fun l s g o key hg hkey hcur hsound => ?outer, fun l s g o key kind c e hg hkey hc hcur hviol => ?damaged⟩
  all_goals
    subst hkey
    have ho := State.curOp_tally_lt hcur
  case outer =>
    have hrun := s.outerRun_frame l.val o [g]
    have hends := State.opDone_endsRecord hg ho hrun l.val
    have hframe : WheelFrame [.mem, .regs, .freeCtr, .ldus, .saggers, .tallies, .flog, .lute] [] [g] s
        ((s.outerRun l.val o).opDone l.val g o) := (hrun.mono (by decide) (List.Subset.refl _)).opDone hg ho
    have hmem := State.opDone_mem hg ho (s.outerRun l.val o) l.val
    refine ⟨_, exec_outer_of_sound hcur hsound, hends.free, hends.prod, ?words, ?mem, ?outside, hframe.only, hends.ldus,
      hends.tallies⟩
    case words =>
      rintro xt yt rfl rfl i c hi hc
      obtain ⟨k, hk⟩ := s.outerRun_hbmNum l.val o hi hc
      refine ⟨k, ?_⟩
      simpa only [State.hbmNum, hmem, State.outerWord, State.outerX, State.outerY, List.map_map, Function.comp_def] using hk
    case mem => rw [hmem, State.outerRun_mem]
    case outside => rw [hmem]; exact s.outerRun_outside l.val o
  case damaged =>
    obtain ⟨u, cols, cyc, effect, hu, hexec⟩ := exec_of_curOp hc hcur
    rw [← State.blockViol_congr hu.mem_eq] at hviol
    have hfailed : WheelFrame [.regs, .freeCtr, .saggers, .flog, .lute] [] [g] s
        (((u.lduRan l.val cyc).failRows e g l.val).bump .sgrFmtViol g 1) :=
      (hu.mono (by decide) (List.Subset.refl _)).lduRan.failRows.bump
    have hframe : WheelFrame [.regs, .freeCtr, .ldus, .saggers, .tallies, .flog, .lute] [] [g] s _ :=
      (hfailed.mono (by decide) (List.Subset.refl _)).opDone hg ho (l := l.val) (o := o)
    have hends := State.opDone_endsRecord hg ho hfailed l.val
    exact ⟨_, hexec.trans (congrArg _ (State.runOp_of_viol hviol)), hends.free, hframe.mem_eq, hends.prod, hframe.only,
      hends.ldus⟩

end Sys2Proof.Machine

namespace Sys2Proof.Machine

/-! # Rows written to the slabs (O19) -/

/-! ## Blocks and rows (R46, R154, R156) -/

section
variable {ps : List Field} {ws gs : List Nat} {s t : State}

theorem WheelFrame.writeBlocks {g a stride fmt : Nat} {lay : LayerInfo} {vs : List Dyad} (h : WheelFrame ps ws gs s t)
    (hp : ∀ p ∈ [Field.mem, .regs], p ∈ ps := by decide) : WheelFrame ps ws gs s (t.writeBlocks g a stride fmt lay vs) := by
  have hr := hp .regs (by simp)
  exact foldl (fun _ _ hu => (((hu.withMem (hp _ (by simp))).bump hr).bump hr).bump hr) _ h

theorem WheelFrame.writeRow {l g r : Nat} {o : OpRec} {rs : List LogRes} (h : WheelFrame ps ws gs s t)
    (hp : ∀ p ∈ [Field.mem, .regs], p ∈ ps := by decide) : WheelFrame ps ws gs s (t.writeRow l g o r rs) := by
  have hcount := h.countL16 (l := l) (x := resultRow rs) (hp _ (by simp))
  exact .ite (hcount.withMem (hp _ (by simp))) (hcount.writeBlocks hp)

end

theorem State.writeBlocks_slabOnly (s : State) (g a stride fmt : Nat) (lay : LayerInfo) (vs : List Dyad) :
    SlabOnly s.mem (s.writeBlocks g a stride fmt lay vs).mem :=
  SlabOnly.foldl (π := State.mem) (fun _ _ hu => Memories.slabWrite_only _ _ hu) (.refl _)

theorem State.writeRow_slabOnly (s : State) (l g : Nat) (o : OpRec) (r : Nat) (rs : List LogRes) :
    SlabOnly s.mem (s.writeRow l g o r rs).mem := by
  unfold State.writeRow
  dsimp only
  split
  · exact Memories.slabWrite_only _ _ (.refl _)
  · exact (s.countL16 l (resultRow rs)).writeBlocks_slabOnly ..

/-- A row of at most 1,024 values is one block. -/
theorem State.writeBlocks_mem_of_one (s : State) (g a stride fmt : Nat) (lay : LayerInfo) {vs : List Dyad} (hne : vs ≠ [])
    (hlen : vs.length ≤ 1024) : (s.writeBlocks g a stride fmt lay vs).mem =
      s.mem.slabWrite (slabIx a) (requantise fmt lay.outlierK lay.fallback vs).bytes := by
  have hpos := List.length_pos_iff.2 hne
  have hone : List.range ((vs.length + 1023) / 1024) = [0] := by
    rw [show (vs.length + 1023) / 1024 = 1 by omega]
    rfl
  have hpiece : piece vs 1024 0 = vs := by simp [piece, List.take_of_length_le hlen]
  simp only [State.writeBlocks, hone, List.foldl_cons, List.foldl_nil, hpiece, Nat.zero_mul, Nat.add_zero]
  rfl

@[simp] theorem resultRow_vals_length (rs : List LogRes) : (resultRow rs).vals.length = rs.length := by
  unfold resultRow
  split <;> simp [groupFrom, L16Group.vals]

/-- The L16 form of a row: its base, two zero bytes and its patterns (R154). -/
def L16Group.bytes (x : L16Group) : List Byte := leBytes (npattern 16 x.g) 2 ++ zeros 2 ++ x.pats.flatMap fun p => leBytes p 2

theorem State.writeRow_mem_of_l16 (s : State) (l g : Nat) {o : OpRec} (rs : List LogRes) (h : o.outFmt = 0) :
    (s.writeRow l g o 0 rs).mem = s.mem.slabWrite (slabIx o.out) (resultRow rs).bytes := by
  simp only [State.writeRow, h, if_pos, Nat.zero_mul, Nat.add_zero]
  rfl

theorem State.writeRow_mem_of_block (s : State) (l g : Nat) {o : OpRec} {rs : List LogRes} (h : o.outFmt ≠ 0)
    (hlen : rs.length = 1024) : (s.writeRow l g o 0 rs).mem = s.mem.slabWrite (slabIx o.out)
      (requantise o.outFmt (s.layer g o.layer).outlierK (s.layer g o.layer).fallback (resultRow rs).vals).bytes := by
  have hvals : (resultRow rs).vals ≠ [] := List.ne_nil_of_length_pos (by simp [hlen])
  simp only [State.writeRow, if_neg h, Nat.zero_mul, Nat.add_zero]
  exact State.writeBlocks_mem_of_one _ _ _ _ _ _ hvals (by simp [hlen])

/-! ## The records (R154 to R156)

Each kind converts the operands of a row, in a state that differs from the record's first state in slabs and counts, and writes
the row's results. -/

/-- What writing rows changes: slabs and counts. -/
structure WritesRows (s t : State) : Prop where
  frame : WheelFrame [.mem, .regs] [] [] s t
  slab  : SlabOnly s.mem t.mem

namespace WritesRows

variable {s t : State}

theorem refl : WritesRows s s := ⟨.refl, .refl _⟩

theorem bump {r : Reg} {u n : Nat} (h : WritesRows s t) : WritesRows s (t.bump r u n) := ⟨h.frame.bump, h.slab⟩

theorem countL16 {l : Nat} {x : L16Group} (h : WritesRows s t) : WritesRows s (t.countL16 l x) := h.bump.bump

theorem writeRow {l g r : Nat} {o : OpRec} {rs : List LogRes} (h : WritesRows s t) : WritesRows s (t.writeRow l g o r rs) :=
  ⟨h.frame.writeRow, h.slab.trans (t.writeRow_slabOnly ..)⟩

theorem foldl {α : Type} {f : State → α → State} (hf : ∀ u x, WritesRows s u → WritesRows s (f u x)) (xs : List α)
    (h : WritesRows s t) : WritesRows s (xs.foldl f t) := List.foldlRecOn xs f h fun u hu x _ => hf u x hu

theorem normOp {l g : Nat} {o : OpRec} : WritesRows s (s.normOp l g o) := foldl (fun _ _ hu => hu.countL16.writeRow) _ refl.bump

theorem prodOp {l g : Nat} {o : OpRec} : WritesRows s (s.prodOp l g o) := foldl (fun _ _ hu => hu.countL16.writeRow) _ refl.bump

theorem gluOp {l g : Nat} {o : OpRec} : WritesRows s (s.gluOp l g o) :=
  foldl (fun _ _ hu => hu.countL16.countL16.writeRow) _ refl

end WritesRows

section
variable (s : State) (l g : Nat) {o : OpRec} (hrows : o.rows = 1)
include hrows

theorem State.prodOp_mem_of_one (hfmt : o.outFmt = 0) : (s.prodOp l g o).mem = s.mem.slabWrite (slabIx o.out)
    (resultRow ((List.range o.cols).map fun c =>
      resOfVal (logDot (s.ldu l).step (toL16 (s.opRow o o.inAddr 0)).terms (s.column o c)))).bytes := by
  have hone : List.range 1 = [0] := rfl
  simp only [State.prodOp, hrows, hone, List.foldl_cons, List.foldl_nil]
  exact State.writeRow_mem_of_l16 _ _ _ _ hfmt

variable (hdim : o.dim = 1) (hfmt : o.outFmt ≠ 0)
include hdim hfmt

theorem State.normOp_mem_of_one : (s.normOp l g o).mem = s.mem.slabWrite (slabIx o.out)
    (requantise o.outFmt (s.layer g o.layer).outlierK (s.layer g o.layer).fallback (resultRow (normRow (s.ldu l).step 1024
      (s.layer g o.layer).epsilon (toL16 (s.opRow o o.inAddr 0)).terms (s.column o 0))).vals).bytes := by
  have hone : List.range 1 = [0] := rfl
  simp only [State.normOp, hrows, hdim, hone, List.foldl_cons, List.foldl_nil, Nat.mul_one]
  exact State.writeRow_mem_of_block _ _ _ hfmt (by simp [normRow])

theorem State.gluOp_mem_of_one : (s.gluOp l g o).mem = s.mem.slabWrite (slabIx o.out)
    (requantise o.outFmt (s.layer g o.layer).outlierK (s.layer g o.layer).fallback (resultRow ((List.range 1024).map fun i =>
      gluElem (s.ldu l).step o.act ((toL16 (s.opRow o o.inAddr 0)).terms.getD i none)
        ((toL16 (s.opRow o o.mat 0)).terms.getD i none))).vals).bytes := by
  have hone : List.range 1 = [0] := rfl
  simp only [State.gluOp, hrows, hdim, hone, List.foldl_cons, List.foldl_nil, Nat.mul_one]
  exact State.writeRow_mem_of_block _ _ _ hfmt (by simp)

end

/-! ## What a record reads -/

section
variable {s t : State}

theorem State.blockValues_congr (h : t.mem = s.mem) : t.blockValues = s.blockValues := by
  funext a
  simp only [State.blockValues, State.blockAtSlab, State.slabNum, State.slab, h]

theorem State.opRow_congr (h : t.mem = s.mem) : t.opRow = s.opRow := by
  funext o base r
  rw [State.opRow, State.opRow, State.blockValues_congr h]

theorem State.column_congr (h : t.mem = s.mem) : t.column = s.column := by
  funext o c
  simp only [State.column, State.hbmNum, h]

theorem State.colBad_congr (h : t.mem = s.mem) : t.colBad = s.colBad := by
  funext o c
  simp only [State.colBad, State.hbm, h]

theorem State.chunkPoisoned_congr (h : t.poison = s.poison) : t.chunkPoisoned = s.chunkPoisoned := by
  funext a n
  simp only [State.chunkPoisoned, State.poisons, h]

end

/-! ## The statement -/

/-- From `s` to `t` LDU `l` has run a record that writes rows, and finished it. -/
structure RunsRecord (l key : Nat) (s t : State) : Prop extends EndsRecord l key s t where
  only : Only [.mem, .regs, .freeCtr, .ldus, .saggers, .tallies, .flog, .lute] s t
  mem  : t.mem = { s.mem with slab := t.mem.slab, valid := t.mem.valid }

section
variable {s u v : State} {l g cyc : Nat} {o : OpRec} (hg : g < 12) (ho : o.tally < 4096)
include hg ho

/-- A record whose work, after the checks that lead from `s` to `u`, writes rows. -/
theorem WritesRows.runsRecord (hcheck : WheelFrame [.saggers, .flog, .lute] [] [g] s u) (hwork : WritesRows (u.lduRan l cyc) v) :
    RunsRecord l (tallyKey g o.tally) s (v.opDone l g o) := by
  have hran : WheelFrame [.mem, .regs, .freeCtr, .saggers, .flog, .lute] [] [g] s (u.lduRan l cyc) :=
    (hcheck.mono (by decide) (List.Subset.refl _)).lduRan
  have hrows := hran.trans (hwork.frame.mono (by decide) (by simp))
  refine ⟨State.opDone_endsRecord hg ho hrows l, ((hrows.mono (by decide) (List.Subset.refl _)).opDone hg ho).only, ?mem⟩
  rw [State.opDone_mem hg ho, ← hcheck.mem_eq]
  exact hwork.slab.same

/-- What a record has written is still there when it has ended. -/
theorem State.opDone_slab {a : Nat} {bs : List Byte} (l : Nat) (h : v.mem = s.mem.slabWrite (slabIx a) bs) :
    (v.opDone l g o).slab a bs.length = bs ∧ Outside (slabIx a) bs.length s.mem.slab (v.opDone l g o).mem.slab := by
  obtain ⟨hread, hout, -⟩ := State.slab_of_slabWrite ((State.opDone_mem hg ho v l).trans h)
  exact ⟨hread, hout⟩

end

section
variable {s : State} {l : ShelfIx} {g : Nat} {o : OpRec} (hsound : o.inputs.findSome? s.blockViol = none)
include hsound

theorem exec_norm_of_sound (hcur : s.curOp l.val 0x10 = some (g, o)) (hpoison : s.chunkPoisoned o.matAddr o.colBytes = false)
    (hcol : s.colBad o 0 = false) :
    exec (.norm l) s = .next (((s.lduRan l.val (16 * o.dim)).normOp l.val g o).opDone l.val g o) := by
  rw [exec_norm_of_curOp hcur, State.runOp_of_sound hsound (fun _ => by rwa [Nat.one_mul]) (by simpa using hcol)]

theorem exec_glu_of_sound (hcur : s.curOp l.val 0x12 = some (g, o)) :
    exec (.glu l) s = .next (((s.lduRan l.val (4 * o.dim)).gluOp l.val g o).opDone l.val g o) := by
  rw [exec_glu_of_curOp hcur, State.runOp_of_sound hsound (by simp) (by simp)]

/-- The check of a scoring record (R230) changes nothing that the record reads. -/
theorem exec_prod_of_sound {u : State} (hu : u = s.scoreCheck l.val g o) (hcheck : WheelFrame [.saggers, .flog, .lute] [] [g] s u)
    (hcur : s.curOp l.val 0x11 = some (g, o)) (hpoison : s.chunkPoisoned o.matAddr (o.cols * o.colBytes) = false)
    (hcols : ∀ c < o.cols, s.colBad o c = false) :
    exec (.prod l) s = .next (((u.lduRan l.val ((o.cols + 63) / 64 * 8 * o.dim)).prodOp l.val g o).opDone l.val g o) := by
  have hmem := hcheck.mem_eq
  rw [exec_prod_of_curOp hcur, ← hu, State.runOp_of_sound]
  · rwa [State.blockViol_congr hmem]
  · rw [State.chunkPoisoned_congr (hcheck.only .poison (by decide))]
    exact fun _ => hpoison
  · rwa [State.colBad_congr hmem]

end

/-- Settles O19: a sound record of each kind writes its rows and ends, and one row is one write. Rows of several blocks and
several rows lie as log entry 15 says. -/
theorem operationRecordsWriteTheirRows : Obligations.OperationRecordsWriteTheirRows := by
  rintro l s g o key hg rfl hsound
  refine ⟨fun hcur hpoison hcol => ?norm, fun hcur hpoison hcols => ?prod, fun hcur => ?glu⟩
  all_goals have ho := State.curOp_tally_lt hcur
  case norm =>
    have hwork : WritesRows _ ((s.lduRan l.val (16 * o.dim)).normOp l.val g o) := WritesRows.normOp
    have hrun := hwork.runsRecord hg ho .refl
    refine ⟨_, exec_norm_of_sound hsound hcur hpoison hcol, hrun.free, hrun.prod, hrun.mem, hrun.only, hrun.ldus,
      hrun.tallies, ?_⟩
    rintro hrows hdim hfmt lay b rfl rfl
    exact State.opDone_slab hg ho l.val ((s.lduRan l.val (16 * o.dim)).normOp_mem_of_one l.val g hrows hdim hfmt)
  case prod =>
    obtain ⟨u, hu⟩ : ∃ u, u = s.scoreCheck l.val g o := ⟨_, rfl⟩
    have hcheck : WheelFrame [.saggers, .flog, .lute] [] [g] s u := hu ▸ WheelFrame.refl.scoreCheck
    have hwork : WritesRows _ ((u.lduRan l.val ((o.cols + 63) / 64 * 8 * o.dim)).prodOp l.val g o) := WritesRows.prodOp
    have hrun := hwork.runsRecord hg ho hcheck
    refine ⟨_, exec_prod_of_sound hsound hu hcheck hcur hpoison hcols, hrun.free, hrun.prod, hrun.mem, hrun.only, hrun.ldus,
      hrun.tallies, ?_⟩
    rintro hrows hfmt x b rfl rfl
    have hmem := (u.lduRan l.val ((o.cols + 63) / 64 * 8 * o.dim)).prodOp_mem_of_one l.val g hrows hfmt
    have hldu : (u.lduRan l.val ((o.cols + 63) / 64 * 8 * o.dim)).ldu l.val = s.ldu l.val := hcheck.ldu_eq l.val
    have hsame : (u.lduRan l.val ((o.cols + 63) / 64 * 8 * o.dim)).mem = s.mem := hcheck.mem_eq
    rw [hldu, State.opRow_congr hsame, State.column_congr hsame, hsame] at hmem
    exact State.opDone_slab hg ho l.val hmem
  case glu =>
    have hwork : WritesRows _ ((s.lduRan l.val (4 * o.dim)).gluOp l.val g o) := WritesRows.gluOp
    have hrun := hwork.runsRecord hg ho .refl
    refine ⟨_, exec_glu_of_sound hsound hcur, hrun.free, hrun.prod, hrun.mem, hrun.only, hrun.ldus, hrun.tallies, ?_⟩
    rintro hrows hdim hfmt lay b rfl rfl
    exact State.opDone_slab hg ho l.val ((s.lduRan l.val (4 * o.dim)).gluOp_mem_of_one l.val g hrows hdim hfmt)

end Sys2Proof.Machine

namespace Sys2Proof.Machine

/-! # Score estimates (O21) -/

/-! ## SSU_STREAM (R165, R168) -/

/-- A key with one more count. -/
def SsuKey.counted (k : SsuKey) (c : Nat) : SsuKey := { k with sum := k.sum + c, heads := k.heads + 1 }

/-- The key of stream `j` becomes `k`: it leaves the buffer when it is complete, and else stays in its place. -/
def Ssu.countedAs (x : Ssu) (j : SsuJob) (k : SsuKey) (complete : Bool) : Ssu :=
  if complete then { x with keys := x.keys.filter fun i => !i.is j, done := x.done ++ [k] }
  else { x with keys := x.keys.map fun i => if i.is j then k else i }

theorem Ssu.countedAs_jobs (x : Ssu) (j : SsuJob) (k : SsuKey) (b : Bool) : (x.countedAs j k b).jobs = x.jobs := by
  unfold Ssu.countedAs
  split <;> rfl

/-- A key changed in its place is found there. -/
theorem find?_map_replace {keys : List SsuKey} {j : SsuJob} {k k' : SsuKey} (h : keys.find? (·.is j) = some k)
    (hk : k'.is j = true) : (keys.map fun i => if i.is j then k' else i).find? (·.is j) = some k' := by
  induction keys with
  | nil => simp at h
  | cons i keys ih =>
    cases hi : i.is j with
    | true => simp [hi, hk]
    | false =>
      rw [List.find?_cons_of_neg (by simp [hi])] at h
      simpa [hi] using ih h

theorem Ssu.countedAs_find {x : Ssu} {j : SsuJob} {k : SsuKey} (c : Nat) (h : x.keys.find? (·.is j) = some k) :
    (x.countedAs j (k.counted c) false).keys.find? (·.is j) = some (k.counted c) :=
  find?_map_replace h (List.find?_some h :)

theorem Ssu.countedAs_find_complete (x : Ssu) (j : SsuJob) (k : SsuKey) :
    (x.countedAs j k true).keys.find? (·.is j) = none := by
  simp [Ssu.countedAs]

theorem State.countKey_of_found {s : State} {d : Nat} {j : SsuJob} {k : SsuKey} (c : Nat)
    (h : (s.ssu d).keys.find? (·.is j) = some k) :
    s.countKey d j c = s.onSsu d fun x => x.countedAs j (k.counted c) (s.keyHeads k ≤ k.heads + 1) := by
  simp only [State.countKey, h]
  by_cases hlast : s.keyHeads k ≤ k.heads + 1
  · simp only [ge_iff_le, hlast, if_true, decide_true]
    rfl
  · simp only [ge_iff_le, hlast, if_false, decide_false]
    rfl

/-- The first stream is taken and its `n` random numbers are drawn. -/
def State.streamTaken (s : State) (d : Nat) (rest : List SsuJob) (n : Nat) : State :=
  ({ s with freeCtr := s.freeCtr + n } : State).onSsu d fun x => { x with jobs := rest }

/-- Its count is added to its key. -/
def State.streamed (s : State) (d : Nat) (j : SsuJob) (rest : List SsuJob) (k : SsuKey) (n c : Nat) : State :=
  (((s.streamTaken d rest n).onSsu d fun x =>
    x.countedAs j (k.counted c) (s.keyHeads k ≤ k.heads + 1)).bump .ssuEst d 1).touch j.sagger

theorem exec_ssuStream_of_found {d : DieIx} {s : State} {j : SsuJob} {rest : List SsuJob} {k : SsuKey} {n : Nat}
    (hjobs : (s.ssu d.val).jobs = j :: rest) (hkey : (s.ssu d.val).keys.find? (·.is j) = some k)
    (hn : n = (s.imageOfSlot j.sagger j.slot.toNat).ssuN) :
    exec (.ssuStream d) s = .next (s.streamed d.val j rest k n (streamCount j.probs s.freeCtr n)) := by
  subst hn
  have hfound (n : Nat) : ((s.streamTaken d.val rest n).ssu d.val).keys.find? (·.is j) = some k := by
    rw [State.streamTaken, State.onSsu_ssu, if_pos rfl]
    exact hkey
  have hcount (n : Nat) := State.countKey_of_found (streamCount j.probs s.freeCtr n) (hfound n)
  show execSsuStream d s = _
  simp only [execSsuStream, hjobs]
  exact congrArg (fun u : State => Host.Outcome.next ((u.bump .ssuEst d.val 1).touch j.sagger)) (hcount _)

section
variable (s : State) (d : Nat) (j : SsuJob) (rest : List SsuJob) (k : SsuKey) (n c : Nat)

theorem State.streamed_frame : WheelFrame [.ssus, .saggers, .regs, .freeCtr] [] [j.sagger] s (s.streamed d j rest k n c) :=
  WheelFrame.refl.withFreeCtr.onSsu.onSsu.bump.touch

theorem State.streamed_ssu : (s.streamed d j rest k n c).ssu d =
    ({ s.ssu d with jobs := rest } : Ssu).countedAs j (k.counted c) (s.keyHeads k ≤ k.heads + 1) := by
  simp only [State.streamed, State.touch, State.streamTaken, State.onSagger_ssu, State.bump_ssu, State.onSsu_ssu, if_true]
  rfl

theorem State.streamed_ssus : Others State.ssu [d] s (s.streamed d j rest k n c) :=
  .single fun e he => by
    simp only [State.streamed, State.touch, State.streamTaken, State.onSagger_ssu, State.bump_ssu, State.onSsu_ssu, if_neg he]
    rfl

theorem State.streamed_regs : RegsOnly [(.ssuEst, d)] s (s.streamed d j rest k n c) :=
  State.bump_regsOnly ((s.streamTaken d rest n).onSsu d _) 1 (by simp)

end

/-! ## SSU_KEY_COMPLETE (R168, R169) -/

@[simp] theorem SsuKey.bytes_length (k : SsuKey) : k.bytes.length = 16 := by simp [SsuKey.bytes]

/-- Bytes written in HBM are read there, and no other byte of it has changed. -/
theorem State.hbm_of_mwrite {s t : State} {a : Nat} {bs : List Byte} (h : t.mem.hbm = mwrite s.mem.hbm a bs) :
    t.hbm a bs.length = bs ∧ Outside a bs.length s.mem.hbm t.mem.hbm := by
  rw [State.hbm, h]
  exact ⟨mread_mwrite .., fun x hx => mget_mwrite_of_outside _ _ _ _ hx⟩

/-- The first complete key `k` becomes the next record of its sagger's stage. -/
def State.keyStaged (s : State) (d : Nat) (k : SsuKey) (rest : List SsuKey) : State :=
  (((s.onSsu d fun x => { x with done := rest }).putHbm (s.stageAddr k.sagger (s.sagger k.sagger).stageProd) k.bytes).bump
    .hbmWrBytes (stackOfAddr (s.stageAddr k.sagger (s.sagger k.sagger).stageProd)) 16).onSagger k.sagger
      fun x => { x with stageProd := x.stageProd + 1 }

theorem exec_ssuKeyComplete_of_room {d : DieIx} {s : State} {k : SsuKey} {rest : List SsuKey}
    (hdone : (s.ssu d.val).done = k :: rest) (hroom : s.stageFull k.sagger = false) :
    exec (.ssuKeyComplete d) s = .next (s.keyStaged d.val k rest) := by
  show execSsuKeyComplete d s = _
  simp only [execSsuKeyComplete, hdone]
  exact State.when_true _ _ (by simp [hroom])

theorem State.keyStaged_ssu (s : State) (d : Nat) (k : SsuKey) (rest : List SsuKey) (e : Nat) :
    (s.keyStaged d k rest).ssu e = if e = d then { s.ssu d with done := rest } else s.ssu e := by
  simp [State.keyStaged, State.putHbm]

theorem State.keyStaged_frame (s : State) (d : Nat) (k : SsuKey) (rest : List SsuKey) :
    WheelFrame [.ssus, .saggers, .regs, .mem] [] [k.sagger] s (s.keyStaged d k rest) :=
  WheelFrame.refl.onSsu.withMem.bump.onSagger

/-! ## SSU_APPLY (R170) -/

/-- Record `n` leaves the stage. -/
def State.unstaged (s : State) (g n : Nat) : State := s.onSagger g fun x => { x with stageOrder := x.stageOrder.filter (· != n) }

theorem State.unstaged_frame (s : State) (g n : Nat) : WheelFrame [.saggers] [] [g] s (s.unstaged g n) := WheelFrame.refl.onSagger

/-- The estimate of record `n` updates the score byte of its row. -/
def State.scoreApplied (s : State) (d g n a w : Nat) (i : ImageInfo) : State :=
  (((s.unstaged g n).putHbmNum (w + 3) 1
    (newScore (s.hbmNum (w + 3) 1) (s.hbmField a 96 19) i.ssuN i.hKv i.ssuAlpha)).bump .ssuApplied d 1).touch g

/-- Record `n` is discarded. -/
def State.scoreDiscarded (s : State) (d g n : Nat) : State := ((s.unstaged g n).bump .ssuDiscard d 1).touch g

theorem State.not_mem_stageOrder {s t : State} {g n : Nat}
    (h : (t.sagger g).stageOrder = ((s.unstaged g n).sagger g).stageOrder) : n ∉ (t.sagger g).stageOrder := by
  rw [h, State.unstaged, State.onSagger_sagger, if_pos rfl]
  simp

theorem State.touch_stageOrder (s : State) (g k : Nat) : ((s.touch g).sagger k).stageOrder = (s.sagger k).stageOrder := by
  obtain ⟨n, armed, h⟩ := s.touch_sagger g k
  rw [h]

section
variable {d : DieIx} {g : SaggerIx} {s : State} {n : Nat} {rest : List Nat} (hstage : (s.sagger g.val).stageOrder = n :: rest)
include hstage

theorem exec_ssuApply_eq : exec (.ssuApply d g) s = .next ((s.applyScore d.val g.val n).touch g.val) := by
  show execSsuApply d g s = _
  simp only [execSsuApply, hstage]

variable {a w : Nat} {i : ImageInfo} (ha : a = s.stageAddr g.val n)
include ha

theorem exec_ssuApply_of_fired (hi : i = s.imageOfSlot g.val (s.hbmField a 0 16))
    (hw : w = s.sideWordAddr g.val (s.hbmField a 0 16) (s.hbmField a 16 8) (s.hbmField a 32 23))
    (hfired : (s.hbmField a 0 16, s.hbmField a 64 16) ∈ (s.sagger g.val).stageFired)
    (hlive : (s.reqOfSlot g.val (s.hbmField a 0 16)).isSome = true) :
    exec (.ssuApply d g) s = .next (s.scoreApplied d.val g.val n a w i) := by
  subst ha hi hw
  rw [exec_ssuApply_eq hstage]
  exact congrArg (fun u : State => Host.Outcome.next (u.touch g.val)) (if_pos ⟨by simpa using hfired, hlive⟩)

theorem exec_ssuApply_of_unfired (hfired : (s.hbmField a 0 16, s.hbmField a 64 16) ∉ (s.sagger g.val).stageFired) :
    exec (.ssuApply d g) s = .next (s.scoreDiscarded d.val g.val n) := by
  subst ha
  rw [exec_ssuApply_eq hstage]
  exact congrArg (fun u : State => Host.Outcome.next (u.touch g.val)) (if_neg fun h => hfired (by simpa using h.1))

end

/-- Settles O21: a stream is one change of its unit and one count, a complete key one write of 16 bytes, and a record one write of
a byte or one discard. -/
theorem scoreEstimatesReachTheirSideWords : Obligations.ScoreEstimatesReachTheirSideWords := by
  refine ⟨fun d s j rest k n c hjobs hkey hn hc => ?stream, fun d s k rest hdone hroom => ?stage,
    fun d g s n rest a w i hstage ha hi hw => ⟨fun hfired hlive => ?apply, fun hfired => ?discard⟩⟩
  case stream =>
    subst hc
    generalize hc : streamCount j.probs s.freeCtr n = c
    have hframe := s.streamed_frame d.val j rest k n c
    have hssu := s.streamed_ssu d.val j rest k n c
    refine ⟨_, hc ▸ exec_ssuStream_of_found hjobs hkey hn, ?_, rfl, fun hmore => ?_, fun hlast => ?_, ?_, hframe.only,
      s.streamed_ssus d.val j rest k n c, s.streamed_regs d.val j rest k n c⟩
    · rw [hssu, Ssu.countedAs_jobs]
    · rw [hssu, decide_eq_false (Nat.not_le.2 hmore)]
      exact ⟨rfl, Ssu.countedAs_find c hkey⟩
    · rw [hssu, decide_eq_true hlast]
      exact ⟨Ssu.countedAs_find_complete .., rfl⟩
    · rw [State.streamed, State.touch, State.onSagger_reg, State.reg_bump, if_pos ⟨rfl, rfl⟩]
      rfl
  case stage =>
    have hframe := s.keyStaged_frame d.val k rest
    obtain ⟨hread, hout⟩ := State.hbm_of_mwrite (s := s) (t := s.keyStaged d.val k rest) rfl
    rw [SsuKey.bytes_length] at hread hout
    refine ⟨_, exec_ssuKeyComplete_of_room hdone hroom, ?_, hread, ?_, rfl, hout, hframe.only,
      .single fun e he => by rw [State.keyStaged_ssu, if_neg he], hframe.saggers⟩
    · rw [State.keyStaged_ssu, if_pos rfl]
    · simp [State.keyStaged, State.putHbm]
  case apply =>
    have hframe : WheelFrame [.saggers, .regs, .mem] [] [g.val] s (s.scoreApplied d.val g.val n a w i) :=
      ((s.unstaged_frame g.val n).mono (by decide) (List.Subset.refl _)).withMem.bump.touch
    refine ⟨_, exec_ssuApply_of_fired hstage ha hi hw hfired hlive, ?_, rfl, ?_, ?_, hframe.only, hframe.saggers, ?_⟩
    · exact mnum_mputNum ..
    · exact fun x hx => mget_mwrite_of_outside _ _ _ _ (by simpa using hx)
    · exact State.not_mem_stageOrder (State.touch_stageOrder ..)
    · exact State.bump_regsOnly ((s.unstaged g.val n).putHbmNum (w + 3) 1 _) 1 (by simp)
  case discard =>
    have hframe : WheelFrame [.saggers, .regs] [] [g.val] s (s.scoreDiscarded d.val g.val n) :=
      ((s.unstaged_frame g.val n).mono (by decide) (List.Subset.refl _)).bump.touch
    refine ⟨_, exec_ssuApply_of_unfired hstage ha hfired, ?_, ?_, hframe.only, hframe.saggers, ?_⟩
    · rw [State.scoreDiscarded, State.touch, State.onSagger_reg, State.reg_bump, if_pos ⟨rfl, rfl⟩]
      rfl
    · exact State.not_mem_stageOrder (State.touch_stageOrder ..)
    · exact State.bump_regsOnly (s.unstaged g.val n) 1 (by simp)

end Sys2Proof.Machine

namespace Sys2Proof.Machine

/-! # Closing a query tile and cancelling a slot (O18) -/

/-! ## The scores of a tile (R164, R168) -/

namespace WheelFrame

variable {ps : List Field} {ws gs : List Nat} {s t : State}

theorem scoreTile {d g : Nat} {js : List SsuJob} (h : WheelFrame ps ws gs s t)
    (hp : ∀ p ∈ [Field.ssus, .regs], p ∈ ps := by decide) : WheelFrame ps ws gs s (t.scoreTile d g js) :=
  .ite h (.ite ((h.onSsu (hp _ (by simp))).bump (hp _ (by simp))) (h.onSsu (hp _ (by simp))))

end WheelFrame

/-! ## QUERY_TILE_CLOSE (R149, R151) -/

/-- The rows of a tile, each rounded to L16 in its own group. -/
def State.tileResults (s : State) (x : OpenTile) : List L16Group :=
  x.rows.map fun r => resultRow (r.results (s.imageOfSlot x.sagger (qtSlot (s.qtile x.sagger x.qtile))).headDim)

/-- A tile leaves its LDU and its entry is free. -/
def State.tileFreed (s : State) (l : Nat) (x : OpenTile) : State :=
  (s.onLdu l fun y => { y with tiles := y.tiles.filter fun u => !(u.sagger == x.sagger && u.qtile == x.qtile) }).onSagger x.sagger
    fun y => { y with qOpen := y.qOpen.filter (· != x.qtile) }

/-- The rows of a tile are counted. -/
def State.tileCounted (s : State) (l : Nat) (x : OpenTile) : State :=
  (s.tileResults x).foldl (fun u r => u.countL16 l r) (s.tileFreed l x)

/-- They are written as blocks at OUT_ADDR. -/
def State.tileWritten (s : State) (l : Nat) (x : OpenTile) : State :=
  let q := s.qtile x.sagger x.qtile
  let lay := s.slotLayer x.sagger (qtSlot q) x.layer
  (s.tileCounted l x).writeBlocks x.sagger (qtOut q) lay.slot lay.outFmt lay ((s.tileResults x).flatMap L16Group.vals)

/-- A masked tile writes nothing; the others write their rows and hand over their scores. -/
def State.tileOut (s : State) (l : Nat) (x : OpenTile) : State :=
  if x.masked then s.tileFreed l x else (s.tileWritten l x).scoreTile (dieOfShelf l) x.sagger (s.tileJobs x.sagger x)

theorem State.closeTile_eq (s : State) (l : Nat) (x : OpenTile) : s.closeTile l x = (s.tileOut l x).touch x.sagger := by
  unfold State.tileOut
  split
  next h => exact if_pos h
  next h => exact if_neg h

section
variable (s : State) (l : Nat) (x : OpenTile)

theorem State.tileFreed_frame : WheelFrame [.ldus, .saggers] [] [x.sagger] s (s.tileFreed l x) := WheelFrame.refl.onLdu.onSagger

theorem State.tileCounted_frame : WheelFrame [.regs] [] [] (s.tileFreed l x) (s.tileCounted l x) :=
  .foldl (fun _ _ hu => hu.countL16) _ .refl

theorem State.tileCounted_mem : (s.tileCounted l x).mem = s.mem :=
  (s.tileCounted_frame l x).mem_eq.trans (s.tileFreed_frame l x).mem_eq

theorem State.tileOut_frame : WheelFrame [.ssus, .regs, .mem] [] [] (s.tileFreed l x) (s.tileOut l x) :=
  .ite .refl (((s.tileCounted_frame l x).mono (by decide) (List.Subset.refl _)).writeBlocks.scoreTile)

theorem State.closeTile_frame : WheelFrame [.ldus, .saggers, .ssus, .regs, .mem] [] [x.sagger] s (s.closeTile l x) := by
  rw [State.closeTile_eq]
  exact (((s.tileFreed_frame l x).mono (by decide) (List.Subset.refl _)).trans
    ((s.tileOut_frame l x).mono (by decide) (by simp))).touch

theorem State.closeTile_ldus : Others State.ldu [l] s (s.closeTile l x) := by
  have hfreed : Others State.ldu [l] s (s.tileFreed l x) := .single fun k hk => by simp [State.tileFreed, hk]
  rw [State.closeTile_eq]
  exact hfreed.trans (s.tileOut_frame l x).ldus

theorem State.closeTile_tiles : ((s.closeTile l x).ldu l).tiles =
    (s.ldu l).tiles.filter fun u => !(u.sagger == x.sagger && u.qtile == x.qtile) := by
  rw [State.closeTile_eq, State.touch, State.onSagger_ldu, (s.tileOut_frame l x).ldu_eq, State.tileFreed, State.onSagger_ldu,
    State.onLdu_ldu, if_pos rfl]

theorem State.closeTile_qOpen : x.qtile ∉ ((s.closeTile l x).sagger x.sagger).qOpen := by
  obtain ⟨n, armed, h⟩ := (s.tileOut l x).touch_sagger x.sagger x.sagger
  rw [State.closeTile_eq, h, (s.tileOut_frame l x).saggers _ List.not_mem_nil, State.tileFreed, State.onSagger_sagger, if_pos rfl]
  simp

variable {x}

theorem State.closeTile_mem_of_masked (h : x.masked = true) : (s.closeTile l x).mem = s.mem := by
  rw [State.closeTile_eq, State.tileOut, if_pos h]
  rfl

theorem State.closeTile_mem_of_unmasked (h : x.masked = false) : (s.closeTile l x).mem = (s.tileWritten l x).mem := by
  have hscores : WheelFrame [.ssus, .regs] [] [] (s.tileWritten l x)
      ((s.tileWritten l x).scoreTile (dieOfShelf l) x.sagger (s.tileJobs x.sagger x)) := WheelFrame.refl.scoreTile
  rw [State.closeTile_eq, State.tileOut, if_neg (by simp [h])]
  exact hscores.mem_eq

/-- Of memory only the slabs change. -/
theorem State.closeTile_slabOnly : SlabOnly s.mem (s.closeTile l x).mem := by
  cases h : x.masked with
  | true => rw [s.closeTile_mem_of_masked l h]; exact .refl _
  | false =>
    rw [s.closeTile_mem_of_unmasked l h, ← s.tileCounted_mem l x]
    exact State.writeBlocks_slabOnly ..

/-- A tile of at most 1,024 elements is one block. -/
theorem State.closeTile_mem_of_block {q : Nat} {lay : LayerInfo} {vals : List Dyad} (hmask : x.masked = false)
    (hq : q = s.qtile x.sagger x.qtile) (hlay : lay = s.slotLayer x.sagger (qtSlot q) x.layer)
    (hvals : vals = (s.tileResults x).flatMap L16Group.vals) (hne : vals ≠ []) (hlen : vals.length ≤ 1024) :
    (s.closeTile l x).mem = s.mem.slabWrite (slabIx (qtOut q)) (requantise lay.outFmt lay.outlierK lay.fallback vals).bytes := by
  have hwritten : s.tileWritten l x = (s.tileCounted l x).writeBlocks x.sagger (qtOut q) lay.slot lay.outFmt lay vals := by
    rw [hlay, hvals, hq]
    rfl
  rw [s.closeTile_mem_of_unmasked l hmask, hwritten, State.writeBlocks_mem_of_one _ _ _ _ _ _ hne hlen, State.tileCounted_mem]

end

theorem exec_queryTileClose_of_find {l : ShelfIx} {s : State} {x : OpenTile}
    (h : (s.ldu l.val).tiles.find? (fun x => x.ndesc ≤ x.taken) = some x) :
    exec (.queryTileClose l) s = .next (s.closeTile l.val x) := by
  show execQueryTileClose l s = _
  simp only [execQueryTileClose, h]

/-! ## LDU_CANCEL_SLOT (R161) -/

/-- The query-tile entries named by sagger and index are free. -/
def State.entriesFreed (s : State) (es : List (Nat × Nat)) : State :=
  es.foldl (fun s e => s.onSagger e.1 fun y => { y with qOpen := y.qOpen.filter (· != e.2) }) s

theorem State.entriesFreed_frame (s : State) (es : List (Nat × Nat)) :
    WheelFrame [.saggers] [] (es.map Prod.fst) s (s.entriesFreed es) :=
  List.foldlRecOn es _ .refl fun _ hu _ he => hu.onSagger (hg := List.mem_map_of_mem he)

/-- The LDU without the tiles and descriptors of a slot, holding `cur`. -/
def Ldu.dropSlot (x : Ldu) (s : State) (slot : BitVec 16) (cur : Option LduItem) : Ldu :=
  { x with
    tiles := x.tiles.filter fun t => !(t.slot == slot)
    attnQ := x.attnQ.filter fun d => !(qtSlot (s.qtile d.1 (descTile d.2.toNat)) == slot.toNat)
    cur := cur
    cancelled := if x.cancelled.contains slot then x.cancelled else x.cancelled ++ [slot] }

/-- The LDU drops the slot, and the row states that it frees are counted. -/
def State.slotDropped (s : State) (l : Nat) (slot : BitVec 16) (cur : Option LduItem) (rows : Nat) : State :=
  (s.onLdu l (·.dropSlot s slot cur)).bump .lduCancelRows l rows

theorem exec_lduCancelSlot_eq (l : ShelfIx) (slot : BitVec 16) (s : State) : ∃ cur rows es,
    exec (.lduCancelSlot l slot) s = .next ((s.slotDropped l.val slot cur rows).entriesFreed es) := ⟨_, _, _, rfl⟩

section
variable (s : State) (l : Nat) (slot : BitVec 16) (cur : Option LduItem) (rows : Nat)

theorem State.slotDropped_only : Only [.ldus, .saggers, .regs] s (s.slotDropped l slot cur rows) :=
  (WheelFrame.refl (ws := []) (gs := [])).onLdu.bump.only

theorem State.slotDropped_ldu (k : Nat) : (s.slotDropped l slot cur rows).ldu k =
    if k = l then (s.ldu l).dropSlot s slot cur else s.ldu k := by
  rw [State.slotDropped, State.bump_ldu, State.onLdu_ldu]

theorem State.slotDropped_regs : RegsOnly [(.lduCancelRows, l)] s (s.slotDropped l slot cur rows) :=
  (s.onLdu l (·.dropSlot s slot cur)).bump_regsOnly rows (List.mem_singleton_self _)

end

theorem Ldu.mem_dropSlot_cancelled (x : Ldu) (s : State) (slot : BitVec 16) (cur : Option LduItem) :
    slot ∈ (x.dropSlot s slot cur).cancelled := by
  by_cases h : slot ∈ x.cancelled <;> simp [Ldu.dropSlot, h]

/-- Settles O18: a tile closes by one change of its LDU and its sagger and, unmasked, by its rows; a cancellation is one change of
the LDU and of the entries that it frees. The rows lie in head order at OUT_ADDR (the model's choice, log entry 17). -/
theorem queryTilesCloseIntoBlocks : Obligations.QueryTilesCloseIntoBlocks := by
  refine ⟨fun l s x hfind => ?close, fun l slot s => ?cancel⟩
  case close =>
    have hframe := s.closeTile_frame l.val x
    refine ⟨_, exec_queryTileClose_of_find hfind, s.closeTile_tiles l.val x, s.closeTile_qOpen l.val x,
      (s.closeTile_slabOnly l.val).same, hframe.only, s.closeTile_ldus l.val x, hframe.saggers,
      s.closeTile_mem_of_masked l.val, ?_⟩
    rintro q i lay vals b hmask hq hi hlay hvals hne hlen rfl
    have hrows : vals = (s.tileResults x).flatMap L16Group.vals := by
      rw [hvals, hi, hq, State.tileResults, List.flatMap_map]
    obtain ⟨hread, hout, -⟩ := State.slab_of_slabWrite (s.closeTile_mem_of_block l.val hmask hq hlay hrows hne hlen)
    exact ⟨hread, hout⟩
  case cancel =>
    obtain ⟨cur, rows, es, hexec⟩ := exec_lduCancelSlot_eq l slot s
    have hfreed := (s.slotDropped l.val slot cur rows).entriesFreed_frame es
    have hldu : ((s.slotDropped l.val slot cur rows).entriesFreed es).ldu l.val = (s.ldu l.val).dropSlot s slot cur := by
      rw [hfreed.ldu_eq, State.slotDropped_ldu, if_pos rfl]
    refine ⟨_, hexec, ?_, fun x => ?_, fun d => ?_,
      (s.slotDropped_only l.val slot cur rows).trans (hfreed.only.widen (by decide)), .single fun k hk => ?_,
      (s.slotDropped_regs l.val slot cur rows).trans (hfreed.regsOnly _)⟩
    · rw [hldu]; exact Ldu.mem_dropSlot_cancelled ..
    · rw [hldu]; simp [Ldu.dropSlot]
    · rw [hldu]; simp [Ldu.dropSlot]
    · rw [hfreed.ldu_eq, State.slotDropped_ldu, if_neg hk]

end Sys2Proof.Machine

namespace Sys2Proof.Machine

/-! # Taking an item (O16) -/

/-! ## What a query group changes (R146, R147) -/

theorem Ldu.startGroup_eq (x : Ldu) (group : List Nat) (n : Nat) :
    ∃ active rebuild, x.startGroup group n = { x with active := active, rebuild := rebuild, group := group } := by
  unfold Ldu.startGroup
  generalize (if x.active = 0 then x.bank1 else x.bank0) = spare
  split
  · exact ⟨_, x.rebuild, rfl⟩
  · exact ⟨x.active, _, rfl⟩

/-- A group that starts changes the table of its LDU: the item, the queue and the kind of the last item stay. -/
theorem State.startGroup_ldu (s : State) (l : Nat) (group : List Nat) (n : Nat) :
    ∃ active rebuild, (s.startGroup l group n).ldu l =
      { s.ldu l with active := active, rebuild := rebuild, group := group } := by
  rw [State.startGroup, State.bump_ldu, State.onLdu_ldu, if_pos rfl]
  exact Ldu.startGroup_eq ..

theorem State.startGroup_ldus (s : State) (l : Nat) (group : List Nat) (n : Nat) :
    Others State.ldu [l] s (s.startGroup l group n) :=
  .single fun k hk => by rw [State.startGroup, State.bump_ldu, State.onLdu_ldu, if_neg hk]

theorem State.startGroup_regs (s : State) (l : Nat) (group : List Nat) (n : Nat) :
    RegsOnly [(.lduRebuildSkips, l)] s (s.startGroup l group n) :=
  (s.onLdu l fun _ => (s.ldu l).startGroup group n).bump_regsOnly _ (List.mem_singleton_self _)

theorem WheelFrame.startGroup {ps : List Field} {ws gs : List Nat} {s t : State} {l n : Nat} {group : List Nat}
    (h : WheelFrame ps ws gs s t) (hp : ∀ p ∈ [Field.ldus, .regs], p ∈ ps := by decide) :
    WheelFrame ps ws gs s (t.startGroup l group n) := (h.onLdu (hp _ (by simp))).bump (hp _ (by simp))

/-! ## The head page descriptor (R135, R150) -/

/-- The LDU holds descriptor `d` and the row states of its tile. -/
def State.descTaken (s : State) (l g : Nat) (d : BitVec 128) : State :=
  let ix := descTile d.toNat
  (s.onLdu l fun x => { x with
    attnQ := x.attnQ.drop 1, cur := some (.desc g d), lastOp := false
    tiles := if ((s.ldu l).tileAt g ix).isNone then x.tiles ++ [s.newTile g ix] else x.tiles }).touch g

theorem State.takeDesc_eq (s : State) (l g : Nat) (d : BitVec 128) : s.takeDesc l g d =
    if (s.ldu l).group = tileGroup g (s.qtile g (descTile d.toNat)) then s.descTaken l g d
    else (s.descTaken l g d).startGroup l (tileGroup g (s.qtile g (descTile d.toNat)))
      (s.queryStep g (s.qtile g (descTile d.toNat))) := rfl

section
variable (s : State) (l g : Nat) (d : BitVec 128)

theorem State.descTaken_ldu (k : Nat) : (s.descTaken l g d).ldu k = if k = l then { s.ldu l with
    attnQ := (s.ldu l).attnQ.drop 1, cur := some (.desc g d), lastOp := false
    tiles := if ((s.ldu l).tileAt g (descTile d.toNat)).isNone then (s.ldu l).tiles ++ [s.newTile g (descTile d.toNat)]
      else (s.ldu l).tiles } else s.ldu k := by
  simp only [State.descTaken, State.touch, State.onSagger_ldu, State.onLdu_ldu]

theorem State.takeDesc_frame : WheelFrame [.ldus, .saggers, .regs] [] [g] s (s.takeDesc l g d) := by
  have htaken : WheelFrame [.ldus, .saggers, .regs] [] [g] s (s.descTaken l g d) := WheelFrame.refl.onLdu.touch
  rw [State.takeDesc_eq]
  exact .ite htaken htaken.startGroup

theorem State.takeDesc_ldu : ((s.takeDesc l g d).ldu l).cur = some (.desc g d) ∧
    ((s.takeDesc l g d).ldu l).attnQ = (s.ldu l).attnQ.drop 1 ∧ ((s.takeDesc l g d).ldu l).lastOp = false := by
  have htaken := s.descTaken_ldu l g d l
  rw [if_pos rfl] at htaken
  rw [State.takeDesc_eq]
  split
  · rw [htaken]
    exact ⟨rfl, rfl, rfl⟩
  · obtain ⟨active, rebuild, h⟩ := (s.descTaken l g d).startGroup_ldu l (tileGroup g (s.qtile g (descTile d.toNat)))
      (s.queryStep g (s.qtile g (descTile d.toNat)))
    rw [h, htaken]
    exact ⟨rfl, rfl, rfl⟩

theorem State.takeDesc_ldus : Others State.ldu [l] s (s.takeDesc l g d) := by
  have htaken : Others State.ldu [l] s (s.descTaken l g d) := .single fun k hk => by rw [State.descTaken_ldu, if_neg hk]
  rw [State.takeDesc_eq]
  split
  · exact htaken
  · exact htaken.trans (State.startGroup_ldus _ l _ _)

theorem State.takeDesc_regs : RegsOnly [(.lduRebuildSkips, l)] s (s.takeDesc l g d) := by
  have htaken : WheelFrame [.ldus, .saggers] [] [g] s (s.descTaken l g d) := WheelFrame.refl.onLdu.touch
  rw [State.takeDesc_eq]
  split
  · exact htaken.regsOnly _
  · exact (htaken.regsOnly _).trans ((s.descTaken l g d).startGroup_regs l _ _)

end

/-! ## The head operation record (R152, R158) -/

/-- The head record leaves the ring; its sagger's images and its LDUs stay. -/
theorem State.popOp_frame (s : State) (g : Nat) : WheelFrame [.saggers, .regs] [] [g] s (s.popOp g) :=
  WheelFrame.refl.bump.onSagger.touch

theorem State.popOp_sagger (s : State) (g : Nat) : ∃ n armed, (s.popOp g).sagger g =
    { s.sagger g with ops := { (s.sagger g).ops with cons := (s.sagger g).ops.cons + 1 }, progress := n, dlArmed := armed } := by
  simp only [State.popOp, State.touch, State.onSagger_sagger, if_true]
  exact ⟨_, _, rfl⟩

theorem State.popOp_layer (s : State) (g : Nat) : (s.popOp g).layer g = s.layer g := by
  obtain ⟨n, armed, h⟩ := s.popOp_sagger g
  funext l
  simp only [State.layer, State.stepImage, State.image?, h]

/-- The checks of R158 do not depend on the ring. -/
theorem State.popOp_opBad (s : State) (g r : Nat) : (s.popOp g).opBad g r = s.opBad g r := by
  unfold State.opBad
  rw [State.popOp_layer]
  rfl

/-- A record that passes its checks is the LDU's item, and its table is chosen. -/
def State.opTaken (s : State) (l g r : Nat) : State :=
  let t := (s.popOp g).onLdu l fun x => { x with cur := some (.op g (BitVec.ofNat 256 r)), lastOp := true }
  t.startGroup l [] (tableStep (t.opSpan (opOf r)))

/-- A record that fails a check leaves the ring and halts it. -/
def State.opHalted (s : State) (g : Nat) : State := (s.popOp g).onSagger g fun x => { x with opHalt := true }

section
variable {s : State} {l g r : Nat} (hr : r = s.hbmNum (s.opAddr g) 32)
include hr

theorem State.takeOp_of_good (h : s.opBad g r = none) : s.takeOp l g = s.opTaken l g r := by
  rw [← State.popOp_opBad, hr] at h
  simp only [State.takeOp, h]
  rw [hr]
  rfl

theorem State.takeOp_of_bad {e : Nat} (h : s.opBad g r = some e) :
    s.takeOp l g = (s.opHalted g).faultRec 3 2 e g l 0 (s.opAddr g) (leBytes r 32) := by
  rw [← State.popOp_opBad, hr] at h
  simp only [State.takeOp, h]
  rw [hr]
  rfl

end

section
variable (s : State) (l g r : Nat)

theorem State.opTaken_frame : WheelFrame [.ldus, .saggers, .regs] [] [g] s (s.opTaken l g r) :=
  ((s.popOp_frame g).mono (by decide) (List.Subset.refl _)).onLdu.startGroup

theorem State.opTaken_ldu : ((s.opTaken l g r).ldu l).cur = some (.op g (BitVec.ofNat 256 r)) ∧
    ((s.opTaken l g r).ldu l).lastOp = true := by
  obtain ⟨active, rebuild, h⟩ := State.startGroup_ldu _ l _ _
  rw [State.opTaken, h, State.onLdu_ldu, if_pos rfl]
  exact ⟨rfl, rfl⟩

theorem State.opTaken_ldus : Others State.ldu [l] s (s.opTaken l g r) := by
  have hpopped : Others State.ldu [l] s (s.popOp g) := (s.popOp_frame g).ldus
  exact (hpopped.trans (State.onLdu_others _ l _)).trans (State.startGroup_ldus _ l _ _)

theorem State.popOp_cons : ((s.popOp g).sagger g).ops.cons = (s.sagger g).ops.cons + 1 := by
  obtain ⟨n, armed, h⟩ := s.popOp_sagger g
  rw [h]

theorem State.opTaken_cons : ((s.opTaken l g r).sagger g).ops.cons = (s.sagger g).ops.cons + 1 := s.popOp_cons g

theorem State.opHalted_frame : WheelFrame [.saggers, .regs] [] [g] s (s.opHalted g) := (s.popOp_frame g).onSagger

theorem State.opHalted_sagger : ((s.opHalted g).sagger g).opHalt = true ∧
    ((s.opHalted g).sagger g).ops.cons = (s.sagger g).ops.cons + 1 := by
  rw [State.opHalted, State.onSagger_sagger, if_pos rfl]
  exact ⟨rfl, s.popOp_cons g⟩

end

/-- A rejected record leaves the operation ring and its halt as they are. -/
theorem State.faultRec_sagger (s : State) (cls block detail g unit sub addr : Nat) (bytes : List Byte) (k : Nat) :
    ((s.faultRec cls block detail g unit sub addr bytes).sagger k).opHalt = (s.sagger k).opHalt ∧
      ((s.faultRec cls block detail g unit sub addr bytes).sagger k).ops = (s.sagger k).ops := by
  obtain ⟨st, cause, h⟩ := s.raise_sagger _ k
  rw [State.faultRec, h]
  exact ⟨rfl, rfl⟩

/-! ## Whose turn it is (R135, R150) -/

section
variable {s : State} {l g : Nat} (huse : s.lduUsable l = true) (hfree : (s.ldu l).cur = none) (hready : (s.ldu l).rebuild = none)
include huse hfree hready

theorem State.takeItem_of_desc {d : BitVec 128} {rest : List (Nat × BitVec 128)} (hqueue : (s.ldu l).attnQ = (g, d) :: rest)
    (hhalt : (s.sagger g).attnHalt = false) (hturn : s.opWaits (s.lduOwner l) = false ∨ (s.ldu l).lastOp = true)
    (hroom : s.rowsFull l g d = false) : s.takeItem l = s.takeDesc l g d := by
  have hop : (s.opWaits (s.lduOwner l) && !(s.ldu l).lastOp) = false := by
    rcases hturn with h | h <;> simp [h]
  simp only [State.takeItem, hfree, hready, huse, hqueue, hhalt, hop, hroom]
  rfl

theorem State.takeItem_of_op (hqueue : (s.ldu l).attnQ = []) (hg : g = s.lduOwner l) (hop : s.opWaits g = true) :
    s.takeItem l = s.takeOp l g := by
  subst hg
  simp only [State.takeItem, hfree, hready, huse, hqueue, hop]
  rfl

end

/-! ## The setter's new records (R152) -/

theorem State.setterOps_nil (s : State) (g : Nat) : s.setterOps g [] = s := ite_self _

theorem exec_lduTakeItem_nil (l : ShelfIx) (s : State) : exec (.lduTakeItem l []) s = .next (s.takeItem l.val) := by
  show execLduTakeItem l [] s = _
  rw [execLduTakeItem, State.setterOps_nil]

/-- New records are written before the item is taken. -/
theorem exec_lduTakeItem_eq (l : ShelfIx) (recs : List (BitVec 256)) (s : State) :
    exec (.lduTakeItem l recs) s = exec (.lduTakeItem l []) (s.setterOps (s.lduOwner l.val) recs) := by
  rw [exec_lduTakeItem_nil]
  rfl

/-- Place of the `k`-th new record in the ring of sagger `g`. -/
def State.opPlace (s : State) (g k : Nat) : Nat := s.placeAddr g 2 + 32 * (((s.sagger g).ops.prod + k) % s.placeCount g 2)

/-- The records are written into the ring in order. -/
def State.pushOps (s : State) (g : Nat) (recs : List (BitVec 256)) : State := recs.foldl (fun s r => s.pushOp g r) s

theorem State.setterOps_of_room {s : State} {g : Nat} {recs : List (BitVec 256)} (hserve : (s.sagger g).st = .serving)
    (hroom : (s.sagger g).ops.used + recs.length ≤ s.placeCount g 2) : s.setterOps g recs = s.pushOps g recs :=
  if_pos ⟨hserve, hroom⟩

section
variable (s : State) (g : Nat) (recs : List (BitVec 256))

theorem State.pushOps_frame : WheelFrame [.mem, .saggers, .regs] [] [g] s (s.pushOps g recs) :=
  .foldl (fun _ _ hu => hu.withMem.bump.onSagger) _ .refl

theorem State.pushOp_ops (r : BitVec 256) : ((s.pushOp g r).sagger g).ops =
    { (s.sagger g).ops with prod := (s.sagger g).ops.prod + 1 } := by
  simp only [State.pushOp, State.onSagger_sagger, if_true]
  rfl

theorem State.pushOps_ops : ((s.pushOps g recs).sagger g).ops =
    { (s.sagger g).ops with prod := (s.sagger g).ops.prod + recs.length } := by
  induction recs generalizing s with
  | nil => rfl
  | cons r recs ih =>
    rw [List.length_cons, Nat.add_comm recs.length, ← Nat.add_assoc]
    refine (ih (s.pushOp g r)).trans ?_
    rw [State.pushOp_ops]

/-- A record goes to the place of the first new one. -/
theorem State.pushOp_hbm (r : BitVec 256) : (s.pushOp g r).mem.hbm = mputNum s.mem.hbm (s.opPlace g 0) 32 r.toNat := rfl

/-- Once it is written the place of the next one comes first. -/
theorem State.pushOp_opPlace (r : BitVec 256) (k : Nat) : (s.pushOp g r).opPlace g k = s.opPlace g (k + 1) := by
  have hplan : (s.pushOp g r).plan = s.plan := rfl
  simp only [State.opPlace, State.placeAddr, State.placeCount, State.place, hplan, State.pushOp_ops, Nat.add_assoc,
    Nat.add_comm 1]

end

/-- A byte of no new record's place stays. -/
theorem State.pushOps_mget {g x : Nat} {recs : List (BitVec 256)} (s : State)
    (h : ∀ k < recs.length, x < s.opPlace g k ∨ s.opPlace g k + 32 ≤ x) :
    mget (s.pushOps g recs).mem.hbm x = mget s.mem.hbm x := by
  induction recs generalizing s with
  | nil => rfl
  | cons r recs ih =>
    refine (ih (s.pushOp g r) fun k hk => ?_).trans ?_
    · rw [State.pushOp_opPlace]
      exact h (k + 1) (Nat.succ_lt_succ hk)
    · rw [State.pushOp_hbm]
      exact mget_mwrite_of_outside _ _ _ _ (by rw [leBytes_length]; exact h 0 (Nat.succ_pos _))

/-- Within one turn of a ring two records never meet. -/
theorem ring_index_ne {p k n c : Nat} (hk : k < n) (hn : n < c) : (p + k) % c ≠ (p + n) % c := fun h => by
  have hzero := Nat.sub_mod_eq_zero_of_mod_eq h.symm
  rw [Nat.add_sub_add_left, Nat.mod_eq_of_lt (Nat.lt_of_le_of_lt (Nat.sub_le n k) hn)] at hzero
  omega

theorem State.pushOps_hbmNum {g k : Nat} {recs : List (BitVec 256)} (s : State) (hfit : recs.length ≤ s.placeCount g 2)
    (hk : k < recs.length) : (s.pushOps g recs).hbmNum (s.opPlace g k) 32 = (recs.getD k 0).toNat := by
  induction recs generalizing s k with
  | nil => exact absurd hk (Nat.not_lt_zero k)
  | cons r recs ih =>
    rw [List.length_cons] at hfit
    cases k with
    | zero =>
      have hhead : (s.pushOp g r).hbmNum (s.opPlace g 0) 32 = r.toNat := (mnum_mputNum ..).trans (Nat.mod_eq_of_lt r.isLt)
      refine (hbmNum_congr fun x hlo hhi => State.pushOps_mget (s.pushOp g r) fun k hk => ?_).trans hhead
      have hne := ring_index_ne (p := (s.sagger g).ops.prod) (n := k + 1) (Nat.succ_pos k)
        (Nat.lt_of_lt_of_le (Nat.succ_lt_succ hk) hfit)
      rw [State.pushOp_opPlace]
      simp only [State.opPlace] at hlo hhi ⊢
      omega
    | succ k =>
      rw [← State.pushOp_opPlace s g r, List.getD_cons_succ]
      exact ih (s.pushOp g r) (Nat.le_of_succ_le hfit) (Nat.lt_of_succ_lt_succ hk)

/-! ## TABLE_REBUILD (R147) -/

/-- The new table lies in the bank that was not in use. -/
def Ldu.rebuilt (x : Ldu) (n : Nat) : Ldu :=
  if x.active = 0 then { x with bank1 := n, active := 1, rebuild := none }
  else { x with bank0 := n, active := 0, rebuild := none }

theorem Ldu.rebuilt_eq (x : Ldu) (n : Nat) : (x.rebuilt n).step = n ∧ (x.rebuilt n).rebuild = none ∧
    (x.rebuilt n).active = if x.active = 0 then 1 else 0 := by
  unfold Ldu.rebuilt Ldu.step
  split <;> simp

theorem exec_tableRebuild_of_due {l : ShelfIx} {s : State} {n : Nat} (h : (s.ldu l.val).rebuild = some n) :
    exec (.tableRebuild l) s = .next ((s.onLdu l.val (·.rebuilt n)).bump .lduRebuilds l.val 1) := by
  show execTableRebuild l s = _
  simp only [execTableRebuild, h]
  rfl

/-- Settles O16: an item is taken from the queue whose turn it is; new records are written first (the model's choice, log entry
68), and a rebuild is one change of the LDU. -/
theorem lduTakesItemsInTurn : Obligations.LduTakesItemsInTurn := by
  refine ⟨fun l s h d rest huse hfree hready hqueue hhalt hturn hroom => ?desc,
    fun l s g r huse hfree hready hqueue hg hwaits hr => ⟨fun hgood => ?op, fun e hbad => ?rejected⟩,
    fun l s g recs hg hserve hroom hfit => ?setter, fun l s n hdue => ?rebuild⟩
  case desc =>
    obtain ⟨hcur, hrest, hlast⟩ := s.takeDesc_ldu l.val h d
    have hframe := s.takeDesc_frame l.val h d
    refine ⟨s.takeDesc l.val h d, ?_, hcur, ?_, hlast, hframe.only, s.takeDesc_ldus l.val h d, s.takeDesc_regs l.val h d⟩
    · rw [exec_lduTakeItem_nil, State.takeItem_of_desc huse hfree hready hqueue hhalt hturn hroom]
    · rw [hrest, hqueue]
      rfl
  case op =>
    obtain ⟨hcur, hlast⟩ := s.opTaken_ldu l.val g r
    have hframe := s.opTaken_frame l.val g r
    refine ⟨s.opTaken l.val g r, ?_, hcur, hlast, s.opTaken_cons l.val g r, hframe.only, s.opTaken_ldus l.val g r,
      hframe.saggers⟩
    rw [exec_lduTakeItem_nil, State.takeItem_of_op huse hfree hready hqueue hg hwaits, State.takeOp_of_good hr hgood]
  case rejected =>
    have hhalted := s.opHalted_frame g
    obtain ⟨hhalt, hcons⟩ := s.opHalted_sagger g
    generalize hu : s.opHalted g = u at hhalted hhalt hcons
    have hframe : WheelFrame [.saggers, .regs, .flog, .lute] [] [g] s
        (u.faultRec 3 2 e g l.val 0 (s.opAddr g) (leBytes r 32)) := (hhalted.mono (by decide) (List.Subset.refl _)).faultRec
    obtain ⟨hhalt', hops⟩ := u.faultRec_sagger 3 2 e g l.val 0 (s.opAddr g) (leBytes r 32) g
    refine ⟨u.faultRec 3 2 e g l.val 0 (s.opAddr g) (leBytes r 32), ?_, ?_, ?_,
      (State.detects_raise _ _).of_flog_eq hhalted.flog_eq rfl, hframe.only, hframe.saggers⟩
    · rw [exec_lduTakeItem_nil, State.takeItem_of_op huse hfree hready hqueue hg hwaits, State.takeOp_of_bad hr hbad, hu]
    · rw [hhalt', hhalt]
    · rw [hops, hcons]
  case setter =>
    have hframe := s.pushOps_frame g recs
    refine ⟨s.pushOps g recs, ?_, ?_, ?_, fun k hk => s.pushOps_hbmNum hfit hk, hframe.only, hframe.saggers⟩
    · rw [exec_lduTakeItem_eq, ← hg, State.setterOps_of_room hserve hroom]
    · rw [State.pushOps_ops]
    · rw [State.pushOps_ops]
  case rebuild =>
    obtain ⟨hstep, hnone, hactive⟩ := (s.ldu l.val).rebuilt_eq n
    have hframe : WheelFrame [.ldus, .regs] [] [] s ((s.onLdu l.val (·.rebuilt n)).bump .lduRebuilds l.val 1) :=
      WheelFrame.refl.onLdu.bump
    have hldu : ((s.onLdu l.val (·.rebuilt n)).bump .lduRebuilds l.val 1).ldu l.val = (s.ldu l.val).rebuilt n := by simp
    refine ⟨_, exec_tableRebuild_of_due hdue, by rw [hldu, hstep], by rw [hldu, hnone], by rw [hldu, hactive], ?_, hframe.only,
      .single fun k hk => by simp [hk], (s.onLdu l.val (·.rebuilt n)).bump_regsOnly 1 (List.mem_singleton_self _)⟩
    rw [State.reg_bump, if_pos ⟨rfl, rfl⟩]
    rfl

end Sys2Proof.Machine

namespace Sys2Proof.Machine

/-! # Storing the K and V of a row (O22)

The vectors of a row lie apart within the page of its logical slot; the store writes them all, then the page's entry, then the
side word of the slot. -/

/-! ## Several writes to one memory -/

/-- The memory with each list of bytes written at its address, in order. -/
def mwrites (m : Mem) (ws : List (Nat × List Byte)) : Mem := ws.foldl (fun m w => mwrite m w.1 w.2) m

/-- A byte of no written range stays. -/
theorem mget_mwrites_of_outside {ws : List (Nat × List Byte)} {x : Nat} (m : Mem)
    (h : ∀ w ∈ ws, x < w.1 ∨ w.1 + w.2.length ≤ x) : mget (mwrites m ws) x = mget m x := by
  induction ws generalizing m with
  | nil => rfl
  | cons w ws ih =>
    obtain ⟨hw, hws⟩ := List.forall_mem_cons.1 h
    exact (ih _ hws).trans (mget_mwrite_of_outside m _ _ _ hw)

/-- Of ranges that do not meet each reads back as written. -/
theorem mread_mwrites {ws : List (Nat × List Byte)} {w : Nat × List Byte} (m : Mem)
    (h : ws.Pairwise fun v w => Apart v.1 v.2.length w.1 w.2.length) (hw : w ∈ ws) :
    mread (mwrites m ws) w.1 w.2.length = w.2 := by
  induction ws generalizing m with
  | nil => cases hw
  | cons v ws ih =>
    obtain ⟨hv, hrest⟩ := List.pairwise_cons.1 h
    obtain rfl | hw := List.mem_cons.1 hw
    · refine (mread_of_outside fun x hlo hhi => ?_).trans (mread_mwrite m w.1 w.2)
      refine mget_mwrites_of_outside (ws := ws) _ fun u hu => ?_
      have hapart := hv u hu
      unfold Apart at hapart
      omega
    · exact ih _ hrest hw

/-! ## The vectors of a page (R173, R174) -/

/-- The vectors of a slot: each head with its K and its V. -/
def ImageInfo.vecKeys (i : ImageInfo) : List (Nat × Bool) := (List.range i.hKv).flatMap fun h => [(h, false), (h, true)]

theorem ImageInfo.mem_vecKeys {i : ImageInfo} {k : Nat × Bool} : k ∈ i.vecKeys ↔ k.1 < i.hKv := by
  obtain ⟨h, isV⟩ := k
  cases isV <;> simp [ImageInfo.vecKeys]

theorem ImageInfo.vecKeys_nodup (i : ImageInfo) : i.vecKeys.Nodup := by
  refine List.pairwise_flatMap.2 ⟨fun h _ => by simp, List.nodup_range.imp fun {a b} hne x hx y hy hxy => hne ?_⟩
  have hfst {h : Nat} {k : Nat × Bool} (hk : k ∈ [(h, false), (h, true)]) : k.1 = h := by
    obtain rfl | rfl : k = (h, false) ∨ k = (h, true) := by simpa only [List.mem_cons, List.not_mem_nil, or_false] using hk
    · rfl
    · rfl
  exact (hfst hx).symm.trans ((congrArg Prod.fst hxy).trans (hfst hy))

/-- Place of a vector among those of a slot: the K of every head, then the V of every head. -/
def ImageInfo.vecIx (i : ImageInfo) (k : Nat × Bool) : Nat := (if k.2 then i.hKv else 0) + k.1

theorem ImageInfo.vecOff_eq (i : ImageInfo) (k : Nat × Bool) (n : Nat) :
    i.vecOff k.2 k.1 n = (i.vecIx k * i.ppp + n) * i.vb := rfl

theorem ImageInfo.vecIx_lt {i : ImageInfo} {k : Nat × Bool} (hk : k ∈ i.vecKeys) : i.vecIx k < 2 * i.hKv := by
  have := ImageInfo.mem_vecKeys.1 hk
  unfold ImageInfo.vecIx
  split <;> omega

theorem ImageInfo.vecIx_inj {i : ImageInfo} {k k' : Nat × Bool} (hk : k ∈ i.vecKeys) (hk' : k' ∈ i.vecKeys)
    (h : i.vecIx k = i.vecIx k') : k = k' := by
  rw [ImageInfo.mem_vecKeys] at hk hk'
  obtain ⟨a, v⟩ := k
  obtain ⟨b, u⟩ := k'
  cases v <;> cases u
  case false.false | true.true => simpa [ImageInfo.vecIx] using h
  case false.true | true.false =>
    simp only [ImageInfo.vecIx, if_true, Bool.false_eq_true, if_false] at h
    omega

theorem ImageInfo.ppp_pos {i : ImageInfo} (h : i.kvb ≤ frameBytes) : 0 < i.ppp := by
  unfold ImageInfo.ppp
  split
  · exact Nat.one_pos
  · exact Nat.div_pos h (Nat.pos_of_ne_zero ‹_›)

/-- The positions of a page fit into its frame. -/
theorem ImageInfo.ppp_mul_kvb_le (i : ImageInfo) : i.ppp * i.kvb ≤ frameBytes := by
  unfold ImageInfo.ppp
  split
  next h => simp [h]
  next => exact Nat.div_mul_le_self ..

/-- The vectors of one place end before those of the next begin. -/
theorem ImageInfo.vecOff_end_le {i : ImageInfo} {k : Nat × Bool} {n j : Nat} (hn : n < i.ppp) (hj : i.vecIx k < j) :
    i.vecOff k.2 k.1 n + i.vb ≤ j * i.ppp * i.vb := by
  have hplace : i.vecIx k * i.ppp + n + 1 ≤ j * i.ppp :=
    calc i.vecIx k * i.ppp + n + 1 ≤ (i.vecIx k + 1) * i.ppp := by rw [Nat.add_one_mul]; omega
      _ ≤ j * i.ppp := Nat.mul_le_mul_right _ hj
  calc i.vecOff k.2 k.1 n + i.vb = (i.vecIx k * i.ppp + n + 1) * i.vb := by rw [vecOff_eq, ← Nat.add_one_mul]
    _ ≤ j * i.ppp * i.vb := Nat.mul_le_mul_right _ hplace

theorem ImageInfo.vecOff_in_page {i : ImageInfo} {k : Nat × Bool} {n : Nat} (hn : n < i.ppp) (hk : k ∈ i.vecKeys) :
    i.vecOff k.2 k.1 n + i.vb ≤ frameBytes :=
  calc i.vecOff k.2 k.1 n + i.vb ≤ 2 * i.hKv * i.ppp * i.vb := vecOff_end_le hn (vecIx_lt hk)
    _ = i.ppp * i.kvb := by rw [ImageInfo.kvb, Nat.mul_comm (2 * i.hKv), Nat.mul_assoc]
    _ ≤ frameBytes := i.ppp_mul_kvb_le

/-- Two vectors of one slot do not meet. -/
theorem ImageInfo.vecOff_apart {i : ImageInfo} {k k' : Nat × Bool} {n : Nat} (hn : n < i.ppp) (hk : k ∈ i.vecKeys)
    (hk' : k' ∈ i.vecKeys) (hne : k ≠ k') : Apart (i.vecOff k.2 k.1 n) i.vb (i.vecOff k'.2 k'.1 n) i.vb := by
  have hbelow (a b : Nat × Bool) (hlt : i.vecIx a < i.vecIx b) : i.vecOff a.2 a.1 n + i.vb ≤ i.vecOff b.2 b.1 n :=
    Nat.le_trans (vecOff_end_le hn hlt) (Nat.mul_le_mul_right _ (Nat.le_add_right ..))
  obtain hlt | hlt := Nat.lt_or_gt_of_ne fun h => hne (vecIx_inj hk hk' h)
  · exact .inl (hbelow _ _ hlt)
  · exact .inr (hbelow _ _ hlt)

theorem ImageInfo.vecBytes_length_le (i : ImageInfo) (layer h : Nat) (isV : Bool) (vs : List Dyad) :
    (i.vecBytes layer h isV vs).1.length ≤ i.vb := List.length_take_le ..

/-! ## Page-table entries (R178) -/

theorem Pte.bits_lt (e : Pte) : e.bits < 2 ^ 64 := by
  have hbit (b : Bool) : Bool.num b ≤ 1 := by cases b <;> decide
  have := hbit e.valid
  have := hbit e.shared
  have := hbit e.pmap
  have := hbit e.swapped
  unfold Pte.bits
  omega

/-- An entry reads back as written. -/
theorem State.putHbmNum_bits (s : State) (a : Nat) (e : Pte) : (s.putHbmNum a 8 e.bits).hbmNum a 8 = e.bits :=
  (mnum_mputNum ..).trans (Nat.mod_eq_of_lt e.bits_lt)

/-! ## KV_STORE_WRITE (R180, R182) -/

section
variable (s : State) (g slot layer n ka va : Nat)

/-- The write of one vector of logical slot `n`: its address and the rounded values of K or V. -/
def State.kvVec (k : Nat × Bool) : Nat × List Byte :=
  let i := s.imageOfSlot g slot
  (s.vecAddr g slot layer n k.1 k.2,
    (i.vecBytes layer k.1 k.2 (piece (s.kvValues g slot layer (if k.2 = true then va else ka)) i.headDim k.1)).1)

/-- All vectors of the row are written. -/
def State.vecsStored : State :=
  let i := s.imageOfSlot g slot
  i.vecKeys.foldl (fun m k => m.putVec g (s.vecAddr g slot layer n k.1 k.2) i layer k.1 k.2
    (s.kvValues g slot layer (if k.2 = true then va else ka))) s

theorem State.vecsStored_eq : s.vecsStored g slot layer n ka va = (List.range (s.imageOfSlot g slot).hKv).foldl (fun m h =>
    (m.putVec g (s.vecAddr g slot layer n h false) (s.imageOfSlot g slot) layer h false (s.kvValues g slot layer ka)).putVec g
      (s.vecAddr g slot layer n h true) (s.imageOfSlot g slot) layer h true (s.kvValues g slot layer va)) s :=
  List.foldl_flatMap ..

theorem State.vecsStored_hbm : (s.vecsStored g slot layer n ka va).mem.hbm =
    mwrites s.mem.hbm ((s.imageOfSlot g slot).vecKeys.map (s.kvVec g slot layer n ka va)) := by
  rw [mwrites, List.foldl_map]
  exact (List.foldl_hom (fun t : State => t.mem.hbm) fun _ _ => rfl).symm

theorem State.vecsStored_mem : (s.vecsStored g slot layer n ka va).mem =
    { s.mem with hbm := (s.vecsStored g slot layer n ka va).mem.hbm } :=
  List.foldlRecOn (motive := fun t : State => t.mem = { s.mem with hbm := t.mem.hbm }) _ _ rfl fun t ht k _ => by
    show ({ t.mem with hbm := _ } : Memories) = _
    rw [ht]
    rfl

theorem State.vecsStored_frame : WheelFrame [.mem, .regs] [] [] s (s.vecsStored g slot layer n ka va) :=
  .foldl (fun _ _ hu => hu.withMem.bump.bump) _ .refl

end

section
variable {s : State} {g slot layer n pos ka va pa w : Nat} {i : ImageInfo} {p : Pte}
variable (hi : i = s.imageOfSlot g slot) (hp : p = s.pte g slot layer (n / i.ppp)) (hfit : i.kvb ≤ frameBytes)
include hi

theorem State.kvVec_length_le (k : Nat × Bool) : (s.kvVec g slot layer n ka va k).2.length ≤ i.vb := by
  subst hi
  exact ImageInfo.vecBytes_length_le ..

include hp

theorem State.kvVec_addr (k : Nat × Bool) : (s.kvVec g slot layer n ka va k).1 =
    p.frame * frameBytes + i.vecOff k.2 k.1 (n % i.ppp) := by
  subst hi hp
  rfl

include hfit

/-- Every vector of the row lies in the page. -/
theorem State.kvVec_in_page {k : Nat × Bool} (hk : k ∈ i.vecKeys) :
    p.frame * frameBytes ≤ (s.kvVec g slot layer n ka va k).1 ∧
      (s.kvVec g slot layer n ka va k).1 + (s.kvVec g slot layer n ka va k).2.length ≤ p.frame * frameBytes + frameBytes := by
  have hoff := ImageInfo.vecOff_in_page (Nat.mod_lt n (ImageInfo.ppp_pos hfit)) hk
  have hlen : (s.kvVec g slot layer n ka va k).2.length ≤ i.vb := State.kvVec_length_le hi k
  rw [State.kvVec_addr hi hp]
  omega

/-- The vectors of the row do not meet one another. -/
theorem State.kvVecs_apart : (i.vecKeys.map (s.kvVec g slot layer n ka va)).Pairwise fun v w =>
    Apart v.1 v.2.length w.1 w.2.length := by
  refine List.pairwise_map.2 (i.vecKeys_nodup.imp_of_mem fun {k k'} hk hk' hne => ?_)
  have hoff := ImageInfo.vecOff_apart (Nat.mod_lt n (ImageInfo.ppp_pos hfit)) hk hk' hne
  have hlen : (s.kvVec g slot layer n ka va k).2.length ≤ i.vb := State.kvVec_length_le hi k
  have hlen' : (s.kvVec g slot layer n ka va k').2.length ≤ i.vb := State.kvVec_length_le hi k'
  rw [State.kvVec_addr hi hp, State.kvVec_addr hi hp]
  unfold Apart at hoff ⊢
  omega

end

section
variable {s : State} {g slot layer n pos ka va pa w : Nat} {i : ImageInfo} {p : Pte}
variable (hi : i = s.imageOfSlot g slot) (hpa : pa = s.pteAddr g slot layer (n / i.ppp))
variable (hw : w = s.sideWordAddr g slot layer n) (hp : p = s.pte g slot layer (n / i.ppp)) (hfit : i.kvb ≤ frameBytes)
include hi hpa hw hp

/-- A store writes the vectors, then FILL in the entry, then the side word (R180). -/
theorem State.storeKv_eq : s.storeKv g slot layer n pos ka va =
    ((s.vecsStored g slot layer n ka va).putHbmNum pa 8 { p with fill := max p.fill (n % i.ppp + 1) }.bits).putHbmNum w 4
      (pos + 2 ^ 24 * i.sInit) := by
  subst hi hpa hw hp
  rw [State.vecsStored_eq]
  rfl

theorem State.storeKv_frame : WheelFrame [.mem, .regs] [] [] s (s.storeKv g slot layer n pos ka va) := by
  rw [State.storeKv_eq hi hpa hw hp]
  exact (s.vecsStored_frame g slot layer n ka va).withMem.withMem

theorem State.storeKv_mem : (s.storeKv g slot layer n pos ka va).mem =
    { s.mem with hbm := (s.storeKv g slot layer n pos ka va).mem.hbm } := by
  rw [State.storeKv_eq hi hpa hw hp]
  show ({ (s.vecsStored g slot layer n ka va).mem with hbm := _ } : Memories) = _
  rw [State.vecsStored_mem]
  rfl

/-- The side word holds the position and the initial score. -/
theorem State.storeKv_sideWord : (s.storeKv g slot layer n pos ka va).hbmNum w 4 = (pos + 2 ^ 24 * i.sInit) % 2 ^ 32 := by
  rw [State.storeKv_eq hi hpa hw hp]
  exact mnum_mputNum ..

/-- A side word that does not meet the entry leaves it as the store wrote it. -/
theorem State.storeKv_pte (hapart : Apart pa 8 w 4) : (s.storeKv g slot layer n pos ka va).hbmNum pa 8 =
    { p with fill := max p.fill (n % i.ppp + 1) }.bits := by
  rw [State.storeKv_eq hi hpa hw hp]
  refine (hbmNum_congr fun x hlo hhi => outside_mputNum _ _ 4 _ x ?_).trans (State.putHbmNum_bits ..)
  unfold Apart at hapart
  omega

/-- A byte outside the entry and the side word is as the vectors leave it. -/
theorem State.storeKv_mget_vecs {x : Nat} (hxp : x < pa ∨ pa + 8 ≤ x) (hxw : x < w ∨ w + 4 ≤ x) :
    mget (s.storeKv g slot layer n pos ka va).mem.hbm x = mget (s.vecsStored g slot layer n ka va).mem.hbm x := by
  rw [State.storeKv_eq hi hpa hw hp]
  exact (outside_mputNum _ _ 4 _ x hxw).trans (outside_mputNum _ _ 8 _ x hxp)

include hfit

/-- A byte outside the page, the entry and the side word stays. -/
theorem State.storeKv_mget {x : Nat} (hx : x < p.frame * frameBytes ∨ p.frame * frameBytes + frameBytes ≤ x)
    (hxp : x < pa ∨ pa + 8 ≤ x) (hxw : x < w ∨ w + 4 ≤ x) :
    mget (s.storeKv g slot layer n pos ka va).mem.hbm x = mget s.mem.hbm x := by
  rw [State.storeKv_mget_vecs hi hpa hw hp hxp hxw, State.vecsStored_hbm]
  refine mget_mwrites_of_outside _ (List.forall_mem_map.2 fun k hk => ?_)
  have := State.kvVec_in_page (ka := ka) (va := va) hi hp hfit (hi ▸ hk)
  omega

/-- Where the page meets neither the entry nor the side word, every vector reads back. -/
theorem State.storeKv_vec (hapart : Apart pa 8 (p.frame * frameBytes) frameBytes)
    (hside : Apart w 4 (p.frame * frameBytes) frameBytes) {k : Nat × Bool} (hk : k ∈ i.vecKeys) :
    (s.storeKv g slot layer n pos ka va).hbm (s.kvVec g slot layer n ka va k).1 (s.kvVec g slot layer n ka va k).2.length =
      (s.kvVec g slot layer n ka va k).2 := by
  have hpage := State.kvVec_in_page (ka := ka) (va := va) hi hp hfit hk
  have hvecs := mread_mwrites s.mem.hbm (State.kvVecs_apart (ka := ka) (va := va) hi hp hfit) (List.mem_map_of_mem hk)
  rw [hi, ← State.vecsStored_hbm] at hvecs
  refine (mread_of_outside fun x hlo hhi => State.storeKv_mget_vecs hi hpa hw hp ?_ ?_).trans hvecs
  · unfold Apart at hapart
    omega
  · unfold Apart at hside
    omega

end

section
variable {g : SaggerIx} {slot row : BitVec 16} {layer : BitVec 8} {ka va : BitVec 32} {s : State} {e : Ragged}
  {i : ImageInfo} {n : Nat} {p : Pte}

/-- The row is one that KV_STORE_WRITE stores: its entry runs unmasked, and its page is valid (R182, R187). -/
structure StoresRow (s : State) (g : SaggerIx) (slot row : BitVec 16) (layer : BitVec 8) (e : Ragged) (i : ImageInfo) (p : Pte) :
    Prop where
  ragged  : s.raggedOf g.val slot.toNat = some e
  row     : row.toNat < e.new
  layer   : layer.toNat < i.attnLayers
  running : (s.sagger g.val).phase = .running
  live    : s.maskedSlot g.val slot.toNat = false
  valid   : p.valid = true

variable (h : StoresRow s g slot row layer e i p) (hi : i = s.imageOfSlot g.val slot.toNat) (hn : n = e.fired + row.toNat)
  (hp : p = s.pte g.val slot.toNat layer.toNat (n / i.ppp))
include h hi hn hp

theorem exec_kvStoreWrite_of_shared (hshared : p.shared = true) :
    exec (.kvStoreWrite g slot row layer ka va) s = .next (s.fault 3 6 0x74 g.val g.val 0) := by
  obtain ⟨hragged, hrow, hlayer, hrunning, hlive, hvalid⟩ := h
  subst hi hn hp
  show execKvStoreWrite g slot row layer ka va s = _
  simp only [execKvStoreWrite, hragged]
  rw [if_neg (by simp [hrow, hlayer, hrunning, hlive, hvalid]), if_pos hshared]

theorem exec_kvStoreWrite_of_sound (hshared : p.shared = false)
    (hsound : (s.kvBlocks g.val slot.toNat layer.toNat ka.toNat ++
      s.kvBlocks g.val slot.toNat layer.toNat va.toNat).findSome? s.blockViol = none) :
    exec (.kvStoreWrite g slot row layer ka va) s = .next ((s.storeKv g.val slot.toNat layer.toNat n
      (e.rowPos (s.treeOf g.val slot.toNat) row.toNat) ka.toNat va.toNat).touch g.val) := by
  obtain ⟨hragged, hrow, hlayer, hrunning, hlive, hvalid⟩ := h
  subst hi hn hp
  show execKvStoreWrite g slot row layer ka va s = _
  simp only [execKvStoreWrite, hragged, hsound]
  rw [if_neg (by simp [hrow, hlayer, hrunning, hlive, hvalid]), if_neg (by simp [hshared])]

end

/-- Settles O22: a shared page raises one record; else the store is the vectors, the entry and the side word. -/
theorem kvStoreNeverWritesASharedPage : Obligations.KvStoreNeverWritesASharedPage := by
  intro g slot row layer ka va s e i n p hragged hi hn hp hrow hlayer hrunning hlive hvalid hfit
  have hstores : StoresRow s g slot row layer e i p := ⟨hragged, hrow, hlayer, hrunning, hlive, hvalid⟩
  refine ⟨fun hshared => ?shared, fun pa w hpa hw hshared hsound => ?stored⟩
  case shared =>
    have hframe : WheelFrame [.saggers, .flog, .lute] [] [g.val] s (s.fault 3 6 0x74 g.val g.val 0) := WheelFrame.refl.fault
    exact ⟨_, exec_kvStoreWrite_of_shared hstores hi hn hp hshared, State.detects_raise _ _, hframe.only⟩
  case stored =>
    have hframe : WheelFrame [.mem, .regs, .saggers] [] [g.val] s ((s.storeKv g.val slot.toNat layer.toNat n
        (e.rowPos (s.treeOf g.val slot.toNat) row.toNat) ka.toNat va.toNat).touch g.val) :=
      ((State.storeKv_frame hi hpa hw hp).mono (by decide) (List.nil_subset _)).touch
    refine ⟨_, exec_kvStoreWrite_of_sound hstores hi hn hp hshared hsound, State.storeKv_sideWord hi hpa hw hp,
      fun hapart => congrArg pteOf (State.storeKv_pte hi hpa hw hp hapart), fun hapart hside h hh isV b hb => ?_,
      fun x => State.storeKv_mget hi hpa hw hp hfit, State.storeKv_mem hi hpa hw hp, hframe.only, hframe.saggers⟩
    have hvec := State.storeKv_vec (k := (h, isV)) (ka := ka.toNat) (va := va.toNat)
      (pos := e.rowPos (s.treeOf g.val slot.toNat) row.toNat) hi hpa hw hp hfit hapart hside (ImageInfo.mem_vecKeys.2 hh)
    subst hi hp hb
    exact hvec

end Sys2Proof.Machine

namespace Sys2Proof.Machine

/-! # Fields of a record that is held as bytes -/

theorem leBytes_drop (n k : Nat) : ∀ j, (leBytes n k).drop j = leBytes (n / 256 ^ j) (k - j) := by
  induction k generalizing n with
  | zero => simp [leBytes]
  | succ k ih =>
    rintro (_ | j)
    · simp
    · rw [leBytes, List.drop_succ_cons, ih, Nat.div_div_eq_div_mul, Nat.pow_succ', Nat.add_sub_add_right]

theorem leBytes_take (n k : Nat) : ∀ j, j ≤ k → (leBytes n k).take j = leBytes n j := by
  induction k generalizing n with
  | zero => simp [leBytes]
  | succ k ih =>
    rintro (_ | j) hj
    · rfl
    · rw [leBytes, List.take_succ_cons, ih _ j (by omega), leBytes]

/-- A field of the little-endian bytes of a number is that field of the number. -/
theorem bfield_leBytes (n : Nat) {k lo w : Nat} (h : lo + w ≤ 8 * k) : bfield (leBytes n k) lo w = nbits n lo w := by
  have hlo : 2 ^ lo = 256 ^ (lo / 8) * 2 ^ (lo % 8) := by
    rw [show 256 = 2 ^ 8 from rfl, ← Nat.pow_mul, ← Nat.pow_add, Nat.div_add_mod]
  have hbytes : 256 ^ ((lo % 8 + w + 7) / 8) = 2 ^ (lo % 8) * 2 ^ (8 * ((lo % 8 + w + 7) / 8) - lo % 8) := by
    rw [show 256 = 2 ^ 8 from rfl, ← Nat.pow_mul, ← Nat.pow_add]
    congr 1
    omega
  rw [bfield, leBytes_drop, leBytes_take _ _ _ (by omega), leNat_leBytes, nbits, nbits, hbytes, Nat.mod_mul_right_div_self,
    Nat.mod_mod_of_dvd _ (Nat.pow_dvd_pow 2 (by omega)), Nat.div_div_eq_div_mul, ← hlo]

theorem bfield_append_left {xs : List Byte} (ys : List Byte) {lo w : Nat} (h : lo + w ≤ 8 * xs.length) :
    bfield (xs ++ ys) lo w = bfield xs lo w := by
  rw [bfield, bfield, List.drop_append_of_le_length (by omega), List.take_append_of_le_length (by rw [List.length_drop]; omega)]

theorem bfield_append_right (xs ys : List Byte) (lo w : Nat) : bfield (xs ++ ys) (8 * xs.length + lo) w = bfield ys lo w := by
  rw [bfield, bfield, Nat.mul_add_div (by decide), Nat.mul_add_mod, List.drop_append,
    List.drop_of_length_le (Nat.le_add_right ..), List.nil_append, Nat.add_sub_cancel_left]

/-- A field of item `k` of items of 8 bytes each. -/
theorem bfield_flatMap {α : Type} {f : α → List Byte} (hf : ∀ a, (f a).length = 8) {xs : List α} {k lo w : Nat}
    (hk : k < xs.length) (h : lo + w ≤ 64) : bfield (xs.flatMap f) (64 * k + lo) w = bfield (f xs[k]) lo w := by
  induction xs generalizing k with
  | nil => simp at hk
  | cons x xs ih =>
    rw [List.flatMap_cons]
    cases k with
    | zero => rw [Nat.mul_zero, Nat.zero_add, bfield_append_left _ (by rw [hf]; omega), List.getElem_cons_zero]
    | succ k =>
      have hskip := bfield_append_right (f x) (xs.flatMap f) (64 * k + lo) w
      rw [hf] at hskip
      rw [show 64 * (k + 1) + lo = 8 * 8 + (64 * k + lo) by omega, hskip, ih (Nat.lt_of_succ_lt_succ hk), List.getElem_cons_succ]

theorem mread_add (m : Mem) (a i k : Nat) : mread m a (i + k) = mread m a i ++ mread m (a + i) k := by
  induction i generalizing a with
  | zero => simp [mread]
  | succ i ih => rw [Nat.succ_add, mread, mread, ih, List.cons_append, Nat.add_assoc, Nat.add_comm 1 i]

/-- A field of a record in memory is that field of the record's bytes. -/
theorem mfield_eq_bfield (m : Mem) (a : Nat) {lo w n : Nat} (h : lo + w ≤ 8 * n) : mfield m a lo w = bfield (mread m a n) lo w := by
  obtain ⟨rest, rfl⟩ : ∃ rest, n = lo / 8 + ((lo % 8 + w + 7) / 8 + rest) := ⟨n - lo / 8 - (lo % 8 + w + 7) / 8, by omega⟩
  rw [bfield, mread_add, List.drop_append_of_le_length (by simp), List.drop_of_length_le (by simp), List.nil_append, mread_add,
    List.take_append_of_le_length (by simp), List.take_of_length_le (by simp)]
  rfl

/-- A field of a record of 64 bytes in HBM is that field of its bytes. -/
theorem State.hbmField_eq_bfield (s : State) (a : Nat) {lo w : Nat} (h : lo + w ≤ 512) :
    s.hbmField a lo w = bfield (s.hbm a 64) lo w := mfield_eq_bfield _ _ h

end Sys2Proof.Machine

namespace Sys2Proof.Machine

/-! # What the work of a router on its queues changes (R215 to R217, R223) -/

theorem State.onWare_only (s : State) (d : Nat) (f : Ware → Ware) : Only [.wares] s (s.onWare d f) := by
  intro p hp
  cases p
  case wares => simp at hp
  all_goals rfl

theorem WheelFrame.onWare {ps : List Field} {ws gs : List Nat} {s t : State} {d : Nat} {f : Ware → Ware}
    (h : WheelFrame ps ws gs s t) (hp : .wares ∈ ps := by decide) : WheelFrame ps ws gs s (t.onWare d f) :=
  h.trans ⟨(t.onWare_only d f).widen hp, fun _ _ => rfl, fun _ _ => rfl⟩

/-- A router without what the work on its queues changes: predictions, chunks and the target of XT_GU. -/
def Router.unqueued (r : Router) : Router := { r with pred := [], chunks := [], guTarget := 0 }

/-- From `s` to `t` the router of sagger `g` has worked on its queues: loads were asked for, token lists and entries written. -/
structure QueueKeeps (g : Nat) (s t : State) : Prop where
  frame  : WheelFrame [.mem, .regs, .saggers, .wares] [] [g] s t
  router : (t.sagger g).router.unqueued = (s.sagger g).router.unqueued

namespace QueueKeeps

variable {g : Nat} {s t : State}

theorem refl : QueueKeeps g s s := ⟨.refl, rfl⟩

theorem routed (h : QueueKeeps g s t) : (t.sagger g).router.routed = (s.sagger g).router.routed :=
  (congrArg Router.routed h.router :)

theorem onWare {d : Nat} {f : Ware → Ware} (h : QueueKeeps g s t) : QueueKeeps g s (t.onWare d f) := ⟨h.frame.onWare, h.router⟩

theorem bump {r : Reg} {u n : Nat} (h : QueueKeeps g s t) : QueueKeeps g s (t.bump r u n) := ⟨h.frame.bump, h.router⟩

theorem putSlab {a : Nat} {bs : List Byte} (h : QueueKeeps g s t) : QueueKeeps g s (t.putSlab a bs) := ⟨h.frame.withMem, h.router⟩

theorem onSagger {f : Sagger → Sagger} (h : QueueKeeps g s t) (hf : ∀ x, (f x).router = x.router) :
    QueueKeeps g s (t.onSagger g f) := by
  refine ⟨h.frame.onSagger, ?_⟩
  rw [State.onSagger_sagger, if_pos rfl, hf, h.router]

theorem onRouter {f : Router → Router} (h : QueueKeeps g s t) (hf : ∀ r, (f r).unqueued = r.unqueued) :
    QueueKeeps g s (t.onRouter g f) := by
  refine ⟨h.frame.onSagger, ?_⟩
  rw [State.onRouter, State.onSagger_sagger, if_pos rfl, hf, h.router]

theorem foldl {α : Type} {f : State → α → State} (hf : ∀ u x, QueueKeeps g s u → QueueKeeps g s (f u x)) (xs : List α)
    (h : QueueKeeps g s t) : QueueKeeps g s (xs.foldl f t) := List.foldlRecOn xs f h fun u hu x _ => hf u x hu

theorem listWrite {e : BitVec 256} (h : QueueKeeps g s t) : QueueKeeps g s (t.listWrite g e) := by
  unfold State.listWrite
  split
  · have hwritten : QueueKeeps g s (t.putHbmNum (t.listAddr g (t.sagger g).list.prod) 32 e.toNat) :=
      ⟨h.frame.withMem, h.router⟩
    exact hwritten.bump.onSagger fun _ => rfl
  · exact h.onSagger fun _ => rfl

/-! ## Loads (R222, R223, R291) -/

theorem acceptLoad {d : Nat} {l : Load} (h : QueueKeeps g s t) : QueueKeeps g s (t.acceptLoad d l) :=
  foldl (fun _ _ hu => hu.onWare) _ h.onWare

theorem requestLoad {d : Nat} {l : Load} (h : QueueKeeps g s t) : QueueKeeps g s (t.requestLoad d l) :=
  foldl (fun _ _ hu => hu.acceptLoad) _ h.onWare.onWare

theorem confirmLoads {epoch expert : Nat} (h : QueueKeeps g s t) : QueueKeeps g s (t.confirmLoads g epoch expert) :=
  foldl (fun _ _ hu => hu.onWare) _ h

theorem fetchExpert {l expert epoch : Nat} {pred : Bool} (h : QueueKeeps g s t) :
    QueueKeeps g s (t.fetchExpert g l expert epoch pred) := by
  unfold State.fetchExpert
  split
  · exact h
  · exact foldl (fun _ _ hu => hu.requestLoad) _ h

theorem confirmExpert {l expert : Nat} (h : QueueKeeps g s t) : QueueKeeps g s (t.confirmExpert g l expert) := by
  unfold State.confirmExpert
  dsimp only
  split
  · exact h.confirmLoads.bump.onRouter fun _ => rfl
  · exact h
  · exact h.fetchExpert.onRouter fun _ => rfl

/-! ## Token lists and entries (R89, R105, R215) -/

theorem appendToken {c : ChunkShape} {x : Chunk} {slot : Nat} {blocks : List (BitVec 32)} (h : QueueKeeps g s t) :
    QueueKeeps g s (t.appendToken c x slot blocks) := foldl (fun _ _ hu => hu.putSlab) _ h

theorem emitSet {lay : LayerInfo} {li expert die first tokN og part out tally : Nat} {lists : Nat → Nat} (h : QueueKeeps g s t) :
    QueueKeeps g s (t.emitSet g lay li expert die first tokN og part out tally lists) :=
  foldl (fun _ _ hu => hu.listWrite) _ h.putSlab

theorem emitMatrix {lay : LayerInfo} {li expert first tokN tally : Nat} {lists parts outs : Nat → Nat} (h : QueueKeeps g s t) :
    QueueKeeps g s (t.emitMatrix g lay li expert first tokN tally lists parts outs).2 := foldl (fun _ _ hu => hu.emitSet) _ h

theorem emitGateUp {l : Nat} {x : Chunk} (h : QueueKeeps g s t) : QueueKeeps g s (t.emitGateUp g l x) := by
  unfold State.emitGateUp
  dsimp only
  exact onRouter (emitMatrix (emitMatrix h)) fun _ => rfl

theorem enqueue {l expert row slot : Nat} {blocks : List (BitVec 32)} (h : QueueKeeps g s t) :
    QueueKeeps g s (t.enqueue g l expert row slot blocks).2 := by
  unfold State.enqueue
  split
  · exact h
  · dsimp only
    split
    · exact emitGateUp (onRouter h.confirmExpert.appendToken.bump fun _ => rfl)
    · exact onRouter h.confirmExpert.appendToken.bump fun _ => rfl

theorem queuePicks {own : Nat → Bool} {l row slot : Nat} {blocks : List (BitVec 32)} {area : Nat → Nat} (picks : List (Nat × Bool))
    {acc : List Nat × State} (h : QueueKeeps g s acc.2) :
    QueueKeeps g s (picks.foldl (queuePick own g l row slot blocks area) acc).2 :=
  List.foldlRecOn (motive := fun acc : List Nat × State => QueueKeeps g s acc.2) picks _ h fun acc hacc a _ => by
    unfold queuePick
    split
    · exact hacc.enqueue
    · exact hacc

end QueueKeeps

end Sys2Proof.Machine

namespace Sys2Proof.Machine

/-! # The routing of a row (O24) -/

/-! ## The routing action (R213) -/

theorem takeReserve_room {cap r : Nat} {counts : Tab Nat} {rs rest : List Nat}
    (h : takeReserve cap counts rs = (some r, rest)) : tget 0 counts r < cap := by
  induction rs with
  | nil => simp [takeReserve] at h
  | cons a rs ih =>
    rw [takeReserve] at h
    split at h
    next hroom =>
      obtain ⟨rfl, -⟩ : a = r ∧ rs = rest := by simpa using h
      exact hroom
    next => exact ih h

/-- A choice accepts one expert with room, of its own rank or of the reserve, or none. -/
theorem Picks.pick_cases (p : Picks) (cap e : Nat) :
    ((p.pick cap e).counts = p.counts ∧ (p.pick cap e).accepted = p.accepted) ∨
      ∃ x rerouted, tget 0 p.counts x < cap ∧ (p.pick cap e).counts = tmod 0 p.counts x (· + 1) ∧
        (p.pick cap e).accepted = p.accepted ++ [(x, rerouted)] := by
  unfold Picks.pick
  split
  next hroom => exact .inr ⟨e, false, hroom, rfl, rfl⟩
  next =>
    split
    next r rest hreserve => exact .inr ⟨r, true, takeReserve_room hreserve, rfl, rfl⟩
    next => exact .inl ⟨rfl, rfl⟩

/-- What `n` choices of a token may have done since the layer's counts were `counts`. -/
structure Picks.Within (cap : Nat) (counts : Tab Nat) (n : Nat) (p : Picks) : Prop where
  accepted : p.accepted.length ≤ n
  counted  : ∀ e, tget 0 p.counts e = tget 0 counts e + (p.accepted.filter fun a => a.1 == e).length
  capacity : ∀ e, tget 0 p.counts e ≤ max (tget 0 counts e) cap

theorem Picks.Within.pick {cap n : Nat} {counts : Tab Nat} {p : Picks} (h : p.Within cap counts n) (e : Nat) :
    (p.pick cap e).Within cap counts (n + 1) := by
  obtain ⟨haccepted, hcounted, hcapacity⟩ := h
  obtain ⟨hc, ha⟩ | ⟨x, rerouted, hroom, hc, ha⟩ := p.pick_cases cap e
  · exact ⟨by rw [ha]; omega, by rw [hc, ha]; exact hcounted, by rw [hc]; exact hcapacity⟩
  · refine ⟨by simpa [ha] using haccepted, fun k => ?_, fun k => ?_⟩
    · rw [hc, ha, tget_tmod, List.filter_append, List.length_append, ← Nat.add_assoc, ← hcounted]
      by_cases hk : k = x
      · simp [hk]
      · simp [hk, Ne.symm hk]
    · rw [hc, tget_tmod]
      split
      next => omega
      next => exact hcapacity k

theorem Picks.Within.picks {cap : Nat} {counts : Tab Nat} (es : List Nat) {n : Nat} {p : Picks} (h : p.Within cap counts n) :
    (es.foldl (fun p e => p.pick cap e) p).Within cap counts (n + es.length) := by
  induction es generalizing n p with
  | nil => exact h
  | cons e es ih =>
    rw [List.foldl_cons, List.length_cons, Nat.add_comm es.length, ← Nat.add_assoc]
    exact ih (h.pick e)

/-- The routing action makes at most K_TOP choices, each within capacity. -/
theorem routeToken_within (m : MoeInfo) (cap : Nat) (counts : Tab Nat) (ranked : List Nat) :
    (routeToken m cap counts ranked).Within cap counts m.kTop := by
  have hstart : Picks.Within cap counts 0 { counts := counts, reserve := (ranked.drop m.kTop).take m.ovf } :=
    ⟨Nat.le_refl 0, fun e => rfl, fun e => Nat.le_max_left ..⟩
  have hpicks := hstart.picks (ranked.take m.kTop)
  exact { hpicks with accepted := Nat.le_trans hpicks.accepted (by rw [Nat.zero_add, List.length_take]; exact Nat.min_le_left ..) }

/-! ## The route record (R214) -/

theorem padTo_of_le {n : Nat} {bs : List Byte} (h : bs.length ≤ n) : padTo n bs = bs ++ zeros (n - bs.length) := by
  rw [padTo, List.take_of_length_le]
  rw [List.length_append, zeros_length]
  omega

@[simp] theorem padTo_length (n : Nat) (bs : List Byte) : (padTo n bs).length = n := by
  rw [padTo, List.length_take, List.length_append, zeros_length]
  omega

/-- One choice in the record. -/
def choiceBytes (c : Nat × Bool × Bool × Nat × Nat) : List Byte :=
  leBytes (c.1 + 2 ^ 17 * Bool.num c.2.1 + 2 ^ 18 * Bool.num c.2.2.1 + 2 ^ 19 * c.2.2.2.1) 4 ++ leBytes c.2.2.2.2 4

theorem choiceBytes_length (c : Nat × Bool × Bool × Nat × Nat) : (choiceBytes c).length = 8 := by simp [choiceBytes]

theorem choicesBytes_length (cs : List (Nat × Bool × Bool × Nat × Nat)) : (cs.flatMap choiceBytes).length = 8 * cs.length := by
  simp only [List.length_flatMap, choiceBytes_length, List.map_const', List.sum_replicate_nat, Nat.mul_comm]

theorem choiceBytes_gate (c : Nat × Bool × Bool × Nat × Nat) : bfield (choiceBytes c) 0 17 = c.1 % 2 ^ 17 := by
  rw [choiceBytes, bfield_append_left _ (by simp), bfield_leBytes _ (by decide), nbits]
  omega

section
variable {slot ndrop layer shOut : Nat} {cs : List (Nat × Bool × Bool × Nat × Nat)} (hcs : cs.length ≤ 7)

@[simp] theorem routeRecord_length : (routeRecord slot ndrop layer shOut cs).length = 64 := padTo_length ..

include hcs

/-- Up to seven choices fit the record. -/
theorem routeRecord_eq : routeRecord slot ndrop layer shOut cs =
    leBytes (slot + 2 ^ 16 * cs.length + 2 ^ 19 * ndrop + 2 ^ 24 * layer) 4 ++
      (leBytes shOut 4 ++ (cs.flatMap choiceBytes ++ zeros (56 - 8 * cs.length))) := by
  have hlength : ∀ a b, (leBytes a 4 ++ leBytes b 4 ++ cs.flatMap choiceBytes).length = 8 + 8 * cs.length := fun a b => by
    rw [List.length_append, List.length_append, leBytes_length, leBytes_length, choicesBytes_length]
  show padTo 64 (leBytes _ 4 ++ leBytes shOut 4 ++ cs.flatMap choiceBytes) = _
  rw [padTo_of_le (by rw [hlength]; omega), hlength, Nat.sub_add_eq, List.append_assoc, List.append_assoc]

theorem routeRecord_nacc (hslot : slot < 65536) : bfield (routeRecord slot ndrop layer shOut cs) 16 3 = cs.length := by
  rw [routeRecord_eq hcs, bfield_append_left _ (by simp), bfield_leBytes _ (by decide), nbits]
  omega

theorem routeRecord_gate {k : Nat} (hk : k < cs.length) :
    bfield (routeRecord slot ndrop layer shOut cs) (64 + 64 * k) 17 = cs[k].1 % 2 ^ 17 := by
  have hhead (a b : Nat) (ys : List Byte) :
      bfield (leBytes a 4 ++ (leBytes b 4 ++ ys)) (64 + 64 * k) 17 = bfield ys (64 * k + 0) 17 := by
    simpa using bfield_append_right (leBytes a 4 ++ leBytes b 4) ys (64 * k) 17
  rw [routeRecord_eq hcs, hhead, bfield_append_left _ (by rw [choicesBytes_length]; omega),
    bfield_flatMap choiceBytes_length hk (by decide), choiceBytes_gate]

end

/-! ## Noting a routed row (R213, R214) -/

theorem WheelFrame.countPicks {ps : List Field} {ws gs : List Nat} {s t : State} {g : Nat} {p : Picks}
    (h : WheelFrame ps ws gs s t) (hp : .regs ∈ ps := by decide) : WheelFrame ps ws gs s (t.countPicks g p) :=
  foldl (fun _ _ hu => hu.bump hp) _ (foldl (fun _ _ hu => hu.bump hp) _ (foldl (fun _ _ hu => hu.bump hp) _ h))

/-- The arena areas of a row are taken, before its choices queue it. -/
def State.takeAreas (s : State) (g : Nat) (experts : List Nat) (areas : List (List (BitVec 32 × Nat)))
    (outs : List (BitVec 32 × Nat)) : State :=
  (s.openChunks g experts areas).onRouter g fun r => { r with arenaUsed := r.arenaUsed ++ outs, stalled := none }

theorem State.takeAreas_frame (s : State) (g : Nat) (experts : List Nat) (areas : List (List (BitVec 32 × Nat)))
    (outs : List (BitVec 32 × Nat)) : WheelFrame [.saggers] [] [g] s (s.takeAreas g experts areas outs) :=
  WheelFrame.refl.onSagger.onSagger

theorem State.takeAreas_routed (s : State) (g : Nat) (experts : List Nat) (areas : List (List (BitVec 32 × Nat)))
    (outs : List (BitVec 32 × Nat)) :
    ((s.takeAreas g experts areas outs).sagger g).router.routed = (s.sagger g).router.routed := by
  simp [State.takeAreas, State.openChunks, State.onRouter]

/-- The choices as the record holds them: gate, remote and rerouted marks, expert and output address. -/
def rowChoices (own : Nat → Bool) (ranked : List (Nat × Dyad)) (p : Picks) (addrs : List Nat) :
    List (Nat × Bool × Bool × Nat × Nat) :=
  let gs := gates (p.accepted.map fun a => ((ranked.find? fun x => x.1 == a.1).map (·.2)).getD {})
  (List.range p.accepted.length).map fun k =>
    let a := p.accepted.getD k (0, false)
    (gs.getD k 0, !own a.1, a.2, a.1, addrs.getD k 0)

@[simp] theorem rowChoices_length (own : Nat → Bool) (ranked : List (Nat × Dyad)) (p : Picks) (addrs : List Nat) :
    (rowChoices own ranked p addrs).length = p.accepted.length := by simp [rowChoices]

/-- The router writes the record of a row at `a`, counts the action and puts its counts in force. -/
def State.noteRow (s : State) (g row a : Nat) (record : List Byte) (p : Picks) (shOut : List (BitVec 32)) (far : List Nat) : State :=
  ((((((s.putHbm a record).bump .hbmNarrow (stackOfAddr a) 1).bump .hbmWrBytes (stackOfAddr a) 64).countPicks g p).onRouter g
    fun r => { r with
      routed := r.routed ++ [row], counts := p.counts, shared := r.shared ++ [(row, shOut)]
      remote := far.foldl (fun t e => tmod 0 t e (· + 1)) r.remote }).bump .xrtRouted g 1).touch g

section
variable (s : State) (g row a : Nat) (record : List Byte) (p : Picks) (shOut : List (BitVec 32)) (far : List Nat)

/-- The record is in HBM and the action is counted. -/
theorem State.countedRow_frame : WheelFrame [.regs] [] [] (s.putHbm a record)
    ((((s.putHbm a record).bump .hbmNarrow (stackOfAddr a) 1).bump .hbmWrBytes (stackOfAddr a) 64).countPicks g p) :=
  WheelFrame.refl.bump.bump.countPicks

theorem State.noteRow_frame : WheelFrame [.mem, .regs, .saggers] [] [g] s (s.noteRow g row a record p shOut far) := by
  have hwritten : WheelFrame [.mem, .regs, .saggers] [] [g] s (s.putHbm a record) := WheelFrame.refl.withMem
  exact hwritten.bump.bump.countPicks.onSagger.bump.touch

theorem State.noteRow_mem : (s.noteRow g row a record p shOut far).mem = (s.putHbm a record).mem :=
  (s.countedRow_frame g a record p).mem_eq

theorem State.noteRow_router : ((s.noteRow g row a record p shOut far).sagger g).router =
    { (s.sagger g).router with
      routed := (s.sagger g).router.routed ++ [row], counts := p.counts, shared := (s.sagger g).router.shared ++ [(row, shOut)]
      remote := far.foldl (fun t e => tmod 0 t e (· + 1)) (s.sagger g).router.remote } := by
  have hcounted := (s.countedRow_frame g a record p).saggers g List.not_mem_nil
  rw [State.noteRow, State.touch_router, State.bump_sagger, State.onRouter, State.onSagger_sagger, if_pos rfl, hcounted]
  rfl

end

/-! ## ROUTE_ROW (R213 to R215, R219, R225) -/

/-- The accepted experts of this module, and those of the partner. -/
def State.ownPicks (s : State) (g : Nat) (p : Picks) : List Nat := (p.accepted.map (·.1)).filter (s.ownExpert g)
def State.farPicks (s : State) (g : Nat) (p : Picks) : List Nat := (p.accepted.map (·.1)).filter fun e => !s.ownExpert g e

/-- The sizes of the areas that take the partner's outputs for a row. -/
def State.farSizes (s : State) (g l : Nat) (p : Picks) : List Nat :=
  (s.farPicks g p).map fun _ => (s.chunkShape g l).down.outBlocks * (s.chunkShape g l).down.slot

section
variable (s : State) (g l row slot : Nat) (ranked : List (Nat × Dyad)) (p : Picks) (blocks shOut : List (BitVec 32))
  (areas : List (List (BitVec 32 × Nat))) (outs : List (BitVec 32 × Nat))

/-- The row's areas are taken and its own experts queue it: the output addresses, and the state. -/
def State.queueRow : List Nat × State :=
  p.accepted.foldl (queuePick (s.ownExpert g) g l row slot blocks fun e =>
    ((outs.getD ((s.farPicks g p).findIdx (· == e)) (0, 0)).1).toNat) ([], s.takeAreas g (s.ownPicks g p) areas outs)

theorem State.queueRow_keeps :
    QueueKeeps g (s.takeAreas g (s.ownPicks g p) areas outs) (s.queueRow g l row slot p blocks areas outs).2 := by
  unfold State.queueRow
  exact QueueKeeps.queuePicks (acc := ([], _)) _ .refl

/-- The record of the row. -/
def State.rowRecord : List Byte :=
  routeRecord slot p.dropped.length l (if (s.moe g l).shared then (shOut.getD 0 0).toNat else 0)
    (rowChoices (s.ownExpert g) ranked p (s.queueRow g l row slot p blocks areas outs).1)

/-- The row is queued and noted. -/
def State.enterRow : State :=
  (s.queueRow g l row slot p blocks areas outs).2.noteRow g row (s.routeAddr g row)
    (s.rowRecord g l row slot ranked p blocks shOut areas outs) p shOut (s.farPicks g p)

/-- What entering a row may change: what taking areas, queueing and noting may change. -/
theorem State.enterRow_frame :
    WheelFrame [.mem, .regs, .saggers, .wares] [] [g] s (s.enterRow g l row slot ranked p blocks shOut areas outs) := by
  have htaken : WheelFrame [.mem, .regs, .saggers, .wares] [] [g] s (s.takeAreas g (s.ownPicks g p) areas outs) :=
    (s.takeAreas_frame ..).mono (by decide) (.refl _)
  exact (htaken.trans (s.queueRow_keeps g l row slot p blocks areas outs).frame).trans
    ((State.noteRow_frame ..).mono (by decide) (.refl _))

theorem State.enterRow_routed : ((s.enterRow g l row slot ranked p blocks shOut areas outs).sagger g).router.routed =
    (s.sagger g).router.routed ++ [row] := by
  rw [State.enterRow, State.noteRow_router, (s.queueRow_keeps g l row slot p blocks areas outs).routed, State.takeAreas_routed]

theorem State.enterRow_counts : ((s.enterRow g l row slot ranked p blocks shOut areas outs).sagger g).router.counts = p.counts := by
  rw [State.enterRow, State.noteRow_router]

/-- The record is the last write of memory, and reads back. -/
theorem State.enterRow_hbm : (s.enterRow g l row slot ranked p blocks shOut areas outs).hbm (s.routeAddr g row) 64 =
    s.rowRecord g l row slot ranked p blocks shOut areas outs := by
  have hread := mread_mwrite (s.queueRow g l row slot p blocks areas outs).2.mem.hbm (s.routeAddr g row)
    (s.rowRecord g l row slot ranked p blocks shOut areas outs)
  rw [State.rowRecord, routeRecord_length] at hread
  rw [State.hbm, State.enterRow, State.noteRow_mem]
  exact hread

variable {s g l row slot ranked p blocks shOut areas outs}

/-- NACC of the record is the number of accepted choices. -/
theorem State.rowRecord_nacc (hp : p.accepted.length ≤ 7) (hslot : slot < 65536) :
    bfield (s.rowRecord g l row slot ranked p blocks shOut areas outs) 16 3 = p.accepted.length := by
  rw [State.rowRecord, routeRecord_nacc (by rwa [rowChoices_length]) hslot, rowChoices_length]

/-- Its gates are those of the accepted scores. -/
theorem State.rowRecord_gate (hp : p.accepted.length ≤ 7) {k : Nat} (hk : k < p.accepted.length) :
    bfield (s.rowRecord g l row slot ranked p blocks shOut areas outs) (64 + 64 * k) 17 =
      (gates (p.accepted.map fun a => ((ranked.find? fun x => x.1 == a.1).map (·.2)).getD {})).getD k 0 % 2 ^ 17 := by
  rw [State.rowRecord, routeRecord_gate (by rwa [rowChoices_length]) (by rwa [rowChoices_length])]
  simp [rowChoices]

end

section
variable {s : State} {g l row slot : Nat} {ranked : List (Nat × Dyad)} {p : Picks} {blocks shOut : List (BitVec 32)}
  (hfits : neverFits (s.arena g) ((s.chunkShape g l).sizes ++ s.farSizes g l p) = false)
include hfits

/-- A row without room in the arena waits. -/
theorem State.routeTo_of_full (hareas : s.newAreas g l (s.ownPicks g p) (s.farSizes g l p) = none) :
    s.routeTo g l row slot ranked p blocks shOut = s.stallRouter g := by
  simp only [State.farSizes, State.ownPicks, State.farPicks] at hfits hareas
  dsimp only [State.routeTo]
  rw [if_neg (ne_true_of_eq_false hfits)]
  simp only [hareas]

/-- A row with room is queued and noted; when it has choices of the partner, a TOKEN message follows. -/
theorem State.routeTo_of_areas {areas : List (List (BitVec 32 × Nat))} {outs : List (BitVec 32 × Nat)}
    (hareas : s.newAreas g l (s.ownPicks g p) (s.farSizes g l p) = some (areas, outs)) :
    WheelFrame [.lute] [] [] (s.enterRow g l row slot ranked p blocks shOut areas outs)
      (s.routeTo g l row slot ranked p blocks shOut) := by
  simp only [State.farSizes, State.ownPicks, State.farPicks] at hfits hareas
  dsimp only [State.routeTo]
  rw [if_neg (ne_true_of_eq_false hfits)]
  simp only [hareas]
  split
  next => exact .refl
  next => exact WheelFrame.refl.onLute

end

/-- The row of a score row is one that may be routed for layer `l`: it has its turn and its record (R213, R214). -/
structure MayRoute (s : State) (g : SaggerIx) (row score : BitVec 32) (l slot : Nat) : Prop where
  layer   : s.routeLayer g.val = some l
  ragged  : rowSlot (s.sagger g.val).ragged row.toNat = some slot
  serving : (s.sagger g.val).st = .serving
  running : (s.sagger g.val).phase = .running
  listed  : (s.sagger g.val).listHalt = false
  isOpen  : (s.sagger g.val).router.closed = false
  once    : (s.sagger g.val).router.layer = none ∨ row.toNat ∉ (s.sagger g.val).router.routed
  record  : row.toNat < s.placeCount g.val 5
  live    : s.rowDead g.val slot = false
  score   : s.slabNum (score.toNat + 2) 2 = 0

theorem execRouteRow_of_mayRoute {s : State} {g : SaggerIx} {row score : BitVec 32} {l slot : Nat} {blocks shOut : List (BitVec 32)}
    {ranked : List (Nat × Dyad)} {p : Picks} (h : MayRoute s g row score l slot)
    (hranked : ranked = rankScores ((s.openLayer g.val l).scores score.toNat (s.moe g.val l).experts))
    (hp : p = routeToken (s.moe g.val l) ((s.moe g.val l).capacity (s.sagger g.val).rowsN)
      ((s.openLayer g.val l).sagger g.val).router.counts (ranked.map (·.1))) :
    exec (.routeRow g row score blocks shOut) s =
      .next ((s.openLayer g.val l).routeTo g.val l row.toNat slot ranked p blocks shOut) := by
  obtain ⟨hlayer, hrow, hserve, hrun, hlist, hopen, honce, hrecord, hlive, hscore⟩ := h
  subst hranked hp
  show execRouteRow g row score blocks shOut s = _
  simp only [execRouteRow, hlayer, hrow]
  rw [if_neg (by rcases honce with h | h <;> simp [hserve, hrun, hlist, hopen, h]), if_neg (by omega), if_neg (by simp [hlive]),
    if_neg (by simp [hscore])]

theorem State.openLayer_frame (s : State) (g l : Nat) : WheelFrame [.saggers] [] [g] s (s.openLayer g l) :=
  .ite .refl WheelFrame.refl.onSagger

theorem State.routeAddr_congr {s t : State} (h : t.plan = s.plan) (g row : Nat) : t.routeAddr g row = s.routeAddr g row := by
  simp only [State.routeAddr, State.placeAddr, State.place, h]

/-- Settles O24: the routing action by induction over its choices; the record is the last write of memory, and its fields are
read back from its bytes. -/
theorem routingNeverExceedsCapacity : Obligations.RoutingNeverExceedsCapacity := by
  refine ⟨?action, ?command⟩
  case action =>
    rintro m cap counts ranked p rfl
    obtain ⟨haccepted, hcounted, hcapacity⟩ := routeToken_within m cap counts ranked
    exact ⟨haccepted, hcounted, hcapacity⟩
  case command =>
    rintro g row score blocks shOut s l slot s1 ranked p mine extra hlayer hrow hslot rfl hranked hp rfl rfl hserve hrun hlist
      hopen honce hrecord hlive hscore hfits
    have hexec := execRouteRow_of_mayRoute (blocks := blocks) (shOut := shOut)
      ⟨hlayer, hrow, hserve, hrun, hlist, hopen, honce, hrecord, hlive, hscore⟩ hranked hp
    have hopened := s.openLayer_frame g.val l
    refine ⟨fun (areas, outs) hareas => ⟨_, hexec, ?routed⟩, fun hareas => ⟨_, hexec, ?stalled⟩⟩
    case stalled =>
      have hframe : WheelFrame [.saggers] [] [g.val] s ((s.openLayer g.val l).stallRouter g.val) := hopened.onSagger
      rw [State.routeTo_of_full hfits hareas]
      exact ⟨by simp [State.stallRouter, State.onRouter], hframe.only, hframe.saggers⟩
    case routed =>
      have hsent := State.routeTo_of_areas (row := row.toNat) (slot := slot) (ranked := ranked) (blocks := blocks)
        (shOut := shOut) hfits hareas
      generalize (s.openLayer g.val l).routeTo g.val l row.toNat slot ranked p blocks shOut = t at hsent ⊢
      have hframe : WheelFrame [.mem, .regs, .saggers, .wares, .lute] [] [g.val] s t :=
        ((hopened.mono (by decide) (.refl _)).trans ((State.enterRow_frame ..).mono (by decide) (.refl _))).trans
          (hsent.mono (by decide) (List.nil_subset _))
      rw [hsent.saggers g.val List.not_mem_nil]
      refine ⟨State.enterRow_routed .., State.enterRow_counts .., fun hk => ?fields, hframe.only, hframe.saggers⟩
      have haccepted : p.accepted.length ≤ 7 := by
        rw [hp]
        exact Nat.le_trans (routeToken_within ..).accepted hk
      have hbytes : t.hbm (s.routeAddr g.val row.toNat) 64 =
          (s.openLayer g.val l).rowRecord g.val l row.toNat slot ranked p blocks shOut areas outs := by
        rw [State.hbm, hsent.mem_eq, ← State.routeAddr_congr hopened.plan_eq]
        exact State.enterRow_hbm ..
      refine ⟨?nacc, fun k hk => ?gate⟩
      case nacc => rw [State.hbmField_eq_bfield _ _ (by decide), hbytes, State.rowRecord_nacc haccepted hslot]
      case gate => rw [State.hbmField_eq_bfield _ _ (by omega), hbytes, State.rowRecord_gate haccepted hk]

end Sys2Proof.Machine

namespace Sys2Proof.Machine

/-! # Expert messages of a luted pair (O27)

R226 gives a DONE a COUNT of 1 to 65,535: an expert without rows answers EMPTY. The statement asks of a DONE only that its COUNT is
the awaited one, which for an expert without rows is 0; such a DONE breaks R226, and the join takes it for a wrong COUNT (R230). -/

@[simp] theorem State.routerFault_router (s : State) (g detail unit sub k : Nat) :
    ((s.routerFault g detail unit sub).sagger k).router = (s.sagger k).router := by
  rw [State.routerFault, State.fault, State.raise_router, State.haltList, State.onSagger_sagger]
  split
  next hk => rw [hk]
  next => rfl

/-- A message leaves the received bytes of the lute port; no sagger changes. -/
@[simp] theorem State.luteTake_sagger (s : State) (k : Nat) : s.luteTake.sagger k = s.sagger k := by
  unfold State.luteTake
  split <;> rfl

/-- A DONE whose COUNT is 0 raises fault 0x84, whatever the lead awaits of its expert (R226, R230). -/
theorem execLuteDone_of_zero {s : State} {h g : Nat} {writes : List (BitVec 32 × List Byte)} (hhead : s.luteHead = some (h, []))
    (htype : nbits h 0 8 = 0x23) (hsagger : s.luteSagger h = some g) (hlead : s.lead = true) (hid : nbits h 42 6 = 0)
    (hreserved : nbits h 96 32 = 0) (hodd : nbits h 32 10 % 2 = 1) (hexpert : nbits h 32 10 < (s.moe g (nbits h 8 8)).experts)
    (hlayer : (s.sagger g).router.layer = some (nbits h 8 8)) (hcount : nbits h 48 16 = 0) :
    exec (.luteDone writes) s = .next (s.luteTake.routerFault g 0x84 (dieOfSagger g) (nbits h 32 10)) := by
  have hlegal : luteType h = true := by simp [luteType, htype]
  show execLuteDone writes s = _
  simp only [execLuteDone, State.luteWith, hhead]
  rw [if_neg (by simp [hlegal]), if_neg (by simp [htype])]
  simp only [State.takeAnswer, hsagger]
  rw [if_neg (by simp [hlead, hid, hreserved, hodd, hexpert, hlayer]), if_pos (by simp [hcount])]

/-- The header of a DONE for expert 1 in layer 0 with COUNT 0. -/
def zeroDone : Nat := 0x23 + 2 ^ 32

/-- The lead of a pair with sagger 0 luted. Its open layer 0 has two experts, no row was routed to the partner's expert 1, and the
DONE has arrived. -/
def awaitsNoRows : State :=
  { State.reset with
    plan := some { device := { role := 1, luted := 1 }, saggers := [{ sagger := 0 }] }
    saggers := [(0, { st := .serving, router := { layer := some 0 }
                      images := [{ index := 0, ns := 0, off := 0, strata := [], measure := 0
                                   info := { layers := [{ moe := some { experts := 2 } }] } }] })]
    ports := [(6, { st := .up, rx := [(0, leBytes zeroDone 16)] })] }

theorem awaitsNoRows_receives : awaitsNoRows.luteHead = some (zeroDone, []) ∧ awaitsNoRows.luteSagger zeroDone = some 0 := by
  decide +kernel

/-- Refutes O27: a DONE of COUNT 0, for an expert to which no row was routed, has the awaited count and is not joined. -/
theorem not_expertMessagesOfALutedPair : ¬ Obligations.ExpertMessagesOfALutedPair := by
  unfold Obligations.ExpertMessagesOfALutedPair
  rintro ⟨-, -, hanswers⟩
  obtain ⟨hhead, hsagger⟩ := awaitsNoRows_receives
  obtain ⟨hdone, -⟩ := hanswers awaitsNoRows zeroDone [] 0 1 hhead hsagger rfl rfl (by decide) (by decide) (by decide) (by decide)
    (by decide) (by decide) (by decide)
  obtain ⟨t, hexec, hanswered, -⟩ := hdone [] (by decide) (by decide)
  rw [execLuteDone_of_zero hhead (by decide) hsagger rfl (by decide) (by decide) (by decide) (by decide) (by decide)
    (by decide)] at hexec
  cases hexec
  rw [State.routerFault_router, State.luteTake_sagger] at hanswered
  exact absurd hanswered (by decide)

end Sys2Proof.Machine

namespace Sys2Proof.Machine

/-! # What the setter of a sagger changes as it plans a step (O31)

Planning and the fire point run through the tables of a sagger: frames, nodes, sequence records, requests and tenants.
`SetterWork` is what all of that work keeps, with one rule for each operation; the statement about a command is then read off
its meaning. -/

theorem State.onStack_only (s : State) (k : Nat) (f : Stack → Stack) : Only [.hbmStacks] s (s.onStack k f) := by
  intro p hp
  cases p
  case hbmStacks => simp at hp
  all_goals rfl

theorem WheelFrame.onStack {ps : List Field} {ws gs : List Nat} {s t : State} {k : Nat} {f : Stack → Stack}
    (h : WheelFrame ps ws gs s t) (hp : .hbmStacks ∈ ps := by decide) : WheelFrame ps ws gs s (t.onStack k f) :=
  h.trans ⟨(t.onStack_only k f).widen hp, fun _ _ => rfl, fun _ _ => rfl⟩

/-- A sagger without its state of service, its requests, tenants, frames and nodes, and its progress.  What is left, the number,
phase and commit record of its step with its ragged entries among it, changes only where a step begins or ends. -/
def Sagger.fixed (x : Sagger) : Sagger :=
  { x with
    st := .down, cause := {}, frames := [], nodes := [], retired := [], queue := [], live := [], tenants := [], slots := []
    stepModel := 0, winUnits := [], progress := 0, dlArmed := true }

/-- From `s` to `t` the setter of sagger `g` has worked on the sagger's tables: nothing outside them, the counters, the fault
records and the free values has changed, no other sagger, and not the step that is under way. -/
structure SetterWork (g : Nat) (s t : State) : Prop where
  frame : WheelFrame [.mem, .regs, .freeCtr, .saggers, .hbmStacks, .flog, .lute] [] [g] s t
  fixed : (t.sagger g).fixed = (s.sagger g).fixed

namespace SetterWork

variable {g : Nat} {s t : State}

/-! ## Changes of one part of the state -/

theorem refl : SetterWork g s s := ⟨.refl, rfl⟩

theorem ite {c : Prop} [Decidable c] {u : State} (ht : SetterWork g s t) (hu : SetterWork g s u) :
    SetterWork g s (if c then t else u) := by
  split
  · exact ht
  · exact hu

theorem foldl {α : Type} {f : State → α → State} (hf : ∀ u x, SetterWork g s u → SetterWork g s (f u x)) (xs : List α)
    (h : SetterWork g s t) : SetterWork g s (xs.foldl f t) := List.foldlRecOn xs f h fun u hu x _ => hf u x hu

theorem onSagger {f : Sagger → Sagger} (h : SetterWork g s t) (hf : ∀ x, (f x).fixed = x.fixed := by exact fun _ => rfl) :
    SetterWork g s (t.onSagger g f) := by
  refine ⟨h.frame.onSagger, ?_⟩
  rw [State.onSagger_sagger, if_pos rfl, hf, h.fixed]

theorem withMem {m : Memories} (h : SetterWork g s t) : SetterWork g s { t with mem := m } := ⟨h.frame.withMem, h.fixed⟩
theorem withFreeCtr {n : Nat} (h : SetterWork g s t) : SetterWork g s { t with freeCtr := n } := ⟨h.frame.withFreeCtr, h.fixed⟩
theorem bump {r : Reg} {u n : Nat} (h : SetterWork g s t) : SetterWork g s (t.bump r u n) := ⟨h.frame.bump, h.fixed⟩
theorem onStack {k : Nat} {f : Stack → Stack} (h : SetterWork g s t) : SetterWork g s (t.onStack k f) :=
  ⟨h.frame.onStack, h.fixed⟩

theorem raise {r : FaultRec} (h : SetterWork g s t) (hr : r.sagger = sgField g) : SetterWork g s (t.raise r) := by
  refine ⟨h.frame.raise (hg := fun hlt => ?_), ?_⟩
  · rw [hr] at hlt ⊢
    simp [sgField_toNat hlt]
  · obtain ⟨st, cause, hx⟩ := t.raise_sagger r g
    rw [hx]
    exact h.fixed

theorem fault {cls block detail unit sub : Nat} (h : SetterWork g s t) : SetterWork g s (t.fault cls block detail g unit sub) :=
  h.raise rfl

theorem putHbm {a : Nat} {bs : List Byte} (h : SetterWork g s t) : SetterWork g s (t.putHbm a bs) := h.withMem
theorem putHbmNum {a n v : Nat} (h : SetterWork g s t) : SetterWork g s (t.putHbmNum a n v) := h.withMem
theorem zeroHbm {a n : Nat} (h : SetterWork g s t) : SetterWork g s (t.zeroHbm a n) := h.withMem
theorem putSlab {a : Nat} {bs : List Byte} (h : SetterWork g s t) : SetterWork g s (t.putSlab a bs) := h.withMem
theorem putSeq {slot off lo w v : Nat} (h : SetterWork g s t) : SetterWork g s (t.putSeq g slot off lo w v) := h.withMem
theorem putPte {slot layer page : Nat} {e : Pte} (h : SetterWork g s t) : SetterWork g s (t.putPte g slot layer page e) := h.withMem
theorem putNode {n off lo w v : Nat} (h : SetterWork g s t) : SetterWork g s (t.putNode g n off lo w v) := h.withMem
theorem setFrame {f : Nat} {st : FrameState} (h : SetterWork g s t) : SetterWork g s (t.setFrame g f st) := h.onSagger
theorem onReq {q : Req} {f : Req → Req} (h : SetterWork g s t) : SetterWork g s (t.onReq g q f) := h.onSagger
theorem touch (h : SetterWork g s t) : SetterWork g s (t.touch g) := h.onSagger

theorem failSlot {block detail unit slot : Nat} (h : SetterWork g s t) : SetterWork g s (t.failSlot block detail g unit slot) := by
  unfold State.failSlot
  split
  · exact h
  · exact onSagger (raise h rfl)

/-! ## Frames and nodes of the tree (R184, R202 to R205) -/

theorem dropFrame {f : Nat} (h : SetterWork g s t) : SetterWork g s (t.dropFrame g f) := by
  unfold State.dropFrame
  split
  · exact h
  · exact h
  · exact h
  · exact h.setFrame.onStack

theorem unlinkFrom {next : State → Nat → Nat} {put : State → Nat → Nat → State} {n : Nat}
    (hput : ∀ u a v, SetterWork g s u → SetterWork g s (put u a v)) (l : List Nat) (h : SetterWork g s t) :
    SetterWork g s (unlinkFrom next put n l t) := by
  fun_induction Machine.unlinkFrom next put n l t with
  | case1 => exact hput _ _ _ h
  | case2 _ _ _ _ _ ih => exact ih h
  | case3 => exact h

theorem unlinkNode {n : Nat} (h : SetterWork g s t) : SetterWork g s (t.unlinkNode g n) := by
  unfold State.unlinkNode
  extract_lets d chain s1 p kids
  have h1 : SetterWork g s s1 := ite h.putHbmNum (unlinkFrom (fun _ _ _ hu => hu.putNode) _ h)
  exact ite h1 (ite h1.putNode (unlinkFrom (fun _ _ _ hu => hu.putNode) _ h1))

theorem freeNode {n : Nat} (h : SetterWork g s t) : SetterWork g s (t.freeNode g n) :=
  (foldl (fun _ _ hu => hu.dropFrame) _ h).putHbm.onSagger

theorem evictNode {n : Nat} (h : SetterWork g s t) : SetterWork g s (t.evictNode g n) := h.unlinkNode.freeNode.bump

theorem evictFor {keep : List Nat} {fuel n : Nat} (h : SetterWork g s t) : SetterWork g s (t.evictFor g keep fuel n).2 := by
  induction fuel generalizing t n with
  | zero => exact h
  | succ fuel ih =>
    unfold State.evictFor
    split
    · exact h
    · split
      · exact h
      · exact ih h.evictNode

theorem retireNode {n : Nat} (h : SetterWork g s t) : SetterWork g s (t.retireNode g n) := by
  refine fault (List.foldrRecOn _ _ h fun u hu m _ => ?_)
  exact ite hu.unlinkNode.putNode.freeNode hu.unlinkNode.putNode.onSagger

theorem unref {n : Nat} (h : SetterWork g s t) : SetterWork g s (t.unref g n) :=
  ite h.fault (ite h.putNode.freeNode h.putNode)

theorem releaseBlocks {slot k : Nat} (h : SetterWork g s t) : SetterWork g s (t.releaseBlocks g slot k) :=
  (foldl (fun _ _ hu => hu.unref) _ h).putSeq.putSeq

theorem takeFrame {u : State} {tenant f : Nat} (h : SetterWork g s t) (he : t.takeFrame g tenant = .ok (f, u)) :
    SetterWork g s u := by
  unfold State.takeFrame at he
  split at he
  · cases he
  · split at he <;> cases he
    exact h.setFrame

theorem takeFrames {u : State} {tenant k : Nat} {fs : List Nat} (h : SetterWork g s t)
    (he : t.takeFrames g tenant k = .ok (fs, u)) : SetterWork g s u := by
  induction k generalizing t u fs with
  | zero => cases he; exact h
  | succ k ih =>
    unfold State.takeFrames at he
    split at he
    · cases he
    · next hone =>
      split at he
      · cases he
      · next hrest =>
        cases he
        exact ih (h.takeFrame hone) hrest

/-! ## Blocks that a prompt shares (R201) -/

theorem lookup {scope model : Nat} {tokens : List Nat} {fuel j parent : Nat} (h : SetterWork g s t) :
    SetterWork g s (t.lookup g scope model tokens fuel j parent).2 := by
  induction fuel generalizing t j parent with
  | zero => exact h
  | succ fuel ih =>
    unfold State.lookup
    dsimp only
    split
    · exact h.bump.retireNode
    · exact h.bump
    · exact ih h.bump

theorem attachNode {slot j n : Nat} (h : SetterWork g s t) : SetterWork g s (t.attachNode g slot j n) := by
  unfold State.attachNode
  refine bump (putSeq (putSeq (putSeq (putSeq (foldl (fun _ _ hu => foldl (fun _ _ hv => ?_) _ hu) _ h.putNode.putNode)))))
  exact foldl (fun _ _ hw => hw.putHbmNum) _ hv.putPte

theorem prefixOf {slot model : Nat} {q : Submit} (h : SetterWork g s t) : SetterWork g s (t.prefixOf g slot model q).2 := by
  unfold State.prefixOf
  split
  · exact h
  · exact bump (foldl (fun _ _ hu => hu.attachNode) _ h.lookup)

/-! ## Planning (R184, R196, R242, R245, R265) -/

theorem mapPage {slot tenant start pos layer page : Nat} {u : State} (h : SetterWork g s t)
    (he : t.mapPage g slot tenant start pos layer page = .ok u) : SetterWork g s u := by
  unfold State.mapPage at he
  split at he <;> cases he
  next htake => exact (h.takeFrame htake).putPte

theorem mapPages {slot tenant start pos : Nat} {l : List (Nat × Nat)} {u : State} (h : SetterWork g s t)
    (he : t.mapPages g slot tenant start pos l = .ok u) : SetterWork g s u := by
  induction l generalizing t with
  | nil => cases he; exact h
  | cons a l ih =>
    unfold State.mapPages at he
    split at he
    · cases he
    · next hone => exact ih (h.mapPage hone) he

theorem mapRows {slot tenant rows : Nat} {u : State} (h : SetterWork g s t) (he : t.mapRows g slot tenant rows = .ok u) :
    SetterWork g s u := by
  unfold State.mapRows at he
  dsimp only at he
  split at he <;> cases he
  next hpages => exact (h.mapPages hpages).putSeq

theorem mapCand {q : Req} {c : Cand} {u : State} (h : SetterWork g s t) (he : t.mapCand g q c = .ok u) : SetterWork g s u := by
  unfold State.mapCand at he
  split at he
  · cases he
  · next hrows =>
    split at he
    · cases he; exact h.mapRows hrows
    · exact (h.mapRows hrows).mapRows he

theorem startCompact {q : Req} (h : SetterWork g s t) : SetterWork g s (t.startCompact g q) := by
  unfold State.startCompact
  dsimp only
  split
  · exact h.onReq.bump.putSeq
  · next htake => exact (h.takeFrames htake).onReq

theorem failBadSeqs (h : SetterWork g s t) : SetterWork g s (t.failBadSeqs g) := foldl (fun _ _ hu => hu.failSlot) _ h

theorem newSlot {slot frame : Nat} {q : Req} {i : ImageInfo} (h : SetterWork g s t) :
    SetterWork g s (t.newSlot g slot q i frame) := (foldl (fun _ _ hu => hu.setFrame) _ h).putHbm.zeroHbm

theorem seat {q : Req} {slots frames : List Nat} (h : SetterWork g s t) : SetterWork g s (t.seat g q slots frames) := by
  unfold State.seat
  extract_lets draft
  clear_value draft
  split
  next key s1 hkey =>
  extract_lets q1 s2 s3
  have h1 : SetterWork g s (t.reqKey q.sub).2 := h.withFreeCtr
  rw [hkey] at h1
  have h3 : SetterWork g s s3 := h1.onSagger.newSlot
  split
  next chain s4 hprefix =>
  extract_lets s5 s6
  have h4 : SetterWork g s (s3.prefixOf g q1.slot q.sub.model q.sub).2 := h3.prefixOf
  rw [hprefix] at h4
  have h6 : SetterWork g s s6 := by
    unfold s6
    split
    · exact h4.onReq
    · exact onReq (prefixOf h4.onReq.newSlot)
  exact h6.onSagger.bump

theorem give {p : PlanRun} {c : Cand} (h : SetterWork g s p.s) : SetterWork g s (p.give g c).s := by
  unfold PlanRun.give
  split
  · exact h
  · dsimp only
    split
    · next hmap => exact (h.mapCand hmap).onReq
    · exact h.onReq
    · exact h.evictFor.onReq

theorem prefills {p : PlanRun} {i : ImageInfo} {alone : Bool} {qs : List Req} (h : SetterWork g s p.s) :
    SetterWork g s (p.prefills g i alone qs).s := by
  induction qs generalizing p with
  | nil => exact h
  | cons q qs ih =>
    unfold PlanRun.prefills
    split
    · exact h
    · dsimp only
      split
      · exact h
      · exact ih h.give

theorem admitOne {p : PlanRun} {i : ImageInfo} {alone : Bool} {q : Req} (h : SetterWork g s p.s) :
    SetterWork g s (p.admitOne g i alone q).s := by
  unfold PlanRun.admitOne
  extract_lets u models slots
  split
  · exact h
  · split
    · exact h.evictFor
    · extract_lets p1
      have h1 : SetterWork g s p1.s := h.seat
      split
      · exact h
      · extract_lets n
        split
        · exact h
        · split
          · exact h1.give
          · exact h
          · exact h.evictFor

theorem planRun (h : SetterWork g s t) : SetterWork g s (t.planRun g).s := by
  unfold State.planRun
  extract_lets s0 s1 i m base base' p alone p'
  have h1 : SetterWork g s s1 := foldl (fun _ _ hu => hu.startCompact) _ h.failBadSeqs.onSagger
  have hp : SetterWork g s p.s :=
    List.foldlRecOn (motive := fun p : PlanRun => SetterWork g s p.s) _ _ h1 fun _ hu _ _ => hu.give
  refine List.foldlRecOn (motive := fun p : PlanRun => SetterWork g s p.s) _ _ hp.prefills fun u hu q _ => ?_
  split
  · exact hu.admitOne
  · exact hu

end SetterWork

end Sys2Proof.Machine

namespace Sys2Proof.Machine

/-! # What the setter of a sagger changes at a fire point (O31) -/

namespace SetterWork

variable {g : Nat} {s t : State}

/-! ## Requests and their slots (R183, R202) -/

theorem freeSlot {slot : Nat} (h : SetterWork g s t) : SetterWork g s (t.freeSlot g slot) :=
  have hpages := releaseBlocks (foldl (fun _ _ hu => hu.dropFrame) _ h)
  (foldl (fun _ _ hu => hu.dropFrame) _ hpages).putHbm.onSagger

theorem endReq {q : Req} (h : SetterWork g s t) : SetterWork g s (t.endReq g q) :=
  have hslots := foldl (fun _ _ hu => hu.freeSlot) _ h
  (foldl (fun _ _ hu => hu.dropFrame) _ (foldl (fun _ _ hu => hu.dropFrame) _ hslots)).onSagger

theorem trimPage {slot layer page fired : Nat} (h : SetterWork g s t) : SetterWork g s (t.trimPage g slot layer page fired) :=
  ite h (ite h.dropFrame.putPte h.putPte)

theorem trimSlots {slot fired : Nat} (h : SetterWork g s t) : SetterWork g s (t.trimSlots g slot fired) :=
  foldl (fun _ _ hu => foldl (fun _ _ hv => hv.trimPage) _ hu) _ h

theorem fireSlot {slot fired pos step : Nat} (h : SetterWork g s t) : SetterWork g s (t.fireSlot g slot fired pos step) :=
  h.trimSlots.putSeq.putSeq.putSeq

theorem applySeq {k : Commit} {c : CommitSeq} (h : SetterWork g s t) : SetterWork g s (t.applySeq g k c) := by
  unfold State.applySeq
  split
  · exact h
  · refine onReq ?_
    split
    · exact h.fireSlot
    · split
      · exact h.fireSlot
      · exact h.fireSlot.fireSlot

/-! ## Publishing blocks (R201, R203) -/

theorem nodeRoom {k : Nat} {keep : List Nat} {fuel : Nat} (h : SetterWork g s t) : SetterWork g s (t.nodeRoom g k keep fuel).2 := by
  induction fuel generalizing t with
  | zero => exact h
  | succ fuel ih =>
    unfold State.nodeRoom
    split
    · exact h
    · split
      · exact h
      · exact ih h.evictNode

theorem buildNode {n list scope model parent digest depth refs : Nat} {tokens : List Nat} {entries : List Pte}
    (h : SetterWork g s t) : SetterWork g s (t.buildNode g n list scope model parent digest depth refs tokens entries) :=
  have hbytes := h.putHbm.putHbm.putHbm
  (ite hbytes hbytes.putNode).putHbmNum.onSagger

theorem publishOwn {slot tenant n list scope model parent digest j : Nat} {tokens : List Nat} (h : SetterWork g s t) :
    SetterWork g s (t.publishOwn g slot tenant n list scope model parent digest j tokens) :=
  (foldl (fun _ _ hu => hu.putPte.setFrame) _ h.buildNode).putSeq.putSeq

theorem copySlotTo {slot layer n frame p : Nat} (h : SetterWork g s t) : SetterWork g s (t.copySlotTo g slot layer n frame p) :=
  foldl (fun _ _ hu => foldl (fun _ _ hv => hv.putHbm) _ hu) _ h

theorem publishCopy {slot tenant n list scope model parent digest j : Nat} {tokens frames : List Nat} (h : SetterWork g s t) :
    SetterWork g s (t.publishCopy g slot tenant n list scope model parent digest j tokens frames) :=
  have hcopied := foldl (fun _ _ hu => foldl (fun _ _ hv => hv.copySlotTo) _ hu) _ h
  buildNode (foldl (fun _ _ hu => hu.setFrame) _ hcopied)

theorem publishBlock {slot tenant scope model j : Nat} {tokens chain : List Nat} (h : SetterWork g s t) :
    SetterWork g s (t.publishBlock g slot tenant scope model tokens chain j).2 := by
  unfold State.publishBlock
  extract_lets i parent toks d
  split
  · exact h
  · have hroom : SetterWork g s (t.nodeRoom g (i.listBytes / 1024) chain (t.placeCount g 7)).2 := h.nodeRoom
    split
    · next heq => exact (heq ▸ hroom).bump
    · next heq =>
      rw [heq] at hroom
      split
      · exact hroom.publishOwn.bump
      · split
        · exact hroom.bump
        · exact hroom.evictFor.bump
        · next htake => exact (hroom.takeFrames htake).publishCopy.bump

theorem publishFrom {slot tenant scope model : Nat} {tokens : List Nat} {fuel : Nat} {chain : List Nat} (h : SetterWork g s t) :
    SetterWork g s (t.publishFrom g slot tenant scope model tokens fuel chain).2 := by
  induction fuel generalizing t chain with
  | zero => exact h
  | succ fuel ih =>
    have hblock := h.publishBlock (slot := slot) (tenant := tenant) (scope := scope) (model := model) (j := chain.length)
      (tokens := tokens) (chain := chain)
    unfold State.publishFrom
    split
    · exact h
    · split
      · next heq =>
        rw [heq] at hblock
        exact hblock
      · next heq =>
        rw [heq] at hblock
        exact ih hblock

theorem publishSlot {slot model : Nat} {q : Req} {chain : List Nat} (h : SetterWork g s t) :
    SetterWork g s (t.publishSlot g slot model q chain).2 := by
  unfold State.publishSlot
  split
  · exact h
  · exact h.publishFrom

theorem publishReq {c : CommitSeq} (h : SetterWork g s t) : SetterWork g s (t.publishReq g c) := by
  unfold State.publishReq
  split
  · exact h
  · dsimp only
    refine onReq ?_
    split
    · exact h.publishSlot.publishSlot
    · exact h.publishSlot

/-! ## Compactions, budgets and the ends of requests (R196, R197, R240, R243, R248) -/

theorem dropCompact {q : Req} (h : SetterWork g s t) : SetterWork g s (t.dropCompact g q) :=
  onReq (foldl (fun _ _ hu => hu.dropFrame) _ h)

theorem commitCompact {q : Req} (h : SetterWork g s t) : SetterWork g s (t.commitCompact g q) := by
  unfold State.commitCompact
  extract_lets i f att old kept s1 s2 s3 s4 fired s5
  have h1 : SetterWork g s s1 := foldl (fun _ _ hu => hu.dropFrame) _ h
  have h2 : SetterWork g s s2 := foldl (fun _ _ hu => foldl (fun _ _ hv => ite hv.putPte hv) _ hu) _ h1
  have h4 : SetterWork g s s4 := foldl (fun _ _ hu => hu.putHbmNum) _ (foldl (fun _ _ hu => hu.putPte) _ h2)
  have h5 : SetterWork g s s5 := h4.releaseBlocks.putSeq.putSeq
  exact h5.bump.bump.onReq

theorem applyCompacts (h : SetterWork g s t) : SetterWork g s (t.applyCompacts g) :=
  foldl (fun _ _ hu => ite hu.commitCompact hu.dropCompact) _ h

theorem applyBudgets (h : SetterWork g s t) : SetterWork g s (t.applyBudgets g) := h.onSagger

theorem fireEnds {vs : List Verdict} (h : SetterWork g s t) : SetterWork g s (t.fireEnds g vs).2 :=
  foldl (fun _ _ hu => hu.endReq) _ h

theorem shortVictims (h : SetterWork g s t) : SetterWork g s (t.shortVictims g).2 := by
  unfold State.shortVictims
  extract_lets p heldReqs s0 byFrames need avail s1 last order v1 v2
  split
  · exact h
  · have h0 : SetterWork g s s0 := foldl (fun _ _ hu => hu.onReq) _ h
    have h1 : SetterWork g s s1 := ite h0 h0.evictFor
    dsimp only
    exact h1

theorem ageCuts (h : SetterWork g s t) : SetterWork g s (t.ageCuts g) := by
  refine foldl (fun u x hu => ?_) _ h
  dsimp only
  split
  · exact hu.onSagger
  · exact hu.onSagger
  · exact hu.bump.onSagger
  · exact hu

theorem recordStep {tokens : Nat} {es : List Ragged} {preempt : Bool} (h : SetterWork g s t) :
    SetterWork g s (t.recordStep g tokens es preempt) := h.putHbm.bump

end SetterWork

end Sys2Proof.Machine

namespace Sys2Proof.Machine

/-! # What a fire point changes (O31)

Beyond the tables of its sagger a fire point sends messages, starts streams and forgets the cancellations of its units.
`FireWork` is `SetterWork` with those parts of the state. -/

theorem State.onLat_only (s : State) (f : Lattice → Lattice) : Only [.lat] s (s.onLat f) := by
  intro p hp
  cases p
  case lat => simp at hp
  all_goals rfl

theorem State.onGlaze_only (s : State) (d : Nat) (f : Glaze → Glaze) : Only [.glazes] s (s.onGlaze d f) := by
  intro p hp
  cases p
  case glazes => simp at hp
  all_goals rfl

theorem State.onChan_only (s : State) (c : Nat) (f : Chan → Chan) : Only [.chans] s (s.onChan c f) := by
  intro p hp
  cases p
  case chans => simp at hp
  all_goals rfl

theorem State.onSession_only_mgmt (s : State) (k : Nat) (f : Session → Session) : Only [.mgmt] s (s.onSession k f) := by
  intro p hp
  cases p
  case mgmt => simp at hp
  all_goals rfl

namespace WheelFrame

variable {ps : List Field} {ws gs : List Nat} {s t : State}

theorem onLat {f : Lattice → Lattice} (h : WheelFrame ps ws gs s t) (hp : .lat ∈ ps := by decide) :
    WheelFrame ps ws gs s (t.onLat f) := h.trans ⟨(t.onLat_only f).widen hp, fun _ _ => rfl, fun _ _ => rfl⟩

theorem onGlaze {d : Nat} {f : Glaze → Glaze} (h : WheelFrame ps ws gs s t) (hp : .glazes ∈ ps := by decide) :
    WheelFrame ps ws gs s (t.onGlaze d f) := h.trans ⟨(t.onGlaze_only d f).widen hp, fun _ _ => rfl, fun _ _ => rfl⟩

theorem onChan {c : Nat} {f : Chan → Chan} (h : WheelFrame ps ws gs s t) (hp : .chans ∈ ps := by decide) :
    WheelFrame ps ws gs s (t.onChan c f) := h.trans ⟨(t.onChan_only c f).widen hp, fun _ _ => rfl, fun _ _ => rfl⟩

theorem onSession {k : Nat} {f : Session → Session} (h : WheelFrame ps ws gs s t) (hp : .mgmt ∈ ps := by decide) :
    WheelFrame ps ws gs s (t.onSession k f) :=
  h.trans ⟨(t.onSession_only_mgmt k f).widen hp, fun _ _ => rfl, fun _ _ => rfl⟩

theorem countDone {g reason : Nat} (h : WheelFrame ps ws gs s t) (hp : .regs ∈ ps := by decide) :
    WheelFrame ps ws gs s (t.countDone g reason) := by
  unfold State.countDone
  split
  · exact (h.bump hp).bump hp
  · exact (h.bump hp).bump hp
  · exact (h.bump hp).bump hp
  · exact (h.bump hp).bump hp
  · exact (h.bump hp).bump hp
  · exact h.bump hp

theorem sendDone {g c : Nat} {tag : BitVec 32} {d : DoneInfo} (h : WheelFrame ps ws gs s t)
    (hp : ∀ p ∈ [Field.chans, .regs], p ∈ ps := by decide) : WheelFrame ps ws gs s (t.sendDone g c tag d) :=
  (h.onChan (hp _ (by simp))).countDone (hp _ (by simp))

end WheelFrame

theorem State.countDone_frame (s : State) (g reason : Nat) : WheelFrame [.regs] [] [] s (s.countDone g reason) :=
  WheelFrame.refl.countDone

/-- What a fire point may change. -/
abbrev fireParts : List Field :=
  [.mem, .regs, .freeCtr, .saggers, .wheels, .ldus, .ssus, .hbmStacks, .glazes, .lat, .lute, .chans, .mgmt, .flog]

/-- From `s` to `t` the setter of sagger `g` has done work that belongs to a fire point, apart from ending the step itself. -/
structure FireWork (g : Nat) (s t : State) : Prop where
  frame : WheelFrame fireParts (List.range 144) [g] s t
  fixed : (t.sagger g).fixed = (s.sagger g).fixed

theorem SetterWork.fire {g : Nat} {s t : State} (h : SetterWork g s t) : FireWork g s t where
  frame := ⟨(h.frame.mono (ps' := fireParts) (by decide) (List.Subset.refl _)).only, fun w _ => h.frame.wheel_eq w, h.frame.saggers⟩
  fixed := h.fixed

namespace FireWork

variable {g : Nat} {s t : State}

theorem refl : FireWork g s s := SetterWork.refl.fire

theorem work {u : State} (h : FireWork g s t) (h' : SetterWork g t u) : FireWork g s u :=
  ⟨h.frame.trans h'.fire.frame, h'.fixed.trans h.fixed⟩

theorem ite {c : Prop} [Decidable c] {u : State} (ht : FireWork g s t) (hu : FireWork g s u) :
    FireWork g s (if c then t else u) := by
  split
  · exact ht
  · exact hu

theorem foldl {α : Type} {f : State → α → State} (hf : ∀ u x, FireWork g s u → FireWork g s (f u x)) (xs : List α)
    (h : FireWork g s t) : FireWork g s (xs.foldl f t) := List.foldlRecOn xs f h fun u hu x _ => hf u x hu

theorem onLat {f : Lattice → Lattice} (h : FireWork g s t) : FireWork g s (t.onLat f) := ⟨h.frame.onLat, h.fixed⟩
theorem onGlaze {d : Nat} {f : Glaze → Glaze} (h : FireWork g s t) : FireWork g s (t.onGlaze d f) := ⟨h.frame.onGlaze, h.fixed⟩
theorem onLdu {l : Nat} {f : Ldu → Ldu} (h : FireWork g s t) : FireWork g s (t.onLdu l f) := ⟨h.frame.onLdu, h.fixed⟩
theorem onReq {q : Req} {f : Req → Req} (h : FireWork g s t) : FireWork g s (t.onReq g q f) := h.work (.onReq .refl)
theorem bump {r : Reg} {u n : Nat} (h : FireWork g s t) : FireWork g s (t.bump r u n) := ⟨h.frame.bump, h.fixed⟩

/-! ## Messages (R236, R237) -/

theorem sendMsg {c type : Nat} {tag : BitVec 32} {payload : List Byte} (h : FireWork g s t) :
    FireWork g s (t.sendMsg c type tag payload) := ⟨h.frame.onChan, h.fixed⟩

theorem sendDone {c : Nat} {tag : BitVec 32} {d : DoneInfo} (h : FireWork g s t) : FireWork g s (t.sendDone g c tag d) := by
  refine ⟨h.frame.sendDone, ?_⟩
  rw [State.sendDone, (State.countDone_frame ..).saggers g List.not_mem_nil]
  exact h.fixed

theorem doneReq {q : Req} {tag : BitVec 32} {reason : Nat} {fault : BitVec 16} (h : FireWork g s t) :
    FireWork g s (t.doneReq g q tag reason fault) := ite h h.sendDone

theorem sendVerdict {k : Commit} {evicted : List Req} {v : Verdict} (h : FireWork g s t) :
    FireWork g s (t.sendVerdict g k evicted v) := by
  unfold State.sendVerdict
  extract_lets out s1 q
  have h1 : FireWork g s s1 := ite h h.sendMsg
  split
  · exact h1.doneReq
  · exact ite h1.doneReq h1

theorem mgmtAnswer {sess cmd status : Nat} {tag : BitVec 32} {payload : List Byte} (h : FireWork g s t) :
    FireWork g s (t.mgmtAnswer sess cmd tag status payload) :=
  ite ⟨h.frame.bump.onSession, h.fixed⟩ h.bump

/-! ## Streams of pages (R267, R371, R424) -/

theorem startOut {o : OutStream} (h : FireWork g s t) : FireWork g s (t.startOut o) := h.onLat.onGlaze
theorem pageOut {q : Req} {key page frame : Nat} (h : FireWork g s t) : FireWork g s (t.pageOut g q key page frame) :=
  startOut h.onLat

theorem moveOut {m : Migration} {q : Req} {key page frame : Nat} (h : FireWork g s t) :
    FireWork g s (t.moveOut m q key page frame) := by
  unfold State.moveOut
  exact onLat (startOut h.onLat)

theorem dropMove {m : Migration} {status : Nat} (hm : m.sagger = g) (h : FireWork g s t) : FireWork g s (t.dropMove m status) := by
  subst hm
  exact mgmtAnswer (h.onLat.work (.onSagger .refl))

theorem startMoves (h : FireWork g s t) : FireWork g s (t.startMoves g) := by
  refine List.foldlRecOn _ _ h fun u hu m hmem => ?_
  have hm : m.sagger = g := by
    have hsel := (List.mem_filter.1 hmem).2
    simp only [Bool.and_eq_true, beq_iff_eq] at hsel
    exact hsel.1
  split
  · exact hu.dropMove hm
  · exact ite hu (ite (hu.dropMove hm) (foldl (fun _ _ hv => hv.moveOut) _ hu))

/-! ## Victims (R264 to R269) -/

theorem swapOut {q : Req} (h : FireWork g s t) : FireWork g s (t.swapOut g q).2 := by
  unfold State.swapOut
  extract_lets pages us units s1 s2
  split
  · exact h
  · have h1 : FireWork g s s1 := (h.work (.onSagger .refl)).onReq
    have h2 : FireWork g s s2 := foldl (fun _ _ hu => hu.pageOut) _ h1
    exact ite (foldl (fun _ _ hu => hu.work (.putSeq .refl)) _ h2) h2

theorem preempt {q : Req} (h : FireWork g s t) : FireWork g s (t.preempt g q).2 := ite h.bump.swapOut h.bump.swapOut.onReq

theorem preemptAll (qs : List Req) (h : FireWork g s t) : FireWork g s (qs.foldl (preemptInto g) ([], t)).2 :=
  List.foldlRecOn (motive := fun acc : List Req × State => FireWork g s acc.2) qs _ h fun _ hu _ _ => hu.preempt

theorem fireVictims (h : FireWork g s t) : FireWork g s (t.fireVictims g).2.2 := by
  unfold State.fireVictims
  extract_lets cut a short e
  have ha : FireWork g s a.2 := h.preemptAll cut
  have hshort : FireWork g s short.2 := ha.work (.shortVictims .refl)
  dsimp only
  exact hshort.preemptAll short.1

end FireWork

/-! # The end of a step (R270, R271) -/

/-- The sagger once its step is over. -/
def Sagger.closed (x : Sagger) : Sagger :=
  { x with
    commit := none, phase := .none, cleared := false, ragged := [], rowsN := 0, walk := {}
    live := x.live.map fun q => { q with rows := 0, tree := [], samples := [], path := none, copies := [] } }

/-- Once the step is closed, sequences are held out for compaction and the units forget their cancellations. -/
theorem State.fireClose_work (s : State) (g : Nat) : FireWork g (s.onSagger g Sagger.closed) (s.fireClose g) := by
  unfold State.fireClose
  extract_lets s1 due s2 s3
  have h2 : FireWork g s1 s2 := .foldl (fun _ _ hu => (hu.work (.putSeq .refl)).onReq) _ .refl
  have h3 : FireWork g s1 s3 := List.foldlRecOn _ _ h2 fun u hu w hw => .ite ⟨hu.frame.onWheel (hw := hw), hu.fixed⟩ hu
  exact .foldl (fun _ _ hu => .ite hu.onLdu hu) _ h3

theorem State.handOff_frame (s : State) (g : Nat) (k : Commit) : WheelFrame fireParts (List.range 144) [g] s (s.handOff g k) :=
  WheelFrame.foldl (fun _ _ hu => hu.onSsu) _ WheelFrame.refl.onSagger

theorem State.learnStep_frame (s : State) (g tokens late : Nat) :
    WheelFrame fireParts (List.range 144) [g] s (s.learnStep g tokens late) :=
  WheelFrame.refl.bump.bump.bump.bump.bump.onSagger

/-- A fire point hands the stage records over, works on the tables, counts the step, closes it, and does the rest. -/
theorem State.finishFire_work (s : State) (g : Nat) (k : Commit) : ∃ u tokens late, SetterWork g (s.handOff g k) u ∧
    FireWork g ((u.learnStep g tokens late).onSagger g Sagger.closed) (s.finishFire g k) := by
  unfold State.finishFire
  extract_lets s1 vs tokens late es
  have h1 : SetterWork g (s.handOff g k) s1 :=
    (SetterWork.foldl (fun _ _ hu => hu.publishReq) _ (.foldl (fun _ _ hu => hu.applySeq) _ .refl)).applyCompacts.applyBudgets
  split
  next failed s2 hends =>
  extract_lets lateQ s3
  have h2 : SetterWork g (s.handOff g k) (s1.fireEnds g vs).2 := h1.fireEnds
  rw [hends] at h2
  refine ⟨s3, tokens, late, h2.onSagger, ?_⟩
  have h4 := ((s3.learnStep g tokens late).fireClose_work g).fireVictims
  split
  next n evicted s4 hvictims =>
  rw [hvictims] at h4
  extract_lets s6 s7 s8 s9
  have h6 : FireWork g _ s6 := h4.work (.recordStep (.ageCuts .refl))
  have h7 : FireWork g _ s7 := .foldl (fun _ _ hu => hu.sendVerdict) _ h6
  have h8 : FireWork g _ s8 := .foldl (fun _ _ hu => hu.doneReq) _ h7
  have h9 : FireWork g _ s9 := .foldl (fun _ _ hu => hu.doneReq) _ h8
  exact .startMoves (.foldl (fun _ _ hu => hu.sendDone) _ h9)

theorem State.finishFire_frame (s : State) (g : Nat) (k : Commit) :
    WheelFrame fireParts (List.range 144) [g] s (s.finishFire g k) := by
  obtain ⟨u, tokens, late, hwork, hfire⟩ := s.finishFire_work g k
  exact (((s.handOff_frame g k).trans hwork.fire.frame).trans (u.learnStep_frame g tokens late)).onSagger.trans hfire.frame

/-- The fixed part of a sagger after its fire point: the number of the step is the last fired, its stage records are handed
over, and the step is closed. -/
theorem State.finishFire_fixed (s : State) (g : Nat) (k : Commit) : ∃ x : Sagger, x.stepNum = (s.sagger g).stepNum ∧
    x.stageEnd = (s.sagger g).stageProd ∧ x.fired = x.stepNum ∧
    ((s.finishFire g k).sagger g).fixed = x.closed.fixed := by
  obtain ⟨u, tokens, late, hwork, hfire⟩ := s.finishFire_work g k
  have hstep : (u.sagger g).stepNum = ((s.handOff g k).sagger g).stepNum :=
    (congrArg Sagger.stepNum hwork.fixed :)
  have hend : (u.sagger g).stageEnd = ((s.handOff g k).sagger g).stageEnd :=
    (congrArg Sagger.stageEnd hwork.fixed :)
  refine ⟨(u.learnStep g tokens late).sagger g, ?_, ?_, ?_, by rw [hfire.fixed, State.onSagger_sagger, if_pos rfl]⟩
  · simp [State.learnStep, hstep, State.handOff]
  · simp [State.learnStep, hend, State.handOff]
  · simp [State.learnStep]

end Sys2Proof.Machine

namespace Sys2Proof.Machine

/-! # Steps begin and fire (O31) -/

theorem execStepPlan_of_taken {g : SaggerIx} {s : State} {p : PlanRun} (hp : p = s.planRun g.val)
    (hst : (s.sagger g.val).st = .serving) (hphase : (s.sagger g.val).phase = .none) (hcleared : (s.sagger g.val).cleared = true)
    (hcommit : (s.sagger g.val).commit = none) (hscores : s.scoresDone g.val = true) (htaken : p.taken ≠ []) :
    exec (.stepPlan g) s = .next ((s.beginStep g.val p).touch g.val) := by
  show execStepPlan g s = _
  simp [execStepPlan, ← hp, hst, hphase, hcleared, hcommit, hscores, htaken]

/-- Progress is no part of a sagger's step. -/
theorem State.touch_reads {α : Type} (π : Sagger → α) (s : State) (g k : Nat)
    (hπ : ∀ x n armed, π { x with progress := n, dlArmed := armed } = π x := by exact fun _ _ _ => rfl) :
    π ((s.touch g).sagger k) = π (s.sagger k) := by
  obtain ⟨n, armed, h⟩ := s.touch_sagger g k
  rw [h, hπ]

/-- A step that begins keeps what its plan has done, and writes the ragged tables and its own marks. -/
theorem State.beginStep_frame {s : State} {g : Nat} {p : PlanRun} (h : SetterWork g s p.s) :
    WheelFrame [.mem, .regs, .freeCtr, .saggers, .hbmStacks, .flog, .lute] [] [g] s (s.beginStep g p) :=
  h.putSlab.putSlab.frame.onSagger

section
variable (s : State) (g : Nat) (p : PlanRun)

theorem State.beginStep_phase : ((s.beginStep g p).sagger g).phase = .running := by simp [State.beginStep]

theorem State.beginStep_stepNum : ((s.beginStep g p).sagger g).stepNum = (p.s.sagger g).stepNum + 1 := by simp [State.beginStep]

theorem State.beginStep_rowsN : ((s.beginStep g p).sagger g).rowsN = rowSum p.taken := by simp [State.beginStep]

/-- No request of a step that begins has a sample or a path. -/
theorem State.beginStep_live : ∀ r ∈ ((s.beginStep g p).sagger g).live, r.samples = [] ∧ r.path = none := by
  intro r hr
  simp only [State.beginStep, State.onSagger_sagger, if_true, List.mem_map] at hr
  obtain ⟨q, -, rfl⟩ := hr
  exact ⟨rfl, rfl⟩

end

/-- What a closed step leaves of a sagger. -/
theorem Sagger.closed_of_fixed {x y : Sagger} (h : y.fixed = x.closed.fixed) : y.phase = .none ∧ y.commit = none ∧
    y.cleared = false ∧ y.ragged = [] ∧ y.rowsN = 0 ∧ y.fired = x.fired ∧ y.stageEnd = x.stageEnd :=
  ⟨(congrArg Sagger.phase h :), (congrArg Sagger.commit h :), (congrArg Sagger.cleared h :), (congrArg Sagger.ragged h :),
    (congrArg Sagger.rowsN h :), (congrArg Sagger.fired h :), (congrArg Sagger.stageEnd h :)⟩

/-- Settles O31: planning and the fire point work through the tables of their own sagger; the step begins in one update of it,
and ends in one. -/
theorem stepsBeginAndFire : Obligations.StepsBeginAndFire := by
  refine ⟨fun g s p hp hst hphase hcleared hcommit hscores htaken => ?plan, fun g s => ⟨fun hopen => ?wait, fun hready => ?fire⟩⟩
  case plan =>
    have hplan : SetterWork g.val s p.s := hp ▸ .planRun .refl
    have hframe := (State.beginStep_frame hplan).touch (g := g.val)
    refine ⟨_, execStepPlan_of_taken hp hst hphase hcleared hcommit hscores htaken, ?_, ?_, ?_, ?_, hframe.only, hframe.saggers⟩
    · rw [State.touch_reads Sagger.phase, State.beginStep_phase]
    · rw [State.touch_reads Sagger.stepNum, State.beginStep_stepNum]
    · rw [State.touch_reads Sagger.rowsN, State.beginStep_rowsN]
    · rw [State.touch_reads Sagger.live]
      exact s.beginStep_live g.val p
  case wait => exact State.when_false _ _ hopen
  case fire =>
    have hframe := (s.finishFire_frame g.val (s.commitOf g.val)).touch (g := g.val)
    obtain ⟨x, hstep, hend, hfired, hfixed⟩ := s.finishFire_fixed g.val (s.commitOf g.val)
    obtain ⟨hphase, hcommit, hcleared, hragged, hrows, hf, he⟩ :=
      Sagger.closed_of_fixed ((State.touch_reads Sagger.fixed (s.finishFire g.val (s.commitOf g.val)) g.val g.val).trans hfixed)
    exact ⟨_, State.when_true _ _ hready, hphase, hcommit, hcleared, hragged, hrows, hf.trans (hfired.trans hstep), he.trans hend,
      hframe.only, hframe.saggers⟩

end Sys2Proof.Machine

namespace Sys2Proof.Machine

/-! # A submit whose REQ_ID is reserved (O28)

In the statement `dup = a || b` reads as `(dup = a) || b`: once a migration has reserved the REQ_ID (R424), `dup` may as well be
false.  The check of a failing payload would then come before the check for a duplicate, against the order of R498. -/

theorem State.takeMsg_of_head {s : State} {c type g : Nat} {m : Msg} (hhead : s.headMsg c type = some m)
    (hchan : s.saggerOfChan c = some g) (hst : (s.sagger g).st ≠ .resetting) (effect : State → Nat → Msg → State) :
    s.takeMsg c type effect = .next (effect (s.popMsg c type) g m) := by
  simp [State.takeMsg, hhead, hchan, hst]

theorem State.popMsg_tx (s : State) (c type : Nat) : ((s.popMsg c type).chan c).tx = (s.chan c).tx := by simp [State.popMsg]

theorem WheelFrame.chan_eq {ps : List Field} {ws gs : List Nat} {s t : State} (h : WheelFrame ps ws gs s t) (k : Nat)
    (hp : .chans ∉ ps := by decide) : t.chan k = s.chan k := congrArg (fun l : Tab Chan => tget ({} : Chan) l k) (h.only .chans hp)

/-- A DONE is queued for the host on its channel (R237). -/
theorem State.sendDone_tx (s : State) (g c : Nat) (tag : BitVec 32) (d : DoneInfo) :
    ((s.sendDone g c tag d).chan c).tx = (s.chan c).tx ++ [⟨0x12, tag, d.bytes s.now, 3⟩] := by
  rw [State.sendDone, (State.countDone_frame ..).chan_eq]
  simp [State.sendMsg, State.sendUnder]

/-- The REQ_ID of a submit or a cancel. -/
def Msg.reqId (m : Msg) : BitVec 32 := BitVec.ofNat 32 (leNat (m.payload.take 4))

/-- A submit whose REQ_ID is reserved is a duplicate, whatever its payload holds. -/
theorem State.takeSubmit_of_reserved {s : State} {g c : Nat} {m : Msg} (haway : s.turnsAway g = false)
    (h : (s.sagger g).reserved.contains (c, m.reqId) = true) : s.takeSubmit g c m = s.refuseSubmit g c m 6 0 := by
  simp only [State.takeSubmit, haway, Bool.false_eq_true, if_false]
  exact if_pos (.inr h)

theorem exec_submit_of_reserved {ch : ChanIx} {s : State} {m : Msg} {g : Nat} (hhead : s.headMsg ch.val 1 = some m)
    (hchan : s.saggerOfChan ch.val = some g) (haway : s.turnsAway g = false) (hst : (s.sagger g).st ≠ .resetting)
    (h : (s.sagger g).reserved.contains (ch.val, m.reqId) = true) :
    exec (.submit ch) s = .next ((s.popMsg ch.val 1).refuseSubmit g ch.val m 6 0) :=
  calc exec (.submit ch) s
    _ = .next ((s.popMsg ch.val 1).takeSubmit g ch.val m) :=
      State.takeMsg_of_head hhead hchan hst fun s g m => s.takeSubmit g ch.val m
    _ = _ := by rw [State.takeSubmit_of_reserved (s := s.popMsg ch.val 1) haway h]

/-- An empty SUBMIT: it fails the check of its length. -/
def emptySubmit : Msg := { type := 1, tag := 5, payload := [] }

/-- Sagger 0 serves, REQ_ID 0 of channel 0 is reserved, and the empty submit has arrived there. -/
def reservesEmptySubmit : State :=
  { State.reset with
    plan := some { channels := [⟨0, 0, 0, 1⟩] }, boot := { readyWas := true }
    saggers := [(0, { st := .serving, reserved := [(0, 0)] })], chans := [(0, { rx := [emptySubmit] })] }

/-- Refutes O28: a failing submit whose REQ_ID a migration has reserved gets reason 6, not 5. -/
theorem not_submitsHaveOneOutcome : ¬ Obligations.SubmitsHaveOneOutcome := by
  unfold Obligations.SubmitsHaveOneOutcome
  intro h
  have haway : reservesEmptySubmit.turnsAway 0 = false := by decide
  have hst : (reservesEmptySubmit.sagger 0).st ≠ .resetting := by decide
  have hbad : reservesEmptySubmit.submitBad 0 emptySubmit.payload = some 0x90 := by decide +kernel
  obtain ⟨t, hexec, -, -, -, -, -, -, hfails, -⟩ := h 0 reservesEmptySubmit emptySubmit 0 0 false (by decide) (by decide) hst
    (by decide) (by decide)
  rw [exec_submit_of_reserved (m := emptySubmit) (by decide) (by decide) haway hst (by decide)] at hexec
  cases hexec
  obtain ⟨htx, -⟩ := hfails 0x90 haway rfl hbad
  rw [State.refuseSubmit, State.sendDone_tx, State.popMsg_tx] at htx
  exact absurd htx (by decide +kernel)

end Sys2Proof.Machine

namespace Sys2Proof.Machine

/-! # A cancelled request whose node has no reference left (O29)

With no step under way and no other request, a cancelled request is freed at once.  A node that it is attached to with REFS 0
raises 0x7A (R202), which the frame of the statement leaves no room for. -/

theorem exec_cancel_of_head {ch : ChanIx} {s : State} {m : Msg} {g : Nat} (hhead : s.headMsg ch.val 2 = some m)
    (hchan : s.saggerOfChan ch.val = some g) (hst : (s.sagger g).st ≠ .resetting) :
    exec (.cancel ch) s = .next ((s.popMsg ch.val 2).takeCancel g ch.val m) :=
  State.takeMsg_of_head hhead hchan hst fun s g m => s.takeCancel g ch.val m

/-- CANCEL of REQ_ID 0. -/
def cancelZero : Msg := { type := 2, tag := 5, payload := [0, 0, 0, 0] }

/-- The live request of REQ_ID 0, in slot 0. -/
def unreferencing : Req := { chan := 0, tag := 9, sub := {}, st := .decode }

/-- Sagger 0 serves that request between two steps.  The record of its slot names node 1 as its only attached block, and REFS of
the node is 0. -/
def cancelsUnreferencing : State :=
  { State.reset with
    plan := some { channels := [⟨0, 0, 0, 1⟩] }, boot := { readyWas := true }, mem := { hbm := [(28, 1), (32, 1)] }
    saggers := [(0, { st := .serving, live := [unreferencing] })], chans := [(0, { rx := [cancelZero] })] }

/-- The cancel frees the request, and one record is detected. -/
theorem cancelsUnreferencing_detects :
    ((cancelsUnreferencing.popMsg 0 2).takeCancel 0 0 cancelZero).flog.detected.map (·.code) = [0x367A#16] := by decide +kernel

/-- Refutes O29: a live request that is cancelled may free a node whose REFS is 0, and the fault log changes. -/
theorem not_cancelsAndBudgetsAreAnswered : ¬ Obligations.CancelsAndBudgetsAreAnswered := by
  unfold Obligations.CancelsAndBudgetsAreAnswered
  rintro ⟨hcancel, -⟩
  obtain ⟨-, hlive, -⟩ := hcancel 0 cancelsUnreferencing cancelZero 0 0 (by decide) (by decide) (by decide) (by decide) (by decide)
    (by decide)
  obtain ⟨t, hexec, -, -, honly, -⟩ := hlive unreferencing (by decide) (by decide)
  rw [exec_cancel_of_head (m := cancelZero) (g := 0) (by decide) (by decide) (by decide)] at hexec
  cases hexec
  have hlog : ((cancelsUnreferencing.popMsg 0 2).takeCancel 0 0 cancelZero).flog = {} := honly .flog (by decide)
  have hdetects := cancelsUnreferencing_detects
  rw [hlog] at hdetects
  exact absurd hdetects (by decide)

end Sys2Proof.Machine

namespace Sys2Proof.Machine

/-! # Drafting, sampling and verifying (O30) -/

theorem State.onSlot_live (s : State) (g slot : Nat) (f : Req → Req) : ((s.onSlot g slot f).sagger g).live =
    (s.sagger g).live.map fun q => if q.slot = slot ∨ q.draftSlot = some slot then f q else q := by simp [State.onSlot]

/-- A change of the request of a slot, as a command leaves it. -/
theorem State.onSlot_touch_live (s : State) (g slot : Nat) (f : Req → Req) : (((s.onSlot g slot f).touch g).sagger g).live =
    (s.sagger g).live.map fun q => if q.slot = slot ∨ q.draftSlot = some slot then f q else q := by
  rw [State.touch_reads Sagger.live, State.onSlot_live]

theorem State.touch_reg (s : State) (g : Nat) (r : Reg) (u : Nat) : (s.touch g).reg r u = s.reg r u := rfl

/-! ## DRAFT_PASS (R259) -/

theorem exec_draftPass_of_sound {g : SaggerIx} {slot : BitVec 16} {blocks : List (List (BitVec 32))} {s : State} {q : Req}
    {i : ImageInfo} (hq : s.running g.val slot.toNat = some q) (hi : i = s.imageOfSlot g.val slot.toNat) (hst : q.st = .decode)
    (hdraft : q.draftSlot.isSome = true) (hroom : q.tree.length < q.rows) (hlen : blocks.length = (lastLevel q.tree).length)
    (hsound : ∀ b ∈ blocks, s.logitsBad b = none)
    (htree : treeBad (s.growTree q i.vocab q.rows blocks) (s.nextPos g.val slot.toNat) i.maxPos = false) :
    exec (.draftPass g slot blocks) s =
      .next ((s.onSlot g.val slot.toNat fun r => { r with tree := s.growTree q i.vocab q.rows blocks }).touch g.val) := by
  have hbad : blocks.findSome? s.logitsBad = none := List.findSome?_eq_none_iff.2 hsound
  subst hi
  show execDraftPass g slot blocks s = _
  have hnone : q.draftSlot.isNone = false := by rw [← Option.not_isSome, hdraft]; rfl
  simp [execDraftPass, hq, hst, hnone, Nat.not_le.2 hroom, hlen, hbad, htree]

/-! ## SAMPLE_ROW (R254, R255, R257) -/

/-- At temperature 0 the token is the first of the adjusted logits. -/
theorem Submit.sample_token_of_greedy {q : Submit} (h : q.temp = 0) (window : List Nat) (zs : List Dyad) (u : Nat) :
    (q.sample window zs u).token = ((rankFirst (q.adjust window zs)).map (·.1)).getD 0 := by simp [Submit.sample, h]

theorem State.countSample_frame {ps : List Field} {ws gs : List Nat} {s t : State} {d vocab : Nat} {greedy : Bool} {r : Sampled}
    (h : WheelFrame ps ws gs s t) (hp : .regs ∈ ps := by decide) : WheelFrame ps ws gs s (t.countSample d vocab greedy r) :=
  (((h.bump hp).bump hp).bump hp).bump hp

theorem State.countSample_regs (s : State) (d vocab : Nat) (greedy : Bool) (r : Sampled) :
    RegsOnly [(.smpRows, d), (.smpBeats, d), (.smpGreedy, d), (.smpTrunc, d)] s (s.countSample d vocab greedy r) :=
  (((s.bump_regsOnly _ (by simp)).trans (State.bump_regsOnly _ _ (by simp))).trans (State.bump_regsOnly _ _ (by simp))).trans
    (State.bump_regsOnly _ _ (by simp))

theorem State.countSample_smpRows (s : State) (d vocab : Nat) (greedy : Bool) (r : Sampled) :
    (s.countSample d vocab greedy r).reg .smpRows d = min (s.reg .smpRows d + 1) (2 ^ 64 - 1) := by
  simp [State.countSample, State.reg_bump, Reg.top, Reg.isPair]

theorem State.countSample_sagger (s : State) (d vocab : Nat) (greedy : Bool) (r : Sampled) (k : Nat) :
    (s.countSample d vocab greedy r).sagger k = s.sagger k := rfl

theorem exec_sampleRow_of_sound {g : SaggerIx} {slot : BitVec 16} {node : BitVec 6} {blocks : List (BitVec 32)} {s : State}
    {q : Req} {i : ImageInfo} {w : Walk} {r : Sampled} (hq : s.running g.val slot.toNat = some q) (hi : i = s.imageOfSlot g.val slot.toNat)
    (hw : w = s.walkOf g.val q) (hgives : s.givesToken g.val q = true) (hnext : w.next = some node.toNat)
    (htree : q.st = .decode → q.tree.length = q.rows) (hlen : blocks.length = (i.vocab + 1023) / 1024)
    (hsound : s.logitsBad blocks = none)
    (hr : r = q.sub.sample (q.windowWith (w.out.map (·.1))) (s.logits i.vocab blocks) (Config.generator q.key q.draws).toNat) :
    exec (.sampleRow g slot node blocks) s = .next (((s.onSlot g.val slot.toNat fun x =>
      { x with
        samples := x.samples ++ [(node.toNat, r.token, r.logp)]
        draws := x.draws + (if q.sub.temp = 0 then 0 else 1) }).countSample (samplingDie blocks) i.vocab
          (q.sub.temp == 0) r).touch g.val) := by
  subst hi hw hr
  show execSampleRow g slot node blocks s = _
  have hcomplete : (q.st == .decode && q.tree.length != q.rows) = false := by
    cases hst : q.st == .decode with
    | false => rfl
    | true => simp [htree (beq_iff_eq.1 hst)]
  simp [execSampleRow, hq, hgives, hnext, hcomplete, hlen, hsound]

/-! ## VERIFY_TREE (R260, R261) -/

theorem exec_verifyTree_of_ended {g : SaggerIx} {slot : BitVec 16} {s : State} {q : Req} {w : Walk}
    (hq : s.running g.val slot.toNat = some q) (hw : w = s.walkOf g.val q) (hst : q.st = .decode) (hrows : 1 < q.rows)
    (hpath : q.path = none) (hnext : w.next = none) (hout : w.out ≠ []) :
    exec (.verifyTree g slot) s = .next ((((s.onSlot g.val slot.toNat fun x =>
      { x with path := some w.path, copies := pathCopies w.path }).bump .sgrSpecNodes g.val q.tree.length).bump .sgrSpecAccept g.val
        (w.path.length - 1)).touch g.val) := by
  subst hw
  show execVerifyTree g slot s = _
  simp [execVerifyTree, State.when, hq, hst, hrows, hpath, hnext, hout]

/-- Settles O30: each command is one change of the slot's request and its counts. That SGR_SPEC_NODES counts the root, which die
samples, and the key and position of the draw are the model's choices (log entries 94 to 96). -/
theorem samplingVerifiesATree : Obligations.SamplingVerifiesATree := by
  refine ⟨fun g slot blocks s q i hq hi hst hdraft hroom hlen hsound htree => ?draft,
    fun g slot node blocks s q i w r d hq hi hw hgives hnext htree hlen hsound hr hd => ?sample,
    fun g slot s q w hq hw hst hrows hpath hnext hout => ?verify⟩
  case draft =>
    have hframe : WheelFrame [.saggers] [] [g.val] s ((s.onSlot g.val slot.toNat fun r =>
        { r with tree := s.growTree q i.vocab q.rows blocks }).touch g.val) := WheelFrame.refl.onSagger.touch
    exact ⟨_, exec_draftPass_of_sound hq hi hst hdraft hroom hlen hsound htree, s.onSlot_touch_live .., hframe.only, hframe.saggers⟩
  case sample =>
    subst hd
    have hframe (f : Req → Req) : WheelFrame [.saggers, .regs] [] [g.val] s (((s.onSlot g.val slot.toNat f).countSample
        (samplingDie blocks) i.vocab (q.sub.temp == 0) r).touch g.val) :=
      (State.countSample_frame WheelFrame.refl.onSagger).touch
    have hregs (u : State) := u.countSample_regs (samplingDie blocks) i.vocab (q.sub.temp == 0) r
    refine ⟨_, exec_sampleRow_of_sound hq hi hw hgives hnext htree hlen hsound hr, ?live, fun hgreedy => ?token, ?rows,
      (hframe _).only, (hframe _).saggers, hregs _⟩
    case live => rw [State.touch_reads Sagger.live, State.countSample_sagger, State.onSlot_live]
    case token => rw [hr, Submit.sample_token_of_greedy hgreedy]
    case rows => exact State.countSample_smpRows ..
  case verify =>
    have hframe (f : Req → Req) : WheelFrame [.saggers, .regs] [] [g.val] s ((((s.onSlot g.val slot.toNat f).bump .sgrSpecNodes
      g.val q.tree.length).bump .sgrSpecAccept g.val (w.path.length - 1)).touch g.val) := WheelFrame.refl.onSagger.bump.bump.touch
    have hregs (u : State) : RegsOnly [(.sgrSpecNodes, g.val), (.sgrSpecAccept, g.val)] u ((u.bump .sgrSpecNodes g.val
      q.tree.length).bump .sgrSpecAccept g.val (w.path.length - 1)) :=
      (u.bump_regsOnly _ (by simp)).trans (State.bump_regsOnly _ _ (by simp))
    refine ⟨_, exec_verifyTree_of_ended hq hw hst hrows hpath hnext hout, s.onSlot_touch_live .., ?nodes, ?accepts, (hframe _).only,
      (hframe _).saggers, hregs _⟩
    case nodes => simp [State.touch_reg, State.reg_bump, State.onSlot, Reg.top, Reg.isPair]
    case accepts => simp [State.touch_reg, State.reg_bump, State.onSlot, Reg.top, Reg.isPair]

end Sys2Proof.Machine

namespace Sys2Proof.Machine

/-! # A shutdown that resets the sagger it should wait for (O57)

A sagger that goes DOWN leaves its slices, and the incoming migrations of a slice are dropped, whichever sagger they fill (R372,
R424).  Freeing their slots may raise 0x7A (R202), of LEVEL 2, which resets that sagger: its step is then no longer waited for. -/

theorem exec_shutdown_of_first {m : MgmtArgs} {env : BistEnv} {s : State} (h : Admits ⟨0x60, 1, .device, false⟩ m s)
    (hpayload : m.payload = []) (hfirst : s.boot.shutting = false) :
    exec (.shutdown m env) s = .next ((s.bump .mgtCmds 0 1).startShutdown (m.sess.val, m.tag) env) := by
  show execShutdown m env s = _
  simp only [execShutdown, roleOperator, State.runMgmt_of_admits h]
  simp [hpayload, hfirst]

/-- SHUTDOWN from session 0. -/
def shutdownArgs : MgmtArgs := { sess := 0, sagger := 15, tag := 5, payload := [] }

/-- The conditions of BIST hold, and it will find nothing. -/
def soundBist : BistEnv := { failed := [], conditions := true }

/-- An incoming migration that fills slot 0 of sagger 1, under slice 1. -/
def fillsSaggerOne : Incoming :=
  { slice := 1, sagger := 1, src := 1, req := { chan := 0, tag := 9, sub := {} }, slots := [], left := [] }

/-- Sagger 0 serves between two steps and belongs to slice 1; sagger 1 has a step under way.  The record of the slot that is being
filled names node 1 as its only attached block, and REFS of the node is 0. -/
def shutsBesideStep : State :=
  { State.reset with
    plan := some { saggers := [{ sagger := 0 }, { sagger := 1 }] }, boot := { phase := 6, ready := true, readyWas := true }
    mem := { hbm := [(28, 1), (32, 1)] }, mgmt := { sessions := [(0, { open_ := true, roles := 2 })] }
    lat := { slices := [{ id := 1, record := 0, member := true, active := true }], incoming := [fillsSaggerOne] }
    saggers := [(0, { st := .serving }), (1, { st := .serving, phase := .running })] }

theorem shutsBesideStep_waits : 1 ∈ shutsBesideStep.planSaggers ∧ (shutsBesideStep.sagger 1).st = .serving ∧
    (shutsBesideStep.sagger 1).phase ≠ .none := by decide

/-- Sagger 0 goes DOWN, sagger 1 is reset by the record and does not keep BIST waiting. -/
theorem shutsBesideStep_startsBist : ((shutsBesideStep.bump .mgtCmds 0 1).startShutdown
    (shutdownArgs.sess.val, shutdownArgs.tag) soundBist).boot.bistOn = true := by decide +kernel

/-- Refutes O57: the step of sagger 1 is under way when SHUTDOWN arrives, and BIST starts at once. -/
theorem not_budgetsSlicesMigrationsAndShutdown : ¬ Obligations.BudgetsSlicesMigrationsAndShutdown := by
  unfold Obligations.BudgetsSlicesMigrationsAndShutdown
  rintro ⟨-, -, -, -, hshutdown, -, -⟩
  have hadmits : Admits ⟨0x60, 1, .device, false⟩ shutdownArgs shutsBesideStep := ⟨by decide, by decide⟩
  obtain ⟨-, -, hfirst⟩ := hshutdown shutdownArgs soundBist shutsBesideStep hadmits
  obtain ⟨t, hexec, -, -, -, -, -, -, -, hwaits, -⟩ := hfirst rfl rfl
  obtain ⟨hbist, -⟩ := hwaits ⟨1, shutsBesideStep_waits⟩
  have ht := Host.Outcome.next.inj ((exec_shutdown_of_first hadmits rfl rfl).symm.trans hexec)
  rw [← ht, shutsBesideStep_startsBist] at hbist
  exact absurd hbist (by decide)

end Sys2Proof.Machine

namespace Sys2Proof.Machine

/-! # What the operations of the memory tiers share (chapter 09) -/

/-! ## Changes of one part of the state -/

theorem State.setReg_only (s : State) (r : Reg) (u v : Nat) : Only [.regs] s (s.setReg r u v) := by
  intro p hp
  cases p
  case regs => simp at hp
  all_goals rfl

theorem State.onPort_only (s : State) (k : Nat) (f : Port → Port) : Only [.ports] s (s.onPort k f) := by
  intro p hp
  cases p
  case ports => simp at hp
  all_goals rfl

theorem State.onPoison_only (s : State) (d : Nat) (f : List Poison → List Poison) : Only [.poison] s (s.onPoison d f) := by
  intro p hp
  cases p
  case poison => simp at hp
  all_goals rfl

theorem State.onStore_only (s : State) (f : Store → Store) : Only [.store] s (s.onStore f) := by
  intro p hp
  cases p
  case store => simp at hp
  all_goals rfl

theorem State.onHealth_only (s : State) (f : Health → Health) : Only [.health] s (s.onHealth f) := by
  intro p hp
  cases p
  case health => simp at hp
  all_goals rfl

theorem State.onBoot_only (s : State) (f : Boot → Boot) : Only [.boot] s (s.onBoot f) := by
  intro p hp
  cases p
  case boot => simp at hp
  all_goals rfl

/-- A frame of parts is a frame of more parts. -/
theorem Only.mono {ps ps' : List Field} {s t : State} (h : Only ps s t) (hp : ps ⊆ ps') : Only ps' s t :=
  fun p hn => h p fun hm => hn (hp hm)

namespace WheelFrame

variable {ps : List Field} {ws gs : List Nat} {s t : State}

theorem putSlab {a : Nat} {bs : List Byte} (h : WheelFrame ps ws gs s t) (hp : .mem ∈ ps := by decide) :
    WheelFrame ps ws gs s (t.putSlab a bs) := h.withMem hp

theorem setReg {r : Reg} {u v : Nat} (h : WheelFrame ps ws gs s t) (hp : .regs ∈ ps := by decide) :
    WheelFrame ps ws gs s (t.setReg r u v) := h.trans ⟨(t.setReg_only r u v).widen hp, fun _ _ => rfl, fun _ _ => rfl⟩

theorem onPort {k : Nat} {f : Port → Port} (h : WheelFrame ps ws gs s t) (hp : .ports ∈ ps := by decide) :
    WheelFrame ps ws gs s (t.onPort k f) := h.trans ⟨(t.onPort_only k f).widen hp, fun _ _ => rfl, fun _ _ => rfl⟩

theorem onPoison {d : Nat} {f : List Poison → List Poison} (h : WheelFrame ps ws gs s t) (hp : .poison ∈ ps := by decide) :
    WheelFrame ps ws gs s (t.onPoison d f) := h.trans ⟨(t.onPoison_only d f).widen hp, fun _ _ => rfl, fun _ _ => rfl⟩

theorem onStore {f : Store → Store} (h : WheelFrame ps ws gs s t) (hp : .store ∈ ps := by decide) :
    WheelFrame ps ws gs s (t.onStore f) := h.trans ⟨(t.onStore_only f).widen hp, fun _ _ => rfl, fun _ _ => rfl⟩

theorem onHealth {f : Health → Health} (h : WheelFrame ps ws gs s t) (hp : .health ∈ ps := by decide) :
    WheelFrame ps ws gs s (t.onHealth f) := h.trans ⟨(t.onHealth_only f).widen hp, fun _ _ => rfl, fun _ _ => rfl⟩

theorem onBoot {f : Boot → Boot} (h : WheelFrame ps ws gs s t) (hp : .boot ∈ ps := by decide) :
    WheelFrame ps ws gs s (t.onBoot f) := h.trans ⟨(t.onBoot_only f).widen hp, fun _ _ => rfl, fun _ _ => rfl⟩

theorem ware_eq (h : WheelFrame ps ws gs s t) (d : Nat) (hp : .wares ∉ ps := by decide) : t.ware d = s.ware d :=
  congrArg (fun l : Tab Ware => tget ({} : Ware) l d) (h.only .wares hp)

theorem poisons_eq (h : WheelFrame ps ws gs s t) (d : Nat) (hp : .poison ∉ ps := by decide) : t.poisons d = s.poisons d :=
  congrArg (fun l : Tab (List Poison) => tget [] l d) (h.only .poison hp)

theorem lute_eq (h : WheelFrame ps ws gs s t) (hp : .lute ∉ ps := by decide) : t.lute = s.lute := h.only .lute hp

theorem lat_eq (h : WheelFrame ps ws gs s t) (hp : .lat ∉ ps := by decide) : t.lat = s.lat := h.only .lat hp

theorem sagger_eq (h : WheelFrame ps ws [] s t) (g : Nat) : t.sagger g = s.sagger g := h.saggers g List.not_mem_nil

theorem reg_eq (h : WheelFrame ps ws gs s t) (r : Reg) (u : Nat) (hp : .regs ∉ ps := by decide) : t.reg r u = s.reg r u :=
  h.regsOnly [] hp r u List.not_mem_nil

end WheelFrame

/-! ## Records that stop nothing (R464) -/

/-- The containment of a record is no more than its entry in the log: it is raised at LEVEL 7, or it is of class 0x1 or 0x4. -/
def FaultRec.Harmless (r : FaultRec) : Prop := r.level = 7 ∨ codeClass r.code = 1 ∨ codeClass r.code = 4

theorem State.stamp_level_of_harmless {r : FaultRec} (s : State) (h : r.Harmless) :
    (s.stamp r).level = 7 ∨ (s.stamp r).level = 0 ∨ (s.stamp r).level = 4 := by
  unfold State.stamp
  dsimp only
  split
  case isTrue => exact .inl rfl
  case isFalse hne =>
    obtain h | h | h := h
    · exact absurd h hne
    · exact .inr (.inl (by simp [State.levelOf, h]))
    · exact .inr (.inr (by simp [State.levelOf, h]))

theorem State.raise_of_harmless {r : FaultRec} (s : State) (h : r.Harmless) :
    s.raise r = s.onFlog fun f => { f with detected := f.detected ++ [s.stamp r] } := by
  unfold State.raise State.contain
  dsimp only
  split
  next hl => rcases s.stamp_level_of_harmless h with h | h | h <;> simp [h] at hl
  next hl => rcases s.stamp_level_of_harmless h with h | h | h <;> simp [h] at hl
  next => rfl

theorem WheelFrame.raiseHarmless {ps : List Field} {ws gs : List Nat} {s t : State} {r : FaultRec} (h : WheelFrame ps ws gs s t)
    (hr : r.Harmless) (hp : .flog ∈ ps := by decide) : WheelFrame ps ws gs s (t.raise r) := by
  rw [t.raise_of_harmless hr]
  exact h.onFlog hp

theorem WheelFrame.raiseLimited {ps : List Field} {ws gs : List Nat} {s t : State} {gap sub : Nat} {r : FaultRec}
    (h : WheelFrame ps ws gs s t) (hr : r.Harmless) (hp : .flog ∈ ps := by decide) :
    WheelFrame ps ws gs s (t.raiseLimited gap sub r) :=
  .ite (h.onFlog hp) ((h.onFlog hp).raiseHarmless hr hp)

/-! ## Counts -/

theorem State.reg_bump_same (s : State) (r : Reg) (u n : Nat) : (s.bump r u n).reg r u = min (s.reg r u + n) r.top :=
  (s.reg_bump ..).trans (if_pos ⟨rfl, rfl⟩)

theorem State.reg_bump_of_ne {r r' : Reg} (s : State) (u u' n : Nat) (h : r' ≠ r := by decide) :
    (s.bump r u n).reg r' u' = s.reg r' u' := (s.reg_bump ..).trans (if_neg fun hr => h hr.1)

theorem State.reg_setReg_of_ne {r r' : Reg} (s : State) (u u' v : Nat) (h : r' ≠ r := by decide) :
    (s.setReg r u v).reg r' u' = s.reg r' u' := (s.reg_setReg ..).trans (if_neg fun hr => h hr.1)

/-! ## Sorted lists of numbers -/

theorem mem_addSorted {l : List Nat} {x y : Nat} : y ∈ addSorted l x ↔ y ∈ l ∨ y = x := by
  induction l with
  | nil => simp [addSorted]
  | cons a r ih =>
    unfold addSorted
    split
    · simp only [List.mem_cons]; tauto
    · split
      next h => subst h; simp only [List.mem_cons]; tauto
      next => simp only [List.mem_cons, ih]; tauto

theorem mem_foldl_addSorted {xs l : List Nat} {y : Nat} : y ∈ xs.foldl addSorted l ↔ y ∈ l ∨ y ∈ xs := by
  induction xs generalizing l with
  | nil => simp
  | cons x xs ih => rw [List.foldl_cons, ih, mem_addSorted, List.mem_cons, or_assoc]

end Sys2Proof.Machine


namespace Sys2Proof.Machine

/-! # Packets that this module sends (R361) -/

/-- From `s` to `t` packets have been sent: they wait for their handlers here, or at the ports, and the counts of routing may
have risen. -/
structure Sends (s t : State) : Prop where
  frame : WheelFrame [.lat, .ports, .regs] [] [] s t
  lat   : ∃ c, t.lat = { s.lat with consumed := c }
  reg   : ∀ r u, r ∉ [Reg.latFwdBytes, .latDetour, .latDrop] → t.reg r u = s.reg r u

namespace Sends

variable {s t u : State}

theorem refl : Sends s s := ⟨.refl, ⟨_, rfl⟩, fun _ _ _ => rfl⟩

theorem trans (h : Sends s t) (h' : Sends t u) : Sends s u := by
  obtain ⟨c, hc⟩ := h.lat
  obtain ⟨c', hc'⟩ := h'.lat
  exact ⟨h.frame.trans h'.frame, ⟨c', by rw [hc', hc]⟩, fun r k hr => (h'.reg r k hr).trans (h.reg r k hr)⟩

theorem foldl {α : Type} {f : State → α → State} (hf : ∀ (s : State) x, Sends s (f s x)) (l : List α) (s : State) :
    Sends s (l.foldl f s) := by
  induction l generalizing s with
  | nil => exact refl
  | cons x l ih => exact (hf s x).trans (ih _)

theorem streams_eq (h : Sends s t) : t.lat.streams = s.lat.streams := by
  obtain ⟨c, hc⟩ := h.lat
  rw [hc]

theorem outs_eq (h : Sends s t) : t.lat.outs = s.lat.outs := by
  obtain ⟨c, hc⟩ := h.lat
  rw [hc]

end Sends

/-- A count of the router. -/
theorem State.bump_sends {r : Reg} (s : State) (u n : Nat) (h : r ∈ [Reg.latFwdBytes, .latDetour, .latDrop]) :
    Sends s (s.bump r u n) :=
  ⟨WheelFrame.refl.bump, ⟨_, rfl⟩, fun r' k hr => (s.reg_bump ..).trans (if_neg fun (he : r' = r ∧ k = u) => hr (he.1 ▸ h))⟩

theorem State.queueOn_sends (s : State) (port : Nat) (p : Packet) (fwd : Bool) : Sends s (s.queueOn port p fwd) :=
  Sends.trans ⟨WheelFrame.refl.onPort, ⟨_, rfl⟩, fun _ _ _ => rfl⟩ (State.bump_sends _ port _ (by simp))

theorem State.forward_sends (s : State) (input : Option Nat) (p : Packet) : Sends s (s.forward input p) := by
  unfold State.forward
  split
  · exact ⟨WheelFrame.refl.onLat, ⟨_, rfl⟩, fun _ _ _ => rfl⟩
  · split
    · exact (s.queueOn_sends ..).trans (State.bump_sends _ _ _ (by simp))
    · exact State.bump_sends _ _ _ (by simp)

/-- A packet of this module changes nothing but the queues of packets and the counts of routing (R361). -/
theorem State.sendPacket_sends (s : State) (p : Packet) : Sends s (s.sendPacket p) := by
  unfold State.sendPacket State.routePacket
  dsimp only
  split
  · exact (s.forward_sends ..).trans (State.forward_sends ..)
  · exact s.forward_sends ..

end Sys2Proof.Machine

namespace Sys2Proof.Machine

/-! # Slab lines and their clear (O33) -/

/-! ## SLAB_WRITE and SLAB_READ (R278, R280) -/

theorem exec_slabWrite {w : WheelIx} {o : BitVec 22} {data : List Byte} {s : State} (hne : data ≠ [])
    (hin : o.toNat + data.length ≤ slabBytes) :
    exec (.slabWrite w o data) s = .next (s.onMem (·.slabWrite (w.val * slabBytes + o.toNat) data)) :=
  if_neg (by simp [hne, Nat.not_lt.2 hin])

/-- A read counts the invalid lines that it touches before anything else. -/
def State.countInvalid (s : State) (w i len : Nat) : State := s.bump .slbInvalidRd w (s.invalidLines i len)

/-- What a read that answers leaves. -/
def State.slabAnswered (s : State) (w i len : Nat) : State :=
  (s.countInvalid w i len).onMem fun m => { m with slabOut := m.slabRead i len }

theorem exec_slabRead {w : WheelIx} {o : BitVec 22} {len : Nat} {s : State} (hne : len ≠ 0) (hin : o.toNat + len ≤ slabBytes)
    (ecc : Ecc) :
    exec (.slabRead w o len ecc) s = .next (match ecc with
      | .good => s.slabAnswered w.val (w.val * slabBytes + o.toNat) len
      | .corrected => (s.slabAnswered w.val (w.val * slabBytes + o.toNat) len).slabCorrected w.val (o.toNat / 163840)
      | .uncorrectable => (s.countInvalid w.val (w.val * slabBytes + o.toNat) len).slabLost w.val (o.toNat / 163840)) := by
  show execSlabRead w o len ecc s = _
  unfold execSlabRead
  dsimp only
  rw [if_neg (by omega)]
  cases ecc <;> rfl

section
variable (s : State) (w i len bank : Nat)

theorem State.slabAnswered_frame : WheelFrame [.mem, .regs] [] [] s (s.slabAnswered w i len) := WheelFrame.refl.bump.withMem


theorem slabCorrected_harmless (g unit sub : Nat) :
    FaultRec.Harmless { code := faultCode 1 7 0xAA, sagger := sgField g, unit := unit, subunit := sub } :=
  .inr (.inl (show codeClass (faultCode 1 7 0xAA) = 1 by decide))

theorem State.slabCorrected_frame : WheelFrame [.regs, .flog] [] [] s (s.slabCorrected w bank) :=
  WheelFrame.refl.bump.setReg.raiseLimited (slabCorrected_harmless ..)

/-- A corrected error counts in SLB_CE (R280). -/
theorem State.slabCorrected_slbCe : (s.slabCorrected w bank).reg .slbCe w = min (s.reg .slbCe w + 1) (2 ^ 32 - 1) := by
  have hlog (u : State) (g : Nat) := (WheelFrame.refl (ps := [.flog]) (ws := []) (gs := []) (s := u)).raiseLimited
    (gap := msNs) (sub := bank) (slabCorrected_harmless g w bank)
  rw [State.slabCorrected, (hlog ..).reg_eq, State.reg_setReg_of_ne, State.reg_bump_same]
  rfl

/-- The change of an uncorrectable error before its record (R280). -/
def State.slabLostCounted : State := (s.bump .slbUe w 1).setReg .slbStatus w (nsetBits (s.reg .slbStatus w) 17 1 1)

theorem State.slabLost_frame :
    WheelFrame [.saggers, .flog, .lute] [] [(s.ownerOfWheel w).getD 15] (s.slabLostCounted w) (s.slabLost w bank) :=
  WheelFrame.refl.fault

theorem State.slabLostCounted_frame : WheelFrame [.regs] [] [] s (s.slabLostCounted w) := WheelFrame.refl.bump.setReg

/-- An uncorrectable error counts in SLB_UE (R280). -/
theorem State.slabLost_slbUe : (s.slabLost w bank).reg .slbUe w = min (s.reg .slbUe w + 1) (2 ^ 32 - 1) := by
  rw [(s.slabLost_frame w bank).reg_eq, State.slabLostCounted, State.reg_setReg_of_ne, State.reg_bump_same]
  rfl

end

/-! ## SLAB_CLEAR (R279) -/

/-- Bytes of the slabs of the listed wheels read zero, those of other slabs stay (R278). -/
theorem Memories.slabClears_mget (ws : List Nat) (m : Memories) {w x : Nat} (hx : x < slabBytes) :
    mget (ws.foldl Memories.slabClear m).slab (w * slabBytes + x) = if w ∈ ws then 0 else mget m.slab (w * slabBytes + x) := by
  induction ws generalizing m with
  | nil => simp
  | cons v ws ih =>
    have hv : mget (m.slabClear v).slab (w * slabBytes + x) = if w = v then 0 else mget m.slab (w * slabBytes + x) := by
      rw [Memories.slabClear, mget_mclear]
      refine if_congr ?_ rfl rfl
      unfold slabBytes at hx ⊢
      omega
    rw [List.foldl_cons, ih, hv]
    by_cases h : w ∈ ws <;> simp [h]

/-- No line of a listed wheel is valid. -/
theorem Memories.slabClears_valid (ws : List Nat) (m : Memories) {l : Nat} :
    l ∈ (ws.foldl Memories.slabClear m).valid ↔ l ∈ m.valid ∧ l / 40960 ∉ ws := by
  induction ws generalizing m with
  | nil => simp
  | cons v ws ih =>
    have hv : l ∈ (m.slabClear v).valid ↔ l ∈ m.valid ∧ l / 40960 ≠ v := by simp [Memories.slabClear]
    rw [List.foldl_cons, ih, hv, List.mem_cons, not_or, and_assoc]

theorem Memories.slabClears_only (ws : List Nat) (m : Memories) :
    ws.foldl Memories.slabClear m =
      { m with slab := (ws.foldl Memories.slabClear m).slab, valid := (ws.foldl Memories.slabClear m).valid } := by
  induction ws generalizing m with
  | nil => rfl
  | cons v ws ih => exact ih (m.slabClear v)

/-- Wheel `w` of sagger `g` is cleared and the clear counted; a wheel of another sagger stays. -/
def State.clearWheel (g : Nat) (s : State) (w : Nat) : State :=
  if s.ownsWheel g w then (s.onMem (·.slabClear w)).bump .slbClears w 1 else s

theorem State.clearWheels_frame (s : State) (g : Nat) (ws : List Nat) :
    WheelFrame [.mem, .regs] [] [] s (ws.foldl (State.clearWheel g) s) :=
  WheelFrame.foldl (fun _ _ hu => .ite hu.withMem.bump hu) ws .refl

theorem State.clearWheels_mem (s : State) (g : Nat) (ws : List Nat) :
    (ws.foldl (State.clearWheel g) s).mem = (ws.filter (s.ownsWheel g)).foldl Memories.slabClear s.mem := by
  induction ws generalizing s with
  | nil => rfl
  | cons w ws ih =>
    rw [List.foldl_cons, ih, List.filter_cons]
    by_cases h : s.ownsWheel g w
    · simp only [State.clearWheel, h, if_true]
      rfl
    · simp only [State.clearWheel, h, Bool.false_eq_true, if_false]

/-- What the clear of a sagger's slabs leaves. -/
def State.slabsCleared (s : State) (g : Nat) : State :=
  ((s.clearSlabs g).onSagger g fun x => { x with cleared := true, clearTally := x.clearTally + 1 }).touch g

theorem State.slabsCleared_frame (s : State) (g : Nat) : WheelFrame [.mem, .regs, .saggers] [] [g] s (s.slabsCleared g) :=
  (((s.clearWheels_frame g (List.range 144)).mono (by decide) (by simp)).onSagger).touch

theorem State.slabsCleared_sagger (s : State) (g : Nat) : ((s.slabsCleared g).sagger g).cleared = true ∧
    ((s.slabsCleared g).sagger g).clearTally = (s.sagger g).clearTally + 1 := by
  have hclear : WheelFrame [.mem, .regs] [] [] s (s.clearSlabs g) := s.clearWheels_frame g _
  unfold State.slabsCleared
  rw [State.touch_reads Sagger.cleared, State.touch_reads Sagger.clearTally, State.onSagger_sagger, if_pos rfl, hclear.sagger_eq]
  exact ⟨rfl, rfl⟩

theorem State.slabsCleared_mem (s : State) (g : Nat) :
    (s.slabsCleared g).mem = ((List.range 144).filter (s.ownsWheel g)).foldl Memories.slabClear s.mem := by
  have hclear : (s.clearSlabs g).mem = _ := s.clearWheels_mem g (List.range 144)
  rw [State.slabsCleared, State.touch, State.onSagger_mem, State.onSagger_mem, hclear]

theorem exec_slabClear {g : SaggerIx} {s : State} (hst : (s.sagger g.val).st = .serving) (hphase : (s.sagger g.val).phase = .none)
    (hcommit : (s.sagger g.val).commit = none) :
    exec (.slabClear g) s = s.when (!(s.sagger g.val).cleared) (s.slabsCleared g.val) := by
  show execSlabClear g s = _
  simp [execSlabClear, State.slabsCleared, hst, hphase, hcommit]

/-- The wheels of a sagger, among all 144. -/
theorem State.mem_ownWheels {s : State} {g w : Nat} : w ∈ (List.range 144).filter (s.ownsWheel g) ↔ s.ownsWheel g w = true := by
  simp only [List.mem_filter, List.mem_range, and_iff_right_iff_imp]
  intro h
  simp only [State.ownsWheel, Bool.and_eq_true, decide_eq_true_eq] at h
  exact h.1

/-- Settles O33: a write is one write of bytes and lines, a read one count and one answer or record, and the clear one fold over
the wheels of the sagger. -/
theorem slabLinesAndTheirClear : Obligations.SlabLinesAndTheirClear := by
  refine ⟨fun w o data s hne hin => ?write, fun w o len s hne hin => ⟨?good, ?corrected, ?lost⟩,
    fun g s hst hphase hcommit => ⟨fun hcleared => ?clear, fun hcleared => ?once⟩⟩
  case write =>
    exact ⟨_, exec_slabWrite hne hin, mread_mwrite .., fun x hx => mget_mwrite_of_outside _ _ _ _ hx, fun l => mem_foldl_addSorted,
      rfl, s.withMem_only _⟩
  case good =>
    exact ⟨_, exec_slabRead hne hin .good, rfl, (State.reg_bump ..).trans (if_pos ⟨rfl, rfl⟩), (s.slabAnswered_frame ..).only,
      State.bump_regsOnly _ _ (by simp)⟩
  case corrected =>
    refine ⟨_, exec_slabRead hne hin .corrected, ((State.slabCorrected_frame ..).mem_eq).trans rfl, ?_, ?_⟩
    · rw [State.slabCorrected_slbCe, State.slabAnswered, State.onMem_reg, State.countInvalid, State.reg_bump_of_ne]
    · exact ((s.slabAnswered_frame ..).only.mono (by decide)).trans ((State.slabCorrected_frame ..).only.mono (by decide))
  case lost =>
    have hcount : WheelFrame [.regs] [] [] s (s.countInvalid w.val (w.val * slabBytes + o.toNat) len) := WheelFrame.refl.bump
    have hbefore := hcount.trans (State.slabLostCounted_frame _ w.val)
    have hafter := (s.countInvalid w.val (w.val * slabBytes + o.toNat) len).slabLost_frame w.val (o.toNat / 163840)
    refine ⟨_, exec_slabRead hne hin .uncorrectable, hafter.mem_eq.trans hbefore.mem_eq, ?_, ?_, ?_⟩
    · exact (State.detects_raise _ _).of_flog_eq hbefore.flog_eq rfl
    · rw [State.slabLost_slbUe, State.countInvalid, State.reg_bump_of_ne]
    · exact (hbefore.only.mono (by decide)).trans (hafter.only.mono (by decide))
  case clear =>
    have hexec := (exec_slabClear hst hphase hcommit).trans (State.when_true _ _ (by rw [hcleared]; rfl))
    have hframe := s.slabsCleared_frame g.val
    obtain ⟨hdone, htally⟩ := s.slabsCleared_sagger g.val
    refine ⟨_, hexec, hdone, htally, fun w _ hown => ⟨fun x hx => ?_, fun l hl => ?_⟩, fun w hown x hx => ?_, ?_, hframe.only,
      hframe.saggers⟩
    · rw [State.slabsCleared_mem, Memories.slabClears_mget _ _ hx, if_pos (State.mem_ownWheels.2 hown)]
    · rw [State.slabsCleared_mem, Memories.slabClears_valid] at hl
      exact fun hw => hl.2 (State.mem_ownWheels.2 (hw ▸ hown))
    · rw [State.slabsCleared_mem, Memories.slabClears_mget _ _ hx, if_neg (by rw [State.mem_ownWheels, hown]; decide)]
    · rw [State.slabsCleared_mem]
      exact Memories.slabClears_only ..
  case once => exact (exec_slabClear hst hphase hcommit).trans (State.when_false _ _ (by rw [hcleared]; rfl))

end Sys2Proof.Machine

namespace Sys2Proof.Machine

/-! # Slab operation records (O34) -/

/-! ## The outcomes of a record (R281, R282) -/

theorem State.runSop_of_ok {s u : State} {name : String} {op g r : Nat} (hst : (s.sagger g).st = .serving) (hop : sopOp r = op) :
    s.runSop name op g r true u = .next u := by
  simp [State.runSop, hst, hop]

theorem State.runSop_of_bad {s u : State} {name : String} {op g r : Nat} (hst : (s.sagger g).st = .serving) (hop : sopOp r = op) :
    s.runSop name op g r false u = .next (s.sopReject g r) := by
  simp [State.runSop, hst, hop]

theorem sopTally_lt (r : Nat) : sopTally r < 4096 := Nat.mod_lt _ (by decide)

theorem State.sopDone_frame (s : State) {g : Nat} (hg : g < 12) (r : Nat) :
    WheelFrame [.saggers, .tallies, .flog, .lute] [] [g] s (s.sopDone g r) :=
  (WheelFrame.refl.advance hg (sopTally_lt r)).touch

/-- From `s` to `t` sagger `g` has run a record that writes slabs, and finished it. -/
structure RunsSop (g r : Nat) (s t : State) : Prop where
  tally : (s.tally (tallyKey g (sopTally r))).mode ≠ 0 → s.homeHere (tallyKey g (sopTally r)) = true →
    (t.tally (tallyKey g (sopTally r))).prod = (s.tally (tallyKey g (sopTally r))).prod + 1
  mem   : t.mem = { s.mem with slab := t.mem.slab, valid := t.mem.valid }
  only  : Only [.mem, .regs, .saggers, .tallies, .flog, .lute] s t

section
variable {s u : State} {g : Nat} (hg : g < 12) (r : Nat)
include hg

theorem State.sopDone_runs (hwork : WheelFrame [.mem, .regs] [] [] s u)
    (hmem : u.mem = { s.mem with slab := u.mem.slab, valid := u.mem.valid }) :
    RunsSop g r s (u.sopDone g r) where
  tally hmode hhome := by
    rw [← hwork.tally_eq] at hmode ⊢
    rw [← hwork.homeHere_eq] at hhome
    have htouch (v : State) (k : Nat) : (v.touch g).tally k = v.tally k := rfl
    rw [State.sopDone, htouch, State.advance_prod _ (sopTally_lt r) hmode hhome]
  mem := by
    rw [(u.sopDone_frame hg r).mem_eq]
    exact hmem
  only := ((hwork.mono (ps' := [.mem, .regs, .saggers, .tallies, .flog, .lute]) (gs' := [g]) (by decide) (by simp)).trans
    ((u.sopDone_frame hg r).mono (by decide) (by simp))).only

/-- A record whose work, after counts that lead from `s` to `u`, is one write to its whole destination. -/
theorem State.sopWrite_runs (hwork : WheelFrame [.regs] [] [] s u) {bs : List Byte} {c : Reg} {unit n : Nat} (hlen : bs.length = sopLen r) :
    ∃ t, t = ((u.putSlab (sopDst r) bs).bump c unit n).sopDone g r ∧ t.slab (sopDst r) (sopLen r) = bs ∧
      Outside (slabIx (sopDst r)) (sopLen r) s.mem.slab t.mem.slab ∧ RunsSop g r s t := by
  have hwritten : WheelFrame [.mem, .regs] [] [] s ((u.putSlab (sopDst r) bs).bump c unit n) :=
    (hwork.mono (by decide) (List.Subset.refl _)).putSlab.bump
  have hslab : ((u.putSlab (sopDst r) bs).bump c unit n).mem = s.mem.slabWrite (slabIx (sopDst r)) bs :=
    congrArg (fun m : Memories => m.slabWrite (slabIx (sopDst r)) bs) hwork.mem_eq
  obtain ⟨hread, hout, -⟩ := State.slab_of_slabWrite (((State.sopDone_frame _ hg r).mem_eq).trans hslab)
  rw [hlen] at hread hout
  exact ⟨_, rfl, hread, hout, State.sopDone_runs hg r hwritten (hslab ▸ rfl)⟩

end

/-! ## FILL, COPY and HLOAD (R282, R284) -/

theorem State.sopLen_of_sopBad {s : State} {g r align : Nat} (h : s.sopBad g r align = false) : sopLen r % 4 = 0 := by
  simp only [State.sopBad, Bool.or_eq_false_iff, bne_eq_false_iff_eq] at h
  exact h.1.2

/-- The bytes of a FILL. -/
def fillBytes (r : Nat) : List Byte := (List.replicate (sopLen r / 4) (leBytes (sopSrc r) 4)).flatten

theorem fillBytes_length {r : Nat} (h : sopLen r % 4 = 0) : (fillBytes r).length = sopLen r := by
  simp only [fillBytes, List.length_flatten, List.map_replicate, leBytes_length, List.sum_replicate, smul_eq_mul]
  omega

theorem exec_fill_of_ok {g : SaggerIx} {rec : BitVec 128} {s : State} (hst : (s.sagger g.val).st = .serving)
    (hop : sopOp rec.toNat = 1) (hok : s.sopBad g.val rec.toNat 4 = false) :
    exec (.fill g rec) s = .next (((s.putSlab (sopDst rec.toNat) (fillBytes rec.toNat)).bump .slbOpBytes
      (slabWheel (sopDst rec.toNat)) (sopLen rec.toNat)).sopDone g.val rec.toNat) := by
  show execFill g rec s = _
  rw [execFill, hok]
  exact State.runSop_of_ok hst hop

theorem exec_copy_of_ok {g : SaggerIx} {rec : BitVec 128} {s : State} (hst : (s.sagger g.val).st = .serving)
    (hop : sopOp rec.toNat = 2) (hok : s.sopBad g.val rec.toNat 4 = false)
    (hsrc : s.slabRegion g.val (sopSrc rec.toNat) (sopLen rec.toNat) 4 = true) :
    exec (.copy g rec) s = .next ((((s.bump .slbInvalidRd (slabWheel (sopSrc rec.toNat))
      (s.invalidLines (slabIx (sopSrc rec.toNat)) (sopLen rec.toNat))).putSlab (sopDst rec.toNat)
      (s.slab (sopSrc rec.toNat) (sopLen rec.toNat))).bump .slbOpBytes (slabWheel (sopDst rec.toNat))
      (sopLen rec.toNat)).sopDone g.val rec.toNat) := by
  show execCopy g rec s = _
  rw [execCopy, hok, hsrc]
  exact State.runSop_of_ok hst hop

theorem exec_hload_of_ok {g : SaggerIx} {rec : BitVec 128} {s : State} (hst : (s.sagger g.val).st = .serving)
    (hop : sopOp rec.toNat = 3) (hok : s.sopBad g.val rec.toNat 1 = false)
    (hnear : s.inWindow g.val (sopSrc rec.toNat * 512) (sopLen rec.toNat) = false)
    (hread : s.mayRead g.val (sopSrc rec.toNat * 512) (sopLen rec.toNat) = true) :
    exec (.hload g rec) s = .next (((s.putSlab (sopDst rec.toNat) (s.hbm (sopSrc rec.toNat * 512) (sopLen rec.toNat))).bump
      .hbmRdBytes (stackOfAddr (sopSrc rec.toNat * 512)) (sopLen rec.toNat)).sopDone g.val rec.toNat) := by
  show execHload g rec s = _
  rw [execHload, hok, hnear, hread]
  exact State.runSop_of_ok hst hop

/-! ## GATHER (R284) -/

theorem packBlock_one_length {exps cs : List Nat} (h : exps.length = 64) (sideE : Nat) (vs : List Dyad) :
    (packBlock 1 exps sideE cs vs).length = 640 := by
  simp only [packBlock, packMants, padTo, List.length_append, leBytes_length, List.length_map, h, List.length_take, zeros_length,
    List.length_range]
  omega

theorem gatherBlock_length (ws : List Int) : (gatherBlock ws).length = 640 := packBlock_one_length (by simp) ..

/-- The row and input block of each block of a GATHER, in order. -/
def gatherKeys (n nb : Nat) : List (Nat × Nat) := (List.range n).flatMap fun k => (List.range nb).map (Prod.mk k)

theorem mem_gatherKeys {n nb : Nat} {k : Nat × Nat} : k ∈ gatherKeys n nb ↔ k.1 < n ∧ k.2 < nb := by
  obtain ⟨row, block⟩ := k
  simp [gatherKeys]

/-- Place of a block among those of the destination. -/
def gatherPlace (nb : Nat) (k : Nat × Nat) : Nat := k.1 * nb + k.2

theorem gatherPlace_inj {nb : Nat} {k k' : Nat × Nat} (hk : k.2 < nb) (hk' : k'.2 < nb) (h : gatherPlace nb k = gatherPlace nb k') :
    k = k' := by
  have hdiv {k : Nat × Nat} (hk : k.2 < nb) : gatherPlace nb k / nb = k.1 := by
    rw [gatherPlace, Nat.mul_comm, Nat.mul_add_div (by omega), Nat.div_eq_of_lt hk, Nat.add_zero]
  have hmod {k : Nat × Nat} (hk : k.2 < nb) : gatherPlace nb k % nb = k.2 := by
    rw [gatherPlace, Nat.mul_comm, Nat.mul_add_mod, Nat.mod_eq_of_lt hk]
  exact Prod.ext ((hdiv hk).symm.trans (h ▸ hdiv hk')) ((hmod hk).symm.trans (h ▸ hmod hk'))

theorem gatherPlace_lt {n nb : Nat} {k : Nat × Nat} (h : k ∈ gatherKeys n nb) : gatherPlace nb k < nb * n := by
  obtain ⟨hrow, hblock⟩ := mem_gatherKeys.1 h
  calc k.1 * nb + k.2 < (k.1 + 1) * nb := by rw [Nat.add_one_mul]; omega
    _ ≤ n * nb := Nat.mul_le_mul_right _ hrow
    _ = nb * n := Nat.mul_comm ..

/-- An offset that stays in the slab is added to the place of its address. -/
theorem slabIx_add {a x : Nat} (h : slabOff a + x < slabBytes) : slabIx (a + x) = slabIx a + x := by
  simp only [slabIx, slabOff, slabWheel, nbits, slabBytes] at *
  omega

theorem mwrites_append_singleton (m : Mem) (ws : List (Nat × List Byte)) (w : Nat × List Byte) :
    mwrites m (ws ++ [w]) = mwrite (mwrites m ws) w.1 w.2 := by
  rw [mwrites, List.foldl_append]
  rfl

section
variable (s : State) (g r : Nat) (i : LoadedImage) (l : LayerInfo)

/-- The block of a GATHER for a row and an input block. -/
def State.gatherOut (k : Nat × Nat) : List Byte :=
  gatherBlock (rowWeights l.wfmt (s.gatherRow i l ((s.gatherIds r).getD k.1 0) k.2))

/-- One block of a GATHER whose identifiers are `ids` is written and its read counted. -/
def State.gatherStep (ids : List Nat) (u : State) (k : Nat × Nat) : State :=
  (u.putSlab (sopDst r + gatherPlace l.nb k * 640) (gatherBlock (rowWeights l.wfmt (u.gatherRow i l (ids.getD k.1 0) k.2)))).bump
    .hbmRdBytes (stackOfAddr (i.byteAddr (l.tileBase + (ids.getD k.1 0 / 16 * l.nb + k.2) * tileBytes l.wfmt))) (rowBytes l.wfmt)

theorem State.gatherOp_eq (hi : s.image? g (s.sagger g).stepModel = some i) (hl : l = s.layer g (sopLayer r)) :
    s.gatherOp g r = (gatherKeys (sopLen r) l.nb).foldl (State.gatherStep r i l (s.gatherIds r)) s := by
  have hlen : (s.gatherIds r).length = sopLen r := by simp [State.gatherIds]
  subst hl
  rw [State.gatherOp, hi]
  dsimp only
  rw [hlen, gatherKeys, List.foldl_flatMap]
  simp only [List.foldl_map]
  rfl

theorem State.gatherRow_congr {s t : State} (h : t.mem.hbm = s.mem.hbm) : t.gatherRow i l = s.gatherRow i l := by
  funext t b
  simp only [State.gatherRow, h]

/-- What the blocks written so far leave: HBM as it was, and of the other memories all. -/
theorem State.gatherSteps_mem (ks : List (Nat × Nat)) : (ks.foldl (State.gatherStep r i l (s.gatherIds r)) s).mem =
    { s.mem with
      slab := mwrites s.mem.slab (ks.map fun k => (slabIx (sopDst r + gatherPlace l.nb k * 640), s.gatherOut r i l k))
      valid := (ks.foldl (State.gatherStep r i l (s.gatherIds r)) s).mem.valid } := by
  induction ks using List.reverseRecOn with
  | nil => rfl
  | append_singleton ks k ih =>
    have hhbm : (ks.foldl (State.gatherStep r i l (s.gatherIds r)) s).mem.hbm = s.mem.hbm := by rw [ih]
    rw [List.foldl_append, List.foldl_cons, List.foldl_nil]
    generalize ks.foldl (State.gatherStep r i l (s.gatherIds r)) s = u at ih hhbm ⊢
    have hstep : (State.gatherStep r i l (s.gatherIds r) u k).mem =
        u.mem.slabWrite (slabIx (sopDst r + gatherPlace l.nb k * 640)) (s.gatherOut r i l k) := by
      rw [State.gatherOut, ← State.gatherRow_congr i l hhbm]
      rfl
    rw [hstep, Memories.slabWrite, ih, List.map_append, List.map_singleton, mwrites_append_singleton]

theorem State.gatherSteps_frame (ks : List (Nat × Nat)) :
    WheelFrame [.mem, .regs] [] [] s (ks.foldl (State.gatherStep r i l (s.gatherIds r)) s) :=
  .foldl (fun _ _ hu => hu.withMem.bump) ks .refl

end

theorem State.slabRegion_fits {s : State} {g a n align : Nat} (h : s.slabRegion g a n align = true) : slabOff a + n ≤ slabBytes := by
  simp only [State.slabRegion, Bool.and_eq_true, decide_eq_true_eq] at h
  exact h.1.1.2

theorem State.gatherBad_fits {s : State} {g r : Nat} (h : s.gatherBad g r = false) :
    slabOff (sopDst r) + 640 * (s.layer g (sopLayer r)).nb * sopLen r ≤ slabBytes := by
  simp only [State.gatherBad, Bool.or_eq_false_iff, Bool.not_eq_false'] at h
  exact State.slabRegion_fits h.2

theorem exec_gather_of_ok {g : SaggerIx} {rec : BitVec 128} {s : State} (hst : (s.sagger g.val).st = .serving)
    (hop : sopOp rec.toNat = 4) (hok : s.gatherBad g.val rec.toNat = false)
    (hids : ∀ x ∈ s.gatherIds rec.toNat, x < (s.layer g.val (sopLayer rec.toNat)).outputs) :
    exec (.gather g rec) s = .next ((s.gatherOp g.val rec.toNat).sopDone g.val rec.toNat) := by
  show execGather g rec s = _
  rw [execGather, hok, if_neg (by simpa using hids)]
  exact State.runSop_of_ok hst hop

section
variable {s : State} {r n nb : Nat} {i : LoadedImage} {l : LayerInfo} (hfits : slabOff (sopDst r) + 640 * l.nb * n ≤ slabBytes)
include hfits

theorem slabIx_gatherPlace {k : Nat × Nat} (hk : k ∈ gatherKeys n l.nb) :
    slabIx (sopDst r + gatherPlace l.nb k * 640) = slabIx (sopDst r) + gatherPlace l.nb k * 640 := by
  have hlt := gatherPlace_lt hk
  rw [Nat.mul_assoc] at hfits
  exact slabIx_add (by omega)

/-- Each block reads back, wherever the other blocks lie. -/
theorem State.gathered_block {k : Nat × Nat} (hk : k ∈ gatherKeys n l.nb) :
    mread (mwrites s.mem.slab ((gatherKeys n l.nb).map fun k =>
      (slabIx (sopDst r + gatherPlace l.nb k * 640), s.gatherOut r i l k)))
      (slabIx (sopDst r + gatherPlace l.nb k * 640)) (s.gatherOut r i l k).length = s.gatherOut r i l k := by
  refine mread_mwrites (w := (_, s.gatherOut r i l k)) _ ?apart (List.mem_map.2 ⟨k, hk, rfl⟩)
  have hnodup : (gatherKeys n l.nb).Nodup := List.Nodup.product List.nodup_range List.nodup_range
  refine List.pairwise_map.2 (hnodup.imp_of_mem fun {a b} ha hb hne => ?_)
  have hplace : gatherPlace l.nb a ≠ gatherPlace l.nb b := fun h =>
    hne (gatherPlace_inj (mem_gatherKeys.1 ha).2 (mem_gatherKeys.1 hb).2 h)
  simp only [State.gatherOut, gatherBlock_length, slabIx_gatherPlace hfits ha, slabIx_gatherPlace hfits hb, Apart]
  omega

/-- All blocks lie within the destination. -/
theorem State.gathered_outside : Outside (slabIx (sopDst r)) (640 * l.nb * n) s.mem.slab
    (mwrites s.mem.slab ((gatherKeys n l.nb).map fun k =>
      (slabIx (sopDst r + gatherPlace l.nb k * 640), s.gatherOut r i l k))) := by
  intro x hx
  refine mget_mwrites_of_outside _ fun w hw => ?_
  obtain ⟨k, hk, rfl⟩ := List.mem_map.1 hw
  have hlt := gatherPlace_lt hk
  simp only [slabIx_gatherPlace hfits hk, State.gatherOut, gatherBlock_length]
  rw [Nat.mul_assoc] at hx
  omega

end

/-! ## A record that fails its checks (R282) -/

theorem State.sopReject_frame (s : State) (g r : Nat) : WheelFrame [.saggers, .flog, .lute] [] [g] s (s.sopReject g r) :=
  WheelFrame.refl.faultRec

theorem State.sopReject_detects (s : State) (g r : Nat) : Detects 0x37A0#16 s (s.sopReject g r) := s.detects_raise _

theorem exec_sop_of_bad {op : Nat} {c : Instr} {g : SaggerIx} {rec : BitVec 128} {s : State}
    (hc : (op, c) ∈ [(1, Instr.fill g rec), (2, Instr.copy g rec), (3, Instr.hload g rec)]) (hst : (s.sagger g.val).st = .serving)
    (hop : sopOp rec.toNat = op) (hbad : s.sopBad g.val rec.toNat (if op = 3 then 1 else 4) = true) :
    exec c s = .next (s.sopReject g.val rec.toNat) := by
  simp only [List.mem_cons, List.not_mem_nil, or_false, Prod.mk.injEq] at hc
  obtain ⟨rfl, rfl⟩ | ⟨rfl, rfl⟩ | ⟨rfl, rfl⟩ := hc
  · show execFill g rec s = _
    rw [execFill, show s.sopBad g.val rec.toNat 4 = true from hbad]
    exact State.runSop_of_bad hst hop
  · show execCopy g rec s = _
    rw [execCopy, show s.sopBad g.val rec.toNat 4 = true from hbad]
    exact State.runSop_of_bad hst hop
  · show execHload g rec s = _
    rw [execHload, show s.sopBad g.val rec.toNat 1 = true from hbad]
    exact State.runSop_of_bad hst hop

/-- Settles O34: FILL, COPY and HLOAD are one write of the slabs and GATHER one fold of writes that lie apart in its destination;
then the record's tally advances. -/
theorem slabOperationRecordsWriteTheirDestination : Obligations.SlabOperationRecordsWriteTheirDestination := by
  refine fun g rec s hst => ⟨fun hop hok => ?fill, fun hop hok hsrc => ?copy, fun hop hok hnear hread => ?hload,
    fun i l hop hok hi hl hids => ?gather, fun op c hc hop hbad => ?bad⟩
  case fill =>
    obtain ⟨t, ht, hslab, hout, hruns⟩ := State.sopWrite_runs (s := s) g.isLt rec.toNat .refl
      (fillBytes_length (State.sopLen_of_sopBad hok))
    exact ⟨t, ht ▸ exec_fill_of_ok hst hop hok, hslab, hout, hruns.tally, hruns.mem, hruns.only⟩
  case copy =>
    obtain ⟨t, ht, hslab, hout, hruns⟩ := State.sopWrite_runs (s := s) g.isLt rec.toNat WheelFrame.refl.bump (mread_length ..)
    exact ⟨t, ht ▸ exec_copy_of_ok hst hop hok hsrc, hslab, hout, hruns.tally, hruns.mem, hruns.only⟩
  case hload =>
    obtain ⟨t, ht, hslab, hout, hruns⟩ := State.sopWrite_runs (s := s) g.isLt rec.toNat .refl (mread_length ..)
    exact ⟨t, ht ▸ exec_hload_of_ok hst hop hok hnear hread, hslab, hout, hruns.tally, hruns.mem, hruns.only⟩
  case gather =>
    have hfits : slabOff (sopDst rec.toNat) + 640 * l.nb * sopLen rec.toNat ≤ slabBytes := hl ▸ State.gatherBad_fits hok
    have hwork := s.gatherSteps_frame rec.toNat i l (gatherKeys (sopLen rec.toNat) l.nb)
    have hmem := s.gatherSteps_mem rec.toNat i l (gatherKeys (sopLen rec.toNat) l.nb)
    rw [← s.gatherOp_eq g.val rec.toNat i l hi hl] at hwork hmem
    have hruns := State.sopDone_runs g.isLt rec.toNat hwork (by rw [hmem])
    have hslab : ((s.gatherOp g.val rec.toNat).sopDone g.val rec.toNat).mem.slab = _ :=
      congrArg Memories.slab (((State.sopDone_frame _ g.isLt rec.toNat).mem_eq).trans hmem)
    refine ⟨_, exec_gather_of_ok hst hop hok (hl ▸ hids), fun k b bs hk hb hbs => ?_, ?_, hruns.tally, hruns.mem, hruns.only⟩
    · rw [hbs, State.slab, Memories.slabRead, hslab]
      exact State.gathered_block hfits (k := (k, b)) (mem_gatherKeys.2 ⟨hk, hb⟩)
    · rw [hslab]
      exact State.gathered_outside hfits
  case bad =>
    have hframe := s.sopReject_frame g.val rec.toNat
    exact ⟨_, exec_sop_of_bad hc hst hop hbad, hframe.mem_eq, hframe.only .tallies (by decide), s.sopReject_detects g.val rec.toNat,
      hframe.only⟩

end Sys2Proof.Machine

namespace Sys2Proof.Machine

/-! # Packets that carry glaze streams (O47) -/

/-! ## The packet that a handler takes (R359) -/

/-- The state without a packet that its handler has taken. -/
def State.without (s : State) (p : Packet) : State := s.onLat fun l => { l with consumed := l.consumed.erase p }

theorem State.takeWhere_eq {s u : State} {type : Nat} {ok : Packet → Bool} {p : Packet} (h : s.takeWhere type ok = some (p, u)) :
    u = s.without p := by
  obtain ⟨q, -, hq⟩ := Option.map_eq_some_iff.1 h
  obtain ⟨rfl, rfl⟩ := Prod.mk.inj hq
  rfl

theorem State.handle_of_take {s u : State} {type : Nat} {ok : Packet → Bool} {p : Packet} {f : Packet → State → State}
    (h : s.takeWhere type ok = some (p, u)) : s.handle type ok f = .next (f p u) := by
  rw [State.handle, h]

theorem State.without_only (s : State) (p : Packet) : Only [.lat] s (s.without p) := s.onLat_only _

/-! ## Streams in a list -/

theorem State.onStream_stream {s : State} {sid : Nat} {t : Stream} (f : Stream → Stream) (h : s.stream? sid = some t)
    (hf : ∀ x, (f x).sid = x.sid) : (s.onStream sid f).stream? sid = some (f t) := by
  have hsid : t.sid = sid := by simpa using List.find?_some h
  have hsame : ((fun x : Stream => x.sid == sid) ∘ fun x => if x.sid = sid then f x else x) = fun x => x.sid == sid := by
    funext x
    by_cases hx : x.sid = sid <;> simp [hx, hf]
  show (s.lat.streams.map fun x => if x.sid = sid then f x else x).find? (fun x => x.sid == sid) = some (f t)
  rw [List.find?_map, hsame, show s.lat.streams.find? (fun x => x.sid == sid) = some t from h, Option.map_some, if_pos hsid]

/-! ## Sending a stream (R359) -/

theorem State.sendStream_sends (s : State) (o : OutStream) : Sends s (s.sendStream o) := by
  unfold State.sendStream
  split
  · exact .refl
  · next c _ =>
    refine (Sends.foldl (fun _ _ => State.sendPacket_sends ..) _ s).trans (Sends.foldl (fun u k => ?_) _ _)
    unfold State.sendBlock
    split
    · exact .refl
    · exact u.sendPacket_sends _

theorem State.startOut_cmpQ (s : State) (o : OutStream) : ((s.startOut o).glaze (dieOfAddr o.src)).cmpQ =
    (s.glaze (dieOfAddr o.src)).cmpQ ++ (List.range o.count).map fun k => (o.sid, k) := by
  rw [State.startOut, State.onGlaze_glaze, if_pos rfl]
  rfl

theorem State.startOut_glaze_of_ne (s : State) (o : OutStream) {k : Nat} (h : k ≠ dieOfAddr o.src) :
    (s.startOut o).glaze k = s.glaze k := by
  rw [State.startOut, State.onGlaze_glaze, if_neg h]
  rfl

theorem State.onOut_mem {s : State} {o : OutStream} (h : o ∈ s.lat.outs) (f : OutStream → OutStream) :
    f o ∈ (s.onOut o.sid f).lat.outs := List.mem_map.2 ⟨o, h, if_pos rfl⟩

theorem State.dropOut_outs (s : State) (sid : Nat) : ∀ q ∈ (s.dropOut sid).lat.outs, q.sid ≠ sid := fun q hq => by
  simpa using (List.mem_filter.1 hq).2

/-! ## What each handler does (R311, R326, R359, R361, R371) -/

section
variable {s u : State} {p : Packet}

theorem State.takeHeader_of_streamOf {t : Stream} (mig : Option Migrant) (h : u.streamOf p = some t) (hst : t.st = .header) :
    u.takeHeader mig p = u.onStream t.sid (·.enter p) := by
  simp only [State.takeHeader, h, hst, if_true]

theorem State.takeBlock_of_streamOf {t : Stream} (h : u.streamOf p = some t) (hk : p.arg 16 < t.table.length) :
    u.takeBlock p = (u.onStream t.sid fun y => { y with waiting := y.waiting.filter fun w => w.1 != p.arg 16 }).onGlaze
      (u.streamDie t (p.arg 16)) fun e => { e with expQ := e.expQ ++ [(t.sid, p.arg 16, p.payload)] } := by
  simp only [State.takeBlock, h, if_neg (Nat.not_le.2 hk)]

theorem exec_blkReq_of_outFor {o : OutStream} (htake : s.takeWhere 0x12 (fun _ => true) = some (p, u)) (h : u.outFor p = some o)
    (hk : p.arg 16 < o.count) : exec .blkReq s =
      .next (u.onGlaze (dieOfAddr o.src) fun e => { e with cmpQ := e.cmpQ ++ [(o.sid, p.arg 16)] }) := by
  refine (State.handle_of_take htake).trans ?_
  simp only [h, if_neg (Nat.not_le.2 hk)]

theorem exec_streamReq_of_find {o : OutStream} (htake : s.takeWhere 0x13 (fun _ => true) = some (p, u))
    (h : u.lat.outs.find? (fun o => o.peer == .lattice p.src && o.kind == p.arg 16 && o.ctxA == p.arg 20 && o.ctxB == p.arg 24 &&
      o.slice == p.slice) = some o) : exec .streamReq s =
    .next (if o.ready then (u.onOut o.sid fun _ => { o with rsp := true, xid := p.xid }).sendStream { o with rsp := true, xid := p.xid }
      else u.onOut o.sid fun _ => { o with rsp := true, xid := p.xid }) := by
  refine (State.handle_of_take htake).trans ?_
  simp only [h]
  rfl

/-- The stream that answers a CHUNK_REQ (R311). -/
def State.chunkStream (u : State) (p : Packet) (g : Nat) (i : LoadedImage) : OutStream :=
  { sid := u.lat.nextXid, peer := .lattice p.src, xid := p.xid, kind := 4, sagger := g, ctxA := p.arg 16, ctxB := i.index
    src := i.byteAddr (p.arg 16 * 65536), len := i.info.chunkLen (p.arg 16), rsp := true }

theorem exec_chunkReq_of_held {g : Nat} {i : LoadedImage} (htake : s.takeWhere 0x14 (fun _ => true) = some (p, u))
    (h : u.imageByDigest (p.arg 20 + 2 ^ 32 * p.arg 24) = some (g, i)) (hk : p.arg 16 < i.info.chunks)
    (hgood : u.chunkIsPoisoned (i.byteAddr (p.arg 16 * 65536)) = false) :
    exec .chunkReq s = .next (u.newSid.2.startOut (u.chunkStream p g i)) := by
  refine (State.handle_of_take htake).trans ?_
  simp only [h, hgood, decide_eq_false (Nat.not_le.2 hk), Bool.or_false, Bool.false_eq_true, if_false]
  rfl

theorem exec_streamEnd_of_outFor {o : OutStream} (htake : s.takeWhere 0x15 (fun _ => true) = some (p, u)) (h : u.outFor p = some o)
    (hmove : u.moveOf o.sid = none) : exec .streamEnd s =
    .next (if o.kind = 5 ∧ p.arg 16 = 0 ∧ ((u.slice? o.slice).any fun x => x.parent u.kiln u.own == some p.src) = true
      then (u.dropOut o.sid).zeroHbm o.src o.len else u.dropOut o.sid) := by
  refine (State.handle_of_take htake).trans ?_
  simp only [h, hmove]

theorem exec_unreachable_of_find {o : OutStream} (htake : s.takeWhere 0x20 (fun _ => true) = some (p, u))
    (hnone : u.lat.streams.find? (fun t => t.xid == p.xid && !t.pushed) = none)
    (h : u.lat.outs.find? (fun o => o.xid == p.xid && !o.rsp) = some o) (hmove : u.moveOf o.sid = none) :
    exec .unreachable s = .next (u.dropOut o.sid) := by
  refine (State.handle_of_take htake).trans ?_
  simp only [hnone, h, hmove]

end

/-! ## The statement -/

/-- Settles O47: each handler is one change of the lattice state that the packet names, and of a queue or a region; a stream that
is sent changes no more of the lattice state. The region is zeroed as log entry 133 chooses. -/
theorem streamPacketsReachTheirStreams : Obligations.StreamPacketsReachTheirStreams := by
  refine ⟨fun mig s u p t htake hof ht hst => ?hdr, fun s u p t d htake hof hk hd => ?blk, fun s u p o htake ho hk => ?again,
    fun s u p o htake ho => ?req, fun s u p g i a htake hi hk ha hgood => ?chunk, fun s u p o up htake ho hmove hup => ?end_,
    fun s u p o htake hnone ho hmove => ?drop⟩
  all_goals have hu := State.takeWhere_eq htake
  case hdr =>
    have hexec : exec (.streamHdr mig) s = _ :=
      (State.handle_of_take htake).trans (congrArg Host.Outcome.next (State.takeHeader_of_streamOf mig hof hst))
    exact ⟨_, hexec, State.onStream_stream _ ht fun _ => rfl, (hu ▸ s.without_only p).trans (u.onLat_only _)⟩
  case blk =>
    have hexec : exec .streamBlk s = _ :=
      (State.handle_of_take htake).trans (congrArg Host.Outcome.next (State.takeBlock_of_streamOf hof hk))
    subst hd
    refine ⟨_, hexec, ?_, ?_, fun k hne => ?_⟩
    · rw [State.onGlaze_glaze, if_pos rfl, hu]
      rfl
    · rw [hu]
      exact (WheelFrame.refl (ws := []) (gs := [])).onLat.onLat.onGlaze.only
    · rw [State.onGlaze_glaze, if_neg (by simpa using hne), hu]
      rfl
  case again =>
    subst hu
    refine ⟨_, exec_blkReq_of_outFor htake ho hk, ?_, rfl, (WheelFrame.refl (ws := []) (gs := [])).onLat.onGlaze.only, fun k hne => ?_⟩
    · rw [State.onGlaze_glaze, if_pos rfl]
      rfl
    · rw [State.onGlaze_glaze, if_neg (by simpa using hne)]
      rfl
  case req =>
    have hmem := State.onOut_mem (List.mem_of_find?_eq_some ho) fun _ => { o with rsp := true, xid := p.xid }
    have hsame : Only [.lat] s (u.onOut o.sid fun _ => { o with rsp := true, xid := p.xid }) :=
      (hu ▸ s.without_only p).trans (u.onLat_only _)
    have hstreams : (u.onOut o.sid fun _ => { o with rsp := true, xid := p.xid }).lat.streams = s.lat.streams := hu ▸ rfl
    refine ⟨_, exec_streamReq_of_find htake ho, ?_⟩
    by_cases hready : o.ready = true
    · have hsends := (u.onOut o.sid fun _ => { o with rsp := true, xid := p.xid }).sendStream_sends { o with rsp := true, xid := p.xid }
      rw [if_pos hready]
      exact ⟨hsends.outs_eq ▸ hmem, hsends.streams_eq.trans hstreams, (hsame.mono (by decide)).trans hsends.frame.only,
        fun hno => absurd hready (by simp [hno])⟩
    · rw [if_neg hready]
      exact ⟨hmem, hstreams, hsame.mono (by decide), fun _ => hsame⟩
  case chunk =>
    subst hu ha
    refine ⟨_, _, exec_chunkReq_of_held htake hi hk hgood, rfl, rfl, rfl, rfl, rfl, rfl, rfl, ?_,
      (WheelFrame.refl (ws := []) (gs := [])).onLat.onLat.onLat.onGlaze.only, fun k hne => ?_⟩
    · exact State.startOut_cmpQ ..
    · exact State.startOut_glaze_of_ne _ _ fun h => hne (List.mem_singleton.2 h)
  case end_ =>
    subst hu hup
    refine ⟨_, exec_streamEnd_of_outFor htake ho hmove, ?_⟩
    split
    next hzero =>
      refine ⟨State.dropOut_outs _ _, (WheelFrame.refl (ws := []) (gs := [])).onLat.onLat.withMem.only,
        fun _ => ⟨fun x hx => ?_, fun x hx => ?_, rfl⟩,
        fun hno => absurd hzero hno⟩
      · exact (mget_mclear ..).trans (if_pos (by omega))
      · exact (mget_mclear ..).trans (if_neg (by omega))
    next hkeep =>
      exact ⟨State.dropOut_outs _ _, ((s.without_only p).trans (State.onLat_only _ _)).mono (by decide), fun hzero => absurd hzero hkeep,
        fun _ => rfl⟩
  case drop =>
    exact ⟨_, exec_unreachable_of_find htake hnone ho hmove, State.dropOut_outs _ _, (hu ▸ s.without_only p).trans (u.onLat_only _)⟩

end Sys2Proof.Machine

namespace Sys2Proof.Machine

/-! # Poisoned chunks and their reload (O38) -/

/-! ## Damage and the request to a source (R311, R312) -/

theorem damage_harmless (g a : Nat) :
    FaultRec.Harmless { code := faultCode 3 0 0xA8, sagger := sgField g, level := 7, unit := 13, addr := a } := .inl rfl

theorem State.damageChunk_only (s : State) (a : Nat) : Only [.saggers, .flog] s (s.damageChunk a) :=
  List.foldlRecOn (motive := fun u => Only [.saggers, .flog] s u) _ _ (.refl _ s) fun u hu x _ => by
    rw [State.raise_of_harmless _ (damage_harmless ..)]
    exact (hu.trans ((u.onSagger_only _ _).widen (by decide))).trans ((State.onFlog_only _ _).widen (by decide))

/-- From `s` to `t` a source has been asked: a packet may have been sent, and a stream is expected. -/
structure AsksChunk (s t : State) : Prop where
  frame : WheelFrame [.lat, .ports, .regs] [] [] s t
  reg   : ∀ r u, r ∉ [Reg.latFwdBytes, .latDetour, .latDrop] → t.reg r u = s.reg r u

theorem State.askChunk_asks (s : State) (a : Nat) (sources : List Nat) : AsksChunk s (s.askChunk a sources) := by
  unfold State.askChunk
  split
  · split
    · exact ⟨.refl, fun _ _ _ => rfl⟩
    · have hsends (u : State) (p : Packet) := u.sendPacket_sends p
      exact ⟨WheelFrame.refl.onLat.trans (hsends _ _).frame, fun r u hr => (hsends _ _).reg r u hr⟩
  · exact ⟨.refl, fun _ _ _ => rfl⟩

/-! ## The table of a die (R310) -/

theorem State.poisonOf_of_only {ps : List Field} {s t : State} (h : Only ps s t) (a : Nat) (hp : .poison ∉ ps := by decide) :
    t.poisonOf a = s.poisonOf a := by
  have hp : t.poison = s.poison := h .poison hp
  simp only [State.poisonOf, State.poisons, hp]

theorem State.poisonOf_chunk {s : State} {a : Nat} {p : Poison} (h : s.poisonOf a = some p) : p.chunk = a / 65536 := by
  simpa using List.find?_some h

theorem State.onChunk_poisonOf {s : State} {a : Nat} {p : Poison} {f : Poison → Poison} (h : s.poisonOf a = some p)
    (hf : ∀ x, (f x).chunk = x.chunk) : (s.onChunk a f).poisonOf a = some (f p) := by
  have hsame : ((fun x : Poison => x.chunk == a / 65536) ∘ fun x => if x.chunk = a / 65536 then f x else x) =
      fun x => x.chunk == a / 65536 := by
    funext x
    by_cases hx : x.chunk = a / 65536 <;> simp [hx, hf]
  have hfind : (s.poisons (dieOfAddr a)).find? (fun x => x.chunk == a / 65536) = some p := h
  rw [State.poisonOf, State.onChunk, State.onPoison_poisons, if_pos rfl, List.find?_map, hsame, hfind, Option.map_some,
    if_pos (State.poisonOf_chunk h)]

theorem State.poisonChunk_eq {s : State} {a : Nat} {x : Nat × LoadedImage} (himg : (s.imagesAt a).head? = some x)
    (hnew : s.chunkIsPoisoned a = false) (hroom : (s.poisons (dieOfAddr a)).length < 4096) :
    s.poisonChunk a = ((s.onPoison (dieOfAddr a) fun l =>
      l ++ [{ chunk := a / 65536, sources := s.reloadSources x.2, since := s.refNow }]).raise
        { code := faultCode 1 0 0xA6, sagger := 15, unit := 13, addr := a / 65536 * 65536 }).askChunk a (s.reloadSources x.2) := by
  simp only [State.poisonChunk, himg, hnew, Bool.false_eq_true, if_false, if_neg (Nat.not_le.2 hroom)]

theorem poisoned_harmless (a : Nat) : FaultRec.Harmless { code := faultCode 1 0 0xA6, sagger := 15, unit := 13, addr := a } :=
  .inr (.inl (show codeClass (faultCode 1 0 0xA6) = 1 by decide))

/-! ## The next source (R311) -/

section
variable {s : State} {a : Nat} {p : Poison} (h : s.poisonOf a = some p)
include h

/-- The entry of a chunk when its reload moves to the next source. -/
theorem State.nextSource_poisonOf : (s.nextSource a).poisonOf a =
    some { p with sources := p.sources.drop 1, since := s.refNow, failed := (p.sources.drop 1).isEmpty } := by
  have hmoved : ((s.dropReload a).onChunk a fun x => { x with
      sources := p.sources.drop 1, since := s.refNow, failed := (p.sources.drop 1).isEmpty }).poisonOf a = some _ :=
    State.onChunk_poisonOf (s := s.dropReload a) h fun _ => rfl
  simp only [State.nextSource, h]
  split
  · rw [State.poisonOf_of_only (State.bump_only_regs _ _ _ _), State.poisonOf_of_only (State.damageChunk_only _ _), hmoved]
  · rw [State.poisonOf_of_only (State.askChunk_asks ..).frame.only, hmoved]

theorem State.nextSource_mem : (s.nextSource a).mem = s.mem := by
  simp only [State.nextSource, h]
  split
  · exact State.damageChunk_only _ a .mem (by decide)
  · exact (State.askChunk_asks ..).frame.mem_eq

end

/-! ## CHUNK_RELOAD (R311) -/

/-- A source has returned its bytes: a read of the own store is counted. -/
def State.reloadRead (s : State) (own : Bool) : State := if own then s.bump .mstReadBytes 0 65536 else s

theorem State.reloadRead_frame (s : State) (own : Bool) : WheelFrame [.regs] [] [] s (s.reloadRead own) :=
  .ite WheelFrame.refl.bump .refl

/-- A good chunk is written and its stream dropped. -/
def State.chunkStored (s : State) (a : Nat) (own : Bool) (data : List Byte) : State :=
  ((((s.reloadRead own).putHbm (a / 65536 * 65536) data).bump .hbmWrBytes (stackOfAddr a) data.length).bump .glzOutBytes (dieOfAddr a)
    (if own then 0 else data.length)).dropReload a

/-- A good chunk is written and leaves its table. -/
def State.chunkReloaded (s : State) (a : Nat) (own : Bool) (data : List Byte) : State :=
  ((s.chunkStored a own data).onPoison (dieOfAddr a) fun l => l.filter fun x => x.chunk != a / 65536).bump
    (if own then .mstReloadStore else .mstReloadPeer) 0 1

theorem State.chunkReloaded_frame (s : State) (a : Nat) (own : Bool) (data : List Byte) :
    WheelFrame [.mem, .poison, .lat, .regs] [] [] s (s.chunkReloaded a own data) :=
  ((s.reloadRead_frame own).mono (by decide) (List.Subset.refl _)).withMem.bump.bump.onLat.onPoison.bump

theorem State.chunkReloaded_mem (s : State) (a : Nat) (own : Bool) (data : List Byte) :
    (s.chunkReloaded a own data).mem = { s.mem with hbm := mwrite s.mem.hbm (a / 65536 * 65536) data } :=
  congrArg (fun m : Memories => { m with hbm := mwrite m.hbm (a / 65536 * 65536) data }) (s.reloadRead_frame own).mem_eq

/-- No entry of the chunk is left in the table. -/
theorem State.chunkReloaded_poisons (s : State) (a : Nat) (own : Bool) (data : List Byte) :
    ∀ q ∈ (s.chunkReloaded a own data).poisons (dieOfAddr a), q.chunk ≠ a / 65536 := by
  intro q hq
  rw [State.chunkReloaded, State.bump_poisons, State.onPoison_poisons, if_pos rfl, List.mem_filter] at hq
  simpa using hq.2

section
variable {s : State} {a : BitVec 41} {p : Poison} {g : Nat} {i : LoadedImage} {data : List Byte}
  (hp : s.poisonOf a.toNat = some p) (himg : (s.imagesAt a.toNat).head? = some (g, i))
  (hdata : s.returned p i ((i.chunkAt a.toNat).getD 0) a.toNat = some data)
include hp himg hdata

theorem exec_chunkReload_of_good (hne : data ≠ [])
    (hgood : digest256 data = i.info.digests.getD ((i.chunkAt a.toNat).getD 0) 0) :
    exec (.chunkReload a) s = .next (s.chunkReloaded a.toNat (p.sources.head? == some 7) data) := by
  show execChunkReload a s = _
  simp only [execChunkReload, hp, himg, hdata]
  rw [if_neg (by simp [hne, hgood])]
  rfl

theorem exec_chunkReload_of_bad (hbad : digest256 data ≠ i.info.digests.getD ((i.chunkAt a.toNat).getD 0) 0) :
    exec (.chunkReload a) s = .next ((s.reloadRead (p.sources.head? == some 7)).nextSource a.toNat) := by
  show execChunkReload a s = _
  simp only [execChunkReload, hp, himg, hdata]
  rw [if_pos (by rw [bne_iff_ne.2 hbad, Bool.or_true])]
  rfl

end

theorem exec_reloadSourceTimeout_of_late {s : State} {a : BitVec 41} {p : Poison} {k : Nat} (hp : s.poisonOf a.toNat = some p)
    (hk : p.sources.head? = some k) (hlate : p.since + sourceBound k ≤ s.refNow) :
    exec (.reloadSourceTimeout a) s = .next (s.nextSource a.toNat) := by
  show execReloadSourceTimeout a s = _
  simp only [execReloadSourceTimeout, hp]
  exact State.when_true _ _ (by simp [hk, hlate])

/-- Settles O38: an entry is one addition to a table and one record, and asking a source changes neither; a reload is one write,
or one move to the next source, which keeps every entry's chunk. -/
theorem poisonedChunksAreReloaded : Obligations.PoisonedChunksAreReloaded := by
  refine ⟨fun a s x himg hnew hroom => ?poison, fun a s p g i data hp himg hdata => ⟨fun hne hgood => ?good, fun hbad => ?bad⟩,
    fun a s p k hp hk hlate => ?late⟩
  case poison =>
    have hasks (u : State) := (u.askChunk_asks a.toNat (s.reloadSources x.2)).frame
    have hexec : exec (.chunkPoison a) s = .next (s.poisonChunk a.toNat) := rfl
    rw [State.poisonChunk_eq himg hnew hroom, State.raise_of_harmless _ (poisoned_harmless _)] at hexec
    refine ⟨_, hexec, ?_, ?_, ?_⟩
    · rw [(hasks _).poisons_eq, State.onFlog_poisons, State.onPoison_poisons, if_pos rfl]
    · rw [← State.raise_of_harmless _ (poisoned_harmless _)]
      exact (State.detects_raise _ _).of_flog_eq rfl (hasks _).flog_eq
    · exact (WheelFrame.refl.onPoison.onFlog.trans ((hasks _).mono (by decide) (List.Subset.refl _))).only
  case good =>
    have hmem := s.chunkReloaded_mem a.toNat (p.sources.head? == some 7) data
    refine ⟨_, exec_chunkReload_of_good hp himg hdata hne hgood, ?_, fun x hx => ?_, ?_, s.chunkReloaded_poisons a.toNat _ data,
      (State.chunkReloaded_frame ..).only⟩
    · rw [State.hbm, hmem]
      exact mread_mwrite ..
    · rw [hmem]
      exact mget_mwrite_of_outside _ _ _ _ hx
    · rw [hmem]
  case bad =>
    have hread := s.reloadRead_frame (p.sources.head? == some 7)
    have hp' : (s.reloadRead (p.sources.head? == some 7)).poisonOf a.toNat = some p := (State.poisonOf_of_only hread.only _).trans hp
    exact ⟨_, _, exec_chunkReload_of_bad hp himg hdata hbad, (State.nextSource_mem hp').trans hread.mem_eq,
      State.nextSource_poisonOf hp', rfl⟩
  case late =>
    exact ⟨_, _, exec_reloadSourceTimeout_of_late hp hk hlate, State.nextSource_mem hp, State.nextSource_poisonOf hp, rfl, rfl⟩

end Sys2Proof.Machine

namespace Sys2Proof.Machine

/-! # Loads of the ware boards (O35) -/

/-! ## Tracking units (R286 to R290) -/

/-- Entries changed one after another, from `a` on. -/
theorem tget_foldl_tmod_range {α : Type} (d : α) (t : Tab α) (a n : Nat) (f : Nat → α → α) (j : Nat) :
    tget d ((List.range n).foldl (fun t k => tmod d t (a + k) (f k)) t) j =
      if a ≤ j ∧ j < a + n then f (j - a) (tget d t j) else tget d t j := by
  induction n with
  | zero => simp
  | succ n ih =>
    rw [List.range_succ, List.foldl_append, List.foldl_cons, List.foldl_nil, tget_tmod]
    by_cases hj : j = a + n
    · subst hj
      rw [ih, if_pos rfl, if_neg (by omega), if_pos (by omega), Nat.add_sub_cancel_left]
    · rw [if_neg hj, ih]
      exact if_congr (by omega) rfl rfl

/-- Tracking unit `u` of die `d`. -/
def State.wareUnit (s : State) (d u : Nat) : WareUnit := tget {} (s.ware d).units u

theorem State.onWare_unit {s : State} {d : Nat} {f : Ware → Ware} (h : (f (s.ware d)).units = (s.ware d).units) (u : Nat) :
    (s.onWare d f).wareUnit d u = s.wareUnit d u := by
  rw [State.wareUnit, State.onWare_ware, if_pos rfl, h]
  rfl

/-- The units of a load changed one after another. -/
def State.onUnits (s : State) (d a n : Nat) (f : Nat → WareUnit → WareUnit) : State :=
  (List.range n).foldl (fun s k => s.onUnit d (a + k) (f k)) s

theorem State.onUnits_ware (s : State) (d a n : Nat) (f : Nat → WareUnit → WareUnit) : (s.onUnits d a n f).ware d =
    { s.ware d with units := (List.range n).foldl (fun t k => tmod {} t (a + k) (f k)) (s.ware d).units } := by
  unfold State.onUnits
  induction n with
  | zero => rfl
  | succ n ih =>
    rw [List.range_succ, List.foldl_append, List.foldl_cons, List.foldl_nil, List.foldl_append, State.onUnit, State.onWare_ware,
      if_pos rfl, ih]
    rfl

theorem State.onUnits_unit (s : State) (d a n : Nat) (f : Nat → WareUnit → WareUnit) (u : Nat) : (s.onUnits d a n f).wareUnit d u =
    if a ≤ u ∧ u < a + n then f (u - a) (s.wareUnit d u) else s.wareUnit d u := by
  rw [State.wareUnit, State.onUnits_ware]
  exact tget_foldl_tmod_range ..

/-! ## What changes one ware board (R285) -/

/-- From `s` to `t` only the ware board of die `d` has changed, besides the other parts of `ps`. -/
structure WareFrame (ps : List Field) (gs : List Nat) (d : Nat) (s t : State) : Prop where
  frame  : WheelFrame ps [] gs s t
  others : Others State.ware [d] s t

namespace WareFrame

variable {ps : List Field} {gs : List Nat} {d : Nat} {s t u : State}

theorem of_frame (h : WheelFrame ps [] gs s t) (hp : .wares ∉ ps := by decide) : WareFrame ps gs d s t :=
  ⟨h, fun k _ => h.ware_eq k hp⟩

theorem trans (h : WareFrame ps gs d s t) (h' : WareFrame ps gs d t u) : WareFrame ps gs d s u :=
  ⟨h.frame.trans h'.frame, h.others.trans h'.others⟩

theorem mono {ps' : List Field} {gs' : List Nat} (h : WareFrame ps gs d s t) (hp : ps ⊆ ps' := by decide)
    (hg : gs ⊆ gs' := by simp) : WareFrame ps' gs' d s t := ⟨h.frame.mono hp hg, h.others⟩

theorem refl : WareFrame ps gs d s s := ⟨.refl, fun _ _ => rfl⟩

theorem onWare {f : Ware → Ware} (h : WareFrame ps gs d s t) (hp : .wares ∈ ps := by decide) : WareFrame ps gs d s (t.onWare d f) := by
  refine h.trans ⟨WheelFrame.refl.onWare hp, fun k hk => ?_⟩
  rw [State.onWare_ware, if_neg fun he => hk (List.mem_singleton.2 he)]

theorem foldl {α : Type} {f : State → α → State} (hf : ∀ u x, WareFrame ps gs d s u → WareFrame ps gs d s (f u x)) (xs : List α)
    (h : WareFrame ps gs d s t) : WareFrame ps gs d s (xs.foldl f t) := List.foldlRecOn xs f h fun u hu x _ => hf u x hu

end WareFrame

/-! ## Acceptance (R290, R291) -/

section
variable (s : State) (d : Nat) (l : Load)

theorem State.acceptLoad_eq : s.acceptLoad d l = (s.onWare d fun w => { w with
    queue := w.queue ++ [{ l with num := (s.ware d).next, since := s.refNow }], next := (s.ware d).next + 1 }).onUnits d l.dst l.len
      fun _ x => { x with arm := (s.ware d).next } := by
  rw [State.acceptLoad, Load.units, List.foldl_map]
  rfl

theorem State.acceptLoad_frame : WareFrame [.wares] [] d s (s.acceptLoad d l) := .foldl (fun _ _ hu => hu.onWare) _ (WareFrame.refl.onWare)

theorem State.acceptLoad_queue : ((s.acceptLoad d l).ware d).queue =
    (s.ware d).queue ++ [{ l with num := (s.ware d).next, since := s.refNow }] := by
  rw [State.acceptLoad_eq, State.onUnits_ware, State.onWare_ware, if_pos rfl]

theorem State.acceptLoad_next : ((s.acceptLoad d l).ware d).next = (s.ware d).next + 1 := by
  rw [State.acceptLoad_eq, State.onUnits_ware, State.onWare_ware, if_pos rfl]

theorem State.acceptLoad_unit (u : Nat) : (s.acceptLoad d l).wareUnit d u =
    if l.dst ≤ u ∧ u < l.dst + l.len then { s.wareUnit d u with arm := (s.ware d).next } else s.wareUnit d u := by
  rw [State.acceptLoad_eq, State.onUnits_unit, State.onWare_unit]
  rfl

theorem State.askLoad_frame : WheelFrame [.lute, .regs] [] [] s (s.askLoad d l) :=
  .ite (.foldl (fun _ _ hu => hu.onLute.onLute.bump) _ .refl) .refl

theorem State.admitWaiting_frame : WareFrame [.wares] [] d s (s.admitWaiting d) :=
  .foldl (fun u m hu => hu.trans (u.acceptLoad_frame d m)) _ WareFrame.refl.onWare

/-- Loads that are accepted arm units and change nothing else of them. -/
theorem State.admitWaiting_unit (u : Nat) : ∃ n, (s.admitWaiting d).wareUnit d u = { s.wareUnit d u with arm := n } := by
  refine List.foldlRecOn (motive := fun t : State => ∃ n, t.wareUnit d u = { s.wareUnit d u with arm := n }) _ _ ?_
    fun t ⟨n, ht⟩ m _ => ?_
  · exact ⟨(s.wareUnit d u).arm, State.onWare_unit (by rfl) u⟩
  · rw [State.acceptLoad_unit, ht]
    split
    · exact ⟨_, rfl⟩
    · exact ⟨n, rfl⟩

end

/-! ## LOAD (R291, R292) -/

/-- A load is accepted, and its data asked for when it lies across the lute. -/
def State.loadAccepted (s : State) (g d : Nat) (l : Load) : State := ((s.askLoad d l).acceptLoad d l).touch g

theorem exec_load_of_legal {g : SaggerIx} {rec : BitVec 256} {s : State} {d : Nat} {l : Load} (hl : (d, l) = loadOf rec.toNat g.val)
    (h : s.loadBad g.val rec.toNat = false) :
    exec (.load g rec) s = s.when ((s.ware d).queue.length < 4096) (s.loadAccepted g.val d l) := by
  show execLoad g rec s = _
  simp only [execLoad, h, ← hl]
  rfl

theorem exec_load_of_bad {g : SaggerIx} {rec : BitVec 256} {s : State} {d : Nat} {l : Load} (hl : (d, l) = loadOf rec.toNat g.val)
    (h : s.loadBad g.val rec.toNat = true) :
    exec (.load g rec) s = .next ((s.haltList g.val).faultRec 3 8 0xA1 g.val d 0 0 (leBytes rec.toNat 32)) := by
  show execLoad g rec s = _
  simp only [execLoad, h, ← hl]
  rfl

theorem State.loadAccepted_frame (s : State) (g d : Nat) (l : Load) :
    WareFrame [.wares, .saggers, .lute, .regs] [g] d s (s.loadAccepted g d l) := by
  have hasked : WareFrame [.wares, .saggers, .lute, .regs] [g] d s (s.askLoad d l) := (WareFrame.of_frame (s.askLoad_frame d l)).mono
  refine (hasked.trans ((State.acceptLoad_frame _ d l).mono)).trans ⟨WheelFrame.refl.touch, fun _ _ => rfl⟩

/-! ## LOAD_LAND (R288, R290, R301) -/

section
variable (s : State) (d : Nat) (l : Load) (data : List Byte)

/-- The load's data is written, and its pieces are forgotten. -/
def State.loadStored : State :=
  (s.onWareMem fun m => mwrite m (d * 2 ^ 26 + l.dst * 1024) data).onLute fun x =>
    { x with got := x.got.filter fun y => !(y.1 == d && y.2.1 == l.num) }

/-- The units of the load take its number, and it leaves the queue. -/
def State.loadMarked : State :=
  ((s.loadStored d l data).onUnits d l.dst l.len fun k x =>
    { x with land := l.num, poison := (s.poisonedUnits l).contains k, src := some ((l.src + k) * 1024) }).onWare d fun w =>
      { w with queue := w.queue.filter fun m => m.num != l.num }

/-- The queue takes the loads that waited for room. -/
def State.loadNumbered : State := (s.loadMarked d l data).admitWaiting d

/-- A landed load is counted. -/
def State.loadCounted : State :=
  ((((s.loadNumbered d l data).bump .wbdLoadBytes d (l.len * 1024)).bump .wbdPoisonUnits d (s.poisonedUnits l).length).bump .hbmRdBytes
    (stackOfAddr (l.src * 1024)) (l.len * 1024)).touch l.sagger

theorem State.landLoad_eq : s.landLoad d l data = if l.tally < 4096
    then (s.loadCounted d l data).advance l.sagger l.tally (agentId 8 d 0) else s.loadCounted d l data := rfl

theorem State.loadStored_frame : WheelFrame [.mem, .lute] [] [] s (s.loadStored d l data) := WheelFrame.refl.withMem.onLute

theorem State.loadNumbered_frame : WareFrame [.mem, .wares, .lute] [] d s (s.loadNumbered d l data) := by
  have hstored : WareFrame [.mem, .wares, .lute] [] d s (s.loadStored d l data) := (WareFrame.of_frame (s.loadStored_frame d l data)).mono
  exact (WareFrame.onWare (.foldl (fun _ _ hu => hu.onWare) _ hstored)).trans ((State.admitWaiting_frame _ d).mono)

theorem State.loadCounted_frame : WheelFrame [.saggers, .regs] [] [l.sagger] (s.loadNumbered d l data) (s.loadCounted d l data) :=
  WheelFrame.refl.bump.bump.bump.touch

theorem State.loadStored_mem : (s.loadStored d l data).mem =
    { s.mem with ware := mwrite s.mem.ware (d * 2 ^ 26 + l.dst * 1024) data } := (rfl)

theorem State.loadNumbered_mem : (s.loadNumbered d l data).mem = (s.loadStored d l data).mem :=
  (State.admitWaiting_frame _ d).frame.mem_eq.trans
    (WareFrame.foldl (ps := [.wares]) (gs := []) (d := d) (fun _ _ hu => hu.onWare) (List.range l.len) .refl).frame.mem_eq

theorem State.loadMarked_unit (u : Nat) : (s.loadMarked d l data).wareUnit d u =
    if l.dst ≤ u ∧ u < l.dst + l.len then { s.wareUnit d u with
      land := l.num, poison := (s.poisonedUnits l).contains (u - l.dst), src := some ((l.src + (u - l.dst)) * 1024) }
    else s.wareUnit d u :=
  (State.onWare_unit (by rfl) u).trans (State.onUnits_unit ..)

variable (hg : l.sagger < 12)
include hg

theorem State.landLoad_after : WheelFrame [.saggers, .tallies, .flog, .lute] [] [l.sagger] 
    (s.loadCounted d l data) (s.landLoad d l data) := by
  rw [State.landLoad_eq]
  split
  next ht => exact WheelFrame.refl.advance hg ht
  next => exact .refl

theorem State.landLoad_frame :
    WareFrame [.mem, .wares, .saggers, .tallies, .regs, .flog, .lute] [l.sagger] d s (s.landLoad d l data) := by
  exact ((s.loadNumbered_frame d l data).mono.trans (WareFrame.of_frame (s.loadCounted_frame d l data)).mono).trans
    (WareFrame.of_frame (s.landLoad_after d l data hg)).mono

theorem State.landLoad_mem : (s.landLoad d l data).mem =
    { s.mem with ware := mwrite s.mem.ware (d * 2 ^ 26 + l.dst * 1024) data } := by
  rw [(s.landLoad_after d l data hg).mem_eq, (s.loadCounted_frame d l data).mem_eq, s.loadNumbered_mem, s.loadStored_mem]

theorem State.landLoad_unit (u : Nat) : (s.landLoad d l data).wareUnit d u = (s.loadNumbered d l data).wareUnit d u := by
  rw [State.wareUnit, (s.landLoad_after d l data hg).ware_eq, (s.loadCounted_frame d l data).ware_eq, State.wareUnit]

/-- A unit of the load has its number, and is poisoned when its source chunk is. -/
theorem State.landLoad_unit_of_lt {k : Nat} (hk : k < l.len) : ((s.landLoad d l data).wareUnit d (l.dst + k)).land = l.num ∧
    ((s.landLoad d l data).wareUnit d (l.dst + k)).poison = s.chunkIsPoisoned ((l.src + k) * 1024) := by
  obtain ⟨n, hn⟩ := (s.loadMarked d l data).admitWaiting_unit d (l.dst + k)
  rw [s.landLoad_unit d l data hg, State.loadNumbered, hn, State.loadMarked_unit, if_pos (by omega), Nat.add_sub_cancel_left]
  refine ⟨rfl, ?_⟩
  rw [Bool.eq_iff_iff]
  simp [State.poisonedUnits, hk]

theorem State.landLoad_unit_of_outside {u : Nat} (hu : u < l.dst ∨ l.dst + l.len ≤ u) :
    ((s.landLoad d l data).wareUnit d u).land = (s.wareUnit d u).land := by
  obtain ⟨n, hn⟩ := (s.loadMarked d l data).admitWaiting_unit d u
  rw [s.landLoad_unit d l data hg, State.loadNumbered, hn, State.loadMarked_unit, if_neg (by omega)]

/-- A landing counts nothing but loads and the bytes read for them. -/
theorem State.landLoad_reg {r : Reg} (u : Nat) (h : r ∉ [Reg.wbdLoadBytes, .wbdPoisonUnits, .hbmRdBytes]) :
    (s.landLoad d l data).reg r u = s.reg r u := by
  simp only [List.mem_cons, List.not_mem_nil, or_false, not_or] at h
  obtain ⟨hbytes, hpoison, hread⟩ := h
  have htouch (t : State) : (t.touch l.sagger).reg r u = t.reg r u := rfl
  rw [(s.landLoad_after d l data hg).reg_eq, State.loadCounted, htouch, State.reg_bump_of_ne _ _ _ _ hread,
    State.reg_bump_of_ne _ _ _ _ hpoison, State.reg_bump_of_ne _ _ _ _ hbytes, (s.loadNumbered_frame d l data).frame.reg_eq]

end

/-! ## Errors of the read of a load (R301, R302) -/

section
variable (s : State) (g a : Nat)

theorem hbmCorrected_harmless (unit sub : Nat) : FaultRec.Harmless { code := faultCode 1 9 0xAA, unit := unit, subunit := sub } :=
  .inr (.inl (show codeClass (faultCode 1 9 0xAA) = 1 by decide))

theorem State.hbmCorrected_hbmCe : (s.hbmCorrected a).reg .hbmCe (stackOfAddr a) = min (s.reg .hbmCe (stackOfAddr a) + 1) (2 ^ 32 - 1) := by
  have hlog (u : State) := (WheelFrame.refl (ps := [.flog]) (ws := []) (gs := []) (s := u)).raiseLimited
    (gap := msNs) (sub := 0) (hbmCorrected_harmless (stackOfAddr a) (s.pchOf a))
  rw [State.hbmCorrected, (hlog _).reg_eq, State.reg_bump_same]
  rfl

theorem markPch_harmless (k p : Nat) : FaultRec.Harmless { code := faultCode 4 9 0xAD, sagger := sgField 15, unit := k, subunit := p } :=
  .inr (.inr (show codeClass (faultCode 4 9 0xAD) = 4 by decide))

theorem State.hbmCount_hbmUe : (s.hbmCount a).reg .hbmUe (stackOfAddr a) = min (s.reg .hbmUe (stackOfAddr a) + 1) (2 ^ 32 - 1) := by
  have hcount : (s.bump .hbmUe (stackOfAddr a) 1).reg .hbmUe (stackOfAddr a) = _ := s.reg_bump_same ..
  unfold State.hbmCount
  dsimp only
  split
  · rw [State.fault, State.raise_of_harmless _ (markPch_harmless ..)]
    exact hcount
  · exact hcount

theorem State.poisonChunk_reg {r : Reg} (u : Nat) (h : r ∉ [Reg.latFwdBytes, .latDetour, .latDrop]) :
    (s.poisonChunk a).reg r u = s.reg r u := by
  unfold State.poisonChunk
  split
  · rfl
  · dsimp only
    split
    · rfl
    · split
      · have hregs : (s.damageChunk a).regs = s.regs := s.damageChunk_only a .regs (by decide)
        rw [State.reg, hregs]
        rfl
      · rw [State.raise_of_harmless _ (poisoned_harmless _), (State.askChunk_asks ..).reg r u h]
        rfl

theorem State.hbmLost_weight_hbmUe :
    (s.hbmLost g a .weight).reg .hbmUe (stackOfAddr a) = min (s.reg .hbmUe (stackOfAddr a) + 1) (2 ^ 32 - 1) :=
  ((s.hbmCount a).poisonChunk_reg a _ (by decide)).trans (s.hbmCount_hbmUe a)

end

section
variable {d : DieIx} {num : BitVec 16} {s : State} {l : Load} {data : List Byte}
  (hl : (s.ware d.val).queue.find? (fun l => l.num == num) = some l) (hdata : s.loadData d.val l = some data)
  (hfree : s.loadBlocked d.val l = false)
include hl hdata hfree

theorem exec_loadLand_of_free (ecc : Ecc) (off : BitVec 22) :
    exec (.loadLand d num ecc off) s = .next ((s.loadRead l ecc off.toNat).landLoad d.val l data) := by
  show execLoadLand d num ecc off s = _
  simp only [execLoadLand, hl, hdata]
  exact State.when_true _ _ (by rw [hfree]; rfl)

end

theorem State.loadRead_of_good (s : State) (l : Load) (off : Nat) : s.loadRead l .good off = s := ite_self ..

theorem State.loadRead_of_near {s : State} {l : Load} (h : s.inWindow l.sagger (l.src * 1024) (l.len * 1024) = false) (ecc : Ecc)
    (off : Nat) : s.loadRead l ecc off = s.weightRead l.sagger (l.src * 1024 + off % (l.len * 1024)) ecc := by
  rw [State.loadRead, h]
  rfl

/-! ## LOAD_DEMAND and HBM_PROMOTE (R293, R296) -/

/-- The pending loads that a buffer waits on move to Demand. -/
def State.demanded (s : State) (x : Buf) (n : Nat) : State :=
  (s.onWare x.entry.tileDie fun y => { y with queue := y.queue.map fun l => { l with demand := l.demand || s.awaited x l } }).bump
    .wbdDemand x.entry.tileDie n

theorem exec_loadDemand_of_waiting {w : WheelIx} {b : BufIx} {s : State} {x : Buf} {n : Nat} (hx : x = (s.wheel w.val).buf b.val)
    (hst : x.st = .fill) (hn : n = ((s.ware x.entry.tileDie).queue.filter fun l => !l.demand && s.awaited x l).length) (hne : n ≠ 0) :
    exec (.loadDemand w b) s = .next (s.demanded x n) := by
  subst hx hn
  exact State.when_true _ _ (by simpa [hst] using hne)

/-- The load after its read has been promoted, when it is due at time `now` in the class that it waits in. -/
def Load.promote (l : Load) (k id now : Nat) : Load :=
  if l.num.toNat == id && stackOfAddr (l.src * 1024) == k && l.hbmClass != 0 && l.since + 10000 ≤ now
  then { l with promoted := l.promoted + 1, since := now } else l

theorem Load.promote_eq (l : Load) (k id now : Nat) : l.promote k id now =
    if l.num.toNat = id ∧ stackOfAddr (l.src * 1024) = k ∧ l.hbmClass ≠ 0 ∧ l.since + 10000 ≤ now
    then { l with promoted := l.promoted + 1, since := now } else l := by
  refine if_congr ?_ rfl rfl
  simp only [Bool.and_eq_true, beq_iff_eq, bne_iff_ne, decide_eq_true_eq, and_assoc]

theorem exec_hbmPromote (k : StackIx) (id : Nat) (s : State) : exec (.hbmPromote k id) s = .next
    ((s.onWare 0 fun w => { w with queue := w.queue.map (·.promote k.val id s.refNow) }).onWare 1 fun w =>
      { w with queue := w.queue.map (·.promote k.val id s.refNow) }) := rfl

/-- Settles O35: acceptance and landing change the units of one load, one after another, and no load that the queue takes then
touches LAND or a poison mark; a promotion acts on pending loads alone (log entry 106). -/
theorem wareBoardLoadsArmAndLand : Obligations.WareBoardLoadsArmAndLand := by
  refine ⟨fun g rec s d l hl => ⟨fun hok hroom => ?accept, fun hok hfull => ?full, fun hbad => ?bad⟩,
    fun d num off s l data hfind hdata hfree hg => ⟨?good, fun a k ha hk hnear => ⟨?corrected, ?lost⟩⟩,
    fun w b s x n hx hst hn hne => ?demand, fun k id s => ?promote⟩
  case accept =>
    have hframe := s.loadAccepted_frame g.val d l
    have hasked := s.askLoad_frame d l
    have hware : (s.loadAccepted g.val d l).ware d = ((s.askLoad d l).acceptLoad d l).ware d := rfl
    have htb : (s.askLoad d l).tb = s.tb := hasked.only .tb (by decide)
    have hnow : (s.askLoad d l).refNow = s.refNow := by rw [State.refNow, htb, State.refNow]
    refine ⟨_, (exec_load_of_legal hl hok).trans (State.when_true _ _ (by simpa using hroom)), ?_, ?_, fun u => ?_, hframe.frame.only,
      hframe.others, hframe.frame.saggers⟩
    · rw [hware, State.acceptLoad_next, hasked.ware_eq]
    · rw [hware, State.acceptLoad_queue, hasked.ware_eq, hnow]
    · have hunit := (s.askLoad d l).acceptLoad_unit d l u
      rw [State.wareUnit, State.wareUnit, hasked.ware_eq] at hunit
      exact hunit
  case full =>
    exact (exec_load_of_legal hl hok).trans (State.when_false _ _ (by simpa using hfull))
  case bad =>
    refine ⟨_, exec_load_of_bad hl hbad, ?_, (State.detects_raise _ _).of_flog_eq rfl rfl,
      (WheelFrame.refl (ws := []) (gs := [g.val])).haltList.faultRec.only⟩
    rw [State.faultRec, State.raise_listHalt, State.haltList, State.onSagger_sagger, if_pos rfl]
  case good =>
    have hexec := exec_loadLand_of_free hfind hdata hfree .good off
    rw [State.loadRead_of_good] at hexec
    have hframe := s.landLoad_frame d.val l data hg
    have hmem := s.landLoad_mem d.val l data hg
    have hnum : l.num = num := by simpa using List.find?_some hfind
    refine ⟨_, hexec, ?_, fun x hx => ?_, ?_, fun k hk => ?_, fun u hu => s.landLoad_unit_of_outside d.val l data hg hu,
      hframe.frame.only, hframe.others⟩
    · rw [hmem]
      exact mread_mwrite ..
    · rw [hmem]
      exact mget_mwrite_of_outside _ _ _ _ hx
    · rw [hmem]
    · exact hnum ▸ s.landLoad_unit_of_lt d.val l data hg hk
  case corrected =>
    have hexec := exec_loadLand_of_free hfind hdata hfree .corrected off
    rw [State.loadRead_of_near hnear, ← ha] at hexec
    have hnum : l.num = num := by simpa using List.find?_some hfind
    refine ⟨_, hexec, ?_, fun j hj => hnum ▸ (State.landLoad_unit_of_lt _ d.val l data hg hj).1⟩
    rw [State.landLoad_reg _ _ _ _ hg _ (by decide), hk]
    exact s.hbmCorrected_hbmCe a
  case lost =>
    have hexec := exec_loadLand_of_free hfind hdata hfree .uncorrectable off
    rw [State.loadRead_of_near hnear, ← ha] at hexec
    have hnum : l.num = num := by simpa using List.find?_some hfind
    refine ⟨_, hexec, ?_, fun j hj => hnum ▸ State.landLoad_unit_of_lt _ d.val l data hg hj⟩
    rw [State.landLoad_reg _ _ _ _ hg _ (by decide), hk]
    exact s.hbmLost_weight_hbmUe l.sagger a
  case demand =>
    have hframe : WareFrame [.wares, .regs] [] x.entry.tileDie s (s.demanded x n) := ⟨WheelFrame.refl.onWare.bump, fun k hk => ?_⟩
    · refine ⟨_, exec_loadDemand_of_waiting hx hst hn hne, ?_, ?_, hframe.frame.only, hframe.others⟩
      · rw [State.demanded, State.bump_ware, State.onWare_ware, if_pos rfl]
      · rw [State.demanded, State.reg_bump_same]
        rfl
    · rw [State.demanded, State.bump_ware, State.onWare_ware, if_neg fun he => hk (List.mem_singleton.2 he)]
  case promote =>
    refine ⟨_, exec_hbmPromote k id s, (WheelFrame.refl (ws := []) (gs := [])).onWare.onWare.only, fun d hd => ?_⟩
    simp only [← Load.promote_eq, State.onWare_ware]
    obtain rfl | rfl : d = 0 ∨ d = 1 := by omega
    · simp
    · simp

end Sys2Proof.Machine

namespace Sys2Proof.Machine

/-! # Lute messages on mapped memory and tallies (O48) -/

/-! ## The message that a handler takes (R376) -/

/-- The state in which a handler works on a message for a luted sagger. -/
def State.luteTaken (s : State) (h : Nat) : State := s.luteTake.touch (lmSagger h)

theorem State.luteTake_frame (s : State) : WheelFrame [.ports, .regs] [] [] s s.luteTake := by
  unfold State.luteTake
  split
  · exact .refl
  · exact WheelFrame.refl.onPort.bump

theorem State.luteTaken_frame (s : State) (h : Nat) : WheelFrame [.ports, .regs, .saggers] [] [lmSagger h] s (s.luteTaken h) :=
  (s.luteTake_frame.mono (by decide) (by simp)).touch

/-! What the plan alone decides. -/

section
variable {s u : State} (h : u.plan = s.plan)
include h

theorem State.lead_congr : u.lead = s.lead := by simp only [State.lead, State.device, h]

theorem State.lmBad_congr : u.lmBad = s.lmBad := by
  funext x
  simp only [State.lmBad, State.luted, State.device, h]

theorem State.windowParts_congr : u.windowParts = s.windowParts := by
  have hstrata : u.windowStrata = s.windowStrata := by
    funext g
    simp only [State.windowStrata, h]
  funext g a n
  rw [State.windowParts, State.windowParts, hstrata]

end

theorem State.rangeProtected_congr {s u : State} (h : u.mem = s.mem) : u.rangeProtected = s.rangeProtected := by
  have hwp : u.protected = s.protected := by
    funext t
    simp only [State.protected, h]
  funext a n
  rw [State.rangeProtected, State.rangeProtected, hwp]

theorem State.luteAsk?_congr {s u : State} (h : u.lute = s.lute) : u.luteAsk? = s.luteAsk? := by
  funext x
  simp only [State.luteAsk?, h]

section
variable {s : State} {h type : Nat} {p : List Byte} {ok : State → Nat → List Byte → Bool} {f : State → Nat → List Byte → State}
  (hhead : s.luteHead = some (h, p)) (htype : nbits h 0 8 = type) (hmem : 1 ≤ type ∧ type ≤ 7)
include hhead htype hmem

theorem State.luteWith_of_head : s.luteWith type f = .next (f s.luteTake h p) := by
  have hlegal : luteType h = true := by simp [luteType, htype, hmem]
  simp [State.luteWith, hhead, hlegal, htype]

theorem State.lmTake_of_ok (hgood : s.lmBad h = false) (hok : ok s.luteTake h p = true) :
    s.lmTake type ok f = .next (f (s.luteTaken h) h p) := by
  have hbad := congrFun (State.lmBad_congr s.luteTake_frame.plan_eq) h
  rw [State.lmTake, State.luteWith_of_head hhead htype hmem, if_neg (by simp [hbad, hgood, hok])]
  rfl

theorem State.lmTake_of_bad (hbad : s.lmBad h = true) : s.lmTake type ok f = .next (s.luteTake.lmReject h) := by
  have hbad' := congrFun (State.lmBad_congr s.luteTake_frame.plan_eq) h
  rw [State.lmTake, State.luteWith_of_head hhead htype hmem, if_pos (by simp [hbad', hbad])]

end

/-! ## LUTE_WRITE (R303, R375) -/

/-- A range of the window that one part maps has that part's length. -/
theorem State.windowParts_single {s : State} {g a n b m : Nat} (h : s.windowParts g a n = some [(b, m)]) : m = n := by
  simp only [State.windowParts] at h
  split at h
  · cases h
  · split at h
    · simp at h
    · simp only [List.append_nil, Option.some.injEq, List.cons.injEq, Prod.mk.injEq, and_true] at h
      omega

theorem State.windowParts_pair {s : State} {g a n b m c k : Nat} (h : s.windowParts g a n = some [(b, m), (c, k)]) : m + k = n := by
  simp only [State.windowParts] at h
  split at h
  · cases h
  · split at h
    · simp only [List.cons_append, List.nil_append, Option.some.injEq, List.cons.injEq, Prod.mk.injEq, and_true] at h
      omega
    · simp at h

/-- The payload of a WRITE goes to the parts of its range, one after another. -/
def State.writeParts (s : State) (parts : List (Nat × Nat)) (p : List Byte) : State :=
  (parts.foldl (fun (acc : List Byte × State) x =>
    (acc.1.drop x.2, (acc.2.putHbm x.1 (acc.1.take x.2)).bump .hbmWrBytes (stackOfAddr x.1) x.2)) (p, s)).2

theorem State.writeParts_frame (s : State) (parts : List (Nat × Nat)) (p : List Byte) :
    WheelFrame [.mem, .regs] [] [] s (s.writeParts parts p) := by
  unfold State.writeParts
  exact List.foldlRecOn (motive := fun acc : List Byte × State => WheelFrame [.mem, .regs] [] [] s acc.2) _ _ .refl
    fun acc hacc x _ => hacc.withMem.bump

section
variable {s : State} {h : Nat} {p : List Byte} {parts : List (Nat × Nat)} (hhead : s.luteHead = some (h, p))
  (htype : nbits h 0 8 = 1) (hgood : s.lmBad h = false) (hlead : s.lead = false) (hlo : 8 ≤ p.length) (hhi : p.length ≤ 4096)
  (hparts : s.windowParts (lmSagger h) (lmAddr h) p.length = some parts)
include hhead htype hgood hlead hlo hhi hparts

theorem exec_luteWrite_of_parts : exec .luteWrite s = .next
    (if parts.any (fun x => s.rangeProtected x.1 x.2) then (s.luteTaken h).writeReject (lmSagger h) ((parts.headD (0, 0)).1)
      else (s.luteTaken h).writeParts parts p) := by
  have hplan := s.luteTake_frame.plan_eq
  have hframe := s.luteTaken_frame h
  show execLuteWrite s = _
  refine (State.lmTake_of_ok hhead htype (by decide) hgood ?_).trans ?_
  · simp [State.lead_congr hplan, State.windowParts_congr hplan, hlead, hlo, hhi, hparts]
  · simp only [State.windowParts_congr hframe.plan_eq, State.rangeProtected_congr hframe.mem_eq, hparts, Option.getD_some]
    rfl

end

/-! ## LUTE_READ (R375) -/

/-- The bytes of the parts are read and answered. -/
def State.answerRead (s : State) (h : Nat) (parts : List (Nat × Nat)) : State :=
  (parts.foldl (fun s x => s.bump .hbmRdBytes (stackOfAddr x.1) x.2) s).sendLute
    (luteMemMsg 3 (lmSagger h) (lmTag h).toNat (lmAddr h) (parts.flatMap fun x => s.hbm x.1 x.2))

theorem State.readsCounted_frame (s : State) (parts : List (Nat × Nat)) :
    WheelFrame [.regs] [] [] s (parts.foldl (fun s x => s.bump .hbmRdBytes (stackOfAddr x.1) x.2) s) :=
  .foldl (fun _ _ hu => hu.bump) _ .refl

theorem State.answerRead_lute (s : State) (h : Nat) (parts : List (Nat × Nat)) : (s.answerRead h parts).lute =
    { s.lute with tx := s.lute.tx ++
      [luteMemMsg 3 (lmSagger h) (lmTag h).toNat (lmAddr h) (parts.flatMap fun x => s.hbm x.1 x.2)] } := by
  rw [State.answerRead, State.sendLute, ← (s.readsCounted_frame parts).lute_eq]
  rfl

theorem WheelFrame.sendLute {ps : List Field} {ws gs : List Nat} {s t : State} {m : LuteMsg} (h : WheelFrame ps ws gs s t)
    (hp : .lute ∈ ps := by decide) : WheelFrame ps ws gs s (t.sendLute m) := h.onLute hp

theorem State.answerRead_frame (s : State) (h : Nat) (parts : List (Nat × Nat)) :
    WheelFrame [.regs, .lute] [] [] s (s.answerRead h parts) :=
  ((s.readsCounted_frame parts).mono (ps' := [.regs, .lute]) (by decide) (List.Subset.refl _)).sendLute

theorem exec_luteRead_of_parts {s : State} {h : Nat} {p : List Byte} {parts : List (Nat × Nat)} (hhead : s.luteHead = some (h, p))
    (htype : nbits h 0 8 = 2) (hgood : s.lmBad h = false) (hlead : s.lead = false) (hlen : p.length = 4) (hres : bfield p 13 19 = 0)
    (hlo : 8 ≤ lmReadLen p) (hhi : lmReadLen p ≤ 4096)
    (hparts : s.windowParts (lmSagger h) (lmAddr h) (lmReadLen p) = some parts) :
    exec .luteRead s = .next ((s.luteTaken h).answerRead h parts) := by
  have hplan := s.luteTake_frame.plan_eq
  show execLuteRead s = _
  refine (State.lmTake_of_ok hhead htype (by decide) hgood ?_).trans ?_
  · simp [State.lead_congr hplan, State.windowParts_congr hplan, hlead, hlen, hres, hlo, hhi, hparts]
  · simp only [State.windowParts_congr (s.luteTaken_frame h).plan_eq, hparts, Option.getD_some]
    rfl

/-! ## LUTE_ATOMIC (R298, R299, R375) -/

theorem testBit_nbits (x lo w i : Nat) : (nbits x lo w).testBit i = (decide (i < w) && x.testBit (lo + i)) := by
  rw [nbits, Nat.testBit_mod_two_pow, Nat.testBit_div_two_pow, Nat.add_comm]

theorem testBit_nsetBits (x lo w v i : Nat) : (nsetBits x lo w v).testBit i =
    if i < lo then x.testBit i else if i < lo + w then v.testBit (i - lo) else x.testBit i := by
  have hcut : nsetBits x lo w v = 2 ^ lo * (2 ^ w * (x / 2 ^ (lo + w)) + v % 2 ^ w) + x % 2 ^ lo := by
    rw [nsetBits, Nat.pow_add]
    ring
  rw [hcut, Nat.testBit_two_pow_mul_add _ (Nat.mod_lt _ (Nat.two_pow_pos lo)), Nat.testBit_mod_two_pow,
    Nat.testBit_two_pow_mul_add _ (Nat.mod_lt _ (Nat.two_pow_pos w)), Nat.testBit_mod_two_pow, Nat.testBit_div_two_pow]
  split
  next hlo => simp [hlo]
  next hlo =>
    split
    next hw => rw [if_pos (by omega), decide_eq_true hw, Bool.true_and]
    next hw => rw [if_neg (by omega), show i - lo - w + (lo + w) = i by omega]

/-- A field reads back as it was set. -/
theorem nbits_nsetBits_same (x lo w v : Nat) : nbits (nsetBits x lo w v) lo w = v % 2 ^ w := by
  refine Nat.eq_of_testBit_eq fun i => ?_
  rw [testBit_nbits, testBit_nsetBits, Nat.testBit_mod_two_pow]
  by_cases hi : i < w
  · rw [if_neg (by omega), if_pos (by omega), Nat.add_sub_cancel_left]
  · simp [hi]

/-- A field that does not meet the one that is set keeps its value. -/
theorem nbits_nsetBits_of_apart (x v : Nat) {lo w lo' w' : Nat} (h : lo + w ≤ lo' ∨ lo' + w' ≤ lo) :
    nbits (nsetBits x lo w v) lo' w' = nbits x lo' w' := by
  refine Nat.eq_of_testBit_eq fun i => ?_
  rw [testBit_nbits, testBit_nsetBits, testBit_nbits]
  by_cases hi : i < w'
  · by_cases hlo : lo' + i < lo
    · rw [if_pos hlo]
    · rw [if_neg hlo, if_neg (by omega)]
  · simp [hi]

/-- A record on the mapped word at `a`. -/
def atMapped (r a : Nat) : Nat := nsetBits (nsetBits r 32 32 (a % 2 ^ 32)) 5 9 (a / 2 ^ 32)

theorem atMapped_op (r a : Nat) : atOp (atMapped r a) = atOp r := by
  rw [atOp, atMapped, nbits_nsetBits_of_apart _ _ (by decide), nbits_nsetBits_of_apart _ _ (by decide), atOp]

theorem atMapped_bytes (r a : Nat) : atBytes (atMapped r a) = atBytes r := by rw [atBytes, atMapped_op, atBytes]

theorem atMapped_operand (r a : Nat) : nbits (atMapped r a) 64 64 = nbits r 64 64 := by
  rw [atMapped, nbits_nsetBits_of_apart _ _ (by decide), nbits_nsetBits_of_apart _ _ (by decide)]

theorem atMapped_addr {r a : Nat} (h : a < 2 ^ 41) : atAddr (atMapped r a) = a := by
  rw [atAddr, atMapped, nbits_nsetBits_same, nbits_nsetBits_of_apart _ _ (by decide), nbits_nsetBits_same]
  omega

theorem State.doAtomic_frame (s : State) (r : Nat) : WheelFrame [.freeCtr, .regs, .mem] [] [] s (s.doAtomic r) := by
  have hread : WheelFrame [.freeCtr, .regs, .mem] [] [] s ((((s.draw.2.bump .hbmNarrow (stackOfAddr (atAddr r)) 1).bump .hbmAtomic
      (stackOfAddr (atAddr r)) 1).bump .hbmRdBytes (stackOfAddr (atAddr r)) (atBytes r))) := WheelFrame.refl.withFreeCtr.bump.bump.bump
  unfold State.doAtomic
  dsimp only
  split
  · exact hread.withMem
  · exact hread.withMem.bump.withMem

/-- The word that an atomic leaves in HBM (R299). -/
theorem State.doAtomic_hbm (s : State) (r : Nat) : (s.doAtomic r).mem.hbm =
    match atomicWord (atOp r) (s.hbmNum (atAddr r) (atBytes r)) (nbits r 64 64) (Config.freeNat s.freeCtr) with
    | none => s.mem.hbm
    | some v => mputNum s.mem.hbm (atAddr r) (atBytes r) v := by
  unfold State.doAtomic
  dsimp only [State.draw]
  split <;> simp_all <;> rfl

theorem exec_luteAtomic_of_part {s : State} {h a r : Nat} {p : List Byte} (hhead : s.luteHead = some (h, p))
    (htype : nbits h 0 8 = 4) (hgood : s.lmBad h = false) (hr : r = leNat p) (hlead : s.lead = false) (hlen : p.length = 16)
    (hok : atBad r = false) (hpart : s.windowParts (lmSagger h) (lmAddr h) (atBytes r) = some [(a, atBytes r)])
    (hopen : s.rangeProtected a (atBytes r) = false) : exec .luteAtomic s = .next
      (((s.luteTaken h).doAtomic (atMapped r a)).sendLute (luteMemMsg 5 (lmSagger h) (lmTag h).toNat (lmAddr h) [])) := by
  have hplan := s.luteTake_frame.plan_eq
  have hframe := s.luteTaken_frame h
  subst hr
  show execLuteAtomic s = _
  refine (State.lmTake_of_ok hhead htype (by decide) hgood ?_).trans ?_
  · simp [State.lead_congr hplan, State.windowParts_congr hplan, hlead, hlen, hok, hpart]
  · simp only [State.windowParts_congr hframe.plan_eq, State.rangeProtected_congr hframe.mem_eq, hpart, Option.getD_some,
      List.headD_cons, hopen, Bool.false_eq_true, if_false]
    rfl

/-! ## Answers (R376) -/

/-- From `s` to `t` memory and the outstanding requests are as they were. -/
structure KeepsAsked (s t : State) : Prop where
  mem   : t.mem = s.mem
  asked : t.lute.asked = s.lute.asked

namespace KeepsAsked

variable {s t u : State}

theorem refl : KeepsAsked s s := ⟨rfl, rfl⟩

theorem trans (h : KeepsAsked s t) (h' : KeepsAsked t u) : KeepsAsked s u := ⟨h'.mem.trans h.mem, h'.asked.trans h.asked⟩

theorem of_frame {ps : List Field} {ws gs : List Nat} (h : WheelFrame ps ws gs s t) (hm : .mem ∉ ps := by decide)
    (hl : .lute ∉ ps := by decide) : KeepsAsked s t := ⟨h.mem_eq hm, by rw [h.lute_eq hl]⟩

theorem fault {cls block detail g unit sub : Nat} : KeepsAsked s (s.fault cls block detail g unit sub) := by
  unfold State.fault State.raise State.contain State.startReset
  dsimp only
  split
  · split <;> exact ⟨rfl, rfl⟩
  · exact ⟨rfl, rfl⟩
  · exact ⟨rfl, rfl⟩

theorem tallyTouch {k : Nat} : KeepsAsked s (s.tallyTouch k) := by
  unfold State.tallyTouch
  split <;> exact ⟨rfl, rfl⟩

theorem onTally {k : Nat} {f : Tally → Tally} : KeepsAsked s (s.onTally k f) := ⟨rfl, rfl⟩

theorem sendTally {k op flag n target : Nat} {agent : BitVec 13} : KeepsAsked s (s.sendTally k op flag agent n target) := ⟨rfl, rfl⟩

theorem applySignal {k n : Nat} {agent : BitVec 13} : KeepsAsked s (s.applySignal k n agent) := by
  have hsignal : KeepsAsked s ((s.onTally k (·.signal n agent)).tallyTouch k) := onTally.trans tallyTouch
  unfold State.applySignal
  dsimp only
  split
  · exact (hsignal.trans onTally).trans fault
  · exact hsignal

/-- A tally that advances, here or on the partner, touches neither. -/
theorem advance {g i : Nat} {agent : BitVec 13} : KeepsAsked s (s.advance g i agent) := by
  unfold State.advance State.signalTally State.deliverSignal
  split
  · exact fault
  · split
    · exact applySignal
    · exact sendTally.trans tallyTouch

end KeepsAsked

theorem State.dropAsk_asked (s : State) (a : LuteAsk) : a ∉ (s.dropAsk a).lute.asked := fun h => by
  simpa using (List.mem_filter.1 h).2

/-- The end of a slab piece: its tally advances with the last piece (R284). -/
theorem State.landRead_slab {s : State} {a : LuteAsk} {p : List Byte} {dst : BitVec 32} {tally : Nat} {job : BitVec 16}
    (h : a.use = .slab dst tally job) : KeepsAsked (s.putSlab dst.toNat p) (s.landRead a p) := by
  simp only [State.landRead, h]
  split
  · exact .refl
  · exact KeepsAsked.advance.trans ⟨rfl, rfl⟩

section
variable {s : State} {h : Nat} {p : List Byte} {a : LuteAsk} (hhead : s.luteHead = some (h, p)) (hgood : s.lmBad h = false)
  (hlead : s.lead = true) (hask : s.luteAsk? h = some a)
include hhead hgood hlead hask

theorem exec_luteReadRsp_of_asked (htype : nbits h 0 8 = 3) (hlen : a.bytes = p.length) (huse : ∀ r, a.use ≠ .atomic r) :
    exec .luteReadRsp s = .next (((s.luteTaken h).dropAsk a).landRead a p) := by
  have htake := s.luteTake_frame
  show execLuteReadRsp s = _
  refine (State.lmTake_of_ok hhead htype (by decide) hgood ?_).trans ?_
  · rw [State.lead_congr htake.plan_eq, State.luteAsk?_congr htake.lute_eq, hlead, hask]
    cases hu : a.use with
    | atomic r => exact absurd hu (huse r)
    | _ => simp [hlen, hu]
  · simp only [State.luteAsk?_congr (s.luteTaken_frame h).lute_eq, hask]

/-- An answered atomic leaves a free success mark and a free old value (log entry 33). -/
def State.atomicAnswered (s : State) (a : LuteAsk) (ret : Bool) : State :=
  ((s.dropAsk a).draw.2.draw.2).onMem fun m => { m with
    atomicOk := Config.freeNat s.freeCtr % 2 == 1
    atomicOut := if ret then some (Config.freeNat (s.freeCtr + 1) % 2 ^ (8 * a.bytes)) else none }

theorem exec_luteAtomicRsp_of_asked {r : Bool} (hempty : p = []) (htype : nbits h 0 8 = 5) (huse : a.use = .atomic r) :
    exec .luteAtomicRsp s = .next ((s.luteTaken h).atomicAnswered a r) := by
  have htake := s.luteTake_frame
  subst hempty
  show execLuteAtomicRsp s = _
  refine (State.lmTake_of_ok hhead htype (by decide) hgood ?_).trans ?_
  · rw [State.lead_congr htake.plan_eq, State.luteAsk?_congr htake.lute_eq, hlead, hask]
    simp [huse]
  · simp only [State.luteAsk?_congr (s.luteTaken_frame h).lute_eq, hask, huse]
    rfl

end

/-! ## Tallies (R333, R374) -/

section
variable {s : State} {h : Nat} {p : List Byte} (hhead : s.luteHead = some (h, p)) (hgood : s.lmBad h = false)
  (hform : lmTallyBad h = false)
include hhead hgood hform

theorem exec_luteTally_of_signal (htype : nbits h 0 8 = 6) (hop : tallyOpOk p = true) (hhome : s.homeHere (lmTally h) = true)
    (hsignal : bfield p 0 8 = 1) (hmode : (s.tally (lmTally h)).mode ≠ 0) : exec .luteTally s =
      .next ((s.luteTaken h).applySignal (lmTally h) (bfield p 32 32) (BitVec.ofNat 13 (bfield p 16 16))) := by
  have htally : (s.luteTaken h).tally (lmTally h) = s.tally (lmTally h) := (s.luteTaken_frame h).tally_eq _
  show execLuteTally s = _
  refine (State.lmTake_of_ok hhead htype (by decide) hgood ?_).trans ?_
  · simp [hform, hop, s.luteTake_frame.homeHere_eq, hhome]
  · simp only [hsignal, htally, if_neg hmode]

theorem exec_luteTally_of_release (htype : nbits h 0 8 = 6) (hop : tallyOpOk p = true) (hhome : s.homeHere (lmTally h) = true)
    (hrelease : bfield p 0 8 = 2) (hmode : (s.tally (lmTally h)).mode = 1)
    (hopen : bfield p 32 32 ≤ (s.tally (lmTally h)).open_) : exec .luteTally s =
      .next ((s.luteTaken h).onTally (lmTally h) fun x => { x with cons := x.cons + BitVec.ofNat 48 (bfield p 32 32) }) := by
  have htally : (s.luteTaken h).tally (lmTally h) = s.tally (lmTally h) := (s.luteTaken_frame h).tally_eq _
  show execLuteTally s = _
  refine (State.lmTake_of_ok hhead htype (by decide) hgood ?_).trans ?_
  · simp [hform, hop, s.luteTake_frame.homeHere_eq, hhome]
  · simp only [hrelease, htally, if_neg (not_not.2 hmode), if_neg (Nat.not_lt.2 hopen)]

/-- A mirror shows the counts of its home, and wakes the waiters whose target they reach (R333). -/
def Tally.mirrored (t : Tally) (p : List Byte) : Tally :=
  { t with
    prod := BitVec.ofNat 48 (bfield p 0 64)
    cons := BitVec.ofNat 48 (bfield p 64 64)
    waiters := t.waiters.filter fun w => !reached (BitVec.ofNat 48 (bfield p 0 64)) w.target }

theorem exec_luteMirror_of_away (htype : nbits h 0 8 = 7) (hlen : p.length = 16) (haway : s.homeHere (lmTally h) = false) :
    exec .luteMirror s = .next ((s.luteTaken h).onTally (lmTally h) (·.mirrored p)) := by
  show execLuteMirror s = _
  refine (State.lmTake_of_ok hhead htype (by decide) hgood ?_).trans rfl
  simp [hform, hlen, s.luteTake_frame.homeHere_eq, haway]

end

/-! ## Messages that R376 does not allow -/

/-- The command that takes a memory message of each TYPE. -/
theorem exec_lute_of_bad {s : State} {h n : Nat} {p : List Byte} {c : Instr} (hhead : s.luteHead = some (h, p))
    (htype : nbits h 0 8 = n) (hbad : s.lmBad h = true)
    (hc : (n, c) ∈ [(1, Instr.luteWrite), (2, .luteRead), (3, .luteReadRsp), (4, .luteAtomic), (5, .luteAtomicRsp), (6, .luteTally),
      (7, .luteMirror)]) : exec c s = .next (s.luteTake.lmReject h) := by
  simp only [List.mem_cons, List.not_mem_nil, or_false, Prod.mk.injEq] at hc
  obtain ⟨rfl, rfl⟩ | ⟨rfl, rfl⟩ | ⟨rfl, rfl⟩ | ⟨rfl, rfl⟩ | ⟨rfl, rfl⟩ | ⟨rfl, rfl⟩ | ⟨rfl, rfl⟩ := hc
  · exact (State.lmTake_of_bad hhead htype (by decide) hbad : execLuteWrite s = _)
  · exact (State.lmTake_of_bad hhead htype (by decide) hbad : execLuteRead s = _)
  · exact (State.lmTake_of_bad hhead htype (by decide) hbad : execLuteReadRsp s = _)
  · exact (State.lmTake_of_bad hhead htype (by decide) hbad : execLuteAtomic s = _)
  · exact (State.lmTake_of_bad hhead htype (by decide) hbad : execLuteAtomicRsp s = _)
  · exact (State.lmTake_of_bad hhead htype (by decide) hbad : execLuteTally s = _)
  · exact (State.lmTake_of_bad hhead htype (by decide) hbad : execLuteMirror s = _)

/-! ## The statement -/

/-- The change of a handler, seen from the state before the message was taken. -/
theorem State.luteTaken_only {s t : State} {h : Nat} {ps : List Field} (hwork : Only ps (s.luteTaken h) t)
    (hp : [.ports, .regs, .saggers] ⊆ ps := by decide) : Only ps s t := ((s.luteTaken_frame h).only.mono hp).trans hwork

section
variable {s : State} {h : Nat} {p : List Byte} {parts : List (Nat × Nat)} (hhead : s.luteHead = some (h, p))
  (htype : nbits h 0 8 = 1) (hgood : s.lmBad h = false) (hlead : s.lead = false) (hlo : 8 ≤ p.length) (hhi : p.length ≤ 4096)
  (hparts : s.windowParts (lmSagger h) (lmAddr h) p.length = some parts)
include hhead htype hgood hlead hlo hhi hparts

theorem luteWrite_one {a n : Nat} (hone : parts = [(a, n)]) (hopen : s.rangeProtected a n = false) :
    ∃ t, exec .luteWrite s = .next t ∧ t.hbm a p.length = p ∧ Outside a p.length s.mem.hbm t.mem.hbm ∧
      t.mem = { s.mem with hbm := t.mem.hbm } ∧ Only [.mem, .ports, .regs, .saggers] s t := by
  subst hone
  have hn := State.windowParts_single hparts
  have hexec := exec_luteWrite_of_parts hhead htype hgood hlead hlo hhi hparts
  rw [if_neg (by simp [hopen])] at hexec
  have hmem : ((s.luteTaken h).writeParts [(a, n)] p).mem = { s.mem with hbm := mwrite s.mem.hbm a p } := by
    rw [← (s.luteTaken_frame h).mem_eq]
    simp [State.writeParts, State.putHbm, State.onHbm, hn]
  refine ⟨_, hexec, ?_, fun x hx => ?_, ?_, State.luteTaken_only (((s.luteTaken h).writeParts_frame _ p).only.mono (by decide))⟩
  · rw [State.hbm, hmem]
    exact mread_mwrite ..
  · rw [hmem]
    exact mget_mwrite_of_outside _ _ _ _ hx
  · rw [hmem]

theorem luteWrite_two {a n b m : Nat} (htwo : parts = [(a, n), (b, m)]) (hopen : s.rangeProtected a n = false)
    (hopen' : s.rangeProtected b m = false) (hapart : Apart a n b m) :
    ∃ t, exec .luteWrite s = .next t ∧ t.hbm a n = p.take n ∧ t.hbm b m = p.drop n ∧
      (∀ x, (x < a ∨ a + n ≤ x) → (x < b ∨ b + m ≤ x) → mget t.mem.hbm x = mget s.mem.hbm x) ∧
      t.mem = { s.mem with hbm := t.mem.hbm } ∧ Only [.mem, .ports, .regs, .saggers] s t := by
  subst htwo
  have hsum := State.windowParts_pair hparts
  have hfirst : (p.take n).length = n := by simp; omega
  have hrest : (p.drop n).length = m := by simp; omega
  have hexec := exec_luteWrite_of_parts hhead htype hgood hlead hlo hhi hparts
  rw [if_neg (by simp [hopen, hopen'])] at hexec
  have hmem : ((s.luteTaken h).writeParts [(a, n), (b, m)] p).mem =
      { s.mem with hbm := mwrites s.mem.hbm [(a, p.take n), (b, p.drop n)] } := by
    rw [← (s.luteTaken_frame h).mem_eq]
    simp [State.writeParts, State.putHbm, State.onHbm, mwrites, ← hrest, List.take_of_length_le]
  have hpair : [(a, p.take n), (b, p.drop n)].Pairwise fun v w => Apart v.1 v.2.length w.1 w.2.length := by
    simpa only [List.pairwise_cons, List.mem_singleton, forall_eq, hfirst, hrest, List.not_mem_nil, false_imp_iff, implies_true,
      List.Pairwise.nil, and_true] using hapart
  have hread := mread_mwrites s.mem.hbm hpair (List.mem_cons_self ..)
  have hread' := mread_mwrites s.mem.hbm hpair (List.mem_cons_of_mem _ (List.mem_singleton_self _))
  simp only [hfirst] at hread
  simp only [hrest] at hread'
  refine ⟨_, hexec, ?_, ?_, fun x hx hx' => ?_, ?_,
    State.luteTaken_only (((s.luteTaken h).writeParts_frame _ p).only.mono (by decide))⟩
  · rw [State.hbm, hmem, hread]
  · rw [State.hbm, hmem, hread']
  · rw [hmem]
    refine mget_mwrites_of_outside _ fun w hw => ?_
    obtain rfl | rfl : w = (a, p.take n) ∨ w = (b, p.drop n) := by simpa using hw
    · simpa only [hfirst] using hx
    · simpa only [hrest] using hx'
  · rw [hmem]

theorem luteWrite_protected (hwp : ∃ x ∈ parts, s.rangeProtected x.1 x.2 = true) :
    ∃ t, exec .luteWrite s = .next t ∧ t.mem = s.mem ∧ Detects 0x39A3#16 s t := by
  have hexec := exec_luteWrite_of_parts hhead htype hgood hlead hlo hhi hparts
  rw [if_pos (List.any_eq_true.2 hwp)] at hexec
  have hframe := s.luteTaken_frame h
  refine ⟨_, hexec, ?_, (State.detects_raise _ _).of_flog_eq hframe.flog_eq rfl⟩
  exact ((WheelFrame.refl (ws := []) (gs := [(sgField (lmSagger h)).toNat])).raise (by decide) fun _ => List.mem_singleton_self _
    : WheelFrame [.saggers, .flog, .lute] _ _ _ _).mem_eq.trans hframe.mem_eq

end

/-- Settles O48: a message is taken without a change of memory or of the lute's queues, and its handler is then one write, one
answer, one delivery or one tally operation. The layouts of TALLY and MIRROR are log entry 32, the free answer of ATOMIC_RSP
log entry 33. -/
theorem luteMessagesActOnMappedMemoryAndTallies : Obligations.LuteMessagesActOnMappedMemoryAndTallies := by
  refine ⟨fun s h p parts hhead htype hgood hlead hlo hhi hparts =>
      ⟨fun a n hone hopen => luteWrite_one hhead htype hgood hlead hlo hhi hparts hone hopen,
        fun a n b m htwo hopen hopen' hapart => luteWrite_two hhead htype hgood hlead hlo hhi hparts htwo hopen hopen' hapart,
        luteWrite_protected hhead htype hgood hlead hlo hhi hparts⟩,
    fun s h p parts hhead htype hgood hlead hlen hres hlo hhi hparts => ?read,
    fun s h p a r hhead htype hgood hr hlead hlen hok ha hpart hopen => ?atomic,
    fun s h p a hhead htype hgood hlead hask hlen => ⟨fun huse => ?narrow,
      fun dst tally job huse => ?slab, fun d num unit huse => ?load⟩,
    fun s h a r hhead htype hgood hlead hask huse => ?answer,
    fun s h p k x hhead htype hgood hform hop hk hx hhome => ⟨fun hsignal hmode => ?signal, fun hrelease hmode hopen => ?release⟩,
    fun s h p k hhead htype hgood hform hlen hk haway => ?mirror, fun s h p n c hhead htype hbad hc => ?bad⟩
  case read =>
    have hlute := (s.luteTaken h).answerRead_lute h parts
    have hhbm : (s.luteTaken h).hbm = s.hbm := by
      funext a n
      rw [State.hbm, (s.luteTaken_frame h).mem_eq, State.hbm]
    rw [(s.luteTaken_frame h).lute_eq, hhbm] at hlute
    exact ⟨_, exec_luteRead_of_parts hhead htype hgood hlead hlen hres hlo hhi hparts, hlute,
      State.luteTaken_only (((s.luteTaken h).answerRead_frame h parts).only.mono (by decide))⟩
  case atomic =>
    have hframe := s.luteTaken_frame h
    have hdone := (s.luteTaken h).doAtomic_frame (atMapped r a)
    have hfree : (s.luteTaken h).freeCtr = s.freeCtr := hframe.only .freeCtr (by decide)
    have hhbm := (s.luteTaken h).doAtomic_hbm (atMapped r a)
    rw [atMapped_op, atMapped_bytes, atMapped_operand, atMapped_addr ha, State.hbmNum, hframe.mem_eq, hfree, ← State.hbmNum] at hhbm
    have hsent : (((s.luteTaken h).doAtomic (atMapped r a)).sendLute
      (luteMemMsg 5 (lmSagger h) (lmTag h).toNat (lmAddr h) [])).mem.hbm = _ := hhbm
    refine ⟨_, exec_luteAtomic_of_part hhead htype hgood hr hlead hlen hok hpart hopen, ?_, fun v hv => ?_, fun hnone => ?_, ?_,
      State.luteTaken_only ((hdone.mono (by decide) (List.Subset.refl _)).sendLute).only⟩
    · rw [← hframe.lute_eq, ← hdone.lute_eq]
      rfl
    · rw [State.hbmNum, hsent, hv, Nat.pow_mul]
      exact mnum_mputNum ..
    · rw [hsent, hnone]
    · rw [hsent]
      split
      · exact fun _ _ => rfl
      · exact outside_mputNum _ _ _ _
  case narrow =>
    have hframe := s.luteTaken_frame h
    have hexec := exec_luteReadRsp_of_asked hhead hgood hlead hask htype hlen (by simp [huse])
    have hland : ((s.luteTaken h).dropAsk a).landRead a p = ((s.luteTaken h).dropAsk a).onMem fun m => { m with narrowOut := p } := by
      simp only [State.landRead, huse]
    rw [hland] at hexec
    refine ⟨_, hexec, ?_, State.dropAsk_asked _ a, State.luteTaken_only (WheelFrame.refl (ws := []) (gs := [])).onLute.withMem.only⟩
    rw [← hframe.mem_eq]
    rfl
  case slab =>
    have hframe := s.luteTaken_frame h
    have hland := State.landRead_slab (s := (s.luteTaken h).dropAsk a) (p := p) huse
    have hmem : (((s.luteTaken h).dropAsk a).landRead a p).mem = s.mem.slabWrite (slabIx dst.toNat) p :=
      hland.mem.trans (congrArg (fun m : Memories => m.slabWrite (slabIx dst.toNat) p) hframe.mem_eq)
    obtain ⟨hread, hout, -⟩ := State.slab_of_slabWrite hmem
    refine ⟨_, exec_luteReadRsp_of_asked hhead hgood hlead hask htype hlen (by simp [huse]), hread, hout, ?_⟩
    rw [hland.asked]
    exact State.dropAsk_asked _ a
  case load =>
    have hframe := s.luteTaken_frame h
    have hexec := exec_luteReadRsp_of_asked hhead hgood hlead hask htype hlen (by simp [huse])
    have hland : ((s.luteTaken h).dropAsk a).landRead a p =
        ((s.luteTaken h).dropAsk a).onLute fun l => { l with got := l.got ++ [(d, num, unit, p)] } := by
      simp only [State.landRead, huse]
    rw [hland] at hexec
    refine ⟨_, hexec, ?_, State.dropAsk_asked _ a, State.luteTaken_only (WheelFrame.refl (ws := []) (gs := [])).onLute.onLute.only⟩
    rw [← hframe.lute_eq]
    rfl
  case answer =>
    have hframe := s.luteTaken_frame h
    have hfree : (s.luteTaken h).freeCtr = s.freeCtr := hframe.only .freeCtr (by decide)
    have hmem : ((s.luteTaken h).atomicAnswered a r).mem = { s.mem with
        atomicOk := Config.freeNat s.freeCtr % 2 == 1
        atomicOut := if r then some (Config.freeNat (s.freeCtr + 1) % 2 ^ (8 * a.bytes)) else none } := by
      rw [← hframe.mem_eq, ← hfree]
      rfl
    refine ⟨_, exec_luteAtomicRsp_of_asked hhead hgood hlead hask rfl htype huse, State.dropAsk_asked _ a, ?_, ?_, ?_,
      State.luteTaken_only (WheelFrame.refl (ws := []) (gs := [])).onLute.withFreeCtr.withFreeCtr.withMem.only⟩
    · rw [hmem]
    · rw [hmem]
    · rw [hmem]
  case signal =>
    subst hk hx
    have hframe := s.luteTaken_frame h
    refine ⟨_, exec_luteTally_of_signal hhead hgood hform htype hop hhome hsignal hmode, ?_, ?_, ?_⟩
    · rw [State.applySignal_prod, hframe.tally_eq]
    · exact hframe.tallies.trans (State.applySignal_others _ _ _ _)
    · exact KeepsAsked.applySignal.mem.trans hframe.mem_eq
  case release =>
    subst hk hx
    have hframe := s.luteTaken_frame h
    refine ⟨_, exec_luteTally_of_release hhead hgood hform htype hop hhome hrelease hmode hopen, ?_,
      hframe.tallies.trans (State.onTally_others _ _ _), hframe.mem_eq⟩
    rw [State.onTally_tally, if_pos rfl, hframe.tally_eq]
  case mirror =>
    subst hk
    have hframe := s.luteTaken_frame h
    have htally : ((s.luteTaken h).onTally (lmTally h) (·.mirrored p)).tally (lmTally h) = (s.tally (lmTally h)).mirrored p := by
      rw [State.onTally_tally, if_pos rfl, hframe.tally_eq]
    refine ⟨_, exec_luteMirror_of_away hhead hgood hform htype hlen haway, ?_, ?_, fun w hw => ?_,
      hframe.tallies.trans (State.onTally_others _ _ _), State.luteTaken_only (WheelFrame.refl (ws := []) (gs := [])).onTally.only⟩
    · rw [htally]
      rfl
    · rw [htally]
      rfl
    · rw [htally] at hw ⊢
      simpa [Tally.mirrored] using (List.mem_filter.1 hw).2
  case bad =>
    have hframe := s.luteTake_frame
    have hreject : WheelFrame [.saggers, .flog, .lute] [] [if s.luteTake.luted (lmSagger h) then lmSagger h else 15] s.luteTake
      (s.luteTake.lmReject h) := WheelFrame.refl.fault
    exact ⟨_, exec_lute_of_bad hhead htype hbad hc, hreject.mem_eq.trans hframe.mem_eq,
      (hreject.only .tallies (by decide)).trans (hframe.only .tallies (by decide)),
      (State.detects_raise _ _).of_flog_eq hframe.flog_eq rfl, (hframe.only.mono (by decide)).trans (hreject.only.mono (by decide))⟩

end Sys2Proof.Machine

namespace Sys2Proof.Machine

/-! # Management of images and firmware (O56): what the commands share -/

/-! ## The answer after a command's work (R418, R419) -/

/-- A command has passed the checks that all commands share, and is counted. -/
def State.counted (s : State) : State := s.bump .mgtCmds 0 1

@[simp] theorem State.counted_nsCap (s : State) (ns : Nat) : s.counted.nsCap ns = s.nsCap ns := rfl

theorem State.answer_only (u : State) (r : MgmtRule) (m : MgmtArgs) (st : Nat) (bs : List Byte) :
    Only [.mgmt, .regs] u (u.answer r m st bs) := by
  unfold State.answer State.mgmtAnswer
  refine Only.trans (u.bump_only .mgtDenied 0 (if st = 1 then 1 else 0)) ?_
  dsimp only
  generalize u.bump .mgtDenied 0 (if st = 1 then 1 else 0) = v
  split
  · exact State.onSession_only _ _ _
  · exact .refl _ _

section
variable (u : State) (r : MgmtRule) (m : MgmtArgs) (st : Nat) (bs : List Byte)

@[simp] theorem State.answer_mem : (u.answer r m st bs).mem = u.mem := (u.answer_only r m st bs) .mem (by decide)
@[simp] theorem State.answer_store : (u.answer r m st bs).store = u.store := (u.answer_only r m st bs) .store (by decide)
@[simp] theorem State.answer_health : (u.answer r m st bs).health = u.health := (u.answer_only r m st bs) .health (by decide)
@[simp] theorem State.answer_boot : (u.answer r m st bs).boot = u.boot := (u.answer_only r m st bs) .boot (by decide)
@[simp] theorem State.answer_flog : (u.answer r m st bs).flog = u.flog := (u.answer_only r m st bs) .flog (by decide)
@[simp] theorem State.answer_lat : (u.answer r m st bs).lat = u.lat := (u.answer_only r m st bs) .lat (by decide)
@[simp] theorem State.answer_saggers : (u.answer r m st bs).saggers = u.saggers := (u.answer_only r m st bs) .saggers (by decide)

@[simp] theorem State.answer_sagger (h : Nat) : (u.answer r m st bs).sagger h = u.sagger h := by
  rw [State.sagger, State.answer_saggers, State.sagger]

end

theorem State.runMgmt_counted {r : MgmtRule} {m : MgmtArgs} {s u : State} {f : State → State} (ha : Admits r m s)
    (h : f s.counted = u) : s.runMgmt r m f = .next u := (State.runMgmt_of_admits ha f).trans (congrArg Host.Outcome.next h)

section
variable {m : MgmtArgs} {s u : State} {ps : List Field} (hopen : (s.session m.sess.val).open_ = true) (hwork : Only ps s.counted u)
  (r : MgmtRule) (st : Nat) (bs : List Byte)
include hopen hwork

theorem State.answer_answers (hm : .mgmt ∉ ps := by decide) : Answers m r.cmd st bs s (u.answer r m st bs) := by
  have hmgmt : u.mgmt = s.mgmt := hwork .mgmt hm
  have hsession : u.session = s.session := by
    funext k
    rw [State.session, hmgmt, State.session]
  obtain ⟨⟨hresp, hothers⟩, -⟩ := (Quiet.refl m.sess.val u).answer (hsession ▸ hopen) r st bs
  exact ⟨hsession ▸ hresp, fun k hk => (hothers k hk).trans (congrFun hsession k)⟩

theorem State.answer_counts (hm : .mgmt ∉ ps := by decide) (hr : .regs ∉ ps := by decide) : CountsOnly s (u.answer r m st bs) := by
  have hmgmt : u.mgmt = s.mgmt := hwork .mgmt hm
  have hregs : u.regs = s.counted.regs := hwork .regs hr
  have hcounted : CountsOnly s.counted u := fun r k _ => by rw [State.reg, hregs, State.reg]
  obtain ⟨-, -, hcounts, -⟩ := (Quiet.refl m.sess.val u).answer (by rw [State.session, hmgmt]; exact hopen) r st bs
  exact ((s.bump_regsOnly 1 (List.mem_cons_self ..)).trans hcounted).trans hcounts

omit hopen in
theorem State.answer_work_only {ps' : List Field} (hp : ps ⊆ ps' := by decide) (hr : [.mgmt, .regs] ⊆ ps' := by decide) :
    Only ps' s (u.answer r m st bs) :=
  ((Only.mono (s.bump_only .mgtCmds 0 1) hr).trans (hwork.mono hp)).trans ((u.answer_only r m st bs).mono hr)

end

/-- A command that does its work and is answered. -/
theorem answers_of_worked {m : MgmtArgs} {s u : State} {c : Instr} {r : MgmtRule} {st : Nat} {ps : List Field}
    {p : State → Prop} (ha : Admits r m s) (hwork : Only ps s.counted u) (hexec : exec c s = .next (u.answer r m st []))
    (hp : p (u.answer r m st [])) (hm : .mgmt ∉ ps := by decide) (hr : .regs ∉ ps := by decide) :
    ∃ t, exec c s = .next t ∧ Answers m r.cmd st [] s t ∧ Only (.mgmt :: .regs :: ps) s t ∧ CountsOnly s t ∧ p t :=
  ⟨_, hexec, State.answer_answers ha.1 hwork r st [] hm,
    State.answer_work_only hwork r st [] (List.subset_append_right [Field.mgmt, .regs] ps) (List.subset_append_left [Field.mgmt, .regs] ps),
    State.answer_counts ha.1 hwork r st [] hm hr, hp⟩

/-- A command that is refused has no other effect. -/
theorem answers_of_refused {m : MgmtArgs} {s : State} {c : Instr} {r : MgmtRule} {st : Nat} (ha : Admits r m s)
    (hexec : exec c s = .next (s.counted.answer r m st [])) :
    ∃ t, exec c s = .next t ∧ Answers m r.cmd st [] s t ∧ Only [.mgmt, .regs] s t ∧ CountsOnly s t :=
  have hwork : Only [] s.counted s.counted := .refl _ _
  ⟨_, hexec, State.answer_answers ha.1 hwork r st [], State.answer_work_only hwork r st [], State.answer_counts ha.1 hwork r st []⟩

/-! # The model store (R307, R422) -/

/-! ## IMAGE_WRITE -/

section
variable {m : MgmtArgs} {s : State} {ns off : Nat} {data : List Byte} (hat : (ns, off) = m.imageAt) (hdata : data = m.payload.drop 8)
  (ha : Admits ⟨0x30, 2, .device, false⟩ m s)
include hat hdata ha

theorem exec_imageWrite_bad (h : m.imageHeadBad = true ∨ data = [] ∨ 2 ^ 20 < data.length ∨ s.nsCap ns = none) :
    exec (.imageWrite m) s = .next (s.counted.answer ⟨0x30, 2, .device, false⟩ m 2 []) := by
  show execImageWrite m s = _
  unfold execImageWrite
  rw [← hat]
  refine State.runMgmt_counted ha ?_
  rw [← hdata]
  by_cases hform : (m.imageHeadBad || data.isEmpty || 2 ^ 20 < data.length) = true
  · exact if_pos hform
  · have hcap : s.counted.nsCap ns = none := by
      simp only [Bool.or_eq_true, List.isEmpty_iff, decide_eq_true_eq, not_or] at hform
      obtain ⟨⟨hhead, hne⟩, hlen⟩ := hform
      exact ((h.resolve_left hhead).resolve_left hne).resolve_left hlen
    exact (if_neg hform).trans (by rw [hcap]; rfl)

variable {cap : Nat} (hhead : m.imageHeadBad = false) (hne : data ≠ []) (hlen : data.length ≤ 2 ^ 20) (hcap : s.nsCap ns = some cap)
include hhead hne hlen hcap

/-- A write of a good form waits for nothing but the lock of its namespace and room. -/
theorem exec_imageWrite_of_form : exec (.imageWrite m) s = .next
    (if s.nsLocked ns then s.counted.answer ⟨0x30, 2, .device, false⟩ m 3 []
      else if cap < off + data.length then s.counted.answer ⟨0x30, 2, .device, false⟩ m 7 []
      else (s.counted.writeStore ns off data).answer ⟨0x30, 2, .device, false⟩ m 0 []) := by
  have hcap' : s.counted.nsCap ns = some cap := hcap
  show execImageWrite m s = _
  unfold execImageWrite
  rw [← hat]
  refine State.runMgmt_counted ha ?_
  rw [← hdata]
  refine (if_neg (by simpa [hhead, hne] using hlen)).trans ?_
  rw [hcap']
  rfl

end

theorem State.writeStore_only (s : State) (ns off : Nat) (bs : List Byte) : Only [.mem, .store] s (s.writeStore ns off bs) :=
  (WheelFrame.refl (ws := []) (gs := [])).withMem.onStore.only

/-- An image that the written bytes touch is committed no longer. -/
theorem State.mem_writeStore_images {s : State} {ns off : Nat} {bs : List Byte} {i : Committed} :
    i ∈ (s.writeStore ns off bs).store.images ↔
      i ∈ s.store.images ∧ ¬ (i.ns = ns ∧ overlap i.off i.info.length off bs.length = true) := by
  simp only [State.writeStore, State.onStore, State.onStoreMem, List.mem_filter, Bool.not_eq_true', Bool.and_eq_false_iff,
    beq_eq_false_iff_ne, not_and_or, Bool.not_eq_true, ne_eq]

/-! ## IMAGE_COMMIT -/

section
variable {m : MgmtArgs} {s : State} {ns off : Nat} (hat : (ns, off) = m.imageAt) (ha : Admits ⟨0x31, 2, .device, false⟩ m s)
include hat ha

theorem exec_imageCommit_bad (h : m.imageHeadBad = true ∨ m.payload.length ≠ 8 ∨ s.nsCap ns = none) :
    exec (.imageCommit m) s = .next (s.counted.answer ⟨0x31, 2, .device, false⟩ m 2 []) := by
  show execImageCommit m s = _
  unfold execImageCommit
  rw [← hat]
  refine State.runMgmt_counted ha ?_
  by_cases hform : (m.imageHeadBad || m.payload.length != 8) = true
  · exact if_pos hform
  · have hcap : s.counted.nsCap ns = none := by
      simp only [Bool.or_eq_true, bne_iff_ne, not_or] at hform
      simpa [hform] using h
    exact (if_neg hform).trans (by rw [hcap]; rfl)

theorem exec_imageCommit_of_form {cap : Nat} (hhead : m.imageHeadBad = false) (hlen : m.payload.length = 8) (hcap : s.nsCap ns = some cap) :
    exec (.imageCommit m) s = .next
      (if cap ≤ off then s.counted.answer ⟨0x31, 2, .device, false⟩ m 2 []
        else if s.commitOk ns (s.imageBytes ns off cap)
          then (s.counted.commitImage ns off (s.imageBytes ns off cap)).answer ⟨0x31, 2, .device, false⟩ m 0 []
        else s.counted.answer ⟨0x31, 2, .device, false⟩ m 6 []) := by
  have hcap' : s.counted.nsCap ns = some cap := hcap
  show execImageCommit m s = _
  unfold execImageCommit
  rw [← hat]
  refine State.runMgmt_counted ha ?_
  refine (if_neg (by simp [hhead, hlen])).trans ?_
  rw [hcap']
  rfl

end

theorem State.commitImage_only (s : State) (ns off : Nat) (bs : List Byte) : Only [.store] s (s.commitImage ns off bs) := s.onStore_only _

/-- The image that begins at a place is the one committed there last. -/
theorem State.commitImage_committed (s : State) (ns off : Nat) (bs : List Byte) : (s.commitImage ns off bs).committed? ns off =
    some ⟨ns, off, digest256 ((Config.imageInfo bs).signed bs), Config.imageInfo bs⟩ := by
  have hnone : (s.store.images.filter fun j => !(j.ns == ns && j.off == off)).find? (fun i => i.ns == ns && i.off == off) = none :=
    List.find?_eq_none.2 fun i hi => by simpa [imp_iff_not_or] using (List.mem_filter.1 hi).2
  rw [State.committed?, State.commitImage, State.onStore, List.find?_append, hnone]
  simp

theorem State.mem_commitImage_images {s : State} {ns off : Nat} {bs : List Byte} {i : Committed} (h : (i.ns, i.off) ≠ (ns, off)) :
    i ∈ (s.commitImage ns off bs).store.images ↔ i ∈ s.store.images := by
  have hne : i ≠ ⟨ns, off, digest256 ((Config.imageInfo bs).signed bs), Config.imageInfo bs⟩ := fun he => h (by rw [he])
  have hplace : ¬ (i.ns = ns ∧ i.off = off) := fun hi => h (Prod.ext hi.1 hi.2)
  simp [State.commitImage, State.onStore, hne]
  tauto

/-! ## IMAGE_ERASE -/

/-- A committed image is erased. -/
def State.imageErased (s : State) (ns off : Nat) (i : Committed) : State :=
  (s.onStoreMem fun x => mclear x (storeAddr ns off) i.info.length).onStore fun x => { x with images := x.images.erase i }

theorem State.imageErased_only (s : State) (ns off : Nat) (i : Committed) : Only [.mem, .store] s (s.imageErased ns off i) :=
  (WheelFrame.refl (ws := []) (gs := [])).withMem.onStore.only

section
variable {m : MgmtArgs} {s : State} {ns off : Nat} (hat : (ns, off) = m.imageAt) (ha : Admits ⟨0x32, 2, .device, false⟩ m s)
include hat ha

theorem exec_imageErase_bad (h : m.imageHeadBad = true ∨ m.payload.length ≠ 8 ∨ s.nsCap ns = none) :
    exec (.imageErase m) s = .next (s.counted.answer ⟨0x32, 2, .device, false⟩ m 2 []) := by
  have hform : (m.imageHeadBad || m.payload.length != 8 || (s.counted.nsCap ns).isNone) = true := by
    simpa [or_assoc] using h
  show execImageErase m s = _
  unfold execImageErase
  rw [← hat]
  exact State.runMgmt_counted ha (if_pos hform)

variable (hhead : m.imageHeadBad = false) (hlen : m.payload.length = 8) (hcap : s.nsCap ns ≠ none)
include hhead hlen hcap

theorem exec_imageErase_locked (hlock : s.nsLocked ns = true) :
    exec (.imageErase m) s = .next (s.counted.answer ⟨0x32, 2, .device, false⟩ m 3 []) := by
  have hform : (m.imageHeadBad || m.payload.length != 8 || (s.counted.nsCap ns).isNone) = false := by
    simpa [hhead, hlen, ← Option.isSome_iff_ne_none] using hcap
  show execImageErase m s = _
  unfold execImageErase
  rw [← hat]
  exact State.runMgmt_counted ha ((if_neg (by rw [hform]; decide)).trans (if_pos hlock))

theorem exec_imageErase_of_unlocked {x : Option Committed} (hlock : s.nsLocked ns = false) (hx : s.committed? ns off = x) :
    exec (.imageErase m) s = .next (x.elim (s.counted.answer ⟨0x32, 2, .device, false⟩ m 5 []) fun i =>
      (s.counted.imageErased ns off i).answer ⟨0x32, 2, .device, false⟩ m 0 []) := by
  have hform : (m.imageHeadBad || m.payload.length != 8 || (s.counted.nsCap ns).isNone) = false := by
    simpa [hhead, hlen, ← Option.isSome_iff_ne_none] using hcap
  have hlock' : s.counted.nsLocked ns = false := hlock
  have hx' : s.counted.committed? ns off = x := hx
  show execImageErase m s = _
  unfold execImageErase
  rw [← hat]
  refine State.runMgmt_counted ha ?_
  refine (if_neg (by rw [hform]; decide)).trans ((if_neg (by rw [hlock']; decide)).trans ?_)
  rw [hx']
  cases x <;> rfl

end

end Sys2Proof.Machine

namespace Sys2Proof.Machine

/-! # Firmware staging (R427, R430) -/

section
variable {m : MgmtArgs} {s : State}

/-! ## Commands that are refused -/

theorem exec_fw_bad {cmd : Nat} {c : Instr} (hc : (cmd, c) ∈ [(0x40, Instr.fwBegin m), (0x42, .fwCommit m), (0x43, .fwAbort m)])
    (ha : Admits ⟨cmd, 2, .device, false⟩ m s) (h : m.payload ≠ []) :
    exec c s = .next (s.counted.answer ⟨cmd, 2, .device, false⟩ m 2 []) := by
  simp only [List.mem_cons, List.not_mem_nil, or_false, Prod.mk.injEq] at hc
  obtain ⟨rfl, rfl⟩ | ⟨rfl, rfl⟩ | ⟨rfl, rfl⟩ := hc
  · show execFwBegin m s = _
    unfold execFwBegin
    refine State.runMgmt_counted ha ?_
    exact if_pos h
  · show execFwCommit m s = _
    unfold execFwCommit
    refine State.runMgmt_counted ha ?_
    exact if_pos h
  · show execFwAbort m s = _
    unfold execFwAbort
    refine State.runMgmt_counted ha ?_
    exact if_pos h

/-- A command of an empty payload that comes out of turn (R427). -/
theorem exec_fw_busy {cmd : Nat} {c : Instr} (hc : (cmd, c) ∈ [(0x40, Instr.fwBegin m), (0x42, .fwCommit m), (0x43, .fwAbort m)])
    (ha : Admits ⟨cmd, 2, .device, false⟩ m s) (hempty : m.payload = [])
    (h : (cmd = 0x40 ∧ s.health.slotState s.otherSlot ≠ .idle) ∨ (cmd = 0x42 ∧ s.health.slotState s.otherSlot ≠ .writing) ∨
      (cmd = 0x43 ∧ s.health.slotState s.otherSlot ≠ .writing ∧ s.health.slotState s.otherSlot ≠ .staged)) :
    exec c s = .next (s.counted.answer ⟨cmd, 2, .device, false⟩ m 4 []) := by
  have hform : ¬ m.payload ≠ [] := not_not.2 hempty
  simp only [List.mem_cons, List.not_mem_nil, or_false, Prod.mk.injEq] at hc
  obtain ⟨rfl, rfl⟩ | ⟨rfl, rfl⟩ | ⟨rfl, rfl⟩ := hc
  · have hst : s.health.slotState s.otherSlot ≠ .idle := by simpa using h
    show execFwBegin m s = _
    unfold execFwBegin
    refine State.runMgmt_counted ha ?_
    exact (if_neg hform).trans (if_pos hst)
  · have hst : s.health.slotState s.otherSlot ≠ .writing := by simpa using h
    show execFwCommit m s = _
    unfold execFwCommit
    refine State.runMgmt_counted ha ?_
    exact (if_neg hform).trans (if_pos hst)
  · have hst : s.health.slotState s.otherSlot ≠ .writing ∧ s.health.slotState s.otherSlot ≠ .staged := by simpa using h
    show execFwAbort m s = _
    unfold execFwAbort
    refine State.runMgmt_counted ha ?_
    exact (if_neg hform).trans (if_pos hst)

theorem exec_fwData_bad (ha : Admits ⟨0x41, 2, .device, false⟩ m s)
    (h : m.payload.length < 5 ∨ 2 ^ 20 < (m.payload.drop 4).length ∨ slotBytes < m.field 0 0 32 + (m.payload.drop 4).length) :
    exec (.fwData m) s = .next (s.counted.answer ⟨0x41, 2, .device, false⟩ m 2 []) := by
  show execFwData m s = _
  unfold execFwData
  refine State.runMgmt_counted ha ?_
  exact if_pos h

/-! ## Commands that act on the other slot -/

/-- The slot is erased and takes firmware. -/
def State.slotBegun (s : State) (k : Nat) : State :=
  ((s.onMem fun x => { x with flash := mclear x.flash (slotBase k) slotBytes }).onHealth fun h => h.setSlot k .writing).onBoot
    fun b => { b with stageBytes := 0, stageDigest := none }

/-- Bytes are written to the slot. -/
def State.slotWritten (s : State) (k off : Nat) (data : List Byte) : State :=
  (s.onMem fun x => { x with flash := mwrite x.flash (slotBase k + off) data }).onBoot fun b =>
    { b with stageBytes := b.stageBytes + data.length }

/-- The slot is staged. -/
def State.slotStaged (s : State) (k : Nat) : State :=
  (s.onHealth fun h => h.setSlot k .staged).onBoot fun b =>
    { b with stageDigest := some (digest256 (slotFirmware s.mem.flash k)) }

/-- The slot's firmware did not verify. -/
def State.slotRejected (s : State) (k : Nat) : State := (s.onHealth fun h => h.setSlot k .idle).fault 1 0xF 0xF1 15 0 0

/-- The slot is marked empty. -/
def State.slotEmptied (s : State) (k : Nat) : State :=
  (s.onHealth fun h => h.setSlot k .idle).onBoot fun b => { b with stageBytes := 0, stageDigest := none }

theorem State.slotBegun_only (s : State) (k : Nat) : Only [.mem, .health, .boot] s (s.slotBegun k) :=
  (WheelFrame.refl (ws := []) (gs := [])).withMem.onHealth.onBoot.only

theorem State.slotWritten_only (s : State) (k off : Nat) (data : List Byte) : Only [.mem, .boot] s (s.slotWritten k off data) :=
  (WheelFrame.refl (ws := []) (gs := [])).withMem.onBoot.only

theorem State.slotStaged_only (s : State) (k : Nat) : Only [.health, .boot] s (s.slotStaged k) :=
  (WheelFrame.refl (ws := []) (gs := [])).onHealth.onBoot.only

theorem State.slotEmptied_only (s : State) (k : Nat) : Only [.health, .boot] s (s.slotEmptied k) :=
  (WheelFrame.refl (ws := []) (gs := [])).onHealth.onBoot.only

theorem slotRejected_harmless : FaultRec.Harmless { code := faultCode 1 0xF 0xF1, sagger := sgField 15, unit := 0, subunit := 0 } :=
  .inr (.inl (show codeClass (faultCode 1 0xF 0xF1) = 1 by decide))

theorem State.slotRejected_only (s : State) (k : Nat) : Only [.health, .flog] s (s.slotRejected k) :=
  ((WheelFrame.refl (ws := []) (gs := [])).onHealth.raiseHarmless slotRejected_harmless).only

variable {k : Nat} (hk : k = s.otherSlot)
include hk

section
variable (hempty : m.payload = [])
include hempty

theorem exec_fwBegin_of_idle (ha : Admits ⟨0x40, 2, .device, false⟩ m s) (hst : s.health.slotState k = .idle) :
    exec (.fwBegin m) s = .next ((s.counted.slotBegun k).answer ⟨0x40, 2, .device, false⟩ m 0 []) := by
  subst hk
  show execFwBegin m s = _
  unfold execFwBegin
  refine State.runMgmt_counted ha ?_
  exact (if_neg (not_not.2 hempty)).trans (if_neg (not_not.2 hst))

theorem exec_fwCommit_of_writing (ha : Admits ⟨0x42, 2, .device, false⟩ m s) (hst : s.health.slotState k = .writing) :
    exec (.fwCommit m) s = .next (if slotOk s.mem.flash k s.fuses.svnMin
      then (s.counted.slotStaged k).answer ⟨0x42, 2, .device, false⟩ m 0 []
      else (s.counted.slotRejected k).answer ⟨0x42, 2, .device, false⟩ m 6 []) := by
  subst hk
  show execFwCommit m s = _
  unfold execFwCommit
  refine State.runMgmt_counted ha ?_
  exact (if_neg (not_not.2 hempty)).trans (if_neg (not_not.2 hst))

theorem exec_fwAbort_of_begun (ha : Admits ⟨0x43, 2, .device, false⟩ m s)
    (hst : s.health.slotState k = .writing ∨ s.health.slotState k = .staged) :
    exec (.fwAbort m) s = .next ((s.counted.slotEmptied k).answer ⟨0x43, 2, .device, false⟩ m 0 []) := by
  subst hk
  have hturn : ¬ (s.health.slotState s.otherSlot ≠ .writing ∧ s.health.slotState s.otherSlot ≠ .staged) := by
    rwa [not_and_or, not_not, not_not]
  show execFwAbort m s = _
  unfold execFwAbort
  refine State.runMgmt_counted ha ?_
  exact (if_neg (not_not.2 hempty)).trans (if_neg hturn)

end

theorem exec_fwData_of_form (ha : Admits ⟨0x41, 2, .device, false⟩ m s)
    (hform : ¬ (m.payload.length < 5 ∨ 2 ^ 20 < (m.payload.drop 4).length ∨ slotBytes < m.field 0 0 32 + (m.payload.drop 4).length)) :
    exec (.fwData m) s = .next (if s.health.slotState k ≠ .writing then s.counted.answer ⟨0x41, 2, .device, false⟩ m 4 []
      else (s.counted.slotWritten k (m.field 0 0 32) (m.payload.drop 4)).answer ⟨0x41, 2, .device, false⟩ m 0 []) := by
  subst hk
  show execFwData m s = _
  unfold execFwData
  refine State.runMgmt_counted ha ?_
  exact if_neg hform

end

end Sys2Proof.Machine

namespace Sys2Proof.Machine

/-! # IMAGE_REMOVE (R303, R304, R423) -/

/-! ## Frames of a stratum in the scrub -/

/-- An entry that is set is there, and no other has left. -/
theorem any_key_tset {α : Type} (t : Tab α) (k j : Nat) (v : α) :
    (tset t k v).any (fun e => e.1 == j) = (t.any (fun e => e.1 == j) || k == j) := by
  induction t with
  | nil => simp [tset]
  | cons c r ih =>
    obtain ⟨a, x⟩ := c
    unfold tset
    split
    · simp only [List.any_cons]
      exact Bool.or_comm ..
    · split
      next heq => subst heq; simp only [List.any_cons]; cases (a == j) <;> simp
      next => simp only [List.any_cons, ih, Bool.or_assoc]

theorem any_key_foldl_tset {α : Type} (fs : List Nat) (t : Tab α) (j : Nat) (v : α) :
    (fs.foldl (fun t f => tset t f v) t).any (fun e => e.1 == j) = (t.any (fun e => e.1 == j) || fs.contains j) := by
  induction fs generalizing t with
  | nil => simp
  | cons f fs ih => rw [List.foldl_cons, ih, any_key_tset, List.contains_cons, Bool.or_assoc, Bool.beq_comm (a := f)]

section
variable (s : State) (g t : Nat)

theorem State.scrubStratum_frame : WheelFrame [.saggers, .hbmStacks] [] [g] s (s.scrubStratum g t) := WheelFrame.refl.onSagger.onStack

theorem State.scrubStratum_images (h : Nat) : ((s.scrubStratum g t).sagger h).images = (s.sagger h).images := by
  rw [State.scrubStratum, State.onStack_sagger, State.onSagger_sagger]
  split
  next hh => rw [hh]
  next => rfl

theorem State.scrubStratum_frames (f : Nat) : ((s.scrubStratum g t).sagger g).frames.any (fun e => e.1 == f) = true ↔
    (s.sagger g).frames.any (fun e => e.1 == f) = true ∨ ∃ k < stratumFrames, f = t * stratumFrames + k := by
  rw [State.scrubStratum, State.onStack_sagger, State.onSagger_sagger, if_pos rfl, any_key_foldl_tset, Bool.or_eq_true,
    List.contains_iff_mem, List.mem_filter, List.mem_map]
  simp only [List.mem_range, Bool.not_eq_true', eq_comm (a := f)]
  cases (s.sagger g).frames.any fun e => e.1 == f <;> simp

end

/-- Every frame of the strata is there, in the scrub or in use. -/
theorem State.scrubStrata_frames (g : Nat) (ts : List Nat) (s : State) {t k : Nat} (ht : t ∈ ts) (hk : k < stratumFrames) :
    ((ts.foldl (fun s t => s.scrubStratum g t) s).sagger g).frames.any (fun e => e.1 == t * stratumFrames + k) = true := by
  have hkeeps (ts : List Nat) (u : State) (f : Nat) (hf : (u.sagger g).frames.any (fun e => e.1 == f) = true) :
      ((ts.foldl (fun s t => s.scrubStratum g t) u).sagger g).frames.any (fun e => e.1 == f) = true :=
    List.foldlRecOn (motive := fun u : State => (u.sagger g).frames.any (fun e => e.1 == f) = true) ts _ hf
      fun u hu t _ => (u.scrubStratum_frames g t f).2 (.inl hu)
  induction ts generalizing s with
  | nil => cases ht
  | cons a ts ih =>
    obtain rfl | ht := List.mem_cons.1 ht
    · exact hkeeps ts _ _ ((s.scrubStratum_frames g t _).2 (.inr ⟨k, hk, rfl⟩))
    · exact ih _ ht

/-! ## The image is detached (R423) -/

section
variable (s : State) (g : Nat) (i : LoadedImage)

/-- The image has left its sagger, and its loads are given up. -/
def State.imageDropped : State :=
  (s.onLat fun y => { y with loadings := y.loadings.filter fun l => !(l.sagger == g && l.image.index == i.index) }).onSagger g fun x =>
    { x with images := x.images.erase i }

/-- Strata of a dropped image that no image holds any more. -/
def State.freedStrata : List Nat := i.strata.filter fun t => !(s.imageDropped g i).imageHolds t

/-- Freed strata lose their protection and their poisoned chunks. -/
def State.strataOpened : State :=
  [0, 1].foldl (fun u d => u.onPoison d fun l => l.filter fun p => !(s.freedStrata g i).contains (stratumOfAddr (p.chunk * 65536)))
    ((s.imageDropped g i).onMem fun m => { m with wp := m.wp.filter fun t => !(s.freedStrata g i).contains t })

theorem State.detach_eq : s.detach g i =
    ((s.freedStrata g i).filter (s.ownsStratum g)).foldl (fun s t => s.scrubStratum g t) (s.strataOpened g i) := rfl

theorem State.strataOpened_frame : WheelFrame [.lat, .saggers, .mem, .poison] [] [g] s (s.strataOpened g i) :=
  WheelFrame.refl.onLat.onSagger.withMem.onPoison.onPoison

theorem State.scrubStrata_frame (ts : List Nat) : WheelFrame [.saggers, .hbmStacks] [] [g] s (ts.foldl (fun s t => s.scrubStratum g t) s) :=
  .foldl (fun u t hu => hu.trans (u.scrubStratum_frame g t)) _ .refl

theorem State.detach_frame : WheelFrame [.lat, .saggers, .mem, .poison, .hbmStacks] [] [g] s (s.detach g i) := by
  rw [State.detach_eq]
  exact ((s.strataOpened_frame g i).mono (by decide) (List.Subset.refl _)).trans
    ((State.scrubStrata_frame _ g _).mono (by decide) (List.Subset.refl _))

theorem State.detach_mem : (s.detach g i).mem = { s.mem with wp := s.mem.wp.filter fun t => !(s.freedStrata g i).contains t } := by
  rw [State.detach_eq, (State.scrubStrata_frame _ g _).mem_eq]
  rfl

theorem State.detach_images (h : Nat) : ((s.detach g i).sagger h).images = ((s.imageDropped g i).sagger h).images := by
  rw [State.detach_eq]
  exact List.foldlRecOn (motive := fun u : State => (u.sagger h).images = ((s.imageDropped g i).sagger h).images) _ _ rfl
    fun u hu t _ => (u.scrubStratum_images g t h).trans hu

theorem State.detach_lat : (s.detach g i).lat = (s.imageDropped g i).lat := by
  rw [State.detach_eq, (State.scrubStrata_frame _ g _).lat_eq]
  rfl

theorem State.imageHolds_congr {u v : State} (himages : ∀ h, (u.sagger h).images = (v.sagger h).images) (hlat : u.lat = v.lat) :
    u.imageHolds = v.imageHolds := by
  funext t
  simp only [State.imageHolds, himages, hlat]

theorem State.answer_imageHolds (u : State) (r : MgmtRule) (m : MgmtArgs) (st : Nat) (bs : List Byte) :
    (u.answer r m st bs).imageHolds = u.imageHolds :=
  State.imageHolds_congr (fun h => by rw [State.answer_sagger]) (State.answer_lat ..)

/-- A stratum of the image that nothing holds is freed. -/
theorem State.mem_freedStrata {t : Nat} (ht : t ∈ i.strata) (hfree : (s.detach g i).imageHolds t = false) : t ∈ s.freedStrata g i := by
  rw [State.imageHolds_congr (s.detach_images g i) (s.detach_lat g i)] at hfree
  exact List.mem_filter.2 ⟨ht, by rw [hfree]; rfl⟩

theorem State.detach_images_same : ((s.detach g i).sagger g).images = (s.sagger g).images.erase i := by
  rw [State.detach_images, State.imageDropped, State.onSagger_sagger, if_pos rfl]
  rfl

/-- A freed stratum is protected no longer. -/
theorem State.freed_not_wp {t : Nat} (ht : t ∈ s.freedStrata g i) : t ∉ (s.detach g i).mem.wp := by
  rw [State.detach_mem]
  exact fun hwp => by simpa [ht] using (List.mem_filter.1 hwp).2

/-- A freed stratum of the sagger itself has its frames in the pool, or on their way to it (R304). -/
theorem State.freed_frames {t k : Nat} (ht : t ∈ s.freedStrata g i) (hown : s.ownsStratum g t = true) (hk : k < stratumFrames) :
    ((s.detach g i).sagger g).frames.any (fun e => e.1 == t * stratumFrames + k) = true := by
  rw [State.detach_eq]
  exact State.scrubStrata_frames g _ _ (List.mem_filter.2 ⟨ht, hown⟩) hk

end

/-! ## The command -/

section
variable {m : MgmtArgs} {s : State} (ha : Admits ⟨0x34, 1, .sagger, false⟩ m s)
include ha

theorem exec_imageRemove_bad (h : m.payload.length ≠ 4 ∨ m.field 0 16 16 ≠ 0) :
    exec (.imageRemove m) s = .next (s.counted.answer ⟨0x34, 1, .sagger, false⟩ m 2 []) := by
  show execImageRemove m s = _
  unfold execImageRemove
  refine State.runMgmt_counted ha ?_
  exact if_pos h

theorem exec_imageRemove_of_form {g : Nat} (hg : g = m.sagger.toNat) (hlen : m.payload.length = 4) (hres : m.field 0 16 16 = 0)
    {x : Option LoadedImage} (hx : s.image? g (m.field 0 0 16) = x) : exec (.imageRemove m) s = .next
      (x.elim (s.counted.answer ⟨0x34, 1, .sagger, false⟩ m 5 []) fun i =>
        if s.imageUsed g (m.field 0 0 16) then s.counted.answer ⟨0x34, 1, .sagger, false⟩ m 4 []
        else (s.counted.detach g i).answer ⟨0x34, 1, .sagger, false⟩ m 0 []) := by
  subst hg
  have hx' : s.counted.image? m.sagger.toNat (m.field 0 0 16) = x := hx
  show execImageRemove m s = _
  unfold execImageRemove
  refine State.runMgmt_counted ha ?_
  refine (if_neg (by simp [hlen, hres])).trans ?_
  rw [hx']
  cases x <;> rfl

end

end Sys2Proof.Machine

namespace Sys2Proof.Machine

/-! # IMAGE_LOAD (R54, R55, R303, R306, R423) -/

/-! ## The plan of a load (R423) -/

theorem nodup_of_eraseDups_length {α : Type} [BEq α] [LawfulBEq α] {l : List α} (h : l.eraseDups.length = l.length) :
    l.Nodup := by
  have hle (n : Nat) : ∀ l : List α, l.length ≤ n →
      l.eraseDups.length ≤ l.length ∧ (l.eraseDups.length = l.length → l.Nodup) := by
    induction n with
    | zero => intro l hl; simp [List.length_eq_zero_iff.1 (Nat.le_zero.1 hl)]
    | succ n ih =>
      intro l hl
      cases l with
      | nil => simp
      | cons a l =>
        have hfilter := List.length_filter_le (fun b => !b == a) l
        obtain ⟨hrest, -⟩ := ih (l.filter fun b => !b == a) (by simp at hl; omega)
        rw [List.eraseDups_cons, List.length_cons, List.length_cons]
        refine ⟨by omega, fun heq => ?_⟩
        have hsame : l.filter (fun b => !b == a) = l := List.filter_eq_self.2 (List.length_filter_eq_length_iff.1 (by omega))
        rw [hsame] at heq
        obtain ⟨-, hnodup⟩ := ih l (by simpa using hl)
        refine List.nodup_cons.2 ⟨fun ha => ?_, hnodup (by omega)⟩
        simpa using List.filter_eq_self.1 hsame a ha
  exact (hle l.length l (Nat.le_refl _)).2 h

/-- A planned image has its strata from the list of the command, and its chunks fit them. -/
theorem State.loadPlan_ok {s : State} {g : Nat} {a : LoadArgs} {i : LoadedImage} (h : s.loadPlan g a = .ok i) :
    i.strata.Sublist a.strata ∧ fits i.info.chunks i.strata.length = true := by
  unfold State.loadPlan at h
  split at h
  · cases h
  · split at h
    · cases h
    · dsimp only at h
      split at h
      · cases h
      · split at h
        · cases h
        · split at h
          next hfits => cases h; exact ⟨List.filter_sublist, hfits⟩
          next => cases h

theorem strata_nodup_of_load {m : MgmtArgs} (h : m.loadBad = false) : m.load.strata.Nodup := by
  refine nodup_of_eraseDups_length ?_
  simp only [MgmtArgs.loadBad, Bool.or_eq_false_iff, bne_eq_false_iff_eq] at h
  exact h.2

/-! ## The places of the chunks (R306) -/

/-- The chunks of an image lie in distinct strata in turn, and fit them. -/
structure LoadedImage.Placed (i : LoadedImage) : Prop where
  nodup : i.strata.Nodup
  fits  : fits i.info.chunks i.strata.length = true

namespace LoadedImage

theorem chunkAddr_eq {i : LoadedImage} (hpos : i.strata.length ≠ 0) (c : Nat) : i.byteAddr (c * 65536) =
    i.strata.getD (c % i.strata.length) 0 * stratumBytes + c / i.strata.length * 65536 := by
  rw [byteAddr, if_neg hpos, Nat.mul_div_cancel _ (by decide), Nat.mul_mod_left, Nat.add_zero]

namespace Placed

variable {i : LoadedImage} (h : i.Placed)
include h

theorem length_ne_zero : i.strata.length ≠ 0 := by
  have := h.fits
  simp only [Machine.fits, Bool.and_eq_true, bne_iff_ne] at this
  exact this.1

theorem chunk_in_stratum {c : Nat} (hc : c < i.info.chunks) : c / i.strata.length * 65536 + 65536 ≤ stratumBytes := by
  have hfits := h.fits
  simp only [Machine.fits, Bool.and_eq_true, decide_eq_true_eq] at hfits
  have hpos := Nat.pos_of_ne_zero h.length_ne_zero
  have hrow : c / i.strata.length + 1 ≤ (i.info.chunks + i.strata.length - 1) / i.strata.length := by
    rw [← Nat.add_div_right _ hpos]
    exact Nat.div_le_div_right (by omega)
  calc c / i.strata.length * 65536 + 65536 = (c / i.strata.length + 1) * 65536 := by rw [Nat.add_one_mul]
    _ ≤ (i.info.chunks + i.strata.length - 1) / i.strata.length * 65536 := Nat.mul_le_mul_right _ hrow
    _ ≤ stratumBytes := hfits.2

/-- Two chunks do not meet. -/
theorem chunks_apart {c c' : Nat} (hc : c < i.info.chunks) (hc' : c' < i.info.chunks) (hne : c ≠ c') :
    Apart (i.byteAddr (c * 65536)) 65536 (i.byteAddr (c' * 65536)) 65536 := by
  have hlen := h.length_ne_zero
  have hin := h.chunk_in_stratum hc
  have hin' := h.chunk_in_stratum hc'
  rw [chunkAddr_eq hlen, chunkAddr_eq hlen, Apart]
  have hlt (x : Nat) : x % i.strata.length < i.strata.length := Nat.mod_lt _ (Nat.pos_of_ne_zero hlen)
  by_cases hsame : c % i.strata.length = c' % i.strata.length
  · have hrow : c / i.strata.length ≠ c' / i.strata.length := fun hrow =>
      hne (by rw [← Nat.div_add_mod c i.strata.length, ← Nat.div_add_mod c' i.strata.length, hrow, hsame])
    rw [hsame]
    omega
  · have hstrata : i.strata.getD (c % i.strata.length) 0 ≠ i.strata.getD (c' % i.strata.length) 0 := by
      rw [List.getD_eq_getElem _ _ (hlt c), List.getD_eq_getElem _ _ (hlt c')]
      exact fun he => hsame ((h.nodup.getElem_inj_iff).1 he)
    generalize i.strata.getD (c % i.strata.length) 0 = a at hstrata ⊢
    generalize i.strata.getD (c' % i.strata.length) 0 = b at hstrata ⊢
    obtain hab | hab := Nat.lt_or_gt_of_ne hstrata
    · have := Nat.mul_le_mul_right stratumBytes (Nat.succ_le_of_lt hab)
      rw [Nat.succ_mul] at this
      omega
    · have := Nat.mul_le_mul_right stratumBytes (Nat.succ_le_of_lt hab)
      rw [Nat.succ_mul] at this
      omega

end Placed

end LoadedImage

/-! ## The weight region is written (R306) -/

section
variable (s : State) (i : LoadedImage)

theorem State.storeWeights_congr {s t : State} (h : t.mem.store = s.mem.store) : t.storeWeights i = s.storeWeights i := by
  funext off n
  rw [State.storeWeights, h, State.storeWeights]

/-- Chunk `c` from the own store: its place and its bytes. -/
def State.storedChunk (c : Nat) : Nat × List Byte := (i.byteAddr (c * 65536), s.storeWeights i (c * 65536) (i.info.chunkLen c))

/-- Chunks are written from the own store. -/
def State.chunksWritten (cs : List Nat) : State :=
  cs.foldl (fun s c => s.writeChunk i c (s.storeWeights i (c * 65536) (i.info.chunkLen c))) s

theorem State.chunksWritten_mem (cs : List Nat) :
    (s.chunksWritten i cs).mem = { s.mem with hbm := mwrites s.mem.hbm (cs.map (s.storedChunk i)) } := by
  induction cs using List.reverseRecOn with
  | nil => rfl
  | append_singleton cs c ih =>
    have hstore : (s.chunksWritten i cs).mem.store = s.mem.store := by rw [ih]
    have hstep : (s.chunksWritten i (cs ++ [c])).mem = { (s.chunksWritten i cs).mem with
        hbm := mwrite (s.chunksWritten i cs).mem.hbm (s.storedChunk i c).1 (s.storedChunk i c).2 } := by
      rw [State.storedChunk, ← State.storeWeights_congr i hstore, State.chunksWritten, List.foldl_append]
      rfl
    rw [hstep, ih, List.map_append, List.map_singleton, mwrites_append_singleton]

theorem State.chunksWritten_frame (cs : List Nat) : WheelFrame [.mem, .regs] [] [] s (s.chunksWritten i cs) :=
  .foldl (fun _ _ hu => hu.withMem.bump) cs .refl

/-- Every chunk reads back at its place. -/
theorem State.mread_chunksWritten (h : i.Placed) {c : Nat} (hc : c < i.info.chunks) :
    mread (s.chunksWritten i (List.range i.info.chunks)).mem.hbm (i.byteAddr (c * 65536)) (i.info.chunkLen c) =
      s.storeWeights i (c * 65536) (i.info.chunkLen c) := by
  have hlen (c : Nat) : (s.storedChunk i c).2.length = i.info.chunkLen c := mread_length ..
  have hle (c : Nat) : i.info.chunkLen c ≤ 65536 := Nat.min_le_left ..
  have hapart : ((List.range i.info.chunks).map (s.storedChunk i)).Pairwise fun v w => Apart v.1 v.2.length w.1 w.2.length := by
    refine List.pairwise_map.2 (List.nodup_range.imp_of_mem fun {a b} ha hb hne => ?_)
    have hab := h.chunks_apart (List.mem_range.1 ha) (List.mem_range.1 hb) hne
    have ha := hle a
    have hb := hle b
    rw [hlen, hlen]
    unfold Apart State.storedChunk at *
    dsimp only
    omega
  have hread := mread_mwrites s.mem.hbm hapart (List.mem_map_of_mem (List.mem_range.2 hc))
  rw [hlen] at hread
  rw [State.chunksWritten_mem]
  exact hread

end

/-! ## Installation (R303, R334) -/

/-- From `s` to `t` tallies have been configured: memory and the images of the saggers are as they were. -/
structure Configures (s t : State) : Prop where
  only   : Only [.saggers, .tallies, .flog, .lute] s t
  images : ∀ h, (t.sagger h).images = (s.sagger h).images

theorem State.raise_images (s : State) (r : FaultRec) (h : Nat) : ((s.raise r).sagger h).images = (s.sagger h).images := by
  obtain ⟨st, cause, hraise⟩ := s.raise_sagger r h
  rw [hraise]

theorem State.configTally_configures (s : State) (k : Nat) (cfg : BitVec 64) : Configures s (s.configTally k cfg) := by
  unfold State.configTally
  dsimp only
  split
  · exact ⟨Only.mono State.fault_only (by decide), s.raise_images _⟩
  · exact ⟨Only.mono (s.onTally_only k _) (by decide), fun _ => rfl⟩

section
variable (s : State) (g : Nat) (i : LoadedImage)

/-- The image is in its sagger's list, and its strata are protected. -/
def State.imagePlaced : State :=
  (s.onSagger g fun x => { x with images := (x.images.filter fun j => j.index != i.index) ++ [i] }).onMem fun m =>
    { m with wp := i.strata.foldl addSorted m.wp }

theorem State.installImage_configures : Configures (s.imagePlaced g i) (s.installImage g i) :=
  List.foldlRecOn (motive := fun t => Configures (s.imagePlaced g i) t) _ _ ⟨.refl _ _, fun _ => rfl⟩ fun t ht e _ =>
    have hconf := t.configTally_configures (tallyKey g e.1) (BitVec.ofNat 64 e.2)
    ⟨ht.only.trans hconf.only, fun h => (hconf.images h).trans (ht.images h)⟩

theorem State.installImage_only : Only [.mem, .saggers, .tallies, .flog, .lute] s (s.installImage g i) :=
  ((WheelFrame.refl (ps := [.mem, .saggers]) (ws := []) (gs := [g])).onSagger.withMem.only.mono (by decide)).trans
    ((s.installImage_configures g i).only.mono (by decide))

theorem State.installImage_mem : (s.installImage g i).mem = { s.mem with wp := i.strata.foldl addSorted s.mem.wp } :=
  (s.installImage_configures g i).only .mem (by decide)

theorem State.installImage_images :
    ((s.installImage g i).sagger g).images = (s.sagger g).images.filter (fun j => j.index != i.index) ++ [i] := by
  rw [(s.installImage_configures g i).images, State.imagePlaced, State.onMem_sagger, State.onSagger_sagger, if_pos rfl]

theorem State.installImage_images_of_ne {h : Nat} (hne : h ≠ g) : ((s.installImage g i).sagger h).images = (s.sagger h).images := by
  rw [(s.installImage_configures g i).images, State.imagePlaced, State.onMem_sagger, State.onSagger_sagger, if_neg hne]

end

/-! ## From the own store -/

section
variable (s : State) (g : Nat) (i : LoadedImage)

/-- The state in which an image is loaded: a free value has been drawn for the details that the spec leaves open. -/
def State.loadStart : State := (s.counted.dropParked i.strata).draw.2

theorem State.loadStart_only : Only [.lat, .freeCtr] s.counted (s.loadStart i) := by
  intro p hp
  cases p
  case lat | freeCtr => simp at hp
  all_goals rfl

/-- What the checks of R55 find in the own store. -/
def State.ownLoadFault : Option Nat := i.info.loadFault (s.storeWeights i) (Config.freeNat s.freeCtr % 256)

theorem State.loadImage_eq {x : Option Nat} (hx : s.ownLoadFault i = x) : s.loadImage g i = x.elim
    (true, if s.draw.2.sameLoaded i then s.draw.2.installImage g i else s.draw.2.loadFromStore g i)
    fun d => (false, s.draw.2.loadRejected g d) := by
  unfold State.ownLoadFault at hx
  unfold State.loadImage
  rw [show s.draw = (s.freeCtr, s.draw.2) from rfl]
  dsimp only
  rw [hx]
  cases x <;> rfl

/-- A load writes every chunk and installs the image, when every page of the chunks can be read (R308). -/
theorem State.loadFromStore_of_readable (h : ∀ c < i.info.chunks, (s.storeChunk i c).isSome = true) : s.loadFromStore g i =
    ((s.chunksWritten i (List.range i.info.chunks)).bump .mstReadBytes 0 i.info.weightLen).installImage g i := by
  have hnone : (List.range i.info.chunks).filter (fun c => (s.storeChunk i c).isNone) = [] :=
    List.filter_eq_nil_iff.2 fun c hc => by
      have hsome := h c (List.mem_range.1 hc)
      simpa using Option.isSome_iff_ne_none.1 hsome
  unfold State.loadFromStore
  dsimp only
  rw [hnone]
  rfl

theorem loadRejected_harmless (d : Nat) : FaultRec.Harmless { code := faultCode 3 0 d, sagger := sgField g, level := 7, unit := 13 } :=
  .inl rfl

theorem State.loadRejected_only (d : Nat) : Only [.flog] s (s.loadRejected g d) :=
  ((WheelFrame.refl (ws := []) (gs := [])).raiseHarmless (loadRejected_harmless g d)).only

end

/-- The weights of an image are at their places: a copy in the same strata is kept (R423). -/
def State.weightsPlaced (s : State) (i : LoadedImage) : State :=
  if s.sameLoaded i then s else (s.chunksWritten i (List.range i.info.chunks)).bump .mstReadBytes 0 i.info.weightLen

section
variable (s : State) (g : Nat) (i : LoadedImage)

theorem State.weightsPlaced_frame : WheelFrame [.mem, .regs] [] [] s (s.weightsPlaced i) :=
  .ite .refl (s.chunksWritten_frame i _).bump

theorem State.weightsPlaced_mem : (s.weightsPlaced i).mem = { s.mem with hbm := (s.weightsPlaced i).mem.hbm } := by
  unfold State.weightsPlaced
  split
  · rfl
  · rw [State.bump_mem, State.chunksWritten_mem]

variable {s i}

theorem State.weightsPlaced_hbm_of_same (h : s.sameLoaded i = true) : (s.weightsPlaced i).mem.hbm = s.mem.hbm := by
  rw [State.weightsPlaced, if_pos h]

theorem State.mread_weightsPlaced (h : s.sameLoaded i = false) (hi : i.Placed) {c : Nat} (hc : c < i.info.chunks) :
    mread (s.weightsPlaced i).mem.hbm (i.byteAddr (c * 65536)) (i.info.chunkLen c) = s.storeWeights i (c * 65536) (i.info.chunkLen c) := by
  rw [State.weightsPlaced, if_neg (by rw [h]; decide), State.bump_mem]
  exact s.mread_chunksWritten i hi hc

end

/-- The image has been loaded from the own store. -/
def State.ownLoaded (s : State) (g : Nat) (i : LoadedImage) : State := ((s.loadStart i).weightsPlaced i).installImage g i

section
variable (s : State) (g : Nat) (i : LoadedImage)

theorem State.ownLoaded_of_readable (h : ∀ c < i.info.chunks, (s.storeChunk i c).isSome = true) :
    (if s.sameLoaded i then (s.loadStart i).installImage g i else (s.loadStart i).loadFromStore g i) = s.ownLoaded g i := by
  have hread : ∀ c < i.info.chunks, ((s.loadStart i).storeChunk i c).isSome = true := h
  have hsame : (s.loadStart i).sameLoaded i = s.sameLoaded i := rfl
  rw [State.loadFromStore_of_readable _ g i hread, State.ownLoaded, State.weightsPlaced, hsame]
  split <;> rfl

theorem State.ownLoaded_only : Only [.freeCtr, .mem, .saggers, .tallies, .flog, .lute, .lat, .regs] s.counted (s.ownLoaded g i) :=
  have hplaced := ((s.loadStart i).weightsPlaced_frame i).only
  (Only.trans ((s.loadStart_only i).mono (by decide)) (hplaced.mono (by decide))).trans
    (Only.mono (State.installImage_only _ g i) (by decide))

theorem State.ownLoaded_images :
    ((s.ownLoaded g i).sagger g).images = (s.sagger g).images.filter (fun j => j.index != i.index) ++ [i] := by
  rw [State.ownLoaded, State.installImage_images, ((s.loadStart i).weightsPlaced_frame i).sagger_eq g]
  rfl

theorem State.ownLoaded_images_of_ne {h : Nat} (hne : h ≠ g) : ((s.ownLoaded g i).sagger h).images = (s.sagger h).images := by
  rw [State.ownLoaded, State.installImage_images_of_ne _ _ _ hne, ((s.loadStart i).weightsPlaced_frame i).sagger_eq h]
  rfl

theorem State.ownLoaded_mem : (s.ownLoaded g i).mem =
    { s.mem with hbm := ((s.loadStart i).weightsPlaced i).mem.hbm, wp := i.strata.foldl addSorted s.mem.wp } := by
  rw [State.ownLoaded, State.installImage_mem, State.weightsPlaced_mem]
  rfl

end

/-! ## By a slice (R371) -/

/-- A load by a slice begins. -/
def State.loadAwaited (s : State) (l : Loading) : State :=
  (s.dropParked l.image.strata).onLat fun y => { y with loadings := y.loadings ++ [l] }

/-- The load has sent no chunk on, and reported none. -/
def State.loadWaits (s : State) (l : Loading) : State := (s.loadAwaited l).onLoading l fun y => { y with sent := 0, marked := 0 }

section
variable {s : State} {l : Loading} {x : Slice}

/-- A load that holds no chunk sends none on. -/
theorem State.advanceLoad_of_empty (hslice : s.slice? l.slice = some x) (hhave : l.have_ = []) :
    s.advanceLoad l = s.onLoading l fun y => { y with sent := 0, marked := 0 } := by
  have hprefix : l.prefixLen = 0 := by
    rw [Loading.prefixLen, hhave]
    cases hrange : List.range l.image.info.chunks <;> simp
  have hmin (ms : List Nat) : ms.foldl min 0 = 0 :=
    List.foldlRecOn (motive := fun n => n = 0) ms _ rfl fun n hn m _ => by rw [hn, Nat.zero_min]
  unfold State.advanceLoad
  rw [hslice]
  dsimp only
  rw [hprefix, hmin, Nat.zero_sub]
  split
  · exact if_neg (Nat.not_lt_zero _)
  · rfl

variable {g id : Nat} {i : LoadedImage} {asker : Nat × BitVec 32}

/-- A member below the slice's apex that holds no chunk of the image waits for its parent. -/
theorem State.loadBySlice_of_member (hslice : s.slice? id = some x) (hapex : x.apex ≠ s.own) (hsame : s.sameLoaded i = false)
    (hold : ∀ l ∈ s.lat.loadings, l.slice ≠ 0) (hchunks : 0 < i.info.chunks)
    (hl : l = { slice := id, sagger := g, image := i, asker := asker }) :
    s.loadBySlice g i id asker = s.loadWaits l := by
  have hnone : s.lat.loadings.find? (fun l => l.slice == 0 && l.sagger == g && l.image.measure == i.measure && l.image.strata == i.strata) =
      none := List.find?_eq_none.2 fun l hl => by simp [hold l hl]
  have hnot : (s.slice? id).any (fun x => x.apex == s.own) = false := by simpa [hslice] using hapex
  have hempty : ¬ ([] : List Nat).length = i.info.chunks := hchunks.ne
  have hslice' : (s.loadAwaited l).slice? l.slice = some x := by subst hl; exact hslice
  rw [State.loadWaits, ← State.advanceLoad_of_empty hslice' (by rw [hl])]
  subst hl
  unfold State.loadBySlice
  dsimp only
  rw [hnone, hnot, hsame]
  simp only [Bool.or_self, Bool.false_and, Bool.false_eq_true, if_false, Option.map_none, Option.getD_none, if_neg hempty]
  rfl

theorem State.mem_loadWaits (hl : l.sent = 0) (hm : l.marked = 0) : l ∈ (s.loadWaits l).lat.loadings := by
  refine List.mem_map.2 ⟨l, List.mem_append_right _ (List.mem_singleton_self l), ?_⟩
  rw [if_pos ⟨rfl, rfl, rfl⟩, ← hl]
  obtain ⟨_, _, _, _, _, _, _⟩ := l
  subst hl hm
  rfl

theorem State.loadWaits_only (s : State) (l : Loading) : Only [.lat] s (s.loadWaits l) :=
  (WheelFrame.refl (ws := []) (gs := [])).onLat.onLat.onLat.only

end

/-! ## The command -/

section
variable {m : MgmtArgs} {s : State} {g : Nat} (ha : Admits ⟨0x33, 1, .sagger, true⟩ m s)
include ha

theorem exec_imageLoad_bad (h : m.loadBad = true) :
    exec (.imageLoad m) s = .next (s.counted.answer ⟨0x33, 1, .sagger, true⟩ m 2 []) := by
  show execImageLoad m s = _
  unfold execImageLoad
  refine State.runMgmt_counted ha ?_
  exact if_pos h

variable (hg : g = m.sagger.toNat) (hform : m.loadBad = false)
include hg hform

theorem exec_imageLoad_error {st : Nat} (hplan : s.loadPlan g m.load = .error st) :
    exec (.imageLoad m) s = .next (s.counted.answer ⟨0x33, 1, .sagger, true⟩ m st []) := by
  subst hg
  have hplan' : s.counted.loadPlan m.sagger.toNat m.load = .error st := hplan
  show execImageLoad m s = _
  unfold execImageLoad
  refine State.runMgmt_counted ha ?_
  refine (if_neg (by rw [hform]; decide)).trans ?_
  rw [hplan']
  rfl

variable {i : LoadedImage} (hplan : s.loadPlan g m.load = .ok i)
include hplan

theorem exec_imageLoad_own (hslice : m.load.slice = none) {x : Option Nat} (hx : s.ownLoadFault i = x) :
    exec (.imageLoad m) s = .next (x.elim
      ((if s.sameLoaded i then (s.loadStart i).installImage g i else (s.loadStart i).loadFromStore g i).answer
        ⟨0x33, 1, .sagger, true⟩ m 0 [])
      fun d => ((s.loadStart i).loadRejected g d).answer ⟨0x33, 1, .sagger, true⟩ m 6 []) := by
  subst hg
  have hplan' : s.counted.loadPlan m.sagger.toNat m.load = .ok i := hplan
  have hx' : (s.counted.dropParked i.strata).ownLoadFault i = x := hx
  show execImageLoad m s = _
  unfold execImageLoad
  refine State.runMgmt_counted ha ?_
  refine (if_neg (by rw [hform]; decide)).trans ?_
  rw [hplan']
  dsimp only
  rw [hslice]
  dsimp only
  rw [State.loadImage_eq _ _ _ hx']
  cases x <;> rfl

theorem exec_imageLoad_slice {id : Nat} (hslice : m.load.slice = some id) :
    exec (.imageLoad m) s = .next (s.counted.loadBySlice g i id (m.sess.val, m.tag)) := by
  subst hg
  have hplan' : s.counted.loadPlan m.sagger.toNat m.load = .ok i := hplan
  show execImageLoad m s = _
  unfold execImageLoad
  refine State.runMgmt_counted ha ?_
  refine (if_neg (by rw [hform]; decide)).trans ?_
  rw [hplan']
  dsimp only
  rw [hslice]

end

end Sys2Proof.Machine

namespace Sys2Proof.Machine

/-! # Images and firmware (O56) -/

/-- Settles O56: a command that passes its checks acts on the store, the images or the other firmware slot alone, and is answered
after its work; one that fails a check is answered with its status and has no other effect.  The statuses of log entries 149 and
150, and the erased bytes of a slot (log entry 151), are the model's. -/
theorem imagesAndFirmwareAreManaged : Obligations.ImagesAndFirmwareAreManaged := by
  unfold Obligations.ImagesAndFirmwareAreManaged
  refine ⟨fun m s ns off data ha hat hdata => ?write, fun m s ns off bs cap ha hat => ?commit, fun m s ns off ha hat => ?erase,
    fun m s g ha hg => ?load, fun m s g ha hg => ?remove, fun m s k c cmd hk hc ha => ?refused, fun m s k hk hempty => ?slot,
    fun m s k data hk hdata ha => ?data⟩
  case write =>
    refine ⟨fun h => answers_of_refused ha (exec_imageWrite_bad hat hdata ha h), fun cap hhead hne hlen hcap => ?_⟩
    have hexec := exec_imageWrite_of_form hat hdata ha hhead hne hlen hcap
    refine ⟨fun hlock => answers_of_refused ha (hexec.trans (by rw [if_pos hlock])),
      fun hlock hfull => answers_of_refused ha (hexec.trans (by rw [hlock, if_neg Bool.false_ne_true, if_pos hfull])),
      fun hlock hroom => ?_⟩
    rw [hlock, if_neg Bool.false_ne_true, if_neg (Nat.not_lt.2 hroom)] at hexec
    have hwork := s.counted.writeStore_only ns off data
    refine answers_of_worked ha hwork hexec ?_
    simp only [State.answer_mem, State.answer_store, State.mem_writeStore_images]
    exact ⟨rfl, mread_mwrite .., fun x hx => mget_mwrite_of_outside _ _ _ _ hx, fun i => Iff.rfl⟩
  case commit =>
    refine ⟨fun h => answers_of_refused ha (exec_imageCommit_bad hat ha h), fun hhead hlen hcap hbs => ?_⟩
    subst hbs
    have hexec := exec_imageCommit_of_form hat ha hhead hlen hcap
    refine ⟨fun hout => answers_of_refused ha (hexec.trans (by rw [if_pos hout])),
      fun hin hbad => answers_of_refused ha (hexec.trans (by rw [if_neg (Nat.not_le.2 hin), hbad, if_neg Bool.false_ne_true])),
      fun hin hok => ?_⟩
    rw [if_neg (Nat.not_le.2 hin), if_pos hok] at hexec
    have hwork := s.counted.commitImage_only ns off (s.imageBytes ns off cap)
    refine answers_of_worked ha hwork hexec ?_
    rw [State.committed?, State.answer_store]
    exact ⟨State.commitImage_committed .., fun i hi => State.mem_commitImage_images hi⟩
  case erase =>
    refine ⟨fun h => answers_of_refused ha (exec_imageErase_bad hat ha h), fun hhead hlen hcap => ?_⟩
    refine ⟨fun hlock => answers_of_refused ha (exec_imageErase_locked hat ha hhead hlen hcap hlock),
      fun hlock hnone => answers_of_refused ha (exec_imageErase_of_unlocked hat ha hhead hlen hcap hlock hnone), fun i hlock hi => ?_⟩
    have hexec := exec_imageErase_of_unlocked hat ha hhead hlen hcap hlock hi
    have hwork := s.counted.imageErased_only ns off i
    refine answers_of_worked ha hwork hexec ?_
    simp only [State.answer_mem, State.answer_store]
    refine ⟨rfl, rfl, fun x hx => ?_, fun x hx => ?_⟩
    · exact (mget_mclear ..).trans (if_pos (by omega))
    · exact (mget_mclear ..).trans (if_neg (by omega))
  case load =>
    refine ⟨fun h => answers_of_refused ha (exec_imageLoad_bad ha h),
      fun st hform hplan => answers_of_refused ha (exec_imageLoad_error ha hg hform hplan),
      fun i hform hplan hslice => ⟨fun d hd => ?rejected, fun hgood hread => ?installed⟩,
      fun i id x hform hplan hslice hx hapex hsame hold hchunks => ?awaited⟩
    case rejected =>
      have hwork : Only [.lat, .freeCtr, .flog] s.counted _ :=
        Only.trans ((s.loadStart_only i).mono (by decide)) (((s.loadStart i).loadRejected_only g d).mono (by decide))
      refine ⟨_, exec_imageLoad_own ha hg hform hplan hslice hd, State.answer_answers ha.1 hwork _ _ _, ?_, ?_, ?_,
        State.answer_work_only hwork _ _ _⟩
      · exact (State.answer_saggers ..).trans (hwork .saggers (by decide))
      · exact (State.answer_mem ..).trans (hwork .mem (by decide))
      · exact ((s.loadStart i).detects_raise _).of_flog_eq rfl (State.answer_flog ..)
    case installed =>
      obtain ⟨hsub, hfits⟩ := State.loadPlan_ok hplan
      have hplaced : i.Placed := ⟨(strata_nodup_of_load hform).sublist hsub, hfits⟩
      have hexec := exec_imageLoad_own ha hg hform hplan hslice hgood
      rw [Option.elim_none, s.ownLoaded_of_readable g i hread] at hexec
      have hwork := s.ownLoaded_only g i
      refine ⟨_, hexec, State.answer_answers ha.1 hwork _ _ _, ?_, fun h hne => ?_, ?_⟩
      · rw [State.answer_sagger, State.ownLoaded_images]
      · rw [State.answer_sagger, State.ownLoaded_images_of_ne _ _ _ hne]
      · rw [State.answer_mem, State.ownLoaded_mem]
        exact ⟨fun u hu => mem_foldl_addSorted.2 (.inr hu), rfl,
          fun hsame => State.weightsPlaced_hbm_of_same (s := s.loadStart i) hsame,
          fun hsame c hc => State.mread_weightsPlaced (s := s.loadStart i) hsame hplaced hc, State.answer_work_only hwork _ _ _⟩
    case awaited =>
      have hexec := exec_imageLoad_slice ha hg hform hplan hslice
      rw [State.loadBySlice_of_member (s := s.counted) hx hapex hsame hold hchunks rfl] at hexec
      exact ⟨_, hexec, (Only.mono (s.bump_only_regs .mgtCmds 0 1) (by decide)).trans (Only.mono (s.counted.loadWaits_only _) (by decide)),
        (s.bump_regsOnly 1 (List.mem_cons_self ..)).trans fun _ _ _ => rfl,
        _, State.mem_loadWaits rfl rfl, rfl, rfl, rfl, rfl, rfl⟩
  case remove =>
    refine ⟨fun h => answers_of_refused ha (exec_imageRemove_bad ha h), fun hlen hres => ?_⟩
    refine ⟨fun hnone => answers_of_refused ha (exec_imageRemove_of_form ha hg hlen hres hnone),
      fun i hi hused => answers_of_refused ha ((exec_imageRemove_of_form ha hg hlen hres hi).trans
        (by rw [Option.elim_some, if_pos hused])),
      fun i hi hidle => ?_⟩
    have hexec := exec_imageRemove_of_form ha hg hlen hres hi
    rw [Option.elim_some, hidle, if_neg Bool.false_ne_true] at hexec
    have hframe := s.counted.detach_frame g i
    refine ⟨_, hexec, State.answer_answers ha.1 hframe.only _ _ _, ?_, fun u hu hfree => ?_, ?_, fun h hne => ?_,
      State.answer_counts ha.1 hframe.only _ _ _, State.answer_work_only hframe.only _ _ _⟩
    · rw [State.answer_sagger]
      exact s.counted.detach_images_same g i
    · rw [State.answer_imageHolds] at hfree
      have hfreed := State.mem_freedStrata _ _ _ hu hfree
      rw [State.answer_mem, State.answer_sagger]
      exact ⟨State.freed_not_wp _ _ _ hfreed, fun hown f hf => State.freed_frames _ _ _ hfreed hown hf⟩
    · rw [State.answer_mem, State.detach_mem]
      rfl
    · rw [State.answer_sagger]
      exact hframe.saggers h hne
  case refused =>
    subst hk
    exact ⟨fun h => answers_of_refused ha (exec_fw_bad hc ha h), fun hempty h => answers_of_refused ha (exec_fw_busy hc ha hempty h)⟩
  case slot =>
    refine ⟨fun ha hst => ?begin, fun ha hst hok => ?staged, fun ha hst hbad => ?rejected, fun ha hst => ?abort⟩
    case begin =>
      have hwork := s.counted.slotBegun_only k
      refine ⟨_, exec_fwBegin_of_idle hk hempty ha hst, State.answer_answers ha.1 hwork _ _ _, State.answer_health .., ?_, ?_, ?_,
        State.answer_boot .., State.answer_work_only hwork _ _ _, State.answer_counts ha.1 hwork _ _ _⟩
      all_goals rw [State.answer_mem]
      · exact fun x hx => (mget_mclear ..).trans (if_pos (by omega))
      · exact fun x hx => (mget_mclear ..).trans (if_neg (by omega))
      · rfl
    case staged =>
      have hexec := exec_fwCommit_of_writing hk hempty ha hst
      rw [if_pos hok] at hexec
      have hwork := s.counted.slotStaged_only k
      exact ⟨_, hexec, State.answer_answers ha.1 hwork _ _ _, State.answer_health .., State.answer_boot ..,
        State.answer_work_only hwork _ _ _, State.answer_counts ha.1 hwork _ _ _⟩
    case rejected =>
      have hexec := exec_fwCommit_of_writing hk hempty ha hst
      rw [hbad, if_neg Bool.false_ne_true] at hexec
      have hwork := s.counted.slotRejected_only k
      refine ⟨_, hexec, State.answer_answers ha.1 hwork _ _ _, ?_, ?_, State.answer_work_only hwork _ _ _,
        State.answer_counts ha.1 hwork _ _ _⟩
      · rw [State.answer_health, State.slotRejected, State.fault, State.raise_of_harmless _ slotRejected_harmless]
        rfl
      · exact (State.detects_raise (s.counted.onHealth _) _).of_flog_eq rfl (State.answer_flog ..)
    case abort =>
      have hwork := s.counted.slotEmptied_only k
      exact ⟨_, exec_fwAbort_of_begun hk hempty ha hst, State.answer_answers ha.1 hwork _ _ _, State.answer_health ..,
        State.answer_boot .., State.answer_work_only hwork _ _ _, State.answer_counts ha.1 hwork _ _ _⟩
  case data =>
    subst hdata
    refine ⟨fun h => answers_of_refused ha (exec_fwData_bad ha h), fun hlen hmax hfits => ?_⟩
    have hexec := exec_fwData_of_form hk ha (by omega)
    refine ⟨fun hst => answers_of_refused ha (hexec.trans (by rw [if_pos hst])), fun hst => ?_⟩
    rw [if_neg (not_not.2 hst)] at hexec
    have hwork := s.counted.slotWritten_only k (m.field 0 0 32) (m.payload.drop 4)
    refine ⟨_, hexec, State.answer_answers ha.1 hwork _ _ _, ?_, ?_, ?_, State.answer_boot .., State.answer_work_only hwork _ _ _,
      State.answer_counts ha.1 hwork _ _ _⟩
    all_goals rw [State.answer_mem]
    · exact mread_mwrite ..
    · exact fun x hx => mget_mwrite_of_outside _ _ _ _ hx
    · rfl

end Sys2Proof.Machine

namespace Sys2Proof.Machine

/-! # Blocks that the compressor emits expand to their own bytes (O39) -/

/-! ## Zero runs and literals (R323) -/

theorem zeroLead_le_fuel (fuel : Nat) (bs : List Byte) : zeroLead fuel bs ≤ fuel := by
  induction fuel generalizing bs with
  | zero => simp [zeroLead]
  | succ fuel ih =>
    cases bs with
    | nil => simp [zeroLead]
    | cons b r =>
      have := ih r
      rw [zeroLead]
      split <;> omega

theorem zeroLead_mono {fuel fuel' : Nat} (h : fuel ≤ fuel') (bs : List Byte) : zeroLead fuel bs ≤ zeroLead fuel' bs := by
  induction fuel generalizing fuel' bs with
  | zero => simp [zeroLead]
  | succ fuel ih =>
    obtain ⟨n, rfl⟩ : ∃ n, fuel' = n + 1 := ⟨fuel' - 1, by omega⟩
    cases bs with
    | nil => simp [zeroLead]
    | cons b r =>
      have := ih (Nat.le_of_succ_le_succ h) r
      rw [zeroLead, zeroLead]
      split <;> omega

/-- The bytes that are counted as zero are zero. -/
theorem take_of_le_zeroLead {fuel n : Nat} {bs : List Byte} (h : n ≤ zeroLead fuel bs) : bs.take n = zeros n := by
  induction fuel generalizing bs n with
  | zero => simp [Nat.le_zero.1 h, zeros]
  | succ fuel ih =>
    cases n with
    | zero => rfl
    | succ n =>
      cases bs with
      | nil => simp [zeroLead] at h
      | cons b r =>
        rw [zeroLead] at h
        split at h
        next hb => rw [List.take_succ_cons, ih (by omega), hb, zeros, zeros, List.replicate_succ]
        next => omega

theorem literalLead_le_fuel (fuel : Nat) (bs : List Byte) : literalLead fuel bs ≤ fuel := by
  induction fuel generalizing bs with
  | zero => simp [literalLead]
  | succ fuel ih =>
    cases bs with
    | nil => simp [literalLead]
    | cons b r =>
      have := ih r
      rw [literalLead]
      split <;> omega

theorem literalLead_le_length (fuel : Nat) (bs : List Byte) : literalLead fuel bs ≤ bs.length := by
  induction fuel generalizing bs with
  | zero => simp [literalLead]
  | succ fuel ih =>
    cases bs with
    | nil => simp [literalLead]
    | cons b r =>
      have := ih r
      rw [literalLead, List.length_cons]
      split <;> omega

/-- Bytes that do not begin with a zero run begin with a literal. -/
theorem literalLead_pos {b : Byte} {r : List Byte} (h : zeroLead 256 (b :: r) < 4) : 0 < literalLead 64 (b :: r) := by
  have := zeroLead_mono (show 4 ≤ 256 by decide) (b :: r)
  rw [literalLead, if_neg (by omega)]
  omega

/-! ## Two kinds of token (R321) -/

/-- A zero-run token expands to its zero bytes. -/
theorem expandTokens_zeros {n blkLen fuel len : Nat} {rest out : List Byte} (hpos : 0 < n) (hn : n ≤ 64)
    (hfit : len + 4 * n ≤ blkLen) : expandTokens blkLen (fuel + 1) (BitVec.ofNat 8 (64 + (n - 1)) :: rest) len out =
      expandTokens blkLen fuel rest (len + 4 * n) (zeros (4 * n) ++ out) := by
  have hc : (BitVec.ofNat 8 (64 + (n - 1))).toNat = 64 + (n - 1) := by rw [BitVec.toNat_ofNat]; omega
  rw [expandTokens]
  simp only [hc, show (64 + (n - 1)) % 64 + 1 = n by omega, show (64 + (n - 1)) / 64 = 1 by omega]
  rw [if_neg (by omega), List.drop_zero]

/-- A literal token expands to the bytes that follow it. -/
theorem expandTokens_literals {n blkLen fuel len : Nat} {lits rest out : List Byte} (hlen : lits.length = n) (hpos : 0 < n)
    (hn : n ≤ 64) (hfit : len + n ≤ blkLen) : expandTokens blkLen (fuel + 1) (BitVec.ofNat 8 (n - 1) :: (lits ++ rest)) len out =
      expandTokens blkLen fuel rest (len + n) (lits.reverse ++ out) := by
  have hc : (BitVec.ofNat 8 (n - 1)).toNat = n - 1 := by rw [BitVec.toNat_ofNat]; omega
  rw [expandTokens]
  simp only [hc, show (n - 1) % 64 + 1 = n by omega, show (n - 1) / 64 = 0 by omega]
  rw [if_neg (by rw [List.length_append]; omega), List.take_left' hlen, List.drop_left' hlen]

/-- With every token expanded a block of its stated length is whole. -/
theorem expandTokens_nil {blkLen fuel len : Nat} {out : List Byte} (h : len = blkLen) :
    expandTokens blkLen fuel [] len out = some out.reverse := by
  cases fuel <;> exact if_pos h

@[simp] theorem tokenForm_nil (fuel : Nat) : tokenForm fuel [] = [] := by cases fuel <;> rfl

/-- At a zero run the compressor emits one token for its whole words. -/
theorem tokenForm_zeros {fuel z : Nat} {b : Byte} {r : List Byte} (hz : z = zeroLead 256 (b :: r) / 4) (hpos : z ≠ 0) :
    tokenForm (fuel + 1) (b :: r) = BitVec.ofNat 8 (64 + (z - 1)) :: tokenForm fuel ((b :: r).drop (4 * z)) := by
  subst hz
  exact if_pos hpos

/-- Elsewhere it emits the bytes before the next zero run as literals. -/
theorem tokenForm_literals {fuel n : Nat} {b : Byte} {r : List Byte} (hn : n = literalLead 64 (b :: r))
    (hz : zeroLead 256 (b :: r) < 4) :
    tokenForm (fuel + 1) (b :: r) = BitVec.ofNat 8 (n - 1) :: ((b :: r).take n ++ tokenForm fuel ((b :: r).drop n)) := by
  subst hn
  exact if_neg (by omega)

/-- The token form of a block expands to the block: each round of the compressor emits one token, which takes one round of
the expander. -/
theorem expandTokens_tokenForm {fuel fuel' blkLen len : Nat} {bs out : List Byte} (hfuel : bs.length ≤ fuel)
    (hfuel' : (tokenForm fuel bs).length ≤ fuel') (hlen : len + bs.length = blkLen) :
    expandTokens blkLen fuel' (tokenForm fuel bs) len out = some (out.reverse ++ bs) := by
  induction fuel generalizing fuel' len bs out with
  | zero =>
    obtain rfl := List.eq_nil_of_length_eq_zero (Nat.le_zero.1 hfuel)
    rw [tokenForm_nil, expandTokens_nil (show len = blkLen from hlen), List.append_nil]
  | succ fuel ih =>
    cases bs with
    | nil => rw [tokenForm_nil, expandTokens_nil (show len = blkLen from hlen), List.append_nil]
    | cons b r =>
      obtain ⟨z, hz⟩ : ∃ z, z = zeroLead 256 (b :: r) / 4 := ⟨_, rfl⟩
      by_cases hpos : z = 0
      case neg =>
        have hrun : (b :: r).take (4 * z) = zeros (4 * z) := take_of_le_zeroLead (fuel := 256) (by omega)
        have hle : 4 * z ≤ (b :: r).length := by
          have := congrArg List.length hrun
          rw [List.length_take, zeros_length] at this
          omega
        have hmax := zeroLead_le_fuel 256 (b :: r)
        rw [tokenForm_zeros hz hpos] at hfuel' ⊢
        obtain ⟨m, rfl⟩ := Nat.exists_eq_add_of_le' (Nat.le_trans (Nat.succ_pos _) hfuel')
        rw [expandTokens_zeros (Nat.pos_of_ne_zero hpos) (by omega) (by omega),
          ih (by rw [List.length_drop]; omega) (Nat.le_of_succ_le_succ hfuel') (by rw [List.length_drop]; omega),
          List.reverse_append, zeros, List.reverse_replicate, List.append_assoc, ← zeros, ← hrun, List.take_append_drop]
      case pos =>
        obtain ⟨n, hn⟩ : ∃ n, n = literalLead 64 (b :: r) := ⟨_, rfl⟩
        have hle : n ≤ (b :: r).length := hn ▸ literalLead_le_length ..
        have htake : ((b :: r).take n).length = n := List.length_take_of_le hle
        have hnpos : 0 < n := hn ▸ literalLead_pos (by omega)
        rw [tokenForm_literals hn (by omega)] at hfuel' ⊢
        rw [List.length_cons, List.length_append, htake] at hfuel'
        obtain ⟨m, rfl⟩ := Nat.exists_eq_add_of_le' (Nat.le_trans (Nat.succ_pos _) hfuel')
        rw [expandTokens_literals htake hnpos (hn ▸ literalLead_le_fuel ..) (by omega),
          ih (by rw [List.length_drop]; omega) (by omega) (by rw [List.length_drop]; omega), List.reverse_append,
          List.reverse_reverse, List.append_assoc, List.take_append_drop]

/-! ## Entry and payload (R319, R322, R323) -/

/-- A block's index entry for a mode and a payload, and the payload with its padding. -/
def glazed (off mode : Nat) (bs pay : List Byte) : GlazeEntry × List Byte :=
  ({ offset := off, mode := mode, short := bs.length < 4096, payLen := pay.length, blkLen := bs.length, crc := crc32c bs },
    padTo (up16 pay.length) pay)

/-- The compressor emits a block as ZERO, as tokens when they are at most 3,840 bytes, or as STORED. -/
theorem compressBlock_eq (off : Nat) (bs : List Byte) : compressBlock off bs =
    if bs.all (· == 0) then glazed off 2 bs [] else
      if (tokenForm bs.length bs).length ≤ 3840 then glazed off 1 bs (tokenForm bs.length bs) else glazed off 0 bs bs := by
  unfold compressBlock
  by_cases hzero : bs.all (· == 0) = true
  · simp only [hzero, if_true, glazed]
  · by_cases htok : (tokenForm bs.length bs).length ≤ 3840
    · simp only [hzero, htok, if_true, glazed, Bool.false_eq_true, if_false]
    · simp only [hzero, htok, glazed, Bool.false_eq_true, if_false]

/-- The bytes that a payload of each mode stands for (R319). -/
def unglazed (mode : Nat) (bs pay : List Byte) : Option (List Byte) :=
  match mode with
  | 0 => some pay
  | 1 => expandTokens bs.length pay.length pay 0 []
  | _ => some (zeros bs.length)

/-- The padding and the CRC32C pass their checks (R322). -/
theorem expandBlock_glazed (off mode : Nat) {bs pay : List Byte} (h : unglazed mode bs pay = some bs) :
    expandBlock (glazed off mode bs pay).1 (glazed off mode bs pay).2 = some bs := by
  have hpad : (glazed off mode bs pay).2 = pay ++ zeros (up16 pay.length - pay.length) :=
    padTo_of_le (by unfold up16; omega)
  have hany : (zeros (up16 pay.length - pay.length)).any (· != 0) = false := by simp [zeros]
  rw [hpad]
  simp only [expandBlock, glazed, List.take_left, List.drop_left, hany, ne_eq, not_true_eq_false, Bool.false_eq_true, or_self,
    if_false]
  refine (congrArg (Option.filter _) h).trans ?_
  simp

theorem eq_zeros_of_all {bs : List Byte} (h : bs.all (· == 0) = true) : bs = zeros bs.length :=
  List.eq_replicate_of_mem fun b hb => by simpa using List.all_eq_true.1 h b hb

/-- Settles O39: in each of its three modes the emitted payload stands for the block. The round trip of the tokens is that of
the model's own compressor, as R323 leaves their choice open. -/
theorem glazeBlocksRoundTrip : Obligations.GlazeBlocksRoundTrip := by
  intro off bs e pay h
  have hfields : ∀ mode body, (e, pay) = glazed off mode bs body → unglazed mode bs body = some bs →
      expandBlock e pay = some bs ∧ e.offset = off ∧ e.blkLen = bs.length ∧ e.crc = crc32c bs ∧ pay.length = up16 e.payLen ∧
        (e.short = true ↔ bs.length < 4096) ∧ e.mode = mode ∧ e.payLen = body.length := by
    intro mode body hglazed hbody
    obtain ⟨rfl, rfl⟩ := Prod.mk.inj hglazed
    exact ⟨expandBlock_glazed off mode hbody, rfl, rfl, rfl, padTo_length .., decide_eq_true_iff, rfl, rfl⟩
  rw [compressBlock_eq] at h
  split at h
  case isTrue hzero =>
    obtain ⟨hexp, hoff, hlen, hcrc, hpad, hshort, hmode, hpay⟩ := hfields 2 [] h (congrArg some (eq_zeros_of_all hzero).symm)
    refine ⟨hexp, hoff, hlen, hcrc, hpad, fun _ => ⟨hmode, ?_⟩, fun hm => by omega, hshort⟩
    exact List.eq_nil_of_length_eq_zero (by rw [hpad, hpay]; rfl)
  case isFalse hdata =>
    split at h
    case isTrue htok =>
      obtain ⟨hexp, hoff, hlen, hcrc, hpad, hshort, hmode, hpay⟩ := hfields 1 _ h
        (expandTokens_tokenForm (Nat.le_refl _) (Nat.le_refl _) (Nat.zero_add _))
      exact ⟨hexp, hoff, hlen, hcrc, hpad, fun hall => absurd hall hdata, fun _ => hpay ▸ htok, hshort⟩
    case isFalse =>
      obtain ⟨hexp, hoff, hlen, hcrc, hpad, hshort, hmode, -⟩ := hfields 0 bs h rfl
      exact ⟨hexp, hoff, hlen, hcrc, hpad, fun hall => absurd hall hdata, fun hm => by omega, hshort⟩

end Sys2Proof.Machine

namespace Sys2Proof.Machine

/-! # What the commands of the glaze engines share (chapter 10) -/

/-! ## One stream among the streams -/

/-- An element found by its number is found by it after it is replaced. -/
theorem find?_map_replaced {α : Type} {key : α → Nat} {l : List α} {n : Nat} {a b : α} (h : l.find? (fun x => key x == n) = some a)
    (hb : key b = n) : (l.map fun x => if key x = n then b else x).find? (fun x => key x == n) = some b := by
  have hsame : ((fun x => key x == n) ∘ fun x => if key x = n then b else x) = fun x => key x == n := by
    funext x
    by_cases hx : key x = n <;> simp [hx, hb]
  rw [List.find?_map, hsame, h, Option.map_some, if_pos (by simpa using List.find?_some h)]

theorem State.stream_sid {s : State} {sid : Nat} {t : Stream} (h : s.stream? sid = some t) : t.sid = sid := by
  simpa using List.find?_some h

theorem State.onStream_replaced {s : State} {sid : Nat} {t v : Stream} (h : s.stream? sid = some t) (hv : v.sid = sid) :
    (s.onStream sid fun _ => v).stream? sid = some v := find?_map_replaced (key := Stream.sid) h hv

theorem State.stream_congr {s u : State} (h : u.lat.streams = s.lat.streams) (sid : Nat) : u.stream? sid = s.stream? sid := by
  rw [State.stream?, h, State.stream?]

namespace WheelFrame

variable {ps : List Field} {ws gs : List Nat} {s t : State}

theorem onStream {sid : Nat} {f : Stream → Stream} (h : WheelFrame ps ws gs s t) (hp : .lat ∈ ps := by decide) :
    WheelFrame ps ws gs s (t.onStream sid f) := h.onLat hp

theorem putHbm {a : Nat} {bs : List Byte} (h : WheelFrame ps ws gs s t) (hp : .mem ∈ ps := by decide) :
    WheelFrame ps ws gs s (t.putHbm a bs) := h.withMem hp

/-- What follows the take of a glaze engine's queue leaves the engines: the queue is as the take left it. -/
theorem taken {d : Nat} {f : Glaze → Glaze} (h : WheelFrame ps ws gs (s.onGlaze d f) t) (hp : .glazes ∉ ps := by decide) :
    t.glaze d = f (s.glaze d) ∧ Others State.glaze [d] s t ∧ Only (.glazes :: ps) s t := by
  have hglaze : ∀ k, t.glaze k = (s.onGlaze d f).glaze k := fun k =>
    congrArg (fun l : Tab Glaze => tget ({} : Glaze) l k) (h.only .glazes hp)
  refine ⟨?_, .single fun k hk => ?_, ?_⟩
  · rw [hglaze, State.onGlaze_glaze, if_pos rfl]
  · rw [hglaze, State.onGlaze_glaze, if_neg hk]
  · exact (refl (ws := ws) (gs := gs)).onGlaze (List.mem_cons_self ..) |>.only.trans (h.only.mono (List.subset_cons_self ..))

end WheelFrame

/-! ## Asking for a piece of a stream (R324, R326, R327) -/

/-- From `s` to `t` a piece of a stream has been asked for, by a packet or by a read of the host window: the streams are as
they were. -/
structure Asks (s t : State) : Prop where
  frame   : WheelFrame [.lat, .ports, .regs, .swaps] [] [] s t
  streams : t.lat.streams = s.lat.streams
  reg     : ∀ r u, r ∉ [Reg.latFwdBytes, .latDetour, .latDrop] → t.reg r u = s.reg r u

theorem Sends.asks {s t : State} (h : Sends s t) : Asks s t :=
  ⟨h.frame.mono (by decide) (List.Subset.refl _), h.streams_eq, h.reg⟩

theorem State.withSwaps_only (s : State) (q : List SwapReq) : Only [.swaps] s { s with swaps := q } := by
  intro p hp
  cases p
  case swaps => simp at hp
  all_goals rfl

theorem State.readWindow_asks (s : State) (t : Stream) (k : Nat) : Asks s (s.readWindow t k) := by
  unfold State.readWindow
  split
  · split
    · exact ⟨.refl, rfl, fun _ _ _ => rfl⟩
    · exact ⟨⟨(s.withSwaps_only _).widen (p := .swaps) (by decide), fun _ _ => rfl, fun _ _ => rfl⟩, rfl, fun _ _ _ => rfl⟩
  · exact ⟨.refl, rfl, fun _ _ _ => rfl⟩

theorem State.endStream_sends (s : State) (t : Stream) (status : Nat) : Sends s (s.endStream t status) := by
  unfold State.endStream
  split
  · exact .refl
  · exact s.sendPacket_sends _

/-! # Glaze streams are checked, expanded and fetched again (O40) -/

/-! ## STREAM_HEADER_CHECK (R320, R327) -/

/-- The stream with its index table, once its header is good. -/
def Stream.opened (t x : Stream) : Stream := { x with st := .open, table := glazeTable (glazeHdrOf t.header).nblk t.indexBytes }

/-- The stream waits for its header once more. -/
def Stream.askedAgain (x : Stream) : Stream :=
  { x with header := [], index := [], entries := 0, retried := true, pushed := false, xid := if x.pushed then x.sid else x.xid }

/-- A stream from the lattice is asked for by at most one packet. -/
theorem State.askAgain_sends {s : State} {t : Stream} {c : Coord} (h : t.peer = .lattice c) :
    Sends (s.onStream t.sid Stream.askedAgain) (s.askAgain t) := by
  simp only [State.askAgain, h]
  split
  · split
    · exact .refl
    · exact State.sendPacket_sends ..
  · exact State.sendPacket_sends ..

/-- A gradient stream fails: its peer is told, and a class 0x3 record is raised (R327). -/
theorem State.failStream_of_gradient {s : State} {t : Stream} (h : t.kind = 5) (detail : Nat) : s.failStream t detail =
    (((s.bump .glzFailed (s.streamDie t 0) 1).dropStream t.sid).endStream t detail).fault 3 0xB detail t.sagger (s.streamDie t 0) 0 := by
  simp only [State.failStream, h]

section
variable {s : State} {sid : Nat} {t : Stream} (hs : s.stream? sid = some t) (hin : t.headerIn = true)
include hs hin

theorem exec_streamHeaderCheck_of_good {c : Coord} (hpeer : t.peer = .lattice c)
    (hok : streamOk t.kind t.ctxA t.ctxB t.dstLen t.header t.indexBytes = true) (hroom : s.streamRoom t = true) :
    exec (.streamHeaderCheck sid) s =
      .next ((s.bump .glzInBytes (s.streamDie t 0) t.indexBytes.length).onStream sid t.opened) := by
  show execStreamHeaderCheck sid s = _
  simp only [execStreamHeaderCheck, hs, hpeer, hin, hok, hroom, Bool.not_true, Bool.not_false, Bool.and_self, Bool.true_or,
    Bool.false_eq_true, if_true, if_false]
  rfl

theorem exec_streamHeaderCheck_of_bad
    (hbad : (streamOk t.kind t.ctxA t.ctxB t.dstLen t.header t.indexBytes && s.streamRoom t) = false) :
    exec (.streamHeaderCheck sid) s =
      .next (if t.retried then s.failStream t 0xB0 else (s.fault 1 0xB 0xB1 t.sagger (s.streamDie t 0) 0).askAgain t) := by
  show execStreamHeaderCheck sid s = _
  simp only [execStreamHeaderCheck, hs, hin, hbad, Bool.not_true, Bool.false_eq_true, if_false]
  split <;> rfl

end

/-! ## A block that passes (R322, R325) -/

theorem length_addSorted {l : List Nat} {x : Nat} (h : x ∉ l) : (addSorted l x).length = l.length + 1 := by
  induction l with
  | nil => rfl
  | cons a r ih =>
    obtain ⟨hne, hr⟩ := not_or.1 (List.mem_cons.not.1 h)
    unfold addSorted
    rw [if_neg hne]
    split
    · rfl
    · rw [List.length_cons, ih hr, List.length_cons]

/-- The stream once block `k` has passed its checks. -/
def Stream.passed (t : Stream) (k : Nat) (bs : List Byte) : Stream :=
  { t with
    done := addSorted t.done k, waiting := t.waiting.filter fun w => w.1 != k
    held := if t.kind = 4 then tset t.held k bs else t.held }

/-- The bytes of a block reach the place that the stream's KIND gives them. -/
def State.blockLanded (s : State) (d : Nat) (t : Stream) (k : Nat) (bs : List Byte) : State :=
  match t.kind with
  | 4 => s
  | 5 => (s.addValues (s.streamAddr t k) bs).bump .glzOutBytes d bs.length
  | _ => ((s.putHbm (s.streamAddr t k) bs).bump .hbmWrBytes (stackOfAddr (s.streamAddr t k)) bs.length).bump .glzOutBytes d bs.length

theorem State.addF32_frame (s : State) (a v : Nat) : WheelFrame [.freeCtr, .regs, .mem] [] [] s (s.addF32 a v) :=
  (s.doAtomic_frame _).withMem

section
variable {s : State} {d k : Nat} {t : Stream} {bs : List Byte}

/-- While blocks are missing the stream goes on. -/
theorem State.blockPassed_of_more (hk : k ∉ t.done) (hmore : t.done.length + 1 ≠ t.table.length) :
    s.blockPassed d t k bs = (s.blockLanded d t k bs).onStream t.sid fun _ => t.passed k bs :=
  if_neg (length_addSorted hk ▸ hmore)

theorem State.blockLanded_of_held (h : t.kind = 4) : s.blockLanded d t k bs = s := by simp only [State.blockLanded, h]

theorem State.blockLanded_of_gradient (h : t.kind = 5) :
    s.blockLanded d t k bs = (s.addValues (s.streamAddr t k) bs).bump .glzOutBytes d bs.length := by
  simp only [State.blockLanded, h]

theorem State.blockLanded_of_written (h4 : t.kind ≠ 4) (h5 : t.kind ≠ 5) : s.blockLanded d t k bs =
    ((s.putHbm (s.streamAddr t k) bs).bump .hbmWrBytes (stackOfAddr (s.streamAddr t k)) bs.length).bump .glzOutBytes d bs.length := by
  unfold State.blockLanded
  split
  next h => exact absurd h h4
  next h => exact absurd h h5
  next => rfl

variable (s d k t bs) in
theorem State.blockLanded_frame : WheelFrame [.mem, .regs, .freeCtr] [] [] s (s.blockLanded d t k bs) := by
  unfold State.blockLanded
  split
  · exact .refl
  · exact (WheelFrame.foldl (fun u j hu => hu.trans ((u.addF32_frame ..).mono (by decide) (List.Subset.refl _))) _ .refl).bump
  · exact WheelFrame.refl.putHbm.bump.bump

end

/-! ## The values of a gradient block (R299, R325) -/

theorem leNat_lt (bs : List Byte) : leNat bs < 256 ^ bs.length := by
  induction bs with
  | nil => exact Nat.one_pos
  | cons b bs ih =>
    have := b.isLt
    rw [leNat, List.length_cons, Nat.pow_succ]
    omega

/-- Within HBM's 41-bit addresses the atomic is one addition into its word. -/
theorem State.addF32_eq (s : State) {a v : Nat} (ha : a < 2 ^ 41) (hv : v < 2 ^ 32) : s.addF32 a v = s.addF32At a v := by
  generalize hr : 3 + 2 ^ 5 * (a / 2 ^ 32) + 2 ^ 32 * (a % 2 ^ 32) + 2 ^ 64 * v = r
  have h5 : r / 2 ^ 5 = a / 2 ^ 32 + 2 ^ 27 * (a % 2 ^ 32 + 2 ^ 32 * v) := by omega
  have h32 : r / 2 ^ 32 = a % 2 ^ 32 + 2 ^ 32 * v := by omega
  have h64 : r / 2 ^ 64 = v := by omega
  have hop : atOp r = 3 := by unfold atOp nbits; omega
  have hlo : r / 2 ^ 32 % 2 ^ 32 = a % 2 ^ 32 := by omega
  have hhi : r / 2 ^ 5 % 2 ^ 9 = a / 2 ^ 32 := by rw [h5]; omega
  have haddr : atAddr r = a := by rw [atAddr, nbits, nbits, hlo, hhi]; omega
  have hval : nbits r 64 64 = v := by unfold nbits; omega
  have hbytes : atBytes r = 4 := by rw [atBytes, hop]; rfl
  simp only [State.addF32, hr, State.doAtomic, hop, haddr, hval, hbytes, atomicWord, Nat.mod_eq_of_lt hv]
  rfl

/-- The words of a block and what each takes. -/
def valueWords (a : Nat) (bs : List Byte) : List (Nat × Nat) :=
  (List.range (bs.length / 4)).map fun k => (a + 4 * k, leNat ((bs.drop (4 * k)).take 4))

theorem State.addValues_eq (s : State) {a : Nat} {bs : List Byte} (h : a + bs.length ≤ 2 ^ 41) :
    s.addValues a bs = s.addF32s (valueWords a bs) := by
  rw [State.addF32s, valueWords, List.foldl_map]
  refine List.foldl_ext _ _ _ fun u k hk => u.addF32_eq ?_ ?_
  · have := List.mem_range.1 hk
    omega
  · exact Nat.lt_of_lt_of_le (leNat_lt _) (Nat.pow_le_pow_right (by decide) (List.length_take_le 4 _) : _ ≤ 256 ^ 4)

theorem valueWords_rise (a : Nat) (bs : List Byte) : (valueWords a bs).Pairwise fun v w => v.1 + 4 ≤ w.1 :=
  List.pairwise_map.2 (List.pairwise_lt_range.imp fun {j k} hjk => by omega)

/-- Of words in rising order without overlap word `j` takes its value with draw `j`. -/
theorem State.addF32s_hbmNum_getElem {ws : List (Nat × Nat)} (s : State) (hrise : ws.Pairwise fun v w => v.1 + 4 ≤ w.1) (j : Nat)
    (hj : j < ws.length) : (s.addF32s ws).hbmNum ws[j].1 4 =
      f32Add (Config.freeNat (s.freeCtr + j)) (s.hbmNum ws[j].1 4) ws[j].2 % 2 ^ 32 := by
  induction ws generalizing s j with
  | nil => exact absurd hj (Nat.not_lt_zero _)
  | cons v ws ih =>
    obtain ⟨hv, hrest⟩ := List.pairwise_cons.1 hrise
    cases j with
    | zero =>
      refine (hbmNum_congr fun x hlo hhi => ?_).trans (s.addF32At_hbmNum ..)
      exact State.addF32s_mget _ fun u hu => .inl (Nat.lt_of_lt_of_le hhi (hv u hu))
    | succ j =>
      have hj : j < ws.length := Nat.lt_of_succ_lt_succ hj
      have hold : (s.addF32At v.1 v.2).hbmNum ws[j].1 4 = s.hbmNum ws[j].1 4 :=
        hbmNum_congr fun x hlo hhi => s.addF32At_mget _ (.inr (by have := hv _ (List.getElem_mem hj); omega))
      have hnum := ih (s.addF32At v.1 v.2) hrest j hj
      rw [hold, show (s.addF32At v.1 v.2).freeCtr + j = s.freeCtr + (j + 1) from Nat.succ_add_eq_add_succ ..] at hnum
      exact hnum

section
variable (s : State) {a : Nat} {bs : List Byte} (h : a + bs.length ≤ 2 ^ 41)
include h

theorem State.addValues_hbmNum {j : Nat} (hj : j < bs.length / 4) : (s.addValues a bs).hbmNum (a + 4 * j) 4 =
    f32Add (Config.freeNat (s.freeCtr + j)) (s.hbmNum (a + 4 * j) 4) (leNat ((bs.drop (4 * j)).take 4)) % 2 ^ 32 := by
  have hnum := s.addF32s_hbmNum_getElem (valueWords_rise a bs) j (by simpa [valueWords] using hj)
  simpa only [s.addValues_eq h, valueWords, List.getElem_map, List.getElem_range] using hnum

theorem State.addValues_outside : Outside a bs.length s.mem.hbm (s.addValues a bs).mem.hbm := by
  intro x hx
  rw [s.addValues_eq h]
  refine s.addF32s_mget fun w hw => ?_
  obtain ⟨k, hk, rfl⟩ := List.mem_map.1 hw
  have := List.mem_range.1 hk
  dsimp only
  omega

theorem State.addValues_mem : (s.addValues a bs).mem = { s.mem with hbm := (s.addValues a bs).mem.hbm } := by
  rw [s.addValues_eq h]
  exact s.addF32s_mem _

end

/-! ## A block that is damaged (R322, R326, R327) -/

/-- The stream waits for block `k`, which has been asked for `n` times by `now`. -/
def Stream.awaiting (k n now : Nat) (x : Stream) : Stream :=
  { x with refetch := tset x.refetch k n, waiting := (x.waiting.filter fun w => w.1 != k) ++ [(k, now)] }

/-- A block is asked for once more, before its request leaves. -/
def State.refetching (s : State) (t : Stream) (k : Nat) : State :=
  (s.onStream t.sid (Stream.awaiting k (tget 0 t.refetch k + 1) s.refNow)).bump .glzRefetch (s.streamDie t k) 1

theorem State.refetchBlock_asks {s : State} {t : Stream} {k : Nat} (h : tget 0 t.refetch k < 3) :
    Asks (s.refetching t k) (s.refetchBlock t k) := by
  simp only [State.refetchBlock, if_neg (Nat.not_le.2 h)]
  split
  · exact State.readWindow_asks ..
  · exact (State.sendPacket_sends ..).asks

section
variable {s : State} {sid k : Nat} {t : Stream} (hs : s.stream? sid = some t) (h : tget 0 t.refetch k < 3)
include hs h

theorem State.refetchBlock_stream : (s.refetchBlock t k).stream? sid = some (t.awaiting k (tget 0 t.refetch k + 1) s.refNow) := by
  rw [State.stream_congr (State.refetchBlock_asks h).streams]
  obtain rfl := State.stream_sid hs
  exact State.onStream_stream (Stream.awaiting _ _ _) hs fun _ => rfl

omit hs in
theorem State.refetchBlock_frame : WheelFrame [.regs, .lat, .ports, .swaps] [] [] s (s.refetchBlock t k) :=
  have hwait : WheelFrame [.regs, .lat, .ports, .swaps] [] [] s (s.refetching t k) := WheelFrame.refl.onStream.bump
  hwait.trans ((State.refetchBlock_asks h).frame.mono (by decide) (List.Subset.refl _))

end

/-! ## BLOCK_EXPAND (R322) -/

/-- The oldest block has left the queue of its engine, and its bytes are counted. -/
def State.expTaken (s : State) (d : Nat) (rest : List (Nat × Nat × List Byte)) (pay : List Byte) : State :=
  (s.onGlaze d fun e => { e with expQ := rest }).bump .glzInBytes d pay.length

/-- A damaged block is counted and recorded (R326). -/
def State.damageNoted (s : State) (d k : Nat) : State :=
  (s.bump .glzDamaged d 1).raiseLimited msNs 0 { code := faultCode 1 0xB 0xB2, unit := d, subunit := k }

theorem damaged_harmless (d k : Nat) : FaultRec.Harmless { code := faultCode 1 0xB 0xB2, unit := d, subunit := k } :=
  .inr (.inl (by decide : codeClass (faultCode 1 0xB 0xB2) = 1))

theorem State.damageNoted_frame (s : State) (d k : Nat) :
    WheelFrame [.flog] [] [] (s.bump .glzDamaged d 1) (s.damageNoted d k) := WheelFrame.refl.raiseLimited (damaged_harmless d k)

section
variable {d : DieIx} {s : State} {sid k : Nat} {pay : List Byte} {rest : List (Nat × Nat × List Byte)} {t : Stream}
  {e : GlazeEntry} (hq : (s.glaze d.val).expQ = (sid, k, pay) :: rest) (hs : s.stream? sid = some t) (he : t.table[k]? = some e)
include hq hs he

theorem exec_blockExpand_of_done (hk : k ∈ t.done) :
    exec (.blockExpand d) s = .next ((s.onGlaze d.val fun e => { e with expQ := rest }).bump .glzDup d.val 1) := by
  show execBlockExpand d s = _
  simp only [execBlockExpand, hq, hs, he, List.contains_iff_mem.2 hk, if_true]

theorem exec_blockExpand_of_passed {bs : List Byte} (hk : k ∉ t.done) (hexp : expandBlock e pay = some bs) :
    exec (.blockExpand d) s = .next ((s.expTaken d.val rest pay).blockPassed d.val t k bs) := by
  show execBlockExpand d s = _
  simp only [execBlockExpand, hq, hs, he, List.contains_iff_mem, hk, if_false, hexp]
  rfl

theorem exec_blockExpand_of_damaged (hk : k ∉ t.done) (hexp : expandBlock e pay = none) :
    exec (.blockExpand d) s = .next (((s.expTaken d.val rest pay).damageNoted d.val k).refetchBlock t k) := by
  show execBlockExpand d s = _
  simp only [execBlockExpand, hq, hs, he, List.contains_iff_mem, hk, if_false, hexp]
  rfl

end

/-! ## REFETCH_TIMEOUT (R326) -/

theorem exec_refetchTimeout_of_due {sid : Nat} {k : BitVec 17} {s : State} {t : Stream} {w : Nat × Nat} (hs : s.stream? sid = some t)
    (hw : w ∈ t.waiting) (hk : w.1 = k.toNat) (hdue : w.2 + t.peer.bound ≤ s.refNow) :
    exec (.refetchTimeout sid k) s = .next (s.refetchBlock t k.toNat) := by
  show execRefetchTimeout sid k s = _
  simp only [execRefetchTimeout, hs]
  exact if_pos (List.any_eq_true.2 ⟨w, hw, by simp [hk, hdue]⟩)

/-! ## BLOCK_COMPRESS (R323) -/

theorem State.outBytes_length (s : State) (o : OutStream) (k : Nat) : (s.outBytes o k).length = min 4096 (o.len - 4096 * k) := by
  simp [State.outBytes]

theorem State.countBlock_frame (s : State) (d mode : Nat) : WheelFrame [.regs] [] [] s (s.countBlock d mode) := by
  unfold State.countBlock
  split <;> exact WheelFrame.refl.bump

theorem State.countBlock_cmpBytes (s : State) (d mode u : Nat) : (s.countBlock d mode).reg .glzCmpBytes u = s.reg .glzCmpBytes u := by
  unfold State.countBlock
  split <;> exact s.reg_bump_of_ne ..

/-- The outgoing stream with one block more. -/
def OutStream.appended (o : OutStream) (b : GlazeEntry × List Byte) : OutStream := { o with blocks := o.blocks ++ [b] }

/-- The next block of an outgoing stream has been compressed and counted. -/
def State.blockAppended (s : State) (d : Nat) (rest : List (Nat × Nat)) (o : OutStream) (k : Nat) (b : GlazeEntry × List Byte) : State :=
  ((((s.onGlaze d fun e => { e with cmpQ := rest }).bump .hbmRdBytes (stackOfAddr (o.src + 4096 * k)) (s.outBytes o k).length).bump
    .glzCmpBytes d (s.outBytes o k).length).countBlock d b.1.mode).onLat fun l =>
      { l with outs := l.outs.map fun x => if x.sid = o.sid then o.appended b else x }

theorem State.blockAppended_frame (s : State) (d : Nat) (rest : List (Nat × Nat)) (o : OutStream) (k : Nat) (b : GlazeEntry × List Byte) :
    WheelFrame [.regs, .lat] [] [] (s.onGlaze d fun e => { e with cmpQ := rest }) (s.blockAppended d rest o k b) :=
  (WheelFrame.refl.bump.bump.trans ((State.countBlock_frame ..).mono (by decide) (List.Subset.refl _))).onLat

theorem State.blockAppended_cmpBytes (s : State) (d : Nat) (rest : List (Nat × Nat)) (o : OutStream) (k : Nat)
    (b : GlazeEntry × List Byte) : (s.blockAppended d rest o k b).reg .glzCmpBytes d =
      min (s.reg .glzCmpBytes d + min 4096 (o.len - 4096 * k)) (2 ^ 64 - 1) := by
  rw [State.blockAppended, State.onLat_reg, State.countBlock_cmpBytes, State.reg_bump_same, State.reg_bump_of_ne, State.onGlaze_reg,
    State.outBytes_length]
  rfl

theorem State.blockAppended_outs {s : State} {o : OutStream} (h : s.lat.outs.find? (·.sid == o.sid) = some o) (d : Nat)
    (rest : List (Nat × Nat)) (k : Nat) (b : GlazeEntry × List Byte) :
    (s.blockAppended d rest o k b).lat.outs.find? (·.sid == o.sid) = some (o.appended b) := by
  have hlat : ∀ u : State, u.lat = s.lat → ((u.onLat fun l =>
      { l with outs := l.outs.map fun x => if x.sid = o.sid then o.appended b else x }).lat.outs.find? (·.sid == o.sid)) =
        some (o.appended b) := fun u hu => by
    rw [State.onLat, hu]
    exact find?_map_replaced (key := OutStream.sid) h rfl
  refine hlat _ ?_
  exact (State.countBlock_frame ..).lat_eq

/-- A stream that is ready is sent; in any case only packets leave. -/
theorem exec_blockCompress_of_next {d : DieIx} {s : State} {rest : List (Nat × Nat)} {o : OutStream} {b : GlazeEntry × List Byte}
    (hq : (s.glaze d.val).cmpQ = (o.sid, o.blocks.length) :: rest) (ho : s.lat.outs.find? (·.sid == o.sid) = some o)
    (hb : b = compressBlock (bodyBytes (o.blocks.map (·.1)) / 16) (s.outBytes o o.blocks.length)) :
    ∃ u, exec (.blockCompress d) s = .next u ∧ Sends (s.blockAppended d.val rest o o.blocks.length b) u := by
  have hexec : exec (.blockCompress d) s = .next (if (o.appended b).ready
      then (s.blockAppended d.val rest o o.blocks.length b).sendStream (o.appended b)
      else s.blockAppended d.val rest o o.blocks.length b) := by
    show execBlockCompress d s = _
    simp only [execBlockCompress, hq, ho, ← hb, Nat.lt_irrefl, if_false]
    rfl
  refine ⟨_, hexec, ?_⟩
  split
  · exact State.sendStream_sends ..
  · exact .refl

/-! ## The statement -/

theorem badHeader_harmless (g unit : Nat) :
    FaultRec.Harmless { code := faultCode 1 0xB 0xB1, sagger := sgField g, unit := unit, subunit := 0 } :=
  .inr (.inl (by decide : codeClass (faultCode 1 0xB 0xB1) = 1))

section
variable {s : State} {sid : Nat} {t : Stream} (hs : s.stream? sid = some t)
include hs

/-- A good header opens its stream (R320). -/
theorem streamHeaderCheck_good {c : Coord} (hin : t.headerIn = true) (hpeer : t.peer = .lattice c)
    (hok : streamOk t.kind t.ctxA t.ctxB t.dstLen t.header t.indexBytes = true) (hroom : s.streamRoom t = true) :
    ∃ u, exec (.streamHeaderCheck sid) s = .next u ∧ u.stream? sid = some (t.opened t) ∧ Only [.lat, .regs] s u ∧
      RegsOnly [(.glzInBytes, s.streamDie t 0)] s u := by
  have hframe : WheelFrame [.lat, .regs] [] [] s
      ((s.bump .glzInBytes (s.streamDie t 0) t.indexBytes.length).onStream sid t.opened) := WheelFrame.refl.bump.onStream
  refine ⟨_, exec_streamHeaderCheck_of_good hs hin hpeer hok hroom, State.onStream_stream _ ?_ fun _ => rfl, hframe.only, ?_⟩
  · exact hs
  · exact fun r u hr => (s.reg_bump ..).trans (if_neg fun h => hr (by simp [h]))

/-- A first bad header is recorded, and the stream waits for another (R320, R327). -/
theorem streamHeaderCheck_again {c : Coord} (hin : t.headerIn = true) (hpeer : t.peer = .lattice c)
    (hbad : (streamOk t.kind t.ctxA t.ctxB t.dstLen t.header t.indexBytes && s.streamRoom t) = false) (hfirst : t.retried = false) :
    ∃ u, exec (.streamHeaderCheck sid) s = .next u ∧ Detects 0x1BB1#16 s u ∧ u.stream? sid = some t.askedAgain ∧
      Only [.flog, .lat, .ports, .regs] s u := by
  have hexec := exec_streamHeaderCheck_of_bad hs hin hbad
  rw [hfirst, if_neg Bool.false_ne_true] at hexec
  generalize hw : s.fault 1 0xB 0xB1 t.sagger (s.streamDie t 0) 0 = w at hexec
  have hfault : WheelFrame [.flog] [] [] s w := hw ▸ WheelFrame.refl.raiseHarmless (badHeader_harmless ..)
  have hsends := State.askAgain_sends (s := w) hpeer
  have hasked : WheelFrame [.lat, .ports, .regs] [] [] w (w.askAgain t) := WheelFrame.refl.onStream.trans hsends.frame
  refine ⟨_, hexec, ?_, ?_, ?_⟩
  · have hdetects : Detects 0x1BB1#16 s w := hw ▸ s.detects_raise _
    exact hdetects.of_flog_eq rfl hasked.flog_eq
  · obtain rfl := State.stream_sid hs
    rw [State.stream_congr hsends.streams_eq]
    exact State.onStream_stream _ ((State.stream_congr (congrArg _ hfault.lat_eq) _).trans hs) fun _ => rfl
  · exact (hfault.only.mono (by decide)).trans (hasked.only.mono (by decide))

/-- A second bad header fails a gradient stream (R327). -/
theorem streamHeaderCheck_failed (hin : t.headerIn = true)
    (hbad : (streamOk t.kind t.ctxA t.ctxB t.dstLen t.header t.indexBytes && s.streamRoom t) = false) (hagain : t.retried = true)
    (hkind : t.kind = 5) :
    ∃ u, exec (.streamHeaderCheck sid) s = .next u ∧ Detects 0x3BB0#16 s u ∧ (∀ v ∈ u.lat.streams, v.sid ≠ sid) ∧
      u.reg .glzFailed (s.streamDie t 0) = min (s.reg .glzFailed (s.streamDie t 0) + 1) (2 ^ 32 - 1) ∧ u.mem = s.mem := by
  have hexec := exec_streamHeaderCheck_of_bad hs hin hbad
  rw [if_pos hagain, State.failStream_of_gradient hkind] at hexec
  have hsends := ((s.bump .glzFailed (s.streamDie t 0) 1).dropStream t.sid).endStream_sends t 0xB0
  generalize ((s.bump .glzFailed (s.streamDie t 0) 1).dropStream t.sid).endStream t 0xB0 = w at hexec hsends
  have hfault : WheelFrame [.saggers, .flog, .lute] [] [t.sagger] w (w.fault 3 0xB 0xB0 t.sagger (s.streamDie t 0) 0) :=
    WheelFrame.refl.fault
  refine ⟨_, hexec, ?_, ?_, ?_, ?_⟩
  · exact Detects.of_flog_eq (w.detects_raise _) hsends.frame.flog_eq rfl
  · rw [hfault.lat_eq, hsends.streams_eq, ← State.stream_sid hs]
    exact fun v hv => by simpa using (List.mem_filter.1 hv).2
  · rw [hfault.reg_eq, hsends.reg _ _ (by decide)]
    exact s.reg_bump_same ..
  · rw [hfault.mem_eq, hsends.frame.mem_eq]
    rfl

end

section
variable {d : DieIx} {s : State} {sid k : Nat} {pay : List Byte} {rest : List (Nat × Nat × List Byte)} {t : Stream}
  {e : GlazeEntry} (hq : (s.glaze d.val).expQ = (sid, k, pay) :: rest) (hs : s.stream? sid = some t) (he : t.table[k]? = some e)
include hq hs he

/-- A block that is already done is counted and dropped (R325). -/
theorem blockExpand_done (hk : k ∈ t.done) : ∃ u, exec (.blockExpand d) s = .next u ∧ (u.glaze d.val).expQ = rest ∧
    u.reg .glzDup d.val = min (s.reg .glzDup d.val + 1) (2 ^ 32 - 1) ∧ Only [.glazes, .regs] s u ∧
    RegsOnly [(.glzDup, d.val)] s u ∧ Others State.glaze [d.val] s u := by
  have hframe : WheelFrame [.regs] [] [] (s.onGlaze d.val fun e => { e with expQ := rest })
      ((s.onGlaze d.val fun e => { e with expQ := rest }).bump .glzDup d.val 1) := WheelFrame.refl.bump
  obtain ⟨hglaze, hothers, honly⟩ := hframe.taken
  refine ⟨_, exec_blockExpand_of_done hq hs he hk, by rw [hglaze], State.reg_bump_same .., honly, ?_, hothers⟩
  exact fun r u hr => (State.reg_bump ..).trans (if_neg fun h => hr (by simp [h]))

/-- A block that passes leaves the queue; its stream holds it as done, and its bytes have landed (R322, R325). -/
theorem blockExpand_passed {bs : List Byte} (hk : k ∉ t.done) (hexp : expandBlock e pay = some bs)
    (hmore : t.done.length + 1 ≠ t.table.length) :
    ∃ u, exec (.blockExpand d) s = .next u ∧ (u.glaze d.val).expQ = rest ∧ u.stream? sid = some (t.passed k bs) ∧
      Only [.glazes, .mem, .regs, .lat, .freeCtr] s u ∧ Others State.glaze [d.val] s u ∧
      WheelFrame [.lat] [] [] ((s.expTaken d.val rest pay).blockLanded d.val t k bs) u := by
  have hexec := exec_blockExpand_of_passed hq hs he hk hexp
  have hlanded := (s.expTaken d.val rest pay).blockLanded_frame d.val k t bs
  rw [State.blockPassed_of_more hk hmore] at hexec
  generalize (s.expTaken d.val rest pay).blockLanded d.val t k bs = w at hexec hlanded ⊢
  have hclosed : WheelFrame [.lat] [] [] w (w.onStream t.sid fun _ => t.passed k bs) := WheelFrame.refl.onStream
  have hframe : WheelFrame [.mem, .regs, .lat, .freeCtr] [] [] (s.onGlaze d.val fun e => { e with expQ := rest })
      (w.onStream t.sid fun _ => t.passed k bs) :=
    (WheelFrame.refl.bump.trans (hlanded.mono (by decide) (List.Subset.refl _))).onStream
  obtain ⟨hglaze, hothers, honly⟩ := hframe.taken
  refine ⟨_, hexec, by rw [hglaze], ?_, honly, hothers, hclosed⟩
  obtain rfl := State.stream_sid hs
  exact State.onStream_replaced ((State.stream_congr (congrArg _ hlanded.lat_eq) _).trans hs) rfl

/-- A damaged block is counted, and asked for once more while refetches are left (R322, R326, R327). -/
theorem blockExpand_damaged (hk : k ∉ t.done) (hexp : expandBlock e pay = none) (hleft : tget 0 t.refetch k < 3) :
    ∃ u now, exec (.blockExpand d) s = .next u ∧ (u.glaze d.val).expQ = rest ∧ u.mem = s.mem ∧
      u.stream? sid = some (t.awaiting k (tget 0 t.refetch k + 1) now) ∧
      u.reg .glzDamaged d.val = min (s.reg .glzDamaged d.val + 1) (2 ^ 32 - 1) ∧
      Only [.glazes, .regs, .flog, .lat, .ports, .swaps] s u := by
  have hnoted := (s.expTaken d.val rest pay).damageNoted_frame d.val k
  have hcount : ((s.expTaken d.val rest pay).damageNoted d.val k).reg .glzDamaged d.val =
      min (s.reg .glzDamaged d.val + 1) (2 ^ 32 - 1) := by
    rw [hnoted.reg_eq, State.reg_bump_same, State.expTaken, State.reg_bump_of_ne]
    rfl
  have hexec := exec_blockExpand_of_damaged hq hs he hk hexp
  generalize (s.expTaken d.val rest pay).damageNoted d.val k = w at hexec hnoted hcount
  have hstart : WheelFrame [.regs, .flog, .lat, .ports, .swaps] [] [] (s.onGlaze d.val fun e => { e with expQ := rest }) w :=
    WheelFrame.refl.bump.bump.trans (hnoted.mono (by decide) (List.Subset.refl _))
  have hframe := hstart.trans ((State.refetchBlock_frame (s := w) hleft).mono (by decide) (List.Subset.refl _))
  obtain ⟨hglaze, -, honly⟩ := hframe.taken
  refine ⟨_, w.refNow, hexec, by rw [hglaze], hframe.mem_eq, ?_, ?_, honly⟩
  · exact State.refetchBlock_stream ((State.stream_congr (congrArg _ hnoted.lat_eq) _).trans hs) hleft
  · rw [(State.refetchBlock_asks hleft).reg _ _ (by decide), State.refetching, State.reg_bump_of_ne]
    exact hcount

end

/-- Settles O40: the header check reads the room of a gradient region as well (log entry 111); a block lands by its stream's
KIND. -/
theorem glazeStreamsAreCheckedExpandedAndRefetched : Obligations.GlazeStreamsAreCheckedExpandedAndRefetched := by
  refine ⟨fun sid s t c hs hin hpeer => ⟨fun hok hroom => ?good, fun hbad => ⟨fun hfirst => ?again,
      fun hretried hkind => ?failed⟩⟩,
    fun d s sid k pay rest t e hq hs he => ⟨fun hk => blockExpand_done hq hs he hk, fun bs hk hexp hmore => ?passed,
      fun hk hexp hleft => ?damaged⟩,
    fun sid k s t w hs hw hk hdue hleft => ?refetch, fun d s sid k rest o b hq ho hk hb => ?compress⟩
  case good => exact streamHeaderCheck_good hs hin hpeer hok hroom
  case again =>
    obtain ⟨u, hexec, hdetects, hstream, honly⟩ := streamHeaderCheck_again hs hin hpeer hbad hfirst
    exact ⟨u, _, hexec, hdetects, hstream, rfl, rfl, rfl, rfl, rfl, honly⟩
  case failed => exact streamHeaderCheck_failed hs hin hbad hretried hkind
  case passed =>
    obtain ⟨u, hexec, hrest, hstream, honly, hothers, hframe⟩ := blockExpand_passed hq hs he hk hexp hmore
    have hmem := hframe.mem_eq
    have hdraws : u.freeCtr = _ := hframe.only .freeCtr (by decide)
    have hcount := hframe.reg_eq .glzOutBytes d.val
    refine ⟨u, _, hexec, hrest, hstream, fun j => mem_addSorted.trans or_comm, honly, hothers, fun h4 h5 => ?written, fun h4 => ?held,
      fun h5 _ hend => ?gradient⟩
    case written =>
      rw [State.blockLanded_of_written h4 h5] at hmem hdraws hcount
      refine ⟨?_, ?_, by rw [hmem]; rfl, ?_, hdraws⟩
      · rw [State.hbm, hmem]
        exact mread_mwrite ..
      · rw [hmem]
        exact fun x hx => mget_mwrite_of_outside _ _ _ _ hx
      · rw [hcount, State.reg_bump_same, State.reg_bump_of_ne, State.putHbm, State.onHbm_reg, State.expTaken, State.reg_bump_of_ne]
        rfl
    case held =>
      rw [State.blockLanded_of_held h4] at hmem hdraws
      refine ⟨hmem, hdraws, ?_⟩
      rw [Stream.passed, if_pos h4, tget_tset, if_pos rfl]
    case gradient =>
      rw [State.blockLanded_of_gradient h5] at hmem
      refine ⟨fun j hj => ?_, ?_, ?_⟩
      · rw [State.hbmNum, hmem]
        exact State.addValues_hbmNum _ hend hj
      · rw [hmem]
        exact State.addValues_outside _ hend
      · rw [hmem]
        exact State.addValues_mem _ hend
  case damaged =>
    obtain ⟨u, now, hexec, hrest, hmem, hstream, hcount, honly⟩ := blockExpand_damaged hq hs he hk hexp hleft
    refine ⟨u, _, hexec, hrest, hmem, hstream, rfl, ?_, hcount, honly⟩
    exact (tget_tset ..).trans (if_pos rfl)
  case refetch =>
    have hframe := State.refetchBlock_frame (s := s) hleft
    refine ⟨_, _, exec_refetchTimeout_of_due hs hw hk hdue, hframe.mem_eq, State.refetchBlock_stream hs hleft, ?_, ?_, hframe.only⟩
    · exact (tget_tset ..).trans (if_pos rfl)
    · exact List.mem_append_right _ (List.mem_singleton_self _)
  case compress =>
    obtain rfl : o.sid = sid := by simpa using List.find?_some ho
    subst hk
    obtain ⟨u, hexec, hsends⟩ := exec_blockCompress_of_next hq ho hb
    have hframe := ((s.blockAppended_frame d.val rest o o.blocks.length b).mono (by decide) (List.Subset.refl _)).trans hsends.frame
    obtain ⟨hglaze, hothers, honly⟩ := hframe.taken
    refine ⟨u, hexec, by rw [hglaze], ?_, ?_, honly.mono (by decide), hothers⟩
    · rw [hsends.outs_eq]
      exact State.blockAppended_outs ho ..
    · rw [hsends.reg _ _ (by decide)]
      exact s.blockAppended_cmpBytes ..

end Sys2Proof.Machine

namespace Sys2Proof.Machine

/-! # What every command and every step keeps (O1 to O5) -/

/-- Row by row, each command keeps what `Keeps` lists; the five commands that start the module or take its power or reset
line away keep it without the clause for a serving module. -/
theorem exec_keepsNext (c : Instr) (s : State) : KeepsNext (!c.powers) s (exec c s) :=
  match c with
  | .replicaCountWindow .. => execReplicaCountWindow_keeps (Keeps.refl _ s)
  | .beatFactorUpdate .. => execBeatFactorUpdate_keeps (Keeps.refl _ s)
  | .voltageSelect .. => execVoltageSelect_keeps (Keeps.refl _ s)
  | .throttleTick .. => execThrottleTick_keeps (Keeps.refl _ s)
  | .entryTake .. => execEntryTake_keeps (Keeps.refl _ s)
  | .fencePass .. => execFencePass_keeps (Keeps.refl _ s)
  | .tileFillDone .. => execTileFillDone_keeps (Keeps.refl _ s)
  | .laneTakeJob .. => execLaneTakeJob_keeps (Keeps.refl _ s)
  | .jobEnd .. => execJobEnd_keeps (Keeps.refl _ s)
  | .entryJoin .. => execEntryJoin_keeps (Keeps.refl _ s)
  | .entryDrain .. => execEntryDrain_keeps (Keeps.refl _ s)
  | .wheelHang .. => execWheelHang_keeps (Keeps.refl _ s)
  | .slotCancelWheel .. => execSlotCancelWheel_keeps (Keeps.refl _ s)
  | .suspend .. => execSuspend_keeps (Keeps.refl _ s)
  | .suspendDone .. => execSuspendDone_keeps (Keeps.refl _ s)
  | .resume .. => execResume_keeps (Keeps.refl _ s)
  | .restoreContext .. => execRestoreContext_keeps (Keeps.refl _ s)
  | .listWrite .. => execListWrite_keeps (Keeps.refl _ s)
  | .lduTakeItem .. => execLduTakeItem_keeps (Keeps.refl _ s)
  | .pageDescriptor .. => execPageDescriptor_keeps (Keeps.refl _ s)
  | .queryTileClose .. => execQueryTileClose_keeps (Keeps.refl _ s)
  | .tableRebuild .. => execTableRebuild_keeps (Keeps.refl _ s)
  | .norm .. => execNorm_keeps (Keeps.refl _ s)
  | .prod .. => execProd_keeps (Keeps.refl _ s)
  | .glu .. => execGlu_keeps (Keeps.refl _ s)
  | .outer .. => execOuter_keeps (Keeps.refl _ s)
  | .lduCancelSlot .. => execLduCancelSlot_keeps (Keeps.refl _ s)
  | .ssuStream .. => execSsuStream_keeps (Keeps.refl _ s)
  | .ssuKeyComplete .. => execSsuKeyComplete_keeps (Keeps.refl _ s)
  | .ssuApply .. => execSsuApply_keeps (Keeps.refl _ s)
  | .kvStoreWrite .. => execKvStoreWrite_keeps (Keeps.refl _ s)
  | .walkOpenTile .. => execWalkOpenTile_keeps (Keeps.refl _ s)
  | .slotCopy .. => execSlotCopy_keeps (Keeps.refl _ s)
  | .compactCopy .. => execCompactCopy_keeps (Keeps.refl _ s)
  | .routeRow .. => execRouteRow_keeps (Keeps.refl _ s)
  | .layerClose .. => execLayerClose_keeps (Keeps.refl _ s)
  | .closeGluEmit .. => execCloseGluEmit_keeps (Keeps.refl _ s)
  | .arenaResume .. => execArenaResume_keeps (Keeps.refl _ s)
  | .mixRun .. => execMixRun_keeps (Keeps.refl _ s)
  | .luteToken .. => execLuteToken_keeps (Keeps.refl _ s)
  | .luteClose .. => execLuteClose_keeps (Keeps.refl _ s)
  | .luteDone .. => execLuteDone_keeps (Keeps.refl _ s)
  | .luteEmpty .. => execLuteEmpty_keeps (Keeps.refl _ s)
  | .submit .. => execSubmit_keeps (Keeps.refl _ s)
  | .cancel .. => execCancel_keeps (Keeps.refl _ s)
  | .budgetMessage .. => execBudgetMessage_keeps (Keeps.refl _ s)
  | .stepPlan .. => execStepPlan_keeps (Keeps.refl _ s)
  | .draftPass .. => execDraftPass_keeps (Keeps.refl _ s)
  | .sampleRow .. => execSampleRow_keeps (Keeps.refl _ s)
  | .verifyTree .. => execVerifyTree_keeps (Keeps.refl _ s)
  | .firePoint .. => execFirePoint_keeps (Keeps.refl _ s)
  | .swapOutPage .. => execSwapOutPage_keeps (Keeps.refl _ s)
  | .swapIn .. => execSwapIn_keeps (Keeps.refl _ s)
  | .slabRead .. => execSlabRead_keeps (Keeps.refl _ s)
  | .slabWrite .. => execSlabWrite_keeps (Keeps.refl _ s)
  | .slabClear .. => execSlabClear_keeps (Keeps.refl _ s)
  | .fill .. => execFill_keeps (Keeps.refl _ s)
  | .copy .. => execCopy_keeps (Keeps.refl _ s)
  | .hload .. => execHload_keeps (Keeps.refl _ s)
  | .gather .. => execGather_keeps (Keeps.refl _ s)
  | .load .. => execLoad_keeps (Keeps.refl _ s)
  | .loadLand .. => execLoadLand_keeps (Keeps.refl _ s)
  | .loadDemand .. => execLoadDemand_keeps (Keeps.refl _ s)
  | .narrowAccess .. => execNarrowAccess_keeps (Keeps.refl _ s)
  | .addS32 .. => execAddS32_keeps (Keeps.refl _ s)
  | .addS64 .. => execAddS64_keeps (Keeps.refl _ s)
  | .addF32 .. => execAddF32_keeps (Keeps.refl _ s)
  | .addS32Floor .. => execAddS32Floor_keeps (Keeps.refl _ s)
  | .hbmPromote .. => execHbmPromote_keeps (Keeps.refl _ s)
  | .refreshTick .. => execRefreshTick_keeps (Keeps.refl _ s)
  | .frameScrub .. => execFrameScrub_keeps (Keeps.refl _ s)
  | .storeRead .. => execStoreRead_keeps (Keeps.refl _ s)
  | .disturbRelocate .. => execDisturbRelocate_keeps (Keeps.refl _ s)
  | .chunkPoison .. => execChunkPoison_keeps (Keeps.refl _ s)
  | .chunkReload .. => execChunkReload_keeps (Keeps.refl _ s)
  | .reloadSourceTimeout .. => execReloadSourceTimeout_keeps (Keeps.refl _ s)
  | .streamHeaderCheck .. => execStreamHeaderCheck_keeps (Keeps.refl _ s)
  | .blockExpand .. => execBlockExpand_keeps (Keeps.refl _ s)
  | .refetchTimeout .. => execRefetchTimeout_keeps (Keeps.refl _ s)
  | .blockCompress .. => execBlockCompress_keeps (Keeps.refl _ s)
  | .tallyConfig .. => execTallyConfig_keeps (Keeps.refl _ s)
  | .signal .. => execSignal_keeps (Keeps.refl _ s)
  | .signalUnblock .. => execSignalUnblock_keeps (Keeps.refl _ s)
  | .release .. => execRelease_keeps (Keeps.refl _ s)
  | .wait .. => execWait_keeps (Keeps.refl _ s)
  | .read .. => execRead_keeps (Keeps.refl _ s)
  | .tallyShadowWrite .. => execTallyShadowWrite_keeps (Keeps.refl _ s)
  | .deadlockDetect .. => execDeadlockDetect_keeps (Keeps.refl _ s)
  | .portEnable .. => execPortEnable_keeps (Keeps.refl _ s)
  | .trainingRecord .. => execTrainingRecord_keeps (Keeps.refl _ s)
  | .portTrainTimeout .. => execPortTrainTimeout_keeps (Keeps.refl _ s)
  | .portTrainRetry .. => execPortTrainRetry_keeps (Keeps.refl _ s)
  | .fastRetrain .. => execFastRetrain_keeps (Keeps.refl _ s)
  | .fastRetrainTimeout .. => execFastRetrainTimeout_keeps (Keeps.refl _ s)
  | .groupErrorExclude .. => execGroupErrorExclude_keeps (Keeps.refl _ s)
  | .latticeFlit .. => execLatticeFlit_keeps (Keeps.refl _ s)
  | .latticeNak .. => execLatticeNak_keeps (Keeps.refl _ s)
  | .latticeHeartbeatSend .. => execLatticeHeartbeatSend_keeps (Keeps.refl _ s)
  | .linkFrameSend .. => execLinkFrameSend_keeps (Keeps.refl _ s)
  | .latticeLossDetect .. => execLatticeLossDetect_keeps (Keeps.refl _ s)
  | .packetRoute .. => execPacketRoute_keeps (Keeps.refl _ s)
  | .loss .. => execLoss_keeps (Keeps.refl _ s)
  | .restore .. => execRestore_keeps (Keeps.refl _ s)
  | .apexLossWindow .. => execApexLossWindow_keeps (Keeps.refl _ s)
  | .timeSync .. => execTimeSync_keeps (Keeps.refl _ s)
  | .tsyncEdge .. => execTsyncEdge_keeps (Keeps.refl _ s)
  | .timebaseSecond .. => execTimebaseSecond_keeps (Keeps.refl _ s)
  | .sliceJoin .. => execSliceJoin_keeps (Keeps.refl _ s)
  | .sliceAck .. => execSliceAck_keeps (Keeps.refl _ s)
  | .sliceFormTimeout .. => execSliceFormTimeout_keeps (Keeps.refl _ s)
  | .sliceMark .. => execSliceMark_keeps (Keeps.refl _ s)
  | .sliceStop .. => execSliceStop_keeps (Keeps.refl _ s)
  | .sliceLeave .. => execSliceLeave_keeps (Keeps.refl _ s)
  | .streamHdr .. => execStreamHdr_keeps (Keeps.refl _ s)
  | .streamBlk .. => execStreamBlk_keeps (Keeps.refl _ s)
  | .blkReq .. => execBlkReq_keeps (Keeps.refl _ s)
  | .streamReq .. => execStreamReq_keeps (Keeps.refl _ s)
  | .chunkReq .. => execChunkReq_keeps (Keeps.refl _ s)
  | .streamEnd .. => execStreamEnd_keeps (Keeps.refl _ s)
  | .unreachable .. => execUnreachable_keeps (Keeps.refl _ s)
  | .pairForm .. => execPairForm_keeps (Keeps.refl _ s)
  | .luteWrite .. => execLuteWrite_keeps (Keeps.refl _ s)
  | .luteRead .. => execLuteRead_keeps (Keeps.refl _ s)
  | .luteReadRsp .. => execLuteReadRsp_keeps (Keeps.refl _ s)
  | .luteAtomic .. => execLuteAtomic_keeps (Keeps.refl _ s)
  | .luteAtomicRsp .. => execLuteAtomicRsp_keeps (Keeps.refl _ s)
  | .luteTally .. => execLuteTally_keeps (Keeps.refl _ s)
  | .luteMirror .. => execLuteMirror_keeps (Keeps.refl _ s)
  | .pairStop .. => execPairStop_keeps (Keeps.refl _ s)
  | .shomuLinkTrain .. => execShomuLinkTrain_keeps (Keeps.refl _ s)
  | .shomuTrainingRecord .. => execShomuTrainingRecord_keeps (Keeps.refl _ s)
  | .shomuTrainTimeout .. => execShomuTrainTimeout_keeps (Keeps.refl _ s)
  | .shomuTrainRetry .. => execShomuTrainRetry_keeps (Keeps.refl _ s)
  | .shomuFastRetrain .. => execShomuFastRetrain_keeps (Keeps.refl _ s)
  | .shomuFlit .. => execShomuFlit_keeps (Keeps.refl _ s)
  | .shomuNak .. => execShomuNak_keeps (Keeps.refl _ s)
  | .credit .. => execCredit_keeps (Keeps.refl _ s)
  | .frameReceive .. => execFrameReceive_keeps (Keeps.refl _ s)
  | .statusReq .. => execStatusReq_keeps (Keeps.refl _ s)
  | .attestReq .. => execAttestReq_keeps (Keeps.refl _ s)
  | .keyOffer .. => execKeyOffer_keeps (Keeps.refl _ s)
  | .keySlotRetireTimeout .. => execKeySlotRetireTimeout_keeps (Keeps.refl _ s)
  | .swapWr .. => execSwapWr_keeps (Keeps.refl _ s)
  | .swapRd .. => execSwapRd_keeps (Keeps.refl _ s)
  | .swapAck .. => execSwapAck_keeps (Keeps.refl _ s)
  | .swapData .. => execSwapData_keeps (Keeps.refl _ s)
  | .swapErr .. => execSwapErr_keeps (Keeps.refl _ s)
  | .swapTimeout .. => execSwapTimeout_keeps (Keeps.refl _ s)
  | .shomuHeartbeatSend .. => execShomuHeartbeatSend_keeps (Keeps.refl _ s)
  | .heartbeat .. => execHeartbeat_keeps (Keeps.refl _ s)
  | .shomuLossDetect .. => execShomuLossDetect_keeps (Keeps.refl _ s)
  | .lossRequestEnd .. => execLossRequestEnd_keeps (Keeps.refl _ s)
  | .mgmtHandshake .. => execMgmtHandshake_keeps (Keeps.refl _ s)
  | .addressRefusalExpire .. => execAddressRefusalExpire_keeps (Keeps.refl _ s)
  | .mgmtSessionClose .. => execMgmtSessionClose_keeps (Keeps.refl _ s)
  | .getCert .. => execGetCert_keeps (Keeps.refl _ s)
  | .attest .. => execAttest_keeps (Keeps.refl _ s)
  | .attestSnapshot .. => execAttestSnapshot_keeps (Keeps.refl _ s)
  | .csrRead .. => execCsrRead_keeps (Keeps.refl _ s)
  | .csrWrite .. => execCsrWrite_keeps (Keeps.refl _ s)
  | .stepRead .. => execStepRead_keeps (Keeps.refl _ s)
  | .faultRead .. => execFaultRead_keeps (Keeps.refl _ s)
  | .budget .. => execBudget_keeps (Keeps.refl _ s)
  | .saggerReset .. => execSaggerReset_keeps (Keeps.refl _ s)
  | .saggerClear .. => execSaggerClear_keeps (Keeps.refl _ s)
  | .clearComplete .. => execClearComplete_keeps (Keeps.refl _ s)
  | .imageWrite .. => execImageWrite_keeps (Keeps.refl _ s)
  | .imageCommit .. => execImageCommit_keeps (Keeps.refl _ s)
  | .imageErase .. => execImageErase_keeps (Keeps.refl _ s)
  | .imageLoad .. => execImageLoad_keeps (Keeps.refl _ s)
  | .imageRemove .. => execImageRemove_keeps (Keeps.refl _ s)
  | .fwBegin .. => execFwBegin_keeps (Keeps.refl _ s)
  | .fwData .. => execFwData_keeps (Keeps.refl _ s)
  | .fwCommit .. => execFwCommit_keeps (Keeps.refl _ s)
  | .fwAbort .. => execFwAbort_keeps (Keeps.refl _ s)
  | .sliceForm .. => execSliceForm_keeps (Keeps.refl _ s)
  | .sliceDissolve .. => execSliceDissolve_keeps (Keeps.refl _ s)
  | .migrate .. => execMigrate_keeps (Keeps.refl _ s)
  | .shutdown .. => execShutdown_keeps (Keeps.refl _ s)
  | .bistConditionCheck .. => execBistConditionCheck_keeps (Keeps.refl _ s)
  | .resetRelease .. => execResetRelease_keeps (Keeps.refl _ s)
  | .coneMeasure .. => execConeMeasure_keeps (Keeps.refl _ s)
  | .bisqueEntry .. => execBisqueEntry_keeps (Keeps.refl _ s)
  | .faultLogEnter .. => execFaultLogEnter_keeps (Keeps.refl _ s)
  | .saggerResetSequence .. => execSaggerResetSequence_keeps (Keeps.refl _ s)
  | .setterProbe .. => execSetterProbe_keeps (Keeps.refl _ s)
  | .setterProbeTimeout .. => execSetterProbeTimeout_keeps (Keeps.refl _ s)
  | .trip .. => execTrip_keeps (Keeps.refl _ s)
  | .resetAssert .. => execResetAssert_keeps (Keeps.refl _ s)
  | .inputLockout .. => execInputLockout_keeps (Keeps.refl _ s)
  | .inputReturn .. => execInputReturn_keeps (Keeps.refl _ s)
  | .moduleInsert .. => execModuleInsert_keeps (Keeps.refl _ s)
  | .linkFrameReceive .. => execLinkFrameReceive_keeps (Keeps.refl _ s)
  | .managementLinkChange .. => execManagementLinkChange_keeps (Keeps.refl _ s)
  | .refclkPpmUpdate .. => execRefclkPpmUpdate_keeps (Keeps.refl _ s)

/-- Settles O3, from the law of each row. -/
theorem everyCommandKeepsTheModule : Obligations.EveryCommandKeepsTheModule := by
  intro c s t h
  have hkeeps := exec_keepsNext c s
  rwa [h] at hkeeps

/-- Settles O1. -/
theorem stepRunsFrontCommand : Obligations.StepRunsFrontCommand := fun _ _ _ => rfl

theorem step_of_empty {s : State} (h : s.pending = []) : step s = .next (tick s) := by
  rw [step, h]

theorem step_of_cons {s : State} {c : Instr} {rest : List Instr} (h : s.pending = c :: rest) :
    step s = exec c { s with pending := rest } := by
  rw [step, h]

/-- Settles O2: once the firmware runs a period advances REFCLK by 10 ns, and what follows it keeps the module. -/
theorem emptyQueueStepIsOneTick : Obligations.EmptyQueueStepIsOneTick := by
  intro s hempty
  have htick := tick_keeps (s := s)
  refine ⟨tick s, step_of_empty hempty, ?_⟩
  split at htick
  next hup =>
    refine ⟨htick.pending.trans hempty, fun _ => ⟨(htick.time rfl).trans (Timebase.advance_ref s.tb), htick⟩, fun hdown => ?_⟩
    rw [hup] at hdown
    contradiction
  next hdown => exact ⟨by rw [htick, hempty], fun hup => absurd hup hdown, fun _ => htick⟩

theorem tick_canon {s : State} (h : Canon s) : Canon (tick s) := by
  have htick := tick_keeps (s := s)
  split at htick
  · exact htick.canon { h with }
  · rwa [htick]

/-- Settles O4: a step is a command on the state with a shorter queue, which is as canonical, or a tick. -/
theorem everyStepKeepsCanonicalForm : Obligations.EveryStepKeepsCanonicalForm := by
  intro s t hs hstep
  cases hpending : s.pending with
  | nil =>
    rw [step_of_empty hpending] at hstep
    cases hstep
    exact tick_canon hs
  | cons c rest =>
    rw [step_of_cons hpending] at hstep
    exact (everyCommandKeepsTheModule c _ t hstep).canon { hs with }

/-- Settles O5: every memory of the reset state lists no byte. -/
theorem resetStateIsCanonical : Obligations.ResetStateIsCanonical :=
  ⟨⟨rfl, rfl, rfl, rfl, rfl, rfl, Nat.zero_le _⟩, rfl, rfl⟩

end Sys2Proof.Machine

namespace Sys2Proof.Machine

/-! # Tallies (O41, O42) -/

/-! ## The tally that a command names -/

@[simp] theorem tallySagger_idKey (i : TallyId) : tallySagger (idKey i) = i.sagger.toNat := tallySagger_tallyKey i.index.isLt

@[simp] theorem tallyIndex_idKey (i : TallyId) : tallyIndex (idKey i) = i.index.toNat := by
  have hlt : i.index.toNat < 4096 := i.index.isLt
  unfold tallyIndex idKey tallyKey
  omega

theorem toNat_ne_tallySagger_idKey {by_ : BitVec 4} {i : TallyId} (h : by_ ≠ i.sagger) : by_.toNat ≠ tallySagger (idKey i) := by
  rw [tallySagger_idKey]
  exact fun heq => h (BitVec.eq_of_toNat_eq heq)

/-! ## A refused operation (R339, R346) -/

theorem State.detects_tallyFault (s : State) (i : TallyId) (detail by_ : Nat) :
    Detects (faultCode (if i.sagger.toNat < 12 then 3 else 4) 0xC detail) s (s.tallyFault (idKey i) detail by_) := by
  rw [← tallySagger_idKey i]
  exact s.detects_raise _

theorem State.tallyFault_only (s : State) (k detail by_ : Nat) : Only [.flog, .saggers, .lute] s (s.tallyFault k detail by_) :=
  State.fault_only.mono (by decide)

/-- A command that a tally refuses has one record more, and no count has moved. -/
theorem exec_refused_by_tally {c : Instr} {s : State} {i : TallyId} {detail by_ : Nat}
    (h : exec c s = .next (s.tallyFault (idKey i) detail by_)) :
    ∃ t, exec c s = .next t ∧ Detects (faultCode (if i.sagger.toNat < 12 then 3 else 4) 0xC detail) s t ∧
      Only [.flog, .saggers, .lute] s t := ⟨_, h, s.detects_tallyFault i detail by_, s.tallyFault_only _ detail by_⟩

theorem exec_signal_refused {i : TallyId} {n : BitVec 16} {agent : BitVec 13} {by_ : BitVec 4} {s : State} (blocking : Bool) (hn : n ≠ 0)
    (hbad : (s.tally (idKey i)).mode = 0 ∨ by_ ≠ i.sagger) :
    exec (.signal i n blocking agent by_) s = .next (s.tallyFault (idKey i) 0xC2 by_.toNat) := by
  have hblock : (blocking && (s.tally (idKey i)).mode != 0 && by_ == i.sagger && !s.signalFits (idKey i) n.toNat agent) = false := by
    rcases hbad with hbad | hbad <;> simp [hbad]
  have hrefused : (s.tally (idKey i)).mode = 0 ∨ by_.toNat ≠ tallySagger (idKey i) := hbad.imp_right toNat_ne_tallySagger_idKey
  change execSignal i n blocking agent by_ s = _
  rw [execSignal, if_neg hn, hblock, if_neg Bool.false_ne_true, State.signalTally, if_pos hrefused]

/-! ## SIGNAL (R336, R337) -/

/-- The state in which the tally at home has counted a signal and its waiters have been woken. -/
def State.signalled (s : State) (k n : Nat) (agent : BitVec 13) : State := (s.onTally k (·.signal n agent)).tallyTouch k

@[simp] theorem State.signalled_tally (s : State) (k n : Nat) (agent : BitVec 13) :
    (s.signalled k n agent).tally k = (s.tally k).signal n agent := by simp [State.signalled]

theorem State.tallyTouch_only (s : State) (k : Nat) : Only [.saggers, .houseProgress, .houseArmed] s (s.tallyTouch k) := by
  intro p hp
  unfold State.tallyTouch
  split <;> cases p
  case isTrue.saggers => simp at hp
  case isFalse.houseProgress => simp at hp
  case isFalse.houseArmed => simp at hp
  all_goals rfl

theorem State.signalled_only (s : State) (k n : Nat) (agent : BitVec 13) :
    Only [.tallies, .saggers, .houseProgress, .houseArmed] s (s.signalled k n agent) :=
  ((s.onTally_only k _).mono (by decide)).trans ((State.tallyTouch_only _ k).mono (by decide))

@[simp] theorem State.signalled_flog (s : State) (k n : Nat) (agent : BitVec 13) : (s.signalled k n agent).flog = s.flog :=
  s.signalled_only k n agent .flog (by decide)

/-- The bound holds after the signal. -/
theorem State.applySignal_of_fits {s : State} {k n : Nat} {agent : BitVec 13}
    (h : ((s.tally k).signal n agent).open_ ≤ ((s.tally k).signal n agent).depth) : s.applySignal k n agent = s.signalled k n agent := by
  have hfits : ¬ ((s.signalled k n agent).tally k).open_ > ((s.signalled k n agent).tally k).depth := by simpa using h
  exact if_neg hfits

/-- The signal breaks the bound: the tally is marked OVER. -/
theorem State.applySignal_of_over {s : State} {k n : Nat} {agent : BitVec 13}
    (h : ((s.tally k).signal n agent).depth < ((s.tally k).signal n agent).open_) : s.applySignal k n agent =
      ((s.signalled k n agent).onTally k fun t => { t with exceeded := true }).tallyFault k 0xC0 (tallySagger k) := by
  have hover : ((s.signalled k n agent).tally k).open_ > ((s.signalled k n agent).tally k).depth := by simpa using h
  exact if_pos hover

theorem State.tallyFault_tally (s : State) (k detail by_ j : Nat) : (s.tallyFault k detail by_).tally j = s.tally j :=
  (WheelFrame.refl (ps := [.saggers, .flog, .lute]) (ws := []) (gs := [by_])).tallyFault.tally_eq j

/-- After a signal the tally is the one that has counted it, except that it may be marked OVER. -/
theorem State.applySignal_tally (s : State) (k n : Nat) (agent : BitVec 13) :
    ∃ e, (s.applySignal k n agent).tally k = { (s.tally k).signal n agent with exceeded := e } ∧
      (((s.tally k).signal n agent).open_ ≤ ((s.tally k).signal n agent).depth → e = (s.tally k).exceeded) ∧
      (((s.tally k).signal n agent).depth < ((s.tally k).signal n agent).open_ → e = true) := by
  rcases Nat.lt_or_ge ((s.tally k).signal n agent).depth ((s.tally k).signal n agent).open_ with h | h
  · refine ⟨true, ?_, fun hle => absurd hle (by omega), fun _ => rfl⟩
    rw [State.applySignal_of_over h, State.tallyFault_tally, State.onTally_tally, if_pos rfl, State.signalled_tally]
  · exact ⟨_, (congrArg (State.tally · k) (State.applySignal_of_fits h)).trans (s.signalled_tally ..), fun _ => rfl,
      fun hlt => absurd hlt (by omega)⟩

theorem State.applySignal_only (s : State) (k n : Nat) (agent : BitVec 13) :
    Only [.tallies, .saggers, .houseProgress, .houseArmed, .flog, .lute] s (s.applySignal k n agent) := by
  have hsignal := (s.signalled_only k n agent).mono
    (ps' := [.tallies, .saggers, .houseProgress, .houseArmed, .flog, .lute]) (by decide)
  rcases Nat.lt_or_ge ((s.tally k).signal n agent).depth ((s.tally k).signal n agent).open_ with h | h
  · rw [State.applySignal_of_over h]
    exact (hsignal.trans ((State.onTally_only _ k _).mono (by decide))).trans ((State.tallyFault_only _ _ _ _).mono (by decide))
  · rwa [State.applySignal_of_fits h]

theorem State.detects_applySignal {s : State} {i : TallyId} {n : Nat} {agent : BitVec 13}
    (h : ((s.tally (idKey i)).signal n agent).depth < ((s.tally (idKey i)).signal n agent).open_) :
    Detects (faultCode (if i.sagger.toNat < 12 then 3 else 4) 0xC 0xC0) s (s.applySignal (idKey i) n agent) := by
  have hover := State.detects_tallyFault ((s.signalled (idKey i) n agent).onTally (idKey i) fun t => { t with exceeded := true }) i 0xC0
    (tallySagger (idKey i))
  rw [State.applySignal_of_over h]
  exact hover.of_flog_eq (s.signalled_flog ..) rfl

/-- Waits of a RING tally consume nothing (R336). -/
theorem Tally.signal_cons_of_ring {x : Tally} (n : Nat) (agent : BitVec 13) (h : x.mode = 1) : (x.signal n agent).cons = x.cons := by
  have hnone : (x.waiters.filter fun w => reached (x.prod + BitVec.ofNat 48 n) w.target && w.consume && x.mode == 2) = [] := by
    simp [h]
  change (List.filter _ _).foldl _ _ = _
  exact (congrArg _ hnone).trans rfl

theorem exec_signal_of_own {i : TallyId} {n : BitVec 16} {blocking : Bool} {agent : BitVec 13} {s : State} (hn : n ≠ 0)
    (hmode : (s.tally (idKey i)).mode ≠ 0) (hhome : s.homeHere (idKey i) = true)
    (hfits : blocking = true → s.signalFits (idKey i) n.toNat agent = true) :
    exec (.signal i n blocking agent i.sagger) s = .next (s.applySignal (idKey i) n.toNat agent) := by
  have hblock : (blocking && (s.tally (idKey i)).mode != 0 && i.sagger == i.sagger && !s.signalFits (idKey i) n.toNat agent) = false := by
    cases blocking
    · simp
    · simp [hfits rfl]
  have hok : ¬ ((s.tally (idKey i)).mode = 0 ∨ i.sagger.toNat ≠ tallySagger (idKey i)) := by simp [hmode]
  change execSignal i n blocking agent i.sagger s = _
  rw [execSignal, if_neg hn, hblock, if_neg Bool.false_ne_true, State.signalTally, if_neg hok, State.deliverSignal, if_pos hhome]

/-! ## RELEASE (R336) -/

theorem exec_release_refused {i : TallyId} {n : BitVec 16} {agent : BitVec 13} {by_ : BitVec 4} {s : State} (hn : n ≠ 0)
    (hbad : (s.tally (idKey i)).mode ≠ 1 ∨ by_ ≠ i.sagger) :
    exec (.release i n agent by_) s = .next (s.tallyFault (idKey i) 0xC2 by_.toNat) := by
  change execRelease i n agent by_ s = _
  simp only [execRelease, if_neg hn]
  exact if_pos (by simpa using hbad)

theorem exec_release_of_ring {i : TallyId} {n : BitVec 16} {agent : BitVec 13} {s : State} (hn : n ≠ 0)
    (hmode : (s.tally (idKey i)).mode = 1) (hhome : s.homeHere (idKey i) = true) :
    exec (.release i n agent i.sagger) s = .next (if n.toNat > (s.tally (idKey i)).open_ then s.tallyFault (idKey i) 0xC1 i.sagger.toNat
      else (s.onTally (idKey i) fun x => { x with cons := x.cons + BitVec.ofNat 48 n.toNat }).tallyTouch (idKey i)) := by
  change execRelease i n agent i.sagger s = _
  by_cases hover : n.toNat > (s.tally (idKey i)).open_ <;> simp [execRelease, show ¬ n = 0#16 from hn, hmode, hhome, hover]

/-! ## WAIT (R336, R340) -/

theorem exec_wait_refused {i : TallyId} {target : BitVec 48} {consume : Bool} {agent : BitVec 13} {s : State}
    (hfree : s.agentWaits agent = false) (hbad : (s.tally (idKey i)).waitBad target consume = true) :
    exec (.wait i target consume agent i.sagger) s = .next (s.tallyFault (idKey i) 0xC2 i.sagger.toNat) := by
  change execWait i target consume agent i.sagger s = _
  simp [execWait, hfree, hbad]

theorem exec_wait_of_good {i : TallyId} {target : BitVec 48} {consume : Bool} {agent : BitVec 13} {s : State}
    (hfree : s.agentWaits agent = false) (hgood : (s.tally (idKey i)).waitBad target consume = false)
    (hhome : s.homeHere (idKey i) = true) :
    exec (.wait i target consume agent i.sagger) s = .next (s.onTally (idKey i) (·.wait ⟨agent, target, consume⟩)) := by
  change execWait i target consume agent i.sagger s = _
  simp [execWait, hfree, hgood, hhome]

/-- A consuming wait that is not refused is of an EVENT tally. -/
theorem Tally.mode_of_consuming_wait {x : Tally} {target : BitVec 48} (h : x.waitBad target true = false) : x.mode = 2 := by
  simp only [Tally.waitBad, Bool.or_eq_false_iff, Bool.true_and, bne_eq_false_iff_eq] at h
  exact h.1.2

section
variable {x : Tally} {w : Waiter} (hwaiters : ∀ v ∈ x.waiters, reached x.prod v.target = false)
include hwaiters

/-- The waiters of before stay: none of their targets has been reached. -/
theorem Tally.filter_waiting : (x.waiters.filter fun v => !reached x.prod v.target) = x.waiters := by
  simpa using hwaiters

theorem Tally.filter_consuming (p : Waiter → Bool) : (x.waiters.filter fun v => reached x.prod v.target && p v) = [] := by
  simp +contextual [hwaiters]

/-- A wait for a target that PROD has not reached leaves the agent among the waiters. -/
theorem Tally.wait_of_not_reached (h : reached x.prod w.target = false) : x.wait w = { x with waiters := x.waiters ++ [w] } := by
  have hcons := Tally.filter_consuming hwaiters fun v => v.consume && x.mode == 2
  simp only [← Bool.and_assoc] at hcons
  change ({ x with waiters := _, cons := _ } : Tally) = _
  simp only [Tally.mode, List.filter_append, Tally.filter_waiting hwaiters] at hcons ⊢
  simp [h, hcons]

/-- A wait for a target that PROD has reached lets the agent go on; a consuming one takes the target's events. -/
theorem Tally.wait_of_reached (h : reached x.prod w.target = true) (hmode : w.consume = true → x.mode = 2) :
    x.wait w = { x with cons := if w.consume then consumeTo x.cons w.target else x.cons } := by
  have hcons := Tally.filter_consuming hwaiters fun v => v.consume && x.mode == 2
  simp only [← Bool.and_assoc] at hcons
  change ({ x with waiters := _, cons := _ } : Tally) = _
  simp only [Tally.mode, List.filter_append, Tally.filter_waiting hwaiters] at hcons hmode ⊢
  rw [hcons]
  cases hconsume : w.consume
  · simp [h, hconsume]
  · simp [h, hconsume, hmode hconsume]
end

/-! ## TALLY_CONFIG (R334) -/

theorem exec_tallyConfig_legal {i : TallyId} {cfg : BitVec 64} {s : State} (hlegal : cfgLegal cfg = true)
    (hwaiters : (s.tally (idKey i)).waiters = []) (hblocked : (s.tally (idKey i)).blocked = []) :
    exec (.tallyConfig i cfg) s = .next (s.onTally (idKey i) fun x => { x with cfg := cfg }) := by
  change Host.Outcome.next (s.configTally (idKey i) cfg) = _
  simp [State.configTally, hlegal, hwaiters, hblocked]

theorem exec_tallyConfig_refused {i : TallyId} {cfg : BitVec 64} {s : State}
    (hbad : cfgLegal cfg = false ∨ (s.tally (idKey i)).waiters ≠ [] ∨ (s.tally (idKey i)).blocked ≠ []) :
    exec (.tallyConfig i cfg) s = .next (s.tallyFault (idKey i) 0xC3 (tallySagger (idKey i))) := by
  have hrefused : (!(s.tally (idKey i)).waiters.isEmpty || !(s.tally (idKey i)).blocked.isEmpty || !cfgLegal cfg) = true := by
    rcases hbad with hbad | hbad | hbad <;> simp [hbad]
  exact congrArg Host.Outcome.next (if_pos hrefused)

/-- Settles O41: each operation's outcome is one change of the tally, or one record. -/
theorem tallyCountsMoveByTheirOperations : Obligations.TallyCountsMoveByTheirOperations := by
  unfold Obligations.TallyCountsMoveByTheirOperations
  refine ⟨fun i cfg s => ⟨fun hlegal hwaiters hblocked => ?config, fun hbad => exec_refused_by_tally (exec_tallyConfig_refused hbad)⟩,
    fun i n blocking agent s x hx hn hmode hhome hfits => ?signal,
    fun i n blocking agent by_ s hn hbad => exec_refused_by_tally (exec_signal_refused blocking hn hbad),
    fun i n agent by_ s x hx hn => ⟨fun hmode hby hhome hle => ?release, fun hmode hby hhome hlt => ?exceeds,
      fun hbad => exec_refused_by_tally (exec_release_refused hn (hx ▸ hbad))⟩,
    fun i target consume agent s x hx hfree => ⟨fun hbad => exec_refused_by_tally (exec_wait_refused hfree (hx ▸ hbad)),
      fun hgood hhome hwaiters => ⟨fun hreached => ?goes, fun hreached => ?waits⟩⟩,
    fun i d s => ⟨_, rfl, ?reads, fun hview => ?view⟩⟩
  case config =>
    exact ⟨_, exec_tallyConfig_legal hlegal hwaiters hblocked, by simp, s.onTally_only _ _, s.onTally_others _ _⟩
  case signal =>
    subst hx
    obtain ⟨e, htally, hfit, hover⟩ := s.applySignal_tally (idKey i) n.toNat agent
    refine ⟨_, exec_signal_of_own hn hmode hhome hfits, ?_⟩
    rw [htally]
    refine ⟨rfl, rfl, rfl, rfl, rfl, fun hring => Tally.signal_cons_of_ring _ _ hring, fun hle => ⟨hfit hle, ?_⟩,
      fun hlt => ⟨hover hlt, ?_⟩, s.applySignal_others _ _ _, s.applySignal_only _ _ _⟩
    · rw [State.applySignal_of_fits hle, State.signalled_flog]
    · exact State.detects_applySignal hlt
  case release =>
    subst hx hby
    refine ⟨_, (exec_release_of_ring hn hmode hhome).trans (congrArg _ (if_neg (by omega))), by simp, fun j hj => ?_, ?_⟩
    · exact (State.tallyTouch_tally ..).trans (s.onTally_others _ _ j hj)
    · exact ((s.onTally_only _ _).mono (by decide)).trans ((State.tallyTouch_only _ _).mono (by decide))
  case exceeds =>
    subst hx hby
    exact exec_refused_by_tally ((exec_release_of_ring hn hmode hhome).trans (congrArg _ (if_pos hlt)))
  case goes =>
    subst hx
    refine ⟨_, exec_wait_of_good hfree hgood hhome, ?_, s.onTally_others _ _, s.onTally_only _ _⟩
    rw [State.onTally_tally, if_pos rfl, Tally.wait_of_reached hwaiters hreached]
    rintro rfl
    exact Tally.mode_of_consuming_wait hgood
  case waits =>
    subst hx
    refine ⟨_, exec_wait_of_good hfree hgood hhome, ?_, s.onTally_others _ _, s.onTally_only _ _⟩
    rw [State.onTally_tally, if_pos rfl, Tally.wait_of_not_reached hwaiters hreached]
  case reads =>
    intro p hp
    cases p
    case tallyOut => simp at hp
    all_goals rfl
  case view =>
    refine if_pos ?_
    rw [tallySagger_idKey]
    exact hview.imp_right (by simp)

end Sys2Proof.Machine

namespace Sys2Proof.Machine

/-! # The timebase (O45) -/

theorem State.onTb_only (s : State) (f : Timebase → Timebase) : Only [.tb] s (s.onTb f) := by
  intro p hp
  cases p
  case tb => simp at hp
  all_goals rfl

/-! ## Corrections (R367, R368) -/

/-- A correction steps the value when it lies more than 100 ns ahead, and leaves it otherwise. -/
theorem Timebase.correct_ns (t : Timebase) (off : Int) :
    (t.correct off).ns = if 400 < off then t.ns + (off / 4).toNat else t.ns := by
  unfold Timebase.correct
  split
  next hnear => rw [if_neg (by omega)]
  next hfar =>
    split
    next hahead => rw [if_pos (by omega)]
    next hback => rw [if_neg (by omega)]

theorem Timebase.le_correct_ns (t : Timebase) (off : Int) : t.ns ≤ (t.correct off).ns := by
  rw [t.correct_ns]
  split
  · exact Nat.le_add_right ..
  · exact Nat.le_refl _

theorem Timebase.correct_zero (t : Timebase) : t.correct 0 = { t with steer := 0, back := 0 } := rfl

/-! ## The state after an offset (R368) -/

/-- The first time since which every offset has been within 4 ns. -/
def Timebase.calmSince (t : Timebase) (off : Int) (now : Nat) : Option Nat :=
  if off.natAbs ≤ 16 then some (t.lockSince.getD now) else none

theorem Timebase.calmSince_any (t : Timebase) (off : Int) (now n : Nat) :
    ((t.calmSince off now).any fun a => a + n ≤ now) = true ↔ off.natAbs ≤ 16 ∧ t.lockSince.getD now + n ≤ now := by
  unfold Timebase.calmSince
  split
  next h => simp [h]
  next h => simp [h]

/-- An offset changes the value by its correction, is kept, and moves the state. -/
theorem Timebase.measured_eq (t : Timebase) (off : Int) (now : Nat) : ∃ st since,
    t.measured off now = (t.st == .locked && decide (80 < off.natAbs), { (t.correct off) with offset := off, lockSince := since, st := st }) ∧
    (t.st = .free ∨ t.st = .holdover → st = .locking) ∧
    (t.st = .locking → (st = .locked ↔ off.natAbs ≤ 16 ∧ t.lockSince.getD now + 1000000 ≤ now)) ∧
    (t.st = .locked → (st = .locking ↔ 80 < off.natAbs)) := by
  have hsame : (t.correct off).st = t.st := by
    unfold Timebase.correct
    split
    · rfl
    · split <;> rfl
  have hcalm := t.calmSince_any off now 1000000
  unfold Timebase.measured
  cases hst : t.st with
  | free => exact ⟨.locking, t.calmSince off now, by simp [Timebase.calmSince], by simp⟩
  | holdover => exact ⟨.locking, t.calmSince off now, by simp [Timebase.calmSince], by simp⟩
  | locking =>
    change ∃ st since, (false, if (t.calmSince off now).any _ then _ else _) = _ ∧ _
    by_cases hlock : ((t.calmSince off now).any fun a => a + 1000000 ≤ now) = true
    · rw [if_pos hlock]
      exact ⟨.locked, t.calmSince off now, rfl, by simp, by simp [← hcalm, hlock], by simp⟩
    · rw [if_neg hlock]
      exact ⟨(t.correct off).st, t.calmSince off now, rfl, by simp, by simp [hsame, hst, ← hcalm, hlock], by simp⟩
  | locked =>
    by_cases hoff : 80 < off.natAbs
    · exact ⟨.locking, none, by simp [hoff], by simp [hoff]⟩
    · exact ⟨.locked, t.calmSince off now, by simp [hoff, Timebase.calmSince, ← hst, ← hsame], by simp [hoff]⟩

/-! ## Records that only enter the log (R464) -/

/-- A record at LEVEL 7, or of another class than 0x3, is not contained beyond its entry in the log. -/
def FaultRec.LogOnly (r : FaultRec) : Prop := r.level = 7 ∨ codeClass r.code ≠ 3

theorem State.stamp_level_of_logOnly {r : FaultRec} (s : State) (h : r.LogOnly) :
    (s.stamp r).level ≠ 2 ∧ (s.stamp r).level ≠ 3 := by
  unfold State.stamp
  dsimp only
  split
  case isTrue h7 => simp
  case isFalse h7 =>
    have hcls : codeClass r.code ≠ 3 := h.resolve_left h7
    unfold State.levelOf
    split <;> simp_all

/-- Such a record changes nothing but the log. -/
theorem State.raise_of_logOnly {r : FaultRec} (s : State) (h : r.LogOnly) :
    s.raise r = s.onFlog fun f => { f with detected := f.detected ++ [s.stamp r] } := by
  obtain ⟨h2, h3⟩ := s.stamp_level_of_logOnly h
  unfold State.raise State.contain
  dsimp only
  split
  · contradiction
  · contradiction
  · rfl

theorem State.raise_only_flog {r : FaultRec} (s : State) (h : r.LogOnly) : Only [.flog] s (s.raise r) := by
  rw [s.raise_of_logOnly h]
  exact s.onFlog_only _

/-! ## The commands -/

theorem kiln_logOnly (g addr : Nat) : FaultRec.LogOnly { code := faultCode 6 0 0xD7, sagger := sgField g, unit := 13, addr := addr } :=
  .inr (show codeClass (faultCode 6 0 0xD7) ≠ 3 by decide)

theorem exec_timeSync_of_parent {t1 t2 t3 t4 : Int} {s : State} (hrun : s.linksRun = true) (hparent : s.tb.parent < 7)
    (hup : s.portUp s.tb.parent = true) : exec (.timeSync t1 t2 t3 t4) s = .next
      (if (s.tb.measured (((t2 - t1) - (t4 - t3)) / 2) s.refNow).1 then
        (s.onTb fun _ => (s.tb.measured (((t2 - t1) - (t4 - t3)) / 2) s.refNow).2).kilnFault 0xD7 15 0
      else s.onTb fun _ => (s.tb.measured (((t2 - t1) - (t4 - t3)) / 2) s.refNow).2) :=
  State.when_true _ _ (by simp [hrun, hparent, hup])

/-- The timebase after an accepted TSYNC edge: the master's is corrected to the nearest second (R369). -/
def Timebase.edged (t : Timebase) (now : Nat) (apex : Bool) : Timebase :=
  let u := { t with tsync := some now, tsyncAny := some now }
  if apex then u.correct (4 * toSecond t.ns) else u

theorem exec_tsyncEdge_of_accepted {s : State} (hup : s.firmwareUp = true) (hedge : s.tb.edgeOk s.refNow = true) :
    exec .tsyncEdge s = .next (s.onTb (·.edged s.refNow s.lat.apex)) := by
  change execTsyncEdge s = _
  simp only [execTsyncEdge, hup, hedge]
  rfl

/-- The armed value, where it does not turn the timebase back (R369). -/
def Timebase.applied (t : Timebase) (v : Nat) : Timebase :=
  if t.ns ≤ v then { t with armed := none, ns := v, frac := 0, back := 0 } else { t with armed := none, back := t.ns - v }

theorem exec_timebaseSecond_of_armed {s : State} {k : Nat} (hapex : s.lat.apex = true) (harmed : s.tb.armed = some k)
    (hpast : k < s.tb.ns / 10 ^ 9) : exec .timebaseSecond s = .next (s.onTb (·.applied (s.reg .latTbSet 0))) :=
  State.when_true _ _ (by simpa [hapex, harmed] using hpast)

theorem Timebase.correct_tsync (t : Timebase) (off : Int) : (t.correct off).tsync = t.tsync := by
  unfold Timebase.correct
  split
  · rfl
  · split <;> rfl

theorem toSecond_of_whole {ns : Nat} (h : ns % 10 ^ 9 = 0) : toSecond ns = 0 := by
  rw [toSecond, h]
  rfl

/-- Settles O45. -/
theorem theTimebaseNeverDecreases : Obligations.TheTimebaseNeverDecreases := by
  unfold Obligations.TheTimebaseNeverDecreases
  refine ⟨fun t1 t2 t3 t4 s off hoff hrun hparent hup => ?request, fun s hup hedge => ?edge, fun s k hapex harmed hpast => ?second⟩
  case request =>
    subst hoff
    obtain ⟨st, since, hmeasured, hlost, hlocking, hlocked⟩ := s.tb.measured_eq (((t2 - t1) - (t4 - t3)) / 2) s.refNow
    have hexec := exec_timeSync_of_parent (t1 := t1) (t2 := t2) (t3 := t3) (t4 := t4) hrun hparent hup
    rw [hmeasured] at hexec
    have hns := s.tb.correct_ns (((t2 - t1) - (t4 - t3)) / 2)
    have hle := s.tb.le_correct_ns (((t2 - t1) - (t4 - t3)) / 2)
    by_cases hbad : s.tb.st = .locked ∧ 80 < (((t2 - t1) - (t4 - t3)) / 2).natAbs
    · rw [if_pos (by simpa using hbad)] at hexec
      have honly := State.raise_only_flog (s.onTb fun _ => (s.tb.measured (((t2 - t1) - (t4 - t3)) / 2) s.refNow).2) (kiln_logOnly 15 0)
      rw [hmeasured] at honly
      have htb := honly .tb (by decide)
      refine ⟨_, hexec, ?_⟩
      rw [State.kilnFault, show (State.raise _ _).tb = _ from htb]
      refine ⟨hle, rfl, hns, hlost, hlocking, hlocked, fun _ => (State.detects_raise _ _).of_flog_eq rfl rfl,
        fun hgood => absurd hbad hgood, ?_⟩
      exact ((s.onTb_only _).mono (by decide)).trans (honly.mono (by decide))
    · rw [if_neg (by simpa using hbad)] at hexec
      exact ⟨_, hexec, hle, rfl, hns, hlost, hlocking, hlocked, fun h => absurd h hbad, fun _ => rfl, (s.onTb_only _).mono (by decide)⟩
  case edge =>
    refine ⟨_, exec_tsyncEdge_of_accepted hup hedge, ?_⟩
    change (s.tb.edged _ _).tsync = _ ∧ s.tb.ns ≤ (s.tb.edged _ _).ns ∧ (_ → (s.tb.edged _ _).ns = _ ∧ (s.tb.edged _ _).steer = _) ∧
      (_ → _ → (s.tb.edged _ _).ns = _ ∧ (s.tb.edged _ _).steer = _) ∧ _
    cases hapex : s.lat.apex with
    | false => exact ⟨rfl, Nat.le_refl _, fun _ => ⟨rfl, rfl⟩, fun hmaster => absurd hmaster Bool.false_ne_true, s.onTb_only _⟩
    | true =>
      refine ⟨Timebase.correct_tsync .., Timebase.le_correct_ns { s.tb with tsync := some s.refNow, tsyncAny := some s.refNow } _, fun hmember => absurd hmember.symm Bool.false_ne_true, fun _ hwhole => ?_, s.onTb_only _⟩
      rw [Timebase.edged, toSecond_of_whole hwhole]
      exact ⟨rfl, rfl⟩
  case second =>
    refine ⟨_, exec_timebaseSecond_of_armed hapex harmed hpast, ?_⟩
    change (s.tb.applied _).armed = none ∧ s.tb.ns ≤ (s.tb.applied _).ns ∧ (_ → (s.tb.applied _).ns = _) ∧ _
    unfold Timebase.applied
    split
    next hle => exact ⟨rfl, hle, fun _ => rfl, s.onTb_only _⟩
    next hgt => exact ⟨rfl, Nat.le_refl _, fun hle => absurd hle hgt, s.onTb_only _⟩

end Sys2Proof.Machine

namespace Sys2Proof.Machine

/-! # Lattice and lute ports (O43) -/

/-! ## Records and packets of a port -/

/-- Records have been detected since, and none of those before is forgotten. -/
def Logs (s t : State) : Prop := ∃ l, t.flog.detected = s.flog.detected ++ l

theorem Logs.refl (s : State) : Logs s s := ⟨[], (List.append_nil _).symm⟩

theorem Logs.trans {s t u : State} (h : Logs s t) (h' : Logs t u) : Logs s u := by
  obtain ⟨l, hl⟩ := h
  obtain ⟨l', hl'⟩ := h'
  exact ⟨l ++ l', by rw [hl', hl, List.append_assoc]⟩

theorem Logs.of_flog_eq {s t : State} (h : t.flog = s.flog) : Logs s t := ⟨[], by rw [h, List.append_nil]⟩

theorem State.raise_logs (s : State) (r : FaultRec) : Logs s (s.raise r) := ⟨_, by rw [s.raise_flog]⟩

theorem State.fault_only_flog {cls block detail : Nat} (s : State) (g unit sub : Nat)
    (h : codeClass (faultCode cls block detail) ≠ 3) : Only [.flog] s (s.fault cls block detail g unit sub) :=
  s.raise_only_flog (.inr h)

theorem State.detects_fault (s : State) (cls block detail g unit sub : Nat) :
    Detects (faultCode cls block detail) s (s.fault cls block detail g unit sub) := s.detects_raise _

theorem Detects.after {c : BitVec 16} {s t u : State} (h : Detects c t u) (hs : t.flog = s.flog) : Detects c s u := h.of_flog_eq hs rfl

/-- A part that no step of the way changes is as it was. -/
theorem Only.port_eq {ps : List Field} {s t : State} (h : Only ps s t) (q : Nat) (hp : .ports ∉ ps) : t.port q = s.port q :=
  congrArg (fun l : Tab Port => tget ({} : Port) l q) (h .ports hp)

theorem Only.reg_eq {ps : List Field} {s t : State} (h : Only ps s t) (r : Reg) (u : Nat) (hp : .regs ∉ ps) :
    t.reg r u = s.reg r u :=
  congrArg (fun l => regGet l r u) (h .regs hp)

theorem State.onPort_others (s : State) (p : Nat) (f : Port → Port) : Others State.port [p] s (s.onPort p f) :=
  .single fun q hq => by rw [State.onPort_port, if_neg hq]

/-- The port with other packets waiting. -/
def Port.withOut (x : Port) (o : List (Nat × Packet)) : Port := { x with out := o }

/-- From `s` to `t` packets have been sent, and of the ports only the queues of packets have changed. -/
structure Queues (s t : State) : Prop where
  sends : Sends s t
  ports : ∀ q, ∃ o, t.port q = (s.port q).withOut o

namespace Queues

variable {s t u : State}

theorem refl : Queues s s := ⟨.refl, fun _ => ⟨_, rfl⟩⟩

theorem trans (h : Queues s t) (h' : Queues t u) : Queues s u := by
  refine ⟨h.sends.trans h'.sends, fun q => ?_⟩
  obtain ⟨o, ho⟩ := h.ports q
  obtain ⟨o', ho'⟩ := h'.ports q
  exact ⟨o', by rw [ho', ho]; rfl⟩

theorem foldl {α : Type} {f : State → α → State} (hf : ∀ (s : State) x, Queues s (f s x)) (l : List α) (s : State) :
    Queues s (l.foldl f s) :=
  List.foldlRecOn (motive := Queues s) l f refl fun u hu x _ => hu.trans (hf u x)

theorem of_same_ports (h : Sends s t) (hp : t.ports = s.ports) : Queues s t :=
  ⟨h, fun q => ⟨(s.port q).out, congrArg (fun l : Tab Port => tget ({} : Port) l q) hp⟩⟩

theorem flog_eq (h : Queues s t) : t.flog = s.flog := h.sends.frame.flog_eq

end Queues

theorem State.queueOn_queues (s : State) (port : Nat) (p : Packet) (fwd : Bool) : Queues s (s.queueOn port p fwd) := by
  refine ⟨s.queueOn_sends port p fwd, fun q => ?_⟩
  simp only [State.queueOn, State.bump_port, State.onPort_port]
  split
  next hq => exact ⟨_, by rw [hq]; rfl⟩
  next => exact ⟨(s.port q).out, rfl⟩

theorem State.forward_queues (s : State) (input : Option Nat) (p : Packet) : Queues s (s.forward input p) := by
  have hsends := s.forward_sends input p
  unfold State.forward at hsends ⊢
  split
  next hown => exact .of_same_ports (by rwa [if_pos hown] at hsends) rfl
  next hother =>
    rw [if_neg hother] at hsends
    split
    · exact (s.queueOn_queues ..).trans (.of_same_ports (State.bump_sends _ _ _ (by simp)) rfl)
    next hnone =>
      rw [hnone] at hsends
      exact .of_same_ports hsends rfl

theorem State.routePacket_queues (s : State) (input : Option Nat) (p : Packet) : Queues s (s.routePacket input p) := by
  unfold State.routePacket
  dsimp only
  split
  · exact (s.forward_queues ..).trans (State.forward_queues ..)
  · exact s.forward_queues ..

theorem State.sendPacket_queues (s : State) (p : Packet) : Queues s (s.sendPacket p) := s.routePacket_queues none p

theorem State.tellApexes_queues (s : State) (type p reason : Nat) (beyond : Coord) : Queues s (s.tellApexes type p reason beyond) :=
  Queues.foldl (fun s _ => s.sendPacket_queues _) ..

theorem State.reroute_queues (s : State) (l : List (Nat × Packet)) : Queues s (s.reroute l) :=
  Queues.foldl (fun s _ => s.routePacket_queues ..) ..

/-! ## A port that is lost (R364, R365) -/

/-- What follows the loss of a lattice port: packets are routed again and sent, and reloads move to their next source. -/
structure LossWork (s t : State) : Prop where
  only  : Only [.lat, .ports, .regs, .tb, .poison, .saggers, .flog] s t
  ports : ∀ q, ∃ o, t.port q = (s.port q).withOut o
  logs  : Logs s t
  loss  : ∀ u, t.reg .latLoss u = s.reg .latLoss u

namespace LossWork

variable {s t u : State}

theorem trans (h : LossWork s t) (h' : LossWork t u) : LossWork s u := by
  refine ⟨h.only.trans h'.only, fun q => ?_, h.logs.trans h'.logs, fun k => (h'.loss k).trans (h.loss k)⟩
  obtain ⟨o, ho⟩ := h.ports q
  obtain ⟨o', ho'⟩ := h'.ports q
  exact ⟨o', by rw [ho', ho]; rfl⟩

theorem of_queues (h : Queues s t) : LossWork s t :=
  ⟨h.sends.frame.only.mono (by decide), h.ports, .of_flog_eq h.flog_eq, fun k => h.sends.reg _ k (by decide)⟩

theorem of_same_ports {ps : List Field} (h : Only ps s t) (hl : Logs s t) (hr : ∀ k, t.reg .latLoss k = s.reg .latLoss k)
    (hps : ps ⊆ [.lat, .ports, .regs, .tb, .poison, .saggers, .flog] := by decide) (hp : .ports ∉ ps := by decide) : LossWork s t :=
  ⟨h.mono hps, fun q => ⟨(s.port q).out, h.port_eq q hp⟩, hl, hr⟩

end LossWork

theorem State.damageChunk_logs (s : State) (a : Nat) : Logs s (s.damageChunk a) :=
  List.foldlRecOn (motive := Logs s) _ _ (.refl s) fun u hu _ _ =>
    hu.trans ((Logs.of_flog_eq (u.onSagger_flog ..)).trans (State.raise_logs ..))

theorem State.askChunk_work (s : State) (a : Nat) (sources : List Nat) : LossWork s (s.askChunk a sources) := by
  have hsame : LossWork s s := .of_queues .refl
  unfold State.askChunk
  split
  · split
    · exact hsame
    · exact (LossWork.of_same_ports (s.onLat_only _) (.of_flog_eq rfl) fun _ => rfl).trans (.of_queues (State.sendPacket_queues ..))
  · exact hsame

theorem State.nextSource_work (s : State) (a : Nat) : LossWork s (s.nextSource a) := by
  unfold State.nextSource
  split
  · exact .of_queues .refl
  next p _ =>
    dsimp only
    have hmoved : LossWork s ((s.dropReload a).onChunk a fun x =>
        { x with sources := p.sources.drop 1, since := s.refNow, failed := (p.sources.drop 1).isEmpty }) :=
      .of_same_ports (ps := [.lat, .poison]) (((s.onLat_only _).mono (by decide)).trans ((State.onPoison_only _ _ _).mono (by decide)))
        (.of_flog_eq rfl) fun _ => rfl
    split
    · refine hmoved.trans (.of_same_ports (ps := [.saggers, .flog, .regs]) ?_ ?_ fun k => ?_)
      · exact ((State.damageChunk_only _ _).mono (by decide)).trans ((State.bump_only_regs _ _ _ _).mono (by decide))
      · exact (State.damageChunk_logs ..).trans (.of_flog_eq rfl)
      · exact (State.reg_bump_of_ne _ _ k _).trans ((State.damageChunk_only _ _).reg_eq _ _ (by decide))
    · exact hmoved.trans (State.askChunk_work ..)

theorem State.dropReloads_work (s : State) (c : Coord) : LossWork s (s.dropReloads c) := by
  refine List.foldlRecOn (motive := LossWork s) _ _ (.of_queues .refl) fun u hu t ht => hu.trans ?_
  have hkind : t.kind = 4 := by
    have hmem := (List.mem_filter.1 ht).2
    simp only [Bool.and_eq_true, beq_iff_eq] at hmem
    exact hmem.1
  have hdropped : LossWork u ((u.bump .glzFailed (u.streamDie t 0) 1).dropStream t.sid) :=
    .of_same_ports (ps := [.regs, .lat]) (((u.bump_only_regs _ _ _).mono (by decide)).trans ((State.onLat_only _ _).mono (by decide)))
      (.of_flog_eq rfl) fun k => State.reg_bump_of_ne _ _ k _
  have heq : u.failStream t 0xD2 = ((u.bump .glzFailed (u.streamDie t 0) 1).dropStream t.sid).nextSource t.dst := by
    simp only [State.failStream, hkind]
  exact heq ▸ hdropped.trans (State.nextSource_work ..)

/-- The port itself after a loss: its neighbour, buffers and credit are gone. -/
def Port.lost (y : Port) (p reason now : Nat) (times : List Nat) : Port :=
  { y with
    st := if times.length ≥ 4 then .held else .down, reason := if times.length ≥ 4 then 7 else reason, groups := 0
    retry := !decide (times.length ≥ 4), started := now, losses := times, replay := [], replays := 0, rx := [], credit := [], freed := []
    out := [], ack := false, peerAck := false, reported := p != 6 }

/-- The losses of the last 10 s, with the one of now (R357). -/
def State.lossTimes (s : State) (p : Nat) : List Nat :=
  ((s.port p).losses.filter fun t => s.refNow < t + 10 ^ 10) ++ [s.refNow]

/-- The loss is counted and recorded; the fourth one within 10 s is recorded besides. -/
def State.lossNoted (s : State) (p reason : Nat) : State :=
  let s1 := s.onPort p fun y => y.lost p reason s.refNow (s.lossTimes p)
  let s2 := (if p = 6 then s1 else s1.bump .latLoss p 1).fault 5 0xD 0xD2 15 p 0
  if (s.lossTimes p).length ≥ 4 then s2.fault 5 0xD 0xD4 15 p 0 else s2

theorem State.portLost_eq (s : State) (p reason : Nat) : s.portLost p reason =
    if p = 6 then (s.lossNoted p reason).onLute fun l => { l with stop := l.paired || l.stop }
    else (((s.lossNoted p reason).reparent.reroute (s.port p).out).tellApexes 1 p
      (if (s.lossTimes p).length ≥ 4 then 7 else reason) (s.port p).nbrAt).dropReloads (s.port p).nbrAt := rfl

section
variable (s : State) (p reason : Nat)

theorem State.lossNoted_only : Only [.ports, .regs, .flog] s (s.lossNoted p reason) := by
  have hport : Only [.ports, .regs, .flog] s (s.onPort p fun y => y.lost p reason s.refNow (s.lossTimes p)) :=
    (s.onPort_only _ _).mono (by decide)
  have hcount (u : State) (h : Only [.ports, .regs, .flog] s u) : Only [.ports, .regs, .flog] s (if p = 6 then u else u.bump .latLoss p 1) := by
    split
    · exact h
    · exact h.trans ((u.bump_only_regs _ _ _).mono (by decide))
  have hlost := (hcount _ hport).trans ((State.fault_only_flog (cls := 5) (block := 0xD) (detail := 0xD2) _ 15 p 0 (by decide)).mono (by decide))
  unfold State.lossNoted
  dsimp only
  split
  · exact hlost.trans ((State.fault_only_flog _ 15 p 0 (by decide)).mono (by decide))
  · exact hlost

theorem State.lossNoted_codes : (s.lossNoted p reason).flog.detected.map (·.code) = s.flog.detected.map (·.code) ++
    if (s.lossTimes p).length < 4 then [0x5DD2#16] else [0x5DD2#16, 0x5DD4#16] := by
  have hflog : (if p = 6 then s.onPort p fun y => y.lost p reason s.refNow (s.lossTimes p)
      else (s.onPort p fun y => y.lost p reason s.refNow (s.lossTimes p)).bump .latLoss p 1).flog = s.flog := by
    split <;> rfl
  have hfirst := State.detects_fault (if p = 6 then s.onPort p fun y => y.lost p reason s.refNow (s.lossTimes p)
    else (s.onPort p fun y => y.lost p reason s.refNow (s.lossTimes p)).bump .latLoss p 1) 5 0xD 0xD2 15 p 0
  rw [Detects, hflog] at hfirst
  unfold State.lossNoted
  dsimp only
  split
  next hheld =>
    rw [(State.detects_fault _ 5 0xD 0xD4 15 p 0).1, hfirst.1, if_neg (by omega), List.append_assoc]
    rfl
  next hdown => rw [hfirst.1, if_pos (by omega)]; rfl

theorem State.lossNoted_port (q : Nat) : (s.lossNoted p reason).port q =
    if q = p then (s.port p).lost p reason s.refNow (s.lossTimes p) else s.port q := by
  have hfault (u : State) (detail : Nat) (h : codeClass (faultCode 5 0xD detail) ≠ 3) : (u.fault 5 0xD detail 15 p 0).port q = u.port q :=
    (State.fault_only_flog u 15 p 0 h).port_eq q (by decide)
  have hnoted : (s.lossNoted p reason).port q = (s.onPort p fun y => y.lost p reason s.refNow (s.lossTimes p)).port q := by
    unfold State.lossNoted
    dsimp only
    split
    · rw [hfault _ _ (by decide), hfault _ _ (by decide)]
      split <;> rfl
    · rw [hfault _ _ (by decide)]
      split <;> rfl
  rw [hnoted, State.onPort_port]

theorem State.lossNoted_loss (hp : p ≠ 6) : (s.lossNoted p reason).reg .latLoss p = min (s.reg .latLoss p + 1) (2 ^ 32 - 1) := by
  have hfault (u : State) (detail : Nat) (h : codeClass (faultCode 5 0xD detail) ≠ 3) :
      (u.fault 5 0xD detail 15 p 0).reg .latLoss p = u.reg .latLoss p := (State.fault_only_flog u 15 p 0 h).reg_eq _ _ (by decide)
  unfold State.lossNoted
  simp only [if_neg hp]
  split
  · rw [hfault _ _ (by decide), hfault _ _ (by decide), State.reg_bump_same]
    rfl
  · rw [hfault _ _ (by decide), State.reg_bump_same]
    rfl

theorem State.reparent_work : LossWork s s.reparent :=
  .of_same_ports (s.onTb_only _) (.of_flog_eq rfl) fun _ => rfl

/-- After the records of a loss only packets, reloads and, for the lute, the pair stop follow. -/
theorem State.portLost_after : ∃ u, (p ≠ 6 → LossWork (s.lossNoted p reason) u) ∧
    (p = 6 → u = (s.lossNoted p reason).onLute fun l => { l with stop := l.paired || l.stop }) ∧ s.portLost p reason = u := by
  refine ⟨_, fun hp => ?_, fun hp => ?_, rfl⟩ <;> rw [State.portLost_eq]
  · rw [if_neg hp]
    exact (((State.reparent_work _).trans (.of_queues (State.reroute_queues ..))).trans (.of_queues (State.tellApexes_queues ..))).trans
      (State.dropReloads_work ..)
  · rw [if_pos hp]

/-- A loss takes the port DOWN, or holds it at the fourth one within 10 s (R357, R364). -/
theorem State.portLost_facts {n : Nat} (hn : n = ((s.port p).losses.filter fun t => s.refNow < t + 10 ^ 10).length) :
    ∃ l, (s.portLost p reason).mem = s.mem ∧ (∀ q, q ≠ p → ((s.portLost p reason).port q).st = (s.port q).st) ∧
      ((s.portLost p reason).port p).st = (if n < 3 then .down else .held) ∧ (3 ≤ n → ((s.portLost p reason).port p).reason = 7) ∧
      (s.portLost p reason).flog.detected.map (·.code) = s.flog.detected.map (·.code) ++
        (if n < 3 then [0x5DD2#16] else [0x5DD2#16, 0x5DD4#16]) ++ l ∧
      (p < 6 → (s.portLost p reason).reg .latLoss p = min (s.reg .latLoss p + 1) (2 ^ 32 - 1)) ∧
      (p = 6 → s.lute.paired = true → (s.portLost p reason).lute.stop = true) := by
  have hlen : (s.lossTimes p).length = n + 1 := by rw [State.lossTimes, List.length_append, ← hn]; rfl
  have hcodes := s.lossNoted_codes p reason
  have hport := s.lossNoted_port p reason
  have hmem : (s.lossNoted p reason).mem = s.mem := s.lossNoted_only p reason .mem (by decide)
  have hheld : (s.lossTimes p).length < 4 ↔ n < 3 := by omega
  simp only [hheld] at hcodes
  have hst : ((s.port p).lost p reason s.refNow (s.lossTimes p)).st = if n < 3 then .down else .held := by
    rw [Port.lost, hlen]
    by_cases h : n < 3
    · rw [if_neg (show ¬ 4 ≤ n + 1 by omega), if_pos h]
    · rw [if_pos (show 4 ≤ n + 1 by omega), if_neg h]
  have hreason (h3 : 3 ≤ n) : ((s.port p).lost p reason s.refNow (s.lossTimes p)).reason = 7 := if_pos (by omega)
  obtain ⟨u, hwork, hlute, hu⟩ := s.portLost_after p reason
  rw [hu]
  by_cases hp : p = 6
  · have hu6 := hlute hp
    subst hu6
    refine ⟨[], hmem, fun q hq => ?_, ?_, fun h3 => ?_, by rw [List.append_nil]; exact hcodes, fun hlt => absurd hp (by omega),
      fun _ hpaired => ?_⟩
    · exact congrArg Port.st ((hport q).trans (if_neg hq))
    · exact (congrArg Port.st ((hport p).trans (if_pos rfl))).trans hst
    · exact (congrArg Port.reason ((hport p).trans (if_pos rfl))).trans (hreason h3)
    · have hsame : (s.lossNoted p reason).lute = s.lute := s.lossNoted_only p reason .lute (by decide)
      change ((s.lossNoted p reason).lute.paired || _) = true
      rw [hsame, hpaired, Bool.true_or]
  · obtain ⟨honly, hports, ⟨l, hl⟩, hloss⟩ := hwork hp
    have hst' (q : Nat) : (u.port q).st = ((s.lossNoted p reason).port q).st := by
      obtain ⟨o, ho⟩ := hports q
      rw [ho, Port.withOut]
    have hreason' : (u.port p).reason = ((s.lossNoted p reason).port p).reason := by
      obtain ⟨o, ho⟩ := hports p
      rw [ho, Port.withOut]
    refine ⟨l.map (·.code), (honly .mem (by decide)).trans hmem, fun q hq => ?_, ?_, fun h3 => ?_, ?_, fun _ => ?_, fun h6 => absurd h6 hp⟩
    · rw [hst', hport, if_neg hq]
    · rw [hst', hport, if_pos rfl, hst]
    · rw [hreason', hport, if_pos rfl, hreason h3]
    · rw [hl, List.map_append, hcodes]
    · rw [hloss, State.lossNoted_loss _ _ _ hp]
end

end Sys2Proof.Machine

namespace Sys2Proof.Machine

/-! ## Training of a port (R352 to R357) -/

theorem State.startTraining_only (s : State) (p : Nat) : Only [.ports] s (s.startTraining p) := by
  unfold State.startTraining
  split
  · exact s.onPort_only _ _
  · exact s.onPort_only _ _

theorem State.startTraining_others (s : State) (p : Nat) : Others State.port [p] s (s.startTraining p) := by
  unfold State.startTraining
  split
  · exact s.onPort_others _ _
  · exact s.onPort_others _ _

theorem State.startTraining_port (s : State) (p : Nat) :
    (minGroups p ≤ (s.freeGroups p).length → ((s.startTraining p).port p).st = .train ∧ ((s.startTraining p).port p).started = s.refNow ∧
      ((s.startTraining p).port p).replay = [] ∧ ((s.startTraining p).port p).txSeq = 0 ∧ ((s.startTraining p).port p).rxSeq = 0) ∧
    ((s.freeGroups p).length < minGroups p → ((s.startTraining p).port p).st = .down ∧ ((s.startTraining p).port p).reason = 2 ∧
      ((s.startTraining p).port p).barred = true) := by
  unfold State.startTraining
  split
  next hfew =>
    rw [State.onPort_port, if_pos rfl]
    exact ⟨fun henough => absurd hfew (by omega), fun _ => ⟨rfl, rfl, rfl⟩⟩
  next henough =>
    rw [State.onPort_port, if_pos rfl]
    exact ⟨fun _ => ⟨rfl, rfl, rfl, rfl, rfl⟩, fun hfew => absurd hfew henough⟩

theorem exec_portStart {p : PortIx} {s : State} {c : Instr} (hdown : (s.port p.val).st = .down) (hbarred : (s.port p.val).barred = false)
    (hon : s.portEnabled p.val = true)
    (hc : (c = Instr.portEnable p ∧ (s.port p.val).retry = false) ∨
      (c = Instr.portTrainRetry p ∧ (s.port p.val).retry = true ∧ (s.port p.val).started + 10000000 ≤ s.refNow)) :
    exec c s = .next (s.startTraining p.val) := by
  obtain ⟨rfl, hretry⟩ | ⟨rfl, hretry, hdue⟩ := hc
  · exact State.when_true _ _ (by simp [hdown, hretry, hbarred, hon])
  · exact State.when_true _ _ (by simp [hdown, hretry, hdue, hon])

/-! ## TRAINING_RECORD (R353 to R356) -/

/-- The port has taken a record that passes its checks. -/
def State.recordTaken (s : State) (p : Nat) (rec : BitVec 256) (locked : BitVec 12) : State :=
  s.onPort p fun y => { y with
    st := if y.st = .train then .check else y.st, ack := true, groups := groupMask (s.liveGroups p locked)
    peerAck := y.peerAck || recField rec 24 12 1 == 1 }

section
variable {p : PortIx} {rec : BitVec 256} {locked : BitVec 12} {s : State} (hresv : recReserved rec = false)
  (hgroups : minGroups p.val ≤ (s.liveGroups p.val locked).length)
include hresv hgroups

theorem exec_trainingRecord_of_error {r : Nat} (hst : (s.port p.val).st = .train ∨ (s.port p.val).st = .check)
    (hbad : s.checkRecord p.val rec = .error r) : exec (.trainingRecord p rec locked) s = .next (s.holdPort p.val r) := by
  change execTrainingRecord p rec locked s = _
  have hfew : ¬ (s.liveGroups p.val locked).length < minGroups p.val := by omega
  rcases hst with hst | hst <;> simp [execTrainingRecord, hresv, hfew, hbad, hst]

theorem exec_trainingRecord_of_ok {d : Nat}
    (hst : (s.port p.val).st ≠ .down ∧ (s.port p.val).st ≠ .held ∧ (s.port p.val).st ≠ .up)
    (hsame : (s.port p.val).st = .retrain → recId rec = (s.port p.val).nbrId.toNat) (hok : s.checkRecord p.val rec = .ok d) :
    exec (.trainingRecord p rec locked) s = .next
      (if ((s.recordTaken p.val rec locked).port p.val).peerAck then (s.recordTaken p.val rec locked).portComesUp p.val d rec
        else s.recordTaken p.val rec locked) := by
  have hfew : ¬ (s.liveGroups p.val locked).length < minGroups p.val := by omega
  obtain ⟨hdown, hheld, hup⟩ := hst
  change execTrainingRecord p rec locked s = _
  unfold execTrainingRecord
  dsimp only
  rw [if_neg, if_neg hfew, if_neg, hok]
  · rfl
  · cases hst : (s.port p.val).st
    case retrain => simp [hsame hst]
    all_goals simp
  · cases hst : (s.port p.val).st <;> simp_all
end

/-- A record that passes its checks has a version in common (R356). -/
theorem State.checkRecord_version {s : State} {p d : Nat} {rec : BitVec 256} (h : s.checkRecord p rec = .ok d) :
    recVersion rec = some (1, min 2 (recField rec 20 0 4)) := by
  have hsome : (recVersion rec).isNone = false := by
    unfold State.checkRecord at h
    dsimp only at h
    cases hv : (recVersion rec).isNone <;> simp only [hv, if_true] at h ⊢
    repeat' split at h
    all_goals contradiction
  unfold recVersion at hsome ⊢
  split at hsome
  next hv => exact if_pos hv
  next => contradiction

/-! ## The port comes UP (R352 step 6, R357) -/

/-- The port itself when it comes UP; `again` after a fast retrain, which keeps credit and replay. -/
def Port.up (y : Port) (p d now : Nat) (r : BitVec 256) (again : Bool) : Port :=
  let v := (recVersion r).getD (0, 0)
  { y with
    st := .up, reason := 0, vmaj := v.1, vmin := v.2, serves := d, remap := p != 6 && !(d == p && recField r 12 11 3 == opposite d)
    nbrId := BitVec.ofNat 64 (recId r), nbrAt := recCoord r, nbrPort := recField r 12 11 3, nbrReady := recField r 28 0 1 == 1
    nbrBisque := recField r 28 1 1 == 1, lastRx := now, lastHb := now, lastTx := now, ads := if again then y.ads else []
    credit := if again then y.credit else firstCredit, replays := 0, reported := false }

/-- The records of a port that comes UP. -/
def State.upNoted (s : State) (p d : Nat) (r : BitVec 256) (again : Bool) : State :=
  let s1 := s.onPort p fun y => y.up p d s.refNow r again
  let s2 := if again then s1.fault 5 0xD 0xD3 15 p 0 else s1
  if (p != 6 && !(d == p && recField r 12 11 3 == opposite d)) && !again then s2.fault 5 0xD 0xD1 15 p 0 else s2

theorem State.portComesUp_eq (s : State) (p d : Nat) (r : BitVec 256) : s.portComesUp p d r =
    (let u := s.upNoted p d r ((s.port p).st == .retrain)
     let v := if p = 6 then u else u.reparent
     if (s.port p).reported then v.tellApexes 2 p 0 (recCoord r) else v) := rfl

section
variable (s : State) (p d : Nat) (r : BitVec 256)

/-- The port, the log, the parent port and packets change; nothing else does. -/
theorem State.upNoted_flog (again : Bool) : Only [.flog] (s.onPort p fun y => y.up p d s.refNow r again) (s.upNoted p d r again) ∧
    (again = true → Detects 0x5DD3#16 s (s.upNoted p d r again)) := by
  unfold State.upNoted
  cases again
  · simp only [Bool.not_false, Bool.and_true, Bool.false_eq_true, if_false]
    split
    · exact ⟨State.fault_only_flog _ 15 p 0 (by decide), fun h => nomatch h⟩
    · exact ⟨.refl _ _, fun h => nomatch h⟩
  · simp only [Bool.not_true, Bool.and_false, Bool.false_eq_true, if_false, if_true]
    exact ⟨State.fault_only_flog _ 15 p 0 (by decide), fun _ => (State.detects_fault _ 5 0xD 0xD3 15 p 0).after rfl⟩

theorem State.portComesUp_after : ∃ v, Only [.tb] (s.upNoted p d r ((s.port p).st == .retrain)) v ∧ Queues v (s.portComesUp p d r) := by
  have htold (v : State) : Queues v (if (s.port p).reported then v.tellApexes 2 p 0 (recCoord r) else v) := by
    split
    · exact v.tellApexes_queues ..
    · exact .refl
  rw [State.portComesUp_eq]
  refine ⟨if p = 6 then s.upNoted p d r ((s.port p).st == .retrain) else (s.upNoted p d r ((s.port p).st == .retrain)).reparent, ?_, ?_⟩
  · split
    · exact .refl _ _
    · exact State.onTb_only _ _
  · exact htold _

theorem State.portComesUp_only : Only [.ports, .flog, .tb, .lat, .regs] s (s.portComesUp p d r) := by
  obtain ⟨v, htb, hqueues⟩ := s.portComesUp_after p d r
  have hflog := (s.upNoted_flog p d r ((s.port p).st == .retrain)).1
  exact ((((s.onPort_only _ _).mono (by decide)).trans (hflog.mono (by decide))).trans (htb.mono (by decide))).trans
    (hqueues.sends.frame.only.mono (by decide))

theorem State.portComesUp_port (q : Nat) : ∃ o, (s.portComesUp p d r).port q =
    (if q = p then (s.port p).up p d s.refNow r ((s.port p).st == .retrain) else s.port q).withOut o := by
  obtain ⟨v, htb, hqueues⟩ := s.portComesUp_after p d r
  obtain ⟨o, ho⟩ := hqueues.ports q
  have hflog := (s.upNoted_flog p d r ((s.port p).st == .retrain)).1
  exact ⟨o, by rw [ho, htb.port_eq q (by decide), hflog.port_eq q (by decide), State.onPort_port]⟩

theorem State.portComesUp_detects (h : (s.port p).st = .retrain) : Detects 0x5DD3#16 s (s.portComesUp p d r) := by
  obtain ⟨v, htb, hqueues⟩ := s.portComesUp_after p d r
  have hflog : (s.portComesUp p d r).flog = (s.upNoted p d r ((s.port p).st == .retrain)).flog :=
    hqueues.flog_eq.trans (htb .flog (by decide))
  exact ((s.upNoted_flog p d r ((s.port p).st == .retrain)).2 (by simp [h])).of_flog_eq rfl hflog
end

/-- A port that is trained or retrained with the peer's ACK is UP. -/
theorem State.recordTaken_port (s : State) (p : Nat) (rec : BitVec 256) (locked : BitVec 12) : (s.recordTaken p rec locked).port p =
    { s.port p with
      st := if (s.port p).st = .train then .check else (s.port p).st, ack := true, groups := groupMask (s.liveGroups p locked)
      peerAck := (s.port p).peerAck || recField rec 24 12 1 == 1 } := by
  simp [State.recordTaken]

/-! ## FAST_RETRAIN (R348, R357) -/

theorem exec_fastRetrain_of_groups {p : PortIx} {locked : BitVec 12} {s : State} (hdue : (s.port p.val).retrainDue = true)
    (hgroups : minGroups p.val ≤ (s.liveGroups p.val locked).length) :
    exec (.fastRetrain p locked) s = .next ((if p.val = 6 then s else s.bump .latRetrain p.val 1).onPort p.val fun x => { x with
      st := .retrain, started := s.refNow, ack := false, peerAck := false, replays := 0, groups := groupMask (s.liveGroups p.val locked) }) :=
  (State.when_true _ _ hdue).trans (congrArg _ (if_neg (by omega)))

theorem exec_portLoss {p : PortIx} {s : State} {c : Instr}
    (hc : (c = Instr.fastRetrainTimeout p ∧ (s.port p.val).st = .retrain ∧ (s.port p.val).started + 1000000 ≤ s.refNow) ∨
      (c = Instr.latticeLossDetect p ∧ (s.port p.val).st = .up ∧
        ((s.port p.val).lastRx + 2000 ≤ s.refNow ∨ (s.port p.val).lastHb + 3500 ≤ s.refNow))) :
    ∃ reason, exec c s = .next (s.portLost p.val reason) := by
  obtain ⟨rfl, hst, hdue⟩ | ⟨rfl, hst, hdue⟩ := hc
  · exact ⟨9, State.when_true _ _ (by simp [hst, hdue])⟩
  · exact ⟨0, State.when_true _ _ (by simpa [hst] using hdue)⟩

/-- Settles O43: the transitions of a port, one command at a time. -/
theorem portsFollowTheirStateTable : Obligations.PortsFollowTheirStateTable := by
  unfold Obligations.PortsFollowTheirStateTable
  refine ⟨fun p s c hdown hbarred hon hc => ⟨_, exec_portStart hdown hbarred hon hc, s.startTraining_only _, s.startTraining_others _,
      s.startTraining_port _⟩,
    fun p locked s hst hdue => ?timeout,
    fun p rec locked s x hx hresv hgroups => ⟨fun r hst hbad => ?held, fun d hst hok hpeer hack => ?checked,
      fun d hdown hheld hup hsame hok hack => ?up⟩,
    fun p g s hup hg => ?excluded, fun p locked s hdue hgroups => ?retrain, fun p s c x n hx hc hn => ?lost⟩
  case timeout =>
    exact ⟨_, State.when_true _ _ (by simpa [hdue] using hst), s.onPort_only _ _, s.onPort_others _ _, by simp [State.portFails],
      by simp [State.portFails], by simp [State.portFails]⟩
  case held =>
    subst hx
    have honly := State.fault_only_flog (cls := 5) (block := 0xD) (detail := 0xD0) (s.onPort p.val fun x =>
      { x with st := .held, reason := r, groups := 0, ack := false, peerAck := false }) 15 p.val 0 (by decide)
    refine ⟨_, exec_trainingRecord_of_error hresv hgroups hst hbad, ?_, ?_, ?_,
      ((s.onPort_only _ _).mono (by decide)).trans (honly.mono (by decide)), fun q hq => ?_⟩
    · rw [State.holdPort, honly.port_eq _ (by decide), State.onPort_port, if_pos rfl]
    · rw [State.holdPort, honly.port_eq _ (by decide), State.onPort_port, if_pos rfl]
    · exact (State.detects_fault _ 5 0xD 0xD0 15 p.val 0).after rfl
    · rw [State.holdPort, honly.port_eq _ (by decide)]
      exact s.onPort_others _ _ q hq
  case checked =>
    subst hx
    have hstate : (s.port p.val).st ≠ .down ∧ (s.port p.val).st ≠ .held ∧ (s.port p.val).st ≠ .up := by
      rcases hst with hst | hst <;> simp [hst]
    refine ⟨_, exec_trainingRecord_of_ok hresv hgroups hstate (fun h => ?_) hok, ?_⟩
    · rcases hst with hst | hst <;> simp [hst] at h
    · rw [State.recordTaken_port, if_neg (by simp [hpeer, hack]), State.recordTaken_port]
      refine ⟨?_, rfl, s.onPort_only _ _, s.onPort_others _ _⟩
      rcases hst with hst | hst <;> simp [hst]
  case up =>
    subst hx
    refine ⟨_, exec_trainingRecord_of_ok hresv hgroups ⟨hdown, hheld, hup⟩ hsame hok, ?_⟩
    have htaken := s.recordTaken_port p.val rec locked
    rw [if_pos (by simp [htaken, hack])]
    obtain ⟨o, ho⟩ := (s.recordTaken p.val rec locked).portComesUp_port p.val d rec p.val
    have hversion := State.checkRecord_version hok
    rw [if_pos rfl, htaken] at ho
    rw [ho]
    refine ⟨rfl, rfl, rfl, rfl, ?_, fun hagain => ⟨?_, rfl, rfl⟩, ?_, fun q hq => ?_⟩
    · rw [Port.withOut, Port.up, hversion]
      rfl
    · exact (State.portComesUp_detects _ _ _ _ (by simp [htaken, hagain])).after rfl
    · exact ((s.onPort_only _ _).mono (by decide)).trans (State.portComesUp_only _ _ _ _)
    · obtain ⟨o', ho'⟩ := (s.recordTaken p.val rec locked).portComesUp_port p.val d rec q
      rw [ho', if_neg hq, State.recordTaken, s.onPort_others p.val _ q (by simpa using hq), Port.withOut]
  case excluded =>
    exact ⟨_, State.when_true _ _ (by simp [hup, hg]), by simp, s.onPort_only _ _, s.onPort_others _ _⟩
  case retrain =>
    refine ⟨_, exec_fastRetrain_of_groups hdue hgroups, ?_⟩
    have hcount : Only [.ports, .regs] s (if p.val = 6 then s else s.bump .latRetrain p.val 1) ∧
        ∀ q, (if p.val = 6 then s else s.bump .latRetrain p.val 1).port q = s.port q := by
      split
      · exact ⟨.refl _ _, fun _ => rfl⟩
      · exact ⟨(s.bump_only_regs _ _ _).mono (by decide), fun _ => rfl⟩
    refine ⟨by simp, by simp [hcount.2], by simp [hcount.2], hcount.1.trans ((State.onPort_only _ _ _).mono (by decide)), fun q hq => ?_⟩
    exact (State.onPort_others _ _ _ q hq).trans (hcount.2 q)
  case lost =>
    subst hx
    obtain ⟨reason, hexec⟩ := exec_portLoss hc
    obtain ⟨l, hfacts⟩ := s.portLost_facts p.val reason hn
    exact ⟨_, l, hexec, hfacts⟩

end Sys2Proof.Machine

namespace Sys2Proof.Machine

/-! # Flits, frames and packets of a port (O44) -/

/-- A command that changes one port alone. -/
theorem exec_onPort {c : Instr} {s : State} {p : PortIx} {f : Port → Port} (h : exec c s = .next (s.onPort p.val f)) :
    exec c s = .next (s.onPort p.val f) ∧ (s.onPort p.val f).port p.val = f (s.port p.val) ∧ Only [.ports] s (s.onPort p.val f) ∧
      Others State.port [p.val] s (s.onPort p.val f) :=
  ⟨h, (s.onPort_port ..).trans (if_pos rfl), s.onPort_only _ _, s.onPort_others _ _⟩

/-! ## LATTICE_FLIT and LATTICE_NAK (R349) -/

/-- The port after the flit that it expects. -/
def Port.flitTaken (y : Port) (now : Nat) (seq : BitVec 16) (vc : Nat) (payload : List Byte) (ack : Option (BitVec 16))
    (grants : List (Fin 9 × Nat)) : Port :=
  { y.credited ack grants with
    lastRx := now, rxSeq := y.rxSeq + 1, ackOut := some seq, nakOut := none, rx := tmod [] y.rx vc (· ++ payload) }

/-- The port after a good flit out of order: one of before is acknowledged again, a later one asks for the expected one. -/
def Port.flitDropped (y : Port) (now : Nat) (seq : BitVec 16) (ack : Option (BitVec 16)) (grants : List (Fin 9 × Nat)) : Port :=
  if (y.rxSeq - seq).toNat < 2 ^ 15 then { y.credited ack grants with lastRx := now, ackOut := some (y.rxSeq - 1) }
  else { y.credited ack grants with lastRx := now, nakOut := some y.rxSeq }

theorem State.onPort_eq_of {s : State} {p : Nat} {f g : Port → Port} (h : f (s.port p) = g (s.port p)) : s.onPort p f = s.onPort p g := by
  simp only [State.onPort, tmod]
  rw [show f (tget {} s.ports p) = g (tget {} s.ports p) from h]

theorem tset_tset {α : Type} (t : Tab α) (k : Nat) (v w : α) : tset (tset t k v) k w = tset t k w := by
  induction t with
  | nil => simp [tset]
  | cons c r ih =>
    obtain ⟨a, x⟩ := c
    by_cases h : a = k
    · simp [tset, h]
    · by_cases hlt : k < a <;> simp [tset, h, hlt, ih]

theorem State.onPort_onPort (s : State) (p : Nat) (f g : Port → Port) : (s.onPort p f).onPort p g = s.onPort p fun y => g (f y) := by
  simp only [State.onPort, tmod, tset_tset, tget_tset, if_pos]

section
variable {p : PortIx} {seq : BitVec 16} {vc : Fin 9} {payload : List Byte} {ack : Option (BitVec 16)} {grants : List (Fin 9 × Nat)}
  {s : State} (hup : (s.port p.val).st = .up) (hlen : payload.length ≤ 256) (hmod : payload.length % 16 = 0)
include hup hlen hmod

theorem exec_latticeFlit_expected (hseq : seq = (s.port p.val).rxSeq) :
    exec (.latticeFlit p seq true vc payload ack grants) s =
      .next (s.onPort p.val fun y => y.flitTaken s.refNow seq vc.val payload ack grants) := by
  have hform : ¬ (payload.length > 256 ∨ payload.length % 16 ≠ 0) := by omega
  change execLatticeFlit p seq true vc payload ack grants s = _
  simp only [execLatticeFlit, if_neg hform, hup, ne_eq, not_true_eq_false, Bool.not_true, Bool.false_eq_true, if_false, if_pos hseq,
    State.onPort_onPort]
  rfl

theorem exec_latticeFlit_unexpected (hseq : seq ≠ (s.port p.val).rxSeq) :
    exec (.latticeFlit p seq true vc payload ack grants) s =
      .next (s.onPort p.val fun y => y.flitDropped s.refNow seq ack grants) := by
  have hform : ¬ (payload.length > 256 ∨ payload.length % 16 ≠ 0) := by omega
  change execLatticeFlit p seq true vc payload ack grants s = _
  simp only [execLatticeFlit, if_neg hform, hup, ne_eq, not_true_eq_false, Bool.not_true, Bool.false_eq_true, if_false, if_neg hseq,
    State.onPort_onPort]
  split
  next hold => exact congrArg _ (State.onPort_eq_of (by rw [Port.flitDropped, if_pos hold]; rfl))
  next hgap => exact congrArg _ (State.onPort_eq_of (by rw [Port.flitDropped, if_neg hgap]))

theorem exec_latticeFlit_damaged :
    exec (.latticeFlit p seq false vc payload ack grants) s =
      .next ((if p.val = 6 then s else s.bump .latCrc p.val 1).onPort p.val fun y => { y with nakOut := some (s.port p.val).rxSeq }) := by
  have hform : ¬ (payload.length > 256 ∨ payload.length % 16 ≠ 0) := by omega
  change execLatticeFlit p seq false vc payload ack grants s = _
  simp only [execLatticeFlit, if_neg hform, hup, ne_eq, not_true_eq_false, Bool.not_false, if_true, if_false]
end

/-- A flit that the port has just taken is one of before. -/
theorem BitVec.succ_sub_self_toNat_lt (a : BitVec 16) : (a + 1 - a).toNat < 2 ^ 15 := by
  rw [BitVec.add_comm, BitVec.add_sub_cancel]
  decide

theorem Port.flitDropped_rx (y : Port) (now : Nat) (seq : BitVec 16) (ack : Option (BitVec 16)) (grants : List (Fin 9 × Nat)) :
    (y.flitDropped now seq ack grants).rx = y.rx ∧ (y.flitDropped now seq ack grants).rxSeq = y.rxSeq := by
  unfold Port.flitDropped
  split <;> exact ⟨rfl, rfl⟩

/-! ## Link frames (R351) -/

/-- The low bits of the heartbeat: its number and the three flags. -/
theorem State.heartbeatOf_low (s : State) (p : Nat) : ∃ n, s.heartbeatOf p = (s.port p).hbSeq.toNat +
    2 ^ 32 * (Bool.num s.boot.ready + 2 * Bool.num s.boot.bisque + 4 * Bool.num s.boot.shutting) + 2 ^ 64 * n := by
  unfold State.heartbeatOf
  dsimp only
  split
  · exact ⟨0, rfl⟩
  · split
    · exact ⟨0, rfl⟩
    next g i _ => exact ⟨g + 2 ^ 4 * (i.index % 2 ^ 16) + 2 ^ 20 + 2 ^ 32 * (i.measure.toNat % 2 ^ 64), by omega⟩

theorem Bool.num_le_one (b : Bool) : Bool.num b ≤ 1 := by cases b <;> decide

/-- Number and flags of a heartbeat, as its frame carries them. -/
theorem State.heartbeatOf_fields (s : State) (p : Nat) :
    nbits (BitVec.ofNat 256 (s.heartbeatOf p)).toNat 0 32 = (s.port p).hbSeq.toNat ∧
    nbits (BitVec.ofNat 256 (s.heartbeatOf p)).toNat 32 3 =
      Bool.num s.boot.ready + 2 * Bool.num s.boot.bisque + 4 * Bool.num s.boot.shutting := by
  obtain ⟨n, hn⟩ := s.heartbeatOf_low p
  have hseq := (s.port p).hbSeq.isLt
  have h1 := Bool.num_le_one s.boot.ready
  have h2 := Bool.num_le_one s.boot.bisque
  have h3 := Bool.num_le_one s.boot.shutting
  rw [hn, BitVec.toNat_ofNat]
  simp only [nbits]
  omega

/-! ## PACKET_ROUTE (R360, R361, R363) -/

/-- The port's neighbour, state and version, which decide where packets leave. -/
def SameRoutes (s u : State) : Prop := u.plan = s.plan ∧ ∀ q, (u.port q).st = (s.port q).st ∧ (u.port q).serves = (s.port q).serves ∧
  (u.port q).vmaj = (s.port q).vmaj ∧ (u.port q).vmin = (s.port q).vmin

theorem State.nextHop_congr {s u : State} (h : SameRoutes s u) (input : Option Nat) (p : Packet) : u.nextHop input p = s.nextHop input p := by
  obtain ⟨hplan, hports⟩ := h
  have hserving (d : Nat) : u.portServing d = s.portServing d := by
    simp only [State.portServing, State.portUp, (hports _).1, (hports _).2.1]
  have hkiln : u.kiln = s.kiln := by rw [State.kiln, State.kiln, hplan]
  have hdetour (d : Nat) : u.detourPort d = s.detourPort d := by
    simp only [State.detourPort, hserving, hkiln, (hports _).2.2.1, (hports _).2.2.2]
  simp only [State.nextHop, State.own, hkiln, hserving, hdetour, (hports _).2.1]
  rfl

/-- The head packet has left its channel and is counted. -/
def State.headTaken (s : State) (p vc n : Nat) (bs : List Byte) : State :=
  (s.onPort p fun y => { y with rx := tset y.rx vc (bs.drop n), freed := tmod 0 y.freed vc (· + n / 16) }).bump .latRxBytes p n

section
variable (s : State) (p vc n : Nat) (bs : List Byte)

theorem State.headTaken_only : Only [.ports, .regs] s (s.headTaken p vc n bs) :=
  ((s.onPort_only _ _).mono (by decide)).trans ((State.bump_only_regs _ _ _ _).mono (by decide))

theorem State.headTaken_others : Others State.port [p] s (s.headTaken p vc n bs) := by
  intro q hq
  rw [State.headTaken, State.bump_port]
  exact s.onPort_others _ _ q hq

theorem State.headTaken_port : (s.headTaken p vc n bs).port p =
    { s.port p with rx := tset (s.port p).rx vc (bs.drop n), freed := tmod 0 (s.port p).freed vc (· + n / 16) } := by
  rw [State.headTaken, State.bump_port, State.onPort_port, if_pos rfl]

theorem State.headTaken_routes : SameRoutes s (s.headTaken p vc n bs) := by
  refine ⟨rfl, fun q => ?_⟩
  by_cases hq : q = p
  · rw [hq, State.headTaken_port]
    exact ⟨rfl, rfl, rfl, rfl⟩
  · rw [s.headTaken_others p vc n bs q (by simpa using hq)]
    exact ⟨rfl, rfl, rfl, rfl⟩

theorem State.headTaken_count : (s.headTaken p vc n bs).reg .latRxBytes p = min (s.reg .latRxBytes p + n) (2 ^ 64 - 1) :=
  State.reg_bump_same ..
end

theorem State.consume_queues (s : State) (p : Packet) : Queues s (s.consume p) := by
  unfold State.consume
  split
  · exact .of_same_ports ⟨WheelFrame.refl.onLat, ⟨_, rfl⟩, fun _ _ _ => rfl⟩ rfl
  · split
    · exact s.sendPacket_queues _
    · exact .refl

/-- A packet whose next hop is known is queued on its port. -/
theorem State.routePacket_of_hop {s : State} {input : Option Nat} {pk p' : Packet} {q : Nat} {dt : Bool} (hown : pk.dest ≠ s.own)
    (hhop : s.nextHop input pk = some (q, p', dt)) :
    s.routePacket input pk = (s.queueOn q p' input.isSome).bump .latDetour q (Bool.num dt) := by
  simp [State.routePacket, State.forward, hown, hhop]

theorem badPacket_logOnly (p : Nat) : FaultRec.LogOnly { code := faultCode 5 0xD 0xDC, unit := p } :=
  .inr (show codeClass (faultCode 5 0xD 0xDC) ≠ 3 by decide)

theorem Only.ite {ps : List Field} {s t u : State} {c : Prop} [Decidable c] (ht : Only ps s t) (hu : Only ps s u) :
    Only ps s (if c then t else u) := by
  split
  · exact ht
  · exact hu

theorem State.raiseLimited_only_flog (s : State) (gap sub : Nat) {r : FaultRec} (h : r.LogOnly) : Only [.flog] s (s.raiseLimited gap sub r) :=
  .ite (s.onFlog_only _) ((s.onFlog_only _).trans (State.raise_only_flog _ h))

section
variable {p : PortIx} {vc : Fin 9} {s : State} {bs : List Byte} {pk : Packet} {n : Nat} (hp : p.val < 6)
  (hbs : bs = skipFill ((tget [] (s.port p.val).rx vc.val).length / 16) (tget [] (s.port p.val).rx vc.val)) (h32 : 32 ≤ bs.length)
  (hpk : pk = ⟨BitVec.ofNat 256 (leNat (bs.take 32)), (bs.take n).drop 32⟩) (hn : n = 32 + (pk.len + 15) / 16 * 16) (hle : n ≤ bs.length)
include hp hbs h32 hpk hn hle

theorem exec_packetRoute_of_head : exec (.packetRoute p vc) s = .next
    (if s.packetBad pk then ((s.headTaken p.val vc.val n bs).bump .latDrop p.val 1).raiseLimited 1000000 0
        { code := faultCode 5 0xD 0xDC, unit := p.val }
      else if pk.dest = s.own then (s.headTaken p.val vc.val n bs).consume pk
      else (s.headTaken p.val vc.val n bs).routePacket (some p.val) pk) := by
  have hlen : pk.len = Packet.len { hdr := BitVec.ofNat 256 (leNat (bs.take 32)), payload := [] } := by rw [hpk]; rfl
  have hhead : ¬ (p.val = 6 ∨ bs.length < 32) := by omega
  have hbytes : s.packetBad pk = (s.headTaken p.val vc.val n bs).packetBad pk := rfl
  change execPacketRoute p vc s = _
  rw [execPacketRoute]
  dsimp only
  rw [← hbs, if_neg hhead, ← hlen, ← hn, if_neg (by omega), ← hpk]
  split
  · rfl
  · split <;> rfl

/-- Whatever becomes of the head packet, its bytes have left the channel and are counted, and no memory has changed. -/
theorem State.packetRoute_taken : ∃ t, exec (.packetRoute p vc) s = .next t ∧ tget [] (t.port p.val).rx vc.val = bs.drop n ∧
    t.mem = s.mem ∧ t.reg .latRxBytes p.val = min (s.reg .latRxBytes p.val + n) (2 ^ 64 - 1) := by
  have hexec := exec_packetRoute_of_head hp hbs h32 hpk hn hle
  have hport := s.headTaken_port p.val vc.val n bs
  have hmem : (s.headTaken p.val vc.val n bs).mem = s.mem := rfl
  have hcount := s.headTaken_count p.val vc.val n bs
  have hqueued (t : State) (h : Queues (s.headTaken p.val vc.val n bs) t) : tget [] (t.port p.val).rx vc.val = bs.drop n ∧
      t.mem = s.mem ∧ t.reg .latRxBytes p.val = min (s.reg .latRxBytes p.val + n) (2 ^ 64 - 1) := by
    obtain ⟨o, ho⟩ := h.ports p.val
    refine ⟨?_, h.sends.frame.mem_eq.trans hmem, (h.sends.reg _ _ (by decide)).trans hcount⟩
    rw [ho, hport]
    exact (tget_tset ..).trans (if_pos rfl)
  refine ⟨_, hexec, ?_⟩
  split
  · have honly := State.raiseLimited_only_flog ((s.headTaken p.val vc.val n bs).bump .latDrop p.val 1) 1000000 0 (badPacket_logOnly p.val)
    refine ⟨?_, (honly .mem (by decide)).trans hmem, ?_⟩
    · rw [honly.port_eq _ (by decide)]
      exact (congrArg (fun x : Port => tget [] x.rx vc.val) hport).trans ((tget_tset ..).trans (if_pos rfl))
    · rw [honly.reg_eq _ _ (by decide), State.reg_bump_of_ne]
      exact hcount
  · split
    · exact hqueued _ (State.consume_queues ..)
    · exact hqueued _ (State.routePacket_queues ..)
end

/-- Settles O44. -/
theorem flitsArriveOnceAndInOrder : Obligations.FlitsArriveOnceAndInOrder := by
  unfold Obligations.FlitsArriveOnceAndInOrder
  refine ⟨fun p seq vc payload ack grants s x hx hup hlen hmod => ⟨?expected, fun hseq => ?unexpected, ?damaged⟩,
    fun p seq s l hup hl hne => ?nak, fun p s hup hdue => ?heartbeat, fun p s hup hdue => ?frameOut, fun p frame s hup => ?frameIn,
    fun p vc s bs pk n hp hbs h32 hpk hn hle => ?route⟩
  case expected =>
    subst hx
    have hexec := exec_latticeFlit_expected (vc := vc) (ack := ack) (grants := grants) hup hlen hmod rfl
    have hport : (s.onPort p.val fun y => y.flitTaken s.refNow (s.port p.val).rxSeq vc.val payload ack grants).port p.val =
        (s.port p.val).flitTaken s.refNow (s.port p.val).rxSeq vc.val payload ack grants := (s.onPort_port ..).trans (if_pos rfl)
    refine ⟨_, hexec, by rw [hport]; rfl, by rw [hport]; rfl, by rw [hport]; rfl, by rw [hport]; rfl, s.onPort_only _ _,
      s.onPort_others _ _, fun ack' grants' => ?_⟩
    have hagain : (s.port p.val).rxSeq ≠ ((s.port p.val).flitTaken s.refNow (s.port p.val).rxSeq vc.val payload ack grants).rxSeq := by
      change (s.port p.val).rxSeq ≠ (s.port p.val).rxSeq + 1
      simp
    refine ⟨_, exec_latticeFlit_unexpected (by rw [hport]; exact hup) hlen hmod (by rw [hport]; exact hagain), ?_⟩
    rw [State.onPort_port, if_pos rfl, hport]
    obtain ⟨hrx, hrxSeq⟩ := Port.flitDropped_rx
      ((s.port p.val).flitTaken s.refNow (s.port p.val).rxSeq vc.val payload ack grants)
      (s.onPort p.val fun y => y.flitTaken s.refNow (s.port p.val).rxSeq vc.val payload ack grants).refNow (s.port p.val).rxSeq ack' grants'
    refine ⟨hrx, hrxSeq, ?_⟩
    have hold : (((s.port p.val).flitTaken s.refNow (s.port p.val).rxSeq vc.val payload ack grants).rxSeq - (s.port p.val).rxSeq).toNat < 2 ^ 15 :=
      BitVec.succ_sub_self_toNat_lt _
    rw [Port.flitDropped, if_pos hold]
    change some ((s.port p.val).rxSeq + 1 - 1) = _
    rw [BitVec.add_sub_cancel]
  case unexpected =>
    subst hx
    obtain ⟨hexec, hport, honly, hothers⟩ := exec_onPort (exec_latticeFlit_unexpected (vc := vc) (ack := ack) (grants := grants) hup hlen hmod hseq)
    obtain ⟨hrx, hrxSeq⟩ := (s.port p.val).flitDropped_rx s.refNow seq ack grants
    refine ⟨_, hexec, by rw [hport, hrx], by rw [hport, hrxSeq], honly, hothers, fun hgap => ?_⟩
    rw [hport, Port.flitDropped, if_neg (by omega)]
  case damaged =>
    subst hx
    refine ⟨_, exec_latticeFlit_damaged hup hlen hmod, ?_⟩
    split
    next h6 =>
      refine ⟨by simp, (s.onPort_only _ _).mono (by decide), s.onPort_others _ _, fun hlt => absurd h6 (by omega)⟩
    next =>
      refine ⟨by simp, ((s.bump_only_regs _ _ _).mono (by decide)).trans ((State.onPort_only _ _ _).mono (by decide)),
        State.onPort_others _ _ _, fun _ => s.reg_bump_same ..⟩
  case nak =>
    subst hl
    have hmany : ((s.port p.val).replay.dropWhile fun f => f.1 != seq).isEmpty = false := by simpa using hne
    refine ⟨_, _, State.when_true _ _ (by simp [hup, hmany]), ?_, ?_, ?_, rfl, ?_⟩
    · simp
    · exact ((s.bump_only_regs _ _ _).mono (by decide)).trans ((State.onPort_only _ _ _).mono (by decide))
    · exact fun q hq => State.onPort_others _ _ _ q hq
    · split
      · exact s.reg_bump_same ..
      · exact s.reg_bump_same ..
  case heartbeat =>
    obtain ⟨hseq, hflags⟩ := s.heartbeatOf_fields p.val
    exact ⟨_, State.when_true _ _ (by simp [hup, hdue]), by simp, by simp, by simpa using hseq, by simpa using hflags, s.onPort_only _ _,
      s.onPort_others _ _⟩
  case frameOut =>
    have hexec : exec (.linkFrameSend p) s = .next (s.onPort p.val fun x => { x with lastTx := s.refNow }) :=
      State.when_true _ _ (by simp [hup, hdue])
    exact ⟨_, exec_onPort hexec⟩
  case frameIn =>
    refine ⟨_, State.when_true _ _ (by simp [hup]), ?_⟩
    cases frame with
    | heartbeat b =>
      dsimp only
      split
      · refine ⟨by simp [Port.heard], ((s.onPort_only _ _).mono (by decide)).trans ((State.onLute_only _ _).mono (by decide)),
          fun q hq => ?_, fun b' hb => by cases hb; simp [Port.heard]⟩
        rw [State.onLute_port]
        exact s.onPort_others _ _ q hq
      · exact ⟨by simp [Port.heard], (s.onPort_only _ _).mono (by decide), s.onPort_others _ _, fun b' hb => by cases hb; simp [Port.heard]⟩
    | idle => exact ⟨by simp, (s.onPort_only _ _).mono (by decide), s.onPort_others _ _, fun b hb => nomatch hb⟩
    | timeRequest t => exact ⟨by simp, (s.onPort_only _ _).mono (by decide), s.onPort_others _ _, fun b hb => nomatch hb⟩
  case route =>
    obtain ⟨t, hexec, hrx, hmem, hcount⟩ := State.packetRoute_taken hp hbs h32 hpk hn hle
    have ht := (exec_packetRoute_of_head hp hbs h32 hpk hn hle).symm.trans hexec
    injection ht with ht
    have hothers := s.headTaken_others p.val vc.val n bs
    refine ⟨t, hexec, hrx, hmem, hcount, fun hbad => ?_, fun hgood hown htakes => ?_, fun q p' dt hgood hown hhop => ?_⟩
    · rw [if_pos hbad] at ht
      have honly := State.raiseLimited_only_flog ((s.headTaken p.val vc.val n bs).bump .latDrop p.val 1) 1000000 0 (badPacket_logOnly p.val)
      rw [ht] at honly
      refine ⟨honly .lat (by decide), ?_, fun q hq => (honly.port_eq q (by decide)).trans (hothers q hq)⟩
      rw [honly.reg_eq _ _ (by decide), State.reg_bump_same]
      exact congrArg (fun k => min (k + 1) _) (State.reg_bump_of_ne ..)
    · have htaken : (s.headTaken p.val vc.val n bs).takesPackets pk.dsag = true := htakes
      rw [hgood, if_neg Bool.false_ne_true, if_pos hown, State.consume, if_pos htaken] at ht
      subst ht
      exact ⟨rfl, hothers⟩
    · rw [hgood, if_neg Bool.false_ne_true, if_neg hown,
        State.routePacket_of_hop (s := s.headTaken p.val vc.val n bs) (show pk.dest ≠ (s.headTaken p.val vc.val n bs).own from hown) ((State.nextHop_congr (s.headTaken_routes p.val vc.val n bs) ..).trans hhop)] at ht
      subst ht
      refine ⟨rfl, ?_, fun k hk => ?_⟩
      · have hout : ((s.headTaken p.val vc.val n bs).port q).out = (s.port q).out := by
          by_cases hq : q = p.val
          · rw [hq, State.headTaken_port]
          · rw [hothers q (by simpa using hq)]
        simp [State.queueOn, hout]
      · obtain ⟨hkp, hkq⟩ : k ≠ p.val ∧ k ≠ q := by simpa using hk
        simp only [State.queueOn, State.bump_port, State.onPort_port, if_neg hkq]
        exact hothers k (by simpa using hkp)

end Sys2Proof.Machine

namespace Sys2Proof.Machine

/-! # The life of slices, and the judgement of reports at the apex (O46) -/

/-! ## Slices in a list -/

theorem State.slice?_id {s : State} {i : Nat} {x : Slice} (h : s.slice? i = some x) : x.id = i := by
  simpa using List.find?_some h

theorem State.onSlice_slice? (s : State) (i : Nat) (f : Slice → Slice) (hf : ∀ x, x.id = i → (f x).id = i) :
    (s.onSlice i f).slice? i = (s.slice? i).map f := by
  have hsame : ((fun x : Slice => x.id == i) ∘ fun x => if x.id = i then f x else x) = fun x => x.id == i := by
    funext x
    by_cases hx : x.id = i <;> simp [hx, hf]
  show (s.lat.slices.map fun x => if x.id = i then f x else x).find? (fun x => x.id == i) = (s.lat.slices.find? fun x => x.id == i).map f
  rw [List.find?_map, hsame]
  cases h : s.lat.slices.find? fun x => x.id == i with
  | none => rfl
  | some x =>
    have hx : x.id = i := by simpa using List.find?_some h
    simp [hx]

theorem State.onSlice_only (s : State) (i : Nat) (f : Slice → Slice) : Only [.lat] s (s.onSlice i f) := s.onLat_only _

/-! ## Stopping slices (R366, R372) -/

/-- From `s` to `t` packets have been sent and slices have changed. -/
structure SliceStops (s t : State) : Prop where
  frame : WheelFrame [.lat, .ports, .regs] [] [] s t
  lat   : ∃ c l, t.lat = { s.lat with consumed := c, slices := l }

namespace SliceStops

variable {s t u : State}

theorem refl : SliceStops s s := ⟨.refl, _, _, rfl⟩

theorem trans (h : SliceStops s t) (h' : SliceStops t u) : SliceStops s u := by
  obtain ⟨c, l, hl⟩ := h.lat
  obtain ⟨c', l', hl'⟩ := h'.lat
  exact ⟨h.frame.trans h'.frame, c', l', by rw [hl', hl]⟩

theorem foldl {α : Type} {f : State → α → State} (hf : ∀ (s : State) x, SliceStops s (f s x)) (l : List α) (s : State) :
    SliceStops s (l.foldl f s) := by
  induction l generalizing s with
  | nil => exact refl
  | cons x l ih => exact (hf s x).trans (ih _)

theorem of_sends (h : Sends s t) : SliceStops s t := by
  obtain ⟨c, hc⟩ := h.lat
  exact ⟨h.frame, c, s.lat.slices, hc⟩

theorem slices (f : List Slice → List Slice) : SliceStops s (s.onLat fun l => { l with slices := f l.slices }) :=
  ⟨WheelFrame.refl.onLat, _, _, rfl⟩

theorem reports (h : SliceStops s t) : t.lat.reports = s.lat.reports := by
  obtain ⟨c, l, hl⟩ := h.lat
  rw [hl]

theorem lostModules (h : SliceStops s t) : t.lat.lostModules = s.lat.lostModules := by
  obtain ⟨c, l, hl⟩ := h.lat
  rw [hl]

theorem lostLinks (h : SliceStops s t) : t.lat.lostLinks = s.lat.lostLinks := by
  obtain ⟨c, l, hl⟩ := h.lat
  rw [hl]

theorem apex (h : SliceStops s t) : t.lat.apex = s.lat.apex := by
  obtain ⟨c, l, hl⟩ := h.lat
  rw [hl]

theorem mem_eq (h : SliceStops s t) : t.mem = s.mem := h.frame.mem_eq
theorem flog_eq (h : SliceStops s t) : t.flog = s.flog := h.frame.flog_eq

end SliceStops

/-- What stops a slice comes to: SLICE_STOP is sent, and then the slices change. -/
theorem State.stopSlice_eq (s : State) (x : Slice) (except : Option Coord) (fault : Coord) (code : BitVec 16) :
    ∃ u, Sends s u ∧ s.stopSlice x except fault code = if x.member then u.onSlice x.id fun y => { y with active := false }
      else u.onLat fun l => { l with slices := l.slices.filter (·.id != x.id) } :=
  ⟨_, Sends.foldl (fun _ _ => State.sendPacket_sends ..) _ s, rfl⟩

theorem State.stopSlice_stops (s : State) (x : Slice) (except : Option Coord) (fault : Coord) (code : BitVec 16) :
    SliceStops s (s.stopSlice x except fault code) := by
  obtain ⟨u, hsends, heq⟩ := s.stopSlice_eq x except fault code
  rw [heq]
  split
  · exact (SliceStops.of_sends hsends).trans (.slices _)
  · exact (SliceStops.of_sends hsends).trans (.slices _)

theorem State.stopSlice_of_not_member {x : Slice} (hx : x.member = false) (s : State) (except : Option Coord) (fault : Coord)
    (code : BitVec 16) : ∀ y ∈ (s.stopSlice x except fault code).lat.slices, y.id ≠ x.id := by
  obtain ⟨u, -, heq⟩ := s.stopSlice_eq x except fault code
  rw [heq, hx]
  intro y hy
  simpa using (List.mem_filter.1 hy).2

theorem State.stopSlice_of_member {x : Slice} (hx : x.member = true) (s : State) (except : Option Coord) (fault : Coord)
    (code : BitVec 16) : ∀ y, (s.stopSlice x except fault code).slice? x.id = some y → y.active = false := by
  obtain ⟨u, -, heq⟩ := s.stopSlice_eq x except fault code
  rw [heq, hx, if_pos rfl, State.onSlice_slice? _ _ _ (by exact fun _ h => h)]
  intro y hy
  obtain ⟨z, -, rfl⟩ := Option.map_eq_some_iff.1 hy
  rfl

theorem State.stopLost_stops (s : State) (modules : List Coord) (links : List (Coord × Coord)) : SliceStops s (s.stopLost modules links) := by
  refine SliceStops.foldl (fun u x => ?_) _ s
  split
  · exact u.stopSlice_stops ..
  · exact u.stopSlice_stops ..
  · exact .refl

/-! ## Records and answers -/

theorem State.kilnFault_only {detail : Nat} (s : State) (g addr : Nat) (h : codeClass (faultCode 6 0 detail) ≠ 3) :
    Only [.flog] s (s.kilnFault detail g addr) := s.raise_only_flog (.inr h)

theorem State.detects_kilnFault (s : State) (detail g addr : Nat) : Detects (faultCode 6 0 detail) s (s.kilnFault detail g addr) :=
  s.detects_raise _

theorem State.mgmtAnswer_only (s : State) (sess cmd : Nat) (tag : BitVec 32) (status : Nat) (payload : List Byte) :
    Only [.mgmt, .regs] s (s.mgmtAnswer sess cmd tag status payload) := by
  have hcount := s.bump_only .mgtDenied 0 (if status = 1 then 1 else 0)
  exact .ite (hcount.trans (State.onSession_only _ _ _)) hcount

/-- A slice that did not form: 0xDB is detected, and nobody waits for its forming any more. -/
theorem State.formFailed_facts (s : State) {x : Slice} {i : Nat} {a : Nat × BitVec 32} (hid : x.id = i) (hasker : x.asker = some a)
    (status : Nat) : Detects 0x60DB#16 s (s.formFailed x status) ∧
      (∀ y, (s.formFailed x status).slice? i = some y → y.asker = none) ∧ (s.formFailed x status).mem = s.mem := by
  obtain ⟨k, tag⟩ := a
  unfold State.formFailed
  extract_lets s1
  rw [hasker]
  dsimp only
  have hstops := s.stopSlice_stops x none s.own (faultCode 6 0 0xDB)
  have hrecord : Only [.flog] _ s1 := State.kilnFault_only _ x.sgr 0 (by decide)
  have hanswer := (s1.onSlice x.id fun y => { y with asker := none }).mgmtAnswer_only k 0x50 tag status []
  refine ⟨(State.detects_kilnFault _ 0xDB x.sgr 0).of_flog_eq hstops.flog_eq (hanswer .flog (by decide)), fun y hy => ?_, ?_⟩
  · have hlat : (State.mgmtAnswer _ k 0x50 tag status []).slice? i = _ := congrArg (fun l => l.slices.find? (·.id == i)) (hanswer .lat (by decide))
    rw [hlat] at hy
    change (s1.onSlice x.id _).slice? i = some y at hy
    rw [hid, State.onSlice_slice? _ _ _ (by exact fun _ h => h)] at hy
    obtain ⟨z, -, rfl⟩ := Option.map_eq_some_iff.1 hy
    rfl
  · exact (hanswer .mem (by decide)).trans ((hrecord .mem (by decide)).trans hstops.mem_eq)

/-! ## The apex judges reports (R366) -/

section
variable {s : State} {c : Coord} {t0 : Nat} (hfirst : s.firstReport c = some t0)
include hfirst

theorem State.inReportWindow_eq : s.inReportWindow c = fun r => r.beyond == c && r.time ≤ t0 + 50000 := by
  funext r
  simp [State.inReportWindow, hfirst]

theorem State.windowOver_of_first (hover : t0 + 50000 ≤ s.refNow) : s.windowOver c = true := by
  rw [State.windowOver, hfirst, Option.any_some]
  exact decide_eq_true hover

/-- The state that has judged the reports `rs` about `c`: they are gone, and `f` enters what was lost. -/
def State.judged (s : State) (c : Coord) (t0 : Nat) (f : Lattice → Lattice) : State :=
  s.onLat fun l => f { l with reports := l.reports.filter fun r => !(r.beyond == c && r.time ≤ t0 + 50000) }

theorem State.judged_eq (f : Lattice → Lattice) :
    (s.onLat fun l => { l with reports := l.reports.filter fun r => !s.inReportWindow c r }).onLat f = s.judged c t0 f := by
  rw [State.inReportWindow_eq hfirst]
  rfl

theorem exec_apexLossWindow_of_over (hover : t0 + 50000 ≤ s.refNow) (hkeeps : s.keepsMap = true) {rs : List LossReport}
    (hrs : rs = s.lat.reports.filter fun r => r.beyond == c && r.time ≤ t0 + 50000) {w v : State}
    (hw : w = s.judged c t0 fun l => { l with lostModules := (l.lostModules.filter (· != c)) ++ [c] })
    (hv : v = s.judged c t0 fun l => { l with lostLinks := l.lostLinks ++ rs.map fun r => (r.at_, c) }) :
    exec (.apexLossWindow c) s = .next
      (if s.moduleLost c rs then
        if s.lat.apex then (w.kilnFault 0xD5 15 c.toNat).stopLost [c] []
        else if c = s.kiln.apex then (w.kilnFault 0xD5 15 c.toNat).takeOver else w
      else if s.lat.apex then v.stopLost [] (rs.map fun r => (r.at_, c)) else v) := by
  have hgo : ¬ ((!s.keepsMap || !s.windowOver c) = true) := by simp [hkeeps, State.windowOver_of_first hfirst hover]
  have hreports : s.lat.reports.filter (s.inReportWindow c) = rs := by rw [State.inReportWindow_eq hfirst, hrs]
  change execApexLossWindow c s = _
  unfold execApexLossWindow
  rw [if_neg hgo]
  simp only [State.judged_eq hfirst, hreports, ← hw, ← hv]
  simp only [apply_ite Host.Outcome.next]
end

theorem State.takeOver_stops (s : State) : SliceStops ((s.onLat fun l => { l with apex := true }).onTb fun t => { t with parent := 7 }) s.takeOver :=
  State.stopLost_stops ..

/-- The judgement: the reports of the window are gone, and the module or the reported links are lost. -/
theorem State.apexLossWindow_judges {c : Coord} {s : State} {rs : List LossReport} {t0 : Nat} (hfirst : s.firstReport c = some t0)
    (hover : t0 + 50000 ≤ s.refNow) (hkeeps : s.keepsMap = true)
    (hrs : rs = s.lat.reports.filter fun r => r.beyond == c && r.time ≤ t0 + 50000) :
    ∃ t, exec (.apexLossWindow c) s = .next t ∧ (∀ r ∈ t.lat.reports, r.beyond = c → t0 + 50000 < r.time) ∧ t.mem = s.mem ∧
      (s.moduleLost c rs = true → c ∈ t.lat.lostModules ∧ (s.lat.apex = true → Detects 0x60D5#16 s t) ∧
        (s.lat.apex = false → c = s.kiln.apex → t.lat.apex = true)) ∧
      (s.moduleLost c rs = false → t.lat.lostLinks = s.lat.lostLinks ++ rs.map (fun r => (r.at_, c)) ∧ t.flog = s.flog) := by
  obtain ⟨w, hw⟩ : ∃ w, w = s.judged c t0 fun l => { l with lostModules := (l.lostModules.filter (· != c)) ++ [c] } := ⟨_, rfl⟩
  obtain ⟨v, hv⟩ : ∃ v, v = s.judged c t0 fun l => { l with lostLinks := l.lostLinks ++ rs.map fun r => (r.at_, c) } := ⟨_, rfl⟩
  have hrecord : Only [.flog] w (w.kilnFault 0xD5 15 c.toNat) := State.kilnFault_only _ _ _ (by decide)
  have hreports : ∀ r ∈ s.lat.reports.filter fun r => !(r.beyond == c && r.time ≤ t0 + 50000), r.beyond = c → t0 + 50000 < r.time := by
    intro r hr hc
    simpa [hc] using (List.mem_filter.1 hr).2
  have hexec := exec_apexLossWindow_of_over hfirst hover hkeeps hrs hw hv
  by_cases hlost : s.moduleLost c rs = true
  · rw [if_pos hlost] at hexec
    have hwreports : ∀ r ∈ w.lat.reports, r.beyond = c → t0 + 50000 < r.time := by
      subst hw
      exact hreports
    have hwlost : c ∈ w.lat.lostModules := by
      subst hw
      exact List.mem_append_right _ (by simp)
    have hwmem : w.mem = s.mem := by rw [hw]; rfl
    have hwflog : w.flog = s.flog := by rw [hw]; rfl
    have hrlat : (w.kilnFault 0xD5 15 c.toNat).lat = w.lat := hrecord .lat (by decide)
    have hrmem : (w.kilnFault 0xD5 15 c.toNat).mem = w.mem := hrecord .mem (by decide)
    by_cases hapex : s.lat.apex = true
    · rw [if_pos hapex] at hexec
      have hstops := (w.kilnFault 0xD5 15 c.toNat).stopLost_stops [c] []
      refine ⟨_, hexec, ?_, hstops.mem_eq.trans (hrmem.trans hwmem), fun _ => ⟨?_, fun _ => ?_, fun h => absurd (hapex.symm.trans h) (by decide)⟩,
        fun h => absurd (hlost.symm.trans h) (by decide)⟩
      · rw [hstops.reports, hrlat]
        exact hwreports
      · rw [hstops.lostModules, hrlat]
        exact hwlost
      · exact (State.detects_kilnFault w 0xD5 15 c.toNat).of_flog_eq hwflog hstops.flog_eq
    · rw [if_neg hapex] at hexec
      by_cases hbackup : c = s.kiln.apex
      · rw [if_pos hbackup] at hexec
        have hstops := (w.kilnFault 0xD5 15 c.toNat).takeOver_stops
        refine ⟨_, hexec, ?_, hstops.mem_eq.trans (hrmem.trans hwmem), fun _ => ⟨?_, fun h => absurd h hapex, fun _ _ => hstops.apex⟩,
          fun h => absurd (hlost.symm.trans h) (by decide)⟩
        · rw [hstops.reports]
          change ∀ r ∈ (w.kilnFault 0xD5 15 c.toNat).lat.reports, _
          rw [hrlat]
          exact hwreports
        · rw [hstops.lostModules]
          change c ∈ (w.kilnFault 0xD5 15 c.toNat).lat.lostModules
          rw [hrlat]
          exact hwlost
      · rw [if_neg hbackup] at hexec
        exact ⟨_, hexec, hwreports, hwmem, fun _ => ⟨hwlost, fun h => absurd h hapex, fun _ h => absurd h hbackup⟩,
          fun h => absurd (hlost.symm.trans h) (by decide)⟩
  · rw [if_neg hlost] at hexec
    have hjudged (t : State) (h : SliceStops v t) : (∀ r ∈ t.lat.reports, r.beyond = c → t0 + 50000 < r.time) ∧ t.mem = s.mem ∧
        t.lat.lostLinks = s.lat.lostLinks ++ rs.map (fun r => (r.at_, c)) ∧ t.flog = s.flog := by
      subst hv
      exact ⟨by rw [h.reports]; exact hreports, h.mem_eq, h.lostLinks, h.flog_eq⟩
    have hstops : SliceStops v (if s.lat.apex then v.stopLost [] (rs.map fun r => (r.at_, c)) else v) := by
      split
      · exact v.stopLost_stops ..
      · exact .refl
    obtain ⟨hkept, hmem, hlinks, hflog⟩ := hjudged _ hstops
    exact ⟨_, hexec, hkept, hmem, fun h => absurd h hlost, fun _ => ⟨hlinks, hflog⟩⟩

/-! ## Joining, acknowledging and marking (R370, R371) -/

/-- This module accepts a slice: it becomes a member. -/
def State.sliceJoined (s : State) (x : Slice) (r : Nat) : State :=
  if r ≠ 0 then s
  else if (s.slice? x.id).isSome then s.onSlice x.id fun y => { y with member := true }
  else s.onLat fun l => { l with slices := l.slices ++ [{ x with member := true, active := true, started := s.refNow }] }

theorem State.sliceJoined_only (s : State) (x : Slice) (r : Nat) : Only [.lat] s (s.sliceJoined x r) :=
  .ite (.refl _ _) (.ite (s.onSlice_only _ _) (s.onLat_only _))

theorem State.sliceJoined_member (s : State) (x : Slice) : ∃ y, (s.sliceJoined x 0).slice? x.id = some y ∧ y.member = true := by
  unfold State.sliceJoined
  rw [if_neg (by simp)]
  split
  next hsome =>
    obtain ⟨z, hz⟩ := Option.isSome_iff_exists.1 hsome
    exact ⟨{ z with member := true }, by rw [State.onSlice_slice? _ _ _ (by exact fun _ h => h), hz]; rfl, rfl⟩
  next hnone =>
    have hnew : s.lat.slices.find? (fun y => y.id == x.id) = none := by simpa [State.slice?] using hnone
    refine ⟨{ x with member := true, active := true, started := s.refNow }, ?_, rfl⟩
    show (s.lat.slices ++ [_]).find? (fun y : Slice => y.id == x.id) = _
    simp [List.find?_append, hnew]

/-- The members that have accepted, with the one that has just answered. -/
def Slice.acceptedBy (x : Slice) (c : Coord) : List Coord := (x.accepts.filter (· != c)) ++ [c]

theorem Slice.mem_acceptedBy {x : Slice} {c m : Coord} : m ∈ x.acceptedBy c ↔ m = c ∨ m ∈ x.accepts := by
  by_cases h : m = c <;> simp [Slice.acceptedBy, h]

/-- An acceptance enters the slice, and the last one makes it active and answers SLICE_FORM. -/
theorem State.accepted_facts (u : State) {p : Packet} {x : Slice} {k : Nat} {tag : BitVec 32} (hx : u.slice? p.slice = some x)
    (hactive : x.active = false) {t : State}
    (ht : t = if (x.members u.kiln).all (x.acceptedBy p.src).contains then
        ((u.onSlice x.id fun y => { y with accepts := x.acceptedBy p.src }).onSlice x.id fun y =>
          { y with active := true, asker := none }).mgmtAnswer k 0x50 tag 0 []
      else u.onSlice x.id fun y => { y with accepts := x.acceptedBy p.src }) :
    ∃ y, t.slice? p.slice = some y ∧ p.src ∈ y.accepts ∧ (y.active = true ↔ ∀ m ∈ x.members u.kiln, m = p.src ∨ m ∈ x.accepts) ∧
      Only [.lat, .mgmt, .regs] u t := by
  have hid := State.slice?_id hx
  have hall : (x.members u.kiln).all (x.acceptedBy p.src).contains = true ↔ ∀ m ∈ x.members u.kiln, m = p.src ∨ m ∈ x.accepts := by
    simp only [List.all_eq_true, List.contains_iff_mem, Slice.mem_acceptedBy]
  rw [← hid] at hx ⊢
  have hentered : (u.onSlice x.id fun y => { y with accepts := x.acceptedBy p.src }).slice? x.id =
      some { x with accepts := x.acceptedBy p.src } := by
    rw [State.onSlice_slice? _ _ _ (by exact fun _ h => h), hx]
    rfl
  rw [← hall, ht]
  split
  next hlast =>
    refine ⟨{ x with accepts := x.acceptedBy p.src, active := true, asker := none }, ?_, Slice.mem_acceptedBy.2 (.inl rfl), by simp [hlast],
      (((u.onSlice_only _ _).trans (State.onSlice_only _ _ _)).mono (by decide)).trans ((State.mgmtAnswer_only _ _ _ _ _ _).mono (by decide))⟩
    refine (congrArg (fun l => l.slices.find? (·.id == x.id)) (State.mgmtAnswer_only _ k 0x50 tag 0 [] .lat (by decide))).trans ?_
    change State.slice? (State.onSlice _ x.id _) x.id = _
    rw [State.onSlice_slice? _ _ _ (by exact fun _ h => h), hentered]
    rfl
  next hmore =>
    exact ⟨_, hentered, Slice.mem_acceptedBy.2 (.inl rfl), by simp [hmore, hactive], (u.onSlice_only _ _).mono (by decide)⟩

/-- The slice with a mark entered. -/
def Slice.marked (x : Slice) (c : Coord) (word : Nat) : Slice := { x with marks := (x.marks.filter fun m => m.1 != c) ++ [(c, word)] }

/-- The slice at the start of round `n`. -/
def Slice.atRound (x : Slice) (n : Nat) : Slice := { x with round := n, ended := [], marks := [] }

theorem Slice.marked_roundOver {x : Slice} {c own : Coord} {word : Nat} {k : PlanKiln}
    (h : ∀ m ∈ x.members k, m = own ∨ m = c ∧ word = x.round ∨ m ≠ c ∧ (m, x.round) ∈ x.marks) :
    (x.marked c word).roundOver k own = true := by
  refine List.all_eq_true.2 fun m hm => ?_
  obtain hown | ⟨hc, hword⟩ | ⟨hc, hmark⟩ := h m hm
  · simp [hown]
  · simp [Slice.marked, hc, hword]
  · simpa [Slice.marked] using .inr (.inl ⟨hmark, hc⟩)

/-! ## The commands -/

section
variable {s u : State} {p : Packet}

theorem exec_sliceJoin_of_take (h : s.takeWhere 3 (fun _ => true) = some (p, u)) (hlen : p.len = 32) {x : Slice} {r : Nat}
    (hx : x = sliceOf (BitVec.ofNat 256 (leNat (p.payload.take 32)))) (hr : r = u.joinReason x) :
    exec .sliceJoin s = .next ((u.sliceJoined x r).sendPacket (s.packet 4 0 p.src p.xid x.id 15 r 0 0 [])) := by
  have hplan : (u.sliceJoined x r).plan = s.plan := by
    rw [show (u.sliceJoined x r).plan = u.plan from u.sliceJoined_only x r .plan (by decide), State.takeWhere_eq h]
    rfl
  have hpacket : (u.sliceJoined x r).packet 4 0 p.src p.xid x.id 15 r 0 0 [] = s.packet 4 0 p.src p.xid x.id 15 r 0 0 [] := by
    simp only [State.packet, State.own, State.kiln, hplan]
  rw [← hpacket]
  subst hx hr
  refine (State.handle_of_take h).trans ?_
  simp only [hlen, if_true]
  rfl

theorem exec_sliceAck_of_take (h : s.takeWhere 4 (fun _ => true) = some (p, u)) {x : Slice} (hx : u.slice? p.slice = some x)
    (hapex : u.lat.apex = true) (hactive : x.active = false) {k : Nat} {tag : BitVec 32} (hasker : x.asker = some (k, tag)) :
    exec .sliceAck s = .next (if p.arg 16 ≠ 0 then u.formFailed x (refusalStatus (p.arg 16))
      else if (x.members u.kiln).all (x.acceptedBy p.src).contains then
        ((u.onSlice x.id fun y => { y with accepts := x.acceptedBy p.src }).onSlice x.id fun y =>
          { y with active := true, asker := none }).mgmtAnswer k 0x50 tag 0 []
      else u.onSlice x.id fun y => { y with accepts := x.acceptedBy p.src }) := by
  have hforming : ¬ ((!u.lat.apex || !x.forming) = true) := by simp [hapex, Slice.forming, hactive, hasker]
  refine (State.handle_of_take h).trans ?_
  dsimp only
  rw [hx]
  dsimp only
  rw [if_neg hforming]
  simp only [hasker]
  rfl

theorem exec_sliceMark_of_take (h : s.takeWhere 6 (fun _ => true) = some (p, u)) {x : Slice} (hx : u.slice? p.slice = some x)
    (hjob : x.job ≠ 1) :
    exec .sliceMark s = .next (if x.job = 2 ∧ x.apex = u.own then
        if (x.marked p.src (p.arg 16)).roundOver u.kiln u.own then
          (u.onSlice x.id fun _ => x.marked p.src (p.arg 16)).onSlice x.id fun y => y.atRound (x.round + 1)
        else u.onSlice x.id fun _ => x.marked p.src (p.arg 16)
      else u.onSlice x.id fun _ => x.marked p.src (p.arg 16)) := by
  refine (State.handle_of_take h).trans ?_
  rw [hx]
  by_cases hhere : x.job = 2 ∧ x.apex = u.own
  · refine congrArg _ ((if_pos hhere).trans ((if_pos hhere).trans ?_).symm)
    by_cases hover : (x.marked p.src (p.arg 16)).roundOver u.kiln u.own = true
    · rw [if_pos hover]
      exact (if_pos hover).symm
    · rw [if_neg hover]
      exact (if_neg hover).symm
  · exact congrArg _ ((if_neg hhere).trans ((if_neg hjob).trans (if_neg hhere).symm))
end

/-- Settles O46. -/
theorem slicesFormAndStopWithTheirModules : Obligations.SlicesFormAndStopWithTheirModules := by
  unfold Obligations.SlicesFormAndStopWithTheirModules
  refine ⟨fun s u p htake hkeeps => ?loss, fun s u p htake hkeeps => ?restore, fun c s rs t0 hfirst hover hkeeps hrs => ?window,
    fun s u p x r htake hx hlen hr => ?join, fun s u p x k tag htake hx hapex hactive hasker => ⟨fun hok => ?accepted, fun hno => ?refused⟩,
    fun i s x hx hapex hforming hlate => ?timeout, fun s u p x htake hx hjob => ?mark, fun s u p x htake hx hmember => ?stop,
    fun s u p x htake hx hapex => ?leave⟩
  case loss =>
    obtain rfl := State.takeWhere_eq htake
    exact ⟨_, (State.handle_of_take htake).trans (congrArg _ (if_pos hkeeps)), rfl, (s.without_only p).trans (State.onLat_only _ _)⟩
  case restore =>
    obtain rfl := State.takeWhere_eq htake
    refine ⟨_, (State.handle_of_take htake).trans (congrArg _ (if_pos hkeeps)), fun r hr => ?_, fun h => ?_, fun h => ?_,
      (s.without_only p).trans (State.onLat_only _ _)⟩
    · simpa [lossOf, Classical.or_iff_not_imp_left] using (List.mem_filter.1 hr).2
    · simpa [lossOf] using (List.mem_filter.1 h).2
    · simpa [lossOf] using (List.mem_filter.1 h).2
  case window => exact State.apexLossWindow_judges hfirst hover hkeeps hrs
  case join =>
    obtain hu := State.takeWhere_eq htake
    have honly : Only [.lat] s (u.sliceJoined x r) := by
      rw [hu]
      exact (s.without_only p).trans (State.sliceJoined_only _ _ _)
    refine ⟨_, exec_sliceJoin_of_take htake hlen hx hr, honly, fun hno => ?_, fun hok => ?_⟩
    · rw [State.sliceJoined, if_pos hno, hu]
      rfl
    · rw [hok]
      exact u.sliceJoined_member x
  case accepted =>
    obtain rfl := State.takeWhere_eq htake
    obtain ⟨y, hy, hsrc, hact, honly⟩ := State.accepted_facts _ hx hactive rfl
    refine ⟨_, y, (exec_sliceAck_of_take htake hx hapex hactive hasker).trans (congrArg _ (if_neg (by simpa using hok))), hy, hsrc, hact,
      ((s.without_only p).mono (by decide)).trans honly⟩
  case refused =>
    obtain rfl := State.takeWhere_eq htake
    obtain ⟨hdetects, hasked, hmem⟩ := State.formFailed_facts (s.without p) (State.slice?_id hx) hasker (refusalStatus (p.arg 16))
    exact ⟨_, (exec_sliceAck_of_take htake hx hapex hactive hasker).trans (congrArg _ (if_pos hno)), hdetects.after rfl, hasked, hmem⟩
  case timeout =>
    have hasked : x.asker.isSome = true := by
      rw [Slice.forming, Bool.and_eq_true] at hforming
      exact hforming.1
    obtain ⟨a, ha⟩ := Option.isSome_iff_exists.1 hasked
    obtain ⟨hdetects, hnone, hmem⟩ := s.formFailed_facts (State.slice?_id hx) ha 8
    refine ⟨_, ?_, hdetects, hnone, hmem⟩
    change execSliceFormTimeout i s = _
    rw [execSliceFormTimeout, hx]
    exact State.when_true _ _ (by simp [hapex, hforming, hlate])
  case mark =>
    have hid := State.slice?_id hx
    have hentered : (u.onSlice x.id fun _ => x.marked p.src (p.arg 16)).slice? x.id = some (x.marked p.src (p.arg 16)) := by
      rw [State.onSlice_slice? _ _ _ (by exact fun _ _ => rfl), hid, hx]
      rfl
    have honly : Only [.lat] s (u.onSlice x.id fun _ => x.marked p.src (p.arg 16)) := by
      rw [State.takeWhere_eq htake]
      exact (s.without_only p).trans (State.onSlice_only _ _ _)
    have hplan : u.plan = s.plan := by rw [State.takeWhere_eq htake]; rfl
    have hkiln : u.kiln = s.kiln := by rw [State.kiln, State.kiln, hplan]
    have hown : u.own = s.own := by rw [State.own, State.own, hkiln]
    have hexec := exec_sliceMark_of_take htake hx hjob
    rw [hown, hkiln] at hexec
    rw [← hid]
    by_cases hover : (x.job = 2 ∧ x.apex = s.own) ∧ (x.marked p.src (p.arg 16)).roundOver s.kiln s.own = true
    · obtain ⟨hhere, hlast⟩ := hover
      rw [if_pos hhere, if_pos hlast] at hexec
      refine ⟨_, (x.marked p.src (p.arg 16)).atRound (x.round + 1), hexec, ?_, honly.trans (State.onSlice_only _ _ _), fun _ _ _ => ⟨rfl, rfl⟩, ?_⟩
      · rw [State.onSlice_slice? _ _ _ (by exact fun _ h => h), hentered]
        rfl
      · rintro (h3 | hfar)
        · exact absurd (hhere.1.symm.trans h3) (by decide)
        · exact absurd hhere.2 hfar
    · have hstays : exec .sliceMark s = .next (u.onSlice x.id fun _ => x.marked p.src (p.arg 16)) := by
        rw [hexec]
        by_cases hhere : x.job = 2 ∧ x.apex = s.own
        · rw [if_pos hhere, if_neg fun hlast => hover ⟨hhere, hlast⟩]
        · rw [if_neg hhere]
      refine ⟨_, _, hstays, hentered, honly, fun h2 hat hall => absurd ⟨⟨h2, hat⟩, Slice.marked_roundOver hall⟩ hover, fun _ => ⟨rfl, ?_⟩⟩
      simp [Slice.marked]
  case stop =>
    have hrecord : Only [.flog] (u.dropSlice x.id) ((u.dropSlice x.id).kilnFault 0xD6 x.sgr 0) := State.kilnFault_only _ _ _ (by decide)
    have hlat : ((u.dropSlice x.id).kilnFault 0xD6 x.sgr 0).lat = (u.dropSlice x.id).lat := hrecord .lat (by decide)
    have hcodes := (State.detects_kilnFault (u.dropSlice x.id) 0xD6 x.sgr 0).1
    refine ⟨(u.dropSlice x.id).kilnFault 0xD6 x.sgr 0, (State.handle_of_take htake).trans ?_, fun y hy => ?_, ?_⟩
    · rw [hx]
      exact congrArg _ (if_pos hmember)
    · rw [hlat] at hy
      simpa using (List.mem_filter.1 hy).2
    · rw [← List.getLast?_map, hcodes, List.getLast?_concat]
      rfl
  case leave =>
    obtain rfl := State.takeWhere_eq htake
    have hstops := State.stopSlice_stops (s.without p) x (some p.src) p.src (BitVec.ofNat 16 (p.arg 20))
    refine ⟨_, (State.handle_of_take htake).trans ?_, hstops.mem_eq, hstops.flog_eq, fun hm => State.stopSlice_of_not_member hm _ _ _ _,
      fun hm => State.stopSlice_of_member hm _ _ _ _⟩
    rw [hx]
    exact congrArg _ (if_pos hapex)

end Sys2Proof.Machine

namespace Sys2Proof.Machine

/-! # Sessions, the checks that all commands share, and reports (O53) -/

/-! ## Handshakes and refusals (R418) -/

theorem State.addrRefused_congr {s t : State} (hmgmt : t.mgmt.refused = s.mgmt.refused) (htb : t.refNow = s.refNow) (a : BitVec 128) :
    t.addrRefused a = s.addrRefused a := by
  rw [State.addrRefused, State.addrRefused, hmgmt, htb]

theorem handshake_logOnly : FaultRec.LogOnly { code := faultCode 1 0xF 0xF3 } := .inr (show codeClass (faultCode 1 0xF 0xF3) ≠ 3 by decide)

/-- What a failed handshake changes before its record. -/
theorem State.handshakeFails_eq (s : State) (a : BitVec 128) : ∃ u f l, u = (s.onMgmt fun m => { m with failures := f, refused := l }) ∧
    s.handshakeFails a = (u.bump .mgtAuthFail 0 1).raiseLimited msNs 0 { code := faultCode 1 0xF 0xF3 } ∧
    l = if 7 ≤ (s.mgmt.failures.filter fun x => s.refNow < x.2 + minuteNs && x.1 == a).length
      then (s.mgmt.refused.filter (·.1 != a)) ++ [(a, s.refNow)] else s.mgmt.refused := by
  refine ⟨_, _, _, rfl, rfl, ?_⟩
  have hcount : (((s.mgmt.failures.filter fun f => s.refNow < f.2 + minuteNs) ++ [(a, s.refNow)]).filter (·.1 == a)).length =
      (s.mgmt.failures.filter fun x => s.refNow < x.2 + minuteNs && x.1 == a).length + 1 := by
    simp [List.filter_filter, Bool.and_comm]
  simp only [hcount]
  exact if_congr (by omega) rfl rfl

theorem State.handshakeFails_facts (s : State) {a : BitVec 128} (ha : s.addrRefused a = false) :
    Others State.session [] s (s.handshakeFails a) ∧ Only [.mgmt, .regs, .flog] s (s.handshakeFails a) ∧
      (s.handshakeFails a).reg .mgtAuthFail 0 = min (s.reg .mgtAuthFail 0 + 1) (2 ^ 32 - 1) ∧
      ((s.handshakeFails a).addrRefused a = true ↔
        7 ≤ (s.mgmt.failures.filter fun f => s.refNow < f.2 + minuteNs && f.1 == a).length) := by
  obtain ⟨u, f, l, rfl, heq, hl⟩ := s.handshakeFails_eq a
  rw [heq]
  have hrecord := ((s.onMgmt fun m => { m with failures := f, refused := l }).bump .mgtAuthFail 0 1).raiseLimited_only_flog msNs 0
    handshake_logOnly
  have hmgmt := hrecord .mgmt (by decide)
  refine ⟨fun k _ => (congrArg (fun m : Mgmt => tget ({} : Session) m.sessions k) hmgmt :), ?_, ?_, ?_⟩
  · exact ((s.onMgmt_only_mgmt _).mono (by decide)).trans (((State.bump_only_regs _ _ _ _).mono (by decide)).trans (hrecord.mono (by decide)))
  · rw [hrecord.reg_eq _ _ (by decide), State.reg_bump_same]
    rfl
  · rw [State.addrRefused_congr (congrArg Mgmt.refused hmgmt) (congrArg Timebase.ref (hrecord .tb (by decide)))]
    change ((l.any fun r => r.1 == a && s.refNow < r.2 + minuteNs) = true) ↔ _
    rw [hl]
    split
    next hmany =>
      have hrefused : (((s.mgmt.refused.filter (·.1 != a)) ++ [(a, s.refNow)]).any fun r => r.1 == a && s.refNow < r.2 + minuteNs) = true := by
        simp [minuteNs]
      exact ⟨fun _ => hmany, fun _ => hrefused⟩
    next hfew => exact ⟨fun h => absurd (ha.symm.trans h) (by decide), fun h => absurd h hfew⟩

/-! ## The checks that all commands share (R419 to R421, R457) -/

/-- DENIED is the answer of the first check, and of it alone. -/
theorem State.mgmtGate_denied {r : MgmtRule} {m : MgmtArgs} {s : State} {st : Nat} (h : s.mgmtGate r m = some st) :
    st = 1 ↔ (s.session m.sess.val).roles.getLsbD r.role = false := by
  unfold State.mgmtGate at h
  split at h
  next hrole =>
    cases h
    simpa [stDenied] using hrole
  next hrole =>
    have hhas : (s.session m.sess.val).roles.getLsbD r.role = true := by simpa using hrole
    have hne : st ≠ 1 := by
      split at h
      · cases h; decide
      · split at h
        · cases h; decide
        · split at h <;> cases h
          decide
    simp [hne, hhas]

/-- A command that a shared check ends is counted and answered, and does nothing else. -/
theorem State.runMgmt_of_gate {r : MgmtRule} {m : MgmtArgs} {s : State} {st : Nat} (hopen : (s.session m.sess.val).open_ = true)
    (hgate : s.mgmtGate r m = some st) (f : State → State) : s.runMgmt r m f = .next ((s.bump .mgtCmds 0 1).answer r m st []) := by
  simp [State.runMgmt, State.when, hopen, hgate]

theorem State.runMgmt_of_closed {r : MgmtRule} {m : MgmtArgs} {s : State} (hclosed : (s.session m.sess.val).open_ = false) (f : State → State) :
    s.runMgmt r m f = .next s := State.when_false _ _ hclosed

theorem State.answer_reg {r : MgmtRule} {m : MgmtArgs} {s : State} {st : Nat} {bs : List Byte} (q : Reg) (u : Nat)
    (hopen : (s.session m.sess.val).open_ = true) :
    (s.answer r m st bs).reg q u = (s.bump .mgtDenied 0 (if st = 1 then 1 else 0)).reg q u := by
  rw [State.answer, State.mgmtAnswer_eq hopen]
  rfl

/-- Each of the 22 commands runs through the shared checks. -/
theorem exec_mgmt_eq_runMgmt {m : MgmtArgs} {env : BistEnv} {r : MgmtRule} {c : Instr} {s : State}
    (h : (r, c) ∈ [(⟨0x01, 0, .device, false⟩, Instr.getCert m), (⟨0x02, 0, .device, false⟩, .attest m), (⟨0x10, 0, .device, false⟩, .csrRead m),
      (⟨0x11, 1, .device, false⟩, .csrWrite m), (⟨0x12, 0, .sagger, false⟩, .stepRead m), (⟨0x13, 0, .device, false⟩, .faultRead m),
      (⟨0x20, 1, .sagger, false⟩, .budget m), (⟨0x21, 1, .sagger, true⟩, .saggerReset m), (⟨0x22, 1, .sagger, true⟩, .saggerClear m),
      (⟨0x30, 2, .device, false⟩, .imageWrite m), (⟨0x31, 2, .device, false⟩, .imageCommit m), (⟨0x32, 2, .device, false⟩, .imageErase m),
      (⟨0x33, 1, .sagger, true⟩, .imageLoad m), (⟨0x34, 1, .sagger, false⟩, .imageRemove m), (⟨0x40, 2, .device, false⟩, .fwBegin m),
      (⟨0x41, 2, .device, false⟩, .fwData m), (⟨0x42, 2, .device, false⟩, .fwCommit m), (⟨0x43, 2, .device, false⟩, .fwAbort m),
      (⟨0x50, 1, .device, true⟩, .sliceForm m), (⟨0x51, 1, .device, false⟩, .sliceDissolve m), (⟨0x52, 1, .sagger, true⟩, .migrate m),
      (⟨0x60, 1, .device, false⟩, .shutdown m env)]) : ∃ f, exec c s = s.runMgmt r m f := by
  simp only [List.mem_cons, List.not_mem_nil, or_false, Prod.mk.injEq] at h
  rcases h with ⟨rfl, rfl⟩ | ⟨rfl, rfl⟩ | ⟨rfl, rfl⟩ | ⟨rfl, rfl⟩ | ⟨rfl, rfl⟩ | ⟨rfl, rfl⟩ | ⟨rfl, rfl⟩ | ⟨rfl, rfl⟩ | ⟨rfl, rfl⟩ |
    ⟨rfl, rfl⟩ | ⟨rfl, rfl⟩ | ⟨rfl, rfl⟩ | ⟨rfl, rfl⟩ | ⟨rfl, rfl⟩ | ⟨rfl, rfl⟩ | ⟨rfl, rfl⟩ | ⟨rfl, rfl⟩ | ⟨rfl, rfl⟩ | ⟨rfl, rfl⟩ |
    ⟨rfl, rfl⟩ | ⟨rfl, rfl⟩ | ⟨rfl, rfl⟩ <;>
    simp only [exec, execGetCert, execAttest, execCsrRead, execCsrWrite, execStepRead, execFaultRead, execBudget, execSaggerReset,
      execSaggerClear, execImageWrite, execImageCommit, execImageErase, execImageLoad, execImageRemove, execFwBegin, execFwData,
      execFwCommit, execFwAbort, execSliceForm, execSliceDissolve, execMigrate, execShutdown] <;>
    exact ⟨_, rfl⟩

/-! ## Reports (R425, R426) -/

/-- Saggers that a report finds unsettled: none in bisque mode. -/
def State.lateSaggers (s : State) (mask : BitVec 12) : List Nat := if s.boot.bisque then [] else (s.maskSaggers mask).filter s.unsettled

/-- 0xF5 is detected for each of them. -/
def State.lateFaults (s : State) (l : List Nat) : State := l.foldl (fun s g => s.fault 1 0xF 0xF5 g 0 0) s

theorem State.lateFaults_facts (s : State) (l : List Nat) : Only [.flog] s (s.lateFaults l) ∧
    (s.lateFaults l).flog.detected.map (·.code) = s.flog.detected.map (·.code) ++ l.map fun _ => 0x1FF5#16 := by
  induction l generalizing s with
  | nil => exact ⟨.refl _ _, (List.append_nil _).symm⟩
  | cons g l ih =>
    obtain ⟨honly, hcodes⟩ := ih (s.fault 1 0xF 0xF5 g 0 0)
    refine ⟨(s.fault_only_flog g 0 0 (by decide)).trans honly, hcodes.trans ?_⟩
    rw [(s.detects_fault 1 0xF 0xF5 g 0 0).1, List.append_assoc]
    rfl

/-- A report that a session asked for. -/
theorem State.sendReport_of_session {s : State} {a : AttestWait} {k : Nat} (hsess : a.sess = some k) (hopen : (s.session k).open_ = true) :
    s.sendReport a = (((s.lateFaults (s.lateSaggers a.mask)).bump .secAttest 0 1).bump .mgtDenied 0 0).onSession k fun x =>
      { x with resp := x.resp ++ [⟨0x8002, a.tag, 0, s.report a.nonce a.mask⟩] } := by
  have hmgmt : (s.lateFaults (s.lateSaggers a.mask)).mgmt = s.mgmt := (s.lateFaults_facts _).1 .mgmt (by decide)
  have hopen' : (((s.lateFaults (s.lateSaggers a.mask)).bump .secAttest 0 1).session k).open_ = true := by
    rw [State.bump_session, State.session, hmgmt]
    exact hopen
  unfold State.sendReport
  rw [hsess]
  exact State.mgmtAnswer_eq hopen' 0x02 a.tag 0 _

/-- What a report to an open session changes. -/
theorem State.sendReport_facts {s : State} {a : AttestWait} {k : Nat} (hsess : a.sess = some k) (hopen : (s.session k).open_ = true) :
    ((s.sendReport a).session k).resp = (s.session k).resp ++ [⟨0x8002, a.tag, 0, s.report a.nonce a.mask⟩] ∧
      Others State.session [k] s (s.sendReport a) ∧ (s.sendReport a).mgmt.attests = s.mgmt.attests ∧
      (s.sendReport a).flog = (s.lateFaults (s.lateSaggers a.mask)).flog ∧
      (s.sendReport a).reg .secAttest 0 = min (s.reg .secAttest 0 + 1) (2 ^ 32 - 1) ∧ Only [.mgmt, .regs, .flog] s (s.sendReport a) := by
  have honly := (s.lateFaults_facts (s.lateSaggers a.mask)).1
  have hmgmt : (s.lateFaults (s.lateSaggers a.mask)).mgmt = s.mgmt := honly .mgmt (by decide)
  rw [State.sendReport_of_session hsess hopen]
  refine ⟨?_, .single fun j hj => ?_, ?_, rfl, ?_, ?_⟩
  · rw [State.onSession_session, if_pos rfl, State.bump_session, State.bump_session, State.session, hmgmt]
    rfl
  · rw [State.onSession_session, if_neg hj, State.bump_session, State.bump_session, State.session, hmgmt]
    rfl
  · exact (congrArg Mgmt.attests hmgmt :)
  · rw [State.onSession_reg, State.reg_bump_of_ne, State.reg_bump_same, honly.reg_eq _ _ (by decide)]
    rfl
  · exact (honly.mono (by decide)).trans ((((State.bump_only_regs _ _ _ _).trans (State.bump_only_regs _ _ _ _)).mono (by decide)).trans
      ((State.onSession_only_mgmt _ _ _).mono (by decide)))

theorem exec_getCert_of_admits {m : MgmtArgs} {s : State} (h : Admits ⟨0x01, 0, .device, false⟩ m s) (hpayload : m.payload = []) :
    exec (.getCert m) s = .next (s.counted.answer ⟨0x01, 0, .device, false⟩ m (if s.boot.certOk then 0 else 6)
      (if s.boot.certOk then Config.certChain (mread s.mem.flash 0 (2 ^ 20)) else [])) := by
  show execGetCert m s = _
  unfold execGetCert
  refine State.runMgmt_counted h ?_
  refine (if_neg (not_not_intro hpayload)).trans ?_
  by_cases hok : s.boot.certOk = true
  · have hhas : s.counted.boot.certOk = true := hok
    rw [if_neg (by simp [hhas]), if_pos hok, if_pos hok]
    rfl
  · have hlacks : s.counted.boot.certOk = false := Bool.eq_false_iff.2 hok
    rw [if_pos (by simp [hlacks]), if_neg hok, if_neg hok]
    rfl

/-- The counts of commands are no part of a report. -/
theorem State.counted_report (s : State) (nonce : List Byte) (mask : BitVec 12) : s.counted.report nonce mask = s.report nonce mask := by
  have hdevice : s.counted.deviceEntries = s.deviceEntries := rfl
  have hentries : s.counted.saggerEntries = s.saggerEntries := rfl
  have hmask : s.counted.maskSaggers mask = s.maskSaggers mask := rfl
  have hstaged : s.counted.staged = s.staged := rfl
  have hid : s.counted.moduleId = s.moduleId := State.reg_bump_of_ne ..
  unfold State.report
  rw [hdevice, hentries, hmask, hstaged, hid]
  rfl

section
variable {m : MgmtArgs} {s : State} (h : Admits ⟨0x02, 0, .device, false⟩ m s)
include h

theorem exec_attest_bad (hbad : m.attestBad = true) : exec (.attest m) s = .next (s.counted.answer ⟨0x02, 0, .device, false⟩ m 2 []) := by
  show execAttest m s = _
  unfold execAttest
  exact State.runMgmt_counted h (if_pos hbad)

theorem exec_attest_without_key (hgood : m.attestBad = false) (hkey : s.boot.keyOk = false) :
    exec (.attest m) s = .next (s.counted.answer ⟨0x02, 0, .device, false⟩ m 5 []) := by
  have hlacks : s.counted.boot.keyOk = false := hkey
  show execAttest m s = _
  unfold execAttest
  refine State.runMgmt_counted h ((if_neg (by simp [hgood])).trans ?_)
  exact if_pos (by simp [hlacks])

/-- Once its payload is good and the key is there, ATTEST asks for a report. -/
theorem exec_attest_of_good (hgood : m.attestBad = false) (hkey : s.boot.keyOk = true) {a : AttestWait}
    (ha : a = ⟨m.payload.take 32, BitVec.ofNat 12 (m.field 32 0 12), s.refNow, some m.sess.val, 0, 0, m.tag⟩) :
    exec (.attest m) s = .next (s.counted.askReport a) := by
  have hhas : s.counted.boot.keyOk = true := hkey
  show execAttest m s = _
  unfold execAttest
  refine State.runMgmt_counted h ((if_neg (by simp [hgood])).trans ?_)
  rw [if_neg (by simp [hhas]), ha]
  rfl
end

theorem State.attestReady_of_settled {s : State} {a : AttestWait}
    (h : s.boot.bisque = true ∨ ∀ g ∈ s.maskSaggers a.mask, s.unsettled g = false) : s.attestReady a = true ∧ s.lateSaggers a.mask = [] := by
  unfold State.attestReady State.lateSaggers
  obtain hbisque | hset := h
  · simp [hbisque]
  · have hnone : (s.maskSaggers a.mask).any s.unsettled = false := by simpa using hset
    have hlate : (s.maskSaggers a.mask).filter s.unsettled = [] := List.filter_eq_nil_iff.2 fun g hg => by simp [hset g hg]
    simp [hnone, hlate]

theorem State.attestReady_of_unsettled {s : State} {a : AttestWait} (hbisque : s.boot.bisque = false)
    (h : ∃ g ∈ s.maskSaggers a.mask, s.unsettled g = true) (hsince : a.since = s.refNow) : s.attestReady a = false := by
  have hsome : (s.maskSaggers a.mask).any s.unsettled = true := List.any_eq_true.2 h
  simp [State.attestReady, hbisque, hsome, hsince]

theorem AttestWait.eq_of_fields {a : AttestWait} {nonce : List Byte} {mask : BitVec 12} {since : Nat} {sess : Option Nat} {chan kslot : Nat}
    {tag : BitVec 32} (hnonce : a.nonce = nonce) (hmask : a.mask = mask) (hsince : a.since = since) (hsess : a.sess = sess)
    (hchan : a.chan = chan) (hslot : a.kslot = kslot) (htag : a.tag = tag) : a = ⟨nonce, mask, since, sess, chan, kslot, tag⟩ := by
  subst hnonce hmask hsince hsess hchan hslot htag
  rfl

/-- Where the log has not changed, it need not be named. -/
theorem Only.without_flog {s t : State} (h : Only [.mgmt, .regs, .flog] s t) (hflog : t.flog = s.flog) : Only [.mgmt, .regs] s t := by
  intro p hp
  by_cases hp' : p = .flog
  · exact hp' ▸ hflog
  · exact h p (by simp_all)

/-! ## Closing a session (R477) -/

/-- The session is discarded, its waiting reports end, and what it had asked for is answered to nobody. -/
def State.closeSession (s : State) (k : Nat) : State :=
  (((s.onSession k fun _ => {}).onMgmt fun m => { m with attests := m.attests.filter fun a => a.sess != some k }).onLat
    (fun l => { l with
      slices := l.slices.map fun x => { x with asker := x.asker.map (forgetAsker k) }
      migrations := l.migrations.map fun x => { x with asker := forgetAsker k x.asker }
      loadings := l.loadings.map fun x => { x with asker := forgetAsker k x.asker } })).onBoot fun b =>
        { b with shutBy := b.shutBy.map (forgetAsker k) }

theorem State.closeSession_session (s : State) (k j : Nat) : (s.closeSession k).session j = if j = k then {} else s.session j := by
  rw [State.closeSession, State.onBoot_session, State.onLat_session]
  exact s.onSession_session k (fun _ => {}) j

theorem State.closeSession_only (s : State) (k : Nat) : Only [.mgmt, .lat, .boot] s (s.closeSession k) :=
  ((((s.onSession_only_mgmt _ _).trans (State.onMgmt_only_mgmt _ _)).mono (by decide)).trans ((State.onLat_only _ _).mono (by decide))).trans
    ((State.onBoot_only _ _).mono (by decide))

theorem State.closeSession_attests (s : State) (k : Nat) : (s.closeSession k).mgmt.attests = s.mgmt.attests.filter fun a => a.sess != some k :=
  rfl

theorem List.erase_append_cons_of_not_mem {α : Type} [DecidableEq α] {l r : List α} {a : α} (h : a ∉ l) : (l ++ a :: r).erase a = l ++ r := by
  rw [List.erase_append_right _ h, List.erase_cons_head]

/-- Settles O53. -/
theorem sessionsCheckEveryCommand : Obligations.SessionsCheckEveryCommand := by
  unfold Obligations.SessionsCheckEveryCommand
  refine ⟨fun addr kd s k c hfw haddr hfree hcred => ?opens, fun addr kd ok s hfw haddr hfree hbad => ?fails,
    fun addr kd ok s h => ?refused, fun addr s => ?expire, fun k s hopen => ?closes,
    fun m env s r c hc => ⟨fun hclosed => ?closed, fun st hopen hgate => ?gate⟩, fun m s hadmits hpayload => ?cert,
    fun m s a hadmits => ⟨fun hbad => ?attestBad, fun hgood hkey => ?noKey, fun hgood hkey hmask hsince hnonce hsess hchan hslot htag =>
      ⟨fun hsettled => ?attestNow, fun hbisque hlate => ?attestLater⟩⟩,
    fun s a l r k hattests hl ha hsess hopen => ?snapshot, fun s h => ?noSnapshot⟩
  case opens =>
    refine ⟨s.openSession k addr c.1, (State.when_true _ _ (by simp [hfw, haddr])).trans ?_, by simp [State.openSession], .single fun j hj => ?_,
      s.onSession_only_mgmt _ _⟩
    · simp [hfree, hcred]
    · rw [State.openSession, State.onSession_session, if_neg hj]
  case fails =>
    obtain ⟨k, hk⟩ := Option.ne_none_iff_exists'.1 hfree
    obtain ⟨hothers, honly, hcount, hrefused⟩ := s.handshakeFails_facts haddr
    refine ⟨_, (State.when_true _ _ (by simp [hfw, haddr])).trans (congrArg Host.Outcome.next ?_), hothers, honly, hcount, hrefused⟩
    rw [hk]
    dsimp only
    split
    next c hcred =>
      have hno : ok = false := hbad.resolve_left (by simp [hcred])
      simp [hno]
    next => rfl
  case refused =>
    change execMgmtHandshake addr kd ok s = _
    rw [execMgmtHandshake]
    obtain haddr | hfree := h
    · exact State.when_false _ _ (by simp [haddr])
    · rw [hfree, State.when]
      split <;> rfl
  case expire =>
    refine ⟨_, rfl, s.onMgmt_only_mgmt _, fun _ _ => rfl, fun r => ?_⟩
    change r ∈ s.mgmt.refused.filter _ ↔ _
    simp only [List.mem_filter, Bool.not_eq_true', Bool.and_eq_false_iff, beq_eq_false_iff_ne, decide_eq_false_iff_not, not_and_or]
  case closes =>
    have hexec : exec (.mgmtSessionClose k) s = .next (s.closeSession k.val) := State.when_true _ _ hopen
    refine ⟨_, hexec, by rw [State.closeSession_session, if_pos rfl], .single fun j hj => by rw [State.closeSession_session, if_neg hj],
      s.closeSession_only _, fun a ha => ?_⟩
    rw [State.closeSession_attests] at ha
    obtain ⟨hmem, hother⟩ := List.mem_filter.1 ha
    exact ⟨hmem, by simpa using hother⟩
  case closed =>
    obtain ⟨f, hf⟩ := exec_mgmt_eq_runMgmt hc
    exact hf.trans (State.runMgmt_of_closed hclosed f)
  case gate =>
    obtain ⟨f, hf⟩ := exec_mgmt_eq_runMgmt (s := s) hc
    obtain ⟨hans, honly, hcounts, -⟩ := (s.bump_mgtCmds_quiet m.sess.val 1).answer hopen r st []
    have hreg (q : Reg) := State.answer_reg (s := s.bump .mgtCmds 0 1) (r := r) (m := m) (st := st) (bs := []) q 0 hopen
    refine ⟨_, hf.trans (State.runMgmt_of_gate hopen hgate f), hans, honly, hcounts, ?_, fun hst => ?_, State.mgmtGate_denied hgate⟩
    · rw [hreg, State.reg_bump_of_ne, State.reg_bump_same]
      rfl
    · rw [hreg, hst, State.reg_bump_same, State.reg_bump_of_ne]
      rfl
  case cert =>
    have hexec := exec_getCert_of_admits hadmits hpayload
    obtain ⟨hans, honly, hcounts, -⟩ := (s.bump_mgtCmds_quiet m.sess.val 1).answer hadmits.1 ⟨0x01, 0, .device, false⟩
      (if s.boot.certOk then 0 else 6) (if s.boot.certOk then Config.certChain (mread s.mem.flash 0 (2 ^ 20)) else [])
    refine ⟨_, hexec, honly, hcounts, fun hok => ?_, fun hno => ?_⟩
    · rw [if_pos hok, if_pos hok] at hans ⊢
      exact hans
    · rw [if_neg (by simp [hno]), if_neg (by simp [hno])] at hans ⊢
      exact hans
  case attestBad => exact answers_of_refused hadmits (exec_attest_bad hadmits hbad)
  case noKey => exact answers_of_refused hadmits (exec_attest_without_key hadmits hgood hkey)
  case attestNow =>
    have hasked := AttestWait.eq_of_fields hnonce hmask hsince hsess hchan hslot htag
    obtain ⟨hready, hlate⟩ := State.attestReady_of_settled (s := s.counted) (a := a) hsettled
    obtain ⟨hresp, hothers, -, hflog, hcount, honly⟩ := State.sendReport_facts (s := s.counted) hsess hadmits.1
    rw [State.counted_report, hnonce, htag] at hresp
    rw [hlate] at hflog
    rw [State.counted, State.reg_bump_of_ne] at hcount
    refine ⟨_, (exec_attest_of_good hadmits hgood hkey hasked).trans (congrArg _ (if_pos hready)), ⟨hresp, hothers⟩, ?_, hcount⟩
    exact (s.bump_only _ _ _).trans (honly.without_flog hflog)
  case attestLater =>
    have hasked := AttestWait.eq_of_fields hnonce hmask hsince hsess hchan hslot htag
    have hwaits : s.counted.attestReady a = false := State.attestReady_of_unsettled hbisque hlate hsince
    exact ⟨_, (exec_attest_of_good hadmits hgood hkey hasked).trans (congrArg _ (if_neg (Bool.eq_false_iff.1 hwaits))), rfl, fun _ _ => rfl,
      (s.bump_only _ _ _).trans ((State.onMgmt_only_mgmt _ _).mono (by decide)), s.bump_regsOnly _ (by simp)⟩
  case snapshot =>
    have hnot : a ∉ l := fun hmem => absurd ((hl a hmem).symm.trans ha) (by decide)
    have hfind : s.mgmt.attests.find? s.attestReady = some a := by
      rw [hattests, List.find?_append, List.find?_eq_none.2 (by simpa using hl)]
      simp [ha]
    obtain ⟨u, hu⟩ : ∃ u, u = s.onMgmt fun m => { m with attests := m.attests.erase a } := ⟨_, rfl⟩
    have hexec : exec .attestSnapshot s = .next (u.sendReport a) := by
      change execAttestSnapshot s = _
      rw [execAttestSnapshot, hfind, hu]
    have hrest : u.mgmt.attests = l ++ r := by
      rw [hu]
      change s.mgmt.attests.erase a = _
      rw [hattests, List.erase_append_cons_of_not_mem hnot]
    have hsame : u.session = s.session := by rw [hu]; rfl
    have hlate : u.lateSaggers a.mask = s.lateSaggers a.mask := by rw [hu]; rfl
    have hreport : u.report a.nonce a.mask = s.report a.nonce a.mask := by rw [hu]; rfl
    have hlog : u.flog = s.flog := by rw [hu]; rfl
    have honly : Only [.mgmt] s u := by rw [hu]; exact s.onMgmt_only_mgmt _
    obtain ⟨hresp, hothers, hattests', hflog, -, hsends⟩ := State.sendReport_facts (s := u) hsess (by rw [hsame]; exact hopen)
    refine ⟨_, hexec, hattests'.trans hrest, ?_, ?_, ?_, (honly.mono (by decide)).trans hsends⟩
    · intro j hj
      rw [hothers j hj, hsame]
    · rw [hresp, hsame, hreport]
    · rw [hflog, (u.lateFaults_facts _).2, hlate, hlog]
      rfl
  case noSnapshot =>
    change execAttestSnapshot s = _
    rw [execAttestSnapshot, List.find?_eq_none.2 (by simpa using h)]
end Sys2Proof.Machine

namespace Sys2Proof.Machine

/-! # What the work of the saggers leaves behind (O42, O51, O58, O60)

A sagger that is reset, cleared or goes DOWN runs the whole fire point, ends requests and leaves slices.  `Works` says what all
that work keeps: no detected record is forgotten, the registers that only other commands write stand, and of each sagger its
images and its history of resets and probes; a sagger in DOWN stays there, and one without a step under way begins none.  The pair stays
formed and the sessions open. -/

/-- Registers that the work of saggers never writes. -/
def otherRegs : List Reg := [.tlyDlCount, .lutStops, .sgrResets, .sgrAccCtl, .shlRxBytes, .shlChAuthfail, .conLast, .conMeas, .conReplans]

/-- What of a sagger its work does not change: images, history of resets and probes, and whether it is in DOWN. -/
def Sagger.lasting (x : Sagger) : List LoadedImage × List Nat × Option Nat × Nat × Bool × Bool :=
  (x.images, x.resetTimes, x.probeLost, x.probeExpiries, x.stayDown, x.st == .down)

/-- The sagger has no step under way and none to commit. -/
def Sagger.Idle (x : Sagger) : Prop := x.phase = .none ∧ x.commit = none

/-- What of a sagger stands until its step begins or ends. -/
def Sagger.steady (x : Sagger) : (List LoadedImage × List Nat × Option Nat × Nat × Bool × Bool) × StepPhase × Option Commit :=
  (x.lasting, x.phase, x.commit)

/-- From `s` to `t` saggers have done work; `b` says that it wrote no slab. -/
structure Works (b : Bool) (s t : State) : Prop where
  logs    : Logs s t
  regs    : ∀ r ∈ otherRegs, ∀ u, t.reg r u = s.reg r u
  saggers : ∀ g, (t.sagger g).lasting = (s.sagger g).lasting
  idle    : ∀ g, (s.sagger g).Idle → (t.sagger g).Idle
  wheels  : ∀ w, (t.wheel w).failed = (s.wheel w).failed
  slab    : b = true → t.mem.slab = s.mem.slab
  opens   : ∀ k, (t.session k).open_ = (s.session k).open_
  paired  : t.lute.paired = s.lute.paired

theorem State.raise_lasting (s : State) (r : FaultRec) (g : Nat) : ((s.raise r).sagger g).lasting = (s.sagger g).lasting := by
  unfold State.raise State.contain State.startReset
  dsimp only
  split
  · split
    next hserving =>
      rw [State.onSagger_sagger]
      split
      next h =>
        subst h
        have hst : (s.sagger (s.stamp r).sagger.toNat).st = .serving := hserving.2
        simp [Sagger.lasting, hst]
      next => rfl
    next => rfl
  · rfl
  · rfl

theorem WheelFrame.failed_eq {ps : List Field} {gs : List Nat} {s t : State} (h : WheelFrame ps [] gs s t) (w : Nat) :
    (t.wheel w).failed = (s.wheel w).failed := congrArg Wheel.failed (h.wheel_eq w)

theorem WheelFrame.open_eq {ps : List Field} {ws gs : List Nat} {s t : State} (h : WheelFrame ps ws gs s t) (k : Nat)
    (hp : .mgmt ∉ ps) : (t.session k).open_ = (s.session k).open_ :=
  congrArg (fun m : Mgmt => (tget ({} : Session) m.sessions k).open_) (h.only .mgmt hp)

theorem State.raise_paired (s : State) (r : FaultRec) : (s.raise r).lute.paired = s.lute.paired := by
  unfold State.raise State.contain State.startReset
  dsimp only
  split
  · split <;> rfl
  · rfl
  · rfl

namespace Works

variable {b : Bool} {g : Nat} {s t u : State}

theorem refl : Works b s s := ⟨.refl s, fun _ _ _ => rfl, fun _ => rfl, fun _ h => h, fun _ => rfl, fun _ => rfl, fun _ => rfl, rfl⟩

theorem trans (h : Works b s t) (h' : Works b t u) : Works b s u :=
  ⟨h.logs.trans h'.logs, fun r hr u => (h'.regs r hr u).trans (h.regs r hr u), fun g => (h'.saggers g).trans (h.saggers g),
    fun g hg => h'.idle g (h.idle g hg), fun w => (h'.wheels w).trans (h.wheels w), fun hb => (h'.slab hb).trans (h.slab hb),
    fun k => (h'.opens k).trans (h.opens k), h'.paired.trans h.paired⟩

theorem ite {c : Prop} [Decidable c] (ht : Works b s t) (hu : Works b s u) : Works b s (if c then t else u) := by
  split
  · exact ht
  · exact hu

theorem foldl {α : Type} {f : State → α → State} (hf : ∀ u x, Works b s u → Works b s (f u x)) (xs : List α) (h : Works b s t) :
    Works b s (xs.foldl f t) := List.foldlRecOn xs f h fun u hu x _ => hf u x hu

/-! ## Changes of one part of the state -/

theorem onSagger {f : Sagger → Sagger} (h : Works b s t) (hf : ∀ x, (f x).lasting = x.lasting)
    (hi : ∀ x, x.Idle → (f x).Idle) : Works b s (t.onSagger g f) := by
  refine h.trans ⟨.refl t, fun _ _ _ => rfl, fun k => ?_, fun k hk => ?_, fun _ => rfl, fun _ => rfl, fun _ => rfl, rfl⟩
  · rw [State.onSagger_sagger]
    split
    next hkg => rw [hf, hkg]
    next => rfl
  · rw [State.onSagger_sagger]
    split
    next hkg => exact hi _ (hkg ▸ hk)
    next => exact hk

theorem onTables {f : Sagger → Sagger} (h : Works b s t) (hf : ∀ x, (f x).steady = x.steady) : Works b s (t.onSagger g f) :=
  h.onSagger (fun x => congrArg (·.1) (hf x)) fun x ⟨hphase, hcommit⟩ =>
    ⟨(congrArg (·.2.1) (hf x)).trans hphase, (congrArg (·.2.2) (hf x)).trans hcommit⟩

theorem onWheel {w : Nat} {f : Wheel → Wheel} (h : Works b s t) (hf : ∀ x, (f x).failed = x.failed) :
    Works b s (t.onWheel w f) := by
  refine h.trans ⟨.refl t, fun _ _ _ => rfl, fun _ => rfl, fun _ h => h, fun k => ?_, fun _ => rfl, fun _ => rfl, rfl⟩
  rw [State.onWheel_wheel]
  split
  next hkw => rw [hf, hkw]
  next => rfl

theorem bump {r : Reg} {k n : Nat} (h : Works b s t) (hr : r ∉ otherRegs) : Works b s (t.bump r k n) := by
  refine h.trans ⟨.refl t, fun r' hr' u => ?_, fun _ => rfl, fun _ h => h, fun _ => rfl, fun _ => rfl, fun _ => rfl, rfl⟩
  exact State.reg_bump_of_ne _ _ _ _ fun he => hr (he ▸ hr')

theorem raise {r : FaultRec} (h : Works b s t) : Works b s (t.raise r) := by
  have hframe : WheelFrame [.saggers, .flog, .lute] [] [r.sagger.toNat] t (t.raise r) := WheelFrame.refl.raise
  refine h.trans ⟨t.raise_logs r, fun r' _ u => hframe.reg_eq r' u, t.raise_lasting r, fun k hk => ?_, hframe.failed_eq, fun _ => ?_,
    fun k => hframe.open_eq k (by decide), t.raise_paired r⟩
  · obtain ⟨st, cause, hx⟩ := t.raise_sagger r k
    rw [hx]
    exact hk
  · rw [hframe.mem_eq]

theorem fault {cls block detail k unit sub : Nat} (h : Works b s t) : Works b s (t.fault cls block detail k unit sub) := h.raise

theorem onLat {f : Lattice → Lattice} (h : Works b s t) : Works b s (t.onLat f) := ⟨h.logs, h.regs, h.saggers, h.idle, h.wheels, h.slab, h.opens, h.paired⟩
theorem onGlaze {d : Nat} {f : Glaze → Glaze} (h : Works b s t) : Works b s (t.onGlaze d f) :=
  ⟨h.logs, h.regs, h.saggers, h.idle, h.wheels, h.slab, h.opens, h.paired⟩
theorem onWare {d : Nat} {f : Ware → Ware} (h : Works b s t) : Works b s (t.onWare d f) :=
  ⟨h.logs, h.regs, h.saggers, h.idle, h.wheels, h.slab, h.opens, h.paired⟩
theorem onLdu {l : Nat} {f : Ldu → Ldu} (h : Works b s t) : Works b s (t.onLdu l f) :=
  ⟨h.logs, h.regs, h.saggers, h.idle, h.wheels, h.slab, h.opens, h.paired⟩
theorem onSsu {d : Nat} {f : Ssu → Ssu} (h : Works b s t) : Works b s (t.onSsu d f) :=
  ⟨h.logs, h.regs, h.saggers, h.idle, h.wheels, h.slab, h.opens, h.paired⟩
theorem onStack {k : Nat} {f : Stack → Stack} (h : Works b s t) : Works b s (t.onStack k f) :=
  ⟨h.logs, h.regs, h.saggers, h.idle, h.wheels, h.slab, h.opens, h.paired⟩
theorem onChan {c : Nat} {f : Chan → Chan} (h : Works b s t) : Works b s (t.onChan c f) :=
  ⟨h.logs, h.regs, h.saggers, h.idle, h.wheels, h.slab, h.opens, h.paired⟩
theorem onLute {f : Lute → Lute} (h : Works b s t) (hf : (f t.lute).paired = t.lute.paired) : Works b s (t.onLute f) :=
  ⟨h.logs, h.regs, h.saggers, h.idle, h.wheels, h.slab, h.opens, hf.trans h.paired⟩
theorem onSession {k : Nat} {f : Session → Session} (h : Works b s t) (hf : ∀ x, (f x).open_ = x.open_) : Works b s (t.onSession k f) := by
  refine ⟨h.logs, h.regs, h.saggers, h.idle, h.wheels, h.slab, fun j => ?_, h.paired⟩
  rw [State.onSession_session]
  split
  next hjk => rw [hf, ← h.opens, hjk]
  next => exact h.opens j
theorem withSwaps {l : List SwapReq} (h : Works b s t) : Works b s { t with swaps := l } :=
  ⟨h.logs, h.regs, h.saggers, h.idle, h.wheels, h.slab, h.opens, h.paired⟩
theorem withFreeCtr {n : Nat} (h : Works b s t) : Works b s { t with freeCtr := n } :=
  ⟨h.logs, h.regs, h.saggers, h.idle, h.wheels, h.slab, h.opens, h.paired⟩
theorem withMem {m : Memories} (h : Works b s t) (hm : m.slab = t.mem.slab) : Works b s { t with mem := m } :=
  ⟨h.logs, h.regs, h.saggers, h.idle, h.wheels, fun hb => hm.trans (h.slab hb), h.opens, h.paired⟩
theorem putSlab {a : Nat} {bs : List Byte} (h : Works false s t) : Works false s (t.putSlab a bs) :=
  ⟨h.logs, h.regs, h.saggers, h.idle, h.wheels, (fun hb => nomatch hb), h.opens, h.paired⟩
theorem toSlab (h : Works b s t) : Works false s t := ⟨h.logs, h.regs, h.saggers, h.idle, h.wheels, (fun hb => nomatch hb), h.opens, h.paired⟩

theorem of_sends (h : Sends t u) (hw : Works b s t) : Works b s u := by
  refine hw.trans ⟨.of_flog_eq h.frame.flog_eq, fun r hr k => h.reg r k ?_, fun k => ?_, fun k hk => ?_, h.frame.failed_eq, fun _ => ?_,
    fun k => h.frame.open_eq k (by decide), congrArg Lute.paired (h.frame.only .lute (by decide))⟩
  · revert r
    decide
  · rw [h.frame.saggers k List.not_mem_nil]
  · rw [h.frame.saggers k List.not_mem_nil]
    exact hk
  · rw [h.frame.mem_eq]

theorem sendPacket {p : Packet} (h : Works b s t) : Works b s (t.sendPacket p) := h.of_sends (t.sendPacket_sends p)

theorem putHbm {a : Nat} {bs : List Byte} (h : Works b s t) : Works b s (t.putHbm a bs) := h.withMem rfl
theorem putHbmNum {a n v : Nat} (h : Works b s t) : Works b s (t.putHbmNum a n v) := h.withMem rfl
theorem zeroHbm {a n : Nat} (h : Works b s t) : Works b s (t.zeroHbm a n) := h.withMem rfl
theorem putSeq {slot off lo w v : Nat} (h : Works b s t) : Works b s (t.putSeq g slot off lo w v) := h.withMem rfl
theorem putPte {slot layer page : Nat} {e : Pte} (h : Works b s t) : Works b s (t.putPte g slot layer page e) := h.withMem rfl
theorem putNode {n off lo w v : Nat} (h : Works b s t) : Works b s (t.putNode g n off lo w v) := h.withMem rfl
theorem setFrame {f : Nat} {st : FrameState} (h : Works b s t) : Works b s (t.setFrame g f st) := h.onTables (by exact fun _ => rfl)
theorem onReq {q : Req} {f : Req → Req} (h : Works b s t) : Works b s (t.onReq g q f) := h.onTables (by exact fun _ => rfl)
theorem touch (h : Works b s t) : Works b s (t.touch g) := h.onTables (by exact fun _ => rfl)

/-! ## Frames and nodes of the tree (R184, R202 to R205) -/

theorem dropFrame {f : Nat} (h : Works b s t) : Works b s (t.dropFrame g f) := by
  unfold State.dropFrame
  split
  · exact h
  · exact h
  · exact h
  · exact h.setFrame.onStack

theorem unlinkFrom {next : State → Nat → Nat} {put : State → Nat → Nat → State} {n : Nat}
    (hput : ∀ u a v, Works b s u → Works b s (put u a v)) (l : List Nat) (h : Works b s t) :
    Works b s (unlinkFrom next put n l t) := by
  fun_induction Machine.unlinkFrom next put n l t with
  | case1 => exact hput _ _ _ h
  | case2 _ _ _ _ _ ih => exact ih h
  | case3 => exact h

theorem unlinkNode {n : Nat} (h : Works b s t) : Works b s (t.unlinkNode g n) := by
  unfold State.unlinkNode
  extract_lets d chain s1 p kids
  have h1 : Works b s s1 := ite h.putHbmNum (unlinkFrom (fun _ _ _ hu => hu.putNode) _ h)
  exact ite h1 (ite h1.putNode (unlinkFrom (fun _ _ _ hu => hu.putNode) _ h1))

theorem freeNode {n : Nat} (h : Works b s t) : Works b s (t.freeNode g n) :=
  (foldl (fun _ _ hu => hu.dropFrame) _ h).putHbm.onTables (by exact fun _ => rfl)

theorem evictNode {n : Nat} (h : Works b s t) : Works b s (t.evictNode g n) := h.unlinkNode.freeNode.bump (by decide)

theorem evictFor {keep : List Nat} {fuel n : Nat} (h : Works b s t) : Works b s (t.evictFor g keep fuel n).2 := by
  induction fuel generalizing t n with
  | zero => exact h
  | succ fuel ih =>
    unfold State.evictFor
    split
    · exact h
    · split
      · exact h
      · exact ih h.evictNode

theorem retireNode {n : Nat} (h : Works b s t) : Works b s (t.retireNode g n) := by
  refine fault (List.foldrRecOn _ _ h fun u hu m _ => ?_)
  exact ite hu.unlinkNode.putNode.freeNode (hu.unlinkNode.putNode.onTables (by exact fun _ => rfl))

theorem unref {n : Nat} (h : Works b s t) : Works b s (t.unref g n) :=
  ite h.fault (ite h.putNode.freeNode h.putNode)

theorem releaseBlocks {slot k : Nat} (h : Works b s t) : Works b s (t.releaseBlocks g slot k) :=
  (foldl (fun _ _ hu => hu.unref) _ h).putSeq.putSeq

theorem takeFrame {u : State} {tenant f : Nat} (h : Works b s t) (he : t.takeFrame g tenant = .ok (f, u)) :
    Works b s u := by
  unfold State.takeFrame at he
  split at he
  · cases he
  · split at he <;> cases he
    exact h.setFrame

theorem takeFrames {u : State} {tenant k : Nat} {fs : List Nat} (h : Works b s t)
    (he : t.takeFrames g tenant k = .ok (fs, u)) : Works b s u := by
  induction k generalizing t u fs with
  | zero => cases he; exact h
  | succ k ih =>
    unfold State.takeFrames at he
    split at he
    · cases he
    · next hone =>
      split at he
      · cases he
      · next hrest =>
        cases he
        exact ih (h.takeFrame hone) hrest

/-! ## Requests and their slots (R183, R202) -/

theorem freeSlot {slot : Nat} (h : Works b s t) : Works b s (t.freeSlot g slot) :=
  have hpages := releaseBlocks (foldl (fun _ _ hu => hu.dropFrame) _ h)
  (foldl (fun _ _ hu => hu.dropFrame) _ hpages).putHbm.onTables (by exact fun _ => rfl)

theorem endReq {q : Req} (h : Works b s t) : Works b s (t.endReq g q) :=
  have hslots := foldl (fun _ _ hu => hu.freeSlot) _ h
  (foldl (fun _ _ hu => hu.dropFrame) _ (foldl (fun _ _ hu => hu.dropFrame) _ hslots)).onTables (by exact fun _ => rfl)

theorem trimPage {slot layer page fired : Nat} (h : Works b s t) : Works b s (t.trimPage g slot layer page fired) :=
  ite h (ite h.dropFrame.putPte h.putPte)

theorem trimSlots {slot fired : Nat} (h : Works b s t) : Works b s (t.trimSlots g slot fired) :=
  foldl (fun _ _ hu => foldl (fun _ _ hv => hv.trimPage) _ hu) _ h

theorem fireSlot {slot fired pos step : Nat} (h : Works b s t) : Works b s (t.fireSlot g slot fired pos step) :=
  h.trimSlots.putSeq.putSeq.putSeq

theorem applySeq {k : Commit} {c : CommitSeq} (h : Works b s t) : Works b s (t.applySeq g k c) := by
  unfold State.applySeq
  split
  · exact h
  · refine onReq ?_
    split
    · exact h.fireSlot
    · split
      · exact h.fireSlot
      · exact h.fireSlot.fireSlot

/-! ## Publishing blocks (R201, R203) -/

theorem nodeRoom {k : Nat} {keep : List Nat} {fuel : Nat} (h : Works b s t) : Works b s (t.nodeRoom g k keep fuel).2 := by
  induction fuel generalizing t with
  | zero => exact h
  | succ fuel ih =>
    unfold State.nodeRoom
    split
    · exact h
    · split
      · exact h
      · exact ih h.evictNode

theorem buildNode {n list scope model parent digest depth refs : Nat} {tokens : List Nat} {entries : List Pte}
    (h : Works b s t) : Works b s (t.buildNode g n list scope model parent digest depth refs tokens entries) :=
  have hbytes := h.putHbm.putHbm.putHbm
  (ite hbytes hbytes.putNode).putHbmNum.onTables (by exact fun _ => rfl)

theorem publishOwn {slot tenant n list scope model parent digest j : Nat} {tokens : List Nat} (h : Works b s t) :
    Works b s (t.publishOwn g slot tenant n list scope model parent digest j tokens) :=
  (foldl (fun _ _ hu => hu.putPte.setFrame) _ h.buildNode).putSeq.putSeq

theorem copySlotTo {slot layer n frame p : Nat} (h : Works b s t) : Works b s (t.copySlotTo g slot layer n frame p) :=
  foldl (fun _ _ hu => foldl (fun _ _ hv => hv.putHbm) _ hu) _ h

theorem publishCopy {slot tenant n list scope model parent digest j : Nat} {tokens frames : List Nat} (h : Works b s t) :
    Works b s (t.publishCopy g slot tenant n list scope model parent digest j tokens frames) :=
  have hcopied := foldl (fun _ _ hu => foldl (fun _ _ hv => hv.copySlotTo) _ hu) _ h
  buildNode (foldl (fun _ _ hu => hu.setFrame) _ hcopied)

theorem publishBlock {slot tenant scope model j : Nat} {tokens chain : List Nat} (h : Works b s t) :
    Works b s (t.publishBlock g slot tenant scope model tokens chain j).2 := by
  unfold State.publishBlock
  extract_lets i parent toks d
  split
  · exact h
  · have hroom : Works b s (t.nodeRoom g (i.listBytes / 1024) chain (t.placeCount g 7)).2 := h.nodeRoom
    split
    · next heq => exact (heq ▸ hroom).bump (by decide)
    · next heq =>
      rw [heq] at hroom
      split
      · exact hroom.publishOwn.bump (by decide)
      · split
        · exact hroom.bump (by decide)
        · exact hroom.evictFor.bump (by decide)
        · next htake => exact (hroom.takeFrames htake).publishCopy.bump (by decide)

theorem publishFrom {slot tenant scope model : Nat} {tokens : List Nat} {fuel : Nat} {chain : List Nat} (h : Works b s t) :
    Works b s (t.publishFrom g slot tenant scope model tokens fuel chain).2 := by
  induction fuel generalizing t chain with
  | zero => exact h
  | succ fuel ih =>
    have hblock := h.publishBlock (g := g) (slot := slot) (tenant := tenant) (scope := scope) (model := model) (j := chain.length)
      (tokens := tokens) (chain := chain)
    unfold State.publishFrom
    split
    · exact h
    · split
      · next heq =>
        rw [heq] at hblock
        exact hblock
      · next heq =>
        rw [heq] at hblock
        exact ih hblock

theorem publishSlot {slot model : Nat} {q : Req} {chain : List Nat} (h : Works b s t) :
    Works b s (t.publishSlot g slot model q chain).2 := by
  unfold State.publishSlot
  split
  · exact h
  · exact h.publishFrom

theorem publishReq {c : CommitSeq} (h : Works b s t) : Works b s (t.publishReq g c) := by
  unfold State.publishReq
  split
  · exact h
  · dsimp only
    refine onReq ?_
    split
    · exact h.publishSlot.publishSlot
    · exact h.publishSlot

/-! ## Compactions, budgets and the ends of requests (R196, R197, R240, R243, R248) -/

theorem dropCompact {q : Req} (h : Works b s t) : Works b s (t.dropCompact g q) :=
  onReq (foldl (fun _ _ hu => hu.dropFrame) _ h)

theorem commitCompact {q : Req} (h : Works b s t) : Works b s (t.commitCompact g q) := by
  unfold State.commitCompact
  extract_lets i f att old kept s1 s2 s3 s4 fired s5
  have h1 : Works b s s1 := foldl (fun _ _ hu => hu.dropFrame) _ h
  have h2 : Works b s s2 := foldl (fun _ _ hu => foldl (fun _ _ hv => ite hv.putPte hv) _ hu) _ h1
  have h4 : Works b s s4 := foldl (fun _ _ hu => hu.putHbmNum) _ (foldl (fun _ _ hu => hu.putPte) _ h2)
  have h5 : Works b s s5 := h4.releaseBlocks.putSeq.putSeq
  exact ((h5.bump (by decide)).bump (by decide)).onReq

theorem applyCompacts (h : Works b s t) : Works b s (t.applyCompacts g) :=
  foldl (fun _ _ hu => ite hu.commitCompact hu.dropCompact) _ h

theorem applyBudgets (h : Works b s t) : Works b s (t.applyBudgets g) := h.onTables (by exact fun _ => rfl)

theorem fireEnds {vs : List Verdict} (h : Works b s t) : Works b s (t.fireEnds g vs).2 :=
  foldl (fun _ _ hu => hu.endReq) _ h

theorem shortVictims (h : Works b s t) : Works b s (t.shortVictims g).2 := by
  unfold State.shortVictims
  extract_lets p heldReqs s0 byFrames need avail s1 last order v1 v2
  split
  · exact h
  · have h0 : Works b s s0 := foldl (fun _ _ hu => hu.onReq) _ h
    have h1 : Works b s s1 := ite h0 h0.evictFor
    dsimp only
    exact h1

theorem ageCuts (h : Works b s t) : Works b s (t.ageCuts g) := by
  refine foldl (fun u x hu => ?_) _ h
  dsimp only
  split
  · exact hu.onTables (by exact fun _ => rfl)
  · exact hu.onTables (by exact fun _ => rfl)
  · exact (hu.bump (by decide)).onTables (by exact fun _ => rfl)
  · exact hu

theorem recordStep {tokens : Nat} {es : List Ragged} {preempt : Bool} (h : Works b s t) :
    Works b s (t.recordStep g tokens es preempt) := h.putHbm.bump (by decide)


/-! ## Messages (R236, R237) -/

theorem sendMsg {c type : Nat} {tag : BitVec 32} {payload : List Byte} (h : Works b s t) :
    Works b s (t.sendMsg c type tag payload) := h.onChan

theorem countDone {reason : Nat} (h : Works b s t) : Works b s (t.countDone g reason) := by
  unfold State.countDone
  dsimp only
  split
  · exact (h.bump (by decide)).bump (by decide)
  · exact (h.bump (by decide)).bump (by decide)
  · exact (h.bump (by decide)).bump (by decide)
  · exact (h.bump (by decide)).bump (by decide)
  · exact (h.bump (by decide)).bump (by decide)
  · exact h.bump (by decide)

theorem sendDone {c : Nat} {tag : BitVec 32} {d : DoneInfo} (h : Works b s t) : Works b s (t.sendDone g c tag d) :=
  countDone h.sendMsg

theorem doneReq {q : Req} {tag : BitVec 32} {reason : Nat} {fault : BitVec 16} (h : Works b s t) :
    Works b s (t.doneReq g q tag reason fault) := ite h h.sendDone

theorem sendVerdict {k : Commit} {evicted : List Req} {v : Verdict} (h : Works b s t) :
    Works b s (t.sendVerdict g k evicted v) := by
  unfold State.sendVerdict
  extract_lets out s1 q
  have h1 : Works b s s1 := ite h h.sendMsg
  split
  · exact h1.doneReq
  · exact ite h1.doneReq h1

theorem mgmtAnswer {sess cmd status : Nat} {tag : BitVec 32} {payload : List Byte} (h : Works b s t) :
    Works b s (t.mgmtAnswer sess cmd tag status payload) :=
  ite ((h.bump (by decide)).onSession (by exact fun _ => rfl)) (h.bump (by decide))

/-! ## Streams of pages (R267, R371, R424) -/

theorem startOut {o : OutStream} (h : Works b s t) : Works b s (t.startOut o) := h.onLat.onGlaze
theorem pageOut {q : Req} {key page frame : Nat} (h : Works b s t) : Works b s (t.pageOut g q key page frame) :=
  startOut h.onLat

theorem moveOut {m : Migration} {q : Req} {key page frame : Nat} (h : Works b s t) :
    Works b s (t.moveOut m q key page frame) := by
  unfold State.moveOut
  exact onLat (startOut h.onLat)

theorem dropMove {m : Migration} {status : Nat} (h : Works b s t) : Works b s (t.dropMove m status) :=
  mgmtAnswer (h.onLat.onTables (by exact fun _ => rfl))

theorem startMoves (h : Works b s t) : Works b s (t.startMoves g) := by
  refine foldl (fun u m hu => ?_) _ h
  split
  · exact hu.dropMove
  · exact ite hu (ite hu.dropMove (foldl (fun _ _ hv => hv.moveOut) _ hu))

/-! ## Victims (R264 to R269) -/

theorem swapOut {q : Req} (h : Works b s t) : Works b s (t.swapOut g q).2 := by
  unfold State.swapOut
  extract_lets pages us units s1 s2
  split
  · exact h
  · have h1 : Works b s s1 := (h.onTables (by exact fun _ => rfl)).onReq
    have h2 : Works b s s2 := foldl (fun _ _ hu => hu.pageOut) _ h1
    exact ite (foldl (fun _ _ hu => hu.putSeq) _ h2) h2

theorem preempt {q : Req} (h : Works b s t) : Works b s (t.preempt g q).2 :=
  ite (h.bump (by decide)).swapOut (h.bump (by decide)).swapOut.onReq

theorem preemptAll (qs : List Req) (h : Works b s t) : Works b s (qs.foldl (preemptInto g) ([], t)).2 :=
  List.foldlRecOn (motive := fun acc : List Req × State => Works b s acc.2) qs _ h fun _ hu _ _ => hu.preempt

theorem fireVictims (h : Works b s t) : Works b s (t.fireVictims g).2.2 := by
  unfold State.fireVictims
  extract_lets cut a short e
  have ha : Works b s a.2 := h.preemptAll cut
  have hshort : Works b s short.2 := ha.shortVictims
  dsimp only
  exact hshort.preemptAll short.1

/-! ## The fire point (R270, R271) -/

theorem fireClose (h : Works b s t) : Works b s (t.fireClose g) := by
  unfold State.fireClose
  extract_lets s1 due s2 s3
  have h1 : Works b s s1 := h.onSagger (by exact fun _ => rfl) (by exact fun _ _ => ⟨rfl, rfl⟩)
  have h2 : Works b s s2 := foldl (fun _ _ hu => hu.putSeq.onReq) _ h1
  have h3 : Works b s s3 := foldl (fun _ _ hu => ite (hu.onWheel (by exact fun _ => rfl)) hu) _ h2
  exact foldl (fun _ _ hu => ite hu.onLdu hu) _ h3

theorem handOff {k : Commit} (h : Works b s t) : Works b s (t.handOff g k) :=
  foldl (fun _ _ hu => hu.onSsu) _ (h.onTables (by exact fun _ => rfl))

theorem learnStep {tokens late : Nat} (h : Works b s t) : Works b s (t.learnStep g tokens late) :=
  (((((h.bump (by decide)).bump (by decide)).bump (by decide)).bump (by decide)).bump (by decide)).onTables (by exact fun _ => rfl)

theorem fireApply {k : Commit} (h : Works b s t) : Works b s (t.fireApply g k) :=
  applyBudgets (applyCompacts (foldl (fun _ _ hu => hu.publishReq) _ (foldl (fun _ _ hu => hu.applySeq) _ h.handOff)))

theorem finishFire {k : Commit} (h : Works b s t) : Works b s (t.finishFire g k) := by
  unfold State.finishFire
  extract_lets s1 vs tokens late es
  have h1 : Works b s s1 := h.fireApply
  split
  next failed s2 hends =>
  extract_lets lateQ s3
  have h2 : Works b s (s1.fireEnds g vs).2 := h1.fireEnds
  rw [hends] at h2
  have h4 : Works b s (((s3.learnStep g tokens late).fireClose g).fireVictims g).2.2 :=
    (h2.onTables (by exact fun _ => rfl)).learnStep.fireClose.fireVictims
  split
  next n evicted s4 hvictims =>
  rw [hvictims] at h4
  extract_lets s6 s7 s8 s9
  have h6 : Works b s s6 := h4.ageCuts.recordStep
  have h7 : Works b s s7 := foldl (fun _ _ hu => hu.sendVerdict) _ h6
  have h8 : Works b s s8 := foldl (fun _ _ hu => hu.doneReq) _ h7
  have h9 : Works b s s9 := foldl (fun _ _ hu => hu.doneReq) _ h8
  exact startMoves (foldl (fun _ _ hu => hu.sendDone) _ h9)

/-! ## Stopping requests (R251, R405) -/

theorem setMask {slot : Nat} (h : Works false s t) : Works false s (t.setMask g slot) := by
  unfold State.setMask
  dsimp only
  split
  · exact h
  · exact h.putSlab

theorem stopSwap {q : Req} (h : Works b s t) : Works b s (t.stopSwap g q) := by
  unfold State.stopSwap
  exact onReq (h.withSwaps.onLat.onTables (by exact fun _ => rfl))

theorem reap (h : Works b s t) : Works b s (t.reap g) := by
  refine foldl (fun u q hu => ite hu.endReq ?_) _ h
  split
  · exact hu.doneReq.endReq
  · exact hu

/-- A request that is stopped is masked in the slabs only while a step is under way. -/
theorem stopReq {q : Req} {silent : Bool} (h : Works b s t) (hb : b = true → (t.sagger g).Idle) : Works b s (t.stopReq g q silent) := by
  unfold State.stopReq
  extract_lets masked s1 s2
  have h1 : Works b s s1 := by
    cases b with
    | false => exact ite (foldl (fun _ _ hu => hu.setMask) _ h) h
    | true =>
      have hphase : (t.sagger g).phase = .none := (hb rfl).1
      have hnot : masked = false := by simp [masked, State.inStep, hphase]
      unfold s1
      rw [hnot]
      exact h
  have h2 : Works b s s2 := h1.stopSwap.onReq
  exact ite h2.reap h2

theorem markLost {p : Req → Bool} (h : Works b s t) (hb : b = true → (t.sagger g).Idle) : Works b s (t.markLost g p) := by
  unfold State.markLost
  extract_lets s1
  have h1 : Works b t s1 := refl.onTables (by exact fun _ => rfl)
  refine h.trans ?_
  exact List.foldlRecOn _ _ h1 fun u hu q _ => hu.stopReq fun hb' => hu.idle g (hb hb')

theorem endLost (h : Works b s t) : Works b s (t.endLost g) := ite (foldl (fun _ _ hu => hu.endReq) _ h) h

theorem failAll {code : BitVec 16} (h : Works b s t) : Works b s (t.failAll g code) := by
  unfold State.failAll
  extract_lets x s1 s2
  have h1 : Works b s s1 := foldl (fun _ _ hu => hu.doneReq) _ h
  have h2 : Works b s s2 := foldl (fun _ _ hu => endReq (ite hu hu.stopSwap.doneReq)) _ h1
  exact h2.onTables (by exact fun _ => rfl)

/-! ## Stopping the work of a sagger (R465) -/

theorem onUnit {d k : Nat} {f : WareUnit → WareUnit} (h : Works b s t) : Works b s (t.onUnit d k f) := h.onWare

theorem acceptLoad {d : Nat} {l : Load} (h : Works b s t) : Works b s (t.acceptLoad d l) := foldl (fun _ _ hu => hu.onUnit) _ h.onWare

theorem admitWaiting {d : Nat} (h : Works b s t) : Works b s (t.admitWaiting d) := foldl (fun _ _ hu => hu.acceptLoad) _ h.onWare

theorem dropLoad {d : Nat} {l : Load} (h : Works b s t) : Works b s (t.dropLoad d l) := by
  unfold State.dropLoad
  extract_lets n s1 s2 s3
  have h2 : Works b s s2 := ⟨h.logs, h.regs, h.saggers, h.idle, h.wheels, h.slab, h.opens, h.paired⟩
  have h3 : Works b s s3 := foldl (fun _ _ hu => hu.onUnit) _ h2
  exact h3.onWare.bump (by decide)

theorem squashLoads {p : Load → Bool} (h : Works b s t) : Works b s (t.squashLoads g p) :=
  foldl (fun _ _ hu => admitWaiting (foldl (fun _ _ hv => hv.dropLoad) _ hu.onWare)) _ h

theorem dropRouter (h : Works b s t) : Works b s (t.dropRouter g) := by
  unfold State.dropRouter
  exact (h.squashLoads.bump (by decide)).onTables (by exact fun _ => rfl)

theorem resetWare (h : Works b s t) : Works b s (t.resetWare g) := foldl (fun _ _ hu => hu.onWare) _ h

theorem stopWork (h : Works b s t) : Works b s (t.stopWork g) := by
  unfold State.stopWork
  extract_lets s1 s2 s3 s4 s5
  have h1 : Works b s s1 := h.dropRouter.resetWare
  have h2 : Works b s s2 := foldl (fun _ _ hu => ite (hu.onWheel (by exact fun _ => rfl)) hu) _ h1
  have h3 : Works b s s3 := foldl (fun _ _ hu => ite hu.onLdu hu) _ h2
  have h4 : Works b s s4 := foldl (fun _ _ hu => hu.onSsu) _ h3
  have h5 : Works b s s5 := h4.onLute rfl
  exact h5.onTables (by exact fun _ => rfl)

theorem dropIncoming {x : Incoming} (h : Works b s t) : Works b s (t.dropIncoming x) := by
  unfold State.dropIncoming
  exact endReq (h.onLat.onTables (by exact fun _ => rfl))

theorem stopStreams (h : Works b s t) : Works b s (t.stopStreams g) := by
  unfold State.stopStreams
  extract_lets ids outIds s1 s2 s3
  have h1 : Works b s s1 := foldl (fun _ _ hu => hu.dropIncoming) _ h
  have h3 : Works b s s3 := foldl (fun _ _ hu => hu.onGlaze) _ (show Works b s s2 from h1.onLat)
  exact h3.withSwaps

/-! ## Leaving slices, and going DOWN (R372, R411) -/

theorem parkLoadings {id : Nat} (h : Works b s t) : Works b s (t.parkLoadings id) := by
  refine foldl (fun _ _ hu => ite hu.onLat ?_) _ h
  exact mgmtAnswer hu.onLat

theorem dropSlice {id : Nat} (h : Works b s t) : Works b s (t.dropSlice id) := by
  unfold State.dropSlice
  extract_lets s1 s2 s3
  have h1 : Works b s s1 := foldl (fun _ _ hu => hu.dropIncoming) _ h
  have h2 : Works b s s2 := foldl (fun _ _ hu => hu.dropMove) _ h1
  exact h2.parkLoadings.onLat

theorem leaveSlices {p : Slice → Bool} {code : BitVec 16} (h : Works b s t) : Works b s (t.leaveSlices p code) :=
  foldl (fun _ _ hu => dropSlice (foldl (fun _ _ hv => hv.sendPacket) _ hu)) _ h

theorem failStep (h : Works b s t) : Works b s (t.failStep g) := by
  unfold State.failStep
  extract_lets x back s1 s2 s3 s4
  have h1 : Works b s s1 := foldl (fun _ _ hu => hu.trimSlots) _ h
  have h2 : Works b s s2 := foldl (fun _ _ hu => hu.endReq.onTables (by exact fun _ => rfl)) _ h1
  have h3 : Works b s s3 := foldl (fun _ _ hu => hu.dropCompact) _ h2
  have h4 : Works b s s4 := h3.onSagger (by exact fun _ => rfl) (by exact fun _ _ => ⟨rfl, rfl⟩)
  exact h4.reap

end Works
end Sys2Proof.Machine

namespace Sys2Proof.Machine

/-! # Bisque mode, the fault log and the cones (O60) -/

/-! ## What the rest of a state says (R411, R456) -/

/-- The parts of the state that `State.rest` leaves out. -/
abbrev workParts : List Field :=
  [.mgmt, .regs, .freeCtr, .mem, .flog, .saggers, .wheels, .wares, .ldus, .ssus, .hbmStacks, .glazes, .ports, .lat, .lute, .chans, .swaps]

theorem Only.of_rest {s t : State} (h : t.rest = s.rest) : Only workParts s t := by
  intro p hp
  cases p
  case pending => exact (congrArg State.pending h :)
  case power => exact (congrArg State.power h :)
  case boot => exact (congrArg State.boot h :)
  case health => exact (congrArg State.health h :)
  case fuses => exact (congrArg State.fuses h :)
  case plan => exact (congrArg State.plan h :)
  case tb => exact (congrArg State.tb h :)
  case tallies => exact (congrArg State.tallies h :)
  case tallyOut => exact (congrArg State.tallyOut h :)
  case houseProgress => exact (congrArg State.houseProgress h :)
  case houseArmed => exact (congrArg State.houseArmed h :)
  case snaps => exact (congrArg State.snaps h :)
  case store => exact (congrArg State.store h :)
  case poison => exact (congrArg State.poison h :)
  case links => exact (congrArg State.links h :)
  case nextTag => exact (congrArg State.nextTag h :)
  case cones => exact (congrArg State.cones h :)
  case lastMeas => exact (congrArg State.lastMeas h :)
  all_goals simp at hp

/-! ## Saggers that go DOWN (R411) -/

/-- From `s` to `t` saggers may have gone DOWN: no record is forgotten, the registers of other commands stand, and a sagger in
DOWN stays there. -/
structure Falls (s t : State) : Prop where
  logs : Logs s t
  regs : ∀ r ∈ otherRegs, ∀ u, t.reg r u = s.reg r u
  down : ∀ g, (s.sagger g).st = .down → (t.sagger g).st = .down

theorem Falls.refl (s : State) : Falls s s := ⟨.refl s, fun _ _ _ => rfl, fun _ h => h⟩

theorem Falls.trans {s t u : State} (h : Falls s t) (h' : Falls t u) : Falls s u :=
  ⟨h.logs.trans h'.logs, fun r hr k => (h'.regs r hr k).trans (h.regs r hr k), fun g hg => h'.down g (h.down g hg)⟩

theorem Sagger.down_of_lasting {x y : Sagger} (h : y.lasting = x.lasting) (hx : x.st = .down) : y.st = .down := by
  have hflag : (y.st == .down) = (x.st == .down) := congrArg (fun l => l.2.2.2.2.2) h
  simpa [hx] using hflag

theorem Works.falls {b : Bool} {s t : State} (h : Works b s t) : Falls s t :=
  ⟨h.logs, h.regs, fun g hg => Sagger.down_of_lasting (h.saggers g) hg⟩

/-- A sagger in DOWN. -/
def Sagger.inDown (x : Sagger) : Sagger := { x with st := .down }

/-- A sagger goes DOWN after all its work has ended; while it is idle that writes no slab. -/
theorem State.saggerDown_works {b : Bool} (s : State) (g : Nat) (code : BitVec 16) (hb : b = true → (s.sagger g).Idle) :
    ∃ u, Works b s u ∧ s.saggerDown g code = u.onSagger g Sagger.inDown := by
  unfold State.saggerDown
  extract_lets s1 s2 s3
  have h1 : Works b s s1 := (Works.refl.markLost hb).stopWork.stopStreams
  have h2 : Works b s s2 := by
    unfold s2
    split
    · exact h1.finishFire
    · exact h1.failStep
  have h3 : Works b s s3 := h2.markLost fun hb' => h2.idle g (hb hb')
  exact ⟨_, h3.endLost.leaveSlices, rfl⟩

theorem State.saggerDown_falls (s : State) (g : Nat) (code : BitVec 16) :
    Falls s (s.saggerDown g code) ∧ ((s.saggerDown g code).sagger g).st = .down := by
  obtain ⟨u, hu, heq⟩ := s.saggerDown_works (b := false) g code (fun h => nomatch h)
  rw [heq]
  refine ⟨hu.falls.trans ⟨.refl u, fun _ _ _ => rfl, fun k hk => ?_⟩, ?_⟩
  · rw [State.onSagger_sagger]
    split
    · rfl
    · exact hk
  · rw [State.onSagger_sagger, if_pos rfl]
    rfl

/-- All saggers of a list go DOWN that are not there yet. -/
def State.allDown (s : State) (l : List Nat) (code : BitVec 16) : State :=
  l.foldl (fun s g => if (s.sagger g).st = .down then s else s.saggerDown g code) s

theorem State.allDown_falls (s : State) (l : List Nat) (code : BitVec 16) :
    Falls s (s.allDown l code) ∧ ∀ g ∈ l, ((s.allDown l code).sagger g).st = .down := by
  induction l generalizing s with
  | nil => exact ⟨.refl s, fun g hg => absurd hg List.not_mem_nil⟩
  | cons a l ih =>
    have hone : Falls s (if (s.sagger a).st = .down then s else s.saggerDown a code) ∧
        ((if (s.sagger a).st = .down then s else s.saggerDown a code).sagger a).st = .down := by
      split
      next h => exact ⟨.refl s, h⟩
      next => exact s.saggerDown_falls a code
    obtain ⟨hfalls, hdown⟩ := hone
    obtain ⟨hrest, hall⟩ := ih (if (s.sagger a).st = .down then s else s.saggerDown a code)
    refine ⟨hfalls.trans hrest, fun g hg => ?_⟩
    obtain rfl | hg := List.mem_cons.1 hg
    · exact hrest.down g hdown
    · exact hall g hg

theorem State.rest_allDown (s : State) (l : List Nat) (code : BitVec 16) : (s.allDown l code).rest = s.rest :=
  State.rest_foldl (fun u g => State.rest_ite rfl (u.rest_saggerDown g code)) l s

/-! ## Entry to bisque mode (R456, R457) -/

/-- The state in bisque mode, before the links are held: saggers are DOWN, slices are left, 0xFE is detected. -/
def State.halted (s : State) (reason : Nat) : State :=
  (((s.allDown s.planSaggers (faultCode 4 0 0xFE)).leaveSlices (fun _ => true) (faultCode 4 0 0xFE)).onBoot fun b =>
    { b with bisque := true, ready := false, reason := reason }).fault 4 0 0xFE 15 12 0

theorem State.enterBisque_eq (s : State) (reason : Nat) :
    s.enterBisque reason = if reason = 1 then (s.halted reason).holdLinks else s.halted reason := rfl

theorem State.halted_facts (s : State) (reason : Nat) : Falls s (s.halted reason) ∧
    (s.halted reason).boot = { s.boot with bisque := true, ready := false, reason := reason } ∧
    (∀ g ∈ s.planSaggers, ((s.halted reason).sagger g).st = .down) ∧
    (∃ l, (s.halted reason).flog.detected.map (·.code) = s.flog.detected.map (·.code) ++ l ++ [0x40FE#16]) ∧
    (s.halted reason).links = s.links ∧ Only (.boot :: workParts) s (s.halted reason) := by
  obtain ⟨hdown, hall⟩ := s.allDown_falls s.planSaggers (faultCode 4 0 0xFE)
  obtain ⟨u, hu⟩ : ∃ u, u = (s.allDown s.planSaggers (faultCode 4 0 0xFE)).leaveSlices (fun _ => true) (faultCode 4 0 0xFE) := ⟨_, rfl⟩
  have hleave : Works false (s.allDown s.planSaggers (faultCode 4 0 0xFE)) u := hu ▸ Works.refl.leaveSlices
  have hrest : u.rest = s.rest := by rw [hu, State.rest_leaveSlices, State.rest_allDown]
  have honly : Only workParts s u := .of_rest hrest
  obtain ⟨v, hv⟩ : ∃ v, v = u.onBoot fun b => { b with bisque := true, ready := false, reason := reason } := ⟨_, rfl⟩
  have heq : s.halted reason = v.fault 4 0 0xFE 15 12 0 := by rw [hv, hu]; rfl
  have hrecord := v.fault_only_flog (cls := 4) (block := 0) (detail := 0xFE) 15 12 0 (by decide)
  have hfalls : Falls s u := hdown.trans hleave.falls
  have hsaggers (g : Nat) : (s.halted reason).sagger g = u.sagger g := by
    have hsame : (v.fault 4 0 0xFE 15 12 0).saggers = v.saggers := hrecord .saggers (by decide)
    rw [heq, State.sagger, hsame, hv]
    rfl
  obtain ⟨l, hl⟩ := hfalls.logs
  have hcodes : (s.halted reason).flog.detected.map (·.code) = u.flog.detected.map (·.code) ++ [0x40FE#16] := by
    rw [heq, (v.detects_fault 4 0 0xFE 15 12 0).1, hv]
    rfl
  refine ⟨⟨?_, fun r hr k => ?_, fun g hg => ?_⟩, ?_, fun g hg => ?_, ⟨l.map (·.code), ?_⟩, ?_, ?_⟩
  · rw [heq]
    refine (hfalls.logs.trans ?_).trans (v.raise_logs _)
    exact .of_flog_eq (by rw [hv]; rfl)
  · rw [heq, hrecord.reg_eq _ _ (by decide), hv]
    exact hfalls.regs r hr k
  · rw [hsaggers]
    exact hfalls.down g hg
  · have hboot : (v.fault 4 0 0xFE 15 12 0).boot = v.boot := hrecord .boot (by decide)
    have hboot' : u.boot = s.boot := honly .boot (by decide)
    rw [heq, hboot, hv, State.onBoot, hboot']
  · rw [hsaggers]
    exact hleave.falls.down g (hall g hg)
  · rw [hcodes, hl, List.map_append]
  · have hlinks : (v.fault 4 0 0xFE 15 12 0).links = v.links := hrecord .links (by decide)
    rw [heq, hlinks, hv]
    exact honly .links (by decide)
  · rw [heq]
    refine (honly.mono (by decide)).trans (Only.trans ?_ (hrecord.mono (by decide)))
    rw [hv]
    exact (u.onBoot_only _).mono (by decide)

/-! ## Links that are held (R457) -/

/-- A port or link that a fold sets to `f` reads as `f` leaves it, where `f` leaves every unit alike. -/
theorem State.heldPorts_port (l : List Nat) (s : State) {p : Nat} (h : p ∈ l ∨ (s.port p).st = .held ∧ (s.port p).reason = 6) :
    ((l.foldl (fun s p => s.onPort p fun x => { x with st := .held, reason := 6, groups := 0 }) s).port p).st = .held ∧
      ((l.foldl (fun s p => s.onPort p fun x => { x with st := .held, reason := 6, groups := 0 }) s).port p).reason = 6 := by
  induction l generalizing s with
  | nil => exact h.resolve_left List.not_mem_nil
  | cons a l ih =>
    refine ih _ ?_
    by_cases hpa : p = a
    · exact .inr (by rw [State.onPort_port, if_pos hpa]; exact ⟨rfl, rfl⟩)
    · rw [State.onPort_port, if_neg hpa]
      exact h.imp_left fun hmem => (List.mem_cons.1 hmem).resolve_left hpa

theorem State.heldLinks_link (l : List Nat) (s : State) {k : Nat} (h : k ∈ l ∨ (s.link k).st = .held ∧ (s.link k).reason = 5) :
    ((l.foldl (fun s k => s.onLink k fun x => { x with st := .held, reason := 5 }) s).link k).st = .held ∧
      ((l.foldl (fun s k => s.onLink k fun x => { x with st := .held, reason := 5 }) s).link k).reason = 5 := by
  induction l generalizing s with
  | nil => exact h.resolve_left List.not_mem_nil
  | cons a l ih =>
    refine ih _ ?_
    by_cases hka : k = a
    · exact .inr (by rw [State.onLink_link, if_pos hka]; exact ⟨rfl, rfl⟩)
    · rw [State.onLink_link, if_neg hka]
      exact h.imp_left fun hmem => (List.mem_cons.1 hmem).resolve_left hka

theorem State.onLink_only (s : State) (k : Nat) (f : Link → Link) : Only [.links] s (s.onLink k f) := by
  intro p hp
  cases p
  case links => simp at hp
  all_goals rfl

theorem Only.foldl {α : Type} {ps : List Field} {f : State → α → State} (hf : ∀ u x, Only ps u (f u x)) (l : List α) (s : State) :
    Only ps s (l.foldl f s) := by
  induction l generalizing s with
  | nil => exact .refl ps s
  | cons x l ih => exact (hf s x).trans (ih _)

theorem State.holdLinks_facts (s : State) : Only [.ports, .links] s s.holdLinks ∧
    (∀ p < 6, (s.holdLinks.port p).st = .held ∧ (s.holdLinks.port p).reason = 6) ∧
    ∀ k < 2, (s.holdLinks.link k).st = .held ∧ (s.holdLinks.link k).reason = 5 := by
  unfold State.holdLinks
  extract_lets s1
  have hports : Only [.ports] s s1 := Only.foldl (fun u _ => u.onPort_only _ _) _ s
  have hlinks : Only [.links] s1 ([0, 1].foldl (fun s k => s.onLink k fun x => { x with st := .held, reason := 5 }) s1) :=
    Only.foldl (fun u _ => u.onLink_only _ _) _ s1
  refine ⟨(hports.mono (by decide)).trans (hlinks.mono (by decide)), fun p hp => ?_, fun k hk => ?_⟩
  · rw [hlinks.port_eq _ (by decide)]
    exact State.heldPorts_port _ s (.inl (List.mem_range.2 hp))
  · refine State.heldLinks_link _ s1 (.inl ?_)
    interval_cases k <;> decide

/-! ## FAULT_LOG_ENTER (R463) -/

theorem exec_faultLogEnter_of_cons {s : State} {r : FaultRec} {rest : List FaultRec} (h : s.flog.detected = r :: rest) :
    ∃ u, exec .faultLogEnter s = .next (u.onFlog fun f => { f.enter r with detected := rest }) ∧ u.flog = s.flog ∧ Only [.regs] s u ∧
      RegsOnly [(.topFltLost, 0), (.sgrResetLast, r.sagger.toNat)] s u ∧
      (s.flog.ring.length = 4096 → u.reg .topFltLost 0 = min (s.reg .topFltLost 0 + 1) (2 ^ 32 - 1)) ∧
      (2 ≤ r.level → r.sagger.toNat < 12 → u.reg .sgrResetLast r.sagger.toNat = r.code.toNat) := by
  obtain ⟨v, hv⟩ : ∃ v, v = s.bump .topFltLost 0 (if s.flog.ring.length ≥ 4096 then 1 else 0) := ⟨_, rfl⟩
  have hexec : exec .faultLogEnter s = .next
      ((if r.level ≥ 2 ∧ r.sagger.toNat < 12 then v.setReg .sgrResetLast r.sagger.toNat r.code.toNat else v).onFlog fun f =>
        { f.enter r with detected := rest }) := by
    change execFaultLogEnter s = _
    rw [execFaultLogEnter, h, hv]
  have hcount : s.flog.ring.length = 4096 → v.reg .topFltLost 0 = min (s.reg .topFltLost 0 + 1) (2 ^ 32 - 1) := by
    intro hfull
    rw [hv, if_pos hfull.ge, State.reg_bump_same]
    rfl
  have honly : Only [.regs] s v := hv ▸ s.bump_only_regs _ _ _
  have hregs : RegsOnly [(.topFltLost, 0), (.sgrResetLast, r.sagger.toNat)] s v := hv ▸ s.bump_regsOnly _ (by simp)
  have hlog : v.flog = s.flog := by rw [hv]; rfl
  refine ⟨_, hexec, ?_⟩
  split
  next hresets =>
    refine ⟨hlog, honly.trans (v.setReg_only _ _ _), fun q k hq => ?_, fun hfull => ?_, fun _ _ => ?_⟩
    · rw [State.reg_setReg, if_neg (fun he => hq (by simp [he]))]
      exact hregs q k hq
    · rw [State.reg_setReg_of_ne]
      exact hcount hfull
    · rw [State.reg_setReg, if_pos ⟨rfl, rfl⟩]
  next hlow => exact ⟨hlog, honly, hregs, hcount, fun hlevel hsagger => absurd ⟨hlevel, hsagger⟩ hlow⟩

/-! ## A measurement of the cones (R453 to R455) -/

theorem State.onCone_only (s : State) (d : Nat) (f : ConeDie → ConeDie) : Only [.cones] s (s.onCone d f) := by
  intro p hp
  cases p
  case cones => simp at hp
  all_goals rfl

theorem Only.cone_eq {ps : List Field} {s t : State} (h : Only ps s t) (d : Nat) (hp : .cones ∉ ps) : t.cone d = s.cone d :=
  congrArg (fun l => tget ({} : ConeDie) l d) (h .cones hp)

/-- A die once it has been measured: its index `i` and projection `p` are the model's. -/
def ConeDie.measured (c : ConeDie) (env : ConeEnv) (d i p : Nat) : ConeDie :=
  { c with tL := env.tL.getD d [], margin := env.margin.getD d [], index := i, heat := c.heat + env.heat.getD d 0, proj := p }

theorem State.measureDie_facts (s : State) (d : Nat) (env : ConeEnv) : Only [.cones, .flog, .freeCtr] s (s.measureDie d env) ∧
    ∃ i p, ∀ k, (s.measureDie d env).cone k = if k = d then (s.cone d).measured env d i p else s.cone k := by
  obtain ⟨p, hp⟩ : ∃ p, p = if s.health.cones.length + 1 < 144 then 0xFFFF else Config.freeNat s.freeCtr % 65536 := ⟨_, rfl⟩
  obtain ⟨i, hi⟩ : ∃ i, i = ageIndex ((s.health.coneRef.drop (48 * d)).take 48) (env.tL.getD d []) := ⟨_, rfl⟩
  obtain ⟨u, hu⟩ : ∃ u, u = s.draw.2.onCone d fun c => c.measured env d i p := ⟨_, rfl⟩
  have heq : s.measureDie d env =
      if p < 180 then u.raiseLimited (86400 * 10 ^ 9) d { code := faultCode 1 0 0xFF, unit := 12, subunit := d } else u := by
    rw [hu, hp, hi]
    rfl
  have hlog : Only [.flog] u (s.measureDie d env) := by
    rw [heq]
    exact .ite (u.raiseLimited_only_flog _ _ (.inr (show codeClass (faultCode 1 0 0xFF) ≠ 3 by decide))) (.refl _ _)
  have hdraw : Only [.cones, .flog, .freeCtr] s u := by
    rw [hu]
    exact ((s.withFreeCtr_only _).mono (by decide)).trans ((State.onCone_only _ _ _).mono (by decide))
  refine ⟨hdraw.trans (hlog.mono (by decide)), i, p, fun k => ?_⟩
  rw [hlog.cone_eq _ (by decide), hu, State.onCone_cone]
  rfl

/-- V_FLOOR after the steps that restore a die's margin, where they fit below the ceiling. -/
def ConeDie.raisedFloor (c : ConeDie) (vceil : Nat) (steps : Option Nat) : Option Nat :=
  steps.bind fun n => if c.vfloor + 10 * n + 50 ≤ vceil then some (c.vfloor + 10 * n) else none

/-- A die that is re-planned: V_FLOOR rises, or its codes do. -/
def ConeDie.replanned (c : ConeDie) (vceil : Nat) (ms : List Int) (steps : Option Nat) : ConeDie :=
  match c.raisedFloor vceil steps with
  | some v => { c with vfloor := v, replan := true }
  | none => { c with codes := (List.range 32).map fun k => newCode (c.codes.getD k 0) (ms.getD k 65535), replan := true }

theorem ConeDie.replanned_measures (c : ConeDie) (vceil : Nat) (ms : List Int) (steps : Option Nat) :
    (c.replanned vceil ms steps).tL = c.tL ∧ (c.replanned vceil ms steps).margin = c.margin ∧
      (c.replanned vceil ms steps).heat = c.heat := by
  unfold ConeDie.replanned
  split <;> exact ⟨rfl, rfl, rfl⟩

theorem ConeDie.replanned_of_fits {c : ConeDie} {vceil n : Nat} (ms : List Int) (h : c.vfloor + 10 * n + 50 ≤ vceil) :
    (c.replanned vceil ms (some n)).vfloor = c.vfloor + 10 * n ∧ (c.replanned vceil ms (some n)).codes = c.codes := by
  have hfloor : c.raisedFloor vceil (some n) = some (c.vfloor + 10 * n) := if_pos h
  rw [ConeDie.replanned, hfloor]
  exact ⟨rfl, rfl⟩

theorem ConeDie.replanned_of_not_fits {c : ConeDie} {vceil : Nat} {ms : List Int} {steps : Option Nat}
    (h : ∀ n, steps = some n → vceil < c.vfloor + 10 * n + 50) : (c.replanned vceil ms steps).vfloor = c.vfloor ∧
      ∀ k < 32, (c.replanned vceil ms steps).codes.getD k 0 = newCode (c.codes.getD k 0) (ms.getD k 65535) := by
  have hfloor : c.raisedFloor vceil steps = none := by
    cases steps with
    | none => rfl
    | some n => exact if_neg (by have := h n rfl; omega)
  rw [ConeDie.replanned, hfloor]
  exact ⟨rfl, fun k hk => by simp [List.getD, hk]⟩

theorem State.replan_facts (s : State) (d : Nat) (ms : List Int) (steps : Option Nat) :
    Only [.cones, .regs, .flog, .health] s (s.replan d ms steps) ∧ RegsOnly [(.conReplans, 0)] s (s.replan d ms steps) ∧
      ∀ k, (s.replan d ms steps).cone k = if k = d then (s.cone d).replanned s.device.vceil ms steps else s.cone k := by
  obtain ⟨u, hu⟩ : ∃ u, u = (s.onCone d fun _ => (s.cone d).replanned s.device.vceil ms steps).bump .conReplans 0 1 := ⟨_, rfl⟩
  obtain ⟨f, hf⟩ : ∃ f, s.replan d ms steps = (u.fault 1 0 0xFD 15 12 d).onHealth f := by
    rw [hu]
    unfold State.replan ConeDie.replanned ConeDie.raisedFloor
    exact ⟨_, rfl⟩
  have hlog := u.fault_only_flog (cls := 1) (block := 0) (detail := 0xFD) 15 12 d (by decide)
  have hwork : Only [.cones, .regs] s u := by
    rw [hu]
    exact ((s.onCone_only _ _).mono (by decide)).trans ((State.bump_only_regs _ _ _ _).mono (by decide))
  rw [hf]
  refine ⟨((hwork.mono (by decide)).trans (hlog.mono (by decide))).trans ((State.onHealth_only _ _).mono (by decide)), fun r k hr => ?_,
    fun k => ?_⟩
  · rw [State.onHealth_reg, hlog.reg_eq _ _ (by decide), hu]
    exact (State.onCone s d _).bump_regsOnly 1 (List.mem_singleton.2 rfl) r k hr
  · rw [State.onHealth_cone, hlog.cone_eq _ (by decide), hu, State.bump_cone, State.onCone_cone]

/-- The state that has measured both dies (R453). -/
def State.measuredDies (s : State) (env : ConeEnv) : State :=
  let s1 := [0, 1].foldl (fun s d => s.measureDie d env) s
  { ((s1.bump .conMeas 0 1).setReg .conLast 0 s.now).onHealth fun h =>
      h.addCone [(s1.cone 0).index, (s1.cone 1).index] [(s1.cone 0).heat, (s1.cone 1).heat] with lastMeas := s.refNow }

theorem State.measuredDies_facts (s : State) (env : ConeEnv) :
    Only [.cones, .regs, .flog, .freeCtr, .health, .lastMeas] s (s.measuredDies env) ∧ (s.measuredDies env).lastMeas = s.refNow ∧
      (s.measuredDies env).reg .conLast 0 = s.now ∧ (s.measuredDies env).reg .conMeas 0 = min (s.reg .conMeas 0 + 1) (2 ^ 32 - 1) ∧
      (s.measuredDies env).reg .conReplans 0 = s.reg .conReplans 0 ∧
      ∀ d < 2, ∃ i p, (s.measuredDies env).cone d = (s.cone d).measured env d i p := by
  obtain ⟨honly0, i0, p0, hcone0⟩ := s.measureDie_facts 0 env
  obtain ⟨honly1, i1, p1, hcone1⟩ := (s.measureDie 0 env).measureDie_facts 1 env
  obtain ⟨u, hu⟩ : ∃ u, u = (s.measureDie 0 env).measureDie 1 env := ⟨_, rfl⟩
  rw [← hu] at honly1 hcone1
  obtain ⟨f, hf⟩ : ∃ f, s.measuredDies env =
      { ((u.bump .conMeas 0 1).setReg .conLast 0 s.now).onHealth f with lastMeas := s.refNow } := ⟨_, by rw [hu]; rfl⟩
  have honly := honly0.trans honly1
  have hreg (r : Reg) : u.reg r 0 = s.reg r 0 := honly.reg_eq r 0 (by decide)
  rw [hf]
  refine ⟨?_, rfl, ?_, ?_, ?_, fun d hd => ?_⟩
  · refine (honly.mono (by decide)).trans (Only.trans (t := (u.bump .conMeas 0 1).setReg .conLast 0 s.now) ?_ ?_)
    · exact ((u.bump_only_regs _ _ _).trans (State.setReg_only _ _ _ _)).mono (by decide)
    · intro p hp
      cases p
      case health => simp at hp
      case lastMeas => simp at hp
      all_goals rfl
  · change ((u.bump .conMeas 0 1).setReg .conLast 0 s.now).reg .conLast 0 = s.now
    rw [State.reg_setReg, if_pos ⟨rfl, rfl⟩]
  · change ((u.bump .conMeas 0 1).setReg .conLast 0 s.now).reg .conMeas 0 = _
    rw [State.reg_setReg_of_ne, State.reg_bump_same, hreg]
    rfl
  · change ((u.bump .conMeas 0 1).setReg .conLast 0 s.now).reg .conReplans 0 = _
    rw [State.reg_setReg_of_ne, State.reg_bump_of_ne, hreg]
  · change ∃ i p, u.cone d = _
    interval_cases d
    · exact ⟨i0, p0, by rw [hcone1, if_neg (by decide), hcone0, if_pos rfl]⟩
    · exact ⟨i1, p1, by rw [hcone1, if_pos rfl, hcone0, if_neg (by decide)]⟩

/-- Dies of a list are re-planned, one after the other (R455). -/
def State.replanDies (s : State) (env : ConeEnv) (l : List Nat) : State :=
  l.foldl (fun s d => s.replan d (env.classes.getD d []) (env.steps.getD d none)) s

theorem State.replanDies_facts (s : State) (env : ConeEnv) {l : List Nat} (hl : l.Nodup) :
    Only [.cones, .regs, .flog, .health] s (s.replanDies env l) ∧ RegsOnly [(.conReplans, 0)] s (s.replanDies env l) ∧
      ∀ d, (s.replanDies env l).cone d = if d ∈ l then
        (s.cone d).replanned s.device.vceil (env.classes.getD d []) (env.steps.getD d none) else s.cone d := by
  induction l generalizing s with
  | nil => exact ⟨.refl _ s, fun _ _ _ => rfl, fun d => (if_neg List.not_mem_nil).symm⟩
  | cons a l ih =>
    obtain ⟨hnew, hrest⟩ := List.nodup_cons.1 hl
    obtain ⟨honly, hregs, hcone⟩ := s.replan_facts a (env.classes.getD a []) (env.steps.getD a none)
    obtain ⟨honly', hregs', hcone'⟩ := ih (s.replan a (env.classes.getD a []) (env.steps.getD a none)) hrest
    have hplan : (s.replan a (env.classes.getD a []) (env.steps.getD a none)).plan = s.plan := honly .plan (by decide)
    refine ⟨honly.trans honly', hregs.trans hregs', fun d => (hcone' d).trans ?_⟩
    rw [State.device, hplan, ← State.device, hcone]
    by_cases hda : d = a
    · rw [if_neg (hda ▸ hnew), if_pos hda, if_pos (hda ▸ List.mem_cons_self ..), hda]
    · rw [if_neg hda]
      exact if_congr (by simp [hda]) rfl rfl

/-- Dies whose worst class margin is below 8 %; none is re-planned in bisque mode. -/
def State.lowDies (s : State) (env : ConeEnv) : List Nat :=
  if s.boot.bisque then [] else [0, 1].filter fun d => worstOf (env.classes.getD d []) < 800

theorem State.mem_lowDies {s : State} {env : ConeEnv} {d : Nat} (hd : d < 2) :
    d ∈ s.lowDies env ↔ s.boot.bisque = false ∧ worstOf (env.classes.getD d []) < 800 := by
  have hdie : d ∈ [0, 1] := by interval_cases d <;> decide
  cases hb : s.boot.bisque <;> simp [State.lowDies, hb, List.mem_filter, hdie]

theorem State.nodup_lowDies (s : State) (env : ConeEnv) : (s.lowDies env).Nodup := by
  unfold State.lowDies
  split
  · exact List.nodup_nil
  · exact List.Nodup.filter _ (by decide)

/-- A low die without steps has a class that keeps no margin at code 63. -/
def State.lacksMargin (s : State) (env : ConeEnv) : Bool := (s.lowDies env).any fun d =>
  (env.steps.getD d none).isNone && noMargin (s.cone d).codes (env.classes.getD d [])

theorem exec_coneMeasure_of_due {env : ConeEnv} {s : State} (hfw : s.firmwareUp = true) (hready : s.boot.readyWas = true ∨ s.boot.bisque = true)
    (hshut : s.boot.shutting = false) (hdue : s.lastMeas + coneGap ≤ s.refNow) : exec (.coneMeasure env) s = .next
      (if s.lacksMargin env then ((s.measuredDies env).replanDies env (s.lowDies env)).enterBisque 4
        else (s.measuredDies env).replanDies env (s.lowDies env)) :=
  State.when_true _ _ (by simpa [hfw, hshut, hdue] using hready)

/-- Bisque mode changes neither the cones nor what a measurement counts. -/
theorem State.enterBisque_four_facts (s : State) : Only (.boot :: workParts) s (s.enterBisque 4) ∧
    (∀ r ∈ otherRegs, ∀ u, (s.enterBisque 4).reg r u = s.reg r u) ∧ (s.enterBisque 4).boot.bisque = true ∧
    (s.enterBisque 4).boot.reason = 4 := by
  obtain ⟨hfalls, hboot, -, -, -, honly⟩ := s.halted_facts 4
  rw [State.enterBisque_eq, if_neg (by decide), hboot]
  exact ⟨honly, hfalls.regs, rfl, rfl⟩

/-- Settles O60. -/
theorem bisqueFaultLogAndCones : Obligations.BisqueFaultLogAndCones := by
  unfold Obligations.BisqueFaultLogAndCones
  refine ⟨fun r s hr1 hr6 => ⟨fun hfw hno => ?enters, fun hno => ?stays⟩, fun s h => ?nothing, fun s r rest h => ?record,
    fun env s low hfw hready hshut hdue hlow => ?cones, fun env s h => ?notDue⟩
  case enters =>
    obtain ⟨-, hboot, hdown, ⟨l, hl⟩, hlinks, honly⟩ := s.halted_facts r.toNat
    obtain ⟨hholdOnly, hports, hheld⟩ := (s.halted r.toNat).holdLinks_facts
    have hform : ¬ (r = 0 ∨ 6 < r.toNat) := by
      rintro (rfl | h)
      · simp at hr1
      · omega
    have hexec : exec (.bisqueEntry r) s = .next (s.enterBisque r.toNat) := by
      change execBisqueEntry r s = _
      rw [execBisqueEntry, if_neg hform]
      exact State.when_true _ _ (by simp [hfw, hno])
    have hone : r = 1 ↔ r.toNat = 1 := ⟨fun h => by rw [h]; rfl, fun h => BitVec.eq_of_toNat_eq h⟩
    refine ⟨_, l, hexec, ?_⟩
    rw [State.enterBisque_eq]
    by_cases h1 : r.toNat = 1
    · rw [if_pos h1]
      have hsaggers : (s.halted r.toNat).holdLinks.saggers = (s.halted r.toNat).saggers := hholdOnly .saggers (by decide)
      refine ⟨(hholdOnly .boot (by decide)).trans hboot, fun g hg => ?_, ?_, fun _ => ⟨hports, hheld⟩, fun h => absurd (hone.2 h1) h,
        (honly.mono (by decide)).trans (hholdOnly.mono (by decide))⟩
      · rw [State.sagger, hsaggers]
        exact hdown g hg
      · rw [show (s.halted r.toNat).holdLinks.flog = (s.halted r.toNat).flog from hholdOnly .flog (by decide), hl]
    · rw [if_neg h1]
      exact ⟨hboot, hdown, hl, fun h => absurd (hone.1 h) h1, fun _ => hlinks, honly.mono (by decide)⟩
  case stays =>
    have hform : ¬ (r = 0 ∨ 6 < r.toNat) := by
      rintro (rfl | h)
      · simp at hr1
      · omega
    change execBisqueEntry r s = _
    rw [execBisqueEntry, if_neg hform]
    exact State.when_false _ _ (by obtain h | h := hno <;> simp [h])
  case nothing =>
    change execFaultLogEnter s = _
    rw [execFaultLogEnter, h]
  case record =>
    obtain ⟨u, hexec, hlog, honly, hregs, hlost, hreset⟩ := exec_faultLogEnter_of_cons h
    refine ⟨_, hexec, rfl, ?_, fun hroom => ?_, fun hfull => ?_, fun h4 => ?_, fun hn4 => ?_, fun hlevel hsagger => hreset hlevel hsagger,
      (honly.mono (by decide)).trans ((u.onFlog_only _).mono (by decide)), fun q k hq => hregs q k hq⟩
    all_goals simp only [State.onFlog, hlog, FaultLog.enter]
    · have hkeep : s.flog.ring.length + 1 - 4096 = 0 := by omega
      have hlow : ¬ (s.flog.ring.length ≥ 4096) := by omega
      simp [hkeep, hlow]
    · have hdrop : s.flog.ring.length + 1 - 4096 = 1 := by omega
      refine ⟨?_, by simp [hfull], hlost hfull⟩
      rw [hdrop, List.drop_append_of_le_length (by omega)]
    · cases hdev : s.flog.dev <;> simp [h4]
    · simp [hn4]
  case cones =>
    have hmem (d : Nat) (hd : d < 2) : d ∈ s.lowDies env ↔ low d := by rw [State.mem_lowDies hd, hlow]
    obtain ⟨hmeasures, hlast, hconLast, hconMeas, hconReplans, hcones⟩ := s.measuredDies_facts env
    obtain ⟨hreplans, hregs, hreplanned⟩ := (s.measuredDies env).replanDies_facts env (s.nodup_lowDies env)
    obtain ⟨hbisque, hbisqueRegs, hon, hreason⟩ := ((s.measuredDies env).replanDies env (s.lowDies env)).enterBisque_four_facts
    have hexec := exec_coneMeasure_of_due (env := env) hfw hready hshut hdue
    obtain ⟨t, ht⟩ : ∃ t, t = if s.lacksMargin env then ((s.measuredDies env).replanDies env (s.lowDies env)).enterBisque 4
        else (s.measuredDies env).replanDies env (s.lowDies env) := ⟨_, rfl⟩
    rw [← ht] at hexec
    have honly : Only (.boot :: workParts) ((s.measuredDies env).replanDies env (s.lowDies env)) t := by
      rw [ht]
      exact .ite hbisque (.refl _ _)
    have htregs (r : Reg) (hr : r ∈ otherRegs) : t.reg r 0 = ((s.measuredDies env).replanDies env (s.lowDies env)).reg r 0 := by
      rw [ht]
      split
      · exact hbisqueRegs r hr 0
      · rfl
    have hplan : (s.measuredDies env).plan = s.plan := hmeasures .plan (by decide)
    have hcone (d : Nat) (hd : d < 2) : ∃ i p, t.cone d = if d ∈ s.lowDies env then
        ((s.cone d).measured env d i p).replanned s.device.vceil (env.classes.getD d []) (env.steps.getD d none)
        else (s.cone d).measured env d i p := by
      obtain ⟨i, p, hm⟩ := hcones d hd
      exact ⟨i, p, by rw [honly.cone_eq _ (by decide), hreplanned, hm, State.device, hplan, ← State.device]⟩
    refine ⟨t, hexec, ?_, ?_, ?_, ?_, fun d hd => ?_, fun h0 h1 => ?_, fun d hd hl hnone hm => ?_⟩
    · exact ((honly .lastMeas (by decide)).trans (hreplans .lastMeas (by decide))).trans hlast
    · rw [htregs _ (by decide), hregs _ _ (by decide), hconLast]
    · rw [htregs _ (by decide), hregs _ _ (by decide), hconMeas]
    · have hkeeps := execConeMeasure_keeps (env := env) (Keeps.refl true s)
      rw [show execConeMeasure env s = .next t from hexec] at hkeeps
      exact Keeps.cones hkeeps rfl
    · obtain ⟨i, p, hd'⟩ := hcone d hd
      have hmeasured := ConeDie.replanned_measures ((s.cone d).measured env d i p) s.device.vceil (env.classes.getD d []) (env.steps.getD d none)
      obtain ⟨htL, hmargin, hheat⟩ : (t.cone d).tL = env.tL.getD d [] ∧ (t.cone d).margin = env.margin.getD d [] ∧
          (t.cone d).heat = (s.cone d).heat + env.heat.getD d 0 := by
        rw [hd']
        split
        · exact hmeasured
        · exact ⟨rfl, rfl, rfl⟩
      refine ⟨htL, hmargin, hheat, fun hnot => ?_, fun n hl hsteps hfits => ?_, fun hl hnofit => ?_⟩
      · rw [hd', if_neg (fun h => hnot ((hmem d hd).1 h))]
        exact ⟨rfl, rfl⟩
      · rw [hd', if_pos ((hmem d hd).2 hl), hsteps]
        exact ConeDie.replanned_of_fits _ hfits
      · rw [hd', if_pos ((hmem d hd).2 hl)]
        exact ConeDie.replanned_of_not_fits hnofit
    · have hnil : s.lowDies env = [] := List.eq_nil_iff_forall_not_mem.2 fun d hd => by
        have hdie : d < 2 := by
          unfold State.lowDies at hd
          split at hd
          · exact absurd hd List.not_mem_nil
          · have := (List.mem_filter.1 hd).1
            simp only [List.mem_cons, List.not_mem_nil, or_false] at this
            omega
        interval_cases d
        · exact h0 ((hmem 0 hdie).1 hd)
        · exact h1 ((hmem 1 hdie).1 hd)
      have hmeasure : t = s.measuredDies env := by
        rw [ht, State.lacksMargin, hnil]
        rfl
      rw [hmeasure]
      exact ⟨hmeasures .boot (by decide), hconReplans, hmeasures⟩
    · have hlacks : s.lacksMargin env = true := List.any_eq_true.2 ⟨d, (hmem d hd).2 hl, by rw [hnone, hm]; rfl⟩
      rw [ht, if_pos hlacks]
      exact ⟨hon, hreason⟩
  case notDue => exact State.when_false _ _ (by obtain h | h | h := h <;> simp [h, Nat.not_le.2])
end Sys2Proof.Machine

namespace Sys2Proof.Machine

/-! # Held signals, shadows and deadlocks (O42) -/

/-! ## Held signals (R337) -/

theorem exec_signal_of_held {i : TallyId} {n : BitVec 16} {agent : BitVec 13} {s : State} (hn : n ≠ 0) (hmode : (s.tally (idKey i)).mode ≠ 0)
    (hfit : s.signalFits (idKey i) n.toNat agent = false) : exec (.signal i n true agent i.sagger) s =
      .next (s.onTally (idKey i) fun x => { x with blocked := x.blocked ++ [⟨agent, n.toNat⟩] }) := by
  change execSignal i n true agent i.sagger s = _
  rw [execSignal, if_neg hn, if_pos (by simp [hmode, hfit])]

theorem exec_signalUnblock_of_fits {i : TallyId} {s : State} {h : HeldSignal}
    (hfind : (s.tally (idKey i)).blocked.find? (fun h => s.signalFits (idKey i) h.n h.agent) = some h) (hhome : s.homeHere (idKey i) = true) :
    exec (.signalUnblock i) s = .next
      ((s.onTally (idKey i) fun x => { x with blocked := x.blocked.erase h }).applySignal (idKey i) h.n h.agent) := by
  have hhere : (s.onTally (idKey i) fun x => { x with blocked := x.blocked.erase h }).homeHere (idKey i) = true := by
    rw [← hhome, State.homeHere, State.homeHere, State.onTally_tally, if_pos rfl]
    rfl
  change execSignalUnblock i s = _
  rw [execSignalUnblock, hfind]
  dsimp only
  rw [State.deliverSignal, if_pos hhere]

/-! ## Shadows (R343) -/

/-- The state in which the shadow of a tally has been written. -/
def State.shadowed (s : State) (k a : Nat) : State :=
  (((s.onTally k fun x => { x with shadowDue := false }).putHbmNum a 8 (s.tally k).prod.toNat).bump .hbmNarrow (stackOfAddr a) 1).bump
    .hbmWrBytes (stackOfAddr a) 8

theorem State.shadowed_hbm (s : State) (k a : Nat) : (s.shadowed k a).hbmNum a 8 = (s.tally k).prod.toNat := by
  have hlt : (s.tally k).prod.toNat < 256 ^ 8 := lt_of_lt_of_le (s.tally k).prod.isLt (by norm_num)
  exact (mnum_mputNum ..).trans (Nat.mod_eq_of_lt hlt)

theorem State.shadowed_only (s : State) (k a : Nat) : Only [.mem, .tallies, .regs] s (s.shadowed k a) :=
  ((((s.onTally_only _ _).mono (by decide)).trans ((State.withMem_only _ _).mono (by decide))).trans
    ((State.bump_only_regs _ _ _ _).mono (by decide))).trans ((State.bump_only_regs _ _ _ _).mono (by decide))

theorem State.shadowed_tally (s : State) (k a j : Nat) :
    (s.shadowed k a).tally j = if j = k then { s.tally k with shadowDue := false } else s.tally j := by
  change (s.onTally k fun x => { x with shadowDue := false }).tally j = _
  rw [State.onTally_tally]

/-! ## Deadlocks (R344, R345, R468) -/

/-- A deadlock is noted: the snapshot is written, DL_COUNT counts, and the detector is disarmed. -/
def State.deadlocked (s : State) (g : Nat) : State := ((s.writeSnap g (s.snapEntries g)).bump .tlyDlCount 0 1).disarm g

theorem State.disarm_only (s : State) (g : Nat) : Only [.saggers, .houseArmed] s (s.disarm g) := by
  unfold State.disarm
  split
  · exact (s.onSagger_only _ _).mono (by decide)
  · intro p hp
    cases p
    case houseArmed => simp at hp
    all_goals rfl

theorem State.deadlocked_count (s : State) (g : Nat) :
    (s.deadlocked g).reg .tlyDlCount 0 = min (s.reg .tlyDlCount 0 + 1) (2 ^ 32 - 1) := by
  rw [State.deadlocked, (State.disarm_only _ g).reg_eq _ _ (by decide), State.reg_bump_same]
  rfl

theorem State.deadlocked_flog (s : State) (g : Nat) : (s.deadlocked g).flog = s.flog := State.disarm_only _ g .flog (by decide)

section
variable {s : State} {k : BitVec 4} (harmed : (s.detector k.toNat).2 = true) (hlate : (s.detector k.toNat).1 + 10000 ≤ s.refNow)
include harmed hlate

theorem exec_deadlockDetect_sagger (hk : k.toNat < 12) (hne : s.snapEntries k.toNat ≠ []) (hlead : s.luted k.toNat = true → s.lead = true) :
    ∃ sub, exec (.deadlockDetect k) s = .next ((s.deadlocked k.toNat).fault 3 0xC 0xC4 k.toNat (dieOfSagger k.toNat) sub) := by
  have hwatch : (!s.luted k.toNat || s.lead) = true := by
    cases hl : s.luted k.toNat with
    | false => rfl
    | true => simp [hlead hl]
  refine ⟨((s.snapEntries k.toNat).head?.map (·.index)).getD 0, ?_⟩
  change execDeadlockDetect k s = _
  unfold execDeadlockDetect
  simp only [if_pos hk]
  refine State.when_true _ _ ?_
  simp [harmed, hlate, hne, hwatch, Nat.not_le.2 hk]
end

theorem exec_deadlockDetect_house {s : State} (hne : s.snapEntries 15 ≠ []) (harmed : (s.detector 15).2 = true)
    (hlate : (s.detector 15).1 + 10000 ≤ s.refNow) :
    ∃ sub, exec (.deadlockDetect 15) s = .next (((s.deadlocked 15).fault 4 0xC 0xC5 15 0 sub).enterBisque 6) := by
  have hluted : s.luted 15 = false := by rw [State.luted, BitVec.getLsbD_of_ge _ _ (by decide), Bool.and_false]
  refine ⟨((s.snapEntries 15).head?.map (·.index)).getD 0, ?_⟩
  refine State.when_true _ _ ?_
  change ((s.detector 15).2 && decide ((s.detector 15).1 + 10000 ≤ s.refNow) && !(s.snapEntries 15).isEmpty && !(decide (12 ≤ 15) && decide (15 < 15)) &&
    (!s.luted 15 || s.lead)) = true
  simp [harmed, hlate, hne, hluted]

/-- Settles O42. -/
theorem heldSignalsShadowsAndDeadlocks : Obligations.HeldSignalsShadowsAndDeadlocks := by
  unfold Obligations.HeldSignalsShadowsAndDeadlocks
  refine ⟨fun i n agent s hn hmode hfit => ?held, fun i s h x hx hfind hhome => ?unblock, fun i s hnone => ?noneFits,
    fun i s a ha hshadow hdue hplace => ?shadow, fun k s e es hk hes harmed hlate hlead hempty => ?sagger, fun s hne harmed hlate => ?house⟩
  case held => exact ⟨_, exec_signal_of_held hn hmode hfit, by simp, s.onTally_only _ _, s.onTally_others _ _⟩
  case unblock =>
    subst hx
    obtain ⟨e, htally, -, -⟩ := State.applySignal_tally (s.onTally (idKey i) fun x => { x with blocked := x.blocked.erase h }) (idKey i) h.n h.agent
    rw [State.onTally_tally, if_pos rfl] at htally
    refine ⟨_, exec_signalUnblock_of_fits hfind hhome, ?_, ?_, ?_, ?_, (s.onTally_others _ _).trans (State.applySignal_others _ _ _ _),
      ((s.onTally_only _ _).mono (by decide)).trans (State.applySignal_only _ _ _ _)⟩
    all_goals rw [htally]; rfl
  case noneFits =>
    change execSignalUnblock i s = _
    rw [execSignalUnblock, hnone]
  case shadow =>
    subst ha
    have hexec : exec (.tallyShadowWrite i) s = .next (s.shadowed (idKey i) (s.placeAddr i.sagger.toNat 0x0A + 8 * i.index.toNat)) :=
      State.when_true _ _ (by simp [hshadow, hdue, hplace])
    exact ⟨_, hexec, s.shadowed_hbm _ _, outside_mputNum _ _ _ _, rfl, (s.shadowed_tally _ _ _).trans (if_pos rfl), s.shadowed_only _ _,
      .single fun j hj => (s.shadowed_tally _ _ _).trans (if_neg hj)⟩
  case sagger =>
    obtain ⟨sub, hexec⟩ := exec_deadlockDetect_sagger harmed hlate hk (by simp [hes]) hlead
    have hframe : WheelFrame [.saggers, .flog, .lute] [] [k.toNat] (s.deadlocked k.toNat)
      ((s.deadlocked k.toNat).fault 3 0xC 0xC4 k.toNat (dieOfSagger k.toNat) sub) := WheelFrame.refl.fault
    have hsnap : Only [.snaps, .freeCtr] s (s.writeSnap k.toNat (s.snapEntries k.toNat)) := by
      intro p hp
      cases p
      case snaps => simp at hp
      case freeCtr => simp at hp
      all_goals rfl
    have hsaggers : (s.deadlocked k.toNat).saggers = (s.onSagger k.toNat fun x => { x with dlArmed := false }).saggers := by
      rw [State.deadlocked, State.disarm, if_pos hk]
      rfl
    have hsagger (j : Nat) : (s.deadlocked k.toNat).sagger j = (s.onSagger k.toNat fun x => { x with dlArmed := false }).sagger j := by
      rw [State.sagger, hsaggers, State.sagger]
    have hdeadlocked : Only [.snaps, .freeCtr, .regs, .saggers] s (s.deadlocked k.toNat) := by
      rw [State.deadlocked, State.disarm, if_pos hk]
      exact ((hsnap.mono (by decide)).trans ((State.bump_only_regs _ _ _ _).mono (by decide))).trans ((State.onSagger_only _ _ _).mono (by decide))
    refine ⟨_, hexec, (State.detects_fault _ 3 0xC 0xC4 _ _ _).after (s.deadlocked_flog _), ?_, ?_, ?_,
      (hdeadlocked.mono (by decide)).trans (hframe.only.mono (by decide)), ?_, ?_⟩
    · have hsnaps : ((s.deadlocked k.toNat).fault 3 0xC 0xC4 k.toNat (dieOfSagger k.toNat) sub).snaps = (s.deadlocked k.toNat).snaps :=
        hframe.only .snaps (by decide)
      have hwritten : (s.deadlocked k.toNat).snaps = tset s.snaps k.toNat (snapWords s.now k.toNat (e :: es)) := by
        rw [State.deadlocked, State.disarm, if_pos hk, hes]
        change tset s.snaps k.toNat (if (tget [] s.snaps k.toNat).isEmpty = true then _ else _) = _
        rw [hempty]
        rfl
      rw [hsnaps, hwritten, tget_tset, if_pos rfl]
    · rw [hframe.reg_eq]
      exact s.deadlocked_count _
    · obtain ⟨st, cause, hx⟩ := State.raise_sagger (s.deadlocked k.toNat)
        { code := faultCode 3 0xC 0xC4, sagger := sgField k.toNat, unit := dieOfSagger k.toNat, subunit := sub } k.toNat
      rw [State.detector, if_pos hk]
      change ((State.raise _ _).sagger k.toNat).dlArmed = false
      rw [hx]
      change ((s.deadlocked k.toNat).sagger k.toNat).dlArmed = false
      rw [hsagger, State.onSagger_sagger, if_pos rfl]
    · refine Others.trans (t := s.deadlocked k.toNat) (.single fun j hj => ?_) hframe.saggers
      rw [hsagger, State.onSagger_sagger, if_neg hj]
    · intro r u hr
      rw [hframe.reg_eq, State.deadlocked, (State.disarm_only _ _).reg_eq _ _ (by decide)]
      exact (State.writeSnap _ _ _).bump_regsOnly 1 (List.mem_singleton.2 rfl) r u hr
  case house =>
    obtain ⟨sub, hexec⟩ := exec_deadlockDetect_house hne harmed hlate
    obtain ⟨u, hu⟩ : ∃ u, u = (s.deadlocked 15).fault 4 0xC 0xC5 15 0 sub := ⟨_, rfl⟩
    have hrecord : Only [.flog] (s.deadlocked 15) u := hu ▸ State.fault_only_flog (cls := 4) (block := 0xC) (detail := 0xC5) _ _ _ _ (by decide)
    have hcodes : u.flog.detected.map (·.code) = s.flog.detected.map (·.code) ++ [0x4CC5#16] := by
      rw [hu]
      exact ((State.detects_fault _ 4 0xC 0xC5 15 0 sub).after (s.deadlocked_flog 15)).1
    obtain ⟨hfalls, hboot, -, ⟨l, hl⟩, -, -⟩ := u.halted_facts 6
    rw [← hu, State.enterBisque_eq, if_neg (by decide)] at hexec
    rw [hcodes] at hl
    refine ⟨_, hexec, ?_, ?_, ?_, ?_, ?_, ?_⟩
    · rw [hboot]
    · rw [hboot]
    · rw [hfalls.regs _ (by decide), hrecord.reg_eq _ _ (by decide)]
      exact s.deadlocked_count 15
    · have hlen := congrArg List.length hl
      simp only [List.length_map, List.length_append, List.length_singleton] at hlen
      omega
    · rw [hl]
      simp
    · rw [hl]
      simp

end Sys2Proof.Machine

namespace Sys2Proof.Machine

/-! # A pair that forms (O49)

Two records of this plan name shelf 0: one of sagger 0, which comes first and is not luted, and one of luted sagger 1.  Building
sagger 1 offers every wheel of its shelves to the wheel's owner, and the owner of a shelf is the first sagger that names it. -/

/-- The lute is UP and the pair not yet formed; the wheels of shelf 0 may take entries. -/
def formsBesideShared : State :=
  { State.reset with
    plan := some { saggers := [{ sagger := 0, shelves := 1 }, { sagger := 1, shelves := 1, minStrata := 0 }], device := { role := 1, luted := 2 } }
    ports := [(6, { st := .up })], boot := { phase := 6 }
    saggers := [(0, { st := .serving }), (1, {})] }

/-- Only sagger 1 is luted, and building it changes the queue of waiting wheels of sagger 0. -/
theorem formsBesideShared_waiting : 0 ∉ formsBesideShared.lutedSaggers ∧ (formsBesideShared.sagger 0).waiting = [] ∧
    (((formsBesideShared.onLute fun l => { l with paired := true, mirrors := [] }).buildSagger 1).sagger 0).waiting = List.range 12 := by
  decide +kernel

/-- PAIR_FORM builds sagger 1. -/
theorem exec_pairForm_formsBesideShared : exec .pairForm formsBesideShared =
    .next ((formsBesideShared.onLute fun l => { l with paired := true, mirrors := [] }).buildSagger 1) := by
  have hdown : (formsBesideShared.lutedSaggers.filter fun g => (formsBesideShared.sagger g).st == .down) = [1] := by decide +kernel
  change execPairForm formsBesideShared = _
  unfold execPairForm
  rw [State.when_true _ _ (by decide +kernel)]
  rw [hdown, List.foldl_cons, List.foldl_nil]

/-- Refutes O49: while the luted sagger is built, its wheels join the queue of the unluted sagger that the plan names first. -/
theorem not_pairsFormAndStopTogether : ¬ Obligations.PairsFormAndStopTogether := by
  unfold Obligations.PairsFormAndStopTogether
  rintro ⟨hform, -⟩
  obtain ⟨t, hexec, -, hothers, -⟩ := hform formsBesideShared (by decide) (by decide) (by decide) (by decide) (by decide) (by decide)
    (by decide)
  rw [exec_pairForm_formsBesideShared] at hexec
  cases hexec
  obtain ⟨hunluted, hbefore, hafter⟩ := formsBesideShared_waiting
  rw [hothers 0 hunluted, hbefore] at hafter
  exact absurd hafter (by decide)

end Sys2Proof.Machine

namespace Sys2Proof.Machine

/-! # Channels of a Shomu link (O51) -/

/-! ## Frames of a channel -/

theorem Only.chan_eq {ps : List Field} {s t : State} (h : Only ps s t) (c : Nat) (hp : .chans ∉ ps) : t.chan c = s.chan c :=
  congrArg (fun l : Tab Chan => tget ({} : Chan) l c) (h .chans hp)

theorem Only.link_eq {ps : List Field} {s t : State} (h : Only ps s t) (k : Nat) (hp : .links ∉ ps) : t.link k = s.link k :=
  congrArg (fun l : Tab Link => tget ({} : Link) l k) (h .links hp)

/-- From `s` to `t` only the parts of `ps` may have changed, and of the channels only `c`. -/
structure ChanFrame (ps : List Field) (c : Nat) (s t : State) : Prop where
  only   : Only ps s t
  others : Others State.chan [c] s t

namespace ChanFrame

variable {ps : List Field} {c : Nat} {s t u : State}

theorem refl : ChanFrame ps c s s := ⟨.refl _ _, fun _ _ => rfl⟩

theorem trans (h : ChanFrame ps c s t) (h' : ChanFrame ps c t u) : ChanFrame ps c s u :=
  ⟨h.only.trans h'.only, fun k hk => (h'.others k hk).trans (h.others k hk)⟩

theorem of_only {qs : List Field} (h : ChanFrame ps c s t) (hu : Only qs t u) (hq : ∀ p ∈ qs, p ∈ ps)
    (hc : .chans ∉ qs) : ChanFrame ps c s u :=
  h.trans ⟨hu.mono hq, fun k _ => hu.chan_eq k hc⟩

theorem onChan {f : Chan → Chan} (h : ChanFrame ps c s t) (hp : .chans ∈ ps) : ChanFrame ps c s (t.onChan c f) :=
  h.trans ⟨(t.onChan_only c f).widen hp, fun k hk => by rw [State.onChan_chan, if_neg (by simpa using hk)]⟩

theorem onLink {k : Nat} {f : Link → Link} (h : ChanFrame ps c s t) (hp : .links ∈ ps) : ChanFrame ps c s (t.onLink k f) :=
  h.trans ⟨(t.onLink_only k f).widen hp, fun _ _ => rfl⟩

theorem bump {r : Reg} {k n : Nat} (h : ChanFrame ps c s t) (hp : .regs ∈ ps) : ChanFrame ps c s (t.bump r k n) :=
  h.trans ⟨(t.bump_only_regs r k n).widen hp, fun _ _ => rfl⟩

theorem fault {cls block detail g unit sub : Nat} (h : ChanFrame ps c s t) (hp : .flog ∈ ps)
    (hcls : codeClass (faultCode cls block detail) ≠ 3) : ChanFrame ps c s (t.fault cls block detail g unit sub) :=
  have honly := t.fault_only_flog g unit sub hcls
  h.trans ⟨honly.widen hp, fun k _ => honly.chan_eq k (by decide)⟩

theorem withSwaps {l : List SwapReq} (h : ChanFrame ps c s t) (hp : .swaps ∈ ps) : ChanFrame ps c s { t with swaps := l } :=
  h.trans ⟨(t.withSwaps_only l).widen hp, fun _ _ => rfl⟩

theorem draw (h : ChanFrame ps c s t) (hp : .freeCtr ∈ ps) : ChanFrame ps c s t.draw.2 :=
  h.trans ⟨(t.withFreeCtr_only _).widen hp, fun _ _ => rfl⟩

theorem sendUnder {kslot type : Nat} {tag : BitVec 32} {bs : List Byte} (h : ChanFrame ps c s t) (hp : .chans ∈ ps) :
    ChanFrame ps c s (t.sendUnder c kslot type tag bs) := h.onChan hp

end ChanFrame

/-! ## Messages of a channel -/

theorem State.takeCtrl_of_head {s : State} {c type g : Nat} {m : Msg} (hhead : s.headMsg c type = some m)
    (howner : s.saggerOfChan c = some g) (f : State → Nat → Msg → State) : s.takeCtrl c type f = .next (f (s.popMsg c type) g m) := by
  simp [State.takeCtrl, hhead, howner]

theorem State.popMsg_frame (s : State) (c type : Nat) : ChanFrame [.chans] c s (s.popMsg c type) := ChanFrame.refl.onChan (by decide)

theorem State.sendUnder_chan (s : State) (c kslot type : Nat) (tag : BitVec 32) (bs : List Byte) :
    (s.sendUnder c kslot type tag bs).chan c = { s.chan c with tx := (s.chan c).tx ++ [⟨type, tag, bs, kslot⟩] } := by
  rw [State.sendUnder, State.onChan_chan, if_pos rfl]

theorem State.popMsg_chan (s : State) (c type : Nat) :
    (s.popMsg c type).chan c = { s.chan c with rx := (s.chan c).rx.eraseP fun m => sameLane m.type type } := by
  rw [State.popMsg, State.onChan_chan, if_pos rfl]

theorem State.badFrame_only (s : State) (k c : Nat) : Only [.flog] s (s.badFrame k c) := s.fault_only_flog 15 k c (by decide)

theorem State.detects_badFrame (s : State) (k c : Nat) : Detects 0x5EE3#16 s (s.badFrame k c) := s.detects_fault ..

/-- A record after a message has been taken. -/
theorem State.popMsg_badFrame (s : State) (c type k : Nat) : ChanFrame [.chans, .flog] c s ((s.popMsg c type).badFrame k c) ∧
    Detects 0x5EE3#16 s ((s.popMsg c type).badFrame k c) ∧ ((s.popMsg c type).badFrame k c).chan c = (s.popMsg c type).chan c :=
  ⟨(ChanFrame.refl.onChan (by decide)).fault (by decide) (by decide), ((s.popMsg c type).detects_badFrame k c).after rfl,
    ((s.popMsg c type).badFrame_only k c).chan_eq c (by decide)⟩

/-! ## STATUS_REQ and ATTEST_REQ (R401, R426) -/

section
variable {c : ChanIx} {s : State} {m : Msg} {g : Nat}

theorem exec_statusReq_of_bad (hhead : s.headMsg c.val 0x30 = some m) (howner : s.saggerOfChan c.val = some g) (hne : m.payload ≠ []) :
    exec (.statusReq c) s = .next ((s.popMsg c.val 0x30).badFrame (s.linkOfChan c.val) c.val) := by
  change execStatusReq c s = _
  unfold execStatusReq
  exact (State.takeCtrl_of_head hhead howner _).trans (congrArg _ (if_pos (by simpa using hne)))

theorem exec_statusReq_of_empty (hhead : s.headMsg c.val 0x30 = some m) (howner : s.saggerOfChan c.val = some g) (he : m.payload = []) :
    exec (.statusReq c) s = .next ((s.popMsg c.val 0x30).sendUnder c.val m.kslot 0x31 m.tag (s.statusOf c.val g)) := by
  change execStatusReq c s = _
  unfold execStatusReq
  exact (State.takeCtrl_of_head hhead howner _).trans (congrArg _ (if_neg (by simp [he])))

theorem statusReq_answers (hhead : s.headMsg c.val 0x30 = some m) (howner : s.saggerOfChan c.val = some g) :
    ∃ t, exec (.statusReq c) s = .next t ∧ (t.chan c.val).rx = ((s.popMsg c.val 0x30).chan c.val).rx ∧ Others State.chan [c.val] s t ∧
      (m.payload = [] → (t.chan c.val).tx = (s.chan c.val).tx ++ [⟨0x31, m.tag, s.statusOf c.val g, m.kslot⟩] ∧ Only [.chans] s t) ∧
      (m.payload ≠ [] → Detects 0x5EE3#16 s t ∧ (t.chan c.val).tx = (s.chan c.val).tx ∧ Only [.chans, .flog] s t) := by
  by_cases he : m.payload = []
  · have hframe : ChanFrame [.chans] c.val s ((s.popMsg c.val 0x30).sendUnder c.val m.kslot 0x31 m.tag (s.statusOf c.val g)) :=
      (s.popMsg_frame ..).sendUnder (by decide)
    refine ⟨_, exec_statusReq_of_empty hhead howner he, ?_, hframe.others, fun _ => ⟨?_, hframe.only⟩, fun hne => absurd he hne⟩
    · rw [State.sendUnder_chan]
    · rw [State.sendUnder_chan, State.popMsg_tx]
  · obtain ⟨hframe, hdetects, hchan⟩ := s.popMsg_badFrame c.val 0x30 (s.linkOfChan c.val)
    exact ⟨_, exec_statusReq_of_bad hhead howner he, congrArg Chan.rx hchan, hframe.others, fun h => absurd h he,
      fun _ => ⟨hdetects, (congrArg Chan.tx hchan).trans (s.popMsg_tx ..), hframe.only⟩⟩

/-- A report on a channel: the records of saggers that did not settle, the count and the message. -/
theorem State.sendReport_on_channel {s : State} {a : AttestWait} (hsess : a.sess = none) :
    ChanFrame [.chans, .regs, .flog] a.chan s (s.sendReport a) ∧
      (s.sendReport a).chan a.chan = { s.chan a.chan with tx := (s.chan a.chan).tx ++ [⟨0x41, a.tag, s.report a.nonce a.mask, a.kslot⟩] } ∧
      (s.sendReport a).reg .secAttest 0 = min (s.reg .secAttest 0 + 1) (2 ^ 32 - 1) := by
  obtain ⟨u, hu⟩ : ∃ u, u = s.lateFaults (s.lateSaggers a.mask) := ⟨_, rfl⟩
  have hlate : Only [.flog] s u := hu ▸ (s.lateFaults_facts _).1
  have heq : s.sendReport a = (u.bump .secAttest 0 1).sendUnder a.chan a.kslot 0x41 a.tag (s.report a.nonce a.mask) := by
    unfold State.sendReport
    rw [hsess, hu]
    rfl
  rw [heq]
  refine ⟨((ChanFrame.refl.of_only hlate (by decide) (by decide)).bump (by decide)).sendUnder (by decide), ?_, ?_⟩
  · rw [State.sendUnder_chan, State.bump_chan, hlate.chan_eq _ (by decide)]
  · refine (State.reg_bump_same u .secAttest 0 1).trans ?_
    rw [hlate.reg_eq _ _ (by decide)]
    rfl

theorem State.popMsg_report (s : State) (c type : Nat) (nonce : List Byte) (mask : BitVec 12) :
    (s.popMsg c type).report nonce mask = s.report nonce mask := rfl

theorem State.popMsg_attestReady (s : State) (c type : Nat) (a : AttestWait) : (s.popMsg c type).attestReady a = s.attestReady a := rfl

theorem exec_attestReq_of_bad (hhead : s.headMsg c.val 0x40 = some m) (howner : s.saggerOfChan c.val = some g)
    (hlen : m.payload.length ≠ 32) : exec (.attestReq c) s = .next ((s.popMsg c.val 0x40).badFrame (s.linkOfChan c.val) c.val) := by
  change execAttestReq c s = _
  unfold execAttestReq
  exact (State.takeCtrl_of_head hhead howner _).trans (congrArg _ (if_pos hlen))

theorem exec_attestReq_of_good (hhead : s.headMsg c.val 0x40 = some m) (howner : s.saggerOfChan c.val = some g)
    (hlen : m.payload.length = 32) : exec (.attestReq c) s = .next (if s.boot.keyOk then
      (s.popMsg c.val 0x40).askReport ⟨m.payload, 1 <<< g, s.refNow, none, c.val, m.kslot, m.tag⟩ else s.popMsg c.val 0x40) := by
  change execAttestReq c s = _
  unfold execAttestReq
  refine (State.takeCtrl_of_head hhead howner _).trans (congrArg _ ((if_neg (not_not_intro hlen)).trans ?_))
  cases hkey : s.boot.keyOk
  · exact if_pos (by simp [State.popMsg, hkey])
  · exact if_neg (by simp [State.popMsg, hkey])

theorem attestReq_answers {a : AttestWait} (hhead : s.headMsg c.val 0x40 = some m) (howner : s.saggerOfChan c.val = some g)
    (ha : a = ⟨m.payload, 1 <<< g, s.refNow, none, c.val, m.kslot, m.tag⟩) :
    ∃ t, exec (.attestReq c) s = .next t ∧ (t.chan c.val).rx = ((s.popMsg c.val 0x40).chan c.val).rx ∧ Others State.chan [c.val] s t ∧
      (m.payload.length ≠ 32 → Detects 0x5EE3#16 s t ∧ Only [.chans, .flog] s t) ∧
      (m.payload.length = 32 → s.boot.keyOk = true → s.attestReady a = false → t.mgmt = { s.mgmt with attests := s.mgmt.attests ++ [a] } ∧
        Only [.chans, .mgmt] s t) ∧
      (m.payload.length = 32 → s.boot.keyOk = true → s.attestReady a = true →
        (t.chan c.val).tx = (s.chan c.val).tx ++ [⟨0x41, m.tag, s.report m.payload (1 <<< g), m.kslot⟩] ∧
        t.reg .secAttest 0 = min (s.reg .secAttest 0 + 1) (2 ^ 32 - 1) ∧ Only [.chans, .regs, .flog] s t) := by
  have hframe := s.popMsg_frame c.val 0x40
  by_cases hlen : m.payload.length = 32
  case neg =>
    obtain ⟨hbad, hdetects, hchan⟩ := s.popMsg_badFrame c.val 0x40 (s.linkOfChan c.val)
    exact ⟨_, exec_attestReq_of_bad hhead howner hlen, congrArg Chan.rx hchan, hbad.others, fun _ => ⟨hdetects, hbad.only⟩,
      fun h => absurd h hlen, fun h => absurd h hlen⟩
  have hexec := exec_attestReq_of_good hhead howner hlen
  rw [← ha] at hexec
  cases hkey : s.boot.keyOk
  case false =>
    rw [hkey] at hexec
    exact ⟨_, hexec, rfl, hframe.others, fun h => absurd hlen h, fun _ h => Bool.noConfusion h, fun _ h => Bool.noConfusion h⟩
  rw [hkey, if_pos rfl, State.askReport, State.popMsg_attestReady] at hexec
  cases hready : s.attestReady a
  case false =>
    rw [hready] at hexec
    exact ⟨_, hexec, rfl, hframe.others, fun h => absurd hlen h,
      fun _ _ _ => ⟨rfl, (hframe.only.mono (by decide)).trans ((State.onMgmt_only_mgmt _ _).mono (by decide))⟩, fun _ _ h => Bool.noConfusion h⟩
  rw [hready, if_pos rfl] at hexec
  subst ha
  obtain ⟨hreport, hchan, hreg⟩ := State.sendReport_on_channel (s := s.popMsg c.val 0x40)
    (a := ⟨m.payload, 1 <<< g, s.refNow, none, c.val, m.kslot, m.tag⟩) rfl
  have hall := (show ChanFrame [.chans, .regs, .flog] c.val s (s.popMsg c.val 0x40) from ChanFrame.refl.onChan (by decide)).trans hreport
  refine ⟨_, hexec, ?_, hall.others, fun h => absurd hlen h, fun _ _ h => Bool.noConfusion h, fun _ _ _ => ⟨?_, hreg, hall.only⟩⟩
  · rw [hchan]
  · rw [hchan, State.popMsg_tx]
    rfl

end

end Sys2Proof.Machine

namespace Sys2Proof.Machine

/-! # Keys of a channel (O51) -/

/-! ## Slots -/

theorem Chan.slot_setSlot (x : Chan) (n : Nat) (k : KeySlot) : (x.setSlot n k).slot n = k := by
  unfold Chan.setSlot Chan.slot
  split <;> rfl

theorem Chan.slot_of_slots {x y : Chan} (h0 : y.slot0 = x.slot0) (h1 : y.slot1 = x.slot1) (n : Nat) : y.slot n = x.slot n := by
  unfold Chan.slot
  rw [h0, h1]

theorem Chan.setSlot_rx (x : Chan) (n : Nat) (k : KeySlot) : (x.setSlot n k).rx = x.rx := by
  unfold Chan.setSlot
  split <;> rfl

theorem Chan.setSlot_tx (x : Chan) (n : Nat) (k : KeySlot) : (x.setSlot n k).tx = x.tx := by
  unfold Chan.setSlot
  split <;> rfl

theorem Chan.setSlot_active (x : Chan) (n : Nat) (k : KeySlot) : (x.setSlot n k).active = x.active := by
  unfold Chan.setSlot
  split <;> rfl

theorem Chan.setSlot_parts (x : Chan) (n : Nat) (k : KeySlot) : (x.setSlot n k).parts = x.parts := by
  unfold Chan.setSlot
  split <;> rfl

/-! ## KEY_OFFER (R395) -/

/-- The channel with fresh keys in a slot: the first of the slots to have keys opens it. -/
def Chan.keyed (x : Chan) (n : Nat) (k : KeySlot) : Chan :=
  let first := !(x.slot (1 - n)).live
  { x.setSlot n k with active := if first then n else x.active, st := if first then .open else .rotating }

/-- The slot that 64 bytes of keys fill. -/
def keySlotOf (keys : List Byte) : KeySlot :=
  { live := true, rxKey := BitVec.ofNat 256 (leNat (keys.take 32)), txKey := BitVec.ofNat 256 (leNat (keys.drop 32)) }

theorem State.installKeys_frame (s : State) (c n : Nat) (keys : List Byte) : ChanFrame [.chans, .links] c s (s.installKeys c n keys) := by
  unfold State.installKeys
  dsimp only
  split
  · exact (ChanFrame.refl.onChan (by decide)).onLink (by decide)
  · exact ChanFrame.refl.onChan (by decide)

theorem State.installKeys_freeCtr (s : State) (c n : Nat) (keys : List Byte) : (s.installKeys c n keys).freeCtr = s.freeCtr :=
  (s.installKeys_frame c n keys).only .freeCtr (by decide)

theorem State.installKeys_chan (s : State) (c n : Nat) (keys : List Byte) :
    (s.installKeys c n keys).chan c = (s.chan c).keyed n (keySlotOf keys) := by
  unfold State.installKeys
  dsimp only
  split
  next hfirst =>
    rw [State.grantChan, State.onLink_chan, State.onChan_chan, if_pos rfl]
    simp [Chan.keyed, hfirst, keySlotOf]
  next hlater =>
    rw [State.onChan_chan, if_pos rfl]
    simp [Chan.keyed, hlater, keySlotOf]

theorem State.acceptOffer_eq (s : State) (c : Nat) (m : Msg) : ∃ answer keys, s.acceptOffer c m =
    ((s.draw.2.draw.2).sendUnder c m.kslot 0x43 m.tag answer).installKeys c (bfield m.payload 0 1) keys := ⟨_, _, rfl⟩

theorem State.popMsg_offerBad (s : State) (c type : Nat) (p : List Byte) : (s.popMsg c type).offerBad c p = s.offerBad c p := by
  have hslot := Chan.slot_of_slots (congrArg Chan.slot0 (s.popMsg_chan c type)) (congrArg Chan.slot1 (s.popMsg_chan c type)) (bfield p 0 1)
  unfold State.offerBad
  rw [hslot]
  rfl

section
variable {c : ChanIx} {s : State} {m : Msg} {g : Nat}

theorem exec_keyOffer_of_refused (hhead : s.headMsg c.val 0x42 = some m) (howner : s.saggerOfChan c.val = some g)
    (hready : s.boot.readyWas = true) {r : Nat} (hbad : s.offerBad c.val m.payload = some r) : exec (.keyOffer c) s = .next
      (((s.popMsg c.val 0x42).fault 5 0xE 0xE6 15 (s.linkOfChan c.val) c.val).sendUnder c.val m.kslot 0x44 m.tag (leBytes r 4)) := by
  change execKeyOffer c s = _
  unfold execKeyOffer
  refine (if_neg (by simp [hready])).trans ((State.takeCtrl_of_head hhead howner _).trans ?_)
  rw [State.popMsg_offerBad, hbad]
  rfl

theorem exec_keyOffer_of_accepted (hhead : s.headMsg c.val 0x42 = some m) (howner : s.saggerOfChan c.val = some g)
    (hready : s.boot.readyWas = true) (hgood : s.offerBad c.val m.payload = none) :
    exec (.keyOffer c) s = .next ((s.popMsg c.val 0x42).acceptOffer c.val m) := by
  change execKeyOffer c s = _
  unfold execKeyOffer
  refine (if_neg (by simp [hready])).trans ((State.takeCtrl_of_head hhead howner _).trans ?_)
  rw [State.popMsg_offerBad, hgood]

theorem keyOffer_answers {n : Nat} (hhead : s.headMsg c.val 0x42 = some m) (howner : s.saggerOfChan c.val = some g)
    (hready : s.boot.readyWas = true) (hn : n = bfield m.payload 0 1) :
    ∃ t y, exec (.keyOffer c) s = .next t ∧ y = t.chan c.val ∧ Others State.chan [c.val] s t ∧
      (∀ r, s.offerBad c.val m.payload = some r → y.tx = (s.chan c.val).tx ++ [⟨0x44, m.tag, leBytes r 4, m.kslot⟩] ∧
        y.slot0 = (s.chan c.val).slot0 ∧ y.slot1 = (s.chan c.val).slot1 ∧ y.st = (s.chan c.val).st ∧ Detects 0x5EE6#16 s t ∧ Only [.chans, .flog] s t) ∧
      (s.offerBad c.val m.payload = none → (y.slot n).live = true ∧ (y.slot n).rxCtr = 0 ∧ (y.slot n).txCtr = 0 ∧
        y.tx.map (·.type) = (s.chan c.val).tx.map (·.type) ++ [0x43] ∧ t.freeCtr = s.freeCtr + 2 ∧
        (((s.chan c.val).slot (1 - n)).live = false → y.st = .open ∧ y.active = n) ∧
        (((s.chan c.val).slot (1 - n)).live = true → y.st = .rotating ∧ y.active = (s.chan c.val).active) ∧
        Only [.chans, .links, .freeCtr] s t) := by
  obtain ⟨v, hv⟩ : ∃ v, v = s.popMsg c.val 0x42 := ⟨_, rfl⟩
  have hpop : v.chan c.val = { s.chan c.val with rx := (s.chan c.val).rx.eraseP fun m => sameLane m.type 0x42 } := hv ▸ s.popMsg_chan ..
  cases hoffer : s.offerBad c.val m.payload with
  | some r =>
    have hframe : ChanFrame [.chans, .flog] c.val s
        ((v.fault 5 0xE 0xE6 15 (s.linkOfChan c.val) c.val).sendUnder c.val m.kslot 0x44 m.tag (leBytes r 4)) :=
      hv ▸ ((ChanFrame.refl.onChan (by decide)).fault (by decide) (by decide)).sendUnder (by decide)
    have hchan := (v.fault 5 0xE 0xE6 15 (s.linkOfChan c.val) c.val).sendUnder_chan c.val m.kslot 0x44 m.tag (leBytes r 4)
    rw [(v.fault_only_flog 15 _ c.val (by decide)).chan_eq _ (by decide), hpop] at hchan
    have hdetects : Detects 0x5EE6#16 s (v.fault 5 0xE 0xE6 15 (s.linkOfChan c.val) c.val) := (v.detects_fault ..).after (hv ▸ rfl)
    refine ⟨_, _, hv ▸ exec_keyOffer_of_refused hhead howner hready hoffer, rfl, hframe.others, fun r' hr' => ?_, fun h => nomatch h⟩
    cases hr'
    rw [hchan]
    exact ⟨rfl, rfl, rfl, rfl, hdetects.of_flog_eq rfl rfl, hframe.only⟩
  | none =>
    obtain ⟨answer, keys, heq⟩ := v.acceptOffer_eq c.val m
    rw [← hn] at heq
    obtain ⟨w, hw⟩ : ∃ w, w = (v.draw.2.draw.2).sendUnder c.val m.kslot 0x43 m.tag answer := ⟨_, rfl⟩
    have hsent : ChanFrame [.chans, .links, .freeCtr] c.val s w := by
      rw [hw, hv]
      exact (((ChanFrame.refl.onChan (by decide)).draw (by decide)).draw (by decide)).sendUnder (by decide)
    have hwchan : w.chan c.val = { v.chan c.val with tx := (v.chan c.val).tx ++ [⟨0x43, m.tag, answer, m.kslot⟩] } :=
      hw ▸ State.sendUnder_chan ..
    have hinstall := w.installKeys_frame c.val n keys
    have hchan := w.installKeys_chan c.val n keys
    have hother : (w.chan c.val).slot (1 - n) = (s.chan c.val).slot (1 - n) :=
      Chan.slot_of_slots (by rw [hwchan, hpop]) (by rw [hwchan, hpop]) _
    rw [← hw] at heq
    have hexec := exec_keyOffer_of_accepted hhead howner hready hoffer
    rw [← hv, heq] at hexec
    refine ⟨_, _, hexec, rfl, fun k hk => (hinstall.others k hk).trans (hsent.others k hk),
      fun _ h => absurd h.symm (Option.some_ne_none _), fun _ => ?_⟩
    have hslot : ((w.chan c.val).keyed n (keySlotOf keys)).slot n = keySlotOf keys :=
      (Chan.slot_of_slots rfl rfl n).trans ((w.chan c.val).slot_setSlot n _)
    have htx : ((w.chan c.val).keyed n (keySlotOf keys)).tx = (w.chan c.val).tx := (w.chan c.val).setSlot_tx n _
    rw [hchan, hslot, htx, hwchan, hpop]
    rw [hwchan, hpop] at hother
    refine ⟨rfl, rfl, rfl, by simp, ?_, fun hfirst => ?_, fun hlater => ?_, hsent.only.trans (hinstall.only.mono (by decide))⟩
    · rw [State.installKeys_freeCtr, hw, hv]
      rfl
    · simp only [Chan.keyed, hother, hfirst]
      exact ⟨rfl, rfl⟩
    · simp only [Chan.keyed, hother, hlater]
      exact ⟨rfl, rfl⟩

end

/-! ## KEY_SLOT_RETIRE_TIMEOUT (R396, R397) -/

theorem State.retireSlot_facts (s : State) (c n k : Nat) : ChanFrame [.chans, .regs] c s (s.retireSlot c n k) ∧
    ((s.retireSlot c n k).chan c).slot n = {} ∧ ((s.retireSlot c n k).chan c).retiring = none ∧
    ∀ r u, r ≠ .shlChRotate → (s.retireSlot c n k).reg r u = s.reg r u := by
  unfold State.retireSlot
  extract_lets s1
  have hframe : ChanFrame [.chans, .regs] c s s1 := (ChanFrame.refl.bump (by decide)).onChan (by decide)
  have hreg (r : Reg) (u : Nat) (hr : r ≠ .shlChRotate) : s1.reg r u = s.reg r u := State.reg_bump_of_ne _ _ _ _ hr
  have hslot : (s1.chan c).slot n = {} := by
    unfold s1
    rw [State.onChan_chan, if_pos rfl]
    exact (Chan.slot_of_slots rfl rfl n).trans (Chan.slot_setSlot ..)
  have hretiring : (s1.chan c).retiring = none := by
    unfold s1
    rw [State.onChan_chan, if_pos rfl]
  split
  · rw [State.sendMsg, State.sendUnder_chan]
    exact ⟨hframe.sendUnder (by decide), (Chan.slot_of_slots rfl rfl n).trans hslot, hretiring, hreg⟩
  · exact ⟨hframe, hslot, hretiring, hreg⟩

theorem State.withQueued_only (s : State) (l : List SwapReq) (n : BitVec 32) :
    Only [.chans, .swaps, .nextTag] s { s with swaps := l, nextTag := n } := by
  intro p hp
  cases p
  case swaps | nextTag => simp at hp
  all_goals rfl

theorem State.resendSwap_facts (s : State) {r : SwapReq} {c : Nat} (k : Nat) (hc : r.chan = c) :
    ChanFrame [.chans, .swaps, .nextTag] c s (s.resendSwap r k) ∧ ((s.resendSwap r k).chan c).active = (s.chan c).active ∧
      ∃ x, (s.resendSwap r k).swaps = s.swaps.filter (· != r) ++ [x] ∧ x.kslot = (s.chan c).active := by
  subst hc
  obtain ⟨u, hu⟩ : ∃ u, u = s.dropSwap r := ⟨_, rfl⟩
  have hdrop : ChanFrame [.chans, .swaps, .nextTag] r.chan s u := hu ▸ (ChanFrame.refl.withSwaps (by decide)).onChan (by decide)
  have hactive : (u.chan r.chan).active = (s.chan r.chan).active := by
    rw [hu, State.dropSwap, State.onChan_chan, if_pos rfl]
    rfl
  obtain ⟨x, hx⟩ : ∃ x : SwapReq, x = { r with tries := k, tag := u.nextTag, kslot := (u.chan r.chan).active, since := u.refNow, sent := true } :=
    ⟨_, rfl⟩
  have heq : s.resendSwap r k = ({ u with swaps := u.swaps ++ [x], nextTag := u.nextTag + 1 } : State).sendUnder r.chan x.kslot
      (if r.write then 0x20 else 0x22) x.tag x.payload := by
    rw [hx, hu]
    rfl
  have hqueued : ChanFrame [.chans, .swaps, .nextTag] r.chan u { u with swaps := u.swaps ++ [x], nextTag := u.nextTag + 1 } :=
    ⟨u.withQueued_only _ _, fun _ _ => rfl⟩
  rw [heq]
  refine ⟨(hdrop.trans hqueued).sendUnder (by decide), ?_, x, ?_, by rw [hx]; exact hactive⟩
  · rw [State.sendUnder_chan]
    exact hactive
  · rw [hu]
    rfl

/-- Swap messages that are sent again under the active slot. -/
theorem State.resendSwaps_facts (s : State) {l : List SwapReq} {c : Nat} (hl : ∀ r ∈ l, r.chan = c) :
    ChanFrame [.chans, .swaps, .nextTag] c s (l.foldl (fun s r => s.resendSwap r r.tries) s) ∧
      ∀ r ∈ (l.foldl (fun s r => s.resendSwap r r.tries) s).swaps, (r ∈ s.swaps ∧ r ∉ l) ∨ r.kslot = (s.chan c).active := by
  induction l generalizing s with
  | nil => exact ⟨.refl, fun r hr => .inl ⟨hr, by simp⟩⟩
  | cons x l ih =>
    obtain ⟨hframe, hactive, y, hswaps, hslot⟩ := s.resendSwap_facts x.tries (hl x (by simp))
    obtain ⟨hrest, hleft⟩ := ih (s.resendSwap x x.tries) fun r hr => hl r (by simp [hr])
    refine ⟨hframe.trans hrest, fun r hr => ?_⟩
    obtain ⟨hmem, hnot⟩ | hnew := hleft r hr
    · rw [hswaps, List.mem_append] at hmem
      obtain hold | hsent := hmem
      · obtain ⟨hin, hne⟩ := List.mem_filter.1 hold
        exact .inl ⟨hin, by simpa [hnot] using hne⟩
      · exact .inr (by rw [List.mem_singleton.1 hsent, hslot])
    · exact .inr (hnew.trans hactive)

theorem keySlotRetireTimeout_retires {c : ChanIx} {s : State} {n since : Nat} (hretiring : (s.chan c.val).retiring = some (n, since))
    (hdue : since + 100000000 ≤ s.refNow) :
    ∃ t, exec (.keySlotRetireTimeout c) s = .next t ∧ (t.chan c.val).slot n = {} ∧ (t.chan c.val).retiring = none ∧ Others State.chan [c.val] s t ∧
      t.reg .shlChRetireTo c.val = min (s.reg .shlChRetireTo c.val + 1) (2 ^ 32 - 1) ∧
      (∀ r ∈ t.swaps, r.chan = c.val → r.sent = true → r.kslot = n → (s.chan c.val).active = n) ∧
      Only [.chans, .swaps, .nextTag, .regs] s t := by
  obtain ⟨old, hold⟩ : ∃ old, old = s.swaps.filter fun r => r.chan == c.val && r.sent && r.kslot == n := ⟨_, rfl⟩
  obtain ⟨hresent, hleft⟩ := s.resendSwaps_facts (l := old) (c := c.val) fun r hr => by
    rw [hold] at hr
    obtain ⟨-, hp⟩ := List.mem_filter.1 hr
    simp only [Bool.and_eq_true, beq_iff_eq] at hp
    exact hp.1.1
  obtain ⟨u, hu⟩ : ∃ u, u = old.foldl (fun s r => s.resendSwap r r.tries) s := ⟨_, rfl⟩
  rw [← hu] at hresent hleft
  obtain ⟨v, hv⟩ : ∃ v, v = (u.bump .shlChReissue c.val old.length).bump .shlChRetireTo c.val 1 := ⟨_, rfl⟩
  obtain ⟨hframe, hslot, hnone, hreg⟩ := v.retireSlot_facts c.val n old.length
  have hexec : exec (.keySlotRetireTimeout c) s = .next (v.retireSlot c.val n old.length) := by
    change execKeySlotRetireTimeout c s = _
    unfold execKeySlotRetireTimeout
    rw [hretiring, hv, hu, hold]
    exact State.when_true _ _ (decide_eq_true hdue)
  have hbumps : ChanFrame [.chans, .regs] c.val u v := hv ▸ (ChanFrame.refl.bump (by decide)).bump (by decide)
  have hlast := hbumps.trans hframe
  refine ⟨_, hexec, hslot, hnone, fun k hk => (hlast.others k hk).trans (hresent.others k hk), ?_, fun r hr hchan hsent hkslot => ?_,
    (hresent.only.mono (by decide)).trans (hlast.only.mono (by decide))⟩
  · rw [hreg _ _ (by decide), hv, State.reg_bump_same, State.reg_bump_of_ne _ _ _ _ (by decide), hresent.only.reg_eq _ _ (by decide)]
    rfl
  · rw [show (v.retireSlot c.val n old.length).swaps = u.swaps from hlast.only .swaps (by decide)] at hr
    obtain ⟨hmem, hnot⟩ | hactive := hleft r hr
    · exact absurd (by rw [hold]; simp [hmem, hchan, hsent, hkslot]) hnot
    · rw [← hactive, hkslot]

end Sys2Proof.Machine

namespace Sys2Proof.Machine

/-! # Frames that a link has received (O51) -/

/-! ## What a channel that closes leaves (R405) -/

theorem State.chans_setMask (s : State) (g slot : Nat) : (s.setMask g slot).chans = s.chans := by
  unfold State.setMask
  dsimp only
  split
  · rfl
  · exact s.withMem_only _ .chans (by decide)

theorem State.chans_stopSwap (s : State) (g : Nat) (q : Req) : (s.stopSwap g q).chans = s.chans := rfl

theorem State.chans_reap_of_ended {s : State} {g : Nat} (h : ∀ q ∈ (s.sagger g).live, q.st = .ended) : (s.reap g).chans = s.chans := by
  refine List.foldlRecOn (motive := fun t : State => t.chans = s.chans) _ _ rfl fun t ht q hq => ?_
  rw [if_pos (h q hq)]
  exact ((SetterWork.refl.endReq (g := g) (q := q)).frame.only .chans (by decide)).trans ht

/-- A request that is stopped sends nothing: with no fire point to come, only ended requests are freed. -/
theorem State.chans_stopReq (s : State) (g : Nat) (q : Req) (silent : Bool) : (s.stopReq g q silent).chans = s.chans := by
  unfold State.stopReq
  extract_lets masked s1 s2
  have h1 : s1.chans = s.chans := by
    unfold s1
    split
    · exact foldl_proj (fun t n => t.chans_setMask g n) ..
    · rfl
  have h2 : s2.chans = s.chans := (s1.chans_stopSwap g q).trans h1
  split
  next hreap => exact (State.chans_reap_of_ended fun r hr => by simpa using List.all_eq_true.1 hreap.2.1 r hr).trans h2
  next => exact h2

theorem State.chans_markLost (s : State) (g : Nat) (p : Req → Bool) : (s.markLost g p).chans = s.chans :=
  foldl_proj (fun t q => t.chans_stopReq g q true) ..

/-- A channel that closes has no keys, and its records and the state of its link stand. -/
theorem State.closeChan_facts (s : State) {c : Nat} (h : (s.chan c).st ≠ .unassigned) :
    Works false s (s.closeChans [c]) ∧ (s.closeChans [c]).rest = s.rest ∧ (s.closeChans [c]).chan c = { st := .closed } := by
  obtain ⟨u, hu⟩ : ∃ u : State, u = { s.onChan c (fun _ => { st := .closed }) with
      swaps := (s.onChan c fun _ => { st := .closed }).swaps.filter fun r => r.chan != c } := ⟨_, rfl⟩
  have hworks : Works false s u := hu ▸ Works.refl.onChan.withSwaps
  have hrest : u.rest = s.rest := hu ▸ rfl
  have hchan : u.chan c = { st := .closed } := by
    rw [hu]
    exact (s.onChan_chan c (fun _ => { st := .closed }) c).trans (if_pos rfl)
  have heq : s.closeChans [c] = match u.saggerOfChan c with
      | some g => u.markLost g fun q => q.chan == c
      | none => u := by
    rw [hu]
    exact if_neg h
  rw [heq]
  split
  · exact ⟨hworks.markLost (fun hb => nomatch hb), (u.rest_markLost ..).trans hrest,
      (congrArg (fun l : Tab Chan => tget ({} : Chan) l c) (u.chans_markLost ..)).trans hchan⟩
  · exact ⟨hworks, hrest, hchan⟩

/-! ## What the bytes of a frame leave of its link -/

/-- From `s` to `t` the received bytes of link `k` and their count stand. -/
structure RxKept (k : Nat) (s t : State) : Prop where
  rx    : (t.link k).rx = (s.link k).rx
  count : t.reg .shlRxBytes k = s.reg .shlRxBytes k

namespace RxKept

variable {k : Nat} {s t u : State}

theorem trans (h : RxKept k s t) (h' : RxKept k t u) : RxKept k s u := ⟨h'.rx.trans h.rx, h'.count.trans h.count⟩

theorem of_works {b : Bool} (h : Works b s t) (hrest : t.rest = s.rest) : RxKept k s t :=
  ⟨congrArg Link.rx ((Only.of_rest hrest).link_eq k (by decide)), h.regs _ (by decide) k⟩

theorem of_only {ps : List Field} (h : Only ps s t) (hlinks : .links ∉ ps) (hregs : .regs ∉ ps) : RxKept k s t :=
  ⟨congrArg Link.rx (h.link_eq k hlinks), h.reg_eq _ k hregs⟩

theorem fault (cls block detail g unit sub : Nat) : RxKept k s (s.fault cls block detail g unit sub) :=
  .of_works (b := false) Works.refl.fault (s.rest_fault ..)

theorem onChan (c : Nat) (f : Chan → Chan) : RxKept k s (s.onChan c f) := ⟨rfl, rfl⟩

theorem bump {r : Reg} (c n : Nat) (hr : .shlRxBytes ≠ r) : RxKept k s (s.bump r c n) := ⟨rfl, State.reg_bump_of_ne _ _ _ _ hr⟩

theorem onLink {j : Nat} {f : Link → Link} (hf : ∀ x, (f x).rx = x.rx) : RxKept k s (s.onLink j f) := by
  refine ⟨?_, rfl⟩
  rw [State.onLink_link]
  split
  next hkj => rw [hf, hkj]
  next => rfl

theorem rejectLong (c : Nat) (bs : List Byte) : RxKept k s (s.rejectLong c bs) := by
  unfold State.rejectLong
  split
  · split
    · exact .of_works (b := false) Works.refl.sendDone (s.rest_sendDone ..)
    · exact ⟨rfl, rfl⟩
  · exact ⟨rfl, rfl⟩

theorem addFrame (h : FrameHdr) (slot : Nat) (data : List Byte) : RxKept k s (s.addFrame k h slot data) := by
  have hskip (u : State) : RxKept k u (u.skipPart h.chan h.cls h.last) := onChan ..
  unfold State.addFrame
  extract_lets c x old room seqBad bs kslot type long s1
  have hbad : RxKept k s s1 := (fault ..).trans (hskip _)
  split
  · exact hskip s
  · split
    · exact hbad
    · split
      · exact (fault ..).trans (hskip _)
      · split
        · split
          · exact hbad.trans (rejectLong ..)
          · exact hbad
        · split <;> exact onChan ..

theorem addLinkFrame (h : FrameHdr) (data : List Byte) : RxKept k s (s.addLinkFrame k h data) := by
  unfold State.addLinkFrame
  extract_lets old bs bad
  split
  · exact (fault ..).trans (onLink fun _ => rfl)
  · split <;> exact onLink fun _ => rfl

theorem usedSlot (c n : Nat) : RxKept k s (s.usedSlot c n) := by
  unfold State.usedSlot State.drainSlot
  extract_lets x
  split
  · exact ⟨rfl, rfl⟩
  · split
    · split
      · obtain ⟨hframe, -, -, hreg⟩ := (s.onChan c _).retireSlot_facts c _ 0
        exact (onChan ..).trans ⟨congrArg Link.rx (hframe.only.link_eq k (by decide)), hreg _ _ (by decide)⟩
      · exact onChan ..
    · exact onChan ..

theorem closeChan (c : Nat) : RxKept k s (s.closeChans [c]) := by
  by_cases h : (s.chan c).st = .unassigned
  · rw [show s.closeChans [c] = s from if_pos h]
    exact ⟨rfl, rfl⟩
  · obtain ⟨hworks, hrest, -⟩ := s.closeChan_facts h
    exact .of_works hworks hrest

theorem openFrame (h : FrameHdr) (hdr cipher tag : List Byte) : RxKept k s (s.openFrame k h hdr cipher tag) := by
  unfold State.openFrame
  extract_lets c ks
  split
  · have hrecord : FaultRec.LogOnly { code := faultCode 5 0xE 0xE5, unit := k, subunit := c } :=
      .inr (show codeClass (faultCode 5 0xE 0xE5) ≠ 3 by decide)
    exact (bump (r := .shlChStale) c 1 (by decide)).trans
      (of_only (State.raiseLimited_only_flog _ 1000000 c hrecord) (by decide) (by decide))
  · split
    · exact ((bump (r := .shlChAuthfail) c 1 (by decide)).trans (fault ..)).trans (closeChan c)
    · exact ((onChan ..).trans (usedSlot ..)).trans (addFrame ..)

end RxKept

/-! ## FRAME_RECEIVE (R388 to R394) -/

/-- The bytes of a frame are taken from its link and counted. -/
def State.frameTaken (s : State) (k : Nat) (bs : List Byte) : State :=
  let h := frameHdrOf (bs.take 8)
  (s.onLink k fun y => { y with
    rx := bs.drop h.bytes
    freed := if h.cls = 3 then y.freed else tmod 0 y.freed (if h.cls = 1 then 1 + 4 * h.chan else h.cls) (· + frameUnits h.bytes) }).bump
      .shlRxBytes k h.bytes

/-- The taken frame reaches what its header names. -/
def State.frameGiven (s : State) (k : Nat) (bs : List Byte) : State :=
  let h := frameHdrOf (bs.take 8)
  let data := (bs.drop 8).take h.flen
  if h.resv ∨ h.cls = 3 ∨ h.flen = 0 ∨ h.flen > 4096 then s.badFrame k h.chan
  else if h.link then s.addLinkFrame k h data
  else if (s.saggerOfChan h.chan).isNone ∨ s.linkOfChan h.chan ≠ k then s.badFrame k h.chan
  else if h.enc then s.openFrame k h (bs.take 8) data ((bs.drop (8 + h.flen)).take 16)
  else if s.policy h.chan ≠ 0 ∧ h.cls ≠ 0 then (s.fault 2 0xE 0xE7 15 k h.chan).skipPart h.chan h.cls h.last
  else s.addFrame k h 2 data

theorem exec_frameReceive_of_whole {k : LinkIx} {s : State} {bs : List Byte} (hup : (s.link k.val).st = .up)
    (hbs : bs = skipZeros ((s.link k.val).rx.length / 8) (s.link k.val).rx) (h8 : 8 ≤ bs.length)
    (hn : (frameHdrOf (bs.take 8)).bytes ≤ bs.length) : exec (.frameReceive k) s = .next ((s.frameTaken k.val bs).frameGiven k.val bs) := by
  change execFrameReceive k s = _
  unfold execFrameReceive State.frameGiven
  dsimp only
  rw [← hbs, if_neg (by simp [hup, h8, hn])]
  simp only [apply_ite Host.Outcome.next]
  rfl

theorem State.frameTaken_frame (s : State) (k c : Nat) (bs : List Byte) : ChanFrame [.links, .regs] c s (s.frameTaken k bs) :=
  (ChanFrame.refl.onLink (by decide)).bump (by decide)

theorem State.frameGiven_kept (s : State) (k : Nat) (bs : List Byte) : RxKept k s (s.frameGiven k bs) := by
  unfold State.frameGiven
  extract_lets h' data
  split
  · exact .fault ..
  · split
    · exact .addLinkFrame ..
    · split
      · exact .fault ..
      · split
        · exact .openFrame ..
        · split
          · exact (RxKept.fault ..).trans (.onChan ..)
          · exact .addFrame ..

section
variable {s : State} {k : Nat} {bs : List Byte} {h : FrameHdr} (hh : h = frameHdrOf (bs.take 8))
include hh

theorem State.frameTaken_rx : ((s.frameTaken k bs).link k).rx = bs.drop h.bytes ∧
    (s.frameTaken k bs).reg .shlRxBytes k = min (s.reg .shlRxBytes k + h.bytes) (2 ^ 64 - 1) := by
  subst hh
  unfold State.frameTaken
  refine ⟨?_, State.reg_bump_same ..⟩
  rw [State.bump_link, State.onLink_link, if_pos rfl]

theorem State.frameGiven_of_malformed (hbad : h.resv = true ∨ h.cls = 3 ∨ h.flen = 0 ∨ 4096 < h.flen) :
    s.frameGiven k bs = s.badFrame k h.chan := by
  subst hh
  exact if_pos hbad

variable (hwell : h.resv = false ∧ h.cls < 3 ∧ 0 < h.flen ∧ h.flen ≤ 4096) (hchan : h.link = false)
  (howner : (s.saggerOfChan h.chan).isSome = true) (hlink : s.linkOfChan h.chan = k)
include hwell hchan howner hlink

theorem State.frameGiven_of_owned : (s.frameTaken k bs).frameGiven k bs =
    if h.enc then (s.frameTaken k bs).openFrame k h (bs.take 8) ((bs.drop 8).take h.flen) ((bs.drop (8 + h.flen)).take 16)
    else if s.policy h.chan ≠ 0 ∧ h.cls ≠ 0 then ((s.frameTaken k bs).fault 2 0xE 0xE7 15 k h.chan).skipPart h.chan h.cls h.last
    else (s.frameTaken k bs).addFrame k h 2 ((bs.drop 8).take h.flen) := by
  obtain ⟨u, hu⟩ : ∃ u, u = s.frameTaken k bs := ⟨_, rfl⟩
  have howner' : u.saggerOfChan h.chan = s.saggerOfChan h.chan := hu ▸ rfl
  have hlink' : u.linkOfChan h.chan = s.linkOfChan h.chan := hu ▸ rfl
  have hpolicy : u.policy h.chan = s.policy h.chan := hu ▸ rfl
  rw [← hu, ← hpolicy]
  rw [← howner'] at howner
  rw [← hlink'] at hlink
  subst hh
  obtain ⟨hresv, hcls, hpos, hlong⟩ := hwell
  unfold State.frameGiven
  dsimp only
  rw [if_neg (by rw [hresv]; simp; omega), if_neg (by simp [hchan]),
    if_neg (by simpa [Option.isNone_iff_eq_none, Option.isSome_iff_ne_none, hlink] using howner)]

end

/-- A message in one frame that passes its checks joins the received messages of its channel. -/
theorem State.addFrame_single {s : State} {k slot : Nat} {h : FrameHdr} {m : List Byte} (hslot : slot ≠ 2) (hfirst : h.first = true)
    (hlast : h.last = true) (hparts : (s.chan h.chan).parts.find? (fun p => p.1 == h.cls) = none)
    (hclass : hostClass (bfield m 0 8) = some h.cls)
    (hhead : headerBad m h.cls (((s.planChan h.chan).map (·.buf)).getD 0) = false) (hlen : m.length = 16 + bfield m 32 32) :
    s.addFrame k h slot m = s.onChan h.chan fun y => { y with
      parts := tdel y.parts h.cls
      rx := y.rx ++ [⟨bfield m 0 8, BitVec.ofNat 32 (bfield m 64 32), m.drop 16, slot⟩] } := by
  unfold State.addFrame
  simp only [hparts, hfirst, hlast, hclass, hhead, hslot, Option.map_none, Option.any_none, Bool.not_true, Bool.and_false, Bool.false_and,
    if_true, List.nil_append, false_and, ← hlen, bne_self_eq_false, Bool.or_self, if_false, Bool.false_eq_true]

theorem frameHdrOf_kslot (bs : List Byte) : (frameHdrOf bs).kslot ≠ 2 := by
  have hlt : bfield bs 6 1 < 2 := Nat.mod_lt _ (by decide)
  exact Nat.ne_of_lt hlt

section
variable {s : State} {k : Nat} {h : FrameHdr} {hdr cipher tag : List Byte} {ks : KeySlot} (hks : ks = (s.chan h.chan).slot h.kslot)
include hks

theorem State.openFrame_of_stale (hlive : ks.live = false) : ChanFrame [.regs, .flog] h.chan s (s.openFrame k h hdr cipher tag) ∧
    (s.openFrame k h hdr cipher tag).reg .shlChStale h.chan = min (s.reg .shlChStale h.chan + 1) (2 ^ 32 - 1) ∧
    (s.openFrame k h hdr cipher tag).chans = s.chans := by
  have hrecord : FaultRec.LogOnly { code := faultCode 5 0xE 0xE5, unit := k, subunit := h.chan } :=
    .inr (show codeClass (faultCode 5 0xE 0xE5) ≠ 3 by decide)
  have honly := State.raiseLimited_only_flog (s.bump .shlChStale h.chan 1) 1000000 h.chan hrecord
  have heq : s.openFrame k h hdr cipher tag = (s.bump .shlChStale h.chan 1).raiseLimited 1000000 h.chan
      { code := faultCode 5 0xE 0xE5, unit := k, subunit := h.chan } := by
    subst hks
    exact if_pos (by simp [hlive])
  rw [heq]
  refine ⟨(ChanFrame.refl.bump (by decide)).of_only honly (by decide) (by decide), ?_, honly .chans (by decide)⟩
  rw [honly.reg_eq _ _ (by decide)]
  exact State.reg_bump_same ..

theorem State.openFrame_of_forged (hlive : ks.live = true)
    (hopen : Config.gcmOpen ks.rxKey (frameNonce ks.rxCtr h.chan h.kslot false) hdr cipher tag = none)
    (hassigned : (s.chan h.chan).st ≠ .unassigned) :
    (s.openFrame k h hdr cipher tag).reg .shlChAuthfail h.chan = min (s.reg .shlChAuthfail h.chan + 1) (2 ^ 32 - 1) ∧
      0x5EE4#16 ∈ (s.openFrame k h hdr cipher tag).flog.detected.map (·.code) ∧
      (s.openFrame k h hdr cipher tag).chan h.chan = { st := .closed } := by
  obtain ⟨u, hu⟩ : ∃ u, u = (s.bump .shlChAuthfail h.chan 1).fault 5 0xE 0xE4 15 k h.chan := ⟨_, rfl⟩
  have hrecord := (s.bump .shlChAuthfail h.chan 1).fault_only_flog (cls := 5) (block := 0xE) (detail := 0xE4) 15 k h.chan (by decide)
  rw [← hu] at hrecord
  have heq : s.openFrame k h hdr cipher tag = u.closeChans [h.chan] := by
    subst hks hu
    unfold State.openFrame
    dsimp only
    rw [if_neg (by simp [hlive]), hopen]
  obtain ⟨hworks, -, hchan⟩ := u.closeChan_facts (c := h.chan) (by rw [hrecord.chan_eq _ (by decide)]; exact hassigned)
  rw [heq]
  refine ⟨?_, ?_, hchan⟩
  · rw [hworks.regs _ (by decide), hrecord.reg_eq _ _ (by decide)]
    exact State.reg_bump_same ..
  · obtain ⟨l, hl⟩ := hworks.logs
    obtain ⟨hcodes, -⟩ : Detects 0x5EE4#16 (s.bump .shlChAuthfail h.chan 1) u := hu ▸ State.detects_fault ..
    rw [hl, List.map_append, hcodes]
    simp

theorem State.openFrame_of_sound {plain : List Byte} (hlive : ks.live = true)
    (hopen : Config.gcmOpen ks.rxKey (frameNonce ks.rxCtr h.chan h.kslot false) hdr cipher tag = some plain)
    (hactive : (s.chan h.chan).active = h.kslot) : s.openFrame k h hdr cipher tag =
      (s.onChan h.chan fun x => x.setSlot h.kslot { ks with rxCtr := ks.rxCtr + 1 }).addFrame k h h.kslot (padTo h.flen plain) := by
  subst hks
  unfold State.openFrame
  dsimp only
  rw [if_neg (by simp [hlive]), hopen]
  refine congrArg (fun u : State => u.addFrame k h h.kslot (padTo h.flen plain)) (if_pos (.inl ?_))
  rw [State.onChan_chan, if_pos rfl, Chan.setSlot_active, hactive]

end

/-! ## The statement -/

section
variable {s : State} {k : Nat} {bs : List Byte} {h : FrameHdr} (hh : h = frameHdrOf (bs.take 8))
  (hwell : h.resv = false ∧ h.cls < 3 ∧ 0 < h.flen ∧ h.flen ≤ 4096) (hlink : h.link = false)
  (howner : (s.saggerOfChan h.chan).isSome = true) (hk : s.linkOfChan h.chan = k)

theorem State.frame_malformed (hh : h = frameHdrOf (bs.take 8)) (hbad : h.resv = true ∨ h.cls = 3 ∨ h.flen = 0 ∨ 4096 < h.flen) :
    Detects 0x5EE3#16 s ((s.frameTaken k bs).frameGiven k bs) ∧ Only [.links, .regs, .flog] s ((s.frameTaken k bs).frameGiven k bs) := by
  rw [State.frameGiven_of_malformed hh hbad]
  exact ⟨((s.frameTaken k bs).detects_badFrame k h.chan).after rfl,
    ((s.frameTaken_frame k h.chan bs).only.mono (by decide)).trans (((s.frameTaken k bs).badFrame_only k h.chan).mono (by decide))⟩

include hh hwell hlink howner hk

theorem State.frame_unsealed (henc : h.enc = false) (hpolicy : s.policy h.chan ≠ 0) (hcls : h.cls ≠ 0) :
    Detects 0x2EE7#16 s ((s.frameTaken k bs).frameGiven k bs) ∧
      (((s.frameTaken k bs).frameGiven k bs).chan h.chan).rx = (s.chan h.chan).rx ∧
      Others State.chan [h.chan] s ((s.frameTaken k bs).frameGiven k bs) := by
  obtain ⟨u, hu⟩ : ∃ u, u = (s.frameTaken k bs).fault 2 0xE 0xE7 15 k h.chan := ⟨_, rfl⟩
  have heq : (s.frameTaken k bs).frameGiven k bs = u.skipPart h.chan h.cls h.last := by
    rw [State.frameGiven_of_owned hh hwell hlink howner hk, if_neg (by simp [henc]), if_pos ⟨hpolicy, hcls⟩, hu]
  have hframe : ChanFrame [.links, .regs, .flog] h.chan s u :=
    hu ▸ ((ChanFrame.refl.onLink (by decide)).bump (by decide)).fault (by decide) (by decide)
  have hchan : u.chan h.chan = s.chan h.chan := hframe.only.chan_eq _ (by decide)
  have hdetects : Detects 0x2EE7#16 (s.frameTaken k bs) u := hu ▸ State.detects_fault ..
  rw [heq]
  refine ⟨hdetects.of_flog_eq rfl rfl, ?_, fun c hc => ?_⟩
  · rw [State.skipPart, State.onChan_chan, if_pos rfl, hchan]
  · rw [State.skipPart, State.onChan_chan, if_neg (by simpa using hc)]
    exact hframe.others c hc

variable {ks : KeySlot} (hks : ks = (s.chan h.chan).slot h.kslot) (henc : h.enc = true)
include hks henc

theorem State.frame_stale (hlive : ks.live = false) : Only [.links, .regs, .flog] s ((s.frameTaken k bs).frameGiven k bs) ∧
    ((s.frameTaken k bs).frameGiven k bs).reg .shlChStale h.chan = min (s.reg .shlChStale h.chan + 1) (2 ^ 32 - 1) := by
  obtain ⟨hframe, hreg, -⟩ := State.openFrame_of_stale (s := s.frameTaken k bs) (k := k) (h := h) (hdr := bs.take 8)
    (cipher := (bs.drop 8).take h.flen) (tag := (bs.drop (8 + h.flen)).take 16) hks hlive
  rw [State.frameGiven_of_owned hh hwell hlink howner hk, if_pos henc]
  refine ⟨((s.frameTaken_frame k h.chan bs).only.mono (by decide)).trans (hframe.only.mono (by decide)), ?_⟩
  rw [hreg, State.frameTaken, State.reg_bump_of_ne _ _ _ _ (by decide), State.onLink_reg]

theorem State.frame_forged (hlive : ks.live = true)
    (hopen : Config.gcmOpen ks.rxKey (frameNonce ks.rxCtr h.chan h.kslot false) (bs.take 8) ((bs.drop 8).take h.flen)
      ((bs.drop (8 + h.flen)).take 16) = none) (hassigned : (s.chan h.chan).st ≠ .unassigned) :
    ((s.frameTaken k bs).frameGiven k bs).reg .shlChAuthfail h.chan = min (s.reg .shlChAuthfail h.chan + 1) (2 ^ 32 - 1) ∧
      0x5EE4#16 ∈ ((s.frameTaken k bs).frameGiven k bs).flog.detected.map (·.code) ∧
      ((s.frameTaken k bs).frameGiven k bs).chan h.chan = { st := .closed } := by
  obtain ⟨hreg, hcode, hchan⟩ := State.openFrame_of_forged (s := s.frameTaken k bs) (k := k) hks hlive hopen hassigned
  rw [State.frameGiven_of_owned hh hwell hlink howner hk, if_pos henc]
  refine ⟨?_, hcode, hchan⟩
  rw [hreg, State.frameTaken, State.reg_bump_of_ne _ _ _ _ (by decide), State.onLink_reg]

theorem State.frame_received {plain m : List Byte} (hlive : ks.live = true) (hactive : (s.chan h.chan).active = h.kslot)
    (hopen : Config.gcmOpen ks.rxKey (frameNonce ks.rxCtr h.chan h.kslot false) (bs.take 8) ((bs.drop 8).take h.flen)
      ((bs.drop (8 + h.flen)).take 16) = some plain) (hm : m = padTo h.flen plain) (hfirst : h.first = true) (hlast : h.last = true)
    (hparts : (s.chan h.chan).parts.find? (fun p => p.1 == h.cls) = none) (hclass : hostClass (bfield m 0 8) = some h.cls)
    (hhead : headerBad m h.cls (((s.planChan h.chan).map (·.buf)).getD 0) = false) (hlen : m.length = 16 + bfield m 32 32) :
    (((s.frameTaken k bs).frameGiven k bs).chan h.chan).rx =
        (s.chan h.chan).rx ++ [⟨bfield m 0 8, BitVec.ofNat 32 (bfield m 64 32), m.drop 16, h.kslot⟩] ∧
      ((((s.frameTaken k bs).frameGiven k bs).chan h.chan).slot h.kslot).rxCtr = ks.rxCtr + 1 ∧
      ChanFrame [.links, .regs, .chans] h.chan s ((s.frameTaken k bs).frameGiven k bs) := by
  obtain ⟨u, hu⟩ : ∃ u, u = s.frameTaken k bs := ⟨_, rfl⟩
  obtain ⟨v, hv⟩ : ∃ v, v = u.onChan h.chan fun x => x.setSlot h.kslot { ks with rxCtr := ks.rxCtr + 1 } := ⟨_, rfl⟩
  have huchan : u.chan h.chan = s.chan h.chan := hu ▸ rfl
  have hvchan : v.chan h.chan = (s.chan h.chan).setSlot h.kslot { ks with rxCtr := ks.rxCtr + 1 } := by
    rw [hv, State.onChan_chan, if_pos rfl, huchan]
  have hslot : h.kslot ≠ 2 := hh ▸ frameHdrOf_kslot _
  have hframe : ChanFrame [.links, .regs, .chans] h.chan s v := by
    rw [hv, hu]
    exact ((ChanFrame.refl.onLink (by decide)).bump (by decide)).onChan (by decide)
  have hplan : v.planChan h.chan = s.planChan h.chan := by
    rw [hv, hu]
    rfl
  rw [State.frameGiven_of_owned hh hwell hlink howner hk, if_pos henc,
    State.openFrame_of_sound (s := s.frameTaken k bs) hks hlive hopen hactive, ← hm, ← hu, ← hv,
    State.addFrame_single hslot hfirst hlast (by rw [hvchan, Chan.setSlot_parts]; exact hparts) hclass (by rw [hplan]; exact hhead) hlen]
  refine ⟨?_, ?_, hframe.onChan (by decide)⟩
  · rw [State.onChan_chan, if_pos rfl, hvchan, Chan.setSlot_rx]
  · rw [State.onChan_chan, if_pos rfl, hvchan]
    exact congrArg KeySlot.rxCtr ((Chan.slot_of_slots rfl rfl h.kslot).trans (Chan.slot_setSlot ..))

end

/-- Settles O51. -/
theorem framesKeysAndStatusAnswers : Obligations.FramesKeysAndStatusAnswers := by
  unfold Obligations.FramesKeysAndStatusAnswers
  refine ⟨fun k s bs h n hup hbs h8 hh hn hwhole => ?_, fun c s m g => statusReq_answers, fun c s m g a => attestReq_answers,
    fun c s m g n => keyOffer_answers, fun c s n since => keySlotRetireTimeout_retires⟩
  subst hn
  obtain ⟨hrx, hcount⟩ := State.frameTaken_rx (s := s) (k := k.val) hh
  have hkept := (s.frameTaken k.val bs).frameGiven_kept k.val bs
  refine ⟨_, exec_frameReceive_of_whole hup hbs h8 (hh ▸ hwhole), hkept.rx.trans hrx, hkept.count.trans hcount, State.frame_malformed hh,
    fun hresv hcls hpos hlong hlink howner hk => ?_⟩
  have hwell : h.resv = false ∧ h.cls < 3 ∧ 0 < h.flen ∧ h.flen ≤ 4096 := ⟨hresv, hcls, hpos, hlong⟩
  refine ⟨State.frame_unsealed hh hwell hlink howner hk, fun henc => State.frame_stale hh hwell hlink howner hk rfl henc,
    fun henc hlive hopen hassigned => ?_, fun plain m henc hlive hactive hopen hm hfirst hlast hparts hclass _ hhead hlen => ?_⟩
  · obtain ⟨hreg, hcode, hchan⟩ := State.frame_forged hh hwell hlink howner hk rfl henc hlive hopen hassigned
    rw [hchan]
    exact ⟨hreg, hcode, rfl, rfl, rfl⟩
  · obtain ⟨hmsgs, hctr, hframe⟩ := State.frame_received hh hwell hlink howner hk rfl henc hlive hactive hopen hm hfirst hlast hparts hclass
      hhead hlen
    exact ⟨hmsgs, hctr, hframe.only, hframe.others⟩

end Sys2Proof.Machine

namespace Sys2Proof.Machine

/-! # What ends with a sagger's requests (O58) -/

/-! ## Waiting requests (R411, R416) -/

/-- Name of a request among those of its sagger. -/
def Req.ident (q : Req) : Nat × BitVec 32 := (q.chan, q.sub.reqId)

/-- Names of the live requests. -/
def Sagger.idents (x : Sagger) : List (Nat × BitVec 32) := x.live.map Req.ident

/-- From `s` to `t` sagger `g` keeps its queue and the names of its live requests. -/
structure Holds (g : Nat) (s t : State) : Prop where
  queue : (t.sagger g).queue = (s.sagger g).queue
  idents : (t.sagger g).idents = (s.sagger g).idents

namespace Holds

variable {g : Nat} {s t u : State}

theorem refl : Holds g s s := ⟨rfl, rfl⟩

theorem trans (h : Holds g s t) (h' : Holds g t u) : Holds g s u := ⟨h'.queue.trans h.queue, h'.idents.trans h.idents⟩

theorem ite {c : Prop} [Decidable c] (ht : Holds g s t) (hu : Holds g s u) : Holds g s (if c then t else u) := by
  split
  · exact ht
  · exact hu

theorem foldl {α : Type} {f : State → α → State} (hf : ∀ u x, Holds g s u → Holds g s (f u x)) (xs : List α) (h : Holds g s t) :
    Holds g s (xs.foldl f t) := List.foldlRecOn xs f h fun u hu x _ => hf u x hu

theorem of_saggers (h : Holds g s t) (hu : u.sagger g = t.sagger g) : Holds g s u := by
  refine h.trans ⟨?_, ?_⟩ <;> rw [hu]

theorem onSagger {k : Nat} {f : Sagger → Sagger} (h : Holds g s t) (hq : ∀ x, (f x).queue = x.queue) (hk : ∀ x, (f x).idents = x.idents) :
    Holds g s (t.onSagger k f) := by
  refine h.trans ⟨?_, ?_⟩ <;> rw [State.onSagger_sagger] <;> split
  next hgk => rw [hq, hgk]
  next => rfl
  next hgk => rw [hk, hgk]
  next => rfl

theorem raise {r : FaultRec} (h : Holds g s t) : Holds g s (t.raise r) := by
  obtain ⟨st, cause, hx⟩ := t.raise_sagger r g
  refine h.trans ⟨?_, ?_⟩ <;> rw [hx]
  rfl

theorem putHbm {a : Nat} {bs : List Byte} (h : Holds g s t) : Holds g s (t.putHbm a bs) := ⟨h.queue, h.idents⟩
theorem putNode {n off lo w v : Nat} (h : Holds g s t) : Holds g s (t.putNode g n off lo w v) := ⟨h.queue, h.idents⟩
theorem putSeq {slot off lo w v : Nat} (h : Holds g s t) : Holds g s (t.putSeq g slot off lo w v) := ⟨h.queue, h.idents⟩

theorem dropFrame {f : Nat} (h : Holds g s t) : Holds g s (t.dropFrame g f) := by
  unfold State.dropFrame
  split
  · exact h
  · exact h
  · exact h
  · have hframe : Holds g s (t.setFrame g f .scrubbing) := h.onSagger (by exact fun _ => rfl) (by exact fun _ => rfl)
    exact hframe.of_saggers rfl

theorem freeNode {n : Nat} (h : Holds g s t) : Holds g s (t.freeNode g n) := by
  have hframes : Holds g s ((t.nodeFrames g n).foldl (fun s f => s.dropFrame g f) t) := foldl (fun _ _ hu => hu.dropFrame) _ h
  exact hframes.putHbm.onSagger (by exact fun _ => rfl) (by exact fun _ => rfl)

theorem unref {n : Nat} (h : Holds g s t) : Holds g s (t.unref g n) := ite h.raise (ite h.putNode.freeNode h.putNode)

theorem releaseBlocks {slot k : Nat} (h : Holds g s t) : Holds g s (t.releaseBlocks g slot k) :=
  (foldl (fun _ _ hu => hu.unref) _ h).putSeq.putSeq

theorem freeSlot {slot : Nat} (h : Holds g s t) : Holds g s (t.freeSlot g slot) := by
  have hpages : Holds g s ((t.exclusivePages g slot).foldl (fun s p => s.dropFrame g p.2.2) t) := foldl (fun _ _ hu => hu.dropFrame) _ h
  have htables : Holds g s ((t.tableRange g slot).foldl (fun s f => s.dropFrame g f)
      (((t.exclusivePages g slot).foldl (fun s p => s.dropFrame g p.2.2) t).releaseBlocks g slot (2 ^ 17))) :=
    foldl (fun _ _ hu => hu.dropFrame) _ hpages.releaseBlocks
  exact htables.putHbm.onSagger (by exact fun _ => rfl) (by exact fun _ => rfl)

theorem stopSwap {q : Req} (h : Holds g s t) : Holds g s (t.stopSwap g q) := by
  have hunits : Holds g s (t.onSagger g fun x => { x with winUnits := x.winUnits.filter fun u => !q.units.any fun v => v.2.2 == u }) :=
    h.onSagger (by exact fun _ => rfl) (by exact fun _ => rfl)
  refine of_saggers (onSagger (k := g) (f := fun x => { x with live := x.live.map fun r =>
    if r.chan = q.chan ∧ r.sub.reqId = q.sub.reqId then { r with units := [] } else r }) hunits (fun _ => rfl) fun x => ?_) rfl
  refine (List.map_map ..).trans (List.map_congr_left fun r _ => ?_)
  change (if r.chan = q.chan ∧ r.sub.reqId = q.sub.reqId then { r with units := [] } else r).ident = r.ident
  split <;> rfl

theorem doneReq {q : Req} {tag : BitVec 32} {reason : Nat} {code : BitVec 16} (h : Holds g s t) :
    Holds g s (t.doneReq g q tag reason code) := by
  unfold State.doneReq
  split
  · exact h
  · exact h.of_saggers ((State.countDone_frame ..).saggers g List.not_mem_nil)

end Holds

/-- A request that ends leaves the others of its sagger. -/
theorem State.endReq_holds (s : State) (g : Nat) (q : Req) : ((s.endReq g q).sagger g).queue = (s.sagger g).queue ∧
    ((s.endReq g q).sagger g).idents = (s.sagger g).idents.filter (· != q.ident) := by
  obtain ⟨u, hu⟩ : ∃ u, u = q.landing.foldl (fun s f => s.dropFrame g f.2) (q.compFrames.foldl (fun s f => s.dropFrame g f.2.2)
      (q.slots.foldl (fun s t => s.freeSlot g t) s)) := ⟨_, rfl⟩
  have hslots : Holds g s (q.slots.foldl (fun s t => s.freeSlot g t) s) := .foldl (fun _ _ hu => hu.freeSlot) _ .refl
  have hframes : Holds g s u := hu ▸ .foldl (fun _ _ hu => hu.dropFrame) _ (.foldl (fun _ _ hu => hu.dropFrame) _ hslots)
  have heq : s.endReq g q = u.onSagger g fun x => { x with
      live := x.live.filter fun r => !(r.chan == q.chan && r.sub.reqId == q.sub.reqId)
      winUnits := x.winUnits.filter fun u => !q.units.any fun v => v.2.2 == u } := hu ▸ rfl
  rw [heq, State.onSagger_sagger, if_pos rfl]
  refine ⟨hframes.queue, ?_⟩
  rw [← hframes.idents, Sagger.idents, Sagger.idents, List.filter_map]
  refine congrArg (List.map Req.ident) (List.filter_congr fun r _ => ?_)
  rw [Bool.eq_iff_iff]
  simp [Req.ident, imp_iff_not_or]

/-- Requests that end one by one leave those that none of them names. -/
theorem State.endReqs_idents {g : Nat} {f : State → Req → State} (hf : ∀ u q, Holds g u (f u q)) (l : List Req) (s : State) :
    ((l.foldl (fun s q => (f s q).endReq g q) s).sagger g).queue = (s.sagger g).queue ∧
      ((l.foldl (fun s q => (f s q).endReq g q) s).sagger g).idents = (s.sagger g).idents.filter (!(l.map Req.ident).contains ·) := by
  induction l generalizing s with
  | nil => simp
  | cons q l ih =>
    obtain ⟨hqueue, hidents⟩ := (f s q).endReq_holds g q
    obtain ⟨hqueue', hidents'⟩ := ih ((f s q).endReq g q)
    refine ⟨hqueue'.trans (hqueue.trans (hf s q).queue), hidents'.trans ?_⟩
    rw [hidents, (hf s q).idents, List.filter_filter]
    refine List.filter_congr fun k _ => ?_
    rw [Bool.eq_iff_iff]
    simp [and_comm]

/-- No request of the sagger waits or lives when all have failed. -/
theorem State.failAll_sagger (s : State) (g : Nat) (code : BitVec 16) : ((s.failAll g code).sagger g).queue = [] ∧
    ((s.failAll g code).sagger g).live = [] := by
  unfold State.failAll
  extract_lets x s1 s2
  have h1 : Holds g s s1 := .foldl (fun _ _ hu => hu.doneReq) _ .refl
  have hstep (u : State) (q : Req) : Holds g u (if q.st = .ended then u else (u.stopSwap g q).doneReq g q q.tag 8 code) :=
    .ite .refl (Holds.stopSwap .refl).doneReq
  obtain ⟨-, hidents⟩ := State.endReqs_idents hstep x.live s1
  have hnone : (s2.sagger g).idents = [] := by
    refine hidents.trans ?_
    rw [h1.idents]
    exact List.filter_eq_nil_iff.2 fun k hk => by simpa [Sagger.idents, x] using hk
  rw [State.onSagger_sagger, if_pos rfl]
  exact ⟨rfl, List.map_eq_nil_iff.1 hnone⟩

/-! ## Frames that go through the scrub (R416) -/

theorem find?_tset {α : Type} (l : Tab α) (k f : Nat) (v : α) :
    (tset l k v).find? (fun e => e.1 == f) = if f = k then some (k, v) else l.find? fun e => e.1 == f := by
  induction l with
  | nil => by_cases h : f = k <;> simp [tset, h, Ne.symm]
  | cons e l ih =>
    obtain ⟨a, x⟩ := e
    unfold tset
    split
    · by_cases h : f = k
      · simp [h]
      · simp [h, Ne.symm h]
    · split
      next hak =>
        subst hak
        by_cases h : f = a
        · simp [h]
        · simp [h, Ne.symm h]
      next hak =>
        by_cases h : f = k
        · subst h
          simp [hak, ih]
        · simp [List.find?_cons, ih, h]

/-- A frame that no request uses: it waits for its scrub, or is retired. -/
def FrameState.Gone (x : FrameState) : Prop := x = .scrubbing ∨ x = .retired

/-- A frame that is freed goes through the scrub, and every other one stays as it is. -/
theorem State.dropFrame_frames (s : State) (g f k : Nat) : ∀ x, ((s.dropFrame g k).sagger g).frames.find? (fun e => e.1 == f) = some (f, x) →
    x.Gone ∨ f ≠ k ∧ (s.sagger g).frames.find? (fun e => e.1 == f) = some (f, x) := by
  intro x hx
  by_cases hfk : f = k
  case neg =>
    refine .inr ⟨hfk, ?_⟩
    unfold State.dropFrame at hx
    split at hx
    · exact hx
    · exact hx
    · exact hx
    · rw [State.onStack_sagger, State.setFrame, State.onSagger_sagger, if_pos rfl, find?_tset, if_neg hfk] at hx
      exact hx
  case pos =>
    subst hfk
    left
    unfold State.dropFrame at hx
    split at hx
    next hnone => rw [hnone] at hx; cases hx
    next hscrub => rw [hscrub] at hx; cases hx; exact .inl rfl
    next hretired => rw [hretired] at hx; cases hx; exact .inr rfl
    next =>
      rw [State.onStack_sagger, State.setFrame, State.onSagger_sagger, if_pos rfl, find?_tset, if_pos rfl] at hx
      cases hx
      exact .inl rfl

theorem State.dropFrames_frames (g : Nat) (l : List (Nat × FrameState)) (s : State) {f : Nat} {x : FrameState}
    (h : ((l.foldl (fun s f => s.dropFrame g f.1) s).sagger g).frames.find? (fun e => e.1 == f) = some (f, x)) :
    x.Gone ∨ f ∉ l.map (·.1) ∧ (s.sagger g).frames.find? (fun e => e.1 == f) = some (f, x) := by
  induction l generalizing s with
  | nil => exact .inr ⟨by simp, h⟩
  | cons e l ih =>
    obtain hgone | ⟨hnot, hfind⟩ := ih _ h
    · exact .inl hgone
    · obtain hgone | ⟨hne, hfind'⟩ := s.dropFrame_frames g f e.1 x hfind
      · exact .inl hgone
      · exact .inr ⟨by simpa [hne] using hnot, hfind'⟩

/-- All frames of a sagger are freed. -/
theorem State.dropAll_frames (s : State) (g : Nat) {f : Nat} {x : FrameState}
    (h : ((((s.sagger g).frames.foldl (fun s f => s.dropFrame g f.1) s).sagger g).frames.find? fun e => e.1 == f) = some (f, x)) : x.Gone := by
  obtain hgone | ⟨hnot, hfind⟩ := State.dropFrames_frames g (s.sagger g).frames s h
  · exact hgone
  · exact absurd (List.mem_map_of_mem (List.mem_of_find?_eq_some hfind)) hnot

end Sys2Proof.Machine

namespace Sys2Proof.Machine

/-! # SAGGER_RESET_SEQUENCE (R465, O58) -/

/-! ## Work of the sequence -/

namespace Works

variable {b : Bool} {g : Nat} {s t : State}

theorem setReg {r : Reg} {k v : Nat} (h : Works b s t) (hr : r ∉ otherRegs) : Works b s (t.setReg r k v) := by
  refine h.trans ⟨.refl t, fun r' hr' u => ?_, fun _ => rfl, fun _ h => h, fun _ => rfl, fun _ => rfl, fun _ => rfl, rfl⟩
  exact State.reg_setReg_of_ne _ _ _ _ fun he => hr (he ▸ hr')

theorem withAnyMem {m : Memories} (h : Works b s t) : Works false s { t with mem := m } :=
  ⟨h.logs, h.regs, h.saggers, h.idle, h.wheels, (fun hb => nomatch hb), h.opens, h.paired⟩

theorem clearSlabs (h : Works b s t) : Works false s (t.clearSlabs g) := by
  unfold State.clearSlabs
  exact foldl (fun _ _ hu => ite (hu.withAnyMem.bump (by decide)) hu) _ h.toSlab

theorem zeroTallies (h : Works b s t) : Works b s (t.zeroTallies g) :=
  ⟨h.logs, h.regs, h.saggers, h.idle, h.wheels, h.slab, h.opens, h.paired⟩

theorem awaitEntry {w : Nat} (h : Works b s t) : Works b s (t.awaitEntry w) := by
  unfold State.awaitEntry
  split
  · exact h
  · exact ite (h.onTables (by exact fun _ => rfl)) h

theorem pageIn {q : Req} {key page unit frame : Nat} (h : Works b s t) : Works b s (t.pageIn g q key page unit frame) := by
  have hsid : Works b s t.newSid.2 := h.onLat (f := fun l => { l with nextXid := l.nextXid + 1 })
  exact hsid.onLat.withSwaps

theorem resumeSwaps (h : Works b s t) : Works b s (t.resumeSwaps g) := by
  unfold State.resumeSwaps
  refine foldl (fun u q hu => foldl (fun v x hv => ?_) _ hu) _ h
  dsimp only
  split
  · exact hv.pageIn
  · exact ite hv hv.pageOut

theorem checkRecords (h : Works b s t) : Works b s (t.checkRecords g) := by
  unfold State.checkRecords
  extract_lets bad s1
  have h1 : Works b s s1 := foldl (fun _ _ hu => hu.stopSwap.raise.doneReq.endReq) _ h
  exact foldl (fun _ _ hu => ite hu.retireNode hu) _ h1

end Works

theorem State.rest_retireNode (s : State) (g n : Nat) : (s.retireNode g n).rest = s.rest := by
  unfold State.retireNode
  refine (State.rest_fault ..).trans ?_
  refine List.foldrRecOn (motive := fun t : State => t.rest = s.rest) _ _ rfl fun t ht m _ => ?_
  dsimp only
  split
  · simp [ht]
  · simp [ht]

theorem State.rest_checkRecords (s : State) (g : Nat) : (s.checkRecords g).rest = s.rest := by
  unfold State.checkRecords
  extract_lets bad s1
  have h1 : s1.rest = s.rest := State.rest_foldl (fun u q => by simp [State.faultReq]) ..
  exact (State.rest_foldl (fun u n => State.rest_ite (u.rest_retireNode g n) rfl) ..).trans h1

theorem State.rest_pageIn (s : State) (g : Nat) (q : Req) (key page unit frame : Nat) : (s.pageIn g q key page unit frame).rest = s.rest := by
  unfold State.pageIn
  dsimp only
  exact (State.rest_swaps ..).trans ((State.rest_onLat ..).trans s.rest_newSid)

theorem State.rest_resumeSwaps (s : State) (g : Nat) : (s.resumeSwaps g).rest = s.rest := by
  unfold State.resumeSwaps
  refine State.rest_foldl (fun u q => State.rest_foldl (fun v x => ?_) ..) ..
  dsimp only
  split
  · exact v.rest_pageIn ..
  · exact State.rest_ite rfl (v.rest_pageOut ..)

theorem State.rest_clearSlabs (s : State) (g : Nat) : (s.clearSlabs g).rest = s.rest := by
  unfold State.clearSlabs
  refine State.rest_foldl (fun u w => ?_) ..
  split <;> rfl

theorem State.rest_failAll (s : State) (g : Nat) (code : BitVec 16) : (s.failAll g code).rest = s.rest := by
  unfold State.failAll
  extract_lets x s1 s2
  have h1 : s1.rest = s.rest := State.rest_foldl (fun u q => u.rest_doneReq ..) ..
  have h2 : s2.rest = s1.rest := State.rest_foldl (fun u q =>
    (State.rest_endReq ..).trans (State.rest_ite rfl ((State.rest_doneReq ..).trans (u.rest_stopSwap ..)))) ..
  exact (State.rest_onSagger ..).trans (h2.trans h1)

/-! ## The step under way is settled (R465 steps 1 to 3) -/

/-- The streams, slices, units and step of the sagger have ended. -/
def State.settled (s : State) (g : Nat) (code : BitVec 16) : State :=
  let s1 := ((s.stopStreams g).leaveFor g code).stopWork g
  match (s1.sagger g).commit with
  | some k => s1.finishFire g k
  | none => s1.failStep g

theorem Sagger.idle_of_fixed {x y : Sagger} (h : y.fixed = x.fixed) (hx : x.Idle) : y.Idle :=
  ⟨(show y.phase = x.phase from congrArg Sagger.phase (a₁ := y.fixed) (a₂ := x.fixed) h).trans hx.1,
    (show y.commit = x.commit from congrArg Sagger.commit (a₁ := y.fixed) (a₂ := x.fixed) h).trans hx.2⟩

theorem State.finishFire_idle (s : State) (g : Nat) (k : Commit) : ((s.finishFire g k).sagger g).Idle := by
  obtain ⟨x, -, -, -, hfixed⟩ := s.finishFire_fixed g k
  exact Sagger.idle_of_fixed hfixed ⟨rfl, rfl⟩

theorem State.failStep_idle (s : State) (g : Nat) : ((s.failStep g).sagger g).Idle := by
  unfold State.failStep
  extract_lets x back s1 s2 s3 s4
  have h4 : (s4.sagger g).Idle := by
    unfold s4
    rw [State.onSagger_sagger, if_pos rfl]
    exact ⟨rfl, rfl⟩
  exact (Works.reap (b := false) .refl).idle g h4

theorem State.settled_works (s : State) (g : Nat) (code : BitVec 16) : Works false s (s.settled g code) ∧
    ((s.settled g code).sagger g).Idle ∧ (s.settled g code).rest = s.rest := by
  obtain ⟨u, hu⟩ : ∃ u, u = ((s.stopStreams g).leaveFor g code).stopWork g := ⟨_, rfl⟩
  have hworks : Works false s u := hu ▸ (Works.leaveSlices (Works.stopStreams .refl)).stopWork
  have hrest : u.rest = s.rest := by
    rw [hu, State.rest_stopWork, State.leaveFor, State.rest_leaveSlices, State.rest_stopStreams]
  unfold State.settled
  rw [← hu]
  dsimp only
  split
  · exact ⟨hworks.finishFire, u.finishFire_idle .., (u.rest_finishFire ..).trans hrest⟩
  · exact ⟨hworks.failStep, u.failStep_idle .., (u.rest_failStep ..).trans hrest⟩

/-! ## What the sequence keeps -/

/-- Of each sagger the lasting part stands from `s` to `t`, and what only this sequence changes: the pair, and the counts of resets.
`b` says that no slab was written. -/
structure ResetKept (b : Bool) (s t : State) : Prop where
  saggers : ∀ g, (t.sagger g).lasting = (s.sagger g).lasting
  idle    : ∀ g, (s.sagger g).Idle → (t.sagger g).Idle
  slab    : b = true → t.mem.slab = s.mem.slab
  paired  : t.lute.paired = s.lute.paired
  resets  : ∀ g, t.reg .sgrResets g = s.reg .sgrResets g

theorem Works.resetKept {b : Bool} {s t : State} (h : Works b s t) : ResetKept b s t :=
  ⟨h.saggers, h.idle, h.slab, h.paired, h.regs _ (by decide)⟩

theorem ResetKept.trans {b : Bool} {s t u : State} (h : ResetKept b s t) (h' : ResetKept b t u) : ResetKept b s u :=
  ⟨fun g => (h'.saggers g).trans (h.saggers g), fun g hg => h'.idle g (h.idle g hg), fun hb => (h'.slab hb).trans (h.slab hb),
    h'.paired.trans h.paired, fun g => (h'.resets g).trans (h.resets g)⟩

theorem ResetKept.toSlab {b : Bool} {s t : State} (h : ResetKept b s t) : ResetKept false s t :=
  ⟨h.saggers, h.idle, (fun hb => nomatch hb), h.paired, h.resets⟩

/-! ## Slabs and reference tiles (R465 steps 4 and 5) -/

/-- Every slab of the sagger reads as zero. -/
def State.SlabsZero (s : State) (g : Nat) : Prop :=
  ∀ w < 144, s.ownsWheel g w = true → ∀ x < slabBytes, mget s.mem.slab (w * slabBytes + x) = 0

theorem State.SlabsZero.of_eq {s t : State} {g : Nat} (h : s.SlabsZero g) (hplan : t.plan = s.plan) (hslab : t.mem.slab = s.mem.slab) :
    t.SlabsZero g := by
  intro w hw howns x hx
  rw [hslab]
  refine h w hw ?_ x hx
  rw [State.ownsWheel, State.planSagger, State.planSagger?, hplan] at howns
  exact howns

theorem State.clearSlabs_zero (s : State) (g : Nat) : (s.clearSlabs g).SlabsZero g := by
  intro w hw howns x hx
  have hplan : (s.clearSlabs g).plan = s.plan := Only.of_rest (s.rest_clearSlabs g) .plan (by decide)
  rw [State.ownsWheel, State.planSagger, State.planSagger?, hplan] at howns
  rw [show (s.clearSlabs g).mem = _ from s.clearWheels_mem g (List.range 144), Memories.slabClears_mget _ _ hx, if_pos]
  exact State.mem_ownWheels.2 howns

/-- One wheel whose reference tile fails. -/
def State.tileFails (s : State) (g w : Nat) : State :=
  ((s.onWheel w fun x => { x with failed := true }).onHealth fun h => { h with pending := h.pending ++ [(w / 8, w % 8)] }).fault 3 1 0x3C g w 0

theorem State.tileFails_facts (s : State) (g w : Nat) : ResetKept true s (s.tileFails g w) ∧ ((s.tileFails g w).wheel w).failed = true ∧
    (∀ v, (s.wheel v).failed = true → ((s.tileFails g w).wheel v).failed = true) ∧
    Only [.wheels, .health, .flog, .saggers, .lute] s (s.tileFails g w) := by
  obtain ⟨u, hu⟩ : ∃ u, u = (s.onWheel w fun x => { x with failed := true }).onHealth fun h =>
    { h with pending := h.pending ++ [(w / 8, w % 8)] } := ⟨_, rfl⟩
  have hkept : ResetKept true s u := hu ▸ ⟨fun _ => rfl, fun _ h => h, fun _ => rfl, rfl, fun _ => rfl⟩
  have hwheel (v : Nat) : (u.wheel v).failed = if v = w then true else (s.wheel v).failed := by
    rw [hu, State.onHealth_wheel, State.onWheel_wheel]
    split <;> rfl
  have hrecord : Works true u (u.fault 3 1 0x3C g w 0) := Works.refl.fault
  have hparts : Only [.flog, .saggers, .lute] u (u.fault 3 1 0x3C g w 0) := Only.mono State.fault_only (by decide)
  have heq : s.tileFails g w = u.fault 3 1 0x3C g w 0 := hu ▸ rfl
  rw [heq]
  refine ⟨hkept.trans hrecord.resetKept, ?_, fun v hv => ?_, ?_⟩
  · rw [hrecord.wheels, hwheel, if_pos rfl]
  · rw [hrecord.wheels, hwheel, hv, ite_self]
  · rw [hu] at hparts ⊢
    exact (((s.onWheel_only w _).mono (by decide)).trans ((State.onHealth_only _ _).mono (by decide))).trans (hparts.mono (by decide))

theorem State.checkTiles_facts (s : State) (g : Nat) (fails : List Nat) : ResetKept true s (s.checkTiles g fails) ∧
    (∀ w ∈ fails, s.ownsWheel g w = true → s.wheelUsable w = true → ((s.checkTiles g fails).wheel w).failed = true) ∧
    Only [.wheels, .health, .flog, .saggers, .lute] s (s.checkTiles g fails) := by
  have hfold (l : List Nat) : ∀ s : State, ResetKept true s (l.foldl (fun s w => s.tileFails g w) s) ∧
      (∀ w, w ∈ l ∨ (s.wheel w).failed = true → ((l.foldl (fun s w => s.tileFails g w) s).wheel w).failed = true) ∧
      Only [.wheels, .health, .flog, .saggers, .lute] s (l.foldl (fun s w => s.tileFails g w) s) := by
    induction l with
    | nil => exact fun s => ⟨Works.refl.resetKept, fun w hw => hw.resolve_left (by simp), .refl _ _⟩
    | cons v l ih =>
      intro s
      obtain ⟨hkept, hfails, hstays, honly⟩ := s.tileFails_facts g v
      obtain ⟨hkept', hfails', honly'⟩ := ih (s.tileFails g v)
      refine ⟨hkept.trans hkept', fun w hw => hfails' w ?_, honly.trans honly'⟩
      obtain hmem | hold := hw
      · obtain rfl | hmem := List.mem_cons.1 hmem
        · exact .inr hfails
        · exact .inl hmem
      · exact .inr (hstays w hold)
  obtain ⟨hkept, hfails, honly⟩ := hfold (fails.filter fun w => s.ownsWheel g w && s.wheelUsable w) s
  exact ⟨hkept, fun w hw howns husable => hfails w (.inl (List.mem_filter.2 ⟨hw, by simp [howns, husable]⟩)), honly⟩

end Sys2Proof.Machine

namespace Sys2Proof.Machine

/-! # A sagger resumes after its reset (R465 step 6, R466, O58) -/

theorem Holds.awaitEntry {g : Nat} {s t : State} {w : Nat} (h : Holds g s t) : Holds g s (t.awaitEntry w) := by
  unfold State.awaitEntry
  split
  · exact h
  · exact .ite (h.onSagger (by exact fun _ => rfl) (by exact fun _ => rfl)) h

theorem Sagger.idents_eq_nil {x : Sagger} : x.idents = [] ↔ x.live = [] := List.map_eq_nil_iff

/-- Without live requests no swap transfer resumes. -/
theorem State.resumeSwaps_of_none {s : State} {g : Nat} (h : (s.sagger g).live = []) : s.resumeSwaps g = s := by
  unfold State.resumeSwaps
  rw [h]
  rfl

/-- The resets of the last 60 s, this one among them. -/
def State.recentResets (s : State) (g : Nat) : List Nat := ((s.sagger g).resetTimes.filter fun t => s.refNow < t + 60 * 10 ^ 9) ++ [s.refNow]

/-- A reset enters the window of R466; the third ends every request. -/
def State.resetCounted (s : State) (g : Nat) : State :=
  if (s.recentResets g).length < 3 then s.onSagger g fun x => { x with resetTimes := s.recentResets g }
  else ((s.failAll g (s.sagger g).cause.code).fault 3 0 0x39 g 12 0).onSagger g fun x => { x with resetTimes := [] }

/-- What a change of a sagger's window of resets keeps. -/
structure ResetWork (g : Nat) (s t : State) : Prop where
  idle   : (s.sagger g).Idle → (t.sagger g).Idle
  slab   : t.mem.slab = s.mem.slab
  wheels : ∀ w, (t.wheel w).failed = (s.wheel w).failed
  paired : t.lute.paired = s.lute.paired
  resets : t.reg .sgrResets g = s.reg .sgrResets g
  rest   : t.rest = s.rest

theorem Works.resetWork {g : Nat} {s t : State} (h : Works true s t) (hrest : t.rest = s.rest) : ResetWork g s t :=
  ⟨h.idle g, h.slab rfl, h.wheels, h.paired, h.regs _ (by decide) g, hrest⟩

theorem ResetWork.onSagger {g : Nat} {s t : State} {f : Sagger → Sagger} (h : ResetWork g s t) (hf : ∀ x, x.Idle → (f x).Idle) :
    ResetWork g s (t.onSagger g f) := by
  refine ⟨fun hx => ?_, h.slab, h.wheels, h.paired, h.resets, (t.rest_onSagger g f).trans h.rest⟩
  rw [State.onSagger_sagger, if_pos rfl]
  exact hf _ (h.idle hx)

theorem State.resetCounted_facts (s : State) (g : Nat) : ResetWork g s (s.resetCounted g) ∧
    ((s.recentResets g).length < 3 → ((s.resetCounted g).sagger g).resetTimes = s.recentResets g) ∧
    (3 ≤ (s.recentResets g).length → ((s.resetCounted g).sagger g).resetTimes = [] ∧ ((s.resetCounted g).sagger g).queue = [] ∧
      ((s.resetCounted g).sagger g).live = []) := by
  unfold State.resetCounted
  split
  next hfew =>
    refine ⟨(Works.refl.resetWork rfl).onSagger (by exact fun _ h => h), fun _ => ?_, fun h => absurd hfew (Nat.not_lt.2 h)⟩
    rw [State.onSagger_sagger, if_pos rfl]
  next hmany =>
    obtain ⟨u, hu⟩ : ∃ u, u = s.failAll g (s.sagger g).cause.code := ⟨_, rfl⟩
    obtain ⟨hqueue, hlive⟩ := s.failAll_sagger g (s.sagger g).cause.code
    rw [← hu] at hqueue hlive ⊢
    have hworks : Works true s (u.fault 3 0 0x39 g 12 0) := hu ▸ Works.refl.failAll.fault
    have hrest : (u.fault 3 0 0x39 g 12 0).rest = s.rest := (u.rest_fault ..).trans (hu ▸ s.rest_failAll ..)
    have hholds : Holds g u (u.fault 3 0 0x39 g 12 0) := Holds.refl.raise
    refine ⟨(hworks.resetWork hrest).onSagger (by exact fun _ h => h), fun h => absurd h hmany, fun _ => ?_⟩
    rw [State.onSagger_sagger, if_pos rfl]
    exact ⟨rfl, hholds.queue.trans hqueue, Sagger.idents_eq_nil.1 (hholds.idents.trans (Sagger.idents_eq_nil.2 hlive))⟩

/-- The order of additions is pairwise again, and the reset is counted. -/
def State.resetReady (s : State) (g : Nat) : State :=
  ((s.resetCounted g).setReg .sgrAccCtl g (nsetBits ((s.resetCounted g).reg .sgrAccCtl g) 0 1 0)).bump .sgrResets g 1

/-- The wheels wait for entries again, and swap transfers go on. -/
def State.resetServes (s : State) (g : Nat) : State :=
  ((((s.resetReady g).wheelsOf g).foldl (fun s w => s.awaitEntry w) (s.resetReady g)).resumeSwaps g)

theorem State.resumeSagger_eq (s : State) (g : Nat) : s.resumeSagger g =
    if s.luted g && !s.lute.paired then (s.resetReady g).saggerDown g (s.sagger g).cause.code
    else ((s.resetServes g).onSagger g fun x => { x with st := .serving }).touch g := rfl

theorem State.resetReady_facts (s : State) (g : Nat) : (s.resetReady g).reg .sgrAccCtl g % 2 = 0 ∧
    (s.resetReady g).reg .sgrResets g = min (s.reg .sgrResets g + 1) (2 ^ 32 - 1) ∧
    (s.resetReady g).saggers = (s.resetCounted g).saggers ∧ (s.resetReady g).rest = s.rest ∧
    (s.resetReady g).mem.slab = s.mem.slab ∧ (∀ w, ((s.resetReady g).wheel w).failed = (s.wheel w).failed) := by
  obtain ⟨hcounted, -, -⟩ := s.resetCounted_facts g
  unfold State.resetReady
  obtain ⟨u, hu⟩ : ∃ u, u = s.resetCounted g := ⟨_, rfl⟩
  rw [← hu] at hcounted ⊢
  refine ⟨?_, ?_, rfl, hcounted.rest, hcounted.slab, hcounted.wheels⟩
  · rw [State.reg_bump_of_ne _ _ _ _ (by decide), State.reg_setReg, if_pos ⟨rfl, rfl⟩]
    simp [nsetBits, Nat.mod_one]
  · refine (State.reg_bump_same ..).trans ?_
    rw [State.reg_setReg_of_ne _ _ _ _ (by decide), hcounted.resets]
    rfl

theorem State.resetServes_works (s : State) (g : Nat) : Works true (s.resetReady g) (s.resetServes g) ∧
    (s.resetServes g).rest = (s.resetReady g).rest := by
  refine ⟨(Works.foldl (fun _ _ hu => hu.awaitEntry) _ .refl).resumeSwaps, ?_⟩
  exact (State.rest_resumeSwaps ..).trans (State.rest_foldl (fun u w => u.rest_awaitEntry w) ..)

/-- Where no request lives, none waits for the sagger that serves again, if none waited. -/
theorem State.resetServes_queue {s : State} {g : Nat} (hqueue : ((s.resetReady g).sagger g).queue = [])
    (hlive : ((s.resetReady g).sagger g).live = []) : ((s.resetServes g).sagger g).queue = [] := by
  have hholds : Holds g (s.resetReady g) (((s.resetReady g).wheelsOf g).foldl (fun s w => s.awaitEntry w) (s.resetReady g)) :=
    .foldl (fun _ _ hu => hu.awaitEntry) _ .refl
  rw [State.resetServes, State.resumeSwaps_of_none (Sagger.idents_eq_nil.1 (hholds.idents.trans (Sagger.idents_eq_nil.2 hlive))),
    hholds.queue, hqueue]

/-- A sagger that resumes serves, or is DOWN without its lute. -/
theorem State.resumeSagger_kept {s : State} {g : Nat} (hidle : (s.sagger g).Idle) :
    (((s.resumeSagger g).sagger g).st = .serving ∨ ((s.resumeSagger g).sagger g).st = .down) ∧
      (((s.resumeSagger g).sagger g).st = .serving → (s.resumeSagger g).reg .sgrAccCtl g % 2 = 0) ∧
      (s.resumeSagger g).mem.slab = s.mem.slab ∧ (∀ w, ((s.resumeSagger g).wheel w).failed = (s.wheel w).failed) ∧
      (s.resumeSagger g).rest = s.rest := by
  obtain ⟨heven, -, hsaggers, hrest, hslab, hwheels⟩ := s.resetReady_facts g
  obtain ⟨hcounted, -, -⟩ := s.resetCounted_facts g
  have hready : ((s.resetReady g).sagger g).Idle := by
    rw [State.sagger, hsaggers]
    exact hcounted.idle hidle
  rw [State.resumeSagger_eq]
  split
  next =>
    have hdown := ((s.resetReady g).saggerDown_falls g (s.sagger g).cause.code).2
    obtain ⟨u, hu, heq⟩ := (s.resetReady g).saggerDown_works (b := true) g (s.sagger g).cause.code fun _ => hready
    have hurest : ((s.resetReady g).saggerDown g (s.sagger g).cause.code).rest = s.rest := (State.rest_saggerDown ..).trans hrest
    refine ⟨.inr hdown, fun h => absurd (hdown.symm.trans h) (by decide), ?_, fun w => ?_, hurest⟩
    · rw [heq]
      exact (hu.slab rfl).trans hslab
    · rw [heq]
      exact (hu.wheels w).trans (hwheels w)
  next =>
    obtain ⟨hworks, hrest'⟩ := s.resetServes_works g
    obtain ⟨u, hu⟩ : ∃ u, u = s.resetServes g := ⟨_, rfl⟩
    rw [← hu] at hworks hrest' ⊢
    refine ⟨.inl ?_, fun _ => ?_, (hworks.slab rfl).trans hslab, fun w => (hworks.wheels w).trans (hwheels w), hrest'.trans hrest⟩
    · rw [State.touch, State.onSagger_sagger, if_pos rfl, State.onSagger_sagger, if_pos rfl]
    · exact (congrArg (· % 2) (hworks.regs .sgrAccCtl (by decide) g)).trans heven

/-- A sagger with its lute serves again; the reset is counted, and the third within 60 s leaves no request waiting. -/
theorem State.resumeSagger_serves {s : State} {g : Nat} (hlute : s.luted g = false ∨ s.lute.paired = true) :
    ((s.resumeSagger g).sagger g).st = .serving ∧
      (s.resumeSagger g).reg .sgrResets g = min (s.reg .sgrResets g + 1) (2 ^ 32 - 1) ∧
      ((s.recentResets g).length < 3 → ((s.resumeSagger g).sagger g).resetTimes = s.recentResets g) ∧
      (3 ≤ (s.recentResets g).length → ((s.resumeSagger g).sagger g).queue = [] ∧ ((s.resumeSagger g).sagger g).resetTimes = []) := by
  obtain ⟨-, hresets, hsaggers, -, -, -⟩ := s.resetReady_facts g
  obtain ⟨-, hfew, hmany⟩ := s.resetCounted_facts g
  obtain ⟨hworks, -⟩ := s.resetServes_works g
  have hready : (s.resetReady g).sagger g = (s.resetCounted g).sagger g := by rw [State.sagger, hsaggers, State.sagger]
  have htimes : ((s.resetServes g).sagger g).resetTimes = ((s.resetCounted g).sagger g).resetTimes :=
    (congrArg (·.2.1) (hworks.saggers g)).trans (congrArg Sagger.resetTimes hready)
  have hnot : ¬ ((s.luted g && !s.lute.paired) = true) := by rcases hlute with h | h <;> simp [h]
  have hwait : 3 ≤ (s.recentResets g).length → ((s.resetServes g).sagger g).queue = [] := fun h => by
    obtain ⟨-, hqueue, hlive⟩ := hmany h
    rw [← hready] at hqueue hlive
    exact State.resetServes_queue hqueue hlive
  rw [State.resumeSagger_eq, if_neg hnot]
  obtain ⟨u, hu⟩ : ∃ u, u = s.resetServes g := ⟨_, rfl⟩
  rw [← hu] at hworks htimes hwait ⊢
  rw [State.touch, State.onSagger_sagger, if_pos rfl, State.onSagger_sagger, if_pos rfl]
  exact ⟨rfl, (hworks.regs .sgrResets (by decide) g).trans hresets, fun h => htimes.trans (hfew h),
    fun h => ⟨hwait h, htimes.trans (hmany h).1⟩⟩

end Sys2Proof.Machine

namespace Sys2Proof.Machine

/-! # The statement about the reset sequence (O58) -/

/-- The parts of the state that the sequence may change. -/
abbrev resetParts : List Field :=
  [.mgmt, .regs, .freeCtr, .mem, .health, .flog, .saggers, .wheels, .wares, .ldus, .ssus, .tallies, .hbmStacks, .glazes, .ports, .lat,
    .lute, .chans, .swaps]

theorem workParts_subset_resetParts : ∀ p ∈ workParts, p ∈ resetParts := by decide

theorem State.wheelUsable_congr {s t : State} (hhealth : t.health = s.health) {w : Nat} (hw : (t.wheel w).failed = (s.wheel w).failed) :
    t.wheelUsable w = s.wheelUsable w := by
  have hmarked (byte b : Nat) : t.marked byte b = s.marked byte b := by rw [State.marked, hhealth, State.marked]
  have hbank : t.bankUsable w = s.bankUsable w := funext fun b => by rw [State.bankUsable, hmarked, State.bankUsable]
  rw [State.wheelUsable, State.wheelUsable, hmarked, hbank, hw]

theorem State.shelvesOf_congr {s t : State} (hhealth : t.health = s.health) (hplan : t.plan = s.plan)
    (hw : ∀ w, (t.wheel w).failed = (s.wheel w).failed) (g : Nat) : t.shelvesOf g = s.shelvesOf g := by
  have hwheel : t.wheelUsable = s.wheelUsable := funext fun w => State.wheelUsable_congr hhealth (hw w)
  have hmarked (byte b : Nat) : t.marked byte b = s.marked byte b := by rw [State.marked, hhealth, State.marked]
  have hshelf (k : Nat) : t.shelfUsable k = s.shelfUsable k := by
    rw [State.shelfUsable, State.shelfUsable, State.shelfWheels, State.shelfWheels, hwheel, hmarked, hmarked]
  have hsagger : t.planSagger g = s.planSagger g := by
    rw [State.planSagger, State.planSagger, State.planSagger?, State.planSagger?, hplan]
  unfold State.shelvesOf
  rw [hsagger]
  exact List.filter_congr fun k _ => by rw [hshelf]

theorem Only.ownsWheel_eq {ps : List Field} {s t : State} (h : Only ps s t) (hp : .plan ∉ ps) (g w : Nat) :
    t.ownsWheel g w = s.ownsWheel g w := by
  rw [State.ownsWheel, State.ownsWheel, State.planSagger, State.planSagger, State.planSagger?, State.planSagger?,
    show t.plan = s.plan from h .plan hp]

theorem Only.luted_eq {ps : List Field} {s t : State} (h : Only ps s t) (hp : .plan ∉ ps) (g : Nat) : t.luted g = s.luted g := by
  rw [State.luted, State.luted, State.device, State.device, show t.plan = s.plan from h .plan hp]

/-- Settled and with its slabs, counts and adders cleared (R465 steps 1 to 4). -/
def State.resetCleared (s : State) (g : Nat) : State :=
  (((s.settled g (s.sagger g).cause.code).clearSlabs g).zeroTallies g).setReg .sgrAccCtl g 5

/-- Records and reference tiles have been checked (R465 step 5). -/
def State.resetChecked (s : State) (g : Nat) (fails : List Nat) : State := ((s.resetCleared g).checkRecords g).checkTiles g fails

theorem exec_saggerResetSequence_of_resetting {g : SaggerIx} {fails : List Nat} {s : State} (hst : (s.sagger g.val).st = .resetting) :
    exec (.saggerResetSequence g fails) s = .next
      (if ((s.resetChecked g.val fails).shelvesOf g.val).length < (s.planSagger g.val).minShelves then
        (s.resetChecked g.val fails).saggerDown g.val (s.sagger g.val).cause.code else (s.resetChecked g.val fails).resumeSagger g.val) := by
  change execSaggerResetSequence g fails s = _
  unfold execSaggerResetSequence
  exact State.when_true _ _ (by rw [hst]; rfl)

theorem exec_saggerResetSequence_of_not {g : SaggerIx} {fails : List Nat} {s : State} (hst : (s.sagger g.val).st ≠ .resetting) :
    exec (.saggerResetSequence g fails) s = .next s := by
  change execSaggerResetSequence g fails s = _
  unfold execSaggerResetSequence
  exact State.when_false _ _ (by simpa using hst)

theorem State.zeroTallies_only (s : State) (g : Nat) : Only [.tallies] s (s.zeroTallies g) := by
  intro p hp
  cases p
  case tallies => simp at hp
  all_goals rfl

/-- The state with its slabs cleared and its records checked, before the reference tiles. -/
theorem State.resetRecords_facts (s : State) (g : Nat) {u : State} (hu : u = (s.resetCleared g).checkRecords g) :
    ResetKept false s u ∧ (u.sagger g).Idle ∧ u.SlabsZero g ∧ (∀ w, (u.wheel w).failed = (s.wheel w).failed) ∧
      Only (.tallies :: workParts) s u := by
  obtain ⟨a, ha⟩ : ∃ a, a = s.settled g (s.sagger g).cause.code := ⟨_, rfl⟩
  obtain ⟨hsettled, hidle, hrest⟩ := s.settled_works g (s.sagger g).cause.code
  rw [← ha] at hsettled hidle hrest
  obtain ⟨c, hc⟩ : ∃ c, c = (a.clearSlabs g).zeroTallies g := ⟨_, rfl⟩
  have hclear : Works false a c := hc ▸ (Works.clearSlabs (b := false) .refl).zeroTallies
  have hzero : c.SlabsZero g := hc ▸ a.clearSlabs_zero g
  obtain ⟨v, hv⟩ : ∃ v, v = c.setReg .sgrAccCtl g 5 := ⟨_, rfl⟩
  have hset : ResetKept true c v := hv ▸ ⟨fun _ => rfl, fun _ h => h, fun _ => rfl, rfl, fun _ => State.reg_setReg_of_ne _ _ _ _ (by decide)⟩
  have heq : u = v.checkRecords g := by rw [hu, hv, hc, ha]; rfl
  have hrecords : Works true v u := heq ▸ Works.refl.checkRecords
  have hvrest : u.rest = v.rest := heq ▸ v.rest_checkRecords g
  have hkept : ResetKept false s v := (hsettled.resetKept.trans hclear.resetKept).trans hset.toSlab
  have honly : Only (.tallies :: workParts) s v := by
    have h1 : Only workParts s (a.clearSlabs g) := .of_rest ((a.rest_clearSlabs g).trans hrest)
    have h2 : Only [.tallies, .regs] (a.clearSlabs g) v := by
      rw [hv, hc]
      exact ((State.zeroTallies_only _ g).mono (by decide)).trans ((State.setReg_only _ _ g 5).mono (by decide))
    exact (h1.mono (by decide)).trans (h2.mono (by decide))
  have honly' : Only (.tallies :: workParts) s u := honly.trans ((Only.of_rest hvrest).mono (by decide))
  have hvzero : v.SlabsZero g := hzero.of_eq (hv ▸ rfl) (hv ▸ rfl)
  refine ⟨hkept.trans hrecords.resetKept.toSlab, hrecords.idle g (hset.idle g (hclear.idle g hidle)),
    hvzero.of_eq (Only.of_rest hvrest .plan (by decide)) (hrecords.slab rfl), fun w => ?_, honly'⟩
  have hvw : (v.wheel w).failed = (c.wheel w).failed := hv ▸ rfl
  exact (hrecords.wheels w).trans (hvw.trans ((hclear.wheels w).trans (hsettled.wheels w)))

theorem State.resetChecked_facts (s : State) (g : Nat) (fails : List Nat) : ResetKept false s (s.resetChecked g fails) ∧
    ((s.resetChecked g fails).sagger g).Idle ∧ (s.resetChecked g fails).SlabsZero g ∧
    (∀ w ∈ fails, s.ownsWheel g w = true → s.wheelUsable w = true → ((s.resetChecked g fails).wheel w).failed = true) ∧
    Only resetParts s (s.resetChecked g fails) := by
  obtain ⟨u, hu⟩ : ∃ u, u = (s.resetCleared g).checkRecords g := ⟨_, rfl⟩
  obtain ⟨hkept, hidle, hzero, hwheels, honly⟩ := s.resetRecords_facts g hu
  obtain ⟨htiles, hfails, hparts⟩ := u.checkTiles_facts g fails
  rw [State.resetChecked, ← hu]
  refine ⟨hkept.trans htiles.toSlab, htiles.idle g hidle, hzero.of_eq (hparts .plan (by decide)) (htiles.slab rfl),
    fun w hw howns husable => hfails w hw ?_ ?_, (honly.mono (by decide)).trans (hparts.mono (by decide))⟩
  · rw [honly.ownsWheel_eq (by decide)]
    exact howns
  · rw [State.wheelUsable_congr (honly .health (by decide)) (hwheels w)]
    exact husable

theorem State.checkTiles_nil (s : State) (g : Nat) : s.checkTiles g [] = s := rfl

/-- Where no reference tile fails, the sagger has the usable shelves that it had. -/
theorem State.resetChecked_shelves (s : State) (g : Nat) : (s.resetChecked g []).shelvesOf g = s.shelvesOf g := by
  obtain ⟨u, hu⟩ : ∃ u, u = (s.resetCleared g).checkRecords g := ⟨_, rfl⟩
  obtain ⟨-, -, -, hwheels, honly⟩ := s.resetRecords_facts g hu
  rw [State.resetChecked, ← hu, State.checkTiles_nil]
  exact State.shelvesOf_congr (honly .health (by decide)) (honly .plan (by decide)) hwheels g

theorem saggerResetSequence_resets {g : SaggerIx} {fails : List Nat} {s : State} (hst : (s.sagger g.val).st = .resetting) :
    ∃ t, exec (.saggerResetSequence g fails) s = .next t ∧
    ((t.sagger g.val).st = .serving ∨ (t.sagger g.val).st = .down) ∧
    (∀ w ∈ fails, s.ownsWheel g.val w = true → s.wheelUsable w = true → (t.wheel w).failed = true) ∧
    (∀ w < 144, s.ownsWheel g.val w = true → ∀ x < slabBytes, mget t.mem.slab (w * slabBytes + x) = 0) ∧
    ((t.sagger g.val).st = .serving → t.reg .sgrAccCtl g.val % 2 = 0) ∧
    (fails = [] → (s.planSagger g.val).minShelves ≤ (s.shelvesOf g.val).length → s.luted g.val = false ∨ s.lute.paired = true →
      (t.sagger g.val).st = .serving ∧ t.reg .sgrResets g.val = min (s.reg .sgrResets g.val + 1) (2 ^ 32 - 1) ∧
      (2 ≤ ((s.sagger g.val).resetTimes.filter fun r => s.refNow < r + 60 * 10 ^ 9).length →
        (t.sagger g.val).queue = [] ∧ (t.sagger g.val).resetTimes = []) ∧
      (((s.sagger g.val).resetTimes.filter fun r => s.refNow < r + 60 * 10 ^ 9).length < 2 →
        (t.sagger g.val).resetTimes = ((s.sagger g.val).resetTimes.filter fun r => s.refNow < r + 60 * 10 ^ 9) ++ [s.refNow])) ∧
    (fails = [] → (s.shelvesOf g.val).length < (s.planSagger g.val).minShelves → (t.sagger g.val).st = .down) ∧
    Only resetParts s t := by
  have hexec := exec_saggerResetSequence_of_resetting (fails := fails) hst
  have hshelves : fails = [] → (s.resetChecked g.val fails).shelvesOf g.val = s.shelvesOf g.val := by
    rintro rfl
    exact s.resetChecked_shelves g.val
  obtain ⟨hkept, hidle, hzero, hfails, honly⟩ := s.resetChecked_facts g.val fails
  obtain ⟨u, hu⟩ : ∃ u, u = s.resetChecked g.val fails := ⟨_, rfl⟩
  rw [← hu] at hexec hshelves hkept hidle hzero hfails honly
  have howns (w : Nat) : s.ownsWheel g.val w = true → u.ownsWheel g.val w = true := (honly.ownsWheel_eq (by decide) _ _).trans
  by_cases hfew : (u.shelvesOf g.val).length < (s.planSagger g.val).minShelves
  · rw [if_pos hfew] at hexec
    have hdown := (u.saggerDown_falls g.val (s.sagger g.val).cause.code).2
    have hrest := u.rest_saggerDown g.val (s.sagger g.val).cause.code
    obtain ⟨v, hv, heq⟩ := u.saggerDown_works (b := true) g.val (s.sagger g.val).cause.code fun _ => hidle
    refine ⟨_, hexec, .inr hdown, fun w hw how hus => ?_, fun w hw how x hx => ?_, fun h => absurd (hdown.symm.trans h) (by decide),
      fun hnil hmin => ?_, fun _ _ => hdown, honly.trans ((Only.of_rest hrest).mono workParts_subset_resetParts)⟩
    · rw [heq]
      exact (hv.wheels w).trans (hfails w hw how hus)
    · rw [heq, State.onSagger_mem, hv.slab rfl]
      exact hzero w hw (howns w how) x hx
    · rw [hshelves hnil] at hfew
      exact absurd hfew (Nat.not_lt.2 hmin)
  · rw [if_neg hfew] at hexec
    obtain ⟨hends, heven, hslab, hwheels, hrest⟩ := State.resumeSagger_kept hidle
    refine ⟨_, hexec, hends, fun w hw how hus => (hwheels w).trans (hfails w hw how hus), fun w hw how x hx => ?_, heven,
      fun hnil _ hlute => ?_, fun hnil hlow => ?_, honly.trans ((Only.of_rest hrest).mono workParts_subset_resetParts)⟩
    · rw [hslab]
      exact hzero w hw (howns w how) x hx
    · have hluted : u.luted g.val = false ∨ u.lute.paired = true := by
        rw [honly.luted_eq (by decide), hkept.paired]
        exact hlute
      obtain ⟨hserving, hresets, hrecent, hthird⟩ := State.resumeSagger_serves hluted
      have htimes : u.recentResets g.val = ((s.sagger g.val).resetTimes.filter fun r => s.refNow < r + 60 * 10 ^ 9) ++ [s.refNow] := by
        have hold : (u.sagger g.val).resetTimes = (s.sagger g.val).resetTimes := congrArg (·.2.1) (hkept.saggers g.val)
        have hnow : u.refNow = s.refNow := congrArg Timebase.ref (honly .tb (by decide))
        rw [State.recentResets, hold, hnow]
      have hlen : (u.recentResets g.val).length = ((s.sagger g.val).resetTimes.filter fun r => s.refNow < r + 60 * 10 ^ 9).length + 1 := by
        rw [htimes, List.length_append, List.length_singleton]
      refine ⟨hserving, ?_, fun h => hthird (by omega), fun h => (hrecent (by omega)).trans htimes⟩
      rw [hresets, hkept.resets]
    · rw [hshelves hnil] at hfew
      exact absurd hlow hfew

end Sys2Proof.Machine

namespace Sys2Proof.Machine

/-! # CLEAR_COMPLETE and the build of a sagger (R411, R416, O58) -/

/-! ## What a build changes -/

/-- From `s` to `t` only the parts of `ps` have changed, and of each sagger its state of service, cause and queue of wheels. -/
structure Builds (ps : List Field) (s t : State) : Prop where
  only    : Only ps s t
  saggers : ∀ g, ∃ st cause q, t.sagger g = { s.sagger g with st := st, cause := cause, waiting := q }

namespace Builds

variable {ps : List Field} {s t u : State}

theorem refl : Builds ps s s := ⟨.refl _ _, fun _ => ⟨_, _, _, rfl⟩⟩

theorem trans (h : Builds ps s t) (h' : Builds ps t u) : Builds ps s u := by
  refine ⟨h.only.trans h'.only, fun g => ?_⟩
  obtain ⟨st, cause, q, hg⟩ := h.saggers g
  obtain ⟨st', cause', q', hg'⟩ := h'.saggers g
  exact ⟨st', cause', q', by rw [hg', hg]⟩

theorem foldl {α : Type} {f : State → α → State} (hf : ∀ u x, Builds ps s u → Builds ps s (f u x)) (xs : List α) (h : Builds ps s t) :
    Builds ps s (xs.foldl f t) := List.foldlRecOn xs f h fun u hu x _ => hf u x hu

/-- A change of other parts. -/
theorem of_only {qs : List Field} (h : Builds ps s t) (hu : Only qs t u) (hq : ∀ p ∈ qs, p ∈ ps) (hs : .saggers ∉ qs) : Builds ps s u := by
  refine h.trans ⟨hu.mono hq, fun g => ⟨(t.sagger g).st, (t.sagger g).cause, (t.sagger g).waiting, ?_⟩⟩
  exact congrArg (fun l : Tab Sagger => tget ({} : Sagger) l g) (hu .saggers hs)

theorem raise {r : FaultRec} (h : Builds ps s t) (hp : ∀ p ∈ [Field.saggers, .flog, .lute], p ∈ ps) : Builds ps s (t.raise r) := by
  have honly : Only [.saggers, .flog, .lute] t (t.raise r) :=
    (WheelFrame.refl (ps := [.saggers, .flog, .lute]) (ws := []) (gs := [r.sagger.toNat]) (s := t)).raise.only
  refine h.trans ⟨honly.mono hp, fun g => ?_⟩
  obtain ⟨st, cause, hg⟩ := t.raise_sagger r g
  exact ⟨st, cause, (t.sagger g).waiting, hg⟩

theorem awaitEntry {w : Nat} (h : Builds ps s t) (hp : ∀ p ∈ [Field.saggers], p ∈ ps) : Builds ps s (t.awaitEntry w) := by
  refine h.trans ⟨?_, fun g => ?_⟩
  · unfold State.awaitEntry
    split
    · exact .refl _ _
    · exact .ite ((t.onSagger_only _ _).mono hp) (.refl _ _)
  · obtain ⟨q, hg⟩ := t.awaitEntry_sagger w g
    exact ⟨(t.sagger g).st, (t.sagger g).cause, q, hg⟩

end Builds

/-- The parts that a build may change. -/
abbrev buildParts : List Field := [.mem, .regs, .saggers, .tallies, .flog, .lute, .chans]

theorem State.configTally_builds {s t : State} {k : Nat} {cfg : BitVec 64} (h : Builds buildParts s t) : Builds buildParts s (t.configTally k cfg) := by
  unfold State.configTally
  dsimp only
  split
  · exact h.raise (by decide)
  · exact h.of_only (t.onTally_only k _) (by decide) (by decide)

theorem State.openChannels_builds {s t : State} {g : Nat} (h : Builds buildParts s t) : Builds buildParts s (t.openChannels g) :=
  Builds.foldl (fun u c hu => hu.of_only (u.onChan_only c _) (by decide) (by decide)) _ h

/-- A sagger at the boundary of a build: step 0 is fired, and images, tenants and frames stay. -/
def Sagger.fresh (x : Sagger) (now : Nat) : Sagger :=
  { st := .building, images := x.images, tenants := x.tenants, frames := x.frames, resetTimes := x.resetTimes
    probeExpiries := x.probeExpiries, stayDown := x.stayDown, reserved := [], progress := now, arrivals := x.arrivals
    clearTally := x.clearTally }

theorem State.freshSagger_facts (s : State) (g : Nat) : (s.freshSagger g).sagger g = (s.sagger g).fresh s.refNow ∧
    Others State.sagger [g] s (s.freshSagger g) ∧ Only buildParts s (s.freshSagger g) := by
  obtain ⟨a, ha⟩ : ∃ a, a = (s.zeroHbm (s.placeAddr g 7) (64 * s.placeCount g 7)).zeroHbm (s.placeAddr g 8) (4 * s.placeCount g 8) := ⟨_, rfl⟩
  have honly : Only [.mem, .tallies] s (a.zeroTallies g) :=
    ha ▸ ((s.withMem_only _).mono (by decide)).trans ((State.zeroTallies_only _ g).mono (by decide))
  obtain ⟨b, hb⟩ : ∃ b, b = (a.zeroTallies g).onSagger g fun x => x.fresh s.refNow := ⟨_, rfl⟩
  have heq : s.freshSagger g = (b.setReg .sgrAccCtl g (nsetBits (b.reg .sgrAccCtl g) 0 1 0)).setReg .sgrStepPeriod g (b.planSagger g).pT := by
    rw [hb, ha]
    rfl
  have hsagger (k : Nat) : (a.zeroTallies g).sagger k = s.sagger k :=
    congrArg (fun l : Tab Sagger => tget ({} : Sagger) l k) (honly .saggers (by decide))
  rw [heq]
  refine ⟨?_, fun k hk => ?_, ?_⟩
  · rw [State.setReg_sagger, State.setReg_sagger, hb, State.onSagger_sagger, if_pos rfl, hsagger]
  · rw [State.setReg_sagger, State.setReg_sagger, hb, State.onSagger_sagger, if_neg (by simpa using hk), hsagger]
  · have hbonly : Only buildParts s b := hb ▸ (honly.mono (by decide)).trans ((State.onSagger_only _ g _).mono (by decide))
    exact (hbonly.trans ((State.setReg_only _ _ _ _).mono (by decide))).trans ((State.setReg_only _ _ _ _).mono (by decide))

/-- What the plan gives the fresh sagger: tallies, channels and waiting wheels. -/
def State.furnished (s : State) (g : Nat) : State :=
  let s1 := (s.planTallies g).openChannels g
  (s1.wheelsOf g).foldl (fun s w => s.awaitEntry w) s1

theorem State.furnished_builds (s : State) (g : Nat) : Builds buildParts s (s.furnished g) := by
  have htallies : Builds buildParts s (s.planTallies g) := Builds.foldl (fun _ _ hu => State.configTally_builds hu) _ .refl
  exact Builds.foldl (fun _ _ hu => hu.awaitEntry (by decide)) _ (State.openChannels_builds htallies)

theorem State.buildSagger_of_buildable {s : State} {g : Nat} (hlute : s.luted g = false ∨ s.lute.paired = true)
    (hbuild : s.cannotBuild g = false) : s.buildSagger g = ((s.freshSagger g).furnished g).onSagger g fun x => { x with st := .serving } := by
  have hnot : ¬ ((s.luted g && !s.lute.paired) = true) := by rcases hlute with h | h <;> simp [h]
  unfold State.buildSagger
  rw [if_neg hnot, if_neg (by simp [hbuild])]
  rfl

theorem State.buildSagger_of_lost {s : State} {g : Nat} (hlute : s.luted g = false ∨ s.lute.paired = true)
    (hbuild : s.cannotBuild g = true) : s.buildSagger g =
      ((s.onSagger g Sagger.inDown).onBoot fun b => { b with sgrDown := b.sgrDown ||| (1 <<< g) }).raise
        { code := faultCode 3 0 0xFA, sagger := sgField g, level := 7, unit := 12 } := by
  have hnot : ¬ ((s.luted g && !s.lute.paired) = true) := by rcases hlute with h | h <;> simp [h]
  unfold State.buildSagger
  rw [if_neg hnot, if_pos hbuild]
  rfl

/-- A record of level 7 has no containment. -/
theorem State.raise_level7_only (s : State) {r : FaultRec} (h : r.level = 7) : Only [.flog] s (s.raise r) := by
  have hraise : s.raise r = s.onFlog fun f => { f with detected := f.detected ++ [s.stamp r] } := by
    have hlevel : (s.stamp r).level = 7 := by rw [State.stamp, if_pos h]
    unfold State.raise State.contain
    dsimp only
    rw [hlevel]
    rfl
  rw [hraise]
  exact s.onFlog_only _

/-! ## The command -/

section
variable {g : SaggerIx} {s : State} {x : Sagger} (hx : x = s.sagger g.val)
include hx

theorem exec_clearComplete_of_waiting (h : x.st ≠ .clearing ∨ s.scrubLeft g.val = true) : exec (.clearComplete g) s = .next s := by
  subst hx
  change execClearComplete g s = _
  unfold execClearComplete
  exact State.when_false _ _ (by rcases h with h | h <;> simp [h])

variable (hst : x.st = .clearing) (hleft : s.scrubLeft g.val = false)
include hst hleft

theorem exec_clearComplete_of_clear : exec (.clearComplete g) s = .next (s.buildSagger g.val) := by
  subst hx
  change execClearComplete g s = _
  unfold execClearComplete
  exact State.when_true _ _ (by simp [hst, hleft])

theorem clearComplete_waits (hluted : s.luted g.val = true) (hpaired : s.lute.paired = false) :
    ∃ t, exec (.clearComplete g) s = .next t ∧ t.sagger g.val = { x with st := .down } ∧ Others State.sagger [g.val] s t ∧
      Only [.saggers] s t := by
  have heq : s.buildSagger g.val = s.onSagger g.val fun x => { x with st := .down } := if_pos (by simp [hluted, hpaired])
  refine ⟨_, (exec_clearComplete_of_clear hx hst hleft).trans (congrArg _ heq), ?_, .single fun k hk => ?_, s.onSagger_only _ _⟩
  · rw [State.onSagger_sagger, if_pos rfl, hx]
  · rw [State.onSagger_sagger, if_neg hk]

variable (hlute : s.luted g.val = false ∨ s.lute.paired = true)
include hlute

theorem clearComplete_fails (hbuild : s.cannotBuild g.val = true) :
    ∃ t, exec (.clearComplete g) s = .next t ∧ t.sagger g.val = { x with st := .down } ∧ Others State.sagger [g.val] s t ∧
      t.boot = { s.boot with sgrDown := s.boot.sgrDown ||| (1 <<< g.val) } ∧ Detects 0x30FA#16 s t ∧ Only [.saggers, .boot, .flog] s t := by
  obtain ⟨u, hu⟩ : ∃ u, u = (s.onSagger g.val Sagger.inDown).onBoot fun b => { b with sgrDown := b.sgrDown ||| (1 <<< g.val) } := ⟨_, rfl⟩
  have heq := State.buildSagger_of_lost hlute hbuild
  rw [← hu] at heq
  have hlog := u.raise_level7_only (r := { code := faultCode 3 0 0xFA, sagger := sgField g.val, level := 7, unit := 12 }) rfl
  have hsagger (k : Nat) : (u.raise { code := faultCode 3 0 0xFA, sagger := sgField g.val, level := 7, unit := 12 }).sagger k = u.sagger k :=
    congrArg (fun l : Tab Sagger => tget ({} : Sagger) l k) (hlog .saggers (by decide))
  have hparts : Only [.saggers, .boot] s u := hu ▸ ((s.onSagger_only _ _).mono (by decide)).trans ((State.onBoot_only _ _).mono (by decide))
  have hdetects : Detects 0x30FA#16 u (u.raise { code := faultCode 3 0 0xFA, sagger := sgField g.val, level := 7, unit := 12 }) :=
    u.detects_raise _
  refine ⟨_, (exec_clearComplete_of_clear hx hst hleft).trans (congrArg _ heq), ?_, .single fun k hk => ?_, ?_, hdetects.after (hu ▸ rfl),
    (hparts.mono (by decide)).trans (hlog.mono (by decide))⟩
  · rw [hsagger, hu, State.onBoot_sagger, State.onSagger_sagger, if_pos rfl, hx]
    rfl
  · rw [hsagger, hu, State.onBoot_sagger, State.onSagger_sagger, if_neg hk]
  · exact (hlog .boot (by decide)).trans (hu ▸ rfl)

theorem clearComplete_builds (hbuild : s.cannotBuild g.val = false) :
    ∃ t, exec (.clearComplete g) s = .next t ∧ (t.sagger g.val).st = .serving ∧ (t.sagger g.val).stepNum = 0 ∧ (t.sagger g.val).fired = 0 ∧
      (t.sagger g.val).rho = 4096 ∧ (t.sagger g.val).lag = 0 ∧ (t.sagger g.val).images = x.images ∧ (t.sagger g.val).tenants = x.tenants ∧
      (t.sagger g.val).live = [] ∧ (t.sagger g.val).queue = [] ∧ (t.sagger g.val).nodes = [] ∧
      (∀ h, h ≠ g.val → (t.sagger h).images = (s.sagger h).images) ∧ Only buildParts s t := by
  obtain ⟨hfresh, hothers, honly⟩ := s.freshSagger_facts g.val
  obtain ⟨u, hu⟩ : ∃ u, u = (s.freshSagger g.val).furnished g.val := ⟨_, rfl⟩
  obtain ⟨hparts, hsaggers⟩ := (s.freshSagger g.val).furnished_builds g.val
  rw [← hu] at hparts hsaggers
  have heq := State.buildSagger_of_buildable hlute hbuild
  rw [← hu] at heq
  obtain ⟨st, cause, q, hg⟩ := hsaggers g.val
  rw [hfresh, ← hx] at hg
  refine ⟨_, (exec_clearComplete_of_clear hx hst hleft).trans (congrArg _ heq), ?_⟩
  rw [State.onSagger_sagger, if_pos rfl, hg]
  refine ⟨rfl, rfl, rfl, rfl, rfl, rfl, rfl, rfl, rfl, rfl, fun k hk => ?_,
    (honly.trans hparts).trans ((State.onSagger_only _ _ _).mono (by decide))⟩
  obtain ⟨st', cause', q', hk'⟩ := hsaggers k
  rw [State.onSagger_sagger, if_neg hk, hk', hothers k (by simpa using hk)]

end

end Sys2Proof.Machine

namespace Sys2Proof.Machine

/-! # Resets, clears and probes of a sagger (R411, R416, R421, R466, O58) -/

/-! ## What SAGGER_RESET and SAGGER_CLEAR share (R421) -/

/-- `f` on a SERVING sagger: BAD with a payload, BUSY in any other state. -/
def State.onServing (m : MgmtArgs) (cmd : Nat) (f : State → State) (s : State) : State :=
  if m.payload ≠ [] then s.answer ⟨cmd, 1, .sagger, true⟩ m stBad []
  else if (s.sagger m.sagger.toNat).st ≠ .serving then s.answer ⟨cmd, 1, .sagger, true⟩ m stBusy []
  else (f s).answer ⟨cmd, 1, .sagger, true⟩ m stOk []

/-- SAGGER_RESET's effect: that on a luted sagger stops the pair. -/
def State.orderReset (s : State) (g : Nat) : State :=
  let s1 := s.startReset g 0
  if s1.luted g then s1.onLute fun l => { l with stop := true } else s1

theorem exec_saggerReset (m : MgmtArgs) (s : State) : exec (.saggerReset m) s =
    s.runMgmt ⟨0x21, 1, .sagger, true⟩ m (State.onServing m 0x21 fun s => s.orderReset m.sagger.toNat) := rfl

theorem exec_saggerClear (m : MgmtArgs) (s : State) : exec (.saggerClear m) s =
    s.runMgmt ⟨0x22, 1, .sagger, true⟩ m (State.onServing m 0x22 fun s => s.clearSagger m.sagger.toNat) := rfl

section
variable {m : MgmtArgs} {s : State} {cmd : Nat} {c : Instr} {f : State → State}
  (hexec : exec c s = s.runMgmt ⟨cmd, 1, .sagger, true⟩ m (State.onServing m cmd f)) (ha : Admits ⟨cmd, 1, .sagger, true⟩ m s)
include hexec ha

theorem onServing_refuses :
    (m.payload ≠ [] → ∃ t, exec c s = .next t ∧ Answers m cmd 2 [] s t ∧ Only [.mgmt, .regs] s t ∧ CountsOnly s t) ∧
    (m.payload = [] → (s.sagger m.sagger.toNat).st ≠ .serving →
      ∃ t, exec c s = .next t ∧ Answers m cmd 4 [] s t ∧ Only [.mgmt, .regs] s t ∧ CountsOnly s t) :=
  ⟨fun hbad => answers_of_refused ha (hexec.trans (State.runMgmt_counted ha (if_pos hbad))), fun hnil hst =>
    answers_of_refused ha (hexec.trans (State.runMgmt_counted ha ((if_neg (not_not_intro hnil)).trans (if_pos hst))))⟩

theorem onServing_works (hnil : m.payload = []) (hst : (s.sagger m.sagger.toNat).st = .serving) :
    exec c s = .next ((f s.counted).answer ⟨cmd, 1, .sagger, true⟩ m 0 []) :=
  hexec.trans (State.runMgmt_counted ha ((if_neg (not_not_intro hnil)).trans (if_neg (not_not_intro hst))))

end

theorem sagger_command_refuses {m : MgmtArgs} {s : State} {cmd : Nat} {c : Instr}
    (hc : (cmd, c) ∈ [(0x21, Instr.saggerReset m), (0x22, .saggerClear m)]) (ha : Admits ⟨cmd, 1, .sagger, true⟩ m s) :
    (m.payload ≠ [] → ∃ t, exec c s = .next t ∧ Answers m cmd 2 [] s t ∧ Only [.mgmt, .regs] s t ∧ CountsOnly s t) ∧
    (m.payload = [] → (s.sagger m.sagger.toNat).st ≠ .serving →
      ∃ t, exec c s = .next t ∧ Answers m cmd 4 [] s t ∧ Only [.mgmt, .regs] s t ∧ CountsOnly s t) := by
  simp only [List.mem_cons, List.not_mem_nil, or_false, Prod.mk.injEq] at hc
  obtain ⟨rfl, rfl⟩ | ⟨rfl, rfl⟩ := hc
  · exact onServing_refuses (exec_saggerReset m s) ha
  · exact onServing_refuses (exec_saggerClear m s) ha

/-! ## SAGGER_RESET (R411) -/

theorem State.startReset_of_serving {s : State} {g : Nat} (hg : g < 12) (hst : (s.sagger g).st = .serving) (code : BitVec 16) :
    s.startReset g code = s.onSagger g fun x => { x with st := .resetting, cause := { code := code } } := if_pos ⟨hg, hst⟩

theorem State.orderReset_of_serving {s : State} {g : Nat} (hg : g < 12) (hst : (s.sagger g).st = .serving) : s.orderReset g =
    (s.onSagger g fun x => { x with st := .resetting, cause := { code := 0 } }).onLute fun l => { l with stop := l.stop || s.luted g } := by
  rw [State.orderReset, State.startReset_of_serving hg hst]
  obtain ⟨u, hu⟩ : ∃ u, u = s.onSagger g fun x => { x with st := .resetting, cause := { code := 0 } } := ⟨_, rfl⟩
  have hluted : u.luted g = s.luted g := hu ▸ (State.onSagger_only s _ _).luted_eq (by decide) g
  rw [← hu]
  change (if u.luted g then u.onLute _ else u) = _
  rw [hluted]
  cases s.luted g
  · simp [State.onLute]
  · simp

theorem saggerReset_resets {m : MgmtArgs} {s : State} {g : Nat} (hgm : g = m.sagger.toNat) (hg : g < 12) (hnil : m.payload = [])
    (hst : (s.sagger g).st = .serving) (ha : Admits ⟨0x21, 1, .sagger, true⟩ m s) :
    ∃ t, exec (.saggerReset m) s = .next t ∧ Answers m 0x21 0 [] s t ∧
      t.sagger g = { s.sagger g with st := .resetting, cause := (t.sagger g).cause } ∧ (t.sagger g).cause.code = 0 ∧
      Others State.sagger [g] s t ∧ t.lute = { s.lute with stop := s.lute.stop || s.luted g } ∧
      Only [.mgmt, .regs, .saggers, .lute] s t ∧ CountsOnly s t := by
  subst hgm
  obtain ⟨u, hu⟩ : ∃ u, u = s.counted.orderReset m.sagger.toNat := ⟨_, rfl⟩
  have hexec := onServing_works (exec_saggerReset m s) ha hnil hst
  rw [← hu] at hexec
  rw [State.orderReset_of_serving (s := s.counted) hg hst] at hu
  have hwork : Only [.saggers, .lute] s.counted u :=
    hu ▸ ((State.onSagger_only _ _ _).mono (by decide)).trans ((State.onLute_only _ _).mono (by decide))
  have hsagger : u.sagger m.sagger.toNat = { s.sagger m.sagger.toNat with st := .resetting, cause := { code := 0 } } := by
    rw [hu, State.onLute_sagger, State.onSagger_sagger, if_pos rfl]
    rfl
  have hothers (k : Nat) (hk : k ≠ m.sagger.toNat) : u.sagger k = s.sagger k := by
    rw [hu, State.onLute_sagger, State.onSagger_sagger, if_neg hk]
    rfl
  have hlute : u.lute = { s.lute with stop := s.lute.stop || s.luted m.sagger.toNat } := hu ▸ rfl
  refine ⟨_, hexec, State.answer_answers ha.1 hwork ⟨0x21, 1, .sagger, true⟩ 0 [] (by decide), ?_, ?_, .single fun k hk => ?_, ?_,
    State.answer_work_only hwork ⟨0x21, 1, .sagger, true⟩ 0 [] (by decide) (by decide),
    State.answer_counts ha.1 hwork ⟨0x21, 1, .sagger, true⟩ 0 [] (by decide) (by decide)⟩
  · rw [State.answer_sagger, hsagger]
  · rw [State.answer_sagger, hsagger]
  · rw [State.answer_sagger, hothers k hk]
  · exact (State.answer_only _ _ _ _ _ .lute (by decide)).trans hlute

/-! ## SAGGER_CLEAR (R416) -/

theorem State.clearSlabs_sagger (s : State) (g k : Nat) : (s.clearSlabs g).sagger k = s.sagger k :=
  congrArg (fun l : Tab Sagger => tget ({} : Sagger) l k) ((s.clearWheels_frame g (List.range 144)).only .saggers (by decide))

/-- The work of a clear before the sagger's own tables are emptied. -/
def State.clearWork (s : State) (g : Nat) : State :=
  let s1 := ((s.settled g clearCode).fault 2 0xF 0xF4 g 0 0).failAll g clearCode
  let s2 := s1.bump .atnEvict g (s1.sagger g).nodes.length
  ((s2.sagger g).frames.foldl (fun s f => s.dropFrame g f.1) s2).clearSlabs g

/-- Tables of a sagger after its clear. -/
def Sagger.emptied (x : Sagger) : Sagger := { x with st := .clearing, nodes := [], retired := [], winUnits := [], slots := [] }

theorem State.clearSagger_eq (s : State) (g : Nat) : s.clearSagger g = (s.clearWork g).onSagger g Sagger.emptied := rfl

theorem State.clearWork_facts (s : State) (g : Nat) : Works false s (s.clearWork g) ∧ (s.clearWork g).rest = s.rest ∧
    ((s.clearWork g).sagger g).queue = [] ∧ ((s.clearWork g).sagger g).live = [] ∧
    (∀ f x, ((s.clearWork g).sagger g).frames.find? (fun e => e.1 == f) = some (f, x) → x.Gone) ∧
    ∃ l, (s.clearWork g).flog.detected.map (·.code) = s.flog.detected.map (·.code) ++ l ∧ 0x2FF4#16 ∈ l := by
  obtain ⟨a, ha⟩ : ∃ a, a = s.settled g clearCode := ⟨_, rfl⟩
  obtain ⟨hsettled, -, hrest⟩ := s.settled_works g clearCode
  rw [← ha] at hsettled hrest
  obtain ⟨b, hb⟩ : ∃ b, b = a.fault 2 0xF 0xF4 g 0 0 := ⟨_, rfl⟩
  have hfault : Works false a b := hb ▸ Works.refl.fault
  have hdetects : Detects 0x2FF4#16 a b := hb ▸ a.detects_fault 2 0xF 0xF4 g 0 0
  obtain ⟨c, hc⟩ : ∃ c, c = b.failAll g clearCode := ⟨_, rfl⟩
  have hfail : Works false b c := hc ▸ Works.refl.failAll
  obtain ⟨hqueue, hlive⟩ := b.failAll_sagger g clearCode
  rw [← hc] at hqueue hlive
  obtain ⟨d, hd⟩ : ∃ d, d = c.bump .atnEvict g (c.sagger g).nodes.length := ⟨_, rfl⟩
  obtain ⟨e, he⟩ : ∃ e, e = (d.sagger g).frames.foldl (fun s f => s.dropFrame g f.1) d := ⟨_, rfl⟩
  have hdrop : Works false c e := he ▸ .foldl (fun _ _ hu => hu.dropFrame) _ (hd ▸ Works.refl.bump (by decide))
  have hholds : Holds g c e := he ▸ .foldl (fun _ _ hu => hu.dropFrame) _ (hd ▸ Holds.refl.of_saggers rfl)
  have heq : s.clearWork g = e.clearSlabs g := by rw [he, hd, hc, hb, ha]; rfl
  have hwork : Works false b (e.clearSlabs g) := hfail.trans (hdrop.trans (Works.clearSlabs (b := false) .refl))
  have herest : e.rest = d.rest := he ▸ State.rest_foldl (fun (u : State) (f : Nat × FrameState) => u.rest_dropFrame g f.1) _ d
  have hcrest : c.rest = b.rest := hc ▸ b.rest_failAll g clearCode
  obtain ⟨l, hl⟩ := hsettled.logs
  obtain ⟨l', hl'⟩ := hwork.logs
  rw [heq, State.clearSlabs_sagger]
  refine ⟨(hsettled.trans hfault).trans hwork, ?_, hholds.queue.trans hqueue, ?_, fun f x hf => ?_, ?_⟩
  · rw [State.rest_clearSlabs, herest, hd, State.rest_bump, hcrest, hb, State.rest_fault, hrest]
  · have hnone : (e.sagger g).idents = [] := by rw [hholds.idents, Sagger.idents, hlive, List.map_nil]
    exact List.map_eq_nil_iff.1 hnone
  · rw [he] at hf
    exact d.dropAll_frames g hf
  · refine ⟨l.map (·.code) ++ 0x2FF4#16 :: l'.map (·.code), ?_, by simp⟩
    rw [hl', List.map_append, hdetects.1, hl, List.map_append]
    simp

theorem saggerClear_clears {m : MgmtArgs} {s : State} {g : Nat} (hgm : g = m.sagger.toNat) (hnil : m.payload = [])
    (hst : (s.sagger g).st = .serving) (ha : Admits ⟨0x22, 1, .sagger, true⟩ m s) :
    ∃ t l, exec (.saggerClear m) s = .next t ∧ (t.session m.sess.val).resp.getLast? = some ⟨0x8022, m.tag, 0, []⟩ ∧
      (t.sagger g).st = .clearing ∧ (t.sagger g).live = [] ∧ (t.sagger g).queue = [] ∧ (t.sagger g).nodes = [] ∧
      (t.sagger g).winUnits = [] ∧ (t.sagger g).images = (s.sagger g).images ∧
      (∀ f x, (t.sagger g).frames.find? (fun e => e.1 == f) = some (f, x) → x = .scrubbing ∨ x = .retired) ∧
      (∀ w < 144, s.ownsWheel g w = true → ∀ x < slabBytes, mget t.mem.slab (w * slabBytes + x) = 0) ∧
      t.flog.detected.map (·.code) = s.flog.detected.map (·.code) ++ l ∧ 0x2FF4#16 ∈ l ∧ Only workParts s t := by
  subst hgm
  obtain ⟨u, hu⟩ : ∃ u, u = s.counted.clearWork m.sagger.toNat := ⟨_, rfl⟩
  have hexec := onServing_works (exec_saggerClear m s) ha hnil hst
  rw [State.clearSagger_eq, ← hu] at hexec
  obtain ⟨hworks, hrest, hqueue, hlive, hframes, l, hcodes, hmem⟩ := s.counted.clearWork_facts m.sagger.toNat
  have hzero : u.SlabsZero m.sagger.toNat := hu ▸ State.clearSlabs_zero _ _
  rw [← hu] at hworks hrest hqueue hlive hframes hcodes
  obtain ⟨v, hv⟩ : ∃ v, v = u.onSagger m.sagger.toNat Sagger.emptied := ⟨_, rfl⟩
  rw [← hv] at hexec
  have hsagger : v.sagger m.sagger.toNat = (u.sagger m.sagger.toNat).emptied := by rw [hv, State.onSagger_sagger, if_pos rfl]
  have hslab : v.mem.slab = u.mem.slab := hv ▸ rfl
  have hopen : (v.session m.sess.val).open_ = true := hv ▸ (hworks.opens m.sess.val).trans ha.1
  have honly : Only workParts s u := Only.trans ((s.bump_only .mgtCmds 0 1).mono (by decide)) (Only.of_rest hrest)
  have honly' : Only workParts s v := hv ▸ honly.trans ((u.onSagger_only _ _).mono (by decide))
  refine ⟨_, l, hexec, ?_, ?_⟩
  · rw [State.answer, State.mgmtAnswer_eq hopen, State.onSession_session, if_pos rfl]
    exact List.getLast?_concat ..
  rw [State.answer_sagger, hsagger, State.answer_mem, State.answer_flog, hslab]
  have himages : (u.sagger m.sagger.toNat).images = (s.sagger m.sagger.toNat).images := congrArg (·.1) (hworks.saggers m.sagger.toNat)
  refine ⟨rfl, hlive, hqueue, rfl, rfl, himages, hframes, fun w hw howns => ?_, ?_, hmem, ?_⟩
  · exact hzero w hw ((honly.ownsWheel_eq (by decide) _ _).trans howns)
  · exact (congrArg (fun f : FaultLog => f.detected.map (·.code)) (hv ▸ rfl : v.flog = u.flog)).trans hcodes
  · exact honly'.trans ((v.answer_only _ _ _ _).mono (by decide))

/-! ## SETTER_PROBE and SETTER_PROBE_TIMEOUT (R466) -/

theorem setterProbe_waits {g : SaggerIx} {answers : Bool} {s : State} (hup : s.firmwareUp = true) (hnamed : s.named g.val = true) :
    ∃ t, exec (.setterProbe g answers) s = .next t ∧ Only [.saggers] s t ∧ Others State.sagger [g.val] s t ∧
      t.sagger g.val = { s.sagger g.val with probeLost := if answers then none else some ((s.sagger g.val).probeLost.getD s.refNow) } := by
  refine ⟨_, State.when_true _ _ (by simp [hup, hnamed]), s.onSagger_only _ _, .single fun k hk => ?_, ?_⟩
  · rw [State.onSagger_sagger, if_neg hk]
  · rw [State.onSagger_sagger, if_pos rfl]

/-- The record of a lost setter resets its sagger alone, where no lute shares it (R464). -/
theorem State.fault_of_setter {s : State} {g : Nat} (hg : g < 12) (hluted : s.luted g = false) :
    ∃ u, Only [.flog] s u ∧ s.fault 3 0 0x38 g 12 0 = u.startReset g 0x3038 := by
  have hfield : (sgField g).toNat = g := by
    rw [sgField, if_pos hg, BitVec.toNat_ofNat]
    omega
  have hlevel : s.levelOf 0x3038 g = 2 := by
    change (if codeDetail 0x3038 = 0xD9 then 3 else if g < 12 && s.luted g then 3 else 2) = 2
    rw [if_neg (by decide), if_neg (by simp [hluted])]
  obtain ⟨r, hr⟩ : ∃ r : FaultRec, r = { code := 0x3038, sagger := sgField g, unit := 12 } := ⟨_, rfl⟩
  have hstamp : (s.stamp r).level = 2 := by
    rw [hr, State.stamp, hfield, if_neg (show ¬ (0 : Nat) = 7 by decide), hlevel]
  refine ⟨s.onFlog fun f => { f with detected := f.detected ++ [s.stamp r] }, s.onFlog_only _, ?_⟩
  have hfault : s.fault 3 0 0x38 g 12 0 = s.raise r := hr ▸ rfl
  rw [hfault, State.raise, State.contain, hstamp, show (s.stamp r).sagger.toNat = g from hr ▸ hfield,
    show (s.stamp r).code = 0x3038 from hr ▸ rfl]
  rfl

section
variable {g : SaggerIx} {s : State} {x : Sagger} {lost : Nat} (hx : x = s.sagger g.val) (hprobe : x.probeLost = some lost)
  (hlate : lost + 10000000 ≤ s.refNow)

/-- The wait of the probe is over, and counted. -/
def State.probeExpired (s : State) (g : Nat) : State :=
  s.onSagger g fun y => { y with probeLost := none, probeExpiries := y.probeExpiries + 1 }

include hx hprobe hlate

theorem exec_setterProbeTimeout_of_late : exec (.setterProbeTimeout g) s = .next
    (if x.probeExpiries = 0 then (s.probeExpired g.val).fault 3 0 0x38 g.val 12 0
     else ((((s.probeExpired g.val).fault 3 0 0x38 g.val 12 0).saggerDown g.val 0x3038).onSagger g.val fun y =>
      { y with stayDown := true }).onHealth fun h => { h with pending := h.pending ++ [(388 + g.val / 8, g.val % 8)] }) := by
  have hover : (x.probeLost.any fun t => t + 10000000 ≤ s.refNow) = true := by
    rw [hprobe, Option.any_some]
    exact decide_eq_true hlate
  subst hx
  change execSetterProbeTimeout g s = _
  unfold execSetterProbeTimeout
  exact State.when_true _ _ hover

theorem setterProbeTimeout_first (hluted : s.luted g.val = false) (hfirst : x.probeExpiries = 0) :
    ∃ t, exec (.setterProbeTimeout g) s = .next t ∧ (t.sagger g.val).probeLost = none ∧ (t.sagger g.val).probeExpiries = 1 ∧
      Detects 0x3038#16 s t ∧ (x.st = .serving → (t.sagger g.val).st = .resetting) ∧ Others State.sagger [g.val] s t ∧
      Only [.saggers, .flog] s t := by
  have hexec := exec_setterProbeTimeout_of_late hx hprobe hlate
  rw [if_pos hfirst] at hexec
  obtain ⟨a, ha⟩ : ∃ a, a = s.probeExpired g.val := ⟨_, rfl⟩
  rw [← ha] at hexec
  have honly : Only [.saggers] s a := ha ▸ s.onSagger_only _ _
  have hsagger : a.sagger g.val = { x with probeLost := none, probeExpiries := 1 } := by
    rw [ha, State.probeExpired, State.onSagger_sagger, if_pos rfl, ← hx, hfirst]
  have hothers (k : Nat) (hk : k ≠ g.val) : a.sagger k = s.sagger k := by
    rw [ha, State.probeExpired, State.onSagger_sagger, if_neg hk]
  have hdetects : Detects 0x3038#16 a (a.fault 3 0 0x38 g.val 12 0) := a.detects_fault 3 0 0x38 g.val 12 0
  obtain ⟨u, hu, heq⟩ := State.fault_of_setter (s := a) g.isLt ((honly.luted_eq (by decide) _).trans hluted)
  have hsame (k : Nat) : u.sagger k = a.sagger k := congrArg (fun l : Tab Sagger => tget ({} : Sagger) l k) (hu .saggers (by decide))
  refine ⟨_, hexec, ?_⟩
  have hstarts : (((u.startReset g.val 0x3038).sagger g.val).probeLost = none ∧
      ((u.startReset g.val 0x3038).sagger g.val).probeExpiries = 1 ∧
      (x.st = .serving → ((u.startReset g.val 0x3038).sagger g.val).st = .resetting)) ∧
      (∀ k, k ≠ g.val → (u.startReset g.val 0x3038).sagger k = a.sagger k) ∧ Only [.saggers] u (u.startReset g.val 0x3038) := by
    unfold State.startReset
    rw [hsame, hsagger]
    split
    · refine ⟨?_, fun k hk => ?_, u.onSagger_only _ _⟩
      · rw [State.onSagger_sagger, if_pos rfl, hsame, hsagger]
        exact ⟨rfl, rfl, fun _ => rfl⟩
      · rw [State.onSagger_sagger, if_neg hk, hsame]
    next hnot =>
      rw [hsame, hsagger]
      exact ⟨⟨rfl, rfl, fun hst => absurd ⟨g.isLt, hst⟩ hnot⟩, fun k _ => hsame k, .refl _ _⟩
  rw [heq] at hdetects ⊢
  obtain ⟨⟨hlost, hexpiries, hreset⟩, hrest, hparts⟩ := hstarts
  exact ⟨hlost, hexpiries, hdetects.after (honly .flog (by decide)), hreset, .single fun k hk => (hrest k hk).trans (hothers k hk),
    ((honly.mono (by decide)).trans (hu.mono (by decide))).trans (hparts.mono (by decide))⟩

theorem setterProbeTimeout_second (hagain : x.probeExpiries ≠ 0) :
    ∃ t, exec (.setterProbeTimeout g) s = .next t ∧ (t.sagger g.val).st = .down ∧ (t.sagger g.val).stayDown = true ∧
      (t.sagger g.val).probeLost = none ∧ t.health = { s.health with pending := s.health.pending ++ [(388 + g.val / 8, g.val % 8)] } ∧
      Only [.mgmt, .regs, .freeCtr, .mem, .health, .flog, .saggers, .wheels, .wares, .ldus, .ssus, .hbmStacks, .glazes, .ports, .lat, .lute,
        .chans, .swaps] s t := by
  have hexec := exec_setterProbeTimeout_of_late hx hprobe hlate
  rw [if_neg hagain] at hexec
  obtain ⟨a, ha⟩ : ∃ a, a = s.probeExpired g.val := ⟨_, rfl⟩
  obtain ⟨b, hb⟩ : ∃ b, b = a.fault 3 0 0x38 g.val 12 0 := ⟨_, rfl⟩
  obtain ⟨c, hc⟩ : ∃ c, c = b.saggerDown g.val 0x3038 := ⟨_, rfl⟩
  rw [← ha, ← hb, ← hc] at hexec
  have hfault : Works false a b := hb ▸ Works.refl.fault
  obtain ⟨u, hu, heq⟩ := b.saggerDown_works (b := false) g.val 0x3038 fun h => nomatch h
  rw [← hc] at heq
  have hlost : (u.sagger g.val).probeLost = none := by
    have hkept : (u.sagger g.val).probeLost = (a.sagger g.val).probeLost := congrArg (·.2.2.1) ((hfault.trans hu).saggers g.val)
    rw [hkept, ha, State.probeExpired, State.onSagger_sagger, if_pos rfl]
  have hsagger : (c.sagger g.val) = (u.sagger g.val).inDown := by rw [heq, State.onSagger_sagger, if_pos rfl]
  have hcrest : c.rest = b.rest := hc ▸ b.rest_saggerDown g.val 0x3038
  have honly : Only workParts s c := by
    have ha' : Only workParts s a := ha ▸ (s.onSagger_only _ _).mono (by decide)
    have hb' : Only workParts a b := hb ▸ Only.mono State.fault_only (by decide)
    exact (ha'.trans hb').trans (.of_rest hcrest)
  refine ⟨_, hexec, ?_⟩
  rw [State.onHealth_sagger, State.onSagger_sagger, if_pos rfl, hsagger]
  refine ⟨rfl, rfl, hlost, ?_, ?_⟩
  · have hhealth : c.health = s.health := honly .health (by decide)
    rw [← hhealth]
    rfl
  · exact ((honly.mono (by decide)).trans ((State.onSagger_only _ _ _).mono (by decide))).trans ((State.onHealth_only _ _).mono (by decide))

end

/-! ## The statement -/

/-- Settles O58. -/
theorem saggersAreResetClearedAndProbed : Obligations.SaggersAreResetClearedAndProbed := by
  unfold Obligations.SaggersAreResetClearedAndProbed
  refine ⟨fun m s g cmd c hg hc ha => ?_, fun m s g hgm hg hnil hst => ⟨?_, ?_⟩, fun g s x hx => ⟨?_, fun hst hleft => ⟨?_, ?_, ?_⟩⟩,
    fun g fails s hst => ?_, fun g fails s hst => ?_, fun g answers s hup hnamed => ?_, fun g s x lost hx hprobe hlate hluted => ⟨?_, ?_⟩⟩
  · subst hg
    exact sagger_command_refuses hc ha
  · exact saggerReset_resets hgm hg hnil hst
  · exact saggerClear_clears hgm hnil hst
  · exact exec_clearComplete_of_waiting hx
  · exact clearComplete_waits hx hst hleft
  · exact clearComplete_fails hx hst hleft
  · exact clearComplete_builds hx hst hleft
  · exact saggerResetSequence_resets hst
  · exact exec_saggerResetSequence_of_not hst
  · exact setterProbe_waits hup hnamed
  · exact setterProbeTimeout_first hx hprobe hlate hluted
  · exact setterProbeTimeout_second hx hprobe hlate

end Sys2Proof.Machine
